-- ==== Sys2Proof/Word.lean ====
section
/-! DEFINITION. The words of the device: bytes, 32-bit registers (R13), 64-bit registers, and the exact
values that benches, planes and lathes compute with before a rounding (02_number_formats.md). -/

namespace Sys2Proof

abbrev Byte := BitVec 8
abbrev Word := BitVec 32
abbrev DWord := BitVec 64

/-- An exact value: what a code of J8, binary16, binary32 or W80 stands for, and what an exact sum or
product is before its rounding. `fin neg m e` is (−1)^neg × m × 2^e; a zero keeps its sign (R57). -/
inductive Val where
  | nan
  | inf (neg : Bool)
  | fin (neg : Bool) (m : Nat) (e : Int)
  deriving DecidableEq, Repr

/-- One accumulator entry: the exact sum of a W80 pair (R50), the special-value flags of R46 that are
ORed over a chain, and whether a bit has been lost (INEXACT of R47, R50). -/
structure Acc where
  v : Val
  nanSeen : Bool
  pinf : Bool
  ninf : Bool
  inexact : Bool
  deriving DecidableEq, Repr

/-- The origin of a command: the mailbox or the management port (R373). -/
inductive Origin where
  | mailbox
  | mgmt
  deriving DecidableEq, Repr

/-- A command as the command processor runs it (R372, R386): its origin, its tag and CMD_ARG0 to CMD_ARG3. -/
structure Cmd where
  origin : Origin
  seq : BitVec 16
  a0 : Word
  a1 : Word
  a2 : Word
  a3 : Word
  deriving DecidableEq, Repr

/-- The two image banks (R328). -/
inductive Bank where
  | a
  | b
  deriving DecidableEq, Repr

/-- The power states (R455), with codes 4 down to 0. -/
inductive PState where
  | off
  | deep
  | sleep
  | idle
  | run
  deriving DecidableEq, Repr

/-- The main rails, in the order of their ids (R465). -/
inductive Rail where
  | vcore
  | vsram
  | vserdes
  | vio
  | vdram
  deriving DecidableEq, Repr

end Sys2Proof
end

