-- ==== Sys2Proof/Syntax/Plane.lean ====
section
/-! DEFINITION. The operands of plane instructions (04_planes_and_lathes.md, R100). The spec gives no
binary encoding of a plane instruction, so an instruction is its named fields. -/

namespace Sys2Proof

/-- The arithmetic format of a plane instruction (R101). -/
inductive VFmt where
  | b32
  | b16
  deriving DecidableEq, Repr

inductive ArithOp where
  | add | sub | mul | fma | min | max | abs | neg
  deriving DecidableEq, Repr

/-- The twelve comparison predicates of IEEE 754 that CMP takes (R100): the last four are the unordered-or and not forms
(LessUnordered, NotGreater, GreaterUnordered, NotLess); `ord` is Ordered. No unit signals (R40), so the signaling forms
are the same predicates. -/
inductive CmpPred where
  | eq | ne | lt | le | gt | ge | unord | ord | ltUnord | ngt | gtUnord | nlt
  deriving DecidableEq, Repr

inductive MaskLogic where
  | and | or | xor | andn | not
  deriving DecidableEq, Repr

/-- A tensor as an instruction names it: its id, the store and byte address its element 0 lies at (the
image's placement; log entry 11), the logical index of lane 0 and the stride (R102). -/
structure TensorRef where
  tensor : BitVec 16
  stock : Bool
  base : Nat
  origin : Nat
  stride : Nat
  deriving DecidableEq, Repr

structure PArith where
  op : ArithOp
  fmt : VFmt
  dst : BitVec 8
  a : BitVec 8
  b : BitVec 8
  c : BitVec 8
  mask : Option (BitVec 3)
  deriving DecidableEq, Repr

/-- Compare and select (R100): CMP into a mask, SEL by a mask, mask logic. -/
inductive PCmp where
  | cmp (fmt : VFmt) (pred : CmpPred) (dst : BitVec 3) (a b : BitVec 8) (mask : Option (BitVec 3))
  | sel (fmt : VFmt) (sel : BitVec 3) (dst a b : BitVec 8) (mask : Option (BitVec 3))
  | logic (op : MaskLogic) (dst a b : BitVec 3)
  deriving DecidableEq, Repr

/-- Convert (R100): `half` names the half of the packed register that is read or written. -/
inductive PConv where
  | widenJ8 (goTo : VFmt) (dst a : BitVec 8) (half : Bool) (mask : Option (BitVec 3))
  | widenB16 (dst a : BitVec 8) (half : Bool) (mask : Option (BitVec 3))
  | narrow (dst a : BitVec 8) (half : Bool) (mask : Option (BitVec 3))
  deriving DecidableEq, Repr

/-- Scalar and control (R100): integer add, shift, compare; loop; branch. -/
inductive PScalar where
  | add (dst a b : BitVec 5)
  | shl (dst a b : BitVec 5)
  | shr (dst a b : BitVec 5)
  | cmp (pred : CmpPred) (dst a b : BitVec 5)
  | loop (count : BitVec 5) (target : Nat)
  | branch (cond : BitVec 5) (target : Nat)
  deriving DecidableEq, Repr

structure PMem where
  fmt : VFmt
  reg : BitVec 8
  ref : TensorRef
  mask : Option (BitVec 3)
  deriving DecidableEq, Repr

/-- Gather and scatter: `idx` is the register, or the first of the pair, that holds the indices (R99). -/
structure PIndexed where
  fmt : VFmt
  reg : BitVec 8
  idx : BitVec 8
  ref : TensorRef
  mask : Option (BitVec 3)
  deriving DecidableEq, Repr

inductive ReduceTerm where
  | sum | dot | sumsq
  deriving DecidableEq, Repr

structure PReduce where
  fmt : VFmt
  acc : BitVec 3
  term : ReduceTerm
  across : Bool
  init : Bool
  a : BitVec 8
  b : BitVec 8
  mask : Option (BitVec 3)
  deriving DecidableEq, Repr

/-- An accumulator read (R105): into a register, or at full width to the output conversion of a tensor. -/
inductive PAccRead where
  | toReg (fmt : VFmt) (acc : BitVec 3) (dst : BitVec 8)
  | toTensor (acc : BitVec 3) (ref : TensorRef) (lanes : Nat)
  deriving DecidableEq, Repr

/-- The lathe function table (R110). -/
inductive LatheFn where
  | exp | exp2 | log | log2 | sqrt | rsqrt | recip | tanh | erf | sigmoid | sin | cos
  | siluMul | sigmoidMul | geluMul
  deriving DecidableEq, Repr

structure PLathe where
  fn : LatheFn
  fmt : VFmt
  dst : BitVec 8
  a : BitVec 8
  u : BitVec 8
  mask : Option (BitVec 3)
  deriving DecidableEq, Repr

/-- A yes/no mask instruction (R213) with its 17-bit probability field. -/
structure PMask where
  p : BitVec 17
  tensor : BitVec 16
  origin : Nat
  purpose : BitVec 8
  dst : BitVec 3
  deriving DecidableEq, Repr

/-- A raw word or uniform instruction (R214). -/
structure PDraw where
  tensor : BitVec 16
  origin : Nat
  purpose : BitVec 8
  dst : BitVec 8
  mask : Option (BitVec 3)
  deriving DecidableEq, Repr

/-- A SIGNAL: the token and what it marks it (R106). -/
structure PSlot where
  slot : BitVec 8
  full : Bool
  deriving DecidableEq, Repr

/-- A softmax row (R117): the tensor it is read from in ascending logical index, its mask (one entry per element,
true: unmasked), the output tensor and the row-status tensor. -/
structure PSoftmax where
  fmt : VFmt
  src : TensorRef
  live : List Bool
  out : TensorRef
  status : Option TensorRef
  deriving DecidableEq, Repr

/-- The exchange that takes a module's totals (R122, R307): the tensor, whether the group shares t and p, and the slot that
the results return by. -/
structure NormReq where
  tensor : BitVec 16
  byT : Bool
  byP : Bool
  slot : BitVec 8
  deriving DecidableEq, Repr

/-- What becomes of a combination (R122): it is kept for the next shard, it is the total of a feature, or it is the total
of the last feature and the module's totals enter the exchange. -/
inductive PNorm where
  | keep
  | feature
  | exchange (r : NormReq)
  deriving DecidableEq, Repr

/-- Statistics of a shard (R121): the tensor and how many elements from its origin on. -/
structure PStats where
  src : TensorRef
  n : Nat
  deriving DecidableEq, Repr

/-- One instruction of a microprogram, as the PLANE_PROG section holds it. -/
inductive PlaneOp where
  | arith (i : PArith)
  | cmp (i : PCmp)
  | conv (i : PConv)
  | scalar (i : PScalar)
  | load (i : PMem)
  | store (i : PMem)
  | gather (i : PIndexed)
  | scatter (i : PIndexed)
  | scatterAdd (i : PIndexed)
  | reduce (i : PReduce)
  | accRead (i : PAccRead)
  | lathe (i : PLathe)
  | mask (i : PMask)
  | rawWord (i : PDraw)
  | uniform (i : PDraw)
  | wait (slot : BitVec 8)
  | signal (i : PSlot)
  | softmax (i : PSoftmax)
  | normStats (i : PStats)
  | normCombine (i : PNorm)
  deriving DecidableEq, Repr

end Sys2Proof
end

