-- ==== Sys2Proof/Syntax/Image.lean ====
section
/-! DEFINITION. The content of an Edoune image (11_image_and_boot.md, R319 to R322), as parse finds it.
Records whose bit layout the spec gives (pass descriptors R67, copy descriptors R239, schedule entries
R170, job table entries R322, sensor words R445) are held as their words; the sections whose byte layout
the spec does not give are held as named fields (log entry 10). -/

namespace Sys2Proof

/-- A 32-byte descriptor: eight little-endian words. -/
structure Desc8 where
  w0 : Word
  w1 : Word
  w2 : Word
  w3 : Word
  w4 : Word
  w5 : Word
  w6 : Word
  w7 : Word
  deriving DecidableEq, Repr

/-- A tensor's role, which fixes its stockroom class (R225) and its training behaviour (R133). -/
inductive Role where
  | weightRO | veneerW | veneerM | veneerV | grad | act | input | expert
  deriving DecidableEq, Repr

/-- How packed weights expand (R43). -/
structure Inlay where
  lut : Bool
  int8 : Bool
  signed : Bool
  toB16 : Bool
  entries : List (BitVec 16)
  deriving DecidableEq, Repr

/-- One entry of the tensor table: format, role, conversion descriptor (R54), scale fields (R140), and
the training fields (R144, R303). -/
structure Tensor where
  id : BitVec 16
  job : Nat
  role : Role
  veneer : BitVec 16
  elements : Nat
  cols : Nat
  fmt : BitVec 2
  rmode : Bool
  sat : Bool
  scaleK : BitVec 8
  biasEn : Bool
  biasHandle : BitVec 16
  clampEn : Bool
  clampLo : Word
  clampHi : Word
  autoScale : Bool
  kLo : Int
  kHi : Int
  kInit : Int
  hist : Nat
  margin : Nat
  inputs : List (BitVec 16)
  comp : Bool
  ovfAlert : Nat
  keyId : Option (BitVec 2)
  spillable : Bool
  inlay : Option Inlay
  deriving DecidableEq, Repr

/-- One entry of the job table (R322). -/
structure JobEntry where
  kind : Byte
  flags : Byte
  sched : Nat
  latBound : Word
  seed : DWord
  trigger : DWord
  reserved : BitVec 64
  deriving DecidableEq, Repr

/-- A bench stage program (R67) with the tensors that each pass takes its weights and its activations from (R36), and the
plane programs and copy lists that belong to it (R238). -/
structure StageProg where
  bench : Nat
  passes : List Desc8
  wTensors : List (BitVec 16)
  aTensors : List (BitVec 16)
  planeProgs : List Nat
  copyLists : List Nat
  deriving DecidableEq, Repr

/-- The parameters of R149. -/
inductive ParamName where
  | lr | beta1 | beta2 | eps | wd | mu
  deriving DecidableEq, Repr

/-- What the sequencer places in a scalar register that a microprogram names (R138, R149, R150): a tensor's k or k_prev, a
parameter of a veneer, its f, its lr_s, or its bias correction. -/
inductive SReg where
  | k (t : BitVec 16)
  | kPrev (t : BitVec 16)
  | param (t : BitVec 16) (n : ParamName)
  | factor (t : BitVec 16)
  | lrS (t : BitVec 16)
  | corr1 (t : BitVec 16)
  | corr2 (t : BitVec 16)
  deriving DecidableEq, Repr

/-- A microprogram: the plane it names, whether it is an initialisation microprogram (R210), the scalar registers it names
with what they take, and its instructions. -/
structure PlaneProg where
  group : Nat
  plane : Nat
  init : Bool
  sregs : List (BitVec 5 × SReg)
  ops : List PlaneOp
  deriving DecidableEq, Repr

structure SchedEntry where
  w0 : Word
  w1 : Word
  deriving DecidableEq, Repr

/-- A schedule table (R170): its header and an ordered list for each bench it uses. -/
structure Schedule where
  p : Nat
  v : Nat
  m : Nat
  lists : List (Nat × List SchedEntry)
  deriving DecidableEq, Repr

/-- An expert layer (R308). -/
structure ExpertLayer where
  tensor : BitVec 16
  experts : Nat
  topk : Nat
  cap : Nat
  deriving DecidableEq, Repr

/-- The axes of one job (R176) and its expert layers. -/
structure Mesh where
  tF : Nat
  pF : Nat
  tL : Nat
  pL : Nat
  dFabric : Bool
  rho : Nat
  links : List Nat
  experts : List ExpertLayer
  deriving DecidableEq, Repr

/-- The built-in optimizers, or a microprogram that the image names (R149). -/
inductive Optimizer where
  | adamw | sgdm
  | own (prog : Nat)
  deriving DecidableEq, Repr

/-- The parameters of one veneer tensor (R149); `none` is a parameter the section leaves out. -/
structure Params where
  tensor : BitVec 16
  lr : Option Word
  beta1 : Option Word
  beta2 : Option Word
  eps : Option Word
  wd : Option Word
  mu : Option Word
  clip : Option Word
  deriving DecidableEq, Repr

/-- The TRAIN section's entry of one job. -/
structure Train where
  opt : Optimizer
  lrSchedule : List (Nat × Word)
  params : List Params
  skipTensor : Bool
  gradMean : Bool
  retryLimit : Nat
  deriving DecidableEq, Repr

/-- The SENSORS section's entry of one port: configuration word (R445), window entry (R432), and the tensor id
that the image names the ring by. -/
structure SensorCfg where
  port : Nat
  ring : BitVec 16
  word : Word
  winNs : Nat
  contiguous : Bool
  deriving DecidableEq, Repr

structure PurposeDecl where
  code : Byte
  wide : Bool
  deriving DecidableEq, Repr

/-- One entry of the section table (R321). -/
structure SectionEntry where
  type : BitVec 16
  reserved : BitVec 16
  offset : Word
  length : Word
  deriving DecidableEq, Repr

/-- The content of the sections of an image, and its section table. -/
structure ImageBody where
  table : List SectionEntry
  jobs : List JobEntry
  tensors : List Tensor
  benchProgs : List StageProg
  planeProgs : List PlaneProg
  ftz : List (Option Word)
  copies : List (List Desc8)
  schedules : List Schedule
  meshes : List Mesh
  trains : List Train
  sensors : List SensorCfg
  randoms : List PurposeDecl
  deriving DecidableEq, Repr

/-- The image in force: the header fields that act after parse (R320) and the sections. -/
structure Image where
  imageId : DWord
  svn : BitVec 16
  det : Bool
  record : Bool
  reqCaps : Word
  signer : BitVec 384
  body : ImageBody
  deriving DecidableEq, Repr

end Sys2Proof
end

