-- ==== Sys2Proof/Syntax/Message.lean ====
section
/-! DEFINITION. What travels on the Zwirvo links (09_zwirvo_links.md, 10_collectives.md): message
headers with their bit layouts, and the payload of each kind as named fields. -/

namespace Sys2Proof

/-- The message header of R257, with the virtual lane it travels on. -/
structure MsgHdr where
  dst : BitVec 16
  src : BitVec 16
  epoch : Word
  kind : Byte
  hops : Byte
  arg : BitVec 16
  length : Word
  vl : BitVec 2
  deriving DecidableEq, Repr

/-- The collective header of R297. -/
structure ColHdr where
  tensor : BitVec 16
  job : Byte
  flags : Byte
  step : Word
  offset : BitVec 40
  count : BitVec 24
  deriving DecidableEq, Repr

/-- One member of a workshop under an epoch (R177, R178, R279): rank, SERIAL, CLAIM and the mask of
fabric jobs (by job index) it takes part in. -/
structure Member where
  rank : Nat
  serial : DWord
  claim : Nat
  jobs : BitVec 16
  deriving DecidableEq, Repr

/-- One link of the workshop: the ranks and link indexes of its two ends (R275, R279). -/
structure Adj where
  rankA : Nat
  linkA : Nat
  rankB : Nat
  linkB : Nat
  deriving DecidableEq, Repr

/-- An arrival that a PROPOSE carries (R279). -/
structure Arrival where
  serial : DWord
  claim : Nat
  jobs : BitVec 16
  deriving DecidableEq, Repr

/-- A change of job participation (R282): the member, the job index, and whether it joins. -/
structure Change where
  rank : Nat
  job : Nat
  joins : Bool
  deriving DecidableEq, Repr

/-- The content of PROPOSE (R279). -/
structure Proposal where
  epoch : Word
  departed : List Nat
  arrivals : List Arrival
  changes : List Change
  /-- The membership it changes, from which an arrival derives the new ranks too (log entry 66). -/
  old : List Member
  deriving DecidableEq, Repr

/-- The content of ENACT (R279): the adjacency and, for each member, its mask of fabric jobs. -/
structure Enactment where
  epoch : Word
  wsId : DWord
  members : List Member
  adjacency : List Adj
  deriving DecidableEq, Repr

/-- The content of a JOIN (R277, R281). -/
structure JoinReq where
  serial : DWord
  claim : Nat
  imageId : DWord
  jobs : BitVec 16
  deriving DecidableEq, Repr

/-- The HELLO message (R266), with the verdicts that only cryptography gives (log entry 7). -/
structure Hello where
  version : Byte
  peerSeen : Bool
  keysOn : Bool
  holding : Bool
  reservedZero : Bool
  claim : Nat
  epoch : Word
  serial : DWord
  imageId : DWord
  wsId : DWord
  members : Nat
  link : BitVec 3
  nonce : BitVec 256
  ephPub : List Byte
  chainOk : Bool
  sigOk : Bool
  deriving DecidableEq, Repr

/-- REKEY of a LINK flit (R256). -/
inductive Rekey where
  | none
  | offer (gen : Word) (ephPub : List Byte) (sigOk : Bool)
  | switch (gen : Word) (at_ : DWord)
  deriving DecidableEq, Repr

/-- The body of a LINK flit (R256). -/
structure LinkBody where
  ack : BitVec 12
  nak : Bool
  cred : List (BitVec 16)
  quiesce : Bool
  switchAck : Bool
  rekey : Rekey
  reservedZero : Bool
  deriving DecidableEq, Repr

/-- What the receiver learns of a received flit before it reads its body (R255, R263): header
fields, uncorrectable codewords it overlaps and whether the flit before it overlaps the first of them too, corrected
symbols, and whether its tag passes. -/
structure FlitRx where
  enc : Bool
  hdrReservedZero : Bool
  uncorr : Nat
  shared : Bool
  corr : Nat
  tagOk : Bool
  deriving DecidableEq, Repr

/-- A received flit of TYPE LINK or DATA (R254). A DATA flit names its SEQ, RETX, its virtual lane; the
message it belongs to is delivered by the message's own command. -/
inductive Flit where
  | link (rx : FlitRx) (body : LinkBody)
  | data (rx : FlitRx) (seq : BitVec 12) (retx : Bool) (vl : BitVec 2)
  deriving DecidableEq, Repr

/-- The content of a key store version (R408): SHA-384 of SIGNER0 to SIGNER3 (zero: none), and SNAP_KEY. -/
structure KsContent where
  signers : List (BitVec 384)
  snapKey : BitVec 256
  deriving DecidableEq, Repr, Inhabited

/-- The header of a snapshot part (R185). -/
structure PartHdr where
  part : BitVec 16
  parts : BitVec 16
  step : DWord
  epoch : Word
  job : Byte
  flags : Byte
  imageId : DWord
  seed : DWord
  length : DWord
  deriving DecidableEq, Repr

/-- The state of one tensor in a snapshot part (R185): the current buffer of the owned shard of a W, M or V and the
element it starts at, bias correction, k, k_prev and amax history. -/
structure PartTensor where
  tensor : BitVec 16
  first : Nat
  data : List Byte
  bc1 : Word
  bc2 : Word
  k : Int
  kPrev : Int
  hist : List Val
  deriving DecidableEq, Repr

structure Part where
  hdr : PartHdr
  tensors : List PartTensor
  deriving DecidableEq, Repr

/-- What STATE_DATA carries of a tensor beside its elements (R181): step counter, seed, bias correction, scales and
history. The spec gives their layout no place, so they are named fields (log entry 31). -/
structure StateRec where
  step : Nat
  seed : DWord
  bc1 : Word
  bc2 : Word
  k : Int
  kPrev : Int
  hist : List Val
  deriving DecidableEq, Repr

/-- An expert entry (R309): global token index, choice, DROPPED and the token vector. -/
structure ExpEntry where
  token : BitVec 48
  choice : Bool
  dropped : Bool
  vec : List Word
  deriving DecidableEq, Repr


structure TallyEnd where
  w2 : Val
  dw2 : Val
  amax : Word
  ovf : Word
  nan : Word
  unf : Word
  deriving DecidableEq, Repr

/-- A tally record as it travels (R306): W80 values in 16 bytes, in the layout of R50. -/
inductive Tally where
  | g (g2 : BitVec 128)
  | fin (w2 dw2 : BitVec 128) (amax ovf nan unf : Word)
  deriving DecidableEq, Repr

/-- One feature of a NORM message (R307): n, mean and M2, the last two W80 values in 16 bytes. -/
structure NormWire where
  n : DWord
  mean : BitVec 128
  m2 : BitVec 128
  deriving DecidableEq, Repr

/-- Normalisation statistics (R121): count, mean and second moment, the last two W80 values. -/
structure NormStat where
  n : Nat
  mean : Val
  m2 : Val
  deriving DecidableEq, Repr

/-- The outcome of a replay (R191): MATCH, or the first tensor, the lowest rank and the kind. -/
structure ReplayOutcome where
  aborted : Bool
  matched : Bool
  tensor : BitVec 16
  rank : BitVec 16
  gauge : Bool
  deriving DecidableEq, Repr

/-- A peer copy as PEER_REQ names it (R311). -/
structure PeerExtent where
  handle : BitVec 16
  off : Nat
  rowUnits : Nat
  rows : Nat
  pitch : Nat
  slotBench : BitVec 2
  slot : BitVec 8
  deriving DecidableEq, Repr

/-- The payload of a message by kind (R258, R296), as this module sends it. -/
inductive Payload where
  | empty
  | step (job : Nat) (step : Nat)
  | adj (l : Adj)
  | join (j : JoinReq)
  | propose (p : Proposal)
  | accept (epoch : Word) (view : List Member)
  | enact (e : Enactment)
  | last (query : Bool) (job : Nat) (step : Nat) (committed : Bool)
  | time (t1 t2 t3 t4 : DWord)
  | job (job : Nat)
  | jobAt (job : Nat) (step : Nat)
  | replay (job : Nat) (o : ReplayOutcome)
  | offer (job : Nat) (hdrs : List PartHdr)
  | offerAnswer (job : Nat) (ok : Bool) (step : DWord) (parts : Nat) (holders : List (Nat × Nat))
  | dissolve (wsId : DWord)
  | words (h : ColHdr) (xs : List Word)
  | bytes (h : ColHdr) (xs : List Byte)
  | tally (h : ColHdr) (t : Tally)
  | norm (h : ColHdr) (xs : List NormWire)
  | peerReq (h : ColHdr) (x : PeerExtent)
  | peerData (h : ColHdr) (row : Nat) (last : Bool) (xs : List Byte)
  | col (h : ColHdr)
  | experts (h : ColHdr) (xs : List ExpEntry)
  | state (h : ColHdr) (xs : List Byte) (r : StateRec)
  deriving DecidableEq, Repr

/-- A message this module hands to its links: the header's fields (R257) and the payload. -/
structure Sent where
  dst : BitVec 16
  src : BitVec 16
  kind : Byte
  arg : BitVec 16
  epoch : Word
  hops : Byte
  payload : Payload
  deriving DecidableEq, Repr

end Sys2Proof
end

