-- ==== Sys2Proof/Syntax.lean ====
section
/-! DEFINITION. The commands of the block: one constructor of `Instr` per row of spec/opcode_table.json,
in the table's order, with the operands the spec gives the row. What only the outside can supply (data in
host memory, verdicts of signature checks, measured cycles, die readings) is an operand. -/

namespace Sys2Proof

/-- What the checks of IMAGE_COMMIT find (R332, R347, R411): the first block that fails a margin read, and whether
the signature verifies. -/
structure CommitVerdict where
  margin : Option Nat
  sigOk : Bool
  deriving DecidableEq, Repr

/-- What reads of one flash block found (R348, R350): corrected bits in all, the most in one code word, and
uncorrectable words. -/
structure FlashRead where
  block : Nat
  bits : Nat
  worst : Nat
  uncorr : Nat
  deriving DecidableEq, Repr

/-- The request that ATTEST reads from its buffer (R399). -/
structure AttestReq where
  accessible : Bool
  challenge : BitVec 384
  hostPub : BitVec 776
  deriving DecidableEq, Repr

/-- A firmware copy (R397): header fields and the verdict on its signature. -/
structure FwCopy where
  svn : BitVec 16
  version : Word
  length : Word
  sigOk : Bool
  deriving DecidableEq, Repr

/-- A TLS handshake on the management port (R385): what the client's certificate is. -/
inductive Client where
  | bad
  | selfSigned
  | operator (serial : DWord)
  deriving DecidableEq, Repr

/-- A memory error that an access meets (R220, R223, R224): corrected words or blocks, and the lowest
uncorrectable one, by byte address. -/
structure Ecc where
  corr : Nat
  uncorr : Option Nat
  deriving DecidableEq, Repr

/-- Memory errors that reads of drawer tensors meet (R223, R224): corrected blocks, and the lowest uncorrectable one, as
handle and byte offset. -/
structure DrawerEcc where
  corr : Nat
  uncorr : Option (BitVec 16 × Nat)
  deriving DecidableEq, Repr

/-- What the host returns for a spill slot (R236): the 64 KiB of ciphertext, and TAG. -/
structure SpillRead where
  data : List Byte
  tag : List Byte
  deriving DecidableEq, Repr

/-- Where a gradient partial is complete (R135): the stock store or a bench's, and its byte address. -/
structure PartialAt where
  stock : Bool
  bench : Fin 4
  addr : Nat
  deriving DecidableEq, Repr

/-- Cycles measured while a bench step ran (R80, R89; log entry 16). -/
structure BenchCycles where
  busy : Nat
  feed : Nat
  drain : Nat
  wload : Nat
  wait : Nat
  deriving DecidableEq, Repr

/-- What a patrol scrub read found in the block at a byte offset of a handle (R223, R224). -/
inductive ScrubFind where
  | clean
  | corrected
  | uncorrectable
  deriving DecidableEq, Repr

/-- The fields of a RESTORE_OFFER message (R188): an offer of headers, or the coordinator's answer. -/
inductive RestoreMsg where
  | offer (hdrs : List PartHdr)
  | answer (ok : Bool) (step : DWord) (parts : Nat) (holders : List (Nat × Nat))
  deriving DecidableEq, Repr

/-- USER_FILE: a read, or a write of bytes at an offset (R387, R341). -/
inductive UserOp where
  | read (off len : Nat)
  | write (off : Nat) (data : List Byte)
  deriving DecidableEq, Repr

/-- The commands. -/
inductive Instr where
  -- host interface and mailbox commands
  | cmdDoorbell (seq : BitVec 16)
  | hifResAck (seq : BitVec 16) (final : Bool)
  | unknownOpcode (c : Cmd) (op : Byte)
  | setPower (c : Cmd)
  | setPerf (c : Cmd)
  | imageOpen (c : Cmd)
  | imageWrite (c : Cmd) (m : List Byte)
  | imageCommit (c : Cmd) (v : CommitVerdict)
  | imageSelect (c : Cmd)
  | jobStart (c : Cmd)
  | jobStartRestore (c : Cmd) (parts : List Part) (ok : Bool)
  | jobStop (c : Cmd)
  | snapshot (c : Cmd)
  | replay (c : Cmd)
  | selftest (c : Cmd)
  | retrain (c : Cmd)
  | attest (c : Cmd) (r : AttestReq)
  | keyRelease (c : Cmd) (blob : Option (List Byte))
  | containerChunk (key : Fin 4) (bytes : List Byte)
  | keyUpdate (c : Cmd) (m : List Byte) (authOk : Bool)
  | tenantEnd (c : Cmd) (ms : Word)
  | flashUnlock (c : Cmd)
  | flashLockClose (c : Cmd)
  | flashLockSetPasswordLocked (c : Cmd)
  | flashLockSetPermanent (c : Cmd)
  | flashLockSetUnlocked (c : Cmd)
  | flashLockSetPassword (c : Cmd)
  | perstN
  -- management port
  | mgmtSessionOpen (who : Client)
  | mgmtSessionIdleTimeout
  | mgmtSessionClose
  | telemetryStream (c : Cmd)
  | logRead (c : Cmd)
  | debugOpen (c : Cmd)
  | debugClose (c : Cmd)
  | fwUpdate (c : Cmd) (f : FwCopy) (data : List Byte)
  | credUpdate (c : Cmd) (root : DWord) (data : List Byte)
  | certUpdate (c : Cmd) (serial : DWord) (data : List Byte)
  | commission (c : Cmd) (claim : BitVec 10) (ports : Word) (data : List Byte)
  | userFile (c : Cmd) (region : Fin 4) (op : UserOp)
  | rngCapture (c : Cmd)
  | keyProvision (c : Cmd) (data : List Byte)
  -- sideband
  | powerSet (data : Byte) (pecOk : Bool)
  | powerGet
  | wakeCause
  | ident
  -- pins, rails, temperature
  | wakeN
  | modRstN
  | supply12vLoss
  | supply12vApplied
  | aonPor
  | railFault (r : Rail)
  | railPowerGood (r : Rail)
  | railStepTimeout
  | quiesceTimeout
  | thermalSample (t : BitVec 8)
  | throttleRelax
  | thermalShutdown (t : BitVec 8)
  | thermalWakeHoldEnd
  | watchdogExpiry
  | mgmtCoreResume
  -- boot
  | imageVerifyDone (sigOk : Bool) (reads : List FlashRead) (ksWeak : Bool)
  | trainingDone
  | parseComplete (body : ImageBody) (ms : Word)
  | bootTimeout
  -- noise source
  | rngWindowDone
  | rngRctFail
  | rngAptFail
  | rngRequestServed
  -- benches
  | benchPass (b : Fin 4)
  | benchWeightLoad (b : Fin 4) (cy : BenchCycles) (ecc : Ecc)
  | benchActivationRead (b : Fin 4) (cy : BenchCycles) (ecc : Ecc)
  | benchOutputWrite (b : Fin 4) (cy : BenchCycles)
  | bncWaitTimeout (b : Fin 4)
  | benchSelftestDone (b : Fin 4) (ok : Bool)
  | bncCfgWrite (b : Fin 4) (v : Word)
  -- planes and lathes
  | planeArith (p : Fin 16) (i : PArith)
  | planeCmpSelect (p : Fin 16) (i : PCmp)
  | planeConvert (p : Fin 16) (i : PConv)
  | planeScalar (p : Fin 16) (i : PScalar)
  | planeLoad (p : Fin 16) (i : PMem) (ecc : Ecc)
  | planeStore (p : Fin 16) (i : PMem)
  | planeGather (p : Fin 16) (i : PIndexed) (ecc : Ecc)
  | planeScatter (p : Fin 16) (i : PIndexed)
  | scatterAdd (p : Fin 16) (i : PIndexed) (ecc : Ecc)
  | planeReduce (p : Fin 16) (i : PReduce)
  | accRead (p : Fin 16) (i : PAccRead)
  | latheRequest (p : Fin 16) (i : PLathe)
  | latheGrant (l : Fin 4)
  | mask (p : Fin 16) (i : PMask)
  | rawWord (p : Fin 16) (i : PDraw)
  | uniform (p : Fin 16) (i : PDraw)
  | planeWait (p : Fin 16) (slot : BitVec 8)
  | planeSignal (p : Fin 16) (i : PSlot)
  | plnWaitTimeout (p : Fin 16)
  | softmax (p : Fin 16) (i : PSoftmax) (ecc : Ecc)
  | normStats (p : Fin 16) (i : PStats) (ecc : Ecc)
  | normCombine (p : Fin 16) (a b : Fin 16) (i : PNorm)
  | plnCfgWrite (p : Fin 16) (v : Word)
  | planeSelftestDone (p : Fin 16) (ok : Bool)
  | latheSelftestDone (l : Fin 4) (ok : Bool)
  -- jobs, steps, training
  | jobHoldRelease (j : Fin 4)
  | stepStart (j : Fin 4) (samples : Nat)
  | scheduleEntryStart (b : Fin 4)
  | inferenceTriggerPeriod (j : Fin 4)
  | inferenceTriggerRing (j : Fin 4)
  | inferenceRequestDeferredStart (j : Fin 4)
  | gradPartialAdd (j : Fin 4) (t : BitVec 16) (mb : Nat) (at_ : PartialAt) (ecc : DrawerEcc)
  | glueEnter (j : Fin 4) (t : BitVec 16) (ecc : DrawerEcc)
  | clampFactor (j : Fin 4) (t : BitVec 16)
  | optimizerAdamw (j : Fin 4) (t : BitVec 16) (ecc : DrawerEcc)
  | optimizerSgdm (j : Fin 4) (t : BitVec 16) (ecc : DrawerEcc)
  | optimizerReaderWaitEnd (j : Fin 4) (cycles : Nat)
  | readySend (j : Fin 4)
  | ready (l : Fin 8) (h : MsgHdr) (job step : Nat)
  | commit (l : Fin 8) (h : MsgHdr) (job step : Nat)
  | snapshotStagingDone (j : Fin 4) (ecc : DrawerEcc)
  | snapshotExportDone (j : Fin 4) (ok : Bool) (ecc : DrawerEcc)
  | trnTelConfigWrite (size : Bool) (v : DWord)
  | trnTelRdWrite (v : Word)
  | trnStatFlagsClear (v : Word)
  -- membership
  | heartbeat (l : Fin 8) (h : MsgHdr)
  | beat (l : Fin 8) (h : MsgHdr)
  | heartbeatDue
  | beatDue
  | heartbeatMissed (rank : Nat)
  | beatMissed
  | quiesceLimitExpiry (rank : Nat)
  | acceptTimeout (rank : Nat)
  | stop (l : Fin 8) (h : MsgHdr) (job step : Nat)
  | abort (l : Fin 8) (h : MsgHdr) (job step : Nat)
  | linkUp (l : Fin 8) (h : MsgHdr) (x : Adj)
  | linkDown (l : Fin 8) (h : MsgHdr) (x : Adj)
  | join (l : Fin 8) (h : MsgHdr) (r : JoinReq)
  | joinRefused (l : Fin 8) (h : MsgHdr)
  | joinRepeat
  | formWaitExpiry (reach : List Arrival)
  | propose (l : Fin 8) (h : MsgHdr) (p : Proposal)
  | accept (l : Fin 8) (h : MsgHdr) (epoch : Word) (view : List Member)
  | enact (l : Fin 8) (h : MsgHdr) (e : Enactment)
  | leave (l : Fin 8) (h : MsgHdr)
  | lastCommitted (l : Fin 8) (h : MsgHdr) (query : Bool) (job step : Nat) (committed : Bool)
  | snapReq (l : Fin 8) (h : MsgHdr) (job : Nat) (named : Option Nat)
  | time (l : Fin 8) (h : MsgHdr) (t1 t2 t3 t4 : DWord)
  | timeExchangeDue
  | retrainNote (l : Fin 8) (h : MsgHdr)
  | dissolve (l : Fin 8) (h : MsgHdr) (wsId : DWord)
  | replayReq (l : Fin 8) (h : MsgHdr) (job : Nat) (named : Option Nat)
  | replayResult (l : Fin 8) (h : MsgHdr) (job : Nat) (o : ReplayOutcome)
  | restoreOffer (l : Fin 8) (h : MsgHdr) (job : Nat) (m : RestoreMsg)
  | messageForward (l : Fin 8) (h : MsgHdr) (p : Payload)
  -- links
  | signalDetect (l : Fin 8)
  | trainTimeout (l : Fin 8)
  | trainRetryDue (l : Fin 8)
  | hello (l : Fin 8) (m : Hello)
  | helloResendDue (l : Fin 8)
  | helloTimeout (l : Fin 8)
  | keysOnTimeout (l : Fin 8)
  | notAdmittedHelloDue (l : Fin 8)
  | linkFlit (l : Fin 8) (f : Flit)
  | quiesceFlit (l : Fin 8) (rx : FlitRx) (b : LinkBody)
  | linkFlitDue (l : Fin 8)
  | retxTimeout (l : Fin 8)
  | tagFailLimit (l : Fin 8)
  | los (l : Fin 8)
  | rekeyStart (l : Fin 8)
  | keySwitch (l : Fin 8) (tx : Bool)
  | rekeyRetryDue (l : Fin 8)
  | rekeyLate (l : Fin 8)
  | linkExhausted (l : Fin 8)
  | fecErrorBurst (l : Fin 8) (uncorr corr : Nat)
  | linkMarginLow (l : Fin 8) (vMin hMin : Byte) (lane : BitVec 2)
  | linkRetrainDone (l : Fin 8)
  | linkRetrainTimeout (l : Fin 8)
  | fabDisable (l : Fin 8) (on : Bool)
  | fabRestart (l : Fin 8)
  | sendWake (l : Fin 8)
  | retrainReq (l : Fin 8)
  | wakePattern (l : Fin 8)
  | fabWsCfgWrite (v : Word)
  -- collectives
  | glue (l : Fin 8) (h : MsgHdr) (ch : ColHdr) (xs : List Word) (ecc : DrawerEcc)
  | glueOut (l : Fin 8) (h : MsgHdr) (ch : ColHdr) (xs : List Word)
  | glueDirect (l : Fin 8) (h : MsgHdr) (ch : ColHdr) (xs : List Word)
  | gather (l : Fin 8) (h : MsgHdr) (ch : ColHdr) (xs : List Byte)
  | tally (l : Fin 8) (h : MsgHdr) (ch : ColHdr) (t : Tally)
  | norm (l : Fin 8) (h : MsgHdr) (ch : ColHdr) (xs : List NormWire)
  | peerReq (l : Fin 8) (h : MsgHdr) (ch : ColHdr) (x : PeerExtent)
  | peerGrant (l : Fin 8) (h : MsgHdr) (ch : ColHdr)
  | peerData (l : Fin 8) (h : MsgHdr) (ch : ColHdr) (row : Nat) (last : Bool) (xs : List Byte)
  | peerDone (l : Fin 8) (h : MsgHdr) (ch : ColHdr)
  | expDispatch (l : Fin 8) (h : MsgHdr) (ch : ColHdr) (xs : List ExpEntry)
  | expReturn (l : Fin 8) (h : MsgHdr) (ch : ColHdr) (xs : List ExpEntry)
  | stateReq (l : Fin 8) (h : MsgHdr) (ch : ColHdr) (ecc : DrawerEcc)
  | stateData (l : Fin 8) (h : MsgHdr) (ch : ColHdr) (xs : List Byte) (r : StateRec)
  | colTimeout (j : Fin 4) (t : BitVec 16) (rank : Nat)
  | colCfgWrite (v : Word)
  -- copies, stockroom, drawers
  | copy (e : Fin 8) (ecc : Ecc)
  | copySignal (e : Fin 8)
  | ringWindow (e : Fin 8) (ecc : Ecc)
  | copyFree (e : Fin 8)
  | stkWaitTimeout (e : Fin 8)
  | pageOut (h : BitVec 16) (frame : Nat)
  | pageIn (h : BitVec 16) (frame : Nat) (r : SpillRead)
  | spillTimeout (h : BitVec 16) (frame : Nat)
  | patrolScrub (h : BitVec 16) (block : Nat) (found : ScrubFind)
  | imbalanceWindow
  | dramCorrBurst (d : Fin 4)
  | dramMarginLow (d : Fin 4)
  | dramRetrainDone (d : Fin 4) (ok : Bool)
  | stkCfgWrite (v : Word)
  | stkSpillWrite (slots : Bool) (v : DWord)
  -- flash
  | flashQueueIssue
  | flashProgramDone (ok : Bool) (marginOk : Bool)
  | flashEraseDone (ok : Bool) (marginOk : Bool)
  -- sensors, timekeeper, comparators
  | frameSync (p : Fin 24) (partialWord : Bool)
  | sensorWord (p : Fin 24) (w : Word)
  | ringEntryWrite (p : Fin 24)
  | snsClkLoss (p : Fin 24)
  | ppsEdge
  | tkHoldover
  | cmpTrip (n : Fin 4)
  | cmpRelease (n : Fin 4)
  | aonTimerFire
  | aonTimerWrite (v : DWord)
  | aonAlarmClear (v : Word)
  | pwrWakeCauseClear (v : Word)
  | peakClr
  | ephemeralKeyExpiry (reportId : DWord)
  -- events and registers
  | evtRecordFile
  | evtRingConfigWrite (size : Bool) (v : DWord)
  | evtRingRdWrite (v : Word)
  | registerWrite (off : BitVec 24) (wide : Bool) (v : DWord)
  | flitAlignment (l : Fin 8)
  | pcieLinkUp (width speed : Nat)
  | msixUnmask (v : Fin 4)
  | clkPresent (p : Fin 24)
  | jtagRecoveryLoad (f : FwCopy)
  deriving DecidableEq, Repr

end Sys2Proof
end

