-- ==== Sys2Proof/WellFormed.lean ====
section
/-! DEFINITION. What a well-formed command is: the checks on its operands that the types do not make.
Each is the shape of what the spec says arrives (a message of the named kind, a bounce message whose data have
the length of its header); what the device itself checks is in the meanings. -/

namespace Sys2Proof

/-- The command that a row of the command processor carries (R374, R387). -/
def cmdOf (i : Instr) : Option Cmd :=
  match i with
  | .cmdDoorbell _ => none
  | .hifResAck _ _ => none
  | .unknownOpcode c _ => some c
  | .setPower c => some c
  | .setPerf c => some c
  | .imageOpen c => some c
  | .imageWrite c _ => some c
  | .imageCommit c _ => some c
  | .imageSelect c => some c
  | .jobStart c => some c
  | .jobStartRestore c _ _ => some c
  | .jobStop c => some c
  | .snapshot c => some c
  | .replay c => some c
  | .selftest c => some c
  | .retrain c => some c
  | .attest c _ => some c
  | .keyRelease c _ => some c
  | .containerChunk _ _ => none
  | .keyUpdate c _ _ => some c
  | .tenantEnd c _ => some c
  | .flashUnlock c => some c
  | .flashLockClose c => some c
  | .flashLockSetPasswordLocked c => some c
  | .flashLockSetPermanent c => some c
  | .flashLockSetUnlocked c => some c
  | .flashLockSetPassword c => some c
  | .perstN => none
  | .mgmtSessionOpen _ => none
  | .mgmtSessionIdleTimeout => none
  | .mgmtSessionClose => none
  | .telemetryStream c => some c
  | .logRead c => some c
  | .debugOpen c => some c
  | .debugClose c => some c
  | .fwUpdate c _ _ => some c
  | .credUpdate c _ _ => some c
  | .certUpdate c _ _ => some c
  | .commission c _ _ _ => some c
  | .userFile c _ _ => some c
  | .rngCapture c => some c
  | .keyProvision c _ => some c
  | .powerSet _ _ => none
  | .powerGet => none
  | .wakeCause => none
  | .ident => none
  | .wakeN => none
  | .modRstN => none
  | .supply12vLoss => none
  | .supply12vApplied => none
  | .aonPor => none
  | .railFault _ => none
  | .railPowerGood _ => none
  | .railStepTimeout => none
  | .quiesceTimeout => none
  | .thermalSample _ => none
  | .throttleRelax => none
  | .thermalShutdown _ => none
  | .thermalWakeHoldEnd => none
  | .watchdogExpiry => none
  | .mgmtCoreResume => none
  | .imageVerifyDone _ _ _ => none
  | .trainingDone => none
  | .parseComplete _ _ => none
  | .bootTimeout => none
  | .rngWindowDone => none
  | .rngRctFail => none
  | .rngAptFail => none
  | .rngRequestServed => none
  | .benchPass _ => none
  | .benchWeightLoad _ _ _ => none
  | .benchActivationRead _ _ _ => none
  | .benchOutputWrite _ _ => none
  | .bncWaitTimeout _ => none
  | .benchSelftestDone _ _ => none
  | .bncCfgWrite _ _ => none
  | .planeArith _ _ => none
  | .planeCmpSelect _ _ => none
  | .planeConvert _ _ => none
  | .planeScalar _ _ => none
  | .planeLoad _ _ _ => none
  | .planeStore _ _ => none
  | .planeGather _ _ _ => none
  | .planeScatter _ _ => none
  | .scatterAdd _ _ _ => none
  | .planeReduce _ _ => none
  | .accRead _ _ => none
  | .latheRequest _ _ => none
  | .latheGrant _ => none
  | .mask _ _ => none
  | .rawWord _ _ => none
  | .uniform _ _ => none
  | .planeWait _ _ => none
  | .planeSignal _ _ => none
  | .plnWaitTimeout _ => none
  | .softmax _ _ _ => none
  | .normStats _ _ _ => none
  | .normCombine _ _ _ _ => none
  | .plnCfgWrite _ _ => none
  | .planeSelftestDone _ _ => none
  | .latheSelftestDone _ _ => none
  | .jobHoldRelease _ => none
  | .stepStart _ _ => none
  | .scheduleEntryStart _ => none
  | .inferenceTriggerPeriod _ => none
  | .inferenceTriggerRing _ => none
  | .inferenceRequestDeferredStart _ => none
  | .gradPartialAdd _ _ _ _ _ => none
  | .glueEnter _ _ _ => none
  | .clampFactor _ _ => none
  | .optimizerAdamw _ _ _ => none
  | .optimizerSgdm _ _ _ => none
  | .optimizerReaderWaitEnd _ _ => none
  | .readySend _ => none
  | .ready _ _ _ _ => none
  | .commit _ _ _ _ => none
  | .snapshotStagingDone _ _ => none
  | .snapshotExportDone _ _ _ => none
  | .trnTelConfigWrite _ _ => none
  | .trnTelRdWrite _ => none
  | .trnStatFlagsClear _ => none
  | .heartbeat _ _ => none
  | .beat _ _ => none
  | .heartbeatDue => none
  | .beatDue => none
  | .heartbeatMissed _ => none
  | .beatMissed => none
  | .quiesceLimitExpiry _ => none
  | .acceptTimeout _ => none
  | .stop _ _ _ _ => none
  | .abort _ _ _ _ => none
  | .linkUp _ _ _ => none
  | .linkDown _ _ _ => none
  | .join _ _ _ => none
  | .joinRefused _ _ => none
  | .joinRepeat => none
  | .formWaitExpiry _ => none
  | .propose _ _ _ => none
  | .accept _ _ _ _ => none
  | .enact _ _ _ => none
  | .leave _ _ => none
  | .lastCommitted _ _ _ _ _ _ => none
  | .snapReq _ _ _ _ => none
  | .time _ _ _ _ _ _ => none
  | .timeExchangeDue => none
  | .retrainNote _ _ => none
  | .dissolve _ _ _ => none
  | .replayReq _ _ _ _ => none
  | .replayResult _ _ _ _ => none
  | .restoreOffer _ _ _ _ => none
  | .messageForward _ _ _ => none
  | .signalDetect _ => none
  | .trainTimeout _ => none
  | .trainRetryDue _ => none
  | .hello _ _ => none
  | .helloResendDue _ => none
  | .helloTimeout _ => none
  | .keysOnTimeout _ => none
  | .notAdmittedHelloDue _ => none
  | .linkFlit _ _ => none
  | .quiesceFlit _ _ _ => none
  | .linkFlitDue _ => none
  | .retxTimeout _ => none
  | .tagFailLimit _ => none
  | .los _ => none
  | .rekeyStart _ => none
  | .keySwitch _ _ => none
  | .rekeyRetryDue _ => none
  | .rekeyLate _ => none
  | .linkExhausted _ => none
  | .fecErrorBurst _ _ _ => none
  | .linkMarginLow _ _ _ _ => none
  | .linkRetrainDone _ => none
  | .linkRetrainTimeout _ => none
  | .fabDisable _ _ => none
  | .fabRestart _ => none
  | .sendWake _ => none
  | .retrainReq _ => none
  | .wakePattern _ => none
  | .fabWsCfgWrite _ => none
  | .glue _ _ _ _ _ => none
  | .glueOut _ _ _ _ => none
  | .glueDirect _ _ _ _ => none
  | .gather _ _ _ _ => none
  | .tally _ _ _ _ => none
  | .norm _ _ _ _ => none
  | .peerReq _ _ _ _ => none
  | .peerGrant _ _ _ => none
  | .peerData _ _ _ _ _ _ => none
  | .peerDone _ _ _ => none
  | .expDispatch _ _ _ _ => none
  | .expReturn _ _ _ _ => none
  | .stateReq _ _ _ _ => none
  | .stateData _ _ _ _ _ => none
  | .colTimeout _ _ _ => none
  | .colCfgWrite _ => none
  | .copy _ _ => none
  | .copySignal _ => none
  | .ringWindow _ _ => none
  | .copyFree _ => none
  | .stkWaitTimeout _ => none
  | .pageOut _ _ => none
  | .pageIn _ _ _ => none
  | .spillTimeout _ _ => none
  | .patrolScrub _ _ _ => none
  | .imbalanceWindow => none
  | .dramCorrBurst _ => none
  | .dramMarginLow _ => none
  | .dramRetrainDone _ _ => none
  | .stkCfgWrite _ => none
  | .stkSpillWrite _ _ => none
  | .flashQueueIssue => none
  | .flashProgramDone _ _ => none
  | .flashEraseDone _ _ => none
  | .frameSync _ _ => none
  | .sensorWord _ _ => none
  | .ringEntryWrite _ => none
  | .snsClkLoss _ => none
  | .ppsEdge => none
  | .tkHoldover => none
  | .cmpTrip _ => none
  | .cmpRelease _ => none
  | .aonTimerFire => none
  | .aonTimerWrite _ => none
  | .aonAlarmClear _ => none
  | .pwrWakeCauseClear _ => none
  | .peakClr => none
  | .ephemeralKeyExpiry _ => none
  | .evtRecordFile => none
  | .evtRingConfigWrite _ _ => none
  | .evtRingRdWrite _ => none
  | .registerWrite _ _ _ => none
  | .flitAlignment _ => none
  | .pcieLinkUp _ _ => none
  | .msixUnmask _ => none
  | .clkPresent _ => none
  | .jtagRecoveryLoad _ => none

/-- The opcode a row answers to (R374, R387); UNKNOWN_OPCODE carries its own. -/
def opcodeOf (i : Instr) : Option Byte :=
  match i with
  | .cmdDoorbell _ => none
  | .hifResAck _ _ => none
  | .unknownOpcode _ op => some op
  | .setPower _ => some 0x1
  | .setPerf _ => some 0x2
  | .imageOpen _ => some 0x10
  | .imageWrite _ _ => some 0x11
  | .imageCommit _ _ => some 0x12
  | .imageSelect _ => some 0x13
  | .jobStart _ => some 0x20
  | .jobStartRestore _ _ _ => some 0x20
  | .jobStop _ => some 0x21
  | .snapshot _ => some 0x22
  | .replay _ => some 0x23
  | .selftest _ => some 0x30
  | .retrain _ => some 0x31
  | .attest _ _ => some 0x40
  | .keyRelease _ _ => some 0x41
  | .containerChunk _ _ => none
  | .keyUpdate _ _ _ => some 0x42
  | .tenantEnd _ _ => some 0x50
  | .flashUnlock _ => some 0x60
  | .flashLockClose _ => some 0x61
  | .flashLockSetPasswordLocked _ => some 0x61
  | .flashLockSetPermanent _ => some 0x61
  | .flashLockSetUnlocked _ => some 0x61
  | .flashLockSetPassword _ => some 0x61
  | .perstN => none
  | .mgmtSessionOpen _ => none
  | .mgmtSessionIdleTimeout => none
  | .mgmtSessionClose => none
  | .telemetryStream _ => some 0x80
  | .logRead _ => some 0x81
  | .debugOpen _ => some 0x82
  | .debugClose _ => some 0x83
  | .fwUpdate _ _ _ => some 0x84
  | .credUpdate _ _ _ => some 0x85
  | .certUpdate _ _ _ => some 0x86
  | .commission _ _ _ _ => some 0x87
  | .userFile _ _ _ => some 0x88
  | .rngCapture _ => some 0x89
  | .keyProvision _ _ => some 0x8a
  | .powerSet _ _ => none
  | .powerGet => none
  | .wakeCause => none
  | .ident => none
  | .wakeN => none
  | .modRstN => none
  | .supply12vLoss => none
  | .supply12vApplied => none
  | .aonPor => none
  | .railFault _ => none
  | .railPowerGood _ => none
  | .railStepTimeout => none
  | .quiesceTimeout => none
  | .thermalSample _ => none
  | .throttleRelax => none
  | .thermalShutdown _ => none
  | .thermalWakeHoldEnd => none
  | .watchdogExpiry => none
  | .mgmtCoreResume => none
  | .imageVerifyDone _ _ _ => none
  | .trainingDone => none
  | .parseComplete _ _ => none
  | .bootTimeout => none
  | .rngWindowDone => none
  | .rngRctFail => none
  | .rngAptFail => none
  | .rngRequestServed => none
  | .benchPass _ => none
  | .benchWeightLoad _ _ _ => none
  | .benchActivationRead _ _ _ => none
  | .benchOutputWrite _ _ => none
  | .bncWaitTimeout _ => none
  | .benchSelftestDone _ _ => none
  | .bncCfgWrite _ _ => none
  | .planeArith _ _ => none
  | .planeCmpSelect _ _ => none
  | .planeConvert _ _ => none
  | .planeScalar _ _ => none
  | .planeLoad _ _ _ => none
  | .planeStore _ _ => none
  | .planeGather _ _ _ => none
  | .planeScatter _ _ => none
  | .scatterAdd _ _ _ => none
  | .planeReduce _ _ => none
  | .accRead _ _ => none
  | .latheRequest _ _ => none
  | .latheGrant _ => none
  | .mask _ _ => none
  | .rawWord _ _ => none
  | .uniform _ _ => none
  | .planeWait _ _ => none
  | .planeSignal _ _ => none
  | .plnWaitTimeout _ => none
  | .softmax _ _ _ => none
  | .normStats _ _ _ => none
  | .normCombine _ _ _ _ => none
  | .plnCfgWrite _ _ => none
  | .planeSelftestDone _ _ => none
  | .latheSelftestDone _ _ => none
  | .jobHoldRelease _ => none
  | .stepStart _ _ => none
  | .scheduleEntryStart _ => none
  | .inferenceTriggerPeriod _ => none
  | .inferenceTriggerRing _ => none
  | .inferenceRequestDeferredStart _ => none
  | .gradPartialAdd _ _ _ _ _ => none
  | .glueEnter _ _ _ => none
  | .clampFactor _ _ => none
  | .optimizerAdamw _ _ _ => none
  | .optimizerSgdm _ _ _ => none
  | .optimizerReaderWaitEnd _ _ => none
  | .readySend _ => none
  | .ready _ _ _ _ => none
  | .commit _ _ _ _ => none
  | .snapshotStagingDone _ _ => none
  | .snapshotExportDone _ _ _ => none
  | .trnTelConfigWrite _ _ => none
  | .trnTelRdWrite _ => none
  | .trnStatFlagsClear _ => none
  | .heartbeat _ _ => none
  | .beat _ _ => none
  | .heartbeatDue => none
  | .beatDue => none
  | .heartbeatMissed _ => none
  | .beatMissed => none
  | .quiesceLimitExpiry _ => none
  | .acceptTimeout _ => none
  | .stop _ _ _ _ => none
  | .abort _ _ _ _ => none
  | .linkUp _ _ _ => none
  | .linkDown _ _ _ => none
  | .join _ _ _ => none
  | .joinRefused _ _ => none
  | .joinRepeat => none
  | .formWaitExpiry _ => none
  | .propose _ _ _ => none
  | .accept _ _ _ _ => none
  | .enact _ _ _ => none
  | .leave _ _ => none
  | .lastCommitted _ _ _ _ _ _ => none
  | .snapReq _ _ _ _ => none
  | .time _ _ _ _ _ _ => none
  | .timeExchangeDue => none
  | .retrainNote _ _ => none
  | .dissolve _ _ _ => none
  | .replayReq _ _ _ _ => none
  | .replayResult _ _ _ _ => none
  | .restoreOffer _ _ _ _ => none
  | .messageForward _ _ _ => none
  | .signalDetect _ => none
  | .trainTimeout _ => none
  | .trainRetryDue _ => none
  | .hello _ _ => none
  | .helloResendDue _ => none
  | .helloTimeout _ => none
  | .keysOnTimeout _ => none
  | .notAdmittedHelloDue _ => none
  | .linkFlit _ _ => none
  | .quiesceFlit _ _ _ => none
  | .linkFlitDue _ => none
  | .retxTimeout _ => none
  | .tagFailLimit _ => none
  | .los _ => none
  | .rekeyStart _ => none
  | .keySwitch _ _ => none
  | .rekeyRetryDue _ => none
  | .rekeyLate _ => none
  | .linkExhausted _ => none
  | .fecErrorBurst _ _ _ => none
  | .linkMarginLow _ _ _ _ => none
  | .linkRetrainDone _ => none
  | .linkRetrainTimeout _ => none
  | .fabDisable _ _ => none
  | .fabRestart _ => none
  | .sendWake _ => none
  | .retrainReq _ => none
  | .wakePattern _ => none
  | .fabWsCfgWrite _ => none
  | .glue _ _ _ _ _ => none
  | .glueOut _ _ _ _ => none
  | .glueDirect _ _ _ _ => none
  | .gather _ _ _ _ => none
  | .tally _ _ _ _ => none
  | .norm _ _ _ _ => none
  | .peerReq _ _ _ _ => none
  | .peerGrant _ _ _ => none
  | .peerData _ _ _ _ _ _ => none
  | .peerDone _ _ _ => none
  | .expDispatch _ _ _ _ => none
  | .expReturn _ _ _ _ => none
  | .stateReq _ _ _ _ => none
  | .stateData _ _ _ _ _ => none
  | .colTimeout _ _ _ => none
  | .colCfgWrite _ => none
  | .copy _ _ => none
  | .copySignal _ => none
  | .ringWindow _ _ => none
  | .copyFree _ => none
  | .stkWaitTimeout _ => none
  | .pageOut _ _ => none
  | .pageIn _ _ _ => none
  | .spillTimeout _ _ => none
  | .patrolScrub _ _ _ => none
  | .imbalanceWindow => none
  | .dramCorrBurst _ => none
  | .dramMarginLow _ => none
  | .dramRetrainDone _ _ => none
  | .stkCfgWrite _ => none
  | .stkSpillWrite _ _ => none
  | .flashQueueIssue => none
  | .flashProgramDone _ _ => none
  | .flashEraseDone _ _ => none
  | .frameSync _ _ => none
  | .sensorWord _ _ => none
  | .ringEntryWrite _ => none
  | .snsClkLoss _ => none
  | .ppsEdge => none
  | .tkHoldover => none
  | .cmpTrip _ => none
  | .cmpRelease _ => none
  | .aonTimerFire => none
  | .aonTimerWrite _ => none
  | .aonAlarmClear _ => none
  | .pwrWakeCauseClear _ => none
  | .peakClr => none
  | .ephemeralKeyExpiry _ => none
  | .evtRecordFile => none
  | .evtRingConfigWrite _ _ => none
  | .evtRingRdWrite _ => none
  | .registerWrite _ _ _ => none
  | .flitAlignment _ => none
  | .pcieLinkUp _ _ => none
  | .msixUnmask _ => none
  | .clkPresent _ => none
  | .jtagRecoveryLoad _ => none

/-- The message header that a row of the links carries, with the kind that names the row (R258, R296). -/
def msgOf (i : Instr) : Option (MsgHdr × Byte) :=
  match i with
  | .cmdDoorbell _ => none
  | .hifResAck _ _ => none
  | .unknownOpcode _ _ => none
  | .setPower _ => none
  | .setPerf _ => none
  | .imageOpen _ => none
  | .imageWrite _ _ => none
  | .imageCommit _ _ => none
  | .imageSelect _ => none
  | .jobStart _ => none
  | .jobStartRestore _ _ _ => none
  | .jobStop _ => none
  | .snapshot _ => none
  | .replay _ => none
  | .selftest _ => none
  | .retrain _ => none
  | .attest _ _ => none
  | .keyRelease _ _ => none
  | .containerChunk _ _ => none
  | .keyUpdate _ _ _ => none
  | .tenantEnd _ _ => none
  | .flashUnlock _ => none
  | .flashLockClose _ => none
  | .flashLockSetPasswordLocked _ => none
  | .flashLockSetPermanent _ => none
  | .flashLockSetUnlocked _ => none
  | .flashLockSetPassword _ => none
  | .perstN => none
  | .mgmtSessionOpen _ => none
  | .mgmtSessionIdleTimeout => none
  | .mgmtSessionClose => none
  | .telemetryStream _ => none
  | .logRead _ => none
  | .debugOpen _ => none
  | .debugClose _ => none
  | .fwUpdate _ _ _ => none
  | .credUpdate _ _ _ => none
  | .certUpdate _ _ _ => none
  | .commission _ _ _ _ => none
  | .userFile _ _ _ => none
  | .rngCapture _ => none
  | .keyProvision _ _ => none
  | .powerSet _ _ => none
  | .powerGet => none
  | .wakeCause => none
  | .ident => none
  | .wakeN => none
  | .modRstN => none
  | .supply12vLoss => none
  | .supply12vApplied => none
  | .aonPor => none
  | .railFault _ => none
  | .railPowerGood _ => none
  | .railStepTimeout => none
  | .quiesceTimeout => none
  | .thermalSample _ => none
  | .throttleRelax => none
  | .thermalShutdown _ => none
  | .thermalWakeHoldEnd => none
  | .watchdogExpiry => none
  | .mgmtCoreResume => none
  | .imageVerifyDone _ _ _ => none
  | .trainingDone => none
  | .parseComplete _ _ => none
  | .bootTimeout => none
  | .rngWindowDone => none
  | .rngRctFail => none
  | .rngAptFail => none
  | .rngRequestServed => none
  | .benchPass _ => none
  | .benchWeightLoad _ _ _ => none
  | .benchActivationRead _ _ _ => none
  | .benchOutputWrite _ _ => none
  | .bncWaitTimeout _ => none
  | .benchSelftestDone _ _ => none
  | .bncCfgWrite _ _ => none
  | .planeArith _ _ => none
  | .planeCmpSelect _ _ => none
  | .planeConvert _ _ => none
  | .planeScalar _ _ => none
  | .planeLoad _ _ _ => none
  | .planeStore _ _ => none
  | .planeGather _ _ _ => none
  | .planeScatter _ _ => none
  | .scatterAdd _ _ _ => none
  | .planeReduce _ _ => none
  | .accRead _ _ => none
  | .latheRequest _ _ => none
  | .latheGrant _ => none
  | .mask _ _ => none
  | .rawWord _ _ => none
  | .uniform _ _ => none
  | .planeWait _ _ => none
  | .planeSignal _ _ => none
  | .plnWaitTimeout _ => none
  | .softmax _ _ _ => none
  | .normStats _ _ _ => none
  | .normCombine _ _ _ _ => none
  | .plnCfgWrite _ _ => none
  | .planeSelftestDone _ _ => none
  | .latheSelftestDone _ _ => none
  | .jobHoldRelease _ => none
  | .stepStart _ _ => none
  | .scheduleEntryStart _ => none
  | .inferenceTriggerPeriod _ => none
  | .inferenceTriggerRing _ => none
  | .inferenceRequestDeferredStart _ => none
  | .gradPartialAdd _ _ _ _ _ => none
  | .glueEnter _ _ _ => none
  | .clampFactor _ _ => none
  | .optimizerAdamw _ _ _ => none
  | .optimizerSgdm _ _ _ => none
  | .optimizerReaderWaitEnd _ _ => none
  | .readySend _ => none
  | .ready _ h _ _ => some (h, 0x5)
  | .commit _ h _ _ => some (h, 0x6)
  | .snapshotStagingDone _ _ => none
  | .snapshotExportDone _ _ _ => none
  | .trnTelConfigWrite _ _ => none
  | .trnTelRdWrite _ => none
  | .trnStatFlagsClear _ => none
  | .heartbeat _ h => some (h, 0x1)
  | .beat _ h => some (h, 0x2)
  | .heartbeatDue => none
  | .beatDue => none
  | .heartbeatMissed _ => none
  | .beatMissed => none
  | .quiesceLimitExpiry _ => none
  | .acceptTimeout _ => none
  | .stop _ h _ _ => some (h, 0x3)
  | .abort _ h _ _ => some (h, 0x4)
  | .linkUp _ h _ => some (h, 0x7)
  | .linkDown _ h _ => some (h, 0x8)
  | .join _ h _ => some (h, 0x9)
  | .joinRefused _ h => some (h, 0xa)
  | .joinRepeat => none
  | .formWaitExpiry _ => none
  | .propose _ h _ => some (h, 0xb)
  | .accept _ h _ _ => some (h, 0xc)
  | .enact _ h _ => some (h, 0xd)
  | .leave _ h => some (h, 0xe)
  | .lastCommitted _ h _ _ _ _ => some (h, 0xf)
  | .snapReq _ h _ _ => some (h, 0x10)
  | .time _ h _ _ _ _ => some (h, 0x11)
  | .timeExchangeDue => none
  | .retrainNote _ h => some (h, 0x12)
  | .dissolve _ h _ => some (h, 0x13)
  | .replayReq _ h _ _ => some (h, 0x14)
  | .replayResult _ h _ _ => some (h, 0x15)
  | .restoreOffer _ h _ _ => some (h, 0x16)
  | .messageForward _ _ _ => none
  | .signalDetect _ => none
  | .trainTimeout _ => none
  | .trainRetryDue _ => none
  | .hello _ _ => none
  | .helloResendDue _ => none
  | .helloTimeout _ => none
  | .keysOnTimeout _ => none
  | .notAdmittedHelloDue _ => none
  | .linkFlit _ _ => none
  | .quiesceFlit _ _ _ => none
  | .linkFlitDue _ => none
  | .retxTimeout _ => none
  | .tagFailLimit _ => none
  | .los _ => none
  | .rekeyStart _ => none
  | .keySwitch _ _ => none
  | .rekeyRetryDue _ => none
  | .rekeyLate _ => none
  | .linkExhausted _ => none
  | .fecErrorBurst _ _ _ => none
  | .linkMarginLow _ _ _ _ => none
  | .linkRetrainDone _ => none
  | .linkRetrainTimeout _ => none
  | .fabDisable _ _ => none
  | .fabRestart _ => none
  | .sendWake _ => none
  | .retrainReq _ => none
  | .wakePattern _ => none
  | .fabWsCfgWrite _ => none
  | .glue _ h _ _ _ => some (h, 0x40)
  | .glueOut _ h _ _ => some (h, 0x41)
  | .glueDirect _ h _ _ => some (h, 0x49)
  | .gather _ h _ _ => some (h, 0x42)
  | .tally _ h _ _ => some (h, 0x43)
  | .norm _ h _ _ => some (h, 0x44)
  | .peerReq _ h _ _ => some (h, 0x45)
  | .peerGrant _ h _ => some (h, 0x46)
  | .peerData _ h _ _ _ _ => some (h, 0x47)
  | .peerDone _ h _ => some (h, 0x48)
  | .expDispatch _ h _ _ => some (h, 0x60)
  | .expReturn _ h _ _ => some (h, 0x61)
  | .stateReq _ h _ _ => some (h, 0x80)
  | .stateData _ h _ _ _ => some (h, 0x81)
  | .colTimeout _ _ _ => none
  | .colCfgWrite _ => none
  | .copy _ _ => none
  | .copySignal _ => none
  | .ringWindow _ _ => none
  | .copyFree _ => none
  | .stkWaitTimeout _ => none
  | .pageOut _ _ => none
  | .pageIn _ _ _ => none
  | .spillTimeout _ _ => none
  | .patrolScrub _ _ _ => none
  | .imbalanceWindow => none
  | .dramCorrBurst _ => none
  | .dramMarginLow _ => none
  | .dramRetrainDone _ _ => none
  | .stkCfgWrite _ => none
  | .stkSpillWrite _ _ => none
  | .flashQueueIssue => none
  | .flashProgramDone _ _ => none
  | .flashEraseDone _ _ => none
  | .frameSync _ _ => none
  | .sensorWord _ _ => none
  | .ringEntryWrite _ => none
  | .snsClkLoss _ => none
  | .ppsEdge => none
  | .tkHoldover => none
  | .cmpTrip _ => none
  | .cmpRelease _ => none
  | .aonTimerFire => none
  | .aonTimerWrite _ => none
  | .aonAlarmClear _ => none
  | .pwrWakeCauseClear _ => none
  | .peakClr => none
  | .ephemeralKeyExpiry _ => none
  | .evtRecordFile => none
  | .evtRingConfigWrite _ _ => none
  | .evtRingRdWrite _ => none
  | .registerWrite _ _ _ => none
  | .flitAlignment _ => none
  | .pcieLinkUp _ _ => none
  | .msixUnmask _ => none
  | .clkPresent _ => none
  | .jtagRecoveryLoad _ => none

/-- The elements a collective message carries are those its COUNT names (R297). -/
def countOk {α : Type} (ch : ColHdr) (xs : List α) : Bool := ch.count.toNat == xs.length

/-- The credits of a LINK body name the four lanes (R256). -/
def flitOk (f : Flit) : Bool :=
  match f with
  | .link _ b => b.cred.length == 4
  | .data _ _ _ _ => true

/-- The shape of the operands beside the message header. -/
def operandsOk (i : Instr) : Bool :=
  match i with
  | .containerChunk _ bytes => decide (48 ≤ bytes.length)
  | .softmax _ x _ => decide (1 ≤ x.live.length) && decide (x.live.length ≤ 2 ^ 24)
  | .gradPartialAdd _ _ _ p _ => decide (p.addr % 4 = 0)
  | .pageIn _ _ r => r.data.length == 65536 && r.tag.length == 16
  | .linkFlit _ f => flitOk f
  | .quiesceFlit _ _ b => b.cred.length == 4 && b.quiesce
  | .norm _ _ ch xs => countOk ch xs
  | .expDispatch _ _ ch xs => countOk ch xs
  | .expReturn _ _ ch xs => countOk ch xs
  | .mask _ x => decide (x.p.toNat ≤ 65536)
  | _ => true

/-- A row of the links carries a message of its own kind. -/
def kindOk (i : Instr) : Bool :=
  match msgOf i with
  | some (h, k) => h.kind == k
  | none => true

/-- A well-formed command. -/
def Instr.wf (i : Instr) : Bool := operandsOk i && kindOk i

end Sys2Proof
end

