-- ==== Sys2Proof/Decode.lean ====
section
/-! DEFINITION. The decoder of the command table's words. No row of spec/opcode_table.json gives bits: the
commands of this block are register writes, messages, pins and steps of its engines, and no word spells one. -/

namespace Sys2Proof

/-- The command that a word of the table spells: none, since no row gives bits. -/
def decodeTableWord (_nbits _w : Nat) : Option Instr := none

end Sys2Proof
end

