-- ==== Sys2Proof/Config.lean ====
section
/-! DEFINITION. What an implementation fixes and the spec does not say: the free values. Every constant
here is opaque; no proof can see its value. -/

namespace Sys2Proof.Config

/-- The n-th draw of conditioned output (R204), 512 bits; a consumer takes the low bits it needs.
Free value (log entry 8). -/
opaque draw : Nat → BitVec 512

/-- The binary32 result of a lathe function (numbered as in `LatheFn.code`) at a binary32 operand that
R113 and R114 do not settle (R110). Free value (log entry 9). -/
opaque lathe : Nat → Word → Word

/-- The binary32 result of a fused gated form (R110) at finite gate and u. Free value (log entry 9). -/
opaque gate : Nat → Word → Word → Word

/-- The result of a scalar shift of a word by 32 or more, left or right (R100). A function of its operands, so that equal
programs on equal data give equal results on every module (R12). Free value (log entry 8). -/
opaque shiftOut : Bool → Word → Word → Word

/-- Measured CORE or REFCLK cycles (R80, R123, R172, R475), which no command fixes. Free value (log entry 16). -/
opaque cycles : Nat → Nat

/-- What an interrupted program or erase leaves of a code word (R344): 0 erased, 1 valid, else uncorrectable. Free value
(log entry 8). -/
opaque flashCut : Nat → Nat → BitVec 2

/-- The scales, histories and bias correction of a snapshot part, whose layout R185 does not give. Free value
(log entry 8). -/
opaque snapTail : List PartTensor → List Byte

/-- The SNAP_KEY that a snapshot is sealed under while no key store version is in force, which the spec does not say. Free
value (log entry 73). -/
opaque noSnapKey : BitVec 256

/-- Which of the free frames an allocation takes (R229). Free value (log entry 12). -/
opaque pfnPick : Nat → Nat

/-- The five 21-bit masks derived from an interleave salt, before the rank condition of R230 is imposed. -/
opaque hashMask : DWord → Nat → BitVec 21

/-- The device's serial number (R394). -/
opaque serial : DWord

/-- MR0, the SHA-384 of the ROM (R395). -/
opaque romHash : BitVec 384

/-- SHA-384 of a firmware copy of the given FW_SVN and FW_VERSION, signature excluded (R395). -/
opaque fwHash : BitVec 16 → Word → BitVec 384

/-- The 32 bytes of a debug record of the given kind, mask, operator serial and time (R395), whose layout the spec does
not give. Free value (log entry 42). -/
opaque debugBytes : Byte → Byte → DWord → DWord → BitVec 256

/-- What MR4 hashes after WS_ID and the epoch (R395): the rank and the digest of the membership (rank, serial, claim and
jobs of each member), whose layouts the spec does not give. Free value (log entry 42). -/
opaque mr4Tail : Nat → List (Nat × DWord × Nat × BitVec 16) → List Byte

/-- The DER device certificate (R399). -/
opaque deviceCert : List Byte

/-- The device storage key, derived from fuses (R408). -/
opaque storageKey : BitVec 256

/-- The slot content that the body of KEY_UPDATE or KEY_PROVISION holds, and its bytes as they are sealed with a VERSION,
whose layouts the spec does not give (R408, R410). Free values (log entry 74). -/
opaque ksContent : List Byte → KsContent
opaque ksLayout : KsContent → Word → List Byte

/-- FW_SVN and FW_VERSION of the firmware the module leaves manufacture with. -/
opaque fwSvn : BitVec 16
opaque fwVersion : Word

/-- The bytes of a payload, or of the part of it, whose layout the spec does not give (R257, R258). Free value
(log entry 32). -/
opaque layout : Nat → Payload → List Byte

/-- The uncompressed P-384 public key of a private key (R256, R266), and the x-coordinate of the ECDH product of a private
key and a peer's public key (R268). The curve arithmetic is not modelled (log entry 70). -/
opaque ecdhPub : BitVec 384 → BitVec 776
opaque ecdhX : BitVec 384 → List Byte → BitVec 384

/-- An ECDSA P-384 signature by the device key over the SHA-384 of a message (R256, R266; log entry 70). -/
opaque sign : BitVec 384 → BitVec 768

/-- The certificates of a HELLO and of a snapshot part's trailer (R266, R414), for the workshop certificate held
(log entry 70). -/
opaque chain : DWord → List Byte

end Sys2Proof.Config
end

