-- ==== Sys2Proof/Machine/State.lean ====
section
/-! DEFINITION. The state of one Hirno module (INVENTORY.md, State) and the state right after reset. Sparse
tables are lists of (key, value) pairs with strictly rising keys that list no default value. -/

namespace Sys2Proof.Machine

/-- A vector of n equal entries. -/
def vrep {α : Type} (n : Nat) (a : α) : Vector α n := ⟨⟨List.replicate n a⟩, by simp⟩

/-- Entry i of a vector changed by f. -/
def upd {α : Type} {n : Nat} (v : Vector α n) (i : Fin n) (f : α → α) : Vector α n := v.set i (f v[i])

/-- Every entry of a vector changed by f. -/
def vmap {α β : Type} {n : Nat} (f : α → β) (v : Vector α n) : Vector β n :=
  ⟨⟨v.toList.map f⟩, by simp⟩

/-- Why the block stops with a fault. -/
inductive Fault where
  /-- Raised by the bench commands when the pass descriptor under way reaches outside the 16 MiB bench
  store. R70 refuses such an image at parse, so only states that no run reaches raise it. Safe. -/
  | storeRange
  deriving DecidableEq, Repr

/-- Why the block refuses a command. -/
inductive Refusal where
  /-- Raised by an arm of `exec` that has no meaning yet. Safe. -/
  | notModelled (mnemonic : String)
  deriving DecidableEq, Repr

/-- A 48-bit statistics counter with its SAT bit (R17). -/
structure Ctr where
  count : BitVec 48
  sat : Bool
  deriving DecidableEq, Repr

/-- A ring pointer: INDEX and LAP (R167). -/
structure RingPtr where
  index : BitVec 16
  lap : Bool
  deriving DecidableEq, Repr

/-- A command whose final result is outstanding: where the result goes and under which tag and opcode. -/
structure Pend where
  origin : Origin
  seq : BitVec 16
  op : Byte
  /-- The value of `Hif.gen` when the command was taken: a result of an earlier one is discarded (R371). -/
  gen : Nat
  deriving DecidableEq, Repr

/-- A result (R375), as a slot, the ring or a management response holds it. -/
structure Result where
  seq : BitVec 16
  op : Byte
  status : Byte
  final : Bool
  p0 : Word
  p1 : Word
  p2 : Word
  p3 : Word
  time : DWord
  deriving DecidableEq, Repr

/-- An event as a unit posts it, stamped by the collector (R493), before it has its SEQ. -/
structure Posted where
  code : BitVec 16
  inst : Byte
  fault : Bool
  deferred : Bool
  addrKind : BitVec 2
  job : Byte
  status : Byte
  rank : BitVec 16
  time : DWord
  step : DWord
  epoch : Word
  addr : DWord
  info : DWord
  deriving DecidableEq, Repr

/-- An event record as filed (R493). -/
structure EvtRec where
  seq : DWord
  lostBefore : Bool
  ev : Posted
  deriving DecidableEq, Repr

/-- A telemetry record (R159). -/
structure TelRec where
  step : DWord
  epoch : Word
  tensor : BitVec 16
  flags : BitVec 16
  w2 : DWord
  g2 : DWord
  dw2 : DWord
  clipC : Word
  k : Byte
  ovf : Word
  nan : Word
  unf : Word
  amax : Word
  deriving DecidableEq, Repr

/-! ### GLB and boot -/

inductive BootState where
  | booting | running | noImage | restarting
  deriving DecidableEq, Repr

inductive BankState where
  | empty | open_ | valid | active | invalid
  deriving DecidableEq, Repr

/-- The boot phases of R18 and R325. `halted` is a boot that has stopped: no firmware verifies (R397), or
the noise source failed (R205). `down` is a module without main rails. -/
inductive BootPhase where
  | down | powerUp | verify | training | parse | done | noFirmware | rngFailed
  deriving DecidableEq, Repr

structure Glb where
  state : BootState
  phase : BootPhase
  active : Option Bank
  fallback : Bool
  lastStatus : Byte
  bankA : BankState
  bankB : BankState
  imageId : DWord
  bootMs : Word
  svn : BitVec 16
  cycle : DWord
  /-- The bank being booted, and whether as a trial (R329). -/
  bootBank : Option Bank
  trial : Bool
  select : Option Pend
  deriving DecidableEq, Repr

/-! ### Power -/

/-- The power sequencer (R464, R466): idle; quiescing toward a state; powering down at a step (2 to 6) toward a
state; powering up with a number of rails still to come. -/
inductive PwrSeq where
  | idle
  | quiesce (goTo : PState)
  | down (step : Nat) (goTo : PState)
  | up (railsLeft : Nat)
  deriving DecidableEq, Repr

/-- Body bias of the bench and plane logic (R453, R456): +0.3 V forward, 0 V, −0.6 V reverse, or no power. -/
inductive Bias where
  | forward | zero | reverse | unpowered
  deriving DecidableEq, Repr

/-- The SRAM's read assist or retention bias (R453, R456). -/
inductive SramBias where
  | assistOn | assistOff | retention | unpowered
  deriving DecidableEq, Repr

structure SelftestReq where
  pend : Pend
  benches : List Nat
  planes : List Nat
  lathes : List Nat
  failB : BitVec 4
  failP : BitVec 16
  failL : BitVec 4
  running : Bool
  deriving DecidableEq, Repr

structure RetrainReq where
  pend : Pend
  links : BitVec 8
  drawers : BitVec 4
  failed : BitVec 12
  deriving DecidableEq, Repr

structure Pwr where
  state : PState
  target : PState
  transition : Bool
  seq : PwrSeq
  level : BitVec 2
  pendingLevel : BitVec 2
  perfWaiting : List Pend
  gate : Nat
  selftest : Option SelftestReq
  retrain : Option RetrainReq
  /-- Drawers marked for a retrain at the next boundary, and those retraining now (R478, R479). -/
  drawerMarks : BitVec 4
  drawersNow : List Nat
  /-- Units whose retrain a boundary has let go ahead and that still wait for their turn: links in bits 7:0, drawers
  in bits 11:8 (R28, R274, R479). -/
  armed : BitVec 12
  pwrGood : Bool
  quiesceMax : Byte
  fault : Word
  temp : Byte
  peak : Byte
  pllLock : Bool
  coreDiv : BitVec 4
  dramTemp : Vector Byte 4
  ctrs : Vector Ctr 6
  rails : Vector Bool 5
  /-- The stable state the transition under way runs to, its request, and the request of the pending target
  where that is another (R462). -/
  goal : PState
  req : Option Pend
  nextReq : Option Pend
  watchdogs : List DWord
  coreDown : Bool
  thermalHold : Bool
  wakeDeferred : Bool
  /-- Body bias and SRAM assist in force (R456). -/
  bias : Bias
  sram : SramBias
  deriving DecidableEq, Repr

/-! ### AON -/

inductive TkState where
  | free | acquiring | disciplined | holdover | coasting
  deriving DecidableEq, Repr

/-- A debug record (R395): kind, mask, operator serial, time. -/
structure DebugRec where
  kind : Byte
  mask : Byte
  serial : DWord
  time : DWord
  deriving DecidableEq, Repr

structure Aon where
  onCell : Bool
  por : Bool
  src : BitVec 2
  tk : TkState
  srcUsed : Bool
  master : BitVec 10
  freqAdj : BitVec 16
  time : DWord
  nextSec : DWord
  timer : DWord
  timerArmed : Bool
  ppsErr : Word
  cmpCfg : Vector Word 4
  tripped : BitVec 4
  trip : BitVec 4
  timerFlag : Bool
  alarm : Bool
  ret : Vector Word 32
  ctrs : Vector Ctr 4
  goodRun : Nat
  rejRun : Nat
  lastPps : DWord
  /-- When the last correction was accepted (R435). -/
  lastCorr : DWord
  supply : Bool
  cell : Bool
  debugSeen : Bool
  historyLost : Bool
  /-- A comparator has tripped since 12 V went away (R442, R468). -/
  cellTrip : Bool
  mr3 : List DebugRec
  lockout : Bool
  wakeEn : Word
  wakeCause : Word
  deferred : List Posted
  /-- What the next boot still has to report: a rail fault (R465), a thermal shutdown (R477), an AON power
  loss (R448). -/
  railPend : Bool
  thermPend : Bool
  porPend : Bool
  deriving DecidableEq, Repr

/-! ### EVT -/

structure Evt where
  queue : List Posted
  log : List (Nat × EvtRec)
  head : Byte
  seqNext : DWord
  mask : BitVec 10
  fault : Word
  ringBase : DWord
  ringLog2 : BitVec 5
  wr : RingPtr
  rd : RingPtr
  lostBefore : Bool
  ringLost : Bool
  /-- The sealed records in the host's ring, 96 bytes each (R382, R497). -/
  ring : List (Nat × List Byte)
  ctrs : Vector Ctr 3
  deriving DecidableEq, Repr

/-! ### HIF and management port -/

structure HCmd where
  seq : BitVec 16
  op : Byte
  a0 : Word
  a1 : Word
  a2 : Word
  a3 : Word
  deriving DecidableEq, Repr

/-- A bounce session (R379): its salt, the last accepted host counter (none before the first), the next device counter,
and the key of each direction. -/
structure Session where
  salt : Word
  h2d : Option DWord
  d2h : DWord
  h2dKey : List Byte
  d2hKey : List Byte
  deriving DecidableEq, Repr

structure MsixVec where
  addr : DWord
  data : Word
  masked : Bool
  pending : Bool
  sent : Nat
  deriving DecidableEq, Repr

structure Hif where
  /-- How often PERST_N has reset the block. -/
  gen : Nat
  opcode : Byte
  args : Vector Word 4
  queue : List HCmd
  running : List (BitVec 16)
  slots : Vector (Option Result) 16
  ring : List Result
  fault : Word
  faultInfo : Word
  session : Option Session
  pcieUp : Bool
  width : Nat
  speed : Nat
  msix : Vector MsixVec 4
  ctrs : Vector Ctr 4
  /-- What the device has written into host memory beside its rings and the spill region, newest first (R184, R399). -/
  wrote : List (DWord × List Byte)
  /-- The bytes of the last sideband answer; none after a NACK (R384). -/
  sideband : Option (List Byte)
  deriving DecidableEq, Repr

/-- What goes to the management client (R386): a response, a pushed record, or the persistent log. -/
inductive MgmtOut where
  | response (r : Result) (body : List Byte)
  | pushEvt (r : EvtRec)
  | pushTel (r : TelRec)
  /-- Raw samples of the noise source (R207). -/
  | samples (bits : BitVec 1024)
  deriving DecidableEq, Repr

structure Mgmt where
  session : Option DWord
  selfSigned : Bool
  fails : Nat
  /-- When the last handshake and the last request were (R385). -/
  lastTry : DWord
  lastUse : DWord
  stream : Bool
  out : List MgmtOut
  debugOpen : Bool
  paths : BitVec 3
  deriving DecidableEq, Repr

/-! ### SEC -/

/-- A held attestation key (R401): its report, the private key, SHA-384 of bytes 0x000 to 0x1BF of the report (R404), and
when the report was made. -/
structure Held where
  reportId : DWord
  key : BitVec 384
  digest : BitVec 384
  time : DWord
  deriving DecidableEq, Repr

/-- A weight-container load under way or deferred (R406, R407): the next INDEX, and the byte ranges
written per tensor. -/
structure Load where
  pend : Option Pend
  addr : DWord
  len : DWord
  active : Bool
  next : DWord
  written : List (BitVec 16 × Nat × Nat)
  deriving DecidableEq, Repr

structure ModelKey where
  key : List Byte
  revoke : Bool
  loaded : Bool
  load : Option Load
  deriving DecidableEq, Repr

/-- The attestation report last written (R400), less SIG, and less SERIAL, GLB_ID and GLB_CAPS, which are constant. `eph` is
the private key of EPH_PUB. -/
structure Report where
  reportId : DWord
  flags : BitVec 16
  fwSvn : BitVec 16
  imgSvn : BitVec 16
  ksVersion : Word
  imageId : DWord
  mrs : List (BitVec 384)
  time : DWord
  challenge : BitVec 384
  eph : BitVec 384
  addr : DWord
  deriving DecidableEq, Repr

structure Sec where
  fault : Word
  faultInfo : Word
  tending : Bool
  tendMs : Word
  /-- The TENANT_END under way and its duration; SET_POWER and SET_PERF commands that wait for its end (R417). -/
  tend : Option (Pend × Word)
  later : List (Pend × Cmd)
  held : List Held
  reportNext : DWord
  keys : Vector (Option ModelKey) 4
  fwSvn : BitVec 16
  fwVersion : Word
  fwCopy : Bool
  fuse : Nat
  /-- Digests set when the ROM verifies the image (MR2) and at ENACT (MR4), as what they are taken over. -/
  mr2 : Option DWord
  mr4 : Option (DWord × Word × Nat × List Member)
  report : Option Report
  ctrs : Vector Ctr 5
  deriving DecidableEq, Repr

/-! ### Flash -/

/-- A code word that is not erased: programmed data, or a word that reads uncorrectable (R343, R350). -/
inductive WordState where
  | good (data : List Byte)
  | bad
  deriving DecidableEq, Repr

inductive SelKind where
  | opened | valid | select | attempt | confirm | abandon | summary
  deriving DecidableEq, Repr

/-- A selector log word (R328). A SUMMARY word carries the state it sums up. -/
structure SelWord where
  kind : SelKind
  bank : Bank
  svn : BitVec 16
  seq : Word
  imageId : DWord
  state : BankState
  deriving DecidableEq, Repr

inductive Prot where
  | unlocked | passwordLocked | permanent
  deriving DecidableEq, Repr

/-- What a housekeeping log word says (R342). A SUMMARY word carries eight erase counts from a block on, the states of the
sixteen regions, or the password digest (log entry 17). -/
inductive HkItem where
  | erase (block count : Nat)
  | protect (region : Nat) (st : Prot)
  | password (digest : BitVec 128)
  | counts (first : Nat) (cs : List Nat)
  | states (sts : List Prot)
  deriving DecidableEq, Repr

/-- A housekeeping log word (R342). -/
structure HkWord where
  summary : Bool
  seq : Word
  item : HkItem
  deriving DecidableEq, Repr

inductive RetireCause where
  | program | erase | count | margin
  deriving DecidableEq, Repr

/-- A bad-block table entry (R351). -/
inductive BbEntry where
  | grown (cause : RetireCause) (logical physOld : Nat) (physNew : Option Nat)
  | swap (logical physOld physNew : Nat)
  | summary (logical physNew : Nat)
  deriving DecidableEq, Repr

/-- A code word of a bad-block table copy (R351); a SUMMARY word carries one mapping of the current map. -/
structure BbWord where
  seq : Word
  entry : BbEntry
  deriving DecidableEq, Repr

/-- A key store version (R408), as its slot holds it, with the first 128 bits of SHA-384 of the sealed slot. -/
structure KsVersion where
  version : Word
  content : KsContent
  digest : BitVec 128
  deriving DecidableEq, Repr

/-- A commit word of the key store (R408). -/
structure KsCommit where
  slot : Bool
  version : Word
  digest : BitVec 128
  deriving DecidableEq, Repr

/-- One flash operation on the die. The last three append a word to a log: PROTECT, PASSWORD (R357), and a key store commit
word (R410). -/
inductive FlashOp where
  | erase (block : Nat)
  | program (addr : Nat) (data : List Byte)
  | protect (region : Fin 16) (st : Prot)
  | password (digest : BitVec 128)
  | commit (w : KsCommit)
  deriving DecidableEq, Repr

/-- A snapshot part in the flash (R185, R361): its content, the bytes of its blob, and the SNAP_KEY it was sealed under
(R414). -/
structure SnapPart where
  part : Part
  bytes : Nat
  snapKey : BitVec 256
  deriving DecidableEq, Repr

/-- What a flash task does when its last operation has completed. -/
inductive FlashDone where
  | imageOpen
  | imageWrite
  | imageCommit (v : CommitVerdict)
  | keyStore (slot : Bool) (v : KsVersion)
  | firmware (copy : Bool) (f : FwCopy)
  | cred (root : DWord)
  | cert (serial : DWord)
  | comm (claim : BitVec 10) (ports : Word)
  | user
  /-- The block's words are in the spare; then the block that left is erased and becomes the spare (R349). -/
  | refresh (block spare : Nat)
  | spare (block : Nat)
  /-- A change of protection states or of the password (R357). -/
  | protection
  /-- A snapshot export of a job slot (R361): the slot written, its SEQ and the part. -/
  | snapshot (job : Fin 4) (slot : Bool) (seq : DWord) (v : SnapPart)
  /-- The rest of an operation whose task has ended. -/
  | dropped
  deriving DecidableEq, Repr

/-- A queued flash task (R345): its priority class (1 first), its operations and its owner. -/
structure FlashTask where
  prio : Nat
  ops : List FlashOp
  done : FlashDone
  pend : Option Pend
  /-- Operations done since the task was last issued (a long operation yields, R345). -/
  run : Nat
  deriving DecidableEq, Repr

/-- The open image session (R332, R388). -/
structure ImgSession where
  bank : Bank
  length : Nat
  origin : Origin
  /-- Code words programmed; no word can be programmed twice. -/
  written : Nat
  blocks : Nat
  deriving DecidableEq, Repr

structure Fls where
  words : List (Nat × WordState)
  map : List (Nat × Nat)
  spares : List Nat
  /-- What the bad-block table says of retirements and swaps since manufacture; and its two copies (R351). -/
  bbt : List BbEntry
  bbtLog : Vector (List BbWord) 2
  eraseCounts : List (Nat × Nat)
  marginFails : List Nat
  /-- The selector and housekeeping logs, and which of its two blocks each is in (R328, R342). -/
  selLog : List SelWord
  selBlk : Bool
  hkLog : List HkWord
  hkBlk : Bool
  ar : Nat
  prot : Vector Prot 16
  password : Option (BitVec 128)
  sessions : BitVec 16
  unlockFails : Nat
  poolEmpty : Bool
  thresh : BitVec 2
  view : BitVec 4
  fault : Word
  faultInfo : Word
  lost : List Nat
  tasks : List FlashTask
  issued : Option FlashTask
  img : Option ImgSession
  fw : Vector (Option FwCopy) 2
  ks : Vector (Option KsVersion) 2
  ksLog : List KsCommit
  /-- Which of its two blocks the commit log is in (R408). -/
  ksBlk : Bool
  operatorRoot : Option DWord
  cert : Option DWord
  claim : BitVec 10
  ports : Word
  snaps : Vector (Option (DWord × SnapPart)) 2
  plog : List EvtRec
  marks : List Nat
  /-- Blocks whose FLS_ECC_CORR has been posted since the boot (R348). -/
  eccPosted : List Nat
  ctrs : Vector Ctr 7
  deriving DecidableEq, Repr

/-! ### Noise source -/

inductive RngState where
  | startup | ok | recovering | failed | capture
  deriving DecidableEq, Repr

/-- Who waits for conditioned output (R204). -/
inductive RngOwner where
  | xtsKey | salt | spillKey | hello (link : Nat) | rekey (link : Nat)
  | snapSalt (job : Nat) | seed (job : Nat) | tenant
  | attest (pend : Pend) (challenge : BitVec 384) (addr : DWord) (peer : Option (BitVec 776))
  deriving DecidableEq, Repr

structure RngReq where
  owner : RngOwner
  outputs : Nat
  deriving DecidableEq, Repr

structure Rng where
  state : RngState
  consec : Nat
  everOk : Bool
  windows : Nat
  ready : Nat
  waiting : List RngReq
  fault : Word
  view : BitVec 2
  ctrs : Vector Ctr 3
  deriving DecidableEq, Repr

/-! ### Stockroom -/

inductive HClass where
  | weightRO | veneer | grad | act | ring | input | staging
  deriving DecidableEq, Repr

/-- What pins a frame (R242): the descriptor under way on an engine, or the peer copy that a rank sends into a tensor of a
job. -/
inductive PinBy where
  | engine (e : Fin 8)
  | peer (src : BitVec 16) (job : Fin 4) (tensor : BitVec 16)
  deriving DecidableEq, Repr

/-- A frame entry (R226), held only once the frame has been written (ALLOC). PINNED is `pins` not empty: the descriptors in
flight that touch the frame (R242). -/
structure Frame where
  loc : Nat
  resident : Bool
  spilled : Bool
  pins : List PinBy
  /-- The frame is freed when its last pin goes (R228). -/
  dying : Bool
  /-- COUNTER of the frame's last page-out, kept in the metadata (R236). -/
  counter : DWord
  /-- When the frame was last translated, in translations of the module (R235). -/
  used : Nat
  deriving DecidableEq, Repr

/-- A handle record (R225) with its frame entries. -/
structure Handle where
  cls : HClass
  job : Nat
  spillable : Bool
  frames : Nat
  limit : Nat
  tensor : BitVec 16
  table : List (Nat × Frame)
  freeing : Bool
  deriving DecidableEq, Repr

/-- A spill slot in use (R236): the COUNTER, the handle and the frame of the page-out that filled it. -/
structure Spill where
  counter : DWord
  handle : Nat
  frame : Nat
  deriving DecidableEq, Repr

/-- What a copy engine's descriptor under way waits for: nothing, a slot (R239), a page-in (R235), or, at
the sender of a peer copy, the grant and then the completion (R311). -/
inductive EngWait where
  | none | slot | page | grant | done
  deriving DecidableEq, Repr

/-- A copy engine (R238): the job it works for, the rest of its list, and what its descriptor waits for. -/
structure Engine where
  job : Fin 4
  list : List Desc8
  wait : EngWait
  deriving DecidableEq, Repr

structure Stk where
  mem : List (Nat × Byte)
  handles : List (Nat × Handle)
  /-- Drawer bytes by handle × 2^37 + offset; unlisted bytes are zero (R226). -/
  bytes : List (Nat × Byte)
  xts : Option (BitVec 512)
  salt : Option DWord
  spillKey : Option (BitVec 256)
  /-- The tenant reset draws the salt again (R230). -/
  spillCounter : DWord
  spills : List (Nat × Spill)
  /-- What page-outs have written into the host's spill region, newest first: host address and bytes (R234, R236). -/
  hostOut : List (DWord × List Byte)
  /-- The translation cache (R227), as handle and frame index, latest first; and the translations made so far. -/
  tc : List (Nat × Nat)
  clock : Nat
  /-- Drawer requests by segment, as PFN × 32 + segment: in the window under way, and in the run under way (R231). -/
  winReq : List (Nat × Nat)
  runReq : List (Nat × Nat)
  /-- The segments tracked over the run that has made a re-placement pending (R231, R232). -/
  hot : List (Nat × Nat)
  base : DWord
  slots : BitVec 22
  cfg : Word
  fault : Word
  faultInfo : Word
  faultAddr : DWord
  view : BitVec 16
  patrol : Bool
  /-- Page-outs go on until FREE_LOW is exceeded by 256 frames (R235). -/
  paging : Bool
  imbRun : Nat
  replacePending : Bool
  chanReq : Vector Word 32
  engines : Vector Engine 8
  /-- Idle engines, longest idle first (R238). -/
  idle : List (Fin 8)
  /-- Copy lists that wait for an engine. -/
  queue : List (Fin 4 × List Desc8)
  ctrs : Vector Ctr 8
  deriving DecidableEq, Repr

/-! ### Benches, planes, lathes -/

/-- The unit states of R91 and R125. -/
inductive UState where
  | stopped | waiting | running | selftest | outOfService
  deriving DecidableEq, Repr

/-- The entry a bench runs: its job slot, virtual stage, direction, micro-batch and stage program. -/
structure EntryRun where
  job : Fin 4
  vstage : BitVec 3
  /-- The bench whose list the entry is from (R88: another bench may run it). -/
  list : Fin 4
  back : Bool
  mb : Nat
  prog : Nat
  frames : Nat
  deriving DecidableEq, Repr

/-- A bench. `pc` is the pass under way or next, `ld` the pass whose weight load comes next; `begun` says
that the pass at `pc` has promoted its weights, `read` that its activation reads have ended. -/
structure Bench where
  store : List (Nat × Byte)
  slots : BitVec 256
  state : UState
  job : Fin 4
  vstage : BitVec 3
  waitKind : BitVec 2
  waitSlot : Byte
  chainOpen : Bool
  cfg : Word
  cfgForce : Word
  fault : Word
  info : Word
  entry : Option EntryRun
  passes : List Desc8
  pc : Nat
  ld : Nat
  begun : Bool
  read : Bool
  /-- The pass under way keeps its tile and has W_SLOT still to release (R67). -/
  relDue : Bool
  /-- Microprograms of the entry that no plane has taken yet (R107, R116). -/
  progsLeft : List Nat
  /-- Working and shadow weights by row × 128 + column; unlisted cells are +0. -/
  work : List (Nat × Val)
  shadow : List (Nat × Val)
  /-- The stage program whose load the working weights hold. -/
  held : Option (Fin 4 × Nat)
  /-- Accumulator entries by entry × 128 + column. -/
  acc : List (Nat × Acc)
  /-- The LUT last loaded, with the bench store and SC_ADDR it came from, and the slots of that bench that have been marked
  FULL since (R86). -/
  lut : Option (Fin 4 × Nat × List (BitVec 16))
  lutMarks : BitVec 256
  /-- Gated cell-cycles not yet counted in units of 2^16 (R81). -/
  gatedLow : BitVec 16
  /-- The job slot served last on this bench (R173). -/
  served : Option (Fin 4)
  ctrs : Vector Ctr 7
  deriving DecidableEq, Repr

/-- A plane. -/
structure Plane where
  v : List (Nat × Word)
  k : Vector (BitVec 128) 8
  sc : Vector Word 32
  a : List (Nat × Acc)
  pc : Nat
  /-- The statistics last formed, combined or delivered; their variance; and the totals of the features done (R121,
  R122). -/
  norm : NormStat
  nvar : Val
  feats : List NormStat
  /-- The microprogram it runs, as an index in the image, the list of the entry it belongs to, and the bench of the
  program's group: that bench's store and slots are the program's (R97, R98, R106). -/
  prog : Option Nat
  list : Fin 4
  home : Fin 4
  state : UState
  job : Fin 4
  vstage : BitVec 3
  waitKind : BitVec 2
  waitSlot : Byte
  cfg : Word
  cfgForce : Word
  fault : Word
  info : Word
  ctrs : Vector Ctr 10
  deriving DecidableEq, Repr

/-- A lathe request (R109): function, format, destination register, and the operands still to be granted,
each with its element index, its argument and its u. -/
structure LatheReq where
  fn : LatheFn
  fmt : VFmt
  dst : BitVec 8
  left : List (Nat × Word × Word)
  deriving DecidableEq, Repr

inductive LState where
  | idle | running | selftest | outOfService
  deriving DecidableEq, Repr

structure Lathe where
  req : Vector (Option LatheReq) 4
  next : Fin 4
  state : LState
  fault : Word
  ftzExp : Word
  ftzExp2 : Word
  ftzSigmoid : Word
  ftzGate : Word
  ctrs : Vector Ctr 4
  deriving DecidableEq, Repr

/-! ### Jobs -/

/-- What lasts of a tensor's statistics record (R62) while no job holds it. -/
structure StatRec where
  ovf : Word
  nan : Word
  unf : Word
  ovfSat : Bool
  nanSat : Bool
  unfSat : Bool
  inexact : Bool
  deriving DecidableEq, Repr

/-- The phases of R163. -/
inductive Phase where
  | stopped | holding | compute | update | ready | boundary | aborting
  deriving DecidableEq, Repr

/-- A tensor of a running job: its statistics record (R62), the increments of the run, its scale (R138,
R142), its training state and the progress of its collectives. -/
structure TRun where
  id : BitVec 16
  handle : BitVec 16
  ovf : Word
  nan : Word
  unf : Word
  ovfSat : Bool
  nanSat : Bool
  unfSat : Bool
  inexact : Bool
  amax : Word
  dOvf : Nat
  dNan : Nat
  dUnf : Nat
  k : Int
  kPrev : Int
  hist : List Val
  cur : Bool
  skipped : Bool
  bc1 : Word
  bc2 : Word
  bn1 : Word
  bn2 : Word
  corr1 : Word
  corr2 : Word
  lrS : Word
  f : Word
  c : Word
  nonfinite : Bool
  fReady : Bool
  w2 : DWord
  g2 : DWord
  dw2 : DWord
  /-- Partials added so far, and partials that wait for a predecessor (R135). -/
  parts : Nat
  early : List (Nat × PartialAt)
  gFinal : Bool
  /-- G̃ final on this owner (R299). -/
  gtFinal : Bool
  /-- Elements of the owned shard completed so far, and chunks that wait for the member's own G: offset, the handle of
  their frames (R295) and words. -/
  owned : Nat
  waiting : List (Nat × Nat × Nat)
  /-- The contributions added so far in a direct glue-up, per chunk (R302): offset and number. -/
  direct : List (Nat × Nat)
  optDone : Bool
  /-- Runs of elements received in the all-gather (R305), and, for an optimizer of the image's own, written: PART,
  first element, number. -/
  gathered : List (Nat × Nat × Nat)
  tallyG : List (Nat × Val)
  tallyEnd : List (Nat × TallyEnd)
  myW2 : Val
  myDw2 : Val
  scaleLimit : Bool
  deriving DecidableEq, Repr

/-- The window of a port's ring that a step owns (R24, R432): its bounds, and the copies made of it, by
destination handle and offset. -/
structure Window where
  port : Nat
  lo : Nat
  hi : Nat
  copies : List (Nat × Nat)
  deriving DecidableEq, Repr

/-- A record slot (R189): the step, the membership epoch, the tensors' state before it, the stored bytes
of their handles, the windows, and the checksum of each tensor written. -/
structure Record where
  step : Nat
  epoch : Word
  tens : List TRun
  bytes : List (Nat × Byte)
  windows : List Window
  sums : List (BitVec 16 × DWord)
  /-- The STAGING handle that the slot takes, and whether its contents were lost (R224). -/
  handle : Nat
  lost : Bool
  /-- Serials of the participants (R191). -/
  members : List DWord
  gauges : List (BitVec 16 × DWord × DWord × DWord)
  deriving DecidableEq, Repr

/-- A snapshot request waiting for its boundary, or staging or exporting (R183, R184). -/
structure SnapReq where
  pend : Option Pend
  flash : Bool
  limit : Nat
  staged : Option Part
  salt : Option (BitVec 256)
  exporting : Bool
  /-- The STAGING handle that the part takes; 0 while it has none. -/
  handle : Nat
  /-- The step number after whose boundary it is taken; none while the coordinator has not named it (R183). -/
  at_ : Option Nat
  /-- The host buffer, and how the flash task of an export to the flash has ended (R184, R361). -/
  addr : DWord
  written : Option Bool
  deriving DecidableEq, Repr

/-- A REPLAY waiting for its boundary (R190): the command to answer, if this module received it, and WHICH. -/
structure ReplayReq where
  pend : Option Pend
  which : Bool
  at_ : Option Nat
  deriving DecidableEq, Repr

/-- A restore (R188): the command, the parts this module offers, and the outcome of the check. -/
structure Restore where
  pend : Option Pend
  parts : List Part
  agreed : Option DWord
  deriving DecidableEq, Repr

/-- An exchange of normalisation totals that this module has entered (R307): tensor, ranks of the group, the bench and
slot that the results return by, the plane, and the number of parts. -/
structure NormWait where
  tensor : BitVec 16
  ranks : List Nat
  plane : Fin 16
  slot : BitVec 8
  parts : Nat
  deriving DecidableEq, Repr

/-- A job slot in use. -/
structure Job where
  index : Nat
  train : Bool
  phase : Phase
  parked : Bool
  fabric : Bool
  step : Nat
  epoch : Word
  seed : Option DWord
  drawn : Bool
  /-- The seed, or a snapshot's salt, still waits for the noise source (R204). -/
  kg : BitVec 128
  tens : List TRun
  nInv : Word
  samples : Nat
  windows : List Window
  rerun : Bool
  /-- Items 4 to 6 of this boundary wait for the epoch change of item 3 (R28). -/
  late : Bool
  pos : Vector Nat 4
  /-- The bench lists whose next entry has had its copy lists handed out (R238; log entry 30). -/
  fed : List (Fin 4)
  requests : Nat
  /-- Trigger times of the request running and of those waiting (R174). -/
  running : Option Nat
  waiting : List Nat
  latMax : DWord
  ringSeen : Nat
  /-- When the last element that the request has written was written, and when a period trigger last fired (R174). -/
  outAt : Option Nat
  trigAt : Nat
  retries : Nat
  records : List Record
  /-- What a REPLAY under way puts back when it ends (R190). -/
  saved : Option Record
  /-- The epoch under which the step last aborted on the fabric: it re-runs under a later one (R194). -/
  abortEpoch : Option Word
  /-- The JOB_START that waits for the job's seed to be drawn (R206). -/
  startPend : Option Pend
  /-- A stop that waits for the boundary, with the JOB_STOP commands it answers (R29; none for R88). -/
  stop : Option (List Pend)
  snap : Option SnapReq
  replays : List ReplayReq
  replaying : Option ReplayReq
  restore : Option Restore
  rho2 : Bool
  trn : Vector Ctr 6
  seq : Vector Ctr 4
  glueFirst : Option Nat
  /-- COL_GLUE_LAST, and the same span of the step under way. -/
  glueLast : DWord
  glueSpan : Nat
  glueQ : List (BitVec 16)
  glueIn : List (BitVec 16)
  /-- Expert dispatches held (R309): tensor, backward, source rank and entries. -/
  exp : List (BitVec 16 × Bool × Nat × List ExpEntry)
  /-- The handles of class GRAD whose frames hold those entries (R295). -/
  expHeld : List (BitVec 16 × Bool × Nat)
  /-- The merged entries of a complete exchange at this primary, each with its source and the cap applied; and what has
  been returned to this source. -/
  expKept : List (BitVec 16 × Bool × List (Nat × ExpEntry))
  expRet : List (BitVec 16 × Bool × Nat × List ExpEntry)
  /-- Entries that an expert dropped, as this source was told in the step's forward exchanges (false); and those of them
  that the backward exchange under way leaves out (true, R310). -/
  expGone : List (BitVec 16 × Bool × ExpEntry)
  /-- Normalisation totals held (R307): tensor, rank, part and totals; the exchanges this module waits for; and the
  combined totals. -/
  norms : List (BitVec 16 × Nat × Nat × List NormStat)
  normReqs : List NormWait
  normOut : List (BitVec 16 × List NormStat)
  /-- State still to fetch under R181: tensor, first element and number. -/
  fetch : List (BitVec 16 × Nat × Nat)
  /-- Tensors of which a mirrored or replicated buffer was lost and is fetched again at the next boundary (R224),
  with the rank that held it when it was lost. -/
  refetch : List (BitVec 16 × Nat)
  /-- Once-per-step marks: SCALE_LIMIT, SKIP, TEL_DROP, BAD_MSG, EXP_DROP. -/
  once : BitVec 5
  /-- Inference passes bound to the buffers that the last COMMIT made alternate (R157): job slot and request. -/
  readers : List (Fin 4 × Nat)
  /-- GATHER messages that wait until those passes have left the buffers (R157). -/
  gatherHeld : List (MsgHdr × ColHdr × List Byte)
  deriving DecidableEq, Repr

structure TrnDev where
  viewJob : Fin 4
  viewTensor : BitVec 16
  fault : Word
  telBase : DWord
  telLog2 : BitVec 5
  wr : RingPtr
  rd : RingPtr
  /-- The sealed records in the host's ring, 96 bytes each (R160, R382). -/
  ring : List (Nat × List Byte)
  drops : Ctr
  /-- The statistics records of tensors that no job in a slot holds, by tensor id (R62). -/
  stats : List (Nat × StatRec)
  deriving DecidableEq, Repr

structure SeqDev where
  view : Fin 4
  fault : Word
  slices : Ctr
  /-- Snapshots that still export when their job has stopped, by the job slot they are from (R28, R184). -/
  exports : Vector (Option SnapReq) 4
  deriving DecidableEq, Repr

/-! ### Links, workshop, collectives -/

/-- The link states of R286. -/
inductive LkState where
  | disabled | signalDetect | training | hello | up | retrain | peerQuiesce | notAdmitted | stopped
  deriving DecidableEq, Repr

/-- The keys and salts that the two directions of a link seal under (R268). -/
structure LinkKeys where
  tx : List Byte
  rx : List Byte
  txSalt : List Byte
  rxSalt : List Byte
  deriving DecidableEq, Repr

/-- A rekey under way (R270): the generation offered, whether the peer's OFFER has come, and the two
switch points still ahead. -/
structure RekeyRun where
  gen : Word
  /-- This side has started the rekey. -/
  first : Bool
  drawn : Bool
  answered : Bool
  txAt : Option DWord
  /-- The peer has confirmed SWITCH_AT. -/
  txAck : Bool
  rxAt : Option DWord
  txDone : Bool
  rxDone : Bool
  /-- The ephemeral private key drawn for the OFFER, the peer's public key, and the keys of the new generation. -/
  eph : Option (BitVec 384)
  peerEph : List Byte
  keys : Option LinkKeys
  deriving DecidableEq, Repr

/-- An unacknowledged DATA flit (R263): its SEQ, lane, place in its message, plaintext and resends. -/
structure TxFlit where
  seq : BitVec 12
  vl : BitVec 2
  first : Bool
  last : Bool
  body : List Byte
  resends : Nat
  deriving DecidableEq, Repr

structure Link where
  state : LkState
  lanes : BitVec 4
  tempTrain : Byte
  gen : Word
  disable : Bool
  fault : Word
  peerRank : BitVec 10
  peerMember : Bool
  peerLink : BitVec 3
  vMin : Byte
  hMin : Byte
  worst : BitVec 2
  txF : DWord
  rxF : DWord
  keyed : Bool
  peerSerial : DWord
  peerClaim : BitVec 10
  /-- WS_ID, EPOCH and MEMBERS of the peer's HELLO (R266). -/
  peerWs : DWord
  peerEpoch : Word
  peerMembers : Nat
  peerHolding : Bool
  nonce : Option (BitVec 256)
  /-- This session's ephemeral private key, until the keys are installed; the peer's NONCE and EPH_PUB; and the keys
  (R266, R268). -/
  eph : Option (BitVec 384)
  peerNonce : BitVec 256
  peerEph : List Byte
  keys : Option LinkKeys
  /-- HELLO messages sent in this session, and the last of them. -/
  hellos : Nat
  helloOut : List Byte
  /-- The peer's HELLO has been verified; the peer's HELLO carried PEER_SEEN; KEYS_ON sent. -/
  peerSeen : Bool
  seenByPeer : Bool
  keysOn : Bool
  trainFails : Nat
  /-- The training attempt has failed; the next one waits (R265). -/
  trainFailed : Bool
  tagRun : Nat
  txSeq : BitVec 12
  rxSeq : BitVec 12
  unacked : List TxFlit
  /-- Unacknowledged flits still to be resent, by SEQ (R263). -/
  resend : List (BitVec 12)
  /-- The flit of the last slot, as it went out (R254). -/
  sent : List Byte
  /-- Messages waiting to be sent, as flits left, by virtual lane. -/
  queue : List (BitVec 2 × Nat × Sent)
  credits : Vector (BitVec 16) 4
  creditsBack : Vector (BitVec 16) 4
  /-- The CRED fields of the last LINK flit received (R256). -/
  credSeen : Vector (BitVec 16) 4
  nak : Bool
  discard : Bool
  dataRun : Nat
  rr : Nat
  switchAck : Bool
  rekey : Option RekeyRun
  marked : Bool
  urgent : Bool
  wake : Bool
  /-- The link has exhausted its keys, until RESTART or a full reset (R271). -/
  stopped : Bool
  ctrs : Vector Ctr 8
  deriving DecidableEq, Repr

inductive WsState where
  | unjoined | member | coordinator | holding
  deriving DecidableEq, Repr

/-- An epoch change under way at the coordinator (R279). -/
structure Change_ where
  prop : Proposal
  view : List Member
  /-- Serials of the prospective members whose ACCEPT has come with this view. -/
  accepts : List DWord
  deriving DecidableEq, Repr

structure Ws where
  state : WsState
  rank : Nat
  coord : Nat
  epoch : Word
  id : DWord
  cfg : Word
  /-- FAB_WS_CFG as the last JOB_START took it (R93, R335). -/
  cfgForce : Word
  fault : Word
  members : List Member
  adj : List Adj
  arrivals : List Arrival
  departed : List Nat
  changes : List Change
  change : Option Change_
  /-- The view this member derived from the last PROPOSE. -/
  view : Option (Word × List Member)
  /-- The PROPOSE that is to admit this module (R279): which members are older than it. -/
  told : Option Proposal
  joinSent : Bool
  joinRefused : Bool
  /-- Fabric jobs that this member has asked to take part in and is not yet admitted to (R277, R282). -/
  joinJobs : List Nat
  leaving : Bool
  /-- READY received at the coordinator: job index, step and ranks (R153). -/
  ready : List (Nat × Nat × List Nat)
  /-- At a new coordinator: jobs whose members are asked for their last committed step, and who has answered with how many
  steps committed (R155). -/
  asked : List (Nat × List (Nat × Nat))
  /-- At the coordinator: restore offers by job and rank (R188). -/
  offers : List (Nat × Nat × List PartHdr)
  /-- At the coordinator: snapshot and replay requests of jobs that it does not run, until it sends their next COMMIT (R183,
  R190). -/
  snapWait : List Nat
  replayWait : List (Nat × BitVec 16)
  /-- The workshop is being dissolved: its fabric jobs hold at their next boundary (R281). -/
  dissolving : Bool
  /-- At the coordinator: replay outcomes by job index and rank, until every live participant's is in (R190). -/
  replayOut : List (Nat × Nat × ReplayOutcome)
  /-- Members that have a scheduled retrain under way, and since when (R274). -/
  retraining : List (Nat × DWord)
  quiet : List Nat
  /-- When a HEARTBEAT or BEAT of a member was last heard, in the timekeeper's ns (R278). -/
  heard : List (Nat × DWord)
  ctrs : Vector Ctr 2
  deriving DecidableEq, Repr

/-- A peer copy open at this receiver (R311). -/
structure PeerOpen where
  src : BitVec 16
  job : Fin 4
  tensor : BitVec 16
  ext : PeerExtent
  granted : Bool
  rows : Nat
  deriving DecidableEq, Repr

structure Col where
  view : Fin 4
  cfg : Word
  fault : Word
  info : Word
  peers : List PeerOpen
  /-- When a collective of a job slot and tensor last opened or received a message, and when each slot's step last opened
  collectives (R313). -/
  heard : List (Fin 4 × BitVec 16 × DWord)
  since : Vector DWord 4
  ctrs : Vector Ctr 8
  deriving DecidableEq, Repr

/-! ### Sensor ports -/

/-- A ring entry (R429): word, port, flags and time. -/
structure RingEntry where
  time : DWord
  data : Word
  index : BitVec 16
  port : BitVec 5
  flags : Byte
  deriving DecidableEq, Repr

structure Port where
  cfg : Word
  winNs : DWord
  contiguous : Bool
  clk : Bool
  capturing : Bool
  fault : Word
  wrCount : DWord
  lastFs : DWord
  /-- The frame in progress: its time, the next word number, and whether its entries carry GAP and DISC. -/
  frame : Option DWord
  word : Nat
  frameGap : Bool
  /-- The next frame carries GAP. -/
  gap : Bool
  disc : Bool
  /-- A frame-sync has been seen since capture started; the last word was lost to a full buffer. -/
  seen : Bool
  burst : Bool
  /-- The drawers hold its ring (R428, R229). -/
  ringed : Bool
  buf : List RingEntry
  ring : List (Nat × RingEntry)
  handle : BitVec 16
  ctrs : Vector Ctr 5
  deriving DecidableEq, Repr

/-- The parts of the family (R2). -/
inductive PartNo where
  | hn7260 | hn7240 | hn7230
  deriving DecidableEq, Repr

/-- One Hirno module. -/
structure State where
  pending : List Instr
  free : Nat
  part : PartNo
  serial : DWord
  glb : Glb
  pwr : Pwr
  aon : Aon
  evt : Evt
  hif : Hif
  mgmt : Mgmt
  sec : Sec
  fls : Fls
  rng : Rng
  stk : Stk
  bnc : Vector Bench 4
  pln : Vector Plane 16
  lth : Vector Lathe 4
  trn : TrnDev
  sq : SeqDev
  jobs : Vector (Option Job) 4
  links : Vector Link 8
  ws : Ws
  col : Col
  sns : Vector Port 24
  img : Option Image
  out : List Sent
  deriving DecidableEq, Repr


/-! ### Reset

Every field right after a full reset of a module as it leaves manufacture: the value of the reset column of
the register maps; where the spec gives none, zero or empty (log entries 2, 3 and 4). -/

def Ctr.zero : Ctr := ⟨0, false⟩

def RingPtr.zero : RingPtr := ⟨0, false⟩

def Acc.zero : Acc := ⟨.fin false 0 0, false, false, false, false⟩

def Glb.reset : Glb :=
  { state := .booting, phase := .verify, active := none, fallback := false, lastStatus := 0,
    bankA := .empty, bankB := .empty, imageId := 0, bootMs := 0, svn := 0, cycle := 0,
    bootBank := none, trial := false, select := none }

/-- R483 to R488. -/
def Pwr.reset : Pwr :=
  { state := .run, target := .run, transition := false, seq := .up 0, level := 0, pendingLevel := 0,
    perfWaiting := [], gate := 0, selftest := none, retrain := none, drawerMarks := 0, drawersNow := [], armed := 0,
    pwrGood := false, quiesceMax := 200, fault := 0, temp := 0, peak := 0, pllLock := false,
    coreDiv := 4, dramTemp := vrep 4 0, ctrs := vrep 6 Ctr.zero, rails := vrep 5 true, goal := .run, req := none, nextReq := none,
    watchdogs := [], coreDown := false, thermalHold := false, wakeDeferred := false,
    bias := .forward, sram := .assistOn }

/-- R396, R447 to R450, R485, R486. -/
def Aon.reset : Aon :=
  { onCell := false, por := true, src := 0, tk := .free, srcUsed := false, master := 0, freqAdj := 0,
    time := 0, nextSec := 0, timer := 0, timerArmed := false, ppsErr := 0, cmpCfg := vrep 4 0,
    tripped := 0, trip := 0, timerFlag := false, alarm := false, ret := (vrep 32 0).set 0 0x1C01,
    ctrs := vrep 4 Ctr.zero, goodRun := 0, rejRun := 0, lastPps := 0, lastCorr := 0, supply := true, cell := true,
    debugSeen := true, historyLost := true, cellTrip := false, mr3 := [⟨4, 0, 0, 0⟩], lockout := false, wakeEn := 1,
    wakeCause := 0x1C01, deferred := [], railPend := false, thermPend := false, porPend := true }

def Evt.reset : Evt :=
  { queue := [], log := [], head := 0, seqNext := 0, mask := 0, fault := 0, ringBase := 0, ringLog2 := 0,
    wr := RingPtr.zero, rd := RingPtr.zero, lostBefore := false, ringLost := false, ring := [],
    ctrs := vrep 3 Ctr.zero }

/-- An MSI-X entry after reset: masked (PRESUMED from the PCIe specification, log entry 24). -/
def MsixVec.reset : MsixVec := ⟨0, 0, true, false, 0⟩

def Hif.reset : Hif :=
  { gen := 0, opcode := 0, args := vrep 4 0, queue := [], running := [], slots := vrep 16 none, ring := [],
    fault := 0, faultInfo := 0, session := none, pcieUp := false, width := 0, speed := 0,
    msix := vrep 4 MsixVec.reset, ctrs := vrep 4 Ctr.zero, wrote := [], sideband := none }

def Mgmt.reset : Mgmt :=
  { session := none, selfSigned := false, fails := 0, lastTry := 0, lastUse := 0, stream := false, out := [],
    debugOpen := false, paths := 0 }

def Sec.reset : Sec :=
  { fault := 0, faultInfo := 0, tending := false, tendMs := 0, tend := none, later := [], held := [], reportNext := 0,
    keys := vrep 4 none, fwSvn := Config.fwSvn, fwVersion := Config.fwVersion, fwCopy := false,
    fuse := 0, mr2 := none, mr4 := none, report := none, ctrs := vrep 5 Ctr.zero }

/-- The flash as it leaves manufacture (R330, R339, R354, R408). -/
def Fls.reset : Fls :=
  { words := [], map := [], spares := List.range' 4016 80, bbt := [], bbtLog := vrep 2 [], eraseCounts := [],
    marginFails := [], selLog := [], selBlk := false, hkLog := [], hkBlk := false, ar := 0,
    prot := (vrep 16 Prot.unlocked).set 11 Prot.permanent, password := none, sessions := 0,
    unlockFails := 0, poolEmpty := false, thresh := 1, view := 0, fault := 0, faultInfo := 0,
    lost := [], tasks := [], issued := none, img := none,
    fw := (vrep 2 none).set 0 (some ⟨Config.fwSvn, Config.fwVersion, 0, true⟩), ks := vrep 2 none,
    ksLog := [], ksBlk := false, operatorRoot := none, cert := none, claim := 0, ports := 0, snaps := vrep 2 none,
    plog := [], marks := [], eccPosted := [], ctrs := vrep 7 Ctr.zero }

/-- The boot's requests for conditioned output wait from the start (R204). -/
def Rng.bootDraws : List RngReq := [⟨.xtsKey, 2⟩, ⟨.salt, 1⟩, ⟨.spillKey, 1⟩]

def Rng.reset : Rng :=
  { state := .startup, consec := 0, everOk := false, windows := 0, ready := 0, waiting := Rng.bootDraws,
    fault := 0, view := 0, ctrs := vrep 3 Ctr.zero }

def Engine.reset : Engine := ⟨0, [], .none⟩

def Stk.reset : Stk :=
  { mem := [], handles := [], bytes := [], xts := none, salt := none, spillKey := none, spillCounter := 0,
    spills := [], hostOut := [], tc := [], clock := 0, winReq := [], runReq := [], hot := [], base := 0, slots := 0, cfg := 0x10040A18, fault := 0, faultInfo := 0, faultAddr := 0,
    view := 0, patrol := false, paging := false, imbRun := 0, replacePending := false, chanReq := vrep 32 0,
    engines := vrep 8 Engine.reset, idle := [0, 1, 2, 3, 4, 5, 6, 7], queue := [],
    ctrs := vrep 8 Ctr.zero }

/-- R89 to R95. -/
def Bench.reset : Bench :=
  { store := [], slots := 0, state := .stopped, job := 0, vstage := 0, waitKind := 0, waitSlot := 0xFF,
    chainOpen := false, cfg := 0x1801, cfgForce := 0x1801, fault := 0, info := 0xFF, entry := none,
    passes := [], pc := 0, ld := 0, begun := false, read := false, relDue := false, progsLeft := [], work := [], shadow := [],
    held := none, acc := [], lut := none, lutMarks := 0, gatedLow := 0,
    served := none, ctrs := vrep 7 Ctr.zero }

/-- R123 to R127. -/
def Plane.reset : Plane :=
  { v := [], k := vrep 8 0, sc := vrep 32 0, a := [], pc := 0,
    norm := ⟨0, .fin false 0 0, .fin false 0 0⟩, nvar := .fin false 0 0, feats := [], prog := none, list := 0, home := 0, state := .stopped, job := 0, vstage := 0,
    waitKind := 0, waitSlot := 0xFF, cfg := 0x1800, cfgForce := 0x1800, fault := 0, info := 0xFF,
    ctrs := vrep 10 Ctr.zero }

/-- R128 to R131. -/
def Lathe.reset : Lathe :=
  { req := vrep 4 none, next := 0, state := .idle, fault := 0, ftzExp := 0xC2D00000,
    ftzExp2 := 0xC3160000, ftzSigmoid := 0xC2D00000, ftzGate := 0xC2D00000, ctrs := vrep 4 Ctr.zero }

def TrnDev.reset : TrnDev :=
  { viewJob := 0, viewTensor := 0, fault := 0, telBase := 0, telLog2 := 0, wr := RingPtr.zero,
    rd := RingPtr.zero, ring := [], drops := Ctr.zero, stats := [] }

def SeqDev.reset : SeqDev := ⟨0, 0, Ctr.zero, vrep 4 none⟩

/-- R260, R286 to R289. -/
def Link.reset : Link :=
  { state := .disabled, lanes := 0, tempTrain := 0, gen := 0, disable := false, fault := 0, peerRank := 0,
    peerMember := false, peerLink := 0, vMin := 0, hMin := 0, worst := 0, txF := 0, rxF := 0,
    keyed := false, peerSerial := 0, peerClaim := 0, peerWs := 0, peerEpoch := 0, peerMembers := 0, peerHolding := false, nonce := none, eph := none,
    peerNonce := 0, peerEph := [], keys := none, hellos := 0, helloOut := [],
    peerSeen := false, seenByPeer := false, keysOn := false, trainFails := 0, trainFailed := false, tagRun := 0, txSeq := 0,
    rxSeq := 0, unacked := [], resend := [], sent := [], queue := [], credits := ⟨#[8, 2048, 1536, 504], rfl⟩,
    creditsBack := vrep 4 0, credSeen := vrep 4 0, nak := false, discard := false, dataRun := 0, rr := 0,
    switchAck := false, rekey := none, marked := false, urgent := false, wake := false, stopped := false,
    ctrs := vrep 8 Ctr.zero }

/-- R291 to R293. -/
def Ws.reset : Ws :=
  { state := .unjoined, rank := 0, coord := 0, epoch := 0, id := 0, cfg := 0x08141432, cfgForce := 0x08141432, fault := 0,
    members := [], adj := [], arrivals := [], departed := [], changes := [], change := none,
    view := none, told := none, joinSent := false, joinRefused := false, joinJobs := [], leaving := false, ready := [], asked := [], offers := [], snapWait := [], replayWait := [], dissolving := false,
    replayOut := [], retraining := [], quiet := [], heard := [], ctrs := vrep 2 Ctr.zero }

/-- R315 to R317. -/
def Col.reset : Col := ⟨0, 0x864, 0, 0, [], [], vrep 4 0, vrep 8 Ctr.zero⟩

/-- R444 to R446. -/
def Port.reset : Port :=
  { cfg := 0, winNs := 0, contiguous := false, clk := false, capturing := false, fault := 0,
    wrCount := 0, lastFs := 0, frame := none, word := 0, frameGap := false, gap := false, disc := false,
    seen := false, burst := false, ringed := false,
    buf := [], ring := [], handle := 0, ctrs := vrep 5 Ctr.zero }

/-- The module right after reset. -/
def State.reset : State :=
  { pending := [], free := 0, part := .hn7260, serial := Config.serial, glb := Glb.reset,
    pwr := Pwr.reset, aon := Aon.reset, evt := Evt.reset, hif := Hif.reset, mgmt := Mgmt.reset,
    sec := Sec.reset, fls := Fls.reset, rng := Rng.reset, stk := Stk.reset, bnc := vrep 4 Bench.reset,
    pln := vrep 16 Plane.reset, lth := vrep 4 Lathe.reset, trn := TrnDev.reset, sq := SeqDev.reset,
    jobs := vrep 4 none, links := vrep 8 Link.reset, ws := Ws.reset, col := Col.reset,
    sns := vrep 24 Port.reset, img := none, out := [] }

end Sys2Proof.Machine
end

