-- ==== Sys2Proof/Machine/Tab.lean ====
section
/-! DEFINITION. Sparse tables and byte memories in one canonical form: keys strictly rising, and no entry
that equals what an unlisted key reads as (R219, R226, R339 lay the memories out; log entry 3). -/

namespace Sys2Proof.Machine

/-- The value at key k; an unlisted key reads as d. -/
def tabGet {α : Type} (d : α) (k : Nat) : List (Nat × α) → α
  | [] => d
  | (j, x) :: t => if j = k then x else if k < j then d else tabGet d k t

/-- The table without key k. -/
def tabErase {α : Type} (k : Nat) : List (Nat × α) → List (Nat × α)
  | [] => []
  | (j, x) :: t => if j = k then t else if k < j then (j, x) :: t else (j, x) :: tabErase k t

/-- The table with x inserted at key k. -/
def tabPut {α : Type} (k : Nat) (x : α) : List (Nat × α) → List (Nat × α)
  | [] => [(k, x)]
  | (j, y) :: t =>
    if j = k then (k, x) :: t else if k < j then (k, x) :: (j, y) :: t else (j, y) :: tabPut k x t

/-- The table with x at key k, in canonical form. -/
def tabSet {α : Type} [DecidableEq α] (d : α) (k : Nat) (x : α) (t : List (Nat × α)) : List (Nat × α) :=
  if x = d then tabErase k t else tabPut k x t

/-- The canonical form. -/
def tabWf {α : Type} [DecidableEq α] (d : α) (t : List (Nat × α)) : Bool :=
  decide (t.Pairwise fun a b => a.1 < b.1) && t.all fun a => decide (a.2 ≠ d)

/-- Keys strictly rising. -/
def tabSorted {α : Type} (t : List (Nat × α)) : Bool :=
  decide (t.Pairwise fun a b => a.1 < b.1)

/-- The value at key k of a table of optional values. -/
def tabFind {α : Type} (k : Nat) : List (Nat × α) → Option α
  | [] => none
  | (j, x) :: t => if j = k then some x else if k < j then none else tabFind k t

/-! ### Byte memories -/

/-- A byte memory: unlisted bytes read as zero. -/
abbrev Memory := List (Nat × Byte)

/-- The canonical form of a byte memory. -/
def Memory.wf (m : Memory) : Bool := tabWf (0 : Byte) m

def byteAt (m : Memory) (a : Nat) : Byte := tabGet 0 a m

def setByte (m : Memory) (a : Nat) (b : Byte) : Memory := tabSet 0 a b m

/-- n bytes from address a on. -/
def readBytes (m : Memory) (a : Nat) : Nat → List Byte
  | 0 => []
  | n + 1 => byteAt m a :: readBytes m (a + 1) n

/-- The bytes bs written from address a on. -/
def writeBytes (m : Memory) (a : Nat) : List Byte → Memory
  | [] => m
  | b :: t => writeBytes (setByte m a b) (a + 1) t

/-- The bytes of an address range removed: they read as zero. -/
def clearRange (m : Memory) (a n : Nat) : Memory :=
  m.filter fun c => !(decide (a ≤ c.1) && decide (c.1 < a + n))

/-- The number that little-endian bytes spell. -/
def leNat : List Byte → Nat
  | [] => 0
  | b :: t => b.toNat + 256 * leNat t

/-- The n little-endian bytes of a number. -/
def leBytes : Nat → Nat → List Byte
  | 0, _ => []
  | n + 1, x => BitVec.ofNat 8 x :: leBytes n (x / 256)

end Sys2Proof.Machine
end

