-- ==== Sys2Proof/Machine/Crypto.lean ====
section
/-! DEFINITION. The functions of fixed standards that the spec names: SHA-384 (FIPS 180-4; R208, R395), HMAC and HKDF over it
(RFC 2104, RFC 5869; R268, R270), AES encryption (FIPS 197; R209), AES-256-XTS (IEEE 1619; R222), AES-256-GCM
(SP 800-38D; R236, R269), and the CRC of ECMA-182 (R189). -/

namespace Sys2Proof.Machine

def m64 : Nat := 2 ^ 64

/-! ### SHA-384

The constants are computed as the standard defines them: fractional bits of roots of the first primes. -/

def isPrime (n : Nat) : Bool := decide (2 ≤ n) && (List.range n).all fun d => decide (d < 2) || n % d != 0

/-- The first eighty primes. -/
def primes80 : List Nat := (List.range 410).filter isPrime

/-- The largest r below 2^b with r^k ≤ n, found bit by bit from `top`. -/
def rootFrom (n k : Nat) : Nat → Nat → Nat
  | 0, top => top
  | b + 1, top => rootFrom n k b (if (top + 2 ^ b) ^ k ≤ n then top + 2 ^ b else top)

/-- The first 64 bits of the fractional part of the k-th root of p. -/
def rootBits (k p : Nat) : Nat := rootFrom (p * 2 ^ (64 * k)) k 68 0 % m64

/-- The round constants: cube roots of the eighty primes. -/
def shaK : List Nat := primes80.map (rootBits 3)

/-- The initial value of SHA-384: square roots of the ninth to the sixteenth prime. -/
def shaInit : List Nat := ((primes80.drop 8).take 8).map (rootBits 2)

def rotr64 (x n : Nat) : Nat := (x >>> n) ||| ((x <<< (64 - n)) % m64)

/-- Three rotations added modulo 2; with `cut` the third is a shift. -/
def spin (cut : Bool) (x a b c : Nat) : Nat :=
  (rotr64 x a) ^^^ (rotr64 x b) ^^^ (if cut then x >>> c else rotr64 x c)

/-- One round on the working variables v with the window w of the next sixteen schedule words, which then moves on by
one word. -/
def shaTurn (q : List Nat × List Nat) (k : Nat) : List Nat × List Nat :=
  let v := fun i => q.1.getD i 0
  let w := fun i => q.2.getD i 0
  let pick := (v 4 &&& v 5) ^^^ ((m64 - 1 - v 4) &&& v 6)
  let most := (v 0 &&& v 1) ^^^ (v 0 &&& v 2) ^^^ (v 1 &&& v 2)
  let t := v 7 + spin false (v 4) 14 18 41 + pick + k + w 0
  let next := spin true (w 14) 19 61 6 + w 9 + spin true (w 1) 1 8 7 + w 0
  ([(t + spin false (v 0) 28 34 39 + most) % m64, v 0, v 1, v 2, (v 3 + t) % m64, v 4, v 5, v 6],
   q.2.drop 1 ++ [next % m64])

def beNat (bs : List Byte) : Nat := bs.foldl (fun a b => a * 256 + b.toNat) 0

/-- The n big-endian bytes of a number. -/
def beBytes (n x : Nat) : List Byte := (leBytes n x).reverse

def words8 : Nat → List Byte → List Nat
  | 0, _ => []
  | n + 1, bs => beNat (bs.take 8) :: words8 n (bs.drop 8)

def shaBlock (h : List Nat) (blk : List Byte) : List Nat :=
  (h.zip (shaK.foldl shaTurn (h, words8 16 blk)).1).map fun p => (p.1 + p.2) % m64

/-- The chaining value after n blocks of 128 bytes. -/
def shaBlocks : Nat → List Byte → List Nat → List Nat
  | 0, _, h => h
  | n + 1, bs, h => shaBlocks n (bs.drop 128) (shaBlock h (bs.take 128))

/-- SHA-384 of a byte string: a one bit, zeros and the bit length fill it to whole blocks. -/
def sha384 (msg : List Byte) : BitVec 384 :=
  let p := msg ++ 0x80 :: (List.replicate ((239 - msg.length % 128) % 128) 0 ++ beBytes 16 (8 * msg.length))
  BitVec.ofNat 384 (((shaBlocks (p.length / 128) p shaInit).take 6).foldl (fun a x => a * m64 + x) 0)

/-- The 48 bytes of a digest, first byte first. -/
def digestBytes (d : BitVec 384) : List Byte := beBytes 48 d.toNat

/-- The first 128 bits of a digest, as a number whose byte 0 is the digest's first (little-endian). -/
def digest128 (d : BitVec 384) : BitVec 128 := BitVec.ofNat 128 (leNat ((digestBytes d).take 16))

/-- KG: the first 128 bits of SHA-384(0x4752_4E31 ∥ seed) (R208). -/
def genKey (seed : DWord) : BitVec 128 :=
  digest128 (sha384 (leBytes 4 0x47524E31 ++ leBytes 8 seed.toNat))

/-! ### AES-128 -/

def gmul2 (x : Nat) : Nat := if x < 128 then 2 * x else (2 * x) % 256 ^^^ 0x1b

def gmulN : Nat → Nat → Nat → Nat
  | 0, _, _ => 0
  | n + 1, a, b => (if b % 2 = 1 then a else 0) ^^^ gmulN n (gmul2 a) (b / 2)

/-- The product in GF(2^8). -/
def gmul (a b : Nat) : Nat := gmulN 8 a b

def gpow (a : Nat) : Nat → Nat
  | 0 => 1
  | n + 1 => gmul a (gpow a n)

def rotl8 (x n : Nat) : Nat := ((x <<< n) % 256) ||| (x >>> (8 - n))

/-- The S-box: the inverse in GF(2^8) (a^254) and the affine map. -/
def sbox (x : Nat) : Nat :=
  let x2 := gmul x x
  let x3 := gmul x2 x
  let x6 := gmul x3 x3
  let x12 := gmul x6 x6
  let x15 := gmul x12 x3
  let x30 := gmul x15 x15
  let x60 := gmul x30 x30
  let x120 := gmul x60 x60
  let x126 := gmul x120 x6
  let x127 := gmul x126 x
  let y := gmul x127 x127
  y ^^^ rotl8 y 1 ^^^ rotl8 y 2 ^^^ rotl8 y 3 ^^^ rotl8 y 4 ^^^ 0x63

/-- The key schedule: n more words of four bytes, newest first, for a key of nk words; i is the number of the next. -/
def aesWords (nk : Nat) : Nat → Nat → Nat → List (List Nat) → List (List Nat)
  | 0, _, _, ws => ws
  | n + 1, i, rc, ws =>
    let last := ws.headD []
    let turned := (last.drop 1 ++ last.take 1).map sbox
    let t := if i % nk = 0 then List.zipWith (· ^^^ ·) turned [rc, 0, 0, 0]
      else if 6 < nk ∧ i % nk = 4 then last.map sbox else last
    aesWords nk n (i + 1) (if i % nk = 0 then gmul2 rc else rc) (List.zipWith (· ^^^ ·) (ws.getD (nk - 1) []) t :: ws)

/-- Groups of four. -/
def fours {α : Type} : Nat → List α → List (List α)
  | 0, _ => []
  | n + 1, xs => xs.take 4 :: fours n (xs.drop 4)

/-- The round keys of sixteen bytes for a key of nk words: nk + 7 of them. -/
def aesKeys (nk : Nat) (key : List Nat) : List (List Nat) :=
  let ws := (aesWords nk (4 * (nk + 7) - nk) nk 1 (fours nk key).reverse).reverse
  (fours (nk + 7) ws).map List.flatten

def shiftRows (s : List Nat) : List Nat :=
  [0, 5, 10, 15, 4, 9, 14, 3, 8, 13, 2, 7, 12, 1, 6, 11].map fun i => s.getD i 0

def mixCol (c : List Nat) : List Nat :=
  match c with
  | [a, b, d, e] =>
    [gmul2 a ^^^ (gmul2 b ^^^ b) ^^^ d ^^^ e, a ^^^ gmul2 b ^^^ (gmul2 d ^^^ d) ^^^ e,
     a ^^^ b ^^^ gmul2 d ^^^ (gmul2 e ^^^ e), (gmul2 a ^^^ a) ^^^ b ^^^ d ^^^ gmul2 e]
  | x => x

def mixCols (s : List Nat) : List Nat :=
  mixCol (s.take 4) ++ mixCol ((s.drop 4).take 4) ++ mixCol ((s.drop 8).take 4) ++ mixCol (s.drop 12)

def aesRounds : List (List Nat) → List Nat → List Nat
  | [], s => s
  | [k], s => List.zipWith (· ^^^ ·) (shiftRows (s.map sbox)) k
  | k :: t, s => aesRounds t (List.zipWith (· ^^^ ·) (mixCols (shiftRows (s.map sbox))) k)

/-- AES of one block of sixteen bytes under a key of nk words. -/
def aesBytes (nk : Nat) (key block : List Nat) : List Nat :=
  match aesKeys nk key with
  | k :: ks => aesRounds ks (List.zipWith (· ^^^ ·) block k)
  | [] => block

/-- AES-128: byte i of key, input and output holds bits 8i+7 to 8i (R209). -/
def aes128 (key block : BitVec 128) : BitVec 128 :=
  BitVec.ofNat 128 (leNat ((aesBytes 4 ((leBytes 16 key.toNat).map BitVec.toNat)
    ((leBytes 16 block.toNat).map BitVec.toNat)).map (BitVec.ofNat 8)))

/-- AES-256 of sixteen bytes. -/
def aes256 (key block : List Byte) : List Byte :=
  (aesBytes 8 (key.map BitVec.toNat) (block.map BitVec.toNat)).map (BitVec.ofNat 8)

def xorBytes (a b : List Byte) : List Byte := List.zipWith (· ^^^ ·) a b

/-! ### AES-256-GCM -/

/-- The product of GCM's field: blocks as big-endian numbers, whose first bit is the coefficient of 1. -/
def ghashMul : Nat → Nat → Nat → Nat → Nat
  | 0, _, _, z => z
  | n + 1, x, v, z =>
    ghashMul n x (if v % 2 = 1 then v / 2 ^^^ 0xE1 * 2 ^ 120 else v / 2) (if (x >>> n) % 2 = 1 then z ^^^ v else z)

/-- GHASH over whole blocks; the first argument counts them. -/
def ghash (h : Nat) : Nat → List Byte → Nat → Nat
  | 0, _, y => y
  | n + 1, bs, y => ghash h n (bs.drop 16) (ghashMul 128 (y ^^^ beNat (bs.take 16)) h 0)

/-- Zeros up to a whole block. -/
def padBlock (bs : List Byte) : List Byte := bs ++ List.replicate ((16 - bs.length % 16) % 16) 0

/-- The key stream of n blocks from counter c on, exclusive-ored with the data. -/
def gcmStream (key nonce : List Byte) : Nat → Nat → List Byte → List Byte
  | 0, _, _ => []
  | n + 1, c, bs => xorBytes (bs.take 16) (aes256 key (nonce ++ beBytes 4 c)) ++ gcmStream key nonce n (c + 1) (bs.drop 16)

/-- Encryption, and decryption, of data under a 96-bit nonce. -/
def gcmCrypt (key nonce bs : List Byte) : List Byte := gcmStream key nonce ((bs.length + 15) / 16) 2 bs

/-- The tag over additional data and ciphertext. -/
def gcmTag (key nonce aad cipher : List Byte) : List Byte :=
  let h := beNat (aes256 key (List.replicate 16 0))
  let m := padBlock aad ++ padBlock cipher ++ beBytes 8 (8 * aad.length) ++ beBytes 8 (8 * cipher.length)
  xorBytes (beBytes 16 (ghash h (m.length / 16) m 0)) (aes256 key (nonce ++ beBytes 4 1))

/-- The plaintext of a sealed text, where its tag verifies. -/
def gcmOpen (key nonce aad cipher tag : List Byte) : Option (List Byte) :=
  if gcmTag key nonce aad cipher = tag then some (gcmCrypt key nonce cipher) else none

/-! ### AES-256-XTS -/

/-- The tweak of the next block: a multiplication by x, bytes little-endian. -/
def xtsNext (t : List Byte) : List Byte :=
  let n := 2 * leNat t
  leBytes 16 (if 2 ^ 128 ≤ n then n % 2 ^ 128 ^^^ 0x87 else n)

def xtsBlocks (key : List Byte) : Nat → List Byte → List Byte → List Byte
  | 0, _, _ => []
  | n + 1, t, bs => xorBytes (aes256 key (xorBytes (bs.take 16) t)) t ++ xtsBlocks key n (xtsNext t) (bs.drop 16)

/-- AES-256-XTS encryption of one data unit of whole blocks under a 512-bit key; the low half of the key encrypts data. -/
def xtsEncrypt (key : BitVec 512) (unit : Nat) (bs : List Byte) : List Byte :=
  let k := leBytes 64 key.toNat
  xtsBlocks (k.take 32) (bs.length / 16) (aes256 (k.drop 32) (leBytes 16 unit)) bs

/-! ### HMAC and HKDF over SHA-384 -/

/-- HMAC under a key of at most 128 bytes. -/
def hmac384 (key msg : List Byte) : List Byte :=
  let k := key ++ List.replicate (128 - key.length) 0
  digestBytes (sha384 (k.map (· ^^^ 0x5C) ++ digestBytes (sha384 (k.map (· ^^^ 0x36) ++ msg))))

/-- Blocks i to i + n − 1 of the expansion, from the block before them. -/
def hkdfBlocks (prk info : List Byte) : Nat → Nat → List Byte → List Byte
  | 0, _, _ => []
  | n + 1, i, prev =>
    let t := hmac384 prk (prev ++ info ++ [BitVec.ofNat 8 i])
    t ++ hkdfBlocks prk info n (i + 1) t

/-- HKDF: extraction with a salt, and len bytes of expansion. -/
def hkdf384 (salt ikm info : List Byte) (len : Nat) : List Byte :=
  (hkdfBlocks (hmac384 salt ikm) info ((len + 47) / 48) 1 []).take len

/-! ### CRC of ECMA-182 -/

def crcStep : Nat → Nat → Nat
  | 0, c => c
  | n + 1, c => crcStep n (if 2 ^ 63 ≤ c then ((2 * c) % m64) ^^^ 0x42F0E1EBA9EA3693 else 2 * c)

/-- The 64-bit CRC of ECMA-182 over bytes, from 0. -/
def crc64 (bs : List Byte) : DWord :=
  BitVec.ofNat 64 (bs.foldl (fun c b => crcStep 8 (c ^^^ (b.toNat <<< 56))) 0)

end Sys2Proof.Machine
end

