-- ==== Sys2Proof/Machine/Num.lean ====
section
/-! DEFINITION. Exact values and their roundings (02_number_formats.md): the formats J8, binary16, binary32,
binary64 and W80, round to nearest with ties to even, stochastic rounding, and the arithmetic of R101. -/

namespace Sys2Proof.Machine

/-! ### Exact arithmetic -/

def Val.zero : Val := .fin false 0 0

def vIsNan : Val → Bool
  | .nan => true
  | _ => false

def vIsFin : Val → Bool
  | .fin _ _ _ => true
  | _ => false

def vIsZero : Val → Bool
  | .fin _ m _ => m == 0
  | _ => false

def vNegBit : Val → Bool
  | .nan => false
  | .inf n => n
  | .fin n _ _ => n

def vNeg : Val → Val
  | .nan => .nan
  | .inf n => .inf (!n)
  | .fin n m e => .fin (!n) m e

def vAbs : Val → Val
  | .nan => .nan
  | .inf _ => .inf false
  | .fin _ m e => .fin false m e

/-- x × 2^k, exactly. -/
def vScale (k : Int) : Val → Val
  | .fin n m e => .fin n m (e + k)
  | v => v

/-- The signed integer x × 2^(−q) of a finite value whose exponent is at least q. -/
def vInt (q : Int) : Val → Int
  | .fin n m e => let x : Int := ((m <<< (e - q).toNat : Nat) : Int); if n then -x else x
  | _ => 0

/-- The value of the signed integer i × 2^q; zero is +0. -/
def vOfInt (i : Int) (q : Int) : Val := .fin (decide (i < 0)) i.natAbs q

def vOfNat (n : Nat) : Val := .fin false n 0

def vExp : Val → Int
  | .fin _ _ e => e
  | _ => 0

/-- The exact sum under IEEE rules (R55, R101): opposite infinities give NaN, and an exact zero sum is +0
unless both terms are −0 (R57). -/
def vAdd (a b : Val) : Val :=
  match a, b with
  | .nan, _ => .nan
  | _, .nan => .nan
  | .inf x, .inf y => if x = y then .inf x else .nan
  | .inf x, _ => .inf x
  | _, .inf y => .inf y
  | .fin na ma ea, .fin nb mb eb =>
    if ma = 0 ∧ mb = 0 then .fin (na && nb) 0 0
    else
      let q := min ea eb
      vOfInt (vInt q (.fin na ma ea) + vInt q (.fin nb mb eb)) q

def vSub (a b : Val) : Val := vAdd a (vNeg b)

/-- The exact product under IEEE rules (R46): an infinity times a zero gives NaN. -/
def vMul (a b : Val) : Val :=
  match a, b with
  | .nan, _ => .nan
  | _, .nan => .nan
  | .inf x, .inf y => .inf (x ^^ y)
  | .inf x, .fin n m _ => if m = 0 then .nan else .inf (x ^^ n)
  | .fin n m _, .inf y => if m = 0 then .nan else .inf (n ^^ y)
  | .fin na ma ea, .fin nb mb eb => .fin (na ^^ nb) (ma * mb) (ea + eb)

/-- −1, 0 or 1 as a is below, equal to or above b; zeros are equal. Meaningless on NaN. -/
def vCmp (a b : Val) : Int :=
  match a, b with
  | .inf x, .inf y => if x = y then 0 else if x then -1 else 1
  | .inf x, _ => if x then -1 else 1
  | _, .inf y => if y then 1 else -1
  | _, _ =>
    let q := min (vExp a) (vExp b)
    let d := vInt q a - vInt q b
    if d < 0 then -1 else if d = 0 then 0 else 1

def vLt (a b : Val) : Bool := !vIsNan a && !vIsNan b && decide (vCmp a b < 0)
def vLe (a b : Val) : Bool := !vIsNan a && !vIsNan b && decide (vCmp a b ≤ 0)
def vEq (a b : Val) : Bool := !vIsNan a && !vIsNan b && decide (vCmp a b = 0)

/-- minimumNumber and maximumNumber of IEEE 754-2019 (R101): a NaN yields to a number, and −0 < +0. -/
def vMinNum (a b : Val) : Val :=
  if vIsNan a then b else if vIsNan b then a
  else if vCmp a b < 0 then a else if vCmp a b > 0 then b
  else if vNegBit a then a else b

def vMaxNum (a b : Val) : Val :=
  if vIsNan a then b else if vIsNan b then a
  else if vCmp a b > 0 then a else if vCmp a b < 0 then b
  else if vNegBit a then b else a

/-- The position of the leading bit of a nonzero finite value: 2^r ≤ |x| < 2^(r+1). -/
def vLead : Val → Int
  | .fin _ m e => e + (Nat.log2 m : Int)
  | _ => 0

/-! ### Rounding -/

/-- The rounding directions: to nearest with ties to even (R59), toward zero, away from zero, and
stochastic with 16 random bits (R60). -/
inductive RMode where
  | near
  | trunc
  | up
  | stoch (r : BitVec 16)
  deriving DecidableEq, Repr

/-- Whether a magnitude with `rem` discarded out of 2^s, and `keep` kept, goes one ulp up. -/
def roundsUp (md : RMode) (keep rem s : Nat) : Bool :=
  match md with
  | .trunc => false
  | .up => decide (rem ≠ 0)
  | .near => let half := 2 ^ (s - 1); decide (rem > half) || (decide (rem = half) && keep % 2 == 1)
  | .stoch r =>
    let d := if s ≤ 16 then rem <<< (16 - s) else rem >>> (s - 16)
    decide (2 ^ 16 ≤ d + r.toNat)

/-- The magnitude m × 2^e rounded to at most p significant bits and to multiples of 2^qmin: the kept
integer and its exponent. -/
def roundMag (md : RMode) (p : Nat) (qmin : Option Int) (m : Nat) (e : Int) : Nat × Int :=
  let q0 : Int := e + (Nat.log2 m : Int) + 1 - (p : Int)
  let q := match qmin with
    | none => q0
    | some x => max q0 x
  if q ≤ e then (m <<< (e - q).toNat, q)
  else
    let s := (q - e).toNat
    let keep := m >>> s
    let rem := m % 2 ^ s
    (if roundsUp md keep rem s then keep + 1 else keep, q)

/-- A format: significant bits, exponent of its smallest subnormal, the magnitude code of infinity (for J8,
one above its largest finite code), the canonical NaN, and the sign bit's position. -/
structure Fmt where
  p : Nat
  qmin : Int
  infCode : Nat
  nanCode : Nat
  signBit : Nat
  hasInf : Bool
  deriving DecidableEq, Repr

/-- R38, R39. -/
def fJ8 : Fmt := ⟨4, -10, 0x7F, 0x7F, 7, false⟩
/-- R40. -/
def fB16 : Fmt := ⟨11, -24, 0x7C00, 0x7E00, 15, true⟩
def fB32 : Fmt := ⟨24, -149, 0x7F800000, 0x7FC00000, 31, true⟩
def fB64 : Fmt := ⟨53, -1074, 0x7FF0000000000000, 0x7FF8000000000000, 63, true⟩
/-- W80 as a format of values only (R50): its code is formed in `w80Bits`. -/
def fW80 : Fmt := ⟨64, -16445, 32767 * 2 ^ 63, 0, 0, true⟩

/-- The value of a magnitude code. -/
def magVal (f : Fmt) (neg : Bool) (c : Nat) : Val :=
  let w := 2 ^ (f.p - 1)
  let ef := c / w
  if ef = 0 then .fin neg (c % w) f.qmin else .fin neg (w + c % w) (f.qmin + (ef : Int) - 1)

/-- The value of a code (R38, R40). -/
def decodeF (f : Fmt) (code : Nat) : Val :=
  let neg := decide ((code / 2 ^ f.signBit) % 2 = 1)
  let c := code % 2 ^ f.signBit
  if c < f.infCode then magVal f neg c
  else if f.hasInf && c == f.infCode then .inf neg
  else .nan

/-- The largest finite value of a format. -/
def maxFin (f : Fmt) (neg : Bool) : Val := magVal f neg (f.infCode - 1)

/-- A value rounded into a format: NaN, an infinity, or a value of the format. A magnitude that rounds past
the largest finite value becomes an infinity. -/
def roundV (md : RMode) (f : Fmt) (v : Val) : Val :=
  match v with
  | .fin n m e =>
    if m = 0 then .fin n 0 f.qmin
    else
      let r := roundMag md f.p (some f.qmin) m e
      let code := ((r.2 - f.qmin).toNat) * 2 ^ (f.p - 1) + r.1
      if f.infCode ≤ code then .inf n else .fin n r.1 r.2
  | x => x

/-- The code of a value that is one of the format's (the result of `roundV`). -/
def encodeF (f : Fmt) (v : Val) : Nat :=
  match v with
  | .nan => f.nanCode
  | .inf n => (if n then 2 ^ f.signBit else 0) + f.infCode
  | .fin n m e =>
    (if n then 2 ^ f.signBit else 0) +
      (if m = 0 then 0
       else
        let r := roundMag .near f.p (some f.qmin) m e
        ((r.2 - f.qmin).toNat) * 2 ^ (f.p - 1) + r.1)

/-- b32 of R117: the binary32 word nearest to a value. -/
def toB32 (v : Val) : Word := BitVec.ofNat 32 (encodeF fB32 (roundV .near fB32 v))
def ofB32 (w : Word) : Val := decodeF fB32 w.toNat
def toB16 (v : Val) : BitVec 16 := BitVec.ofNat 16 (encodeF fB16 (roundV .near fB16 v))
def ofB16 (w : BitVec 16) : Val := decodeF fB16 w.toNat
def toB64 (v : Val) : DWord := BitVec.ofNat 64 (encodeF fB64 (roundV .near fB64 v))

/-- w80 of R121: the nearest W80 value. -/
def w80 (v : Val) : Val := roundV .near fW80 v

/-- The 80 bits of a W80 value in the layout of R50. -/
def w80Bits (v : Val) : Nat :=
  match v with
  | .nan => 32767 * 2 ^ 64 + 0xC000000000000000
  | .inf n => (if n then 2 ^ 79 else 0) + 32767 * 2 ^ 64 + 2 ^ 63
  | .fin n m e =>
    (if n then 2 ^ 79 else 0) +
      (if m = 0 then 0
       else
        let r := roundMag .near 64 (some (-16445)) m e
        let ef := (r.2 + 16445).toNat + (if r.1 < 2 ^ 63 then 0 else 1)
        ef * 2 ^ 64 + r.1)

/-- The value of 80 bits; none for an encoding that no unit produces (R50). -/
def w80OfBits (x : Nat) : Option Val :=
  let m := x % 2 ^ 64
  let e : Nat := (x / 2 ^ 64) % 2 ^ 15
  let n := decide ((x / 2 ^ 79) % 2 = 1)
  if e = 0 then (if m < 2 ^ 63 then some (.fin n m (-16445)) else none)
  else if e = 32767 then
    (if m = 2 ^ 63 then some (.inf n) else if m < 2 ^ 63 then none else some .nan)
  else if m < 2 ^ 63 then none else some (.fin n m ((e : Int) - 16446))

/-- A W80 value in its 16 bytes: bits 127:80 are 0 (R50). -/
def w80Wire (v : Val) : BitVec 128 := BitVec.ofNat 128 (w80Bits v)

/-- The value of 16 received bytes; none where bits 127:80 are not 0 or no unit produces the encoding (R50). -/
def w80Read (x : BitVec 128) : Option Val := if 2 ^ 80 ≤ x.toNat then none else w80OfBits x.toNat

/-- The quotient of two finite values, exact but for a sticky last bit, with at least 66 significant bits:
enough for one correct rounding to 64 bits. -/
def vDiv (a b : Val) : Val :=
  match a, b with
  | .fin na ma ea, .fin nb mb eb =>
    if mb = 0 then .nan
    else
      let k := 70 + Nat.log2 mb
      let x := ma <<< k
      .fin (na ^^ nb) (2 * (x / mb) + (if x % mb = 0 then 0 else 1)) (ea - eb - (k : Int) - 1)
  | _, _ => .nan

/-! ### The window and the W80 pair -/

/-- A product truncated toward zero below 2^q (R47): the value and whether a bit was lost. -/
def truncBelow (q : Int) (v : Val) : Val × Bool :=
  match v with
  | .fin n m e =>
    if q ≤ e then (v, false)
    else
      let s := (q - e).toNat; (.fin n (m >>> s) q, decide (m % 2 ^ s ≠ 0))
  | x => (x, false)

/-- The leading-bit position of the largest finite nonzero term, if any (R47). -/
def maxLead : List Val → Option Int
  | [] => none
  | v :: t =>
    let r := maxLead t
    if vIsFin v && !vIsZero v then
      match r with
      | none => some (vLead v)
      | some x => some (max x (vLead v))
    else r

/-- The sum of finite terms; the sum of no term is +0. -/
def vSum : List Val → Val
  | [] => Val.zero
  | [v] => v
  | v :: t => vAdd v (vSum t)

/-- A group sum (R46, R47): special products set flags beside the window, finite ones are truncated into
it and summed exactly. A group without a term adds nothing. -/
def groupSum (ts : List Val) : Acc :=
  let fins := ts.filter vIsFin
  let cut := match maxLead fins with
    | none => fins.map fun v => (v, false)
    | some e => fins.map (truncBelow (e - 88))
  { v := vSum (cut.map (·.1)), nanSeen := ts.any vIsNan,
    pinf := ts.any fun v => v == .inf false, ninf := ts.any fun v => v == .inf true,
    inexact := cut.any (·.2) }

/-- A value kept to 128 bit positions (R50): the value, and whether a bit was lost. -/
def pairRound (v : Val) : Val × Bool :=
  match v with
  | .fin n m e =>
    if m = 0 then (v, false)
    else
      let r := roundMag .near 128 none m e
      let w : Val := .fin n r.1 r.2
      if vEq w v then (v, false) else (w, true)
  | x => (x, false)

/-- A group sum added to a pair (R50): flags are ORed, a zero keeps R57. -/
def accAdd (a g : Acc) : Acc :=
  let r := pairRound (vAdd a.v g.v)
  { v := r.1, nanSeen := a.nanSeen || g.nanSeen, pinf := a.pinf || g.pinf, ninf := a.ninf || g.ninf,
    inexact := a.inexact || g.inexact || r.2 }

/-- The terms of a group added to a pair; a group without a term adds nothing (R49, R69). -/
def accAddGroup (a : Acc) (ts : List Val) : Acc := if ts.isEmpty then a else accAdd a (groupSum ts)

/-- One term added to a pair (R105). -/
def accAddV (a : Acc) (v : Val) : Acc := accAdd a (groupSum [v])

/-- An accumulator that holds a plain value. -/
def accOf (v : Val) : Acc :=
  { v := if vIsFin v then v else Val.zero, nanSeen := vIsNan v, pinf := v == .inf false, ninf := v == .inf true,
    inexact := false }

/-! ### Binary32 and binary16 operations (R101) -/

/-- The format of a plane instruction. -/
def vfmt : VFmt → Fmt
  | .b32 => fB32
  | .b16 => fB16

/-- The code of the value of one rounding in a format. -/
def rnd (f : Fmt) (v : Val) : Nat := encodeF f (roundV .near f v)

def b32Add (a b : Word) : Word := toB32 (vAdd (ofB32 a) (ofB32 b))
def b32Sub (a b : Word) : Word := toB32 (vSub (ofB32 a) (ofB32 b))
def b32Mul (a b : Word) : Word := toB32 (vMul (ofB32 a) (ofB32 b))
def b32Fma (a b c : Word) : Word := toB32 (vAdd (vMul (ofB32 a) (ofB32 b)) (ofB32 c))

def b32One : Word := 0x3F800000
def b32Nan : Word := 0x7FC00000

/-- The magnitude rounded up to binary32 (R58). -/
def roundUp32 (v : Val) : Word := BitVec.ofNat 32 (encodeF fB32 (roundV .up fB32 (vAbs v)))

/-- The larger of two binary32 magnitudes that are not NaN. -/
def maxMag (a b : Word) : Word := if a.toNat < b.toNat then b else a

/-- hi and lo of a finite binary32 operand (R49). -/
def splitHi (v : Val) : Val :=
  match v with
  | .fin n m e => if m = 0 then v else let r := roundMag .trunc 12 none m e; .fin n r.1 r.2
  | x => x

def splitLo (v : Val) : Val :=
  match v with
  | .fin n _ _ =>
    match vSub (vAbs v) (vAbs (splitHi v)) with
    | .fin _ m e => .fin n m e
    | x => x
  | x => x

/-- σ and τ of CMAC (R85): the exact sum to 12 significant bits. -/
def cmacSum (a b : Val) : Val :=
  match vAdd a b with
  | .fin n m e => if m = 0 then .fin n m e else let r := roundMag .near 12 none m e; .fin n r.1 r.2
  | x => x

/-! ### Scale selection (R142) -/

/-- The largest k with a × 2^k ≤ lim, for a nonzero finite a. -/
def largestK (a lim : Val) : Int :=
  let k := vLead lim - vLead a
  if vLe (vScale (k + 1) a) lim then k + 1
  else if vLe (vScale k a) lim then k
  else k - 1

end Sys2Proof.Machine
end

