-- ==== Sys2Proof/Machine/Ops.lean ====
section
/-! DEFINITION. The named operations that every meaning is built from: setters of the blocks, counters and
events, results of commands, the gating of commands, messages, and one idle cycle. -/

namespace Sys2Proof.Machine

/-- The one outcome shape of almost every meaning. -/
abbrev Out := Host.Outcome State Fault Refusal

/-! ### Status codes (R498) -/

def stDone : Byte := 0x00
def stPending : Byte := 0x01
def stBusy : Byte := 0x02
def stRefused : Byte := 0x03
def stAbsent : Byte := 0x04
def stBadArg : Byte := 0x05
def stProtected : Byte := 0x06
def stAuthFail : Byte := 0x07
def stExhausted : Byte := 0x08
def stMedia : Byte := 0x09
def stAborted : Byte := 0x0A
def stVerify : Byte := 0x0B

/-! ### Setters -/

def setBnc (b : Fin 4) (f : Bench → Bench) (s : State) : State := { s with bnc := upd s.bnc b f }
def setPln (p : Fin 16) (f : Plane → Plane) (s : State) : State := { s with pln := upd s.pln p f }
def setLth (l : Fin 4) (f : Lathe → Lathe) (s : State) : State := { s with lth := upd s.lth l f }
def setLink (l : Fin 8) (f : Link → Link) (s : State) : State := { s with links := upd s.links l f }
def setSns (p : Fin 24) (f : Port → Port) (s : State) : State := { s with sns := upd s.sns p f }
def setJob (j : Fin 4) (f : Job → Job) (s : State) : State :=
  { s with jobs := upd s.jobs j (fun o => o.map f) }
def setEng (e : Fin 8) (f : Engine → Engine) (s : State) : State :=
  { s with stk := { s.stk with engines := upd s.stk.engines e f } }

/-- Bits of a fault register set. -/
def orBit (w : Word) (n : Nat) : Word := w ||| BitVec.ofNat 32 (2 ^ n)

/-- A W1C write: each 1 clears the bit (R13). -/
def w1c (w v : Word) : Word := w &&& ~~~v

/-- Bits hi to lo of a word as a number. -/
def bitsNat {n : Nat} (w : BitVec n) (hi lo : Nat) : Nat := (w.toNat >>> lo) % 2 ^ (hi + 1 - lo)

def bitAt {n : Nat} (w : BitVec n) (i : Nat) : Bool := w.getLsbD i

/-! ### Events (R493, R495, R496) -/

/-- An event with no instance, fault record, job, status or argument. -/
def ev (code : BitVec 16) : Posted :=
  { code := code, inst := 0xFF, fault := false, deferred := false, addrKind := 0, job := 0, status := 0xFF,
    rank := 0xFFFF, time := 0, step := 0, epoch := 0, addr := 0, info := 0 }

/-- The JOB field of a record about job slot j. -/
def jobByte (j : Fin 4) : Byte := BitVec.ofNat 8 (0x80 + j.val)

/-- The main rails are up: RUN, IDLE, SLEEP and a boot. The event log and the command processor are powered. -/
def awake (s : State) : Bool := s.glb.phase != .down && s.glb.phase != .powerUp

/-- CORE runs: benches, planes and lathes work only in RUN (R457). -/
def coreOn (s : State) : Bool := s.pwr.state == .run

/-- Drawers, engines and links work in RUN and IDLE (R455, R457), and while a boot trains them (R325). -/
def running (s : State) : Bool := awake s && s.pwr.state != .sleep

/-- An event stamped by the collector: time, own rank, epoch, and the step of the job it names. -/
def stamp (e : Posted) (s : State) : Posted :=
  let j : Fin 4 := ⟨e.job.toNat % 4, Nat.mod_lt _ (by decide)⟩
  let st : DWord := if bitAt e.job 7 then
      (match s.jobs[j] with
       | some x => BitVec.ofNat 64 x.step
       | none => 0)
    else 0
  let unj := s.ws.state == .unjoined
  { e with time := s.aon.time, step := st, rank := if unj then 0xFFFF else BitVec.ofNat 16 s.ws.rank,
           epoch := if unj then 0 else s.ws.epoch }

def ctrMax : Nat := 2 ^ 48

/-- n increments of a counter (R17). -/
def ctrAdd (c : Ctr) (n : Nat) : Ctr :=
  if c.count.toNat + n < ctrMax then ⟨c.count + BitVec.ofNat 48 n, c.sat⟩ else ⟨BitVec.allOnes 48, true⟩

/-- Whether n increments set SAT (R499): the moment a COUNTER_SAT event is posted. -/
def ctrSat (c : Ctr) (n : Nat) : Bool := !c.sat && decide (ctrMax ≤ c.count.toNat + n)

/-- A write to a counter: writing 1 to SAT clears SAT and COUNT (R89). -/
def ctrWrite (c : Ctr) (v : DWord) : Ctr := if bitAt v 63 then Ctr.zero else c

def bumpEvt (i : Fin 3) (n : Nat) (s : State) : State :=
  { s with evt := { s.evt with ctrs := upd s.evt.ctrs i (ctrAdd · n) } }

/-- Posts an event: it enters the collector's queue of 32, or is lost (R496). While the log is unpowered it is
latched and filed DEFERRED at the next start (R440, R495). -/
def post (e : Posted) (s : State) : State :=
  if awake s then
    if s.evt.queue.length < 32 then
      bumpEvt 0 1 { s with evt := { s.evt with queue := s.evt.queue ++ [stamp e s] } }
    else
      bumpEvt 2 1 (bumpEvt 0 1 { s with evt := { s.evt with fault := orBit s.evt.fault 2, lostBefore := true } })
  else
    { s with aon := { s.aon with deferred := s.aon.deferred ++ [{ stamp e s with deferred := true }] } }

/-- Posts an event on a condition; only the collector and the AON latch can change. -/
def postIf (b : Bool) (e : Posted) (s : State) : State :=
  { s with evt := if b then (post e s).evt else s.evt, aon := if b then (post e s).aon else s.aon }

/-! ### Counters of each block, with the block's COUNTER_SAT event -/

def bumpPwr (i : Fin 6) (n : Nat) (s : State) : State :=
  postIf (ctrSat s.pwr.ctrs[i] n) (ev 0x010A)
    { s with pwr := { s.pwr with ctrs := upd s.pwr.ctrs i (ctrAdd · n) } }
def bumpAon (i : Fin 4) (n : Nat) (s : State) : State :=
  postIf (ctrSat s.aon.ctrs[i] n) (ev 0x0A17)
    { s with aon := { s.aon with ctrs := upd s.aon.ctrs i (ctrAdd · n) } }
def bumpHif (i : Fin 4) (n : Nat) (s : State) : State :=
  postIf (ctrSat s.hif.ctrs[i] n) (ev 0x0685)
    { s with hif := { s.hif with ctrs := upd s.hif.ctrs i (ctrAdd · n) } }
def bumpSec (i : Fin 5) (n : Nat) (s : State) : State :=
  postIf (ctrSat s.sec.ctrs[i] n) (ev 0x060C)
    { s with sec := { s.sec with ctrs := upd s.sec.ctrs i (ctrAdd · n) } }
def bumpFls (i : Fin 7) (n : Nat) (s : State) : State :=
  postIf (ctrSat s.fls.ctrs[i] n) (ev 0x020C)
    { s with fls := { s.fls with ctrs := upd s.fls.ctrs i (ctrAdd · n) } }
def bumpRng (i : Fin 3) (n : Nat) (s : State) : State :=
  postIf (ctrSat s.rng.ctrs[i] n) (ev 0x0663)
    { s with rng := { s.rng with ctrs := upd s.rng.ctrs i (ctrAdd · n) } }
def bumpStk (i : Fin 8) (n : Nat) (s : State) : State :=
  postIf (ctrSat s.stk.ctrs[i] n) (ev 0x0308)
    { s with stk := { s.stk with ctrs := upd s.stk.ctrs i (ctrAdd · n) } }
def bumpBnc (b : Fin 4) (i : Fin 7) (n : Nat) (s : State) : State :=
  postIf (ctrSat s.bnc[b].ctrs[i] n) { ev 0x0804 with inst := BitVec.ofNat 8 b.val }
    (setBnc b (fun x => { x with ctrs := upd x.ctrs i (ctrAdd · n) }) s)
def bumpPln (p : Fin 16) (i : Fin 10) (n : Nat) (s : State) : State :=
  postIf (ctrSat s.pln[p].ctrs[i] n) { ev 0x0905 with inst := BitVec.ofNat 8 p.val }
    (setPln p (fun x => { x with ctrs := upd x.ctrs i (ctrAdd · n) }) s)
def bumpLth (l : Fin 4) (i : Fin 4) (n : Nat) (s : State) : State :=
  postIf (ctrSat s.lth[l].ctrs[i] n) { ev 0x0912 with inst := BitVec.ofNat 8 l.val }
    (setLth l (fun x => { x with ctrs := upd x.ctrs i (ctrAdd · n) }) s)
def bumpLink (l : Fin 8) (i : Fin 8) (n : Nat) (s : State) : State :=
  postIf (ctrSat s.links[l].ctrs[i] n) { ev 0x040F with inst := BitVec.ofNat 8 l.val }
    (setLink l (fun x => { x with ctrs := upd x.ctrs i (ctrAdd · n) }) s)
def bumpWs (i : Fin 2) (n : Nat) (s : State) : State :=
  postIf (ctrSat s.ws.ctrs[i] n) (ev 0x040F)
    { s with ws := { s.ws with ctrs := upd s.ws.ctrs i (ctrAdd · n) } }
def bumpCol (i : Fin 8) (n : Nat) (s : State) : State :=
  postIf (ctrSat s.col.ctrs[i] n) (ev 0x0506)
    { s with col := { s.col with ctrs := upd s.col.ctrs i (ctrAdd · n) } }
def bumpSns (p : Fin 24) (i : Fin 5) (n : Nat) (s : State) : State :=
  postIf (ctrSat s.sns[p].ctrs[i] n) { ev 0x0A04 with inst := BitVec.ofNat 8 p.val }
    (setSns p (fun x => { x with ctrs := upd x.ctrs i (ctrAdd · n) }) s)
/-- TRN_COMMITS, TRN_ABORTS, TRN_SKIPS, TRN_SCALE_LIMIT, TRN_INF_AMAX, TRN_READER_WAIT of a job. -/
def bumpTrn (j : Fin 4) (i : Fin 6) (n : Nat) (s : State) : State :=
  match s.jobs[j] with
  | some x =>
    postIf (ctrSat x.trn[i] n) { ev 0x0706 with job := jobByte j }
      (setJob j (fun y => { y with trn := upd y.trn i (ctrAdd · n) }) s)
  | none => s
/-- SEQ_LAT_MISS, SEQ_KERF, SEQ_RERUNS, SEQ_REPLAYS of a job. -/
def bumpSeq (j : Fin 4) (i : Fin 4) (n : Nat) (s : State) : State :=
  match s.jobs[j] with
  | some x =>
    postIf (ctrSat x.seq[i] n) { ev 0x070D with job := jobByte j }
      (setJob j (fun y => { y with seq := upd y.seq i (ctrAdd · n) }) s)
  | none => s
def bumpSlices (s : State) : State :=
  postIf (ctrSat s.sq.slices 1) (ev 0x070D) { s with sq := { s.sq with slices := ctrAdd s.sq.slices 1 } }
def bumpTelDrops (s : State) : State :=
  postIf (ctrSat s.trn.drops 1) (ev 0x0706) { s with trn := { s.trn with drops := ctrAdd s.trn.drops 1 } }

/-! ### MSI-X (R383) -/

/-- A message due on a vector: sent, or pending while the vector is masked. -/
def fire (v : Fin 4) (s : State) : State :=
  if s.hif.pcieUp then
    { s with hif := { s.hif with msix := upd s.hif.msix v (fun m =>
        if m.masked then { m with pending := true } else { m with sent := m.sent + 1 }) } }
  else s

/-! ### Results (R375 to R378, R386, R388) -/

/-- The lowest-numbered free slot. -/
def freeSlot (v : Vector (Option Result) 16) : Option (Fin 16) :=
  (List.finRange 16).find? fun i => v[i].isNone

/-- A fault of the host interface with its tag (R392). -/
def hifFault (bit : Nat) (seq : BitVec 16) (s : State) : State :=
  { s with hif := { s.hif with fault := orBit s.hif.fault bit,
                               faultInfo := BitVec.ofNat 32 (seq.toNat + bit * 65536) } }

/-- A mailbox result enters a slot, the ring, or is dropped. -/
def putResult (r : Result) (s : State) : State :=
  match freeSlot s.hif.slots with
  | some i => fire 1 { s with hif := { s.hif with slots := s.hif.slots.set i (some r) } }
  | none =>
    if s.hif.ring.length < 64 then { s with hif := { s.hif with ring := s.hif.ring ++ [r] } }
    else post { ev 0x0682 with info := r.seq.setWidth 64 } (bumpHif 1 1 (hifFault 2 r.seq s))

/-- A result of a taken command, to its own origin. -/
def answer (p : Pend) (status : Byte) (final : Bool) (p0 p1 p2 p3 : Word) (s : State) : State :=
  let r : Result := ⟨p.seq, p.op, status, final, p0, p1, p2, p3, s.aon.time⟩
  match p.origin with
  | .mailbox =>
    if p.gen = s.hif.gen then
      putResult r (if final then { s with hif := { s.hif with running := s.hif.running.filter (· ≠ p.seq) } } else s)
    else s
  | .mgmt =>
    if s.mgmt.session.isSome || s.mgmt.selfSigned then
      { s with mgmt := { s.mgmt with out := s.mgmt.out ++ [.response r []] } }
    else s

/-- A final result without payload. -/
def endWith (p : Pend) (status : Byte) (s : State) : State := answer p status true 0 0 0 0 s

/-- The final result of a command that may have none to answer. -/
def endOpt (p : Option Pend) (status : Byte) (s : State) : State :=
  match p with
  | some x => endWith x status s
  | none => s

def startPending (p : Pend) (s : State) : State := answer p stPending false 0 0 0 0 s

/-- The pending record of a command. -/
def pendOf (c : Cmd) (op : Byte) (s : State) : Pend := ⟨c.origin, c.seq, op, s.hif.gen⟩

/-! ### Taking a command (R372, R373, R385, R386; log entry 14) -/

/-- The command processor takes a command: a mailbox command is the head of the queue; a management command
comes in an open session, and a session without an operator root carries CRED_UPDATE only (R412). -/
def takeCmd (c : Cmd) (op : Byte) (s : State) : Option State :=
  if s.pwr.coreDown || !awake s || s.glb.phase == .noFirmware then none
  else
    match c.origin with
    | .mailbox =>
      match s.hif.queue with
      | [] => none
      | h :: t =>
        if h = ⟨c.seq, op, c.a0, c.a1, c.a2, c.a3⟩ then
          some { s with hif := { s.hif with queue := t, running := s.hif.running ++ [c.seq] } }
        else none
    | .mgmt =>
      if s.mgmt.session.isSome || (s.mgmt.selfSigned && op == 0x85) then
        some { s with mgmt := { s.mgmt with lastUse := s.aon.time } }
      else none

/-- Boot has not completed its parse (R19). -/
def bootDone (s : State) : Bool := s.glb.phase == .done

/-- The opcodes of R374. -/
def opcodes : List Byte :=
  [0x01, 0x02, 0x10, 0x11, 0x12, 0x13, 0x20, 0x21, 0x22, 0x23, 0x30, 0x31, 0x40, 0x41, 0x42, 0x50, 0x60, 0x61]

/-- The opcodes that NO_IMAGE carries out (R330). -/
def noImageOps : List Byte :=
  [0x01, 0x02, 0x40, 0x10, 0x11, 0x12, 0x13, 0x42, 0x60, 0x61, 0x50]

/-- The management operations of R387. -/
def mgmtOp (op : Byte) : Bool := decide (0x80 ≤ op.toNat) && decide (op.toNat ≤ 0x8A)

/-- The status with which a command is turned away before it is looked at: during TENANT_END (R417), after a
failed noise source (R205), before parse has completed (R19), and in NO_IMAGE (R330). -/
def gateStatus (o : Origin) (op : Byte) (s : State) : Option Byte :=
  let powerOp := op == 0x01 || op == 0x02
  if powerOp then none
  else if s.sec.tending then some stBusy
  else if s.glb.phase == .rngFailed then some stRefused
  else if op == 0x40 then none
  else if !bootDone s then some stBusy
  else if s.glb.state == .noImage && !(noImageOps.contains op || (o == .mgmt && mgmtOp op)) then some stRefused
  else none

/-- The opcode exists for the origin. -/
def opKnown (o : Origin) (op : Byte) : Bool := opcodes.contains op || (o == .mgmt && mgmtOp op)

/-- A command from its arrival at the command processor to its effect k: it is taken, or, where it cannot be
(log entry 5), nothing happens; it is turned away, or refused for a reserved argument bit (R374), or runs. -/
def runCmd (c : Cmd) (op : Byte) (reserved : Bool) (k : Pend → State → State) (s : State) : Out :=
  match takeCmd c op s with
  | none => .next s
  | some s1 =>
    let p := pendOf c op s1
    match gateStatus c.origin op s1 with
    | some st => .next (endWith p st s1)
    | none =>
      if reserved || !opKnown c.origin op then .next (endWith p stBadArg s1) else .next (k p s1)

/-! ### The part (R2 to R8) -/

def glbId (p : PartNo) : Word :=
  match p with
  | .hn7260 => 0x56537260
  | .hn7240 => 0x56537240
  | .hn7230 => 0x56537230

def glbCaps (p : PartNo) : Word :=
  match p with
  | .hn7260 => 0x18FF007F
  | .hn7240 => 0x18FF0073
  | .hn7230 => 0x0C0F0003

def linkPresent (p : PartNo) (l : Nat) : Bool := bitAt (glbCaps p) (16 + l) && decide (l < 8)
def portPresent (p : PartNo) (n : Nat) : Bool := decide (n < bitsNat (glbCaps p) 29 24)
def drawerPresent (p : PartNo) (d : Nat) : Bool := bitAt (glbCaps p) d && decide (d < 4)
def inlayPresent (p : PartNo) (b : Nat) : Bool := bitAt (glbCaps p) (5 + b) && decide (b < 4)
/-- Drawers present, channels (R230) and usable frames (R226). -/
def drawers (p : PartNo) : Nat := if p = .hn7260 then 4 else 2
def channels (p : PartNo) : Nat := 8 * drawers p
def frameTotal (p : PartNo) : Nat := 507904 * drawers p

/-! ### Free values (log entry 8) -/

/-- A measured number of cycles, and the state after it (log entry 16). -/
def someCycles (s : State) : Nat × State := (Config.cycles s.free, { s with free := s.free + 1 })

/-- The next draw of conditioned output, and the state after it. -/
def draw (s : State) : BitVec 512 × State := (Config.draw s.free, { s with free := s.free + 1 })

def isMember (s : State) : Bool := s.ws.state == .member || s.ws.state == .coordinator
def isCoord (s : State) : Bool := s.ws.state == .coordinator

end Sys2Proof.Machine
end

