-- ==== Sys2Proof/Machine/Wire.lean ====
section
/-! DEFINITION. Handing messages to the links and sending them: sizes (R257), routes (R275), the transmitter's choice
in each flit slot (R261 to R263), and one idle cycle (log entries 1 and 32). -/

namespace Sys2Proof.Machine

/-! ### Kinds and sizes (R257, R258, R296) -/

/-- The virtual lane that a kind belongs to. -/
def vlOf (kind : Byte) : BitVec 2 :=
  if kind.toNat < 0x40 then 0 else if kind.toNat < 0x60 then 1 else if kind.toNat < 0x80 then 2 else 3

/-- A kind that is not reserved. -/
def kindKnown (kind : Byte) : Bool :=
  let k := kind.toNat
  (decide (1 ≤ k) && decide (k ≤ 0x16)) || (decide (0x40 ≤ k) && decide (k ≤ 0x49)) || k == 0x60 || k == 0x61 ||
    k == 0x80 || k == 0x81

/-- The collective header (R297). -/
def colBytes (h : ColHdr) : List Byte :=
  leBytes 2 h.tensor.toNat ++ [h.job, h.flags] ++ leBytes 4 h.step.toNat ++ leBytes 5 h.offset.toNat ++
    leBytes 3 h.count.toNat

def tallyBytes : Tally → List Byte
  | .g w => leBytes 16 w.toNat
  | .fin w d a o n u => leBytes 16 w.toNat ++ leBytes 16 d.toNat ++ leBytes 4 a.toNat ++ leBytes 4 o.toNat ++
      leBytes 4 n.toNat ++ leBytes 4 u.toNat

def normBytes (x : NormWire) : List Byte := leBytes 8 x.n.toNat ++ leBytes 16 x.mean.toNat ++ leBytes 16 x.m2.toNat

/-- An expert entry (R309): the global token index, the choice in bit 0 and DROPPED in bit 1, and the vector. -/
def expBytes (e : ExpEntry) : List Byte :=
  leBytes 6 e.token.toNat ++ [(if e.choice then 1 else 0) ||| (if e.dropped then 2 else 0), 0] ++
    e.vec.flatMap fun w => leBytes 4 w.toNat

/-- The payload of a message. The layout of most VL0 payloads, and of two others, is not given (log entry 32). -/
def payloadData (kind : Byte) (p : Payload) : List Byte :=
  match p with
  | .empty => []
  | .words h xs => colBytes h ++ xs.flatMap fun w => leBytes 4 w.toNat
  | .bytes h xs => colBytes h ++ xs
  | .tally h t => colBytes h ++ tallyBytes t
  | .norm h xs => colBytes h ++ xs.flatMap normBytes
  | .col h => colBytes h
  | .peerData h _ _ xs => colBytes h ++ xs
  | .experts h xs => colBytes h ++ xs.flatMap expBytes
  | .state h xs _ => colBytes h ++ xs ++ Config.layout kind.toNat p
  | _ => Config.layout kind.toNat p

/-- The message header (R257) with the given LENGTH and ARG. -/
def msgHdrBytes (x : Sent) (arg : BitVec 16) (len : Nat) : List Byte :=
  leBytes 2 x.dst.toNat ++ leBytes 2 x.src.toNat ++ leBytes 4 x.epoch.toNat ++ [x.kind, x.hops] ++ leBytes 2 arg.toNat ++
    leBytes 4 len

/-- Bytes in chunks of n; the first argument bounds their number. -/
def chunks : Nat → Nat → List Byte → List (List Byte)
  | 0, _, _ => []
  | k + 1, n, bs => if bs.length ≤ n then [bs] else bs.take n :: chunks k n (bs.drop n)

/-- Bytes filled up with zeros to n. -/
def zeroTo (n : Nat) (bs : List Byte) : List Byte := bs ++ List.replicate (n - bs.length) 0

/-- The flits of a run of bytes: FIRST, LAST and the 240 bytes of BODY (R254, R257). -/
def flitRun (bs : List Byte) : List (Bool × Bool × List Byte) :=
  let cs := chunks (bs.length / 240 + 1) 240 bs
  cs.zipIdx.map fun c => (decide (c.2 = 0), decide (c.2 + 1 = cs.length), zeroTo 240 c.1)

/-- The flits of a message: ceil((16 + LENGTH)/240). A VL0 message takes at most 4, so longer VL0 content goes as numbered
parts, each a message with its number in ARG (R257; log entry 69). -/
def flitPlan (x : Sent) : List (Bool × Bool × List Byte) :=
  let bs := payloadData x.kind x.payload
  if vlOf x.kind = 0 then
    (chunks (bs.length / 944 + 1) 944 bs).zipIdx.flatMap fun c =>
      flitRun (msgHdrBytes x (x.arg + BitVec.ofNat 16 c.2) c.1.length ++ c.1)
  else flitRun (msgHdrBytes x x.arg bs.length ++ bs)

def flitsOf (x : Sent) : Nat := (flitPlan x).length

/-! ### Routes (R275) -/

/-- Links of the workshop that do not end here. -/
def farEdges (s : State) : List (Nat × Nat) :=
  (s.ws.adj.filter fun a => a.rankA != s.ws.rank && a.rankB != s.ws.rank).map fun a => (a.rankA, a.rankB)

/-- Ranks one hop beyond a layer. -/
def nextLayer (es : List (Nat × Nat)) (seen front : List Nat) : List Nat :=
  ((es.filterMap fun e =>
    if front.contains e.1 && !seen.contains e.2 then some e.2
    else if front.contains e.2 && !seen.contains e.1 then some e.1 else none).eraseDups)

/-- Hops from a layer to a rank; the first argument bounds them. -/
def hopsFrom (es : List (Nat × Nat)) (dst : Nat) : Nat → List Nat → List Nat → Nat → Option Nat
  | 0, _, _, _ => none
  | n + 1, seen, front, k =>
    if front.contains dst then some k
    else
      let nx := nextLayer es seen front
      if nx.isEmpty then none else hopsFrom es dst n (seen ++ nx) nx (k + 1)

/-- Hops to a member through the neighbour of rank r. -/
def hopsVia (s : State) (r dst : Nat) : Option Nat :=
  hopsFrom (farEdges s) dst (s.ws.members.length + 1) [s.ws.rank, r] [r] 1

/-- A route through link l: hops, neighbour's rank, link. -/
def viaLink (ok : LkState → Bool) (s : State) (dst : Nat) (l : Fin 8) : Option (Nat × Nat × Fin 8) :=
  let x := s.links[l]
  if ok x.state && x.peerMember then (hopsVia s x.peerRank.toNat dst).map fun h => (h, x.peerRank.toNat, l) else none

/-- Fewer hops first, then the lower neighbour, then the lower link. -/
def better (a b : Nat × Nat × Fin 8) : Bool :=
  decide (a.1 < b.1) || (a.1 == b.1 && (decide (a.2.1 < b.2.1) || (a.2.1 == b.2.1 && decide (a.2.2.val ≤ b.2.2.val))))

def bestRoute : List (Nat × Nat × Fin 8) → Option (Nat × Nat × Fin 8)
  | [] => none
  | a :: t => match bestRoute t with
    | some b => if better a b then some a else some b
    | none => some a

def routeBy (ok : LkState → Bool) (s : State) (dst : Nat) : Option (Fin 8) :=
  (bestRoute ((List.finRange 8).filterMap (viaLink ok s dst))).map (·.2.2)

/-- The link that a message to a rank takes: over links in UP, or, where no other path is, one in RETRAIN. -/
def routeTo (s : State) (dst : Nat) : Option (Fin 8) :=
  match routeBy (· == .up) s dst with
  | some l => some l
  | none => routeBy (fun st => st == .up || st == .retrain) s dst

/-- A member that no path over links in UP, RETRAIN or PEER_QUIESCE reaches (R278). -/
def unreachable (s : State) : List Nat :=
  ((s.ws.members.map (·.rank)).filter fun r => r != s.ws.rank &&
    (routeBy (fun st => st == .up || st == .retrain || st == .peerQuiesce) s r).isNone)

/-! ### The tree of a message to every member (R275) -/

def leastOf : List Nat → Option Nat
  | [] => none
  | a :: t => match leastOf t with
    | some b => some (min a b)
    | none => some a

/-- Every edge of the workshop in this module's view, its own links in the given states. -/
def edgesBy (ok : LkState → Bool) (s : State) : List (Nat × Nat) :=
  farEdges s ++ ((List.finRange 8).filter fun l => ok (s.links[l]).state && (s.links[l]).peerMember).map fun l =>
    (s.ws.rank, (s.links[l]).peerRank.toNat)

def hopsBetween (s : State) (es : List (Nat × Nat)) (a b : Nat) : Option Nat :=
  hopsFrom es b (s.ws.members.length + 1) [a] [a] 0

/-- Whether rank r is the parent of rank n in the shortest-path tree rooted at a source: the lowest of n's neighbours
that is one hop nearer. -/
def treeParent (s : State) (es : List (Nat × Nat)) (src n r : Nat) : Bool :=
  match hopsBetween s es src n with
  | none => false
  | some 0 => false
  | some (k + 1) =>
    let ns := es.filterMap fun e => if e.1 = n then some e.2 else if e.2 = n then some e.1 else none
    leastOf (ns.filter fun q => hopsBetween s es src q == some k) == some r

/-- The links on which a message to every member goes on from here: one to each of this module's children in the tree of
its source, over a link in RETRAIN where no other path reaches the child. -/
def kidLinks (s : State) (src : Nat) : List (Fin 8) :=
  let up := edgesBy (· == .up) s
  let all := edgesBy (fun st => st == .up || st == .retrain) s
  let near := (((List.finRange 8).filter fun l => (s.links[l]).peerMember &&
    ((s.links[l]).state == .up || (s.links[l]).state == .retrain)).map fun l => (s.links[l]).peerRank.toNat).eraseDups
  let kids := near.filter fun r => r != src && r != s.ws.rank &&
    (treeParent s up src r s.ws.rank || ((hopsBetween s up src r).isNone && treeParent s all src r s.ws.rank))
  kids.filterMap fun r =>
    let to_ := fun (st : LkState) => (List.finRange 8).find? fun l =>
      (s.links[l]).peerMember && (s.links[l]).peerRank.toNat == r && (s.links[l]).state == st
    (to_ .up).or (to_ .retrain)

/-! ### Handing over a message -/

def coordDst (s : State) : BitVec 16 := BitVec.ofNat 16 s.ws.coord

/-- A message put in the queue of a link. -/
def enqueue (l : Fin 8) (x : Sent) (s : State) : State :=
  setLink l (fun k => { k with queue := k.queue ++ [(vlOf x.kind, flitsOf x, x)] }) s

/-- A message sent on its route, or dropped where there is none (R275). -/
def sendTo (dst : Nat) (x : Sent) (s : State) : State :=
  match routeTo s dst with
  | some l => enqueue l x s
  | none => bumpWs 1 1 s

/-- A message of this module: SRC is its rank, or 0xFFFF while it is no member (R257). -/
def sentOf (dst : BitVec 16) (kind : Byte) (arg : BitVec 16) (p : Payload) (s : State) : Sent :=
  ⟨dst, if s.ws.state == .unjoined then 0xFFFF else BitVec.ofNat 16 s.ws.rank, kind, arg, s.ws.epoch, 0, p⟩

def noteSent (x : Sent) (s : State) : State := { s with out := s.out ++ [x] }

/-- Hands a message to the links (R257). -/
def send (dst : BitVec 16) (kind : Byte) (arg : BitVec 16) (p : Payload) (s : State) : State :=
  let x := sentOf dst kind arg p s
  let s1 := noteSent x s
  if dst = 0xFFFE then (kidLinks s1 s.ws.rank).foldl (fun s' l => enqueue l x s') s1
  else if dst.toNat = s.ws.rank then s1
  else sendTo dst.toNat x s1

/-- A message to the neighbour on one link. -/
def sendOn (l : Fin 8) (dst : BitVec 16) (kind : Byte) (arg : BitVec 16) (p : Payload) (s : State) : State :=
  let x := sentOf dst kind arg p s
  enqueue l x (noteSent x s)

/-- A message to the coordinator; the coordinator itself needs none. -/
def sendCoord (kind : Byte) (arg : BitVec 16) (p : Payload) (s : State) : State :=
  if isMember s && !isCoord s then send (coordDst s) kind arg p s else s

/-- A message from the coordinator to every member (R257: 0xFFFE). -/
def sendAll (kind : Byte) (arg : BitVec 16) (p : Payload) (s : State) : State := send 0xFFFE kind arg p s

/-! ### Messages of a link that has gone away (R274, R275) -/

/-- The links that a message waiting on link l takes, from the views before and after the link went. -/
def newWays (l : Fin 8) (x : Sent) (before after : State) : List (Fin 8) :=
  if x.dst = 0xFFFF then []
  else if x.dst = 0xFFFE then
    (kidLinks after x.src.toNat).filter fun k => k != l && !(kidLinks before x.src.toNat).contains k
  else (routeTo after x.dst.toNat).toList.filter (· != l)

/-- One message of which no flit has been sent: it takes its new ways; without one it waits for a link in RETRAIN, and else
is lost, and counted unless it was for the neighbour. -/
def moveOne (l : Fin 8) (before after : State) (m : BitVec 2 × Nat × Sent) (s : State) : State :=
  let ways := newWays l m.2.2 before after
  if ways.isEmpty then
    (if after.links[l].state == .retrain || m.2.2.dst = 0xFFFF then s else bumpWs 1 1 s)
  else ways.foldl (fun s' k => enqueue k m.2.2 s') (setLink l (fun x => { x with queue := x.queue.erase m }) s)

/-- Messages that wait on a link that has left UP are routed on by the present view. -/
def moveQueue (l : Fin 8) (before after : State) : State :=
  (before.links[l].queue.filter fun m => m.2.1 == flitsOf m.2.2).foldl (fun s' m => moveOne l before after m s') after

/-! ### Flits (R254 to R256, R269) -/

/-- HDR of a flit (R254). -/
def flitHdr (vl : BitVec 2) (type : Nat) (first last retx enc : Bool) (seq : BitVec 12) : Nat :=
  let b := fun (x : Bool) (n : Nat) => if x then 2 ^ n else 0
  vl.toNat + 4 * type + b first 4 + b last 5 + b retx 6 + b enc 7 + 256 * seq.toNat

/-- A flit as it goes out: sealed under the keys with nonce S ∥ n, n the frame counter, HDR as additional data and BODY as
plaintext (R269); in clear, with TAG 0, before there are keys (R254). -/
def sealFlit (x : Link) (hdr : Nat) (body : List Byte) : List Byte :=
  let h := leBytes 4 hdr
  match x.keys with
  | some k =>
    let n := k.txSalt ++ leBytes 8 x.txF.toNat
    let c := gcmCrypt k.tx n body
    h ++ c ++ (gcmTag k.tx n h c).take 12
  | none => h ++ body ++ List.replicate 12 0

/-- A flit on the line (R253): eight 257-bit blocks of 32 bytes, the first bit 1 on the first. -/
def flitBlocks (flit : List Byte) : List (Bool × List Byte) :=
  (chunks 8 32 flit).zipIdx.map fun b => (decide (b.2 = 0), b.1)

/-- The OFFER goes out: until the peer's has come, or, on the side that answers, until its SWITCH shows that it has it
(R270). -/
def offering (r : RekeyRun) : Bool := r.drawn && (if r.first then !r.answered else r.rxAt.isNone)

/-- The SWITCH goes out until it is confirmed. -/
def switching (r : RekeyRun) : Bool := r.txAt.isSome && !r.txAck

/-- SIG of an OFFER: over GEN, EPH_PUB and both certificate serial numbers (R256; their order: log entry 70). -/
def offerSig (serial peer : DWord) (gen : Word) (pub : List Byte) : List Byte :=
  beBytes 96 (Config.sign (sha384 (leBytes 4 gen.toNat ++ pub ++ leBytes 8 serial.toNat ++ leBytes 8 peer.toNat))).toNat

/-- The rekey fields of a LINK flit, from offset 0x0C on (R256). -/
def rekeyBytes (serial : DWord) (x : Link) : List Byte :=
  match x.rekey with
  | none => [0]
  | some r =>
    if offering r then
      let pub := beBytes 97 (Config.ecdhPub (r.eph.getD 0)).toNat
      [1, 0, 0, 0] ++ leBytes 4 r.gen.toNat ++ leBytes 8 0 ++ pub ++ [0, 0, 0] ++ offerSig serial x.peerSerial r.gen pub
    else if switching r then [2, 0, 0, 0] ++ leBytes 4 r.gen.toNat ++ leBytes 8 (r.txAt.getD 0).toNat
    else [0]

/-- The body of a LINK or QUIESCE flit (R256). -/
def linkBytes (serial : DWord) (quiesce : Bool) (x : Link) : List Byte :=
  zeroTo 240 (leBytes 2 (x.rxSeq.toNat + if x.nak then 2 ^ 15 else 0) ++
    x.creditsBack.toList.flatMap (fun c => leBytes 2 c.toNat) ++
    leBytes 2 ((if quiesce then 1 else 0) + if x.switchAck then 2 else 0) ++ rekeyBytes serial x)

/-- A LINK flit leaves, or, while the management core restarts, a QUIESCE flit (R256, R282): a pending NAK goes with it. -/
def linkFlitOut (serial : DWord) (quiesce : Bool) (x : Link) : Link :=
  { x with dataRun := 0, nak := false,
           sent := sealFlit x (flitHdr 0 (if quiesce then 3 else 0) false false false true 0) (linkBytes serial quiesce x) }

/-! ### A flit slot (R261 to R263) -/

/-- A DATA flit of a lane can leave: a message waits, a credit is held, and the window of 2,048 has room. -/
def canSend (x : Link) (vl : BitVec 2) : Bool :=
  (x.queue.any fun q => q.1 == vl) && x.credits[vl.toNat] != 0 && decide (x.unacked.length < 2048)

/-- The first message of a lane loses a flit, and goes when it has none left. -/
def takeFlit (vl : BitVec 2) : List (BitVec 2 × Nat × Sent) → List (BitVec 2 × Nat × Sent)
  | [] => []
  | q :: t => if q.1 = vl then (if q.2.1 ≤ 1 then t else (q.1, q.2.1 - 1, q.2.2) :: t) else q :: takeFlit vl t

/-- The flit that a lane sends next: FIRST, LAST and BODY. -/
def nextFlit (vl : BitVec 2) (x : Link) : Bool × Bool × List Byte :=
  match x.queue.find? fun q => q.1 == vl with
  | some q => let p := flitPlan q.2.2; p.getD (p.length - q.2.1) (false, false, zeroTo 240 [])
  | none => (false, false, zeroTo 240 [])

/-- A DATA flit of lane vl leaves; its plaintext is kept until it is acknowledged (R263). -/
def dataFlitOut (vl : BitVec 2) (x : Link) : Link :=
  let f := nextFlit vl x
  { x with queue := takeFlit vl x.queue, credits := x.credits.set vl.toNat (x.credits[vl.toNat] - 1),
           unacked := x.unacked ++ [⟨x.txSeq, vl, f.1, f.2.1, f.2.2, 0⟩], txSeq := x.txSeq + 1, dataRun := x.dataRun + 1,
           sent := sealFlit x (flitHdr vl 1 f.1 f.2.1 false true x.txSeq) f.2.2 }

/-- The flit that is resent next. -/
def resendNext (x : Link) : Option TxFlit := (x.resend.head?).bind fun n => x.unacked.find? (·.seq == n)

/-- A flit is resent with RETX = 1, sealed again under the present counter value (R263). -/
def resendOut (f : TxFlit) (x : Link) : Link :=
  { x with resend := x.resend.drop 1, dataRun := x.dataRun + 1,
           unacked := x.unacked.map fun g => if g.seq = f.seq then { g with resends := g.resends + 1 } else g,
           sent := sealFlit x (flitHdr f.vl 1 f.first f.last true true f.seq) f.body }

/-- Weights 4, 4 and 1 of VL1 to VL3, by position in a cycle of nine. -/
def rrLane (k : Nat) : BitVec 2 := if k % 9 < 4 then 1 else if k % 9 < 8 then 2 else 3

/-- The position that sends next, from the one due on. -/
def rrPick (x : Link) : Option Nat :=
  ((List.range 9).map fun k => (x.rr + k) % 9).find? fun k => canSend x (rrLane k)

/-- A link that seals flits into slots: after keying, in HELLO, UP and PEER_QUIESCE (R255, R269). -/
def slotting (x : Link) : Bool := x.keyed && (x.state == .up || x.state == .hello || x.state == .peerQuiesce)

/-- What a slot carries. -/
inductive SlotUse where
  | link
  | resend (f : TxFlit)
  | vl0
  | bulk (k : Nat)
  deriving DecidableEq, Repr

/-- R261. A flit to be resent goes before any new DATA flit, which the receiver would discard (log entry 33). -/
def slotUse (down : Bool) (x : Link) : SlotUse :=
  if x.state != .up || down || x.nak then .link
  else match resendNext x with
    | some f => if f.vl = 0 || decide (x.dataRun < 512) then .resend f else .link
    | none =>
      if canSend x 0 then .vl0
      else if 512 ≤ x.dataRun then .link
      else match rrPick x with
        | some k => .bulk k
        | none => .link

/-! ### The switch to new keys (R270) -/

/-- The old keys are gone once both directions have switched. -/
def rekeyEnd (l : Fin 8) (s : State) : State :=
  match (s.links[l]).rekey with
  | some r =>
    if r.txDone && r.rxDone then
      bumpLink l 6 1 (setLink l (fun x => { x with gen := r.gen, rekey := none, switchAck := false }) s)
    else s
  | none => s

/-- The transmitter has come to its SWITCH_AT, which the peer has confirmed. -/
def txDue (x : Link) (r : RekeyRun) : Bool := !r.txDone && r.txAck && r.txAt.any fun n => decide (n.toNat ≤ x.txF.toNat)

/-- The receiver has come to the peer's SWITCH_AT. -/
def rxDue (x : Link) (r : RekeyRun) : Bool := !r.rxDone && r.rxAt.any fun n => decide (n.toNat ≤ x.rxF.toNat)

/-- From SWITCH_AT on, a direction seals under the new key, with its frame counter at 0. -/
def switchTx (l : Fin 8) (s : State) : State :=
  match (s.links[l]).rekey with
  | some r =>
    if txDue (s.links[l]) r then
      rekeyEnd l (setLink l (fun x => { x with
        txF := 0, rekey := some { r with txDone := true },
        keys := match x.keys, r.keys with
          | some k, some n => some { k with tx := n.tx, txSalt := n.txSalt }
          | k, _ => k }) s)
    else s
  | none => s

def switchRx (l : Fin 8) (s : State) : State :=
  match (s.links[l]).rekey with
  | some r =>
    if rxDue (s.links[l]) r then
      rekeyEnd l (setLink l (fun x => { x with
        rxF := 0, rekey := some { r with rxDone := true },
        keys := match x.keys, r.keys with
          | some k, some n => some { k with rx := n.rx, rxSalt := n.rxSalt }
          | k, _ => k }) s)
    else s
  | none => s

/-- A SWITCH_AT that is not confirmed 512 slots before gives way to a later one, 4,096 slots ahead or more (the choice is
open: log entry 8). -/
def laterSwitch (l : Fin 8) (s : State) : State :=
  let x := s.links[l]
  match x.rekey with
  | some r =>
    if !r.txAck && !r.txDone && r.txAt.any fun n => decide (n.toNat ≤ x.txF.toNat + 512) then
      let c := someCycles s
      setLink l (fun y => { y with rekey := some { r with
        txAt := some (x.txF + BitVec.ofNat 64 (4096 + c.1 % 4096)) } }) c.2
    else s
  | none => s

/-- One flit slot of link l passes: R261 chooses the flit, which takes the counter's value, and both frame counters
advance (R269). -/
def flitSlot (l : Fin 8) (s : State) : State :=
  if !slotting s.links[l] then s
  else
    let s1 := laterSwitch l (switchRx l (switchTx l s))
    let s2 := match slotUse s.pwr.coreDown s1.links[l] with
      | .link => setLink l (linkFlitOut s.serial s.pwr.coreDown) s1
      | .resend f => bumpLink l 4 1 (setLink l (resendOut f) s1)
      | .vl0 => bumpLink l 0 1 (setLink l (dataFlitOut 0) s1)
      | .bulk k => bumpLink l 0 1 (setLink l (fun y => { dataFlitOut (rrLane k) y with rr := (k + 1) % 9 }) s1)
    setLink l (fun k => { k with txF := k.txF + 1, rxF := k.rxF + 1 }) s2

/-- f on each of the eight links in turn. -/
def eachLink (f : Fin 8 → State → State) (s : State) : State := (List.finRange 8).foldl (fun s' l => f l s') s

/-! ### An idle cycle (log entry 1) -/

/-- Flit slots of 20.48 ns that have begun by REFCLK cycle n. -/
def slotsAt (n : Nat) : Nat := n * 1000 / 2048

/-- One REFCLK cycle of 10 ns: GLB_CYCLE counts from RUN to SLEEP (R492), the timekeeper always (R434), and the links
send a flit where the cycle begins a slot. -/
def tick (s : State) : State :=
  let s1 := { s with aon := { s.aon with time := s.aon.time + 10 } }
  if awake s then
    let c := s.glb.cycle
    let s2 := { s1 with glb := { s1.glb with cycle := c + 1 } }
    if slotsAt (c + 1).toNat = slotsAt c.toNat then s2 else eachLink flitSlot s2
  else s1

end Sys2Proof.Machine
end

