-- ==== Sys2Proof/Machine/Jobs.lean ====
section
/-! DEFINITION. What a job slot is made of: its entry, mesh and tensors in the image in force, its place in
the workshop (R177), its handles (R225 to R229), and the discarding of a step (R156). -/

namespace Sys2Proof.Machine

/-! ### The image in force, as a job sees it -/

def bodyOf (s : State) : Option ImageBody := s.img.map (·.body)

def jobEntryOf (s : State) (idx : Nat) : Option JobEntry := (bodyOf s).bind (·.jobs[idx]?)

def trainOf (s : State) (idx : Nat) : Option Train := (bodyOf s).bind (·.trains[idx]?)

/-- A job without an entry in the MESH section maps every axis onto the module. -/
def localMesh : Mesh := ⟨1, 1, 1, 1, false, 1, [], []⟩

def meshOf (s : State) (idx : Nat) : Mesh :=
  match (bodyOf s).bind (·.meshes[idx]?) with
  | some m => m
  | none => localMesh

def tensorsOf (s : State) (idx : Nat) : List Tensor :=
  match bodyOf s with
  | some b => b.tensors.filter (·.job == idx)
  | none => []

def tensorOf (s : State) (id : BitVec 16) : Option Tensor :=
  (bodyOf s).bind fun b => b.tensors.find? (·.id == id)

def detMode (s : State) : Bool :=
  match s.img with
  | some i => i.det
  | none => true

def recordMode (s : State) : Bool :=
  match s.img with
  | some i => i.record
  | none => false

def imageIdOf (s : State) : DWord := s.glb.imageId

/-- Some axis of the job lies on the fabric (R21, R176). -/
def meshFabric (m : Mesh) : Bool := decide (1 < m.tF) || decide (1 < m.pF) || m.dFabric

/-- A slot is in use: its job runs, holds or is parked (R334, R335). -/
def anyJob (s : State) : Bool := s.jobs.toList.any Option.isSome

def jobAt (s : State) (j : Fin 4) : Option Job := s.jobs[j]

/-- A job that runs a step or holds, and not one that is parked. -/
def activeJob (s : State) (j : Fin 4) : Bool :=
  match s.jobs[j] with
  | some x => !x.parked && x.phase != .stopped
  | none => false

def slotOfIndex (s : State) (idx : Nat) : Option (Fin 4) :=
  (List.finRange 4).find? fun j => match s.jobs[j] with
    | some x => x.index == idx
    | none => false

def freeJobSlot (s : State) : Option (Fin 4) := (List.finRange 4).find? fun j => s.jobs[j].isNone

def tensIn (x : Job) (id : BitVec 16) : Option TRun := x.tens.find? (·.id == id)

/-- The run state of tensor id of job slot j changed by f. -/
def setTens (j : Fin 4) (id : BitVec 16) (f : TRun → TRun) (s : State) : State :=
  setJob j (fun x => { x with tens := x.tens.map fun t => if t.id == id then f t else t }) s

def tensAt (s : State) (j : Fin 4) (id : BitVec 16) : Option TRun := (s.jobs[j]).bind (tensIn · id)

/-! ### Coordinates (R177) -/

/-- The members that take part in fabric job idx, in ascending rank. -/
def participants (s : State) (idx : Nat) : List Nat :=
  (s.ws.members.filter fun m => bitAt m.jobs idx).map (·.rank)

structure Coord where
  member : Bool
  spare : Bool
  t : Nat
  p : Nat
  d : Nat
  dTot : Nat
  deriving DecidableEq, Repr

/-- This module's place in job idx; a job whose every axis is local has D = 1. -/
def coordIn (s : State) (idx : Nat) : Coord :=
  let m := meshOf s idx
  if meshFabric m && isMember s then
    let ps := participants s idx
    let g := max 1 (m.tF * m.pF)
    let q := ps.findIdx (· == s.ws.rank)
    let dTot := ps.length / g
    { member := ps.contains s.ws.rank, spare := ps.contains s.ws.rank && decide (dTot * g ≤ q),
      t := q % max 1 m.tF, p := (q / max 1 m.tF) % max 1 m.pF, d := q / g, dTot := dTot }
  else { member := false, spare := false, t := 0, p := 0, d := 0, dTot := 1 }

/-- The ranks of the members of the job that are no spares, ascending (R177). -/
def jobRanks (s : State) (idx : Nat) : List Nat :=
  let m := meshOf s idx
  let g := max 1 (m.tF * m.pF)
  let ps := participants s idx
  ps.take (ps.length / g * g)

/-! ### The progress of collectives (R313) -/

/-- A collective of tensor t of job slot j opens, or receives a message. -/
def colMark (j : Fin 4) (t : BitVec 16) (s : State) : State :=
  { s with col := { s.col with heard := (j, t, s.aon.time) :: s.col.heard.filter fun q => !(q.1 == j && q.2.1 == t) } }

/-- A step of job slot j opens collectives. -/
def colFresh (j : Fin 4) (s : State) : State :=
  { s with col := { s.col with heard := s.col.heard.filter (·.1 != j), since := s.col.since.set j s.aon.time } }

/-- When the collective of a tensor last opened or received a message. -/
def colLast (s : State) (j : Fin 4) (t : BitVec 16) : DWord :=
  match s.col.heard.find? fun q => q.1 == j && q.2.1 == t with
  | some q => q.2.2
  | none => s.col.since[j]

/-- The ranks of this module's glue-up group in ascending coordinate d. -/
def groupRanks (s : State) (idx : Nat) : List Nat :=
  let m := meshOf s idx
  let g := max 1 (m.tF * m.pF)
  let ps := participants s idx
  let q := ps.findIdx (· == s.ws.rank)
  (List.range (ps.length / g)).map fun d => ps.getD (d * g + q % g) 0

/-- The first element and the end of the shard of member d of n (R147). -/
def shardLo (n dTot d : Nat) : Nat := d * n / max 1 dTot

/-- The job takes part in the fabric: its mesh needs it and this module is a member. -/
def onFabric (s : State) (x : Job) : Bool := x.fabric && isMember s

/-- The veneer weight or expert that a tensor belongs to; a weight belongs to itself. -/
def baseOf (s : State) (t : Tensor) : Option Tensor :=
  match t.role with
  | .veneerW => some t
  | .expert => some t
  | .veneerM => tensorOf s t.veneer
  | .veneerV => tensorOf s t.veneer
  | .grad => tensorOf s t.veneer
  | _ => none

/-- The number of an expert among those of its layer, in the table's order. -/
def expertNo (s : State) (t : Tensor) : Nat :=
  ((tensorsOf s t.job).filter fun u => u.role == .expert && u.veneer == t.veneer).findIdx (·.id == t.id)

/-! ### Handles and frames -/

def fmtBytes (f : BitVec 2) : Nat := if f = 0 then 1 else if f = 1 then 2 else 4

/-- Bytes of one buffer of a tensor (R42, R54). -/
def tensorBytes (t : Tensor) : Nat :=
  match t.inlay with
  | some i => if i.int8 then t.elements else (t.elements + 1) / 2
  | none => t.elements * fmtBytes t.fmt

/-- A veneer weight or moment has a current and an alternate buffer (R133). -/
def isVeneer (r : Role) : Bool := r == .veneerW || r == .veneerM || r == .veneerV || r == .expert

/-- A named parameter of the TRAIN section (R149). -/
def namedParam (n : ParamName) (p : Params) : Option Word :=
  match n with
  | .lr => p.lr
  | .beta1 => p.beta1
  | .beta2 => p.beta2
  | .eps => p.eps
  | .wd => p.wd
  | .mu => p.mu

/-- Bytes of the 64-byte blocks of one buffer. -/
def bufBytes (t : Tensor) : Nat := (tensorBytes t + 63) / 64 * 64

/-- The alternate buffer of a veneer lies behind the other one (log entry 11). -/
def bufBase (t : Tensor) (alt : Bool) : Nat := if alt then bufBytes t else 0

def handleBytes (t : Tensor) : Nat := if isVeneer t.role then 2 * bufBytes t else bufBytes t

/-- R225. -/
def classOf (r : Role) : HClass :=
  match r with
  | .weightRO => .weightRO
  | .veneerW => .veneer
  | .veneerM => .veneer
  | .veneerV => .veneer
  | .expert => .veneer
  | .grad => .grad
  | .act => .act
  | .input => .input

def classCode (c : HClass) : Nat :=
  match c with
  | .weightRO => 1
  | .veneer => 2
  | .grad => 3
  | .act => 4
  | .ring => 5
  | .input => 6
  | .staging => 7

/-- The lowest handle from n on that no record holds. -/
def lowestFree : Nat → List (Nat × Handle) → Nat
  | n, [] => n
  | n, (k, _) :: t => if k = n then lowestFree (n + 1) t else if n < k then n else lowestFree n t

def framesFor (bytes : Nat) : Nat := (bytes + 65535) / 65536

/-- Creates a handle of the given class, size and LIMIT: a tensor's handle is its id while that is free (log entry 11).
None when no handle is free (R225, R229). -/
def allocHandle (cls : HClass) (job : Nat) (spill : Bool) (tensor : BitVec 16) (bytes limit : Nat) (s : State) :
    Option (Nat × State) :=
  let h := if tensor.toNat != 0 && (tabFind tensor.toNat s.stk.handles).isNone then tensor.toNat
    else lowestFree 1 s.stk.handles
  if 65535 < h then none
  else
    let r : Handle := ⟨cls, job, spill, framesFor bytes, (limit + 63) / 64, tensor, [], false⟩
    some (h, { s with stk := { s.stk with handles := tabPut h r s.stk.handles } })

def handleAt (s : State) (h : Nat) : Option Handle := tabFind h s.stk.handles

def setHandle (h : Nat) (f : Handle → Handle) (s : State) : State :=
  match handleAt s h with
  | some x => { s with stk := { s.stk with handles := tabPut h (f x) s.stk.handles } }
  | none => s

/-- The handle of the tensor that a descriptor names (log entry 11): the job's own, or another job's. -/
def handleNamed (s : State) (j : Fin 4) (id : Nat) : Option Nat :=
  let named := s.stk.handles.filter fun h => h.2.tensor.toNat == id && h.2.cls != .staging && id != 0
  match named.find? fun h => h.2.job == j.val with
  | some h => some h.1
  | none => (named.head?).map (·.1)

/-- Byte off of handle h in `Stk.bytes`. -/
def hKey (h off : Nat) : Nat := h * 2 ^ 37 + off

/-- Some descriptor in flight touches a frame of the handle (R242). -/
def pinnedIn (x : Handle) : Bool := x.table.any fun f => !f.2.pins.isEmpty

/-- Frees a handle: its frames, spill slots, translations and bytes go; a pinned frame holds the freeing back (R228). -/
def freeHandle (h : Nat) (s : State) : State :=
  match handleAt s h with
  | none => s
  | some x =>
    if pinnedIn x then setHandle h (fun y => { y with freeing := true }) s
    else
      { s with stk := { s.stk with
          handles := tabErase h s.stk.handles,
          bytes := clearRange s.stk.bytes (hKey h 0) (2 ^ 37),
          tc := s.stk.tc.filter fun q => q.1 != h,
          spills := s.stk.spills.filter fun sp => sp.2.handle != h } }

/-- Frame i of handle h is held no more: neither its entry nor its bytes, its spill slot or its translation are left. -/
def dropFrame (h i : Nat) (s : State) : State :=
  let s1 := setHandle h (fun x => { x with table := tabErase i x.table }) s
  { s1 with stk := { s1.stk with
      bytes := clearRange s1.stk.bytes (hKey h (i * 65536)) 65536,
      tc := s1.stk.tc.filter fun q => q != (h, i),
      spills := s1.stk.spills.filter fun q => !(q.2.handle == h && q.2.frame == i) } }

/-- Frame i of handle h freed; while it is pinned the freeing waits (R228). -/
def freeFrame (h i : Nat) (s : State) : State :=
  match (handleAt s h).bind fun x => tabFind i x.table with
  | none => s
  | some f =>
    if f.pins.isEmpty then dropFrame h i s
    else setHandle h (fun x => { x with table := tabPut i { f with dying := true } x.table }) s

def loosen (gone : PinBy → Bool) (f : Nat × Frame) : Nat × Frame :=
  (f.1, { f.2 with pins := f.2.pins.filter fun p => !gone p })

/-- Frames whose freeing waited for pins that are gone. -/
def deadFrames (s : State) : List (Nat × Nat) :=
  s.stk.handles.flatMap fun h => (h.2.table.filter fun f => f.2.dying && f.2.pins.isEmpty).map fun f => (h.1, f.1)

/-- Descriptors no longer touch any frame: their pins go, and what waited for them is freed (R228, R242). -/
def unpin (gone : PinBy → Bool) (s : State) : State :=
  let s1 := { s with stk := { s.stk with
    handles := s.stk.handles.map fun h => (h.1, { h.2 with table := h.2.table.map (loosen gone) }) } }
  let s2 := (deadFrames s1).foldl (fun s' f => dropFrame f.1 f.2 s') s1
  ((s2.stk.handles.filter fun h => h.2.freeing).map (·.1)).foldl (fun s' h => freeHandle h s') s2

/-- Frames of a handle pinned by a descriptor. -/
def pinFrames (h : Nat) (fs : List Nat) (p : PinBy) (s : State) : State :=
  let hold := fun (f : Nat × Frame) => if fs.contains f.1 then (f.1, { f.2 with pins := p :: f.2.pins }) else f
  setHandle h (fun x => { x with table := x.table.map hold }) s

/-- Drawer frames of a sensor port's ring (R428). -/
def portFrames (p : Port) : Nat := if p.ringed then 2 ^ (bitsNat p.cfg 24 20 - 12) else 0

/-- The rings' frames follow BAR2's 4,096 (R370) in port order (log entry 12). -/
def ringFrames (s : State) : Nat := (s.sns.toList.map portFrames).sum

def ringBase (s : State) (port : Nat) : Nat := 4096 + ((s.sns.toList.take port).map portFrames).sum

def reservedFrames (s : State) : Nat := 4096 + ringFrames s

/-- PFNs that frames of handles hold, the sensor rings' apart. -/
def usedPfns (s : State) : List Nat :=
  ((s.stk.handles.filter fun h => h.2.cls != .ring).map fun h =>
    (h.2.table.filter fun f => f.2.resident).map fun f => f.2.loc).flatten

/-- The frame entries of the ring of a port: every frame is resident, at the ring's place. -/
def ringTable (s : State) (port frames : Nat) : List (Nat × Frame) :=
  (List.range frames).map fun i => (i, ⟨ringBase s port + i, true, false, [], false, 0, 0⟩)

def freeFrames (s : State) : Nat := frameTotal s.part - reservedFrames s - (usedPfns s).length

/-- The first PFN from p on, wrapping in [lo, hi), that is not in use. -/
def probePfn : Nat → List Nat → Nat → Nat → Nat → Nat
  | 0, _, _, _, p => p
  | n + 1, used, lo, hi, p =>
    if used.contains p then probePfn n used lo hi (if p + 1 < hi then p + 1 else lo) else p

/-! ### Paging out (R234 to R236) -/

/-- Spill slots in force: at most 2,097,152 (R249). -/
def spillSlots (s : State) : Nat := min s.stk.slots.toNat 2097152

/-- The lowest spill slot in use by no frame. -/
def freeSpill : Nat → List (Nat × Spill) → Nat
  | n, [] => n
  | n, (k, _) :: t => if k = n then freeSpill (n + 1) t else if n < k then n else freeSpill n t

/-- Frames that may be paged out: resident, of a spillable handle, not pinned; each with its last translation. -/
def coldFrames (s : State) : List (Nat × Nat × Nat) :=
  s.stk.handles.flatMap fun h => if h.2.spillable then
      (h.2.table.filter fun f => f.2.resident && f.2.pins.isEmpty).map fun f => (h.1, f.1, f.2.used)
    else []

/-- The one translated least recently (R235). -/
def coldest : List (Nat × Nat × Nat) → Option (Nat × Nat × Nat)
  | [] => none
  | a :: t => match coldest t with
    | none => some a
    | some b => if b.2.2 < a.2.2 then some b else some a

/-- A page-out can be made: a slot is free, the spill counter is not at its last value, the key is there, and some frame may
be paged out (R235, R236). -/
def canSpill (s : State) : Bool :=
  decide (freeSpill 0 s.stk.spills < spillSlots s) && s.stk.spillCounter != BitVec.allOnes 64 && s.stk.spillKey.isSome &&
    !(coldFrames s).isEmpty

/-- STK_CFG.FREE_LOW in frames. -/
def freeLow (s : State) : Nat := 256 * bitsNat s.stk.cfg 23 16

/-- The nonce of R236: the slot number, then the spill counter; bytes little-endian (log entry 61). -/
def spillNonce (slot : Nat) (c : DWord) : List Byte := leBytes 4 slot ++ leBytes 8 c.toNat

/-- The additional authenticated data: slot number, HANDLE, FRAME_INDEX and COUNTER (R236, log entry 61). -/
def spillAad (slot h i : Nat) (c : DWord) : List Byte := leBytes 4 slot ++ leBytes 2 h ++ leBytes 4 i ++ leBytes 8 c.toNat

/-- The tag entry of a slot (R236). -/
def tagEntry (tag : List Byte) (h i : Nat) (c : DWord) : List Byte :=
  tag ++ leBytes 8 c.toNat ++ leBytes 2 h ++ leBytes 2 0 ++ leBytes 4 i

/-- Host addresses of a slot's data and of its tag entry (R234). -/
def slotData (s : State) (slot : Nat) : DWord := s.stk.base + BitVec.ofNat 64 (slot * 65536)
def slotTag (s : State) (slot : Nat) : DWord := s.stk.base + BitVec.ofNat 64 (spillSlots s * 65536 + slot * 32)

def spillKeyBytes (s : State) : List Byte := leBytes 32 (s.stk.spillKey.getD 0).toNat

/-- Frame i of handle h goes to the lowest free spill slot: its ciphertext and its tag entry are written to the host, and
COUNTER is kept with the frame (R236). -/
def pageOutRun (h i : Nat) (s : State) : State :=
  let slot := freeSpill 0 s.stk.spills
  let c := s.stk.spillCounter
  let key := spillKeyBytes s
  let data := gcmCrypt key (spillNonce slot c) (readBytes s.stk.bytes (hKey h (i * 65536)) 65536)
  let tag := gcmTag key (spillNonce slot c) (spillAad slot h i c) data
  let used := match (handleAt s h).bind fun x => tabFind i x.table with
    | some f => f.used
    | none => 0
  let s1 := setHandle h (fun x => { x with table := tabPut i ⟨slot, false, true, [], false, c, used⟩ x.table }) s
  let s2 := { s1 with stk := { s1.stk with
    bytes := clearRange s1.stk.bytes (hKey h (i * 65536)) 65536,
    hostOut := (slotTag s slot, tagEntry tag h i c) :: (slotData s slot, data) :: s1.stk.hostOut,
    spills := tabPut slot ⟨c, h, i⟩ s1.stk.spills, spillCounter := c + 1 } }
  bumpStk 1 1 { s2 with stk := { s2.stk with paging := decide (freeFrames s2 ≤ freeLow s2 + 256) } }

/-- The coldest frame makes room for an allocation (R229). -/
def makeRoom (s : State) : State :=
  if freeFrames s = 0 && canSpill s then
    match coldest (coldFrames s) with
    | some q => pageOutRun q.1 q.2.1 s
    | none => s
  else s

/-- A free PFN (log entry 12), and the state after the pick: an allocation that finds none pages the coldest frame out;
none when there is no frame to page out either (R229). -/
def pickPfn (s0 : State) : Option (Nat × State) :=
  let s := makeRoom s0
  if freeFrames s = 0 then none
  else
    let lo := reservedFrames s
    let hi := frameTotal s.part
    let used := usedPfns s
    let p := lo + Config.pfnPick s.free % (hi - lo)
    some (probePfn used.length used lo hi p, { s with free := s.free + 1 })

/-- Makes frame i of handle h resident for a write; none when no frame is free. -/
def touchFrame (h i : Nat) (s0 : State) : Option State :=
  let s := { s0 with stk := { s0.stk with clock := s0.stk.clock + 1 } }
  match handleAt s h with
  | none => none
  | some x =>
    match tabFind i x.table with
    | some f => some (setHandle h (fun y => { y with table := tabPut i { f with used := s.stk.clock } y.table }) s)
    | none =>
      match pickPfn s with
      | none => none
      | some (p, s1) =>
        some (setHandle h (fun y => { y with table := tabPut i ⟨p, true, false, [], false, 0, s1.stk.clock⟩ y.table }) s1)

def touchFrames (h : Nat) : List Nat → State → Option State
  | [], s => some s
  | i :: t, s => (touchFrame h i s).bind (touchFrames h t)

/-- The frames that bytes off to off + n − 1 lie in. -/
def frameSpan (off n : Nat) : List Nat :=
  if n = 0 then [] else List.range' (off / 65536) ((off + n - 1) / 65536 + 1 - off / 65536)

/-! ### Translation and channels (R227, R230, R231) -/

/-- Translations that the cache holds. -/
def tcSize : Nat := 4096

/-- The cache takes a translation; which of its entries gives way when it is full is a free pick (log entry 58). -/
def tcFill (q : Nat × Nat) (s : State) : State :=
  if s.stk.tc.length < tcSize then { s with stk := { s.stk with tc := q :: s.stk.tc } }
  else { s with stk := { s.stk with tc := q :: s.stk.tc.eraseIdx (Config.pfnPick s.free % tcSize) }, free := s.free + 1 }

/-- Frame i of handle h translated (R227): a miss is counted and fills the cache; the frame is the one translated last
(R235). -/
def translate (h i : Nat) (s : State) : State :=
  let s1 := if s.stk.tc.contains (h, i) then s else tcFill (h, i) (bumpStk 0 1 s)
  let s2 := { s1 with stk := { s1.stk with clock := s1.stk.clock + 1 } }
  match (handleAt s2 h).bind fun x => tabFind i x.table with
  | none => s2
  | some f => setHandle h (fun x => { x with table := tabPut i { f with used := s2.stk.clock } x.table }) s2

def parityOf (v : BitVec 21) : Bool := (List.range 21).foldl (fun b i => b != v.getLsbD i) false

/-- The XOR of every nonempty choice of masks. -/
def choices : List (BitVec 21) → List (BitVec 21)
  | [] => []
  | m :: t => m :: (choices t ++ (choices t).map (m ^^^ ·))

/-- Masks S_0 to S_4 of a salt: the spec does not give their derivation, only that h has rank 5 (R230, log entry 59). -/
def saltMasks (salt : DWord) : List (BitVec 21) :=
  let ms := (List.range 5).map (Config.hashMask salt)
  if (choices ms).all (· != 0) then ms else (List.range 5).map fun b => BitVec.ofNat 21 (2 ^ b)

/-- h(f) of R230. -/
def hashOf (salt : DWord) (f : Nat) : Nat :=
  ((saltMasks salt).zipIdx.map fun m => if parityOf (m.1 &&& BitVec.ofNat 21 f) then 2 ^ m.2 else 0).sum

/-- The channel of segment i of the frame with PFN f, c := (i XOR h(f)) AND (C − 1) (R230). -/
def channelOf (s : State) (f i : Nat) : Nat := (i ^^^ hashOf (s.stk.salt.getD 0) f) % channels s.part

/-- The 64-byte blocks of bytes off to off + n − 1 that lie in 2 KiB segment g. -/
def blocksIn (off n g : Nat) : Nat := (min (off + n) (2048 * g + 2048) + 63) / 64 - max off (2048 * g) / 64

/-- A count in a table raised. -/
def tally (key n : Nat) (t : List (Nat × Nat)) : List (Nat × Nat) := tabPut key ((tabFind key t).getD 0 + n) t

/-- The requests of an access to handle h, one per 64-byte block (log entry 58), counted in the window under way (R231). -/
def countReqs (h off n : Nat) (s : State) : State :=
  match handleAt s h with
  | none => s
  | some x =>
    let one := fun (t : List (Nat × Nat)) (g : Nat) => match tabFind (g / 32) x.table with
      | some f => if f.resident then tally (f.loc * 32 + g % 32) (blocksIn off n g) t else t
      | none => t
    let segs := List.range' (off / 2048) ((off + n + 2047) / 2048 - off / 2048)
    { s with stk := { s.stk with winReq := segs.foldl one s.stk.winReq } }

/-- An access to n bytes of a handle from off on, as the stockroom sees it: translations and requests. -/
def useHandle (h off n : Nat) (s : State) : State :=
  if n = 0 then s else countReqs h off n ((frameSpan off n).foldl (fun s' i => translate h i s') s)

/-- Bytes written into a handle; none when no frame is free for them (R229). -/
def writeHandle (h off : Nat) (bs : List Byte) (s : State) : Option State :=
  (touchFrames h (frameSpan off bs.length) s).map fun s1 =>
    { useHandle h off bs.length s1 with stk := { (useHandle h off bs.length s1).stk with
        bytes := writeBytes (useHandle h off bs.length s1).stk.bytes (hKey h off) bs } }

/-- The bytes of a handle; `useHandle` is what the read does to the stockroom. -/
def readHandle (s : State) (h off n : Nat) : List Byte := readBytes s.stk.bytes (hKey h off) n

/-- What the drawer holds of the 64-byte block of frame PFN f at byte offset off of the frame: the data under the key of the
boot, with the block's number as its tweak (R222). -/
def drawerBlock (s : State) (f off : Nat) (data : List Byte) : List Byte :=
  match s.stk.xts with
  | some key => xtsEncrypt key (f * 1024 + off / 64) data
  | none => data

/-- STK_FAULT_INFO: handle, kind, engine, job and drawer (R248). -/
def stkInfo (h kind eng job drawer : Nat) : Word :=
  BitVec.ofNat 32 (h % 65536 + kind * 2 ^ 16 + eng * 2 ^ 20 + job * 2 ^ 23 + drawer * 2 ^ 25)

/-- A stockroom fault with its info and address. -/
def stkFault (kind h eng job drawer : Nat) (addr : Nat) (s : State) : State :=
  { s with stk := { s.stk with fault := orBit s.stk.fault kind, faultInfo := stkInfo h kind eng job drawer,
                               faultAddr := BitVec.ofNat 64 addr } }

/-- A shortage of frames or handles (R229). -/
def exhausted (job : Nat) (s : State) : State :=
  let s1 := stkFault 4 0 0 job 0 0 s
  post { ev 0x0305 with fault := true, info := s1.stk.faultInfo.setWidth 64 } s1

def insertBy {α : Type} (le : α → α → Bool) (a : α) : List α → List α
  | [] => [a]
  | b :: t => if le a b then a :: b :: t else b :: insertBy le a t

/-- A list in an order; entries that tie keep their places. -/
def sortBy {α : Type} (le : α → α → Bool) : List α → List α
  | [] => []
  | a :: t => insertBy le a (sortBy le t)

/-! ### The words of descriptors (R67, R239) -/

def descWord (d : Desc8) (n : Nat) : Word :=
  match n with
  | 0 => d.w0
  | 1 => d.w1
  | 2 => d.w2
  | 3 => d.w3
  | 4 => d.w4
  | 5 => d.w5
  | 6 => d.w6
  | _ => d.w7

/-- Bits hi to lo of word n. -/
def dField (d : Desc8) (n hi lo : Nat) : Nat := bitsNat (descWord d n) hi lo

/-! ### Schedule entries (R170) -/

structure EntryFields where
  vstage : BitVec 3
  back : Bool
  mb : Nat
  prog : Nat
  frames : Nat
  deriving DecidableEq, Repr

def entryFields (e : SchedEntry) : EntryFields :=
  ⟨BitVec.ofNat 3 (bitsNat e.w0 2 0), bitAt e.w0 3, bitsNat e.w0 13 4, bitsNat e.w0 29 14, bitsNat e.w1 15 0⟩

/-! ### Discarding a step (R143, R156, R312) -/

/-- A tensor at the start of a run of a step. -/
def freshTens (t : TRun) : TRun :=
  { t with parts := 0, early := [], gFinal := false, gtFinal := false, owned := 0, waiting := [],
           direct := [], optDone := false, gathered := [], tallyG := [], tallyEnd := [],
           nonfinite := false, fReady := false, amax := 0, dOvf := 0, dNan := 0, dUnf := 0,
           myW2 := Val.zero, myDw2 := Val.zero, scaleLimit := false }

/-- A job at the start of a run of its step. -/
def freshRun (x : Job) : Job :=
  { x with tens := x.tens.map freshTens, pos := vrep 4 0, fed := [], glueQ := [],
           glueIn := [], glueFirst := none, glueSpan := 0, gatherHeld := [], exp := [], expKept := [], expRet := [], expGone := [], norms := [], normReqs := [], normOut := [] }

/-- What the collectives have received for a tensor goes with the step. -/
def clearArrivals (t : TRun) : TRun :=
  { t with waiting := [], direct := [], gathered := [], tallyG := [], tallyEnd := [] }

/-- A tensor at the start of a step: what other members have already sent for this step stays. -/
def startTensRun (t : TRun) : TRun :=
  { freshTens t with waiting := t.waiting, gathered := t.gathered, direct := t.direct, tallyG := t.tallyG, tallyEnd := t.tallyEnd }

/-- A job at the start of a step. -/
def startRun (x : Job) : Job :=
  { freshRun x with tens := x.tens.map startTensRun, exp := x.exp, norms := x.norms }

/-- A bench no longer runs anything: its pass and its open chain end. BNC_STATUS.JOB and VSTAGE keep the last stage's
values: the spec does not say what they read while no stage runs (DESIGN CHOICE, log entry 47). -/
def benchIdle (b : Bench) : Bench :=
  { b with state := if b.state == .running || b.state == .waiting then .stopped else b.state, entry := none,
           passes := [], pc := 0, ld := 0, begun := false, read := false, relDue := false, progsLeft := [],
           chainOpen := false,
           waitKind := 0, waitSlot := 0xFF, held := none }

def planeIdle (p : Plane) : Plane :=
  { p with state := if p.state == .running || p.state == .waiting then .stopped else p.state, pc := 0,
           waitKind := 0, waitSlot := 0xFF, prog := none }

/-- Copy lists that wait, oldest first, go to the engines that have been idle longest (R238). -/
def assignIdle : List (Fin 8) → List (Fin 4 × List Desc8) → State → State
  | e :: es, q :: qs, s =>
    assignIdle es qs (setEng e (fun _ => ⟨q.1, q.2, .none⟩) { s with stk := { s.stk with idle := es, queue := qs } })
  | _, _, s => s

/-- The engines that work for job j become idle; their lists are dropped. -/
def dropEngines (j : Fin 4) (s : State) : State :=
  let busy := (List.finRange 8).filter fun e =>
    (s.stk.engines[e]).job == j && !(s.stk.engines[e]).list.isEmpty
  let idle := s.stk.idle ++ busy
  let queue := s.stk.queue.filter fun q => q.1 != j
  assignIdle idle queue { s with stk := { s.stk with
      engines := vmap (fun e => if e.job == j then Engine.reset else e) s.stk.engines, idle := idle, queue := queue } }

/-- Every entry of a vector changed by a function of its index. -/
def vmapIdx {α β : Type} {n : Nat} (f : Nat → α → β) (v : Vector α n) : Vector β n :=
  ⟨⟨v.toList.zipIdx.map fun x => f x.2 x.1⟩, by simp⟩

/-- The lathe requests of the planes that run for job j go. -/
def dropLathe (pln : Vector Plane 16) (j : Fin 4) (lth : Vector Lathe 4) : Vector Lathe 4 :=
  let one := fun (l k : Nat) (r : Option LatheReq) =>
    match pln[4 * l + k]? with
    | some p => if p.job == j && p.prog.isSome then none else r
    | none => r
  vmapIdx (fun l x => { x with req := vmapIdx (one l) x.req }) lth

/-- A pin of a descriptor or of a peer copy of job j. -/
def pinOf (s : State) (j : Fin 4) (p : PinBy) : Bool :=
  match p with
  | .engine e => (s.stk.engines[e]).job == j
  | .peer _ k _ => k == j

/-- The handles of class GRAD that hold early arrivals of the collectives of a job (R295). -/
def arrivalHandles (x : Job) : List Nat := (x.tens.flatMap fun t => t.waiting.map fun w => w.2.1) ++ x.expHeld.map (·.2.2)

/-- The early arrivals of job j are discarded (R312): their frames are freed. -/
def freeArrivals (j : Fin 4) (s : State) : State :=
  match s.jobs[j] with
  | none => s
  | some x => setJob j (fun y => { y with expHeld := [], tens := y.tens.map fun t => { t with waiting := [] } })
      ((arrivalHandles x).foldl (fun s' h => freeHandle h s') s)

/-- A slot wait of a bench ends without its slot: the cycles since the bench was last seen waiting, a measured number,
count in STALL_WAIT like those before (R80; log entry 16). -/
def waitEnds (b : Fin 4) (s : State) : State :=
  if s.bnc[b].state == .waiting then let c := someCycles s; bumpBnc b 5 c.1 c.2 else s

/-- The same for a plane and PLN_STALL_WAIT (R123). -/
def planeWaitEnds (p : Fin 16) (s : State) : State :=
  if s.pln[p].state == .waiting && s.pln[p].waitKind == 1 then let c := someCycles s; bumpPln p 4 c.1 c.2 else s

/-- The waits of job j's benches and planes end. -/
def endWaits (j : Fin 4) (s : State) : State :=
  let s1 := (List.finRange 4).foldl (fun s' b => match s'.bnc[b].entry with
    | some e => if e.job == j then waitEnds b s' else s'
    | none => s') s
  (List.finRange 16).foldl (fun s' p => if s'.pln[p].job == j then planeWaitEnds p s' else s') s1

/-- Ends the work of job j on every unit (R194, item 2). -/
def haltUnits (j : Fin 4) (s : State) : State :=
  let s1 := unpin (pinOf s j) (dropEngines j (setJob j (fun y => { y with fed := [] }) (freeArrivals j (endWaits j s))))
  { s1 with
    bnc := vmap (fun b => match b.entry with
      | some e => if e.job == j then benchIdle b else b
      | none => b) s1.bnc,
    pln := vmap (fun p => if p.job == j then planeIdle p else p) s1.pln,
    lth := dropLathe s1.pln j s1.lth,
    col := { s1.col with peers := s1.col.peers.filter fun p => p.job != j } }

/-- The bytes of the gradients cleared, and, unless `bound` says that a pass still reads them (R157), those of the
alternate buffers. -/
def discardBytes (bound : Bool) (ts : List Tensor) (xs : List TRun) (m : Memory) : Memory :=
  match xs with
  | [] => m
  | x :: rest =>
    let m1 :=
      match ts.find? (·.id == x.id) with
      | none => m
      | some t =>
        if t.role == .grad then clearRange m (hKey x.handle.toNat 0) (tensorBytes t)
        else if isVeneer t.role && !bound then clearRange m (hKey x.handle.toNat (bufBase t (!x.cur))) (tensorBytes t)
        else m
    discardBytes bound ts rest m1

/-- Every slot token EMPTY (R77: at every job start). -/
def emptySlots (s : State) : State := { s with bnc := vmap (fun b => { b with slots := 0 }) s.bnc }

/-- The tokens that an aborted step left behind, when no other job uses the benches (log entry 27). -/
def clearSlots (j : Fin 4) (s : State) : State :=
  if (List.finRange 4).all fun i => i == j || (s.jobs[i]).isNone then emptySlots s else s

/-- The stored bytes of a list of handles. -/
def bytesOf (hs : List Nat) (m : Memory) : Memory := m.filter fun c => hs.contains (c.1 / 2 ^ 37)

/-- A memory with the listed bytes written over it. -/
def overlay (m : Memory) : List (Nat × Byte) → Memory
  | [] => m
  | c :: t => overlay (setByte m c.1 c.2) t

/-- The memory without the bytes of a list of handles. -/
def withoutHandles (hs : List Nat) (m : Memory) : Memory := m.filter fun c => !hs.contains (c.1 / 2 ^ 37)

/-- The handles of job slot j. -/
def jobHandles (j : Fin 4) (s : State) : List Nat :=
  (s.stk.handles.filter fun h => h.2.job == j.val).map (·.1)

/-- The statistics counters that a replay keeps counting in (R63, R190). -/
def keepCounts (now before : TRun) : TRun :=
  { before with
    ovf := now.ovf, nan := now.nan, unf := now.unf, ovfSat := now.ovfSat, nanSat := now.nanSat,
    unfSat := now.unfSat, inexact := now.inexact }

/-- The end of a REPLAY: everything it must not change is put back (R190). -/
def restoreSaved (j : Fin 4) (s : State) : State :=
  match s.jobs[j] with
  | none => s
  | some x =>
    match x.saved with
    | none => s
    | some r =>
      let hs := jobHandles j s
      let ts := r.tens.map fun t => match tensIn x t.id with
        | some now => keepCounts now t
        | none => t
      let s1 := { s with stk := { s.stk with bytes := overlay (withoutHandles hs s.stk.bytes) (bytesOf hs r.bytes) } }
      setJob j (fun y => { freshRun y with
        tens := ts, step := r.step, windows := r.windows, phase := .boundary, saved := none,
        replaying := none, rerun := false }) s1

/-- R156: the step of job j is discarded. The current buffers, histories, scales and the step counter stay. -/
def abortStep (j : Fin 4) (s : State) : State :=
  match s.jobs[j] with
  | none => s
  | some x =>
    let s1 := haltUnits j s
    let s2 := { s1 with stk := { s1.stk with bytes := discardBytes (!x.readers.isEmpty) (tensorsOf s x.index) x.tens s1.stk.bytes } }
    let s3 := clearSlots j (setJob j (fun y => { freshRun y with
      phase := .aborting, rerun := true, abortEpoch := if onFabric s x then some s.ws.epoch else none }) s2)
    if x.train then
      post { ev 0x0705 with fault := true, job := jobByte j, status := stAborted,
                            info := BitVec.ofNat 64 x.step } (bumpTrn j 1 1 s3)
    else s3

end Sys2Proof.Machine
end

