-- ==== Sys2Proof/Machine/Workshop.lean ====
section
/-! DEFINITION. Shared operations of the workshop and of recovery: the members a PROPOSE derives (R178), an
epoch change (R279), its adoption (R181), leaving (R282), the stop of a job (R29, R282) and what a fault of a
step does (R78, R103, R192, R194). -/

namespace Sys2Proof.Machine

/-! ### Deriving a membership (R178, R279) -/

def insertArrival (a : Arrival) : List Arrival → List Arrival
  | [] => [a]
  | b :: t =>
    if a.claim < b.claim ∨ (a.claim = b.claim ∧ a.serial.toNat ≤ b.serial.toNat) then a :: b :: t
    else b :: insertArrival a t

/-- Arrivals in ascending claim, then ascending serial. -/
def sortArrivals : List Arrival → List Arrival
  | [] => []
  | a :: t => insertArrival a (sortArrivals t)

def applyChange (m : Member) (c : Change) : Member :=
  if m.rank = c.rank then
    { m with jobs := if c.joins then m.jobs ||| BitVec.ofNat 16 (2 ^ c.job)
                     else m.jobs &&& ~~~ (BitVec.ofNat 16 (2 ^ c.job)) }
  else m

/-- The new members in rank order: those that remain keep their order, arrivals follow. -/
def deriveMembers (old : List Member) (p : Proposal) : List Member :=
  let kept := (old.filter fun m => !p.departed.contains m.rank).map fun m => p.changes.foldl applyChange m
  let news := (sortArrivals p.arrivals).map fun a => (⟨0, a.serial, a.claim, a.jobs⟩ : Member)
  ((kept ++ news).zipIdx).map fun x => { x.1 with rank := x.2 }

/-- The links between remaining members, with their new ranks. -/
def renumber (old new : List Member) (adj : List Adj) : List Adj :=
  let f := fun (r : Nat) =>
    (old.find? (·.rank == r)).bind fun m => (new.find? (·.serial == m.serial)).map (·.rank)
  adj.filterMap fun a =>
    match f a.rankA, f a.rankB with
    | some x, some y => some { a with rankA := x, rankB := y }
    | _, _ => none

/-! ### What a change of membership does to the jobs (R179 to R181) -/

/-- Whether the shard or experts of old position q of a job are lost when the ranks `dep` leave (R181): the owner and
its mirror depart together, there is no mirror, or an expert that it holds has no replica. -/
def stateLost (m : Mesh) (rho2 : Bool) (old dep : List Nat) : Bool :=
  let g := max 1 (m.tF * m.pF)
  let dTot := old.length / g
  (List.range (dTot * g)).any fun q =>
    let d := q / g
    let gone := dep.contains (old.getD q 0)
    let mirrorGone := dep.contains (old.getD (((d + 1) % max 1 dTot) * g + q % g) 0)
    gone && (dTot == 1 || mirrorGone || ((m.experts.any fun e => decide (d < e.experts)) && !rho2))

/-- A piece of state to fetch (R181): the rank to ask, tensor, first element and number. -/
structure Need where
  dst : Nat
  tensor : BitVec 16
  first : Nat
  count : Nat
  deriving DecidableEq, Repr

/-- Elements that one message carries at most: 65,520 bytes of binary32 (R257). -/
def msgElems : Nat := 16380

/-- A range cut into runs that one message each can carry; the first argument bounds their number. -/
def cutRange : Nat → Nat → Nat → List (Nat × Nat)
  | 0, _, _ => []
  | n + 1, lo, hi => if lo < hi then (lo, min msgElems (hi - lo)) :: cutRange n (lo + msgElems) hi else []

def runsOf (lo hi : Nat) : List (Nat × Nat) := cutRange ((hi - lo) / msgElems + 1) lo hi

def needRange (dst : Nat) (id : BitVec 16) (lo hi : Nat) : List Need :=
  (runsOf lo hi).map fun r => ⟨dst, id, r.1, r.2⟩

/-- What the old membership looked like from the new: its participants, fabric group size and D, the new rank of an
old position (none when gone), this module's old position, and whether it kept its (t, p). -/
structure OldMesh where
  ps : List Nat
  g : Nat
  n : Nat
  rank : List (Option Nat)
  mine : Option Nat
  same : Bool
  deriving DecidableEq, Repr

def oldMesh (old : List Member) (s : State) (x : Job) : OldMesh :=
  let m := meshOf s x.index
  let g := max 1 (m.tF * m.pF)
  let ms := old.filter fun y => bitAt y.jobs x.index
  let n := ms.length / g
  let rank := ms.map fun y => (s.ws.members.find? (·.serial == y.serial)).map (·.rank)
  let q := ms.findIdx (·.serial == s.serial)
  let c := coordIn s x.index
  let mine := if q < n * g then some q else none
  { ps := ms.map (·.rank), g := g, n := n, rank := rank, mine := mine,
    same := match mine with
      | some q => q % g == (c.p * m.tF + c.t) % g
      | none => false }

/-- The lowest new rank among old positions. -/
def holder (o : OldMesh) (qs : List Nat) : Option Nat := leastOf (qs.filterMap fun q => (o.rank[q]?).join)

/-- Positions at this module's (t, p) under the old membership. -/
def columnPos (s : State) (x : Job) (o : OldMesh) (k : Nat) : Nat :=
  let m := meshOf s x.index
  let c := coordIn s x.index
  k * o.g + (c.p * m.tF + c.t) % o.g

def needFrom (d : Option Nat) (s : State) (id : BitVec 16) (lo hi : Nat) : List Need :=
  match d with
  | some r => if r = s.ws.rank then [] else needRange r id lo hi
  | none => []

/-- The first of old positions that still has its member (R181): the owner or primary, or failing that the mirror or
replica. -/
def firstLive (o : OldMesh) (qs : List Nat) : Option Nat := qs.findSome? fun q => (o.rank[q]?).join

/-- The part of old shard k of a moment that a range of the new placement takes, from its owner or its mirror. -/
def needShard (s : State) (x : Job) (o : OldMesh) (t : Tensor) (lo hi k : Nat) : List Need :=
  let a := max lo (shardLo t.elements o.n k)
  let b := min hi (shardLo t.elements o.n (k + 1))
  let held := o.same && (match o.mine with
    | some q => q / o.g == k || (q / o.g + o.n - 1) % max 1 o.n == k
    | none => false)
  if b ≤ a || held then []
  else needFrom (firstLive o [columnPos s x o k, columnPos s x o ((k + 1) % max 1 o.n)]) s t.id a b

/-- The expert's place: its primary and, with ρ = 2, its replica. -/
def expertAt (rho2 : Bool) (n e k : Nat) : Bool := e % max 1 n == k || (rho2 && (e + 1) % max 1 n == k)

/-- The state of a tensor that this member must fetch under its new coordinates (R181). -/
def needsOf (s : State) (x : Job) (o : OldMesh) (was2 now2 : Bool) (t : Tensor) : List Need :=
  let c := coordIn s x.index
  let all := (List.range o.n).map (columnPos s x o)
  match baseOf s t with
  | none =>
    if t.role == .weightRO && !o.same && (t.keyId.isNone || o.mine.isSome) then
      needFrom (holder o all) s t.id 0 t.elements
    else []
  | some w =>
    if t.role == .grad then []
    else if w.role == .expert then
      let e := expertNo s w
      let had := o.same && (match o.mine with
        | some q => expertAt was2 o.n e (q / o.g)
        | none => false)
      if expertAt now2 c.dTot e c.d && !had then
        needFrom (firstLive o (columnPos s x o (e % max 1 o.n) ::
          if was2 then [columnPos s x o ((e + 1) % max 1 o.n)] else [])) s t.id 0 t.elements
      else []
    else if t.role == .veneerW then
      if o.same then [] else needFrom (holder o all) s t.id 0 t.elements
    else
      let own := (List.range o.n).flatMap
        (needShard s x o t (shardLo t.elements c.dTot c.d) (shardLo t.elements c.dTot (c.d + 1)))
      let p := (c.d + c.dTot - 1) % max 1 c.dTot
      if c.dTot ≤ 1 then own
      else own ++ (List.range o.n).flatMap
        (needShard s x o t (shardLo t.elements c.dTot p) (shardLo t.elements c.dTot (p + 1)))

/-- What every member has alike: a member that held no state asks for the scale, history, step counter and seed of the
tensors of which it fetches no element. -/
def commonNeeds (s : State) (x : Job) (o : OldMesh) (fl : List Need) : List Need :=
  if o.mine.isSome then []
  else match holder o (List.range (o.n * o.g)) with
    | some r => (tensorsOf s x.index).filterMap fun t => if fl.any (·.tensor == t.id) then none else some ⟨r, t.id, 0, 0⟩
    | none => []

/-- Everything that a participant must fetch under its new coordinates (R181). -/
def allNeeds (s : State) (x : Job) (o : OldMesh) (was2 now2 : Bool) : List Need :=
  let c := coordIn s x.index
  if c.spare || !c.member || o.ps.isEmpty then []
  else
    let fl := (tensorsOf s x.index).flatMap (needsOf s x o was2 now2)
    fl ++ commonNeeds s x o fl

/-- The requests for pieces of state; the job holds until they are answered. -/
def sendNeeds (j : Fin 4) (x : Job) (fl : List Need) (s : State) : State :=
  fl.foldl (fun s' f => send (BitVec.ofNat 16 f.dst) 0x80 0
    (.col ⟨f.tensor, BitVec.ofNat 8 j.val, 0, BitVec.ofNat 32 x.step, BitVec.ofNat 40 f.first, BitVec.ofNat 24 f.count⟩) s')
    (setJob j (fun y => { y with fetch := fl.map fun f => (f.tensor, f.first, f.count) }) s)

/-! ### Steps under way (R22) -/

/-- f on each of the four slots in turn. -/
def eachSlot (f : Fin 4 → State → State) (s : State) : State := f 3 (f 2 (f 1 (f 0 s)))

/-- A step of job j is under way. -/
def stepOpen (x : Job) : Bool := x.phase == .compute || x.phase == .update || x.phase == .ready

/-- No step of a fabric job but that in slot j is open on this module. -/
def shutBut (j : Option (Fin 4)) (s : State) : Bool :=
  (List.finRange 4).all fun i => some i == j || (match s.jobs[i] with
    | some x => !x.fabric || !stepOpen x
    | none => true)

/-- No step of a fabric job is open on this module. -/
def fabricShut (s : State) : Bool := shutBut none s

/-- No fabric step is under way or due on this module (R22, R279). -/
def fabricQuiet (s : State) : Bool :=
  (List.finRange 4).all fun j => match s.jobs[j] with
    | some x => !x.fabric || x.parked || x.phase == .holding || x.phase == .stopped
    | none => true

/-- Members that take part in job idx and will go on doing so: neither departed nor leaving it. -/
def staying (s : State) (idx : Nat) : List Nat :=
  (participants s idx).filter fun r => !s.ws.departed.contains r &&
    !s.ws.changes.any fun c => c.rank == r && c.job == idx && !c.joins

/-- This module runs steps of job idx itself. -/
def runsHere (s : State) (idx : Nat) : Bool :=
  (slotOfIndex s idx).isSome && (coordIn s idx).member && !(coordIn s idx).spare

/-- A fabric job, `but` apart, whose steps other members run and this one does not: it may have one under way. The steps of
a job that this module runs too are open here when they are open anywhere (R153; log entry 63). -/
def elsewhere (but : List Nat) (s : State) : Bool :=
  (List.range 16).any fun idx =>
    let m := meshOf s idx
    !but.contains idx && meshFabric m && ((jobEntryOf s idx).any fun e => e.kind == 1) && !runsHere s idx &&
      decide (max 1 (m.tF * m.pF) ≤ (staying s idx).length)

/-- Jobs of this module that lie on the fabric, other than slot j. -/
def otherFabric (j : Fin 4) (s : State) : Bool :=
  (List.finRange 4).any fun i => i != j && (match s.jobs[i] with
    | some x => x.fabric
    | none => false)

def noFabricJob (s : State) : Bool :=
  (List.finRange 4).all fun i => match s.jobs[i] with
    | some x => !x.fabric
    | none => true

/-! ### Leaving and stopping -/

/-- This module becomes UNJOINED. -/
def unjoin (s : State) : State :=
  { s with ws := { s.ws with state := .unjoined, rank := 0, coord := 0, members := [], adj := [],
                             arrivals := [], departed := [], changes := [], change := none, view := none, told := none,
                             leaving := false, ready := [], asked := [], offers := [], snapWait := [],
                             replayWait := [], dissolving := false, joinSent := false, joinJobs := [], replayOut := [],
                             retraining := [], quiet := [], heard := [] },
           sec := { s.sec with mr4 := none }, links := vmap (fun l => { l with peerMember := false }) s.links }

/-- The links to modules that a view admits and the epoch before it did not hold: PROPOSE and ENACT reach them there. -/
def arrivalLinks (old : List Member) (view : List Member) (s : State) : List (Fin 8) :=
  (List.finRange 8).filter fun l =>
    let x := s.links[l]
    x.state == .up && (view.any fun m => m.serial == x.peerSerial) && !(old.any fun m => m.serial == x.peerSerial)

/-- A message to the arrivals on this module's own links. -/
def tellArrivals (kind : Byte) (p : Payload) (view : List Member) (s : State) : State :=
  (arrivalLinks s.ws.members view s).foldl (fun s' l => enqueue l (sentOf 0xFFFE kind 0 p s') s') s

/-- The epochs of this workshop are used up (R283). -/
def epochEnd (s : State) : Bool := s.ws.epoch == BitVec.allOnes 32

/-- A change that the last epoch cannot make is known on this module: its fabric jobs hold (R283). -/
def endHold (s : State) : Bool := epochEnd s && s.ws.view.any fun v => v.1 == s.ws.epoch

/-- The number of the epoch that is proposed next. -/
def nextEpoch (s : State) : Word :=
  match s.ws.change with
  | some c => if c.prop.epoch = BitVec.allOnes 32 then c.prop.epoch else c.prop.epoch + 1
  | none => s.ws.epoch + 1

/-- The fabric jobs hold, a step under way aborted. -/
def holdJobs (s : State) : State :=
  eachSlot (fun j s => match s.jobs[j] with
    | some x =>
      if !x.fabric || x.parked then s
      else setJob j (fun y => { y with phase := .holding }) (if stepOpen x then abortStep j s else s)
    | none => s) s

/-- A change that the last epoch cannot make: every member learns of it by a PROPOSE of that epoch, and the fabric jobs
hold (R283; the message: log entry 68). -/
def lastEpoch (p : Proposal) (s : State) : State :=
  if endHold s then s
  else holdJobs (sendAll 0x0B 0 (.propose p) { s with ws := { s.ws with view := some (s.ws.epoch, []) } })

/-- The coordinator starts an epoch change (R279): the proposal goes to every prospective member, and its own ACCEPT is
its view. -/
def startChange (s : State) : State :=
  let dep := if s.ws.leaving then s.ws.rank :: s.ws.departed else s.ws.departed
  if epochEnd s then lastEpoch ⟨s.ws.epoch, dep, s.ws.arrivals, s.ws.changes, s.ws.members⟩ s
  else
    let p : Proposal := ⟨nextEpoch s, dep, s.ws.arrivals, s.ws.changes, s.ws.members⟩
    let v := deriveMembers s.ws.members p
    tellArrivals 0x0B (.propose p) v <| sendAll 0x0B 0 (.propose p)
      { s with ws := { s.ws with change := some ⟨p, v, if s.ws.leaving then [] else [s.serial]⟩,
                                 view := some (p.epoch, v) } }

/-- The member leaves the workshop at a boundary (R282): a member sends LEAVE; the coordinator runs the change
that removes itself and departs once its ENACT has been sent. -/
def leaveWorkshop (s : State) : State :=
  if isCoord s then
    if s.ws.members.length ≤ 1 || epochEnd s then unjoin s
    else startChange { s with ws := { s.ws with leaving := true } }
  else if isMember s then unjoin (sendCoord 0x0E 0 .empty s)
  else s

/-- The bit and index of the ARG of LEAVE and JOIN for one fabric job (R282). -/
def jobArg (idx : Nat) : BitVec 16 := BitVec.ofNat 16 (0x8000 + idx % 16)

/-- A change of participation at the coordinator. -/
def noteChange (c : Change) (s : State) : State :=
  { s with ws := { s.ws with changes := s.ws.changes ++ [c] } }

/-- A fabric job stops on this member (R282): the coordinator makes the change where no other step is under way, and else
at the next boundary. -/
def leaveJob (j : Fin 4) (x : Job) (s : State) : State :=
  if x.fabric && isMember s then
    if otherFabric j s then
      if isCoord s then
        let s1 := noteChange ⟨s.ws.rank, x.index, false⟩ s
        if shutBut (some j) s1 && !elsewhere [x.index] s1 && s1.ws.change.isNone then startChange s1 else s1
      else sendCoord 0x0E (jobArg x.index) (.job x.index) s
    else leaveWorkshop s
  else s

def freeHandles : List Nat → State → State
  | [], s => s
  | h :: t, s => freeHandles t (freeHandle h s)

def endReplays (st : Byte) : List ReplayReq → State → State
  | [], s => s
  | r :: t, s => endReplays st t (endOpt r.pend st s)

def answerAll (st : Byte) (p0 p1 : Word) : List Pend → State → State
  | [], s => s
  | p :: t, s => answerAll st p0 p1 t (answer p st true p0 p1 0 0 s)

/-- The statistics records of a job that leaves its slot are kept (R62). -/
def keepStats (x : Job) (s : State) : State :=
  let put := fun (m : List (Nat × StatRec)) (r : TRun) =>
    tabPut r.id.toNat ⟨r.ovf, r.nan, r.unf, r.ovfSat, r.nanSat, r.unfSat, r.inexact⟩ m
  { s with trn := { s.trn with stats := x.tens.foldl put s.trn.stats } }

/-! ### Flash tasks (R345) -/

def queueTask (t : FlashTask) (s : State) : State := { s with fls := { s.fls with tasks := s.fls.tasks ++ [t] } }

/-- A task that ends early: an operation of it that the die is carrying out runs on. -/
def dropTask (sel : FlashTask → Bool) (s : State) : State :=
  let rest := s.fls.tasks.filter fun t => !sel t
  let now := s.fls.issued.map fun t =>
    if sel t then { t with ops := t.ops.take 1, done := .dropped, pend := none } else t
  { s with fls := { s.fls with tasks := rest, issued := now } }

/-- The flash task of an export from job slot j. -/
def snapTask (j : Fin 4) (t : FlashTask) : Bool :=
  match t.done with
  | .snapshot i _ _ _ => i == j
  | _ => false

/-- A snapshot that exports goes on when its job has stopped (R28); one that is not staged yet ends with `st`. -/
def stopSnap (j : Fin 4) (st : Byte) (x : Job) (s : State) : State :=
  match x.snap with
  | none => s
  | some r =>
    if r.exporting then { s with sq := { s.sq with exports := s.sq.exports.set j (some r) } } else endOpt r.pend st s

/-- The staging handles of snapshots that export without their job. -/
def exportHandles (s : State) : List Nat := s.sq.exports.toList.filterMap fun r => r.map (·.handle)

/-- The export that outlived the job of slot j ends: its frames are freed, and it answers (R28, R184). -/
def endExport (j : Fin 4) (st : Byte) (s : State) : State :=
  match s.sq.exports[j] with
  | none => s
  | some r =>
    let s1 := { s with sq := { s.sq with exports := s.sq.exports.set j none } }
    dropTask (snapTask j) (endOpt r.pend st (if r.handle = 0 then s1 else freeHandle r.handle s1))

/-- Job slot j stops: its units end, pending JOB_STOP commands report `done`, other commands of the job end with
`st`, its statistics records are kept, its handles are freed, and it leaves the workshop where R282 says so. -/
def stopJob (j : Fin 4) (st : Byte) (done : Byte) (p0 p1 : Word) (s : State) : State :=
  match s.jobs[j] with
  | none => s
  | some x =>
    let s1 := haltUnits j s
    let s2 := answerAll done p0 p1 (x.stop.getD []) s1
    let s3 := endOpt x.startPend st (keepStats x (stopSnap j st x s2))
    let s4 := endReplays st (x.replays ++ x.replaying.toList) s3
    let s5 := match x.restore with
      | some r => endOpt r.pend st s4
      | none => s4
    let s6 := freeHandles ((jobHandles j s5).filter fun h => !(exportHandles s5).contains h) s5
    let s7 := leaveJob j x s6
    { s7 with jobs := s7.jobs.set j none }

/-! ### Aborts that end a job -/

/-- The coordinator sends ABORT(s, epoch) to every live member; READY for the step no longer counts. -/
def abortAll (idx step : Nat) (s : State) : State :=
  sendAll 0x04 0 (.step idx step) { s with ws := { s.ws with ready := s.ws.ready.filter fun r => r.1 != idx } }

def sendAbort (x : Job) (s : State) : State := abortAll x.index x.step s

/-- A fault that ends the job (R78, R103, R229, R241): the step aborts on every module, and the job stops with
ABORTED without a re-run. STOP and ABORT carry no cause, so the members that learn of it by them run the step again, and
the job stops on the module that met the fault (DESIGN CHOICE, log entry 53). -/
def fatalFault (j : Fin 4) (s : State) : State :=
  match s.jobs[j] with
  | none => s
  | some x =>
    let s1 := if onFabric s x then
        if isCoord s then sendAbort x s else sendCoord 0x03 0 (.step x.index x.step) s
      else s
    stopJob j stAborted stDone 0 0 (abortStep j s1)

/-- Bytes written into a handle of job j; a shortage of frames ends the job (R229). -/
def pokeOr (j : Fin 4) (h off : Nat) (bs : List Byte) (s : State) : State :=
  match writeHandle h off bs s with
  | some s1 => s1
  | none => fatalFault j (exhausted j.val s)

/-! ### Restore (R187, R188) -/

/-- Parts 0 to PARTS − 1 of one STEP, EPOCH and IMAGE_ID, the image in force; parts offered twice are identical. -/
def setComplete (img : DWord) (hs : List PartHdr) : Bool :=
  match hs with
  | [] => false
  | h :: _ =>
    h.imageId == img && (hs.all fun g => g.step == h.step && g.epoch == h.epoch && g.imageId == h.imageId && g.parts == h.parts) &&
      ((List.range h.parts.toNat).all fun n => hs.any fun g => g.part.toNat == n) &&
      (hs.all fun g => decide (g.part.toNat < h.parts.toNat) && hs.all fun k => k.part != g.part || k == g)

/-- The state of one tensor of a part put into the current buffer. -/
def applyTensor (j : Fin 4) (p : PartTensor) (s : State) : State :=
  match tensAt s j p.tensor, tensorOf s p.tensor with
  | some r, some t =>
    let s1 := pokeOr j r.handle.toNat (bufBase t r.cur + p.first * fmtBytes t.fmt) p.data s
    setTens j p.tensor (fun y => { y with bc1 := p.bc1, bc2 := p.bc2, k := p.k, kPrev := p.kPrev, hist := p.hist }) s1
  | _, _ => s

/-- A list of parts applied, each part's tensors in order. -/
def applyParts (j : Fin 4) (ps : List Part) (s : State) : State :=
  (ps.flatMap (·.tensors)).foldl (fun s' t => applyTensor j t s') s

/-- The restored job takes the recorded step and seed (R187). -/
def adoptParts (j : Fin 4) (ps : List Part) (step : Nat) (s : State) : State :=
  let s1 := applyParts j ps s
  match ps.head? with
  | some p => setJob j (fun y => { y with
      step := step, seed := some p.hdr.seed, drawn := false, kg := genKey p.hdr.seed }) s1
  | none => setJob j (fun y => { y with step := step }) s1

/-- The end of a restore: DONE with the slot and the step. -/
def restoreDone (j : Fin 4) (step : Nat) (s : State) : State :=
  match s.jobs[j] with
  | none => s
  | some x =>
    let s1 := setJob j (fun y => { y with restore := none }) s
    match x.restore.bind (·.pend) with
    | some p => answer p stDone true (BitVec.ofNat 32 j.val) (BitVec.ofNat 32 (step / 2 ^ 32 % 2 ^ 16))
        (BitVec.ofNat 32 step) 0 s1
    | none => s1

/-- A restore whose set fails the check: the job does not start (R187). -/
def restoreFail (j : Fin 4) (s : State) : State := stopJob j stVerify stVerify 0 0 s

/-- This module's own parts hold elements lo to hi − 1 of a tensor. -/
def partsCover (ps : List Part) (t : Tensor) (lo hi : Nat) : Bool :=
  (ps.flatMap (·.tensors)).any fun p =>
    p.tensor == t.id && decide (p.first ≤ lo) && decide (hi ≤ p.first + p.data.length / max 1 (fmtBytes t.fmt))

/-- Elements lo to hi − 1 from the holder of a recorded part, where this module's own parts do not hold them. -/
def partNeed (ps : List Part) (holders : List (Nat × Nat)) (t : Tensor) (n lo hi : Nat) : List Need :=
  if hi ≤ lo || partsCover ps t lo hi then []
  else match holders.find? (·.1 == n) with
    | some h => needRange h.2 t.id lo hi
    | none => []

/-- Elements lo to hi − 1, shard by shard of the recorded membership (R147, R177): part n of it is that of rank n. -/
def shardNeeds (s : State) (x : Job) (ps : List Part) (parts : Nat) (holders : List (Nat × Nat)) (t : Tensor)
    (lo hi : Nat) : List Need :=
  let m := meshOf s x.index
  let g := max 1 (m.tF * m.pF)
  let c := coordIn s x.index
  let n := parts / g
  (List.range n).flatMap fun k =>
    partNeed ps holders t (k * g + (c.p * m.tF + c.t) % g) (max lo (shardLo t.elements n k)) (min hi (shardLo t.elements n (k + 1)))

/-- What one tensor of the restored state lacks here: W whole, M and V of the own shard and of the mirror's, experts of
this member. -/
def restoreNeed (s : State) (x : Job) (ps : List Part) (parts : Nat) (holders : List (Nat × Nat)) (t : Tensor) : List Need :=
  let m := meshOf s x.index
  let g := max 1 (m.tF * m.pF)
  let c := coordIn s x.index
  let d := max 1 c.dTot
  match baseOf s t with
  | none => []
  | some w =>
    if t.role == .grad then []
    else if w.role == .expert then
      let e := expertNo s w
      if expertAt x.rho2 d e c.d then
        partNeed ps holders t (e % max 1 (parts / g) * g + (c.p * m.tF + c.t) % g) 0 t.elements
      else []
    else if t.role == .veneerW then shardNeeds s x ps parts holders t 0 t.elements
    else
      let q := (c.d + d - 1) % d
      shardNeeds s x ps parts holders t (shardLo t.elements d c.d) (shardLo t.elements d (c.d + 1)) ++
        (if d ≤ 1 then [] else shardNeeds s x ps parts holders t (shardLo t.elements d q) (shardLo t.elements d (q + 1)))

/-- What a participant's own parts leave for it to fetch under its coordinates (R188, step 4); one that offered no part
takes scales, histories and the seed of the tensors it fetches no element of from a holder. -/
def restoreGaps (s : State) (x : Job) (ps : List Part) (parts : Nat) (holders : List (Nat × Nat)) : List Need :=
  if (coordIn s x.index).spare then []
  else
    let fl := (tensorsOf s x.index).flatMap (restoreNeed s x ps parts holders)
    match ps, holders with
    | [], h :: _ => fl ++ (tensorsOf s x.index).filterMap fun t =>
        if fl.any (·.tensor == t.id) then none else some ⟨h.2, t.id, 0, 0⟩
    | _, _ => fl

/-- A participant that was started without RESTORE takes part in the restore of the others: it takes the set's state, and
runs its first step from there (R188; log entry 60). -/
def joinRestore (j : Fin 4) (x : Job) (s : State) : State :=
  setJob j (fun y => { y with phase := .holding, rerun := false, restore := some ⟨none, [], none⟩ })
    (if stepOpen x then abortStep j s else s)

/-- The coordinator's answer reaches a participant (R188, steps 3 to 5). -/
def restoreAnswer (j : Fin 4) (ok : Bool) (step : DWord) (parts : Nat) (holders : List (Nat × Nat)) (s : State) : State :=
  match s.jobs[j] with
  | none => s
  | some x =>
    if !ok then (if x.restore.isSome || parts != 0 then restoreFail j s else s)
    else
      let s0 := if x.restore.isSome then s else joinRestore j x s
      let mine := match x.restore with
        | some r => r.parts
        | none => []
      let s1 := adoptParts j mine step.toNat
        (setJob j (fun y => { y with restore := y.restore.map fun r => { r with agreed := some step } }) s0)
      let fl := restoreGaps s1 x mine parts holders
      if fl.isEmpty then restoreDone j step.toNat s1 else sendNeeds j { x with step := step.toNat } fl s1

/-- Offers of the participants of a job that the coordinator holds, by rank. -/
def offersFor (s : State) (idx : Nat) : List (Nat × List PartHdr) := (s.ws.offers.filter (·.1 == idx)).map (·.2)

/-- The coordinator checks the offers once every participant has made one (R188, step 3). PARTS of the answer is 0 where no
part was offered: a participant started without RESTORE then goes on (log entry 60). -/
def tryRestore (idx : Nat) (s : State) : State :=
  let os := offersFor s idx
  if isCoord s && !(participants s idx).isEmpty && (participants s idx).all fun q => os.any (·.1 == q) then
    let hs := os.flatMap (·.2)
    let ok := setComplete (imageIdOf s) hs
    let step := match hs.head? with
      | some h => h.step
      | none => 0
    let parts := match hs.head? with
      | some h => h.parts.toNat
      | none => 0
    let holders := if ok then (List.range parts).filterMap fun n =>
        (leastOf ((os.filter fun o => o.2.any fun h => h.part.toNat == n).map (·.1))).map fun q => (n, q)
      else []
    let s1 := { s with ws := { s.ws with offers := s.ws.offers.filter (·.1 != idx) } }
    let s2 := sendAll 0x16 0 (.offerAnswer idx ok step parts holders) s1
    match slotOfIndex s2 idx with
    | some j => restoreAnswer j ok step parts holders s2
    | none => s2
  else s

/-- An offer of a rank at the coordinator. -/
def noteOffer (idx rank : Nat) (hs : List PartHdr) (s : State) : State :=
  tryRestore idx { s with ws := { s.ws with
    offers := (idx, rank, hs) :: s.ws.offers.filter fun o => !(o.1 == idx && o.2.1 == rank) } }

/-- The job has not begun its first step under the restore's check. -/
def mayRestore (x : Job) : Bool := x.train && (x.restore.isSome || (x.step == 0 && x.phase == .holding))

/-- A participant offers the headers of its parts, or an empty offer: to the coordinator, or, at the coordinator, to
itself. -/
def offerParts (j : Fin 4) (s : State) : State :=
  match s.jobs[j] with
  | none => s
  | some x =>
    if !(mayRestore x && x.fabric && isMember s && (coordIn s x.index).member) then s
    else
      let hs := match x.restore with
        | some r => r.parts.map (·.hdr)
        | none => []
      let s1 := setJob j (fun y => { y with restore := y.restore.map fun r => { r with agreed := none } }) s
      if isCoord s then noteOffer x.index s.ws.rank hs s1 else sendCoord 0x16 0 (.offer x.index hs) s1

/-- The restore of a job whose every axis is local: the whole set is here. -/
def restoreLocal (j : Fin 4) (ps : List Part) (s : State) : State :=
  if setComplete (imageIdOf s) (ps.map (·.hdr)) then
    match ps.head? with
    | some p => restoreDone j p.hdr.step.toNat (adoptParts j ps p.hdr.step.toNat s)
    | none => s
  else restoreFail j s

/-! ### Faults of a step -/

/-- The number of aborts in a row after which a job stops (R194). -/
def retryLimit (s : State) (x : Job) : Nat :=
  match trainOf s x.index with
  | some t => if t.retryLimit = 0 then 3 else t.retryLimit
  | none => 3

/-- The step has been aborted and is to run again (R194): counted, unless a JOB_STOP waits (R29) or the job has
reached its limit of aborts in a row. On the fabric the phase is ABORTING until the next epoch comes (R163). -/
def rerunStep (j : Fin 4) (s : State) : State :=
  match s.jobs[j] with
  | none => s
  | some x =>
    if x.stop.isSome then stopJob j stAborted stDone 0 0 s
    else if retryLimit s x ≤ x.retries + 1 then
      let s1 := { s with sq := { s.sq with fault := orBit s.sq.fault 4 } }
      stopJob j stAborted stDone 0 0
        (post { ev 0x070E with fault := true, job := jobByte j, status := stAborted } s1)
    else
      post { ev 0x070A with fault := true, job := jobByte j }
        (bumpSeq j 2 1 (setJob j (fun y => { y with
        retries := y.retries + 1, phase := if onFabric s x then .aborting else .boundary }) s))

/-! ### The result of a REPLAY (R190, R191) -/

/-- The status and payload of a REPLAY's outcome. -/
def replayAnswer (p : Option Pend) (o : ReplayOutcome) (s : State) : State :=
  match p with
  | none => s
  | some q =>
    if o.aborted then endWith q stAborted s
    else answer q stDone true (if o.matched then 1 else 0) (o.tensor.setWidth 32) (o.rank.setWidth 32)
      (if o.gauge then 1 else 0) s

/-- A mismatch is recorded and posted. -/
def replayMismatch (j : Fin 4) (o : ReplayOutcome) (s : State) : State :=
  if o.aborted || o.matched then s
  else
    post { ev 0x0709 with job := jobByte j, addrKind := 3, addr := o.tensor.setWidth 64,
                          info := o.rank.setWidth 64 }
      { s with sq := { s.sq with fault := orBit s.sq.fault 2 } }

/-- The members of a job that are live. -/
def liveRanks (s : State) (idx : Nat) : List Nat := (jobRanks s idx).filter fun r => !s.ws.departed.contains r

/-- The outcomes combined: ABORTED if any is, else the first mismatch in ascending tensor, then rank, else MATCH. -/
def worse (a b : ReplayOutcome) : ReplayOutcome :=
  if a.aborted then a
  else if b.aborted then b
  else if a.matched then b
  else if b.matched then a
  else if a.tensor.toNat < b.tensor.toNat then a
  else if b.tensor.toNat < a.tensor.toNat then b
  else if a.rank.toNat ≤ b.rank.toNat then a else b

def combined (os : List (Nat × ReplayOutcome)) : ReplayOutcome :=
  os.foldl (fun a o => worse a o.2) ⟨false, true, 0, 0, false⟩

/-- The combined outcome at a module of the job. -/
def takeOutcome (j : Fin 4) (o : ReplayOutcome) (s : State) : State :=
  match s.jobs[j] with
  | none => s
  | some x =>
    replayAnswer (x.replaying.bind (·.pend)) o
      (replayMismatch j o (setJob j (fun y => { y with replaying := none }) s))

/-- Outcomes of a job's replay that the coordinator holds, by rank. -/
def outcomesFor (s : State) (idx : Nat) : List (Nat × ReplayOutcome) := (s.ws.replayOut.filter (·.1 == idx)).map (·.2)

/-- Every live participant's outcome is in: the coordinator sends the combined one. -/
def settleReplay (idx : Nat) (s : State) : State :=
  let os := outcomesFor s idx
  if isCoord s && !os.isEmpty && (liveRanks s idx).all fun r => os.any (·.1 == r) then
    let o := combined os
    let s1 := sendAll 0x15 0 (.replay idx o)
      { s with ws := { s.ws with replayOut := s.ws.replayOut.filter (·.1 != idx) } }
    match slotOfIndex s1 idx with
    | some j => takeOutcome j o s1
    | none => s1
  else s

/-- An outcome of a rank at the coordinator. -/
def noteOutcome (idx rank : Nat) (o : ReplayOutcome) (s : State) : State :=
  settleReplay idx { s with ws := { s.ws with
    replayOut := (idx, rank, o) :: s.ws.replayOut.filter fun q => !(q.1 == idx && q.2.1 == rank) } }

/-- The outcome of a replay is known on this module: a local job answers it; on the fabric it goes to the
coordinator, which waits for every participant. -/
def replayDone (j : Fin 4) (o : ReplayOutcome) (s : State) : State :=
  match s.jobs[j] with
  | none => s
  | some x =>
    let r := x.replaying
    let s1 := restoreSaved j s
    if onFabric s x then
      let s2 := setJob j (fun y => { y with replaying := r }) s1
      if isCoord s then noteOutcome x.index s.ws.rank o s2 else sendCoord 0x15 0 (.replay x.index o) s2
    else replayAnswer (r.bind (·.pend)) o (replayMismatch j o s1)

def replayAborted : ReplayOutcome := ⟨true, false, 0, 0, false⟩

/-- A covered fault of the step of job j that this module detects (R194), epoch change apart: a member tells the
coordinator, which aborts the step everywhere; a job that is not on the fabric aborts and re-runs here. A replay
under way ends ABORTED and the job goes on with its next step (R191). -/
def faultCore (j : Fin 4) (s : State) : State :=
  match s.jobs[j] with
  | none => s
  | some x =>
    if x.saved.isSome then replayDone j replayAborted (haltUnits j s)
    else if onFabric s x && !isCoord s then sendCoord 0x03 0 (.step x.index x.step) s
    else if onFabric s x then rerunStep j (abortStep j (sendAbort x s))
    else rerunStep j (abortStep j s)

/-- The other members learn that the step of job j does not go on: by the coordinator's ABORT, or by a STOP to it. -/
def tellAbort (j : Fin 4) (s : State) : State :=
  match s.jobs[j] with
  | some x =>
    if onFabric s x && stepOpen x then
      if isCoord s then sendAbort x s else sendCoord 0x03 0 (.step x.index x.step) s
    else s
  | none => s

/-- Loss of state that no re-run recovers (R181, R193). -/
def loseState (j : Fin 4) (s0 : State) : State :=
  let s := tellAbort j s0
  let s1 := { s with sq := { s.sq with fault := orBit s.sq.fault 1 } }
  stopJob j stAborted stDone 0 0
    (post { ev 0x070B with fault := true, job := jobByte j, status := stAborted } (abortStep j s1))

/-- Every adaptation step on the fabric aborts as for a link loss (R192); `ready` takes in those that are READY, of which
the coordinator decides (R155). -/
def abortFabric (ready : Bool) (s : State) : State :=
  eachSlot (fun j s => match s.jobs[j] with
    | some x => if onFabric s x && stepOpen x && (ready || x.phase != .ready) then faultCore j s else s
    | none => s) s

/-- The job slot that a number names. -/
def slotFin (n : Nat) : Fin 4 := ⟨n % 4, Nat.mod_lt _ (by decide)⟩

/-! ### Adopting an epoch (R279, item 3) -/

/-- The next epoch has come: an aborted step may run again under it (R194). -/
def leaveAborting (j : Fin 4) (s : State) : State :=
  setJob j (fun y => if y.phase == .aborting then { y with phase := .boundary } else y) s

/-- A step of job j that is open when a new epoch comes is aborted and runs again under it (R22, R194). -/
def reopen (j : Fin 4) (s : State) : State :=
  leaveAborting j (match s.jobs[j] with
  | none => s
  | some x => if stepOpen x && x.train then rerunStep j (abortStep j s) else s)

/-- What the new membership does to job j: REPLICA_REDUCED (R180), state to fetch or lost (R181). An arrival is none of the
old members, and holds no state of the epoch before. -/
def adoptJob (old : List Member) (dep : List Nat) (j : Fin 4) (s : State) : State :=
  match s.jobs[j] with
  | none => s
  | some x =>
    if !x.fabric then s
    else
      let m := meshOf s x.index
      let o := oldMesh old s x
      let was2 := if o.mine.isSome then x.rho2 else decide (1 < m.rho) && decide (2 ≤ o.n)
      if x.train && !o.ps.isEmpty && (stateLost m was2 o.ps dep || (o.mine.isSome && x.refetch.any fun q => dep.contains q.2)) then
        loseState j s
      else
        let c := coordIn s x.index
        let want := decide (1 < m.rho) && decide (2 ≤ c.dTot)
        let s1 := if x.rho2 && !want then
            post { ev 0x070C with job := jobByte j } { s with sq := { s.sq with fault := orBit s.sq.fault 3 } }
          else s
        let fl := allNeeds s1 x o was2 want
        let s2 := setJob j (fun y => { y with rho2 := want, refetch := y.refetch.map fun q =>
          (q.1, ((old.find? (·.rank == q.2)).bind fun a => s.ws.members.find? (·.serial == a.serial)).elim q.2 (·.rank)) }) s1
        let s3 := if x.restore.isSome then s2 else sendNeeds j x fl s2
        reopen j (offerParts j s3)

/-- A member takes the enacted view: new ranks, adjacency and MR4. -/
def adoptView (e : Enactment) (me : Member) (s : State) : State :=
  let peer := fun (l : Link) =>
    (match e.members.find? (·.serial == l.peerSerial) with
     | some m => { l with peerMember := true, peerRank := BitVec.ofNat 10 m.rank }
     | none => { l with peerMember := false } : Link)
  { s with
    ws := { s.ws with state := if me.rank = 0 then .coordinator else .member, rank := me.rank, coord := 0,
                      epoch := e.epoch, id := e.wsId, members := e.members, adj := e.adjacency,
                      arrivals := [], departed := [], changes := [], change := none, view := none, told := none,
                      joinSent := false, joinRefused := false, joinJobs := s.ws.joinJobs.filter fun i => !bitAt me.jobs i,
                      leaving := false, ready := [], asked := [], offers := [], dissolving := false,
                      replayOut := s.ws.replayOut.filterMap fun q =>
                        ((s.ws.members.find? (·.rank == q.2.1)).bind fun a =>
                          e.members.find? (·.serial == a.serial)).map fun m => (q.1, m.rank, q.2.2),
                      retraining := [], quiet := [], heard := e.members.map fun m => (m.rank, s.aon.time) },
    sec := { s.sec with mr4 := some (e.wsId, e.epoch, me.rank, e.members) },
    links := vmap peer s.links }

/-- The link's edge of the workshop, as its reports name it. -/
def edgeOf (s : State) (l : Fin 8) : Adj :=
  ⟨s.ws.rank, l.val, (s.links[l]).peerRank.toNat, (s.links[l]).peerLink.toNat⟩

/-- The same link, whichever end is named first. -/
def sameEdge (a b : Adj) : Bool :=
  (a.rankA == b.rankA && a.linkA == b.linkA) || (a.rankA == b.rankB && a.linkA == b.linkB) ||
    (a.rankB == b.rankB && a.linkB == b.linkB) || (a.rankB == b.rankA && a.linkB == b.linkA)

def addEdge (a : Adj) (s : State) : State :=
  { s with ws := { s.ws with adj := (s.ws.adj.filter fun b => !sameEdge a b) ++ [a] } }

def dropEdge (a : Adj) (s : State) : State :=
  { s with ws := { s.ws with adj := s.ws.adj.filter fun b => !sameEdge a b } }

/-- A link in UP between members enters the view, and the coordinator hears of it (R265, R275). -/
def reportUp (l : Fin 8) (s : State) : State :=
  if isMember s && (s.links[l]).peerMember && (s.links[l]).state == .up then
    sendCoord 0x07 0 (.adj (edgeOf s l)) (addEdge (edgeOf s l) s)
  else s

/-- What follows the adoption of an epoch: its event, links to the members it has admitted, and the jobs. -/
def adoptRest (old : List Member) (e : Enactment) (s : State) : State :=
  let gone := (old.filter fun m => !(e.members.any fun n => n.serial == m.serial)).map (·.rank)
  let s2 := post { ev 0x040A with info := e.epoch.setWidth 64 } (bumpWs 0 1 s)
  let s3 := if e.epoch = BitVec.allOnes 32 && isCoord s2 then
      post (ev 0x040D) { s2 with ws := { s2.ws with fault := orBit s2.ws.fault 3 } } else s2
  let fresh := (List.finRange 8).filter fun l => !old.any fun m => m.serial == (s.links[l]).peerSerial
  eachSlot (adoptJob old gone) (fresh.foldl (fun s' l => reportUp l s') s3)

/-- The membership before an epoch, as this module knows it: its own, or, where ENACT finds it outside the workshop, that of
the PROPOSE that admits it; a workshop that forms has no earlier epoch (R277). Without the PROPOSE, the ranks below its own
count as those that stay. -/
def oldMembers (e : Enactment) (me : Member) (s : State) : List Member :=
  let stay := e.members.filter fun m => decide (m.rank < me.rank)
  if isMember s then s.ws.members
  else if e.epoch = 1 then []
  else match s.ws.told with
    | some q => if q.epoch = e.epoch then q.old else stay
    | none => stay

/-- The fabric jobs hold; a step under way is aborted, and a job whose JOB_STOP waits stops at that abort (R29). -/
def holdFabric (s : State) : State :=
  eachSlot (fun j s => match s.jobs[j] with
    | some x =>
      if !x.fabric || x.parked then s
      else
        let s1 := if stepOpen x then abortStep j s else s
        if x.stop.isSome then stopJob j stAborted stDone 0 0 s1 else setJob j (fun y => { y with phase := .holding }) s1
    | none => s) s

/-- A module whose serial the view does not hold is no member of it: its fabric jobs hold. -/
def adopt (e : Enactment) (s : State) : State :=
  match e.members.find? (·.serial == s.serial) with
  | none => if s.ws.state == .unjoined then s else holdFabric (unjoin s)
  | some me => adoptRest (oldMembers e me s) e (adoptView e me s)

/-- ENACT to every member of the old epoch and to the arrivals on this module's own links. -/
def sendEnact (e : Enactment) (s : State) : State :=
  tellArrivals 0x0D (.enact e) e.members (sendAll 0x0D 0 (.enact e) s)

/-- The adjacency of the new epoch: links between members that remain, and the coordinator's links to arrivals. -/
def newAdjacency (view : List Member) (s : State) : List Adj :=
  let me := (view.find? (·.serial == s.serial)).map (·.rank)
  renumber s.ws.members view s.ws.adj ++ (arrivalLinks s.ws.members view s).filterMap fun l =>
    match me, view.find? (·.serial == (s.links[l]).peerSerial) with
    | some r, some m => some ⟨r, l.val, m.rank, (s.links[l]).peerLink.toNat⟩
    | _, _ => none

/-- What the coordinator has heard of since it sent a proposal waits for the next change. -/
def keepLate (before : State) (p : Proposal) (s : State) : State :=
  let rank := fun (c : Change) => (before.ws.members.find? (·.rank == c.rank)).bind fun m =>
    (s.ws.members.find? (·.serial == m.serial)).map fun n => { c with rank := n.rank }
  { s with ws := { s.ws with
    arrivals := before.ws.arrivals.filter fun a => !p.arrivals.contains a,
    changes := (before.ws.changes.filter fun c => !p.changes.contains c).filterMap rank } }

/-- The coordinator holds every ACCEPT it waits for: it sends ENACT and adopts the epoch itself, or, when it
leaves, departs (R279, R282). -/
def tryEnact (s : State) : State :=
  match s.ws.change with
  | none => s
  | some c =>
    if (s.ws.departed.all fun r => c.prop.departed.contains r) && c.view.all fun m => c.accepts.contains m.serial then
      let e : Enactment := ⟨c.prop.epoch, s.ws.id, c.view, newAdjacency c.view s⟩
      let s1 := sendEnact e s
      if s.ws.leaving then unjoin s1 else keepLate s c.prop (adopt e s1)
    else s

/-- Fabric jobs that hold because no epoch is left stop where a JOB_STOP waits (R29). -/
def stopEnded (s : State) : State :=
  if endHold s then
    eachSlot (fun j s => match s.jobs[j] with
      | some x => if x.fabric && x.stop.isSome then stopJob j stAborted stDone 0 0 s else s
      | none => s) s
  else s

/-- A change that is started and, where no other member is to answer, enacted at once. -/
def changeNow (s : State) : State := stopEnded (tryEnact (startChange s))

/-- A covered fault: after the ABORT of a step on the fabric the coordinator changes the epoch (R194, item 3). -/
def coveredFault (j : Fin 4) (s : State) : State :=
  match s.jobs[j] with
  | none => s
  | some x =>
    if onFabric s x && isCoord s && x.saved.isNone then changeNow (faultCore j s) else faultCore j s

/-- The coordinator has heard of a change that its workshop has not made yet. -/
def changeKnown (s : State) : Bool :=
  isCoord s && (!s.ws.arrivals.isEmpty || !s.ws.departed.isEmpty || !s.ws.changes.isEmpty)

/-- One of which no proposal is under way. -/
def changeDue (s : State) : Bool := changeKnown s && s.ws.change.isNone

/-- The coordinator makes a change at once when no step is under way (R279). -/
def changeIfQuiet (s : State) : State :=
  if isCoord s && fabricQuiet s && !elsewhere [] s then changeNow s else s

/-- A change that waits is made where no fabric step is under way (R22): the boundary of the fabric jobs, of which those of
`at_` have just committed a step elsewhere. -/
def changeShut (at_ : List Nat) (s : State) : State :=
  if changeDue s && fabricShut s && !elsewhere at_ s then changeNow s else s

/-- Partition (R280): this side holds more than half of the members of the epoch, or half of them with rank 0. -/
def hasMajority (s : State) (lost : List Nat) : Bool :=
  let n := s.ws.members.length
  let here := (s.ws.members.filter fun m => !lost.contains m.rank).length
  decide (n < 2 * here) || (n == 2 * here && !lost.contains 0)

/-- A module without a majority aborts its step and enters HOLDING. -/
def partition (s : State) : State :=
  post { ev 0x040B with fault := true }
    (holdFabric { s with ws := { s.ws with state := .holding, fault := orBit s.ws.fault 0, change := none, view := none, asked := [] } })

/-- A fabric step that this module takes part in is open. -/
def fabricOpen (s : State) : Bool := (List.finRange 4).any fun j => match s.jobs[j] with
  | some x => onFabric s x && stepOpen x
  | none => false

/-- A fault of the links aborts every fabric step under way; the coordinator then changes the epoch (R192, R194). -/
def fabricFault (s : State) : State :=
  if isCoord s && fabricOpen s then changeNow (abortFabric true s) else abortFabric true s

/-- Links in UP whose peer is a member of a workshop (R277, R281). -/
def memberLinks (s : State) : List (Fin 8) :=
  (List.finRange 8).filter fun l => (s.links[l]).state == .up && (s.links[l]).peerWs != 0

/-- The fabric jobs that a JOIN names. -/
def jobMask (s : State) : BitVec 16 :=
  (List.finRange 4).foldl (fun w j => match s.jobs[j] with
    | some x => if x.fabric then w ||| BitVec.ofNat 16 (2 ^ x.index) else w
    | none => w) 0

/-- A JOIN to the coordinator of the workshop that a neighbour belongs to (R277). -/
def sendJoin (s : State) : State :=
  match memberLinks s with
  | [] => s
  | l :: _ =>
    if isMember s || s.ws.joinRefused then s
    else
      { sendOn l 0 0x09 0 (.join ⟨s.serial, s.fls.claim.toNat, imageIdOf s, jobMask s⟩) s with
        ws := { s.ws with joinSent := true } }

/-- The fabric jobs hold and the module is UNJOINED; it joins the other workshop (R281). -/
def dissolveNow (s : State) : State := sendJoin (holdFabric (unjoin s))

/-- A dissolving workshop's member leaves it once no fabric step is open. -/
def settle (s : State) : State := if s.ws.dissolving && fabricShut s then dissolveNow s else s

/-- The workshop of this module is dissolved: MERGE, its event, and the hold at the next boundary. -/
def dissolve (s : State) : State :=
  settle (post (ev 0x040C)
    { s with ws := { s.ws with fault := orBit s.ws.fault 1, dissolving := true } })

/-- The lowest live rank. -/
def lowestLive (s : State) : Nat :=
  (leastOf ((s.ws.members.map (·.rank)).filter fun r => !s.ws.departed.contains r)).getD s.ws.rank

end Sys2Proof.Machine
end

