-- ==== Sys2Proof/Machine/Flags.lean ====
section
/-! DEFINITION. The output conversion (R53 to R61), the statistics record it counts into (R62 to R64), and the
generator whose draws it rounds with (R208 to R214). -/

namespace Sys2Proof.Machine

/-! ### The generator -/

/-- The counter block of a draw (R209). -/
def drawBlock (block : Nat) (purpose : Byte) (tensor : BitVec 16) (step : Nat) : BitVec 128 :=
  BitVec.ofNat 128 (block % 2 ^ 56 + purpose.toNat * 2 ^ 56 + tensor.toNat * 2 ^ 64 + step % 2 ^ 48 * 2 ^ 80)

/-- The 16-bit draw of element x. -/
def draw16 (kg : BitVec 128) (tensor : BitVec 16) (step : Nat) (purpose : Byte) (x : Nat) : BitVec 16 :=
  BitVec.ofNat 16 ((aes128 kg (drawBlock (x / 8) purpose tensor step)).toNat >>> (16 * (x % 8)))

/-- The 32-bit draw of element x. -/
def draw32 (kg : BitVec 128) (tensor : BitVec 16) (step : Nat) (purpose : Byte) (x : Nat) : Word :=
  BitVec.ofNat 32 ((aes128 kg (drawBlock (x / 4) purpose tensor step)).toNat >>> (32 * (x % 4)))

/-- The uniform form: (u div 2^8) × 2^−24, exact in binary32 (R214). -/
def uniform32 (u : Word) : Word := toB32 (.fin false (u.toNat / 256) (-24))

/-- The step number that enters a draw: the step counter, or the request number of an inference job (R210). -/
def drawStep (x : Job) : Nat := if x.train then x.step else x.requests

/-! ### The conversion -/

/-- A conversion in force: format, rounding, saturation, scale, bias and clamp (R54, R139). -/
structure Conv where
  fmt : Fmt
  mode : RMode
  sat : Bool
  scale : Int
  bias : Option Val
  clamp : Option (Val × Val)
  deriving DecidableEq, Repr

/-- What one conversion counts: at most one of OVF, NAN and UNF (R56). -/
inductive Count where
  | none | ovf | nan | unf
  deriving DecidableEq, Repr

structure Conved where
  code : Nat
  count : Count
  /-- The magnitude that enters the amax; none for a NaN (R58). -/
  amax : Option Word
  deriving DecidableEq, Repr

/-- t before scale: flags resolve to NaN or an infinity, and the bias is added exactly. -/
def convSum (a : Acc) (b : Option Val) : Val :=
  let base := if a.nanSeen || (a.pinf && a.ninf) then Val.nan
    else if a.pinf then .inf false else if a.ninf then .inf true else a.v
  match b with
  | some x => vAdd base x
  | none => base

/-- min(max(t, lo), hi), where equal values keep t. -/
def clampV (c : Option (Val × Val)) (t : Val) : Val :=
  match c with
  | some (lo, hi) =>
    let u := if vLt t lo then lo else t
    if vLt hi u then hi else u
  | none => t

/-- R55. -/
def convert (a : Acc) (c : Conv) : Conved :=
  let t0 := convSum a c.bias
  if vIsNan t0 then ⟨c.fmt.nanCode, .nan, none⟩
  else
    let am := some (roundUp32 t0)
    let t := clampV c.clamp (vScale c.scale t0)
    let big := maxFin c.fmt (vNegBit t)
    if (!c.fmt.hasInf || c.sat) && vLt (vAbs big) (vAbs t) then ⟨encodeF c.fmt big, .ovf, am⟩
    else
      match roundV c.mode c.fmt t with
      | .inf n => ⟨encodeF c.fmt (.inf n), .ovf, am⟩
      | r => ⟨encodeF c.fmt r, if vIsZero r && !vIsZero t then .unf else .none, am⟩

/-! ### The statistics record -/

/-- A 32-bit counter of R62 counted once: the new count, and whether SAT is set (R17). -/
def inc32 (c : Word) : Word × Bool :=
  if c = BitVec.allOnes 32 then (c, true) else (c + 1, false)

/-- One conversion counted into a record (R56, R58, R62). -/
def countInto (k : Count) (am : Option Word) (inexact : Bool) (t : TRun) : TRun :=
  let t1 := match k with
    | .ovf => let r := inc32 t.ovf; { t with ovf := r.1, ovfSat := t.ovfSat || r.2, dOvf := t.dOvf + 1 }
    | .nan => let r := inc32 t.nan; { t with nan := r.1, nanSat := t.nanSat || r.2, dNan := t.dNan + 1 }
    | .unf => let r := inc32 t.unf; { t with unf := r.1, unfSat := t.unfSat || r.2, dUnf := t.dUnf + 1 }
    | .none => t
  let t2 := match am with
    | some w => { t1 with amax := maxMag t1.amax w }
    | none => t1
  { t2 with inexact := t2.inexact || inexact }

/-- The W1C write of TRN_STAT_FLAGS (R166). -/
def clearFlags (v : Word) (t : TRun) : TRun :=
  let t1 := if bitAt v 0 then { t with ovfSat := false, ovf := 0 } else t
  let t2 := if bitAt v 1 then { t1 with nanSat := false, nan := 0 } else t1
  let t3 := if bitAt v 2 then { t2 with unfSat := false, unf := 0 } else t2
  if bitAt v 3 then { t3 with inexact := false } else t3

/-! ### The descriptor in force -/

def fmtOf (f : BitVec 2) : Fmt := if f = 0 then fJ8 else if f = 1 then fB16 else fB32

/-- Tensors whose k is 0: binary32, the weights that are trained, and gradients (R138). -/
def unscaled (t : Tensor) : Bool := t.fmt = 2 || t.role == .veneerW || t.role == .expert || t.role == .grad

/-- The scale of a tensor: 0 where it is unscaled, else k in force for AUTO_SCALE, and K_INIT without it (R138). -/
def scaleOf (t : Tensor) (r : TRun) : Int :=
  if unscaled t then 0
  else if t.autoScale then r.k else t.kInit

/-- k_in: the sum of the scales of the input tensors a descriptor lists (R139). -/
def scaleIn (s : State) (x : Job) (t : Tensor) : Int :=
  (t.inputs.map fun id =>
    match tensorOf s id, tensIn x id with
    | some u, some r => scaleOf u r
    | _, _ => 0).sum

/-- The value of element i of a tensor as it is stored, in its current buffer or, for `alt`, the other. -/
def elemVal (s : State) (t : Tensor) (r : TRun) (alt : Bool) (i : Nat) : Val :=
  let w := fmtBytes t.fmt
  let base := if isVeneer t.role then bufBase t (r.cur ^^ alt) else 0
  decodeF (fmtOf t.fmt) (leNat (readHandle s r.handle.toNat (base + i * w) w))

/-- The bias entry of a channel, multiplied by 2^k_in (R54, R139). -/
def biasOf (s : State) (x : Job) (t : Tensor) (kin : Int) (entry : Nat) : Option Val :=
  if t.biasEn then
    match tensorOf s t.biasHandle, tensIn x t.biasHandle with
    | some u, some r => some (vScale kin (elemVal s u r false entry))
    | _, _ => some Val.zero
  else none

/-- The conversion in force for an element of tensor t of job x: an adaptation job's scale, bias and clamp
follow R139, any other uses the image's descriptor. `entry` is the bias entry and `idx` the logical index. -/
def convOf (s : State) (x : Job) (t : Tensor) (purpose : Byte) (entry idx : Nat) : Conv :=
  let r := tensIn x t.id
  let kin := if x.train then scaleIn s x t else 0
  let k := match r with
    | some y => if x.train then scaleOf t y else 0
    | none => 0
  { fmt := fmtOf t.fmt,
    mode := if t.rmode then .stoch (draw16 x.kg t.id (drawStep x) purpose idx) else .near,
    sat := t.sat, scale := if x.train then k - kin else t.scaleK.toInt,
    bias := biasOf s x t kin entry,
    clamp := if t.clampEn then some (vScale k (ofB32 t.clampLo), vScale k (ofB32 t.clampHi)) else none }

/-- SCATTER.ADD converts with SCALE_K 0 and no bias (R104). -/
def addConv (c : Conv) : Conv := { c with scale := 0, bias := none }

/-- The bytes of a converted element. -/
def codeBytes (t : Tensor) (c : Conved) : List Byte := leBytes (fmtBytes t.fmt) c.code

/-- An element of the request under way has been written now (R174). -/
def noteOut (j : Fin 4) (s : State) : State :=
  setJob j (fun x => if x.running.isSome then { x with outAt := some s.aon.time.toNat } else x) s

/-- One element converted and counted in its tensor's record: its bytes, and the state. -/
def convertElem (j : Fin 4) (t : Tensor) (c : Conv) (a : Acc) (s : State) : List Byte × State :=
  let r := convert a c
  let s1 := setTens j t.id (countInto r.count r.amax a.inexact) s
  (codeBytes t r, noteOut j s1)

end Sys2Proof.Machine
end

