-- ==== Sys2Proof/Machine/EvtOps.lean ====
section
/-! DEFINITION. Filing events and sealed records: the local log, the persistent log, the event ring, MSI-X and
the management stream (R382, R383, R387, R496, R497), and the ring rules of R167. -/

namespace Sys2Proof.Machine

/-- The LOG2 of a ring in effect: 4 to 16, other values act as 0 (R167). -/
def effLog2 (x : BitVec 5) : Nat := if 4 ≤ x.toNat ∧ x.toNat ≤ 16 then x.toNat else 0

def ringEmpty (wr rd : RingPtr) : Bool := wr == rd
def ringFull (wr rd : RingPtr) : Bool := wr.index == rd.index && wr.lap != rd.lap

/-- The pointer one record on (R167). -/
def ringNext (log2 : Nat) (p : RingPtr) : RingPtr :=
  if p.index.toNat + 1 = 2 ^ log2 then ⟨0, !p.lap⟩ else ⟨p.index + 1, p.lap⟩

/-- Records between RD and WR. -/
def ringCount (log2 : Nat) (wr rd : RingPtr) : Nat :=
  if wr.lap == rd.lap then wr.index.toNat - rd.index.toNat else 2 ^ log2 + wr.index.toNat - rd.index.toNat

/-- An RD write would pass WR, or leaves the ring (R167). -/
def rdPasses (log2 : Nat) (wr rd new : RingPtr) : Bool :=
  let pos := fun (p : RingPtr) => p.index.toNat + (if p.lap then 2 ^ log2 else 0)
  let adv := (pos new + 2 * 2 ^ log2 - pos rd) % (2 * 2 ^ log2)
  decide (2 ^ log2 ≤ new.index.toNat) || decide (ringCount log2 wr rd < adv)

def ptrOf (v : Word) : RingPtr := ⟨v.setWidth 16, bitAt v 16⟩

/-- The device counter that the next sealed message or record takes (R381): none without a session or once the
counter has reached its end. -/
def sealCounter (s : State) : Option DWord :=
  s.hif.session.bind fun x => if x.d2h = BitVec.allOnes 64 then none else some x.d2h

/-- The device counter advanced; at its end the direction stops (R381). -/
def bumpSeal (s : State) : State :=
  match s.hif.session with
  | none => s
  | some x =>
    let n := x.d2h + 1
    let s1 := { s with hif := { s.hif with session := some { x with d2h := n } } }
    if n = BitVec.allOnes 64 then post (ev 0x0684) (hifFault 4 0 s1) else s1

def loWord (d : DWord) : Word := d.setWidth 32
def hiWord (d : DWord) : Word := (d >>> 32).setWidth 32

/-- Fields put together: values and their lowest bits. -/
def fields (fs : List (Nat × Nat)) : Word := BitVec.ofNat 32 ((fs.map fun f => f.1 * 2 ^ f.2).sum)

def bit (b : Bool) : Nat := if b then 1 else 0

/-- An event record's 64 bytes, as sixteen words (R493). -/
def recWords (r : EvtRec) : List Word :=
  let e := r.ev
  [fields [(e.code.toNat, 0), (e.inst.toNat, 16), (bit e.fault, 24), (bit r.lostBefore, 25), (bit e.deferred, 26),
     (e.addrKind.toNat, 27)],
   fields [(e.job.toNat, 0), (e.status.toNat, 8), (e.rank.toNat, 16)], loWord r.seq, hiWord r.seq,
   loWord e.time, hiWord e.time, loWord e.step, hiWord e.step, e.epoch, 0, loWord e.addr, hiWord e.addr,
   loWord e.info, hiWord e.info, 0, 0]

def recBytes (r : EvtRec) : List Byte := (recWords r).flatMap fun w => leBytes 4 w.toNat

/-- A record sealed into a host ring (R382): device counter, eight zero bytes, ciphertext and tag. -/
def sealRecord (x : Session) (c : DWord) (bs : List Byte) : List Byte :=
  let head := leBytes 8 c.toNat ++ List.replicate 8 0
  let nonce := leBytes 4 x.salt.toNat ++ leBytes 8 c.toNat
  let text := gcmCrypt x.d2hKey nonce bs
  head ++ text ++ gcmTag x.d2hKey nonce head text

/-- A record sealed under counter c of the open session. -/
def sealedBytes (s : State) (c : DWord) (bs : List Byte) : List Byte :=
  match s.hif.session with
  | some x => sealRecord x c bs
  | none => []

/-- The unit of an event code (R494). -/
def unitOf (c : BitVec 16) : Nat := bitsNat c 15 8

/-- The record's bit in EVT_MASK (R501). -/
def masked (s : State) (c : BitVec 16) : Bool :=
  let u := unitOf c
  decide (1 ≤ u) && decide (u ≤ 10) && bitAt s.evt.mask (u - 1)

/-- A record offered to the event ring (R497): kept from it by the mask, written sealed with its MSI-X message,
or dropped. -/
def toRing (r : EvtRec) (s : State) : State :=
  let log2 := effLog2 s.evt.ringLog2
  if log2 = 0 || masked s r.ev.code then s
  else
    match sealCounter s with
    | some c =>
      if ringFull s.evt.wr s.evt.rd then
        bumpEvt 1 1 { s with evt := { s.evt with fault := orBit s.evt.fault 1, ringLost := true } }
      else
        let rec_ := { r with lostBefore := r.lostBefore || s.evt.ringLost }
        let s1 := { s with evt := { s.evt with
          ring := tabPut s.evt.wr.index.toNat (sealedBytes s c (recBytes rec_)) s.evt.ring, wr := ringNext log2 s.evt.wr,
          ringLost := false } }
        fire (if r.ev.fault then 2 else 0) (bumpSeal s1)
    | none => bumpEvt 1 1 { s with evt := { s.evt with fault := orBit s.evt.fault 1, ringLost := true } }

/-- Whether a record is appended to the persistent log (R496). -/
def persistent (e : Posted) : Bool := e.fault || unitOf e.code == 1 || unitOf e.code == 6

/-- The collector files the oldest queued record (R493, R496). -/
def fileOne (s : State) : State :=
  match s.evt.queue with
  | [] => s
  | e :: rest =>
    let r : EvtRec := ⟨s.evt.seqNext, s.evt.lostBefore, e⟩
    let s1 := { s with evt := { s.evt with
      queue := rest, lostBefore := false, seqNext := s.evt.seqNext + 1,
      log := tabPut s.evt.head.toNat r s.evt.log, head := s.evt.head + 1 } }
    let s2 := if persistent e then { s1 with fls := { s1.fls with plog := s1.fls.plog ++ [r] } } else s1
    let s3 := if s2.mgmt.stream then { s2 with mgmt := { s2.mgmt with out := s2.mgmt.out ++ [.pushEvt r] } } else s2
    toRing r s3

/-- n records filed. -/
def fileN : Nat → State → State
  | 0, s => s
  | n + 1, s => fileN n (fileOne s)

/-- The event log flushed (R464, step 2). -/
def flushEvents (s : State) : State := fileN s.evt.queue.length s

/-- The local log cleared (R496): records, head and SEQ. -/
def clearLog (s : State) : State :=
  { s with evt := { s.evt with queue := [], log := [], head := 0, seqNext := 0, lostBefore := false,
                               ringLost := false } }

/-- Events latched while the log was unpowered are filed on its start (R440, R495). -/
def fileDeferred (s : State) : State :=
  let room := 32 - s.evt.queue.length
  let n := s.aon.deferred.length
  let s1 := { s with evt := { s.evt with queue := s.evt.queue ++ s.aon.deferred.take room },
                     aon := { s.aon with deferred := [] } }
  let s2 := bumpEvt 0 n s1
  if room < n then
    bumpEvt 2 (n - room) { s2 with evt := { s2.evt with fault := orBit s2.evt.fault 2, lostBefore := true } }
  else s2

/-- Writing a ring's SIZE: a change of the effective size starts the ring empty (R167, R502). -/
def ringResize (old new : BitVec 5) (wr rd : RingPtr) : RingPtr × RingPtr :=
  if effLog2 new = 0 ∨ effLog2 old = effLog2 new then (wr, rd) else (RingPtr.zero, RingPtr.zero)

end Sys2Proof.Machine
end

