-- ==== Sys2Proof/Machine/Enclose.lean ====
section
/-! DEFINITION. Enclosures of the lathe functions (R110): for an operand, an interval with dyadic ends that holds the
exact value of the function, narrow enough to decide every bound of R110. Fixed-point numbers are integers in units of
2^(−fxP); each operation on them truncates, so it is off by less than one unit. -/

namespace Sys2Proof.Machine

/-- The interval [lo × 2^q, hi × 2^q]. -/
structure Encl where
  lo : Int
  hi : Int
  q : Int
  deriving DecidableEq, Repr

/-! ### Fixed point -/

/-- Fraction bits of a fixed-point number. -/
def fxP : Nat := 700

def fxOne : Int := 2 ^ fxP

def fxMul (a b : Int) : Int := a * b / fxOne

def fxDiv (a b : Int) : Int := a * fxOne / b

/-- A finite value as a fixed-point number; exact for every binary32 value. -/
def fxOf (v : Val) : Int :=
  match v with
  | .fin n m e =>
    let s := e + (fxP : Int)
    let x : Int := if 0 ≤ s then ((m <<< s.toNat : Nat) : Int) else ((m >>> (-s).toNat : Nat) : Int)
    if n then -x else x
  | _ => 0

/-- Σ term/k for k = 1, 3, 5, …, the term times z² from one to the next, its sign alternating where `alt`. -/
def fxOddSum (alt : Bool) (zz : Int) : Nat → Int → Int → Int
  | 0, _, _ => 0
  | n + 1, k, t => t / k + fxOddSum alt zz n (k + 2) (if alt then -(fxMul t zz) else fxMul t zz)

/-- artanh z of |z| ≤ 1/3. -/
def fxArtanh (z : Int) : Int := fxOddSum false (fxMul z z) 256 1 z

/-- arctan of 1/n, n ≥ 5. -/
def fxArctan (n : Int) : Int := let z := fxOne / n; fxOddSum true (fxMul z z) 256 1 z

def fxLn2 : Int := 2 * fxArtanh (fxOne / 3)

/-- π = 16 arctan(1/5) − 4 arctan(1/239). -/
def fxPi : Int := 16 * fxArctan 5 - 4 * fxArctan 239

/-- Σ z^n/n! over n = k, k + d, k + 2d, …, given its first term; every further term is negated where `alt`. -/
def fxPowSum (alt : Bool) (d : Nat) (w : Int) : Nat → Nat → Int → Int
  | 0, _, _ => 0
  | n + 1, k, t =>
    let den : Int := if d = 1 then (k : Int) + 1 else ((k : Int) + 1) * ((k : Int) + 2)
    t + fxPowSum alt d w n (k + d) ((if alt then -(fxMul t w) else fxMul t w) / den)

/-- e^x as M × 2^(k − fxP) with M near 1, for |x| ≤ 2,000. -/
def fxExp (x : Int) : Int × Int :=
  let l := fxLn2
  let k := (2 * x + l) / (2 * l)
  let r := x - k * l
  (fxPowSum false 1 r 160 0 fxOne, k)

/-- ln of a positive value. -/
def fxLn (v : Val) : Int :=
  match v with
  | .fin _ m _ =>
    let a : Int := ((m <<< fxP) >>> Nat.log2 m : Nat)
    2 * fxArtanh (fxDiv (a - fxOne) (a + fxOne)) + vLead v * fxLn2
  | _ => 0

/-- sin and cos of x after reduction by π/2: the quadrant and the values of the remainder. -/
def fxSinCos (x : Int) : Int × Int × Int :=
  let h := fxPi / 2
  let n := (2 * x + h) / (2 * h)
  let r := x - n * h
  let w := fxMul r r
  (n % 4, fxPowSum true 2 w 90 1 r, fxPowSum true 2 w 90 0 fxOne)

/-- Σ (−1)^n x^(2n+1) / (n! (2n+1)), from term t = x^(2n+1)/n! on. -/
def fxErfSum (xx : Int) : Nat → Nat → Int → Int
  | 0, _, _ => 0
  | k + 1, n, t => t / (2 * (n : Int) + 1) + fxErfSum xx k (n + 1) (-(fxMul t xx) / ((n : Int) + 1))

/-- The integer square root by bits from b down. -/
def isqrtFrom (x : Nat) : Nat → Nat → Nat
  | 0, r => r
  | b + 1, r =>
    let c := r + 2 ^ b
    isqrtFrom x b (if c * c ≤ x then c else r)

def isqrt (x : Nat) : Nat := isqrtFrom x (Nat.log2 x / 2 + 1) 0

def fxSqrt (x : Int) : Int := (isqrt (x.toNat * 2 ^ fxP) : Nat)

/-- erf x for |x| ≤ 15. -/
def fxErf (x : Int) : Int := fxDiv (2 * fxErfSum (fxMul x x) 1024 0 x) (fxSqrt fxPi)

/-! ### Enclosures -/

/-- A fixed-point result with its truncations, times 2^k: fewer than 2^40 units in all. -/
def enclOf (x k : Int) : Encl := ⟨x - 2 ^ 40, x + 2 ^ 40, k - (fxP : Int)⟩

/-- A result of the erf series, whose terms grow to 2^283 before they fall: fewer than 2^300 units. -/
def enclErfOf (x : Int) : Encl := ⟨x - 2 ^ 300, x + 2 ^ 300, -(fxP : Int)⟩

/-- The exact value n × 2^k. -/
def enclAt (n k : Int) : Encl := ⟨n, n, k⟩

def enclNeg (e : Encl) : Encl := ⟨-e.hi, -e.lo, e.q⟩

/-- A positive value below 2^k. -/
def enclBelow (k : Int) : Encl := ⟨0, 1, k⟩

/-- A value in (1 − 2^(−k), 1). -/
def enclNearOne (k : Nat) : Encl := ⟨2 ^ k - 1, 2 ^ k, -(k : Int)⟩

def enclExp (x : Int) : Encl :=
  if x < -1500 * fxOne then enclBelow (-2000)
  else if 1500 * fxOne < x then ⟨2 ^ 2000, 2 ^ 2000, 0⟩
  else let y := fxExp x; enclOf y.1 y.2

/-- 1 / (1 + e^(−x)). -/
def enclSigmoid (x : Int) : Encl :=
  if 0 ≤ x then
    if 1000 * fxOne < x then enclNearOne 1000
    else let y := fxExp (-x); enclOf (fxDiv fxOne (fxOne + y.1 / 2 ^ (-y.2).toNat)) 0
  else if x < -1500 * fxOne then enclBelow (-2000)
  else let y := fxExp x; enclOf (fxDiv y.1 (fxOne + y.1 / 2 ^ (-y.2).toNat)) y.2

/-- tanh of a nonnegative x. -/
def enclTanh (x : Int) : Encl :=
  if 64 * fxOne < x then enclNearOne 150
  else
    let y := fxExp (2 * x)
    let e := y.1 * 2 ^ y.2.toNat / 2 ^ (-y.2).toNat
    enclOf (fxDiv (e - fxOne) (e + fxOne)) 0

/-- erf of a nonnegative x. -/
def enclErf (x : Int) : Encl := if 14 * fxOne < x then enclNearOne 200 else enclErfOf (fxErf x)

/-- x (1 + erf(x/√2)) / 2. -/
def enclGelu (x : Int) : Encl :=
  let z := fxDiv x (fxSqrt (2 * fxOne))
  if 14 * fxOne < z then ⟨x - x / 2 ^ 250 - 1, x, -(fxP : Int)⟩
  else if z < -14 * fxOne then ⟨-1, 0, -284⟩
  else enclErfOf (fxMul x (fxOne + fxErf z) / 2)

/-- log2 of a positive value; a power of two has an exact one. -/
def enclLog2 (v : Val) : Encl :=
  match v with
  | .fin _ m _ => if m = 2 ^ Nat.log2 m then enclAt (vLead v) 0 else enclOf (fxDiv (fxLn v) fxLn2) 0
  | _ => enclAt 0 0

/-- 2^x; an integer x gives an exact one. -/
def enclExp2 (x : Int) : Encl :=
  if x < -1500 * fxOne then enclBelow (-1400)
  else if 1500 * fxOne < x then ⟨2 ^ 1400, 2 ^ 1400, 0⟩
  else
    let k := x / fxOne
    let f := x - k * fxOne
    if f = 0 then enclAt 1 k else let y := fxExp (fxMul f fxLn2); enclOf y.1 (y.2 + k)

/-- The function at a finite nonzero operand, sin and cos within their range; the gates are those of the fused forms.
sqrt, rsqrt and reciprocal have exact tests of their own. -/
def enclFn (f : LatheFn) (v : Val) : Encl :=
  let x := fxOf v
  let odd := fun (g : Int → Encl) => if vNegBit v then enclNeg (g (-x)) else g x
  match f with
  | .exp => enclExp x
  | .exp2 => enclExp2 x
  | .log => enclOf (fxLn v) 0
  | .log2 => enclLog2 v
  | .tanh => odd enclTanh
  | .erf => odd enclErf
  | .sigmoid => enclSigmoid x
  | .sigmoidMul => enclSigmoid x
  | .siluMul =>
    let g := enclSigmoid x
    if vNegBit v then ⟨x * g.hi, x * g.lo, g.q - (fxP : Int)⟩ else ⟨x * g.lo, x * g.hi, g.q - (fxP : Int)⟩
  | .geluMul => enclGelu x
  | .sin =>
    let y := fxSinCos x
    enclOf (if y.1 = 0 then y.2.1 else if y.1 = 1 then y.2.2 else if y.1 = 2 then -y.2.1 else -y.2.2) 0
  | .cos =>
    let y := fxSinCos x
    enclOf (if y.1 = 0 then y.2.2 else if y.1 = 1 then -y.2.1 else if y.1 = 2 then -y.2.2 else y.2.1) 0
  | _ => enclAt 0 0

/-- An enclosure times a finite value. -/
def enclMul (e : Encl) (u : Val) : Encl :=
  match u with
  | .fin n m k =>
    let r : Encl := ⟨e.lo * (m : Int), e.hi * (m : Int), e.q + k⟩
    if n then enclNeg r else r
  | _ => e

/-- The exponent of one ulp of a result whose leading bit lies at `lead` (R110). -/
def ulpExp (lead : Int) : Int := max (lead - 23) (-149)

def enclLo (e : Encl) : Val := vOfInt e.lo e.q
def enclHi (e : Encl) : Val := vOfInt e.hi e.q

/-- One ulp of the enclosed value: of its smaller end, and that of the smallest normal where it may be zero. -/
def enclUlp (e : Encl) : Int :=
  if 0 < e.lo then ulpExp (vLead (enclLo e)) else if e.hi < 0 then ulpExp (vLead (enclHi e)) else -149

/-- y is at most n ulp from the enclosed value. A value beyond the largest finite one has no bound (R110: results in the
normal range); a zero takes the sign of the value. -/
def withinUlp (n : Nat) (e : Encl) (y : Val) : Bool :=
  let small := if 0 ≤ e.lo then enclLo e else vNeg (enclHi e)
  let b : Val := .fin false n (enclUlp e)
  vLt (maxFin fB32 false) small ||
    (vIsFin y && vLe (vSub (enclHi e) b) y && vLe y (vAdd (enclLo e) b) &&
      (!vIsZero y || vNegBit y == decide (e.lo < 0)))

/-- The binary32 word nearest to the enclosed value. -/
def enclNearest (e : Encl) : Word :=
  toB32 (.fin (decide (e.lo + e.hi < 0)) (e.lo + e.hi).natAbs (e.q - 1))

/-- The bound of R110 in ulp. -/
def ulpBound (f : LatheFn) : Nat :=
  match f with
  | .exp => 2
  | .exp2 => 2
  | .log => 2
  | .log2 => 2
  | .sin => 2
  | .cos => 2
  | .tanh => 3
  | .sigmoid => 3
  | .geluMul => 5
  | _ => 4

end Sys2Proof.Machine
end

