-- ==== Sys2Proof/Machine/LatheOps.lean ====
section
/-! DEFINITION. What a lathe returns (R110 to R114; log entry 9): the special operands, the flush thresholds, and,
where the spec gives only an error bound, a free value held to that bound: by exact arithmetic for reciprocal, sqrt and
rsqrt, and by an enclosure of the exact result (Enclose.lean) for every other function. -/

namespace Sys2Proof.Machine

/-- The numbering of functions that `Config.lathe` and `Config.gate` take. -/
def fnCode (f : LatheFn) : Nat :=
  match f with
  | .exp => 0
  | .exp2 => 1
  | .log => 2
  | .log2 => 3
  | .sqrt => 4
  | .rsqrt => 5
  | .recip => 6
  | .tanh => 7
  | .erf => 8
  | .sigmoid => 9
  | .sin => 10
  | .cos => 11
  | .siluMul => 12
  | .sigmoidMul => 13
  | .geluMul => 14

/-- A fused gated form (R110). -/
def isGate (f : LatheFn) : Bool := f == .siluMul || f == .sigmoidMul || f == .geluMul

/-! ### Bounds that exact arithmetic decides -/

def vSquare (v : Val) : Val := vMul v v

/-- sqrt of a positive value, truncated at 60 or more significant bits with a sticky bit. -/
def vSqrt : Val → Val
  | .fin _ m e =>
    let sh := 128 + (e % 2).toNat
    let x := m <<< sh
    let r := isqrt x
    .fin false (2 * r + (if r * r = x then 0 else 1)) ((e - (sh : Int)) / 2 - 1)
  | v => v

def vOne : Val := .fin false 1 0

/-- The largest power exponent p with 2^p ≤ 1 / x. -/
def recipLead (x : Val) : Int :=
  match x with
  | .fin _ m _ => if m = 2 ^ Nat.log2 m then -(vLead x) else -(vLead x) - 1
  | _ => 0

/-- R110: at most 1 ulp from 1 / x, where that lies in the normal or subnormal range. -/
def recipOk (x y : Val) : Bool :=
  let l := recipLead x
  if 127 < l then true
  else vIsFin y && vLe (vAbs (vSub (vMul y x) vOne)) (vScale (ulpExp l) (vAbs x))

/-- R110: at most 1 ulp from the square root of a positive x. -/
def sqrtOk (x y : Val) : Bool :=
  let u : Val := .fin false 1 (ulpExp (vLead x / 2))
  vIsFin y && !vNegBit y && vLe x (vSquare (vAdd y u)) && (vLt y u || vLe (vSquare (vSub y u)) x)

def rsqrtLead (x : Val) : Int :=
  let k := vLead x / 2
  match x with
  | .fin _ m _ => if m = 2 ^ Nat.log2 m && vLead x % 2 == 0 then -k else -k - 1
  | _ => 0

/-- R110: at most 1.5 ulp from 1 / sqrt x for a positive x. -/
def rsqrtOk (x y : Val) : Bool :=
  let u3 : Val := .fin false 3 (ulpExp (rsqrtLead x))
  let y2 := vScale 1 y
  let four : Val := .fin false 4 0
  vIsFin y && !vNegBit y && vLe four (vMul (vSquare (vAdd y2 u3)) x) &&
    (vLt y2 u3 || vLe (vMul (vSquare (vSub y2 u3)) x) four)

/-- A free value held to a bound: the free value where it meets it, and the nearest result otherwise. -/
def heldTo (ok : Bool) (free nearest : Word) : Word := if ok then free else nearest

/-- sin and cos beyond 2^16 (R112). -/
def outOfRange (f : LatheFn) (x : Val) : Bool :=
  (f == .sin || f == .cos) && vIsFin x && vLt (.fin false 1 16) (vAbs x)

/-- The result of a function at a finite nonzero operand that R113 and R114 do not settle. -/
def latheOpen (f : LatheFn) (x : Word) : Word :=
  let y := Config.lathe (fnCode f) x
  let v := ofB32 x
  match f with
  | .recip => heldTo (recipOk v (ofB32 y)) y (toB32 (vDiv vOne v))
  | .sqrt => heldTo (sqrtOk v (ofB32 y)) y (toB32 (vSqrt v))
  | .rsqrt => heldTo (rsqrtOk v (ofB32 y)) y (toB32 (vDiv vOne (vSqrt v)))
  | _ =>
    if outOfRange f v then heldTo (vLe (vAbs (ofB32 y)) vOne) y 0
    else heldTo (withinUlp (ulpBound f) (enclFn f v) (ofB32 y)) y (enclNearest (enclFn f v))

/-- The result of a fused gated form at finite nonzero gate and u: a free value within its bound of the exact product. -/
def gateOpen (f : LatheFn) (x u : Word) : Word :=
  let y := Config.gate (fnCode f) x u
  let e := enclMul (enclFn f (ofB32 x)) (ofB32 u)
  heldTo (withinUlp (ulpBound f) e (ofB32 y)) y (enclNearest e)

/-! ### Special operands and thresholds -/

def b32Inf (neg : Bool) : Word := if neg then 0xFF800000 else 0x7F800000
def b32Zero (neg : Bool) : Word := if neg then 0x80000000 else 0
def b32Half : Word := 0x3F000000

/-- R113 for an operand that is NaN, infinite or zero, and for a negative finite operand of the functions that give
NaN there; none for any other operand. -/
def latheSpecial (f : LatheFn) (x : Val) : Option Word :=
  match x with
  | .nan => some b32Nan
  | .inf n =>
    match f with
    | .exp => some (if n then 0 else b32Inf false)
    | .exp2 => some (if n then 0 else b32Inf false)
    | .log => some (if n then b32Nan else b32Inf false)
    | .log2 => some (if n then b32Nan else b32Inf false)
    | .sqrt => some (if n then b32Nan else b32Inf false)
    | .rsqrt => some (if n then b32Nan else 0)
    | .recip => some (b32Zero n)
    | .tanh => some (if n then 0xBF800000 else b32One)
    | .erf => some (if n then 0xBF800000 else b32One)
    | .sigmoid => some (if n then 0 else b32One)
    | .sin => some b32Nan
    | .cos => some b32Nan
    | .siluMul => some (if n then b32Zero true else b32Inf false)
    | .sigmoidMul => some (if n then 0 else b32One)
    | .geluMul => some (if n then b32Zero true else b32Inf false)
  | .fin n m _ =>
    if m = 0 then
      match f with
      | .exp => some b32One
      | .exp2 => some b32One
      | .log => some (b32Inf true)
      | .log2 => some (b32Inf true)
      | .sqrt => some (b32Zero n)
      | .rsqrt => some (b32Inf n)
      | .recip => some (b32Inf n)
      | .tanh => some (b32Zero n)
      | .erf => some (b32Zero n)
      | .sigmoid => some b32Half
      | .sin => some (b32Zero n)
      | .cos => some b32One
      | .siluMul => some (b32Zero n)
      | .sigmoidMul => some b32Half
      | .geluMul => some (b32Zero n)
    else if n && (f == .log || f == .log2 || f == .sqrt || f == .rsqrt) then some b32Nan
    else none

/-- The flush threshold of a function (R114); none where no threshold applies. -/
def threshold (l : Lathe) (f : LatheFn) : Option Word :=
  match f with
  | .exp => some l.ftzExp
  | .exp2 => some l.ftzExp2
  | .sigmoid => some l.ftzSigmoid
  | .siluMul => some l.ftzGate
  | .sigmoidMul => some l.ftzGate
  | .geluMul => some l.ftzGate
  | _ => none

/-- A finite argument below its threshold (R114). -/
def flushes (l : Lathe) (f : LatheFn) (x : Val) : Bool :=
  match threshold l f with
  | some t => vIsFin x && vLt x (ofB32 t)
  | none => false

/-- A gate's flushed value (R114). -/
def flushedGate (f : LatheFn) : Word := if f == .sigmoidMul then 0 else b32Zero true

/-- The result of one lathe operand in binary32 (R110 to R114). -/
def latheResult (l : Lathe) (f : LatheFn) (x u : Word) : Word :=
  let v := ofB32 x
  if isGate f then
    if flushes l f v then b32Mul (flushedGate f) u
    else
      match latheSpecial f v with
      | some g => b32Mul g u
      | none =>
        match ofB32 u with
        | .nan => b32Nan
        | .inf n => b32Inf ((vNegBit v && f != .sigmoidMul) ^^ n)
        | .fin n m _ =>
          if m = 0 then b32Zero ((vNegBit v && f != .sigmoidMul) ^^ n) else gateOpen f x u
  else if flushes l f v then 0
  else
    match latheSpecial f v with
    | some r => r
    | none => latheOpen f x

/-- R111: binary16 operands are widened exactly and the result is rounded once to binary16. -/
def widen16 (x : Word) : Word := toB32 (ofB16 (x.setWidth 16))
def narrow16 (x : Word) : Word := (toB16 (ofB32 x)).setWidth 32

def latheFmt (l : Lathe) (f : LatheFn) (fmt : VFmt) (x u : Word) : Word :=
  match fmt with
  | .b32 => latheResult l f x u
  | .b16 => narrow16 (latheResult l f (widen16 x) (widen16 u))

/-- The binary32 value of an operand of a format. -/
def latheArg (fmt : VFmt) (x : Word) : Val :=
  match fmt with
  | .b32 => ofB32 x
  | .b16 => ofB16 (x.setWidth 16)

/-- A lathe use by the sequencer or a plane: the result, with LTH_FLUSHED and LTH_RANGE counted on lathe n. -/
def useLathe (n : Fin 4) (f : LatheFn) (x u : Word) (s : State) : Word × State :=
  let l := s.lth[n]
  let v := ofB32 x
  let s1 := bumpLth n 1 (if flushes l f v then 1 else 0) s
  let s2 := bumpLth n 2 (if outOfRange f v then 1 else 0) s1
  (latheResult l f x u, bumpLth n 0 1 s2)

end Sys2Proof.Machine
end

