-- ==== Sys2Proof/Machine/PowerOps.lean ====
section
/-! DEFINITION. Shared operations of power, reset and boot: what each loss of power and each reset takes (R333,
R455, R470), the power sequence (R460 to R466), wake causes (R469), and the start of a boot (R397, R409). -/

namespace Sys2Proof.Machine

/-! ### Wake causes and retention words (R469, R486) -/

/-- PWR_WAKE_CAUSE and its mirror in retention word 0. -/
def setCause (w : Word) (s : State) : State :=
  { s with aon := { s.aon with wakeCause := w, ret := s.aon.ret.set 0 w } }

def orCause (w : Word) (s : State) : State := setCause (s.aon.wakeCause ||| w) s

def stateCode (p : PState) : Nat :=
  match p with
  | .off => 0
  | .deep => 1
  | .sleep => 2
  | .idle => 3
  | .run => 4

def stateOfCode (n : Nat) : Option PState :=
  match n with
  | 0 => some .off
  | 1 => some .deep
  | 2 => some .sleep
  | 3 => some .idle
  | 4 => some .run
  | _ => none

/-- FROM takes the state left (R486). -/
def setFrom (p : PState) (s : State) : State :=
  setCause ((s.aon.wakeCause &&& ~~~(0x1C00 : Word)) ||| BitVec.ofNat 32 (stateCode p * 1024)) s

def railCode (r : Rail) : Nat :=
  match r with
  | .vcore => 0
  | .vsram => 1
  | .vserdes => 2
  | .vio => 3
  | .vdram => 4

def railIdx (r : Rail) : Fin 5 :=
  match r with
  | .vcore => 0
  | .vsram => 1
  | .vserdes => 2
  | .vio => 3
  | .vdram => 4

/-- A rail fault recorded (R465): the fault bit, retention word 1, and the cause the next boot reports. -/
def recordRail (r : Rail) (duringUp : Bool) (s : State) : State :=
  let s1 := { s with
    pwr := { s.pwr with fault := orBit s.pwr.fault 0 },
    aon := { s.aon with ret := s.aon.ret.set 1 (BitVec.ofNat 32 (railCode r + if duringUp then 8 else 0)),
                        railPend := true } }
  setCause ((s1.aon.wakeCause &&& ~~~(0x07000000 : Word)) ||| 0x80 |||
    BitVec.ofNat 32 (railCode r * 2 ^ 24)) s1

/-! ### Pending commands that end with ABORTED -/

def endTasks (st : Byte) : List FlashTask → State → State
  | [], s => s
  | t :: r, s => endTasks st r (endOpt t.pend st s)

def endWaiting (st : Byte) : List RngReq → State → State
  | [], s => s
  | r :: t, s => endWaiting st t (match r.owner with
    | .attest p _ _ _ => endWith p st s
    | _ => s)

def endJobCmds (st : Byte) (j : Fin 4) (s : State) : State :=
  match s.jobs[j] with
  | none => s
  | some x =>
    let s1 := answerAll st 0 0 (x.stop.getD []) s
    let s2 := match x.snap with
      | some r => endOpt r.pend st s1
      | none => s1
    let s3 := endReplays st (x.replays ++ x.replaying.toList) (endOpt x.startPend st s2)
    match x.restore with
    | some r => endOpt r.pend st s3
    | none => s3

def endLoads (st : Byte) (k : Fin 4) (s : State) : State :=
  match s.sec.keys[k] with
  | some m => match m.load with
    | some l => endOpt l.pend st s
    | none => s
  | none => s

def endLater (st : Byte) : List (Pend × Cmd) → State → State
  | [], s => s
  | x :: t, s => endLater st t (endWith x.1 st s)

/-- Every command that still waits for its final result, but for power, performance and IMAGE_SELECT, ends with
ABORTED when the compute die resets (log entry 26). -/
def abortCommands (s : State) : State :=
  let s1 := endTasks stAborted (s.fls.tasks ++ s.fls.issued.toList) s
  let s2 := endWaiting stAborted s.rng.waiting s1
  let s3 := eachSlot (fun j s => endExport j stAborted (endJobCmds stAborted j s)) s2
  let s4 := eachSlot (endLoads stAborted) s3
  let s4 := endLater stAborted s.sec.later s4
  let s4 := match s.sec.tend with
    | some t => endWith t.1 stAborted s4
    | none => s4
  let s5 := match s.pwr.selftest with
    | some r => endWith r.pend stAborted s4
    | none => s4
  match s.pwr.retrain with
  | some r => endWith r.pend stAborted s5
  | none => s5

/-! ### Resets -/

/-- The words of a block that an interrupted operation leaves (R344; log entry 8). -/
def cutWord (n : Nat) (k : Nat) (new : WordState) : Option WordState :=
  let c := Config.flashCut n k
  if c = 0 then none else if c = 1 then some new else some .bad

/-- The structure that a task's last word makes valid (R186, R344, R361, R408). -/
def lastWord (t : FlashTask) (f : Fls) : Fls :=
  match t.done, t.ops with
  | .keyStore slot v, [.commit w] =>
    let ks := if slot then f.ks.set 1 (some v) else f.ks.set 0 (some v)
    { f with ks := ks, ksLog := f.ksLog ++ [w] }
  | .snapshot _ slot q v, [.program _ _] =>
    { f with snaps := if slot then f.snaps.set 1 (some (q, v)) else f.snaps.set 0 (some (q, v)) }
  | _, _ => f

/-- A last word that power failure cuts short and that reads valid stands (R408, R409; log entry 8). A state or a password
takes effect with its margin verification only (R357). -/
def cutLast (n : Nat) (t : FlashTask) (f : Fls) : Fls := if Config.flashCut n 0 = 1 then lastWord t f else f

/-- The die's operation under way is cut short. -/
def cutOp (n : Nat) (o : FlashOp) (ws : List (Nat × WordState)) : List (Nat × WordState) :=
  match o with
  | .program a d => match cutWord n a (.good d) with
    | some w => tabPut a w ws
    | none => ws
  | .erase b => ws.filterMap fun w =>
    if w.1 / 2048 = b then (cutWord n w.1 w.2).map fun x => (w.1, x) else some w
  | _ => ws

/-- Spare blocks that a refresh has claimed (R349). -/
def claimedSpare (t : FlashTask) : List Nat :=
  match t.done with
  | .refresh _ sp => [sp]
  | .spare sp => [sp]
  | _ => []

/-- The structure that the task under way may have completed. -/
def cutIssued (n : Nat) (f : Fls) : Fls :=
  match f.issued with
  | some t => cutLast n t f
  | none => f

/-- The flash after a reset of the management core's side: sessions, tasks and the image session end; a block claimed
for a refresh is a spare again, to be erased before its next use (R344). -/
def flsAfterReset (n : Nat) (f : Fls) : Fls :=
  let ts := f.tasks ++ f.issued.toList
  let back := ts.flatMap claimedSpare
  let ws := match f.issued.bind (·.ops.head?) with
    | some o => cutOp n o f.words
    | none => f.words
  { cutIssued n f with
    words := ws.filter (fun w => !back.contains (w.1 / 2048)), spares := f.spares ++ back, sessions := 0,
    tasks := [], issued := none, img := none, marks := [], eccPosted := [] }

/-- The security unit after a full chip reset: keys, ephemeral keys and MR2, MR4 are gone. -/
def secAfterReset (x : Sec) : Sec :=
  { x with tending := false, tend := none, later := [], held := [], reportNext := 0, keys := vrep 4 none, mr2 := none, mr4 := none,
           report := none }

/-- An open bank without its session is INVALID no more than it was: it reads EMPTY until VALID (R329). -/
def bankAfterReset (b : BankState) : BankState := if b == .open_ then .empty else b

/-- What every full chip reset takes (R333, R470): jobs, stores, drawers, keys, links, membership, rings,
statistics and the local log. -/
def dieReset (s : State) : State :=
  { s with
    glb := { s.glb with state := .booting, phase := .verify, imageId := 0, svn := 0, bootBank := none,
                        trial := false, bankA := bankAfterReset s.glb.bankA,
                        bankB := bankAfterReset s.glb.bankB },
    pwr := { s.pwr with level := 0, pendingLevel := 0, coreDiv := 4, perfWaiting := [], selftest := none,
                        retrain := none, drawerMarks := 0, drawersNow := [], armed := 0, gate := 0, coreDown := false },
    evt := Evt.reset, mgmt := { Mgmt.reset with out := s.mgmt.out },
    sec := secAfterReset s.sec, fls := flsAfterReset s.free s.fls, free := s.free + 1, rng := Rng.reset,
    stk := { Stk.reset with spillCounter := s.stk.spillCounter },
    bnc := vrep 4 Bench.reset, pln := vrep 16 Plane.reset, lth := vrep 4 Lathe.reset,
    trn := TrnDev.reset, sq := SeqDev.reset, jobs := vrep 4 none, links := vrep 8 Link.reset,
    ws := Ws.reset, col := Col.reset, sns := vrep 24 Port.reset, img := none,
    hif := { s.hif with session := none } }

/-- The debug session ends with a reset: MR3 is extended with DEBUG_CLOSE when one was open (R416). -/
def closeDebugRecord (s : State) : State :=
  if s.mgmt.debugOpen then
    { s with aon := { s.aon with mr3 := s.aon.mr3 ++
                [⟨2, s.mgmt.paths.setWidth 8, s.mgmt.session.getD 0, s.aon.time⟩] },
             mgmt := { s.mgmt with debugOpen := false, paths := 0 } }
  else s

/-- A debug session ends while the module runs (R416). -/
def closeDebug (s : State) : State := postIf s.mgmt.debugOpen (ev 0x0607) (closeDebugRecord s)

/-- The certificate chain that this module sends; none without a workshop certificate (R266, R412). -/
def chainOf (s : State) : List Byte :=
  match s.fls.cert with
  | some c => Config.chain c
  | none => []

/-! ### Firmware and key store at boot (R397, R409) -/

/-- A fault of the security unit, with SEC_FAULT_INFO: key, OPCODE and KIND (R421). -/
def secFault (bit key op : Nat) (s : State) : State :=
  { s with sec := { s.sec with
      fault := orBit s.sec.fault bit, faultInfo := BitVec.ofNat 32 (key + op * 4 + bit * 1024) } }

/-- Copy a is booted before copy b: higher (FW_SVN, FW_VERSION). -/
def fwAbove (a b : FwCopy) : Bool :=
  decide (b.svn.toNat < a.svn.toNat) || (a.svn == b.svn && decide (b.version.toNat ≤ a.version.toNat))

def fwUsable (fuse : Nat) (c : Option FwCopy) : Bool :=
  match c with
  | some x => x.sigOk && decide (fuse ≤ x.svn.toNat)
  | none => false

/-- The copy number preferred by (FW_SVN, FW_VERSION). -/
def fwFirst (v : Vector (Option FwCopy) 2) : Bool :=
  match v[0], v[1] with
  | some a, some b => !fwAbove a b
  | none, some _ => true
  | _, _ => false

def fwAt (v : Vector (Option FwCopy) 2) (b : Bool) : Option FwCopy := if b then v[1] else v[0]

/-- The ROM verifies the firmware (R397). -/
def verifyFirmware (s : State) : State :=
  let first := fwFirst s.fls.fw
  let pick := if fwUsable s.sec.fuse (fwAt s.fls.fw first) then some first
    else if fwUsable s.sec.fuse (fwAt s.fls.fw (!first)) then some (!first) else none
  match pick with
  | none => { s with glb := { s.glb with phase := .noFirmware } }
  | some b =>
    match fwAt s.fls.fw b with
    | none => s
    | some c =>
      let s1 := { s with sec := { s.sec with fwSvn := c.svn, fwVersion := c.version, fwCopy := b } }
      if b = first then s1
      else secFault 3 0 0 (post (ev 0x060A) s1)

/-- The first code word of a key store slot (R408). -/
def ksBase (slot : Bool) : Nat := if slot then 75 * 2048 else 72 * 2048

/-- A code word of the slot reads uncorrectable (R350). -/
def ksBroken (f : Fls) (slot : Bool) : Bool :=
  f.words.any fun w => w.2 == .bad && decide (ksBase slot ≤ w.1) && decide (w.1 < ksBase slot + 3 * 2048)

/-- The slot that a commit word names holds the version, with that digest, and reads whole. -/
def ksMatch (f : Fls) (w : KsCommit) : Bool :=
  match (if w.slot then f.ks[1] else f.ks[0]) with
  | some v => v.version == w.version && v.digest == w.digest && !ksBroken f w.slot
  | none => false

/-- The key store version in force: the last commit word whose slot it matches (R409). -/
def ksWord (f : Fls) : Option KsCommit := f.ksLog.reverse.find? (ksMatch f)

def ksInForce (f : Fls) : Option KsVersion :=
  (ksWord f).bind fun w => if w.slot then f.ks[1] else f.ks[0]

/-- The boot's check of the key store: an earlier word in force is KS_FALLBACK (R409). -/
def verifyKeyStore (s : State) : State :=
  if s.fls.ksLog.getLast? = ksWord s.fls then s
  else secFault 2 0 0 (post (ev 0x0605) s)

/-- What the last run left to report is posted once the boot has verified its image (R448, R465, R477). -/
def bootReports (s : State) : State :=
  let s1 := if s.aon.railPend then
      post { ev 0x0105 with info := BitVec.ofNat 64 (bitsNat (s.aon.ret[1]) 2 0) }
        { s with pwr := { s.pwr with fault := orBit s.pwr.fault 0 }, aon := { s.aon with railPend := false } }
    else s
  let s2 := if s1.aon.thermPend then
      post (ev 0x0104) { s1 with pwr := { s1.pwr with fault := orBit s1.pwr.fault 1 },
                                 aon := { s1.aon with thermPend := false } }
    else s1
  if s2.aon.porPend then
    post (ev 0x060B) (post (ev 0x0A16) { s2 with aon := { s2.aon with porPend := false } })
  else s2

/-- The boot starts (R325): latched events are filed, and the ROM verifies the firmware. The power sequencer stands at
`up 0` while a boot runs. -/
def bootBegin (s : State) : State :=
  verifyKeyStore (verifyFirmware
    (fileDeferred { s with glb := { s.glb with phase := .verify }, pwr := { s.pwr with seq := .up 0 } }))

/-- Warm restart (R333). -/
def warmRestart (s : State) : State :=
  let s1 := dieReset (closeDebugRecord (flushEvents (abortCommands s)))
  bootBegin { s1 with glb := { s1.glb with state := .restarting, lastStatus := 0 } }

/-- A power-on reset (R470): all but the AON domain, the flash, and where the power sequencer stands. -/
def powerOnReset (s : State) : State :=
  let s1 := dieReset (closeDebugRecord s)
  { s1 with
    glb := { Glb.reset with bankA := s1.glb.bankA, bankB := s1.glb.bankB, active := s1.glb.active },
    pwr := { Pwr.reset with
      state := s.pwr.state, target := s.pwr.target, transition := s.pwr.transition, seq := s.pwr.seq,
      rails := s.pwr.rails, goal := s.pwr.goal, req := s.pwr.req, nextReq := s.pwr.nextReq,
      thermalHold := s.pwr.thermalHold, wakeDeferred := s.pwr.wakeDeferred, bias := s.pwr.bias, sram := s.pwr.sram },
    hif := { Hif.reset with gen := s.hif.gen + 1 },
    sec := { Sec.reset with
      fuse := s.sec.fuse, fwSvn := s.sec.fwSvn, fwVersion := s.sec.fwVersion, fwCopy := s.sec.fwCopy },
    fls := { s1.fls with unlockFails := 0, thresh := 1, view := 0, fault := 0, faultInfo := 0, ctrs := vrep 7 Ctr.zero } }

/-! ### The power sequence -/

/-- The rails of power-up in order (R466: the reverse of R464). -/
def upRail (left : Nat) : Rail :=
  match left with
  | 5 => .vio
  | 4 => .vserdes
  | 3 => .vsram
  | 2 => .vcore
  | _ => .vdram

/-- The rail of a power-down step (R464). -/
def downRail (step : Nat) : Rail :=
  match step with
  | 2 => .vdram
  | 3 => .vcore
  | 4 => .vsram
  | 5 => .vserdes
  | _ => .vio

/-- The last power-down step on the way to a state (R464). -/
def lastDown (goTo : PState) : Nat := if goTo == .sleep then 5 else 6

/-- All jobs have quiesced: none has an open step or request. -/
def jobQuiet (x : Job) : Bool :=
  x.parked || x.phase == .holding || x.phase == .stopped || x.phase == .boundary || x.phase == .aborting || (!x.train && x.running.isNone)

def allQuiet (s : State) : Bool :=
  s.jobs.toList.all fun o => match o with
    | some x => jobQuiet x
    | none => true

/-- Entry to SLEEP: sessions and link keys end, capture stops, parked jobs keep their state (R272, R356, R379,
R433, R458). -/
def enterSleep (s : State) : State :=
  let sleepLink := fun (l : Link) =>
    { Link.reset with state := if l.disable || l.state == .disabled then .disabled
                        else if l.stopped then .stopped else .signalDetect,
                      disable := l.disable, stopped := l.stopped, fault := l.fault, tempTrain := l.tempTrain,
                      trainFails := 0, ctrs := l.ctrs }
  { s with hif := { s.hif with session := none }, fls := { s.fls with sessions := 0 },
           links := vmap sleepLink s.links,
           sns := vmap (fun p => { p with capturing := false, frame := none, seen := false }) s.sns,
           stk := { s.stk with patrol := false } }

/-- Entry to DEEP or OFF: jobs, stores, drawers and keys are lost, and the host path ends (R459). -/
def enterDown (s : State) : State :=
  let s1 := eachSlot (fun j s => endExport j stAborted (stopJob j stAborted stDone 0 0 s)) s
  let s2 := dieReset (closeDebugRecord (abortCommands s1))
  { s2 with glb := { s2.glb with phase := .down },
            hif := { s2.hif with pcieUp := false, session := none, queue := [] } }

/-- The bits of PWR_GOOD: the four rails in regulation at their RUN levels (R466). -/
def railsGood (v : Vector Bool 5) : Bool := v[0] && v[1] && v[2] && v[3]

/-- Parked jobs hold on the return to RUN (R458); capture resumes with GAP (R433); recorded levels apply
(R454). -/
def leaveSleep (s : State) : State :=
  { s with
    jobs := vmap (fun o => o.map fun x =>
      let y := if x.rerun then x else { x with windows := [] }
      if y.parked then { y with parked := false, phase := .holding } else y) s.jobs,
    sns := vmap (fun p => if p.ringed then { p with capturing := true, gap := true } else p) s.sns,
    stk := { s.stk with patrol := true } }

def endAll (st : Byte) : List Pend → State → State
  | [], s => s
  | p :: t, s => endAll st t (endWith p st s)

/-- The CORE divider of a level (R453). -/
def dividerOf (l : BitVec 2) : BitVec 4 := if l = 0 then 4 else if l = 1 then 5 else if l = 2 then 6 else 8

/-- The body bias of a state, in RUN by the performance level (R453, R456). -/
def bodyBiasOf (p : PState) (level : BitVec 2) : Bias :=
  match p with
  | .run => if level = 0 then .forward else .zero
  | .idle => .zero
  | .sleep => .reverse
  | .deep => .unpowered
  | .off => .unpowered

/-- What a state does to the SRAM (R456). -/
def sramOf (p : PState) : SramBias :=
  match p with
  | .run => .assistOn
  | .idle => .assistOff
  | .sleep => .retention
  | .deep => .unpowered
  | .off => .unpowered

/-- A level in force: the divider and the body bias follow (R453, R456). -/
def setLevel (v : BitVec 2) (s : State) : State :=
  { s with pwr := { s.pwr with level := v, pendingLevel := v, coreDiv := dividerOf v, bias := bodyBiasOf s.pwr.state v } }

/-- Entry to RUN applies the recorded level and answers the SET_PERF commands that waited for it (R454). -/
def applyLevel (s : State) : State :=
  let s1 := setLevel s.pwr.pendingLevel s
  endAll stDone s.pwr.perfWaiting { s1 with pwr := { s1.pwr with perfWaiting := [] } }

/-- Every job of the module parks (R458). -/
def parkAll (s : State) : State :=
  { s with jobs := vmap (fun o => o.map fun x => { x with parked := true }) s.jobs }

/-- A request that waited for `to` is answered (R461). -/
def answerNext (goTo : PState) (s : State) : State :=
  if s.pwr.target = goTo then
    let s1 := endOpt s.pwr.nextReq stDone s
    { s1 with pwr := { s1.pwr with nextReq := none } }
  else s

def answerReq (s : State) : State :=
  let s1 := endOpt s.pwr.req stDone s
  { s1 with pwr := { s1.pwr with req := none } }

/-- The timekeeper coasts in SLEEP and below, and acquires again on the return (R435, R438). -/
def tkFor (goTo : PState) (s : State) : State :=
  let up := goTo == .run || goTo == .idle
  let tk := if !up then .coasting else if s.aon.tk == .coasting then .acquiring else s.aon.tk
  let last := if up && s.aon.tk == .coasting then s.aon.time else s.aon.lastCorr
  { s with aon := { s.aon with tk := tk, lastCorr := last } }

/-- The stable state `to` is in force (R461): it is counted, posted, signalled on vector 3, and the requests for
it are answered. -/
def enterStable (goTo : PState) (s : State) : State :=
  let wasSleep := s.pwr.state == .sleep
  let s1 := tkFor goTo { s with pwr := { s.pwr with
    state := goTo, transition := false, seq := .idle, pwrGood := railsGood s.pwr.rails && goTo != .sleep,
    pllLock := goTo == .run || goTo == .idle, bias := bodyBiasOf goTo s.pwr.level, sram := sramOf goTo } }
  let s2 := if wasSleep && (goTo == .run || goTo == .idle) then leaveSleep s1 else s1
  let s3 := if goTo == .run then applyLevel s2 else s2
  let s4 := fire 3 (post { ev 0x0101 with info := BitVec.ofNat 64 (stateCode goTo) } (bumpPwr 1 1 s3))
  answerNext goTo (answerReq s4)

/-- No VL0 message waits for a slot of a link that is in UP or comes back to it: LEAVE, or ENACT, has been sent (R282). -/
def lastSent (s : State) : Bool :=
  s.links.toList.all fun x => !(x.state == .up || x.state == .retrain) || x.queue.all fun q => q.1 != 0

/-- The event log is flushed, and the rails are about to fall (step 2 of R464). -/
def powerLost (goTo : PState) (s : State) : State :=
  let s2 := flushEvents s
  if goTo == .sleep then
    let s3 := enterSleep (parkAll s2)
    { s3 with pwr := { s3.pwr with seq := .down 3 goTo } }
  else
    let s3 := enterDown (answerNext goTo (answerReq s2))
    { s3 with pwr := { s3.pwr with seq := .down 2 goTo } }

/-- The jobs have quiesced (step 1 of R464): the member leaves its workshop, and once its LEAVE, or the coordinator's ENACT,
has been sent (R282), the power goes. -/
def quiesced (goTo : PState) (s : State) : State :=
  let s1 := if isMember s && !s.ws.leaving then leaveWorkshop s else s
  if isMember s1 || !lastSent s1 then { s1 with pwr := { s1.pwr with seq := .quiesce goTo } } else powerLost goTo s1

/-- A change between two states needs no rail: RUN and IDLE, DEEP and OFF (R455, R457). -/
def atOnce (a b : PState) : Bool :=
  (a == .run && b == .idle) || (a == .idle && b == .run) || (a == .deep && b == .off) || (a == .off && b == .deep)

/-- A transition over rails begins (R464, R466): down through quiescing, or up; from DEEP and OFF it is a cold
boot, which ends in RUN (R459). -/
def beginRails (goTo : PState) (s : State) : State :=
  let s1 := { s with pwr := { s.pwr with transition := true, goal := goTo } }
  if s.pwr.state == .deep || s.pwr.state == .off then
    let s2 := powerOnReset (setFrom s.pwr.state
      { s1 with pwr := { s1.pwr with seq := .up 5, goal := .run } })
    { s2 with glb := { s2.glb with phase := .powerUp } }
  else if s.pwr.state == .sleep && (goTo == .run || goTo == .idle) then
    setFrom .sleep { s1 with pwr := { s1.pwr with seq := .up 4 } }
  else if allQuiet s1 then quiesced goTo s1
  else { s1 with pwr := { s1.pwr with seq := .quiesce goTo } }

/-- A transition begins from a stable state. -/
def beginTo (goTo : PState) (s : State) : State :=
  if s.pwr.state = goTo then s
  else if atOnce s.pwr.state goTo then
    enterStable goTo { s with pwr := { s.pwr with goal := goTo } }
  else beginRails goTo s

/-- A stable state is reached; where the pending target is another, the next transition starts at once (R462). -/
def reach (goTo : PState) (s : State) : State :=
  let s1 := enterStable goTo s
  if s1.pwr.target = goTo then s1
  else beginTo s1.pwr.target { s1 with pwr := { s1.pwr with req := s1.pwr.nextReq, nextReq := none } }

/-- A power request (R460 to R462). `p` is the command to answer; a sideband or wake request has none. -/
def requestPower (goTo : PState) (p : Option Pend) (s : State) : State :=
  if s.pwr.seq == .idle then
    if s.pwr.state = goTo then endOpt p stDone s
    else
      let s1 := match p with
        | some x => startPending x s
        | none => s
      beginTo goTo { s1 with pwr := { s1.pwr with target := goTo, req := p } }
  else
    let s1 := if s.pwr.nextReq.isSome || s.pwr.target != s.pwr.goal then
        post (ev 0x0102) (bumpPwr 2 1 (endOpt s.pwr.nextReq stAborted s)) else s
    let s2 := match p with
      | some x => startPending x s1
      | none => s1
    { s2 with pwr := { s2.pwr with target := goTo, nextReq := p } }

/-- The last job has reached its boundary while the module quiesces (R463). -/
def quiesceCheck (s : State) : State :=
  match s.pwr.seq with
  | .quiesce goTo => if allQuiet s then quiesced goTo s else s
  | _ => s

/-- A step on an empty queue: one cycle of REFCLK, in which a message that a power-down waits for may have left. -/
def idleStep (s : State) : State := quiesceCheck (tick s)

/-- The module quiesces: no job starts a step or a request (R458, R459). -/
def quiescing (s : State) : Bool :=
  match s.pwr.seq with
  | .quiesce _ => true
  | .down _ _ => true
  | _ => false

/-- The power sequence of a boot, or of a warm restart, has come to its end in RUN (R466). -/
def powerUpEnd (s1 : State) : State :=
  if s1.pwr.transition then reach .run s1
  else
    let s2 := answerNext .run
      { s1 with pwr := { s1.pwr with seq := .idle, pllLock := true, pwrGood := railsGood s1.pwr.rails } }
    if s2.pwr.target = .run then s2
    else beginTo s2.pwr.target { s2 with pwr := { s2.pwr with req := s2.pwr.nextReq, nextReq := none } }

/-- The boot has ended (R325, R466). -/
def bootEnd (s : State) : State := powerUpEnd { s with glb := { s.glb with phase := .done } }

/-! ### SET_POWER and SET_PERF -/

def setPowerNow (c : Cmd) (p : Pend) (s : State) : State :=
  match stateOfCode (bitsNat c.a0 2 0) with
  | some goTo => requestPower goTo (some p) s
  | none => endWith p stBadArg s

def setPerfNow (c : Cmd) (p : Pend) (s : State) : State :=
  let v : BitVec 2 := c.a0.setWidth 2
  if s.pwr.state == .run || s.pwr.state == .idle then endWith p stDone (setLevel v s)
  else startPending p { s with pwr := { s.pwr with pendingLevel := v, perfWaiting := s.pwr.perfWaiting ++ [p] } }

/-- SET_POWER and SET_PERF that waited take effect. -/
def runLater (s : State) : State :=
  let todo := s.sec.later
  todo.foldl (fun s' x => if x.1.op == 0x01 then setPowerNow x.2 x.1 s' else setPerfNow x.2 x.1 s')
    { s with sec := { s.sec with later := [] } }

/-- A wake from the state the module is in or bound for (R467): its flags are recorded; while a transition toward
RUN is pending nothing else changes, and in RUN a wake source wakes nothing. -/
def wake (cause : Word) (s : State) : State :=
  if s.pwr.target = .run then
    if s.pwr.state = .run then s else orCause cause s
  else
    let s1 := orCause cause s
    requestPower .run none (if s1.pwr.seq == .idle then setFrom s1.pwr.state s1 else s1)

end Sys2Proof.Machine
end

