-- ==== Sys2Proof/Machine/Boundary.lean ====
section
/-! DEFINITION. The step boundary (R28): the schedule's place (R171), snapshots (R183 to R185), the start and end of a
REPLAY (R189, R190), retrains, self-tests and re-placement (R232, R274, R479, R481), and the end of an entry and of a
request (R173, R174). -/

namespace Sys2Proof.Machine

/-! ### The schedule -/

def scheduleOf (s : State) (idx : Nat) : Option Schedule :=
  (jobEntryOf s idx).bind fun e => (bodyOf s).bind (·.schedules[e.sched]?)

/-- M of the job (R170). -/
def microBatches (s : State) (idx : Nat) : Nat :=
  match scheduleOf s idx with
  | some x => x.m
  | none => 1

/-- The entry list of a bench. -/
def listOf (s : State) (idx : Nat) (b : Nat) : List SchedEntry :=
  match (scheduleOf s idx).bind fun x => x.lists.find? (·.1 == b) with
  | some l => l.2
  | none => []

def stageOf (s : State) (n : Nat) : Option StageProg := (bodyOf s).bind (·.benchProgs[n]?)

/-- A bench runs an entry of job j. -/
def benchBusy (s : State) (j : Fin 4) : Bool :=
  s.bnc.toList.any fun b => match b.entry with
    | some e => e.job == j
    | none => false

/-- Every list of job j has run to its end. -/
def listsDone (s : State) (j : Fin 4) (x : Job) : Bool :=
  ((List.finRange 4).all fun b => decide ((listOf s x.index b.val).length ≤ x.pos[b])) && !benchBusy s j

/-! ### What a module owns (R147, R177, R180) -/

/-- The elements of a tensor that this module owns: a shard of a veneer (R147), or the whole of an expert that it
holds as primary (R180). -/
def ownRange (s : State) (idx : Nat) (t : Tensor) : Nat × Nat :=
  let c := coordIn s idx
  match baseOf s t with
  | none => (0, 0)
  | some w =>
    if c.spare then (0, 0)
    else if w.role == .expert then
      if expertNo s w % max 1 c.dTot == c.d then (0, t.elements) else (0, 0)
    else (shardLo t.elements c.dTot c.d, shardLo t.elements c.dTot (c.d + 1))

/-- The stored bytes of elements lo to hi − 1 of a tensor's current buffer, or of the other for `alt`. -/
def shardBytes (s : State) (t : Tensor) (r : TRun) (alt : Bool) (lo hi : Nat) : List Byte :=
  let w := fmtBytes t.fmt
  let base := if isVeneer t.role then bufBase t (r.cur ^^ alt) else 0
  readHandle s r.handle.toNat (base + lo * w) ((hi - lo) * w)

/-- Bytes written into host memory (R184, R399). -/
def hostWrite (a : DWord) (bs : List Byte) (s : State) : State :=
  { s with hif := { s.hif with wrote := (a, bs) :: s.hif.wrote } }

/-! ### Snapshots (R184, R185) -/

def partTensor (s : State) (idx : Nat) (t : Tensor) (r : TRun) : PartTensor :=
  let o := ownRange s idx t
  { tensor := t.id, first := o.1, data := if isVeneer t.role then shardBytes s t r false o.1 o.2 else [],
    bc1 := r.bc1, bc2 := r.bc2, k := r.k, kPrev := r.kPrev, hist := r.hist }

def memberCount (s : State) : Nat := if isMember s then s.ws.members.length else 1

def rankNow (s : State) : Nat := if isMember s then s.ws.rank else 0

def epochNow (s : State) : Word := if isMember s then s.ws.epoch else 0

/-- The state of a part in clear: the tensors' buffers, then their scales, histories and bias correction. -/
def stateBytes (ts : List PartTensor) : List Byte := ts.flatMap (·.data) ++ Config.snapTail ts

/-- This module's part of a snapshot of job j at its boundary (R185). -/
def buildPart (j : Fin 4) (x : Job) (s : State) : Part :=
  let ts := (tensorsOf s x.index).filterMap fun t => (tensIn x t.id).map (partTensor s x.index t)
  { hdr := { part := BitVec.ofNat 16 (rankNow s), parts := BitVec.ofNat 16 (memberCount s),
             step := BitVec.ofNat 64 x.step, epoch := x.epoch, job := BitVec.ofNat 8 j.val,
             flags := (if detMode s then 1 else 0) ||| (if x.rho2 then 2 else 0),
             imageId := imageIdOf s, seed := x.seed.getD 0, length := BitVec.ofNat 64 (stateBytes ts).length },
    tensors := ts }

/-- The 64-byte header (R185). -/
def partHeader (h : PartHdr) : List Byte :=
  leBytes 4 1 ++ leBytes 2 h.part.toNat ++ leBytes 2 h.parts.toNat ++ leBytes 8 h.step.toNat ++ leBytes 4 h.epoch.toNat ++
    leBytes 1 h.job.toNat ++ leBytes 1 h.flags.toNat ++ leBytes 2 0 ++ leBytes 8 h.imageId.toNat ++ leBytes 8 h.seed.toNat ++
    leBytes 8 h.length.toNat ++ leBytes 16 0

/-- Chunks of up to 1 MiB from number i on, each sealed and followed by its tag (R414). -/
def sealChunks (key hdr : List Byte) : Nat → Nat → List Byte → List Byte
  | 0, _, _ => []
  | n + 1, i, bs =>
    let nonce := leBytes 4 0 ++ leBytes 8 i
    let c := gcmCrypt key nonce (bs.take (2 ^ 20))
    c ++ gcmTag key nonce (hdr ++ leBytes 8 i) c ++ sealChunks key hdr n (i + 1) (bs.drop (2 ^ 20))

/-- Chunks that n bytes of state take. -/
def chunkCount (n : Nat) : Nat := (n + 2 ^ 20 - 1) / 2 ^ 20

/-- SNAP_KEY in force (R408, R414). -/
def snapKey (s : State) : BitVec 256 :=
  match ksInForce s.fls with
  | some v => v.content.snapKey
  | none => Config.noSnapKey

/-- The blob of a part (R414): header, SALT, sealed state, and the trailer. -/
def partBlob (s : State) (salt : BitVec 256) (p : Part) : List Byte :=
  let hdr := partHeader p.hdr
  let info := [0x53, 0x4E, 0x50, 0x31] ++ leBytes 8 s.serial.toNat ++ leBytes 8 p.hdr.step.toNat
  let key := hkdf384 (leBytes 32 salt.toNat) (leBytes 32 (snapKey s).toNat) info 32
  let st := stateBytes p.tensors
  let body := hdr ++ leBytes 32 salt.toNat ++ sealChunks key hdr (chunkCount st.length) 0 st ++ leBytes 8 s.serial.toNat ++
    leBytes 2 (chainOf s).length ++ chainOf s
  body ++ beBytes 96 (Config.sign (sha384 body)).toNat

/-- Bytes of that blob. -/
def partBytes (s : State) (p : Part) : Nat :=
  let n := p.hdr.length.toNat
  64 + 32 + n + 16 * chunkCount n + 8 + 2 + (chainOf s).length + 96

/-- A boundary that the coordinator has named, or any for a request of this module alone. -/
def dueAt (at_ : Option Nat) (step : Nat) : Bool :=
  match at_ with
  | some n => decide (n ≤ step)
  | none => false

/-- Frames of class STAGING for so many bytes (R225): the handle, or none where frames or handles lack (R229). -/
def stage (j : Fin 4) (bytes : Nat) (s : State) : Option (Nat × State) :=
  (allocHandle .staging j.val false 0 (max 1 bytes) (max 1 bytes) s).bind fun y =>
    (touchFrames y.1 (frameSpan 0 (max 1 bytes)) y.2).map fun s1 => (y.1, s1)

/-- A request for conditioned output joins those that wait; it fails at once while the source is FAILED (R204, R206). -/
def askRng (r : RngReq) (s : State) : State :=
  if s.rng.state == .failed then s else { s with rng := { s.rng with waiting := s.rng.waiting ++ [r] } }

/-- A snapshot request is over: its staging frames are freed. -/
def dropSnap (j : Fin 4) (r : SnapReq) (s : State) : State :=
  let s1 := if r.handle = 0 then s else freeHandle r.handle s
  setJob j (fun y => { y with snap := none }) (dropTask (snapTask j) s1)

/-- Item 2 of R28: a pending snapshot takes the committed state, and asks the noise source for its salt. -/
def snapBoundary (j : Fin 4) (s : State) : State :=
  match s.jobs[j] with
  | none => s
  | some x =>
    match x.snap with
    | none => s
    | some r =>
      if r.staged.isSome || !dueAt r.at_ x.step then s
      else
        let p := buildPart j x s
        match stage j (p.tensors.map fun t => t.data.length).sum s with
        | none => endOpt r.pend stExhausted (setJob j (fun y => { y with snap := none }) (exhausted j.val s))
        | some (h, s1) =>
          let r1 := { r with staged := some p, handle := h }
          if s.rng.state == .failed then endOpt r.pend stAborted (dropSnap j r1 s1)
          else setJob j (fun y => { y with snap := some r1 }) (askRng ⟨.snapSalt j.val, 1⟩ s1)

/-! ### Retrains, self-tests, re-placement (item 4 of R28) -/

/-- No job runs: every slot is free, holds or is parked. -/
def noJobRuns (s : State) : Bool := (List.finRange 4).all fun j => match s.jobs[j] with
  | some x => x.parked || x.phase == .holding || x.phase == .stopped
  | none => true

/-- No adaptation job runs. -/
def noAdaptation (s : State) : Bool := (List.finRange 4).all fun j => match s.jobs[j] with
  | some x => !x.train || x.parked || x.phase == .holding || x.phase == .stopped
  | none => true

/-- A member that has a scheduled retrain under way, noted at the coordinator (R274). -/
def noteRetrain (r : Nat) (s : State) : State :=
  { s with ws := { s.ws with retraining := (r, s.aon.time) :: s.ws.retraining.filter (·.1 != r) } }

/-- A link retrain begins (R274). A scheduled one tells the coordinator first; traffic takes other routes (R275). -/
def retrainLink (scheduled : Bool) (l : Fin 8) (s : State) : State :=
  let s1 := if scheduled then (if isCoord s then noteRetrain s.ws.rank s else sendCoord 0x12 0 .empty s) else s
  let s2 := setLink l (fun x => { x with state := .retrain, marked := false, urgent := !scheduled }) s1
  post { ev 0x0409 with inst := BitVec.ofNat 8 l.val } (bumpLink l 7 1 (moveQueue l s1 s2))

/-- A trained link: UP, or UP with a partner whose management core restarts. -/
def carries (x : Link) : Bool := x.state == .up || x.state == .peerQuiesce

/-- The pending RETRAIN ends when no unit of it is left (R480). -/
def retrainCheck (s : State) : State :=
  match s.pwr.retrain with
  | some r =>
    if r.links = 0 ∧ r.drawers = 0 then
      answer r.pend stDone true (r.failed.setWidth 32) 0 0 0
        { s with pwr := { s.pwr with retrain := none } }
    else s
  | none => s

/-- Unit n of R480's layout has finished its retrain. -/
def retrainUnitDone (n : Nat) (failed : Bool) (s : State) : State :=
  let bit : BitVec 12 := BitVec.ofNat 12 (2 ^ n)
  match s.pwr.retrain with
  | some r =>
    let had := bitAt (r.drawers ++ r.links) n
    let r1 := { r with links := r.links &&& ~~~(bit.setWidth 8),
                       drawers := r.drawers &&& ~~~((bit >>> 8).setWidth 4),
                       failed := if failed && had then r.failed ||| bit else r.failed }
    retrainCheck { s with pwr := { s.pwr with retrain := some r1 } }
  | none => s

/-- Whether a link away for a scheduled retrain, or a drawer, is under way. -/
def unitAway (s : State) : Bool :=
  (s.links.toList.any fun l => l.state == .retrain && !l.urgent) || !s.pwr.drawersNow.isEmpty

/-- Starts the retrain of armed unit n, or drops a link that is not UP (a RETRAIN reports it failed). -/
def startUnit (n : Nat) (s : State) : State :=
  let s1 := { s with pwr := { s.pwr with armed := s.pwr.armed &&& ~~~(BitVec.ofNat 12 (2 ^ n)) } }
  if h : n < 8 then
    if carries s1.links[n] then retrainLink true ⟨n, h⟩ s1 else retrainUnitDone n true s1
  else { s1 with pwr := { s1.pwr with drawersNow := [n - 8] } }

/-- The next armed unit starts when none is away: one unit at a time (R274, R479, R480). -/
def nextUnit : Nat → State → State
  | 0, s => s
  | k + 1, s =>
    if unitAway s then s
    else
      match (List.range 12).find? fun n => bitAt s.pwr.armed n with
      | none => s
      | some n => nextUnit k (startUnit n s)

/-- The marks that a boundary lets go ahead. -/
def armUnits (s : State) : State :=
  let linkBits := ((List.finRange 8).map fun l => if s.links[l].marked then 2 ^ l.val else 0).sum
  let req : BitVec 12 := match s.pwr.retrain with
    | some r => r.drawers ++ r.links
    | none => 0
  let all := s.pwr.armed ||| BitVec.ofNat 12 linkBits ||| (s.pwr.drawerMarks ++ (0 : BitVec 8)) ||| req
  { s with pwr := { s.pwr with armed := all, drawerMarks := 0 },
           links := vmap (fun l => { l with marked := false }) s.links }

/-- A plane group is idle. -/
def groupIdle (s : State) (g : Nat) : Bool :=
  (List.range 4).all fun k => match s.pln[4 * g + k]? with
    | some p => p.state == .stopped || p.state == .outOfService
    | none => false

def groupTest (g : Nat) (s : State) : State :=
  { s with pln := vmapIdx (fun n p => if n / 4 == g && p.state == .stopped then { p with state := .selftest } else p) s.pln }

/-- A unit is in self-test. -/
def testing (s : State) : Bool :=
  s.bnc.toList.any (·.state == .selftest) || s.pln.toList.any (·.state == .selftest) ||
    s.lth.toList.any (·.state == .selftest)

/-- The results of a finished self-test (R481). -/
def selftestEnd (r : SelftestReq) (s : State) : State :=
  let s1 := bumpPwr 5 1 { s with pwr := { s.pwr with selftest := none } }
  post (ev 0x0109)
    (answer r.pend stDone true (r.failB.setWidth 32) (r.failP.setWidth 32) (r.failL.setWidth 32) 0 s1)

/-- The next unit of a self-test that has begun leaves service, or the test ends; a unit that works waits for its
turn (R481). -/
def nextTest (s : State) : State :=
  match s.pwr.selftest with
  | none => s
  | some r =>
    if !r.running || testing s then s
    else
      let put := fun (r' : SelftestReq) (s : State) => { s with pwr := { s.pwr with selftest := some r' } }
      match r.benches.find? fun b => s.bnc[slotFin b].entry.isNone with
      | some b =>
        put { r with benches := r.benches.filter (· != b) } (setBnc (slotFin b) (fun x => { x with state := .selftest }) s)
      | none =>
        match r.planes.find? fun g => groupIdle s g with
        | some g => put { r with planes := r.planes.filter (· != g) } (groupTest g s)
        | none =>
          match r.lathes.find? fun l => s.lth[slotFin l].state == .idle && groupIdle s l with
          | some l =>
            put { r with lathes := r.lathes.filter (· != l) } (setLth (slotFin l) (fun x => { x with state := .selftest }) s)
          | none => if r.benches.isEmpty && r.planes.isEmpty && r.lathes.isEmpty then selftestEnd r s else s

def beginTest (s : State) : State :=
  match s.pwr.selftest with
  | some r =>
    let r1 := { r with running := true }
    nextTest { s with pwr := { s.pwr with selftest := some r1 } }
  | none => s

/-- The frame that a PFN holds, as handle and index: resident, not pinned (R242), and no ring's (R428). -/
def frameOf (s : State) (pfn : Nat) : Option (Nat × Nat) :=
  s.stk.handles.findSome? fun h => if h.2.cls == .ring then none else
    (h.2.table.find? fun f => f.2.resident && f.2.loc == pfn && f.2.pins.isEmpty).map fun f => (h.1, f.1)

/-- Requests of the last completed window, channel by channel. -/
def channelLoads (s : State) : List Nat := (List.range (channels s.part)).map fun c => (s.stk.chanReq.toList.getD c 0).toNat

/-- Segments in the order in which re-placement takes them (R232): those of the most loaded channels first, and of one
channel the hottest first; channels at or below the mean are none of them. -/
def hotOrder (s : State) : List (Nat × Nat) :=
  let loads := channelLoads s
  let load := fun (q : Nat × Nat) => loads.getD (channelOf s (q.1 / 32) (q.1 % 32)) 0
  let many := s.stk.hot.filter fun q => decide (loads.sum < channels s.part * load q)
  many |> sortBy fun a b => decide (load b < load a) || (load a == load b && decide (b.2 ≤ a.2))

/-- Channels in ascending load. -/
def calmOrder (loads : List Nat) : List Nat :=
  List.range loads.length |> sortBy fun a b => decide (loads.getD a 0 ≤ loads.getD b 0)

/-- The first PFN from p on, wrapping in [lo, hi), that is free and puts segment i in channel c. -/
def probeChannel (s : State) (used : List Nat) (i c lo hi : Nat) : Nat → Nat → Option Nat
  | 0, _ => none
  | n + 1, p =>
    if !used.contains p && channelOf s p i == c then some p
    else probeChannel s used i c lo hi n (if p + 1 < hi then p + 1 else lo)

/-- A free PFN that takes segment i to the least loaded channel that any free PFN takes it to; among several the pick is
free (log entry 12). -/
def calmPfn (s : State) (loads : List Nat) (i : Nat) : Option Nat :=
  let lo := reservedFrames s
  let hi := frameTotal s.part
  (calmOrder loads).findSome? fun c =>
    probeChannel s (usedPfns s) i c lo hi (hi - lo) (lo + Config.pfnPick s.free % max 1 (hi - lo))

/-- One frame moved for its hottest segment, with that segment's requests, and the loads after it. -/
def moveFrame (q : Nat × Nat) (y : State × List Nat × Nat) : State × List Nat × Nat :=
  let s := y.1
  let i := q.1 % 32
  let from_ := channelOf s (q.1 / 32) i
  match y.2.2, frameOf s (q.1 / 32), calmPfn s y.2.1 i with
  | n + 1, some f, some p =>
    let to_ := channelOf s p i
    if y.2.1.getD from_ 0 ≤ y.2.1.getD to_ 0 then y
    else
      let put := fun (t : List (Nat × Frame)) => match tabFind f.2 t with
        | some z => tabPut f.2 { z with loc := p } t
        | none => t
      (bumpStk 6 1 (setHandle f.1 (fun h => { h with table := put h.table }) { s with free := s.free + 1 }),
       (y.2.1.set from_ (y.2.1.getD from_ 0 - q.2)).set to_ (y.2.1.getD to_ 0 + q.2), n)
  | _, _, _ => y

/-- A pending re-placement runs (R232): up to REPLACE_MAX frames that hold tracked segments of the most loaded channels
move, hottest first, to where those segments lie in the least loaded ones (log entry 64). -/
def replaceFrames (s : State) : State :=
  if s.stk.replacePending then
    let s1 := ((hotOrder s).foldl (fun y q => moveFrame q y) (s, channelLoads s, 16 * bitsNat s.stk.cfg 31 24)).1
    { s1 with stk := { s1.stk with replacePending := false, hot := [] } }
  else s

/-- Item 4 of R28. -/
def unitWork (s : State) : State := replaceFrames (beginTest (nextUnit 12 (armUnits s)))

/-! ### Replay (R190) -/

/-- The serials of the participants of a job. -/
def partnerSerials (s : State) (idx : Nat) : List DWord :=
  (s.ws.members.filter fun m => bitAt m.jobs idx).map (·.serial)

/-- The record slot that WHICH names, if it holds a step of the present membership. -/
def recordFor (s : State) (x : Job) (which : Bool) : Option Record :=
  (x.records[if which then 1 else 0]?).filter fun r =>
    !r.lost && (!x.fabric || r.members == partnerSerials s x.index)

/-- The state of a job as a record holds it. -/
def saveState (j : Fin 4) (x : Job) (s : State) : Record :=
  ⟨x.step, x.epoch, x.tens.map fun t => { t with waiting := [] }, bytesOf (jobHandles j s) s.stk.bytes, x.windows, [], 0, false, partnerSerials s x.index, []⟩

/-- A recorded step is put in place for its re-execution. -/
def loadRecord (j : Fin 4) (x : Job) (r : Record) (q : ReplayReq) (s : State) : State :=
  let sv := saveState j x s
  let ts := r.tens.map fun t => match tensIn x t.id with
    | some now => keepCounts now t
    | none => t
  setJob j (fun y => { freshRun y with
      tens := ts.map freshTens, step := r.step, windows := r.windows, rerun := true, saved := some sv,
      replaying := some q })
    { s with stk := { s.stk with
        bytes := overlay (withoutHandles (jobHandles j s) s.stk.bytes) (bytesOf (jobHandles j s) r.bytes) } }

/-- A replay that cannot run is refused (R191). -/
def refuseReplay (j : Fin 4) (x : Job) (q : ReplayReq) (s : State) : State :=
  let s1 := endOpt q.pend stRefused s
  if onFabric s x then sendCoord 0x15 0 (.replay x.index replayAborted) s1 else setJob j (fun y => y) s1

/-- The oldest replay that waits for this boundary starts, after items 1 to 4 of R28. -/
def beginReplay (j : Fin 4) (s : State) : State :=
  match s.jobs[j] with
  | none => s
  | some x =>
    match x.replays with
    | [] => s
    | q :: rest =>
      if x.replaying.isSome || !dueAt q.at_ x.step then s
      else
        let s1 := setJob j (fun y => { y with replays := rest }) s
        match recordFor s x q.which with
        | none => refuseReplay j x q s1
        | some r => loadRecord j x r q (bumpSeq j 3 1 s1)

/-! ### The boundary -/

/-- Every snapshot of the job that has been taken has left its staging (R184). -/
def stagingOver (x : Job) : Bool :=
  match x.snap with
  | some r => r.staged.isNone || r.exporting
  | none => true

/-- The job is at its boundary with nothing left that comes before a JOB_STOP (R28): no step or request runs, no snapshot
is being staged, the epoch change has been made, and no replay named for this boundary is unanswered (R190). -/
def stopDue (x : Job) : Bool :=
  x.replaying.isNone && !stepOpen x && x.running.isNone && stagingOver x && !x.late

/-- Item 5 of R28: a pending JOB_STOP stops the job. A change that is then complete takes effect. -/
def stopAtBoundary (j : Fin 4) (s : State) : State :=
  match s.jobs[j] with
  | none => s
  | some x => if x.stop.isSome && stopDue x then tryEnact (stopJob j stAborted stDone 0 0 s) else s

/-- What waited for an earlier part of the boundary (R28, R190). -/
def replayBoundary (j : Fin 4) (s : State) : State := quiesceCheck (stopAtBoundary j s)

/-- Where the lost mirror or replica of a tensor is fetched from, and which elements (R224): the owner of the previous
shard, the expert's primary, or, for another member's part of a W, the lowest rank of the group besides this one. -/
def refetchOf (s : State) (x : Job) (id : BitVec 16) : Option (Nat × Nat × Nat) :=
  match tensorOf s id with
  | none => none
  | some t =>
    let c := coordIn s x.index
    let ranks := groupRanks s x.index
    let p := (c.d + c.dTot - 1) % max 1 c.dTot
    match baseOf s t with
    | none => none
    | some w =>
      if w.role == .expert then (ranks[expertNo s w % max 1 c.dTot]?).map fun r => (r, 0, t.elements)
      else if t.role == .veneerW then (leastOf (ranks.filter (· != s.ws.rank))).map fun r => (r, 0, t.elements)
      else (ranks[p]?).map fun r => (r, shardLo t.elements c.dTot p, shardLo t.elements c.dTot (p + 1))

/-- Lost mirrors and replicas are asked for again (R224). -/
def askLost (j : Fin 4) (s : State) : State :=
  match s.jobs[j] with
  | none => s
  | some x =>
    if x.refetch.isEmpty || !x.fetch.isEmpty then s
    else sendNeeds j x (x.refetch.flatMap fun q => match refetchOf s x q.1 with
      | some r => needRange r.1 q.1 r.2.1 r.2.2
      | none => []) s

/-- A membership change is open on this module. -/
def changeOpen (s : State) : Bool := s.ws.change.isSome || s.ws.view.isSome

/-- Items 4 and 5 of R28. -/
def boundaryRest (j : Fin 4) (s : State) : State :=
  quiesceCheck (stopAtBoundary j (beginReplay j (unitWork (setJob j (fun y => { y with late := false }) s))))

/-- Boundaries whose epoch change has been made go on (R28). -/
def lateRest (s : State) : State :=
  if changeOpen s then s
  else eachSlot (fun j s => if (s.jobs[j]).any (·.late) then boundaryRest j s else s) s

/-- Items 2 to 5 of R28, once COMMIT has completed for job j. Items 4 and 5 of a fabric job come after the epoch change of
item 3. -/
def boundary (j : Fin 4) (s : State) : State :=
  let s1 := askLost j (snapBoundary j s)
  let s2 := settle (changeShut [] s1)
  if changeOpen s2 && (s2.jobs[j]).any (onFabric s2) then setJob j (fun y => { y with late := true }) s2
  else lateRest (boundaryRest j s2)

/-! ### The end of an inference request (R174) -/

/-- LAT_BOUND in nanoseconds. -/
def latBoundNs (s : State) (idx : Nat) : Nat :=
  match jobEntryOf s idx with
  | some e => e.latBound.toNat * 1000
  | none => 0

/-- A latency-bound job (R174): an inference job with a trigger and a bound. -/
def latencyBound (s : State) (x : Job) : Bool := !x.train && decide (0 < latBoundNs s x.index)

/-- The latency of the request that ends is measured. -/
def latency (j : Fin 4) (x : Job) (s : State) : State :=
  match x.running with
  | none => s
  | some t0 =>
    if latencyBound s x then
      let lat := x.outAt.getD s.aon.time.toNat - t0
      let s1 := setJob j (fun y => { y with latMax := BitVec.ofNat 64 (max y.latMax.toNat lat) }) s
      if latBoundNs s x.index < lat then
        post { ev 0x0708 with job := jobByte j, info := BitVec.ofNat 64 lat }
          (bumpSeq j 0 1 { s1 with sq := { s1.sq with fault := orBit s1.sq.fault 0 } })
      else s1
    else s

/-- The end of a request: its latency, then what waited for it (R28, R29, R232, R463, R478). -/
def endRequest (j : Fin 4) (s : State) : State :=
  match s.jobs[j] with
  | none => s
  | some x =>
    let s1 := latency j x s
    let s2 := setJob j (fun y => { y with
      running := none, requests := y.requests + 1, pos := vrep 4 0, phase := .boundary }) s1
    let s3 := if noAdaptation s2 then unitWork s2 else s2
    if 2 ^ 48 ≤ x.requests + 1 then quiesceCheck (stopJob j stExhausted stDone 0 0 s3)
    else quiesceCheck (stopAtBoundary j s3)

/-! ### The end of an entry (R171, R173) -/

/-- A microprogram of the entry's stage still runs on some plane. -/
def progsRunning (s : State) (e : EntryRun) : Bool :=
  let ps := match stageOf s e.prog with
    | some g => g.planeProgs
    | none => []
  s.pln.toList.any fun p => (p.state == .running || p.state == .waiting) && p.job == e.job && p.vstage == e.vstage &&
    p.list == e.list && (match p.prog with
     | some n => ps.contains n
     | none => false)

/-- What follows the end of an entry of job j: the end of its request, and units that waited to leave service. -/
def afterEntry (j : Fin 4) (s : State) : State :=
  match s.jobs[j] with
  | none => s
  | some x => nextTest (if !x.train && x.running.isSome && listsDone s j x then endRequest j s else s)

/-- The frames of a tensor that a descriptor's rows read (R239). -/
def descReads (d : Desc8) : List (Nat × Nat) :=
  if dField d 0 3 0 == 0 && dField d 0 5 4 == 2 then
    ((List.range (dField d 1 31 16 + 1)).flatMap fun i =>
      (frameSpan (64 * (dField d 2 31 0 + i * dField d 3 15 0)) (64 * (dField d 1 15 0 + 1))).map fun f =>
        (dField d 4 15 0, f)).eraseDups
  else []

/-- The frames, by tensor, that the copy lists of a stage program read. -/
def stageReads (s : State) (prog : Nat) : List (Nat × Nat) :=
  match stageOf s prog, bodyOf s with
  | some g, some b => ((g.copyLists.filterMap fun n => b.copies[n]?).flatMap fun l => l.flatMap descReads).eraseDups
  | _, _ => []

/-- Backward entries of job x that have not ended: their stage programs. -/
def backLeft (s : State) (x : Job) : List Nat :=
  (List.finRange 4).flatMap fun b =>
    ((((listOf s x.index b.val).drop x.pos[b]).map entryFields).filter (·.back)).map (·.prog)

/-- A backward entry of job j has ended: each frame of an activation that it read and no later backward entry reads is
freed (R182, R228). -/
def freeActs (j : Fin 4) (e : EntryRun) (s : State) : State :=
  match s.jobs[j] with
  | none => s
  | some x =>
    if !(e.back && x.train) then s
    else
      let later := (backLeft s x).flatMap (stageReads s)
      let gone := (stageReads s e.prog).filter fun q => !later.contains q
      gone.foldl (fun s' q => match tensorOf s (BitVec.ofNat 16 q.1), tensIn x (BitVec.ofNat 16 q.1) with
        | some t, some r => if t.role == .act then freeFrame r.handle.toNat q.2 s' else s'
        | _, _ => s') s

/-! ### Microprograms take planes (R97, R107, R116, R173) -/

/-- A plane that its self-test, or that of its lathe, has not taken out. -/
def planeServes (p : Fin 16) (s : State) : Bool :=
  s.pln[p].state != .outOfService && s.pln[p].state != .selftest &&
    (match s.lth[p.val / 4]? with
     | some l => l.state != .selftest
     | none => true)

/-- A plane that can take a microprogram. -/
def planeFree (p : Fin 16) (s : State) : Bool := s.pln[p].state == .stopped && s.pln[p].prog.isNone && planeServes p s

/-- The plane for a microprogram: the one it names, once that is free; and, where the one it names is out of service or in
self-test, the first free plane of its group, or of any group (R107, R116). -/
def planeFor (s : State) (q : PlaneProg) : Option (Fin 16) :=
  let all := List.finRange 16
  match all.find? fun p => p.val == 4 * q.group + q.plane && planeServes p s with
  | some p => if planeFree p s then some p else none
  | none => (all.filter (fun p => p.val / 4 == q.group) ++ all).find? fun p => planeFree p s

/-- What the sequencer places in a scalar register that a microprogram names (R138, R149, R150): a scale as a signed
word. -/
def sregVal (s : State) (x : Job) (v : SReg) : Word :=
  let tens := fun (t : BitVec 16) (f : TRun → Word) => match tensIn x t with
    | some r => f r
    | none => 0
  match v with
  | .k t => tens t fun r => BitVec.ofInt 32 r.k
  | .kPrev t => tens t fun r => BitVec.ofInt 32 r.kPrev
  | .param t n => match (trainOf s x.index).bind fun q => (q.params.find? (·.tensor == t)).bind (namedParam n) with
    | some w => w
    | none => 0
  | .factor t => tens t (·.f)
  | .lrS t => tens t (·.lrS)
  | .corr1 t => tens t (·.corr1)
  | .corr2 t => tens t (·.corr2)

/-- The scalar registers of a plane with what a microprogram has placed in them. -/
def placeSregs (s : State) (j : Fin 4) (q : PlaneProg) (sc : Vector Word 32) : Vector Word 32 :=
  match s.jobs[j] with
  | some x => q.sregs.foldl (fun v r => v.set r.1.toNat (sregVal s x r.2) r.1.isLt) sc
  | none => sc

/-- A microprogram of the entry begins on its plane, or waits for one. -/
def seatProg (b : Fin 4) (e : EntryRun) (s : State) (n : Nat) : State :=
  match (bodyOf s).bind (·.planeProgs[n]?) with
  | none => s
  | some q =>
    match planeFor s q with
    | none => setBnc b (fun x => { x with progsLeft := x.progsLeft ++ [n] }) s
    | some p => setPln p (fun x =>
        { x with prog := some n, sc := placeSregs s e.job q x.sc, list := e.list, home := slotFin q.group, job := e.job, vstage := e.vstage,
                 state := .running, pc := 0, waitKind := 0, waitSlot := 0xFF }) s

/-- The microprograms that wait for a plane on bench b's entry, in order. -/
def seatBench (b : Fin 4) (s : State) : State :=
  match s.bnc[b].entry with
  | none => s
  | some e => s.bnc[b].progsLeft.foldl (seatProg b e) (setBnc b (fun x => { x with progsLeft := [] }) s)

/-- Planes that have become free take what waits. -/
def seatAll (s : State) : State := eachSlot seatBench s

/-- The entry of bench b ends when its passes and its microprograms have. -/
def entryEnd (b : Fin 4) (s : State) : State :=
  match s.bnc[b].entry with
  | none => s
  | some e =>
    if s.bnc[b].pc < s.bnc[b].passes.length || !s.bnc[b].progsLeft.isEmpty || progsRunning s e then s
    else
      let s1 := setBnc b (fun x => { benchIdle x with held := x.held }) s
      afterEntry e.job (freeActs e.job e (setJob e.job (fun x => { x with pos := upd x.pos e.list (· + 1) }) s1))

end Sys2Proof.Machine
end

