-- ==== Sys2Proof/Machine/Operands.lean ====
section
/-! DEFINITION. The operand forms: the fields of pass and copy descriptors (R67, R239) and of schedule entries (R170),
the elements of a plane's registers (R99), tensors as a plane names them (R102), and memory errors met by an access
(R220, R223, R224). -/

namespace Sys2Proof.Machine

/-! ### Elements of plane registers (R99) -/

def laneCount (f : VFmt) : Nat :=
  match f with
  | .b32 => 64
  | .b16 => 128

def laneWord (p : Plane) (r : BitVec 8) (l : Nat) : Word := tabGet 0 (r.toNat * 64 + l) p.v

def setLaneWord (r : BitVec 8) (l : Nat) (w : Word) (p : Plane) : Plane :=
  { p with v := tabSet 0 (r.toNat * 64 + l) w p.v }

/-- The half of a word that packed element e lies in. -/
def halfOf (w : Word) (e : Nat) : BitVec 16 := if e % 2 = 0 then w.setWidth 16 else (w >>> 16).setWidth 16

def putHalf (w : Word) (e : Nat) (x : BitVec 16) : Word :=
  if e % 2 = 0 then (w &&& 0xFFFF0000) ||| x.setWidth 32 else (w &&& 0x0000FFFF) ||| (x.setWidth 32 <<< 16)

/-- The code of element e of a register in a format. -/
def elemCode (p : Plane) (f : VFmt) (r : BitVec 8) (e : Nat) : Nat :=
  match f with
  | .b32 => (laneWord p r e).toNat
  | .b16 => (halfOf (laneWord p r (e / 2)) e).toNat

def elemVal_ (p : Plane) (f : VFmt) (r : BitVec 8) (e : Nat) : Val := decodeF (vfmt f) (elemCode p f r e)

def setElem (f : VFmt) (r : BitVec 8) (e : Nat) (code : Nat) (p : Plane) : Plane :=
  match f with
  | .b32 => setLaneWord r e (BitVec.ofNat 32 code) p
  | .b16 => setLaneWord r (e / 2) (putHalf (laneWord p r (e / 2)) e (BitVec.ofNat 16 code)) p

def maskOn (p : Plane) (m : Option (BitVec 3)) (e : Nat) : Bool :=
  match m with
  | none => true
  | some k => bitAt (p.k[k.toNat]) e

/-- The active elements of an instruction, ascending. -/
def activeElems (p : Plane) (f : VFmt) (m : Option (BitVec 3)) : List Nat :=
  (List.range (laneCount f)).filter fun e => maskOn p m e

/-- A result written into each active element of a register: the operands are all read first. -/
def mapElems (f : VFmt) (dst : BitVec 8) (es : List Nat) (g : Nat → Nat) (p : Plane) : Plane :=
  es.foldl (fun q e => setElem f dst e (g e) q) p

def setMaskBit (k : BitVec 3) (e : Nat) (b : Bool) (p : Plane) : Plane :=
  let bit : BitVec 128 := BitVec.ofNat 128 (2 ^ e)
  { p with k := upd p.k ⟨k.toNat, k.isLt⟩ (fun w => if b then w ||| bit else w &&& ~~~bit) }

/-! ### Tensors in the stores (R98, R102) -/

/-- The lathe of a plane (R97). -/
def groupOf (p : Fin 16) : Fin 4 := ⟨p.val / 4, by omega⟩

/-- The bench whose store and slots a plane's program uses: that of the program's group (R97, R98, R106), also where the
program runs on a plane of another group (R107; log entry 43). -/
def homeOf (p : Fin 16) (s : State) : Fin 4 := s.pln[p].home

/-- The header of a collective message about a tensor of job slot j, with no element carried. -/
def peerHdr (j : Fin 4) (id : BitVec 16) (s : State) : ColHdr :=
  let step := match s.jobs[j] with
    | some x => x.step
    | none => 0
  ⟨id, BitVec.ofNat 8 j.val, 0, BitVec.ofNat 32 step, 0, 0⟩

/-- A peer copy may be granted (R311): its slot is EMPTY and no other copy that holds a grant names it, and none of its
frames is with the host. -/
def grantable (p : PeerOpen) (s : State) : Bool :=
  let n := p.ext.slot.toNat
  let empty := match s.bnc[p.ext.slotBench.toNat]? with
    | some b => n == 255 || !bitAt b.slots n
    | none => false
  let away := match (handleNamed s p.job p.ext.handle.toNat).bind fun h => tabFind h s.stk.handles with
    | some h => h.table.any fun f => f.2.spilled
    | none => false
  !p.granted && empty && !away && (n == 255 || s.col.peers.all fun q =>
    !(q.granted && q.ext.slotBench == p.ext.slotBench && q.ext.slot == p.ext.slot))

def grantPeer (s : State) (p : PeerOpen) : State :=
  if grantable p s then
    let mark := fun (q : PeerOpen) => if q == p then { q with granted := true } else q
    send p.src 0x46 0 (.col (peerHdr p.job p.tensor s)) { s with col := { s.col with peers := s.col.peers.map mark } }
  else s

/-- Grants go out to the senders that can have one. -/
def grantPeers (s : State) : State := s.col.peers.foldl grantPeer s

/-- A LUT that came from bench b's store is loaded afresh once its slot has filled again (R86). -/
def lutMark (b : Fin 4) (bit : BitVec 256) (x : Bench) : Bench :=
  if x.lut.any (·.1 == b) then { x with lutMarks := x.lutMarks ||| bit } else x

/-- Slot token n of a bench marked FULL or EMPTY; 0xFF is no token. -/
def markSlot (b : Fin 4) (n : Nat) (full : Bool) (s : State) : State :=
  if n = 255 then s
  else
    let bit : BitVec 256 := BitVec.ofNat 256 (2 ^ n)
    let s1 := setBnc b (fun x => { x with slots := if full then x.slots ||| bit else x.slots &&& ~~~bit }) s
    if full then { s1 with bnc := vmap (lutMark b bit) s1.bnc } else grantPeers s1

/-- A slot token is FULL; 0xFF never waits. -/
def slotFull (b : Fin 4) (n : Nat) (s : State) : Bool := n == 255 || bitAt s.bnc[b].slots n

def slotEmpty (b : Fin 4) (n : Nat) (s : State) : Bool := n == 255 || !bitAt s.bnc[b].slots n

def storeMem (g : Fin 4) (stock : Bool) (s : State) : Memory := if stock then s.stk.mem else s.bnc[g].store

def storeSize (stock : Bool) : Nat := if stock then 67108864 else 16777216

def writeStore (g : Fin 4) (stock : Bool) (a : Nat) (bs : List Byte) (s : State) : State :=
  if stock then { s with stk := { s.stk with mem := writeBytes s.stk.mem a bs } }
  else setBnc g (fun b => { b with store := writeBytes b.store a bs }) s

/-- Elements of a tensor; a tensor that the image does not hold has none. -/
def tensorLen (s : State) (id : BitVec 16) : Nat :=
  match tensorOf s id with
  | some t => t.elements
  | none => 0

def tensorWidth (s : State) (id : BitVec 16) : Nat :=
  match tensorOf s id with
  | some t => fmtBytes t.fmt
  | none => 1

/-- The byte address of a tensor's element as an instruction places it. -/
def elemAddr (s : State) (r : TensorRef) (i : Nat) : Nat := r.base + i * tensorWidth s r.tensor

/-- The first index outside the tensor or its store, if any (R103). -/
def firstOut (s : State) (r : TensorRef) (is : List Nat) : Option Nat :=
  is.find? fun i => decide (tensorLen s r.tensor ≤ i) ||
    decide (storeSize r.stock < elemAddr s r i + tensorWidth s r.tensor)

/-- The stored value of an element. -/
def storedVal (g : Fin 4) (r : TensorRef) (i : Nat) (s : State) : Val :=
  match tensorOf s r.tensor with
  | some t => decodeF (fmtOf t.fmt) (leNat (readBytes (storeMem g r.stock s) (elemAddr s r i) (fmtBytes t.fmt)))
  | none => .nan

/-- The logical index of lane e (R102). -/
def lineIdx (r : TensorRef) (e : Nat) : Nat := r.origin + e * r.stride

/-! ### Memory errors (R220, R223, R224) -/

/-- Corrected and uncorrectable words of an access to a store. The answer says whether data was delivered; an
uncorrectable word is a covered fault of the step of job j. -/
def storeEcc (j : Fin 4) (e : Ecc) (s : State) : Bool × State :=
  let s1 := bumpStk 5 e.corr s
  match e.uncorr with
  | none => (true, s1)
  | some a =>
    let s2 := stkFault 8 0 0 j.val 0 a s1
    (false, coveredFault j (post { ev 0x0309 with
      fault := true, job := jobByte j, addrKind := 1, addr := BitVec.ofNat 64 a,
      info := s2.stk.faultInfo.setWidth 64 } s2))

end Sys2Proof.Machine
end

