-- ==== Sys2Proof/Machine/JobOps.lean ====
section
/-! DEFINITION. Shared operations of job control: what a job starts as (R208, R225, R334), what it holds for (R20, R21,
R407), requests of an inference job (R174), and where a snapshot goes (R184,
R186, R361). -/

namespace Sys2Proof.Machine

/-! ### The job as it starts -/

/-- k before the first step: K_INIT, and 0 for binary32, trained weights and gradients (R138). -/
def freshK (t : Tensor) : Int := if unscaled t then 0 else t.kInit

/-- A tensor's state before the first step: k and k_prev are `freshK`, the history is empty (R142), and bc1 and bc2 are
1 (R150). -/
def TRun.fresh (t : Tensor) : TRun :=
  { id := t.id, handle := 0, ovf := 0, nan := 0, unf := 0, ovfSat := false, nanSat := false, unfSat := false,
    inexact := false, amax := 0, dOvf := 0, dNan := 0, dUnf := 0, k := freshK t, kPrev := freshK t, hist := [],
    cur := false, skipped := false, bc1 := b32One, bc2 := b32One, bn1 := b32One, bn2 := b32One, corr1 := 0,
    corr2 := 0, lrS := 0, f := 0, c := b32One, nonfinite := false, fReady := false, w2 := 0, g2 := 0, dw2 := 0,
    parts := 0, early := [], gFinal := false, gtFinal := false, owned := 0, waiting := [], direct := [],
    optDone := false, gathered := [], tallyG := [], tallyEnd := [], myW2 := Val.zero,
    myDw2 := Val.zero, scaleLimit := false }

/-- The statistics record that a tensor has kept since a job last held it (R62). -/
def withStat (s : State) (r : TRun) : TRun :=
  match tabFind r.id.toNat s.trn.stats with
  | some k => { r with ovf := k.ovf, nan := k.nan, unf := k.unf, ovfSat := k.ovfSat, nanSat := k.nanSat,
                       unfSat := k.unfSat, inexact := k.inexact }
  | none => r

/-- FLAGS of a job table entry (R322). -/
def autostart (e : JobEntry) : Bool := bitAt e.flags 0
def drawsSeed (e : JobEntry) : Bool := bitAt e.flags 2

/-- TRIGGER (R322): a period in ns, or a port and a count of its ring's entries. -/
def trigPeriod (e : JobEntry) : Option Nat := if bitAt e.trigger 63 then none else some (bitsNat e.trigger 62 0)
def trigRing (e : JobEntry) : Option (Nat × Nat) :=
  if bitAt e.trigger 63 then some (bitsNat e.trigger 4 0, bitsNat e.trigger 62 8) else none

/-- SNS_WR_COUNT of the port that a ring-count trigger names. -/
def ringCountNow (s : State) (e : JobEntry) : Nat :=
  match trigRing e with
  | some (p, _) => match s.sns[p]? with
    | some x => x.wrCount.toNat
    | none => 0
  | none => 0

/-- Job index idx as it starts in a slot. -/
def Job.fresh (idx : Nat) (e : JobEntry) (s : State) : Job :=
  let m := meshOf s idx
  let seed := if drawsSeed e then none else some e.seed
  { index := idx, train := e.kind == 1, phase := .holding, parked := false, fabric := meshFabric m, step := 0,
    epoch := 0, seed := seed, drawn := drawsSeed e, kg := genKey e.seed, tens := (tensorsOf s idx).map fun t => withStat s (TRun.fresh t),
    nInv := 0, samples := 0, windows := [], rerun := false, late := false, pos := vrep 4 0, fed := [],
    requests := 0, running := none, waiting := [], latMax := 0, ringSeen := ringCountNow s e, outAt := none,
    trigAt := s.aon.time.toNat,
    retries := 0, records := [], saved := none, abortEpoch := none, startPend := none, stop := none, snap := none, replays := [],
    replaying := none, restore := none,
    rho2 := decide (1 < m.rho) && decide (2 ≤ (coordIn s idx).dTot), trn := vrep 6 Ctr.zero,
    seq := vrep 4 Ctr.zero, glueFirst := none, glueLast := 0, glueSpan := 0, glueQ := [], glueIn := [], exp := [], expHeld := [],
    expKept := [], expRet := [], expGone := [], norms := [], normReqs := [], normOut := [], fetch := [], refetch := [], once := 0,
    readers := [], gatherHeld := [] }

/-! ### Handles at JOB_START (R225, R428) -/

/-- A tensor whose handle is created at JOB_START; the others get theirs as the schedule first writes them. -/
def startsWithHandle (r : Role) : Bool := !(r == .act || r == .grad)

/-- A handle for tensor t of job slot j, noted in the job. -/
def giveHandle (j : Fin 4) (t : Tensor) (s : State) : Option State :=
  let spill := t.spillable && (t.role == .act || t.role == .grad)
  (allocHandle (classOf t.role) j.val spill t.id (handleBytes t) (tensorBytes t) s).map fun y =>
    setTens j t.id (fun r => { r with handle := BitVec.ofNat 16 y.1 }) y.2

def giveHandles (j : Fin 4) : List Tensor → State → Option State
  | [], s => some s
  | t :: rest, s => (giveHandle j t s).bind (giveHandles j rest)

/-- Bytes of a port's ring: entries of 16 bytes (R429). -/
def ringBytes (c : SensorCfg) : Nat := 16 * 2 ^ bitsNat c.word 24 20

/-- A handle of class RING for each enabled port: it maps the ring's frames (R428). -/
def giveRings (j : Fin 4) : List SensorCfg → State → Option State
  | [], s => some s
  | c :: rest, s =>
    if bitAt c.word 0 && !((s.sns[c.port]?).any (·.ringed)) then none
    else if bitAt c.word 0 then
      (allocHandle .ring j.val false c.ring (ringBytes c) (ringBytes c) s).bind fun y =>
        giveRings j rest (setHandle y.1 (fun h => { h with table := ringTable s c.port h.frames }) y.2)
    else giveRings j rest s

def sensorsOf (s : State) : List SensorCfg :=
  match bodyOf s with
  | some b => b.sensors
  | none => []

/-- The port whose ring a tensor id names. -/
def ringNamed (s : State) (id : Nat) : Option SensorCfg :=
  (sensorsOf s).find? fun c => c.ring.toNat == id && bitAt c.word 0 && id != 0

/-- The handle of a tensor of class ACT or GRAD that is written for the first time (R225). -/
def ensureHandle (j : Fin 4) (id : BitVec 16) (s : State) : Option State :=
  match tensAt s j id, tensorOf s id with
  | some r, some t => if (handleAt s r.handle.toNat).isSome && r.handle != 0 then some s else giveHandle j t s
  | _, _ => none

/-! ### Keys (R20, R407) -/

def keysNamed (s : State) (idx : Nat) : List (BitVec 2) := ((tensorsOf s idx).filterMap (·.keyId)).eraseDups

def keyAt (s : State) (k : BitVec 2) : Option ModelKey := s.sec.keys[k.toNat]

def setKey (k : Fin 4) (f : ModelKey → ModelKey) (s : State) : State :=
  { s with sec := { s.sec with keys := upd s.sec.keys k (fun o => o.map f) } }

/-- Every key that the job names has been installed and loaded. -/
def keysReady (s : State) (idx : Nat) : Bool :=
  (keysNamed s idx).all fun k => match keyAt s k with
    | some m => m.loaded
    | none => false

/-- A job whose tensor table names key k runs or holds. -/
def keyWanted (s : State) (k : Nat) : Bool :=
  (List.finRange 4).any fun j => match s.jobs[j] with
    | some x => (keysNamed s x.index).any fun i => i.toNat == k
    | none => false

/-- The container loads that a starting job needs begin (R407): its tensors are new, so that of a key loaded before
begins again. -/
def beginLoads (idx : Nat) (s : State) : State :=
  (keysNamed s idx).foldl (fun s' k =>
    setKey ⟨k.toNat, k.isLt⟩ (fun m => { m with
      loaded := false, load := m.load.map fun l => { l with active := true, next := 0, written := [] } }) s') s

/-! ### Starting a job (R26, R206, R229, R334) -/

/-- Why a job cannot start, if anything. -/
def startRefusal (idx : Nat) (restore : Bool) (s : State) : Option Byte :=
  match jobEntryOf s idx with
  | none => some stRefused
  | some e =>
    if (slotOfIndex s idx).isSome then some stRefused
    else if restore && e.kind != 1 then some stRefused
    else if (freeJobSlot s).isNone then some stExhausted
    else if drawsSeed e && !restore && s.rng.state == .failed then some stRefused
    else none

/-- The unit configuration written since the last job stopped takes effect (R335), and the slot tokens are EMPTY
(R77, R95). -/
def applyUnitCfg (s : State) : State :=
  emptySlots { s with bnc := vmap (fun b => { b with cfgForce := b.cfg }) s.bnc,
                      pln := vmap (fun p => { p with cfgForce := p.cfg }) s.pln,
                      ws := { s.ws with cfgForce := s.ws.cfg } }

/-- JOIN for one more fabric job (R282), unless a JOIN has been refused (R277). -/
def askJoin (idx : Nat) (s : State) : State :=
  if s.ws.joinRefused then s
  else sendCoord 0x09 (jobArg idx) (.join ⟨s.serial, s.fls.claim.toNat, imageIdOf s, BitVec.ofNat 16 (2 ^ idx)⟩) s

/-- A member asks to take part in one more fabric job (R282). -/
def joinJob (idx : Nat) (s : State) : State :=
  if (meshFabric (meshOf s idx)) && isMember s && !(participants s idx).contains s.ws.rank then
    let c : Change := ⟨s.ws.rank, idx, true⟩
    if isCoord s then changeShut [] (noteChange c s)
    else askJoin idx { s with ws := { s.ws with joinJobs := s.ws.joinJobs.filter (· != idx) ++ [idx] } }
  else s

/-- The seed of a job that draws one is requested (R204). Each module of a fabric job keeps the seed that it draws: R181 has
the members' seeds identical, and the spec does not say how those of a forming workshop come to be so (DESIGN CHOICE, log
entry 54). -/
def askSeed (j : Fin 4) (draw : Bool) (s : State) : State :=
  if draw then askRng ⟨.seed j.val, 1⟩ s else s

/-- Job idx put into slot j; none for a shortage of handles. -/
def placeJob (j : Fin 4) (idx : Nat) (e : JobEntry) (restore : Option Restore) (s : State) : Option State :=
  let f := Job.fresh idx e s
  let x := { f with restore := restore, drawn := f.drawn && restore.isNone }
  let s1 := applyUnitCfg { s with jobs := s.jobs.set j (some x) }
  let ts := (tensorsOf s idx).filter fun t => startsWithHandle t.role
  (giveHandles j ts s1).bind fun s2 => (giveRings j (sensorsOf s2) s2).map fun s3 =>
    joinJob idx (askSeed j (drawsSeed e && restore.isNone) (beginLoads idx s3))

/-- A job starts: its slot, or the status that turns it away. -/
def startJob (idx : Nat) (restore : Option Restore) (s : State) : (Byte ⊕ Fin 4) × State :=
  match startRefusal idx restore.isSome s with
  | some st => (.inl st, s)
  | none =>
    match freeJobSlot s, jobEntryOf s idx with
    | some j, some e =>
      match placeJob j idx e restore s with
      | some s1 => (.inr j, s1)
      | none => (.inl stExhausted, exhausted j.val s)
    | _, _ => (.inl stExhausted, s)

/-! ### The hold (R20, R21, R188) -/

/-- A fabric job's place: this module takes part, and enough members do (R177). -/
def placeReady (s : State) (x : Job) : Bool :=
  let m := meshOf s x.index
  !x.fabric || (isMember s && (coordIn s x.index).member &&
    decide (max 1 (m.tF * m.pF) ≤ (participants s x.index).length) && x.fetch.isEmpty &&
    !endHold s)

/-- The hold ends. -/
def holdOver (s : State) (x : Job) : Bool :=
  x.phase == .holding && !x.parked && x.seed.isSome && x.restore.isNone && keysReady s x.index && placeReady s x &&
    !quiescing s

/-! ### Requests of an inference job (R174) -/

/-- A request begins; its latency counts from t0. -/
def beginRequest (j : Fin 4) (t0 : Nat) (s : State) : State :=
  setJob j (fun y => { y with running := some t0, outAt := none, phase := .compute, pos := vrep 4 0, glueQ := [], exp := [], expKept := [], expRet := [], expGone := [],
                              norms := [], normReqs := [], normOut := [] }) s

/-- The job may take requests. -/
def serves (s : State) (x : Job) : Bool :=
  !x.train && !x.parked && (x.phase == .boundary || x.phase == .compute) && x.stop.isNone && !quiescing s

/-- A trigger: a request starts, or waits for the one under way. -/
def trigger (j : Fin 4) (x : Job) (s : State) : State :=
  let t := s.aon.time.toNat
  if x.running.isSome then setJob j (fun y => { y with waiting := y.waiting ++ [t] }) s
  else beginRequest j t s

/-! ### Snapshots (R184, R186) -/

/-- The snapshot slot written next: the older of the two. -/
def snapSlot (s : State) : Bool :=
  match s.fls.snaps[0], s.fls.snaps[1] with
  | none, _ => false
  | some _, none => true
  | some a, some b => decide (b.1.toNat < a.1.toNat)

/-- The snapshot in force: the newer. -/
def snapInForce (s : State) : Option SnapPart :=
  match s.fls.snaps[0], s.fls.snaps[1] with
  | some a, some b => if b.1.toNat < a.1.toNat then some a.2 else some b.2
  | some a, none => some a.2
  | none, some b => some b.2
  | none, none => none

/-- A code word of the snapshot in force reads uncorrectable (R350). -/
def snapBroken (s : State) : Bool :=
  match snapInForce s with
  | some v =>
    let b := if snapSlot s then 2176 else 2624
    s.fls.words.any fun w => w.2 == .bad && decide (b * 2048 ≤ w.1) && decide (w.1 * 32 < b * 65536 + 64 + v.bytes)
  | none => false

/-- Bytes that a part may take in the SNAP region written next (R353, R361). -/
def snapArea (s : State) : Nat :=
  let base := if snapSlot s then 2624 else 2176
  let gone := s.fls.lost.countP fun b => decide (base ≤ b) && decide (b < base + 448)
  (448 - gone) * 65536 - 64

/-- The number of the next snapshot written to the flash. -/
def snapNumber (s : State) : DWord :=
  let n := fun (o : Option (DWord × SnapPart)) => match o with
    | some x => x.1.toNat
    | none => 0
  BitVec.ofNat 64 (max (n s.fls.snaps[0]) (n s.fls.snaps[1]) + 1)

/-- Region n accepts a program or erase by commands (R354). -/
def writable (n : Fin 16) (s : State) : Bool :=
  match s.fls.prot[n] with
  | .unlocked => true
  | .passwordLocked => bitAt s.fls.sessions n.val
  | .permanent => false

/-- A flash fault with its info (R365): block, region (16: system area) and the fault's bit. -/
def flsFault (bit block region : Nat) (s : State) : State :=
  { s with fls := { s.fls with fault := orBit s.fls.fault bit,
                               faultInfo := BitVec.ofNat 32 (block + region * 2 ^ 13 + bit * 2 ^ 18) } }

/-- The first block of each region (R341). -/
def regionBase (n : Nat) : Nat :=
  [8, 40, 72, 80, 88, 96, 128, 1152, 2176, 2624, 3072, 3584, 3616, 3716, 3816, 3916].getD n 0

/-- A region that is not writable turns a command away (R355). -/
def protectedFault (n : Nat) (s : State) : State := post (ev 0x020B) (flsFault 9 (regionBase n) n s)

/-- The payload of a snapshot's DONE (R184). -/
def snapDone (p : Pend) (part : Part) (s : State) : State :=
  let n := partBytes s part
  let st := part.hdr.step.toNat
  answer p stDone true (BitVec.ofNat 32 n) (BitVec.ofNat 32 (n / 2 ^ 32 % 2 ^ 16 + st / 2 ^ 32 % 2 ^ 16 * 2 ^ 16))
    (BitVec.ofNat 32 st) part.hdr.epoch s

end Sys2Proof.Machine
end

