-- ==== Sys2Proof/Machine/TrainOps.lean ====
section
/-! DEFINITION. Shared operations of the training step (05_training_step.md) and of its collectives
(10_collectives.md): gradients, the glue-up (R298 to R303), tallies (R306), the optimizer's stores (R147 to R149), the
all-gather (R305), and what COMMIT does (R142, R154, R159, R189). -/

namespace Sys2Proof.Machine

/-! ### Words in handles -/

def toWords : List Byte → List Word
  | a :: b :: c :: d :: t => BitVec.ofNat 32 (leNat [a, b, c, d]) :: toWords t
  | _ => []

def ofWords (ws : List Word) : List Byte := ws.flatMap fun w => leBytes 4 w.toNat

/-! ### The trained tensors of a job (R133, R180) -/

def trained (t : Tensor) : Bool := t.role == .veneerW || t.role == .expert

def trainedOf (s : State) (idx : Nat) : List Tensor := (tensorsOf s idx).filter trained

/-- The tensor of a role that belongs to weight w. -/
def partOf (s : State) (w : Tensor) (r : Role) : Option Tensor :=
  (tensorsOf s w.job).find? fun t => t.role == r && t.veneer == w.id

/-- Position d of this module and D of the job (R177): 0 and 1 without a fabric axis in force. -/
def dOf (s : State) (idx : Nat) : Nat := (coordIn s idx).d
def dTotOf (s : State) (idx : Nat) : Nat := max 1 (coordIn s idx).dTot

/-- The members whose records a tally combines, ascending. -/
def tallyRanks (s : State) (x : Job) : List Nat := if onFabric s x then jobRanks s x.index else [rankNow s]

/-- This module owns elements of the trained tensor. -/
def ownsSome (s : State) (idx : Nat) (w : Tensor) : Bool :=
  let o := ownRange s idx w
  decide (o.1 < o.2)

/-- An expert that another module trains. -/
def foreignExpert (s : State) (idx : Nat) (w : Tensor) : Bool := w.role == .expert && !ownsSome s idx w

/-! ### G and the collective header -/

/-- Words lo to lo + n − 1 of G of weight w. -/
def gWords (s : State) (j : Fin 4) (w : Tensor) (lo n : Nat) : List Word :=
  match (partOf s w .grad).bind fun g => tensAt s j g.id with
  | some r => toWords (readHandle s r.handle.toNat (4 * lo) (4 * n))
  | none => []

/-- The handle of G of weight w. -/
def gHandle (s : State) (j : Fin 4) (w : Tensor) : Nat :=
  match (partOf s w .grad).bind fun g => tensAt s j g.id with
  | some r => r.handle.toNat
  | none => 0

/-- What a read of words lo to lo + n − 1 of G does to the stockroom. -/
def useG (j : Fin 4) (w : Tensor) (lo n : Nat) (s : State) : State := useHandle (gHandle s j w) (4 * lo) (4 * n) s

/-- Frames of G of weight w are in the host spill region: an access to them waits for their page-in (R235). -/
def gSpilled (s : State) (j : Fin 4) (w : Tensor) : Bool :=
  match handleAt s (gHandle s j w) with
  | some x => x.table.any fun f => f.2.spilled
  | none => false

/-- Words written into G of weight w from element lo on. -/
def putG (j : Fin 4) (w : Tensor) (lo : Nat) (xs : List Word) (s : State) : State :=
  match (partOf s w .grad).bind fun g => tensAt s j g.id with
  | some r => pokeOr j r.handle.toNat (4 * lo) (ofWords xs) s
  | none => s

/-! ### Early arrivals (R295) -/

/-- Bytes held in frames of class GRAD of job j until they are used: their handle, or none for a shortage (R229). -/
def holdBytes (j : Fin 4) (bs : List Byte) (s : State) : Option (Nat × State) :=
  (allocHandle .grad j.val false 0 (max 1 bs.length) (max 1 bs.length) s).bind fun y =>
    (writeHandle y.1 0 bs y.2).map fun s1 => (y.1, s1)

/-- n words held under a handle. -/
def heldWords (s : State) (h n : Nat) : List Word := toWords (readHandle s h 0 (4 * n))

/-- A chunk of weight w held under an offset. -/
def holdChunk (j : Fin 4) (w : Tensor) (off : Nat) (xs : List Word) (s : State) : State :=
  match holdBytes j (ofWords xs) s with
  | none => fatalFault j (exhausted j.val s)
  | some (h, s1) => setTens j w.id (fun r => { r with waiting := r.waiting ++ [(off, h, xs.length)] }) s1

def colHdr (j : Fin 4) (x : Job) (id : BitVec 16) (flags : Byte) (off count : Nat) : ColHdr :=
  ⟨id, BitVec.ofNat 8 j.val, flags, BitVec.ofNat 32 x.step, BitVec.ofNat 40 off, BitVec.ofNat 24 count⟩

/-! ### Tallies (R158, R306) -/

/-- Squares of values summed in ascending order in a pair, rounded once to W80. -/
def squareSum (vs : List Val) : Val := w80 (convSum (vs.foldl (fun a v => accAddV a (vMul v v)) Acc.zero) none)

/-- The W80 records of all participants added in ascending rank in a pair (R158): the pair's value, not yet rounded. -/
def rankSum (ranks : List Nat) (recs : List (Nat × Val)) : Val :=
  convSum (ranks.foldl (fun a r => match recs.find? (·.1 == r) with
    | some v => accAddV a v.2
    | none => a) Acc.zero) none

/-- A tally record to every other participant. -/
def sendTally (j : Fin 4) (x : Job) (id : BitVec 16) (t : Tally) (s : State) : State :=
  let others := (tallyRanks s x).filter (· != rankNow s)
  let bytes := match t with
    | .g _ => 32
    | .fin .. => 64
  others.foldl (fun s' r => send (BitVec.ofNat 16 r) 0x43 0 (.tally (colHdr j x id 0 0 1) t) s')
    (bumpCol 2 (bytes * others.length) s)

/-- The span from the first hand-over of the step to the last owner write so far (COL_GLUE_LAST). -/
def noteOwner (j : Fin 4) (s : State) : State :=
  setJob j (fun y => { y with glueSpan := s.aon.time.toNat - y.glueFirst.getD s.aon.time.toNat }) s

/-- G̃ of weight w is final on this module, and its gauge travels (R299, R306). -/
def gtDone (j : Fin 4) (w : Tensor) (s : State) : State :=
  match s.jobs[j] with
  | none => s
  | some x =>
    let o := ownRange s x.index w
    let v := squareSum ((gWords s j w o.1 (o.2 - o.1)).map ofB32)
    sendTally j x w.id (.g (w80Wire v)) (setTens j w.id (fun r => { r with
      gtFinal := true, tallyG := (rankNow s, v) :: r.tallyG }) (useG j w o.1 (o.2 - o.1) s))

/-- Weight w leaves the glue-up of this module. -/
def leaveGlue (j : Fin 4) (w : Tensor) (s : State) : State :=
  setJob j (fun y => { y with glueIn := y.glueIn.filter (· != w.id) }) (setTens j w.id (fun r => { r with direct := [] }) s)

/-! ### The glue-up (R298 to R303) -/

/-- Chunks: cut at every shard boundary and every 4,096 elements; first element, number, owner. -/
def chunkRuns : Nat → Nat → Nat → Nat → List (Nat × Nat × Nat)
  | 0, _, _, _ => []
  | n + 1, d, lo, hi => if lo < hi then (lo, min 4096 (hi - lo), d) :: chunkRuns n d (lo + 4096) hi else []

def chunksOf (n dTot : Nat) : List (Nat × Nat × Nat) :=
  (List.range dTot).flatMap fun d =>
    chunkRuns ((shardLo n dTot (d + 1) - shardLo n dTot d) / 4096 + 1) d (shardLo n dTot d) (shardLo n dTot (d + 1))

def isFin32 (w : Word) : Bool := vIsFin (ofB32 w)

/-- R303. -/
def compAdd (s e g : Word) : Word × Word :=
  let t := b32Add s g
  if !isFin32 t then (t, 0)
  else
    let z := b32Sub t s
    let err := b32Add (b32Sub s (b32Sub t z)) (b32Sub g z)
    (t, b32Add e err)

def compFinal (s e : Word) : Word := if vIsZero (ofB32 e) || !isFin32 s then s else b32Add s e

/-- A contribution as the first member sends it. -/
def glueStart (comp : Bool) (gs : List Word) : List Word := if comp then gs.flatMap fun g => [g, 0] else gs

/-- A member's own chunk added to what it receives. -/
def glueAdd (comp : Bool) : List Word → List Word → List Word
  | xs, [] => xs
  | a :: b :: xs, g :: gs =>
    if comp then
      let r := compAdd a b g
      r.1 :: r.2 :: glueAdd comp xs gs
    else b32Add a g :: glueAdd comp (b :: xs) gs
  | [a], g :: _ => [b32Add a g]
  | [], _ => []

/-- What the owner writes. -/
def glueFinish (comp : Bool) : List Word → List Word
  | a :: b :: t => if comp then compFinal a b :: glueFinish comp t else a :: glueFinish comp (b :: t)
  | t => t

/-- Bytes of a chunk message after its header (R301, R303). -/
def glueBytes (xs : List Word) : Nat := 16 + 4 * xs.length

def compFlag (w : Tensor) : Byte := if w.comp then 1 else 0

def sendGlue (kind : Byte) (dst : Nat) (j : Fin 4) (x : Job) (w : Tensor) (off : Nat) (xs : List Word) (s : State) :
    State :=
  let n := if w.comp then xs.length / 2 else xs.length
  send (BitVec.ofNat 16 dst) kind 0 (.words (colHdr j x w.id (compFlag w) off n) xs) (bumpCol 0 (glueBytes xs) s)

/-- The last chunk of the owned shard of weight w is written: its G̃ is final (R299). -/
def shardOver (j : Fin 4) (w : Tensor) (s : State) : State :=
  match s.jobs[j], tensAt s j w.id with
  | some x, some r =>
    let o := ownRange s x.index w
    if r.gFinal && !r.gtFinal && x.glueIn.contains w.id && r.owned == o.2 - o.1 then gtDone j w s else s
  | _, _ => s

/-- The glue-up of weight w has nothing left on this module once its G̃ is final and every chunk has passed. -/
def glueOver (j : Fin 4) (w : Tensor) (s : State) : State :=
  let s1 := shardOver j w s
  match s1.jobs[j], tensAt s1 j w.id with
  | some x, some r =>
    let sent := if detMode s then decide ((chunksOf w.elements (dTotOf s x.index)).length ≤ r.direct.length) else true
    if r.gtFinal && x.glueIn.contains w.id && sent then leaveGlue j w s1 else s1
  | _, _ => s1

/-- The owner writes a completed chunk into G̃. -/
def ownChunk (j : Fin 4) (w : Tensor) (off : Nat) (xs : List Word) (s : State) : State :=
  let ys := glueFinish w.comp xs
  noteOwner j (setTens j w.id (fun r => { r with owned := r.owned + ys.length }) (putG j w off ys s))

/-- A chunk has passed this member of the chain. -/
def chunkPassed (j : Fin 4) (w : Tensor) (off : Nat) (s : State) : State :=
  setTens j w.id (fun r => { r with direct := r.direct ++ [(off, 1)] }) s

/-- Member d > 0 of the chain adds its own chunk to the one received and passes it on, or completes it. -/
def passChunk (j : Fin 4) (w : Tensor) (off : Nat) (xs : List Word) (s : State) : State :=
  match s.jobs[j] with
  | none => s
  | some x =>
    let dTot := dTotOf s x.index
    let d := dOf s x.index
    let n := if w.comp then xs.length / 2 else xs.length
    let ys := glueAdd w.comp xs (gWords s j w off n)
    let s1 := chunkPassed j w off (useG j w off n s)
    let ranks := groupRanks s x.index
    if d + 1 < dTot then sendGlue 0x40 (ranks.getD (d + 1) 0) j x w off ys s1
    else
      let owner := match (chunksOf w.elements dTot).find? (·.1 == off) with
        | some c => c.2.2
        | none => d
      if owner = d then ownChunk j w off ys s1 else sendGlue 0x41 (ranks.getD owner 0) j x w off ys s1

/-- Member 0 sends its chunks. -/
def startChain (j : Fin 4) (x : Job) (w : Tensor) (cs : List (Nat × Nat × Nat)) (s : State) : State :=
  let ranks := groupRanks s x.index
  cs.foldl (fun s' c => chunkPassed j w c.1
    (sendGlue 0x40 (ranks.getD 1 0) j x w c.1 (glueStart w.comp (gWords s' j w c.1 c.2.1)) (useG j w c.1 c.2.1 s'))) s

/-- A contribution g, element by element, to a chunk that this member owns, in arrival order (R302): the sum so far is held
in staging frames. -/
def directAdd (j : Fin 4) (w : Tensor) (dTot off : Nat) (gs : List Word) (s : State) : State :=
  match tensAt s j w.id with
  | none => s
  | some r =>
    let held := r.waiting.find? (·.1 == off)
    let sum := match held with
      | some p => glueAdd w.comp (heldWords s p.2.1 p.2.2) gs
      | none => glueStart w.comp gs
    let n := match r.direct.find? (·.1 == off) with
      | some p => p.2 + 1
      | none => 1
    let s1 := match held with
      | some p => freeHandle p.2.1 s
      | none => s
    let s2 := setTens j w.id (fun t => { t with
      waiting := t.waiting.filter (·.1 != off), direct := (off, n) :: t.direct.filter (·.1 != off) }) s1
    if n < dTot then holdChunk j w off sum s2 else ownChunk j w off sum s2

/-- Every member sends its chunks to their owners. -/
def startDirect (j : Fin 4) (x : Job) (w : Tensor) (cs : List (Nat × Nat × Nat)) (s : State) : State :=
  let d := dOf s x.index
  let ranks := groupRanks s x.index
  (cs.filter (·.2.2 != d)).foldl (fun s' c =>
    let gs := gWords s' j w c.1 c.2.1
    sendGlue 0x49 (ranks.getD c.2.2 0) j x w c.1 (glueStart w.comp gs) (useG j w c.1 c.2.1 s')) s

/-- In non-deterministic mode this member's contribution to the chunks that it owns arrives as its own G becomes final
(R302). -/
def ownDirect (j : Fin 4) (w : Tensor) (s : State) : State :=
  match s.jobs[j] with
  | none => s
  | some x =>
    let dTot := dTotOf s x.index
    if detMode s || decide (dTot ≤ 1) then s
    else ((chunksOf w.elements dTot).filter (·.2.2 == dOf s x.index)).foldl (fun s' c =>
      directAdd j w dTot c.1 (gWords s' j w c.1 c.2.1) (useG j w c.1 c.2.1 s')) s

/-- The chunk of weight w that passes this member of the chain next: chunks go on in ascending order (R299). -/
def nextChunk (s : State) (j : Fin 4) (w : Tensor) : Option Nat :=
  match s.jobs[j], tensAt s j w.id with
  | some x, some r => ((chunksOf w.elements (dTotOf s x.index))[r.direct.length]?).map (·.1)
  | _, _ => none

/-- Held chunks whose turn has come; the first argument bounds their number. -/
def passWaiting (j : Fin 4) (w : Tensor) : Nat → State → State
  | 0, s => s
  | n + 1, s =>
    match tensAt s j w.id with
    | none => s
    | some r => match r.waiting.find? fun c => nextChunk s j w == some c.1 with
      | none => s
      | some c => passWaiting j w n (passChunk j w c.1 (heldWords s c.2.1 c.2.2) (freeHandle c.2.1
          (setTens j w.id (fun t => { t with waiting := t.waiting.filter (· != c) }) s)))

/-- Every held chunk whose turn has come. -/
def passHeld (j : Fin 4) (w : Tensor) (s : State) : State :=
  match tensAt s j w.id with
  | some r => passWaiting j w r.waiting.length s
  | none => s

/-- A tensor enters the glue-up (R299, R301, R302). -/
def enterGlue (j : Fin 4) (x : Job) (w : Tensor) (s : State) : State :=
  let dTot := dTotOf s x.index
  let s1 := setJob j (fun y => { y with glueQ := y.glueQ.filter (· != w.id), glueIn := y.glueIn ++ [w.id] }) (colMark j w.id s)
  if dTot ≤ 1 then leaveGlue j w (gtDone j w (noteOwner j s1))
  else
    let cs := chunksOf w.elements dTot
    if !detMode s then glueOver j w (startDirect j x w cs s1)
    else if dOf s x.index = 0 then glueOver j w (startChain j x w cs s1)
    else glueOver j w (passHeld j w s1)

/-! ### The all-gather (R305) -/

/-- Elements received, or written, of a PART. -/
def gotCount (r : TRun) (part : Nat) : Nat := ((r.gathered.filter (·.1 == part)).map (·.2.2)).sum

/-- Expert e lives on this module as the replica (R180). -/
def replicaHere (s : State) (x : Job) (w : Tensor) : Bool :=
  x.rho2 && (expertNo s w + 1) % dTotOf s x.index == dOf s x.index && !ownsSome s x.index w

/-- Shares of the previous member's moment shard, which this module mirrors. -/
def mirrorCount (s : State) (x : Job) (t : Option Tensor) : Nat :=
  let n := dTotOf s x.index
  match t with
  | some m => if n ≤ 1 then 0 else
      let p := (dOf s x.index + n - 1) % n
      shardLo m.elements n (p + 1) - shardLo m.elements n p
  | none => 0

def gotAll (s : State) (j : Fin 4) (t : Option Tensor) (part n : Nat) : Bool :=
  match t with
  | some u => match tensAt s j u.id with
    | some r => decide (n ≤ gotCount r part)
    | none => true
  | none => true

/-- This module holds every shard and share of weight w that is addressed to it. -/
def gatherDone (s : State) (j : Fin 4) (x : Job) (w : Tensor) : Bool :=
  let m := partOf s w .veneerM
  let v := partOf s w .veneerV
  if w.role == .expert then
    !replicaHere s x w || (gotAll s j (some w) 3 w.elements &&
      (match m with
       | some t => gotAll s j m 3 t.elements
       | none => true) &&
      (match v with
       | some t => gotAll s j v 3 t.elements
       | none => true))
  else
    let o := ownRange s x.index w
    gotAll s j (some w) 0 (w.elements - (o.2 - o.1)) && gotAll s j m 1 (mirrorCount s x m) &&
      gotAll s j v 2 (mirrorCount s x v)

/-- Elements lo to hi − 1 of a tensor's alternate buffer, sent in GATHER messages. -/
def sendRuns (dst : Nat) (j : Fin 4) (x : Job) (id : BitVec 16) (part : Nat) (t : Tensor) (lo hi : Nat) (s : State) :
    State :=
  match tensAt s j t.id with
  | none => s
  | some r =>
    let w := fmtBytes t.fmt
    (runsOf lo hi).foldl (fun s' c =>
      let bs := shardBytes s' t r true c.1 (c.1 + c.2)
      send (BitVec.ofNat 16 dst) 0x42 0 (.bytes (colHdr j x id (BitVec.ofNat 8 (part * 4)) c.1 c.2) bs)
        (bumpCol 1 (16 + c.2 * w) s')) s

def sendShare (dst : Nat) (j : Fin 4) (x : Job) (id : BitVec 16) (part : Nat) (t : Option Tensor) (s : State) : State :=
  match t with
  | some u => let o := ownRange s x.index u; sendRuns dst j x id part u o.1 o.2 s
  | none => s

/-- The owner's GATHER messages of weight w: its shard to the next member, its moments to the mirror, an expert's
state to its replica. -/
def sendGather (j : Fin 4) (x : Job) (w : Tensor) (s : State) : State :=
  let n := dTotOf s x.index
  if n ≤ 1 || !ownsSome s x.index w then s
  else
    let next := (groupRanks s x.index).getD ((dOf s x.index + 1) % n) 0
    let m := partOf s w .veneerM
    let v := partOf s w .veneerV
    if w.role == .expert then
      if x.rho2 then
        let s1 := sendShare next j x w.id 3 (some w) s
        let s2 := match m with
          | some t => sendShare next j x t.id 3 m s1
          | none => s1
        match v with
        | some t => sendShare next j x t.id 3 v s2
        | none => s2
      else s
    else sendShare next j x w.id 2 v (sendShare next j x w.id 1 m (sendShare next j x w.id 0 (some w) s))

/-! ### The end of the update (R146, R152, R306) -/

def allTrained (s : State) (j : Fin 4) (x : Job) (p : TRun → Bool) : Bool :=
  (trainedOf s x.index).all fun w => match tensAt s j w.id with
    | some r => p r
    | none => true

/-- The tensors that the step skips (R146): those whose q was not finite, or every one of them. -/
def skips (s : State) (j : Fin 4) (x : Job) (w : Tensor) : Bool :=
  let one := match tensAt s j w.id with
    | some r => r.nonfinite
    | none => false
  let any := !allTrained s j x fun r => !r.nonfinite
  match trainOf s x.index with
  | some t => if t.skipTensor then one else any
  | none => any

/-- A count that saturates at 0xFFFF_FFFF (R159, R306). -/
def sat32 (n : Nat) : Word := BitVec.ofNat 32 (min n (2 ^ 32 - 1))

/-- This module's TALLY_END record of a tensor. -/
def endRecord (s : State) (j : Fin 4) (x : Job) (t : Tensor) (r : TRun) : TallyEnd :=
  let sk := trained t && skips s j x t
  { w2 := if sk then Val.zero else r.myW2, dw2 := if sk then Val.zero else r.myDw2, amax := r.amax,
    ovf := sat32 r.dOvf, nan := sat32 r.dNan, unf := sat32 r.dUnf }

def tallyEndOne (j : Fin 4) (x : Job) (s : State) (t : Tensor) : State :=
  match tensAt s j t.id with
  | none => s
  | some r =>
    let e := endRecord s j x t r
    sendTally j x t.id (.fin (w80Wire e.w2) (w80Wire e.dw2) e.amax e.ovf e.nan e.unf) (setTens j t.id (fun y => { y with tallyEnd := (rankNow s, e) :: y.tallyEnd }) s)

/-- This module has sent its TALLY_END records. -/
def tallySent (s : State) (x : Job) : Bool :=
  x.tens.all fun r => r.tallyEnd.any (·.1 == rankNow s)

/-- TALLY_END goes out once this member's all-gather is complete and its records hold every count of the step (R152,
R306). -/
def tryTallyEnd (j : Fin 4) (s : State) : State :=
  match s.jobs[j] with
  | none => s
  | some x =>
    if x.phase == .update && !tallySent s x && listsDone s j x && allTrained s j x (fun r => r.optDone && r.fReady) &&
        (trainedOf s x.index).all (gatherDone s j x) then
      (tensorsOf s x.index).foldl (tallyEndOne j x) s
    else s

/-- An entry of a bench that has ended, and the tallies that waited for it. -/
def entryOver (b : Fin 4) (s : State) : State := eachSlot tryTallyEnd (entryEnd b s)

/-- Every bench whose entry may have ended. -/
def entriesOver (s : State) : State := eachSlot tryTallyEnd (eachSlot entryEnd s)

/-- Experts that other modules train need nothing here: +0 gauges, and no optimizer. -/
def passForeign (j : Fin 4) (x : Job) (s : State) : State :=
  ((trainedOf s x.index).filter (foreignExpert s x.index)).foldl (fun s' w =>
    gtDone j w (setTens j w.id (fun r => { r with optDone := true }) s')) s

/-- COMPUTE ends when every G is final (R163). -/
def checkUpdate (j : Fin 4) (s : State) : State :=
  match s.jobs[j] with
  | none => s
  | some x =>
    if x.phase == .compute && x.train && allTrained s j x (·.gFinal) then
      tryTallyEnd j (passForeign j x (colFresh j (setJob j (fun y => { y with phase := .update }) s)))
    else s

/-- G of weight w is final: it is handed to the glue-up (R136), which an expert does not take (R310). -/
def finalG (j : Fin 4) (w : Tensor) (s : State) : State :=
  let s1 := setTens j w.id (fun r => { r with gFinal := true, early := [] }) s
  checkUpdate j (if w.role == .expert then gtDone j w s1
    else ownDirect j w (setJob j (fun y => { y with
      glueQ := y.glueQ ++ [w.id], glueFirst := some (y.glueFirst.getD s.aon.time.toNat) }) s1))

/-! ### The optimizer's stores (R147 to R149, R158) -/

/-- The purpose code of a store (R148). -/
def optPurpose (r : Role) : Byte := if r == .veneerM then 2 else if r == .veneerV then 3 else 1

/-- The conversion of an optimizer's store: rounding as R148 fixes it, and no bias. -/
def optConv (s : State) (x : Job) (t : Tensor) (i : Nat) : Conv :=
  let p := optPurpose t.role
  { convOf s x t p 0 i with
    mode := if t.role == .veneerV && t.fmt == 2 then .near else .stoch (draw16 x.kg t.id (drawStep x) p i),
    bias := none }

/-- One element stored into the alternate buffer of W, M or V; `f` adapts the conversion (R104). -/
def optStoreBy (f : Conv → Conv) (j : Fin 4) (t : Tensor) (i : Nat) (a : Acc) (s : State) : State :=
  match s.jobs[j], tensAt s j t.id with
  | some x, some r =>
    let y := convertElem j t (f (optConv s x t i)) a s
    pokeOr j r.handle.toNat (bufBase t (!r.cur) + i * fmtBytes t.fmt) y.1 y.2
  | _, _ => s

def optStore (j : Fin 4) (t : Tensor) (i : Nat) (a : Acc) (s : State) : State := optStoreBy id j t i a s

/-- The gauges of the owned shard: new weights, and their differences from the old (R158). -/
def gaugesOf (s : State) (x : Job) (w : Tensor) (r : TRun) : Val × Val :=
  let o := ownRange s x.index w
  let is := List.range' o.1 (o.2 - o.1)
  (squareSum (is.map (elemVal s w r true)),
   squareSum (is.map fun i => vSub (elemVal s w r true i) (elemVal s w r false i)))

/-- The optimizer has written the owned shard of w. -/
def optFinish (j : Fin 4) (w : Tensor) (s : State) : State :=
  match s.jobs[j], tensAt s j w.id with
  | some x, some r =>
    let g := gaugesOf s x w r
    tryTallyEnd j (sendGather j x w (setTens j w.id (fun y => { y with optDone := true, myW2 := g.1, myDw2 := g.2 }) s))
  | _, _ => s

/-- A store of a microprogram that the image names as its optimizer (R134, R148, R149): the alternate buffer, with the
element noted; once W, M and V of the owned shard are written, the optimizer has run. A plane reaches no drawer (R98):
that such a store lands in the drawer at once is DEDUCED from R134 and R148 (log entry 65). -/
def ownOptStore (f : Conv → Conv) (j : Fin 4) (t : Tensor) (i : Nat) (a : Acc) (s : State) : State :=
  match s.jobs[j], baseOf s t with
  | some x, some w =>
    let s1 := setTens j t.id (fun r => { r with gathered := (4, i, 1) :: r.gathered.filter (· != (4, i, 1)) })
      (optStoreBy f j t i a s)
    let o := ownRange s x.index w
    let full := fun (u : Option Tensor) => gotAll s1 j u 4 (o.2 - o.1)
    if full (some w) && full (partOf s w .veneerM) && full (partOf s w .veneerV) then optFinish j w s1 else s1
  | _, _ => s

/-! ### COMMIT -/

/-- The workshop totals of a tensor's TALLY_END records. -/
def endTotals (ranks : List Nat) (r : TRun) : TallyEnd :=
  let es := r.tallyEnd.filter fun e => ranks.contains e.1
  { w2 := rankSum ranks (es.map fun e => (e.1, e.2.w2)), dw2 := rankSum ranks (es.map fun e => (e.1, e.2.dw2)),
    amax := es.foldl (fun a e => maxMag a e.2.amax) 0,
    ovf := sat32 ((es.map fun e => e.2.ovf.toNat).sum), nan := sat32 ((es.map fun e => e.2.nan.toNat).sum),
    unf := sat32 ((es.map fun e => e.2.unf.toNat).sum) }

/-- The true amax of a tensor: the workshop's, freed of k_in (R142). -/
def trueAmax (s : State) (x : Job) (t : Tensor) (tot : TallyEnd) : Val := vScale (-(scaleIn s x t)) (ofB32 tot.amax)

/-- The new scale of a tensor and whether it was held at a limit (R142). -/
def nextK (t : Tensor) (hist : List Val) (k : Int) : Int × Bool :=
  let amx := hist.foldl vMaxNum Val.zero
  if vIsZero amx then (k, false)
  else
    let lim := vDiv (maxFin (fmtOf t.fmt) false) (vOfNat (max 1 t.margin))
    let n := largestK amx lim
    if n < t.kLo then (t.kLo, true) else if t.kHi < n then (t.kHi, true) else (n, false)

/-- R142 for one tensor. k_prev takes k in a skipped step too, as R142's steps have it, though the buffers of M and V do not
flip (DESIGN CHOICE, log entry 56). -/
def scaleUpdate (t : Tensor) (a : Val) (r : TRun) : TRun :=
  let v := if vIsFin a then a else Val.zero
  let h := (r.hist ++ [v]).drop (r.hist.length + 1 - t.hist)
  let n := nextK t h r.k
  { r with hist := h, kPrev := r.k, k := n.1, scaleLimit := n.2 }

/-- What COMMIT does to one tensor's state. -/
def commitTens (s : State) (j : Fin 4) (x : Job) (r : TRun) : TRun :=
  match tensorOf s r.id with
  | none => r
  | some t =>
    let ranks := tallyRanks s x
    let tot := endTotals ranks r
    let g2 := rankSum ranks r.tallyG
    let skip := match baseOf s t with
      | some w => isVeneer t.role && skips s j x w
      | none => false
    let r1 := if isVeneer t.role && !skip then { r with cur := !r.cur, bc1 := r.bn1, bc2 := r.bn2 } else r
    let r2 := if t.autoScale then scaleUpdate t (trueAmax s x t tot) r1 else { r1 with scaleLimit := false }
    { r2 with skipped := skip, w2 := if trained t then toB64 tot.w2 else 0, g2 := if trained t then toB64 g2 else 0,
              dw2 := if trained t then toB64 tot.dw2 else 0, amax := 0 }

/-- The telemetry record of a tensor, from its state before and after the commit (R159). CLIP_C of a tensor that has no
clamp, because it is no veneer, reads 1.0 (DESIGN CHOICE, log entry 57). -/
def telRecord (s : State) (x : Job) (t : Tensor) (before after : TRun) : TelRec :=
  let tot := endTotals (tallyRanks s x) before
  let w := trained t
  let clamped := w && !before.nonfinite && vLt (ofB32 before.c) vOne
  { step := BitVec.ofNat 64 x.step, epoch := epochNow s, tensor := t.id,
    flags := BitVec.ofNat 16 ((if after.skipped then 1 else 0) + (if clamped then 2 else 0) +
      (if after.scaleLimit then 4 else 0) + (if w && before.nonfinite then 8 else 0)),
    w2 := after.w2, g2 := after.g2, dw2 := after.dw2, clipC := if w then before.c else b32One,
    k := if t.autoScale then BitVec.ofInt 8 after.k else 0, ovf := tot.ovf, nan := tot.nan, unf := tot.unf,
    amax := roundUp32 (trueAmax s x t tot) }

/-- The 64 bytes of a telemetry record (R159). -/
def telBytes (r : TelRec) : List Byte :=
  leBytes 8 r.step.toNat ++ leBytes 4 r.epoch.toNat ++ leBytes 2 r.tensor.toNat ++ leBytes 2 r.flags.toNat ++
  leBytes 8 r.w2.toNat ++ leBytes 8 r.g2.toNat ++ leBytes 8 r.dw2.toNat ++ leBytes 4 r.clipC.toNat ++
  leBytes 1 r.k.toNat ++ List.replicate 3 0 ++ leBytes 4 r.ovf.toNat ++ leBytes 4 r.nan.toNat ++
  leBytes 4 r.unf.toNat ++ leBytes 4 r.amax.toNat

/-- A telemetry record cannot be written: the ring is full, or no session is there to seal it (R160). -/
def telDropped (s : State) : Bool :=
  effLog2 s.trn.telLog2 != 0 && ((sealCounter s).isNone || ringFull s.trn.wr s.trn.rd)

/-- A telemetry record written to the ring, or dropped (R160). -/
def putTel (r : TelRec) (s : State) : State :=
  let log2 := effLog2 s.trn.telLog2
  if log2 = 0 then s
  else
    match sealCounter s with
    | some c =>
      if ringFull s.trn.wr s.trn.rd then
        bumpTelDrops { s with trn := { s.trn with fault := orBit s.trn.fault 1 } }
      else
        let s1 := bumpSeal { s with trn := { s.trn with
          ring := tabPut s.trn.wr.index.toNat (sealedBytes s c (telBytes r)) s.trn.ring, wr := ringNext log2 s.trn.wr } }
        if s1.mgmt.stream then { s1 with mgmt := { s1.mgmt with out := s1.mgmt.out ++ [.pushTel r] } } else s1
    | none => bumpTelDrops { s with trn := { s.trn with fault := orBit s.trn.fault 1 } }

/-- Tensors of a list in ascending id. -/
def insertTens (t : Tensor) : List Tensor → List Tensor
  | [] => [t]
  | u :: r => if t.id.toNat ≤ u.id.toNat then t :: u :: r else u :: insertTens t r

def byId : List Tensor → List Tensor
  | [] => []
  | t :: r => insertTens t (byId r)

/-- Every record of a committed step; a step with a drop posts it once. -/
def telemetry (j : Fin 4) (x : Job) (before after : List TRun) (s : State) : State :=
  let ts := byId ((tensorsOf s x.index).filter fun t => trained t || t.autoScale)
  let recs := ts.filterMap fun t =>
    match before.find? (·.id == t.id), after.find? (·.id == t.id) with
    | some b, some a => some (telRecord s x t b a)
    | _, _ => none
  let y := recs.foldl (fun (y : State × Bool) r => (putTel r y.1, y.2 || telDropped y.1)) (s, false)
  if y.2 then post { ev 0x0704 with job := jobByte j } y.1 else y.1

/-- OVF_ALERT of a tensor (R144). -/
def ovfAlert (j : Fin 4) (x : Job) (before : List TRun) (s : State) (t : Tensor) : State :=
  match before.find? (·.id == t.id) with
  | some r =>
    if 0 < t.ovfAlert && t.ovfAlert < (endTotals (tallyRanks s x) r).ovf.toNat then
      post { ev 0x0707 with fault := true, job := jobByte j, addrKind := 2, addr := r.handle.setWidth 64 } s
    else s
  | none => s

/-- The CRC of the stored bytes of G̃ and of the alternate buffer written, for one tensor (R189). -/
def tensorSum (s : State) (j : Fin 4) (x : Job) (t : Tensor) (r : TRun) : DWord :=
  let o := ownRange s x.index t
  if trained t then crc64 (ofWords (gWords s j t o.1 (o.2 - o.1)) ++ shardBytes s t r true 0 t.elements)
  else crc64 (shardBytes s t r true o.1 o.2)

def stepSums (s : State) (j : Fin 4) (x : Job) : List (BitVec 16 × DWord) :=
  (byId ((tensorsOf s x.index).filter fun t => isVeneer t.role)).filterMap fun t =>
    (tensIn x t.id).map fun r => (t.id, tensorSum s j x t r)

/-- The gauges of the step under way, as the records and telemetry hold them. -/
def stepGauges (s : State) (x : Job) : List (BitVec 16 × DWord × DWord × DWord) :=
  (byId (trainedOf s x.index)).filterMap fun t => (tensIn x t.id).map fun r =>
    let tot := endTotals (tallyRanks s x) r
    (t.id, toB64 tot.w2, toB64 (rankSum (tallyRanks s x) r.tallyG), toB64 tot.dw2)

/-- The record slot of the step just decided: what it started from, and what it wrote (R189). -/
def stepRecord (j : Fin 4) (x : Job) (s : State) : Record :=
  { saveState j x s with epoch := epochNow s, sums := stepSums s j x, gauges := stepGauges s x }

/-- A copy list of the job reads tensor id. -/
def readsTensor (s : State) (idx : Nat) (ids : List Nat) : Bool :=
  match scheduleOf s idx, bodyOf s with
  | some t, some b => ((t.lists.flatMap (·.2)).any fun e => match stageOf s (entryFields e).prog with
      | some g => g.copyLists.any fun n => match b.copies[n]? with
        | some l => l.any fun d => dField d 0 5 4 == 2 && ids.contains (dField d 4 15 0)
        | none => false
      | none => false)
  | _, _ => false

/-- Inference passes under way that are bound to the veneers of job j (R157). -/
def readersOf (s : State) (j : Fin 4) (x : Job) : List (Fin 4 × Nat) :=
  let ids := (x.tens.filter fun r => match tensorOf s r.id with
    | some t => isVeneer t.role
    | none => false).map (·.id.toNat)
  (List.finRange 4).filterMap fun k => match s.jobs[k] with
    | some y => if k != j && !y.train && y.running.isSome && readsTensor s y.index ids then some (k, y.requests) else none
    | none => none

/-- Every inference pass of a list has ended. -/
def readersEnded (s : State) (rs : List (Fin 4 × Nat)) : Bool :=
  rs.all fun r => match s.jobs[r.1] with
    | some y => y.running.isNone || y.requests != r.2
    | none => true

/-- Events and counters of the commit: skips, scale limits, infinite amaxes, alerts. -/
def commitCounts (j : Fin 4) (x : Job) (before after : List TRun) (s : State) : State :=
  let skipped := (after.filter fun r => r.skipped && (match tensorOf s r.id with
    | some t => trained t
    | none => false)).length
  let limited := (after.filter (·.scaleLimit)).length
  let infs := ((tensorsOf s x.index).filter fun t => t.autoScale && (match before.find? (·.id == t.id) with
    | some r => (trueAmax s x t (endTotals (tallyRanks s x) r)) == .inf false
    | none => false)).length
  let s1 := bumpTrn j 4 infs (bumpTrn j 3 limited (bumpTrn j 2 skipped (bumpTrn j 0 1 s)))
  let f := s1.trn.fault
  let f1 := if 0 < skipped then orBit f 3 else f
  let f2 := if 0 < limited then orBit f1 2 else f1
  let s2 := { s1 with trn := { s1.trn with fault := f2 } }
  let s3 := postIf (decide (0 < skipped)) { ev 0x0701 with job := jobByte j } s2
  let s4 := postIf (decide (0 < limited)) { ev 0x0702 with job := jobByte j } s3
  (tensorsOf s x.index).foldl (ovfAlert j x before) s4

/-- Bytes of the veneer state and the input windows of a job (R189). -/
def recordBytes (s : State) (x : Job) : Nat :=
  ((tensorsOf s x.index).map fun t => if isVeneer t.role || t.role == .input then tensorBytes t else 0).sum

/-- The record of the step just decided enters its slot, in STAGING frames of its own; the older of two leaves. A
shortage of frames leaves the slot empty (R229). -/
def keepRecord (j : Fin 4) (x : Job) (s : State) : State :=
  if !recordMode s then s
  else
    let old := x.records.drop 1
    let s1 := old.foldl (fun s' r => if r.handle = 0 then s' else freeHandle r.handle s') s
    let r := stepRecord j x s
    match stage j (recordBytes s x) s1 with
    | some (h, s2) => setJob j (fun y => { y with records := { r with handle := h } :: y.records.take 1 }) s2
    | none => setJob j (fun y => { y with records := { r with lost := true } :: y.records.take 1 }) (exhausted j.val s1)

/-- COMMIT on this module (R154), with what R142, R144, R159, R160 and R189 add, then the boundary (R28). -/
def commitStep (j : Fin 4) (s : State) : State :=
  match s.jobs[j] with
  | none => s
  | some x =>
    let after := x.tens.map (commitTens s j x)
    let s0 := keepRecord j x s
    let s1 := telemetry j x x.tens after (commitCounts j x x.tens after s0)
    let rd := readersOf s j x
    let s2 := setJob j (fun y => { y with
      tens := after.map clearArrivals, exp := [], expKept := [], expRet := [], expGone := [], norms := [], normReqs := [], step := y.step + 1, epoch := epochNow s, phase := .boundary, retries := 0, rerun := false,
      abortEpoch := none, glueLast := BitVec.ofNat 64 y.glueSpan, once := 0,
      readers := rd }) (freeArrivals j s1)
    if 2 ^ 48 ≤ x.step + 1 then stopJob j stExhausted stDone 0 0 s2 else boundary j s2

/-! ### READY (R152) and the end of a REPLAY (R191) -/

def tallyFull (s : State) (x : Job) (recs : List Nat) : Bool := (tallyRanks s x).all fun r => recs.contains r

/-- Everything that R152 asks for. -/
def readyNow (s : State) (j : Fin 4) (x : Job) : Bool :=
  x.train && x.phase == .update && tallySent s x && listsDone s j x &&
    allTrained s j x (fun r => r.optDone && r.fReady && tallyFull s x (r.tallyG.map (·.1))) &&
    x.tens.all fun r => tallyFull s x (r.tallyEnd.map (·.1))

/-- The first tensor whose checksum differs from its record. -/
def firstDiff (a b : List (BitVec 16 × DWord)) : Option (BitVec 16) := ((a.filter fun p => !b.contains p).head?).map (·.1)

/-- The comparison of a replayed step with its record. -/
def replayOutcomeOf (s : State) (j : Fin 4) (x : Job) (r : Record) : ReplayOutcome :=
  match firstDiff (stepSums s j x) r.sums with
  | some t => ⟨false, false, t, BitVec.ofNat 16 (rankNow s), false⟩
  | none =>
    match ((stepGauges s x).filter fun p => !r.gauges.contains p).head? with
    | some g => ⟨false, false, g.1, BitVec.ofNat 16 (rankNow s), true⟩
    | none => ⟨false, true, 0, 0, false⟩

/-- A replayed step has run to its end. -/
def replayFinish (j : Fin 4) (x : Job) (s : State) : State :=
  match x.records.find? (·.step == x.step) with
  | some r => replayBoundary j (replayDone j (replayOutcomeOf s j x r) s)
  | none => replayBoundary j (replayDone j replayAborted s)

/-- READY of a rank for a step, noted at the coordinator. -/
def noteReady (idx step rank : Nat) (s : State) : State :=
  let had := match s.ws.ready.find? fun r => r.1 == idx && r.2.1 == step with
    | some r => r.2.2
    | none => []
  { s with ws := { s.ws with ready := (idx, step, rank :: had.filter (· != rank)) :: s.ws.ready.filter (·.1 != idx) } }

/-- COMMIT of a step reaches this module (R153, R154). -/
def commitHere (idx step : Nat) (s : State) : State :=
  match slotOfIndex s idx with
  | some j => match s.jobs[j] with
    | some x => if x.phase == .ready && x.step == step then commitStep j s else s
    | none => s
  | none => s

/-- A request for a snapshot or a replay that waits at a coordinator that does not run the job: the boundary after the step
that it commits now is the first at which it holds the request, and one replay takes each boundary (R183, R190). -/
def nameWaiting (idx step : Nat) (s : State) : State :=
  let s1 := if s.ws.snapWait.contains idx then
      sendAll 0x10 0 (.jobAt idx (step + 1)) { s with ws := { s.ws with snapWait := s.ws.snapWait.filter (· != idx) } }
    else s
  match s1.ws.replayWait.find? (·.1 == idx) with
  | some q => sendAll 0x14 q.2 (.jobAt idx (step + 1))
      { s1 with ws := { s1.ws with replayWait := s1.ws.replayWait.eraseP (·.1 == idx) } }
  | none => s1

/-- The coordinator holds READY from every member of the job: it sends COMMIT and carries it out (R153). Where it runs no
step of the job itself, what waits for the job's boundary is named before, and a change of membership follows. -/
def tryCommit (idx step : Nat) (s : State) : State :=
  let had := match s.ws.ready.find? fun r => r.1 == idx && r.2.1 == step with
    | some r => r.2.2
    | none => []
  if isCoord s && !(jobRanks s idx).isEmpty && (jobRanks s idx).all fun r => had.contains r then
    let s1 := sendAll 0x06 0 (.step idx step)
      (nameWaiting idx step { s with ws := { s.ws with ready := s.ws.ready.filter (·.1 != idx) } })
    if runsHere s idx then commitHere idx step s1 else lateRest (settle (changeShut [idx] s1))
  else s

/-! ### The outcome of a step when a member has departed (R155) -/

/-- The step that an ABORT names is open here (R156, R191, R194). -/
def takeAbort (job step : Nat) (s : State) : State :=
  match slotOfIndex s job with
  | none => s
  | some j => match s.jobs[j] with
    | none => s
    | some x =>
      if x.step = step && stepOpen x then
        if x.saved.isSome then replayBoundary j (replayDone j replayAborted (haltUnits j s))
        else settle (rerunStep j (abortStep j s))
      else s

/-- n steps of a job have been committed: every live member that has not carried out the last of them does so, and the step
after it is aborted. -/
def decideStep (idx n : Nat) (s : State) : State :=
  let s1 := if n = 0 then s else commitHere idx (n - 1) (sendAll 0x06 0 (.step idx (n - 1)) s)
  takeAbort idx n (abortAll idx n s1)

/-- Every live member of a job has said how many steps it has committed: the most decides. -/
def settleAsked (idx : Nat) (s : State) : State :=
  match s.ws.asked.find? (·.1 == idx) with
  | none => s
  | some q =>
    if (liveRanks s idx).all fun r => q.2.any (·.1 == r) then
      decideStep idx (q.2.foldl (fun m a => max m a.2) 0)
        { s with ws := { s.ws with asked := s.ws.asked.filter (·.1 != idx) } }
    else s

/-- The coordinator settles the step under way of a job after a departure. Where its own step is open and not READY, no
COMMIT of it has been sent; else it collects the last committed step of every live member. -/
def askOutcome (s : State) (idx : Nat) : State :=
  let ask := fun (mine : List (Nat × Nat)) =>
    let had := (s.ws.asked.filter (·.1 == idx)).flatMap (·.2)
    settleAsked idx (sendAll 0x0F 0 (.last true idx 0 false)
      { s with ws := { s.ws with asked := (idx, mine ++ had) :: s.ws.asked.filter (·.1 != idx) } })
  match if runsHere s idx then (slotOfIndex s idx).bind fun j => s.jobs[j] else none with
  | some x => if x.phase == .ready then ask [(s.ws.rank, x.step)] else decideStep idx x.step s
  | none => ask []

/-- Fabric adaptation jobs with a live member. -/
def liveJobs (s : State) : List Nat :=
  (List.range 16).filter fun idx => meshFabric (meshOf s idx) && ((jobEntryOf s idx).any fun e => e.kind == 1) &&
    !(liveRanks s idx).isEmpty

/-- The epoch changes once the outcome of every step is settled. -/
def changeSettled (s : State) : State := if s.ws.asked.isEmpty && changeKnown s then changeNow s else s

/-- Members found departed (R276, R278, R280): without a majority the module holds; the lowest live rank acts as
coordinator, settles the step under way of every job (R155), and removes them; a member aborts through the coordinator. -/
def departed (ranks : List Nat) (s : State) : State :=
  if ranks.isEmpty || !isMember s then s
  else
    let s1 := { s with ws := { s.ws with departed := (s.ws.departed ++ ranks).eraseDups } }
    if !hasMajority s1 s1.ws.departed then partition s1
    else
      let c := lowestLive s1
      let s2 := { s1 with ws := { s1.ws with
        coord := c, state := if c = s1.ws.rank then .coordinator else .member,
        heard := if c = s1.ws.coord then s1.ws.heard else s1.ws.members.map fun m => (m.rank, s1.aon.time) } }
      if isCoord s2 then lateRest (changeSettled ((liveJobs s2).foldl askOutcome s2))
      else abortFabric false s2

end Sys2Proof.Machine
end

