-- ==== Sys2Proof/Machine/BenchOps.lean ====
section
/-! DEFINITION. Shared operations of the benches (03_benches.md): the pass descriptor, the stored tile and its
expansion (R43, R44, R72, R86), the cell terms of every mode (R46 to R49, R82, R83, R85), groups and chains, and the
outputs of a LAST pass (R68). -/

namespace Sys2Proof.Machine

/-! ### The pass descriptor (R67) -/

def pMode (d : Desc8) : Nat := dField d 0 2 0
def pFmt (d : Desc8) : Nat := dField d 0 4 3
def pPass (d : Desc8) : Nat := dField d 0 6 5
def pCross (d : Desc8) : Bool := bitAt d.w0 7
def pInlay (d : Desc8) : Bool := bitAt d.w0 8
def pFirst (d : Desc8) : Bool := bitAt d.w0 9
def pLast (d : Desc8) : Bool := bitAt d.w0 10
def pKeep (d : Desc8) : Bool := bitAt d.w0 11
def pWRel (d : Desc8) : Bool := bitAt d.w0 12
def pARel (d : Desc8) : Bool := bitAt d.w0 13
def pRows (d : Desc8) : Nat := dField d 0 20 14 + 1
def pCols (d : Desc8) : Nat := dField d 0 27 21 + 1
def pVectors (d : Desc8) : Nat := dField d 1 8 0 + 1
def pAccBase (d : Desc8) : Nat := dField d 1 17 9
def pScAddr (d : Desc8) : Nat := dField d 1 31 18 * 1024
def pWAddr (d : Desc8) : Nat := dField d 2 23 0
def pWSlot (d : Desc8) : Nat := dField d 2 31 24
def pWPitch (d : Desc8) : Nat := dField d 3 15 0 * 64
def pAPitch (d : Desc8) : Nat := dField d 3 31 16 * 64
def pAAddr (d : Desc8) : Nat := dField d 4 23 0
def pASlot (d : Desc8) : Nat := dField d 4 31 24
def pOutPitch (d : Desc8) : Nat := dField d 5 15 0 * 64
def pOutTensor (d : Desc8) : BitVec 16 := BitVec.ofNat 16 (dField d 5 31 16)
def pOutAddr (d : Desc8) : Nat := dField d 6 23 0
def pDoneSlot (d : Desc8) : Nat := dField d 6 31 24
def pOrigin (d : Desc8) : Nat := d.w7.toNat

/-- CMAC, whose elements are complex. -/
def pComplex (d : Desc8) : Bool := pMode d == 5

/-- Bytes of one part of an operand. -/
def pSize (d : Desc8) : Nat := if pFmt d = 0 then 1 else if pFmt d = 1 then 2 else 4

def pFormat (d : Desc8) : Fmt := if pFmt d = 0 then fJ8 else if pFmt d = 1 then fB16 else fB32

/-- Bytes of one operand element; a complex element holds its two parts next to each other. -/
def pElem (d : Desc8) : Nat := if pComplex d then 2 * pSize d else pSize d

/-- The issue interval of a vector in CORE cycles (R74). -/
def pInterval (d : Desc8) : Nat := if pFmt d = 0 then 1 else 4

/-! ### The bench store -/

/-- The bench whose store and slots the entry on bench b uses: the bench of the entry's list. A bench that runs the
entries of one in self-test or out of service finds their buffers and tokens as their copy lists leave them, so that no
result bit changes (R31, R88; log entry 43). -/
def benchHome (b : Fin 4) (s : State) : Fin 4 :=
  match s.bnc[b].entry with
  | some e => e.list
  | none => b

def homeStore (b : Fin 4) (s : State) : Memory := s.bnc[benchHome b s].store

def storeRead (b : Fin 4) (a n : Nat) (s : State) : Nat := leNat (readBytes (homeStore b s) a n)

/-- The byte offset of tile element (r, c) of elements of z bytes in blocked layout (R72). -/
def tileOff (d : Desc8) (z r c : Nat) : Nat :=
  pWAddr d + r / 16 * pWPitch d + c / 16 * (256 * z) + (16 * (r % 16) + c % 16) * z

/-- The two parts of the operand at an address; the second is zero unless the element is complex. -/
def operandAt (b : Fin 4) (d : Desc8) (a : Nat) (s : State) : Val × Val :=
  (decodeF (pFormat d) (storeRead b a (pSize d) s),
   if pComplex d then decodeF (pFormat d) (storeRead b (a + pSize d) (pSize d) s) else Val.zero)

/-- +0 in its one form: cells that no entry lists hold it. -/
def plainZero (v : Val) : Val :=
  match v with
  | .fin false m e => if m = 0 then Val.zero else .fin false m e
  | x => x

/-- The operand of a cell in a pass: one half of a split operand (R49), one part or the sum of a complex one (R85).
`hiIn` names the passes of a split operation that take the hi half. -/
def cellOperand (d : Desc8) (hiIn : Nat → Bool) (x : Val × Val) : Val :=
  plainZero
    (if pComplex d then (if pPass d = 0 then x.1 else if pPass d = 1 then x.2 else cmacSum x.1 x.2)
     else if pFmt d = 2 then (if hiIn (pPass d) then splitHi x.1 else splitLo x.1)
     else x.1)

/-- hi·hi, hi·lo, lo·hi, lo·lo: the activation's half, then the weight's (log entry 29). -/
def actHi (n : Nat) : Bool := decide (n < 2)
def weightHi (n : Nat) : Bool := n % 2 == 0

/-! ### Expansion of packed weights (R42 to R44, R86) -/

/-- A signed or unsigned field of n bits. -/
def fieldInt (signed : Bool) (n x : Nat) : Int := if signed && decide (2 ^ (n - 1) ≤ x) then (x : Int) - 2 ^ n else x

def nibbleOf (b : Byte) (e : Nat) : Nat := if e % 2 = 0 then b.toNat % 16 else b.toNat / 16

/-- The raw code of packed tile element (r, c). -/
def packedAt (b : Fin 4) (i : Inlay) (d : Desc8) (r c : Nat) (s : State) : Nat :=
  if i.int8 then storeRead b (tileOff d 1 r c) 1 s
  else
    let e := 16 * (r % 16) + c % 16
    let a := pWAddr d + r / 16 * pWPitch d + c / 16 * 128 + e / 2
    nibbleOf (byteAt (homeStore b s) a) e

/-- The zero point of stored column c. -/
def zeroPoint (b : Fin 4) (i : Inlay) (d : Desc8) (c : Nat) (s : State) : Int :=
  if i.int8 then fieldInt i.signed 8 (storeRead b (pScAddr d + 0x100 + c) 1 s)
  else fieldInt i.signed 4 (nibbleOf (byteAt (homeStore b s) (pScAddr d + 0x100 + c / 2)) c)

def inlayFmt (i : Inlay) : Fmt := if i.toB16 then fB16 else fJ8

/-- SCALE mode: s × (q − z), rounded once, saturated and counted. The spec is silent on an infinite scale times a zero
difference; as the exact product of R46 it is a NaN, so the weight is NaN and one NAN counts (DESIGN CHOICE, log
entry 44). -/
def inlayScale (f : Fmt) (sc : Val) (q z : Int) : Val × Count :=
  let p := vMul sc (vOfInt (q - z) 0)
  if vIsNan p then (.nan, .nan)
  else
    let big := maxFin f (vNegBit p)
    if vLt (vAbs big) (vAbs p) then (big, .ovf)
    else
      let r := roundV .near f p
      (r, if vIsZero r && !vIsZero p then .unf else .none)

/-- The expansion of tile element (r, c), with what it counts. -/
def inlayCell (b : Fin 4) (i : Inlay) (d : Desc8) (lut : List (BitVec 16)) (r c : Nat) (s : State) : Val × Count :=
  let raw := packedAt b i d r c s
  if i.lut then (decodeF (inlayFmt i) (lut.getD raw 0).toNat, .none)
  else
    inlayScale (inlayFmt i) (ofB16 (BitVec.ofNat 16 (storeRead b (pScAddr d + 2 * c) 2 s)))
      (fieldInt i.signed (if i.int8 then 8 else 4) raw) (zeroPoint b i d c s)

/-- The 16 entries of a LUT record. -/
def lutEntries (b : Fin 4) (i : Inlay) (a : Nat) (s : State) : List (BitVec 16) :=
  (List.range 16).map fun q =>
    if i.toB16 then BitVec.ofNat 16 (storeRead b (a + 2 * q) 2 s) else BitVec.ofNat 16 (storeRead b (a + q) 1 s)

/-- The LUT is loaded when the pass names another record, or its W_SLOT has been marked FULL since (R86). -/
def lutReload (h : Fin 4) (x : Bench) (d : Desc8) : Bool :=
  match x.lut with
  | none => true
  | some l => l.1 != h || l.2.1 != pScAddr d || bitAt x.lutMarks (pWSlot d)

def loadLut (b : Fin 4) (i : Inlay) (d : Desc8) (s : State) : State :=
  if i.lut && lutReload (benchHome b s) s.bnc[b] d then
    let es := lutEntries b i (pScAddr d) s
    let h := benchHome b s
    setBnc b (fun x => { x with lut := some (h, pScAddr d, es), lutMarks := 0 }) s
  else s

/-! ### Loading a tile -/

/-- Tile rows and columns by cell: cross-grain, cell (i, j) takes tile element (j, i) (R72). -/
def tileRC (d : Desc8) (i j : Nat) : Nat × Nat := if pCross d then (j, i) else (i, j)

/-- The packing of the pass's weight tensor, if it expands. -/
def inlayOf (s : State) (e : EntryRun) (n : Nat) (d : Desc8) : Option (BitVec 16 × Inlay) :=
  if pInlay d then
    ((stageOf s e.prog).bind (·.wTensors[n]?)).bind fun id => (tensorOf s id).bind fun t => t.inlay.map fun i => (id, i)
  else none

/-- The weight of cell (i, j), with what its expansion counts. -/
def weightAt (b : Fin 4) (d : Desc8) (k : Option Inlay) (i j : Nat) (s : State) : Val × Count :=
  let rc := tileRC d i j
  match k with
  | some x =>
    let lut := match s.bnc[b].lut with
      | some l => l.2.2
      | none => []
    let v := inlayCell b x d lut rc.1 rc.2 s
    (plainZero v.1, v.2)
  | none => (cellOperand d weightHi (operandAt b d (tileOff d (pElem d) rc.1 rc.2) s), .none)

/-- Every active cell of the pass, in key order. -/
def tileCells (d : Desc8) : List (Nat × Nat) :=
  (List.range (pRows d)).flatMap fun i => (List.range (pCols d)).map fun j => (i, j)

/-- The shadow weights after the load: the cells of the tile. The load writes the active cells of its pass and leaves the
others as they are, so a kept tile used with more columns than its load had (R70 allows it) meets older weights in the
extra columns: the spec does not say what they hold (DESIGN CHOICE, log entry 45). -/
def loadTile (b : Fin 4) (d : Desc8) (k : Option Inlay) (s : State) : List (Nat × Val) :=
  (tileCells d).foldl (fun t c => tabSet Val.zero (c.1 * 128 + c.2) (weightAt b d k c.1 c.2 s).1 t) s.bnc[b].shadow

/-- What the expansions of a tile count into the weight tensor's record (R44). -/
def countTile (j : Fin 4) (b : Fin 4) (d : Desc8) (k : Option (BitVec 16 × Inlay)) (s : State) : State :=
  match k with
  | none => s
  | some (id, i) =>
    let cs := (tileCells d).map fun c => (weightAt b d (some i) c.1 c.2 s).2
    setTens j id (fun t => cs.foldl (fun u c => countInto c none false u) t) s

/-! ### Cell terms and groups (R46, R47, R49, R82, R83, R85) -/

/-- The terms of one cell. -/
def cellTerm (d : Desc8) (a w : Val) : List Val :=
  match pMode d with
  | 0 => if pFmt d = 2 && decide (0 < pPass d) && !(vIsFin a && vIsFin w) then [] else [vMul a w]
  | 1 => [vAbs (vSub a w)]
  | 2 => [vAdd a w]
  | 3 => [vAdd a w]
  | 4 => [if vEq a w then .fin false 1 0 else Val.zero]
  | _ => [vMul a w]

/-- A maximum or minimum that a NaN poisons (R83): the value and the flag. -/
def bestOf (least : Bool) (a b : Acc) : Acc :=
  { v := if least then vMinNum a.v b.v else vMaxNum a.v b.v, nanSeen := a.nanSeen || b.nanSeen,
    pinf := false, ninf := false, inexact := false }

/-- MAXPLUS and MINPLUS keep the selected value, infinities included, in the entry. -/
def bestStart (least : Bool) : Acc := ⟨.inf (!least), false, false, false, false⟩

def bestTerm (v : Val) : Acc := if vIsNan v then ⟨Val.zero, true, false, false, false⟩ else ⟨v, false, false, false, false⟩

def groupBest (least : Bool) (ts : List Val) : Acc :=
  (ts.map bestTerm).foldl (bestOf least) (bestStart least)

/-- The entry after a group: FIRST writes the group, a later pass combines it. -/
def chainAcc (d : Desc8) (old : Acc) (ts : List Val) : Acc :=
  if pMode d = 2 || pMode d = 3 then
    let g := groupBest (pMode d == 3) ts
    if pFirst d then g else bestOf (pMode d == 3) old g
  else if pFirst d then groupSum ts
  else accAddGroup old ts

/-- The entry as the output conversion takes it: a selected infinity becomes a flag. -/
def acc4Conv (d : Desc8) (a : Acc) : Acc :=
  if pMode d = 2 || pMode d = 3 then
    { a with v := if vIsFin a.v then a.v else Val.zero, pinf := a.v == .inf false, ninf := a.v == .inf true }
  else a

/-- The activations of vector m: one operand per active row. -/
def vectorOf (b : Fin 4) (d : Desc8) (m : Nat) (s : State) : List Val :=
  (List.range (pRows d)).map fun i =>
    cellOperand d actHi (operandAt b d (pAAddr d + m * pAPitch d + i * pElem d) s)

/-- The terms of column j for a vector. -/
def columnTerms (d : Desc8) (work : List (Nat × Val)) (as : List Val) (j : Nat) : List Val :=
  (as.zipIdx.map fun x => cellTerm d x.1 (tabGet Val.zero (x.2 * 128 + j) work)).flatten

def accEntry (n j : Nat) : Nat := n * 128 + j

def accUpd (d : Desc8) (n j : Nat) (ts : List Val) (t : List (Nat × Acc)) : List (Nat × Acc) :=
  tabSet Acc.zero (accEntry n j) (chainAcc d (tabGet Acc.zero (accEntry n j) t) ts) t

/-- One column of one vector added into its entry, or, for CMAC, its two entries (R85). -/
def columnStep (d : Desc8) (work : List (Nat × Val)) (m : Nat) (as : List Val) (j : Nat) (t : List (Nat × Acc)) :
    List (Nat × Acc) :=
  let ts := columnTerms d work as j
  let n := pAccBase d + m
  if pComplex d then
    let neg := ts.map vNeg
    if pPass d = 0 then accUpd d (n + pVectors d) j neg (accUpd d n j ts t)
    else if pPass d = 1 then accUpd d (n + pVectors d) j neg (accUpd d n j neg t)
    else accUpd d (n + pVectors d) j ts t
  else accUpd d n j ts t

/-- Cells that gate in a vector (R81): active cells only. -/
def gatedCells (d : Desc8) (work : List (Nat × Val)) (as : List Val) : Nat :=
  ((List.range (pCols d)).map fun j =>
    ((as.zipIdx).filter fun x =>
      let w := tabGet Val.zero (x.2 * 128 + j) work
      vIsFin x.1 && vIsFin w && (vIsZero x.1 || vIsZero w)).length).sum

/-- The modes that gate. -/
def gates (d : Desc8) : Bool := pMode d == 0 || pMode d == 5

/-- BNC_GATED counts units of 2^16 gated cell-cycles. -/
def bumpGated (b : Fin 4) (n : Nat) (s : State) : State :=
  let x := s.bnc[b].gatedLow.toNat + n
  bumpBnc b 6 (x / 65536) (setBnc b (fun y => { y with gatedLow := BitVec.ofNat 16 x }) s)

/-- Every vector of the pass streamed through the array. A gated product of a 4-cycle issue interval gates its cell in
each of the 4 cycles, and inactive cells hold no product to gate: BNC_GATED counts 4 and 0 of them (the spec says neither;
DESIGN CHOICE, log entry 46). -/
def streamPass (b : Fin 4) (d : Desc8) (s : State) : State :=
  let work := s.bnc[b].work
  let vs := (List.range (pVectors d)).map fun m => (m, vectorOf b d m s)
  let acc := vs.foldl (fun t v => (List.range (pCols d)).foldl (fun u j => columnStep d work v.1 v.2 j u) t) s.bnc[b].acc
  let n := if gates d && bitAt s.bnc[b].cfgForce 0 then
      ((vs.map fun v => gatedCells d work v.2).sum) * pInterval d
    else 0
  bumpGated b n (setBnc b (fun x => { x with acc := acc }) s)

/-! ### Outputs of a LAST pass (R68) -/

/-- One output element: its entry converted with the bias entry and logical index given, and written. -/
def outputOne (j : Fin 4) (b : Fin 4) (t : Tensor) (d : Desc8) (n col : Nat) (entry idx addr : Nat) (s : State) : State :=
  match s.jobs[j] with
  | none => s
  | some x =>
    let a := acc4Conv d (tabGet Acc.zero (accEntry n col) s.bnc[b].acc)
    let r := convertElem j t (convOf s x t 0 entry idx) a s
    writeStore (benchHome b s) false addr r.1 r.2

/-- Output element (m, col), or its two parts. -/
def outputElem (j : Fin 4) (b : Fin 4) (t : Tensor) (d : Desc8) (m col : Nat) (s : State) : State :=
  let w := fmtBytes t.fmt
  let x := pOrigin d + m * t.cols + col
  let n := pOrigin d % max 1 t.cols + col
  let row := pOutAddr d + m * pOutPitch d
  if pComplex d then
    outputOne j b t d (pAccBase d + pVectors d + m) col (2 * n + 1) (2 * x + 1) (row + 2 * col * w + w)
      (outputOne j b t d (pAccBase d + m) col (2 * n) (2 * x) (row + 2 * col * w) s)
  else outputOne j b t d (pAccBase d + m) col n x (row + col * w) s

def writeOutputs (j : Fin 4) (b : Fin 4) (d : Desc8) (s : State) : State :=
  match tensorOf s (pOutTensor d) with
  | none => s
  | some t =>
    (List.range (pVectors d)).foldl (fun s m =>
      (List.range (pCols d)).foldl (fun s' c => outputElem j b t d m c s') s) s

/-! ### The ranges of a pass (R70) -/

/-- The end of the weight tile, in whole blocks. -/
def tileEnd (d : Desc8) (k : Option Inlay) : Nat :=
  let rc := tileRC d (pRows d - 1) (pCols d - 1)
  let z := match k with
    | some i => if i.int8 then 256 else 128
    | none => 256 * pElem d
  pWAddr d + rc.1 / 16 * pWPitch d + (rc.2 / 16 + 1) * z

def actEnd (d : Desc8) : Nat := pAAddr d + (pVectors d - 1) * pAPitch d + pRows d * pElem d

def outEnd (d : Desc8) (w : Nat) : Nat :=
  pOutAddr d + (pVectors d - 1) * pOutPitch d + pCols d * (if pComplex d then 2 * w else w)

def recordEnd (d : Desc8) (k : Option Inlay) : Nat :=
  match k with
  | some i => pScAddr d + (if i.lut then 0x20 else 0x180)
  | none => 0

/-- Every range of the pass lies in the bench store; `w` is the output format's byte size. -/
def passInStore (d : Desc8) (k : Option Inlay) (w : Nat) : Bool :=
  decide (tileEnd d k ≤ 16777216) && decide (actEnd d ≤ 16777216) &&
    (!pLast d || decide (outEnd d w ≤ 16777216)) && decide (recordEnd d k ≤ 16777216)

/-! ### The bench's place in its program -/

/-- The bench runs an entry and CORE runs. -/
def benchReady (b : Fin 4) (s : State) : Bool :=
  coreOn s && s.bnc[b].entry.isSome && (s.bnc[b].state == .running || s.bnc[b].state == .waiting)

/-- A kept tile is still in the cells (R71). -/
def keptHere (x : Bench) (e : EntryRun) (d : Desc8) : Bool := pKeep d && x.held == some (e.job, e.prog)

/-- The bench waits for a slot. -/
def benchWait (b : Fin 4) (kind : BitVec 2) (slot : Nat) (s : State) : State :=
  setBnc b (fun x => { x with state := .waiting, waitKind := kind, waitSlot := BitVec.ofNat 8 slot }) s

/-- The wait of a kind has ended. -/
def benchGo (b : Fin 4) (kind : BitVec 2) (s : State) : State :=
  setBnc b (fun x => if x.waitKind == kind then { x with state := .running, waitKind := 0, waitSlot := 0xFF } else x) s

/-- The measured cycles of a step of the bench (R80, R89; log entry 16). -/
def benchCycles (b : Fin 4) (c : BenchCycles) (s : State) : State :=
  bumpBnc b 5 c.wait (bumpBnc b 4 c.wload (bumpBnc b 3 c.drain (bumpBnc b 2 c.feed (bumpBnc b 1 c.busy s))))

/-- The last vector of a pass that keeps its tile has left the array: its W_SLOT is released (R67). -/
def releaseKept (b : Fin 4) (d : Desc8) (s : State) : State :=
  if s.bnc[b].relDue then
    markSlot (benchHome b s) (pWSlot d) false (setBnc b (fun x => { x with relDue := false }) s)
  else s

/-- Once every activation has been read, the last vector has left the array unless its results wait in full drains: a
LAST pass of more than 8 vectors whose DONE_SLOT is FULL (R77, R79). -/
def hasLeft (b : Fin 4) (d : Desc8) (s : State) : Bool :=
  !pLast d || decide (pVectors d ≤ 8) || slotEmpty (benchHome b s) (pDoneSlot d) s

/-- The pass under way has ended: the next one is to come, or the entry ends. -/
def passDone (b : Fin 4) (s : State) : State :=
  entryOver b (setBnc b (fun x => { x with pc := x.pc + 1, begun := false, read := false }) (bumpBnc b 0 1 s))

/-! ### Benches that fail their self-test (R88) -/

/-- A bench with an inlay unit is still in service. -/
def inlayLeft (s : State) : Bool :=
  (List.finRange 4).any fun b => inlayPresent s.part b.val && s.bnc[b].state != .outOfService

/-- Some stage of the job's schedule expands packed weights. -/
def usesInlay (s : State) (idx : Nat) : Bool :=
  match scheduleOf s idx with
  | none => false
  | some t => (t.lists.flatMap (·.2)).any fun e =>
      match stageOf s (entryFields e).prog with
      | some g => g.passes.any pInlay
      | none => false

/-- A job that has lost its last bench with an inlay unit stops at its boundary. -/
def dropInlay (j : Fin 4) (s : State) : State :=
  match s.jobs[j] with
  | none => s
  | some x =>
    if usesInlay s x.index && !inlayLeft s then
      let s1 := setJob j (fun y => { y with stop := if y.stop.isSome then y.stop else some [] }) s
      if jobQuiet x then stopAtBoundary j s1 else s1
    else s

end Sys2Proof.Machine
end

