-- ==== Sys2Proof/Machine/PlaneOps.lean ====
section
/-! DEFINITION. Shared operations of the planes: issuing an instruction, rejecting an access (R103), loads and stores
(R102 to R104), the operations of R101, and the passes of a softmax row (R117). -/

namespace Sys2Proof.Machine

/-! ### Issuing an instruction (R100) -/

/-- The plane runs a microprogram and does not wait; CORE runs. -/
def planeReady (p : Fin 16) (s : State) : Bool :=
  coreOn s && s.pln[p].state == .running && s.pln[p].prog.isSome

/-- The instructions of a microprogram. -/
def progOps (s : State) (n : Nat) : List PlaneOp :=
  match (bodyOf s).bind (·.planeProgs[n]?) with
  | some q => q.ops
  | none => []

/-- The instruction that the plane's microprogram comes to next. -/
def opAt (p : Fin 16) (s : State) : Option PlaneOp := (s.pln[p].prog).bind fun n => (progOps s n)[s.pln[p].pc]?

/-- A plane issues in program order: the plane works and the instruction is its program's next (R100). -/
def issues (p : Fin 16) (o : PlaneOp) (s : State) : Bool := planeReady p s && opAt p s == some o

/-- The plane stops when its microprogram has run past its last instruction. -/
def progCheck (p : Fin 16) (s : State) : State :=
  match s.pln[p].prog with
  | some n => if (progOps s n).length ≤ s.pln[p].pc then entriesOver (seatAll (setPln p planeIdle s)) else s
  | none => s

/-- An instruction has issued: its cycles enter PLN_BUSY (log entry 16), and the program goes on at `next`. -/
def issuedScalar (p : Fin 16) (next : Nat) (s : State) : State :=
  let c := someCycles s
  progCheck p (setPln p (fun x => { x with pc := next }) (bumpPln p 1 c.1 c.2))

/-- A vector instruction has issued: PLN_INSTR counts it. -/
def issued (p : Fin 16) (next : Nat) (s : State) : State := issuedScalar p next (bumpPln p 0 1 s)

/-- A plane instruction: its effect k, then the next instruction. -/
def planeInstr (p : Fin 16) (o : PlaneOp) (k : State → State) (s : State) : Out :=
  if issues p o s then .next (issued p (s.pln[p].pc + 1) (k s)) else .next s

/-- An access of a plane through a store port: its cycles may stall on the port (log entry 16). -/
def portCycles (p : Fin 16) (s : State) : State :=
  let c := someCycles s
  bumpPln p 2 c.1 c.2

/-! ### Rejected accesses (R103, R127) -/

def planeInfo (slot : Nat) (x : Plane) (cause : Nat) : Word :=
  BitVec.ofNat 32 (slot + x.vstage.toNat * 256 + x.job.val * 2048 + cause * 8192)

/-- A fault of a plane that ends its job: the record carries PLN_FAULT_INFO and, for a bounds fault, the address. -/
def planeFault (p : Fin 16) (bit slot cause : Nat) (code : BitVec 16) (addr : Option Nat) (s : State) : State :=
  let x := s.pln[p]
  let w := planeInfo slot x cause
  let s1 := setPln p (fun y => { y with fault := orBit y.fault bit, info := w }) s
  fatalFault x.job (post { ev code with
    inst := BitVec.ofNat 8 p.val, fault := true, job := jobByte x.job, status := stAborted,
    addrKind := if addr.isSome then 1 else 0, addr := BitVec.ofNat 64 (addr.getD 0), info := w.setWidth 64 } s1)

def planeBounds (p : Fin 16) (r : TensorRef) (i : Nat) (s : State) : State :=
  planeFault p 3 0xFF 1 0x0903 (some (elemAddr s r i)) s

/-- An access of a plane to a tensor at the given indices: rejected whole, or k. -/
def checked (p : Fin 16) (o : PlaneOp) (r : TensorRef) (is : List Nat) (k : State → State) (s : State) : Out :=
  if issues p o s then
    match firstOut s r is with
    | some i => .next (planeBounds p r i s)
    | none => .next (issued p (s.pln[p].pc + 1) (k (portCycles p s)))
  else .next s

/-- A checked access that reads a store: an uncorrectable word ends it as a covered fault. -/
def checkedRead (p : Fin 16) (o : PlaneOp) (r : TensorRef) (is : List Nat) (e : Ecc) (k : State → State) (s : State) :
    Out :=
  if issues p o s then
    match firstOut s r is with
    | some i => .next (planeBounds p r i s)
    | none =>
      let y := storeEcc s.pln[p].job e (portCycles p s)
      if y.1 then .next (issued p (s.pln[p].pc + 1) (k y.2)) else .next y.2
  else .next s

/-! ### Arithmetic (R101) -/

def arithVal (op : ArithOp) (a b c : Val) : Val :=
  match op with
  | .add => vAdd a b
  | .sub => vSub a b
  | .mul => vMul a b
  | .fma => vAdd (vMul a b) c
  | .min => vMinNum a b
  | .max => vMaxNum a b
  | .abs => vAbs a
  | .neg => vNeg a

/-- The code of one operation: one rounding to nearest, ties to even. -/
def arithCode (f : VFmt) (op : ArithOp) (a b c : Nat) : Nat :=
  rnd (vfmt f) (arithVal op (decodeF (vfmt f) a) (decodeF (vfmt f) b) (decodeF (vfmt f) c))

def cmpVal (q : CmpPred) (a b : Val) : Bool :=
  match q with
  | .eq => vEq a b
  | .ne => !vEq a b
  | .lt => vLt a b
  | .le => vLe a b
  | .gt => vLt b a
  | .ge => vLe b a
  | .unord => vIsNan a || vIsNan b
  | .ord => !(vIsNan a || vIsNan b)
  | .ltUnord => !vLe b a
  | .ngt => !vLt b a
  | .gtUnord => !vLe a b
  | .nlt => !vLt a b

def logic128 (op : MaskLogic) (a b : BitVec 128) : BitVec 128 :=
  match op with
  | .and => a &&& b
  | .or => a ||| b
  | .xor => a ^^^ b
  | .andn => a &&& ~~~b
  | .not => ~~~a

/-- The scalar compares are on two's complement integers (log entry 28). -/
def cmpInt (q : CmpPred) (a b : Word) : Bool :=
  match q with
  | .eq => a == b
  | .ne => a != b
  | .lt => a.slt b
  | .le => a.sle b
  | .gt => b.slt a
  | .ge => b.sle a
  | .unord => false
  | .ord => true
  | .ltUnord => a.slt b
  | .ngt => a.sle b
  | .gtUnord => b.slt a
  | .nlt => b.sle a

/-! ### Loads (R102) -/

/-- The code that a stored value takes in a register of a format: widening is exact (R41). -/
def loadCode (f : VFmt) (v : Val) : Nat := rnd (vfmt f) v

/-- Elements loaded from the given logical indices. -/
def loadElems (p : Fin 16) (f : VFmt) (dst : BitVec 8) (r : TensorRef) (es : List (Nat × Nat)) (s : State) : State :=
  setPln p (fun x => es.foldl (fun q e => setElem f dst e.1 (loadCode f (storedVal (homeOf p s) r e.2 s)) q) x) s

/-! ### Stores (R102, R104) -/

/-- The tensor is a veneer of the plane's adaptation job, and the plane runs the microprogram that the job names as its
optimizer: such a store goes to the alternate buffer (R134, R149). -/
def ownOptimizer (p : Fin 16) (t : Tensor) (s : State) : Bool :=
  match s.jobs[s.pln[p].job] with
  | some x => x.train && isVeneer t.role && (match trainOf s x.index, s.pln[p].prog with
      | some tr, some n => tr.opt == .own n
      | _, _ => false)
  | none => false

/-- A store of the own optimizer waits while an inference pass is bound to the buffer it writes (R157). -/
def storeHeld (p : Fin 16) (r : TensorRef) (s : State) : Bool :=
  match s.jobs[s.pln[p].job], tensorOf s r.tensor with
  | some x, some t => ownOptimizer p t s && !readersEnded s x.readers
  | _, _ => false

/-- The job as a draw of the plane sees it: an initialisation microprogram draws with step number 0 (R210). -/
def drawsAs (p : Fin 16) (s : State) (x : Job) : Job :=
  match (bodyOf s).bind fun b => (s.pln[p].prog).bind fun n => b.planeProgs[n]? with
  | some q => if q.init then { x with step := 0, requests := 0 } else x
  | none => x

/-- One element stored through the conversion c of its tensor; `f` adapts the conversion (R104). -/
def storeOne (f : Conv → Conv) (p : Fin 16) (t : Tensor) (r : TensorRef) (c : Conv) (i : Nat) (a : Acc) (s : State) :
    State :=
  if ownOptimizer p t s then ownOptStore f s.pln[p].job t i a s
  else
    let y := convertElem s.pln[p].job t (f c) a s
    writeStore (homeOf p s) r.stock (elemAddr s r i) y.1 y.2

/-- The conversion that a store of a plane applies at index i: the image's descriptor and, in an adaptation job, its
scale in force (R55, R139). -/
def storeConv (p : Fin 16) (s : State) (t : Tensor) (i : Nat) : Option Conv :=
  (s.jobs[s.pln[p].job]).map fun x => convOf s (drawsAs p s x) t 0 (i % max 1 t.cols) i

/-- Elements stored at logical indices, in order. -/
def storeElems (p : Fin 16) (r : TensorRef) : List (Nat × Acc) → State → State
  | [], s => s
  | (i, a) :: rest, s =>
    match tensorOf s r.tensor with
    | none => s
    | some t =>
      match storeConv p s t i with
      | none => s
      | some c => storeElems p r rest (storeOne id p t r c i a s)

/-- The 32-bit element index of element e (R99). -/
def indexOf (x : Plane) (f : VFmt) (idx : BitVec 8) (e : Nat) : Nat :=
  match f with
  | .b32 => (laneWord x idx e).toNat
  | .b16 => (laneWord x (if e % 2 = 0 then idx else idx + 1) (e / 2)).toNat

/-- Of several lanes that name one element the highest writes (R104). -/
def lastWins : List (Nat × Nat) → List (Nat × Nat)
  | [] => []
  | x :: t => if t.any fun y => y.2 == x.2 then lastWins t else x :: lastWins t

/-- The elements that lanes name, each once, in order of first naming. -/
def namedOnce (xs : List (Nat × Nat)) : List Nat := (xs.map (·.2)).eraseDups

/-- SCATTER.ADD for one element: every lane that names it added in ascending order to the stored value (R104). -/
def addedVal (x : Plane) (f : VFmt) (reg : BitVec 8) (es : List (Nat × Nat)) (i : Nat) (old : Val) : Val :=
  (es.filter fun e => e.2 == i).foldl (fun v e => decodeF (vfmt f) (rnd (vfmt f) (vAdd v (elemVal_ x f reg e.1))))
    (decodeF (vfmt f) (loadCode f old))

def scatterAddElems (p : Fin 16) (f : VFmt) (reg : BitVec 8) (r : TensorRef) (es : List (Nat × Nat)) :
    List Nat → State → State
  | [], s => s
  | i :: rest, s =>
    let x := s.pln[p]
    match tensorOf s r.tensor with
    | none => s
    | some t =>
      match storeConv p s t i with
      | none => s
      | some c =>
        let v := addedVal x f reg es i (storedVal (homeOf p s) r i s)
        scatterAddElems p f reg r es rest (storeOne addConv p t r c i (accOf v) s)

/-! ### Plane accumulators (R105) -/

def accKey (a : BitVec 3) (lane : Nat) : Nat := a.toNat * 64 + lane

/-- A pair as it reads; one that no term has entered reads +0. -/
def accGet (x : Plane) (a : BitVec 3) (lane : Nat) : Acc := (tabFind (accKey a lane) x.a).getD Acc.zero

/-- A group added to a pair: the first one is written, so that a sum of terms that are all −0 stays −0 (R57); a group
without a term adds nothing. -/
def accAddTo (a : BitVec 3) (lane : Nat) (ts : List Val) (x : Plane) : Plane :=
  if ts.isEmpty then x
  else
    let g := match tabFind (accKey a lane) x.a with
      | some old => accAdd old (groupSum ts)
      | none => groupSum ts
    { x with a := tabPut (accKey a lane) g x.a }

/-- The term of an element. -/
def reduceTerm (x : Plane) (i : PReduce) (e : Nat) : Val :=
  let a := elemVal_ x i.fmt i.a e
  match i.term with
  | .sum => a
  | .dot => vMul a (elemVal_ x i.fmt i.b e)
  | .sumsq => vMul a a

/-- The lane of an element. -/
def laneOf (f : VFmt) (e : Nat) : Nat :=
  match f with
  | .b32 => e
  | .b16 => e / 2

/-- A fresh accumulator where the instruction starts one. The spec does not say how an accumulator starts: here a flag of
the reduce empties its 64 pairs (DESIGN CHOICE, log entry 48). -/
def accInit (i : PReduce) (x : Plane) : Plane :=
  if i.init then { x with a := x.a.filter fun c => c.1 / 64 != i.acc.toNat } else x

def reducePlane (i : PReduce) (x : Plane) : Plane :=
  let es := activeElems x i.fmt i.mask
  let x0 := accInit i x
  if i.across then accAddTo i.acc 0 (es.map (reduceTerm x i)) x0
  else es.foldl (fun q e => accAddTo i.acc (laneOf i.fmt e) [reduceTerm x i e] q) x0

/-- The value of a pair as a register takes it. -/
def accVal (a : Acc) : Val := convSum a none

/-! ### Scalars (R100; log entry 28) -/

def setScalar (r : BitVec 5) (w : Word) (x : Plane) : Plane := { x with sc := x.sc.set r.toNat w }

def scalarOf (x : Plane) (r : BitVec 5) : Word := x.sc[r.toNat]

/-- A shift; by 32 or more the result is open. -/
def shiftWord (left : Bool) (a b : Word) : Word :=
  if 32 ≤ b.toNat then Config.shiftOut left a b else if left then a <<< b.toNat else a >>> b.toNat

/-! ### Softmax (R117 to R119) -/

structure SmxRow where
  m : Val
  sum : Word
  k : Nat
  nan : Bool
  deriving DecidableEq, Repr

def SmxRow.start : SmxRow := ⟨.inf true, 0, 0, false⟩

/-- The binary32 word of a stored value. -/
def smxArg (v : Val) : Word := toB32 v

/-- The exponentials of a list of arguments on lathe n, and the state after their counts. -/
def expList (n : Fin 4) : List Word → State → List Val × State
  | [], s => ([], s)
  | x :: t, s =>
    let y := useLathe n .exp x 0 s
    let r := expList n t y.2
    (ofB32 y.1 :: r.1, r.2)

/-- One chunk of pass 1: its elements with their mask. -/
def smxChunk (n : Fin 4) (c : List (Val × Bool)) (r : SmxRow) (s : State) : SmxRow × State :=
  let live := (c.filter (·.2)).map (·.1)
  let r1 := { r with nan := r.nan || live.any vIsNan, k := r.k + (live.filter (· == .inf false)).length }
  if r1.nan || decide (0 < r1.k) then (r1, s)
  else
    let fins := live.filter vIsFin
    if fins.isEmpty then (r1, s)
    else
      let mNew := vMaxNum r1.m (fins.foldl vMaxNum (.inf true))
      let mw := smxArg mNew
      let es := expList n (live.map fun v => b32Sub (smxArg v) mw) s
      let e := toB32 (vSum es.1)
      let sc := useLathe n .exp (b32Sub (smxArg r1.m) mw) 0 es.2
      ({ r1 with sum := b32Add (b32Mul r1.sum sc.1) e, m := mNew }, sc.2)

/-- Chunks of 64 elements, in order; the first argument bounds their number. -/
def smxPass1 (n : Fin 4) : Nat → List (Val × Bool) → SmxRow → State → SmxRow × State
  | 0, _, r, s => (r, s)
  | k + 1, xs, r, s =>
    if xs.isEmpty then (r, s)
    else
      let y := smxChunk n (xs.take 64) r s
      smxPass1 n k (xs.drop 64) y.1 y.2

/-- The outputs of a row that needs the lathe. -/
def smxOutputs (n : Fin 4) (mw rc : Word) : List (Val × Bool) → State → List Val × State
  | [], s => ([], s)
  | (x, live) :: t, s =>
    if live then
      let y := useLathe n .exp (b32Sub (smxArg x) mw) 0 s
      let r := smxOutputs n mw rc t y.2
      (ofB32 (b32Mul y.1 rc) :: r.1, r.2)
    else
      let r := smxOutputs n mw rc t s
      (Val.zero :: r.1, r.2)

/-- What kind of row it is (R118): its status byte and its counter, if special. -/
def smxKind (r : SmxRow) : Byte × Option (Fin 10) :=
  if r.nan then (4, some 8)
  else if 0 < r.k then (2, some 7)
  else if r.m == .inf true then (1, some 6)
  else (0, none)

/-- The values of pass 2. -/
def smxPass2 (n : Fin 4) (r : SmxRow) (xs : List (Val × Bool)) (s : State) : List Val × State :=
  if r.nan then (xs.map fun _ => Val.nan, s)
  else if 0 < r.k then
    (xs.map fun x => if x.2 && x.1 == .inf false then vDiv vOne (vOfNat r.k) else Val.zero, s)
  else if r.m == .inf true then (xs.map fun _ => Val.zero, s)
  else
    let rc := useLathe n .recip r.sum 0 s
    smxOutputs n (smxArg r.m) rc.1 xs rc.2

/-! ### Normalisation statistics (R121, R122) -/

def normStatsOf (xs : List Val) : NormStat :=
  if xs.isEmpty then ⟨0, Val.zero, Val.zero⟩
  else if xs.any fun v => !vIsFin v then ⟨xs.length, .nan, .nan⟩
  else
    let mean := w80 (vDiv (vSum xs) (vOfNat xs.length))
    let m2 := xs.foldl (fun a x => let d := w80 (vSub x mean); accAdd a (accOf (vMul d d))) Acc.zero
    ⟨xs.length, mean, w80 m2.v⟩

/-- The variance that a set of statistics delivers (R122). -/
def normVar (st : NormStat) : Val := if st.n = 0 then Val.zero else if vIsFin st.m2 then w80 (vDiv st.m2 (vOfNat st.n)) else .nan

/-- A plane takes a set of statistics and delivers its variance. -/
def setNorm (st : NormStat) (x : Plane) : Plane := { x with norm := st, nvar := normVar st }

/-- R122. -/
def normCombine2 (a b : NormStat) : NormStat :=
  if b.n = 0 then a
  else if a.n = 0 then b
  else
    let n := a.n + b.n
    let d := w80 (vSub b.mean a.mean)
    let mean := w80 (vAdd a.mean (w80 (vMul d (w80 (vDiv (vOfNat b.n) (vOfNat n))))))
    let t := w80 (vMul (w80 (vMul d d)) (w80 (vDiv (vOfNat (a.n * b.n)) (vOfNat n))))
    let m2 := w80 (vAdd (w80 (vAdd a.m2 b.m2)) t)
    let m2' := if vIsFin m2 && (vLt m2 Val.zero || (vIsZero m2 && vNegBit m2)) then Val.zero else m2
    ⟨n, mean, m2'⟩

end Sys2Proof.Machine
end

