-- ==== Sys2Proof/Machine/Sched.lean ====
section
/-! DEFINITION. The sequencer's choice of entries (06_schedule_and_recovery.md, R171 to R173, R238):
SCHEDULE_ENTRY_START. -/

namespace Sys2Proof.Machine

/-! ### Startable entries -/

/-- The slot that the first WAIT of a microprogram names. -/
def firstWait : List PlaneOp → Option Nat
  | [] => none
  | .wait n :: _ => some n.toNat
  | _ :: t => firstWait t

/-- The input slot of a stage program: the A_SLOT of its first pass, or, without a pass, the slot of the first WAIT of
its first microprogram (log entry 30). -/
def inputSlot (s : State) (g : StageProg) : Nat :=
  match g.passes.head? with
  | some d => pASlot d
  | none =>
    match g.planeProgs.head?.bind fun n => (bodyOf s).bind (·.planeProgs[n]?) with
    | some q => (firstWait q.ops).getD 255
    | none => 255

/-- The job runs entries now: a step or a request is under way, or the job runs requests one after the other. -/
def runsEntries (s : State) (x : Job) : Bool :=
  !x.parked && (if x.train then (x.phase == .compute || x.phase == .update)
    else x.running.isSome || (serves s x && !latencyBound s x))

/-- Lists that bench b serves: its own, and those of benches out of service or in self-test (R88, R481). -/
def servedLists (b : Fin 4) (s : State) : List (Fin 4) :=
  (List.finRange 4).filter fun i => i == b || s.bnc[i].state == .outOfService || s.bnc[i].state == .selftest

/-- Another bench runs an entry of this list. -/
def listBusy (s : State) (j : Fin 4) (i : Fin 4) : Bool :=
  s.bnc.toList.any fun x => match x.entry with
    | some e => e.job == j && e.list == i
    | none => false

/-- The next entry of a list, if bench b can run it; `full` asks for its input slot too (R171). -/
def nextEntry (full : Bool) (b : Fin 4) (j : Fin 4) (x : Job) (i : Fin 4) (s : State) : Option EntryRun :=
  let pos := if x.train || x.running.isSome then x.pos[i] else 0
  match (listOf s x.index i.val)[pos]? with
  | none => none
  | some w =>
    let f := entryFields w
    match stageOf s f.prog with
    | none => none
    | some g =>
      let e : EntryRun := ⟨j, f.vstage, i, f.back, f.mb, f.prog, f.frames⟩
      if listBusy s j i || (full && !slotFull i (inputSlot s g) s) || (g.passes.any pInlay && !inlayPresent s.part b.val)
      then none
      else some e

/-- The first startable entry of job j on bench b. -/
def entryOfJob (b : Fin 4) (s : State) (j : Fin 4) : Option EntryRun :=
  match s.jobs[j] with
  | none => none
  | some x => if runsEntries s x then (servedLists b s).findSome? fun i => nextEntry true b j x i s else none

/-- Latency-bound jobs in slot order. -/
def latencyJobs (s : State) : List (Fin 4) :=
  (List.finRange 4).filter fun j => match s.jobs[j] with
    | some x => latencyBound s x
    | none => false

/-- The other jobs, from the one after the last served on, round-robin. -/
def roundRobin (b : Fin 4) (s : State) : List (Fin 4) :=
  match s.bnc[b].served with
  | some k => [k + 1, k + 2, k + 3, k]
  | none => [0, 1, 2, 3]

/-- R173. -/
def chooseEntry (b : Fin 4) (s : State) : Option EntryRun :=
  match (latencyJobs s).findSome? (entryOfJob b s) with
  | some e => some e
  | none => (roundRobin b s).findSome? (entryOfJob b s)

/-! ### Starting one -/

/-- A copy list handed to the engine that has been idle longest, or queued (R238). -/
def handList (j : Fin 4) (l : List Desc8) (s : State) : State :=
  if l.isEmpty then s
  else
    match s.stk.idle with
    | e :: rest =>
      setEng e (fun _ => ⟨j, l, .none⟩) { s with stk := { s.stk with idle := rest } }
    | [] => { s with stk := { s.stk with queue := s.stk.queue ++ [(j, l)] } }

def handLists (j : Fin 4) (ns : List Nat) (s : State) : State :=
  ns.foldl (fun s' n => match (bodyOf s').bind (·.copies[n]?) with
    | some l => handList j l s'
    | none => s') s

/-- The copy lists of the next entry of list i, where bench b can run it: each goes to an engine once (R238; log entry
30). -/
def feedList (b j : Fin 4) (s : State) (i : Fin 4) : State :=
  match s.jobs[j] with
  | none => s
  | some x =>
    if x.fed.contains i || !runsEntries s x then s
    else
      match (nextEntry false b j x i s).bind fun e => stageOf s e.prog with
      | some g => handLists j g.copyLists (setJob j (fun y => { y with fed := i :: y.fed }) s)
      | none => s

/-- Every list that bench b serves, of every job, latency-bound jobs first. -/
def feedBench (b : Fin 4) (s : State) : State :=
  ((latencyJobs s ++ roundRobin b s).eraseDups).foldl (fun s' j => (servedLists b s').foldl (feedList b j) s') s

/-- A job whose requests follow one another begins its next request with its first entry. -/
def openRequest (e : EntryRun) (s : State) : State :=
  match s.jobs[e.job] with
  | some x => if !x.train && x.running.isNone then beginRequest e.job s.aon.time.toNat s else s
  | none => s

/-- The bench takes the entry; its microprograms take planes. -/
def seatEntry (b : Fin 4) (e : EntryRun) (g : StageProg) (s : State) : State :=
  let put := fun (x : Bench) => { x with
    entry := some e, passes := g.passes, pc := 0, ld := 0, begun := false, read := false, relDue := false,
    progsLeft := g.planeProgs, job := e.job, vstage := e.vstage, state := .running, waitKind := 0, waitSlot := 0xFF,
    served := some e.job }
  let s1 := if s.bnc[b].served.isSome && s.bnc[b].served != some e.job then bumpSlices s else s
  seatBench b (setBnc b put s1)

/-- Job x has entries still to run on a list that bench b serves. -/
def hasWork (b : Fin 4) (s : State) (x : Job) : Bool :=
  runsEntries s x && (servedLists b s).any fun i => decide (x.pos[i] < (listOf s x.index i.val).length)

/-- Bench b is one of the benches of job x. -/
def benchOfJob (b : Fin 4) (s : State) (x : Job) : Bool := !(listOf s x.index b.val).isEmpty

/-- R172: an adaptation job within a step has no entry that its bench b can start, and no other job has work there: the
bench's idle cycles, a measured number, count in the job's SEQ_KERF (log entry 16). -/
def countKerf (b : Fin 4) (j : Fin 4) (s : State) : State :=
  match s.jobs[j] with
  | none => s
  | some x =>
    let inStep := x.train && (x.phase == .compute || x.phase == .update || x.phase == .ready) && !x.parked
    let others := (List.finRange 4).any fun i => i != j && (s.jobs[i]).any (hasWork b s)
    if inStep && benchOfJob b s x && !others then let c := someCycles s; bumpSeq j 1 c.1 c.2 else s

/-- The entry of a list that starts is no longer the next one. -/
def unfeed (e : EntryRun) (s : State) : State := setJob e.job (fun y => { y with fed := y.fed.filter (· != e.list) }) s

/-- The choice of R173, and the entry's start; a bench that finds none idles. -/
def startEntry (b : Fin 4) (s : State) : State :=
  match (chooseEntry b s).bind fun e => (stageOf s e.prog).map fun g => (e, g) with
  | none => eachSlot (countKerf b) s
  | some (e, g) => entryOver b (seatEntry b e g (openRequest e (unfeed e s)))

def execScheduleEntryStart (b : Fin 4) (s : State) : Out :=
  if coreOn s then
    let s1 := seatAll s
    if s1.bnc[b].state == .stopped && s1.bnc[b].entry.isNone then .next (startEntry b (feedBench b s1)) else .next s1
  else .next s

end Sys2Proof.Machine
end

