-- ==== Sys2Proof/Machine/CopyOps.lean ====
section
/-! DEFINITION. Shared operations of the copy engines (08_memory_and_stockroom.md, R224, R235 to R242): the fields of a
copy descriptor, its ends in the stores, tensors and rings, its limits, and what an uncorrectable block brings. -/

namespace Sys2Proof.Machine

/-! ### Copy descriptors (R239) -/

def cOp (d : Desc8) : Nat := dField d 0 3 0
def cSrcKind (d : Desc8) : Nat := dField d 0 5 4
def cDstKind (d : Desc8) : Nat := dField d 0 7 6
def cSrcBench (d : Desc8) : Nat := dField d 0 9 8
def cDstBench (d : Desc8) : Nat := dField d 0 11 10
def cRowBytes (d : Desc8) : Nat := 64 * (dField d 1 15 0 + 1)
def cRows (d : Desc8) : Nat := dField d 1 31 16 + 1
def cSrcOff (d : Desc8) : Nat := 64 * dField d 2 31 0
def cSrcPitch (d : Desc8) : Nat := 64 * dField d 3 15 0
def cDstPitch (d : Desc8) : Nat := 64 * dField d 3 31 16
def cSrcId (d : Desc8) : Nat := dField d 4 15 0
def cDstId (d : Desc8) : Nat := dField d 4 31 16
def cDstOff (d : Desc8) : Nat := 64 * dField d 5 31 0
def cWaitSlot (d : Desc8) : Nat := dField d 6 7 0
def cWaitFull (d : Desc8) : Bool := dField d 6 8 8 == 1
def cSlotBench (d : Desc8) : Fin 4 := slotFin (dField d 6 10 9)
def cSetSlot (d : Desc8) : Nat := dField d 6 23 16
def cSetFull (d : Desc8) : Bool := dField d 6 24 24 == 1
def cAxis (d : Desc8) : Nat := dField d 7 1 0
/-- PEER_DELTA as a signed number of six bits. -/
def cDelta (d : Desc8) : Int := fieldInt true 6 (dField d 7 7 2)

/-- The byte offsets of rows from `off` on. -/
def rowOffs (off pitch rows : Nat) : List Nat := (List.range rows).map fun i => off + i * pitch

def srcRows (d : Desc8) : List Nat := rowOffs (cSrcOff d) (cSrcPitch d) (cRows d)
def dstRows (d : Desc8) : List Nat := rowOffs (cDstOff d) (cDstPitch d) (cRows d)

/-! ### Ends of a copy -/

/-- Where bytes are read or written: a bench store, the stock store, a drawer handle from a base on, or a ring. -/
inductive Place where
  | bench (b : Fin 4)
  | stock
  | tensor (h base : Nat)
  | ring (port : Fin 24)
  deriving DecidableEq, Repr

/-- FLAGS of a ring entry with its port (R429). -/
def entryFlags (e : RingEntry) : Nat := e.flags.toNat % 8 + e.port.toNat * 256

/-- The 16 bytes of a ring entry (R429). -/
def entryBytes (e : RingEntry) : List Byte :=
  leBytes 8 e.time.toNat ++ leBytes 4 e.data.toNat ++ leBytes 2 e.index.toNat ++ leBytes 2 (entryFlags e)

def entryOf (bs : List Byte) : RingEntry :=
  let f := leNat ((bs.drop 14).take 2)
  ⟨BitVec.ofNat 64 (leNat (bs.take 8)), BitVec.ofNat 32 (leNat ((bs.drop 8).take 4)),
   BitVec.ofNat 16 (leNat ((bs.drop 12).take 2)), BitVec.ofNat 5 (f / 256), BitVec.ofNat 8 (f % 8)⟩

/-- n ring slots from k on, as bytes; a slot not yet written reads as zeros. -/
def ringRead (p : Port) (k : Nat) : Nat → List Byte
  | 0 => []
  | n + 1 => (match tabFind k p.ring with
    | some e => entryBytes e
    | none => List.replicate 16 0) ++ ringRead p (k + 1) n

def ringWrite (k : Nat) (n : Nat) (bs : List Byte) (p : Port) : Port :=
  match n with
  | 0 => p
  | m + 1 => ringWrite (k + 1) m (bs.drop 16) { p with ring := tabPut k (entryOf (bs.take 16)) p.ring }

def placeRead (s : State) (p : Place) (off n : Nat) : List Byte :=
  match p with
  | .bench b => readBytes s.bnc[b].store off n
  | .stock => readBytes s.stk.mem off n
  | .tensor h base => readHandle s h (base + off) n
  | .ring q => ringRead s.sns[q] (off / 16) (n / 16)

/-- The handle of the ring of a port. -/
def ringHandle (q : Fin 24) (s : State) : Option (Nat × Handle) :=
  s.stk.handles.find? fun h => h.2.cls == .ring &&
    ((sensorsOf s).any fun k => k.ring == h.2.tensor && k.port == q.val)

/-- What an access to n bytes of a place does to the stockroom (R227, R231). -/
def placeUse (p : Place) (off n : Nat) (s : State) : State :=
  match p with
  | .tensor h base => useHandle h (base + off) n s
  | .ring q => match ringHandle q s with
    | some h => useHandle h.1 off n s
    | none => s
  | _ => s

/-- Bytes written for a descriptor of job j. -/
def placeWrite (j : Fin 4) (p : Place) (off : Nat) (bs : List Byte) (s : State) : State :=
  match p with
  | .bench b => writeStore b false off bs s
  | .stock => writeStore 0 true off bs s
  | .tensor h base => pokeOr j h (base + off) bs s
  | .ring q => setSns q (ringWrite (off / 16) (bs.length / 16) bs) (placeUse (.ring q) off bs.length s)

/-! ### Tensors as a copy sees them -/

/-- An inference pass that is bound to the buffer the last COMMIT made alternate (R157). -/
def boundOld (s : State) (j : Fin 4) (owner : Job) : Bool :=
  match s.jobs[j] with
  | some y => y.running.isSome && owner.readers.contains (j, y.requests)
  | none => false

/-- The base of the buffer of a veneer that job j reads, or, with `dst`, writes (R133, R157). -/
def veneerBase (s : State) (j : Fin 4) (t : Tensor) (dst : Bool) : Nat :=
  match slotOfIndex s t.job with
  | none => 0
  | some k => match s.jobs[k] with
    | none => 0
    | some x => match tensIn x t.id with
      | none => 0
      | some r => bufBase t (r.cur ^^ (dst || boundOld s j x))

/-- The place that a tensor names, with its size in bytes by its LIMIT; none for a handle that is not allocated. -/
def tensorPlace (s : State) (j : Fin 4) (id : Nat) (dst : Bool) : Option (Place × Nat) :=
  match handleNamed s j id with
  | none => none
  | some h =>
    match handleAt s h with
    | none => none
    | some x =>
      match ringNamed s id, tensorOf s (BitVec.ofNat 16 id) with
      | some c, _ =>
        if x.cls == .ring && decide (c.port < 24) then some (.ring ⟨c.port % 24, Nat.mod_lt _ (by decide)⟩, x.limit * 64)
        else some (.tensor h 0, x.limit * 64)
      | none, some t =>
        if isVeneer t.role then some (.tensor h (veneerBase s j t dst), x.limit * 64)
        else some (.tensor h 0, x.limit * 64)
      | none, none => some (.tensor h 0, x.limit * 64)

def srcPlace (s : State) (j : Fin 4) (d : Desc8) : Option (Place × Nat) :=
  if cSrcKind d = 0 then some (.bench (slotFin (cSrcBench d)), storeSize false)
  else if cSrcKind d = 1 then some (.stock, storeSize true)
  else tensorPlace s j (cSrcId d) false

def dstPlace (s : State) (j : Fin 4) (d : Desc8) : Option (Place × Nat) :=
  if cDstKind d = 0 then some (.bench (slotFin (cDstBench d)), storeSize false)
  else if cDstKind d = 1 then some (.stock, storeSize true)
  else tensorPlace s j (cDstId d) true

/-! ### Limits (R241) -/

/-- The first forbidden address of rows of n bytes in a place of a size. -/
def firstBeyond (rows : List Nat) (n size : Nat) : Option Nat :=
  (rows.find? fun a => decide (size < a + n)).map fun a => max a size

/-- The first forbidden address of a place that may not be there. -/
def beyond (p : Option (Place × Nat)) (rows : List Nat) (n : Nat) : Option Nat :=
  match p with
  | none => some (rows.headD 0)
  | some x => firstBeyond rows n x.2

/-- A descriptor rejected whole. -/
def copyBounds (e : Fin 8) (id : Nat) (addr : Nat) (s : State) : State :=
  let j := (s.stk.engines[e]).job
  let h := if id = 0 then 0 else (handleNamed s j id).getD id
  let s1 := stkFault 5 h e.val j.val 0 addr s
  fatalFault j (post { ev 0x0306 with
    fault := true, job := jobByte j, status := stAborted, addrKind := 1, addr := BitVec.ofNat 64 addr,
    info := s1.stk.faultInfo.setWidth 64 } s1)

/-! ### Engines and descriptors (R238, R239) -/

/-- The descriptor under way on an engine that works. -/
def headDesc (e : Fin 8) (s : State) : Option Desc8 := if running s then (s.stk.engines[e]).list.head? else none

def setWait (e : Fin 8) (w : EngWait) (s : State) : State := setEng e (fun x => { x with wait := w }) s

/-- The descriptor's slot is as it waits for. -/
def slotReady (d : Desc8) (s : State) : Bool :=
  if cWaitFull d then slotFull (cSlotBench d) (cWaitSlot d) s else slotEmpty (cSlotBench d) (cWaitSlot d) s

/-- An engine without a list takes the oldest that waits, or is idle. -/
def nextList (e : Fin 8) (s : State) : State :=
  match s.stk.queue with
  | [] => { setEng e (fun _ => Engine.reset) s with
      stk := { (setEng e (fun _ => Engine.reset) s).stk with idle := s.stk.idle ++ [e] } }
  | q :: rest => setEng e (fun _ => ⟨q.1, q.2, .none⟩) { s with stk := { s.stk with queue := rest } }

/-- The engine goes on to its next descriptor. -/
def nextDesc (e : Fin 8) (s : State) : State :=
  match (s.stk.engines[e]).list with
  | _ :: d :: t => setEng e (fun x => { x with list := d :: t, wait := .none }) s
  | _ => nextList e s

/-- A descriptor ends: its slot is set after its last write. -/
def descEnd (e : Fin 8) (d : Desc8) (s : State) : State := nextDesc e (markSlot (cSlotBench d) (cSetSlot d) (cSetFull d) s)

/-- A descriptor of an operation, from its slot wait to k. -/
def descRun (e : Fin 8) (op : Nat) (k : Desc8 → State → State) (s : State) : Out :=
  match headDesc e s with
  | none => .next s
  | some d =>
    if cOp d != op || (s.stk.engines[e]).wait == .grant || (s.stk.engines[e]).wait == .done then .next s
    else if slotReady d s then .next (k d s)
    else .next (setWait e .slot s)

/-! ### Frames -/

/-- Frames of a place that rows of n bytes touch. -/
def placeFrames (p : Place) (rows : List Nat) (n : Nat) : List Nat :=
  match p with
  | .tensor _ base => (rows.flatMap fun a => frameSpan (base + a) n).eraseDups
  | _ => []

/-- One of the frames has been paged out. -/
def spilledIn (s : State) (p : Place) (fs : List Nat) : Bool :=
  match p with
  | .tensor h _ => match handleAt s h with
    | some x => fs.any fun i => match tabFind i x.table with
      | some f => f.spilled
      | none => false
    | none => false
  | _ => false

/-- Frames of a handle made resident for a write, each pinned as it comes (R242); none where they lack. -/
def holdFrames (h : Nat) (p : PinBy) : List Nat → State → Option State
  | [], s => some s
  | i :: t, s => (touchFrame h i s).bind fun s1 => holdFrames h p t (pinFrames h [i] p s1)

/-- Frames for the rows written; none where they lack. -/
def placeHold (pl : Place) (fs : List Nat) (p : PinBy) (s : State) : Option State :=
  match pl with
  | .tensor h _ => holdFrames h p fs s
  | _ => some s

/-- The frames that a descriptor reads, pinned. -/
def placePin (pl : Place) (fs : List Nat) (p : PinBy) (s : State) : State :=
  match pl with
  | .tensor h _ => pinFrames h fs p s
  | _ => s

/-! ### Uncorrectable blocks (R224) -/

/-- The class of consequence of a tensor's bytes at an offset: a current buffer of a veneer held as owner or primary,
one held as mirror or replica, or the alternate. -/
def ownedAt (s : State) (x : Job) (t : Tensor) (off : Nat) : Bool :=
  let o := ownRange s x.index t
  let w := max 1 (fmtBytes t.fmt)
  let i := off / w
  decide (o.1 ≤ i) && decide (i < o.2) || !onFabric s x

def alternateAt (t : Tensor) (r : TRun) (off : Nat) : Bool := decide (bufBytes t ≤ off) != r.cur

/-- A mirror or replica that has lost a block is fetched again at the next boundary. -/
def loseMirror (j : Fin 4) (id : BitVec 16) (s : State) : State :=
  match s.jobs[j] with
  | none => s
  | some x => match refetchOf s x id with
    | some r => setJob j (fun y => { y with refetch := (id, r.1) :: y.refetch.filter (·.1 != id) }) s
    | none => loseState j s

def veneerLoss (j : Fin 4) (x : Job) (t : Tensor) (off : Nat) (s : State) : State :=
  match tensIn x t.id with
  | none => coveredFault j s
  | some r =>
    if alternateAt t r off then coveredFault j s
    else if ownedAt s x t (off % max 1 (bufBytes t)) then loseState j s
    else loseMirror j t.id s

/-- The record slot that has the STAGING handle h has lost its contents. -/
def loseRecord (j : Fin 4) (h : Nat) (s : State) : State :=
  setJob j (fun y => { y with records := y.records.map fun k => if k.handle = h then { k with lost := true } else k }) s

/-- A lost block of a snapshot's staging or of a record slot. -/
def stagingLoss (j : Fin 4) (h : Nat) (s : State) : State :=
  if (s.sq.exports[j]).any (·.handle == h) then endExport j stMedia s
  else
    match (s.jobs[j]).bind (·.snap) with
    | some r => if r.handle = h then endOpt r.pend stMedia (dropSnap j r s) else loseRecord j h s
    | none => loseRecord j h s

/-- Drawer d of a PFN (R226). -/
def drawerOf (pfn : Nat) : Nat := pfn / 507904

/-- The PFN of a frame of a handle. -/
def pfnAt (s : State) (h i : Nat) : Nat :=
  match (handleAt s h).bind fun x => tabFind i x.table with
  | some f => f.loc
  | none => 0

/-- The fault, event and count of an uncorrectable block of the frame with a PFN, which handle h of job slot j holds. -/
def blockFault (h j pfn off : Nat) (s : State) : State :=
  let addr := pfn * 65536 + off % 65536 / 64 * 64
  let s1 := stkFault 0 h 0 j (drawerOf pfn) addr s
  bumpStk 4 1 (post { ev 0x0301 with
    inst := BitVec.ofNat 8 (drawerOf pfn), fault := true, job := if h = 0 then 0xFF else jobByte (slotFin j), addrKind := 1,
    addr := BitVec.ofNat 64 addr, info := s1.stk.faultInfo.setWidth 64 } s1)

/-- The 64 bytes of a lost block of a ring or an input window become zeros. -/
def zeroBlock (h off : Nat) (s : State) : State :=
  { s with stk := { s.stk with bytes := clearRange s.stk.bytes (hKey h (off / 64 * 64)) 64 } }

def zeroRing (id : BitVec 16) (off : Nat) (s : State) : State :=
  match ringNamed s id.toNat with
  | some c => if h : c.port < 24 then
      setSns ⟨c.port, h⟩ (fun p => ringWrite (off / 64 * 4) 4 (List.replicate 64 0) p) s
    else s
  | none => s

/-- An uncorrectable block of handle h: the fault, and what follows by class. The answer says whether the access goes
on. -/
def blockLost (h off : Nat) (s : State) : Bool × State :=
  match handleAt s h with
  | none => (true, s)
  | some x =>
    let s1 := blockFault h x.job (pfnAt s h (off / 65536)) off s
    let j := slotFin x.job
    match x.cls with
    | .ring => (true, zeroRing x.tensor off s1)
    | .input => (true, zeroBlock h off s1)
    | .staging => (true, stagingLoss j h s1)
    | .weightRO => (false, loseState j s1)
    | .veneer =>
      match s1.jobs[j], tensorOf s1 x.tensor with
      | some y, some t => (false, veneerLoss j y t off s1)
      | _, _ => (false, coveredFault j s1)
    | _ => (false, coveredFault j s1)

/-- Memory errors that a read of a place meets: corrected ones are counted, an uncorrectable one has its consequence. The
answer says whether the data is delivered. -/
def placeEcc (j : Fin 4) (p : Place) (c : Ecc) (s : State) : Bool × State :=
  match p with
  | .tensor h base =>
    let s1 := bumpStk 3 c.corr s
    match c.uncorr with
    | some a => blockLost h (base + a) s1
    | none => (true, s1)
  | .ring q =>
    let s1 := bumpStk 3 c.corr s
    match c.uncorr, ringHandle q s1 with
    | some a, some h => blockLost h.1 a s1
    | _, _ => (true, s1)
  | _ => storeEcc j c s

/-- The same for reads of drawer tensors by any other unit. -/
def drawerEcc (c : DrawerEcc) (s : State) : Bool × State :=
  let s1 := bumpStk 3 c.corr s
  match c.uncorr with
  | some q => blockLost q.1.toNat q.2 s1
  | none => (true, s1)

/-- An effect that takes data from drawers: it comes about where the data is delivered. -/
def afterEcc (c : DrawerEcc) (k : State → State) (s : State) : State :=
  if (drawerEcc c s).1 then k (drawerEcc c s).2 else (drawerEcc c s).2

/-! ### Moving rows -/

/-- One row. -/
def moveRow (j : Fin 4) (src dst : Place) (n : Nat) (s : State) (r : Nat × Nat) : State :=
  placeWrite j dst r.2 (placeRead s src r.1 n) (placeUse src r.1 n s)

/-- Every row, in ascending order (log entry 38). -/
def moveRows (j : Fin 4) (src dst : Place) (d : Desc8) (s : State) : State :=
  bumpStk 7 (cRows d * (cRowBytes d / 64)) (((srcRows d).zip (dstRows d)).foldl (moveRow j src dst (cRowBytes d)) s)

/-- The destination of a copy is created when an ACT or GRAD tensor of the job is first written (R225). -/
def createDst (j : Fin 4) (d : Desc8) (s : State) : Option State :=
  let id := BitVec.ofNat 16 (cDstId d)
  match tensorOf s id, tensAt s j id with
  | some t, some _ => if cDstKind d = 2 && (t.role == .act || t.role == .grad) then ensureHandle j id s else some s
  | _, _ => some s

/-- The rank at a mesh offset (R239): the coordinate on the axis moves by the signed delta, modulo the axis size. -/
def peerRankOf (s : State) (x : Job) (d : Desc8) : Nat :=
  let m := meshOf s x.index
  let c := coordIn s x.index
  let move := fun (v n : Nat) => (((v : Int) + cDelta d) % ((max 1 n : Nat) : Int)).toNat
  let t := if cAxis d = 0 then move c.t m.tF else c.t
  let p := if cAxis d = 1 then move c.p m.pF else c.p
  let q := if cAxis d = 2 then move c.d c.dTot else c.d
  (participants s x.index).getD ((q * max 1 m.pF + p) * max 1 m.tF + t) s.ws.rank

end Sys2Proof.Machine
end

