-- ==== Sys2Proof/Machine/FlashLog.lean ====
section
/-! DEFINITION. The block map of the flash (R341), its logs (R328, R342, R351, R409) and the anti-rollback counter
(R359). Words of the system area are programmed at once (log entry 17). -/

namespace Sys2Proof.Machine

/-! ### The block map (R341) -/

/-- Blocks of each region as manufactured. -/
def regionSize (n : Nat) : Nat :=
  [32, 32, 8, 8, 8, 32, 1024, 1024, 448, 448, 512, 32, 100, 100, 100, 100].getD n 0

def inRegion (n b : Nat) : Bool := decide (regionBase n ≤ b) && decide (b < regionBase n + regionSize n)

/-- The region of a block: 16 for the system area, 17 for the spare pool. -/
def regionOf (b : Nat) : Nat :=
  if b < 8 then 16
  else match (List.range 16).find? fun n => inRegion n b with
    | some n => n
    | none => 17

/-- Code-class regions. -/
def codeClass (n : Nat) : Bool := [0, 1, 2, 3, 4, 6, 7, 11].contains n

/-- Blocks of a region in service (R353, R366). -/
def regionBlocks (n : Nat) (s : State) : Nat := regionSize n - s.fls.lost.countP (inRegion n)

/-- The physical block behind a logical block (R339). -/
def physOf (s : State) (b : Nat) : Nat := tabGet b b s.fls.map

/-! ### The housekeeping log (R342, R344)

A log lies in two blocks: when one is full, firmware erases the other, sums up the state there, and goes on in it. Words of the
system area are programmed and verified at once (log entry 17). -/

/-- Code words of a log block (R339). -/
def logWords : Nat := 2048

/-- The SEQ that follows a log's last word. -/
def seqAfter (last : Option Word) : Word :=
  match last with
  | some q => q + 1
  | none => 0

/-- An erase count raised by one. -/
def raiseCount (b : Nat) (f : Fls) : Fls :=
  let p := tabGet b b f.map
  { f with eraseCounts := tabPut p (tabGet 0 p f.eraseCounts + 1) f.eraseCounts }

/-- What a SUMMARY holds: erase counts in groups of eight, the protection states, and the password digest. -/
def hkSummary (f : Fls) : List HkItem :=
  let count := fun (b : Nat) => tabGet 0 (tabGet b b f.map) f.eraseCounts
  let groups := (List.range 512).map fun g => HkItem.counts (8 * g) ((List.range 8).map fun i => count (8 * g + i))
  let used := groups.filter fun i => match i with
    | .counts _ cs => cs.any (· != 0)
    | _ => true
  used ++ [.states f.prot.toList] ++ (f.password.map HkItem.password).toList

/-- Consecutive words from SEQ q on. -/
def hkNumber (sum : Bool) : Word → List HkItem → List HkWord
  | _, [] => []
  | q, i :: t => ⟨sum, q, i⟩ :: hkNumber sum (q + 1) t

/-- The first block of a log's pair, or the second. -/
def pairBlock (first : Nat) (second : Bool) : Nat := if second then first + 1 else first

/-- A word is appended to the housekeeping log; a full block is summed up in the other (R342). The count of the erase that
this takes stands in the SUMMARY. -/
def hkAppend (i : HkItem) (s : State) : State :=
  let q := seqAfter (s.fls.hkLog.getLast?.map (·.seq))
  if s.fls.hkLog.length < logWords then
    bumpFls 2 1 { s with fls := { s.fls with hkLog := s.fls.hkLog ++ [⟨false, q, i⟩] } }
  else
    let f := raiseCount (pairBlock 6 (!s.fls.hkBlk)) s.fls
    let sum := hkSummary f
    let n := q + BitVec.ofNat 32 sum.length
    bumpFls 3 1 (bumpFls 2 (sum.length + 1) { s with fls := { f with
      hkLog := hkNumber true q sum ++ [⟨false, n, i⟩], hkBlk := !s.fls.hkBlk } })

/-- The ERASE word that precedes every erase (R344). -/
def countErase (b : Nat) (s : State) : State :=
  let f := raiseCount b s.fls
  hkAppend (.erase b (tabGet 0 (tabGet b b f.map) f.eraseCounts)) { s with fls := f }

/-! ### The bad-block table (R351) -/

/-- The SUMMARY of the current map: one word per block that is not where manufacture put it. -/
def bbSummary (f : Fls) : Word → List (Nat × Nat) → List BbWord
  | _, [] => []
  | q, m :: t => ⟨q, .summary m.1 m.2⟩ :: bbSummary f (q + 1) t

/-- A copy with an entry appended. -/
def bbPut (e : BbEntry) (ws : List BbWord) : List BbWord := ws ++ [⟨seqAfter (ws.getLast?.map (·.seq)), e⟩]

/-- A full copy is erased and holds the SUMMARY of the current map. -/
def bbCompact (c : Fin 2) (s : State) : State :=
  let s1 := countErase c.val s
  let q := seqAfter ((s1.fls.bbtLog[c]).getLast?.map (·.seq))
  let ws := bbSummary s1.fls q s1.fls.map
  bumpFls 3 1 (bumpFls 2 ws.length { s1 with fls := { s1.fls with bbtLog := s1.fls.bbtLog.set c ws } })

/-- Full copies are compacted, copy 1 first. -/
def bbRoom (s : State) : State :=
  if (s.fls.bbtLog[0]).length < logWords then s else bbCompact 0 (bbCompact 1 s)

/-- An entry is appended to copy 0, verified, and appended to copy 1. -/
def bbAppend (e : BbEntry) (s : State) : State :=
  let s1 := bbRoom s
  bumpFls 2 2 { s1 with fls := { s1.fls with bbt := s1.fls.bbt ++ [e], bbtLog := vmap (bbPut e) s1.fls.bbtLog } }

/-! ### Banks and the selector log (R328, R329, R337) -/

def bankSt (s : State) (b : Bank) : BankState :=
  match b with
  | .a => s.glb.bankA
  | .b => s.glb.bankB

def setBank (b : Bank) (st : BankState) (s : State) : State :=
  match b with
  | .a => { s with glb := { s.glb with bankA := st } }
  | .b => { s with glb := { s.glb with bankB := st } }

def otherBank (b : Bank) : Bank :=
  match b with
  | .a => .b
  | .b => .a

/-- The region and the first code word of a bank. -/
def bankRegion (b : Bank) : Nat :=
  match b with
  | .a => 6
  | .b => 7

def bankWord (b : Bank) : Nat := regionBase (bankRegion b) * 2048

/-- The latest word of the selector log about a bank. -/
def selLast (s : State) (x : Bank) : Option SelWord := s.fls.selLog.reverse.find? (·.bank == x)

/-- The SUMMARY word of a bank. -/
def selSum (s : State) (x : Bank) (q : Word) : SelWord :=
  let w := selLast s x
  ⟨.summary, x, (w.map (·.svn)).getD 0, q, (w.map (·.imageId)).getD 0, bankSt s x⟩

/-- Appends a word to the selector log; a full block is summed up in the other, a word for each bank. -/
def selAppend (k : SelKind) (b : Bank) (svn : BitVec 16) (id : DWord) (s : State) : State :=
  let q := seqAfter (s.fls.selLog.getLast?.map (·.seq))
  if s.fls.selLog.length < logWords then
    bumpFls 2 1 { s with fls := { s.fls with selLog := s.fls.selLog ++ [⟨k, b, svn, q, id, bankSt s b⟩] } }
  else
    let s1 := countErase (pairBlock 2 (!s.fls.selBlk)) s
    bumpFls 3 1 (bumpFls 2 3 { s1 with fls := { s1.fls with
      selLog := [selSum s .a q, selSum s .b (q + 1), ⟨k, b, svn, q + 2, id, bankSt s b⟩], selBlk := !s.fls.selBlk } })

/-- What the selector log says: the bank of the latest CONFIRM, and the selection under way with whether its ATTEMPT has
been written (R329). -/
structure SelState where
  c : Option SelWord
  sel : Option (SelWord × Bool)
  deriving DecidableEq, Repr

def selStep (x : SelState) (w : SelWord) : SelState :=
  match w.kind with
  | .select => { x with sel := if (x.c.map (·.bank)) = some w.bank then x.sel else some (w, false) }
  | .attempt => { x with sel := some (w, true) }
  | .confirm => ⟨some w, none⟩
  | .abandon => { x with sel := none }
  | .summary => if w.state == .active then { x with c := some w } else x
  | .opened => x
  | .valid => x

def selRead (ws : List SelWord) : SelState := ws.foldl selStep ⟨none, none⟩

/-! ### The key store's commit log (R408, R409) -/

/-- A commit word is appended; a full log block is compacted into the other. -/
def ksAppend (w : KsCommit) (s : State) : State :=
  if s.fls.ksLog.length < logWords then
    bumpFls 2 1 { s with fls := { s.fls with ksLog := s.fls.ksLog ++ [w] } }
  else
    let s1 := countErase (pairBlock 78 (!s.fls.ksBlk)) s
    bumpFls 3 1 (bumpFls 2 2 { s1 with fls := { s1.fls with
      ksLog := (ksWord s.fls).toList ++ [w], ksBlk := !s.fls.ksBlk } })

/-! ### The code words of the logs (R328, R342, R351, R408) -/

def selKindCode (k : SelKind) : Nat :=
  match k with
  | .opened => 1
  | .valid => 2
  | .select => 3
  | .attempt => 4
  | .confirm => 5
  | .abandon => 6
  | .summary => 7

def bankStateCode (b : BankState) : Nat :=
  match b with
  | .empty => 0
  | .open_ => 1
  | .valid => 2
  | .active => 3
  | .invalid => 4

/-- A selector word. What a SUMMARY says of its bank's state stands in the first reserved byte (log entry 17). -/
def selBytes (w : SelWord) : List Byte :=
  leBytes 1 (selKindCode w.kind) ++ leBytes 1 (if w.bank == .b then 1 else 0) ++ leBytes 2 w.svn.toNat ++
    leBytes 4 w.seq.toNat ++ leBytes 8 w.imageId.toNat ++
    leBytes 16 (if w.kind == .summary then bankStateCode w.state else 0)

def protCode (p : Prot) : Nat :=
  match p with
  | .unlocked => 0
  | .passwordLocked => 1
  | .permanent => 2

def hkBytes (w : HkWord) : List Byte :=
  let word := fun (kind block value digest : Nat) =>
    leBytes 2 (if w.summary then 7 else kind) ++ leBytes 2 block ++ leBytes 4 w.seq.toNat ++ leBytes 8 value ++
      leBytes 16 digest
  match w.item with
  | .erase b n => word 1 b n 0
  | .protect r st => word 2 r (protCode st) 0
  | .password d => word 3 0 0 d.toNat
  | .counts first cs => leBytes 2 7 ++ leBytes 2 first ++ leBytes 4 w.seq.toNat ++ cs.flatMap (leBytes 3)
  | .states sts => leBytes 2 7 ++ leBytes 2 0 ++ leBytes 4 w.seq.toNat ++ sts.flatMap (fun p => leBytes 1 (protCode p)) ++ leBytes 8 0

def causeCode (c : RetireCause) : Nat :=
  match c with
  | .program => 1
  | .erase => 2
  | .count => 3
  | .margin => 4

def bbBytes (w : BbWord) : List Byte :=
  let word := fun (kind cause logical old new : Nat) =>
    leBytes 1 kind ++ leBytes 1 cause ++ leBytes 2 logical ++ leBytes 4 w.seq.toNat ++ leBytes 2 old ++ leBytes 2 new ++
      leBytes 20 0
  match w.entry with
  | .grown c l old new => word 2 (causeCode c) l old (new.getD 0xFFFF)
  | .swap l old new => word 3 0 l old new
  | .summary l new => word 7 0 l l new

/-- A commit word of the key store; what the spec leaves of its 32 bytes is 0 (log entry 17). -/
def ksBytes (w : KsCommit) : List Byte :=
  leBytes 4 0x544D434B ++ leBytes 1 (if w.slot then 1 else 0) ++ leBytes 3 0 ++ leBytes 4 w.version.toNat ++ leBytes 4 0 ++
    leBytes 16 w.digest.toNat

/-- Code word n of a log that stands in the first or second block of a pair. -/
def logWord {α : Type} (first : Nat) (second : Bool) (bytes : α → List Byte) (ws : List α) (n : Nat) : Option (List Byte) :=
  if n / 2048 = pairBlock first second then (ws[n % 2048]?).map bytes else none

/-- What the code words of the logs and of the anti-rollback counter hold; none of an erased word. -/
def logBytes (f : Fls) (n : Nat) : Option (List Byte) :=
  (logWord 0 false bbBytes f.bbtLog[0] n).or <| (logWord 0 true bbBytes f.bbtLog[1] n).or <|
    (logWord 2 f.selBlk selBytes f.selLog n).or <| (logWord 6 f.hkBlk hkBytes f.hkLog n).or <|
      (logWord 78 f.ksBlk ksBytes f.ksLog n).or <|
        if 8192 ≤ n ∧ n < 8192 + f.ar then some (List.replicate 32 0) else none

/-! ### The anti-rollback counter (R331, R359, R360) -/

/-- The counter raised to v, step by step, as far as it can go. -/
def arRaise (v : Nat) (s : State) : State :=
  if v ≤ s.fls.ar then s
  else
    let goTo := min v 4096
    let s1 := bumpFls 2 (goTo - s.fls.ar) { s with fls := { s.fls with ar := goTo } }
    if 4096 < v then post (ev 0x020A) (flsFault 8 5 16 s1) else s1

end Sys2Proof.Machine
end

