-- ==== Sys2Proof/Machine/ImageOps.lean ====
section
/-! DEFINITION. What the flash holds of an image: code words as they read (R339, R350), the header (R320), and the
checks of IMAGE_COMMIT and of the boot (R324, R329, R331, R332, R411). -/

namespace Sys2Proof.Machine

/-! ### Reading the flash -/

/-- Every read of a code word that is uncorrectable is counted and posted with its block (R350). -/
def uncorrRead (b n : Nat) (s : State) : State :=
  if n = 0 then s
  else post { ev 0x0203 with info := BitVec.ofNat 64 b } (bumpFls 1 n (flsFault 2 b (regionOf b) s))

/-- The bytes of a code word: erased words read as 0xFF; an uncorrectable word delivers none. -/
def wordBytes (s : State) (w : Nat) : List Byte :=
  match tabFind w s.fls.words with
  | some (.good d) => d
  | some .bad => []
  | none => (logBytes s.fls w).getD (List.replicate 32 0xFF)

/-- n code words from word w on. -/
def readWords (s : State) (w n : Nat) : List Byte := (List.range n).flatMap fun i => wordBytes s (w + i)

def isBad (s : State) (w : Nat) : Bool := tabFind w s.fls.words == some .bad

/-! ### The header (R320) -/

structure ImgHeader where
  magic : Word
  format : BitVec 16
  sections : Nat
  imageId : DWord
  length : Nat
  svn : BitVec 16
  flags : BitVec 16
  reqCaps : Word
  tool : Word
  signer : BitVec 384
  reservedZero : Bool
  deriving DecidableEq, Repr

/-- The little-endian field of n bytes at offset o. -/
def leField (bs : List Byte) (o n : Nat) : Nat := leNat ((bs.drop o).take n)

def headerOf (bs : List Byte) : ImgHeader :=
  { magic := BitVec.ofNat 32 (leField bs 0 4), format := BitVec.ofNat 16 (leField bs 4 2), sections := leField bs 6 2,
    imageId := BitVec.ofNat 64 (leField bs 8 8), length := leField bs 0x10 4,
    svn := BitVec.ofNat 16 (leField bs 0x14 2), flags := BitVec.ofNat 16 (leField bs 0x16 2),
    reqCaps := BitVec.ofNat 32 (leField bs 0x18 4), tool := BitVec.ofNat 32 (leField bs 0x1C 4), signer := BitVec.ofNat 384 (beNat ((bs.drop 0x20).take 48)),
    reservedZero := ((bs.drop 0x50).take 48).all (· == 0) }

/-- The header of the image in a bank. -/
def bankHeader (s : State) (x : Bank) : ImgHeader := headerOf (readWords s (bankWord x) 4)

/-- Entry i of a section table that starts the bytes (R321). -/
def sectionOf (bs : List Byte) (i : Nat) : SectionEntry :=
  let f := fun (o n : Nat) => leField bs (16 * i + o) n
  ⟨BitVec.ofNat 16 (f 0 2), BitVec.ofNat 16 (f 2 2), BitVec.ofNat 32 (f 4 4), BitVec.ofNat 32 (f 8 4)⟩

/-- The section table of the image in a bank: at most 32 entries follow the header. -/
def bankTable (s : State) (x : Bank) : List SectionEntry :=
  let bs := readWords s (bankWord x + 4) 16
  (List.range (min 32 (bankHeader s x).sections)).map (sectionOf bs)

/-- MAGIC, FORMAT and SECTIONS are well formed. -/
def headerOk (h : ImgHeader) : Bool :=
  h.magic == 0x314E4445 && h.format == 1 && decide (2 ≤ h.sections) && decide (h.sections ≤ 32)

/-! ### The capability check (R324) -/

/-- The mask fields of GLB_CAPS: DRAWER_MASK, IODIE_B, INLAY_MASK and LINK_MASK. -/
def capMasks : Word := 0x00FF01FF

def fitsCaps (s : State) (req : Word) : Bool :=
  (req &&& capMasks &&& ~~~(glbCaps s.part)) == 0 && decide (bitsNat req 29 24 ≤ bitsNat (glbCaps s.part) 29 24)

/-! ### Signer and SVN (R331, R411) -/

def signers (s : State) : List (BitVec 384) :=
  match ksInForce s.fls with
  | some v => v.content.signers.filter (· != 0)
  | none => []

/-- What refuses a well-formed image at IMAGE_COMMIT and at every boot: its signer or signature, its SVN, and the units
it needs. -/
def imageRefusal (h : ImgHeader) (sigOk : Bool) (s : State) : Option Byte :=
  if !((signers s).contains h.signer && sigOk) then some stAuthFail
  else if h.svn.toNat < s.fls.ar then some stVerify
  else if !fitsCaps s h.reqCaps then some stAbsent
  else none

/-! ### The image session (R332, R388) -/

/-- The bank that IMAGE_OPEN takes: the inactive one, or the named one while none is ACTIVE. -/
def openTarget (s : State) (named : Bool) : Bank :=
  match s.glb.active with
  | some x => otherBank x
  | none => if named then .b else .a

/-- The session of an origin. -/
def sessionOf (s : State) (o : Origin) : Option ImgSession :=
  match s.fls.img with
  | some x => if x.origin == o then some x else none
  | none => none

/-- A margin failure recorded (R347). -/
def marginFault (b : Nat) (s : State) : State := post (ev 0x0207) (bumpFls 5 1 (flsFault 5 b (regionOf b) s))

end Sys2Proof.Machine
end

