-- ==== Sys2Proof/Machine/FlashOps.lean ====
section
/-! DEFINITION. Shared operations of the flash store (12_flash.md): the queue of operations (R345), what a completed or
failed operation does (R343, R347, R352, R353), refresh (R349), and what a task does when it ends. -/

namespace Sys2Proof.Machine

/-! ### Tasks (R345) -/

/-- Data cut into n code words from word w on; what is left of the last word stays erased. -/
def writeOps (w : Nat) : Nat → List Byte → List FlashOp
  | 0, _ => []
  | n + 1, bs => .program w (bs.take 32 ++ List.replicate (32 - bs.length) 0xFF) :: writeOps (w + 1) n (bs.drop 32)

/-- Code words that n bytes take. -/
def wordsFor (bytes : Nat) : Nat := (bytes + 31) / 32

def eraseOps (b n : Nat) : List FlashOp := (List.range n).map fun i => .erase (b + i)

/-- Blocks that n bytes take. -/
def blocksFor (bytes : Nat) : Nat := (bytes + 65535) / 65536

/-- The first task of the highest class. -/
def nextTask : List FlashTask → Option FlashTask
  | [] => none
  | t :: r => match nextTask r with
    | some u => if u.prio < t.prio then some u else some t
    | none => some t

/-- The pending results of such tasks. -/
def taskPends (sel : FlashTask → Bool) (s : State) : List Pend :=
  ((s.fls.tasks ++ s.fls.issued.toList).filter sel).filterMap (·.pend)

/-- Tasks of the image session. -/
def imageTask (t : FlashTask) : Bool :=
  match t.done with
  | .imageOpen => true
  | .imageWrite => true
  | .imageCommit _ => true
  | _ => false

/-- The open image session is abandoned (R332, R388): its pending results end with ABORTED, and its bank holds no image
(R337). -/
def abandonImage (s : State) : State :=
  match s.fls.img with
  | none => s
  | some x =>
    let s1 := endAll stAborted (taskPends imageTask s) (dropTask imageTask s)
    setBank x.bank .empty { s1 with fls := { s1.fls with img := none } }

/-! ### What the old content loses (R408, R410) -/

/-- Before the first erase of a task: the structure that its blocks held is gone. -/
def loseOld (d : FlashDone) (s : State) : State :=
  match d with
  | .keyStore slot _ =>
    { s with fls := { s.fls with ks := if slot then s.fls.ks.set 1 none else s.fls.ks.set 0 none } }
  | .firmware copy _ =>
    { s with fls := { s.fls with fw := if copy then s.fls.fw.set 1 none else s.fls.fw.set 0 none } }
  | .snapshot _ slot _ _ =>
    { s with fls := { s.fls with snaps := if slot then s.fls.snaps.set 1 none else s.fls.snaps.set 0 none } }
  | _ => s

/-- The die starts the task's next operation: an erase is counted first. -/
def beginOp (s : State) : State :=
  match s.fls.issued with
  | some t =>
    match t.ops with
    | .erase b :: _ => countErase b (loseOld t.done s)
    | _ => s
  | none => s

/-! ### Retirement (R352, R353) -/

/-- The last block of a region that is still in service. -/
def lastBlock (n : Nat) (s : State) : Option Nat :=
  (((List.range (regionSize n)).map (regionBase n + ·)).reverse).find? fun b => !s.fls.lost.contains b

/-- The donor of a retirement in a code-class region. -/
def donor (s : State) : Option Nat := [15, 14, 13, 12, 10].findSome? fun n => lastBlock n s

/-- Code words of a block. -/
def dropWords (b : Nat) (ws : List (Nat × WordState)) : List (Nat × WordState) :=
  ws.filter fun w => w.1 / 2048 != b

/-- A region shrinks by a block. -/
def shrink (b : Nat) (s : State) : State :=
  post { ev 0x0206 with info := BitVec.ofNat 64 (regionOf b) }
    (flsFault 4 b (regionOf b)
      { s with fls := { s.fls with lost := s.fls.lost ++ [b], words := dropWords b s.fls.words } })

/-- The bad-block entry, the count and the event of a retirement. -/
def noteRetired (c : RetireCause) (b : Nat) (new : Option Nat) (s : State) : State :=
  post (ev 0x0204) (bumpFls 4 1 (flsFault 3 b (regionOf b) (bbAppend (.grown c b (physOf s b) new) s)))

/-- The intact words of a block, which its retirement copies. -/
def intactWords (b : Nat) (s : State) : Nat := s.fls.words.countP fun w => w.1 / 2048 == b && w.2 != .bad

/-- The mapping of a logical block to physical block p. -/
def mapTo (b p : Nat) (s : State) : State :=
  { s with fls := { s.fls with map := tabPut b p s.fls.map, marginFails := s.fls.marginFails.filter (· != b) } }

/-- The first retirement with an empty pool (R353). -/
def poolEnd (s : State) : State :=
  if s.fls.poolEmpty then s else post (ev 0x0205) { s with fls := { s.fls with poolEmpty := true } }

/-- Block b is retired. The answer says whether a block stands behind it again: a spare or, in a code-class region, a
donor; else its region shrinks. -/
def retire (c : RetireCause) (b : Nat) (s : State) : Bool × State :=
  match s.fls.spares with
  | sp :: rest =>
    let p := physOf s sp
    (true, mapTo b p (noteRetired c b (some p) (bumpFls 2 (intactWords b s) { s with fls := { s.fls with spares := rest } })))
  | [] =>
    let s1 := poolEnd s
    if !codeClass (regionOf b) then (false, shrink b (noteRetired c b none s1))
    else
      match donor s1 with
      | some d =>
        let p := physOf s1 d
        (true, mapTo b p (shrink d (noteRetired c b (some p) (bumpFls 2 (intactWords b s1) s1))))
      | none => (false, shrink b (noteRetired c b none s1))

/-! ### Verification (R347) -/

/-- Which operations of a task are margin-verified as they end: those of a code-class region but for image data, which
IMAGE_COMMIT verifies, and the last word of a structure in a data-class region (R344). -/
def verifies (t : FlashTask) : Bool :=
  match t.done with
  | .keyStore _ _ => true
  | .firmware _ _ => true
  | .cred _ => true
  | .comm _ _ => true
  | .refresh _ _ => true
  | .cert _ => t.ops.length == 1
  | .snapshot _ _ _ _ => t.ops.length == 1
  | _ => false

/-- A block that fails its margins in a second write in a row is retired (R352). -/
def marginFailed (b : Nat) (s : State) : State :=
  let s1 := marginFault b s
  if s1.fls.marginFails.contains b then (retire .margin b s1).2
  else { s1 with fls := { s1.fls with marginFails := b :: s1.fls.marginFails } }

/-- Block b has passed its margins. -/
def marginPassed (sel : Nat → Bool) (s : State) : State :=
  { s with fls := { s.fls with marginFails := s.fls.marginFails.filter fun b => !sel b } }

/-! ### IMAGE_COMMIT (R332, R347) -/

/-- The block of the session's image that fails its margin read. -/
def commitMargin (x : ImgSession) (v : CommitVerdict) : Option Nat :=
  let base := regionBase (bankRegion x.bank)
  v.margin.filter fun b => decide (base ≤ b) && decide (b < base + x.blocks)

/-- The checks of IMAGE_COMMIT, in order. -/
def commitStatus (x : ImgSession) (v : CommitVerdict) (s : State) : Byte :=
  let h := bankHeader s x.bank
  if x.written * 32 != x.length then stVerify
  else if (commitMargin x v).isSome then stVerify
  else if !(headerOk h && h.length == x.length) then stVerify
  else if !((signers s).contains h.signer && v.sigOk) then stAuthFail
  else if h.svn.toNat < s.fls.ar then stVerify
  else if !fitsCaps s h.reqCaps then stAbsent
  else if 4096 < h.svn.toNat then stExhausted
  else stDone

/-- The bank is margin-read once it has been written whole. -/
def commitRead (x : ImgSession) (v : CommitVerdict) (s : State) : State :=
  if x.written * 32 != x.length then s
  else match commitMargin x v with
    | some b => marginFailed b s
    | none => marginPassed (fun b => regionOf b == bankRegion x.bank) s

/-- IMAGE_COMMIT: VALID is written, or the bank is INVALID; the session is closed. -/
def commitImage (x : ImgSession) (v : CommitVerdict) (s : State) : Byte × State :=
  let st := commitStatus x v s
  let h := bankHeader s x.bank
  let s1 := commitRead x v s
  let s2 := { s1 with fls := { s1.fls with img := none } }
  if st = stDone then (st, selAppend .valid x.bank h.svn h.imageId (setBank x.bank .valid s2))
  else (st, setBank x.bank .invalid s2)

/-! ### Snapshot exports (R184, R361) -/

/-- The export that is under way from slot j: of the job that stands there, or of one that has stopped. -/
def exportOf (j : Fin 4) (s : State) : Option SnapReq :=
  match s.sq.exports[j] with
  | some r => some r
  | none => ((s.jobs[j]).bind (·.snap)).filter (·.exporting)

/-- How the flash task of an export has ended. -/
def markExport (j : Fin 4) (ok : Bool) (s : State) : State :=
  let put := fun (r : SnapReq) => { r with written := some ok }
  if (s.sq.exports[j]).isSome then { s with sq := { s.sq with exports := upd s.sq.exports j (·.map put) } }
  else setJob j (fun y => { y with snap := y.snap.map put }) s

/-- The first block of a snapshot slot. -/
def snapBlock (slot : Bool) : Nat := if slot then 2624 else 2176

/-- The commit word of a snapshot. -/
def snapCommit (seq : DWord) (blob : List Byte) : List Byte :=
  leBytes 4 0x50414E53 ++ leBytes 4 blob.length ++ leBytes 8 seq.toNat ++ (digestBytes (sha384 blob)).take 16

/-- Every block is erased, first block first; the blob is programmed from byte 64 on; then the commit word. -/
def exportOps (slot : Bool) (seq : DWord) (blob : List Byte) : List FlashOp :=
  let b := snapBlock slot
  eraseOps b (blocksFor (64 + blob.length)) ++ writeOps (b * 2048 + 2) (wordsFor blob.length) blob ++
    [.program (b * 2048) (snapCommit seq blob)]

/-- An export to the flash with its salt at hand joins the queue; one at a time, for each names its slot by the one
before it. -/
def startExport (j : Fin 4) (s : State) : State :=
  let waits := (s.fls.tasks ++ s.fls.issued.toList).any fun t => match t.done with
    | .snapshot _ _ _ _ => true
    | _ => false
  match exportOf j s with
  | some r =>
    match r.staged, r.salt with
    | some part, some salt =>
      if r.flash && r.written.isNone && !waits then
        let slot := snapSlot s
        let q := snapNumber s
        let blob := partBlob s salt part
        queueTask ⟨4, exportOps slot q blob, .snapshot j slot q ⟨part, blob.length, snapKey s⟩, none, 0⟩ s
      else s
    | _, _ => s
  | none => s

/-! ### The end of a task -/

/-- The claimed spare of a refresh that ends early is a spare again. -/
def giveBack (t : FlashTask) (s : State) : State :=
  { s with fls := { s.fls with spares := s.fls.spares ++ claimedSpare t,
                               words := s.fls.words.filter fun w => !(claimedSpare t).contains (w.1 / 2048) } }

/-- A failed IMAGE_OPEN leaves no session. -/
def failImage (t : FlashTask) (s : State) : State :=
  match t.done, s.fls.img with
  | .imageOpen, some x => setBank x.bank .empty { s with fls := { s.fls with img := none } }
  | _, _ => s

/-- A KEY_UPDATE has yet to complete. -/
def keyTask (s : State) : Bool := (s.fls.tasks ++ s.fls.issued.toList).any fun t => match t.done with
  | .keyStore _ _ => true
  | _ => false

/-- A TENANT_END whose request to the noise source fails: the spec gives it no outcome, and it ends ABORTED, with sensor
capture left stopped (DESIGN CHOICE, log entry 55). -/
def tenantFails (s : State) : State :=
  match s.sec.tend with
  | some t => runLater (endWith t.1 stAborted { s with sec := { s.sec with tending := false, tend := none } })
  | none => s

/-- The draws of a TENANT_END that has reached its step 5: drawer keys, salt and spill key (R204, R417). -/
def tenantDraw (s : State) : State :=
  if s.sec.tend.isSome && !keyTask s then (if s.rng.state == .failed then tenantFails s else askRng ⟨.tenant, 4⟩ s)
  else s

/-- A task fails with MEDIA_ERROR. -/
def failTask (t : FlashTask) (s : State) : State :=
  let s1 := failImage t (endOpt t.pend stMedia (giveBack t { s with fls := { s.fls with issued := none } }))
  match t.done with
  | .keyStore _ _ => tenantDraw s1
  | .snapshot j _ _ _ => markExport j false s1
  | _ => s1

/-- The content of block b is in the spare: the SWAP entry maps them to each other, and the old block is erased
(R349). -/
def swapBlocks (b sp : Nat) (s : State) : State :=
  let pb := physOf s b
  let ps := physOf s sp
  let s0 := bbAppend (.swap b pb ps) s
  let s1 := { s0 with fls := { s0.fls with
    map := tabPut sp pb (tabPut b ps s0.fls.map),
    words := dropWords sp s0.fls.words, marks := s0.fls.marks.filter (· != b) } }
  queueTask ⟨5, [.erase sp], .spare sp, none, 0⟩ s1

/-- The last operation of a task has completed. -/
def finishTask (t : FlashTask) (s : State) : State :=
  let s1 := { s with fls := { s.fls with issued := none } }
  match t.done with
  | .imageOpen => endOpt t.pend stDone s1
  | .imageWrite => endOpt t.pend stDone s1
  | .imageCommit v =>
    match s1.fls.img with
    | some x => let r := commitImage x v s1; endOpt t.pend r.1 r.2
    | none => endOpt t.pend stRefused s1
  | .keyStore slot v =>
    let s2 := { s1 with fls := { s1.fls with
      ks := if slot then s1.fls.ks.set 1 (some v) else s1.fls.ks.set 0 (some v) } }
    tenantDraw (post (ev 0x0604) (endOpt t.pend stDone s2))
  | .firmware copy f =>
    let s2 := { s1 with fls := { s1.fls with
      fw := if copy then s1.fls.fw.set 1 (some f) else s1.fls.fw.set 0 (some f) } }
    warmRestart (endOpt t.pend stDone s2)
  | .cred root => endOpt t.pend stDone { s1 with fls := { s1.fls with operatorRoot := some root } }
  | .cert serial => endOpt t.pend stDone { s1 with fls := { s1.fls with cert := some serial } }
  | .comm claim ports => endOpt t.pend stDone { s1 with fls := { s1.fls with claim := claim, ports := ports } }
  | .user => endOpt t.pend stDone s1
  | .refresh b sp => swapBlocks b sp s1
  | .spare sp => { s1 with fls := { s1.fls with spares := s1.fls.spares ++ [sp] } }
  | .protection => endOpt t.pend stDone s1
  | .snapshot j slot q v =>
    markExport j true { s1 with fls := { s1.fls with
      snaps := if slot then s1.fls.snaps.set 1 (some (q, v)) else s1.fls.snaps.set 0 (some (q, v)) } }
  | .dropped => s1

/-- The operation at the head of the task under way has completed: the task ends, goes on, or yields after each block
erased or each 64 code words (R345). -/
def opDone (t : FlashTask) (erased : Bool) (s : State) : State :=
  match t.ops.tail with
  | [] => finishTask t s
  | rest =>
    if erased || t.run + 1 = 64 then
      { s with fls := { s.fls with issued := none, tasks := { t with ops := rest, run := 0 } :: s.fls.tasks } }
    else beginOp { s with fls := { s.fls with issued := some { t with ops := rest, run := t.run + 1 } } }

/-- The time that the core has waited for the die is counted: how long is open (log entry 16). -/
def countStall (s : State) : State :=
  let c := someCycles s
  bumpFls 6 c.1 c.2

/-- An operation whose block is retired is repeated on the block that replaces it, or its task fails. -/
def retireFor (c : RetireCause) (b : Nat) (t : FlashTask) (s : State) : State :=
  let r := retire c b s
  if r.1 then beginOp r.2 else failTask t r.2

/-- An erase has ended well (R339, R352): the block's words are erased; at its last cycle the block is retired. -/
def eraseEnds (t : FlashTask) (b : Nat) (marginOk : Bool) (s : State) : State :=
  let s1 := bumpFls 3 1 { s with fls := { s.fls with words := dropWords b s.fls.words } }
  let worn := decide (100000 ≤ tabGet 0 (physOf s1 b) s1.fls.eraseCounts)
  if verifies t && !marginOk then failTask t (marginFailed b s1)
  else if worn then
    let r := retire .count b s1
    if r.1 then opDone t true r.2 else failTask t r.2
  else opDone t true s1

/-- The image session counts the words that its IMAGE_WRITEs program. -/
def noteWritten (t : FlashTask) (s : State) : State :=
  match t.done with
  | .imageWrite => { s with fls := { s.fls with img := s.fls.img.map fun x => { x with written := x.written + 1 } } }
  | _ => s

/-- A word is programmed (R343). -/
def programEnds (t : FlashTask) (a : Nat) (d : List Byte) (marginOk : Bool) (s : State) : State :=
  let b := a / 2048
  let s1 := noteWritten t (bumpFls 2 1 { s with fls := { s.fls with words := tabPut a (.good d) s.fls.words } })
  if verifies t then
    if marginOk then opDone t false (marginPassed (· == b) s1)
    else failTask t (marginFailed b s1)
  else opDone t false s1

/-- A program aimed at a word that is not erased is refused (R343). -/
def reprogram (t : FlashTask) (a : Nat) (s : State) : State :=
  failTask t (post (ev 0x0201) (flsFault 0 (a / 2048) (regionOf (a / 2048)) s))

/-! ### Words appended to a log (R357, R410) -/

/-- The PROTECT word of a region whose state changes; what a command asked for before the region went PERMANENT no longer
applies (R354, R357). -/
def setProt (n : Fin 16) (st : Prot) (s : State) : State :=
  if s.fls.prot[n] == .permanent then s
  else
    hkAppend (.protect n.val st) { s with fls := { s.fls with
      prot := s.fls.prot.set n st,
      sessions := if st == .passwordLocked then s.fls.sessions
                  else s.fls.sessions &&& ~~~(BitVec.ofNat 16 (2 ^ n.val)) } }

/-- The block of the log that an operation appends to. -/
def logBlock (s : State) (o : FlashOp) : Nat :=
  match o with
  | .commit _ => pairBlock 78 s.fls.ksBlk
  | _ => pairBlock 6 s.fls.hkBlk

/-- The word stands: what it says takes effect. -/
def appendOp (o : FlashOp) (s : State) : State :=
  match o with
  | .protect n st => setProt n st s
  | .password d => hkAppend (.password d) { s with fls := { s.fls with password := some d } }
  | .commit w => ksAppend w s
  | _ => s

/-- The word has been programmed. System blocks are never remapped (R342); a word that fails its margins has no effect (R357;
log entry 17). -/
def logEnds (t : FlashTask) (o : FlashOp) (ok marginOk : Bool) (s : State) : State :=
  let b := logBlock s o
  if !ok then (if b < 8 then failTask t s else retireFor .program b t s)
  else if marginOk then opDone t false (appendOp o s)
  else failTask t (bumpFls 2 1 (if b < 8 then marginFault b s else marginFailed b s))

/-! ### Refresh (R348, R349) -/

/-- The threshold of corrected bits in a word: 1 for a code-class region, else FLS_ECC_THRESH, of which 0 acts as 1 and 3
as 2 (R348, R364). -/
def eccThresh (n : Nat) (s : State) : Nat :=
  if codeClass n then 1 else if s.fls.thresh = 0 then 1 else if s.fls.thresh = 3 then 2 else s.fls.thresh.toNat

/-- A refresh of block b into the first spare: its words that are not erased are copied. -/
def startRefresh (b : Nat) (s : State) : State :=
  match s.fls.spares with
  | [] => s
  | sp :: rest =>
    let ops := (s.fls.words.filter fun w => w.1 / 2048 == b).filterMap fun w =>
      match w.2 with
      | .good d => some (FlashOp.program (sp * 2048 + w.1 % 2048) d)
      | .bad => none
    queueTask ⟨5, ops, .refresh b sp, none, 0⟩ { s with fls := { s.fls with spares := rest } }

/-- FLS_ECC_CORR, once per block per boot. -/
def postEcc (b : Nat) (s : State) : State :=
  if s.fls.eccPosted.contains b then s
  else post { ev 0x0202 with info := BitVec.ofNat 64 b } { s with fls := { s.fls with eccPosted := b :: s.fls.eccPosted } }

/-- What reads of a block found (R348, R350). -/
def noteRead (s : State) (r : FlashRead) : State :=
  let n := regionOf r.block
  let s1 := uncorrRead r.block r.uncorr (bumpFls 0 r.bits s)
  if n < 16 && decide (eccThresh n s1 ≤ r.worst) then
    let s2 := postEcc r.block (flsFault 1 r.block n s1)
    if s2.fls.marks.contains r.block then s2
    else startRefresh r.block { s2 with fls := { s2.fls with marks := r.block :: s2.fls.marks } }
  else s1

/-- A marked block that no refresh has taken yet: the spare pool was empty, or its refresh failed. -/
def nextRefresh (s : State) : State :=
  let taken := (s.fls.tasks ++ s.fls.issued.toList).filterMap fun t => match t.done with
    | .refresh b _ => some b
    | _ => none
  match s.fls.marks.find? fun b => !taken.contains b with
  | some b => startRefresh b s
  | none => s

end Sys2Proof.Machine
end

