-- ==== Sys2Proof/Machine/JobCtl.lean ====
section
/-! DEFINITION. The commands of job control (01_operating_model.md, 06_schedule_and_recovery.md, 11_image_and_boot.md):
JOB_START, JOB_START_RESTORE, JOB_STOP, SNAPSHOT, REPLAY, JOB_HOLD_RELEASE, the ends of staging and export, and the
triggers of inference requests. -/

namespace Sys2Proof.Machine

/-- The argument word has a bit set at or above n. -/
def bitsFrom (w : Word) (n : Nat) : Bool := decide (2 ^ n ≤ w.toNat)

def jobArgOf (c : Cmd) : Nat := bitsNat c.a0 3 0
def slotArg (c : Cmd) : Fin 4 := slotFin (bitsNat c.a0 1 0)

/-! ### JOB_START (R26, R188, R334) -/

/-- A job that draws its seed has started once the draw is there (R206); any other at once. -/
def jobStartRun (idx : Nat) (p : Pend) (s : State) : State :=
  match startJob idx none s with
  | (.inl st, s1) => endWith p st s1
  | (.inr j, s1) =>
    if (s1.jobs[j]).any (·.seed.isNone) then setJob j (fun x => { x with startPend := some p }) (startPending p s1)
    else answer p stDone true (BitVec.ofNat 32 j.val) 0 0 0 s1

def execJobStart (c : Cmd) (s : State) : Out :=
  if bitAt c.a0 4 then .next s
  else runCmd c 0x20 (bitsFrom c.a0 6) (jobStartRun (jobArgOf c)) s

/-- The parts that a restore offers: those of the host's buffer, or the snapshot in force in the flash. -/
def offeredParts (c : Cmd) (parts : List Part) (s : State) : List Part :=
  if bitAt c.a0 5 then
    match snapInForce s with
    | some p => [p.part]
    | none => []
  else parts

/-- The offered parts pass the checks of R414: those of the host's buffer by the verdict on their signatures and tags; the
snapshot in force where its words read whole and it was sealed under the SNAP_KEY in force. -/
def partsVerify (c : Cmd) (ok : Bool) (s : State) : Bool :=
  if bitAt c.a0 5 then ok && (match snapInForce s with
    | some p => p.snapKey == snapKey s && !snapBroken s
    | none => true)
  else ok

def restoreRun (c : Cmd) (parts : List Part) (ok : Bool) (p : Pend) (s : State) : State :=
  let ps := offeredParts c parts s
  match startRefusal (jobArgOf c) true s with
  | some st => endWith p st s
  | none =>
    if !partsVerify c ok s then endWith p stVerify (startPending p s)
    else
      match startJob (jobArgOf c) (some ⟨some p, ps, none⟩) s with
      | (.inl st, s1) => endWith p st s1
      | (.inr j, s1) =>
        let s2 := startPending p s1
        if meshFabric (meshOf s2 (jobArgOf c)) then offerParts j s2 else restoreLocal j ps s2

def execJobStartRestore (c : Cmd) (parts : List Part) (ok : Bool) (s : State) : Out :=
  if bitAt c.a0 4 then runCmd c 0x20 (bitsFrom c.a0 6) (restoreRun c parts ok) s else .next s

/-! ### JOB_STOP (R29, R334) -/

/-- The job is at a boundary, in its hold, or aborted and yet to run again: nothing runs to its commit first, and nothing of
the boundary that comes before a JOB_STOP is left (R28). -/
def stopsNow (x : Job) : Bool :=
  x.saved.isNone && stopDue x &&
    (x.phase == .holding || x.phase == .aborting || x.phase == .stopped || x.phase == .boundary)

def jobStopRun (j : Fin 4) (p : Pend) (s : State) : State :=
  match s.jobs[j] with
  | none => endWith p stRefused s
  | some x =>
    let s1 := setJob j (fun y => { y with stop := some (y.stop.getD [] ++ [p]) }) s
    if stopsNow x then quiesceCheck (lateRest (tryEnact (stopJob j stAborted stDone 0 0 s1))) else startPending p s1

def execJobStop (c : Cmd) (s : State) : Out :=
  runCmd c 0x21 (bitsFrom c.a0 2) (jobStopRun (slotArg c)) s

/-! ### SNAPSHOT (R183, R184) -/

/-- The region that a snapshot to the flash would write is locked (R355). -/
def snapLocked (s : State) : Bool := !writable (if snapSlot s then 9 else 8) s

/-- The job is an adaptation job that runs. -/
def runsTraining (x : Job) : Bool := x.train && !x.parked && x.phase != .holding && x.phase != .stopped

/-- Between steps: what waits for the next boundary is due at once. -/
def atBoundary (x : Job) : Bool := x.phase == .boundary && x.saved.isNone && !x.rerun

def askSnap (j : Fin 4) (x : Job) (r : SnapReq) (s : State) : State :=
  let s1 := setJob j (fun y => { y with snap := some r }) s
  if atBoundary x then snapBoundary j s1 else s1

/-- The boundary the coordinator names: that of the step under way, or of the next. -/
def namedBoundary (x : Job) : Nat := x.step + 1

def snapshotRun (c : Cmd) (p : Pend) (s : State) : State :=
  let j := slotArg c
  let flash := bitAt c.a0 2
  let limit := c.a3.toNat * 65536
  match s.jobs[j] with
  | none => endWith p stRefused s
  | some x =>
    if !runsTraining x then endWith p stRefused s
    else if x.snap.isSome || (s.sq.exports[j]).isSome then endWith p stBusy s
    else if flash && snapLocked s then
      endWith p stProtected (protectedFault (if snapSlot s then 9 else 8) s)
    else
      let s1 := startPending p s
      let r := fun (n : Option Nat) => (⟨some p, flash, limit, none, none, false, 0, n, c.a2 ++ c.a1, none⟩ : SnapReq)
      if bitAt c.a0 3 && onFabric s x then
        if isCoord s then
          sendAll 0x10 0 (.jobAt x.index (namedBoundary x)) (askSnap j x (r (some (namedBoundary x))) s1)
        else sendCoord 0x10 0 (.job x.index) (askSnap j x (r none) s1)
      else askSnap j x (r (some 0)) s1

def execSnapshot (c : Cmd) (s : State) : Out := runCmd c 0x22 (bitsFrom c.a0 4) (snapshotRun c) s

/-- The staging has ended: the next step may start, and the export begins. A part that does not fit is dropped
(R184); an export to the flash joins the flash queue (R345). -/
def stagingEnd (j : Fin 4) (r : SnapReq) (part : Part) (s : State) : State :=
  if (if r.flash then snapArea s else r.limit) < partBytes s part then endOpt r.pend stExhausted (dropSnap j r s)
  else setJob j (fun y => { y with snap := some { r with exporting := true } }) s

/-- The engines have copied the state from the drawers, with the errors that they met there (R220, R224); a JOB_STOP that
came with the snapshot then stops the job (R28). -/
def execSnapshotStagingDone (j : Fin 4) (ecc : DrawerEcc) (s : State) : Out :=
  match (s.jobs[j]).bind (·.snap) with
  | some r =>
    match r.staged with
    | some part =>
      if r.exporting then .next s else .next (afterEcc ecc (fun s1 => replayBoundary j (stagingEnd j r part s1)) s)
    | none => .next s
  | none => .next s

/-- An export leaves its slot, and its staging frames are freed. -/
def dropExport (j : Fin 4) (r : SnapReq) (s : State) : State :=
  if (s.sq.exports[j]).isSome then
    let s1 := { s with sq := { s.sq with exports := s.sq.exports.set j none } }
    if r.handle = 0 then s1 else freeHandle r.handle s1
  else dropSnap j r s

/-- The export has ended; one to the host has written its blob into the host's buffer. -/
def exportEnd (j : Fin 4) (r : SnapReq) (part : Part) (salt : BitVec 256) (ok : Bool) (s : State) : State :=
  let s1 := dropExport j r s
  if ok then
    let s2 := if r.flash then s1 else hostWrite r.addr (partBlob s salt part) s1
    match r.pend with
    | some p => snapDone p part s2
    | none => s2
  else endOpt r.pend (if r.flash then stMedia else stAborted) s1

/-- How an export ends: to the flash, as its task has; to the host, as the copy into its buffer has. -/
def exportOutcome (r : SnapReq) (ok : Bool) : Option Bool := if r.flash then r.written else some ok

/-- The end of an export (R184); it needs the part's salt (R414). It has read the staging frames, with the errors that it met
there (R224); an export whose staging is lost has ended by that. -/
def execSnapshotExportDone (j : Fin 4) (ok : Bool) (ecc : DrawerEcc) (s : State) : Out :=
  match exportOf j s with
  | none => .next s
  | some r =>
    match r.staged with
    | none => .next s
    | some part =>
      match r.salt, exportOutcome r ok with
      | some salt, some done =>
        .next (afterEcc ecc (fun s1 => if exportOf j s1 = some r then exportEnd j r part salt done s1 else s1) s)
      | some _, none => .next (afterEcc ecc id s)
      | none, _ => .next s

/-! ### REPLAY (R190, R191) -/

/-- Steps in the record slots (R197); a slot whose record is lost holds none. -/
def recorded (x : Job) : Nat := min 2 (x.records.countP fun r => !r.lost)

def askReplay (j : Fin 4) (x : Job) (q : ReplayReq) (s : State) : State :=
  let s1 := setJob j (fun y => { y with replays := y.replays ++ [q] }) s
  if atBoundary x then beginReplay j s1 else s1

def replayRun (c : Cmd) (p : Pend) (s : State) : State :=
  let j := slotArg c
  let which := bitAt c.a0 2
  match s.jobs[j] with
  | none => endWith p stRefused s
  | some x =>
    if !runsTraining x || !recordMode s || (recordFor s x which).isNone then endWith p stRefused s
    else
      let s1 := startPending p s
      if onFabric s x then
        if isCoord s then
          sendAll 0x14 (if which then 4 else 0) (.jobAt x.index (namedBoundary x))
            (askReplay j x ⟨some p, which, some (namedBoundary x)⟩ s1)
        else sendCoord 0x14 (if which then 4 else 0) (.job x.index) (askReplay j x ⟨some p, which, none⟩ s1)
      else askReplay j x ⟨some p, which, some 0⟩ s1

def execReplay (c : Cmd) (s : State) : Out := runCmd c 0x23 (bitsFrom c.a0 3) (replayRun c) s

/-! ### The hold ends (R20, R21) -/

def execJobHoldRelease (j : Fin 4) (s : State) : Out :=
  match s.jobs[j] with
  | some x => if holdOver s x then .next (setJob j (fun y => { y with phase := .boundary, trigAt := s.aon.time.toNat }) s)
    else .next s
  | none => .next s

/-! ### Triggers (R174; log entry 52: a period ends when the timekeeper has gone on by it since the last, the
first since the end of the hold) -/

def execInferenceTriggerPeriod (j : Fin 4) (s : State) : Out :=
  match s.jobs[j] with
  | none => .next s
  | some x =>
    match jobEntryOf s x.index with
    | some e =>
      match trigPeriod e with
      | some n =>
        if serves s x && latencyBound s x && decide (x.trigAt + n ≤ s.aon.time.toNat) then
          .next (trigger j x (setJob j (fun y => { y with trigAt := x.trigAt + n }) s))
        else .next s
      | none => .next s
    | none => .next s

/-- The ring has grown by the count since the previous trigger. -/
def ringDue (s : State) (x : Job) (e : JobEntry) : Option Nat :=
  match trigRing e with
  | some (_, n) => if x.ringSeen + n ≤ ringCountNow s e then some (x.ringSeen + n) else none
  | none => none

def execInferenceTriggerRing (j : Fin 4) (s : State) : Out :=
  match s.jobs[j] with
  | none => .next s
  | some x =>
    match jobEntryOf s x.index with
    | some e =>
      match ringDue s x e with
      | some n =>
        if serves s x && latencyBound s x then
          .next (trigger j x (setJob j (fun y => { y with ringSeen := n }) s))
        else .next s
      | none => .next s
    | none => .next s

def execInferenceRequestDeferredStart (j : Fin 4) (s : State) : Out :=
  match s.jobs[j] with
  | none => .next s
  | some x =>
    match x.waiting with
    | t0 :: rest =>
      if serves s x && x.running.isNone then
        .next (beginRequest j t0 (setJob j (fun y => { y with waiting := rest }) s))
      else .next s
    | [] => .next s

end Sys2Proof.Machine
end

