-- ==== Sys2Proof/Machine/LinkOps.lean ====
section
/-! DEFINITION. Shared operations of the links (09_zwirvo_links.md): bringing a link up and down (R264, R265, R275),
receiving flits (R263), resending them, and receiving a message (R257, R259, R275). -/

namespace Sys2Proof.Machine

/-! ### Down and up (R265, R275, R278) -/

/-- A link without a session in the given state: keys, frame counters, credits and flits are gone (R265, R272). One whose
keys are exhausted stays STOPPED (R271). -/
def bareLink (st : LkState) (x : Link) : Link :=
  { Link.reset with state := if x.disable then .disabled else if x.stopped then .stopped else st, disable := x.disable,
                    stopped := x.stopped, fault := x.fault,
                    tempTrain := x.tempTrain, trainFails := x.trainFails, vMin := x.vMin, hMin := x.hMin,
                    worst := x.worst, ctrs := x.ctrs }

/-- The edge of a link leaves the view and the coordinator hears of it. -/
def reportDown (a : Adj) (s : State) : State :=
  if isMember s then sendCoord 0x08 0 (.adj a) (dropEdge a s) else s

/-- The consequences of a link that has left UP for good: its unacknowledged flits are lost, a step under way aborts, and
members that no path reaches any more have departed (R265, R275, R278). -/
def linkLost (st : LkState) (l : Fin 8) (s : State) : State :=
  let x := s.links[l]
  let e := edgeOf s l
  let s1 := setLink l (bareLink st) s
  if !x.peerMember || !isMember s then s1
  else
    let s2 := moveQueue l s (reportDown e s1)
    let gone := (unreachable s2).filter fun r => !s2.ws.departed.contains r
    lateRest (if gone.isEmpty then fabricFault s2 else departed gone s2)

def linkEvent (code : BitVec 16) (l : Fin 8) (s : State) : State :=
  post { ev code with inst := BitVec.ofNat 8 l.val } s

def linkFault (bit : Nat) (l : Fin 8) (s : State) : State :=
  setLink l (fun x => { x with fault := orBit x.fault bit }) s

/-- A link in UP, RETRAIN or PEER_QUIESCE goes down (R265). -/
def linkDownNow (l : Fin 8) (s : State) : State := linkLost .signalDetect l (linkEvent 0x0402 l s)

/-- The bring-up fails in the HELLO exchange (R265, R267). -/
def helloFail (l : Fin 8) (s : State) : State :=
  setLink l (bareLink .signalDetect) (linkEvent 0x0404 l (linkFault 2 l s))

/-- The coordinator of a workshop that dissolves sends DISSOLVE, and leaves it with the others (R281). -/
def dissolveAll (s : State) : State := dissolve (sendAll 0x13 0 (.dissolve s.ws.id) s)

/-- Two workshops with one image meet: the one with fewer members, or with the higher WS_ID, dissolves (R281). A member of
it that meets the other tells its coordinator by a DISSOLVE (log entry 67). -/
def meet (x : Link) (s : State) : State :=
  let n := s.ws.members.length
  if n < x.peerMembers || (n == x.peerMembers && decide (x.peerWs.toNat < s.ws.id.toNat)) then
    if s.ws.dissolving then s
    else if isCoord s then dissolveAll s
    else sendCoord 0x13 0 (.dissolve s.ws.id) s
  else post (ev 0x040C) { s with ws := { s.ws with fault := orBit s.ws.fault 1 } }

/-- A link in UP is reported to the coordinator (R265): between members it enters the view too. -/
def newsUp (l : Fin 8) (s : State) : State :=
  if (s.links[l]).peerMember then reportUp l s else sendCoord 0x07 0 (.adj (edgeOf s l)) s

/-- What a module does about its workshop as a link reaches UP (R265, R277, R281). -/
def upNews (l : Fin 8) (s : State) : State :=
  let x := s.links[l]
  let s1 := { s with ws := { s.ws with joinRefused := false } }
  if isMember s1 then
    if x.peerWs != 0 && x.peerWs != s1.ws.id then newsUp l (meet x s1) else newsUp l s1
  else if s1.ws.state == .holding then
    (if x.peerWs = s1.ws.id && decide (s1.ws.epoch.toNat < x.peerEpoch.toNat) then sendJoin s1 else s1)
  else if x.peerWs != 0 then sendJoin s1
  else s1

/-- Step 6 of R265. -/
def linkUpNow (l : Fin 8) (s : State) : State :=
  let mem := fun (x : Link) => s.ws.members.find? (·.serial == x.peerSerial)
  let s1 := setLink l (fun x => { x with
    state := .up, tempTrain := s.pwr.temp,
    peerMember := (mem x).isSome, peerRank := BitVec.ofNat 10 (match mem x with
      | some m => m.rank
      | none => 0) }) s
  upNews l (linkEvent 0x0401 l s1)

/-! ### HELLO and keys (R265 to R268) -/

/-- This module is lo on the link: it has the lower SERIAL (R268). -/
def isLo (s : State) (x : Link) : Bool := decide (s.serial.toNat < x.peerSerial.toNat)

/-- The keys of a generation (R268): 72 bytes from the ECDH product of this side's ephemeral key and the peer's, and the
nonces of the HELLO session. -/
def linkKeys (s : State) (x : Link) (eph : BitVec 384) (peerEph : List Byte) (gen : Word) : LinkKeys :=
  let z := beBytes 48 (Config.ecdhX eph peerEph).toNat
  let mine := leBytes 32 (x.nonce.getD 0).toNat
  let peer := leBytes 32 x.peerNonce.toNat
  let lo := isLo s x
  let salt := if lo then mine ++ peer else peer ++ mine
  let me := leBytes 8 s.serial.toNat
  let you := leBytes 8 x.peerSerial.toNat
  let info := [0x5A, 0x57, 0x4C, 0x31] ++ (if lo then me ++ you else you ++ me) ++ leBytes 4 gen.toNat
  let out := hkdf384 salt z info 72
  let loHi := (out.take 32, (out.drop 64).take 4)
  let hiLo := ((out.drop 32).take 32, (out.drop 68).take 4)
  let tx := if lo then loHi else hiLo
  let rx := if lo then hiLo else loHi
  ⟨tx.1, rx.1, tx.2, rx.2⟩

/-- The HELLO message of this module on a link (R266). -/
def helloBytes (s : State) (l : Fin 8) (x : Link) : List Byte :=
  let member := s.ws.state != .unjoined
  let flags := (if x.peerSeen then 1 else 0) + (if x.keysOn then 2 else 0) + (if s.ws.state == .holding then 4 else 0)
  let body := [1, BitVec.ofNat 8 flags] ++ leBytes 2 s.fls.claim.toNat ++
    leBytes 4 (if member then s.ws.epoch.toNat else 0) ++ leBytes 8 s.serial.toNat ++ leBytes 8 (imageIdOf s).toNat ++
    leBytes 8 (if member then s.ws.id.toNat else 0) ++ leBytes 2 (if member then s.ws.members.length else 0) ++
    [BitVec.ofNat 8 l.val, 0] ++ leBytes 32 (x.nonce.getD 0).toNat ++ beBytes 97 (Config.ecdhPub (x.eph.getD 0)).toNat ++
    List.replicate 3 0 ++ leBytes 2 (chainOf s).length ++ List.replicate 6 0 ++ chainOf s
  body ++ beBytes 96 (Config.sign (sha384 body)).toNat

/-- A HELLO message goes out. -/
def sayHello (l : Fin 8) (s : State) : State :=
  setLink l (fun x => { x with hellos := x.hellos + 1, helloOut := helloBytes s l x }) s

/-- Keys are installed once both nonces are exchanged and the peer has this module's HELLO: frame counters, sequence
numbers and credits start afresh, a HELLO with KEYS_ON goes out, and the ephemeral key is erased (R265, R268). -/
def tryKeys (l : Fin 8) (s : State) : State :=
  let x := s.links[l]
  match x.eph with
  | none => s
  | some k =>
    if x.state == .hello && x.nonce.isSome && x.peerSeen && x.seenByPeer && !x.keyed then
      setLink l (fun y => { y with
        keyed := true, keys := some (linkKeys s x k x.peerEph 0), eph := none, gen := 0, txF := 0, rxF := 0, txSeq := 0,
        rxSeq := 0, unacked := [], resend := [], credits := Link.reset.credits, creditsBack := vrep 4 0,
        credSeen := vrep 4 0, nak := false, discard := false, dataRun := 0, tagRun := 0 })
        (sayHello l (setLink l (fun y => { y with keysOn := true }) s))
    else s

/-- A HELLO session begins: its nonce and its ephemeral key are asked for (R204, R266). -/
def beginHello (l : Fin 8) (s : State) : State :=
  askRng ⟨.hello l.val, 2⟩ (setLink l (fun x => { bareLink .hello x with
    lanes := 0xF, trainFails := 0, tempTrain := s.pwr.temp }) s)

/-- The peer's HELLO passes: what it says is noted. -/
def takeHello (l : Fin 8) (m : Hello) (s : State) : State :=
  tryKeys l (setLink l (fun x => { x with
    state := .hello, peerSerial := m.serial, peerClaim := BitVec.ofNat 10 m.claim, peerLink := m.link,
    peerWs := m.wsId, peerEpoch := m.epoch, peerMembers := m.members, peerHolding := m.holding, peerNonce := m.nonce,
    peerEph := m.ephPub, peerSeen := true, seenByPeer := x.seenByPeer || m.peerSeen }) s)

/-- The peer runs another image (R267). -/
def notAdmit (l : Fin 8) (m : Hello) (s : State) : State :=
  let was := (s.links[l]).state == .notAdmitted
  let s1 := setLink l (fun x => { x with
    state := .notAdmitted, peerSerial := m.serial, peerClaim := BitVec.ofNat 10 m.claim, peerLink := m.link }) s
  if was then s1 else linkEvent 0x0405 l (linkFault 3 l s1)

/-! ### Resending (R263, R264) -/

def retryMax (s : State) : Nat := max 1 (bitsNat s.ws.cfgForce 27 24)

/-- The unacknowledged flits from a sequence number on. -/
def fromSeq (n : BitVec 12) : List TxFlit → List TxFlit
  | [] => []
  | f :: t => if f.seq = n then f :: t else fromSeq n t

/-- Flits resent beyond their limit: the link retrains at once without them, and steps abort (R264). -/
def retryExceeded (l : Fin 8) (s : State) : State :=
  let s1 := linkEvent 0x0406 l (linkFault 4 l (setLink l (fun x => { x with unacked := [], resend := [] }) s))
  lateRest (fabricFault (retrainLink false l s1))

/-- The flits from a sequence number on are to be resent, in the slots that follow (log entry 33). -/
def resendFrom (n : BitVec 12) (l : Fin 8) (s : State) : State :=
  let fs := fromSeq n s.links[l].unacked
  match fs with
  | [] => s
  | f :: _ =>
    if retryMax s ≤ f.resends then retryExceeded l s
    else setLink l (fun x => { x with resend := fs.map (·.seq) }) s

/-! ### A received flit -/

/-- The errors that the decoder and the tag check find in a flit (R263): counters, and whether the flit is good. A codeword
that the flit before it overlaps too counts once. -/
def flitErrors (l : Fin 8) (rx : FlitRx) (s : State) : Bool × State :=
  let s1 := bumpLink l 3 (rx.uncorr - if rx.shared then 1 else 0) (bumpLink l 2 rx.corr s)
  if 0 < rx.uncorr then (false, s1)
  else if rx.tagOk then (true, setLink l (fun x => { x with tagRun := 0 }) s1)
  else (false, bumpLink l 5 1 (setLink l (fun x => { x with tagRun := x.tagRun + 1 }) s1))

/-- A bad flit: DATA flits are discarded until the expected one is resent, and a NAK is due. -/
def badFlit (l : Fin 8) (s : State) : State := setLink l (fun x => { x with nak := true, discard := true }) s

/-- A sequence number at or after the one that the peer expects next. -/
def ahead (n seq : BitVec 12) : Bool := decide ((seq - n).toNat < 2048)

/-- Flits acknowledged are kept no longer: those before the SEQ that the peer expects next. -/
def dropAcked (n : BitVec 12) (x : Link) : Link :=
  { x with unacked := x.unacked.filter fun f => ahead n f.seq, resend := x.resend.filter (ahead n) }

/-- The credits that a LINK flit returns (R256, R260). -/
def addCredits (cred : List (BitVec 16)) (x : Link) : Link :=
  let at_ := fun (k : Nat) => cred.getD k 0
  let add := fun (k : Nat) (c seen : BitVec 16) => c + (at_ k - seen)
  { x with credits := ⟨#[add 0 x.credits[0] x.credSeen[0], add 1 x.credits[1] x.credSeen[1],
                         add 2 x.credits[2] x.credSeen[2], add 3 x.credits[3] x.credSeen[3]], rfl⟩,
           credSeen := ⟨#[at_ 0, at_ 1, at_ 2, at_ 3], rfl⟩ }

/-! ### Rekeying (R270, R271) -/

/-- A rekey begins on this side, by its own OFFER or by that of the peer: a fresh key is asked for (R206). -/
def beginRekey (l : Fin 8) (first : Bool) (peerEph : List Byte) (s : State) : State :=
  askRng ⟨.rekey l.val, 1⟩ (setLink l (fun x => { x with
    rekey := some { gen := x.gen + 1, first := first, drawn := false, answered := !first, txAt := none, txAck := false,
                    rxAt := none, txDone := false, rxDone := false, eph := none, peerEph := peerEph, keys := none } }) s)

/-- Both OFFERs are there: the keys of the new generation are derived, and the ephemeral key goes (R268, R270). -/
def offerKeys (l : Fin 8) (s : State) : State :=
  let x := s.links[l]
  match x.rekey with
  | some r =>
    match r.eph with
    | some k =>
      if r.answered && r.keys.isNone then
        setLink l (fun y => { y with rekey := some { r with keys := some (linkKeys s x k r.peerEph r.gen) } }) s
      else s
    | none => s
  | none => s

/-- The switch point of a transmitter, once the keys are there: 4,096 slots ahead or more (the choice is open: log entry 8).
The side that answers first waits for the SWITCH of the other, which shows that its OFFER has arrived. -/
def chooseSwitch (l : Fin 8) (s0 : State) : State :=
  let s := offerKeys l s0
  let x := s.links[l]
  match x.rekey with
  | some r =>
    if r.keys.isSome && r.txAt.isNone && (r.first || r.rxAt.isSome) then
      let c := someCycles s
      setLink l (fun y => { y with
        rekey := some { r with txAt := some (x.txF + BitVec.ofNat 64 (4096 + c.1 % 4096)), txAck := false } }) c.2
    else s
  | none => s

/-- The rekey part of a LINK flit. -/
def rekeyPart (l : Fin 8) (b : LinkBody) (s : State) : State :=
  let s1 := if b.switchAck then
      setLink l (fun x => { x with rekey := x.rekey.map fun r => { r with txAck := r.txAck || r.txAt.isSome } }) s
    else s
  match b.rekey with
  | .none => s1
  | .offer g pub ok =>
    if ok && g == (s1.links[l]).gen + 1 then
      if (s1.links[l]).rekey.isNone then beginRekey l false pub s1
      else chooseSwitch l (setLink l (fun x => { x with rekey := x.rekey.map fun r =>
        if r.answered then r else { r with answered := true, peerEph := pub } }) s1)
    else s1
  | .switch g n =>
    if g == (s1.links[l]).gen + 1 && (s1.links[l]).rekey.isSome then
      chooseSwitch l (setLink l (fun x => { x with switchAck := true, rekey := x.rekey.map fun r =>
        if r.rxDone then r else { r with rxAt := some n } }) s1)
    else s1

/-! ### A received message (R257, R259, R275) -/

/-- Kinds 0x07 to 0x0F and 0x13 are accepted in any epoch. -/
def anyEpoch (k : Byte) : Bool := (decide (7 ≤ k.toNat) && decide (k.toNat ≤ 15)) || k == 0x13

/-- R259. -/
def msgOk (s : State) (h : MsgHdr) : Bool :=
  kindKnown h.kind && vlOf h.kind == h.vl && (anyEpoch h.kind || h.epoch == s.ws.epoch) && decide (h.hops.toNat < 16)

/-- The flits that a message of this LENGTH takes. -/
def flitCount (h : MsgHdr) : Nat := (16 + h.length.toNat + 239) / 240

/-- The bounds of R257: LENGTH up to 65,536, and at most 4 flits on VL0. -/
def msgFits (h : MsgHdr) : Bool := decide (h.length.toNat ≤ 65536) && (h.vl != 0 || decide (flitCount h ≤ 4))

/-- The ranks whose every link to this module carries QUIESCE flits (R278). -/
def quietRanks (s : State) : List Nat :=
  let ls := (List.finRange 8).filter fun l => (s.links[l]).peerMember && (carries (s.links[l]))
  ((ls.map fun l => (s.links[l]).peerRank.toNat).eraseDups).filter fun r =>
    ls.all fun l => (s.links[l]).peerRank.toNat != r || (s.links[l]).state == .peerQuiesce

/-- Ranks that have gone quiet since: their limit counts from now. -/
def noteQuiet (s : State) : State :=
  let qs := quietRanks s
  let news := qs.filter fun r => !s.ws.quiet.contains r
  { s with ws := { s.ws with
    quiet := qs, heard := (news.map fun r => (r, s.aon.time)) ++ s.ws.heard.filter fun q => !news.contains q.1 } }

/-- The count of the collective progress limit starts again for the jobs selected (R313). -/
def colAgain (sel : Fin 4 → Bool) (s : State) : State :=
  { s with col := { s.col with
    heard := s.col.heard.filter fun q => !sel q.1,
    since := vmapIdx (fun n t => if sel (slotFin n) then s.aon.time else t) s.col.since } }

/-- Job slot j takes part in a job of which rank r is a member. -/
def jobOf (r : Nat) (s : State) (j : Fin 4) : Bool :=
  match s.jobs[j] with
  | some x => (jobRanks s x.index).contains r
  | none => false

/-- Flits other than QUIESCE arrive again on a link: its member is no longer quiet, and the collectives of its jobs count
from now (log entry 121). -/
def dataBack (l : Fin 8) (was s : State) : State :=
  if (was.links[l]).state == .peerQuiesce && (s.links[l]).state == .up then
    colAgain (jobOf (s.links[l]).peerRank.toNat s) (noteQuiet s)
  else s

/-- The flits of a message arrive in order and are accepted. -/
def acceptFlits (l : Fin 8) (h : MsgHdr) (s : State) : State :=
  let n := flitCount h
  dataBack l s (bumpLink l 1 n (setLink l (fun x => { x with
    state := .up, rxSeq := x.rxSeq + BitVec.ofNat 12 n, discard := false,
    creditsBack := x.creditsBack.set h.vl.toNat (x.creditsBack[h.vl.toNat] + BitVec.ofNat 16 n) }) s))

/-- A received message as it goes on: one hop further. -/
def passedOn (h : MsgHdr) (p : Payload) : Sent := ⟨h.dst, h.src, h.kind, h.arg, h.epoch, h.hops + 1, p⟩

/-- A message that is not for this module goes on along its route, or is dropped (R275). -/
def forwardOne (h : MsgHdr) (p : Payload) (s : State) : State :=
  if 15 ≤ h.hops.toNat then bumpWs 1 1 s
  else sendTo h.dst.toNat (passedOn h p) (noteSent (passedOn h p) s)

/-- A message to every member goes on to this module's children in the tree of its source. A copy whose HOPS would reach 16
is dropped and counted (R259). -/
def forwardAll (h : MsgHdr) (p : Payload) (s : State) : State :=
  let kids := kidLinks s h.src.toNat
  if 15 ≤ h.hops.toNat then bumpWs 1 kids.length s
  else kids.foldl (fun s' l => enqueue l (passedOn h p) s') s

/-- The message is addressed to this module. -/
def forMe (s : State) (h : MsgHdr) : Bool :=
  h.dst == 0xFFFF || h.dst == 0xFFFE || (s.ws.state != .unjoined && h.dst.toNat == s.ws.rank)

/-- A message arrives on link l: it is checked, forwarded, or delivered to k. -/
def recv (l : Fin 8) (h : MsgHdr) (p : Payload) (k : State → State) (s : State) : Out :=
  if !carries s.links[l] || s.pwr.coreDown || !running s then .next s
  else
    let s1 := acceptFlits l h s
    if !msgFits h then .next s1
    else if !msgOk s1 h then .next (bumpWs 1 1 s1)
    else if !forMe s1 h then .next (forwardOne h p s1)
    else .next (k (if h.dst = 0xFFFE then forwardAll h p s1 else s1))

end Sys2Proof.Machine
end

