-- ==== Sys2Proof/Machine/Links.lean ====
section
/-! DEFINITION. The link commands (09_zwirvo_links.md): bring-up, flits, retry, rekeying, margins and retrains, and the
writes of FAB_LCTRL and FAB_WS_CFG. WAKE_PATTERN stands with the wake sources. -/

namespace Sys2Proof.Machine

/-- A link that the part has, on a module whose links are powered (R7, R455). -/
def linkLive (l : Fin 8) (s : State) : Bool := linkPresent s.part l.val && running s

def inState (l : Fin 8) (st : LkState) (s : State) : Bool := linkLive l s && (s.links[l]).state == st

/-! ### Bring-up (R265 to R267) -/

def execSignalDetect (l : Fin 8) (s : State) : Out :=
  if inState l .signalDetect s then
    .next (setLink l (fun x => { x with state := .training, trainFailed := false }) s)
  else .next s

def execFlitAlignment (l : Fin 8) (s : State) : Out :=
  if inState l .training s && !(s.links[l]).trainFailed then .next (beginHello l s) else .next s

/-- The third failure in a row is reported. -/
def execTrainTimeout (l : Fin 8) (s : State) : Out :=
  if inState l .training s && !(s.links[l]).trainFailed then
    let n := (s.links[l]).trainFails + 1
    let s1 := setLink l (fun x => { x with trainFailed := true, trainFails := n, lanes := 0 }) s
    .next (if n = 3 then linkEvent 0x0403 l (linkFault 1 l s1) else s1)
  else .next s

def execTrainRetryDue (l : Fin 8) (s : State) : Out :=
  if inState l .training s && (s.links[l]).trainFailed then
    .next (setLink l (fun x => { x with state := .signalDetect, trainFailed := false }) s)
  else .next s

/-- R267. A message with a reserved field value, or of another VERSION, is dropped, and so is one after keying (R255). -/
def execHello (l : Fin 8) (m : Hello) (s : State) : Out :=
  if (inState l .hello s || inState l .notAdmitted s) && !(s.links[l]).keyed && m.reservedZero && m.version == 1 then
    if !(m.chainOk && m.sigOk) then .next (helloFail l s)
    else if m.imageId != imageIdOf s then .next (notAdmit l m s)
    else .next (takeHello l m s)
  else .next s

/-- The HELLO message is sent again while the peer has not answered it. -/
def execHelloResendDue (l : Fin 8) (s : State) : Out :=
  if inState l .hello s && (s.links[l]).nonce.isSome && !(s.links[l]).keyed then
    .next (sayHello l s)
  else .next s

def execHelloTimeout (l : Fin 8) (s : State) : Out :=
  if inState l .hello s && !(s.links[l]).keyed then .next (helloFail l s) else .next s

def execKeysOnTimeout (l : Fin 8) (s : State) : Out :=
  if inState l .hello s && (s.links[l]).keyed then .next (helloFail l s) else .next s

def execNotAdmittedHelloDue (l : Fin 8) (s : State) : Out :=
  if inState l .notAdmitted s then .next (sayHello l s) else .next s

/-! ### Flits (R255, R256, R263, R282) -/

/-- A good LINK flit in force: acknowledgement, credits, NAK, rekey. -/
def linkBody (l : Fin 8) (b : LinkBody) (s : State) : State :=
  let n : BitVec 12 := b.ack
  let s1 := setLink l (fun x => addCredits b.cred { dropAcked n x with
    state := if x.state == .peerQuiesce then .up else x.state }) s
  let s2 := rekeyPart l b s1
  let s3 := if (s2.links[l]).state == .hello then linkUpNow l s2 else s2
  if b.nak then resendFrom n l s3 else s3

/-- A flit is looked at after keying only; one with ENC = 0 is dropped (R255). -/
def sealedFlit (l : Fin 8) (rx : FlitRx) (s : State) : Bool := linkLive l s && slotting (s.links[l]) && rx.enc

/-- A good DATA flit that is not part of a message delivered whole by its own command. -/
def dataFlit (l : Fin 8) (seq : BitVec 12) (retx : Bool) (vl : BitVec 2) (s : State) : State :=
  let x := s.links[l]
  if x.state == .hello || seq != x.rxSeq || (x.discard && !retx) then s
  else
    bumpLink l 1 1 (setLink l (fun y => { y with
      state := .up, rxSeq := y.rxSeq + 1, discard := false,
      creditsBack := y.creditsBack.set vl.toNat (y.creditsBack[vl.toNat] + 1) }) s)

/-- A LINK flit that is bad: the first sealed one must pass its tag (R265). -/
def badLink (l : Fin 8) (rx : FlitRx) (s : State) : State :=
  if (s.links[l]).state == .hello && rx.uncorr == 0 then helloFail l s else badFlit l s

def execLinkFlit (l : Fin 8) (f : Flit) (s : State) : Out :=
  match f with
  | .link rx b =>
    if !sealedFlit l rx s then .next s
    else
      let e := flitErrors l rx s
      if !e.1 then .next (badLink l rx e.2)
      else if !rx.hdrReservedZero || !b.reservedZero then .next e.2
      else .next (dataBack l e.2 (linkBody l b e.2))
  | .data rx seq retx vl =>
    if !sealedFlit l rx s then .next s
    else
      let e := flitErrors l rx s
      if !e.1 then .next (badFlit l e.2)
      else if !rx.hdrReservedZero then .next e.2
      else .next (dataBack l e.2 (dataFlit l seq retx vl e.2))

/-- A QUIESCE flit: the link stays, and carries no DATA toward the partner (R282). -/
def execQuiesceFlit (l : Fin 8) (rx : FlitRx) (b : LinkBody) (s : State) : Out :=
  if !sealedFlit l rx s then .next s
  else
    let e := flitErrors l rx s
    if !e.1 then .next (badFlit l e.2)
    else if !rx.hdrReservedZero || !b.reservedZero then .next e.2
    else
      let s1 := linkBody l b e.2
      if carries (s1.links[l]) then
        .next (noteQuiet (setLink l (fun x => { x with state := .peerQuiesce }) s1))
      else .next s1

/-- After 512 DATA flits a LINK flit is due: the slot goes to it, or to what comes before it (R261). -/
def execLinkFlitDue (l : Fin 8) (s : State) : Out :=
  if inState l .up s && decide (512 ≤ (s.links[l]).dataRun) then .next (flitSlot l s) else .next s

def execRetxTimeout (l : Fin 8) (s : State) : Out :=
  match (s.links[l]).unacked with
  | f :: _ => if inState l .up s then .next (resendFrom f.seq l s) else .next s
  | [] => .next s

/-- Sixteen tag failures in a row. -/
def execTagFailLimit (l : Fin 8) (s : State) : Out :=
  if linkLive l s && slotting (s.links[l]) && decide (16 ≤ (s.links[l]).tagRun) then
    if carries (s.links[l]) then .next (linkDownNow l s) else .next (helloFail l s)
  else .next s

def execLos (l : Fin 8) (s : State) : Out :=
  if linkLive l s && (carries (s.links[l])) then .next (linkDownNow l (linkFault 0 l s)) else .next s

/-! ### Rekeying (R270, R271) -/

/-- The side whose transmitter has crossed 2^32 starts; when both directions have, lo does. -/
def startsRekey (s : State) (x : Link) : Bool :=
  decide (2 ^ 32 ≤ x.txF.toNat) && (decide (x.rxF.toNat < 2 ^ 32) || isLo s x)

def execRekeyStart (l : Fin 8) (s : State) : Out :=
  if linkLive l s && carries (s.links[l]) && (s.links[l]).rekey.isNone && startsRekey s (s.links[l]) then
    .next (beginRekey l true [] s)
  else .next s

/-- A direction that has come to its switch point switches; a flit slot does the same as it begins. -/
def execKeySwitch (l : Fin 8) (tx : Bool) (s : State) : Out :=
  if !(linkLive l s) then .next s else .next (if tx then switchTx l s else switchRx l s)

/-- A request for fresh keys of this link waits. -/
def rekeyAsked (l : Fin 8) (s : State) : Bool := s.rng.waiting.any fun r => r.owner == .rekey l.val

/-- The OFFER goes on; a key that could not be drawn is asked for again. -/
def execRekeyRetryDue (l : Fin 8) (s : State) : Out :=
  match (s.links[l]).rekey with
  | some r =>
    if !r.drawn && !rekeyAsked l s then
      .next (askRng ⟨.rekey l.val, 1⟩ s)
    else .next s
  | none => .next s

/-- A frame counter of either direction has reached n. -/
def reached (n : Nat) (x : Link) : Bool := decide (n ≤ x.txF.toNat) || decide (n ≤ x.rxF.toNat)

def execRekeyLate (l : Fin 8) (s : State) : Out :=
  if linkLive l s && carries (s.links[l]) && reached (2 ^ 33) (s.links[l]) then .next (linkEvent 0x0407 l (linkFault 5 l s))
  else .next s

def execLinkExhausted (l : Fin 8) (s : State) : Out :=
  if linkLive l s && carries (s.links[l]) && reached (2 ^ 34) (s.links[l]) then
    .next (linkLost .stopped l (linkEvent 0x0408 l (linkFault 6 l (setLink l (fun x => { x with stopped := true }) s))))
  else .next s

/-! ### Margins and retrains (R273, R274) -/

/-- What waits for a boundary goes ahead at once where no job runs. -/
def unitWorkIfIdle (s : State) : State := if noJobRuns s then unitWork s else s

def execFecErrorBurst (l : Fin 8) (uncorr corr : Nat) (s : State) : Out :=
  if linkLive l s && carries (s.links[l]) then
    let s1 := bumpLink l 3 uncorr (bumpLink l 2 corr s)
    .next (if 4 ≤ uncorr || 16384 ≤ corr then retrainLink false l s1 else s1)
  else .next s

def execLinkMarginLow (l : Fin 8) (vMin hMin : Byte) (lane : BitVec 2) (s : State) : Out :=
  if linkLive l s && carries (s.links[l]) then
    let low := decide (vMin.toNat < 25) || decide (hMin.toNat < 64)
    let s1 := setLink l (fun x => { x with vMin := vMin, hMin := hMin, worst := lane, marked := x.marked || low }) s
    .next (if low then unitWorkIfIdle (linkFault 7 l s1) else s1)
  else .next s

/-- The link is back: unacknowledged flits of a retrain started at once are resent. -/
def execLinkRetrainDone (l : Fin 8) (s : State) : Out :=
  if inState l .retrain s then
    let x := s.links[l]
    let s1 := setLink l (fun y => { y with state := .up, tempTrain := s.pwr.temp, urgent := false }) s
    let s2 := match x.unacked with
      | f :: _ => if x.urgent then resendFrom f.seq l s1 else s1
      | [] => s1
    .next (nextUnit 12 (retrainUnitDone l.val false s2))
  else .next s

def execLinkRetrainTimeout (l : Fin 8) (s : State) : Out :=
  if inState l .retrain s then .next (nextUnit 12 (retrainUnitDone l.val true (linkDownNow l s))) else .next s

/-! ### FAB_LCTRL and FAB_WS_CFG (R287, R292) -/

/-- The DISABLE bit of FAB_LCTRL as it is written. -/
def execFabDisable (l : Fin 8) (on : Bool) (s : State) : Out :=
  if !linkLive l s || (s.links[l]).disable == on then .next s
  else
    let s1 := setLink l (fun x => { x with disable := on }) s
    if on then
      (if carries (s.links[l]) || (s.links[l]).state == .retrain then
        .next (nextUnit 12 (retrainUnitDone l.val true (linkLost .disabled l s1)))
       else .next (setLink l (bareLink .disabled) s1))
    else .next (setLink l (bareLink .signalDetect) s1)

def execFabRestart (l : Fin 8) (s : State) : Out :=
  if inState l .stopped s then .next (setLink l (fun x => bareLink .signalDetect { x with stopped := false }) s)
  else .next s

def execSendWake (l : Fin 8) (s : State) : Out :=
  if inState l .signalDetect s || inState l .training s then .next (setLink l (fun x => { x with wake := true }) s)
  else .next s

def execRetrainReq (l : Fin 8) (s : State) : Out :=
  if linkLive l s && carries (s.links[l]) then
    .next (unitWorkIfIdle (setLink l (fun x => { x with marked := true }) s))
  else .next s

def execFabWsCfgWrite (v : Word) (s : State) : Out :=
  if !running s then .next s
  else if anyJob s then
    .next (post (ev 0x040E) { s with ws := { s.ws with fault := orBit s.ws.fault 4 } })
  else .next { s with ws := { s.ws with cfg := v &&& 0x0FFFFFFF } }

end Sys2Proof.Machine
end

