-- ==== Sys2Proof/Machine/Power.lean ====
section
/-! DEFINITION. The power controller's commands (16_power_clocks_reset.md, R384, R508): SET_POWER, SET_PERF, the
sideband, WAKE_N and the other wake sources, resets, rails, temperature, the watchdog, retrains and self-tests. -/

namespace Sys2Proof.Machine

/-! ### SET_POWER and SET_PERF (R454, R460, R461) -/

/-- While TENANT_END runs, a power or performance command waits for its end (R417). -/
def waitTenant (c : Cmd) (p : Pend) (s : State) : State := { s with sec := { s.sec with later := s.sec.later ++ [(p, c)] } }

def setPowerRun (c : Cmd) (p : Pend) (s : State) : State :=
  if s.sec.tending then waitTenant c p s else setPowerNow c p s

def execSetPower (c : Cmd) (s : State) : Out := runCmd c 0x01 (bitsFrom c.a0 3) (setPowerRun c) s

def setPerfRun (c : Cmd) (p : Pend) (s : State) : State :=
  if s.sec.tending then waitTenant c p s else setPerfNow c p s

/-- Every argument bit but the level is reserved. -/
def execSetPerf (c : Cmd) (s : State) : Out :=
  runCmd c 0x02 (bitsFrom c.a0 2 || c.a1 != 0 || c.a2 != 0 || c.a3 != 0) (setPerfRun c) s

/-! ### The sideband (R384) -/

/-- The sideband answers: in every state but OFF, and not without 12 V. -/
def sidebandOn (s : State) : Bool := s.aon.supply && !(s.pwr.state == .off && s.pwr.seq == .idle)

def sbAnswer (bs : Option (List Byte)) (s : State) : State := { s with hif := { s.hif with sideband := bs } }

/-- Bits 6:0 of PWR_STATUS (R483). -/
def powerByte (s : State) : Byte :=
  BitVec.ofNat 8 (stateCode s.pwr.state + stateCode s.pwr.target * 8 + if s.pwr.transition then 64 else 0)

def execPowerSet (data : Byte) (pecOk : Bool) (s : State) : Out :=
  if !sidebandOn s then .next s
  else if !pecOk || 8 ≤ data.toNat then .next (sbAnswer none s)
  else
    match stateOfCode data.toNat with
    | some goTo => .next (requestPower goTo none (sbAnswer (some []) s))
    | none => .next (sbAnswer none s)

def execPowerGet (s : State) : Out :=
  if sidebandOn s then .next (sbAnswer (some [powerByte s]) s) else .next s

def execWakeCause (s : State) : Out :=
  if sidebandOn s then .next (sbAnswer (some (leBytes 2 s.aon.wakeCause.toNat)) s) else .next s

def execIdent (s : State) : Out :=
  if sidebandOn s then .next (sbAnswer (some (leBytes 4 (glbId s.part).toNat)) s) else .next s

/-! ### Waking (R467 to R469) -/

/-- The state the module is in, or that the transition under way runs to. -/
def boundState (s : State) : PState := if s.pwr.seq == .idle then s.pwr.state else s.pwr.goal

/-- WAKE_N acts. -/
def wakeNow (s : State) : State :=
  let b := boundState s
  if b == .off || (bitAt s.aon.wakeEn 0 && b != .run) || s.pwr.target == .run then wake 0x2 s else s

def execWakeN (s : State) : Out :=
  if !s.aon.supply then .next s
  else if s.pwr.thermalHold then .next { s with pwr := { s.pwr with wakeDeferred := true } }
  else .next (wakeNow s)

def execThermalWakeHoldEnd (s : State) : Out :=
  if !s.pwr.thermalHold then .next s
  else
    let s1 := { s with pwr := { s.pwr with thermalHold := false, wakeDeferred := false } }
    .next (if s.pwr.wakeDeferred && s.aon.supply then wakeNow s1 else s1)

/-- A cause with a field that names the source: the field's old value goes. -/
def wakeFrom (flag field value : Word) (s : State) : State :=
  wake flag (setCause ((s.aon.wakeCause &&& ~~~field) ||| value) s)

/-- Activity on a link of a module that sleeps or idles wakes it where the link is armed (R284); its bring-up starts
at step 1. -/
def execWakePattern (l : Fin 8) (s : State) : Out :=
  let b := boundState s
  if awake s && linkPresent s.part l.val && bitAt s.aon.wakeEn (8 + l.val) && (b == .idle || b == .sleep) &&
      ((s.links[l]).state == .signalDetect || (s.links[l]).state == .training) then
    .next (wakeFrom 0x4 0x700000 (BitVec.ofNat 32 (l.val * 2 ^ 20))
      (setLink l (fun x => { x with fault := orBit x.fault 8, state := .signalDetect }) s))
  else .next s

def execPwrWakeCauseClear (v : Word) (s : State) : Out :=
  if !awake s then .next s
  else
    let linked : Word := (if bitAt v 3 then 0xF0000 else 0) ||| (if bitAt v 2 then 0x700000 else 0) |||
      (if bitAt v 7 then 0x7000000 else 0)
    .next (setCause (s.aon.wakeCause &&& ~~~((v &&& 0x3FF) ||| linked)) s)

/-! ### Rails (R464 to R466) -/

/-- The down step after the rail of power-up position k. -/
def stepAfter (k : Nat) : Nat := k + 2

/-- A rail that has changed takes its bias with it: VCORE the body bias, VSRAM that of the SRAM (R464). -/
def railBias (r : Rail) (goTo : PState) (s : State) : State :=
  match r with
  | .vcore => { s with pwr := { s.pwr with bias := bodyBiasOf goTo 0 } }
  | .vsram => { s with pwr := { s.pwr with sram := sramOf goTo } }
  | _ => s

/-- A step of power-down ends. -/
def downDone (step : Nat) (goTo : PState) (s : State) : State :=
  let s1 := railBias (downRail step) goTo
    { s with pwr := { s.pwr with rails := s.pwr.rails.set (railIdx (downRail step)).val false } }
  if lastDown goTo ≤ step then reach goTo s1 else { s1 with pwr := { s1.pwr with seq := .down (step + 1) goTo } }

/-- A power-up that has failed goes back down to OFF; its target is discarded (R465). -/
def abandonUp (step : Nat) (s : State) : State :=
  let s1 := endOpt s.pwr.nextReq stAborted (endOpt s.pwr.req stAborted s)
  let s2 := enterDown { s1 with pwr := { s1.pwr with req := none, nextReq := none, target := .off, goal := .off } }
  if 6 < step then reach .off s2 else { s2 with pwr := { s2.pwr with seq := .down step .off, transition := true } }

/-- The rails are up: the wake from SLEEP is over, or a boot begins. -/
def railsUp (s : State) : State :=
  if s.pwr.state == .sleep then unitWorkIfIdle (reach s.pwr.goal s) else bootBegin s

/-- A rail of power-up is in regulation. -/
def upDone (k : Nat) (s : State) : State :=
  let s1 := railBias (upRail k) .run { s with pwr := { s.pwr with rails := s.pwr.rails.set (railIdx (upRail k)).val true } }
  let last := if s.pwr.state == .sleep then 2 else 1
  if k ≤ last then railsUp s1 else { s1 with pwr := { s1.pwr with seq := .up (k - 1) } }

def execRailPowerGood (r : Rail) (s : State) : Out :=
  match s.pwr.seq with
  | .down step goTo => if downRail step == r then .next (downDone step goTo s) else .next s
  | .up k => if k != 0 && upRail k == r then .next (upDone k s) else .next s
  | _ => .next s

def execRailStepTimeout (s : State) : Out :=
  match s.pwr.seq with
  | .down step goTo => .next (downDone step goTo (recordRail (downRail step) false s))
  | _ => .next s

/-- Rails are powered or coming up. -/
def powered (s : State) : Bool := s.aon.supply && !(s.pwr.seq == .idle && (s.pwr.state == .off || s.pwr.state == .deep))

def execRailFault (r : Rail) (s : State) : Out :=
  if !powered s then .next s
  else
    let low := fun (s : State) =>
      let v := s.pwr.rails.set (railIdx r).val false
      { s with pwr := { s.pwr with rails := v, pwrGood := s.pwr.pwrGood && railsGood v } }
    match s.pwr.seq with
    | .up k =>
      if k = 0 && !s.pwr.transition then .next (recordRail r false (low s))
      else .next (abandonUp (if k = 0 then 2 else stepAfter k) (recordRail r true (low s)))
    | _ => .next (recordRail r false (low s))

/-! ### Quiescing (R463) -/

/-- A job whose step or request is still open aborts it; it keeps the state of the previous boundary, and a JOB_STOP that
waits ends the job (R29). -/
def quiesceJob (j : Fin 4) (s : State) : State :=
  match s.jobs[j] with
  | none => s
  | some x =>
    if jobQuiet x then s
    else if x.saved.isSome then stopAtBoundary j (replayDone j replayAborted (haltUnits j s))
    else if x.stop.isSome then stopJob j stAborted stDone 0 0 (abortStep j s)
    else if x.train then abortStep j s
    else setJob j (fun y => { y with running := none, waiting := [] }) (abortStep j s)

/-- The limit passes. Where a fabric step was open, or what R282 sends has not gone yet, the module leaves without it, and its
partners see a departure. -/
def execQuiesceTimeout (s : State) : Out :=
  match s.pwr.seq with
  | .quiesce goTo =>
    let s1 := post (ev 0x010B) { s with pwr := { s.pwr with fault := orBit s.pwr.fault 3 } }
    let s2 := eachSlot quiesceJob s1
    .next (if fabricOpen s || s.ws.leaving || !isMember s2 then powerLost goTo (unjoin s2) else quiesced goTo s2)
  | _ => .next s

/-! ### Resets and the supply (R442, R448, R468, R470, R508) -/

/-- The compute die loses power at once: no command has a result, no job quiesces. -/
def hardDown (s : State) : State :=
  let s1 := dieReset (closeDebugRecord s)
  { s1 with glb := { s1.glb with phase := .down },
            hif := { Hif.reset with gen := s1.hif.gen + 1 },
            pwr := { s1.pwr with req := none, nextReq := none, target := .off, goal := .off, pwrGood := false,
                                 pllLock := false } }

/-- MOD_RST_N: as power-on, but no rail cycles and the flash lockout stays (R358). -/
def modReset (s : State) : State :=
  let s1 := setCause (((s.aon.wakeCause &&& ~~~(0x1C00 : Word)) ||| 0x200) |||
    BitVec.ofNat 32 (stateCode s.pwr.state * 1024)) s
  let s2 := powerOnReset s1
  bootBegin { s2 with pwr := { Pwr.reset with rails := vrep 5 true } }

def execModRstN (s : State) : Out := if awake s then .next (modReset s) else .next s

def execSupply12vLoss (s : State) : Out :=
  if !s.aon.supply then .next s
  else
    let s1 := hardDown s
    .next { s1 with
      pwr := { s1.pwr with state := .off, seq := .idle, transition := false, rails := vrep 5 false, thermalHold := false,
                           wakeDeferred := false, bias := .unpowered, sram := .unpowered },
      aon := { s1.aon with supply := false, onCell := true, tk := .coasting } }

/-- Power-up to RUN with POWER_ON, and with CELL_ALARM where a comparator tripped on the cell. -/
def supplyUp (s : State) : State :=
  let s1 := { s with aon := { s.aon with supply := true, onCell := false, cellTrip := false } }
  let s2 := if s.aon.por then s1 else setFrom .off s1
  let s3 := orCause (if s.aon.cellTrip then 0x21 else 0x1) s2
  let s4 := powerOnReset { s3 with pwr := { s3.pwr with seq := .up 5, goal := .run, target := .run, transition := true } }
  { s4 with glb := { s4.glb with phase := .powerUp } }

def execSupply12vApplied (s : State) : Out := if s.aon.supply then .next s else .next (supplyUp s)

/-- The AON has power again after it had none: it starts from its reset values, on the cell until 12 V counts as
applied. -/
def execAonPor (s : State) : Out :=
  if s.aon.supply then .next s
  else .next { s with aon := { Aon.reset with supply := false, onCell := true } }

/-! ### Temperature (R474 to R478) -/

/-- Degrees between a reading and a record. -/
def tempGap (t r : Byte) : Nat := (t.toInt - r.toInt).natAbs

/-- Drawer d is retrained at once, or next once the one under way is done (R479). -/
def drawerAtOnce (d : Nat) (s : State) : State :=
  if s.pwr.drawersNow.contains d then s
  else if s.pwr.drawersNow.isEmpty then { s with pwr := { s.pwr with drawersNow := [d] } }
  else { s with pwr := { s.pwr with armed := s.pwr.armed ||| BitVec.ofNat 12 (2 ^ (8 + d)) } }

def markDrawer (d : Nat) (s : State) : State :=
  { s with pwr := { s.pwr with drawerMarks := s.pwr.drawerMarks ||| BitVec.ofNat 4 (2 ^ d) } }

/-- The thermal triggers of a drawer and of a link (R273, R478). -/
def drawerTemp (t : Byte) (s : State) (d : Fin 4) : State :=
  let g := tempGap t s.pwr.dramTemp[d]
  if !drawerPresent s.part d.val || s.pwr.drawersNow.contains d.val then s
  else if 35 < g then drawerAtOnce d.val s
  else if 20 < g then markDrawer d.val s
  else s

def linkTemp (t : Byte) (s : State) (l : Fin 8) : State :=
  let g := tempGap t (s.links[l]).tempTrain
  if !carries (s.links[l]) then s
  else if 35 < g then retrainLink false l s
  else if 20 < g then setLink l (fun x => { x with marked := true }) s
  else s

/-- g leaves 0 or returns to it. -/
def throttleNote (on : Bool) (s : State) : State :=
  let f := if on then orBit s.pwr.fault 5 else s.pwr.fault &&& ~~~(0x20 : Word)
  fire 3 (post (ev 0x0103) { s with pwr := { s.pwr with fault := f } })

def setGate (g : Nat) (s : State) : State :=
  let s1 := { s with pwr := { s.pwr with gate := g } }
  if (s.pwr.gate = 0) = (g = 0) then s1 else throttleNote (decide (0 < g)) s1

/-- Cycles that the gate has removed since the last sample (log entry 16). -/
def gatedCycles (s : State) : State :=
  if s.pwr.gate = 0 || !coreOn s then s
  else
    let c := someCycles s
    bumpPwr 0 c.1 c.2

def sampleTemp (t : Byte) (s : State) : State :=
  let peak := if s.pwr.peak.toInt < t.toInt then t else s.pwr.peak
  let s1 := { s with pwr := { s.pwr with temp := t, peak := peak } }
  if 100 < t.toInt then setGate (min 7 (s1.pwr.gate + 1)) s1 else s1

def execThermalSample (t : Byte) (s : State) : Out :=
  if running s then
    let s1 := sampleTemp t (gatedCycles s)
    let s2 := if bootDone s1 then (List.finRange 8).foldl (linkTemp t) ((List.finRange 4).foldl (drawerTemp t) s1) else s1
    .next (unitWorkIfIdle s2)
  else .next s

def execThrottleRelax (s : State) : Out :=
  if running s && s.pwr.gate != 0 && decide (s.pwr.temp.toInt < 98) then .next (setGate (s.pwr.gate - 1) s) else .next s

/-- R477. -/
def thermalDown (t : Byte) (s : State) : State :=
  let s1 := flushEvents { s with pwr := { s.pwr with temp := t } }
  let r := (((s1.aon.ret.set 2 (s1.aon.time.setWidth 32)).set 3 ((s1.aon.time >>> 32).setWidth 32)).set 4 (t.setWidth 32))
  let s2 := orCause 0x40 (setFrom s1.pwr.state { s1 with aon := { s1.aon with ret := r, thermPend := true } })
  let s3 := hardDown s2
  { s3 with pwr := { s3.pwr with seq := .down 2 .off, transition := true, thermalHold := true, wakeDeferred := false } }

def execThermalShutdown (t : Byte) (s : State) : Out :=
  if powered s && decide (115 ≤ t.toInt) && !(s.pwr.thermalHold && s.glb.phase == .down) then .next (thermalDown t s)
  else .next s

def execPeakClr (s : State) : Out :=
  if awake s then .next { s with pwr := { s.pwr with peak := s.pwr.temp } } else .next s

/-! ### The watchdog (R471, R472) -/

/-- Watchdog restarts within the last 60 s, this one included. -/
def recentDogs (s : State) : List DWord :=
  let now := s.aon.time.toNat
  s.aon.time :: s.pwr.watchdogs.filter fun t => decide (now < t.toNat + 60000000000)

/-- The management core goes down: its TLS session, and with it an open debug session, ends. -/
def coreRestart (s : State) : State :=
  let s1 := closeDebug s
  { s1 with pwr := { s1.pwr with coreDown := true, watchdogs := recentDogs s },
            mgmt := { s1.mgmt with session := none, selfSigned := false, stream := false },
            fls := { s1.fls with sessions := 0 } }

def execWatchdogExpiry (s : State) : Out :=
  if !awake s || s.pwr.coreDown then .next s
  else
    let s1 := bumpPwr 3 1 s
    if 3 ≤ (recentDogs s1).length then
      let s2 := warmRestart (orCause 0x100 (setFrom s1.pwr.state { s1 with pwr := { s1.pwr with watchdogs := [] } }))
      .next (post (ev 0x0106) { s2 with pwr := { s2.pwr with fault := orBit s2.pwr.fault 2 } })
    else .next (coreRestart s1)

def execMgmtCoreResume (s : State) : Out :=
  if s.pwr.coreDown && awake s then
    let s1 := orCause 0x100 (setFrom s.pwr.state { s with pwr := { s.pwr with coreDown := false, fault := orBit s.pwr.fault 2 } })
    .next (post (ev 0x0106) (colAgain (fun _ => true) s1))
  else .next s

/-! ### Retraining and self-test (R478 to R481) -/

def pendingUnits (s : State) : Bool := s.pwr.selftest.isSome || s.pwr.retrain.isSome

/-- The units of a self-test: those present and in service. -/
def testPlan (c : Cmd) (p : Pend) (s : State) : SelftestReq :=
  let bs := (List.finRange 4).filter fun b => s.bnc[b].state != .outOfService
  let gs := (List.range 4).filter fun g => (List.range 4).any fun k => match s.pln[4 * g + k]? with
    | some x => x.state != .outOfService
    | none => false
  let ls := (List.finRange 4).filter fun l => s.lth[l].state != .outOfService
  { pend := p, benches := if bitAt c.a0 0 then bs.map (·.val) else [], planes := if bitAt c.a0 1 then gs else [],
    lathes := if bitAt c.a0 2 then ls.map (·.val) else [], failB := 0, failP := 0, failL := 0, running := false }

def selftestRun (c : Cmd) (p : Pend) (s : State) : State :=
  if pendingUnits s then endWith p stBusy s
  else
    let s1 := startPending p s
    let s2 := { s1 with pwr := { s1.pwr with selftest := some (testPlan c p s1) } }
    if running s2 then unitWorkIfIdle s2 else s2

def execSelftest (c : Cmd) (s : State) : Out := runCmd c 0x30 (bitsFrom c.a0 3) (selftestRun c) s

/-- The present links and drawers of a mask. -/
def presentLinks (s : State) (m : Word) : BitVec 8 :=
  BitVec.ofNat 8 (((List.range 8).map fun l => if bitAt m l && linkPresent s.part l then 2 ^ l else 0).sum)

def presentDrawers (s : State) (m : Word) : BitVec 4 :=
  BitVec.ofNat 4 (((List.range 4).map fun d => if bitAt m (8 + d) && drawerPresent s.part d then 2 ^ d else 0).sum)

def retrainRun (c : Cmd) (p : Pend) (s : State) : State :=
  if pendingUnits s then endWith p stBusy s
  else
    let s1 := startPending p s
    let s2 := retrainCheck { s1 with pwr := { s1.pwr with
      retrain := some ⟨p, presentLinks s c.a0, presentDrawers s c.a0, 0⟩ } }
    if running s2 then unitWorkIfIdle s2 else s2

def execRetrain (c : Cmd) (s : State) : Out := runCmd c 0x31 (bitsFrom c.a0 12) (retrainRun c) s

def execDramCorrBurst (d : Fin 4) (s : State) : Out :=
  if running s && drawerPresent s.part d.val then .next (drawerAtOnce d.val s) else .next s

def execDramMarginLow (d : Fin 4) (s : State) : Out :=
  if running s && drawerPresent s.part d.val then .next (unitWorkIfIdle (markDrawer d.val s)) else .next s

/-- A drawer's retrain has ended. -/
def drawerDone (d : Fin 4) (ok : Bool) (s : State) : State :=
  let s1 := { s with pwr := { s.pwr with drawersNow := s.pwr.drawersNow.filter (· != d.val) } }
  let s2 := post { ev 0x0107 with inst := BitVec.ofNat 8 d.val } (bumpPwr 4 1 s1)
  let s3 := if ok then { s2 with pwr := { s2.pwr with dramTemp := s2.pwr.dramTemp.set d.val s2.pwr.temp } }
    else post { ev 0x0108 with inst := BitVec.ofNat 8 d.val } { s2 with pwr := { s2.pwr with fault := orBit s2.pwr.fault 4 } }
  nextUnit 12 (retrainUnitDone (8 + d.val) (!ok) s3)

def execDramRetrainDone (d : Fin 4) (ok : Bool) (s : State) : Out :=
  if running s && s.pwr.drawersNow.contains d.val then .next (drawerDone d ok s) else .next s

end Sys2Proof.Machine
end

