-- ==== Sys2Proof/Machine/TkOps.lean ====
section
/-! DEFINITION. The discipline of the timekeeper (R434 to R438): corrections from PPS_IN and from the fabric. -/

namespace Sys2Proof.Machine

/-- The error register saturates at ±(2^31 − 1) (R447). -/
def satErr (e : Int) : Word := BitVec.ofInt 32 (max (-(2 ^ 31 - 1)) (min (2 ^ 31 - 1) e))

def oneSec : Nat := 1000000000
def oneMs : Int := 1000000

/-- A frequency trim within ±200 ppm, in 0.01 ppm: which one is open (log entry 8). -/
def someTrim (n : Nat) : BitVec 16 := BitVec.ofInt 16 (((Config.cycles n % 40001 : Nat) : Int) - 20000)

/-- The state that a correction leads to (R435): eight in a row within ±20 ns discipline it. -/
def tkAfter (good : Nat) : TkState := if 8 ≤ good then .disciplined else .acquiring

/-- An accepted correction of e ns, to be added to the count (R436). The slew's rate over the following second is left
out (log entry 34). -/
def tkCorrect (e : Int) (fabric : Bool) (s : State) : State :=
  let a := s.aon
  let small := decide (-20 ≤ e) && decide (e ≤ 20)
  let good := if small then min 8 (a.goodRun + 1) else 0
  let s1 := { s with free := s.free + 1,
                     aon := { a with ppsErr := satErr e, srcUsed := fabric, goodRun := good, rejRun := 0,
                                     tk := tkAfter good, lastCorr := a.time } }
  let s2 := postIf (tkAfter good == .disciplined && a.tk != .disciplined) (ev 0x0A13) s1
  if e < -oneMs || oneMs < e then
    post (ev 0x0A15) (bumpAon 2 1 { s2 with aon := { s2.aon with
      time := a.time + BitVec.ofInt 64 e, lastCorr := a.time + BitVec.ofInt 64 e } })
  else { s2 with aon := { s2.aon with freqAdj := someTrim s.free } }

/-- The discipline runs in RUN and IDLE (R435, R438). -/
def tkLive (s : State) : Bool := running s && s.aon.tk != .coasting

/-- PPS_IN disciplines the timekeeper now. -/
def onPps (s : State) : Bool := !s.aon.srcUsed && (s.aon.tk == .acquiring || s.aon.tk == .disciplined)

/-- A fabric correction (R437): taken with SRC FABRIC, or with AUTO where PPS_IN does not serve. -/
def tkFabric (e : Int) (s : State) : State :=
  if tkLive s && (s.aon.src == 2 || (s.aon.src == 0 && !onPps s)) then
    let s1 := tkCorrect e true s
    { s1 with aon := { s1.aon with master := BitVec.ofNat 10 s.ws.coord } }
  else s

/-- The whole second nearest a count. -/
def nearestSec (t : Nat) : Nat := (t + oneSec / 2) / oneSec * oneSec

/-- A PPS edge (R434, R436). -/
def ppsCorrect (s : State) : State :=
  let t := s.aon.time.toNat
  let off : Int := (nearestSec t : Int) - (t : Int)
  let s0 := bumpAon 0 1 s
  let far := decide (off < -oneMs) || decide (oneMs < off)
  let apart : Int := (t : Int) - s.aon.lastPps.toNat - oneSec
  let run := if decide (-oneMs ≤ apart) && decide (apart ≤ oneMs) then s.aon.rejRun + 1 else 1
  let s1 := { s0 with aon := { s0.aon with lastPps := s.aon.time } }
  if s.aon.tk == .disciplined && far && decide (run < 3) then
    bumpAon 1 1 { s1 with aon := { s1.aon with rejRun := run } }
  else if s.aon.nextSec != 0 then
    let e : Int := ((s.aon.nextSec.toNat * oneSec : Nat) : Int) - (t : Int)
    let s2 := tkCorrect e false s1
    { s2 with aon := { s2.aon with nextSec := 0 } }
  else tkCorrect off false s1

end Sys2Proof.Machine
end

