-- ==== Sys2Proof/Machine/Aon.lean ====
section
/-! DEFINITION. The always-on domain (R434 to R443): PPS edges, holdover, comparators, ALARM_N and the timer. -/

namespace Sys2Proof.Machine

/-! ### The timekeeper (R435, R436) -/

/-- PPS_IN is heard: SRC is AUTO or PPS. -/
def hearsPps (s : State) : Bool := tkLive s && (s.aon.src == 0 || s.aon.src == 1)

def execPpsEdge (s : State) : Out := if hearsPps s then .next (ppsCorrect s) else .next s

/-- No correction has been accepted for 3 s; a return from COASTING counts as one (log entry 76). -/
def uncorrected (a : Aon) : Bool := decide (a.lastCorr.toNat + 3 * oneSec ≤ a.time.toNat)

def execTkHoldover (s : State) : Out :=
  if tkLive s && uncorrected s.aon && (s.aon.tk == .acquiring || s.aon.tk == .disciplined) then
    .next (post (ev 0x0A14) { s with aon := { s.aon with tk := .holdover, goodRun := 0 } })
  else .next s

/-! ### Waking (R467) -/

/-- A source of the AON wakes the module from IDLE, SLEEP or DEEP, or adds its flag to a wake under way. -/
def aonWakes (s : State) : Bool :=
  let b := boundState s
  b == .idle || b == .sleep || b == .deep || (s.pwr.target == .run && s.pwr.state != .run)

/-! ### Comparators (R439 to R442) -/

/-- ALARM_N: some TRIPn with ALARM_EN is set. -/
def alarmLevel (a : Aon) : Bool := (List.finRange 4).any fun n => bitAt a.trip n.val && bitAt a.cmpCfg[n] 14

def syncAlarm (s : State) : State := { s with aon := { s.aon with alarm := alarmLevel s.aon } }

/-- Retention word k; there are 32. -/
def setRet (k : Nat) (w : Word) (a : Aon) : Aon :=
  { a with ret := if h : k < 32 then a.ret.set k w else a.ret }

def retAt (a : Aon) (k : Nat) : Word := (a.ret[k]?).getD 0

/-- The comparator's record at its first trip, or MULTI. -/
def recordTrip (n : Fin 4) (a : Aon) : Aon :=
  let k := 8 + 3 * n.val
  if bitAt a.trip n.val then setRet (k + 2) (retAt a (k + 2) ||| 0x1000) a
  else
    let info : Word := (a.cmpCfg[n] &&& 0x7FF) ||| (if a.onCell then 0x800 else 0)
    setRet (k + 2) info (setRet (k + 1) ((a.time >>> 32).setWidth 32) (setRet k (a.time.setWidth 32)
      { a with trip := a.trip ||| BitVec.ofNat 4 (2 ^ n.val) }))

def tripRun (n : Fin 4) (s : State) : State :=
  let s1 := { s with aon := recordTrip n { s.aon with
    tripped := s.aon.tripped ||| BitVec.ofNat 4 (2 ^ n.val), cellTrip := s.aon.cellTrip || s.aon.onCell } }
  let s2 := post { ev 0x0A11 with
    inst := BitVec.ofNat 8 n.val, info := (retAt s1.aon (10 + 3 * n.val)).setWidth 64 } (bumpAon 3 1 (syncAlarm s1))
  if bitAt s2.aon.wakeEn (4 + n.val) && aonWakes s2 then wakeFrom 0x8 0 (BitVec.ofNat 32 (2 ^ (16 + n.val))) s2 else s2

/-- An enabled comparator trips once until it has released. -/
def execCmpTrip (n : Fin 4) (s : State) : Out :=
  if bitAt s.aon.cmpCfg[n] 13 && !bitAt s.aon.tripped n.val then .next (tripRun n s) else .next s

def execCmpRelease (n : Fin 4) (s : State) : Out :=
  .next { s with aon := { s.aon with tripped := s.aon.tripped &&& ~~~(BitVec.ofNat 4 (2 ^ n.val)) } }

/-- A cleared TRIPn clears its record. -/
def clearTrip (v : Word) (a : Aon) (n : Fin 4) : Aon :=
  let k := 8 + 3 * n.val
  if bitAt v n.val && bitAt a.trip n.val then
    setRet k 0 (setRet (k + 1) 0 (setRet (k + 2) 0 { a with trip := a.trip &&& ~~~(BitVec.ofNat 4 (2 ^ n.val)) }))
  else a

def execAonAlarmClear (v : Word) (s : State) : Out :=
  if awake s then
    let a := (List.finRange 4).foldl (clearTrip v) s.aon
    .next (syncAlarm { s with aon := { a with timerFlag := a.timerFlag && !bitAt v 4 } })
  else .next s

/-! ### The timer (R443) -/

/-- AON_TIME has reached an armed timer. -/
def timerDue (a : Aon) : Bool := a.timerArmed && a.timer != 0 && decide (a.timer.toNat ≤ a.time.toNat)

def timerRun (s : State) : State :=
  let s1 := post (ev 0x0A12) { s with aon := { s.aon with timerArmed := false, timerFlag := true } }
  if bitAt s1.aon.wakeEn 1 && aonWakes s1 then wake 0x10 s1 else s1

def execAonTimerFire (s : State) : Out := if timerDue s.aon then .next (timerRun s) else .next s

def execAonTimerWrite (v : DWord) (s : State) : Out :=
  if awake s then .next { s with aon := { s.aon with timer := v, timerArmed := v != 0 } } else .next s

end Sys2Proof.Machine
end

