-- ==== Sys2Proof/Machine/Bench.lean ====
section
/-! DEFINITION. The bench commands (03_benches.md): BENCH_PASS to BNC_CFG_WRITE. -/

namespace Sys2Proof.Machine

/-- The pass at a place of the bench's stage program, when the bench runs one. -/
def passAt (b : Fin 4) (n : Nat) (s : State) : Option (EntryRun × Desc8) :=
  if benchReady b s then
    match s.bnc[b].entry, s.bnc[b].passes[n]? with
    | some e, some d => some (e, d)
    | _, _ => none
  else none

/-- R67: the next pass starts: shadow weights are promoted, or kept weights stay (R71). -/
def execBenchPass (b : Fin 4) (s : State) : Out :=
  let x := s.bnc[b]
  match passAt b x.pc s with
  | none => .next s
  | some (e, d) =>
    if x.begun then .next s
    else if keptHere x e d then
      .next (setBnc b (fun y => { y with begun := true, ld := y.pc + 1, relDue := pKeep d && pWRel d,
                                         chainOpen := y.chainOpen || pFirst d }) s)
    else if x.ld = x.pc + 1 then
      .next (setBnc b (fun y => { y with begun := true, work := y.shadow, held := some (e.job, e.prog),
                                         relDue := pKeep d && pWRel d, chainOpen := y.chainOpen || pFirst d }) s)
    else .next s

/-- The load of the pass at `ld` may run: before its pass begins, or while the pass before it is under way. -/
def loadDue (x : Bench) (e : EntryRun) (d : Desc8) : Bool :=
  ((x.ld == x.pc && !x.begun) || (x.ld == x.pc + 1 && x.begun)) && !keptHere x e d

/-- R72, R77, R86. -/
def execBenchWeightLoad (b : Fin 4) (cy : BenchCycles) (ecc : Ecc) (s : State) : Out :=
  let x := s.bnc[b]
  match passAt b x.ld s with
  | none => .next s
  | some (e, d) =>
    if !loadDue x e d then .next s
    else
      let k := inlayOf s e x.ld d
      if !passInStore d (k.map (·.2)) (tensorWidth s (pOutTensor d)) then .fault .storeRange
      else if !slotFull (benchHome b s) (pWSlot d) s then .next (benchWait b 1 (pWSlot d) (benchCycles b cy s))
      else
        let y := storeEcc e.job ecc (benchCycles b cy (benchGo b 1 s))
        if !y.1 then .next y.2
        else
          let s1 := match k with
            | some q => loadLut b q.2 d y.2
            | none => y.2
          let sh := loadTile b d (k.map (·.2)) s1
          let s2 := countTile e.job b d k (setBnc b (fun z => { z with shadow := sh, ld := z.ld + 1 }) s1)
          .next (if pWRel d && !pKeep d then markSlot (benchHome b s2) (pWSlot d) false s2 else s2)

/-- R77: the activations stream through the array and the group sums enter the accumulators. -/
def execBenchActivationRead (b : Fin 4) (cy : BenchCycles) (ecc : Ecc) (s : State) : Out :=
  let x := s.bnc[b]
  match passAt b x.pc s with
  | none => .next s
  | some (e, d) =>
    if !x.begun || x.read then .next s
    else if !passInStore d ((inlayOf s e x.pc d).map (·.2)) (tensorWidth s (pOutTensor d)) then .fault .storeRange
    else if !slotFull (benchHome b s) (pASlot d) s then .next (benchWait b 2 (pASlot d) (benchCycles b cy s))
    else
      let y := storeEcc e.job ecc (benchCycles b cy (benchGo b 2 s))
      if !y.1 then .next y.2
      else
        let s1 := streamPass b d y.2
        let s2 := if pARel d then markSlot (benchHome b s1) (pASlot d) false s1 else s1
        let s3 := setBnc b (fun z => { z with read := true }) s2
        let s4 := if hasLeft b d s3 then releaseKept b d s3 else s3
        .next (if pLast d then s4 else passDone b s4)

/-- R68, R77: a LAST pass writes its outputs, and its chain ends. -/
def execBenchOutputWrite (b : Fin 4) (cy : BenchCycles) (s : State) : Out :=
  let x := s.bnc[b]
  match passAt b x.pc s with
  | none => .next s
  | some (e, d) =>
    if !x.read || !pLast d then .next s
    else if !passInStore d ((inlayOf s e x.pc d).map (·.2)) (tensorWidth s (pOutTensor d)) then .fault .storeRange
    else if !slotEmpty (benchHome b s) (pDoneSlot d) s then .next (benchWait b 3 (pDoneSlot d) (benchCycles b cy s))
    else
      let s1 := writeOutputs e.job b d (releaseKept b d (benchCycles b cy (benchGo b 3 s)))
      let s2 := markSlot (benchHome b s1) (pDoneSlot d) true s1
      .next (passDone b (setBnc b (fun z => { z with chainOpen := false }) s2))

/-- BNC_FAULT_INFO of the wait under way (R94). -/
def benchInfo (x : Bench) : Word :=
  BitVec.ofNat 32 (x.waitSlot.toNat + x.waitKind.toNat * 256 + x.vstage.toNat * 1024 + x.job.val * 8192)

/-- R78. -/
def execBncWaitTimeout (b : Fin 4) (s : State) : Out :=
  let x := s.bnc[b]
  if x.state == .waiting then
    let w := benchInfo x
    let s1 := setBnc b (fun y => { y with fault := orBit y.fault 0, info := w }) (waitEnds b s)
    .next (fatalFault x.job (post { ev 0x0801 with
      inst := BitVec.ofNat 8 b.val, fault := true, job := jobByte x.job, status := stAborted,
      info := w.setWidth 64 } s1))
  else .next s

/-- The failed units of a self-test under way. -/
def noteBench (b : Fin 4) (s : State) : State :=
  let f := fun (r : SelftestReq) => { r with failB := r.failB ||| BitVec.ofNat 4 (2 ^ b.val) }
  { s with pwr := { s.pwr with selftest := s.pwr.selftest.map f } }

/-- R88. -/
def execBenchSelftestDone (b : Fin 4) (ok : Bool) (s : State) : Out :=
  if s.bnc[b].state == .selftest then
    if ok then .next (nextTest (setBnc b (fun x => { x with state := .stopped }) s))
    else
      let s1 := setBnc b (fun x => { x with state := .outOfService, fault := orBit x.fault 1 }) s
      let s2 := post { ev 0x0803 with inst := BitVec.ofNat 8 b.val } (noteBench b s1)
      .next (nextTest (eachSlot dropInlay s2))
  else .next s

/-- R93: stored while no job runs; in force at the next JOB_START. -/
def execBncCfgWrite (b : Fin 4) (v : Word) (s : State) : Out :=
  if !running s then .next s
  else if anyJob s then
    .next (post { ev 0x0802 with inst := BitVec.ofNat 8 b.val } (setBnc b (fun x => { x with fault := orBit x.fault 2 }) s))
  else .next (setBnc b (fun x => { x with cfg := v &&& 0x1F01 }) s)

end Sys2Proof.Machine
end

