-- ==== Sys2Proof/Machine/HostIf.lean ====
section
/-! DEFINITION. The host interface (13_host_interface.md): the PCIe link, the command queue, result slots, bounce
messages and MSI-X. -/

namespace Sys2Proof.Machine

/-! ### The PCIe link (R368, R371) -/

/-- WIDTH_MAX (R390). -/
def widthMax (p : PartNo) : Nat := if p = .hn7230 then 4 else 8

/-- A width and a generation that the endpoint can train to (R368, R391). -/
def linkFits (s : State) (width speed : Nat) : Bool :=
  [1, 2, 4, 8].contains width && decide (width ≤ widthMax s.part) && decide (1 ≤ speed) && decide (speed ≤ 4)

def execPcieLinkUp (width speed : Nat) (s : State) : Out :=
  if awake s && linkFits s width speed then
    .next { s with hif := { s.hif with pcieUp := true, width := width, speed := speed } }
  else .next s

/-- PERST_N: the endpoint and the HIF block start again; the sideband's last answer is not theirs. -/
def execPerstN (s : State) : Out :=
  if awake s then .next { s with hif := { Hif.reset with
    gen := s.hif.gen + 1, sideband := s.hif.sideband, wrote := s.hif.wrote } }
  else .next s

/-! ### The command queue (R372) -/

/-- The tag is 0, queued, running, or of a result that has not been acknowledged; or the queue is full. -/
def tagTaken (q : BitVec 16) (h : Hif) : Bool :=
  q == 0 || h.queue.any (·.seq == q) || h.running.contains q ||
    h.slots.toList.any (fun o => match o with
      | some r => r.seq == q
      | none => false) ||
    h.ring.any (·.seq == q) || decide (16 ≤ h.queue.length)

/-- The five registers as the doorbell latches them. -/
def latched (q : BitVec 16) (h : Hif) : HCmd := ⟨q, h.opcode, h.args[0], h.args[1], h.args[2], h.args[3]⟩

def ringDoorbell (q : BitVec 16) (s : State) : State :=
  if tagTaken q s.hif then post { ev 0x0681 with info := q.setWidth 64 } (hifFault 0 q s)
  else bumpHif 0 1 { s with hif := { s.hif with queue := s.hif.queue ++ [latched q s.hif] } }

/-- The host reaches the device's registers (R19, R368). -/
def hostPath (s : State) : Bool := awake s && s.hif.pcieUp

def execCmdDoorbell (seq : BitVec 16) (s : State) : Out :=
  if hostPath s then .next (ringDoorbell seq s) else .next s

/-- A command whose opcode no row of the table carries (R374). -/
def execUnknownOpcode (c : Cmd) (op : Byte) (s : State) : Out :=
  if opKnown c.origin op then .next s else runCmd c op false (fun p s1 => endWith p stBadArg s1) s

/-! ### Result slots (R377, R378) -/

/-- The slot that an acknowledgement names. -/
def ackSlot (q : BitVec 16) (final : Bool) (v : Vector (Option Result) 16) : Option (Fin 16) :=
  (List.finRange 16).find? fun i => match v[i] with
    | some r => r.seq == q && r.final == final
    | none => false

/-- A freed slot takes the oldest result of the ring. -/
def freeResult (i : Fin 16) (s : State) : State :=
  match s.hif.ring with
  | [] => { s with hif := { s.hif with slots := s.hif.slots.set i none } }
  | r :: rest => fire 1 { s with hif := { s.hif with slots := s.hif.slots.set i (some r), ring := rest } }

def ackResult (q : BitVec 16) (final : Bool) (s : State) : State :=
  match ackSlot q final s.hif.slots with
  | some i => freeResult i s
  | none => hifFault 1 q s

def execHifResAck (seq : BitVec 16) (final : Bool) (s : State) : Out :=
  if hostPath s then .next (ackResult seq final s) else .next s

/-! ### Bounce messages (R379 to R381, R386) -/

/-- A message that fails its tag, or whose counter is not above the last accepted one. -/
def bounceBad (q : BitVec 16) (s : State) : State := post (ev 0x0683) (bumpHif 2 1 (hifFault 3 q s))

/-- The host's counter takes its new value; at its end the direction stops. -/
def takeCounter (q : BitVec 16) (x : Session) (n : DWord) (s : State) : State :=
  let s1 := { s with hif := { s.hif with session := some { x with h2d := some n } } }
  if n = BitVec.allOnes 64 then post (ev 0x0684) (hifFault 4 q s1) else s1

/-- The counter is above the last accepted one. -/
def counterRises (x : Session) (n : DWord) : Bool :=
  match x.h2d with
  | some m => decide (m.toNat < n.toNat)
  | none => true

/-- The fields of a message's header. -/
def bounceCounter (m : List Byte) : DWord := BitVec.ofNat 64 (leField m 0 8)
def bounceLength (m : List Byte) : Nat := leField m 8 4
def bounceKind (m : List Byte) : Nat := leField m 0xC 2

/-- LENGTH is a multiple of 32, at most 16 MiB, and that of the command; KIND is its opcode; and the message ends in the
host-to-device half. -/
def bounceFits (op : Byte) (off : Nat) (len : Option Nat) (m : List Byte) : Bool :=
  let n := bounceLength m
  n % 32 == 0 && decide (n ≤ 16777216) && bounceKind m == op.toNat && decide (off + 32 + n ≤ 0x8000000) &&
    (match len with
      | some k => n == k
      | none => true)

/-- The plaintext of a message whose tag verifies: the nonce is the salt followed by COUNTER, and the header is
authenticated with it. -/
def openBounce (x : Session) (m : List Byte) : Option (List Byte) :=
  let n := bounceLength m
  gcmOpen x.h2dKey (leBytes 4 x.salt.toNat ++ m.take 8) (m.take 16) ((m.drop 16).take n) ((m.drop (16 + n)).take 16)

/-- The input message of a command, which stands at offset `off` of BAR2: the status that refuses it, or its plaintext once
it has been accepted. Over the management port the data travel in the body. -/
def takeBounce (c : Cmd) (op : Byte) (off : Nat) (len : Option Nat) (m : List Byte) (s : State) :
    (Byte ⊕ List Byte) × State :=
  match c.origin with
  | .mgmt => (if (match len with
      | some n => m.length == n
      | none => true) then .inr m else .inl stBadArg, s)
  | .mailbox =>
    match s.hif.session with
    | none => (.inl stRefused, s)
    | some x =>
      if x.h2d = some (BitVec.allOnes 64) then (.inl stExhausted, s)
      else if !bounceFits op off len m then (.inl stBadArg, s)
      else
        match openBounce x m with
        | some d =>
          if counterRises x (bounceCounter m) then (.inr d, takeCounter c.seq x (bounceCounter m) s)
          else (.inl stAuthFail, bounceBad c.seq s)
        | none => (.inl stAuthFail, bounceBad c.seq s)

/-! ### MSI-X (R383) -/

/-- A vector is unmasked: the message held for it is sent once. -/
def unmask (m : MsixVec) : MsixVec :=
  if m.pending then { m with masked := false, pending := false, sent := m.sent + 1 } else { m with masked := false }

def execMsixUnmask (v : Fin 4) (s : State) : Out :=
  if hostPath s then .next { s with hif := { s.hif with msix := upd s.hif.msix v unmask } } else .next s

end Sys2Proof.Machine
end

