-- ==== Sys2Proof/Machine/Image.lean ====
section
/-! DEFINITION. The image commands (R332, R333, R388): IMAGE_OPEN, IMAGE_WRITE, IMAGE_COMMIT and IMAGE_SELECT. -/

namespace Sys2Proof.Machine

/-- A region that does not accept writes answers PROTECTED (R355). -/
def regionShut (n : Nat) (s : State) : Bool := if h : n < 16 then !writable ⟨n, h⟩ s else true

/-! ### IMAGE_OPEN -/

/-- A session opens on a bank: OPENED is written, and its blocks are erased. -/
def openBank (o : Origin) (x : Bank) (len : Nat) (p : Pend) (s : State) : State :=
  let s1 := startPending p (abandonImage s)
  let s2 := selAppend .opened x 0 0 (setBank x .open_ s1)
  let n := blocksFor len
  queueTask ⟨3, eraseOps (regionBase (bankRegion x)) n, .imageOpen, some p, 0⟩
    { s2 with fls := { s2.fls with img := some ⟨x, len, o, 0, n⟩ } }

def imageOpenRun (c : Cmd) (p : Pend) (s : State) : State :=
  let len := c.a0.toNat
  let x := openTarget s (bitAt c.a1 0)
  let r := bankRegion x
  if len = 0 ∨ 67108864 < len ∨ len % 32 ≠ 0 then endWith p stBadArg s
  else if regionShut r s then endWith p stProtected (protectedFault r s)
  else if regionBlocks r s < blocksFor len then endWith p stMedia s
  else openBank c.origin x len p s

def execImageOpen (c : Cmd) (s : State) : Out := runCmd c 0x10 (bitsFrom c.a1 1) (imageOpenRun c) s

/-! ### IMAGE_WRITE -/

/-- Offset and length of the write lie in the session's range, on whole code words; the window offset is aligned. -/
def writeFits (c : Cmd) (x : ImgSession) : Bool :=
  c.a0.toNat % 32 == 0 && c.a1.toNat % 32 == 0 && c.a2.toNat % 4096 == 0 && decide (0 < c.a1.toNat) &&
    decide (c.a1.toNat ≤ 1048576) && decide (c.a0.toNat + c.a1.toNat ≤ x.length)

/-- Offsets of the window are ignored over the management port (R386). -/
def onPort (c : Cmd) : Cmd :=
  match c.origin with
  | .mgmt => { c with a2 := 0 }
  | .mailbox => c

def imageWriteRun (c : Cmd) (m : List Byte) (p : Pend) (s : State) : State :=
  match sessionOf s c.origin with
  | none => endWith p stRefused s
  | some x =>
    if !writeFits (onPort c) x then endWith p stBadArg s
    else
      match takeBounce c 0x11 c.a2.toNat (some c.a1.toNat) m s with
      | (.inl st, s1) => endWith p st s1
      | (.inr data, s1) =>
        let r := bankRegion x.bank
        if regionShut r s1 then endWith p stProtected (protectedFault r s1)
        else queueTask ⟨3, writeOps (bankWord x.bank + c.a0.toNat / 32) (c.a1.toNat / 32) data, .imageWrite, some p, 0⟩
          (startPending p s1)

def execImageWrite (c : Cmd) (m : List Byte) (s : State) : Out := runCmd c 0x11 false (imageWriteRun c m) s

/-! ### IMAGE_COMMIT -/

/-- The checks run once the session's writes have ended: the commit waits its turn in the flash queue (R345). -/
def imageCommitRun (c : Cmd) (v : CommitVerdict) (p : Pend) (s : State) : State :=
  match sessionOf s c.origin with
  | none => endWith p stRefused s
  | some _ => queueTask ⟨3, [], .imageCommit v, some p, 0⟩ (startPending p s)

def execImageCommit (c : Cmd) (v : CommitVerdict) (s : State) : Out := runCmd c 0x12 false (imageCommitRun c v) s

/-! ### IMAGE_SELECT -/

/-- A job runs or holds, or a snapshot is exporting. -/
def selectBusy (s : State) : Bool := anyJob s || s.sq.exports.toList.any (·.isSome)

/-- SELECT is written; the warm restart that follows ends with the trial of the bank. -/
def selectBank (x : Bank) (h : ImgHeader) (p : Pend) (s : State) : State :=
  let s1 := selAppend .select x h.svn h.imageId (startPending p s)
  warmRestart { s1 with glb := { s1.glb with select := some p } }

def imageSelectRun (c : Cmd) (p : Pend) (s : State) : State :=
  let x : Bank := if bitAt c.a0 0 then .b else .a
  let h := bankHeader s x
  if selectBusy s then endWith p stBusy s
  else if bankSt s x != .valid || s.fls.img.isSome then endWith p stRefused s
  else if h.imageId.toNat != c.a1.toNat + c.a2.toNat * 2 ^ 32 then endWith p stBadArg s
  else selectBank x h p s

def execImageSelect (c : Cmd) (s : State) : Out := runCmd c 0x13 (bitsFrom c.a0 1) (imageSelectRun c) s

end Sys2Proof.Machine
end

