-- ==== Sys2Proof/Machine/ImageCheck.lean ====
section
/-! DEFINITION. The checks of parse (R323): every rule that the spec gives for an image, section by section, with the
absent-unit check first (R9, R45, R323). -/

namespace Sys2Proof.Machine

/-- What a check is made against: the part, the header and the sections. -/
structure Subject where
  part : PartNo
  hdr : ImgHeader
  body : ImageBody
  deriving DecidableEq, Repr

def nodupNat : List Nat → Bool
  | [] => true
  | x :: t => !t.contains x && nodupNat t

/-! ### Units that the sections name (R45, R323) -/

def stageInlay (p : StageProg) : Bool := p.passes.any pInlay

/-- Bit positions in GLB_CAPS of the units named: inlay units and links. -/
def namedBits (b : ImageBody) : List Nat :=
  ((b.benchProgs.filter stageInlay).map fun p => 5 + p.bench) ++ b.meshes.flatMap fun m => m.links.map (16 + ·)

def triggerPort (e : JobEntry) : Option Nat := if bitAt e.trigger 63 then some (bitsNat e.trigger 4 0) else none

/-- Sensor ports named: those the SENSORS section enables and those of triggers. -/
def namedPorts (b : ImageBody) : List Nat :=
  ((b.sensors.filter fun c => bitAt c.word 0).map (·.port)) ++ b.jobs.filterMap triggerPort

/-- A section names a unit absent from GLB_CAPS; benches 2 and 3 have no inlay unit on any part. -/
def namesAbsent (x : Subject) : Bool :=
  (namedBits x.body).any (fun n => !bitAt (glbCaps x.part) n) ||
    (namedPorts x.body).any (fun n => decide (bitsNat (glbCaps x.part) 29 24 ≤ n))

/-- Every present unit that a section names is in REQ_CAPS. -/
def declaresUnits (x : Subject) : Bool :=
  (namedBits x.body).all (fun n => bitAt x.hdr.reqCaps n) &&
    (namedPorts x.body).all fun n => decide (n < bitsNat x.hdr.reqCaps 29 24)

/-! ### Header and section table (R320, R321) -/

def headerFits (x : Subject) : Bool :=
  headerOk x.hdr && x.hdr.sections == x.body.table.length && x.hdr.imageId != 0 && decide (x.hdr.length ≤ 67108864) &&
    decide (x.hdr.svn.toNat ≤ 4095) && (x.hdr.flags &&& 0xFFFC) == 0 && x.hdr.reservedZero &&
    (x.hdr.reqCaps &&& 0xC000FE00) == 0

def sectionFits (len n : Nat) (e : SectionEntry) : Bool :=
  e.reserved == 0 && decide (1 ≤ e.type.toNat) && decide (e.type.toNat ≤ 0x0B) && e.offset.toNat % 64 == 0 &&
    decide (0x80 + 16 * n ≤ e.offset.toNat) && decide (e.offset.toNat + e.length.toNat + 96 ≤ len)

def apart (a b : SectionEntry) : Bool :=
  decide (a.offset.toNat + a.length.toNat ≤ b.offset.toNat) || decide (b.offset.toNat + b.length.toNat ≤ a.offset.toNat)

def allApart : List SectionEntry → Bool
  | [] => true
  | x :: t => t.all (apart x) && allApart t

/-- The types of the sections that the body has content of. -/
def typesUsed (b : ImageBody) : List Nat :=
  let on := fun (n : Nat) (empty : Bool) => if empty then [] else [n]
  on 1 b.jobs.isEmpty ++ on 2 b.tensors.isEmpty ++ on 3 b.benchProgs.isEmpty ++ on 4 b.planeProgs.isEmpty ++
    on 5 (b.ftz.all (·.isNone)) ++ on 6 b.copies.isEmpty ++ on 7 b.schedules.isEmpty ++ on 8 b.meshes.isEmpty ++
    on 9 b.trains.isEmpty ++ on 10 b.sensors.isEmpty ++ on 11 b.randoms.isEmpty

def sectionsFit (x : Subject) : Bool :=
  let types := x.body.table.map fun e => e.type.toNat
  x.body.table.all (sectionFits x.hdr.length x.body.table.length) && nodupNat types && types.contains 1 &&
    types.contains 2 && (types.contains 3 || types.contains 4) && allApart x.body.table &&
    (typesUsed x.body).all types.contains

/-! ### JOBS (R322) -/

/-- A port that the SENSORS section enables. -/
def portEnabled (b : ImageBody) (n : Nat) : Bool := b.sensors.any fun c => c.port == n && bitAt c.word 0

def jobFits (b : ImageBody) (e : JobEntry) : Bool :=
  let bound := bitAt e.flags 1
  decide (e.kind.toNat ≤ 1) && (e.flags &&& 0xF8) == 0 && e.reserved == 0 && (!bound || e.kind == 0) &&
    (if bound then decide (10 ≤ e.latBound.toNat) && decide (e.latBound.toNat ≤ 10000000) else e.latBound == 0) &&
    (match triggerPort e with
      | some p => bitsNat e.trigger 7 5 == 0 && portEnabled b p
      | none => true)

def jobsFit (b : ImageBody) : Bool :=
  decide (1 ≤ b.jobs.length) && decide (b.jobs.length ≤ 16) && b.jobs.all (jobFits b) &&
    decide (b.jobs.countP (fun e => bitAt e.flags 0) ≤ 4)

/-! ### TENSORS (R43, R54, R133, R138 to R140, R225) -/

def clampLimitOk (w : Word) : Bool :=
  let v := vAbs (ofB32 w)
  vIsZero v || (!vLt v (.fin false 1 (-86)) && !vLt (.fin false 1 87) v)

/-- R54, R139: the limits are held to their rules whether or not the clamp is enabled. -/
def clampOk (t : Tensor) : Bool :=
  !vIsNan (ofB32 t.clampLo) && !vIsNan (ofB32 t.clampHi) && !vLt (ofB32 t.clampHi) (ofB32 t.clampLo) &&
    clampLimitOk t.clampLo && clampLimitOk t.clampHi

def roleOk (t : Tensor) : Bool :=
  match t.role with
  | .veneerW => t.fmt == 1 && !t.autoScale
  | .veneerM => t.fmt == 1
  | .veneerV => t.fmt == 1 || t.fmt == 2
  | .grad => t.fmt == 2
  | .expert => t.fmt == 1
  | .weightRO => true
  | .act => true
  | .input => true

/-- The ranges of an AUTO_SCALE tensor (R140); only J8 and binary16 tensors of adaptation jobs have one, veneer weights
aside (R138). The spec does not say what parse does with any other: the image is refused (DESIGN CHOICE, log entry 49). -/
def autoOk (b : ImageBody) (t : Tensor) : Bool :=
  !t.autoScale ||
    (t.fmt != 2 && (match b.jobs[t.job]? with
        | some e => e.kind == 1
        | none => false) &&
      decide (-40 ≤ t.kLo) && decide (t.kLo ≤ t.kHi) && decide (t.kHi ≤ 40) && decide (t.kLo ≤ t.kInit) &&
      decide (t.kInit ≤ t.kHi) && decide (1 ≤ t.hist) && decide (t.hist ≤ 64) &&
      [1, 2, 4, 8, 16, 32, 64, 128, 256].contains t.margin)

def biasOk (b : ImageBody) (t : Tensor) : Bool :=
  !t.biasEn || b.tensors.any fun u => u.id == t.biasHandle && (u.fmt == 1 || u.fmt == 2)

/-- R44: a LUT is of INT4 elements and holds no NaN code of its target format. -/
def inlayOk (t : Tensor) : Bool :=
  match t.inlay with
  | some i =>
    let f := if i.toB16 then fB16 else fJ8
    !i.lut || (!i.int8 && i.entries.all fun c => !vIsNan (decodeF f (if i.toB16 then c.toNat else c.toNat % 256)))
  | none => true

def tensorFits (b : ImageBody) (t : Tensor) : Bool :=
  t.fmt != 3 && decide (t.job < b.jobs.length) && decide (t.inputs.length ≤ 2) && clampOk t && roleOk t &&
    autoOk b t && biasOk b t && inlayOk t && (t.keyId.isNone || t.role == .weightRO) &&
    (!t.spillable || t.role == .act || t.role == .grad) && decide (framesFor (handleBytes t) ≤ 2097152)

def tensorsFit (b : ImageBody) : Bool :=
  b.tensors.all (tensorFits b) && nodupNat (b.tensors.map fun t => t.id.toNat)

/-! ### BENCH_PROG (R36, R51, R70) -/

def passCount (d : Desc8) : Nat := if pMode d = 5 then 3 else if pFmt d = 2 then 4 else 1

def tensorById (b : ImageBody) (id : BitVec 16) : Option Tensor := b.tensors.find? (·.id == id)

/-- The weights of a pass have its format; expanded ones, the format that they expand to. -/
def weightsFit (d : Desc8) (t : Tensor) : Bool :=
  if pInlay d then
    match t.inlay with
    | some i => pFmt d == (if i.toB16 then 1 else 0)
    | none => false
  else t.fmt.toNat == pFmt d

/-- One descriptor by itself. -/
def passFits (b : ImageBody) (p : StageProg) (n : Nat) (d : Desc8) : Bool :=
  let wt := (p.wTensors[n]?).bind (tensorById b)
  let width := match tensorById b (pOutTensor d) with
    | some t => fmtBytes t.fmt
    | none => 4
  decide (pMode d ≤ 5) && decide (pFmt d ≤ 2) && bitsNat d.w0 31 28 == 0 && (pFmt d != 2 || pMode d == 0) &&
    decide (pPass d < passCount d) && (!pInlay d || (pFmt d != 2 && pMode d == 0)) && (pInlay d || pScAddr d == 0) &&
    decide (pAccBase d + (if pComplex d then 2 else 1) * pVectors d ≤ 512) && pWAddr d % 64 == 0 && pAAddr d % 64 == 0 &&
    pOutAddr d % 64 == 0 && passInStore d (wt.bind (·.inlay)) width &&
    (match wt with
      | some t => weightsFit d t
      | none => true) &&
    (match (p.aTensors[n]?).bind (tensorById b) with
      | some t => t.inlay.isNone && t.fmt.toNat == pFmt d
      | none => true)

def sameLoad (a d : Desc8) : Bool :=
  pWAddr a == pWAddr d && pWPitch a == pWPitch d && pWSlot a == pWSlot d && pInlay a == pInlay d &&
    pScAddr a == pScAddr d && pFmt a == pFmt d && pCross a == pCross d && pRows a == pRows d

/-- W_KEEP: `load` is the last pass that loaded, `rel` whether its slot has been released since. -/
def keepsFit (load : Option Desc8) (rel : Bool) : List Desc8 → Bool
  | [] => true
  | d :: t =>
    if pKeep d then
      (match load with
        | some a => sameLoad a d && !rel
        | none => false) && keepsFit load (rel || pWRel d) t
    else keepsFit (some d) (pWRel d) t

/-- The chains of a program: each begins with FIRST, ends with LAST, and has neither in between. -/
def chainsOf (cur : Option (List Desc8)) : List Desc8 → Option (List (List Desc8))
  | [] => match cur with
    | none => some []
    | some _ => none
  | d :: t =>
    let c := match cur with
      | some x => if pFirst d then none else some (x ++ [d])
      | none => if pFirst d then some [d] else none
    match c with
    | none => none
    | some y => if pLast d then (chainsOf none t).map (y :: ·) else chainsOf (some y) t

def sameChain (a d : Desc8) : Bool :=
  pMode a == pMode d && pFmt a == pFmt d && pVectors a == pVectors d && pAccBase a == pAccBase d && pCols a == pCols d &&
    pOutTensor a == pOutTensor d

/-- The passes of each K tile are consecutive, in ascending PASS order, and the chain ends with a whole tile. -/
def passOrder (n i : Nat) : List Desc8 → Bool
  | [] => i % n == 0
  | d :: t => pPass d == i % n && passOrder n (i + 1) t

/-- Products per output element: a K tile counts its rows once, however many passes it takes. -/
def chainProducts (c : List Desc8) : Nat := ((c.filter fun d => pPass d == 0).map pRows).sum

def chainFits (c : List Desc8) : Bool :=
  match c with
  | [] => true
  | a :: _ => c.all (sameChain a) && passOrder (passCount a) 0 c && decide (chainProducts c ≤ 2 ^ 20)

def stageFits (b : ImageBody) (p : StageProg) : Bool :=
  decide (p.bench < 4) && (p.passes.mapIdx (passFits b p)).all id && keepsFit none false p.passes &&
    (match chainsOf none p.passes with
      | some cs => cs.all chainFits
      | none => false)

/-! ### PLANE_PROG, LATHE and RANDOM (R99, R114, R212, R213) -/

def pairOk (i : PIndexed) : Bool := !(i.fmt == .b16 && i.idx == 255)

/-- The width that a purpose code is declared with; the fixed codes are 16 bits wide. -/
def purposeOk (b : ImageBody) (code : Byte) (wide : Bool) : Bool :=
  if code.toNat < 4 then !wide
  else if code.toNat < 16 then false
  else b.randoms.all fun d => d.code != code || d.wide == wide

/-- An instruction reads a tensor into its own format without narrowing: a J8 or binary16 element may be widened (R41,
R101), and no unit narrows as it reads (R36; log entry 50). -/
def readsFit (b : ImageBody) (f : VFmt) (r : TensorRef) : Bool :=
  match tensorById b r.tensor with
  | some t => t.inlay.isNone && decide (t.fmt.toNat ≤ if f = .b32 then 2 else 1)
  | none => true

def planeOpFits (b : ImageBody) (o : PlaneOp) : Bool :=
  match o with
  | .load i => readsFit b i.fmt i.ref
  | .gather i => pairOk i && readsFit b i.fmt i.ref
  | .scatter i => pairOk i
  | .scatterAdd i => pairOk i && readsFit b i.fmt i.ref
  | .softmax i => readsFit b i.fmt i.src
  | .mask i => decide (i.p.toNat ≤ 65536) && purposeOk b i.purpose false
  | .rawWord i => purposeOk b i.purpose true
  | .uniform i => purposeOk b i.purpose true
  | _ => true

def planeFits (b : ImageBody) (p : PlaneProg) : Bool :=
  decide (p.group < 4) && decide (p.plane < 4) && p.ops.all (planeOpFits b)

/-- A flush threshold is no NaN and at most −16.0. -/
def ftzFits (t : Option Word) : Bool :=
  match t with
  | some w => !vIsNan (ofB32 w) && !vLt (.fin true 16 0) (ofB32 w)
  | none => true

def randomFits (b : ImageBody) (d : PurposeDecl) : Bool := purposeOk b d.code d.wide

/-! ### COPY (R239, R241) -/

/-- A descriptor that writes names no veneer (R134): parse refuses one that does (DESIGN CHOICE, log entry 51). -/
def sparesVeneers (b : ImageBody) (d : Desc8) : Bool :=
  let op := dField d 0 3 0
  !((op == 0 || op == 2) && decide (2 ≤ dField d 0 7 6)) || (match tensorById b (BitVec.ofNat 16 (dField d 4 31 16)) with
    | some t => !isVeneer t.role
    | none => true)

def copyFits (d : Desc8) : Bool :=
  let op := dField d 0 3 0
  let src := dField d 0 5 4
  let dst := dField d 0 7 6
  decide (op ≤ 3) && src != 3 && bitsNat d.w0 31 13 == 0 && bitsNat d.w6 15 11 == 0 && bitsNat d.w6 31 25 == 0 &&
    bitsNat d.w7 31 8 == 0 && !(dst == 3 && bitsNat d.w7 1 0 == 3) && (op != 2 || (src == 2 && dst == 2))

def listEnds : List Desc8 → Bool
  | [] => false
  | [d] => bitAt d.w0 12
  | d :: t => !bitAt d.w0 12 && listEnds t

def copyListFits (b : ImageBody) (l : List Desc8) : Bool := l.all (fun d => copyFits d && sparesVeneers b d) && listEnds l

/-! ### SCHEDULE (R170) -/

/-- Where a triple stands in a list. -/
def tripleAt (es : List EntryFields) (v : Nat) (back : Bool) (m : Nat) : Option Nat :=
  es.findIdx? fun e => e.vstage.toNat == v && e.back == back && e.mb == m

/-- Every (VSTAGE, DIR, MB) triple is there exactly once, the backward entry after the forward one. -/
def benchListFits (sc : Schedule) (n : Nat) (es : List SchedEntry) : Bool :=
  let fs := es.map entryFields
  decide (es.length ≤ 65536) && es.length == 2 * sc.v * sc.m &&
    es.all (fun e => bitsNat e.w0 31 30 == 0 && bitsNat e.w1 31 16 == 0) &&
    fs.all (fun e => decide (e.vstage.toNat < sc.v) && decide (e.mb < sc.m) && decide (e.prog < n)) &&
    (List.range sc.v).all fun v => (List.range sc.m).all fun m =>
      match tripleAt fs v false m, tripleAt fs v true m with
      | some i, some k => decide (i < k)
      | some _, none => false
      | none, _ => false

def stagesOk (p : Nat) : Bool := (List.range' 1 16).any fun a => [1, 2, 4].any fun c => p == a * c

def scheduleFits (n : Nat) (sc : Schedule) : Bool :=
  stagesOk sc.p && decide (1 ≤ sc.v) && decide (sc.v ≤ 8) && decide (1 ≤ sc.m) && decide (sc.m ≤ 1024) &&
    nodupNat (sc.lists.map (·.1)) && sc.lists.all fun l => decide (l.1 < 4) && benchListFits sc n l.2

/-- The schedule tables that jobs name. -/
def schedulesFit (b : ImageBody) : Bool :=
  b.jobs.all fun e => match b.schedules[e.sched]? with
    | some sc => scheduleFits b.benchProgs.length sc
    | none => b.schedules.isEmpty

/-! ### MESH (R176, R180, R308) -/

def benchAxis (n : Nat) : Bool := n == 1 || n == 2 || n == 4

def expertFits (x : ExpertLayer) : Bool :=
  decide (1 ≤ x.experts) && (x.topk == 1 || x.topk == 2) && decide (1 ≤ x.cap) && decide (x.cap ≤ 65536)

def meshFits (m : Mesh) : Bool :=
  decide (1 ≤ m.tF) && decide (m.tF ≤ 8) && decide (1 ≤ m.pF) && decide (m.pF ≤ 16) && benchAxis m.tL && benchAxis m.pL &&
    decide (m.tL * m.pL ≤ 4) && (m.rho == 1 || m.rho == 2) && m.links.all (fun n => decide (n < 8)) &&
    m.experts.all expertFits

/-! ### TRAIN (R145, R149, R151, R194) -/

def clipOk (p : Params) : Bool :=
  match p.clip with
  | some c => !vIsNan (ofB32 c) && !vLt (ofB32 c) Val.zero
  | none => false

/-- The parameters of a tensor that the job's optimizer uses: those of a microprogram are the ones it names (R149). -/
def paramsOk (b : ImageBody) (o : Optimizer) (p : Params) : Bool :=
  clipOk p &&
    (match o with
      | .adamw => p.lr.isSome && p.beta1.isSome && p.beta2.isSome && p.eps.isSome && p.wd.isSome
      | .sgdm => p.lr.isSome && p.wd.isSome && p.mu.isSome
      | .own n =>
        match b.planeProgs[n]? with
        | some q => q.sregs.all fun r => match r.2 with
          | .param t k => t != p.tensor || (namedParam k p).isSome
          | _ => true
        | none => false)

def ascending : List Nat → Bool
  | a :: c :: t => decide (a < c) && ascending (c :: t)
  | _ => true

/-- The veneer weights of job i each have their parameters. -/
def trainFits (b : ImageBody) (i : Nat) (t : Train) : Bool :=
  decide (t.lrSchedule.length ≤ 64) && ascending (t.lrSchedule.map (·.1)) && decide (1 ≤ t.retryLimit) &&
    decide (t.retryLimit ≤ 15) &&
    (b.tensors.filter fun x => x.job == i && (x.role == .veneerW || x.role == .expert)).all fun x =>
      match t.params.find? (·.tensor == x.id) with
      | some p => paramsOk b t.opt p
      | none => false

/-- Every adaptation job has its entry. -/
def trainsFit (b : ImageBody) : Bool :=
  (List.range b.jobs.length).all fun i => match b.jobs[i]?, b.trains[i]? with
    | some e, some t => e.kind != 1 || trainFits b i t
    | some e, none => e.kind != 1
    | none, _ => true

/-! ### SENSORS (R424, R432, R445) -/

def elecOk (b : ImageBody) (c : SensorCfg) : Bool :=
  b.sensors.all fun d => !(bitAt d.word 0 && d.port / 4 == c.port / 4) || bitAt d.word 19 == bitAt c.word 19

def sensorFits (b : ImageBody) (c : SensorCfg) : Bool :=
  decide (c.port < 24) && bitsNat c.word 31 25 == 0 &&
    (!bitAt c.word 0 ||
      (elecOk b c && !(bitAt c.word 1 && bitsNat c.word 9 2 == 0) && decide (7 ≤ bitsNat c.word 15 11) &&
        decide (16 ≤ bitsNat c.word 24 20) && decide (bitsNat c.word 24 20 ≤ 28) && decide (1000 ≤ c.winNs) &&
        decide (c.winNs ≤ 2 ^ 40)))

/-! ### Parse -/

/-- Every check but that of absent units. -/
def bodyFits (x : Subject) : Bool :=
  let b := x.body
  headerFits x && sectionsFit x && jobsFit b && tensorsFit b && b.benchProgs.all (stageFits b) &&
    b.planeProgs.all (planeFits b) && b.ftz.all ftzFits && b.randoms.all (randomFits b) && b.copies.all (copyListFits b) &&
    schedulesFit b && b.meshes.all meshFits && trainsFit b && b.sensors.all (sensorFits b) &&
    nodupNat (b.sensors.map (·.port)) && declaresUnits x

/-- The status with which parse refuses an image, if any. -/
def parseRefusal (x : Subject) : Option Byte :=
  if namesAbsent x then some stAbsent else if bodyFits x then none else some stBadArg

end Sys2Proof.Machine
end

