-- ==== Sys2Proof/Machine/Boot.lean ====
section
/-! DEFINITION. The boot from image verification on (R18, R325 to R331, R360): the choice of the bank, training, parse
with the start of the AUTOSTART jobs, and the fall back from a trial; and the JTAG recovery load (R415). -/

namespace Sys2Proof.Machine

/-! ### Falling back, and NO_IMAGE (R329, R330) -/

/-- No image is in force. -/
def dropImage (s : State) : State :=
  { s with img := none, glb := { s.glb with imageId := 0, svn := 0, bootBank := none, trial := false },
           sec := { s.sec with mr2 := none } }

/-- The trial under way is refused: ABANDON ends it, and the module restarts on C. -/
def fallBack (st : Byte) (x : Bank) (s : State) : State :=
  let h := bankHeader s x
  let s1 := warmRestart (dropImage (selAppend .abandon x h.svn h.imageId s))
  let s2 := { s1 with glb := { s1.glb with lastStatus := st, fallback := true, select := none } }
  endOpt s.glb.select st (post { ev 0x0221 with status := st } s2)

/-- The boot goes on without an image. -/
def bootBare (s : State) : State :=
  let s1 := bootReports (dropImage s)
  { s1 with glb := { s1.glb with phase := .training } }

/-- RUN in NO_IMAGE; how long the boot took is open (log entry 16). -/
def reachNoImage (s : State) : State :=
  let c := someCycles (dropImage s)
  bootEnd { c.2 with glb := { c.2.glb with state := .noImage, bootMs := BitVec.ofNat 32 c.1 } }

/-! ### Verification (R325, R329, R350) -/

/-- Uncorrectable words of the bank's image that the state knows of. -/
def badWords (s : State) (x : Bank) (len : Nat) : Nat :=
  s.fls.words.countP fun w => decide (bankWord x ≤ w.1) && decide (w.1 * 32 < bankWord x * 32 + len) && w.2 == .bad

/-- What the ROM's check of the bank finds. -/
def verifyRefusal (x : Bank) (sigOk : Bool) (reads : List FlashRead) (s : State) : Option Byte :=
  let h := bankHeader s x
  if reads.any (fun r => decide (0 < r.uncorr)) || decide (0 < badWords s x h.length) then some stVerify
  else if !headerOk h then some stVerify
  else imageRefusal h sigOk s

/-- The image is in force: its links bring themselves up while the drawers train (R265, R325). -/
def verified (x : Bank) (s : State) : State :=
  let h := bankHeader s x
  let s1 := bootReports { s with sec := { s.sec with mr2 := some h.imageId } }
  { s1 with glb := { s1.glb with phase := .training, imageId := h.imageId } }

/-- Every present link that is not disabled starts at step 1. -/
def startLinks (s : State) : State :=
  { s with links := vmapIdx (fun n l =>
      if linkPresent s.part n && !l.disable then { l with state := .signalDetect } else l) s.links }

/-- The check of a bank, and where it leads. -/
def verifyBank (x : Bank) (trial sigOk : Bool) (reads : List FlashRead) (s : State) : State :=
  let s1 := reads.foldl noteRead { s with glb := { s.glb with bootBank := some x, trial := trial } }
  let s2 := uncorrRead (bankWord x / 2048) (badWords s1 x (bankHeader s1 x).length) s1
  match verifyRefusal x sigOk reads s2 with
  | none => startLinks (verified x s2)
  | some st =>
    if trial then fallBack st x s2
    else startLinks (bootBare { s2 with glb := { s2.glb with lastStatus := st } })

/-- The bank of the latest CONFIRM, or none (R329, item 3). -/
def bootConfirmed (c : Option SelWord) (sigOk : Bool) (reads : List FlashRead) (s : State) : State :=
  match c with
  | some w => verifyBank w.bank false sigOk reads s
  | none => startLinks (bootBare s)

/-- The ROM chooses the bank by the selector log and checks it; a raise of the counter that a power failure left short
is completed first (R360). -/
def chooseBank (sigOk : Bool) (reads : List FlashRead) (s : State) : State :=
  let x := selRead s.fls.selLog
  let s1 := match x.c with
    | some w => arRaise w.svn.toNat s
    | none => s
  match x.sel with
  | some (w, false) => verifyBank w.bank true sigOk reads (selAppend .attempt w.bank w.svn w.imageId s1)
  | some (w, true) =>
    let s2 := selAppend .abandon w.bank w.svn w.imageId s1
    bootConfirmed x.c sigOk reads
      (post (ev 0x0223) { s2 with glb := { s2.glb with lastStatus := stAborted } })
  | none => bootConfirmed x.c sigOk reads s1

/-- Firmware margin-reads the commit word in force of the key store; one that fails is written again (R409). -/
def checkCommit (weak : Bool) (s : State) : State :=
  match ksWord s.fls with
  | some w => if weak && s.glb.phase == .training then ksAppend w s else s
  | none => s

def execImageVerifyDone (sigOk : Bool) (reads : List FlashRead) (ksWeak : Bool) (s : State) : Out :=
  if s.glb.phase == .verify then .next (checkCommit ksWeak (chooseBank sigOk reads s)) else .next s

/-! ### Training (R18, R205, R273, R478) -/

/-- The drawers have trained, with their keys and their interleave in force; the noise source has passed its start-up
test. -/
def bootTrained (s : State) : Bool :=
  s.glb.phase == .training && s.rng.everOk && s.stk.xts.isSome && s.stk.salt.isSome

def trainingEnd (s : State) : State :=
  let s1 := { s with
    pwr := { s.pwr with dramTemp := vmapIdx (fun d t => if drawerPresent s.part d then s.pwr.temp else t) s.pwr.dramTemp },
    stk := { s.stk with patrol := true } }
  if s.glb.bootBank.isSome then { s1 with glb := { s1.glb with phase := .parse } } else reachNoImage s1

def execTrainingDone (s : State) : Out := if bootTrained s then .next (trainingEnd s) else .next s

/-! ### Parse (R323, R327, R428) -/

/-- Frames of a port's ring (R428). -/
def ringNeed (c : SensorCfg) : Nat := if bitAt c.word 0 then 2 ^ (bitsNat c.word 24 20 - 12) else 0

/-- The ports of the list whose rings find room in the given frames, taken in the order of the list (R428). -/
def ringsIn : Nat → List SensorCfg → List Nat
  | _, [] => []
  | room, c :: rest =>
    if ringNeed c ≤ room then c.port :: ringsIn (room - ringNeed c) rest else ringsIn room rest

/-- The configured ports that get their frames, in ascending port order, beside BAR2's 4,096 (R370). -/
def portsHeld (p : PartNo) (cs : List SensorCfg) : List Nat :=
  ringsIn (frameTotal p - 4096) ((List.range 24).filterMap fun n => cs.find? (·.port == n))

/-- Sensor capture starts on a port whose ring the drawers hold: the ring and its buffer are empty, and the first frame
carries GAP. A ring for which no frames are left is not captured into (DESIGN CHOICE, log entry 87). -/
def startPort (held : Bool) (c : SensorCfg) (p : Port) : Port :=
  let run := bitAt c.word 0
  { Port.reset with
    cfg := c.word, winNs := if run then BitVec.ofNat 64 c.winNs else 0, contiguous := run && c.contiguous,
    clk := if bitAt c.word 1 then run else p.clk, capturing := run && held, gap := run && held, ringed := run && held, ctrs := p.ctrs, fault := p.fault }

def startPorts (q : PartNo) (cs : List SensorCfg) (v : Vector Port 24) : Vector Port 24 :=
  vmapIdx (fun n p => match cs.find? (·.port == n) with
    | some c => startPort ((portsHeld q cs).contains n) c p
    | none => p) v

/-- The flush thresholds of the image, or the defaults (R114). -/
def setThresholds (ts : List (Option Word)) (l : Lathe) : Lathe :=
  let get := fun (n : Nat) (d : Word) => ((ts[n]?).join).getD d
  { l with ftzExp := get 0 0xC2D00000, ftzExp2 := get 1 0xC3160000, ftzSigmoid := get 2 0xC2D00000,
           ftzGate := get 3 0xC2D00000 }

/-- The image turned into configuration. -/
def install (h : ImgHeader) (body : ImageBody) (s : State) : State :=
  { s with
    img := some ⟨h.imageId, h.svn, bitAt h.flags 0, bitAt h.flags 1, h.reqCaps, h.signer, body⟩,
    glb := { s.glb with svn := h.svn, imageId := h.imageId },
    lth := vmap (setThresholds body.ftz) s.lth, sns := startPorts s.part body.sensors s.sns }

/-- The job indexes that start at boot, in ascending order (R327). -/
def autoJobs (body : ImageBody) : List Nat :=
  (List.range body.jobs.length).filter fun i => match body.jobs[i]? with
    | some e => autostart e
    | none => false

/-- An AUTOSTART job starts, or its failure is posted. -/
def autoStart (s : State) (idx : Nat) : State :=
  match startJob idx none s with
  | (.inl st, s1) => post { ev 0x0225 with status := st, info := BitVec.ofNat 64 idx } s1
  | (.inr _, s1) => s1

/-- A trial's CONFIRM: the bank is ACTIVE, and the counter takes its SVN (R329, R331). -/
def confirmBank (x : Bank) (h : ImgHeader) (s : State) : State :=
  let s1 := match s.glb.active with
    | some y => if y = x then s else setBank y .valid s
    | none => s
  let s2 := selAppend .confirm x h.svn h.imageId (setBank x .active s1)
  let s3 := post (ev 0x0222) { s2 with glb := { s2.glb with active := some x, fallback := false, lastStatus := 0 } }
  arRaise h.svn.toNat s3

/-- Firmware that has completed a parse raises the fuse level to its FW_SVN (R398). -/
def raiseFuse (s : State) : State := { s with sec := { s.sec with fuse := max s.sec.fuse s.sec.fwSvn.toNat } }

/-- IMAGE_SELECT is answered (R333). -/
def answerSelect (st : Byte) (s : State) : State :=
  endOpt s.glb.select st { s with glb := { s.glb with select := none } }

/-- The image is parsed: its configuration, its AUTOSTART jobs, and the CONFIRM of a trial. -/
def parsed (x : Bank) (h : ImgHeader) (body : ImageBody) (ms : Word) (s : State) : State :=
  let s1 := raiseFuse (install h body { s with glb := { s.glb with state := .running, bootMs := ms } })
  let short := body.sensors.any fun c => decide (c.port < 24) && !(portsHeld s.part body.sensors).contains c.port
  let s2 := (autoJobs body).foldl autoStart (if short then exhausted 0 s1 else s1)
  let s3 := if s.glb.trial then answerSelect stDone (confirmBank x h s2) else s2
  bootEnd { s3 with glb := { s3.glb with bootBank := none, trial := false } }

/-- An image that parse or the boot's time limit refuses. -/
def refuseImage (st : Byte) (x : Bank) (s : State) : State :=
  if s.glb.trial then fallBack st x s else reachNoImage { s with glb := { s.glb with lastStatus := st } }

def parseEnd (body : ImageBody) (ms : Word) (s : State) : State :=
  match s.glb.bootBank with
  | none => s
  | some x =>
    let h := bankHeader s x
    let b := { body with table := bankTable s x }
    match parseRefusal ⟨s.part, h, b⟩ with
    | some st => refuseImage st x s
    | none => parsed x h b ms s

def execParseComplete (body : ImageBody) (ms : Word) (s : State) : Out :=
  if s.glb.phase == .parse then .next (parseEnd body ms s) else .next s

/-- 30 s have passed since the end of verification (R326). -/
def execBootTimeout (s : State) : Out :=
  match s.glb.bootBank with
  | some x =>
    if s.glb.phase == .training || s.glb.phase == .parse then
      .next (refuseImage stAborted x (post { ev 0x0224 with status := stAborted } s))
    else .next s
  | none => .next s

/-! ### The JTAG recovery load (R397, R415) -/

/-- With no copy that verifies, a signed copy at the fuse level is loaded, and the boot goes on. -/
def execJtagRecoveryLoad (f : FwCopy) (s : State) : Out :=
  if s.glb.phase == .noFirmware && fwUsable s.sec.fuse (some f) then
    .next { s with aon := { s.aon with debugSeen := true }, glb := { s.glb with phase := .verify },
                   sec := { s.sec with fwSvn := f.svn, fwVersion := f.version } }
  else .next s

end Sys2Proof.Machine
end

