-- ==== Sys2Proof/Machine/NormOps.lean ====
section
/-! DEFINITION. The exchange of normalisation totals between modules (R122, R307). -/

namespace Sys2Proof.Machine

/-- Coordinates t and p of a rank in a job (R177). -/
def coordOfRank (s : State) (idx rank : Nat) : Nat × Nat :=
  let m := meshOf s idx
  let q := (participants s idx).findIdx (· == rank)
  (q % max 1 m.tF, (q / max 1 m.tF) % max 1 m.pF)

/-- The members of the job that share the named coordinates with this module. -/
def normGroup (s : State) (x : Job) (byT byP : Bool) : List Nat :=
  if onFabric s x then
    let me := coordOfRank s x.index s.ws.rank
    (jobRanks s x.index).filter fun r =>
      let c := coordOfRank s x.index r
      (!byT || c.1 == me.1) && (!byP || c.2 == me.2)
  else [rankNow s]

/-- Features that one NORM message holds. -/
def normMax : Nat := 1638

/-- Totals in numbered parts; the first argument bounds their number. -/
def normParts : Nat → Nat → List NormStat → List (Nat × List NormStat)
  | 0, k, xs => [(k, xs)]
  | n + 1, k, xs => if xs.length ≤ normMax then [(k, xs)] else (k, xs.take normMax) :: normParts n (k + 1) (xs.drop normMax)

/-- Totals held of a rank: every part in order, or none while one is lacking. -/
def normTotalsOf (x : Job) (w : NormWait) (rank : Nat) : Option (List NormStat) :=
  ((List.range w.parts).mapM fun k =>
    (x.norms.find? fun y => y.1 == w.tensor && y.2.1 == rank && y.2.2.1 == k).map (·.2.2.2)).map List.flatten

/-- Feature by feature. -/
def normZip (a b : List NormStat) : List NormStat := List.zipWith normCombine2 a b

def normFold : List (List NormStat) → List NormStat
  | [] => []
  | a :: t => t.foldl normZip a

/-- The results return: the combined totals, the plane's own copy with its variance (R122), and the slot token. -/
def normDeliver (j : Fin 4) (w : NormWait) (out : List NormStat) (s : State) : State :=
  let s1 := setJob j (fun y => { y with
    normOut := (w.tensor, out) :: y.normOut.filter (·.1 != w.tensor),
    norms := y.norms.filter (·.1 != w.tensor),
    normReqs := y.normReqs.filter (·.tensor != w.tensor) }) s
  let s2 := match out.getLast? with
    | some st => setPln w.plane (setNorm st) s1
    | none => s1
  markSlot (homeOf w.plane s2) w.slot.toNat true s2

/-- The exchange of a tensor ends once every member of the group has sent its totals. -/
def normTry (j : Fin 4) (id : BitVec 16) (s : State) : State :=
  match (s.jobs[j]).bind fun x => (x.normReqs.find? (·.tensor == id)).map fun w => (x, w) with
  | none => s
  | some (x, w) =>
    match w.ranks.mapM (normTotalsOf x w) with
    | some ts => normDeliver j w (normFold ts) s
    | none => s

/-- Totals of a rank are held. -/
def normHold (j : Fin 4) (id : BitVec 16) (rank part : Nat) (xs : List NormStat) (s : State) : State :=
  setJob j (fun y => { y with
    norms := (id, rank, part, xs) :: y.norms.filter fun n => !(n.1 == id && n.2.1 == rank && n.2.2.1 == part) }) s

def normWire (t : NormStat) : NormWire := ⟨BitVec.ofNat 64 t.n, w80Wire t.mean, w80Wire t.m2⟩

/-- Received totals; none where a value's encoding is reserved (R50). -/
def normRead (t : NormWire) : Option NormStat :=
  match w80Read t.mean, w80Read t.m2 with
  | some a, some b => some ⟨t.n.toNat, a, b⟩
  | _, _ => none

/-- One part goes to every other member of the group. -/
def normSend (j : Fin 4) (x : Job) (id : BitVec 16) (others : List Nat) (c : Nat × List NormStat) (s : State) : State :=
  let h := colHdr j x id 0 (c.1 * normMax) c.2.length
  others.foldl (fun s' r => send (BitVec.ofNat 16 r) 0x44 (BitVec.ofNat 16 c.1) (.norm h (c.2.map normWire)) s')
    (bumpCol 2 ((16 + 40 * c.2.length) * others.length) s)

/-- A plane hands its module's totals to the exchange. -/
def normEnter (p : Fin 16) (r : NormReq) (feats : List NormStat) (s : State) : State :=
  let j := s.pln[p].job
  match s.jobs[j] with
  | none => s
  | some x =>
    let ranks := normGroup s x r.byT r.byP
    let cs := normParts feats.length 0 feats
    let w : NormWait := ⟨r.tensor, ranks, p, r.slot, cs.length⟩
    let s1 := setJob j (fun y => { y with normReqs := y.normReqs.filter (·.tensor != r.tensor) ++ [w] }) (colMark j r.tensor s)
    let s2 := cs.foldl (fun s' c => normSend j x r.tensor (ranks.filter (· != rankNow s)) c
      (normHold j r.tensor (rankNow s) c.1 c.2 s')) s1
    normTry j r.tensor s2

end Sys2Proof.Machine
end

