-- ==== Sys2Proof/Machine/ColOps.lean ====
section
/-! DEFINITION. Shared operations of the collective unit (10_collectives.md): the check of a collective message (R297),
faults (R317), peer copies (R311), the expert exchange (R308 to R310) and the fetch of state (R181). -/

namespace Sys2Proof.Machine

/-! ### Faults and the check of a message (R297, R317) -/

def colInfo (tensor : BitVec 16) (kind job rank : Nat) : Word :=
  BitVec.ofNat 32 (tensor.toNat + kind * 2 ^ 16 + job % 4 * 2 ^ 20 + rank % 1024 * 2 ^ 22)

def colFault (kind : Nat) (tensor : BitVec 16) (job rank : Nat) (s : State) : State :=
  { s with col := { s.col with fault := orBit s.col.fault kind, info := colInfo tensor kind job rank } }

def colEvent (code : BitVec 16) (j : Fin 4) (s : State) : State :=
  post { ev code with fault := true, job := jobByte j, info := s.col.info.setWidth 64 } s

/-- An event that is posted once per step of job j, marked in bit n of `once`. -/
def postOnce (j : Fin 4) (n : Nat) (code : BitVec 16) (s : State) : State :=
  match s.jobs[j] with
  | none => colEvent code j s
  | some x =>
    if bitAt x.once n then s
    else colEvent code j (setJob j (fun y => { y with once := y.once ||| BitVec.ofNat 5 (2 ^ n) }) s)

/-- A dropped message. -/
def colDrop (h : MsgHdr) (ch : ColHdr) (s : State) : State :=
  let j := slotFin ch.job.toNat
  postOnce j 3 0x0503 (bumpCol 6 1 (colFault 2 ch.tensor j.val h.src.toNat s))

/-- Reserved fields of the header are zero. -/
def hdrOk (ch : ColHdr) : Bool := decide (ch.job.toNat < 4) && decide (ch.flags.toNat < 16)

/-- R297. A message of another step is dropped, but for `anyStep`: what a module that holds no state of the job yet asks for
and is answered (R181; log entry 40). -/
def colCheck (h : MsgHdr) (ch : ColHdr) (anyStep : Job → Bool) (k : Fin 4 → Job → State → State) (s : State) : State :=
  let j := slotFin ch.job.toNat
  match s.jobs[j] with
  | none => colDrop h ch s
  | some x =>
    if hdrOk ch && !x.parked && (anyStep x || ch.step == BitVec.ofNat 32 x.step) then k j x (colMark j ch.tensor s)
    else colDrop h ch s

/-- A collective message on link l. -/
def colRecv (l : Fin 8) (h : MsgHdr) (ch : ColHdr) (p : Payload) (k : Fin 4 → Job → State → State) (s : State) : Out :=
  recv l h p (colCheck h ch (fun _ => false) k) s

/-- The trained tensor that a message names. -/
def colWeight (s : State) (x : Job) (id : BitVec 16) : Option Tensor := (trainedOf s x.index).find? (·.id == id)

def compSet (ch : ColHdr) : Bool := bitAt ch.flags 0
def bwdSet (ch : ColHdr) : Bool := bitAt ch.flags 1
def partOfHdr (ch : ColHdr) : Nat := bitsNat ch.flags 3 2

/-! ### Glue-up messages (R299, R302) -/

/-- The words of a chunk as the tensor's form carries them. -/
def chunkOk (w : Tensor) (ch : ColHdr) (xs : List Word) : Bool :=
  compSet ch == w.comp && xs.length == (if w.comp then 2 else 1) * ch.count.toNat &&
    decide (ch.offset.toNat + ch.count.toNat ≤ w.elements)

/-- A chunk of the chain: it goes on in its turn, or waits until those before it have passed and this member's own G is in
the glue-up. -/
def takeGlue (w : Tensor) (off : Nat) (xs : List Word) (j : Fin 4) (x : Job) (s : State) : State :=
  if x.glueIn.contains w.id && nextChunk s j w == some off then glueOver j w (passHeld j w (passChunk j w off xs s))
  else holdChunk j w off xs s

def takeGlueOut (w : Tensor) (off : Nat) (xs : List Word) (j : Fin 4) (s : State) : State :=
  glueOver j w (ownChunk j w off xs s)

/-- The contributions of (g, +0) pairs (R303). -/
def firstsOf : List Word → List Word
  | a :: _ :: t => a :: firstsOf t
  | t => t

def takeDirect (w : Tensor) (off : Nat) (xs : List Word) (j : Fin 4) (x : Job) (s : State) : State :=
  glueOver j w (directAdd j w (dTotOf s x.index) off (if w.comp then firstsOf xs else xs) s)

/-- A glue-up message that the tensor's form fits. -/
def glueMsg (h : MsgHdr) (ch : ColHdr) (xs : List Word) (k : Tensor → Fin 4 → Job → State → State)
    (j : Fin 4) (x : Job) (s : State) : State :=
  match colWeight s x ch.tensor with
  | some w => if chunkOk w ch xs then k w j x s else colDrop h ch s
  | none => colDrop h ch s

/-! ### The all-gather (R305) -/

/-- The tensor whose alternate buffer a GATHER message fills. -/
def gatherTensor (s : State) (x : Job) (ch : ColHdr) : Option Tensor :=
  let part := partOfHdr ch
  if part = 3 then (tensorsOf s x.index).find? (·.id == ch.tensor)
  else
    (colWeight s x ch.tensor).bind fun w =>
      if part = 0 then some w else partOf s w (if part = 1 then .veneerM else .veneerV)

/-- A shard of W goes on around the ring until it has reached the member before its owner. -/
def passShard (j : Fin 4) (x : Job) (w : Tensor) (ch : ColHdr) (xs : List Byte) (s : State) : State :=
  let n := dTotOf s x.index
  let next := (dOf s x.index + 1) % n
  let off := ch.offset.toNat
  let owner := ((List.range n).find? fun d => decide (shardLo w.elements n d ≤ off) && decide (off < shardLo w.elements n (d + 1))).getD next
  if next = owner then s
  else
    send (BitVec.ofNat 16 ((groupRanks s x.index).getD next 0)) 0x42 0
      (.bytes (colHdr j x w.id 0 off ch.count.toNat) xs) (bumpCol 1 (16 + xs.length) s)

def takeGather (h : MsgHdr) (ch : ColHdr) (xs : List Byte) (j : Fin 4) (x : Job) (s : State) : State :=
  match gatherTensor s x ch with
  | none => colDrop h ch s
  | some t =>
    let off := ch.offset.toNat
    let n := ch.count.toNat
    match tensIn x t.id with
    | none => colDrop h ch s
    | some r =>
      if xs.length == n * fmtBytes t.fmt && decide (off + n ≤ t.elements) then
        if !readersEnded s x.readers then setJob j (fun y => { y with gatherHeld := y.gatherHeld ++ [(h, ch, xs)] }) s
        else
        let s1 := pokeOr j r.handle.toNat (bufBase t (!r.cur) + off * fmtBytes t.fmt) xs s
        let s2 := setTens j t.id (fun y => { y with gathered := y.gathered ++ [(partOfHdr ch, off, n)] }) s1
        tryTallyEnd j (if partOfHdr ch = 0 then passShard j x t ch xs s2 else s2)
      else colDrop h ch s

/-- A GATHER message that waited for the passes bound to the alternate buffers (R157). -/
def gatherOne (j : Fin 4) (g : MsgHdr × ColHdr × List Byte) (s : State) : State :=
  match s.jobs[j] with
  | some x => takeGather g.1 g.2.1 g.2.2 j x s
  | none => s

/-! ### Tallies (R306) -/

def putRank {α : Type} (r : Nat) (v : α) (l : List (Nat × α)) : List (Nat × α) := (r, v) :: l.filter (·.1 != r)

/-- A record of a rank; one with a reserved W80 encoding is dropped (R50, R297). -/
def takeTally (h : MsgHdr) (ch : ColHdr) (t : Tally) (j : Fin 4) (_ : Job) (s : State) : State :=
  let src := h.src.toNat
  match t with
  | .g v => match w80Read v with
    | some g2 => setTens j ch.tensor (fun r => { r with tallyG := putRank src g2 r.tallyG }) s
    | none => colDrop h ch s
  | .fin w2 dw2 amax ovf nan unf => match w80Read w2, w80Read dw2 with
    | some a, some b =>
      setTens j ch.tensor (fun r => { r with tallyEnd := putRank src ⟨a, b, amax, ovf, nan, unf⟩ r.tallyEnd }) s
    | _, _ => colDrop h ch s

/-! ### Peer copies (R311) -/

def extentRows (x : PeerExtent) : List Nat := rowOffs x.off x.pitch x.rows
def extentRow (x : PeerExtent) : Nat := 64 * x.rowUnits

/-- The whole extent against the LIMIT of its tensor. -/
def extentBad (s : State) (j : Fin 4) (x : PeerExtent) : Bool :=
  (beyond (tensorPlace s j x.handle.toNat true) (extentRows x) (extentRow x)).isSome

def peerReject (src : BitVec 16) (j : Fin 4) (id : BitVec 16) (s : State) : State :=
  fatalFault j (colEvent 0x0504 j (colFault 3 id j.val src.toNat s))

/-- The destination tensor of the job is created when it is first written (R225). -/
def createPeerDst (j : Fin 4) (id : BitVec 16) (s : State) : Option State :=
  match tensorOf s id, tensAt s j id with
  | some t, some _ => if t.role == .act || t.role == .grad then ensureHandle j id s else some s
  | _, _ => some s

/-- The destination's frames, pinned until the copy ends. -/
def peerFrames (src : BitVec 16) (j : Fin 4) (id : BitVec 16) (x : PeerExtent) (s : State) : Option State :=
  match tensorPlace s j x.handle.toNat true with
  | some (.tensor h base, _) =>
    let fs := placeFrames (.tensor h base) (extentRows x) (extentRow x)
    holdFrames h (.peer src j id) fs s
  | _ => some s

def takePeerReq (src : BitVec 16) (id : BitVec 16) (e : PeerExtent) (j : Fin 4) (_ : Job) (s : State) : State :=
  match createPeerDst j id s with
  | none => fatalFault j (exhausted j.val s)
  | some s1 =>
    if extentBad s1 j e then peerReject src j id s1
    else
      match peerFrames src j id e s1 with
      | none => fatalFault j (exhausted j.val s1)
      | some s2 => grantPeers { s2 with col := { s2.col with peers := s2.col.peers ++ [⟨src, j, id, e, false, 0⟩] } }

/-- The engine of job j whose peer copy to a rank and tensor waits for w. -/
def peerEngine (s : State) (j : Fin 4) (x : Job) (src : Nat) (id : BitVec 16) (w : EngWait) : Option (Fin 8 × Desc8) :=
  (List.finRange 8).findSome? fun e =>
    let g := s.stk.engines[e]
    match g.list.head? with
    | some d =>
      if g.job == j && g.wait == w && cDstKind d == 3 && cDstId d == id.toNat && peerRankOf s x d == src then some (e, d)
      else none
    | none => none

/-- Bytes of a row that one message carries at most. -/
def peerMax : Nat := 65472

/-- A row cut into pieces: offset within the row and length. -/
def rowPieces : Nat → Nat → Nat → List (Nat × Nat)
  | 0, _, _ => []
  | k + 1, at_, n => if at_ < n then (at_, min peerMax (n - at_)) :: rowPieces k (at_ + peerMax) n else []

/-- The messages of a peer copy: row, place in the destination, place in the source, length. -/
def peerPieces (d : Desc8) : List (Nat × Nat × Nat × Nat) :=
  let n := cRowBytes d
  ((srcRows d).zip (dstRows d)).zipIdx.flatMap fun r =>
    (rowPieces (n / peerMax + 1) 0 n).map fun p => (r.2, r.1.2 + p.1, r.1.1 + p.1, p.2)

def sendPiece (j : Fin 4) (x : Job) (dst : BitVec 16) (id : BitVec 16) (src : Place) (w last : Nat) (s : State)
    (p : (Nat × Nat × Nat × Nat) × Nat) : State :=
  let c := p.1
  let bs := placeRead s src c.2.2.1 c.2.2.2
  send dst 0x47 0 (.peerData (colHdr j x id 0 (c.2.1 / w) (c.2.2.2 / w)) c.1 (decide (p.2 + 1 = last)) bs)
    (bumpCol 5 (16 + bs.length) (placeUse src c.2.2.1 c.2.2.2 s))

/-- The grant has come: the rows go out. -/
def peerSend (e : Fin 8) (d : Desc8) (dst : BitVec 16) (id : BitVec 16) (j : Fin 4) (x : Job) (s : State) : State :=
  match srcPlace s j d with
  | none => s
  | some (src, _) =>
    let ps := peerPieces d
    setWait e .done (ps.zipIdx.foldl (sendPiece j x dst id src (tensorWidth s id) ps.length)
      (bumpStk 7 (cRows d * (cRowBytes d / 64)) s))

def takePeerGrant (src : BitVec 16) (id : BitVec 16) (j : Fin 4) (x : Job) (s : State) : State :=
  match peerEngine s j x src.toNat id .grant with
  | some (e, d) => peerSend e d src id j x s
  | none => s

/-- The receiver's last write: the slot is FULL, and the sender learns of it. -/
def peerEnd (p : PeerOpen) (s : State) : State :=
  let s1 := unpin (· == .peer p.src p.job p.tensor) s
  let s2 := { s1 with col := { s1.col with peers := s1.col.peers.filter (· != p) } }
  let b := slotFin p.ext.slotBench.toNat
  grantPeers (send p.src 0x48 0 (.col (peerHdr p.job p.tensor s2)) (markSlot b p.ext.slot.toNat true s2))

/-- A piece that lies within the granted extent. -/
def pieceIn (x : PeerExtent) (row at_ n : Nat) : Bool :=
  let lo := x.off + row * x.pitch
  decide (row < x.rows) && decide (lo ≤ at_) && decide (at_ + n ≤ lo + extentRow x)

def takePeerData (h : MsgHdr) (ch : ColHdr) (row : Nat) (last : Bool) (xs : List Byte) (j : Fin 4) (_ : Job) (s : State) :
    State :=
  match s.col.peers.find? fun p => p.granted && p.src == h.src && p.job == j && p.tensor == ch.tensor with
  | none => colDrop h ch s
  | some p =>
    let at_ := ch.offset.toNat * tensorWidth s ch.tensor
    if pieceIn p.ext row at_ xs.length then
      match tensorPlace s j ch.tensor.toNat true with
      | some (dst, _) =>
        let s1 := placeWrite j dst at_ xs s
        if last then peerEnd p s1 else s1
      | none => s
    else colDrop h ch s

def takePeerDone (src : BitVec 16) (id : BitVec 16) (j : Fin 4) (x : Job) (s : State) : State :=
  match peerEngine s j x src.toNat id .done with
  | some (e, _) => nextDesc e (unpin (· == .engine e) s)
  | none => s

/-! ### The expert exchange (R308 to R310) -/

/-- The entry's order key. -/
def keyLe (a b : ExpEntry) : Bool :=
  decide (a.token.toNat < b.token.toNat) || (a.token == b.token && (!a.choice || b.choice))

def insertEntry (a : Nat × ExpEntry) : List (Nat × ExpEntry) → List (Nat × ExpEntry)
  | [] => [a]
  | b :: t => if keyLe a.2 b.2 then a :: b :: t else b :: insertEntry a t

def mergeEntries : List (Nat × ExpEntry) → List (Nat × ExpEntry)
  | [] => []
  | a :: t => insertEntry a (mergeEntries t)

/-- The entries beyond the first CAP are dropped. -/
def capEntries : Nat → List (Nat × ExpEntry) → List (Nat × ExpEntry)
  | _, [] => []
  | 0, a :: t => (a.1, { a.2 with dropped := true, vec := [] }) :: capEntries 0 t
  | n + 1, a :: t => a :: capEntries n t

/-- CAP of an expert's layer. -/
def capOf (s : State) (x : Job) (t : Tensor) : Nat :=
  match (meshOf s x.index).experts.find? (·.tensor == t.veneer) with
  | some e => e.cap
  | none => 65536

/-- The D members of an exchange. -/
def expRanks (s : State) (x : Job) : List Nat := if onFabric s x then groupRanks s x.index else [rankNow s]

/-- The rank of an expert's primary (R180). -/
def primaryOf (s : State) (x : Job) (t : Tensor) : Nat :=
  (expRanks s x).getD (expertNo s t % max 1 (expRanks s x).length) (rankNow s)

def isExpert (s : State) (x : Job) (id : BitVec 16) : Option Tensor :=
  (tensorsOf s x.index).find? fun t => t.id == id && t.role == .expert

/-- Once every member's entries are here they are merged, and forward the cap applies. -/
def expComplete (j : Fin 4) (t : Tensor) (bwd : Bool) (s : State) : State :=
  match s.jobs[j] with
  | none => s
  | some x =>
    let mine := x.exp.filter fun q => q.1 == t.id && q.2.1 == bwd
    if !((expRanks s x).all fun r => mine.any fun q => q.2.2.1 == r) then s
    else
      let all := mergeEntries (mine.flatMap fun q => q.2.2.2.map fun e => (q.2.2.1, e))
      let kept := if bwd then all else capEntries (capOf s x t) all
      let gone := (kept.filter fun e => e.2.dropped).length
      let mineHeld := fun (q : BitVec 16 × Bool × Nat) => q.1 == t.id && q.2.1 == bwd
      let s1 := (x.expHeld.filter mineHeld).foldl (fun s' q => freeHandle q.2.2 s') <| setJob j (fun y => { y with
        exp := y.exp.filter fun q => !(q.1 == t.id && q.2.1 == bwd), expHeld := y.expHeld.filter fun q => !mineHeld q,
        expKept := (t.id, bwd, kept) :: y.expKept.filter fun q => !(q.1 == t.id && q.2.1 == bwd) }) s
      if !bwd && decide (0 < gone) then
        postOnce j 4 0x0505 (bumpCol 4 gone (colFault 4 t.id j.val (rankNow s) s1))
      else s1

/-- The bytes of expert entries as they travel: header, and token vector (R309). -/
def entriesBytes (xs : List ExpEntry) : Nat := (xs.map fun e => 8 + 4 * e.vec.length).sum

/-- Entries for an expert of this module, held in frames until every member's have come (R295, R309). -/
def expHold (j : Fin 4) (t : Tensor) (bwd : Bool) (src : Nat) (xs : List ExpEntry) (s : State) : State :=
  match holdBytes j (List.replicate (entriesBytes xs) 0) s with
  | none => fatalFault j (exhausted j.val s)
  | some (h, s1) =>
    expComplete j t bwd (setJob j (fun y => { y with
      expHeld := (t.id, bwd, h) :: y.expHeld,
      exp := (t.id, bwd, src, xs) :: y.exp.filter fun q => !(q.1 == t.id && q.2.1 == bwd && q.2.2.1 == src) }) s1)

def takeDispatch (h : MsgHdr) (ch : ColHdr) (xs : List ExpEntry) (j : Fin 4) (x : Job) (s : State) : State :=
  match isExpert s x ch.tensor with
  | none => colDrop h ch s
  | some t => if primaryOf s x t = rankNow s then expHold j t (bwdSet ch) h.src.toNat xs s else colDrop h ch s

def sameKey (a b : ExpEntry) : Bool := a.token == b.token && a.choice == b.choice

/-- Of the entries dropped in the step's forward exchanges (out false), or left out of the backward exchange under way
(out true), those of a tensor. -/
def goneOf (out : Bool) (x : Job) (id : BitVec 16) : List ExpEntry :=
  (x.expGone.filter fun q => q.1 == id && q.2.1 == out).map (·.2.2)

def goneIn (x : Job) (id : BitVec 16) (e : ExpEntry) : Bool := (goneOf false x id).any (sameKey e)

/-- Backward, sources send gradients for kept entries only (R310). -/
def keptOnly (x : Job) (ch : ColHdr) (xs : List ExpEntry) : List ExpEntry :=
  if bwdSet ch then xs.filter fun e => !goneIn x ch.tensor e else xs

/-- The backward exchange under way leaves out the entries that the forward exchange dropped. -/
def leaveOut (ch : ColHdr) (es : List ExpEntry) (y : Job) : Job :=
  if bwdSet ch then
    { y with expGone := ((es.filter (goneIn y ch.tensor)).map fun e => (ch.tensor, true, { e with dropped := true, vec := [] })) ++
        y.expGone.filter fun q => !(q.1 == ch.tensor && q.2.1) }
  else y

/-- This module's own planes hand over their entries for an expert (log entry 39): they go to its primary, or stay. -/
def ownDispatch (ch : ColHdr) (es : List ExpEntry) (j : Fin 4) (x : Job) (s : State) : State :=
  match isExpert s x ch.tensor with
  | none => s
  | some t =>
    let r := primaryOf s x t
    let xs := keptOnly x ch es
    let s1 := setJob j (leaveOut ch es) (bumpCol 3 xs.length (colMark j t.id s))
    if r = rankNow s then expHold j t (bwdSet ch) r xs s1
    else send (BitVec.ofNat 16 r) 0x60 0 (.experts (colHdr j x t.id (ch.flags &&& 2) 0 xs.length) xs) s1

/-- Results put to a source's entries in order: a dropped entry takes none. -/
def pairResults : List ExpEntry → List ExpEntry → List ExpEntry
  | [], _ => []
  | e :: t, rs =>
    if e.dropped then e :: pairResults t rs
    else match rs with
      | r :: rest => { e with vec := r.vec } :: pairResults t rest
      | [] => e :: pairResults t []

/-- Results at their source. An entry with DROPPED and no vector stands for a zero: its expert output, and backward its input
gradient (R309, R310). -/
def takeReturn (src : Nat) (ch : ColHdr) (xs : List ExpEntry) (j : Fin 4) (s : State) : State :=
  setJob j (fun y => { y with
    expGone := if bwdSet ch then y.expGone else (xs.filter (·.dropped)).map (fun e => (ch.tensor, false, e)) ++ y.expGone,
    expRet := (ch.tensor, bwdSet ch, src, if bwdSet ch then xs ++ goneOf true y ch.tensor else xs) ::
      y.expRet.filter fun q => !(q.1 == ch.tensor && q.2.1 == bwdSet ch) }) s

/-- This module's own expert has run (log entry 39): its results go back to a source. -/
def ownReturn (dst : Nat) (ch : ColHdr) (xs : List ExpEntry) (j : Fin 4) (x : Job) (s : State) : State :=
  match x.expKept.find? fun q => q.1 == ch.tensor && q.2.1 == bwdSet ch with
  | none => s
  | some q =>
    let es := pairResults ((q.2.2.filter fun e => e.1 == dst).map (·.2)) xs
    if dst = rankNow s then takeReturn dst ch es j s
    else send (BitVec.ofNat 16 dst) 0x61 0 (.experts (colHdr j x ch.tensor (ch.flags &&& 2) 0 es.length) es) s

/-! ### State (R181) -/

/-- The holder's answer: the current buffer's elements and the tensor's state. -/
def answerState (dst : BitVec 16) (h : MsgHdr) (ch : ColHdr) (j : Fin 4) (x : Job) (s : State) : State :=
  match tensorOf s ch.tensor, tensIn x ch.tensor with
  | some t, some r =>
    let lo := ch.offset.toNat
    let n := ch.count.toNat
    if lo + n ≤ t.elements then
      let k : StateRec := ⟨x.step, x.seed.getD 0, r.bc1, r.bc2, r.k, r.kPrev, r.hist⟩
      let base := if isVeneer t.role then bufBase t r.cur else 0
      send dst 0x81 0 (.state (colHdr j x t.id 0 lo n) (shardBytes s t r false lo (lo + n)) k)
        (useHandle r.handle.toNat (base + lo * fmtBytes t.fmt) (n * fmtBytes t.fmt) s)
    else colDrop h ch s
  | _, _ => colDrop h ch s

/-- Fetched state written into the current buffer. -/
def putState (j : Fin 4) (t : Tensor) (r : TRun) (ch : ColHdr) (xs : List Byte) (k : StateRec) (s : State) : State :=
  let base := if isVeneer t.role then bufBase t r.cur else 0
  let s1 := pokeOr j r.handle.toNat (base + ch.offset.toNat * fmtBytes t.fmt) xs s
  setTens j t.id (fun y => { y with bc1 := k.bc1, bc2 := k.bc2, k := k.k, kPrev := k.kPrev, hist := k.hist }) s1

/-- The job's own part of what came: an arrival, and a participant that restores without a part of its own, takes the
step counter and the seed. -/
def putJobState (j : Fin 4) (k : StateRec) (s : State) : State :=
  setJob j (fun y => if y.phase == .holding && y.restore.all (·.parts.isEmpty) then
    { y with step := k.step, seed := some k.seed, drawn := y.drawn && y.restore.isNone, kg := genKey k.seed } else y) s

/-- Nothing is left to fetch: a restore ends (R188, step 5), and a fetched mirror is whole again (R224). -/
def fetchEnd (j : Fin 4) (s : State) : State :=
  match s.jobs[j] with
  | none => s
  | some x =>
    if !x.fetch.isEmpty then s
    else
      let s1 := setJob j (fun y => { y with refetch := [] }) s
      match x.restore.bind (·.agreed) with
      | some step => restoreDone j step.toNat s1
      | none => s1

def takeState (h : MsgHdr) (ch : ColHdr) (xs : List Byte) (k : StateRec) (j : Fin 4) (x : Job) (s : State) : State :=
  let key := (ch.tensor, ch.offset.toNat, ch.count.toNat)
  match tensorOf s ch.tensor, tensIn x ch.tensor with
  | some t, some r =>
    if x.fetch.contains key && xs.length == ch.count.toNat * fmtBytes t.fmt then
      fetchEnd j (setJob j (fun y => { y with fetch := y.fetch.filter (· != key) })
        (putJobState j k (putState j t r ch xs k s)))
    else colDrop h ch s
  | _, _ => colDrop h ch s

end Sys2Proof.Machine
end

