-- ==== Sys2Proof/Machine/Collect.lean ====
section
/-! DEFINITION. The commands of the collective unit (10_collectives.md): GLUE to STATE_DATA, COL_TIMEOUT and
COL_CFG_WRITE. -/

namespace Sys2Proof.Machine

/-- A chunk for a G of which frames are with the host stays in its lane's buffer until their page-in (R235; log entry
62). -/
def glueAway (s : State) (ch : ColHdr) : Bool :=
  match tensorOf s ch.tensor with
  | some w => gSpilled s (slotFin ch.job.toNat) w
  | none => false

def execGlue (l : Fin 8) (h : MsgHdr) (ch : ColHdr) (xs : List Word) (ecc : DrawerEcc) (s : State) : Out :=
  if glueAway s ch then .next s
  else
    colRecv l h ch (.words ch xs)
      (glueMsg h ch xs fun w j x => afterEcc ecc (takeGlue w ch.offset.toNat xs j x)) s

def execGlueOut (l : Fin 8) (h : MsgHdr) (ch : ColHdr) (xs : List Word) (s : State) : Out :=
  if glueAway s ch then .next s
  else colRecv l h ch (.words ch xs) (glueMsg h ch xs fun w j _ => takeGlueOut w ch.offset.toNat xs j) s

def execGlueDirect (l : Fin 8) (h : MsgHdr) (ch : ColHdr) (xs : List Word) (s : State) : Out :=
  if glueAway s ch then .next s
  else colRecv l h ch (.words ch xs) (glueMsg h ch xs fun w j x => takeDirect w ch.offset.toNat xs j x) s

def execGather (l : Fin 8) (h : MsgHdr) (ch : ColHdr) (xs : List Byte) (s : State) : Out :=
  colRecv l h ch (.bytes ch xs) (takeGather h ch xs) s

def execTally (l : Fin 8) (h : MsgHdr) (ch : ColHdr) (t : Tally) (s : State) : Out :=
  colRecv l h ch (.tally ch t) (takeTally h ch t) s

def execNorm (l : Fin 8) (h : MsgHdr) (ch : ColHdr) (xs : List NormWire) (s : State) : Out :=
  colRecv l h ch (.norm ch xs) (fun j _ s => match xs.mapM normRead with
    | some ts => normTry j ch.tensor (normHold j ch.tensor h.src.toNat h.arg.toNat ts s)
    | none => colDrop h ch s) s

/-! ### Peer copies (R311) -/

def execPeerReq (l : Fin 8) (h : MsgHdr) (ch : ColHdr) (x : PeerExtent) (s : State) : Out :=
  colRecv l h ch (.peerReq ch x) (takePeerReq h.src ch.tensor x) s

def execPeerGrant (l : Fin 8) (h : MsgHdr) (ch : ColHdr) (s : State) : Out :=
  colRecv l h ch (.col ch) (takePeerGrant h.src ch.tensor) s

def execPeerData (l : Fin 8) (h : MsgHdr) (ch : ColHdr) (row : Nat) (last : Bool) (xs : List Byte) (s : State) : Out :=
  colRecv l h ch (.peerData ch row last xs) (takePeerData h ch row last xs) s

def execPeerDone (l : Fin 8) (h : MsgHdr) (ch : ColHdr) (s : State) : Out :=
  colRecv l h ch (.col ch) (takePeerDone h.src ch.tensor) s

/-! ### Experts (R309, R310; log entry 39) -/

/-- The command comes from this module's own planes, not from a link. -/
def ownHand (s : State) (h : MsgHdr) : Bool := h.src.toNat == rankNow s && running s

/-- A hand-over by this module's own planes for a job that runs here. -/
def handOver (ch : ColHdr) (k : Fin 4 → Job → State → State) (s : State) : Out :=
  let j := slotFin ch.job.toNat
  match s.jobs[j] with
  | some x => .next (k j x s)
  | none => .next s

def execExpDispatch (l : Fin 8) (h : MsgHdr) (ch : ColHdr) (xs : List ExpEntry) (s : State) : Out :=
  if ownHand s h then handOver ch (ownDispatch ch xs) s
  else colRecv l h ch (.experts ch xs) (takeDispatch h ch xs) s

def execExpReturn (l : Fin 8) (h : MsgHdr) (ch : ColHdr) (xs : List ExpEntry) (s : State) : Out :=
  if ownHand s h then handOver ch (ownReturn h.dst.toNat ch xs) s
  else colRecv l h ch (.experts ch xs) (fun j _ => takeReturn h.src.toNat ch xs j) s

/-! ### State (R181) -/

def execStateReq (l : Fin 8) (h : MsgHdr) (ch : ColHdr) (ecc : DrawerEcc) (s : State) : Out :=
  recv l h (.col ch) (colCheck h ch (fun _ => ch.step == 0) fun j x => afterEcc ecc (answerState h.src h ch j x)) s

def execStateData (l : Fin 8) (h : MsgHdr) (ch : ColHdr) (xs : List Byte) (r : StateRec) (s : State) : Out :=
  recv l h (.state ch xs r) (colCheck h ch (fun x => x.phase == .holding) (takeState h ch xs r)) s

/-! ### COL_TIMEOUT (R313) and COL_CFG (R316) -/

/-- A collective of tensor t is open in the running step of job x. -/
def colOpen (s : State) (j : Fin 4) (x : Job) (t : BitVec 16) : Bool :=
  stepOpen x && x.phase != .ready &&
    (x.glueIn.contains t || (x.phase == .update && x.tens.any (·.id == t)) || (x.exp.any fun q => q.1 == t) ||
      (x.normReqs.any fun w => w.tensor == t) || (s.col.peers.any fun p => p.job == j && p.tensor == t) ||
      s.stk.engines.toList.any fun e => e.job == j && e.wait == .done && (match e.list.head? with
        | some d => cDstId d == t.toNat
        | none => false))

/-- The group of an open collective: the D-group for a glue-up (R299) and for expert messages (R309); every member of
the job for the tallies, the norms and the peer copies. -/
def colGroup (s : State) (x : Job) (t : BitVec 16) : List Nat :=
  if x.glueIn.contains t || x.exp.any fun q => q.1 == t then groupRanks s x.index else jobRanks s x.index

/-- Every member of the collective's group is live, and no link to one is in PEER_QUIESCE, where the limit does not
run. -/
def groupCarries (s : State) (x : Job) (t : BitVec 16) : Bool :=
  let other := fun (r : Nat) => !(colGroup s x t).contains r
  s.ws.departed.all other && s.ws.quiet.all other && !s.pwr.coreDown &&
    s.links.toList.all fun l => !(l.peerMember && l.state == .peerQuiesce) || other l.peerRank.toNat

/-- TIMEOUT_MS in nanoseconds; 0 acts as 1 (R316). -/
def colLimit (s : State) : Nat := max 1 (bitsNat s.col.cfg 7 0) * 1000000

/-- The collective has received no message for TIMEOUT_MS. -/
def colSilent (s : State) (j : Fin 4) (t : BitVec 16) : Bool :=
  decide ((colLast s j t).toNat + colLimit s ≤ s.aon.time.toNat)

def execColTimeout (j : Fin 4) (t : BitVec 16) (rank : Nat) (s : State) : Out :=
  match s.jobs[j] with
  | none => .next s
  | some x =>
    if running s && onFabric s x && colOpen s j x t && groupCarries s x t && colSilent s j t then
      .next (coveredFault j (colEvent 0x0501 j (bumpCol 7 1 (colFault 0 t j.val rank s))))
    else .next s

def execColCfgWrite (v : Word) (s : State) : Out :=
  if !running s then .next s
  else if anyJob s then .next (post (ev 0x0502) (colFault 1 0 0 0 s))
  else .next { s with col := { s.col with cfg := v &&& 0xFFF } }

end Sys2Proof.Machine
end

