-- ==== Sys2Proof/Machine/Copies.lean ====
section
/-! DEFINITION. The copy engines and the stockroom (08_memory_and_stockroom.md): COPY, COPY_SIGNAL, RING_WINDOW,
COPY_FREE, STK_WAIT_TIMEOUT, paging, the patrol scrub, the imbalance monitor and the writes of the STK registers. -/

namespace Sys2Proof.Machine

/-! ### COPY (R239, R241, R242, R311) -/

def peerExtent (d : Desc8) : PeerExtent :=
  ⟨BitVec.ofNat 16 (cDstId d), cDstOff d, dField d 1 15 0 + 1, cRows d, cDstPitch d,
   BitVec.ofNat 2 (cSlotBench d).val, BitVec.ofNat 8 (cSetSlot d)⟩

/-- Data that a descriptor reads has not been delivered: the descriptor ends, if its job goes on. -/
def copyLost (e : Fin 8) (list : List Desc8) (s : State) : State :=
  if (s.stk.engines[e]).list == list then nextDesc e s else s

/-- The rows are moved once frames and data are there, with the frames pinned (R242); `k` ends the descriptor. -/
def copyMove (e : Fin 8) (j : Fin 4) (d : Desc8) (src dst : Place) (c : Ecc) (k : State → State) (s : State) : State :=
  let n := cRowBytes d
  let ins := placeFrames src (srcRows d) n
  let out := placeFrames dst (dstRows d) n
  if spilledIn s src ins || spilledIn s dst out then setWait e .page s
  else
    match placeHold dst out (.engine e) (placePin src ins (.engine e) s) with
    | none => fatalFault j (exhausted j.val s)
    | some s1 =>
      let g := placeEcc j src c s1
      if g.1 then k (unpin (· == .engine e) (moveRows j src dst d g.2))
      else copyLost e (s.stk.engines[e]).list (unpin (· == .engine e) g.2)

/-- A copy to another module: the request goes out, its source frames pinned (R311). -/
def copyAway (e : Fin 8) (j : Fin 4) (d : Desc8) (src : Place) (c : Ecc) (r : Nat) (s : State) : State :=
  let ins := placeFrames src (srcRows d) (cRowBytes d)
  if spilledIn s src ins then setWait e .page s
  else
    let g := placeEcc j src c s
    if g.1 then
      send (BitVec.ofNat 16 r) 0x45 0 (.peerReq (peerHdr j (BitVec.ofNat 16 (cDstId d)) s) (peerExtent d))
        (placePin src ins (.engine e) (setWait e .grant g.2))
    else copyLost e (s.stk.engines[e]).list g.2

/-- The receiver's slot of a peer copy that stays on the module: FULL after the last write (R311). -/
def peerHere (e : Fin 8) (d : Desc8) (s : State) : State := nextDesc e (markSlot (cSlotBench d) (cSetSlot d) true s)

/-- The rank of another module that a peer copy goes to. -/
def awayRank (s : State) (j : Fin 4) (d : Desc8) : Option Nat :=
  (s.jobs[j]).bind fun x =>
    if cDstKind d = 3 && onFabric s x && peerRankOf s x d != s.ws.rank then some (peerRankOf s x d) else none

/-- The first forbidden address of a destination, as a fault names it. -/
def dstBeyond (s : State) (j : Fin 4) (d : Desc8) : Option Nat := beyond (dstPlace s j d) (dstRows d) (cRowBytes d)

/-- A copy whose destination is on this module. A peer copy that comes to the module itself runs under the receiver's
handshake. -/
def copyHere (e : Fin 8) (j : Fin 4) (d : Desc8) (src : Place) (c : Ecc) (s : State) : State :=
  if cDstKind d = 3 && !slotEmpty (cSlotBench d) (cSetSlot d) s then setWait e .slot s
  else
    match createDst j d s with
    | none => fatalFault j (exhausted j.val s)
    | some s1 =>
      match dstBeyond s1 j d with
      | some a => copyBounds e (if 2 ≤ cDstKind d then cDstId d else 0) a s
      | none =>
        match dstPlace s1 j d with
        | some (dst, _) => copyMove e j d src dst c (if cDstKind d = 3 then peerHere e d else descEnd e d) s1
        | none => s

def copyRun (e : Fin 8) (c : Ecc) (d : Desc8) (s : State) : State :=
  let j := (s.stk.engines[e]).job
  match beyond (srcPlace s j d) (srcRows d) (cRowBytes d) with
  | some a => copyBounds e (if cSrcKind d = 2 then cSrcId d else 0) a s
  | none =>
    match srcPlace s j d, awayRank s j d with
    | none, _ => s
    | some (src, _), some r => copyAway e j d src c r s
    | some (src, _), none => copyHere e j d src c s

def execCopy (e : Fin 8) (ecc : Ecc) (s : State) : Out := descRun e 0 (copyRun e ecc) s

/-! ### SIGNAL, FREE, RING_WINDOW (R228, R239, R240, R431) -/

def execCopySignal (e : Fin 8) (s : State) : Out := descRun e 1 (descEnd e) s

def copyFreeRun (e : Fin 8) (d : Desc8) (s : State) : State :=
  let j := (s.stk.engines[e]).job
  match handleNamed s j (cDstId d) with
  | none => copyBounds e (cDstId d) 0 s
  | some h => descEnd e d (freeHandle h s)

def execCopyFree (e : Fin 8) (s : State) : Out := descRun e 3 (copyFreeRun e) s

/-- Entries of a port's ring that survive, in capture order (R430). -/
def survivors (p : Port) : List RingEntry :=
  let size := 2 ^ bitsNat p.cfg 24 20
  let n := p.wrCount.toNat
  let first := n - size
  (List.range' first (n - first)).filterMap fun k => tabFind (k % size) p.ring

/-- The ring has overwritten entries. -/
def overwrote (p : Port) : Bool := decide (2 ^ bitsNat p.cfg 24 20 < p.wrCount.toNat)

/-- The lower bound of a window raised until no more than cap entries lie in it. -/
def fitLo (cap hi : Nat) : List RingEntry → Nat → Nat
  | [], lo => lo
  | e :: t, lo => if (e :: t).length ≤ cap then max lo e.time.toNat else fitLo cap hi t (e.time.toNat + 1)

/-- Bounds raised in the job's record of the step's windows, and the destination noted. -/
def noteWindow (j : Fin 4) (port lo : Nat) (dst : Nat × Nat) (s : State) : State :=
  setJob j (fun x => { x with windows := x.windows.map fun w =>
    if w.port = port then { w with lo := lo, copies := w.copies ++ [dst] } else w }) s

/-- What the entries of a ring that survive lie in: the bytes of the ring, the oldest entry's slot on (R430). -/
def ringUse (q : Fin 24) (s : State) : State :=
  let p := s.sns[q]
  let size := 2 ^ bitsNat p.cfg 24 20
  let n := p.wrCount.toNat
  let old := (n - size) % size
  if n ≤ size then placeUse (.ring q) 0 (16 * n) s
  else placeUse (.ring q) 0 (16 * old) (placeUse (.ring q) (16 * old) (16 * (size - old)) s)

/-- A window of a port as it is copied: its lower bound and entries; whether entries below it were overwritten (R431); and
whether the bound was raised to fit (R240). -/
structure WindowCut where
  lo : Nat
  es : List RingEntry
  lost : Bool
  cut : Bool
  deriving DecidableEq, Repr

def cutWindow (p : Port) (w : Window) (cap : Nat) (train : Bool) : WindowCut :=
  let all := survivors p
  let oldest := match all.head? with
    | some x => x.time.toNat
    | none => 0
  let lost := train && overwrote p && decide (w.lo < oldest)
  let lo1 := if lost then oldest else w.lo
  let sel := all.filter fun x => decide (lo1 ≤ x.time.toNat) && (decide (x.time.toNat < w.hi) || !train)
  let cut := decide (cap < sel.length)
  let lo2 := if cut then fitLo cap w.hi sel lo1 else lo1
  ⟨lo2, sel.filter fun x => decide (lo2 ≤ x.time.toNat), lost, cut⟩

/-- What a cut window reports. -/
def windowFaults (j : Fin 4) (n : Fin 24) (h : Nat) (c : WindowCut) (s : State) : State :=
  let s1 := if c.lost then
      post { ev 0x0A03 with inst := BitVec.ofNat 8 n.val } (setSns n (fun q => { q with fault := orBit q.fault 2 }) s)
    else s
  if c.cut then post (ev 0x030A) (stkFault 9 h 0 j.val 0 0 s1) else s1

/-- A window of a port copied into handle h, which takes `cap` entries from DST_OFF on (R240, R431). -/
def windowCopy (e : Fin 8) (j : Fin 4) (d : Desc8) (n : Fin 24) (h cap : Nat) (w : Window) (train : Bool) (s : State) :
    State :=
  let c := cutWindow s.sns[n] w cap train
  let bs := c.es.flatMap entryBytes
  let fs := frameSpan (cDstOff d) bs.length
  if spilledIn s (.tensor h 0) fs then setWait e .page s
  else
    match holdFrames h (.engine e) fs s with
    | none => fatalFault j (exhausted j.val s)
    | some s1 =>
      let s2 := windowFaults j n h c s1
      let s3 := if train then noteWindow j n.val c.lo (cDstId d, cDstOff d) s2 else s2
      let s4 := bumpStk 7 ((bs.length + 63) / 64) (pokeOr j h (cDstOff d) bs (ringUse n s3))
      descEnd e d (unpin (· == .engine e) s4)

/-- Entries below the upper bound still wait in the port's buffer. -/
def windowWaits (p : Port) (hi : Nat) : Bool := p.buf.any fun x => decide (x.time.toNat < hi)

/-- The window that a RING_WINDOW of a job copies: that of the step, or everything for a request; none where the step has
no window of the port, or has copied it already. -/
def windowPart (x : Job) (port : Nat) (dst : Nat × Nat) : Option Window :=
  if x.train then (x.windows.find? (·.port == port)).filter fun w => !w.copies.contains dst
  else some ⟨port, 0, 0, []⟩

def ringWindowRun (e : Fin 8) (ecc : Ecc) (d : Desc8) (s : State) : State :=
  let j := (s.stk.engines[e]).job
  match ringNamed s (cSrcId d), handleNamed s j (cSrcId d), (handleNamed s j (cDstId d)).bind fun h => (handleAt s h).map
      fun y => (h, y.limit * 64), s.jobs[j] with
  | some c, some _, some (h, limit), some x =>
    if limit ≤ cDstOff d then copyBounds e (cDstId d) (cDstOff d) s
    else if hp : c.port < 24 then
      match windowPart x c.port (cDstId d, cDstOff d) with
      | none => descEnd e d s
      | some w =>
        if x.train && windowWaits s.sns[c.port] w.hi then s
        else
          windowCopy e j d ⟨c.port, hp⟩ h ((limit - cDstOff d) / 16) w x.train (placeEcc j (.ring ⟨c.port, hp⟩) ecc s).2
    else s
  | _, _, none, _ => copyBounds e (cDstId d) (cDstOff d) s
  | _, _, _, _ => copyBounds e (cSrcId d) 0 s

def execRingWindow (e : Fin 8) (ecc : Ecc) (s : State) : Out := descRun e 2 (ringWindowRun e ecc) s

/-! ### STK_WAIT_TIMEOUT (R239, R311) -/

/-- The handle that a descriptor's fault names. -/
def descHandle (s : State) (j : Fin 4) (d : Desc8) : Nat :=
  let id := if cSrcKind d = 2 && cOp d != 3 then cSrcId d else if cDstKind d = 2 || cOp d == 3 then cDstId d else 0
  if id = 0 then 0 else (handleNamed s j id).getD id

/-- What a descriptor that waits for a slot waits for: WAIT_SLOT, or the receiver's slot of a peer copy on this module. -/
def slotWaits (d : Desc8) (s : State) : Bool :=
  !slotReady d s || (cOp d == 0 && cDstKind d == 3 && !slotEmpty (cSlotBench d) (cSetSlot d) s)

def execStkWaitTimeout (e : Fin 8) (s : State) : Out :=
  let x := s.stk.engines[e]
  match headDesc e s with
  | none => .next s
  | some d =>
    if (x.wait == .slot && slotWaits d s) || x.wait == .grant then
      let s1 := stkFault 7 (descHandle s x.job d) e.val x.job.val 0 0 s
      .next (fatalFault x.job (post { ev 0x030B with
        fault := true, job := jobByte x.job, status := stAborted, info := s1.stk.faultInfo.setWidth 64 } s1))
    else .next s

/-! ### Paging (R235 to R237) -/

/-- Page-outs are due: free frames are below FREE_LOW, or have been and do not yet exceed it by 256. -/
def pagingDue (s : State) : Bool :=
  decide (freeFrames s < freeLow s) || (s.stk.paging && decide (freeFrames s ≤ freeLow s + 256))

/-- The frame that the next page-out takes: the one translated least recently (R235). -/
def outNext (h i : Nat) (s : State) : Bool :=
  pagingDue s && canSpill s && (coldest (coldFrames s)).any fun q => q.1 == h && q.2.1 == i

/-- A frame entry of a handle. -/
def frameAt (s : State) (h i : Nat) : Option (Handle × Frame) :=
  (handleAt s h).bind fun x => (tabFind i x.table).map fun f => (x, f)

def execPageOut (h : BitVec 16) (frame : Nat) (s : State) : Out :=
  if running s && outNext h.toNat frame s then .next (pageOutRun h.toNat frame s) else .next s

/-- The frames of handle h that a copy descriptor of job j names. -/
def descFrames (s : State) (j : Fin 4) (h : Nat) (d : Desc8) : List Nat :=
  let at_ := fun (p : Option (Place × Nat)) (rows : List Nat) => match p with
    | some (.tensor k base, _) => if k = h then placeFrames (.tensor k base) rows (cRowBytes d) else []
    | _ => []
  if cOp d = 0 then at_ (srcPlace s j d) (srcRows d) ++ at_ (dstPlace s j d) (dstRows d) else []

/-- A spilled frame is wanted back: a descriptor under way or among the next 64 of an engine names it, a peer copy open at
this receiver writes its handle, or a gradient lies in it (R235). -/
def pageWanted (h i : Nat) (x : Handle) (s : State) : Bool :=
  (s.stk.engines.toList.any fun e => (e.list.take 65).any fun d => (descFrames s e.job h d).contains i) ||
    (s.col.peers.any fun p => handleNamed s p.job p.ext.handle.toNat == some h) || x.cls == .grad

/-- A page-in whose data authenticated: the plaintext is in a frame again, and the slot is free. -/
def pageInRun (h i : Nat) (f : Frame) (bs : List Byte) (s : State) : State :=
  match pickPfn s with
  | none => s
  | some (p, s1) =>
    let s2 := setHandle h (fun x => { x with table := tabPut i { f with loc := p, resident := true, spilled := false } x.table }) s1
    grantPeers (bumpStk 2 1 { s2 with stk := { s2.stk with
      bytes := writeBytes s2.stk.bytes (hKey h (i * 65536)) bs,
      spills := s2.stk.spills.filter fun q => !(q.2.handle == h && q.2.frame == i) } })

/-- The fault of a page-in or page-out: the frame is lost, a covered spill fault of the step. -/
def spillFault (bit : Nat) (code : BitVec 16) (h i : Nat) (x : Handle) (s : State) : State :=
  let s1 := stkFault bit h 0 x.job 0 0 s
  coveredFault (slotFin x.job) (post { ev code with
    fault := true, job := jobByte (slotFin x.job), info := s1.stk.faultInfo.setWidth 64 } (dropFrame h i s1))

/-- What the host returned for the slot of a frame, opened under the module's own COUNTER (R236). -/
def openSpill (h i : Nat) (f : Frame) (r : SpillRead) (s : State) : Option (List Byte) :=
  if r.data.length = 65536 then
    gcmOpen (spillKeyBytes s) (spillNonce f.loc f.counter) (spillAad f.loc h i f.counter) r.data r.tag
  else none

def execPageIn (h : BitVec 16) (frame : Nat) (r : SpillRead) (s : State) : Out :=
  match frameAt s h.toNat frame with
  | some (x, f) =>
    if running s && f.spilled && pageWanted h.toNat frame x s then
      match openSpill h.toNat frame f r s with
      | some bs => .next (pageInRun h.toNat frame f bs s)
      | none => .next (spillFault 2 0x0303 h.toNat frame x s)
    else .next s
  | none => .next s

def execSpillTimeout (h : BitVec 16) (frame : Nat) (s : State) : Out :=
  match frameAt s h.toNat frame with
  | some (x, f) =>
    if running s && ((f.spilled && pageWanted h.toNat frame x s) || outNext h.toNat frame s) then
      .next (spillFault 1 0x0302 h.toNat frame x s)
    else .next s
  | none => .next s

/-! ### Patrol scrub (R223, R224) -/

/-- The frame with a PFN is held by no handle. -/
def freePfn (s : State) (f : Nat) : Bool :=
  decide (f < frameTotal s.part) && !(usedPfns s).contains f && !(decide (4096 ≤ f) && decide (f < reservedFrames s))

/-- The scrub reads a 64-byte block: of a frame of handle h, or, with h 0, block number `block` of a frame that no handle
holds. -/
def execPatrolScrub (h : BitVec 16) (block : Nat) (found : ScrubFind) (s : State) : Out :=
  let here := if h = 0 then freePfn s (block / 1024) else (frameAt s h.toNat (block / 1024)).any (·.2.resident)
  if running s && here then
    match found with
    | .clean => .next s
    | .corrected => .next (bumpStk 3 1 s)
    | .uncorrectable =>
      .next (if h = 0 then blockFault 0 0 (block / 1024) (block * 64 % 65536) s else (blockLost h.toNat (block * 64) s).2)
  else .next s

/-! ### The imbalance monitor (R231) -/

/-- Requests of the window under way to channel c. -/
def channelCount (s : State) (c : Nat) : Nat :=
  ((s.stk.winReq.filter fun q => channelOf s (q.1 / 32) (q.1 % 32) == c).map (·.2)).sum

def channelCounts (s : State) : List Nat := (List.range (channels s.part)).map (channelCount s)

/-- The largest count exceeds 1.5 times the mean over C channels, in a window of at least 4,096 requests. -/
def imbalanced (s : State) (cs : List Nat) : Bool :=
  decide (4096 ≤ cs.sum) && decide (3 * cs.sum < 2 * channels s.part * cs.foldl max 0)

/-- The 64 most requested segments of each channel. -/
def hottest (s : State) (t : List (Nat × Nat)) : List (Nat × Nat) :=
  let of := fun c => t.filter fun q => channelOf s (q.1 / 32) (q.1 % 32) == c
  let kept := (List.range (channels s.part)).flatMap fun c => (sortBy (fun a b => decide (b.2 ≤ a.2)) (of c)).take 64
  t.filter fun q => kept.contains q

/-- The segments tracked in the run, with the window's requests. -/
def trackWindow (s : State) : List (Nat × Nat) :=
  hottest s (s.stk.winReq.foldl (fun t q => tally q.1 q.2 t) s.stk.runReq)

def execImbalanceWindow (s : State) : Out :=
  if !running s then .next s
  else
    let cs := channelCounts s
    let regs : Vector Word 32 := vmapIdx (fun i (_ : Word) => BitVec.ofNat 32 (cs.getD i 0)) s.stk.chanReq
    let bad := imbalanced s cs
    let s1 := { s with stk := { s.stk with
      chanReq := regs, winReq := [], imbRun := if bad then s.stk.imbRun + 1 else 0,
      runReq := if bad then trackWindow s else [] } }
    if s1.stk.imbRun = 1024 then
      let s2 := stkFault 3 0 0 0 0 0 s1
      .next (post (ev 0x0304) { s2 with stk := { s2.stk with
        imbRun := 0, hot := s2.stk.runReq, runReq := [], replacePending := true } })
    else .next s1

/-! ### Registers (R234, R246, R249) -/

/-- A write to a locked register of the stockroom. -/
def stkLocked (s : State) : State := post (ev 0x0307) (stkFault 6 0 0 0 0 0 s)

def execStkCfgWrite (v : Word) (s : State) : Out :=
  if !running s then .next s
  else if anyJob s then .next (stkLocked s) else .next { s with stk := { s.stk with cfg := v &&& 0xFFFFFF1F } }

def execStkSpillWrite (slots : Bool) (v : DWord) (s : State) : Out :=
  if !running s then .next s
  else if anyJob s then .next (stkLocked s)
  else if slots then .next { s with stk := { s.stk with slots := BitVec.ofNat 22 v.toNat } }
  else .next { s with stk := { s.stk with base := v &&& 0xFFFFFFFFFFFF0000 } }

end Sys2Proof.Machine
end

