-- ==== Sys2Proof/Machine/Events.lean ====
section
/-! DEFINITION. The event collector (R496, R497) and the registers of its ring (R167, R502). -/

namespace Sys2Proof.Machine

def execEvtRecordFile (s : State) : Out := if awake s then .next (fileOne s) else .next s

/-- The ring is enabled. -/
def evtRingOn (s : State) : Bool := effLog2 s.evt.ringLog2 != 0

def evtLocked (s : State) : State := { s with evt := { s.evt with fault := orBit s.evt.fault 0 } }

/-- EVT_RING_BASE, or EVT_RING_SIZE with `size`. A size that acts as 0 is always accepted. -/
def execEvtRingConfigWrite (size : Bool) (v : DWord) (s : State) : Out :=
  if !awake s then .next s
  else if size then
    let n : BitVec 5 := v.setWidth 5
    if evtRingOn s && effLog2 n != 0 then .next (evtLocked s)
    else
      let p := ringResize s.evt.ringLog2 n s.evt.wr s.evt.rd
      .next { s with evt := { s.evt with ringLog2 := n, wr := p.1, rd := p.2 } }
  else if evtRingOn s then .next (evtLocked s)
  else .next { s with evt := { s.evt with ringBase := v &&& 0xFFFFFFFFFFFFFFC0 } }

def execEvtRingRdWrite (v : Word) (s : State) : Out :=
  let log2 := effLog2 s.evt.ringLog2
  let p := ptrOf v
  if !awake s || log2 == 0 || rdPasses log2 s.evt.wr s.evt.rd p then .next s
  else .next { s with evt := { s.evt with rd := p } }

end Sys2Proof.Machine
end

