-- ==== Sys2Proof/Machine/Flash.lean ====
section
/-! DEFINITION. The flash commands (12_flash.md): FLASH_UNLOCK and FLASH_LOCK (R356 to R358), and the flash operations
as the die carries them out (R340, R343, R345). -/

namespace Sys2Proof.Machine

/-! ### The password (R342, R356, R358) -/

/-- The digest that a PASSWORD word holds: the first 128 bits of SHA-384(serial ∥ password). -/
def passDigest (serial : DWord) (lo hi : Word) : BitVec 128 :=
  digest128 (sha384 (leBytes 8 serial.toNat ++ leBytes 4 lo.toNat ++ leBytes 4 hi.toNat))

/-- A wrong password; the eighth in a row locks out. -/
def wrongPassword (p : Pend) (s : State) : State :=
  let n := s.fls.unlockFails + 1
  let s1 := post (ev 0x0208) (flsFault 6 0 0 { s with fls := { s.fls with unlockFails := n } })
  let s2 := if n = 8 then
      post (ev 0x0209) (flsFault 7 0 0
        { s1 with aon := { s1.aon with lockout := true }, fls := { s1.fls with sessions := 0 } })
    else s1
  endWith p stAuthFail s2

/-- The PASSWORD_LOCKED regions of a mask. -/
def lockedOf (s : State) (m : Word) : BitVec 16 :=
  BitVec.ofNat 16 (((List.finRange 16).map fun n =>
    if bitAt m n.val && s.fls.prot[n] == .passwordLocked then 2 ^ n.val else 0).sum)

def unlockRun (c : Cmd) (p : Pend) (s : State) : State :=
  if s.aon.lockout then endWith p stProtected s
  else
    match s.fls.password with
    | none => endWith p stRefused s
    | some d =>
      if passDigest s.serial c.a1 c.a2 = d then
        endWith p stDone { s with fls := { s.fls with
          sessions := s.fls.sessions ||| lockedOf s c.a0, unlockFails := 0 } }
      else wrongPassword p s

def execFlashUnlock (c : Cmd) (s : State) : Out := runCmd c 0x60 (bitsFrom c.a0 16) (unlockRun c) s

/-! ### FLASH_LOCK (R357) -/

def maskedAny (s : State) (m : Word) (f : Fin 16 → Bool) : Bool :=
  (List.finRange 16).any fun n => bitAt m n.val && f n

/-- A region is PASSWORD_LOCKED without an open session. -/
def shutOut (s : State) (n : Fin 16) : Bool := s.fls.prot[n] == .passwordLocked && !bitAt s.fls.sessions n.val

def hasPermanent (s : State) (m : Word) : Bool := maskedAny s m fun n => s.fls.prot[n] == .permanent

/-- A PERMANENT region of the mask turns the command away (R355, R357). -/
def permanentFault (c : Cmd) (s : State) : State :=
  match (List.finRange 16).find? fun n => bitAt c.a0 n.val && s.fls.prot[n] == .permanent with
  | some n => protectedFault n.val s
  | none => s

/-- The PROTECT words of the regions of a mask for which f holds. -/
def protOps (m : Word) (f : Prot → Bool) (st : Prot) (s : State) : List FlashOp :=
  ((List.finRange 16).filter fun n => bitAt m n.val && f s.fls.prot[n]).map fun n => .protect n st

/-- A change of protection is queued in class 2 (R345); one that changes nothing is done at once. -/
def changeProt (ops : List FlashOp) (p : Pend) (s : State) : State :=
  if ops.isEmpty then endWith p stDone s else queueTask ⟨2, ops, .protection, some p, 0⟩ (startPending p s)

/-- FLASH_LOCK carries five modes; the row of another mode is not meant by this word. -/
def lockMode (c : Cmd) : Nat := c.a1.toNat

def closeRun (c : Cmd) (p : Pend) (s : State) : State :=
  endWith p stDone { s with fls := { s.fls with sessions := s.fls.sessions &&& ~~~(c.a0.setWidth 16) } }

/-- CLOSE; a MODE above 4 is BAD_ARG. -/
def execFlashLockClose (c : Cmd) (s : State) : Out :=
  if 1 ≤ lockMode c ∧ lockMode c ≤ 4 then .next s
  else runCmd c 0x61 (bitsFrom c.a0 16 || decide (4 < lockMode c)) (closeRun c) s

def lockPwdRun (c : Cmd) (p : Pend) (s : State) : State :=
  if hasPermanent s c.a0 then endWith p stProtected (permanentFault c s)
  else if s.fls.password.isNone then endWith p stRefused s
  else changeProt (protOps c.a0 (· == .unlocked) .passwordLocked s) p s

def execFlashLockSetPasswordLocked (c : Cmd) (s : State) : Out :=
  if lockMode c = 1 then runCmd c 0x61 (bitsFrom c.a0 16) (lockPwdRun c) s else .next s

def lockPermRun (c : Cmd) (p : Pend) (s : State) : State :=
  if hasPermanent s c.a0 then endWith p stProtected (permanentFault c s)
  else if maskedAny s c.a0 (shutOut s) then endWith p stRefused s
  else changeProt (protOps c.a0 (fun _ => true) .permanent s) p s

def execFlashLockSetPermanent (c : Cmd) (s : State) : Out :=
  if lockMode c = 2 then runCmd c 0x61 (bitsFrom c.a0 16) (lockPermRun c) s else .next s

def unlockRegionsRun (c : Cmd) (p : Pend) (s : State) : State :=
  if hasPermanent s c.a0 then endWith p stProtected (permanentFault c s)
  else if maskedAny s c.a0 (shutOut s) then endWith p stRefused s
  else changeProt (protOps c.a0 (· == .passwordLocked) .unlocked s) p s

def execFlashLockSetUnlocked (c : Cmd) (s : State) : Out :=
  if lockMode c = 3 then runCmd c 0x61 (bitsFrom c.a0 16) (unlockRegionsRun c) s else .next s

def setPassRun (c : Cmd) (p : Pend) (s : State) : State :=
  if (List.finRange 16).any (shutOut s) then endWith p stRefused s
  else changeProt [.password (passDigest s.serial c.a2 c.a3)] p s

/-- ARG0 is ignored. -/
def execFlashLockSetPassword (c : Cmd) (s : State) : Out :=
  if lockMode c = 4 then runCmd c 0x61 false (setPassRun c) s else .next s

/-! ### The die (R340, R343, R345, R352) -/

/-- Removes one task from the queue. -/
def takeTask (t : FlashTask) : List FlashTask → List FlashTask
  | [] => []
  | u :: r => if u = t then r else u :: takeTask t r

/-- Exports and refreshes that have what they need join the queue. -/
def joinQueue (s : State) : State := nextRefresh (eachSlot startExport s)

/-- Firmware issues the next operation; a task without one ends here. -/
def issueFirst (s : State) : State :=
  match s.fls.issued, nextTask s.fls.tasks with
  | none, some t =>
    let s1 := { s with fls := { s.fls with tasks := takeTask t s.fls.tasks, issued := some t } }
    if t.ops.isEmpty then finishTask t s1 else beginOp s1
  | _, _ => s

def issueNext (s : State) : State := issueFirst (joinQueue s)

def execFlashQueueIssue (s : State) : Out :=
  if awake s && !s.pwr.coreDown then .next (issueNext s) else .next s

def programDone (ok marginOk : Bool) (s : State) : State :=
  match s.fls.issued with
  | some t =>
    match t.ops with
    | .program a d :: _ =>
      let s1 := countStall s
      if (tabFind a s1.fls.words).isSome then reprogram t a s1
      else if ok then programEnds t a d marginOk s1
      else retireFor .program (a / 2048) t s1
    | .erase _ :: _ => s
    | o :: _ => logEnds t o ok marginOk (countStall s)
    | [] => s
  | none => s

def execFlashProgramDone (ok marginOk : Bool) (s : State) : Out :=
  if awake s then .next (programDone ok marginOk s) else .next s

def eraseDone (ok marginOk : Bool) (s : State) : State :=
  match s.fls.issued with
  | some t =>
    match t.ops with
    | .erase b :: _ =>
      let s1 := countStall s
      if ok then eraseEnds t b marginOk s1 else retireFor .erase b t s1
    | _ => s
  | none => s

def execFlashEraseDone (ok marginOk : Bool) (s : State) : Out :=
  if awake s then .next (eraseDone ok marginOk s) else .next s

end Sys2Proof.Machine
end

