-- ==== Sys2Proof/Machine/Membership.lean ====
section
/-! DEFINITION. The workshop's messages and timers on VL0 (06_schedule_and_recovery.md, 09_zwirvo_links.md,
15_sensors_and_time.md): READY and COMMIT, HEARTBEAT to MESSAGE_FORWARD. -/

namespace Sys2Proof.Machine

/-! ### READY, COMMIT, STOP, ABORT, LAST_COMMITTED (R153 to R155, R194) -/

/-- The coordinator collects READY. -/
def takeReady (src job step : Nat) (s : State) : State :=
  if isCoord s && (jobRanks s job).contains src then tryCommit job step (noteReady job step src s) else s

def execReady (l : Fin 8) (h : MsgHdr) (job step : Nat) (s : State) : Out :=
  recv l h (.step job step) (takeReady h.src.toNat job step) s

def execCommit (l : Fin 8) (h : MsgHdr) (job step : Nat) (s : State) : Out :=
  recv l h (.step job step) (commitHere job step) s

/-- A STOP at the coordinator: the step aborts everywhere, unless it has been committed, which the sender is told. Of a job
that the coordinator does not run, it knows no step, and the ABORT names the sender's. -/
def takeStop (src : BitVec 16) (job step : Nat) (s : State) : State :=
  if !isCoord s then s
  else if !runsHere s job then lateRest (changeNow (abortAll job step s))
  else
    match slotOfIndex s job with
    | none => s
    | some j => match s.jobs[j] with
      | none => s
      | some x =>
        if step < x.step then send src 0x06 0 (.step job step) s
        else if x.step = step && (stepOpen x || x.saved.isSome) then lateRest (coveredFault j s)
        else s

def execStop (l : Fin 8) (h : MsgHdr) (job step : Nat) (s : State) : Out :=
  recv l h (.step job step) (takeStop h.src job step) s

def execAbort (l : Fin 8) (h : MsgHdr) (job step : Nat) (s : State) : Out :=
  recv l h (.step job step) (takeAbort job step) s

/-- Steps of a job that this module has carried out COMMIT for. -/
def stepsDone (s : State) (job : Nat) : Nat :=
  match (slotOfIndex s job).bind fun j => s.jobs[j] with
  | some x => x.step
  | none => 0

/-- A query is answered with the last step that this module has committed; the coordinator collects the answers (R155). -/
def takeLast (h : MsgHdr) (query : Bool) (job step : Nat) (committed : Bool) (s : State) : State :=
  if query then
    let n := stepsDone s job
    send h.src 0x0F 0 (.last false job (n - 1) (decide (0 < n))) s
  else if !isCoord s then s
  else
    let note := fun (q : Nat × List (Nat × Nat)) =>
      if q.1 = job then (q.1, (h.src.toNat, if committed then step + 1 else 0) :: q.2.filter (·.1 != h.src.toNat)) else q
    lateRest (changeSettled (settleAsked job { s with ws := { s.ws with asked := s.ws.asked.map note } }))

def execLastCommitted (l : Fin 8) (h : MsgHdr) (query : Bool) (job step : Nat) (committed : Bool) (s : State) : Out :=
  recv l h (.last query job step committed) (takeLast h query job step committed) s

/-! ### Heartbeats and timers (R258, R278) -/

/-- A HEARTBEAT or BEAT of a rank restarts its timer (R278): its QUIESCE is over. -/
def heard (src : BitVec 16) (s : State) : State :=
  { s with ws := { s.ws with
    quiet := s.ws.quiet.filter (· != src.toNat),
    heard := (src.toNat, s.aon.time) :: s.ws.heard.filter (·.1 != src.toNat) } }

def execHeartbeat (l : Fin 8) (h : MsgHdr) (s : State) : Out := recv l h .empty (heard h.src) s

def execBeat (l : Fin 8) (h : MsgHdr) (s : State) : Out := recv l h .empty (heard h.src) s

/-- The firmware runs, so messages can be sent (R195). -/
def fwRuns (s : State) : Bool := running s && !s.pwr.coreDown

def execHeartbeatDue (s : State) : Out := if fwRuns s then .next (sendCoord 0x01 0 .empty s) else .next s

def execBeatDue (s : State) : Out :=
  if fwRuns s && isCoord s then .next (sendAll 0x02 0 .empty s) else .next s

def isLiveRank (s : State) (r : Nat) : Bool :=
  isMember s && (s.ws.members.any fun m => m.rank == r) && !s.ws.departed.contains r && r != s.ws.rank

/-- The departure limit of a member in ns (R274, R278, R292): QUIESCE_LIMIT while every link to it carries QUIESCE flits,
100 ms for the 20 ms that a scheduled retrain of its links takes at most, and else DEPART_MS. -/
def departLimit (s : State) (rank : Nat) : Nat :=
  let ms := 1000000
  let dep := max 5 (bitsNat s.ws.cfgForce 7 0) * ms
  if s.ws.quiet.contains rank then max 1 (bitsNat s.ws.cfgForce 23 16) * (100 * ms)
  else if s.ws.retraining.any fun q => q.1 == rank && decide (s.aon.time.toNat ≤ q.2.toNat + 20 * ms) then max dep (100 * ms)
  else dep

/-- Nothing has been heard of a member for its departure limit. -/
def overdue (s : State) (rank : Nat) : Bool :=
  let t := match s.ws.heard.find? (·.1 == rank) with
    | some q => q.2.toNat
    | none => 0
  decide (t + departLimit s rank ≤ s.aon.time.toNat)

/-- Departures, and the boundaries that waited for a change. -/
def departedNow (rank : Nat) (s : State) : State := lateRest (departed [rank] s)

def execHeartbeatMissed (rank : Nat) (s : State) : Out :=
  if fwRuns s && isCoord s && isLiveRank s rank && overdue s rank then .next (departedNow rank s) else .next s

def execBeatMissed (s : State) : Out :=
  if fwRuns s && !isCoord s && isLiveRank s s.ws.coord && overdue s s.ws.coord then .next (departedNow s.ws.coord s)
  else .next s

def execQuiesceLimitExpiry (rank : Nat) (s : State) : Out :=
  if fwRuns s && isLiveRank s rank && s.ws.quiet.contains rank && overdue s rank then .next (departedNow rank s)
  else .next s

/-- An arrival is no longer prospective: the change starts again (R279, item 4). -/
def dropArrival (serial : DWord) (s : State) : State :=
  lateRest (changeNow { s with ws := { s.ws with arrivals := s.ws.arrivals.filter (·.serial != serial) } })

/-- No ACCEPT within 5 ms (R279, item 4): from a member, or, numbered from the member count on, from an arrival (log entry
66). -/
def execAcceptTimeout (rank : Nat) (s : State) : Out :=
  match s.ws.change with
  | some c =>
    if !(fwRuns s && isCoord s) then .next s
    else if s.ws.members.length ≤ rank then
      match (sortArrivals c.prop.arrivals)[rank - s.ws.members.length]? with
      | some a => if c.accepts.contains a.serial then .next s else .next (dropArrival a.serial s)
      | none => .next s
    else
      match s.ws.members.find? (·.rank == rank) with
      | some m => if isLiveRank s rank && !c.accepts.contains m.serial then .next (departedNow rank s) else .next s
      | none => .next s
  | none => .next s

/-! ### The view (R275) -/

/-- A rank of the present epoch. -/
def isRank (s : State) (r : Nat) : Bool := s.ws.members.any (·.rank == r)

/-- A link between members enters the view; the coordinator alone hears of others. -/
def execLinkUp (l : Fin 8) (h : MsgHdr) (x : Adj) (s : State) : Out :=
  recv l h (.adj x) (fun s1 => if isRank s1 x.rankA && isRank s1 x.rankB && x.rankA != x.rankB then addEdge x s1 else s1) s

/-- A link of the workshop is down: members may have become unreachable (R278). -/
def takeLinkDown (x : Adj) (s : State) : State :=
  let s1 := dropEdge x s
  if isMember s1 then lateRest (departed ((unreachable s1).filter fun r => !s1.ws.departed.contains r) s1) else s1

def execLinkDown (l : Fin 8) (h : MsgHdr) (x : Adj) (s : State) : Out := recv l h (.adj x) (takeLinkDown x) s

/-! ### Joining and forming (R277, R281, R282) -/

/-- A change that waits is made at once where no fabric step is open: the workshop is at a boundary (R279). -/
def changeAtBoundary (s : State) : State := lateRest (changeShut [] s)

/-- The low bits of a SERIAL, by which a refusal finds its module (log entry 71). -/
def serialArg (n : DWord) : BitVec 16 := n.setWidth 16

/-- A refusal on this module's own links to the module that asked. -/
def refuseHere (a : BitVec 16) (s : State) : State :=
  ((List.finRange 8).filter fun l => (s.links[l]).state == .up && !(s.links[l]).peerMember &&
    serialArg (s.links[l]).peerSerial == a).foldl (fun s' l => sendOn l 0xFFFF 0x0A a .empty s') s

/-- The answer to a JOIN that names another image: to the member that asked, or, by way of every member, to the module
outside (log entry 71). -/
def refuseJoin (h : MsgHdr) (r : JoinReq) (s : State) : State :=
  if h.src = 0xFFFF then refuseHere (serialArg r.serial) (sendAll 0x0A (serialArg r.serial) .empty s)
  else send h.src 0x0A 0 .empty s

def takeJoin (h : MsgHdr) (r : JoinReq) (s : State) : State :=
  if !isCoord s then s
  else if r.imageId != imageIdOf s then refuseJoin h r s
  else if bitAt h.arg 15 then
    let c : Change := ⟨h.src.toNat, bitsNat h.arg 3 0, true⟩
    changeAtBoundary (if s.ws.changes.contains c then s else noteChange c s)
  else if (s.ws.arrivals.any fun a => a.serial == r.serial) || (s.ws.members.any fun m => m.serial == r.serial) then s
  else
    changeAtBoundary { s with ws := { s.ws with
      arrivals := s.ws.arrivals ++ [⟨r.serial, r.claim, r.jobs⟩] } }

def execJoin (l : Fin 8) (h : MsgHdr) (r : JoinReq) (s : State) : Out := recv l h (.join r) (takeJoin h r) s

/-- A refusal: at the module that asked, or, at a member on its way, toward its neighbour that is no member. -/
def takeRefused (h : MsgHdr) (s : State) : State :=
  if h.dst = 0xFFFE then refuseHere h.arg s
  else { s with ws := { s.ws with joinRefused := true, joinSent := false, fault := orBit s.ws.fault 2 } }

def execJoinRefused (l : Fin 8) (h : MsgHdr) (s : State) : Out := recv l h .empty (takeRefused h) s

/-- Every JOIN that has neither been admitted nor refused is repeated: to a workshop, and for a fabric job (R277). -/
def execJoinRepeat (s : State) : Out :=
  if fwRuns s then .next (s.ws.joinJobs.foldl (fun s' i => askJoin i s') (sendJoin s)) else .next s

/-- This module as an arrival. -/
def selfArrival (s : State) : Arrival := ⟨s.serial, s.fls.claim.toNat, jobMask s⟩

/-- Lower claim first, then lower serial. -/
def claimBelow (a b : Arrival) : Bool :=
  decide (a.claim < b.claim) || (a.claim == b.claim && decide (a.serial.toNat < b.serial.toNat))

/-- The workshop of the modules that are named; this module, of rank 0, coordinates it. -/
def form (reach : List Arrival) (s : State) : State :=
  let ms := deriveMembers [] ⟨1, [], selfArrival s :: reach, [], []⟩
  let e : Enactment := ⟨1, s.serial, ms, []⟩
  match ms.find? (·.serial == s.serial) with
  | none => s
  | some me =>
    let s1 := adoptView e me s
    let ups := (List.finRange 8).filter fun l => (s1.links[l]).state == .up && (s1.links[l]).peerMember
    let s2 := ups.foldl (fun s' l => addEdge (edgeOf s' l) s') s1
    let e2 := { e with adjacency := s2.ws.adj }
    lateRest (adoptRest [] e2 (sendAll 0x0D 0 (.enact e2) s2))

def execFormWaitExpiry (reach : List Arrival) (s : State) : Out :=
  if fwRuns s && bootDone s && s.img.isSome && s.ws.state == .unjoined && (memberLinks s).isEmpty &&
      reach.all (claimBelow (selfArrival s)) then
    .next (form reach s)
  else .next s

/-! ### Epoch changes (R279) -/

/-- The ARG of an arrival's ACCEPT: its prospective rank, with bit 15 (log entry 66). -/
def arrivalArg (rank : Nat) : BitVec 16 := BitVec.ofNat 16 (0x8000 + rank % 1024)

/-- A member derives the view, answers with it, and passes the proposal on to arrivals on its own links; an arrival derives
it too, and answers by its neighbour. A change beyond the last epoch holds the fabric jobs (R283). -/
def takePropose (l : Fin 8) (p : Proposal) (s : State) : State :=
  if isMember s && !isCoord s && epochEnd s && p.epoch == s.ws.epoch then stopEnded (lastEpoch p s)
  else if isMember s && !isCoord s && decide (s.ws.epoch.toNat < p.epoch.toNat) then
    let v := deriveMembers s.ws.members p
    tellArrivals 0x0B (.propose p) v <|
      sendCoord 0x0C 0 (.accept p.epoch v) { s with ws := { s.ws with view := some (p.epoch, v) } }
  else if !isMember s && p.arrivals.any (·.serial == s.serial) then
    let v := deriveMembers p.old p
    match v.find? (·.serial == s.serial) with
    | some me => sendOn l 0xFFFF 0x0C (arrivalArg me.rank) (.accept p.epoch v) { s with ws := { s.ws with told := some p } }
    | none => s
  else s

def execPropose (l : Fin 8) (h : MsgHdr) (p : Proposal) (s : State) : Out := recv l h (.propose p) (takePropose l p) s

/-- A prospective member has answered with a view. -/
def noteAccept (c : Change_) (serial : DWord) (s : State) : State :=
  lateRest (tryEnact { s with ws := { s.ws with
    change := some { c with accepts := serial :: c.accepts.filter (· != serial) } } })

/-- The coordinator collects ACCEPT; a member with another view counts as departed. An arrival's ACCEPT comes by a member on
its way. -/
def takeAccept (h : MsgHdr) (epoch : Word) (view : List Member) (s : State) : State :=
  if !isCoord s then (if h.src = 0xFFFF && isMember s then sendCoord 0x0C h.arg (.accept epoch view) s else s)
  else
    match s.ws.change with
    | none => s
    | some c =>
      if epoch != c.prop.epoch then s
      else if bitAt h.arg 15 then
        match c.view.find? (·.rank == bitsNat h.arg 9 0) with
        | some m => if view = c.view then noteAccept c m.serial s else dropArrival m.serial s
        | none => s
      else if !isLiveRank s h.src.toNat then s
      else
        match s.ws.members.find? (·.rank == h.src.toNat) with
        | some m => if view = c.view then noteAccept c m.serial s else departedNow h.src.toNat s
        | none => s

def execAccept (l : Fin 8) (h : MsgHdr) (epoch : Word) (view : List Member) (s : State) : Out :=
  recv l h (.accept epoch view) (takeAccept h epoch view) s

/-- Epoch numbers that are enacted rise; an arrival takes any. -/
def takeEnact (e : Enactment) (s : State) : State :=
  if s.ws.state == .unjoined || (e.wsId == s.ws.id && decide (s.ws.epoch.toNat < e.epoch.toNat)) then
    lateRest (adopt e s)
  else s

/-- A module that is about to adopt an epoch passes ENACT on to those of its neighbours that the view admits (R277). -/
def passEnact (e : Enactment) (s : State) : State :=
  if isMember s || e.members.any (·.serial == s.serial) then tellArrivals 0x0D (.enact e) e.members s else s

def execEnact (l : Fin 8) (h : MsgHdr) (e : Enactment) (s : State) : Out :=
  recv l h (.enact e) (fun s1 => takeEnact e (passEnact e s1)) s

/-- LEAVE of a member, or of one of its fabric jobs (R282). -/
def takeLeave (h : MsgHdr) (s : State) : State :=
  if !isCoord s then s
  else if bitAt h.arg 15 then changeAtBoundary (noteChange ⟨h.src.toNat, bitsNat h.arg 3 0, false⟩ s)
  else if isLiveRank s h.src.toNat then
    changeAtBoundary { s with ws := { s.ws with departed := s.ws.departed ++ [h.src.toNat] } }
  else s

def execLeave (l : Fin 8) (h : MsgHdr) (s : State) : Out := recv l h .empty (takeLeave h) s

def execRetrainNote (l : Fin 8) (h : MsgHdr) (s : State) : Out :=
  recv l h .empty (fun s1 => if isCoord s1 then noteRetrain h.src.toNat s1 else s1) s

/-- DISSOLVE of this module's workshop (R281); at the coordinator, from the member that has met the other workshop. -/
def takeDissolve (wsId : DWord) (s : State) : State :=
  if !(isMember s && wsId == s.ws.id) || s.ws.dissolving then s
  else if isCoord s then dissolveAll s else dissolve s

def execDissolve (l : Fin 8) (h : MsgHdr) (wsId : DWord) (s : State) : Out :=
  recv l h (.dissolve wsId) (takeDissolve wsId) s

/-! ### Fabric time (R437) -/

/-- Half of the difference of the two delays, in ns. -/
def timeOffset (t1 t2 t3 t4 : DWord) : Int := ((t2 - t1).toInt - (t4 - t3).toInt) / 2

/-- A request carries t1 alone and is answered; an answer gives the offset (log entry 35). -/
def takeTime (l : Fin 8) (t1 t2 t3 t4 : DWord) (s : State) : State :=
  if t2 = 0 ∧ t3 = 0 ∧ t4 = 0 then sendOn l 0xFFFF 0x11 0 (.time t1 s.aon.time s.aon.time 0) s
  else tkFabric (timeOffset t1 t2 t3 t4) s

def execTime (l : Fin 8) (h : MsgHdr) (t1 t2 t3 t4 : DWord) (s : State) : Out :=
  recv l h (.time t1 t2 t3 t4) (takeTime l t1 t2 t3 t4) s

def execTimeExchangeDue (s : State) : Out :=
  if fwRuns s && isMember s && !isCoord s then
    match routeTo s s.ws.coord with
    | some l => .next (sendOn l 0xFFFF 0x11 0 (.time s.aon.time 0 0 0) s)
    | none => .next s
  else .next s

/-! ### Snapshots, replays and restores of the workshop (R183, R188, R190) -/

/-- A named boundary at a module of the job: its own request takes it, or it snapshots into its flash. -/
def snapAt (j : Fin 4) (n : Nat) (s : State) : State :=
  match s.jobs[j] with
  | none => s
  | some x =>
    let r : SnapReq := match x.snap with
      | some r => { r with at_ := some (r.at_.getD n) }
      | none => ⟨none, true, 0, none, none, false, 0, some n, 0, none⟩
    let s1 := setJob j (fun y => { y with snap := some r }) s
    if x.phase == .boundary && x.saved.isNone && !x.rerun then snapBoundary j s1 else s1

/-- A request at the coordinator names the next boundary of the job, or waits there for the job's next COMMIT where the
coordinator does not run it; the boundary named reaches every module of the job. -/
def takeSnapReq (job : Nat) (named : Option Nat) (s : State) : State :=
  match (slotOfIndex s job).bind fun j => (s.jobs[j]).map fun x => (j, x), named with
  | some y, some n => snapAt y.1 n s
  | none, some _ => s
  | y, none =>
    if !isCoord s then s
    else match y.filter fun _ => runsHere s job with
      | some z => snapAt z.1 (z.2.step + 1) (sendAll 0x10 0 (.jobAt job (z.2.step + 1)) s)
      | none => { s with ws := { s.ws with snapWait := s.ws.snapWait.filter (· != job) ++ [job] } }

/-- The payload of a request, or of the boundary that the coordinator names. -/
def namedPayload (job : Nat) (named : Option Nat) : Payload :=
  match named with
  | some n => .jobAt job n
  | none => .job job

def execSnapReq (l : Fin 8) (h : MsgHdr) (job : Nat) (named : Option Nat) (s : State) : Out :=
  recv l h (namedPayload job named) (takeSnapReq job named) s

/-- A named replay at a module of the job: the request that waits for its boundary takes it. -/
def nameReplay (which : Bool) (n : Nat) : List ReplayReq → List ReplayReq
  | [] => [⟨none, which, some n⟩]
  | q :: t => if q.at_.isNone && q.which == which then { q with at_ := some n } :: t else q :: nameReplay which n t

def replayAt (j : Fin 4) (which : Bool) (n : Nat) (s : State) : State :=
  match s.jobs[j] with
  | none => s
  | some x =>
    let s1 := setJob j (fun y => { y with replays := nameReplay which n y.replays }) s
    if x.phase == .boundary && x.saved.isNone && !x.rerun then beginReplay j s1 else s1

def takeReplayReq (h : MsgHdr) (job : Nat) (named : Option Nat) (s : State) : State :=
  let which := bitAt h.arg 2
  match (slotOfIndex s job).bind fun j => (s.jobs[j]).map fun x => (j, x), named with
  | some y, some n => replayAt y.1 which n s
  | none, some _ => s
  | y, none =>
    if !isCoord s then s
    else match y.filter fun _ => runsHere s job with
      | some z => replayAt z.1 which (z.2.step + 1) (sendAll 0x14 h.arg (.jobAt job (z.2.step + 1)) s)
      | none => { s with ws := { s.ws with replayWait := s.ws.replayWait ++ [(job, h.arg)] } }

def execReplayReq (l : Fin 8) (h : MsgHdr) (job : Nat) (named : Option Nat) (s : State) : Out :=
  recv l h (namedPayload job named) (takeReplayReq h job named) s

/-- A participant's outcome at the coordinator, or the combined one at a participant. -/
def takeReplayResult (h : MsgHdr) (job : Nat) (o : ReplayOutcome) (s : State) : State :=
  let s1 := if isCoord s then noteOutcome job h.src.toNat o s
    else match slotOfIndex s job with
      | some j => takeOutcome j o s
      | none => s
  match slotOfIndex s1 job with
  | some j => replayBoundary j s1
  | none => s1

def execReplayResult (l : Fin 8) (h : MsgHdr) (job : Nat) (o : ReplayOutcome) (s : State) : Out :=
  recv l h (.replay job o) (takeReplayResult h job o) s

/-- An offer at the coordinator, or its answer at a participant. -/
def takeRestore (h : MsgHdr) (job : Nat) (m : RestoreMsg) (s : State) : State :=
  match m with
  | .offer hs => if isCoord s then noteOffer job h.src.toNat hs s else s
  | .answer ok step parts holders =>
    match slotOfIndex s job with
    | some j => restoreAnswer j ok step parts holders s
    | none => s

def restorePayload (job : Nat) (m : RestoreMsg) : Payload :=
  match m with
  | .offer hs => .offer job hs
  | .answer ok step parts holders => .offerAnswer job ok step parts holders

def execRestoreOffer (l : Fin 8) (h : MsgHdr) (job : Nat) (m : RestoreMsg) (s : State) : Out :=
  recv l h (restorePayload job m) (takeRestore h job m) s

/-! ### Forwarding (R275) -/

/-- A message for another module; one for this module comes by the command of its own kind. -/
def execMessageForward (l : Fin 8) (h : MsgHdr) (p : Payload) (s : State) : Out := recv l h p id s

end Sys2Proof.Machine
end

