-- ==== Sys2Proof/Machine/SecOps.lean ====
section
/-! DEFINITION. Shared operations of the security unit (14_security.md): reports and held keys (R400 to R402), model
keys and their containers (R405 to R407), key store updates (R410), and the end of TENANT_END (R417). -/

namespace Sys2Proof.Machine

/-! ### Attestation (R399 to R402) -/

/-- Outputs that an ATTEST takes (R204): its ephemeral key, and the salt of a new bounce session. -/
def attestOutputs (session : Bool) : Nat := if session then 2 else 1

/-- The boot is incomplete, or there is no image. -/
def notRunning (s : State) : Bool := !bootDone s || s.glb.state == .noImage

/-- FLAGS of a report. -/
def reportFlags (s : State) : BitVec 16 :=
  BitVec.ofNat 16 ((if s.aon.debugSeen then 1 else 0) + (if s.mgmt.debugOpen then 2 else 0) +
    (if notRunning s then 4 else 0) + (if s.aon.historyLost then 8 else 0))

/-! ### Measurement registers (R395) -/

/-- The bytes of the image in a bank, less its signature. -/
def imageBytes (s : State) (x : Bank) : List Byte :=
  let n := (bankHeader s x).length
  (readWords s (bankWord x) ((n + 31) / 32)).take (n - 96)

/-- The bank that the ROM has verified. -/
def verifiedBank (s : State) : Option Bank :=
  match s.glb.bootBank with
  | some x => some x
  | none => s.glb.active

def mr2Of (s : State) : BitVec 384 :=
  match s.sec.mr2, verifiedBank s with
  | some _, some x => sha384 (imageBytes s x)
  | _, _ => 0

def mr3Step (d : BitVec 384) (r : DebugRec) : BitVec 384 :=
  sha384 (digestBytes d ++ leBytes 32 (Config.debugBytes r.kind r.mask r.serial r.time).toNat)

def mr4Of (s : State) : BitVec 384 :=
  match s.sec.mr4 with
  | some (ws, epoch, rank, ms) =>
    sha384 (leBytes 8 ws.toNat ++ leBytes 4 epoch.toNat ++
      Config.mr4Tail rank (ms.map fun m => (m.rank, m.serial, m.claim, m.jobs)))
  | none => 0

/-- MR0 to MR4. -/
def measured (s : State) : List (BitVec 384) :=
  [Config.romHash, Config.fwHash s.sec.fwSvn s.sec.fwVersion, mr2Of s, s.aon.mr3.foldl mr3Step 0, mr4Of s]

/-- SEC_KS_VERSION. -/
def ksVersionOf (s : State) : Word :=
  match ksInForce s.fls with
  | some v => v.version
  | none => 0

/-- The keys of the four latest reports are held. -/
def holdKey (h : Held) (hs : List Held) : List Held := (hs ++ [h]).drop (hs.length + 1 - 4)

/-- Bytes 0x000 to 0x1BF of a report (R400). -/
def reportBody (s : State) (r : Report) : List Byte :=
  leBytes 4 0x31545441 ++ leBytes 2 1 ++ leBytes 2 r.flags.toNat ++ leBytes 8 r.reportId.toNat ++ leBytes 8 s.serial.toNat ++
    leBytes 4 (glbId s.part).toNat ++ leBytes 4 (glbCaps s.part).toNat ++ leBytes 2 r.fwSvn.toNat ++
    leBytes 2 r.imgSvn.toNat ++ leBytes 4 r.ksVersion.toNat ++ leBytes 8 r.imageId.toNat ++ leBytes 8 r.time.toNat ++
    r.mrs.flatMap digestBytes ++ digestBytes r.challenge ++ beBytes 97 (Config.ecdhPub r.eph).toNat ++ List.replicate 7 0

/-- The 544 bytes of a report. -/
def reportBytes (s : State) (r : Report) : List Byte :=
  reportBody s r ++ beBytes 96 (Config.sign (sha384 (reportBody s r))).toNat

/-- A bounce session opens with a fresh salt and the keys that the report's ephemeral key and HOST_PUB give (R379,
R402). -/
def openSession (eph : BitVec 384) (peer : BitVec 776) (digest : BitVec 384) (s : State) : State :=
  let d := draw s
  let z := beBytes 48 (Config.ecdhX eph (beBytes 97 peer.toNat)).toNat
  let out := hkdf384 (digestBytes digest) z ([0x48, 0x42, 0x53, 0x31] ++ leBytes 8 s.serial.toNat) 64
  { d.2 with hif := { d.2.hif with session := some ⟨d.1.setWidth 32, none, 0, out.take 32, out.drop 32⟩ } }

/-- The report and the device certificate are written, the session opens, and ATTEST is answered. -/
def writeReport (p : Pend) (challenge : BitVec 384) (addr : DWord) (peer : Option (BitVec 776)) (s : State) : State :=
  let id := s.sec.reportNext + 1
  let d := draw s
  let eph : BitVec 384 := d.1.setWidth 384
  let r : Report := ⟨id, reportFlags s, s.sec.fwSvn, s.glb.svn, ksVersionOf s, s.glb.imageId, measured s, s.aon.time, challenge, eph, addr⟩
  let digest := sha384 (reportBody s r)
  let s1 := hostWrite (addr + 0x400) Config.deviceCert (hostWrite (addr + 0x100) (reportBytes s r) d.2)
  let s2 := { s1 with sec := { s1.sec with
    reportNext := id, held := holdKey ⟨id, eph, digest, s.aon.time⟩ s1.sec.held, report := some r } }
  let s3 := post (ev 0x0601) (bumpSec 0 1 (match peer with
    | some pub => openSession eph pub digest s2
    | none => s2))
  answer p stDone true 544 (BitVec.ofNat 32 Config.deviceCert.length) (id.setWidth 32) ((id >>> 32).setWidth 32) s3

/-- Conditioned output is at hand for a request of n outputs (R204). -/
def outputsReady (n : Nat) (s : State) : Bool := s.rng.state == .ok && s.rng.waiting.isEmpty && decide (n ≤ s.rng.ready)

def takeOutputs (n : Nat) (s : State) : State := { s with rng := { s.rng with ready := s.rng.ready - n } }

/-! ### Model keys (R405 to R407, R416) -/

def hasKey (k : Nat) (t : Tensor) : Bool :=
  t.role == .weightRO && (match t.keyId with
    | some i => i.toNat == k
    | none => false)

/-- The tensors that name key k, of the jobs that run or hold. -/
def keyTensors (s : State) (k : Nat) : List (Fin 4 × Tensor) :=
  (List.finRange 4).flatMap fun j => match s.jobs[j] with
    | some x => ((tensorsOf s x.index).filter (hasKey k)).map fun t => (j, t)
    | none => []

/-- The jobs that name key k. -/
def keyJobs (s : State) (k : Nat) : List (Fin 4) := (List.finRange 4).filter fun j => match s.jobs[j] with
  | some x => (keysNamed s x.index).any fun i => i.toNat == k
  | none => false

def eraseKey (k : Fin 4) (s : State) : State := { s with sec := { s.sec with keys := s.sec.keys.set k none } }

/-- A tensor of job slot j overwritten with zeros. -/
def zeroTensor (s : State) (t : Fin 4 × Tensor) : State :=
  match tensAt s t.1 t.2.id with
  | some r => { s with stk := { s.stk with bytes := clearRange s.stk.bytes (hKey r.handle.toNat 0) (tensorBytes t.2) } }
  | none => s

def zeroKeyTensors (k : Fin 4) (s : State) : State := (keyTensors s k.val).foldl zeroTensor s

/-- The load under way for a key. -/
def loadOf (s : State) (k : Fin 4) : Option Load :=
  match s.sec.keys[k] with
  | some m => m.load.filter (·.active)
  | none => none

/-- Bytes written so far, and bytes of the container read so far. -/
def loadedBytes (l : Load) : Nat := (l.written.map fun w => w.2.2).sum
def containerUsed (l : Load) : Nat := 48 * l.next.toNat + loadedBytes l

/-- A load has failed: the key and what it loaded are gone, and a deferred load's jobs stop. -/
def loadFail (k : Fin 4) (st : Byte) (l : Load) (s : State) : State :=
  let js := if l.pend.isNone then keyJobs s k.val else []
  let auth := st == stAuthFail
  let s1 := endOpt l.pend st (eraseKey k (zeroKeyTensors k s))
  let s2 := secFault 1 k.val st.toNat s1
  let s3 := if auth then bumpSec 2 1 { s2 with sec := { s2.sec with fault := orBit s2.sec.fault 0 } } else s2
  let s4 := post { ev 0x0603 with
    status := st, fault := !js.isEmpty, info := if js.isEmpty then 0 else s3.sec.faultInfo.setWidth 64 } s3
  js.foldl (fun s' j => quiesceCheck (stopJob j st stDone 0 0 s')) s4

/-- A chunk of a container (R406): its header fields, and its plaintext where the tag verifies under the model key. -/
structure Chunk where
  index : DWord
  tensor : BitVec 16
  flags : BitVec 16
  length : Nat
  offset : Nat
  reservedZero : Bool
  data : Option (List Byte)
  deriving DecidableEq, Repr

def readChunk (key bs : List Byte) : Chunk :=
  let n := leField bs 0xC 4
  { index := BitVec.ofNat 64 (leField bs 0 8), tensor := BitVec.ofNat 16 (leField bs 8 2),
    flags := BitVec.ofNat 16 (leField bs 0xA 2), length := n, offset := leField bs 0x10 8,
    reservedZero := leField bs 0x18 8 == 0,
    data := gcmOpen key (leBytes 4 0 ++ bs.take 8) (bs.take 32) ((bs.drop 32).take n) ((bs.drop (32 + n)).take 16) }

/-- The model key in slot k. -/
def modelKey (k : Fin 4) (s : State) : List Byte :=
  match s.sec.keys[k] with
  | some m => m.key
  | none => []

/-- The tensor that a chunk names. -/
def chunkTarget (k : Fin 4) (ch : Chunk) (s : State) : Option (Fin 4 × Tensor) :=
  (keyTensors s k.val).find? fun t => t.2.id == ch.tensor

/-- The chunk overlaps a byte already loaded. -/
def overlaps (ch : Chunk) (l : Load) : Bool :=
  l.written.any fun w => w.1 == ch.tensor && decide (w.2.1 < ch.offset + ch.length) && decide (ch.offset < w.2.1 + w.2.2)

/-- What refuses a chunk (R406). -/
def chunkRefusal (k : Fin 4) (ch : Chunk) (l : Load) (s : State) : Option Byte :=
  if l.len.toNat < containerUsed l + 48 + ch.length then some stVerify
  else if ch.data.isNone || ch.index != l.next then some stAuthFail
  else if ch.length % 64 ≠ 0 ∨ 1048576 < ch.length ∨ 2 ≤ ch.flags.toNat ∨ !ch.reservedZero then some stVerify
  else
    match chunkTarget k ch s with
    | none => some stVerify
    | some t => if tensorBytes t.2 < ch.offset + ch.length || overlaps ch l then some stVerify else none

/-- Every byte of every tensor that names the key has been written. -/
def loadFull (k : Fin 4) (l : Load) (s : State) : Bool :=
  (keyTensors s k.val).all fun t =>
    ((l.written.filter fun w => w.1 == t.2.id).map fun w => w.2.2).sum == tensorBytes t.2

/-- The load has ended with DONE. -/
def loadDone (k : Fin 4) (l : Load) (s : State) : State :=
  let n := loadedBytes l
  let s1 := setKey k (fun m => { m with loaded := true, load := some { l with pend := none, active := false } }) s
  match l.pend with
  | some p => answer p stDone true (BitVec.ofNat 32 n) (BitVec.ofNat 32 (n / 2 ^ 32)) 1 0 s1
  | none => s1

/-- An accepted chunk. -/
def chunkIn (k : Fin 4) (ch : Chunk) (l : Load) (s : State) : State :=
  match chunkTarget k ch s with
  | none => s
  | some t =>
    match (tensAt s t.1 ch.tensor).bind fun r => writeHandle r.handle.toNat ch.offset (ch.data.getD []) s with
    | none => loadFail k stExhausted l (exhausted t.1.val s)
    | some s1 =>
      let l1 := { l with next := l.next + 1, written := l.written ++ [(ch.tensor, ch.offset, ch.length)] }
      if !bitAt ch.flags 0 then setKey k (fun m => { m with load := some l1 }) s1
      else if loadFull k l1 s1 then loadDone k l1 s1
      else loadFail k stVerify l1 s1

/-! ### The key store (R410, R411) -/

/-- The signer of the image in force or of a VALID inactive bank is missing from new content. -/
def dropsSigner (u : KsContent) (s : State) : Bool :=
  let live := (s.img.map (·.signer)).toList ++
    ([Bank.a, Bank.b].filter fun x => bankSt s x == .valid).map fun x => (bankHeader s x).signer
  live.any fun g => g != 0 && !u.signers.contains g

/-- The sealed content of a slot: 1,008 bytes of content and VERSION under the storage key, and the tag, with nonce slot ∥
VERSION (R408; log entry 74). -/
def sealSlot (slot : Bool) (v : Word) (u : KsContent) : List Byte :=
  let key := leBytes 32 Config.storageKey.toNat
  let nonce := leBytes 8 (if slot then 1 else 0) ++ leBytes 4 v.toNat
  let plain := (Config.ksLayout u v).take 1008
  let text := gcmCrypt key nonce (plain ++ List.replicate (1008 - plain.length) 0)
  text ++ gcmTag key nonce [] text

/-- The slot that the next version goes to: the one not in force. -/
def ksTarget (s : State) : Bool :=
  match ksWord s.fls with
  | some w => !w.slot
  | none => false

/-- The slot not in force is erased and programmed; the commit word follows. -/
def writeKeyStore (v : Word) (u : KsContent) (p : Pend) (s : State) : State :=
  let slot := ksTarget s
  let bytes := sealSlot slot v u
  let d := digest128 (sha384 bytes)
  let ops := eraseOps (ksBase slot / 2048) 3 ++ writeOps (ksBase slot) 32 bytes ++ [.commit ⟨slot, v, d⟩]
  queueTask ⟨2, ops, .keyStore slot ⟨v, u, d⟩, some p, 0⟩ (startPending p s)

/-- Version v with content u is the one in force. -/
def ksSame (v : Word) (u : KsContent) (s : State) : Bool :=
  match ksInForce s.fls with
  | some k => k.version == v && k.content == u
  | none => false

/-- Steps 1 to 4 of R410. -/
def updateKeyStore (v : Word) (force : Bool) (u : KsContent) (authOk : Bool) (p : Pend) (s : State) : State :=
  if ksSame v u s then endWith p stDone s
  else if (match ksInForce s.fls with
      | some k => decide (v.toNat ≤ k.version.toNat)
      | none => false) then endWith p stRefused s
  else if !authOk then endWith p stAuthFail s
  else if regionShut 2 s then endWith p stProtected (protectedFault 2 s)
  else if dropsSigner u s && !force then endWith p stRefused s
  else writeKeyStore v u p s

/-! ### TENANT_END (R417) -/

/-- Step 2 for a job: a step under way is discarded, and the job stops. -/
def tenantStop (j : Fin 4) (s : State) : State :=
  let s1 := match s.jobs[j] with
    | some x => if x.train && stepOpen x then abortStep j s else s
    | none => s
  endExport j stAborted (stopJob j stAborted stDone 0 0 { s1 with ws := Ws.reset })

/-- Links start again at step 1; what waited for retrains and self-tests ends. -/
def tenantLinks (s : State) : State :=
  let s1 := match s.pwr.retrain with
    | some r => endWith r.pend stAborted s
    | none => s
  let s2 := match s1.pwr.selftest with
    | some r => endWith r.pend stAborted s1
    | none => s1
  { s2 with
    pwr := { s2.pwr with retrain := none, selftest := none, armed := 0 },
    links := vmapIdx (fun n _ => { Link.reset with state := if linkPresent s2.part n then .signalDetect else .disabled })
      s2.links }

/-- Steps 3 and 4: sessions close, and keys go. -/
def tenantClose (s : State) : State :=
  let s1 := abandonImage (closeDebug s)
  let s2 := endWaiting stAborted s1.rng.waiting (eachSlot (endLoads stAborted) s1)
  { s2 with
    hif := { s2.hif with session := none }, fls := { s2.fls with sessions := 0 },
    sec := { s2.sec with keys := vrep 4 none, held := [], mr4 := none },
    stk := { s2.stk with xts := none, salt := none, spillKey := none },
    rng := { s2.rng with waiting := [] },
    sns := vmap (fun p => { p with capturing := false }) s2.sns }

/-- A unit out of service stays so. -/
def scrubBench (b : Bench) : Bench :=
  if b.state == .outOfService then { Bench.reset with state := .outOfService } else Bench.reset
def scrubPlane (p : Plane) : Plane :=
  if p.state == .outOfService then { Plane.reset with state := .outOfService } else Plane.reset
def scrubLathe (ts : List (Option Word)) (l : Lathe) : Lathe :=
  setThresholds ts (if l.state == .outOfService then { Lathe.reset with state := .outOfService } else Lathe.reset)

def bodyFtz (s : State) : List (Option Word) :=
  match bodyOf s with
  | some b => b.ftz
  | none => []

/-- Step 5: stores, drawers, statistics, the event log and the registers outside GLB, PWR, AON, FLS, HIF and SEC. -/
def scrub (s : State) : State :=
  let s1 := flushEvents s
  { s1 with
    evt := Evt.reset,
    stk := { Stk.reset with spillCounter := s1.stk.spillCounter },
    bnc := vmap scrubBench s1.bnc, pln := vmap scrubPlane s1.pln, lth := vmap (scrubLathe (bodyFtz s1)) s1.lth,
    trn := TrnDev.reset, sq := SeqDev.reset, jobs := vrep 4 none, ws := Ws.reset, col := Col.reset,
    sns := startPorts s1.part (sensorsOf s1) (vmap (fun p => { Port.reset with clk := p.clk }) s1.sns),
    rng := { s1.rng with fault := 0, view := 0, ctrs := vrep 3 Ctr.zero },
    hif := { s1.hif with faultInfo := 0 }, fls := { s1.fls with faultInfo := 0 },
    sec := { s1.sec with fault := 0, faultInfo := 0, report := none } }

/-- The draws of step 6: drawer keys, salt and spill key (R204, R230). -/
def drawMemoryKeys (s : State) : State :=
  let a := draw s
  let b := draw a.2
  let c := draw b.2
  { c.2 with stk := { c.2.stk with xts := some a.1, salt := some (b.1.setWidth 64), spillKey := some (c.1.setWidth 256),
                                   patrol := true } }

/-- The results of other commands leave their slots. -/
def clearSlotsBut (p : Pend) (s : State) : State :=
  let own := fun (r : Result) => p.origin == .mailbox && r.seq == p.seq && r.op == p.op
  let s1 := { s with hif := { s.hif with slots := vmap (fun o => o.filter own) s.hif.slots, ring := [] } }
  (s.hif.ring.filter own).foldl (fun s' r => putResult r s') s1

/-- Steps 5 to 8 of TENANT_END. -/
def tenantFinish (p : Pend) (ms : Word) (s : State) : State :=
  let s1 := drawMemoryKeys (clearSlotsBut p (scrub s))
  let s2 := { s1 with
    aon := { s1.aon with debugSeen := false, historyLost := false, mr3 := [] },
    sec := { s1.sec with tending := false, tend := none, tendMs := ms } }
  let s3 := post (ev 0x0609) (answer p stDone true ms 0 0 0 (bumpSec 4 1 s2))
  unitWorkIfIdle (quiesceCheck (runLater s3))

end Sys2Proof.Machine
end

