-- ==== Sys2Proof/Machine/Mgmt.lean ====
section
/-! DEFINITION. The management port (R385 to R388): its sessions and its own operations: streams and the log, debug
sessions (R415, R416), updates of firmware, credentials and keys (R398, R410, R412), commissioning data, operator files,
and noise capture (R207). -/

namespace Sys2Proof.Machine

/-! ### Sessions (R385, R388, R412) -/

/-- The port runs. -/
def mgmtUp (s : State) : Bool := awake s && !s.pwr.coreDown && s.glb.phase != .noFirmware

/-- A TLS session is open. -/
def mgmtOpen (s : State) : Bool := s.mgmt.session.isSome || s.mgmt.selfSigned

/-- A handshake fails. -/
def handshakeFails (s : State) : State :=
  post (ev 0x0686) (bumpHif 3 1 { s with mgmt := { s.mgmt with fails := s.mgmt.fails + 1 } })

/-- A handshake: an operator's chain leads to the operator root; while there is none, one client with a certificate of
its own is accepted. -/
def handshake (who : Client) (s : State) : State :=
  match who, s.fls.operatorRoot with
  | .operator serial, some _ => { s with mgmt := { s.mgmt with session := some serial, fails := 0 } }
  | .selfSigned, none => { s with mgmt := { s.mgmt with selfSigned := true, fails := 0 } }
  | _, _ => handshakeFails s

/-- After eight failures in a row the port accepts one handshake a second. -/
def tooSoon (s : State) : Bool :=
  decide (8 ≤ s.mgmt.fails) && decide (s.aon.time.toNat < s.mgmt.lastTry.toNat + 1000000000)

/-- A second connection while a session is open is refused without a handshake. -/
def execMgmtSessionOpen (who : Client) (s : State) : Out :=
  if mgmtUp s && !mgmtOpen s && !tooSoon s then
    .next (handshake who { s with mgmt := { s.mgmt with lastTry := s.aon.time, lastUse := s.aon.time } })
  else .next s

/-- The session ends, and with it its debug session. -/
def endMgmt (s : State) : State :=
  let s1 := closeDebug s
  { s1 with mgmt := { s1.mgmt with session := none, selfSigned := false, stream := false } }

/-- No request for 300 s. -/
def mgmtIdle (s : State) : Bool := decide (s.mgmt.lastUse.toNat + 300000000000 ≤ s.aon.time.toNat)

def execMgmtSessionIdleTimeout (s : State) : Out :=
  if mgmtOpen s && mgmtIdle s then .next (endMgmt s) else .next s

def execMgmtSessionClose (s : State) : Out := if mgmtOpen s then .next (endMgmt s) else .next s

/-! ### Telemetry and the log (R387, R496) -/

def streamRun (p : Pend) (s : State) : State := endWith p stDone { s with mgmt := { s.mgmt with stream := true } }

def execTelemetryStream (c : Cmd) (s : State) : Out := runCmd c 0x80 false streamRun s

/-- A final response with a body (R386). -/
def respond (p : Pend) (body : List Byte) (s : State) : State :=
  { s with mgmt := { s.mgmt with out := s.mgmt.out ++ [.response ⟨p.seq, p.op, stDone, true, 0, 0, 0, 0, s.aon.time⟩ body] } }

/-- The bytes that go to the client (R386): a response is a 32-byte header and its body; pushed records have the layout in
which they are filed, and the noise source's samples are in order, eight to a byte (log entry 75). -/
def mgmtBytes (x : MgmtOut) : List Byte :=
  match x with
  | .response r body =>
    leBytes 1 r.op.toNat ++ leBytes 1 r.status.toNat ++ leBytes 2 r.seq.toNat ++ leBytes 4 body.length ++
      leBytes 4 r.p0.toNat ++ leBytes 4 r.p1.toNat ++ leBytes 4 r.p2.toNat ++ leBytes 4 r.p3.toNat ++ leBytes 8 0 ++ body
  | .pushEvt r => recBytes r
  | .pushTel r => telBytes r
  | .samples bits => leBytes 128 bits.toNat

/-- The records of the persistent log (R496). -/
def logReadRun (p : Pend) (s : State) : State := respond p (s.fls.plog.flatMap recBytes) s

def execLogRead (c : Cmd) (s : State) : Out := runCmd c 0x81 false logReadRun s

/-! ### Debug sessions (R415, R416) -/

/-- A debug record extends MR3 (R395). -/
def debugRecord (kind mask : Byte) (s : State) : State :=
  { s with aon := { s.aon with debugSeen := true,
                               mr3 := s.aon.mr3 ++ [⟨kind, mask, s.mgmt.session.getD 0, s.aon.time⟩] } }

/-- The keys whose release set DEBUG_REVOKE. -/
def revocable (s : State) : List (Fin 4) := (List.finRange 4).filter fun k => match s.sec.keys[k] with
  | some m => m.revoke
  | none => false

/-- A job that reads a revoked key's weights stops. -/
def revokeJob (s : State) (j : Fin 4) : State :=
  match s.jobs[j] with
  | some x => if stepOpen x || x.running.isSome then fatalFault j s else quiesceCheck (stopJob j stAborted stDone 0 0 s)
  | none => s

/-- Steps 1 and 2 of R416 for a key. -/
def revokeKey (s : State) (k : Fin 4) : State :=
  (keyJobs s k.val).foldl revokeJob (eraseKey k (zeroKeyTensors k (endLoads stAborted k s)))

/-- Steps 1 to 3 of R416. -/
def revokeKeys (s : State) : State :=
  match revocable s with
  | [] => s
  | k :: rest =>
    let stops := (k :: rest).any fun i => !(keyJobs s i.val).isEmpty
    let s1 := secFault 4 k.val 0 ((k :: rest).foldl revokeKey s)
    post { ev 0x0608 with fault := stops, info := if stops then s1.sec.faultInfo.setWidth 64 else 0 } s1

def debugOpenRun (c : Cmd) (p : Pend) (s : State) : State :=
  let mask : BitVec 3 := c.a0.setWidth 3
  let s1 := bumpSec 3 1 (debugRecord 1 (mask.setWidth 8) (revokeKeys s))
  endWith p stDone (post (ev 0x0606) { s1 with mgmt := { s1.mgmt with debugOpen := true, paths := mask } })

def execDebugOpen (c : Cmd) (s : State) : Out := runCmd c 0x82 (bitsFrom c.a0 3) (debugOpenRun c) s

def execDebugClose (c : Cmd) (s : State) : Out := runCmd c 0x83 false (fun p s1 => endWith p stDone (closeDebug s1)) s

/-! ### Updates of a region (R355, R398, R410, R412) -/

/-- A region's content replaced: turned away while it is locked or too small, else erased and programmed. -/
def replaceRegion (region : Nat) (data : List Byte) (d : FlashDone) (p : Pend) (s : State) : State :=
  let n := blocksFor data.length
  let b := regionBase region
  if regionShut region s then endWith p stProtected (protectedFault region s)
  else if regionBlocks region s < n then endWith p stBadArg s
  else queueTask ⟨3, eraseOps b n ++ writeOps (b * 2048) (wordsFor data.length) data, d, some p, 0⟩ (startPending p s)

/-- A firmware update has yet to complete. -/
def fwTask (s : State) : Bool := (s.fls.tasks ++ s.fls.issued.toList).any fun t => match t.done with
  | .firmware _ _ => true
  | _ => false

/-- The copy that is not running is written: header, code and signature. -/
def fwUpdateRun (f : FwCopy) (data : List Byte) (p : Pend) (s : State) : State :=
  if fwTask s then endWith p stBusy s
  else replaceRegion (if s.sec.fwCopy then 0 else 1) data (.firmware (!s.sec.fwCopy) f) p s

def execFwUpdate (c : Cmd) (f : FwCopy) (data : List Byte) (s : State) : Out :=
  runCmd c 0x84 false (fwUpdateRun f data) s

def execCredUpdate (c : Cmd) (root : DWord) (data : List Byte) (s : State) : Out :=
  runCmd c 0x85 false (replaceRegion 3 data (.cred root)) s

def execCertUpdate (c : Cmd) (serial : DWord) (data : List Byte) (s : State) : Out :=
  runCmd c 0x86 false (replaceRegion 5 data (.cert serial)) s

def execCommission (c : Cmd) (claim : BitVec 10) (ports : Word) (data : List Byte) (s : State) : Out :=
  runCmd c 0x87 false (replaceRegion 4 data (.comm claim ports)) s

/-- The session has authenticated the operator: no chain, no signature. -/
def keyProvisionRun (c : Cmd) (data : List Byte) (p : Pend) (s : State) : State :=
  if keyTask s then endWith p stBusy s else updateKeyStore c.a1 (bitAt c.a2 0) (Config.ksContent data) true p s

def execKeyProvision (c : Cmd) (data : List Byte) (s : State) : Out :=
  runCmd c 0x8A (bitsFrom c.a2 1) (keyProvisionRun c data) s

/-! ### Operator files (R341, R350) -/

/-- The byte at flash byte address a, as a read delivers it: an uncorrectable word is skipped. -/
def flashByte (s : State) (a : Nat) : List Byte :=
  match tabFind (a / 32) s.fls.words with
  | some (.good d) => [d.getD (a % 32) 0xFF]
  | some .bad => []
  | none => [0xFF]

/-- The uncorrectable words among n bytes from a on. -/
def badIn (s : State) (a n : Nat) : List Nat :=
  (s.fls.words.filter fun w => w.2 == .bad && decide (a < 32 * w.1 + 32) && decide (32 * w.1 < a + n)).map (·.1)

def userRead (base off len : Nat) (p : Pend) (s : State) : State :=
  let a := base * 65536 + off
  let bytes := (List.range len).flatMap fun i => flashByte s (a + i)
  let s1 := match badIn s a len with
    | [] => s
    | w :: r => uncorrRead (w / 2048) (r.length + 1) s
  respond p bytes s1

/-- The byte that the write leaves at flash byte address x. -/
def mergedByte (s : State) (a : Nat) (data : List Byte) (x : Nat) : Byte :=
  if a ≤ x ∧ x < a + data.length then data.getD (x - a) 0 else (flashByte s x).getD 0 0xFF

def mergedWord (s : State) (a : Nat) (data : List Byte) (w : Nat) : List Byte :=
  (List.range 32).map fun k => mergedByte s a data (32 * w + k)

/-- The operations on block b of a write of data at flash byte address a: where a word to be written is not erased, the
block is erased first, and its other words are programmed again. -/
def blockWrite (s : State) (a : Nat) (data : List Byte) (b : Nat) : List FlashOp :=
  let lo := a / 32
  let hi := (a + data.length + 31) / 32
  let inRange := fun (w : Nat) => decide (lo ≤ w) && decide (w < hi)
  let ws := (List.range 2048).map (b * 2048 + ·)
  let prog := fun (w : Nat) => FlashOp.program w (mergedWord s a data w)
  if ws.any fun w => inRange w && (tabFind w s.fls.words).isSome then
    .erase b :: (ws.filter fun w => inRange w || (match tabFind w s.fls.words with
      | some (.good _) => true
      | _ => false)).map prog
  else (ws.filter inRange).map prog

def userWriteOps (s : State) (base off : Nat) (data : List Byte) : List FlashOp :=
  let a := base * 65536 + off
  let b0 := a / 65536
  let b1 := (a + data.length + 65535) / 65536
  (List.range' b0 (b1 - b0)).flatMap (blockWrite s a data)

def userFileRun (region : Fin 4) (op : UserOp) (p : Pend) (s : State) : State :=
  let n := 12 + region.val
  let size := regionBlocks n s * 65536
  match op with
  | .read off len => if size < off + len then endWith p stBadArg s else userRead (regionBase n) off len p s
  | .write off data =>
    if regionShut n s then endWith p stProtected (protectedFault n s)
    else if size < off + data.length then endWith p stBadArg s
    else queueTask ⟨3, userWriteOps s (regionBase n) off data, .user, some p, 0⟩ (startPending p s)

def execUserFile (c : Cmd) (region : Fin 4) (op : UserOp) (s : State) : Out :=
  runCmd c 0x88 false (userFileRun region op) s

/-! ### Noise capture (R207) -/

/-- A source that has failed stays so (R203). -/
def captureRun (p : Pend) (s : State) : State :=
  if s.rng.state == .failed then endWith p stRefused s
  else endWith p stDone (debugRecord 3 0 { s with rng := { s.rng with state := .capture } })

def execRngCapture (c : Cmd) (s : State) : Out := runCmd c 0x89 false captureRun s

end Sys2Proof.Machine
end

