-- ==== Sys2Proof/Machine/Plane.lean ====
section
/-! DEFINITION. The plane and lathe commands (04_planes_and_lathes.md, 07_random_numbers.md): PLANE_ARITH to
LATHE_GRANT, MASK, RAW_WORD, UNIFORM, PLANE_WAIT to NORM_COMBINE, PLN_CFG_WRITE and the ends of self-tests. -/

namespace Sys2Proof.Machine

/-! ### Arithmetic, compares, converts, scalars (R99 to R101) -/

def execPlaneArith (p : Fin 16) (i : PArith) (s : State) : Out :=
  planeInstr p (.arith i) (setPln p fun x =>
    mapElems i.fmt i.dst (activeElems x i.fmt i.mask)
      (fun e => arithCode i.fmt i.op (elemCode x i.fmt i.a e) (elemCode x i.fmt i.b e) (elemCode x i.fmt i.c e)) x) s

/-- The effect of a compare, select or mask-logic instruction on a plane. -/
def cmpPlane (i : PCmp) (x : Plane) : Plane :=
  match i with
  | .cmp f q dst a b m =>
    (activeElems x f m).foldl (fun y e => setMaskBit dst e (cmpVal q (elemVal_ x f a e) (elemVal_ x f b e)) y) x
  | .sel f k dst a b m =>
    mapElems f dst (activeElems x f m)
      (fun e => if bitAt (x.k[k.toNat]) e then elemCode x f a e else elemCode x f b e) x
  | .logic op dst a b => { x with k := x.k.set dst.toNat (logic128 op (x.k[a.toNat]) (x.k[b.toNat])) }

def execPlaneCmpSelect (p : Fin 16) (i : PCmp) (s : State) : Out :=
  planeInstr p (.cmp i) (setPln p (cmpPlane i)) s

/-- The effect of a convert instruction (R41, R101; the place of packed operands: log entry 28). -/
def convPlane (i : PConv) (x : Plane) : Plane :=
  match i with
  | .widenJ8 f dst a half m =>
    let off := match f with
      | .b32 => if half then 64 else 0
      | .b16 => 0
    mapElems f dst (activeElems x f m)
      (fun e => rnd (vfmt f) (decodeF fJ8 (elemCode x .b16 a (off + e) % 256))) x
  | .widenB16 dst a half m =>
    mapElems .b32 dst (activeElems x .b32 m)
      (fun e => rnd fB32 (elemVal_ x .b16 a ((if half then 64 else 0) + e))) x
  | .narrow dst a half m =>
    let off := if half then 64 else 0
    mapElems .b16 dst ((activeElems x .b16 m).filter fun e => decide (off ≤ e) && decide (e < off + 64))
      (fun e => rnd fB16 (elemVal_ x .b32 a (e - off))) x

def execPlaneConvert (p : Fin 16) (i : PConv) (s : State) : Out :=
  planeInstr p (.conv i) (setPln p (convPlane i)) s

/-- The effect of a scalar instruction on the registers. -/
def scalarPlane (i : PScalar) (x : Plane) : Plane :=
  match i with
  | .add d a b => setScalar d (scalarOf x a + scalarOf x b) x
  | .shl d a b => setScalar d (shiftWord true (scalarOf x a) (scalarOf x b)) x
  | .shr d a b => setScalar d (shiftWord false (scalarOf x a) (scalarOf x b)) x
  | .cmp q d a b => setScalar d (if cmpInt q (scalarOf x a) (scalarOf x b) then 1 else 0) x
  | .loop c _ => setScalar c (scalarOf x c - 1) x
  | .branch _ _ => x

/-- Where the program goes on: a loop while its count is not yet 0, a branch while its register is not 0. -/
def scalarNext (i : PScalar) (x : Plane) : Nat :=
  match i with
  | .loop c t => if scalarOf x c - 1 = 0 then x.pc + 1 else t
  | .branch c t => if scalarOf x c = 0 then x.pc + 1 else t
  | _ => x.pc + 1

def execPlaneScalar (p : Fin 16) (i : PScalar) (s : State) : Out :=
  if issues p (.scalar i) s then .next (issuedScalar p (scalarNext i s.pln[p]) (setPln p (scalarPlane i) s)) else .next s

/-! ### Loads and stores (R102 to R104) -/

/-- The active elements with the logical index of each. -/
def lineElems (x : Plane) (f : VFmt) (m : Option (BitVec 3)) (r : TensorRef) : List (Nat × Nat) :=
  (activeElems x f m).map fun e => (e, lineIdx r e)

def idxElems (x : Plane) (i : PIndexed) : List (Nat × Nat) :=
  (activeElems x i.fmt i.mask).map fun e => (e, indexOf x i.fmt i.idx e)

def execPlaneLoad (p : Fin 16) (i : PMem) (ecc : Ecc) (s : State) : Out :=
  let es := lineElems s.pln[p] i.fmt i.mask i.ref
  checkedRead p (.load i) i.ref (es.map (·.2)) ecc (loadElems p i.fmt i.reg i.ref es) s

/-- The values of the lanes with the logical indices they go to. -/
def laneAccs (x : Plane) (f : VFmt) (reg : BitVec 8) (es : List (Nat × Nat)) : List (Nat × Acc) :=
  es.map fun e => (e.2, accOf (elemVal_ x f reg e.1))

def execPlaneStore (p : Fin 16) (i : PMem) (s : State) : Out :=
  let es := lineElems s.pln[p] i.fmt i.mask i.ref
  if storeHeld p i.ref s then .next s else
  checked p (.store i) i.ref (es.map (·.2)) (storeElems p i.ref (laneAccs s.pln[p] i.fmt i.reg es)) s

def execPlaneGather (p : Fin 16) (i : PIndexed) (ecc : Ecc) (s : State) : Out :=
  let es := idxElems s.pln[p] i
  checkedRead p (.gather i) i.ref (es.map (·.2)) ecc (loadElems p i.fmt i.reg i.ref es) s

def execPlaneScatter (p : Fin 16) (i : PIndexed) (s : State) : Out :=
  let es := idxElems s.pln[p] i
  if storeHeld p i.ref s then .next s else
  checked p (.scatter i) i.ref (es.map (·.2)) (storeElems p i.ref (laneAccs s.pln[p] i.fmt i.reg (lastWins es))) s

def execScatterAdd (p : Fin 16) (i : PIndexed) (ecc : Ecc) (s : State) : Out :=
  let es := idxElems s.pln[p] i
  if storeHeld p i.ref s then .next s else
  checkedRead p (.scatterAdd i) i.ref (es.map (·.2)) ecc (scatterAddElems p i.fmt i.reg i.ref es (namedOnce es)) s

/-! ### Accumulators (R105) -/

def execPlaneReduce (p : Fin 16) (i : PReduce) (s : State) : Out :=
  planeInstr p (.reduce i) (setPln p (reducePlane i)) s

/-- An accumulator read into a register: in binary16 the result lies in bits 15:0 of its lane (log entry 28). -/
def accToReg (f : VFmt) (a : BitVec 3) (dst : BitVec 8) (x : Plane) : Plane :=
  (List.range 64).foldl (fun y l =>
    setElem f dst (match f with
      | .b32 => l
      | .b16 => 2 * l) (rnd (vfmt f) (accVal (accGet x a l))) y) x

def execAccRead (p : Fin 16) (i : PAccRead) (s : State) : Out :=
  match i with
  | .toReg f a dst => planeInstr p (.accRead i) (setPln p (accToReg f a dst)) s
  | .toTensor a r n =>
    let ls := List.range (min n 64)
    if storeHeld p r s then .next s else
    checked p (.accRead i) r (ls.map (lineIdx r)) (storeElems p r (ls.map fun l => (lineIdx r l, accGet s.pln[p] a l))) s

/-! ### Lathes (R108 to R114) -/

def laneInGroup (p : Fin 16) : Fin 4 := ⟨p.val % 4, Nat.mod_lt _ (by decide)⟩

/-- The operands of a request: each active element with its argument and its u. -/
def latheOperands (x : Plane) (i : PLathe) : List (Nat × Word × Word) :=
  (activeElems x i.fmt i.mask).map fun e =>
    (e, BitVec.ofNat 32 (elemCode x i.fmt i.a e), BitVec.ofNat 32 (elemCode x i.fmt i.u e))

def execLatheRequest (p : Fin 16) (i : PLathe) (s : State) : Out :=
  if issues p (.lathe i) s then
    let ops := latheOperands s.pln[p] i
    if ops.isEmpty then .next (issued p (s.pln[p].pc + 1) s)
    else
      let q : LatheReq := ⟨i.fn, i.fmt, i.dst, ops⟩
      .next (setPln p (fun x => { x with state := .waiting, waitKind := 2 })
        (setLth (groupOf p) (fun l => { l with req := upd l.req (laneInGroup p) (fun _ => some q), state := .running }) s))
  else .next s

/-- The planes with a request waiting, from the round-robin pointer on. -/
def latheOrder (l : Lathe) : List (Fin 4) :=
  let all := [l.next, l.next + 1, l.next + 2, l.next + 3]
  all.filter fun k => l.req[k].isSome

/-- Result groups of each waiting plane in a cycle (R109). -/
def latheShare (l : Lathe) (k : Fin 4) : Nat :=
  let ord := latheOrder l
  let q := ord.length
  if q = 0 then 0 else 4 / q + (if (ord.take (4 % q)).contains k then 1 else 0)

/-- The round-robin pointer after a cycle. -/
def latheNext (l : Lathe) : Fin 4 :=
  let ord := latheOrder l
  match (ord.take (4 % max 1 ord.length)).getLast? with
  | some k => k + 1
  | none => l.next

/-- The results of n operands written into the plane's destination register, with the lathe's counts. -/
def deliver (n : Fin 4) (p : Fin 16) (r : LatheReq) : List (Nat × Word × Word) → State → State
  | [], s => s
  | (e, x, u) :: t, s =>
    let l := s.lth[n]
    let v := latheArg r.fmt x
    let w := latheFmt l r.fn r.fmt x u
    let s1 := bumpLth n 1 (if flushes l r.fn v then 1 else 0) s
    let s2 := bumpLth n 2 (if outOfRange r.fn v then 1 else 0) s1
    deliver n p r t (setPln p (setElem r.fmt r.dst e w.toNat) (bumpLth n 0 1 s2))

def planeOf (n k : Fin 4) : Fin 16 := ⟨4 * n.val + k.val, by omega⟩

/-- The grant of plane k in a cycle; a request whose last result has been delivered ends the wait. -/
def grantOne (n k : Fin 4) (share : Nat) (s : State) : State :=
  match s.lth[n].req[k] with
  | none => s
  | some r =>
    let p := planeOf n k
    let take := r.left.take (4 * share)
    let rest := r.left.drop (4 * share)
    let s1 := deliver n p r take s
    if rest.isEmpty then
      let c := someCycles s1
      let s2 := setLth n (fun l => { l with req := upd l.req k (fun _ => none) }) (bumpPln p 3 c.1 c.2)
      issued p (s2.pln[p].pc + 1) (setPln p (fun x => { x with state := .running, waitKind := 0 }) s2)
    else setLth n (fun l => { l with req := upd l.req k (fun _ => some { r with left := rest }) }) s1

def execLatheGrant (n : Fin 4) (s : State) : Out :=
  let l := s.lth[n]
  if coreOn s && l.state == .running then
    let s1 := bumpLth n 3 (if 1 < (latheOrder l).length then 1 else 0) s
    let s2 := setLth n (fun x => { x with next := latheNext l }) s1
    let s3 := eachSlot (fun k => grantOne n k (latheShare l k)) s2
    .next (setLth n (fun x => { x with state := if x.req.toList.all Option.isNone then .idle else x.state }) s3)
  else .next s

/-! ### Random draws (R209 to R214) -/

/-- The key and the step number of the plane's job. -/
def drawKey (p : Fin 16) (s : State) : BitVec 128 × Nat :=
  match s.jobs[s.pln[p].job] with
  | some x => (x.kg, drawStep (drawsAs p s x))
  | none => (0, 0)

def execMask (p : Fin 16) (i : PMask) (s : State) : Out :=
  let k := drawKey p s
  planeInstr p (.mask i) (setPln p fun x => (List.range 128).foldl
    (fun y e => setMaskBit i.dst e (decide ((draw16 k.1 i.tensor k.2 i.purpose (i.origin + e)).toNat < i.p.toNat)) y) x) s

def execRawWord (p : Fin 16) (i : PDraw) (s : State) : Out :=
  let k := drawKey p s
  planeInstr p (.rawWord i) (setPln p fun x => mapElems .b32 i.dst (activeElems x .b32 i.mask)
    (fun e => (draw32 k.1 i.tensor k.2 i.purpose (i.origin + e)).toNat) x) s

def execUniform (p : Fin 16) (i : PDraw) (s : State) : Out :=
  let k := drawKey p s
  planeInstr p (.uniform i) (setPln p fun x => mapElems .b32 i.dst (activeElems x .b32 i.mask)
    (fun e => (uniform32 (draw32 k.1 i.tensor k.2 i.purpose (i.origin + e))).toNat) x) s

/-! ### Slot tokens (R106) -/

def execPlaneWait (p : Fin 16) (slot : BitVec 8) (s : State) : Out :=
  let x := s.pln[p]
  let held := x.state == .waiting && x.waitKind == 1 && x.waitSlot == slot
  if coreOn s && opAt p s == some (.wait slot) && (x.state == .running || held) then
    if slotFull (homeOf p s) slot.toNat s then
      let c := if held then someCycles s else (0, s)
      .next (issuedScalar p (x.pc + 1) (setPln p (fun y => { y with state := .running, waitKind := 0, waitSlot := 0xFF })
        (bumpPln p 4 c.1 c.2)))
    else .next (setPln p (fun y => { y with state := .waiting, waitKind := 1, waitSlot := slot }) s)
  else .next s

def execPlaneSignal (p : Fin 16) (i : PSlot) (s : State) : Out :=
  if issues p (.signal i) s then .next (issuedScalar p (s.pln[p].pc + 1) (markSlot (homeOf p s) i.slot.toNat i.full s))
  else .next s

def execPlnWaitTimeout (p : Fin 16) (s : State) : Out :=
  let x := s.pln[p]
  if x.state == .waiting && x.waitKind == 1 then
    .next (planeFault p 0 x.waitSlot.toNat 0 0x0901 none (planeWaitEnds p s))
  else .next s

/-! ### Softmax and normalisation (R117 to R122) -/

/-- A row's elements with their mask. -/
def rowOf (p : Fin 16) (i : PSoftmax) (s : State) : List (Val × Bool) :=
  i.live.zipIdx.map fun x =>
    (decodeF (vfmt i.fmt) (loadCode i.fmt (storedVal (homeOf p s) i.src (lineIdx i.src x.2) s)), x.1)

def rowStatus (p : Fin 16) (i : PSoftmax) (b : Byte) (s : State) : State :=
  match i.status with
  | some r => writeStore (homeOf p s) r.stock (elemAddr s r r.origin) [b] s
  | none => s

def softmaxRow (p : Fin 16) (i : PSoftmax) (s : State) : State :=
  let n := groupOf p
  let xs := rowOf p i s
  let r := smxPass1 n (xs.length / 64 + 1) xs SmxRow.start s
  let y := smxPass2 n r.1 xs r.2
  let outs := y.1.zipIdx.map fun v => (lineIdx i.out v.2, accOf v.1)
  let s1 := storeElems p i.out outs y.2
  let k := smxKind r.1
  let s2 := match k.2 with
    | some c => bumpPln p c 1 s1
    | none => s1
  rowStatus p i k.1 (bumpPln p 5 1 s2)

/-- The tensors of a row with the indices it takes in each: the source's only where unmasked (R99). -/
def rowBounds (i : PSoftmax) (s : State) : Option (TensorRef × Nat) :=
  let src := (i.live.zipIdx.filter (·.1)).map fun x => lineIdx i.src x.2
  let out := (List.range i.live.length).map (lineIdx i.out)
  match firstOut s i.src src with
  | some k => some (i.src, k)
  | none =>
    match firstOut s i.out out with
    | some k => some (i.out, k)
    | none =>
      match i.status with
      | some r => (firstOut s r [r.origin]).map fun k => (r, k)
      | none => none

def execSoftmax (p : Fin 16) (i : PSoftmax) (ecc : Ecc) (s : State) : Out :=
  if issues p (.softmax i) s && !storeHeld p i.out s then
    match rowBounds i s with
    | some (r, k) => .next (planeBounds p r k s)
    | none =>
      let y := storeEcc s.pln[p].job ecc (portCycles p s)
      if y.1 then .next (issued p (s.pln[p].pc + 1) (softmaxRow p i y.2)) else .next y.2
  else .next s

def execNormStats (p : Fin 16) (i : PStats) (ecc : Ecc) (s : State) : Out :=
  let is := (List.range i.n).map (lineIdx i.src)
  checkedRead p (.normStats i) i.src is ecc (fun s1 =>
    let st := normStatsOf (is.map fun k => storedVal (homeOf p s1) i.src k s1)
    setPln p (setNorm st) (bumpPln p 9 (if vIsNan st.mean then 1 else 0) s1)) s

/-- The combined totals: kept, noted as a feature's, or handed to the NORM collective with those of the features before
(R307). -/
def normTotals (p : Fin 16) (st : NormStat) (i : PNorm) (s : State) : State :=
  let s1 := setPln p (setNorm st) s
  match i with
  | .keep => s1
  | .feature => setPln p (fun x => { x with feats := x.feats ++ [st] }) s1
  | .exchange r => normEnter p r (s1.pln[p].feats ++ [st]) (setPln p (fun x => { x with feats := [] }) s1)

/-- Plane p combines the statistics that planes a and b hold, a before b in logical order (R122). -/
def execNormCombine (p a b : Fin 16) (i : PNorm) (s : State) : Out :=
  planeInstr p (.normCombine i) (normTotals p (normCombine2 s.pln[a].norm s.pln[b].norm) i) s

/-! ### Configuration and self-test (R93, R107, R116, R126) -/

def execPlnCfgWrite (p : Fin 16) (v : Word) (s : State) : Out :=
  if !running s then .next s
  else if anyJob s then
    .next (post { ev 0x0902 with inst := BitVec.ofNat 8 p.val } (setPln p (fun x => { x with fault := orBit x.fault 2 }) s))
  else .next (setPln p (fun x => { x with cfg := v &&& 0x1F00 }) s)

/-- The failed planes of a self-test under way. -/
def noteFailed (f : SelftestReq → SelftestReq) (s : State) : State :=
  { s with pwr := { s.pwr with selftest := s.pwr.selftest.map f } }

def failPlane (p : Fin 16) (s : State) : State :=
  setPln p (fun x => { x with state := .outOfService }) s

def execPlaneSelftestDone (p : Fin 16) (ok : Bool) (s : State) : Out :=
  if s.pln[p].state == .selftest then
    if ok then .next (nextTest (setPln p (fun x => { x with state := .stopped }) s))
    else
      let s1 := failPlane p (setPln p (fun x => { x with fault := orBit x.fault 1 }) s)
      let s2 := noteFailed (fun r => { r with failP := r.failP ||| BitVec.ofNat 16 (2 ^ p.val) }) s1
      .next (nextTest (post { ev 0x0904 with inst := BitVec.ofNat 8 p.val } s2))
  else .next s

def execLatheSelftestDone (l : Fin 4) (ok : Bool) (s : State) : Out :=
  if s.lth[l].state == .selftest then
    if ok then .next (nextTest (setLth l (fun x => { x with state := .idle }) s))
    else
      let s1 := setLth l (fun x => { x with state := .outOfService, fault := orBit x.fault 0 }) s
      let s2 := eachSlot (fun k => failPlane (planeOf l k)) s1
      let s3 := noteFailed (fun r => { r with failL := r.failL ||| BitVec.ofNat 4 (2 ^ l.val) }) s2
      .next (nextTest (post { ev 0x0911 with inst := BitVec.ofNat 8 l.val } s3))
  else .next s

end Sys2Proof.Machine
end

