-- ==== Sys2Proof/Machine/Random.lean ====
section
/-! DEFINITION. The noise source (R201 to R206): windows that pass, health test failures, and the service of requests for
conditioned output. -/

namespace Sys2Proof.Machine

/-! ### Windows (R201, R202) -/

/-- Four windows in a row pass the start-up test. -/
def startupWindow (s : State) : State :=
  if 3 ≤ s.rng.windows then
    { s with rng := { s.rng with state := .ok, consec := 0, everOk := true, windows := 0 } }
  else { s with rng := { s.rng with windows := s.rng.windows + 1 } }

/-- In CAPTURE, the 1,024 raw samples of a window are offered over the management port (R207). -/
def offerSamples (s : State) : State :=
  let a := draw s
  let b := draw a.2
  { b.2 with mgmt := { b.2.mgmt with out := b.2.mgmt.out ++ [.samples (a.1 ++ b.1)] } }

/-- The conditioner keeps up to 16 outputs ready. -/
def windowPassed (s : State) : State :=
  match s.rng.state with
  | .startup => startupWindow s
  | .recovering => startupWindow s
  | .ok => if s.rng.ready < 16 then bumpRng 2 1 { s with rng := { s.rng with ready := s.rng.ready + 1 } } else s
  | .failed => s
  | .capture => offerSamples s

def execRngWindowDone (s : State) : Out := if awake s then .next (windowPassed s) else .next s

/-! ### Failures (R203, R205, R206) -/

/-- An export that outlived its job and still waits for its salt ends. -/
def saltlessExport (j : Fin 4) (s : State) : State :=
  if (s.sq.exports[j]).any (·.salt.isNone) then endExport j stAborted s else s

/-- A request that fails with the source (R206; a TENANT_END: log entry 55). -/
def requestFails (s : State) (r : RngReq) : State :=
  match r.owner with
  | .attest p _ _ _ => endWith p stRefused s
  | .tenant => tenantFails s
  | .snapSalt j =>
    match (s.jobs[slotFin j]).bind (·.snap) with
    | some q =>
      if q.salt.isNone && q.staged.isSome then endOpt q.pend stAborted (dropSnap (slotFin j) q s)
      else saltlessExport (slotFin j) s
    | none => saltlessExport (slotFin j) s
  | .seed j =>
    match s.jobs[slotFin j] with
    | some x => if x.drawn && x.seed.isNone then quiesceCheck (stopJob (slotFin j) stRefused stDone 0 0 s) else s
    | none => s
  | _ => s

/-- A boot whose source has never passed its start-up test stops before DRAM training; its rails are up, and power commands
are carried out from RUN (R205; log entry 72). -/
def stopBoot (s : State) : State :=
  if !s.rng.everOk && !bootDone s then powerUpEnd { s with glb := { s.glb with phase := .rngFailed } } else s

/-- The source enters FAILED: every waiting request fails. -/
def sourceFails (s : State) : State :=
  let todo := s.rng.waiting
  let s1 := { s with rng := { s.rng with
    state := .failed, consec := 3, windows := 0, waiting := [], ready := 0, fault := orBit s.rng.fault 2 } }
  todo.foldl requestFails (stopBoot (post (ev 0x0662) s1))

/-- A failure of a health test: the window is discarded, and the start-up test runs again; the third in a row ends it. -/
def healthFail (bit : Nat) (ctr : Fin 3) (s : State) : State :=
  let s1 := bumpRng ctr 1 { s with rng := { s.rng with fault := orBit s.rng.fault bit } }
  match s.rng.state with
  | .failed => s1
  | .capture => post (ev 0x0661) (offerSamples s1)
  | _ =>
    let s2 := post (ev 0x0661) s1
    if 2 ≤ s.rng.consec then sourceFails s2
    else { s2 with rng := { s2.rng with
      consec := s.rng.consec + 1, windows := 0, state := if s.rng.everOk then .recovering else .startup } }

def execRngRctFail (s : State) : Out := if awake s then .next (healthFail 0 0 s) else .next s

def execRngAptFail (s : State) : Out := if awake s then .next (healthFail 1 1 s) else .next s

/-! ### Service (R204) -/

/-- The JOB_START that waited for its job's seed is answered. -/
def startDone (j : Fin 4) (s : State) : State :=
  match (s.jobs[j]).bind (·.startPend) with
  | some p => answer p stDone true (BitVec.ofNat 32 j.val) 0 0 0 (setJob j (fun x => { x with startPend := none }) s)
  | none => s

/-- What the outputs of a request become. -/
def serve (o : RngOwner) (s : State) : State :=
  let d := draw s
  match o with
  | .xtsKey => { d.2 with stk := { d.2.stk with xts := some d.1 } }
  | .salt => { d.2 with stk := { d.2.stk with salt := some (d.1.setWidth 64) } }
  | .spillKey => { d.2 with stk := { d.2.stk with spillKey := some (d.1.setWidth 256) } }
  | .hello l =>
    let l8 : Fin 8 := ⟨l % 8, Nat.mod_lt _ (by decide)⟩
    if (d.2.links[l8]).state == .hello && (d.2.links[l8]).nonce.isNone then
      let e := draw d.2
      tryKeys l8 (sayHello l8 (setLink l8 (fun x => { x with
        nonce := some (d.1.setWidth 256), eph := some (e.1.setWidth 384) }) e.2))
    else d.2
  | .rekey l =>
    let l8 : Fin 8 := ⟨l % 8, Nat.mod_lt _ (by decide)⟩
    chooseSwitch l8 (setLink l8 (fun x => { x with rekey := x.rekey.map fun r =>
      if r.drawn then r else { r with drawn := true, eph := some (d.1.setWidth 384) } }) d.2)
  | .snapSalt j =>
    let put := fun (q : SnapReq) =>
      if q.staged.isSome && q.salt.isNone then { q with salt := some (d.1.setWidth 256) } else q
    setJob (slotFin j) (fun x => { x with snap := x.snap.map put })
      { d.2 with sq := { d.2.sq with exports := upd d.2.sq.exports (slotFin j) (·.map put) } }
  | .seed j =>
    startDone (slotFin j) (setJob (slotFin j) (fun x =>
      if x.drawn && x.seed.isNone then { x with seed := some (d.1.setWidth 64), kg := genKey (d.1.setWidth 64) } else x) d.2)
  | .attest p ch addr session => writeReport p ch addr session s
  | .tenant =>
    match s.sec.tend with
    | some t => tenantFinish t.1 t.2 s
    | none => s

/-- The oldest request is served whole once enough outputs are ready. -/
def serveHead (s : State) : State :=
  match s.rng.waiting with
  | [] => s
  | r :: rest =>
    if s.rng.state == .ok && decide (r.outputs ≤ s.rng.ready) then
      serve r.owner { s with rng := { s.rng with ready := s.rng.ready - r.outputs, waiting := rest } }
    else s

def execRngRequestServed (s : State) : Out := if awake s then .next (serveHead s) else .next s

end Sys2Proof.Machine
end

