-- ==== Sys2Proof/Machine/RegMap.lean ====
section
/-! DEFINITION. What BAR0 reads (R13 to R17, R490): one table per block, of offsets within the block and the words they
read, each after the register maps of the block's chapter. A read has no side effect (R14), so it is a function of the
state and no command. -/

namespace Sys2Proof.Machine

/-! ### Tables -/

/-- A block's registers: offsets and words. Offsets not listed read 0. -/
abbrev RegTab := List (Nat × Word)

/-- A 64-bit register. -/
def reg64 (o : Nat) (d : DWord) : RegTab := [(o, loWord d), (o + 4, hiWord d)]

/-- A counter register: COUNT in bits 47:0, SAT in bit 63 (R89). -/
def ctrWord (c : Ctr) : DWord := c.count.setWidth 64 ||| (if c.sat then 0x8000000000000000 else 0)

/-- Counters in consecutive 64-bit registers. -/
def ctrRegs (o : Nat) (cs : List Ctr) : RegTab := (cs.zipIdx.map fun c => reg64 (o + 8 * c.2) (ctrWord c.1)).flatten

/-- Words in consecutive 32-bit registers. -/
def wordRegs (o : Nat) (ws : List Word) : RegTab := ws.zipIdx.map fun w => (o + 4 * w.2, w.1)

/-- Bytes as little-endian words. -/
def bytesWords : Nat → List Byte → List Word
  | 0, _ => []
  | n + 1, bs => BitVec.ofNat 32 (leNat (bs.take 4)) :: bytesWords n (bs.drop 4)

/-! ### GLB (R336, R337, R491) -/

def bootCode (b : BootState) : Nat :=
  match b with
  | .booting => 0
  | .running => 1
  | .noImage => 2
  | .restarting => 3

def bankCode (b : BankState) : Nat :=
  match b with
  | .empty => 0
  | .open_ => 1
  | .valid => 2
  | .active => 3
  | .invalid => 4

def glbBoot (s : State) : Word :=
  fields [(bootCode s.glb.state, 0), (bit (s.glb.active == some .b), 3), (bit s.glb.fallback, 4),
    (s.glb.lastStatus.toNat, 8), (bankCode s.glb.bankA, 16), (bankCode s.glb.bankB, 19)]

/-- GLB_ALT_ID. -/
def altId (s : State) : DWord :=
  let idOf := fun x => if bankSt s x == .valid then (bankHeader s x).imageId else 0
  match s.glb.active with
  | some x => idOf (otherBank x)
  | none => if s.glb.bankA == .valid then idOf .a else idOf .b

def glbRegs (s : State) : RegTab :=
  [(0x00, glbId s.part), (0x04, glbCaps s.part), (0x10, glbBoot s), (0x28, s.glb.bootMs), (0x2C, s.glb.svn.setWidth 32)] ++
    reg64 0x18 s.glb.imageId ++ reg64 0x20 (altId s) ++ reg64 0x30 s.glb.cycle

/-! ### PWR (R482 to R488) -/

def retrainPending (s : State) : Bool :=
  s.pwr.retrain.isSome || s.pwr.drawerMarks != 0 || s.pwr.armed != 0 || !s.pwr.drawersNow.isEmpty

def pwrStatus (s : State) : Word :=
  fields [((powerByte s).toNat, 0), (s.pwr.level.toNat, 7), (s.pwr.gate, 9), (bit s.pwr.selftest.isSome, 12),
    (bit (retrainPending s), 13), (bit s.pwr.pwrGood, 14)]

def pwrRegs (s : State) : RegTab :=
  [(0x00, pwrStatus s), (0x04, s.pwr.quiesceMax.setWidth 32), (0x08, s.aon.wakeEn), (0x0C, s.aon.wakeCause),
   (0x10, s.pwr.fault ||| (if s.pwr.gate = 0 then 0 else 0x20)),
   (0x14, fields [(s.pwr.temp.toNat, 0), (s.pwr.peak.toNat, 8)]),
   (0x18, fields [(bit s.pwr.pllLock, 0), (s.pwr.coreDiv.toNat, 1), (s.pwr.pendingLevel.toNat, 5)]),
   (0x1C, BitVec.ofNat 32 (leNat s.pwr.dramTemp.toList))] ++ ctrRegs 0x40 s.pwr.ctrs.toList

/-! ### AON (R447 to R450) -/

def tkCode (t : TkState) : Nat :=
  match t with
  | .free => 0
  | .acquiring => 1
  | .disciplined => 2
  | .holdover => 3
  | .coasting => 4

def aonRegs (s : State) : RegTab :=
  let a := s.aon
  [(0x00, fields [(bit a.onCell, 0), (bit a.por, 1)]), (0x04, a.src.setWidth 32),
   (0x08, fields [(tkCode a.tk, 0), (bit a.srcUsed, 3), (a.master.toNat, 4), (a.freqAdj.toNat, 16)]),
   (0x0C, fields [(a.trip.toNat, 0), (bit a.timerFlag, 4), (bit a.alarm, 5)]), (0x28, a.ppsErr)] ++
    reg64 0x10 a.time ++ reg64 0x18 a.nextSec ++ reg64 0x20 a.timer ++ wordRegs 0x30 a.cmpCfg.toList ++
    ctrRegs 0x40 a.ctrs.toList ++ wordRegs 0x100 a.ret.toList

/-! ### EVT (R493, R500, R501) -/

def ringWord (p : RingPtr) : Word := fields [(p.index.toNat, 0), (bit p.lap, 16)]

def evtStatus (s : State) : Word :=
  fields [(s.evt.log.length, 0), (bit (effLog2 s.evt.ringLog2 != 0 && s.hif.session.isSome), 9), (s.evt.queue.length, 10)]

def evtRegs (s : State) : RegTab :=
  [(0x00, evtStatus s), (0x04, fields [(s.evt.mask.toNat, 1)]), (0x08, s.evt.fault), (0x0C, s.evt.head.setWidth 32),
   (0x20, s.evt.ringLog2.setWidth 32), (0x24, ringWord s.evt.wr), (0x28, ringWord s.evt.rd)] ++
    reg64 0x10 s.evt.seqNext ++ reg64 0x18 s.evt.ringBase ++ ctrRegs 0x40 s.evt.ctrs.toList ++
    (s.evt.log.map fun r => wordRegs (0x1000 + 64 * r.1) (recWords r.2)).flatten

/-! ### HIF (R375, R383, R389 to R392) -/

def slotWords (o : Option Result) : List Word :=
  match o with
  | some r =>
    [fields [(r.seq.toNat, 0), (r.op.toNat, 16), (r.status.toNat, 24)], fields [(1, 0), (bit r.final, 1)],
     r.p0, r.p1, r.p2, r.p3, loWord r.time, hiWord r.time]
  | none => []

def hifInfo (p : PartNo) : Word := if p = .hn7230 then 0x00081084 else 0x00081088

def hifStatus (s : State) : Word :=
  let h := s.hif
  fields [(16 - h.queue.length, 0), (h.slots.toList.countP Option.isSome, 5), (h.ring.length, 10),
    (bit h.session.isSome, 17), (bit (s.mgmt.session.isSome || s.mgmt.selfSigned), 18), (h.width, 19), (h.speed, 23)]

def msixWords (m : MsixVec) : List Word := [loWord m.addr, hiWord m.addr, m.data, fields [(bit m.masked, 0)]]

def hifRegs (s : State) : RegTab :=
  let h := s.hif
  let salt : Word := (h.session.map (·.salt)).getD 0
  let last : DWord := (h.session.bind (·.h2d)).getD 0
  let next : DWord := (h.session.map (·.d2h)).getD 0
  [(0x00, hifInfo s.part), (0x04, hifStatus s), (0x08, h.fault), (0x0C, h.faultInfo), (0x10, h.opcode.setWidth 32),
   (0x2C, salt), (0x1800, fields (h.msix.toList.zipIdx.map fun m => (bit m.1.pending, m.2)))] ++
    wordRegs 0x14 h.args.toList ++ reg64 0x30 last ++ reg64 0x38 next ++ ctrRegs 0x40 h.ctrs.toList ++
    (h.slots.toList.zipIdx.map fun x => wordRegs (0x100 + 32 * x.2) (slotWords x.1)).flatten ++
    wordRegs 0x1000 (h.msix.toList.map msixWords).flatten

/-! ### SEC (R419 to R421) -/

def secStatus (s : State) : Word :=
  let keys := s.sec.keys.toList.zipIdx
  fields ([(bit s.aon.debugSeen, 0), (bit s.mgmt.debugOpen, 1), (s.mgmt.paths.toNat, 2),
    (bit (((ksWord s.fls).map (·.slot)).getD false), 5), (bit (ksInForce s.fls).isSome, 6), (bit s.sec.tending, 7),
    (s.sec.held.length, 12), (bit s.aon.historyLost, 20)] ++ (keys.map fun k => (bit k.1.isSome, 8 + k.2)) ++
    (keys.map fun k => (bit ((k.1.map (·.revoke)).getD false), 16 + k.2)))

def secRegs (s : State) : RegTab :=
  [(0x00, secStatus s), (0x04, s.sec.fault), (0x08, s.sec.faultInfo), (0x0C, ksVersionOf s),
   (0x10, fields [(s.sec.fwSvn.toNat, 0), (s.sec.fuse, 16), (bit s.sec.fwCopy, 23)]), (0x20, s.sec.tendMs)] ++
    reg64 0x18 s.serial ++ ctrRegs 0x40 s.sec.ctrs.toList ++
    ((measured s).zipIdx.map fun d => wordRegs (0x100 + 0x30 * d.2) (bytesWords 12 (digestBytes d.1))).flatten

/-! ### FLS (R362 to R366) -/

def flsOp (s : State) : Nat :=
  match s.fls.issued with
  | some t => match t.ops with
    | .erase _ :: _ => 3
    | _ :: _ => 2
    | [] => 0
  | none => 0

def flsStatus (s : State) : Word :=
  fields [(flsOp s, 0), (bit s.aon.lockout, 3), (s.fls.unlockFails, 4), (s.fls.spares.length, 8), (bit s.fls.poolEmpty, 15)]

def flsRegion (s : State) : Word :=
  let n := s.fls.view.toNat
  fields [(protCode (s.fls.prot[n]'(s.fls.view.isLt)), 0), (bit (bitAt s.fls.sessions n), 2), (bit (!codeClass n), 3),
    (regionBlocks n s, 16)]

/-- FLS_REGION_ERASE_MAX. -/
def eraseMax (s : State) : Nat :=
  let n := s.fls.view.toNat
  ((List.range (regionSize n)).map fun i =>
    let b := regionBase n + i
    if s.fls.lost.contains b then 0 else tabGet 0 (physOf s b) s.fls.eraseCounts).foldl max 0

def flsRegs (s : State) : RegTab :=
  [(0x00, 0x000A1000), (0x04, flsStatus s), (0x08, s.fls.thresh.setWidth 32), (0x0C, s.fls.fault), (0x10, s.fls.faultInfo),
   (0x14, BitVec.ofNat 32 s.fls.ar), (0x18, s.fls.view.setWidth 32), (0x1C, flsRegion s), (0x20, BitVec.ofNat 32 (eraseMax s))] ++
    ctrRegs 0x40 s.fls.ctrs.toList

/-! ### RNG (R215 to R217) -/

def rngCode (r : RngState) : Nat :=
  match r with
  | .startup => 0
  | .ok => 1
  | .recovering => 2
  | .failed => 3
  | .capture => 4

/-- The job slot that a view selects. -/
def viewedJob (s : State) (v : BitVec 2) : Option Job := s.jobs[v.toNat]'(v.isLt)

def rngRegs (s : State) : RegTab :=
  let x := viewedJob s s.rng.view
  let seed : DWord := (x.bind (·.seed)).getD 0
  [(0x00, fields [(rngCode s.rng.state, 0), (s.rng.consec, 3)]), (0x04, s.rng.fault), (0x08, s.rng.view.setWidth 32),
   (0x0C, fields [(bit (x.bind (·.seed)).isSome, 0), (bit ((x.map (·.drawn)).getD false), 1)])] ++
    reg64 0x10 seed ++ ctrRegs 0x18 s.rng.ctrs.toList

/-! ### STK (R243 to R250) -/

def stkInfoReg (p : PartNo) : Word := if p = .hn7260 then 0x1F00020F else 0x1F000103

/-- The stockroom pages out or in, or an engine waits for a page. -/
def stkPaging (s : State) : Bool := s.stk.paging || s.stk.engines.toList.any fun e => e.wait == .page

def stkStatus (s : State) : Word :=
  fields [(bit (s.stk.slots != 0), 0), (bit (stkPaging s), 1), (bit s.stk.replacePending, 2), (bit s.stk.patrol, 3),
    (s.stk.imbRun, 16)]

def viewedHandle (s : State) : Option Handle := tabFind s.stk.view.toNat s.stk.handles

def stkHandle (s : State) : Word :=
  match viewedHandle s with
  | some h => fields [(classCode h.cls, 0), (h.job, 4), (bit h.spillable, 6), (1, 7), (h.frames, 8)]
  | none => 0

def stkSpilled (s : State) : Word :=
  match viewedHandle s with
  | some h => BitVec.ofNat 32 (h.table.countP fun f => f.2.spilled)
  | none => 0

def stkRegs (s : State) : RegTab :=
  [(0x00, stkInfoReg s.part), (0x04, stkStatus s), (0x08, s.stk.cfg), (0x0C, s.stk.fault), (0x10, s.stk.faultInfo),
   (0x28, s.stk.slots.setWidth 32), (0x2C, BitVec.ofNat 32 (freeFrames s)), (0x30, s.stk.view.setWidth 32),
   (0x34, stkHandle s), (0x38, stkSpilled s)] ++ reg64 0x18 s.stk.faultAddr ++ reg64 0x20 s.stk.base ++
    ctrRegs 0x40 s.stk.ctrs.toList ++ wordRegs 0x100 (s.stk.chanReq.toList.take (channels s.part))

/-! ### FAB (R285 to R293) -/

def lkCode (l : LkState) : Nat :=
  match l with
  | .disabled => 0
  | .signalDetect => 1
  | .training => 2
  | .hello => 3
  | .up => 4
  | .retrain => 5
  | .peerQuiesce => 6
  | .notAdmitted => 7
  | .stopped => 8

def linkRegs (l : Link) : RegTab :=
  [(0x00, fields [(lkCode l.state, 0), (l.lanes.toNat, 4), (bit l.rekey.isSome, 8), (l.tempTrain.toNat, 16),
     (l.gen.toNat % 256, 24)]),
   (0x04, fields [(bit l.disable, 0)]), (0x08, l.fault),
   (0x0C, fields [(l.peerRank.toNat, 0), (bit l.peerMember, 10), (l.peerLink.toNat, 11)]),
   (0x10, fields [(l.vMin.toNat, 0), (l.hMin.toNat, 8), (l.worst.toNat, 16)])] ++
    reg64 0x18 l.txF ++ reg64 0x20 l.rxF ++ reg64 0x28 l.peerSerial ++ ctrRegs 0x40 l.ctrs.toList

def wsCode (w : WsState) : Nat :=
  match w with
  | .unjoined => 0
  | .member => 1
  | .coordinator => 2
  | .holding => 3

def wsRegs (s : State) : RegTab :=
  [(0x00, fields [(wsCode s.ws.state, 0), (s.ws.rank, 2), (s.fls.claim.toNat, 12), (s.ws.coord, 22)]), (0x04, s.ws.epoch),
   (0x08, s.ws.cfg), (0x0C, s.ws.fault)] ++ reg64 0x10 s.ws.id ++ ctrRegs 0x18 s.ws.ctrs.toList

def fabRegs (s : State) (o : Nat) : RegTab :=
  if h : o / 0x1000 < 8 then (if linkPresent s.part (o / 0x1000) then linkRegs (s.links[o / 0x1000]'h) else [])
  else if o / 0x1000 = 8 then wsRegs s else []

/-! ### COL (R314 to R317) -/

/-- The all-gather of a weight of the job is under way. -/
def gathering (s : State) (j : Fin 4) (x : Job) : Bool :=
  onFabric s x && x.phase == .update && (tensorsOf s x.index).any fun t =>
    (t.role == .veneerW || t.role == .expert) && (match tensIn x t.id with
      | some r => r.optDone
      | none => false) && !gatherDone s j x t

def tallyWait (s : State) (x : Job) : Bool :=
  !x.normReqs.isEmpty || (onFabric s x && x.phase == .update && x.tens.any fun t => t.gtFinal && !t.fReady)

def colStatus (s : State) (j : Fin 4) : Word :=
  match s.jobs[j] with
  | some x => fields [(x.glueIn.length, 0), (bit (gathering s j x), 4), (bit (tallyWait s x), 5),
      (bit (!x.exp.isEmpty), 6), (bit (!detMode s), 7)]
  | none => 0

def colRegs (s : State) : RegTab :=
  [(0x00, BitVec.ofNat 32 s.col.view.val), (0x04, colStatus s s.col.view), (0x08, s.col.cfg), (0x0C, s.col.fault),
   (0x10, s.col.info)] ++ reg64 0x18 (((s.jobs[s.col.view]).map (·.glueLast)).getD 0) ++ ctrRegs 0x20 s.col.ctrs.toList

/-! ### TRN (R161 to R167) -/

def phaseCode (p : Phase) : Nat :=
  match p with
  | .stopped => 0
  | .holding => 1
  | .compute => 2
  | .update => 3
  | .ready => 4
  | .boundary => 5
  | .aborting => 6

/-- A tensor's record as the registers show it: while a REPLAY runs, the committed state with the live statistics (R190). -/
def shownTens (x : Job) (live : TRun) : TRun :=
  match x.saved with
  | none => live
  | some r => match r.tens.find? (·.id == live.id) with
    | some t => { keepCounts live t with amax := live.amax }
    | none => live

def viewedTens (s : State) : Option TRun :=
  match s.jobs[s.trn.viewJob] with
  | some x => (tensIn x s.trn.viewTensor).map (shownTens x)
  | none => none

def trnStatus (s : State) : Word :=
  match s.jobs[s.trn.viewJob] with
  | some x => fields [(phaseCode x.phase, 0), (bit (detMode s), 3),
      (bit (((viewedTens s).map (·.cur)).getD false), 4), (bit (((viewedTens s).map (·.skipped)).getD false), 5)]
  | none => 0

def intByte (k : Int) : Nat := (k % 256).toNat

def tensRegs (s : State) (t : TRun) : RegTab :=
  [(0x0C, fields [(intByte t.k, 0), (intByte t.kPrev, 8), (t.hist.length, 16),
     (bit (((tensorOf s t.id).map (·.autoScale)).getD false), 23)]),
   (0x20, t.ovf), (0x24, t.nan), (0x28, t.unf),
   (0x2C, fields [(bit t.ovfSat, 0), (bit t.nanSat, 1), (bit t.unfSat, 2), (bit t.inexact, 3)]), (0x30, t.amax)] ++
    reg64 0x38 t.w2 ++ reg64 0x40 t.g2 ++ reg64 0x48 t.dw2

/-- TRN_STEP and TRN_EPOCH stay those of the committed state while a REPLAY runs (R190). -/
def trnJobRegs (x : Job) : RegTab :=
  let at_ := match x.saved with
    | some r => (r.step, r.epoch)
    | none => (x.step, x.epoch)
  reg64 0x10 (BitVec.ofNat 64 at_.1) ++ [(0x18, at_.2)] ++ ctrRegs 0x50 x.trn.toList

def trnRegs (s : State) : RegTab :=
  [(0x00, fields [(s.trn.viewJob.val, 0), (s.trn.viewTensor.toNat, 16)]), (0x04, trnStatus s), (0x08, s.trn.fault),
   (0x108, s.trn.telLog2.setWidth 32), (0x10C, ringWord s.trn.wr), (0x110, ringWord s.trn.rd)] ++
    reg64 0x80 (ctrWord s.trn.drops) ++ reg64 0x100 s.trn.telBase ++
    ((s.jobs[s.trn.viewJob]).map trnJobRegs).getD [] ++ ((viewedTens s).map (tensRegs s)).getD []

/-! ### SEQ (R196 to R199) -/

def seqStatus (s : State) (x : Job) : Word :=
  fields [(bit (latencyBound s x), 0), (bit (x.train && recordMode s), 1), (recorded x, 2),
    (bit (((x.snap.map fun r => r.staged.isSome || r.exporting).getD false) || (s.sq.exports[s.sq.view]).isSome), 4),
    (bit (x.replaying.isSome || x.saved.isSome), 5), (x.retries, 6)]

def log2Of (n : Nat) : Nat := if n = 4 then 2 else if n = 2 then 1 else 0

/-- V of the job's schedule. -/
def jobV (s : State) (idx : Nat) : Nat :=
  (((jobEntryOf s idx).bind fun e => (bodyOf s).bind (·.schedules[e.sched]?)).map (·.v)).getD 1

def seqMesh (s : State) (x : Job) : Word :=
  let m := meshOf s x.index
  let c := coordIn s x.index
  fields [(if meshFabric m && isMember s then c.dTot else 0, 0), (m.tF, 11), (m.pF, 15), (log2Of m.tL, 20), (log2Of m.pL, 22),
    (jobV s x.index - 1, 24), (bit (!m.experts.isEmpty), 27), (bit x.rho2, 28)]

def seqRank (s : State) (x : Job) : Word :=
  let c := coordIn s x.index
  fields [(rankNow s, 0), (c.d, 10), (c.t, 20), (c.p, 23), (bit (isMember s), 27), (bit c.spare, 28)]

/-- The registers that follow SEQ_VIEW.JOB; SEQ_LAT_MISS, SEQ_KERF, SEQ_RERUNS and SEQ_REPLAYS are the job's. -/
def seqJobRegs (s : State) (x : Job) : RegTab :=
  [(0x04, seqStatus s x), (0x0C, seqMesh s x), (0x10, seqRank s x),
   (0x14, ((jobEntryOf s x.index).map (·.latBound)).getD 0)] ++ reg64 0x18 x.latMax ++
    reg64 0x20 (ctrWord x.seq[0]) ++ ctrRegs 0x30 (x.seq.toList.drop 1)

def seqRegs (s : State) : RegTab :=
  [(0x00, BitVec.ofNat 32 s.sq.view.val), (0x08, s.sq.fault)] ++ reg64 0x28 (ctrWord s.sq.slices) ++
    ((s.jobs[s.sq.view]).map (seqJobRegs s)).getD []

/-! ### BNC, PLN, LTH (R89 to R95, R123 to R131) -/

def uCode (u : UState) : Nat :=
  match u with
  | .stopped => 0
  | .waiting => 1
  | .running => 2
  | .selftest => 3
  | .outOfService => 4

def bncRegs (s : State) (n : Fin 4) : RegTab :=
  let b := s.bnc[n]
  [(0x00, if inlayPresent s.part n.val then 0x01803FFF else 0x00803FFF),
   (0x04, fields [(uCode b.state, 0), (b.job.val, 3), (b.vstage.toNat, 5), (b.waitKind.toNat, 8), (b.waitSlot.toNat, 10),
     (bit b.chainOpen, 18)]),
   (0x08, b.cfg), (0x0C, b.fault), (0x10, b.info)] ++ ctrRegs 0x18 b.ctrs.toList ++
    wordRegs 0x100 ((List.range 8).map fun k => BitVec.ofNat 32 (b.slots.toNat >>> (32 * k)))

def plnRegs (s : State) (n : Fin 16) : RegTab :=
  let p := s.pln[n]
  [(0x00, fields [(0x203F, 0), (n.val / 4, 16), (n.val / 4, 18)]),
   (0x04, fields [(uCode p.state, 0), (p.job.val, 3), (p.vstage.toNat, 5), (p.waitKind.toNat, 8), (p.waitSlot.toNat, 10)]),
   (0x08, p.cfg), (0x0C, p.fault), (0x10, p.info)] ++ ctrRegs 0x18 p.ctrs.toList

def lathCode (l : LState) : Nat :=
  match l with
  | .idle => 0
  | .running => 2
  | .selftest => 3
  | .outOfService => 4

def lthRegs (s : State) (n : Fin 4) : RegTab :=
  let l := s.lth[n]
  [(0x00, fields [(0x1010, 0), (4 * n.val, 8)]),
   (0x04, fields ((l.req.toList.zipIdx.map fun r => (bit r.1.isSome, r.2)) ++ [(l.next.val, 4), (lathCode l.state, 6)])),
   (0x08, l.fault), (0x10, l.ftzExp), (0x14, l.ftzExp2), (0x18, l.ftzSigmoid), (0x1C, l.ftzGate)] ++
    ctrRegs 0x40 l.ctrs.toList

/-! ### SNS (R432, R444 to R446) -/

def snsRegs (p : Port) : RegTab :=
  [(0x00, p.cfg), (0x04, fields [(bit p.clk, 0), (bit p.capturing, 1), (bit p.seen, 2)]), (0x08, p.fault)] ++
    reg64 0x10 p.wrCount ++ reg64 0x18 p.lastFs ++
    reg64 0x20 (p.winNs ||| (if p.contiguous then 0x8000000000000000 else 0)) ++ ctrRegs 0x40 p.ctrs.toList

/-! ### The address map (R490) -/

/-- The registers at the instance that an offset of BAR0 lies in, and the offset within it. -/
def regsAt (s : State) (off : Nat) : RegTab × Nat :=
  let o := off % 0x10000
  match off / 0x10000 with
  | 0x0 => (glbRegs s, o)
  | 0x1 => (pwrRegs s, o)
  | 0x2 => (aonRegs s, o)
  | 0x3 => (evtRegs s, o)
  | 0x4 => (hifRegs s, o)
  | 0x5 => (secRegs s, o)
  | 0x6 => (flsRegs s, o)
  | 0x7 => (rngRegs s, o)
  | 0x8 => (stkRegs s, o)
  | 0x9 => (fabRegs s o, o % 0x1000)
  | 0xA => (colRegs s, o)
  | 0xB => (trnRegs s, o)
  | 0xC => (seqRegs s, o)
  | _ =>
    if 0x100000 ≤ off ∧ off < 0x200000 then (bncRegs s (Fin.ofNat 4 ((off - 0x100000) / 0x40000)), off % 0x40000)
    else if 0x200000 ≤ off ∧ off < 0x280000 then (plnRegs s (Fin.ofNat 16 ((off - 0x200000) / 0x8000)), off % 0x8000)
    else if 0x280000 ≤ off ∧ off < 0x290000 then (lthRegs s (Fin.ofNat 4 ((off - 0x280000) / 0x4000)), off % 0x4000)
    else if 0x300000 ≤ off ∧ off < 0x306000 then
      (let n := Fin.ofNat 24 ((off - 0x300000) / 0x400)
       if portPresent s.part n.val then snsRegs s.sns[n] else [], off % 0x400)
    else ([], 0)

/-- In SLEEP only the GLB, PWR, AON, EVT and HIF blocks answer (R458); without main rails none does. -/
def served (s : State) (off : Nat) : Bool := running s || (awake s && decide (off < 0x50000))

/-- A 4-byte read. -/
def readReg (s : State) (off : Nat) : Word :=
  if served s off then
    let r := regsAt s off
    match r.1.find? fun x => x.1 == r.2 with
    | some x => x.2
    | none => 0
  else 0

/-- A read of BAR0 by the host: 4 or 8 bytes, naturally aligned; any other reads 0 (R369). -/
def readBar0 (s : State) (off n : Nat) : DWord :=
  if n = 4 ∧ off % 4 = 0 then (readReg s off).setWidth 64
  else if n = 8 ∧ off % 8 = 0 then (readReg s off).setWidth 64 ||| (readReg s (off + 4)).setWidth 64 <<< 32
  else 0

end Sys2Proof.Machine
end

