-- ==== Sys2Proof/Machine/Train.lean ====
section
/-! DEFINITION. The training step (05_training_step.md): STEP_START, GRAD_PARTIAL_ADD, GLUE_ENTER, CLAMP_FACTOR, the two
built-in optimizers, the end of the reader wait, READY_SEND, and the writes of the TRN registers. -/

namespace Sys2Proof.Machine

/-! ### STEP_START (R28, R137, R150, R151, R432) -/

/-- No membership change is open or due on this module (R22, R279), and an aborted fabric step waits for its new
epoch (R194). -/
def membershipSteady (s : State) (x : Job) : Bool :=
  !onFabric s x ||
    (s.ws.change.isNone && s.ws.view.isNone && !changeDue s && !s.ws.dissolving && x.abortEpoch != some s.ws.epoch &&
      !(coordIn s x.index).spare)

/-- A step of job x may start here and now, but for its place in the workshop. -/
def stepDue (s : State) (x : Job) : Bool :=
  x.train && x.phase == .boundary && !x.parked && (x.stop.isNone || x.saved.isSome) && !x.late && !quiescing s && coreOn s &&
    !s.pwr.coreDown && stagingOver x && membershipSteady s x

/-- The copy lists that the job's schedule names. -/
def listsOfJob (s : State) (idx : Nat) : List (List Desc8) :=
  match scheduleOf s idx, bodyOf s with
  | some t, some b => (((t.lists.flatMap (·.2)).filterMap fun e => stageOf s (entryFields e).prog).flatMap
      (·.copyLists)).eraseDups.filterMap fun n => b.copies[n]?
  | _, _ => []

/-- The ports whose rings the job's RING_WINDOW descriptors name. -/
def windowPorts (s : State) (idx : Nat) : List SensorCfg :=
  (((listsOfJob s idx).flatMap id).filterMap fun d =>
    if dField d 0 3 0 == 2 then (ringNamed s (dField d 4 15 0)) else none).eraseDups

/-- The window of a port for a step that starts now (R432). -/
def windowOf (s : State) (x : Job) (c : SensorCfg) : Window :=
  let hi := match s.sns[c.port]? with
    | some p => p.lastFs.toNat
    | none => 0
  let before := x.windows.find? (·.port == c.port)
  let lo := match c.contiguous, before with
    | true, some w => w.hi
    | _, _ => hi - c.winNs
  ⟨c.port, lo, hi, []⟩

def stepWindows (s : State) (x : Job) : List Window :=
  if x.rerun then x.windows else (windowPorts s x.index).map (windowOf s x)

/-- mult(s) of R151, from breakpoints in ascending step order. -/
def multOf : List (Nat × Word) → Nat → Word
  | [], _ => b32One
  | [p], _ => p.2
  | (a, ma) :: (b, mb) :: t, n =>
    if n ≤ a then ma
    else if n < b then
      let q := toB32 (vDiv (vOfNat (n - a)) (vOfNat (b - a)))
      b32Add ma (b32Mul (b32Sub mb ma) q)
    else multOf ((b, mb) :: t) n

def paramsOf (s : State) (idx : Nat) (id : BitVec 16) : Option Params :=
  (trainOf s idx).bind fun t => t.params.find? (·.tensor == id)

/-- A parameter of a veneer; parse refuses an image that leaves out one that is used (R149). -/
def paramOf (s : State) (idx : Nat) (id : BitVec 16) (f : Params → Option Word) : Word :=
  match (paramsOf s idx id).bind f with
  | some w => w
  | none => 0

/-- The bias correction and the learning rate of one weight at the start of step n (R150, R151). -/
def startTens (j : Fin 4) (idx n : Nat) (s : State) (w : Tensor) : State :=
  match tensAt s j w.id, trainOf s idx with
  | some r, some tr =>
    let lrS := b32Mul (paramOf s idx w.id (·.lr)) (multOf tr.lrSchedule n)
    if tr.opt == .sgdm then setTens j w.id (fun y => { y with lrS := lrS }) s
    else
      let n1 := b32Mul r.bc1 (paramOf s idx w.id (·.beta1))
      let n2 := b32Mul r.bc2 (paramOf s idx w.id (·.beta2))
      let c1 := useLathe 0 .recip (b32Sub b32One n1) 0 s
      let c2 := useLathe 0 .recip (b32Sub b32One n2) 0 c1.2
      setTens j w.id (fun y => { y with bn1 := n1, bn2 := n2, corr1 := c1.1, corr2 := c2.1, lrS := lrS }) c2.2
  | _, _ => s

/-- n_inv of R137. -/
def normInv (s : State) (idx samples : Nat) : Word × State :=
  match trainOf s idx with
  | some t => if t.gradMean then useLathe 0 .recip (toB32 (vOfNat samples)) 0 s else (b32One, s)
  | none => (b32One, s)

/-- The partials of an expert that another module trains are none of this module's. -/
def foreignDone (j : Fin 4) (x : Job) (s : State) : State :=
  ((trainedOf s x.index).filter (foreignExpert s x.index)).foldl (fun s' w =>
    setTens j w.id (fun r => { r with gFinal := true }) s') s

def beginStep (j : Fin 4) (x : Job) (samples : Nat) (s : State) : State :=
  let ws := stepWindows s x
  let y := normInv s x.index samples
  let s1 := setJob j (fun z => { startRun z with
    phase := .compute, samples := samples, nInv := y.1, windows := ws }) (colFresh j y.2)
  let s2 := (trainedOf s x.index).foldl (startTens j x.index x.step) s1
  checkUpdate j (foreignDone j x s2)

def execStepStart (j : Fin 4) (samples : Nat) (s : State) : Out :=
  match s.jobs[j] with
  | none => .next s
  | some x =>
    if stepDue s x then
      if placeReady s x then .next (beginStep j x samples s)
      else .next (setJob j (fun y => { y with phase := .holding }) s)
    else .next s

/-! ### Gradients (R135, R136) -/

/-- The conversion of an addition into G (R53, R135): binary32, to nearest, in true units, counted and clamped as the
tensor's descriptor says. -/
def gradConv (s : State) (x : Job) (g : Tensor) : Conv := { convOf s x g 0 0 0 with mode := .near, scale := 0, bias := none }

/-- One element G := b32(G + P), counted in G's record: its bytes after those before it. -/
def addElem (j : Fin 4) (g : Tensor) (c : Conv) (y : List Byte × State) (gp : Word × Word) : List Byte × State :=
  let z := convertElem j g c (accAddV (accOf (ofB32 gp.1)) (ofB32 gp.2)) y.2
  (y.1 ++ z.1, z.2)

/-- The words of a partial, read from the store in which its chain completed it (R135). -/
def partialWords (s : State) (at_ : PartialAt) (n : Nat) : List Word :=
  toWords (readBytes (if at_.stock then s.stk.mem else s.bnc[at_.bench].store) at_.addr (4 * n))

/-- The bytes of G after its next partial: P_0 is written, the others are added. -/
def addPartial (j : Fin 4) (x : Job) (w g : Tensor) (n : Nat) (at_ : PartialAt) (s : State) : List Byte × State :=
  let p := partialWords s at_ w.elements
  if n = 0 then (ofWords p, s)
  else ((gWords s j w 0 w.elements).zip p).foldl (addElem j g (gradConv s x g)) ([], useG j w 0 w.elements s)

/-- G takes its next partial; a shortage of frames ends the job (R229). -/
def enterG (j : Fin 4) (x : Job) (w g : Tensor) (at_ : PartialAt) (s : State) : State :=
  match tensAt s j w.id with
  | none => s
  | some r =>
    let y := addPartial j x w g r.parts at_ s
    setTens j w.id (fun z => { z with parts := z.parts + 1, early := z.early.filter (·.1 != r.parts) })
      (pokeOr j (gHandle s j w) 0 y.1 y.2)

/-- Partials that wait and are now next enter in order; the first argument bounds their number. -/
def drainEarly (j : Fin 4) (x : Job) (w g : Tensor) : Nat → State → State
  | 0, s => s
  | k + 1, s =>
    match (tensAt s j w.id).bind fun r => r.early.find? (·.1 == r.parts) with
    | none => s
    | some p => drainEarly j x w g k (enterG j x w g p.2 s)

/-- Partial n of weight w is complete in its store: it enters G with those that waited for it, or waits there itself. -/
def partialAdd (j : Fin 4) (x : Job) (w g : Tensor) (r : TRun) (n : Nat) (at_ : PartialAt) (s : State) : State :=
  if n = r.parts then
    let s1 := drainEarly j x w g r.early.length (enterG j x w g at_ s)
    match tensAt s1 j w.id with
    | some y => if microBatches s x.index ≤ y.parts then finalG j w s1 else s1
    | none => s1
  else setTens j w.id (fun y => { y with early := (n, at_) :: y.early.filter (·.1 != n) }) s

/-- Partial n of weight w is complete, and its turn may have come. -/
def gradDue (s : State) (x : Job) (w : Tensor) (r : TRun) (mb : Nat) (at_ : PartialAt) : Bool :=
  x.train && x.phase == .compute && trained w && w.job == x.index && (partOf s w .grad).isSome && !r.gFinal &&
    decide (r.parts ≤ mb) && decide (mb < microBatches s x.index) &&
    decide (at_.addr + 4 * w.elements ≤ storeSize at_.stock)

def execGradPartialAdd (j : Fin 4) (t : BitVec 16) (mb : Nat) (at_ : PartialAt) (ecc : DrawerEcc) (s : State) : Out :=
  match s.jobs[j], tensAt s j t, tensorOf s t with
  | some x, some r, some w =>
    match gradDue s x w r mb at_, partOf s w .grad with
    | true, some g =>
      match ensureHandle j g.id s with
      | none => .next (fatalFault j (exhausted j.val s))
      | some s1 => if gSpilled s1 j w then .next s1 else .next (afterEcc ecc (partialAdd j x w g r mb at_) s1)
    | _, _ => .next s
  | _, _, _ => .next s

/-! ### The glue-up's queue (R300) -/

def glueMax (s : State) : Nat := max 1 (bitsNat s.col.cfg 11 8)

def glueOpen (s : State) : Nat := (s.jobs.toList.map fun o => match o with
  | some x => x.glueIn.length
  | none => 0).sum

def execGlueEnter (j : Fin 4) (t : BitVec 16) (ecc : DrawerEcc) (s : State) : Out :=
  match s.jobs[j], tensorOf s t with
  | some x, some w =>
    if x.glueQ.head? == some t && decide (glueOpen s < glueMax s) && !gSpilled s j w then
      .next (afterEcc ecc (enterGlue j x w) s)
    else .next s
  | _, _ => .next s

/-! ### The clamp (R145) -/

/-- n2, the workshop's total of the gradient gauge, rounded once to W80 (R145, R158). -/
def gaugeTotal (s : State) (x : Job) (r : TRun) : Val := w80 (rankSum (tallyRanks s x) r.tallyG)

/-- c, where q exceeds the squared limit, with the lathe that forms it. -/
def clipFactor (q : Val) (clip : Word) (s : State) : Word × State :=
  let e : Int := vLead q / 2
  let y := useLathe 0 .rsqrt (toB32 (vScale (-2 * e) q)) 0 s
  (toB32 (vScale (-e) (ofB32 (b32Mul clip y.1))), y.2)

/-- The clamp's answer: c and f, or none where q is NaN or infinite. -/
def clampOf (q : Val) (clip nInv : Word) (s : State) : Option (Word × Word) × State :=
  if !vIsFin q then (none, s)
  else
    let lim := ofB32 clip
    if vIsZero lim || vLe q (vMul lim lim) then (some (b32One, b32Mul nInv b32One), s)
    else
      let y := clipFactor q clip s
      (some (y.1, b32Mul nInv y.1), y.2)

def clampTens (j : Fin 4) (x : Job) (t : BitVec 16) (r : TRun) (s : State) : State :=
  let n := ofB32 x.nInv
  let q := vMul (vMul (gaugeTotal s x r) n) n
  let y := clampOf q (paramOf s x.index t (·.clip)) x.nInv s
  let s1 := match y.1 with
    | some p => setTens j t (fun z => { z with c := p.1, f := p.2, fReady := true, nonfinite := false }) y.2
    | none => setTens j t (fun z => { z with c := b32Nan, fReady := true, nonfinite := true }) y.2
  tryTallyEnd j s1

def execClampFactor (j : Fin 4) (t : BitVec 16) (s : State) : Out :=
  match s.jobs[j], tensAt s j t, tensorOf s t with
  | some x, some r, some w =>
    if stepOpen x && x.train && trained w && w.job == x.index && r.gtFinal && !r.fReady &&
        tallyFull s x (r.tallyG.map (·.1)) then
      .next (clampTens j x t r s)
    else .next s
  | _, _, _ => .next s

/-! ### The optimizers (R147 to R149) -/

/-- A stored element of a moment, in true units under the scale of its current buffer. -/
def momentVal (s : State) (t : Tensor) (r : TRun) (i : Nat) : Word :=
  toB32 (vScale (if t.fmt == 2 then 0 else -r.kPrev) (elemVal s t r false i))

/-- The sum of w and Δw at full width (R148). -/
def pairOf (w dw : Word) : Acc := accAddV (accAddV Acc.zero (ofB32 w)) (ofB32 dw)

def negW (w : Word) : Word := toB32 (vNeg (ofB32 w))

/-- The gradient of element i, times f. -/
def scaledG (s : State) (j : Fin 4) (w : Tensor) (f : Word) (i : Nat) : Word :=
  match gWords s j w i 1 with
  | g :: _ => b32Mul g f
  | [] => b32Nan

/-- One element of ADAMW. -/
def adamwElem (j : Fin 4) (idx : Nat) (w m v : Tensor) (s : State) (i : Nat) : State :=
  match tensAt s j w.id, tensAt s j m.id, tensAt s j v.id with
  | some rw, some rm, some rv =>
    let pr := paramOf s idx w.id
    let b1 := pr (·.beta1)
    let b2 := pr (·.beta2)
    let g := scaledG s j w rw.f i
    let m1 := b32Fma b1 (momentVal s m rm i) (b32Mul (b32Sub b32One b1) g)
    let v1 := b32Fma b2 (momentVal s v rv i) (b32Mul (b32Mul (b32Sub b32One b2) g) g)
    let y := useLathe 0 .rsqrt (b32Fma v1 rw.corr2 (b32Mul (pr (·.eps)) (pr (·.eps)))) 0 s
    let u := b32Mul (b32Mul m1 rw.corr1) y.1
    let wt := toB32 (elemVal s w rw false i)
    let dw := b32Mul (negW rw.lrS) (b32Fma (pr (·.wd)) wt u)
    optStore j w i (pairOf wt dw) (optStore j v i (accOf (ofB32 v1)) (optStore j m i (accOf (ofB32 m1)) y.2))
  | _, _, _ => s

/-- One element of SGDM. -/
def sgdmElem (j : Fin 4) (idx : Nat) (w m : Tensor) (s : State) (i : Nat) : State :=
  match tensAt s j w.id, tensAt s j m.id with
  | some rw, some rm =>
    let pr := paramOf s idx w.id
    let g := scaledG s j w rw.f i
    let m1 := b32Fma (pr (·.mu)) (momentVal s m rm i) g
    let wt := toB32 (elemVal s w rw false i)
    let dw := b32Mul (negW rw.lrS) (b32Fma (pr (·.wd)) wt m1)
    optStore j w i (pairOf wt dw) (optStore j m i (accOf (ofB32 m1)) s)
  | _, _ => s

/-- What an optimizer's reads of its shard do to the stockroom. -/
def useShard (j : Fin 4) (x : Job) (w : Tensor) (s : State) : State :=
  let one := fun (s : State) (o : Option Tensor) => match o.bind fun t => (tensAt s j t.id).map fun r => (t, r) with
    | some (t, r) =>
      let b := fmtBytes t.fmt
      let q := ownRange s x.index t
      useHandle r.handle.toNat ((if isVeneer t.role then bufBase t r.cur else 0) + q.1 * b) ((q.2 - q.1) * b) s
    | none => s
  [some w, partOf s w .veneerM, partOf s w .veneerV, partOf s w .grad].foldl one s

/-- The optimizer of a weight may run: its factor is formed, its shard is summed, and no inference pass reads the
buffers that it writes (R157). -/
def optimizerDue (s : State) (j : Fin 4) (x : Job) (w : Tensor) (r : TRun) (o : Optimizer) : Bool :=
  x.train && stepOpen x && coreOn s && trained w && w.job == x.index && r.fReady && r.gtFinal && !r.optDone &&
    readersEnded s x.readers && !gSpilled s j w && (match trainOf s x.index with
      | some t => t.opt == o
      | none => false)

/-- The elements of the owned shard. -/
def ownedElems (s : State) (idx : Nat) (w : Tensor) : List Nat :=
  let o := ownRange s idx w
  List.range' o.1 (o.2 - o.1)

def adamwRun (j : Fin 4) (x : Job) (w : Tensor) (r : TRun) (s : State) : State :=
  match partOf s w .veneerM, partOf s w .veneerV with
  | some m, some v =>
    optFinish j w (if r.nonfinite then s
      else (ownedElems s x.index w).foldl (adamwElem j x.index w m v) s)
  | _, _ => optFinish j w s

def sgdmRun (j : Fin 4) (x : Job) (w : Tensor) (r : TRun) (s : State) : State :=
  match partOf s w .veneerM with
  | some m =>
    optFinish j w (if r.nonfinite then s
      else (ownedElems s x.index w).foldl (sgdmElem j x.index w m) s)
  | none => optFinish j w s

def execOptimizerAdamw (j : Fin 4) (t : BitVec 16) (ecc : DrawerEcc) (s : State) : Out :=
  match s.jobs[j], tensAt s j t, tensorOf s t with
  | some x, some r, some w => if optimizerDue s j x w r .adamw then
      .next (afterEcc ecc (fun s1 => adamwRun j x w r (useShard j x w s1)) s)
    else .next s
  | _, _, _ => .next s

def execOptimizerSgdm (j : Fin 4) (t : BitVec 16) (ecc : DrawerEcc) (s : State) : Out :=
  match s.jobs[j], tensAt s j t, tensorOf s t with
  | some x, some r, some w => if optimizerDue s j x w r .sgdm then
      .next (afterEcc ecc (fun s1 => sgdmRun j x w r (useShard j x w s1)) s)
    else .next s
  | _, _, _ => .next s

/-- The last inference pass bound to the buffers has ended (R157): the cycles waited are measured. -/
def execOptimizerReaderWaitEnd (j : Fin 4) (cycles : Nat) (s : State) : Out :=
  match s.jobs[j] with
  | some x =>
    if !x.readers.isEmpty && readersEnded s x.readers then
      let s1 := bumpTrn j 5 cycles (setJob j (fun y => { y with readers := [], gatherHeld := [] }) s)
      .next (x.gatherHeld.foldl (fun s' g => gatherOne j g s') s1)
    else .next s
  | none => .next s

/-! ### READY (R152, R153) -/

def execReadySend (j : Fin 4) (s : State) : Out :=
  match s.jobs[j] with
  | none => .next s
  | some x =>
    if !readyNow s j x then .next s
    else if x.saved.isSome then .next (replayFinish j x s)
    else if !onFabric s x then .next (commitStep j s)
    else
      let s1 := setJob j (fun y => { y with phase := .ready }) s
      if isCoord s then .next (tryCommit x.index x.step (noteReady x.index x.step s.ws.rank s1))
      else .next (sendCoord 0x05 0 (.step x.index x.step) s1)

/-! ### TRN registers (R162 to R168) -/

def trnLocked (s : State) : State :=
  post (ev 0x0703) { s with trn := { s.trn with fault := orBit s.trn.fault 0 } }

/-- TRN_TEL_BASE, or TRN_TEL_SIZE with `size`. -/
def execTrnTelConfigWrite (size : Bool) (v : DWord) (s : State) : Out :=
  if !running s then .next s
  else if anyJob s then .next (trnLocked s)
  else if size then
    let n : BitVec 5 := v.setWidth 5
    let p := ringResize s.trn.telLog2 n s.trn.wr s.trn.rd
    .next { s with trn := { s.trn with telLog2 := n, wr := p.1, rd := p.2 } }
  else .next { s with trn := { s.trn with telBase := v } }

def execTrnTelRdWrite (v : Word) (s : State) : Out :=
  let log2 := effLog2 s.trn.telLog2
  let p := ptrOf v
  if !running s || log2 == 0 || rdPasses log2 s.trn.wr s.trn.rd p then .next s
  else .next { s with trn := { s.trn with rd := p } }

/-- TRN_STAT_FLAGS of the viewed tensor of the viewed job. -/
def execTrnStatFlagsClear (v : Word) (s : State) : Out :=
  if running s then .next (setTens s.trn.viewJob s.trn.viewTensor (clearFlags v) s) else .next s

end Sys2Proof.Machine
end

