-- ==== Sys2Proof/Machine/Regs.lean ====
section
/-! DEFINITION. A write to a register of BAR0 (R13, R369, R490): each writable register takes the value by its access
code, or acts as its map says. -/

namespace Sys2Proof.Machine

/-! ### Access codes (R13, R89) -/

/-- The state an outcome leaves; a register write has no other outcome. -/
def outState (s : State) (o : Out) : State :=
  match o with
  | .next t => t
  | _ => s

/-- One half of a 64-bit register written. -/
def setHalf (d : DWord) (hi : Bool) (v : Word) : DWord :=
  if hi then v.setWidth 64 <<< 32 ||| (loWord d).setWidth 64 else (hiWord d).setWidth 64 <<< 32 ||| v.setWidth 64

/-- Counters in consecutive registers from `base`: writing 1 to SAT, bit 31 of the high half, clears SAT and COUNT. -/
def ctrPut {n : Nat} (base o : Nat) (v : Word) (cs : Vector Ctr n) : Vector Ctr n :=
  if h : base ≤ o ∧ (o - base) % 8 = 4 ∧ (o - base) / 8 < n then
    (if bitAt v 31 then cs.set ((o - base) / 8) Ctr.zero h.2.2 else cs)
  else cs

/-! ### The blocks -/

/-- PWR (R482 to R488). -/
def pwrWrite (o : Nat) (v : Word) (s : State) : State :=
  if o = 0x04 then { s with pwr := { s.pwr with quiesceMax := v.setWidth 8 } }
  else if o = 0x08 then { s with aon := { s.aon with wakeEn := v &&& (0xF3 ||| (glbCaps s.part >>> 8 &&& 0xFF00)) } }
  else if o = 0x0C then outState s (execPwrWakeCauseClear v s)
  else if o = 0x10 then { s with pwr := { s.pwr with fault := w1c s.pwr.fault (v &&& 0x1F) } }
  else if o = 0x14 then (if bitAt v 16 then outState s (execPeakClr s) else s)
  else { s with pwr := { s.pwr with ctrs := ctrPut 0x40 o v s.pwr.ctrs } }

/-- AON (R447 to R450). A half write of AON_TIMER acts as a write of the whole. -/
def aonWrite (o : Nat) (v : Word) (s : State) : State :=
  if o = 0x00 then { s with aon := { s.aon with por := s.aon.por && !bitAt v 1 } }
  else if o = 0x04 then { s with aon := { s.aon with src := v.setWidth 2 } }
  else if o = 0x0C then outState s (execAonAlarmClear v s)
  else if o = 0x18 ∨ o = 0x1C then
    { s with aon := { s.aon with nextSec := setHalf s.aon.nextSec (o == 0x1C) v } }
  else if o = 0x20 ∨ o = 0x24 then outState s (execAonTimerWrite (setHalf s.aon.timer (o == 0x24) v) s)
  else if h : 0x30 ≤ o ∧ o < 0x40 then
    (if o % 4 = 0 then
      syncAlarm { s with aon := { s.aon with cmpCfg := s.aon.cmpCfg.set ((o - 0x30) / 4) (v &&& 0x00FF7FFF) (by omega) } }
     else s)
  else if 0x100 + 4 * 20 ≤ o ∧ o < 0x180 then { s with aon := setRet ((o - 0x100) / 4) v s.aon }
  else { s with aon := { s.aon with ctrs := ctrPut 0x40 o v s.aon.ctrs } }

/-- EVT (R500 to R502). -/
def evtWrite (o : Nat) (v : Word) (s : State) : State :=
  if o = 0x04 then { s with evt := { s.evt with mask := (v >>> 1).setWidth 10 } }
  else if o = 0x08 then { s with evt := { s.evt with fault := w1c s.evt.fault v } }
  else if o = 0x18 ∨ o = 0x1C then
    outState s (execEvtRingConfigWrite false (setHalf s.evt.ringBase (o == 0x1C) v) s)
  else if o = 0x20 then outState s (execEvtRingConfigWrite true (v.setWidth 64) s)
  else if o = 0x28 then outState s (execEvtRingRdWrite v s)
  else { s with evt := { s.evt with ctrs := ctrPut 0x40 o v s.evt.ctrs } }

/-- A word of an entry of the MSI-X table: address, data, mask bit. -/
def msixPut (k : Nat) (v : Word) (m : MsixVec) : MsixVec :=
  match k with
  | 0 => { m with addr := setHalf m.addr false v }
  | 1 => { m with addr := setHalf m.addr true v }
  | 2 => { m with data := v }
  | _ => if bitAt v 0 then { m with masked := true } else unmask m

/-- HIF (R383, R389 to R392). -/
def hifWrite (o : Nat) (v : Word) (s : State) : State :=
  if o = 0x08 then { s with hif := { s.hif with fault := w1c s.hif.fault v } }
  else if o = 0x10 then { s with hif := { s.hif with opcode := v.setWidth 8 } }
  else if h : 0x14 ≤ o ∧ o < 0x24 then
    { s with hif := { s.hif with args := s.hif.args.set ((o - 0x14) / 4) v (by omega) } }
  else if o = 0x24 then outState s (execCmdDoorbell (v.setWidth 16) s)
  else if o = 0x28 then outState s (execHifResAck (v.setWidth 16) (bitAt v 16) s)
  else if h : 0x1000 ≤ o ∧ o < 0x1040 then
    { s with hif := { s.hif with msix := upd s.hif.msix ⟨(o - 0x1000) / 16, by omega⟩ (msixPut (o / 4 % 4) v) } }
  else { s with hif := { s.hif with ctrs := ctrPut 0x40 o v s.hif.ctrs } }

/-- SEC (R419 to R421). -/
def secWrite (o : Nat) (v : Word) (s : State) : State :=
  if o = 0x04 then { s with sec := { s.sec with fault := w1c s.sec.fault v } }
  else { s with sec := { s.sec with ctrs := ctrPut 0x40 o v s.sec.ctrs } }

/-- FLS (R362 to R365). -/
def flsWrite (o : Nat) (v : Word) (s : State) : State :=
  if o = 0x08 then { s with fls := { s.fls with thresh := v.setWidth 2 } }
  else if o = 0x0C then { s with fls := { s.fls with fault := w1c s.fls.fault v } }
  else if o = 0x18 then { s with fls := { s.fls with view := v.setWidth 4 } }
  else { s with fls := { s.fls with ctrs := ctrPut 0x40 o v s.fls.ctrs } }

/-- RNG (R215 to R217). -/
def rngWrite (o : Nat) (v : Word) (s : State) : State :=
  if o = 0x04 then { s with rng := { s.rng with fault := w1c s.rng.fault v } }
  else if o = 0x08 then { s with rng := { s.rng with view := v.setWidth 2 } }
  else { s with rng := { s.rng with ctrs := ctrPut 0x18 o v s.rng.ctrs } }

/-- STK (R243 to R250). -/
def stkWrite (o : Nat) (v : Word) (s : State) : State :=
  if o = 0x08 then outState s (execStkCfgWrite v s)
  else if o = 0x0C then { s with stk := { s.stk with fault := w1c s.stk.fault v } }
  else if o = 0x20 ∨ o = 0x24 then outState s (execStkSpillWrite false (setHalf s.stk.base (o == 0x24) v) s)
  else if o = 0x28 then outState s (execStkSpillWrite true (v.setWidth 64) s)
  else if o = 0x30 then { s with stk := { s.stk with view := v.setWidth 16 } }
  else { s with stk := { s.stk with ctrs := ctrPut 0x40 o v s.stk.ctrs } }

/-- FAB_LCTRL (R287): its bits act in ascending order. -/
def lctrlWrite (l : Fin 8) (v : Word) (s : State) : State :=
  let s1 := outState s (execFabDisable l (bitAt v 0) s)
  let s2 := if bitAt v 1 then outState s1 (execFabRestart l s1) else s1
  let s3 := if bitAt v 2 then outState s2 (execSendWake l s2) else s2
  if bitAt v 3 then outState s3 (execRetrainReq l s3) else s3

def linkWrite (l : Fin 8) (o : Nat) (v : Word) (s : State) : State :=
  if o = 0x04 then lctrlWrite l v s
  else if o = 0x08 then setLink l (fun x => { x with fault := w1c x.fault v }) s
  else setLink l (fun x => { x with ctrs := ctrPut 0x40 o v x.ctrs }) s

/-- The workshop registers (R290 to R293). -/
def wsWrite (o : Nat) (v : Word) (s : State) : State :=
  if o = 0x08 then outState s (execFabWsCfgWrite v s)
  else if o = 0x0C then { s with ws := { s.ws with fault := w1c s.ws.fault v } }
  else { s with ws := { s.ws with ctrs := ctrPut 0x18 o v s.ws.ctrs } }

/-- FAB (R285); registers of an absent link ignore writes (R7). -/
def fabWrite (o : Nat) (v : Word) (s : State) : State :=
  if h : o / 0x1000 < 8 then
    (if linkPresent s.part (o / 0x1000) then linkWrite ⟨o / 0x1000, h⟩ (o % 0x1000) v s else s)
  else if o / 0x1000 = 8 then wsWrite (o % 0x1000) v s
  else s

def slotOf (v : Word) : Fin 4 := (v.setWidth 2 : BitVec 2).toFin

/-- COL (R314 to R317). -/
def colWrite (o : Nat) (v : Word) (s : State) : State :=
  if o = 0x00 then { s with col := { s.col with view := slotOf v } }
  else if o = 0x08 then outState s (execColCfgWrite v s)
  else if o = 0x0C then { s with col := { s.col with fault := w1c s.col.fault v } }
  else { s with col := { s.col with ctrs := ctrPut 0x20 o v s.col.ctrs } }

/-- TRN (R161 to R168). -/
def trnWrite (o : Nat) (v : Word) (s : State) : State :=
  if o = 0x00 then { s with trn := { s.trn with viewJob := slotOf v, viewTensor := (v >>> 16).setWidth 16 } }
  else if o = 0x08 then { s with trn := { s.trn with fault := w1c s.trn.fault v } }
  else if o = 0x2C then outState s (execTrnStatFlagsClear v s)
  else if o = 0x84 then { s with trn := { s.trn with drops := if bitAt v 31 then Ctr.zero else s.trn.drops } }
  else if o = 0x100 ∨ o = 0x104 then outState s (execTrnTelConfigWrite false (setHalf s.trn.telBase (o == 0x104) v) s)
  else if o = 0x108 then outState s (execTrnTelConfigWrite true (v.setWidth 64) s)
  else if o = 0x110 then outState s (execTrnTelRdWrite v s)
  else setJob s.trn.viewJob (fun x => { x with trn := ctrPut 0x50 o v x.trn }) s

/-- SEQ_LAT_MISS at 0x20, then SEQ_KERF, SEQ_RERUNS and SEQ_REPLAYS from 0x30 on. -/
def seqCtrPut (o : Nat) (v : Word) (cs : Vector Ctr 4) : Vector Ctr 4 :=
  if o = 0x24 then ctrPut 0x20 o v cs else if 0x30 ≤ o then ctrPut 0x28 o v cs else cs

/-- SEQ (R196 to R198). -/
def seqWrite (o : Nat) (v : Word) (s : State) : State :=
  if o = 0x00 then { s with sq := { s.sq with view := slotOf v } }
  else if o = 0x08 then { s with sq := { s.sq with fault := w1c s.sq.fault v } }
  else if o = 0x18 ∨ o = 0x1C then setJob s.sq.view (fun x => { x with latMax := setHalf x.latMax (o == 0x1C) v }) s
  else if o = 0x2C then { s with sq := { s.sq with slices := if bitAt v 31 then Ctr.zero else s.sq.slices } }
  else setJob s.sq.view (fun x => { x with seq := seqCtrPut o v x.seq }) s

/-- BNC (R89 to R94). -/
def bncWrite (n : Fin 4) (o : Nat) (v : Word) (s : State) : State :=
  if o = 0x08 then outState s (execBncCfgWrite n v s)
  else if o = 0x0C then setBnc n (fun x => { x with fault := w1c x.fault v }) s
  else setBnc n (fun x => { x with ctrs := ctrPut 0x18 o v x.ctrs }) s

/-- PLN (R123 to R127). -/
def plnWrite (n : Fin 16) (o : Nat) (v : Word) (s : State) : State :=
  if o = 0x08 then outState s (execPlnCfgWrite n v s)
  else if o = 0x0C then setPln n (fun x => { x with fault := w1c x.fault v }) s
  else setPln n (fun x => { x with ctrs := ctrPut 0x18 o v x.ctrs }) s

/-- LTH (R128, R130). -/
def lthWrite (n : Fin 4) (o : Nat) (v : Word) (s : State) : State :=
  if o = 0x08 then setLth n (fun x => { x with fault := w1c x.fault v }) s
  else setLth n (fun x => { x with ctrs := ctrPut 0x40 o v x.ctrs }) s

/-- SNS (R444, R446); registers of an absent port ignore writes (R7). -/
def snsWrite (n : Fin 24) (o : Nat) (v : Word) (s : State) : State :=
  if !portPresent s.part n.val then s
  else if o = 0x08 then setSns n (fun x => { x with fault := w1c x.fault v }) s
  else setSns n (fun x => { x with ctrs := ctrPut 0x40 o v x.ctrs }) s

/-! ### The address map (R490) -/

/-- A 4-byte write at an offset of BAR0. -/
def writeAt (off : Nat) (v : Word) (s : State) : State :=
  let o := off % 0x10000
  match off / 0x10000 with
  | 0x0 => s
  | 0x1 => pwrWrite o v s
  | 0x2 => aonWrite o v s
  | 0x3 => evtWrite o v s
  | 0x4 => hifWrite o v s
  | 0x5 => secWrite o v s
  | 0x6 => flsWrite o v s
  | 0x7 => rngWrite o v s
  | 0x8 => stkWrite o v s
  | 0x9 => fabWrite o v s
  | 0xA => colWrite o v s
  | 0xB => trnWrite o v s
  | 0xC => seqWrite o v s
  | _ =>
    if 0x100000 ≤ off ∧ off < 0x200000 then bncWrite (Fin.ofNat 4 ((off - 0x100000) / 0x40000)) (off % 0x40000) v s
    else if 0x200000 ≤ off ∧ off < 0x280000 then plnWrite (Fin.ofNat 16 ((off - 0x200000) / 0x8000)) (off % 0x8000) v s
    else if 0x280000 ≤ off ∧ off < 0x290000 then lthWrite (Fin.ofNat 4 ((off - 0x280000) / 0x4000)) (off % 0x4000) v s
    else if 0x300000 ≤ off ∧ off < 0x306000 then snsWrite (Fin.ofNat 24 ((off - 0x300000) / 0x400)) (off % 0x400) v s
    else s

/-- A write that a block answers to: in SLEEP only the first five (R458). -/
def writeReg (off : Nat) (v : Word) (s : State) : State := if served s off then writeAt off v s else s

/-- An 8-byte write: a 64-bit register whose write acts takes it whole, and any other pair of words takes it as two
writes, the lower first. -/
def writeReg64 (off : Nat) (v : DWord) (s : State) : State :=
  if !served s off then s
  else if off = 0x20020 then outState s (execAonTimerWrite v s)
  else if off = 0x30018 then outState s (execEvtRingConfigWrite false v s)
  else if off = 0x80020 then outState s (execStkSpillWrite false v s)
  else if off = 0xB0100 then outState s (execTrnTelConfigWrite false v s)
  else writeReg (off + 4) (hiWord v) (writeReg off (loWord v) s)

/-- R13, R369: a write that is not naturally aligned is ignored. -/
def execRegisterWrite (off : BitVec 24) (wide : Bool) (v : DWord) (s : State) : Out :=
  if !hostPath s || off.toNat % (if wide then 8 else 4) != 0 then .next s
  else if wide then .next (writeReg64 off.toNat v s)
  else .next (writeReg off.toNat (loWord v) s)

end Sys2Proof.Machine
end

