-- ==== Sys2Proof/Machine/Security.lean ====
section
/-! DEFINITION. The commands of the security unit (14_security.md): ATTEST, KEY_RELEASE, CONTAINER_CHUNK, KEY_UPDATE,
TENANT_END and the expiry of a held key. -/

namespace Sys2Proof.Machine

/-! ### ATTEST (R399 to R402) -/

def hostAddr (c : Cmd) : Nat := c.a0.toNat + c.a1.toNat * 2 ^ 32

def attestRun (c : Cmd) (r : AttestReq) (p : Pend) (s : State) : State :=
  let session := bitAt c.a2 0
  let peer := if session then some r.hostPub else none
  let addr := BitVec.ofNat 64 (hostAddr c)
  let n := attestOutputs session
  if hostAddr c % 4096 ≠ 0 ∨ !r.accessible then endWith p stBadArg s
  else if s.rng.state == .failed then endWith p stRefused s
  else if s.sec.reportNext = BitVec.allOnes 64 then endWith p stExhausted s
  else if outputsReady n s then writeReport p r.challenge addr peer (takeOutputs n s)
  else
    askRng ⟨.attest p r.challenge addr peer, n⟩ (startPending p s)

def execAttest (c : Cmd) (r : AttestReq) (s : State) : Out := runCmd c 0x40 (bitsFrom c.a2 1) (attestRun c r) s

/-! ### KEY_RELEASE (R403 to R407) -/

/-- The fields of a release blob. -/
def blobKey (b : List Byte) : Nat := leField b 4 1
def blobFlags (b : List Byte) : Nat := leField b 5 1
def blobReport (b : List Byte) : DWord := BitVec.ofNat 64 (leField b 8 8)

/-- The first check of R405, on a blob that could be read: 208 bytes, MAGIC, and reserved fields of zero. -/
def blobOk (c : Cmd) (b : List Byte) : Bool :=
  c.a2 == 208 && b.length == 208 && leField b 0 4 == 0x314C524B && leField b 6 2 == 0 && leField b 0x71 15 == 0 &&
    leField b 0x8C 4 == 0 && decide (blobFlags b < 2) && decide (blobKey b < 4)

/-- The wrapping key (R404), from the held ephemeral key, BROKER_PUB and the digest of the named report. -/
def wrapKey (h : Held) (b : List Byte) (s : State) : List Byte :=
  let z := beBytes 48 (Config.ecdhX h.key ((b.drop 0x10).take 97)).toNat
  let info := [0x48, 0x4B, 0x52, 0x31] ++ leBytes 8 s.serial.toNat ++ leBytes 1 (blobKey b)
  hkdf384 (digestBytes h.digest) z info 32

/-- The model key, where the tag verifies. -/
def unwrapKey (h : Held) (b : List Byte) (s : State) : Option (List Byte) :=
  gcmOpen (wrapKey h b s) ((b.drop 0x80).take 12) (b.take 0x90) ((b.drop 0x90).take 32) ((b.drop 0xB0).take 16)

/-- The held key of a report is erased (R401). -/
def dropHeld (id : DWord) (s : State) : State :=
  { s with sec := { s.sec with held := s.sec.held.filter fun h => h.reportId != id } }

/-- The key is installed; its load starts, or waits for the first JOB_START that names it. -/
def installKey (k : Fin 4) (key b : List Byte) (p : Pend) (s : State) : State :=
  let now := keyWanted s k.val
  let l : Load := ⟨if now then some p else none, BitVec.ofNat 64 (leField b 0xC0 8), BitVec.ofNat 64 (leField b 0xC8 8), now, 0, []⟩
  let s1 := { s with sec := { s.sec with keys := s.sec.keys.set k (some ⟨key, blobFlags b == 1, false, some l⟩) } }
  let s2 := startPending p (post (ev 0x0602) (bumpSec 1 1 s1))
  if now then s2 else endWith p stDone s2

/-- A release whose tag fails. -/
def releaseFails (k : Fin 4) (p : Pend) (s : State) : State :=
  endWith p stAuthFail (post { ev 0x0603 with status := stAuthFail } (bumpSec 2 1 (secFault 0 k.val stAuthFail.toNat s)))

/-- The checks of R405, in order, on a blob; none is a blob that cannot be read. -/
def keyReleaseRun (c : Cmd) (blob : Option (List Byte)) (p : Pend) (s : State) : State :=
  match blob.filter (blobOk c) with
  | none => endWith p stBadArg s
  | some b =>
    let k : Fin 4 := slotFin (blobKey b)
    match s.sec.held.find? fun h => h.reportId == blobReport b with
    | none => endWith p stRefused s
    | some h =>
      if (s.sec.keys[k]).isSome then endWith p stRefused s
      else if blobFlags b == 1 && s.mgmt.debugOpen then endWith p stRefused s
      else
        let s1 := dropHeld h.reportId s
        match unwrapKey h b s with
        | some key => installKey k key b p s1
        | none => releaseFails k p s1

def execKeyRelease (c : Cmd) (blob : Option (List Byte)) (s : State) : Out :=
  runCmd c 0x41 false (keyReleaseRun c blob) s

/-! ### CONTAINER_CHUNK (R406) -/

/-- The next chunk's bytes arrive for the load under way. -/
def execContainerChunk (key : Fin 4) (bytes : List Byte) (s : State) : Out :=
  match loadOf s key with
  | none => .next s
  | some l =>
    if !running s then .next s
    else
      let ch := readChunk (modelKey key s) bytes
      match chunkRefusal key ch l s with
      | some st => .next (loadFail key st l s)
      | none => .next (chunkIn key ch l s)

/-! ### KEY_UPDATE (R410) -/

def keyUpdateRun (c : Cmd) (m : List Byte) (authOk : Bool) (p : Pend) (s : State) : State :=
  if c.origin == .mailbox && c.a0.toNat % 4096 != 0 then endWith p stBadArg s
  else if keyTask s then endWith p stBusy s
  else
    match takeBounce c 0x42 c.a0.toNat none m s with
    | (.inl st, s1) => endWith p st s1
    | (.inr body, s1) => updateKeyStore c.a1 (bitAt c.a2 0) (Config.ksContent body) authOk p s1

def execKeyUpdate (c : Cmd) (m : List Byte) (authOk : Bool) (s : State) : Out :=
  runCmd c 0x42 (bitsFrom c.a2 1) (keyUpdateRun c m authOk) s

/-! ### TENANT_END (R417) -/

/-- Steps 1 to 4; step 5 begins once a KEY_UPDATE under way has completed. -/
def tenantEndRun (ms : Word) (p : Pend) (s : State) : State :=
  if s.rng.state == .failed then endWith p stRefused s
  else
    let s1 := startPending p s
    let s2 := eachSlot tenantStop { s1 with sec := { s1.sec with tending := true, tend := some (p, ms) } }
    tenantDraw (tenantClose (tenantLinks { s2 with ws := Ws.reset }))

def execTenantEnd (c : Cmd) (ms : Word) (s : State) : Out := runCmd c 0x50 false (tenantEndRun ms) s

/-! ### A held key expires (R401) -/

/-- A held key is erased 600 s after its report. -/
def heldOld (id : DWord) (s : State) : Bool :=
  s.sec.held.any fun h => h.reportId == id && decide (h.time.toNat + 600000000000 ≤ s.aon.time.toNat)

def execEphemeralKeyExpiry (reportId : DWord) (s : State) : Out :=
  if awake s && heldOld reportId s then .next (dropHeld reportId s) else .next s

end Sys2Proof.Machine
end

