-- ==== Sys2Proof/Machine/Sensors.lean ====
section
/-! DEFINITION. The sensor ports (R423 to R433): frame-syncs, words, ring entries, and the input clock. -/

namespace Sys2Proof.Machine

/-- A port that captures (R423, R433). -/
def portLive (p : Fin 24) (s : State) : Bool :=
  running s && portPresent s.part p.val && bitAt (s.sns[p]).cfg 0 && (s.sns[p]).capturing

/-- Edges sample the port's lines: its clock is an output, or present. -/
def clocked (x : Port) : Bool := bitAt x.cfg 1 || x.clk

/-! ### Frames (R425 to R427) -/

/-- DISC of a frame: the timekeeper is disciplined from PPS_IN. -/
def discNow (s : State) : Bool := s.aon.tk == .disciplined && !s.aon.srcUsed

/-- A new frame: it carries GAP where one is due, and where the frame before it, without a word, was to carry it. -/
def beginFrame (t : DWord) (disc : Bool) (x : Port) : Port :=
  { x with frame := some t, word := 0, frameGap := x.gap || (x.frame.isSome && x.frameGap && x.word == 0), gap := false,
           disc := disc, lastFs := t, seen := true }

def frameRun (p : Fin 24) (partialWord : Bool) (s : State) : State :=
  let s1 := if partialWord && (s.sns[p]).frame.isSome then bumpSns p 2 1 s else s
  bumpSns p 1 1 (setSns p (beginFrame s.aon.time (discNow s)) s1)

def execFrameSync (p : Fin 24) (partialWord : Bool) (s : State) : Out :=
  if portLive p s && clocked (s.sns[p]) then .next (frameRun p partialWord s) else .next s

/-! ### Words (R429, R430) -/

/-- WLEN_M1 + 1. -/
def wordBits (x : Port) : Nat := bitsNat x.cfg 15 11 + 1

/-- The word that n sampled bits make, the first sampled in bit 0 of `w`: it is the word's bit 0, or its MSB (R425). -/
def assemble (x : Port) (w : Word) : Word :=
  let n := wordBits x
  if bitAt x.cfg 16 then BitVec.ofNat 32 (((List.range n).map fun i => if bitAt w i then 2 ^ (n - 1 - i) else 0).sum)
  else BitVec.ofNat 32 (w.toNat % 2 ^ n)

/-- The entry of word number n of a frame. -/
def entryFor (p : Fin 24) (t : DWord) (n : Nat) (w : Word) (x : Port) : RingEntry :=
  { time := t, data := assemble x w, index := BitVec.ofNat 16 (min n 65535),
    port := BitVec.ofNat 5 p.val,
    flags := BitVec.ofNat 8 ((if x.disc then 1 else 0) + (if x.frameGap then 2 else 0) + (if 65536 ≤ n then 4 else 0)) }

/-- A word that finds the buffer full is lost; the event comes once for a burst. -/
def loseWord (p : Fin 24) (s : State) : State :=
  let first := !(s.sns[p]).burst
  let s1 := bumpSns p 3 1 (setSns p (fun x =>
    { x with word := x.word + 1, fault := orBit x.fault 0, gap := true, burst := true }) s)
  postIf first { ev 0x0A01 with inst := BitVec.ofNat 8 p.val } s1

def wordRun (p : Fin 24) (t : DWord) (w : Word) (s : State) : State :=
  if 256 ≤ (s.sns[p]).buf.length then loseWord p s
  else bumpSns p 0 1 (setSns p (fun x =>
    { x with buf := x.buf ++ [entryFor p t x.word w x], word := x.word + 1, burst := false }) s)

def execSensorWord (p : Fin 24) (w : Word) (s : State) : Out :=
  match (s.sns[p]).frame with
  | some t => if portLive p s && clocked (s.sns[p]) then .next (wordRun p t w s) else .next s
  | none => .next s

/-- The oldest buffered entry goes to slot k mod 2^RING_LOG2. -/
def ringPut (x : Port) : Port :=
  match x.buf with
  | [] => x
  | e :: rest =>
    { x with buf := rest, wrCount := x.wrCount + 1,
             ring := tabPut (x.wrCount.toNat % 2 ^ bitsNat x.cfg 24 20) e x.ring }

def execRingEntryWrite (p : Fin 24) (s : State) : Out :=
  if running s && portPresent s.part p.val then .next (setSns p ringPut s) else .next s

/-! ### The input clock (R426) -/

/-- An enabled port whose clock is an input. -/
def inputClock (p : Fin 24) (s : State) : Bool :=
  running s && portPresent s.part p.val && bitAt (s.sns[p]).cfg 0 && !bitAt (s.sns[p]).cfg 1

def clkLossRun (p : Fin 24) (s : State) : State :=
  post { ev 0x0A02 with inst := BitVec.ofNat 8 p.val }
    (bumpSns p 4 1 (setSns p (fun x => { x with clk := false, fault := orBit x.fault 1, frame := none, word := 0 }) s))

def execSnsClkLoss (p : Fin 24) (s : State) : Out :=
  if inputClock p s && (s.sns[p]).clk then .next (clkLossRun p s) else .next s

def execClkPresent (p : Fin 24) (s : State) : Out :=
  if inputClock p s then .next (setSns p (fun x => { x with clk := true }) s) else .next s

end Sys2Proof.Machine
end

