-- ==== Sys2Proof/Machine/Dispatch.lean ====
section
/-! DEFINITION. The dispatch: one arm per command of spec/opcode_table.json, each one direct call of its
meaning. -/

namespace Sys2Proof.Machine

def exec (i : Instr) (s : State) : Host.Outcome State Fault Refusal :=
  match i with
  | .cmdDoorbell seq => Sys2Proof.Machine.execCmdDoorbell seq s
  | .hifResAck seq final => Sys2Proof.Machine.execHifResAck seq final s
  | .unknownOpcode c op => Sys2Proof.Machine.execUnknownOpcode c op s
  | .setPower c => Sys2Proof.Machine.execSetPower c s
  | .setPerf c => Sys2Proof.Machine.execSetPerf c s
  | .imageOpen c => Sys2Proof.Machine.execImageOpen c s
  | .imageWrite c m => Sys2Proof.Machine.execImageWrite c m s
  | .imageCommit c v => Sys2Proof.Machine.execImageCommit c v s
  | .imageSelect c => Sys2Proof.Machine.execImageSelect c s
  | .jobStart c => Sys2Proof.Machine.execJobStart c s
  | .jobStartRestore c parts ok => Sys2Proof.Machine.execJobStartRestore c parts ok s
  | .jobStop c => Sys2Proof.Machine.execJobStop c s
  | .snapshot c => Sys2Proof.Machine.execSnapshot c s
  | .replay c => Sys2Proof.Machine.execReplay c s
  | .selftest c => Sys2Proof.Machine.execSelftest c s
  | .retrain c => Sys2Proof.Machine.execRetrain c s
  | .attest c r => Sys2Proof.Machine.execAttest c r s
  | .keyRelease c b => Sys2Proof.Machine.execKeyRelease c b s
  | .containerChunk key ch => Sys2Proof.Machine.execContainerChunk key ch s
  | .keyUpdate c m authOk => Sys2Proof.Machine.execKeyUpdate c m authOk s
  | .tenantEnd c ms => Sys2Proof.Machine.execTenantEnd c ms s
  | .flashUnlock c => Sys2Proof.Machine.execFlashUnlock c s
  | .flashLockClose c => Sys2Proof.Machine.execFlashLockClose c s
  | .flashLockSetPasswordLocked c => Sys2Proof.Machine.execFlashLockSetPasswordLocked c s
  | .flashLockSetPermanent c => Sys2Proof.Machine.execFlashLockSetPermanent c s
  | .flashLockSetUnlocked c => Sys2Proof.Machine.execFlashLockSetUnlocked c s
  | .flashLockSetPassword c => Sys2Proof.Machine.execFlashLockSetPassword c s
  | .perstN => Sys2Proof.Machine.execPerstN s
  | .mgmtSessionOpen who => Sys2Proof.Machine.execMgmtSessionOpen who s
  | .mgmtSessionIdleTimeout => Sys2Proof.Machine.execMgmtSessionIdleTimeout s
  | .mgmtSessionClose => Sys2Proof.Machine.execMgmtSessionClose s
  | .telemetryStream c => Sys2Proof.Machine.execTelemetryStream c s
  | .logRead c => Sys2Proof.Machine.execLogRead c s
  | .debugOpen c => Sys2Proof.Machine.execDebugOpen c s
  | .debugClose c => Sys2Proof.Machine.execDebugClose c s
  | .fwUpdate c f data => Sys2Proof.Machine.execFwUpdate c f data s
  | .credUpdate c root bytes => Sys2Proof.Machine.execCredUpdate c root bytes s
  | .certUpdate c serial bytes => Sys2Proof.Machine.execCertUpdate c serial bytes s
  | .commission c claim ports bytes => Sys2Proof.Machine.execCommission c claim ports bytes s
  | .userFile c region op => Sys2Proof.Machine.execUserFile c region op s
  | .rngCapture c => Sys2Proof.Machine.execRngCapture c s
  | .keyProvision c u => Sys2Proof.Machine.execKeyProvision c u s
  | .powerSet data pecOk => Sys2Proof.Machine.execPowerSet data pecOk s
  | .powerGet => Sys2Proof.Machine.execPowerGet s
  | .wakeCause => Sys2Proof.Machine.execWakeCause s
  | .ident => Sys2Proof.Machine.execIdent s
  | .wakeN => Sys2Proof.Machine.execWakeN s
  | .modRstN => Sys2Proof.Machine.execModRstN s
  | .supply12vLoss => Sys2Proof.Machine.execSupply12vLoss s
  | .supply12vApplied => Sys2Proof.Machine.execSupply12vApplied s
  | .aonPor => Sys2Proof.Machine.execAonPor s
  | .railFault r => Sys2Proof.Machine.execRailFault r s
  | .railPowerGood r => Sys2Proof.Machine.execRailPowerGood r s
  | .railStepTimeout => Sys2Proof.Machine.execRailStepTimeout s
  | .quiesceTimeout => Sys2Proof.Machine.execQuiesceTimeout s
  | .thermalSample t => Sys2Proof.Machine.execThermalSample t s
  | .throttleRelax => Sys2Proof.Machine.execThrottleRelax s
  | .thermalShutdown t => Sys2Proof.Machine.execThermalShutdown t s
  | .thermalWakeHoldEnd => Sys2Proof.Machine.execThermalWakeHoldEnd s
  | .watchdogExpiry => Sys2Proof.Machine.execWatchdogExpiry s
  | .mgmtCoreResume => Sys2Proof.Machine.execMgmtCoreResume s
  | .imageVerifyDone sigOk reads ksWeak => Sys2Proof.Machine.execImageVerifyDone sigOk reads ksWeak s
  | .trainingDone => Sys2Proof.Machine.execTrainingDone s
  | .parseComplete body ms => Sys2Proof.Machine.execParseComplete body ms s
  | .bootTimeout => Sys2Proof.Machine.execBootTimeout s
  | .rngWindowDone => Sys2Proof.Machine.execRngWindowDone s
  | .rngRctFail => Sys2Proof.Machine.execRngRctFail s
  | .rngAptFail => Sys2Proof.Machine.execRngAptFail s
  | .rngRequestServed => Sys2Proof.Machine.execRngRequestServed s
  | .benchPass b => Sys2Proof.Machine.execBenchPass b s
  | .benchWeightLoad b cy ecc => Sys2Proof.Machine.execBenchWeightLoad b cy ecc s
  | .benchActivationRead b cy ecc => Sys2Proof.Machine.execBenchActivationRead b cy ecc s
  | .benchOutputWrite b cy => Sys2Proof.Machine.execBenchOutputWrite b cy s
  | .bncWaitTimeout b => Sys2Proof.Machine.execBncWaitTimeout b s
  | .benchSelftestDone b ok => Sys2Proof.Machine.execBenchSelftestDone b ok s
  | .bncCfgWrite b v => Sys2Proof.Machine.execBncCfgWrite b v s
  | .planeArith p x => Sys2Proof.Machine.execPlaneArith p x s
  | .planeCmpSelect p x => Sys2Proof.Machine.execPlaneCmpSelect p x s
  | .planeConvert p x => Sys2Proof.Machine.execPlaneConvert p x s
  | .planeScalar p x => Sys2Proof.Machine.execPlaneScalar p x s
  | .planeLoad p x ecc => Sys2Proof.Machine.execPlaneLoad p x ecc s
  | .planeStore p x => Sys2Proof.Machine.execPlaneStore p x s
  | .planeGather p x ecc => Sys2Proof.Machine.execPlaneGather p x ecc s
  | .planeScatter p x => Sys2Proof.Machine.execPlaneScatter p x s
  | .scatterAdd p x e => Sys2Proof.Machine.execScatterAdd p x e s
  | .planeReduce p x => Sys2Proof.Machine.execPlaneReduce p x s
  | .accRead p x => Sys2Proof.Machine.execAccRead p x s
  | .latheRequest p x => Sys2Proof.Machine.execLatheRequest p x s
  | .latheGrant l => Sys2Proof.Machine.execLatheGrant l s
  | .mask p x => Sys2Proof.Machine.execMask p x s
  | .rawWord p x => Sys2Proof.Machine.execRawWord p x s
  | .uniform p x => Sys2Proof.Machine.execUniform p x s
  | .planeWait p slot => Sys2Proof.Machine.execPlaneWait p slot s
  | .planeSignal p x => Sys2Proof.Machine.execPlaneSignal p x s
  | .plnWaitTimeout p => Sys2Proof.Machine.execPlnWaitTimeout p s
  | .softmax p x e => Sys2Proof.Machine.execSoftmax p x e s
  | .normStats p x e => Sys2Proof.Machine.execNormStats p x e s
  | .normCombine p a b x => Sys2Proof.Machine.execNormCombine p a b x s
  | .plnCfgWrite p v => Sys2Proof.Machine.execPlnCfgWrite p v s
  | .planeSelftestDone p ok => Sys2Proof.Machine.execPlaneSelftestDone p ok s
  | .latheSelftestDone l ok => Sys2Proof.Machine.execLatheSelftestDone l ok s
  | .jobHoldRelease j => Sys2Proof.Machine.execJobHoldRelease j s
  | .stepStart j samples => Sys2Proof.Machine.execStepStart j samples s
  | .scheduleEntryStart b => Sys2Proof.Machine.execScheduleEntryStart b s
  | .inferenceTriggerPeriod j => Sys2Proof.Machine.execInferenceTriggerPeriod j s
  | .inferenceTriggerRing j => Sys2Proof.Machine.execInferenceTriggerRing j s
  | .inferenceRequestDeferredStart j => Sys2Proof.Machine.execInferenceRequestDeferredStart j s
  | .gradPartialAdd j t mb at_ ecc => Sys2Proof.Machine.execGradPartialAdd j t mb at_ ecc s
  | .glueEnter j t ecc => Sys2Proof.Machine.execGlueEnter j t ecc s
  | .clampFactor j t => Sys2Proof.Machine.execClampFactor j t s
  | .optimizerAdamw j t ecc => Sys2Proof.Machine.execOptimizerAdamw j t ecc s
  | .optimizerSgdm j t ecc => Sys2Proof.Machine.execOptimizerSgdm j t ecc s
  | .optimizerReaderWaitEnd j cycles => Sys2Proof.Machine.execOptimizerReaderWaitEnd j cycles s
  | .readySend j => Sys2Proof.Machine.execReadySend j s
  | .ready l h job step => Sys2Proof.Machine.execReady l h job step s
  | .commit l h job step => Sys2Proof.Machine.execCommit l h job step s
  | .snapshotStagingDone j ecc => Sys2Proof.Machine.execSnapshotStagingDone j ecc s
  | .snapshotExportDone j ok ecc => Sys2Proof.Machine.execSnapshotExportDone j ok ecc s
  | .trnTelConfigWrite size v => Sys2Proof.Machine.execTrnTelConfigWrite size v s
  | .trnTelRdWrite v => Sys2Proof.Machine.execTrnTelRdWrite v s
  | .trnStatFlagsClear v => Sys2Proof.Machine.execTrnStatFlagsClear v s
  | .heartbeat l h => Sys2Proof.Machine.execHeartbeat l h s
  | .beat l h => Sys2Proof.Machine.execBeat l h s
  | .heartbeatDue => Sys2Proof.Machine.execHeartbeatDue s
  | .beatDue => Sys2Proof.Machine.execBeatDue s
  | .heartbeatMissed rank => Sys2Proof.Machine.execHeartbeatMissed rank s
  | .beatMissed => Sys2Proof.Machine.execBeatMissed s
  | .quiesceLimitExpiry rank => Sys2Proof.Machine.execQuiesceLimitExpiry rank s
  | .acceptTimeout rank => Sys2Proof.Machine.execAcceptTimeout rank s
  | .stop l h job step => Sys2Proof.Machine.execStop l h job step s
  | .abort l h job step => Sys2Proof.Machine.execAbort l h job step s
  | .linkUp l h x => Sys2Proof.Machine.execLinkUp l h x s
  | .linkDown l h x => Sys2Proof.Machine.execLinkDown l h x s
  | .join l h r => Sys2Proof.Machine.execJoin l h r s
  | .joinRefused l h => Sys2Proof.Machine.execJoinRefused l h s
  | .joinRepeat => Sys2Proof.Machine.execJoinRepeat s
  | .formWaitExpiry reach => Sys2Proof.Machine.execFormWaitExpiry reach s
  | .propose l h p => Sys2Proof.Machine.execPropose l h p s
  | .accept l h epoch view => Sys2Proof.Machine.execAccept l h epoch view s
  | .enact l h e => Sys2Proof.Machine.execEnact l h e s
  | .leave l h => Sys2Proof.Machine.execLeave l h s
  | .lastCommitted l h query job step committed => Sys2Proof.Machine.execLastCommitted l h query job step committed s
  | .snapReq l h job named => Sys2Proof.Machine.execSnapReq l h job named s
  | .time l h t1 t2 t3 t4 => Sys2Proof.Machine.execTime l h t1 t2 t3 t4 s
  | .timeExchangeDue => Sys2Proof.Machine.execTimeExchangeDue s
  | .retrainNote l h => Sys2Proof.Machine.execRetrainNote l h s
  | .dissolve l h wsId => Sys2Proof.Machine.execDissolve l h wsId s
  | .replayReq l h job named => Sys2Proof.Machine.execReplayReq l h job named s
  | .replayResult l h job o => Sys2Proof.Machine.execReplayResult l h job o s
  | .restoreOffer l h job m => Sys2Proof.Machine.execRestoreOffer l h job m s
  | .messageForward l h p => Sys2Proof.Machine.execMessageForward l h p s
  | .signalDetect l => Sys2Proof.Machine.execSignalDetect l s
  | .trainTimeout l => Sys2Proof.Machine.execTrainTimeout l s
  | .trainRetryDue l => Sys2Proof.Machine.execTrainRetryDue l s
  | .hello l m => Sys2Proof.Machine.execHello l m s
  | .helloResendDue l => Sys2Proof.Machine.execHelloResendDue l s
  | .helloTimeout l => Sys2Proof.Machine.execHelloTimeout l s
  | .keysOnTimeout l => Sys2Proof.Machine.execKeysOnTimeout l s
  | .notAdmittedHelloDue l => Sys2Proof.Machine.execNotAdmittedHelloDue l s
  | .linkFlit l f => Sys2Proof.Machine.execLinkFlit l f s
  | .quiesceFlit l rx b => Sys2Proof.Machine.execQuiesceFlit l rx b s
  | .linkFlitDue l => Sys2Proof.Machine.execLinkFlitDue l s
  | .retxTimeout l => Sys2Proof.Machine.execRetxTimeout l s
  | .tagFailLimit l => Sys2Proof.Machine.execTagFailLimit l s
  | .los l => Sys2Proof.Machine.execLos l s
  | .rekeyStart l => Sys2Proof.Machine.execRekeyStart l s
  | .keySwitch l tx => Sys2Proof.Machine.execKeySwitch l tx s
  | .rekeyRetryDue l => Sys2Proof.Machine.execRekeyRetryDue l s
  | .rekeyLate l => Sys2Proof.Machine.execRekeyLate l s
  | .linkExhausted l => Sys2Proof.Machine.execLinkExhausted l s
  | .fecErrorBurst l uncorr corr => Sys2Proof.Machine.execFecErrorBurst l uncorr corr s
  | .linkMarginLow l vMin hMin lane => Sys2Proof.Machine.execLinkMarginLow l vMin hMin lane s
  | .linkRetrainDone l => Sys2Proof.Machine.execLinkRetrainDone l s
  | .linkRetrainTimeout l => Sys2Proof.Machine.execLinkRetrainTimeout l s
  | .fabDisable l on => Sys2Proof.Machine.execFabDisable l on s
  | .fabRestart l => Sys2Proof.Machine.execFabRestart l s
  | .sendWake l => Sys2Proof.Machine.execSendWake l s
  | .retrainReq l => Sys2Proof.Machine.execRetrainReq l s
  | .wakePattern l => Sys2Proof.Machine.execWakePattern l s
  | .fabWsCfgWrite v => Sys2Proof.Machine.execFabWsCfgWrite v s
  | .glue l h ch xs ecc => Sys2Proof.Machine.execGlue l h ch xs ecc s
  | .glueOut l h ch xs => Sys2Proof.Machine.execGlueOut l h ch xs s
  | .glueDirect l h ch xs => Sys2Proof.Machine.execGlueDirect l h ch xs s
  | .gather l h ch xs => Sys2Proof.Machine.execGather l h ch xs s
  | .tally l h ch t => Sys2Proof.Machine.execTally l h ch t s
  | .norm l h ch xs => Sys2Proof.Machine.execNorm l h ch xs s
  | .peerReq l h ch x => Sys2Proof.Machine.execPeerReq l h ch x s
  | .peerGrant l h ch => Sys2Proof.Machine.execPeerGrant l h ch s
  | .peerData l h ch row last xs => Sys2Proof.Machine.execPeerData l h ch row last xs s
  | .peerDone l h ch => Sys2Proof.Machine.execPeerDone l h ch s
  | .expDispatch l h ch xs => Sys2Proof.Machine.execExpDispatch l h ch xs s
  | .expReturn l h ch xs => Sys2Proof.Machine.execExpReturn l h ch xs s
  | .stateReq l h ch ecc => Sys2Proof.Machine.execStateReq l h ch ecc s
  | .stateData l h ch xs r => Sys2Proof.Machine.execStateData l h ch xs r s
  | .colTimeout j t rank => Sys2Proof.Machine.execColTimeout j t rank s
  | .colCfgWrite v => Sys2Proof.Machine.execColCfgWrite v s
  | .copy e ecc => Sys2Proof.Machine.execCopy e ecc s
  | .copySignal e => Sys2Proof.Machine.execCopySignal e s
  | .ringWindow e ecc => Sys2Proof.Machine.execRingWindow e ecc s
  | .copyFree e => Sys2Proof.Machine.execCopyFree e s
  | .stkWaitTimeout e => Sys2Proof.Machine.execStkWaitTimeout e s
  | .pageOut h frame => Sys2Proof.Machine.execPageOut h frame s
  | .pageIn h frame r => Sys2Proof.Machine.execPageIn h frame r s
  | .spillTimeout h frame => Sys2Proof.Machine.execSpillTimeout h frame s
  | .patrolScrub h block found => Sys2Proof.Machine.execPatrolScrub h block found s
  | .imbalanceWindow => Sys2Proof.Machine.execImbalanceWindow s
  | .dramCorrBurst d => Sys2Proof.Machine.execDramCorrBurst d s
  | .dramMarginLow d => Sys2Proof.Machine.execDramMarginLow d s
  | .dramRetrainDone d ok => Sys2Proof.Machine.execDramRetrainDone d ok s
  | .stkCfgWrite v => Sys2Proof.Machine.execStkCfgWrite v s
  | .stkSpillWrite slots v => Sys2Proof.Machine.execStkSpillWrite slots v s
  | .flashQueueIssue => Sys2Proof.Machine.execFlashQueueIssue s
  | .flashProgramDone ok marginOk => Sys2Proof.Machine.execFlashProgramDone ok marginOk s
  | .flashEraseDone ok marginOk => Sys2Proof.Machine.execFlashEraseDone ok marginOk s
  | .frameSync p partialWord => Sys2Proof.Machine.execFrameSync p partialWord s
  | .sensorWord p w => Sys2Proof.Machine.execSensorWord p w s
  | .ringEntryWrite p => Sys2Proof.Machine.execRingEntryWrite p s
  | .snsClkLoss p => Sys2Proof.Machine.execSnsClkLoss p s
  | .ppsEdge => Sys2Proof.Machine.execPpsEdge s
  | .tkHoldover => Sys2Proof.Machine.execTkHoldover s
  | .cmpTrip n => Sys2Proof.Machine.execCmpTrip n s
  | .cmpRelease n => Sys2Proof.Machine.execCmpRelease n s
  | .aonTimerFire => Sys2Proof.Machine.execAonTimerFire s
  | .aonTimerWrite v => Sys2Proof.Machine.execAonTimerWrite v s
  | .aonAlarmClear v => Sys2Proof.Machine.execAonAlarmClear v s
  | .pwrWakeCauseClear v => Sys2Proof.Machine.execPwrWakeCauseClear v s
  | .peakClr => Sys2Proof.Machine.execPeakClr s
  | .ephemeralKeyExpiry reportId => Sys2Proof.Machine.execEphemeralKeyExpiry reportId s
  | .evtRecordFile => Sys2Proof.Machine.execEvtRecordFile s
  | .evtRingConfigWrite size v => Sys2Proof.Machine.execEvtRingConfigWrite size v s
  | .evtRingRdWrite v => Sys2Proof.Machine.execEvtRingRdWrite v s
  | .registerWrite off wide v => Sys2Proof.Machine.execRegisterWrite off wide v s
  | .flitAlignment l => Sys2Proof.Machine.execFlitAlignment l s
  | .pcieLinkUp width speed => Sys2Proof.Machine.execPcieLinkUp width speed s
  | .msixUnmask v => Sys2Proof.Machine.execMsixUnmask v s
  | .clkPresent p => Sys2Proof.Machine.execClkPresent p s
  | .jtagRecoveryLoad f => Sys2Proof.Machine.execJtagRecoveryLoad f s

end Sys2Proof.Machine
end

