-- ==== Sys2Proof/Safety.lean ====
section
/-! DEFINITION. What a safe run is: no step stops, the invariant of the machine holds in every state (the memories in
their canonical form, the bounded queues within their bounds, the region that leaves manufacture PERMANENT still so), and
what is one-way goes one way. -/

namespace Sys2Proof.Machine

/-- Every byte memory lists its addresses in rising order and no zero byte: the system area and the tensors' bytes in the
drawers (R219, R226), and the four bench stores (R66). -/
def memoryWf (s : State) : Bool :=
  Memory.wf s.stk.mem && Memory.wf s.stk.bytes && (List.finRange 4).all fun b => Memory.wf s.bnc[b].store

/-- What holds in every state that a step can reach from a state in which it holds. -/
structure Inv (s : State) : Prop where
  /-- The memories are in canonical form. -/
  memory : memoryWf s = true
  /-- The command queue has 16 entries (R372). -/
  commands : s.hif.queue.length ≤ 16
  /-- The event queue has 32 entries (R496). -/
  events : s.evt.queue.length ≤ 32
  /-- At most 16 outputs of the noise source wait (R204). -/
  outputs : s.rng.ready ≤ 16
  /-- FACT is PERMANENT (R354). -/
  fact : s.fls.prot[11] = .permanent

/-- What no command undoes between two states: the part and its serial number, the fuse level (R397), a PERMANENT region
(R354, R357), and the entries of the bad-block table (R351, R352). -/
structure OneWay (s t : State) : Prop where
  part : t.part = s.part
  serial : t.serial = s.serial
  fuse : s.sec.fuse ≤ t.sec.fuse
  permanent : ∀ n : Fin 16, s.fls.prot[n] = .permanent → t.fls.prot[n] = .permanent
  retired : ∃ l, t.fls.bbt = s.fls.bbt ++ l

/-- The outcome of a step that goes on. -/
def goesOn (o : Host.Outcome State Fault Refusal) : Bool :=
  match o with
  | .next _ => true
  | _ => false

/-- A run of n steps from s in which no step stops. -/
def SafeFor : Nat → State → Prop
  | 0, _ => True
  | n + 1, s => ∃ t, step s = .next t ∧ SafeFor n t

end Sys2Proof.Machine
end

