-- ==== Sys2Proof/Certificates/Slice0/Obligations.lean ====
section
/-! DEFINITION. The statements for the provers. A statement about a command gives the state that the command ends in,
under conditions on the state before it and on its operands alone; what the equation or the record update does not name
is unchanged (the frame). -/

open Sys2Proof Sys2Proof.Machine

/-! ### The machine -/

/-- A step runs the command at the front of the queue on the state with the queue's rest. -/
def Obligations.StepRunsTheFrontCommand : Prop :=
  ∀ (c : Instr) (rest : List Instr) (s : State),
    step { s with pending := c :: rest } = exec c { s with pending := rest }

/-- On an empty queue a step is one cycle of REFCLK, 10 ns (the model's choice, log entry 1). While no power-down waits for its
jobs, the time counts 10 ns; from RUN to SLEEP the device counts the cycle (R492), and in a cycle that begins no flit slot nothing
else changes; in the other states nothing changes but the time. A cycle that begins a slot changes, beside the two counters, only
the links, the counters' events and the free values used. A power-down that waits goes on once the module is quiet (R463). -/
def Obligations.IdleStepIsOneCycle : Prop :=
  (∀ s : State, s.pending = [] → (∀ g, s.pwr.seq ≠ .quiesce g) → awake s = false →
    step s = .next { s with aon := { s.aon with time := s.aon.time + 10 } }) ∧
  (∀ s : State, s.pending = [] → (∀ g, s.pwr.seq ≠ .quiesce g) → awake s = true →
    slotsAt (s.glb.cycle + 1).toNat = slotsAt s.glb.cycle.toNat →
    step s = .next { s with aon := { s.aon with time := s.aon.time + 10 }, glb := { s.glb with cycle := s.glb.cycle + 1 } }) ∧
  (∀ s : State, s.pending = [] → (∀ g, s.pwr.seq ≠ .quiesce g) → awake s = true →
    ∃ t, step s = .next t ∧ t = { s with
      aon := { s.aon with time := s.aon.time + 10 }, glb := { s.glb with cycle := s.glb.cycle + 1 }, links := t.links,
      evt := t.evt, free := t.free }) ∧
  (∀ (g : PState) (s : State), s.pending = [] → s.pwr.seq = .quiesce g →
    step s = .next (if allQuiet (tick s) then quiesced g (tick s) else tick s))

/-! ### The host interface -/

/-- R368, R371, R372, R374, R377, R378, R383, R391: the host interface. A doorbell whose tag is free and that finds fewer than 16
commands queued puts the latched registers at the queue's end, and any other is dropped, with FAULT bit 0 and the event 0x0681;
nothing happens while the host cannot reach the device (log entry 20). Acknowledging the first slot that holds the result frees it, or
fills it from the result ring; where no slot holds one, FAULT bit 1 is set. The link comes up at a width and a generation that the
endpoint has; PERST_N restarts the HIF block; an unmasked vector sends the message that it held; an unknown opcode ends BAD_ARG. -/
def Obligations.HostInterfaceMovesCommandsAndResults : Prop :=
  ((∀ (q : BitVec 16) (s : State), hostPath s = true → tagTaken q s.hif = false →
    ∃ t, exec (.cmdDoorbell q) s = .next t ∧
      t.hif.queue = s.hif.queue ++ [⟨q, s.hif.opcode, s.hif.args[0], s.hif.args[1], s.hif.args[2], s.hif.args[3]⟩] ∧
      t.hif.ctrs[0] = ctrAdd s.hif.ctrs[0] 1 ∧
      t = { s with hif := { s.hif with queue := t.hif.queue, ctrs := t.hif.ctrs }, evt := t.evt }) ∧
  (∀ (q : BitVec 16) (s : State), hostPath s = true → tagTaken q s.hif = true →
    ∃ t, exec (.cmdDoorbell q) s = .next t ∧
      bitAt t.hif.fault 0 = true ∧ t.hif.faultInfo = q.setWidth 32 ∧
      (s.evt.queue.length < 32 →
        t.evt.queue = s.evt.queue ++ [stamp { ev 0x0681 with info := q.setWidth 64 } s]) ∧
      t = { s with hif := { s.hif with fault := t.hif.fault, faultInfo := t.hif.faultInfo }, evt := t.evt })) ∧
  ((∀ (q : BitVec 16) (fin : Bool) (i : Fin 16) (s : State), hostPath s = true →
    ackSlot q fin s.hif.slots = some i → s.hif.ring = [] →
    exec (.hifResAck q fin) s = .next { s with hif := { s.hif with slots := s.hif.slots.set i none } }) ∧
  (∀ (q : BitVec 16) (fin : Bool) (i : Fin 16) (r : Result) (rest : List Result) (s : State), hostPath s = true →
    ackSlot q fin s.hif.slots = some i → s.hif.ring = r :: rest →
    exec (.hifResAck q fin) s =
      .next (fire 1 { s with hif := { s.hif with slots := s.hif.slots.set i (some r), ring := rest } })) ∧
  (∀ (q : BitVec 16) (fin : Bool) (s : State), hostPath s = true → ackSlot q fin s.hif.slots = none →
    ∃ t, exec (.hifResAck q fin) s = .next t ∧ bitAt t.hif.fault 1 = true ∧
      t = { s with hif := { s.hif with fault := t.hif.fault, faultInfo := t.hif.faultInfo } }) ∧
  (∀ (q : BitVec 16) (fin : Bool) (i : Fin 16) (v : Vector (Option Result) 16), ackSlot q fin v = some i →
    (∃ r, v[i] = some r ∧ r.seq = q ∧ r.final = fin) ∧
    ∀ k : Fin 16, k < i → ∀ r, v[k] = some r → ¬ (r.seq = q ∧ r.final = fin))) ∧
  ((∀ (w g : Nat) (s : State), awake s = true → linkFits s w g = true →
    exec (.pcieLinkUp w g) s = .next { s with hif := { s.hif with pcieUp := true, width := w, speed := g } }) ∧
  (∀ s : State, awake s = true →
    exec .perstN s = .next { s with hif := { Hif.reset with
      gen := s.hif.gen + 1, sideband := s.hif.sideband, wrote := s.hif.wrote } }) ∧
  (∀ (v : Fin 4) (s : State), hostPath s = true →
    ∃ t, exec (.msixUnmask v) s = .next t ∧ t.hif.msix[v].masked = false ∧ t.hif.msix[v].pending = false ∧
      t.hif.msix[v].sent = s.hif.msix[v].sent + (if s.hif.msix[v].pending then 1 else 0) ∧
      (∀ u : Fin 4, u ≠ v → t.hif.msix[u] = s.hif.msix[u]) ∧
      t = { s with hif := { s.hif with msix := t.hif.msix } }) ∧
  (∀ (c : Cmd) (op : Byte) (s s1 : State), takeCmd c op s = some s1 → gateStatus c.origin op s1 = none →
    opKnown c.origin op = false →
    exec (.unknownOpcode c op) s = .next (endWith (pendOf c op s1) stBadArg s1)))

/-- R376 to R378, R386: a result goes to the lowest free slot and raises vector 1; with no slot free, to the result ring;
with 64 entries there it is dropped, with FAULT bit 2; a final mailbox result frees its tag; a management result is sent to
the open session. Beside the host interface and the management port, only the collector changes. -/
def Obligations.ResultsGoWhereTheSpecSends : Prop :=
  (∀ (r : Result) (i : Fin 16) (s : State), freeSlot s.hif.slots = some i →
    putResult r s = fire 1 { s with hif := { s.hif with slots := s.hif.slots.set i (some r) } }) ∧
  (∀ (r : Result) (s : State), freeSlot s.hif.slots = none → s.hif.ring.length < 64 →
    putResult r s = { s with hif := { s.hif with ring := s.hif.ring ++ [r] } }) ∧
  (∀ (r : Result) (s : State), freeSlot s.hif.slots = none → 64 ≤ s.hif.ring.length →
    bitAt (putResult r s).hif.fault 2 = true ∧ (putResult r s).hif.ring = s.hif.ring ∧
    (putResult r s).hif.slots = s.hif.slots) ∧
  (∀ (p : Pend) (st : Byte) (s : State), p.origin = .mailbox → p.gen = s.hif.gen →
    p.seq ∉ (endWith p st s).hif.running) ∧
  (∀ (p : Pend) (st : Byte) (s : State), p.origin = .mgmt → (s.mgmt.session.isSome || s.mgmt.selfSigned) = true →
    endWith p st s = { s with mgmt := { s.mgmt with
      out := s.mgmt.out ++ [.response ⟨p.seq, p.op, st, true, 0, 0, 0, 0, s.aon.time⟩ []] } }) ∧
  (∀ (p : Pend) (st : Byte) (fin : Bool) (a b c d : Word) (s : State), awake s = true →
    ∃ h m e, answer p st fin a b c d s = { s with hif := h, mgmt := m, evt := e })

/-- How a command reaches its effect (R19, R205, R330, R372, R374, R417): it is taken from the head of the queue, and its tag
runs; one turned away, or with a reserved argument bit set, ends with that status and changes nothing else. -/
def Obligations.CommandsAreTakenGatedAndRefused : Prop :=
  (∀ (c : Cmd) (op : Byte) (s : State) (rest : List HCmd), c.origin = .mailbox → s.pwr.coreDown = false →
    awake s = true → s.glb.phase ≠ .noFirmware →
    s.hif.queue = ⟨c.seq, op, c.a0, c.a1, c.a2, c.a3⟩ :: rest →
    takeCmd c op s = some { s with hif := { s.hif with queue := rest, running := s.hif.running ++ [c.seq] } }) ∧
  (∀ (c : Cmd) (s s1 : State), takeCmd c 0x50 s = some s1 → s.sec.tending = true →
    exec (.tenantEnd c 0) s = .next (endWith (pendOf c 0x50 s1) stBusy s1)) ∧
  (∀ (c : Cmd) (s s1 : State), takeCmd c 0x23 s = some s1 → s.sec.tending = false → s.glb.phase = .rngFailed →
    exec (.replay c) s = .next (endWith (pendOf c 0x23 s1) stRefused s1)) ∧
  (∀ (c : Cmd) (s s1 : State), takeCmd c 0x23 s = some s1 → s.sec.tending = false → s.glb.phase = .verify →
    exec (.replay c) s = .next (endWith (pendOf c 0x23 s1) stBusy s1)) ∧
  (∀ (c : Cmd) (s s1 : State), takeCmd c 0x23 s = some s1 → s.sec.tending = false → s.glb.phase = .done →
    s.glb.state = .noImage → exec (.replay c) s = .next (endWith (pendOf c 0x23 s1) stRefused s1)) ∧
  (∀ (c : Cmd) (s s1 : State), takeCmd c 0x01 s = some s1 → bitsFrom c.a0 3 = true →
    exec (.setPower c) s = .next (endWith (pendOf c 0x01 s1) stBadArg s1))

/-! ### Events and registers -/

/-- R493, R495, R496: with the main rails up an event is queued behind those that wait, stamped with its time; one that finds 32
waiting is lost, marks the loss and counts in EVT_LOST; with the rails down it is latched DEFERRED.
R493, R496: filing takes the oldest queued event, gives it the next SEQ and the mark of a loss before it, writes it to the log
entry at EVT_LOG_HEAD, and appends it to the persistent log if it is a fault record or of the ranges 0x01xx and 0x06xx.
R497: a record that the mask keeps from an enabled ring changes nothing; with no bounce session, or with the ring full, it is
dropped, counted, and RING_DROP is set; otherwise it is written at EVT_RING_WR, which advances, under the session's device
counter. -/
def Obligations.EventsQueueAndReachLogAndRing : Prop :=
  (∀ (e : Posted) (s : State),
    (awake s = true → s.evt.queue.length < 32 →
      ∃ q, post e s = { s with evt := { s.evt with queue := s.evt.queue ++ [q], ctrs := upd s.evt.ctrs 0 (ctrAdd · 1) } } ∧
        q.code = e.code ∧ q.time = s.aon.time ∧ q.inst = e.inst ∧ q.fault = e.fault ∧ q.info = e.info) ∧
    (awake s = true → 32 ≤ s.evt.queue.length →
      (post e s).evt.queue = s.evt.queue ∧ (post e s).evt.lostBefore = true ∧
      (post e s).evt.ctrs[2] = ctrAdd s.evt.ctrs[2] 1 ∧ bitAt (post e s).evt.fault 2 = true) ∧
    (awake s = false →
      ∃ q, post e s = { s with aon := { s.aon with deferred := s.aon.deferred ++ [q] } } ∧
        q.code = e.code ∧ q.deferred = true ∧ q.time = s.aon.time)) ∧
  (∀ (e : Posted) (rest : List Posted) (s : State), awake s = true → s.evt.queue = e :: rest →
    s.evt.queue.length ≤ 32 → effLog2 s.evt.ringLog2 = 0 →
    ∃ t, exec .evtRecordFile s = .next t ∧ t.evt.queue = rest ∧ t.evt.seqNext = s.evt.seqNext + 1 ∧
      t.evt.head = s.evt.head + 1 ∧ t.evt.lostBefore = false ∧
      t.evt.log = tabPut s.evt.head.toNat ⟨s.evt.seqNext, s.evt.lostBefore, e⟩ s.evt.log ∧
      t.fls.plog = s.fls.plog ++
        (if e.fault || unitOf e.code == 1 || unitOf e.code == 6 then [⟨s.evt.seqNext, s.evt.lostBefore, e⟩] else []) ∧
      t = { s with evt := { s.evt with queue := t.evt.queue, seqNext := t.evt.seqNext, head := t.evt.head,
                                       lostBefore := t.evt.lostBefore, log := t.evt.log },
                   fls := { s.fls with plog := t.fls.plog }, mgmt := { s.mgmt with out := t.mgmt.out } }) ∧
  ((∀ (r : EvtRec) (s : State), masked s r.ev.code = true → toRing r s = s) ∧
  (∀ (r : EvtRec) (s : State), effLog2 s.evt.ringLog2 = 0 → toRing r s = s) ∧
  (∀ (r : EvtRec) (s : State), effLog2 s.evt.ringLog2 ≠ 0 → masked s r.ev.code = false →
    (s.hif.session = none ∨ ringFull s.evt.wr s.evt.rd = true) →
    (toRing r s).evt.wr = s.evt.wr ∧ (toRing r s).evt.ctrs[1] = ctrAdd s.evt.ctrs[1] 1 ∧
    bitAt (toRing r s).evt.fault 1 = true ∧ (toRing r s).evt.ringLost = true ∧ (toRing r s).hif = s.hif) ∧
  (∀ (r : EvtRec) (x : Session) (s : State), effLog2 s.evt.ringLog2 ≠ 0 → masked s r.ev.code = false →
    s.hif.session = some x → x.d2h.toNat + 2 < 2 ^ 64 → ringFull s.evt.wr s.evt.rd = false →
    ∃ h, toRing r s = { s with
      evt := { s.evt with ring := tabPut s.evt.wr.index.toNat
                            (sealRecord x x.d2h (recBytes { r with lostBefore := r.lostBefore || s.evt.ringLost })) s.evt.ring,
                          wr := ringNext (effLog2 s.evt.ringLog2) s.evt.wr, ringLost := false },
      hif := h } ∧ h.session = some { x with d2h := x.d2h + 1 }))

/-- R167, R502: the registers of the event ring. The base and the size take a write while the ring is disabled, a size that
disables it at any time; any other write sets WRITE_LOCKED. RD takes a write that stays behind WR.
R166 to R168: the registers of the telemetry ring and the W1C flags of a statistics record. -/
def Obligations.RingRegistersFollowTheLocks : Prop :=
  ((∀ (v : DWord) (s : State), awake s = true → effLog2 s.evt.ringLog2 = 0 →
    exec (.evtRingConfigWrite false v) s = .next { s with evt := { s.evt with ringBase := v &&& 0xFFFFFFFFFFFFFFC0 } }) ∧
  (∀ (v : DWord) (s : State), awake s = true → effLog2 s.evt.ringLog2 = 0 → effLog2 (v.setWidth 5) ≠ 0 →
    exec (.evtRingConfigWrite true v) s = .next { s with evt := { s.evt with
      ringLog2 := v.setWidth 5, wr := ⟨0, false⟩, rd := ⟨0, false⟩ } }) ∧
  (∀ (v : DWord) (s : State), awake s = true → effLog2 (v.setWidth 5) = 0 →
    exec (.evtRingConfigWrite true v) s = .next { s with evt := { s.evt with ringLog2 := v.setWidth 5 } }) ∧
  (∀ (v : DWord) (size : Bool) (s : State), awake s = true → effLog2 s.evt.ringLog2 ≠ 0 →
    (size = true → effLog2 (v.setWidth 5) ≠ 0) →
    ∃ t, exec (.evtRingConfigWrite size v) s = .next t ∧ bitAt t.evt.fault 0 = true ∧
      t = { s with evt := { s.evt with fault := t.evt.fault } }) ∧
  (∀ (v : Word) (s : State), awake s = true → effLog2 s.evt.ringLog2 ≠ 0 →
    rdPasses (effLog2 s.evt.ringLog2) s.evt.wr s.evt.rd (ptrOf v) = false →
    exec (.evtRingRdWrite v) s = .next { s with evt := { s.evt with rd := ⟨v.setWidth 16, bitAt v 16⟩ } }) ∧
  (∀ (v : Word) (s : State), (effLog2 s.evt.ringLog2 = 0 ∨
      rdPasses (effLog2 s.evt.ringLog2) s.evt.wr s.evt.rd (ptrOf v) = true) →
    exec (.evtRingRdWrite v) s = .next s)) ∧
  ((∀ (v : DWord) (s : State), running s = true → anyJob s = false →
    exec (.trnTelConfigWrite false v) s = .next { s with trn := { s.trn with telBase := v } }) ∧
  (∀ (v : DWord) (s : State), running s = true → anyJob s = false → effLog2 (v.setWidth 5) ≠ 0 →
    effLog2 s.trn.telLog2 ≠ effLog2 (v.setWidth 5) →
    exec (.trnTelConfigWrite true v) s = .next { s with trn := { s.trn with
      telLog2 := v.setWidth 5, wr := ⟨0, false⟩, rd := ⟨0, false⟩ } }) ∧
  (∀ (v : DWord) (s : State), running s = true → anyJob s = false →
    (effLog2 (v.setWidth 5) = 0 ∨ effLog2 s.trn.telLog2 = effLog2 (v.setWidth 5)) →
    exec (.trnTelConfigWrite true v) s = .next { s with trn := { s.trn with telLog2 := v.setWidth 5 } }) ∧
  (∀ (size : Bool) (v : DWord) (s : State), running s = true → anyJob s = true →
    ∃ t, exec (.trnTelConfigWrite size v) s = .next t ∧ bitAt t.trn.fault 0 = true ∧
      t = { s with trn := { s.trn with fault := t.trn.fault }, evt := t.evt }) ∧
  (∀ (v : Word) (s : State), running s = true → effLog2 s.trn.telLog2 ≠ 0 →
    rdPasses (effLog2 s.trn.telLog2) s.trn.wr s.trn.rd (ptrOf v) = false →
    exec (.trnTelRdWrite v) s = .next { s with trn := { s.trn with rd := ⟨v.setWidth 16, bitAt v 16⟩ } }) ∧
  (∀ (v : Word) (x : Job) (s : State), running s = true → s.jobs[s.trn.viewJob] = some x →
    exec (.trnStatFlagsClear v) s = .next { s with
      jobs := s.jobs.set s.trn.viewJob
        (some { x with tens := x.tens.map fun r => if r.id = s.trn.viewTensor then clearFlags v r else r }) }) ∧
  (∀ (v : Word) (r : TRun), (clearFlags v r).ovfSat = (r.ovfSat && !bitAt v 0) ∧
    (clearFlags v r).nanSat = (r.nanSat && !bitAt v 1) ∧ (clearFlags v r).unfSat = (r.unfSat && !bitAt v 2) ∧
    (clearFlags v r).inexact = (r.inexact && !bitAt v 3) ∧ (clearFlags v r).amax = r.amax ∧
    (clearFlags v r).ovf = (if bitAt v 0 then 0 else r.ovf) ∧ (clearFlags v r).nan = (if bitAt v 1 then 0 else r.nan) ∧
    (clearFlags v r).unf = (if bitAt v 2 then 0 else r.unf)))

/-- R13, R369, R389 to R392, R484: writes of the host to the registers. A write that is not aligned is ignored; RW fields store;
a 1 in a fault register clears its bit; a 1 in a counter's SAT bit clears the counter; a doorbell register write is the
doorbell; and every write, at any offset, completes. -/
def Obligations.RegisterWritesActAsTheMapSays : Prop :=
  (∀ (off : BitVec 24) (wide : Bool) (v : DWord) (s : State), off.toNat % (if wide then 8 else 4) ≠ 0 →
    exec (.registerWrite off wide v) s = .next s) ∧
  (∀ (off : BitVec 24) (wide : Bool) (v : DWord) (s : State), ∃ t, exec (.registerWrite off wide v) s = .next t ∧
    t.part = s.part ∧ t.serial = s.serial) ∧
  (∀ (v : DWord) (s : State), hostPath s = true →
    exec (.registerWrite 0x40010 false v) s = .next { s with hif := { s.hif with opcode := v.setWidth 8 } }) ∧
  (∀ (k : Fin 4) (v : DWord) (s : State), hostPath s = true →
    exec (.registerWrite (BitVec.ofNat 24 (0x40014 + 4 * k.val)) false v) s =
      .next { s with hif := { s.hif with args := s.hif.args.set k (v.setWidth 32) } }) ∧
  (∀ (v : DWord) (s : State), hostPath s = true →
    exec (.registerWrite 0x40024 false v) s = exec (.cmdDoorbell (v.setWidth 16)) s) ∧
  (∀ (v : DWord) (s : State), hostPath s = true →
    exec (.registerWrite 0x40008 false v) s =
      .next { s with hif := { s.hif with fault := s.hif.fault &&& ~~~(v.setWidth 32) } }) ∧
  (∀ (v : DWord) (s : State), hostPath s = true →
    exec (.registerWrite 0x10004 false v) s = .next { s with pwr := { s.pwr with quiesceMax := v.setWidth 8 } }) ∧
  (∀ (b : Fin 4) (i : Fin 7) (v : DWord) (s : State), hostPath s = true → running s = true → bitAt v 31 = true →
    ∃ t, exec (.registerWrite (BitVec.ofNat 24 (0x10001C + 0x40000 * b.val + 8 * i.val)) false v) s = .next t ∧
      t.bnc[b].ctrs[i] = ⟨0, false⟩ ∧ (∀ k : Fin 7, k ≠ i → t.bnc[b].ctrs[k] = s.bnc[b].ctrs[k]) ∧
      (∀ c : Fin 4, c ≠ b → t.bnc[c] = s.bnc[c]) ∧ t = { s with bnc := t.bnc })

/-! ### Sensor ports and the always-on domain -/

/-- R425 to R427: a frame-sync begins a frame: its time is the timekeeper's, its words are numbered from 0, a word partly
assembled counts in SNS_SHORT; a loss of the input clock ends the frame; each port keeps to itself.
R425, R426, R429, R430: a word takes the next number of its frame and enters the port's buffer as an entry with the frame's
time, its low WLEN bits, its number up to 65,535 and the flags; with 256 entries there it is lost, with OVERRUN and a GAP to
come. The oldest buffered entry is written to ring slot k mod 2^RING_LOG2. -/
def Obligations.SensorPortsTakeFramesAndWords : Prop :=
  ((∀ (p : Fin 24) (part : Bool) (s : State), portLive p s = true → clocked s.sns[p] = true →
    ∃ t, exec (.frameSync p part) s = .next t ∧ t.sns[p].frame = some s.aon.time ∧ t.sns[p].word = 0 ∧
      t.sns[p].lastFs = s.aon.time ∧ t.sns[p].gap = false ∧ t.sns[p].disc = discNow s ∧ t.sns[p].buf = s.sns[p].buf ∧
      t.sns[p].ring = s.sns[p].ring ∧
      t.sns[p].ctrs[2] = (if part && s.sns[p].frame.isSome then ctrAdd s.sns[p].ctrs[2] 1 else s.sns[p].ctrs[2]) ∧
      (∀ q : Fin 24, q ≠ p → t.sns[q] = s.sns[q]) ∧ t = { s with sns := t.sns, evt := t.evt }) ∧
  (∀ (p : Fin 24) (s : State), inputClock p s = true → s.sns[p].clk = true →
    ∃ t, exec (.snsClkLoss p) s = .next t ∧ t.sns[p].clk = false ∧ bitAt t.sns[p].fault 1 = true ∧
      t.sns[p].frame = none ∧ t.sns[p].ctrs[4] = ctrAdd s.sns[p].ctrs[4] 1 ∧
      (∀ q : Fin 24, q ≠ p → t.sns[q] = s.sns[q]) ∧ t = { s with sns := t.sns, evt := t.evt }) ∧
  (∀ (p : Fin 24) (s : State), inputClock p s = true →
    exec (.clkPresent p) s = .next (setSns p (fun x => { x with clk := true }) s)) ∧
  (∀ (p : Fin 24) (s : State), (s.sns[p].cfg.getLsbD 0 = false ∨ portPresent s.part p.val = false) →
    ∀ part w, exec (.frameSync p part) s = .next s ∧ exec (.sensorWord p w) s = .next s ∧ exec (.snsClkLoss p) s = .next s)) ∧
  ((∀ (p : Fin 24) (w : Word) (f : DWord) (s : State), s.sns[p].frame = some f → portLive p s = true →
    clocked s.sns[p] = true → s.sns[p].buf.length < 256 →
    ∃ t e, exec (.sensorWord p w) s = .next t ∧ t.sns[p].buf = s.sns[p].buf ++ [e] ∧ e.time = f ∧
      e.data.toNat = w.toNat % 2 ^ (bitsNat s.sns[p].cfg 15 11 + 1) ∧
      e.index.toNat = min s.sns[p].word 65535 ∧ e.port.toNat = p.val ∧
      bitAt e.flags 0 = s.sns[p].disc ∧ bitAt e.flags 1 = s.sns[p].frameGap ∧
      bitAt e.flags 2 = decide (65536 ≤ s.sns[p].word) ∧ t.sns[p].word = s.sns[p].word + 1 ∧
      t.sns[p].frame = some f ∧ (∀ q : Fin 24, q ≠ p → t.sns[q] = s.sns[q]) ∧ t = { s with sns := t.sns, evt := t.evt }) ∧
  (∀ (p : Fin 24) (w : Word) (f : DWord) (s : State), s.sns[p].frame = some f → portLive p s = true →
    clocked s.sns[p] = true → 256 ≤ s.sns[p].buf.length →
    ∃ t, exec (.sensorWord p w) s = .next t ∧ t.sns[p].buf = s.sns[p].buf ∧ t.sns[p].gap = true ∧
      t.sns[p].ctrs[3] = ctrAdd s.sns[p].ctrs[3] 1 ∧ bitAt t.sns[p].fault 0 = true ∧
      t.sns[p].word = s.sns[p].word + 1 ∧
      (∀ q : Fin 24, q ≠ p → t.sns[q] = s.sns[q]) ∧ t = { s with sns := t.sns, evt := t.evt }) ∧
  (∀ (p : Fin 24) (e : RingEntry) (rest : List RingEntry) (s : State), running s = true →
    portPresent s.part p.val = true → s.sns[p].buf = e :: rest →
    exec (.ringEntryWrite p) s = .next (setSns p (fun x => { x with
      buf := rest, wrCount := x.wrCount + 1,
      ring := tabPut (x.wrCount.toNat % 2 ^ bitsNat x.cfg 24 20) e x.ring }) s)))

/-- R435, R436: a PPS edge counts; one more than 1 ms from a whole second while DISCIPLINED is rejected, unless it is the third in
a row 1 s apart; any other is a correction: a step over 1 ms sets the count, and eight in a row within 20 ns discipline the
timekeeper. Three seconds without an accepted correction enter HOLDOVER, with the event 0x0A14.
R439 to R441: a trip of an enabled comparator that has released latches TRIPn with its record, or, where TRIPn is latched, sets
MULTI alone; it counts, and drives ALARM_N; clearing TRIPn clears its record. Where the comparator is armed to wake the
module, the trip is also a wake (the fourth clause).
R443: the timer fires once, when the time has reached its nonzero value, and posts 0x0A12; armed, it wakes the module. Writing 0
disarms it, any other value arms it. -/
def Obligations.TheAlwaysOnBlockKeepsTimeAndAlarms : Prop :=
  ((∀ s : State, hearsPps s = true → s.aon.tk = .disciplined → s.aon.rejRun < 2 →
    oneMs < ((nearestSec s.aon.time.toNat : Int) - s.aon.time.toNat).natAbs →
    ∃ t, exec .ppsEdge s = .next t ∧ t.aon.time = s.aon.time ∧ t.aon.tk = .disciplined ∧
      t.aon.ctrs[0] = ctrAdd s.aon.ctrs[0] 1 ∧ t.aon.ctrs[1] = ctrAdd s.aon.ctrs[1] 1 ∧ t.aon.lastPps = s.aon.time ∧
      1 ≤ t.aon.rejRun ∧ t = { s with aon := t.aon, evt := t.evt }) ∧
  (∀ s : State, hearsPps s = true → s.aon.tk ≠ .disciplined → s.aon.nextSec ≠ 0 →
    oneMs < ((s.aon.nextSec.toNat * 1000000000 : Nat) - (s.aon.time.toNat : Int)) →
    s.aon.nextSec.toNat * 1000000000 < 2 ^ 63 →
    ∃ t, exec .ppsEdge s = .next t ∧ t.aon.time.toNat = s.aon.nextSec.toNat * 1000000000 ∧ t.aon.nextSec = 0 ∧
      t.aon.tk = .acquiring ∧ t.aon.ctrs[2] = ctrAdd s.aon.ctrs[2] 1 ∧ t.aon.srcUsed = false ∧
      t = { s with aon := t.aon, evt := t.evt, free := t.free }) ∧
  (∀ s : State, hearsPps s = true → s.aon.tk = .acquiring → s.aon.nextSec = 0 → s.aon.goodRun = 7 →
    ((nearestSec s.aon.time.toNat : Int) - s.aon.time.toNat).natAbs ≤ 20 →
    ∃ t, exec .ppsEdge s = .next t ∧ t.aon.tk = .disciplined ∧ t.aon.goodRun = 8 ∧ t.aon.time = s.aon.time ∧
      t = { s with aon := t.aon, evt := t.evt, free := t.free }) ∧
  (∀ s : State, running s = true → uncorrected s.aon = true → (s.aon.tk = .acquiring ∨ s.aon.tk = .disciplined) →
    ∃ t, exec .tkHoldover s = .next t ∧ t.aon = { s.aon with tk := .holdover, goodRun := 0 } ∧
      (s.evt.queue.length < 32 → t.evt.queue = s.evt.queue ++ [stamp (ev 0x0A14) s]) ∧
      t = { s with aon := t.aon, evt := t.evt })) ∧
  ((∀ (n : Fin 4) (s : State), bitAt s.aon.cmpCfg[n] 13 = true → bitAt s.aon.tripped n.val = false →
    bitAt s.aon.wakeEn (4 + n.val) = false → bitAt s.aon.trip n.val = false →
    ∃ t, exec (.cmpTrip n) s = .next t ∧ bitAt t.aon.trip n.val = true ∧ bitAt t.aon.tripped n.val = true ∧
      retAt t.aon (8 + 3 * n.val) = s.aon.time.setWidth 32 ∧
      retAt t.aon (9 + 3 * n.val) = (s.aon.time >>> 32).setWidth 32 ∧
      retAt t.aon (10 + 3 * n.val) = ((s.aon.cmpCfg[n] &&& 0x7FF) ||| (if s.aon.onCell then 0x800 else 0)) ∧
      (bitAt s.aon.cmpCfg[n] 14 = true → t.aon.alarm = true) ∧ t.aon.ctrs[3] = ctrAdd s.aon.ctrs[3] 1 ∧
      t.aon.time = s.aon.time ∧ t = { s with aon := t.aon, evt := t.evt }) ∧
  (∀ (n : Fin 4) (s : State), bitAt s.aon.cmpCfg[n] 13 = true → bitAt s.aon.tripped n.val = false →
    bitAt s.aon.wakeEn (4 + n.val) = false → bitAt s.aon.trip n.val = true →
    ∃ t, exec (.cmpTrip n) s = .next t ∧ t.aon.trip = s.aon.trip ∧
      retAt t.aon (10 + 3 * n.val) = (retAt s.aon (10 + 3 * n.val) ||| 0x1000) ∧
      retAt t.aon (8 + 3 * n.val) = retAt s.aon (8 + 3 * n.val) ∧ t = { s with aon := t.aon, evt := t.evt }) ∧
  (∀ (n : Fin 4) (s : State), (bitAt s.aon.cmpCfg[n] 13 = false ∨ bitAt s.aon.tripped n.val = true) →
    exec (.cmpTrip n) s = .next s) ∧
  (∀ (n : Fin 4) (s : State), bitAt s.aon.cmpCfg[n] 13 = true → bitAt s.aon.tripped n.val = false →
    bitAt s.aon.wakeEn (4 + n.val) = true → s.pwr.target = .run → s.pwr.state = .sleep →
    ∃ t, exec (.cmpTrip n) s = .next t ∧ bitAt t.aon.wakeCause 3 = true ∧ bitAt t.aon.wakeCause (16 + n.val) = true ∧
      bitAt t.aon.trip n.val = true ∧ t = { s with aon := t.aon, evt := t.evt }) ∧
  (∀ (n : Fin 4) (s : State), exec (.cmpRelease n) s =
    .next { s with aon := { s.aon with tripped := s.aon.tripped &&& ~~~(BitVec.ofNat 4 (2 ^ n.val)) } }) ∧
  (∀ (v : Word) (s : State), awake s = true →
    ∃ t, exec (.aonAlarmClear v) s = .next t ∧
      (∀ n : Fin 4, bitAt t.aon.trip n.val = (bitAt s.aon.trip n.val && !bitAt v n.val)) ∧
      (∀ n : Fin 4, bitAt v n.val = true → bitAt s.aon.trip n.val = true →
        retAt t.aon (8 + 3 * n.val) = 0 ∧ retAt t.aon (9 + 3 * n.val) = 0 ∧ retAt t.aon (10 + 3 * n.val) = 0) ∧
      t.aon.timerFlag = (s.aon.timerFlag && !bitAt v 4) ∧
      t.aon.alarm = (List.finRange 4).any (fun n => bitAt t.aon.trip n.val && bitAt s.aon.cmpCfg[n] 14) ∧
      t = { s with aon := t.aon })) ∧
  ((∀ s : State, s.aon.timerArmed = true → s.aon.timer ≠ 0 → s.aon.timer.toNat ≤ s.aon.time.toNat →
    bitAt s.aon.wakeEn 1 = false →
    ∃ t, exec .aonTimerFire s = .next t ∧ t.aon.timerArmed = false ∧ t.aon.timerFlag = true ∧ t.aon.timer = s.aon.timer ∧
      exec .aonTimerFire t = .next t ∧ t = { s with aon := t.aon, evt := t.evt }) ∧
  (∀ s : State, s.aon.timerArmed = true → s.aon.timer ≠ 0 → s.aon.timer.toNat ≤ s.aon.time.toNat →
    bitAt s.aon.wakeEn 1 = true → s.pwr.target = .run → s.pwr.state = .sleep →
    ∃ t, exec .aonTimerFire s = .next t ∧ t.aon.timerFlag = true ∧ bitAt t.aon.wakeCause 4 = true ∧
      t = { s with aon := t.aon, evt := t.evt }) ∧
  (∀ s : State, s.aon.time.toNat < s.aon.timer.toNat → exec .aonTimerFire s = .next s) ∧
  (∀ (v : DWord) (s : State), awake s = true →
    exec (.aonTimerWrite v) s = .next { s with aon := { s.aon with timer := v, timerArmed := v != 0 } }))

/-! ### Power, clocks, resets and temperature -/

/-- A command that the command processor takes and that nothing turns away: s1 is s with the command taken (`takeCmd`). -/
def Sys2Proof.Claims.Runs (c : Cmd) (op : Byte) (s s1 : State) : Prop :=
  takeCmd c op s = some s1 ∧ gateStatus c.origin op s1 = none ∧ opKnown c.origin op = true

open Sys2Proof.Claims

/-- R460 to R462: SET_POWER. The state in force ends DONE at once; RUN and IDLE change at once; with a transition under way the
target is recorded, and the pending target before it is superseded; codes 5 to 7 end BAD_ARG.
R453, R454: SET_PERF applies its level at once in RUN and IDLE and ends DONE; in SLEEP the level is recorded, and the command waits
for RUN. -/
def Obligations.PowerCommandsMoveStateAndLevel : Prop :=
  ((∀ (c : Cmd) (g : PState) (s s1 : State), Runs c 0x01 s s1 → bitsFrom c.a0 3 = false → s.sec.tending = false →
    stateOfCode (bitsNat c.a0 2 0) = some g → s.pwr.seq = .idle → s.pwr.state = g →
    exec (.setPower c) s = .next (endWith (pendOf c 0x01 s1) stDone s1)) ∧
  (∀ (c : Cmd) (s s1 : State), Runs c 0x01 s s1 → bitsFrom c.a0 3 = false → s.sec.tending = false →
    bitsNat c.a0 2 0 = 3 → s.pwr.seq = .idle → s.pwr.state = .run → awake s = true →
    ∃ t, exec (.setPower c) s = .next t ∧ t.pwr.state = .idle ∧ t.pwr.target = .idle ∧ t.pwr.transition = false ∧
      t.pwr.seq = .idle ∧ t.pwr.ctrs[1] = ctrAdd s.pwr.ctrs[1] 1 ∧
      t = { s with pwr := t.pwr, hif := t.hif, mgmt := t.mgmt, evt := t.evt, aon := t.aon }) ∧
  (∀ (c : Cmd) (g : PState) (s s1 : State), Runs c 0x01 s s1 → bitsFrom c.a0 3 = false → s.sec.tending = false →
    stateOfCode (bitsNat c.a0 2 0) = some g → s.pwr.seq ≠ .idle → s.pwr.nextReq = none → s.pwr.target = s.pwr.goal →
    ∃ t, exec (.setPower c) s = .next t ∧ t.pwr = { s.pwr with target := g, nextReq := some (pendOf c 0x01 s1) } ∧
      t = { s with pwr := t.pwr, hif := t.hif, mgmt := t.mgmt, evt := t.evt, aon := t.aon }) ∧
  (∀ (c : Cmd) (s s1 : State), Runs c 0x01 s s1 → bitsFrom c.a0 3 = false → s.sec.tending = false →
    5 ≤ bitsNat c.a0 2 0 → exec (.setPower c) s = .next (endWith (pendOf c 0x01 s1) stBadArg s1)) ∧
  (∀ (c : Cmd) (s s1 : State), Runs c 0x01 s s1 → bitsFrom c.a0 3 = false → s.sec.tending = true →
    exec (.setPower c) s = .next { s1 with sec := { s1.sec with later := s1.sec.later ++ [(pendOf c 0x01 s1, c)] } })) ∧
  ((∀ (c : Cmd) (s s1 : State), Runs c 0x02 s s1 → bitsFrom c.a0 2 = false → c.a1 = 0 → c.a2 = 0 → c.a3 = 0 →
    s.sec.tending = false → (s.pwr.state = .run ∨ s.pwr.state = .idle) →
    exec (.setPerf c) s = .next (endWith (pendOf c 0x02 s1) stDone { s1 with pwr := { s1.pwr with
      level := c.a0.setWidth 2, pendingLevel := c.a0.setWidth 2, coreDiv := dividerOf (c.a0.setWidth 2),
      bias := bodyBiasOf s.pwr.state (c.a0.setWidth 2) } })) ∧
  (∀ (c : Cmd) (s s1 : State), Runs c 0x02 s s1 → bitsFrom c.a0 2 = false → c.a1 = 0 → c.a2 = 0 → c.a3 = 0 →
    s.sec.tending = false → s.pwr.state = .sleep →
    exec (.setPerf c) s = .next (startPending (pendOf c 0x02 s1) { s1 with pwr := { s1.pwr with
      pendingLevel := c.a0.setWidth 2, perfWaiting := s1.pwr.perfWaiting ++ [pendOf c 0x02 s1] } })) ∧
  (∀ (c : Cmd) (s s1 : State), Runs c 0x02 s s1 → (bitsFrom c.a0 2 = true ∨ c.a1 ≠ 0 ∨ c.a2 ≠ 0 ∨ c.a3 ≠ 0) →
    exec (.setPerf c) s = .next (endWith (pendOf c 0x02 s1) stBadArg s1)) ∧
  (dividerOf 0 = 4 ∧ dividerOf 1 = 5 ∧ dividerOf 2 = 6 ∧ dividerOf 3 = 8))

/-- R384: the sideband. POWER_GET answers bits 6:0 of PWR_STATUS, WAKE_CAUSE the low 16 bits of PWR_WAKE_CAUSE, IDENT GLB_ID;
POWER_SET asks for a power state, and a bad PEC or a wrong code is not acknowledged. In OFF nothing answers. -/
def Obligations.SidebandCommandsAnswer : Prop :=
  (∀ s : State, sidebandOn s = true → ∃ b, exec .powerGet s = .next { s with hif := { s.hif with sideband := some [b] } } ∧
    b.toNat = stateCode s.pwr.state + 8 * stateCode s.pwr.target + (if s.pwr.transition then 64 else 0)) ∧
  (∀ s : State, sidebandOn s = true → exec .wakeCause s = .next { s with hif := { s.hif with
    sideband := some [s.aon.wakeCause.setWidth 8, (s.aon.wakeCause >>> 8).setWidth 8] } }) ∧
  (∀ s : State, sidebandOn s = true → ∃ bs, exec .ident s = .next { s with hif := { s.hif with sideband := some bs } } ∧
    bs.length = 4 ∧ leNat bs = (glbId s.part).toNat) ∧
  (∀ (d : Byte) (g : PState) (s : State), sidebandOn s = true → stateOfCode d.toNat = some g →
    exec (.powerSet d true) s = .next (requestPower g none { s with hif := { s.hif with sideband := some [] } })) ∧
  (∀ (d : Byte) (ok : Bool) (s : State), sidebandOn s = true → (ok = false ∨ 5 ≤ d.toNat) →
    exec (.powerSet d ok) s = .next { s with hif := { s.hif with sideband := none } }) ∧
  (∀ (d : Byte) (ok : Bool) (s : State), sidebandOn s = false →
    exec (.powerSet d ok) s = .next s ∧ exec .powerGet s = .next s ∧ exec .wakeCause s = .next s ∧ exec .ident s = .next s)

/-- R464 to R466: the rails. On the way down each power-good loss, or the step's time limit (with a rail fault), ends its step; on
the way up each power-good starts the next rail, and VCORE and VSRAM take their bias with them (R456); a rail that falls in service,
or during power-up, is recorded in retention word 1 and PWR_WAKE_CAUSE, and a power-up that it ends goes down toward OFF. -/
def Obligations.RailStepsFollowTheOrder : Prop :=
  (∀ (k : Nat) (g : PState) (s : State), s.pwr.seq = .down k g → k < lastDown g →
    exec (.railPowerGood (downRail k)) s = .next (railBias (downRail k) g { s with pwr := { s.pwr with
      rails := s.pwr.rails.set (railIdx (downRail k)) false, seq := .down (k + 1) g } })) ∧
  (∀ (k : Nat) (g : PState) (s : State), s.pwr.seq = .down k g → k < lastDown g →
    ∃ t, exec .railStepTimeout s = .next t ∧ t.pwr.seq = .down (k + 1) g ∧ bitAt t.pwr.fault 0 = true ∧
      t.aon.railPend = true ∧ bitAt t.aon.wakeCause 7 = true ∧
      t.aon.ret[1] = BitVec.ofNat 32 (railCode (downRail k)) ∧ t = { s with pwr := t.pwr, aon := t.aon }) ∧
  (∀ (k : Nat) (s : State), s.pwr.seq = .up k → 2 < k →
    exec (.railPowerGood (upRail k)) s = .next (railBias (upRail k) .run { s with pwr := { s.pwr with
      rails := s.pwr.rails.set (railIdx (upRail k)) true, seq := .up (k - 1) } })) ∧
  (∀ (s : State), s.pwr.seq = .up 2 → s.pwr.state ≠ .sleep →
    exec (.railPowerGood .vcore) s = .next { s with pwr := { s.pwr with
      rails := s.pwr.rails.set 0 true, seq := .up 1, bias := bodyBiasOf .run 0 } }) ∧
  (∀ (r : Rail) (s : State), s.aon.supply = true → s.pwr.seq = .idle → s.pwr.state ≠ .off → s.pwr.state ≠ .deep →
    ∃ t, exec (.railFault r) s = .next t ∧ t.pwr.rails[railIdx r] = false ∧ bitAt t.pwr.fault 0 = true ∧
      t.aon.ret[1] = BitVec.ofNat 32 (railCode r) ∧ bitsNat t.aon.wakeCause 26 24 = railCode r ∧
      t = { s with pwr := t.pwr, aon := t.aon }) ∧
  (∀ (r : Rail) (k : Nat) (s : State), s.aon.supply = true → s.pwr.seq = .up k → 0 < k → k < 5 → awake s = false →
    s.jobs = vrep 4 none → s.mgmt.debugOpen = false →
    ∃ t, exec (.railFault r) s = .next t ∧ bitAt t.pwr.fault 0 = true ∧ t.pwr.seq = .down (k + 2) .off ∧
      t.pwr.target = .off ∧ t.pwr.transition = true ∧ t.aon.ret[1] = BitVec.ofNat 32 (railCode r + 8) ∧
      bitAt t.aon.wakeCause 7 = true ∧ bitsNat t.aon.wakeCause 26 24 = railCode r ∧ t.aon.railPend = true ∧
      t.glb.phase = .down)

/-- R463, R467, R469: wake sources. WAKE_N in OFF records its cause and starts power-up; while a transition toward RUN is pending
it records its cause and changes nothing else; after a thermal shutdown it waits for the hold to end. A wake pattern on an armed link
records its cause and its link. A write of 1 to a flag of PWR_WAKE_CAUSE clears the flag and the field that goes with it (R486).
R470, R508, R448, R442: resets and the supply. A full chip reset takes the jobs, the image and the drawers' content and leaves the
time, the fuse level, the bad-block table and the protection modes; the loss of 12 V takes the module to OFF on its cell, and its
return starts power-up; AON_POR resets the always-on block. -/
def Obligations.WakesAndResetsTakeWhatTheyName : Prop :=
  ((∀ s : State, s.aon.supply = true → s.pwr.thermalHold = false → s.pwr.target = .run → s.pwr.state ≠ .run →
    ∃ t, exec .wakeN s = .next t ∧ bitAt t.aon.wakeCause 1 = true ∧ t.pwr = s.pwr ∧ t = { s with aon := t.aon }) ∧
  (∀ s : State, s.aon.supply = true → s.pwr.thermalHold = false → s.pwr.state = .off → s.pwr.target = .off →
    s.pwr.seq = .idle →
    ∃ t, exec .wakeN s = .next t ∧ bitAt t.aon.wakeCause 1 = true ∧ bitsNat t.aon.wakeCause 12 10 = 0 ∧
      t.pwr.target = .run ∧ t.pwr.seq = .up 5 ∧ t.glb.phase = .powerUp) ∧
  (∀ s : State, s.aon.supply = true → s.pwr.thermalHold = true →
    exec .wakeN s = .next { s with pwr := { s.pwr with wakeDeferred := true } }) ∧
  (∀ s : State, s.pwr.thermalHold = true → s.pwr.wakeDeferred = false →
    exec .thermalWakeHoldEnd s = .next { s with pwr := { s.pwr with thermalHold := false, wakeDeferred := false } }) ∧
  (∀ (l : Fin 8) (s : State), awake s = true → linkPresent s.part l.val = true → bitAt s.aon.wakeEn (8 + l.val) = true →
    s.pwr.seq = .up 4 → s.pwr.goal = .idle → s.pwr.target = .run → s.pwr.state = .sleep →
    s.links[l].state = .signalDetect →
    ∃ t, exec (.wakePattern l) s = .next t ∧ bitAt t.links[l].fault 8 = true ∧ bitAt t.aon.wakeCause 2 = true ∧
      bitsNat t.aon.wakeCause 22 20 = l.val ∧ (∀ k : Fin 8, k ≠ l → t.links[k] = s.links[k]) ∧
      t = { s with links := t.links, aon := t.aon }) ∧
  (∀ (v : Word) (s : State), awake s = true →
    ∃ t, exec (.pwrWakeCauseClear v) s = .next t ∧
      (∀ n : Fin 10, bitAt t.aon.wakeCause n.val = (bitAt s.aon.wakeCause n.val && !bitAt v n.val)) ∧
      bitsNat t.aon.wakeCause 12 10 = bitsNat s.aon.wakeCause 12 10 ∧ t.aon.ret[0] = t.aon.wakeCause ∧
      bitsNat t.aon.wakeCause 19 16 = (if bitAt v 3 then 0 else bitsNat s.aon.wakeCause 19 16) ∧
      bitsNat t.aon.wakeCause 22 20 = (if bitAt v 2 then 0 else bitsNat s.aon.wakeCause 22 20) ∧
      bitsNat t.aon.wakeCause 26 24 = (if bitAt v 7 then 0 else bitsNat s.aon.wakeCause 26 24) ∧
      t = { s with aon := t.aon })) ∧
  ((∀ s : State, awake s = true → ∃ t, exec .modRstN s = .next t ∧ t.jobs = vrep 4 none ∧ t.img = none ∧
    t.stk.handles = [] ∧ t.stk.bytes = [] ∧ t.aon.time = s.aon.time ∧ t.sec.fuse = s.sec.fuse ∧
    t.fls.bbt = s.fls.bbt ∧ t.fls.prot = s.fls.prot ∧ t.pwr.state = .run ∧ bitAt t.aon.wakeCause 9 = true) ∧
  (∀ s : State, s.aon.supply = true → ∃ t, exec .supply12vLoss s = .next t ∧ t.pwr.state = .off ∧ t.pwr.seq = .idle ∧
    t.aon.onCell = true ∧ t.aon.supply = false ∧ t.aon.tk = .coasting ∧ t.aon.time = s.aon.time ∧
    t.glb.phase = .down ∧ t.jobs = vrep 4 none ∧ t.fls.bbt = s.fls.bbt) ∧
  (∀ s : State, s.aon.supply = false → ∃ t, exec .supply12vApplied s = .next t ∧ t.aon.supply = true ∧ t.aon.onCell = false ∧
    t.pwr.seq = .up 5 ∧ t.pwr.target = .run ∧ bitAt t.aon.wakeCause 0 = true ∧
    (s.aon.cellTrip = true → bitAt t.aon.wakeCause 5 = true) ∧ t.glb.phase = .powerUp) ∧
  (∀ s : State, s.aon.supply = false →
    exec .aonPor s = .next { s with aon := { Aon.reset with supply := false, onCell := true } }))

/-- R464 to R470, R486, R508: the events of the rails, of WAKE_N, MOD_RST_N and the supply, where the module takes them and where it
does not. The last rail of a power-down or power-up ends it; a rail that is not the one of the step, a supply that is already as the
event leaves it, a reset while the module is not powered, and a wake source that is not armed change nothing; an armed one in SLEEP
starts the power-up from VSERDES; WAKE_N that came during the thermal hold acts when it ends. -/
def Obligations.RailAndPinEventsComplete : Prop :=
  ((∀ (k : Nat) (g : PState) (s : State), s.pwr.seq = .down k g → lastDown g ≤ k →
    exec (.railPowerGood (downRail k)) s = .next (reach g (railBias (downRail k) g { s with pwr := { s.pwr with
      rails := s.pwr.rails.set (railIdx (downRail k)) false } }))) ∧
  (∀ (k : Nat) (s : State), s.pwr.seq = .up k → 0 < k → k ≤ (if s.pwr.state = .sleep then 2 else 1) →
    exec (.railPowerGood (upRail k)) s = .next (railsUp (railBias (upRail k) .run { s with pwr := { s.pwr with
      rails := s.pwr.rails.set (railIdx (upRail k)) true } }))) ∧
  (∀ (r : Rail) (s : State), (∀ k g, s.pwr.seq = .down k g → downRail k ≠ r) →
    (∀ k, s.pwr.seq = .up k → k = 0 ∨ upRail k ≠ r) → exec (.railPowerGood r) s = .next s) ∧
  (∀ (k : Nat) (g : PState) (s : State), s.pwr.seq = .down k g →
    exec .railStepTimeout s = .next (downDone k g (recordRail (downRail k) false s))) ∧
  (∀ s : State, (∀ k g, s.pwr.seq ≠ .down k g) → exec .railStepTimeout s = .next s) ∧
  (∀ (r : Rail) (k : Nat) (g : PState) (s : State), s.aon.supply = true → s.pwr.seq = .down k g →
    ∃ t, exec (.railFault r) s = .next t ∧ t.pwr.rails[railIdx r] = false ∧ bitAt t.pwr.fault 0 = true ∧
      t.pwr.seq = .down k g ∧ t.aon.ret[1] = BitVec.ofNat 32 (railCode r) ∧ t = { s with pwr := t.pwr, aon := t.aon }) ∧
  (∀ (r : Rail) (s : State), powered s = false → exec (.railFault r) s = .next s)) ∧
  ((∀ s : State, s.aon.supply = true → s.pwr.thermalHold = false → s.pwr.state = .sleep → s.pwr.seq = .idle →
    s.pwr.target = .sleep → bitAt s.aon.wakeEn 0 = true →
    ∃ t, exec .wakeN s = .next t ∧ bitAt t.aon.wakeCause 1 = true ∧ bitsNat t.aon.wakeCause 12 10 = 2 ∧
      t.pwr.target = .run ∧ t.pwr.seq = .up 4 ∧ t = { s with pwr := t.pwr, aon := t.aon }) ∧
  (∀ s : State, s.pwr.thermalHold = false → s.pwr.state = .sleep → s.pwr.seq = .idle → s.pwr.target = .sleep →
    bitAt s.aon.wakeEn 0 = false → exec .wakeN s = .next s) ∧
  (∀ s : State, s.aon.supply = false → exec .wakeN s = .next s) ∧
  (∀ s : State, s.pwr.thermalHold = true → s.pwr.wakeDeferred = true → s.aon.supply = true → s.pwr.state = .off →
    s.pwr.target = .off → s.pwr.seq = .idle →
    ∃ t, exec .thermalWakeHoldEnd s = .next t ∧ t.pwr.thermalHold = false ∧ t.pwr.wakeDeferred = false ∧
      bitAt t.aon.wakeCause 1 = true ∧ t.pwr.target = .run ∧ t.pwr.seq = .up 5) ∧
  (∀ s : State, s.pwr.thermalHold = false → exec .thermalWakeHoldEnd s = .next s) ∧
  (∀ (l : Fin 8) (s : State), awake s = true → linkPresent s.part l.val = true → bitAt s.aon.wakeEn (8 + l.val) = true →
    s.pwr.state = .sleep → s.pwr.seq = .idle → s.pwr.target = .sleep →
    (s.links[l].state = .signalDetect ∨ s.links[l].state = .training) →
    ∃ t, exec (.wakePattern l) s = .next t ∧ bitAt t.links[l].fault 8 = true ∧ t.links[l].state = .signalDetect ∧
      bitAt t.aon.wakeCause 2 = true ∧ bitsNat t.aon.wakeCause 22 20 = l.val ∧ t.pwr.target = .run ∧ t.pwr.seq = .up 4 ∧
      t = { s with links := t.links, pwr := t.pwr, aon := t.aon }) ∧
  (∀ (l : Fin 8) (s : State), (awake s = false ∨ linkPresent s.part l.val = false ∨
    bitAt s.aon.wakeEn (8 + l.val) = false) → exec (.wakePattern l) s = .next s) ∧
  (∀ (v : Word) (s : State), awake s = true → bitAt v 2 = false → bitAt v 3 = false → bitAt v 7 = false →
    exec (.pwrWakeCauseClear v) s = .next { s with aon := { s.aon with
      wakeCause := s.aon.wakeCause &&& ~~~(v &&& 0x3FF), ret := s.aon.ret.set 0 (s.aon.wakeCause &&& ~~~(v &&& 0x3FF)) } }) ∧
  (∀ (v : Word) (s : State), awake s = false → exec (.pwrWakeCauseClear v) s = .next s)) ∧
  ((∀ s : State, awake s = true →
    ∃ t, exec .modRstN s = .next t ∧ t.links = vrep 8 Link.reset ∧ t.ws = Ws.reset ∧ t.bnc = vrep 4 Bench.reset ∧
      t.pln = vrep 16 Plane.reset ∧ t.sns = vrep 24 Port.reset ∧
      bitsNat t.aon.wakeCause 12 10 = stateCode s.pwr.state) ∧
  (∀ s : State, awake s = false → exec .modRstN s = .next s) ∧
  (∀ s : State, s.aon.supply = true →
    ∃ t, exec .supply12vLoss s = .next t ∧ t.pwr.rails = vrep 5 false ∧ t.pwr.bias = .unpowered ∧
      t.pwr.transition = false ∧ t.links = vrep 8 Link.reset ∧ t.img = none ∧ t.stk.bytes = []) ∧
  (∀ s : State, s.aon.supply = false → exec .supply12vLoss s = .next s) ∧
  (∀ s : State, s.aon.supply = false →
    ∃ t, exec .supply12vApplied s = .next t ∧ t.pwr.goal = .run ∧ t.pwr.transition = true ∧ t.aon.cellTrip = false ∧
      t.jobs = vrep 4 none ∧ t.aon.time = s.aon.time) ∧
  (∀ s : State, s.aon.supply = true → exec .supply12vApplied s = .next s ∧ exec .aonPor s = .next s) ∧
  (∀ s : State, s.aon.supply = false →
    ∃ t, exec .aonPor s = .next t ∧ t.aon = { Aon.reset with supply := false, onCell := true } ∧ t = { s with aon := t.aon }))

/-- R463: at the limit of the quiescing time every open step aborts, QUIESCE_TIMEOUT is set and posted, and the rails fall
(a module that still has to leave its workshop first leaves it, unless its fabric step was open; log entry 77).
R478 to R481: SELFTEST and RETRAIN give a PENDING result and stay pending, or end BUSY while one is pending; the triggers of a
drawer's retrain, and its end. -/
def Obligations.TestsRetrainsAndQuiescingEnd : Prop :=
  ((∀ (g : PState) (s : State), s.pwr.seq = .quiesce g →
    exec .quiesceTimeout s =
      (let s2 := eachSlot quiesceJob (post (ev 0x010B) { s with pwr := { s.pwr with fault := orBit s.pwr.fault 3 } })
       .next (if fabricOpen s || s.ws.leaving || !isMember s2 then powerLost g (unjoin s2) else quiesced g s2))) ∧
  (∀ s : State, (∀ g, s.pwr.seq ≠ .quiesce g) → exec .quiesceTimeout s = .next s)) ∧
  ((∀ (c : Cmd) (s s1 : State), Runs c 0x30 s s1 → bitsFrom c.a0 3 = false → pendingUnits s = true →
    exec (.selftest c) s = .next (endWith (pendOf c 0x30 s1) stBusy s1)) ∧
  (∀ (c : Cmd) (s s1 : State), Runs c 0x30 s s1 → bitsFrom c.a0 3 = false → pendingUnits s = false →
    noJobRuns s = false →
    ∃ t r, exec (.selftest c) s = .next t ∧ t.pwr.selftest = some r ∧ r.pend = pendOf c 0x30 s1 ∧ r.running = false ∧
      (∀ b : Nat, b ∈ r.benches ↔ ∃ h : b < 4, bitAt c.a0 0 = true ∧ s.bnc[b].state ≠ .outOfService) ∧
      t = { s with pwr := { s.pwr with selftest := t.pwr.selftest }, hif := t.hif, mgmt := t.mgmt, evt := t.evt,
                   aon := t.aon }) ∧
  (∀ (c : Cmd) (s s1 : State), Runs c 0x31 s s1 → bitsFrom c.a0 12 = false → pendingUnits s = true →
    exec (.retrain c) s = .next (endWith (pendOf c 0x31 s1) stBusy s1)) ∧
  (∀ (c : Cmd) (s s1 : State), Runs c 0x31 s s1 → bitsFrom c.a0 12 = false → pendingUnits s = false →
    noJobRuns s = false → presentLinks s c.a0 ≠ 0 →
    ∃ t, exec (.retrain c) s = .next t ∧
      t.pwr.retrain = some ⟨pendOf c 0x31 s1, presentLinks s c.a0, presentDrawers s c.a0, 0⟩ ∧
      t = { s with pwr := { s.pwr with retrain := t.pwr.retrain }, hif := t.hif, mgmt := t.mgmt, evt := t.evt,
                   aon := t.aon }) ∧
  (∀ (d : Fin 4) (s : State), running s = true → drawerPresent s.part d.val = true → s.pwr.drawersNow = [] →
    exec (.dramCorrBurst d) s = .next { s with pwr := { s.pwr with drawersNow := [d.val] } }) ∧
  (∀ (d : Fin 4) (s : State), running s = true → drawerPresent s.part d.val = true → noJobRuns s = false →
    exec (.dramMarginLow d) s = .next { s with pwr := { s.pwr with
      drawerMarks := s.pwr.drawerMarks ||| BitVec.ofNat 4 (2 ^ d.val) } }) ∧
  (∀ (d : Fin 4) (ok : Bool) (s : State), running s = true → s.pwr.drawersNow = [d.val] → s.pwr.armed = 0 →
    s.pwr.retrain = none →
    ∃ t, exec (.dramRetrainDone d ok) s = .next t ∧ t.pwr.drawersNow = [] ∧
      t.pwr.ctrs[4] = ctrAdd s.pwr.ctrs[4] 1 ∧
      t.pwr.dramTemp[d] = (if ok then s.pwr.temp else s.pwr.dramTemp[d]) ∧
      (ok = false → bitAt t.pwr.fault 4 = true) ∧ t = { s with pwr := t.pwr, evt := t.evt }))

/-- R474 to R477: temperature. Above 100 °C a sample raises the duty gate by one, up to 7; below 98 °C it falls by one; the peak
follows; at 115 °C the module goes down to OFF, with the temperature kept in retention word 4.
R471, R472: the watchdog. An expiry counts and takes the management core down, with its session and the flash unlock sessions;
the third within 60 s is a warm restart; the core's return posts 0x0106. -/
def Obligations.TemperatureAndWatchdogActWithoutTheHost : Prop :=
  ((∀ (v : BitVec 8) (s : State), running s = true → noJobRuns s = false → (∀ l : Fin 8, carries s.links[l] = false) →
    (∀ d : Fin 4, tempGap v s.pwr.dramTemp[d] ≤ 20) → s.pwr.gate = 0 → v.toInt ≤ 100 →
    exec (.thermalSample v) s = .next { s with pwr := { s.pwr with
      temp := v, peak := if s.pwr.peak.toInt < v.toInt then v else s.pwr.peak } }) ∧
  (∀ (v : BitVec 8) (s : State), running s = true → noJobRuns s = false → (∀ l : Fin 8, carries s.links[l] = false) →
    (∀ d : Fin 4, tempGap v s.pwr.dramTemp[d] ≤ 20) → 100 < v.toInt → s.pwr.gate ≤ 7 →
    ∃ t, exec (.thermalSample v) s = .next t ∧ t.pwr.temp = v ∧ t.pwr.gate = min 7 (s.pwr.gate + 1) ∧
      (s.pwr.gate = 0 → bitAt t.pwr.fault 5 = true) ∧
      t = { s with pwr := t.pwr, evt := t.evt, hif := t.hif, free := t.free }) ∧
  (∀ s : State, running s = true → 1 < s.pwr.gate → s.pwr.temp.toInt < 98 →
    exec .throttleRelax s = .next { s with pwr := { s.pwr with gate := s.pwr.gate - 1 } }) ∧
  (∀ s : State, running s = true → s.pwr.gate = 1 → s.pwr.temp.toInt < 98 →
    ∃ t, exec .throttleRelax s = .next t ∧ t.pwr.gate = 0 ∧ bitAt t.pwr.fault 5 = false ∧
      t = { s with pwr := t.pwr, evt := t.evt, hif := t.hif }) ∧
  (∀ (v : BitVec 8) (s : State), powered s = true → 115 ≤ v.toInt → s.pwr.thermalHold = false →
    ∃ t, exec (.thermalShutdown v) s = .next t ∧ t.pwr.seq = .down 2 .off ∧ t.pwr.target = .off ∧
      t.pwr.thermalHold = true ∧ t.glb.phase = .down ∧ t.aon.ret[4] = v.setWidth 32 ∧ t.aon.thermPend = true ∧
      bitAt t.aon.wakeCause 6 = true ∧ t.jobs = vrep 4 none) ∧
  (∀ s : State, awake s = true →
    exec .peakClr s = .next { s with pwr := { s.pwr with peak := s.pwr.temp } })) ∧
  ((∀ s : State, awake s = true → s.pwr.coreDown = false → (recentDogs s).length < 3 →
    ∃ t, exec .watchdogExpiry s = .next t ∧ t.pwr.coreDown = true ∧ t.mgmt.session = none ∧ t.fls.sessions = 0 ∧
      t.pwr.ctrs[3] = ctrAdd s.pwr.ctrs[3] 1 ∧ t.jobs = s.jobs ∧ t.links = s.links ∧ t.stk = s.stk) ∧
  (∀ s : State, awake s = true → s.pwr.coreDown = false → 3 ≤ (recentDogs s).length →
    ∃ t, exec .watchdogExpiry s = .next t ∧ t.jobs = vrep 4 none ∧ t.glb.state = .restarting ∧
      bitAt t.aon.wakeCause 8 = true ∧ bitAt t.pwr.fault 2 = true) ∧
  (∀ s : State, awake s = true → s.pwr.coreDown = true →
    ∃ t, exec .mgmtCoreResume s = .next t ∧ t.pwr.coreDown = false ∧ bitAt t.pwr.fault 2 = true ∧
      bitAt t.aon.wakeCause 8 = true ∧ t = { s with pwr := t.pwr, aon := t.aon, evt := t.evt, col := (colAgain (fun _ => true) s).col }))

/-! ### Images and boot -/

/-- R332, R388: IMAGE_OPEN of a well-formed length on a region that accepts writes abandons an earlier session, opens one on the inactive
bank, whose state is OPEN, and queues the erase of its blocks; the command stays PENDING. Its checks end it before.
R332, R380: IMAGE_WRITE within its session, with an input message that is accepted (over the management port, data of the length
named), queues the programming of its code words; without a session it ends REFUSED, outside the session's range BAD_ARG.
R380, R381: a bounce message whose tag fails, or whose counter does not rise, is turned away with AUTH_FAIL, counts, sets FAULT
bit 3 and posts 0x0683; the host's counter moves only with an accepted message. -/
def Obligations.ImagesAreOpenedWrittenAndAuthenticated : Prop :=
  ((∀ (c : Cmd) (s s1 : State), Runs c 0x10 s s1 → bitsFrom c.a1 1 = false → 0 < c.a0.toNat → c.a0.toNat ≤ 67108864 →
    c.a0.toNat % 32 = 0 → regionShut (bankRegion (openTarget s (bitAt c.a1 0))) s = false →
    blocksFor c.a0.toNat ≤ regionBlocks (bankRegion (openTarget s (bitAt c.a1 0))) s →
    ∃ t, exec (.imageOpen c) s = .next t ∧
      t.fls.img = some ⟨openTarget s (bitAt c.a1 0), c.a0.toNat, c.origin, 0, blocksFor c.a0.toNat⟩ ∧
      bankSt t (openTarget s (bitAt c.a1 0)) = .open_ ∧
      (∃ x ∈ t.fls.tasks, x.done = .imageOpen ∧ x.pend = some (pendOf c 0x10 s1) ∧
        x.ops = eraseOps (regionBase (bankRegion (openTarget s (bitAt c.a1 0)))) (blocksFor c.a0.toNat)) ∧
      t.fls.words = s.fls.words ∧
      t = { s with fls := t.fls, glb := { s.glb with bankA := t.glb.bankA, bankB := t.glb.bankB }, hif := t.hif,
                   mgmt := t.mgmt, evt := t.evt }) ∧
  (∀ (c : Cmd) (s s1 : State), Runs c 0x10 s s1 → bitsFrom c.a1 1 = false →
    (c.a0 = 0 ∨ 67108864 < c.a0.toNat ∨ c.a0.toNat % 32 ≠ 0) →
    exec (.imageOpen c) s = .next (endWith (pendOf c 0x10 s1) stBadArg s1)) ∧
  (∀ (c : Cmd) (s s1 : State), Runs c 0x10 s s1 → bitsFrom c.a1 1 = false → 0 < c.a0.toNat → c.a0.toNat ≤ 67108864 →
    c.a0.toNat % 32 = 0 → regionShut (bankRegion (openTarget s (bitAt c.a1 0))) s = true →
    exec (.imageOpen c) s = .next (endWith (pendOf c 0x10 s1) stProtected
      (protectedFault (bankRegion (openTarget s (bitAt c.a1 0))) s1)))) ∧
  ((∀ (c : Cmd) (m : List Byte) (x : ImgSession) (s s1 : State), Runs c 0x11 s s1 → c.origin = .mgmt →
    sessionOf s c.origin = some x → writeFits { c with a2 := 0 } x = true → m.length = c.a1.toNat →
    regionShut (bankRegion x.bank) s = false →
    exec (.imageWrite c m) s = .next (queueTask ⟨3, writeOps (bankWord x.bank + c.a0.toNat / 32) (c.a1.toNat / 32) m,
      .imageWrite, some (pendOf c 0x11 s1), 0⟩ (startPending (pendOf c 0x11 s1) s1))) ∧
  (∀ (c : Cmd) (m d : List Byte) (x : ImgSession) (e : Session) (s s1 : State), Runs c 0x11 s s1 → c.origin = .mailbox →
    sessionOf s c.origin = some x → writeFits c x = true → s.hif.session = some e → e.h2d ≠ some (BitVec.allOnes 64) →
    bounceFits 0x11 c.a2.toNat (some c.a1.toNat) m = true → openBounce e m = some d →
    counterRises e (bounceCounter m) = true → bounceCounter m ≠ BitVec.allOnes 64 → regionShut (bankRegion x.bank) s = false →
    exec (.imageWrite c m) s = .next (queueTask ⟨3, writeOps (bankWord x.bank + c.a0.toNat / 32) (c.a1.toNat / 32) d,
      .imageWrite, some (pendOf c 0x11 s1), 0⟩ (startPending (pendOf c 0x11 s1)
        { s1 with hif := { s1.hif with session := some { e with h2d := some (bounceCounter m) } } }))) ∧
  (∀ (c : Cmd) (m : List Byte) (s s1 : State), Runs c 0x11 s s1 → sessionOf s c.origin = none →
    exec (.imageWrite c m) s = .next (endWith (pendOf c 0x11 s1) stRefused s1)) ∧
  (∀ (c : Cmd) (m : List Byte) (x : ImgSession) (s s1 : State), Runs c 0x11 s s1 → c.origin = .mailbox →
    sessionOf s c.origin = some x → x.length < c.a0.toNat + c.a1.toNat →
    exec (.imageWrite c m) s = .next (endWith (pendOf c 0x11 s1) stBadArg s1))) ∧
  ((∀ (c : Cmd) (op : Byte) (off : Nat) (n : Option Nat) (m : List Byte) (x : Session) (s : State), c.origin = .mailbox →
    s.hif.session = some x → x.h2d ≠ some (BitVec.allOnes 64) → bounceFits op off n m = true →
    (openBounce x m = none ∨ counterRises x (bounceCounter m) = false) →
    (takeBounce c op off n m s).1 = .inl stAuthFail ∧ bitAt (takeBounce c op off n m s).2.hif.fault 3 = true ∧
    (takeBounce c op off n m s).2.hif.ctrs[2] = ctrAdd s.hif.ctrs[2] 1 ∧
    (takeBounce c op off n m s).2.hif.session = some x) ∧
  (∀ (c : Cmd) (op : Byte) (off : Nat) (n : Option Nat) (m d : List Byte) (s t : State), c.origin = .mailbox →
    takeBounce c op off n m s = (.inr d, t) →
    ∃ x, s.hif.session = some x ∧ counterRises x (bounceCounter m) = true ∧ openBounce x m = some d ∧
      t.hif.session = some { x with h2d := some (bounceCounter m) }) ∧
  (∀ (c : Cmd) (op : Byte) (off : Nat) (n : Option Nat) (m : List Byte) (s : State), c.origin = .mailbox →
    s.hif.session = none → takeBounce c op off n m s = (.inl stRefused, s)))

/-- R332, R328: IMAGE_COMMIT of a session waits its turn in the flash queue; its checks run in order, and only an image that passes
them all makes its bank VALID, with a VALID word in the selector log.
R333: IMAGE_SELECT of a VALID bank whose image has the named id, with no job, no export and no session, writes SELECT and restarts the module;
every refusal leaves the machine as it is but for the result. -/
def Obligations.ImagesAreCommittedAndSelected : Prop :=
  ((∀ (c : Cmd) (v : CommitVerdict) (x : ImgSession) (s s1 : State), Runs c 0x12 s s1 → sessionOf s c.origin = some x →
    exec (.imageCommit c v) s =
      .next (queueTask ⟨3, [], .imageCommit v, some (pendOf c 0x12 s1), 0⟩ (startPending (pendOf c 0x12 s1) s1))) ∧
  (∀ (c : Cmd) (v : CommitVerdict) (s s1 : State), Runs c 0x12 s s1 → sessionOf s c.origin = none →
    exec (.imageCommit c v) s = .next (endWith (pendOf c 0x12 s1) stRefused s1)) ∧
  (∀ (x : ImgSession) (v : CommitVerdict) (s : State), (commitImage x v s).2.fls.img = none ∧
    (bankSt (commitImage x v s).2 x.bank = .valid ↔ (commitImage x v s).1 = stDone) ∧
    ((commitImage x v s).1 ≠ stDone → bankSt (commitImage x v s).2 x.bank = .invalid) ∧
    bankSt (commitImage x v s).2 (otherBank x.bank) = bankSt s (otherBank x.bank)) ∧
  (∀ (x : ImgSession) (v : CommitVerdict) (s : State), commitStatus x v s = stDone ↔
    (x.written * 32 = x.length ∧ commitMargin x v = none ∧ headerOk (bankHeader s x.bank) = true ∧
      (bankHeader s x.bank).length = x.length ∧ (bankHeader s x.bank).signer ∈ signers s ∧ v.sigOk = true ∧
      s.fls.ar ≤ (bankHeader s x.bank).svn.toNat ∧ fitsCaps s (bankHeader s x.bank).reqCaps = true ∧
      (bankHeader s x.bank).svn.toNat ≤ 4096))) ∧
  ((∀ (c : Cmd) (b : Bank) (s s1 : State), Runs c 0x13 s s1 → bitsFrom c.a0 1 = false →
    b = (if bitAt c.a0 0 then .b else .a) → selectBusy s = false → bankSt s b = .valid → s.fls.img = none →
    (bankHeader s b).imageId.toNat = c.a1.toNat + c.a2.toNat * 2 ^ 32 →
    ∃ t, exec (.imageSelect c) s = .next t ∧ t.glb.state = .restarting ∧ t.glb.select = some (pendOf c 0x13 s1) ∧
      t.img = none ∧ t.jobs = vrep 4 none ∧ t.aon.time = s.aon.time ∧
      (s.fls.selLog.length < 2048 → ∃ w, t.fls.selLog = s.fls.selLog ++ [w] ∧ w.kind = .select ∧ w.bank = b)) ∧
  (∀ (c : Cmd) (s s1 : State), Runs c 0x13 s s1 → bitsFrom c.a0 1 = false → selectBusy s = true →
    exec (.imageSelect c) s = .next (endWith (pendOf c 0x13 s1) stBusy s1)) ∧
  (∀ (c : Cmd) (s s1 : State), Runs c 0x13 s s1 → bitsFrom c.a0 1 = false → selectBusy s = false →
    (bankSt s (if bitAt c.a0 0 then .b else .a) ≠ .valid ∨ s.fls.img ≠ none) →
    exec (.imageSelect c) s = .next (endWith (pendOf c 0x13 s1) stRefused s1)))

/-- R18, R325, R329, R330: the phases of a boot. With no selection under way and no CONFIRM the boot goes on without an image and ends
in NO_IMAGE; a bank whose check passes leads through training and parse to RUN; the time limit refuses the image.
R329, R331: a trial that completes parse is confirmed (its bank ACTIVE, the bank before it VALID, the anti-rollback counter raised to
its SVN); one that is refused is abandoned, and the module restarts on the confirmed bank. -/
def Obligations.BootAndTrialsRunThroughTheirPhases : Prop :=
  ((∀ (ok weak : Bool) (reads : List FlashRead) (s : State), s.glb.phase = .verify →
    selRead s.fls.selLog = ⟨none, none⟩ →
    ∃ t, exec (.imageVerifyDone ok reads weak) s = .next t ∧ t.glb.phase = .training ∧ t.img = none ∧
      t.glb.bootBank = none ∧ t.fls.words = s.fls.words ∧
      (∀ l : Fin 8, linkPresent s.part l.val = true → s.links[l].disable = false → t.links[l].state = .signalDetect)) ∧
  (∀ (w : SelWord) (weak : Bool) (s : State), s.glb.phase = .verify → selRead s.fls.selLog = ⟨some w, none⟩ →
    w.svn.toNat ≤ s.fls.ar → badWords s w.bank (bankHeader s w.bank).length = 0 →
    headerOk (bankHeader s w.bank) = true → imageRefusal (bankHeader s w.bank) true s = none →
    ∃ t, exec (.imageVerifyDone true [] weak) s = .next t ∧ t.glb.phase = .training ∧ t.glb.bootBank = some w.bank ∧
      t.glb.trial = false ∧ t.sec.mr2 = some (bankHeader s w.bank).imageId ∧ t.fls.ar = s.fls.ar) ∧
  (∀ (b : Bank) (s : State), bootTrained s = true → s.glb.bootBank = some b →
    ∃ t, exec .trainingDone s = .next t ∧ t.glb.phase = .parse ∧ t.stk.patrol = true ∧
      t = { s with glb := t.glb, pwr := { s.pwr with dramTemp := t.pwr.dramTemp }, stk := { s.stk with patrol := true } }) ∧
  (∀ s : State, bootTrained s = true → s.glb.bootBank = none → s.pwr.target = .run →
    ∃ t, exec .trainingDone s = .next t ∧ t.glb.phase = .done ∧ t.glb.state = .noImage ∧ t.img = none) ∧
  (∀ (body : ImageBody) (ms : Word) (b : Bank) (s : State), s.glb.phase = .parse → s.glb.bootBank = some b →
    s.glb.trial = false → parseRefusal ⟨s.part, bankHeader s b, { body with table := bankTable s b }⟩ = none → autoJobs body = [] →
    s.pwr.transition = false → s.pwr.target = .run →
    ∃ t, exec (.parseComplete body ms) s = .next t ∧ t.glb.phase = .done ∧ t.glb.state = .running ∧
      (t.img.map (·.body)) = some { body with table := bankTable s b } ∧ t.glb.imageId = (bankHeader s b).imageId ∧ t.glb.bootMs = ms ∧
      t.pwr.seq = .idle ∧ s.sec.fuse ≤ t.sec.fuse ∧ s.sec.fwSvn.toNat ≤ t.sec.fuse ∧ t.jobs = s.jobs) ∧
  (∀ (body : ImageBody) (ms : Word) (b : Bank) (st : Byte) (s : State), s.glb.phase = .parse → s.glb.bootBank = some b →
    s.glb.trial = false → parseRefusal ⟨s.part, bankHeader s b, { body with table := bankTable s b }⟩ = some st → s.pwr.target = .run →
    ∃ t, exec (.parseComplete body ms) s = .next t ∧ t.glb.lastStatus = st ∧ t.glb.state = .noImage ∧ t.img = none) ∧
  (∀ (b : Bank) (s : State), (s.glb.phase = .training ∨ s.glb.phase = .parse) → s.glb.bootBank = some b →
    s.glb.trial = false → s.pwr.target = .run →
    ∃ t, exec .bootTimeout s = .next t ∧ t.glb.lastStatus = stAborted ∧ t.glb.state = .noImage ∧ t.img = none) ∧
  (∀ (f : FwCopy) (s : State), s.glb.phase = .noFirmware → f.sigOk = true → s.sec.fuse ≤ f.svn.toNat →
    exec (.jtagRecoveryLoad f) s = .next { s with
      aon := { s.aon with debugSeen := true }, glb := { s.glb with phase := .verify },
      sec := { s.sec with fwSvn := f.svn, fwVersion := f.version } })) ∧
  ((∀ (x : Bank) (h : ImgHeader) (s : State), h.svn.toNat ≤ 4096 →
    bankSt (confirmBank x h s) x = .active ∧ (confirmBank x h s).glb.active = some x ∧
    (confirmBank x h s).fls.ar = max s.fls.ar h.svn.toNat ∧
    (s.glb.active = some (otherBank x) → bankSt (confirmBank x h s) (otherBank x) = .valid)) ∧
  (∀ (st : Byte) (x : Bank) (s : State), (fallBack st x s).glb.fallback = true ∧ (fallBack st x s).glb.lastStatus = st ∧
    (fallBack st x s).glb.select = none ∧ (fallBack st x s).img = none ∧
    (s.fls.selLog.length < 2048 →
      ∃ w, (fallBack st x s).fls.selLog = s.fls.selLog ++ [w] ∧ w.kind = .abandon ∧ w.bank = x)))

/-! ### The flash -/

/-- R356, R358: FLASH_UNLOCK with the password opens a session on the PASSWORD_LOCKED regions of the mask; a wrong password counts, and
the eighth in a row locks out, which AON power alone ends.
R357: FLASH_LOCK in each of its modes, with no PERMANENT region in the mask: the words that record it are queued in class 2, DONE
at once where nothing changes, and each takes effect as it has been programmed; a mask with a PERMANENT region is turned away
PROTECTED, and one that has become PERMANENT while the word waited stays so (log entry 17). -/
def Obligations.FlashLocksFollowPasswordAndState : Prop :=
  ((∀ (c : Cmd) (d : BitVec 128) (s s1 : State), Runs c 0x60 s s1 → bitsFrom c.a0 16 = false → s.aon.lockout = false →
    s.fls.password = some d → passDigest s.serial c.a1 c.a2 = d →
    exec (.flashUnlock c) s = .next (endWith (pendOf c 0x60 s1) stDone { s1 with fls := { s1.fls with
      sessions := s1.fls.sessions ||| lockedOf s1 c.a0, unlockFails := 0 } })) ∧
  (∀ (c : Cmd) (d : BitVec 128) (s s1 : State), Runs c 0x60 s s1 → bitsFrom c.a0 16 = false → s.aon.lockout = false →
    s.fls.password = some d → passDigest s.serial c.a1 c.a2 ≠ d →
    ∃ t, exec (.flashUnlock c) s = .next t ∧ t.fls.unlockFails = s.fls.unlockFails + 1 ∧ bitAt t.fls.fault 6 = true ∧
      (s.fls.unlockFails = 7 → t.aon.lockout = true ∧ t.fls.sessions = 0 ∧ bitAt t.fls.fault 7 = true) ∧
      (s.fls.unlockFails ≠ 7 → t.aon.lockout = false ∧ t.fls.sessions = s.fls.sessions) ∧ t.fls.prot = s.fls.prot ∧
      t = { s with fls := t.fls, aon := t.aon, evt := t.evt, hif := t.hif, mgmt := t.mgmt }) ∧
  (∀ (c : Cmd) (s s1 : State), Runs c 0x60 s s1 → bitsFrom c.a0 16 = false → s.aon.lockout = true →
    exec (.flashUnlock c) s = .next (endWith (pendOf c 0x60 s1) stProtected s1)) ∧
  (∀ (c : Cmd) (s s1 : State), Runs c 0x60 s s1 → bitsFrom c.a0 16 = false → s.aon.lockout = false →
    s.fls.password = none → exec (.flashUnlock c) s = .next (endWith (pendOf c 0x60 s1) stRefused s1)) ∧
  (∀ (n : Fin 16) (m : Word) (s : State), bitAt (lockedOf s m) n.val = (bitAt m n.val && s.fls.prot[n] == .passwordLocked))) ∧
  ((∀ (c : Cmd) (s s1 : State), Runs c 0x61 s s1 → bitsFrom c.a0 16 = false → c.a1 = 0 →
    exec (.flashLockClose c) s = .next (endWith (pendOf c 0x61 s1) stDone { s1 with fls := { s1.fls with
      sessions := s1.fls.sessions &&& ~~~(c.a0.setWidth 16) } })) ∧
  (∀ (c : Cmd) (s s1 : State), Runs c 0x61 s s1 → bitsFrom c.a0 16 = false → c.a1 = 1 → hasPermanent s c.a0 = false →
    s.fls.password ≠ none →
    exec (.flashLockSetPasswordLocked c) s =
      .next (changeProt (protOps c.a0 (· == .unlocked) .passwordLocked s) (pendOf c 0x61 s1) s1)) ∧
  (∀ (c : Cmd) (s s1 : State), Runs c 0x61 s s1 → bitsFrom c.a0 16 = false → c.a1 = 2 → hasPermanent s c.a0 = false →
    maskedAny s c.a0 (shutOut s) = false →
    exec (.flashLockSetPermanent c) s =
      .next (changeProt (protOps c.a0 (fun _ => true) .permanent s) (pendOf c 0x61 s1) s1)) ∧
  (∀ (c : Cmd) (s s1 : State), Runs c 0x61 s s1 → bitsFrom c.a0 16 = false → c.a1 = 3 → hasPermanent s c.a0 = false →
    maskedAny s c.a0 (shutOut s) = false →
    exec (.flashLockSetUnlocked c) s =
      .next (changeProt (protOps c.a0 (· == .passwordLocked) .unlocked s) (pendOf c 0x61 s1) s1)) ∧
  (∀ (c : Cmd) (s s1 : State), Runs c 0x61 s s1 → c.a1 = 4 → (List.finRange 16).any (shutOut s) = false →
    exec (.flashLockSetPassword c) s = .next (queueTask
      ⟨2, [.password (passDigest s.serial c.a2 c.a3)], .protection, some (pendOf c 0x61 s1), 0⟩
      (startPending (pendOf c 0x61 s1) s1))) ∧
  (∀ (c : Cmd) (i : Instr) (s s1 : State), Runs c 0x61 s s1 → bitsFrom c.a0 16 = false → hasPermanent s c.a0 = true →
    ((c.a1 = 1 ∧ i = .flashLockSetPasswordLocked c) ∨ (c.a1 = 2 ∧ i = .flashLockSetPermanent c) ∨
      (c.a1 = 3 ∧ i = .flashLockSetUnlocked c)) →
    ∃ t, exec i s = .next t ∧ t.fls.prot = s.fls.prot ∧ bitAt t.fls.fault 9 = true)) ∧
  ((∀ (n : Fin 16) (m : Word) (f : Prot → Bool) (st : Prot) (s : State),
    FlashOp.protect n st ∈ protOps m f st s ↔ (bitAt m n.val = true ∧ f s.fls.prot[n] = true)) ∧
  (∀ (ops : List FlashOp) (p : Pend) (s : State), ops ≠ [] →
    changeProt ops p s = queueTask ⟨2, ops, .protection, some p, 0⟩ (startPending p s) ∧
    changeProt [] p s = endWith p stDone s) ∧
  (∀ (u : FlashTask) (n : Fin 16) (st : Prot) (s : State), awake s = true → s.fls.issued = some u →
    u.ops = [.protect n st] → u.done = .protection → s.fls.prot[n] ≠ .permanent →
    ∃ t, exec (.flashProgramDone true true) s = .next t ∧ t.fls.prot = s.fls.prot.set n st ∧ t.fls.issued = none ∧
      t.fls.words = s.fls.words) ∧
  (∀ (u : FlashTask) (n : Fin 16) (st : Prot) (s : State), awake s = true → s.fls.issued = some u →
    u.ops = [.protect n st] → u.done = .protection → s.fls.prot[n] = .permanent →
    ∃ t, exec (.flashProgramDone true true) s = .next t ∧ t.fls.prot = s.fls.prot ∧ t.fls.issued = none) ∧
  (∀ (u : FlashTask) (d : BitVec 128) (s : State), awake s = true → s.fls.issued = some u →
    u.ops = [.password d] → u.done = .protection →
    ∃ t, exec (.flashProgramDone true true) s = .next t ∧ t.fls.password = some d ∧ t.fls.prot = s.fls.prot ∧
      t.fls.issued = none))

/-- R340, R343 to R345: the die takes one operation at a time: once the exports and refreshes that are due have joined the queue, the
first of the highest class is issued, an erase after its ERASE word and count; a word that is programmed, once erased, holds its data; a block that is erased lists no word; a program aimed at a
word that is not erased is refused and fails its task.
R351 to R353: a retired block's entry is appended to the bad-block table; while spares are left, one stands behind the block; with
none, a data-class region shrinks, and a code-class region takes a donor's last block. -/
def Obligations.FlashOperationsAndRetirement : Prop :=
  ((∀ (u : FlashTask) (a : Nat) (d : List Byte) (rest : List FlashOp) (s j : State), awake s = true → s.pwr.coreDown = false →
    j = joinQueue s → j.fls.issued = none → nextTask j.fls.tasks = some u → u.ops = .program a d :: rest →
    exec .flashQueueIssue s = .next { j with fls := { j.fls with tasks := takeTask u j.fls.tasks, issued := some u } }) ∧
  (∀ (u : FlashTask) (b : Nat) (rest : List FlashOp) (s j : State), awake s = true → s.pwr.coreDown = false →
    j = joinQueue s → j.fls.issued = none → nextTask j.fls.tasks = some u → u.ops = .erase b :: rest →
    exec .flashQueueIssue s = .next (countErase b (loseOld u.done
      { j with fls := { j.fls with tasks := takeTask u j.fls.tasks, issued := some u } }))) ∧
  (∀ (b : Nat) (s : State), s.fls.hkLog.length < 2048 →
    (countErase b s).fls.eraseCounts =
      tabPut (physOf s b) (tabGet 0 (physOf s b) s.fls.eraseCounts + 1) s.fls.eraseCounts ∧
    (∃ w, (countErase b s).fls.hkLog = s.fls.hkLog ++ [w] ∧ ∃ n, w.item = .erase b n) ∧
    (countErase b s).fls.words = s.fls.words ∧ (countErase b s).fls.issued = s.fls.issued) ∧
  (∀ s : State, s.sq.exports = vrep 4 none → s.jobs = vrep 4 none → s.fls.marks = [] → joinQueue s = s) ∧
  (∀ (u : FlashTask) (a : Nat) (d : List Byte) (o : FlashOp) (rest : List FlashOp) (s : State), awake s = true →
    s.fls.issued = some u → u.ops = .program a d :: o :: rest → tabFind a s.fls.words = none → verifies u = false →
    u.run + 1 < 64 → (∀ b, o ≠ .erase b) → tabSorted s.fls.words = true →
    ∃ t, exec (.flashProgramDone true true) s = .next t ∧ tabFind a t.fls.words = some (.good d) ∧
      (∀ b, b ≠ a → tabFind b t.fls.words = tabFind b s.fls.words) ∧
      t.fls.issued = some { u with ops := o :: rest, run := u.run + 1 } ∧
      t.fls.ctrs[2] = ctrAdd s.fls.ctrs[2] 1 ∧ t = { s with fls := t.fls, evt := t.evt, free := t.free }) ∧
  (∀ (u : FlashTask) (a : Nat) (d : List Byte) (rest : List FlashOp) (w : WordState) (ok m : Bool) (s : State),
    awake s = true → s.fls.issued = some u → u.ops = .program a d :: rest → tabFind a s.fls.words = some w →
    claimedSpare u = [] → (∀ slot v, u.done ≠ .keyStore slot v) →
    ∃ t, exec (.flashProgramDone ok m) s = .next t ∧ t.fls.words = s.fls.words ∧ t.fls.issued = none ∧
      bitAt t.fls.fault 0 = true) ∧
  (∀ (u : FlashTask) (b : Nat) (o : FlashOp) (rest : List FlashOp) (s : State), awake s = true →
    s.fls.issued = some u → u.ops = .erase b :: o :: rest → verifies u = false →
    tabGet 0 (physOf s b) s.fls.eraseCounts < 100000 →
    ∃ t, exec (.flashEraseDone true true) s = .next t ∧ t.fls.words = dropWords b s.fls.words ∧
      t.fls.issued = none ∧ t.fls.tasks = { u with ops := o :: rest, run := 0 } :: s.fls.tasks ∧
      t.fls.ctrs[3] = ctrAdd s.fls.ctrs[3] 1 ∧ t = { s with fls := t.fls, evt := t.evt, free := t.free })) ∧
  ((∀ (cause : RetireCause) (b sp : Nat) (rest : List Nat) (s : State), s.fls.spares = sp :: rest →
    (retire cause b s).1 = true ∧ (retire cause b s).2.fls.spares = rest ∧
    (retire cause b s).2.fls.bbt = s.fls.bbt ++ [.grown cause b (physOf s b) (some (physOf s sp))] ∧
    (retire cause b s).2.fls.lost = s.fls.lost) ∧
  (∀ (cause : RetireCause) (b : Nat) (s : State), s.fls.spares = [] → codeClass (regionOf b) = false →
    (retire cause b s).1 = false ∧ (retire cause b s).2.fls.lost = s.fls.lost ++ [b] ∧
    (retire cause b s).2.fls.bbt = s.fls.bbt ++ [.grown cause b (physOf s b) none]) ∧
  (∀ (cause : RetireCause) (b d : Nat) (s : State), s.fls.spares = [] → codeClass (regionOf b) = true →
    donor s = some d →
    (retire cause b s).1 = true ∧ (retire cause b s).2.fls.lost = s.fls.lost ++ [d] ∧
    (retire cause b s).2.fls.poolEmpty = true))

/-- R201 to R206: the noise source. Four passed windows in a row end the start-up test; later windows fill the conditioner up to 16
outputs; a failed test discards the window and starts the start-up test again; the third failure in a row fails the source;
the oldest request is served whole once its outputs are ready. -/
def Obligations.NoiseSourceFollowsItsTests : Prop :=
  (∀ s : State, awake s = true → (s.rng.state = .startup ∨ s.rng.state = .recovering) → s.rng.windows = 3 →
    exec .rngWindowDone s = .next { s with rng := { s.rng with
      state := .ok, consec := 0, everOk := true, windows := 0 } }) ∧
  (∀ s : State, awake s = true → (s.rng.state = .startup ∨ s.rng.state = .recovering) → s.rng.windows < 3 →
    exec .rngWindowDone s = .next { s with rng := { s.rng with windows := s.rng.windows + 1 } }) ∧
  (∀ s : State, awake s = true → s.rng.state = .ok → s.rng.ready < 16 →
    ∃ t, exec .rngWindowDone s = .next t ∧ t.rng.ready = s.rng.ready + 1 ∧ t.rng.ctrs[2] = ctrAdd s.rng.ctrs[2] 1 ∧
      t = { s with rng := t.rng, evt := t.evt }) ∧
  (∀ (i : Instr) (bit : Nat) (k : Fin 3) (s : State), (i = .rngRctFail ∧ bit = 0 ∧ k = 0) ∨ (i = .rngAptFail ∧ bit = 1 ∧ k = 1) →
    awake s = true → s.rng.state = .ok → s.rng.consec < 2 → s.rng.everOk = true →
    ∃ t, exec i s = .next t ∧ t.rng.state = .recovering ∧ t.rng.consec = s.rng.consec + 1 ∧ t.rng.windows = 0 ∧
      bitAt t.rng.fault bit = true ∧ t.rng.ctrs[k] = ctrAdd s.rng.ctrs[k] 1 ∧ t.rng.ready = s.rng.ready ∧
      t = { s with rng := t.rng, evt := t.evt }) ∧
  (∀ (i : Instr) (s : State), (i = .rngRctFail ∨ i = .rngAptFail) → awake s = true → s.rng.state = .recovering →
    2 ≤ s.rng.consec → s.rng.waiting = [] →
    ∃ t, exec i s = .next t ∧ t.rng.state = .failed ∧ t.rng.ready = 0 ∧ bitAt t.rng.fault 2 = true) ∧
  (∀ (rest : List RngReq) (s : State), awake s = true → s.rng.state = .ok → s.rng.waiting = ⟨.xtsKey, 2⟩ :: rest →
    2 ≤ s.rng.ready →
    ∃ t, exec .rngRequestServed s = .next t ∧ t.rng = { s.rng with ready := s.rng.ready - 2, waiting := rest } ∧
      t.stk.xts.isSome = true ∧ t = { s with rng := t.rng, stk := { s.stk with xts := t.stk.xts }, free := t.free }) ∧
  (∀ s : State, awake s = true → s.rng.state ≠ .ok → exec .rngRequestServed s = .next s)

/-! ### Security, attestation and tenancy -/

/-- R400 to R402: ATTEST of an accessible, page-aligned buffer with the outputs at hand writes a report with the next REPORT_ID, the
versions in force and the challenge, puts it and the device certificate in the buffer, holds its ephemeral key with those of at most
three reports before it, opens a fresh bounce session under the keys of R402 if asked to, and ends DONE; with the outputs still to come it stays PENDING.
R401, R404, R405: KEY_RELEASE with a well-formed blob under a held report's key, for an empty key slot, installs the key that unwraps
under the wrapping key once its tag verifies, and erases the ephemeral key either way; the checks that come first turn it away. -/
def Obligations.ReportsAndKeyReleasesComplete : Prop :=
  ((∀ (c : Cmd) (r : AttestReq) (s s1 : State), Runs c 0x40 s s1 → bitsFrom c.a2 1 = false → hostAddr c % 4096 = 0 →
    r.accessible = true → s.sec.reportNext ≠ BitVec.allOnes 64 →
    outputsReady (attestOutputs (bitAt c.a2 0)) s = true →
    ∃ t x, exec (.attest c r) s = .next t ∧ t.sec.report = some x ∧ x.reportId = s.sec.reportNext + 1 ∧
      x.fwSvn = s.sec.fwSvn ∧ x.imgSvn = s.glb.svn ∧ x.imageId = s.glb.imageId ∧ x.challenge = r.challenge ∧
      x.time = s.aon.time ∧ x.addr.toNat = hostAddr c ∧ bitAt x.flags 1 = s.mgmt.debugOpen ∧
      t.sec.reportNext = s.sec.reportNext + 1 ∧ t.sec.held.length ≤ 4 ∧
      t.sec.held.getLast? = some ⟨x.reportId, x.eph, sha384 (reportBody s x), s.aon.time⟩ ∧
      (bitAt c.a2 0 = true → ∃ e, t.hif.session = some e ∧ e.h2d = none ∧ e.d2h = 0 ∧
        e.h2dKey ++ e.d2hKey = hkdf384 (digestBytes (sha384 (reportBody s x)))
          (beBytes 48 (Config.ecdhX x.eph (beBytes 97 r.hostPub.toNat)).toNat)
          ([0x48, 0x42, 0x53, 0x31] ++ leBytes 8 s.serial.toNat) 64) ∧
      (bitAt c.a2 0 = false → t.hif.session = s.hif.session) ∧
      (∃ u, t.hif.wrote = (hostWrite (x.addr + 0x400) Config.deviceCert
        (hostWrite (x.addr + 0x100) (reportBytes s x) u)).hif.wrote ∧ u.hif.wrote = s.hif.wrote) ∧
      t.rng.ready + attestOutputs (bitAt c.a2 0) = s.rng.ready ∧
      t = { s with sec := t.sec, hif := t.hif, mgmt := t.mgmt, evt := t.evt, rng := t.rng, free := t.free }) ∧
  (∀ (c : Cmd) (r : AttestReq) (s s1 : State), Runs c 0x40 s s1 → bitsFrom c.a2 1 = false →
    (hostAddr c % 4096 ≠ 0 ∨ r.accessible = false) →
    exec (.attest c r) s = .next (endWith (pendOf c 0x40 s1) stBadArg s1)) ∧
  (∀ (c : Cmd) (r : AttestReq) (s s1 : State), Runs c 0x40 s s1 → bitsFrom c.a2 1 = false → hostAddr c % 4096 = 0 →
    r.accessible = true → s.rng.state = .ok → s.sec.reportNext ≠ BitVec.allOnes 64 →
    outputsReady (attestOutputs (bitAt c.a2 0)) s = false →
    ∃ t q, exec (.attest c r) s = .next t ∧ t.rng.waiting = s.rng.waiting ++ [q] ∧
      q.outputs = attestOutputs (bitAt c.a2 0) ∧ t.sec = s.sec)) ∧
  ((∀ (c : Cmd) (b key : List Byte) (h : Held) (s s1 : State), Runs c 0x41 s s1 → blobOk c b = true →
    (s.sec.held.find? fun x => x.reportId == blobReport b) = some h → s.sec.keys[slotFin (blobKey b)] = none →
    (blobFlags b == 1 && s.mgmt.debugOpen) = false → unwrapKey h b s = some key →
    ∃ t k, exec (.keyRelease c (some b)) s = .next t ∧ t.sec.keys[slotFin (blobKey b)] = some k ∧ k.key = key ∧
      k.revoke = (blobFlags b == 1) ∧ k.loaded = false ∧
      (∀ j : Fin 4, j ≠ slotFin (blobKey b) → t.sec.keys[j] = s.sec.keys[j]) ∧
      (∀ x ∈ t.sec.held, x.reportId ≠ blobReport b) ∧ t.sec.ctrs[1] = ctrAdd s.sec.ctrs[1] 1 ∧
      t = { s with sec := t.sec, hif := t.hif, mgmt := t.mgmt, evt := t.evt }) ∧
  (∀ (c : Cmd) (b : List Byte) (h : Held) (s s1 : State), Runs c 0x41 s s1 → blobOk c b = true →
    (s.sec.held.find? fun x => x.reportId == blobReport b) = some h → s.sec.keys[slotFin (blobKey b)] = none →
    (blobFlags b == 1 && s.mgmt.debugOpen) = false → unwrapKey h b s = none →
    ∃ t, exec (.keyRelease c (some b)) s = .next t ∧ t.sec.keys = s.sec.keys ∧ bitAt t.sec.fault 0 = true ∧
      t.sec.ctrs[2] = ctrAdd s.sec.ctrs[2] 1 ∧ (∀ x ∈ t.sec.held, x.reportId ≠ blobReport b)) ∧
  (∀ (c : Cmd) (s s1 : State), Runs c 0x41 s s1 →
    exec (.keyRelease c none) s = .next (endWith (pendOf c 0x41 s1) stBadArg s1) ∧
    ∀ b, blobOk c b = false → exec (.keyRelease c (some b)) s = .next (endWith (pendOf c 0x41 s1) stBadArg s1)) ∧
  (∀ (c : Cmd) (b : List Byte) (s s1 : State), Runs c 0x41 s s1 → blobOk c b = true →
    ((s.sec.held.any fun h => h.reportId == blobReport b) = false ∨ s.sec.keys[slotFin (blobKey b)] ≠ none ∨
      (blobFlags b = 1 ∧ s.mgmt.debugOpen = true)) →
    exec (.keyRelease c (some b)) s = .next (endWith (pendOf c 0x41 s1) stRefused s1)))

/-- R406, R407: a chunk that no check refuses is written to its tensor, and the next INDEX is awaited; the last chunk of a full
container ends the load, with the key loaded; a chunk that a check refuses ends the load, and the key is erased.
R408, R410: KEY_UPDATE (and KEY_PROVISION over the management port) with content that differs from the version in force, a higher
version, and a verified chain, on a KEY region that accepts writes, queues the erase and programming of the slot not in force;
the same content and version ends DONE at once; a version that does not rise is REFUSED. -/
def Obligations.ContainersAndKeyUpdatesLoad : Prop :=
  ((∀ (k : Fin 4) (bs : List Byte) (ch : Chunk) (d : List Byte) (l : Load) (x : Fin 4 × Tensor) (r : TRun) (w s : State),
    loadOf s k = some l → running s = true → ch = readChunk (modelKey k s) bs → chunkRefusal k ch l s = none →
    chunkTarget k ch s = some x → tensAt s x.1 ch.tensor = some r → ch.data = some d →
    writeHandle r.handle.toNat ch.offset d s = some w → w.sec = s.sec → bitAt ch.flags 0 = false →
    ∃ t m y, exec (.containerChunk k bs) s = .next t ∧ t.sec.keys[k] = some m ∧ m.load = some y ∧
      y.next = l.next + 1 ∧ y.written = l.written ++ [(ch.tensor, ch.offset, ch.length)] ∧ t.stk = w.stk) ∧
  (∀ (k : Fin 4) (bs : List Byte) (l : Load) (st : Byte) (s : State), loadOf s k = some l → running s = true →
    chunkRefusal k (readChunk (modelKey k s) bs) l s = some st → l.pend ≠ none →
    ∃ t, exec (.containerChunk k bs) s = .next t ∧ t.sec.keys[k] = none ∧ bitAt t.sec.fault 1 = true ∧ t.jobs = s.jobs) ∧
  (∀ (k : Fin 4) (ch : Chunk) (l : Load) (s : State), ch.data = none ∨ ch.index ≠ l.next →
    chunkRefusal k ch l s ≠ none) ∧
  (∀ (id : DWord) (s : State), awake s = true → heldOld id s = true → exec (.ephemeralKeyExpiry id) s = .next { s with
    sec := { s.sec with held := s.sec.held.filter fun h => h.reportId != id } }) ∧
  (∀ (id : DWord) (s : State), heldOld id s = false → exec (.ephemeralKeyExpiry id) s = .next s)) ∧
  ((∀ (c : Cmd) (bs : List Byte) (s s1 : State), Runs c 0x8A s s1 → bitsFrom c.a2 1 = false → keyTask s = false →
    ksInForce s.fls = none → regionShut 2 s = false → (dropsSigner (Config.ksContent bs) s && !bitAt c.a2 0) = false →
    exec (.keyProvision c bs) s = .next (writeKeyStore c.a1 (Config.ksContent bs) (pendOf c 0x8A s1) s1)) ∧
  (∀ (c : Cmd) (m : List Byte) (s s1 : State), Runs c 0x42 s s1 → c.origin = .mgmt →
    bitsFrom c.a2 1 = false → keyTask s = false →
    ksInForce s.fls = none → regionShut 2 s = false → (dropsSigner (Config.ksContent m) s && !bitAt c.a2 0) = false →
    exec (.keyUpdate c m true) s = .next (writeKeyStore c.a1 (Config.ksContent m) (pendOf c 0x42 s1) s1)) ∧
  (∀ (c : Cmd) (m : List Byte) (v : KsVersion) (s s1 : State), Runs c 0x42 s s1 → c.origin = .mgmt →
    bitsFrom c.a2 1 = false → keyTask s = false → ksInForce s.fls = some v →
    (v.version ≠ c.a1 ∨ v.content ≠ Config.ksContent m) → c.a1.toNat ≤ v.version.toNat →
    exec (.keyUpdate c m true) s = .next (endWith (pendOf c 0x42 s1) stRefused s1)) ∧
  (∀ (c : Cmd) (m : List Byte) (v : KsVersion) (ok : Bool) (s s1 : State), Runs c 0x42 s s1 → c.origin = .mgmt →
    bitsFrom c.a2 1 = false → keyTask s = false → ksInForce s.fls = some v → v.version = c.a1 →
    v.content = Config.ksContent m →
    exec (.keyUpdate c m ok) s = .next (endWith (pendOf c 0x42 s1) stDone s1)) ∧
  (∀ (v : Word) (u : KsContent) (p : Pend) (s : State), ∃ x slot, (writeKeyStore v u p s).fls.tasks = s.fls.tasks ++ [x] ∧
    x.pend = some p ∧ x.prio = 2 ∧
    x.done = .keyStore slot ⟨v, u, digest128 (sha384 (sealSlot slot v u))⟩ ∧
    x.ops.getLast? = some (.commit ⟨slot, v, digest128 (sha384 (sealSlot slot v u))⟩) ∧
    (∀ w, ksWord s.fls = some w → w.slot ≠ slot)))

/-- R417: TENANT_END stops every job, takes the membership, the keys, the sessions and the drawer keys, and stays PENDING until the noise
source has drawn new ones; while it runs, other commands are BUSY. -/
def Obligations.TenantEndTakesTheTenantsState : Prop :=
  (∀ (c : Cmd) (ms : Word) (s s1 : State), Runs c 0x50 s s1 → s.rng.state ≠ .failed → keyTask s = false →
    ∃ t, exec (.tenantEnd c ms) s = .next t ∧ t.jobs = vrep 4 none ∧ t.ws = Ws.reset ∧ t.sec.keys = vrep 4 none ∧
      t.sec.held = [] ∧ t.hif.session = none ∧ t.fls.sessions = 0 ∧ t.stk.xts = none ∧ t.stk.salt = none ∧
      t.sec.tending = true ∧ t.sec.tend = some (pendOf c 0x50 s1, ms) ∧ t.rng.waiting = [⟨.tenant, 4⟩] ∧
      t.aon.time = s.aon.time) ∧
  (∀ (c : Cmd) (ms : Word) (s s1 : State), Runs c 0x50 s s1 → s.rng.state = .failed →
    exec (.tenantEnd c ms) s = .next (endWith (pendOf c 0x50 s1) stRefused s1)) ∧
  (∀ (p : Pend) (ms : Word) (s : State), awake s = true → s.sec.later = [] → s.pwr.selftest = none →
    s.pwr.seq = .idle →
    (tenantFinish p ms s).sec.tending = false ∧ (tenantFinish p ms s).stk.handles = [] ∧
    (tenantFinish p ms s).stk.xts.isSome = true ∧ (tenantFinish p ms s).aon.mr3 = [] ∧
    (tenantFinish p ms s).sec.tendMs = ms ∧ (tenantFinish p ms s).aon.debugSeen = false)

/-! ### The management port -/

/-- R385, R388, R412: with no session open, a handshake that leads to the operator root (or, while there is none, any client) opens the
session; any other counts a failure; the session's end closes its debug session and the telemetry stream.
R387, R496: TELEMETRY_STREAM, LOG_READ, RNG_CAPTURE. -/
def Obligations.ManagementSessionsAndReads : Prop :=
  ((∀ (n root : DWord) (s : State), mgmtUp s = true → mgmtOpen s = false → tooSoon s = false →
    s.fls.operatorRoot = some root →
    exec (.mgmtSessionOpen (.operator n)) s = .next { s with mgmt := { s.mgmt with
      session := some n, fails := 0, lastTry := s.aon.time, lastUse := s.aon.time } }) ∧
  (∀ s : State, mgmtUp s = true → mgmtOpen s = false → tooSoon s = false → s.fls.operatorRoot = none →
    exec (.mgmtSessionOpen .selfSigned) s = .next { s with mgmt := { s.mgmt with
      selfSigned := true, fails := 0, lastTry := s.aon.time, lastUse := s.aon.time } }) ∧
  (∀ (root : DWord) (s : State), mgmtUp s = true → mgmtOpen s = false → tooSoon s = false →
    s.fls.operatorRoot = some root →
    ∃ t, exec (.mgmtSessionOpen .selfSigned) s = .next t ∧
      t.mgmt = { s.mgmt with fails := s.mgmt.fails + 1, lastTry := s.aon.time, lastUse := s.aon.time } ∧
      t.hif.ctrs[3] = ctrAdd s.hif.ctrs[3] 1) ∧
  (∀ (who : Client) (s : State), 8 ≤ s.mgmt.fails → s.aon.time.toNat < s.mgmt.lastTry.toNat + 1000000000 →
    exec (.mgmtSessionOpen who) s = .next s) ∧
  (∀ (i : Instr) (s : State), ((i = .mgmtSessionIdleTimeout ∧ mgmtIdle s = true) ∨ i = .mgmtSessionClose) →
    mgmtOpen s = true →
    ∃ t, exec i s = .next t ∧ t.mgmt = { s.mgmt with
        session := none, selfSigned := false, stream := false, debugOpen := false,
        paths := if s.mgmt.debugOpen then 0 else s.mgmt.paths } ∧
      t = { s with mgmt := t.mgmt, aon := t.aon, evt := t.evt })) ∧
  ((∀ (c : Cmd) (s s1 : State), Runs c 0x80 s s1 →
    exec (.telemetryStream c) s =
      .next (endWith (pendOf c 0x80 s1) stDone { s1 with mgmt := { s1.mgmt with stream := true } })) ∧
  (∀ (c : Cmd) (s s1 : State), Runs c 0x81 s s1 → c.origin = .mgmt →
    exec (.logRead c) s = .next { s1 with mgmt := { s1.mgmt with
      out := s1.mgmt.out ++ [.response ⟨c.seq, 0x81, stDone, true, 0, 0, 0, 0, s.aon.time⟩ (s.fls.plog.flatMap recBytes)] } }) ∧
  (∀ (c : Cmd) (s s1 : State), Runs c 0x89 s s1 → s.rng.state ≠ .failed →
    ∃ t, exec (.rngCapture c) s = .next t ∧ t.rng.state = .capture ∧ t.aon.debugSeen = true ∧
      (∃ r, t.aon.mr3 = s.aon.mr3 ++ [r] ∧ r.kind = 3) ∧
      t = { s with rng := { s.rng with state := .capture }, aon := t.aon, hif := t.hif, mgmt := t.mgmt, evt := t.evt }))

/-- R395, R415, R416: DEBUG_OPEN erases every key released with DEBUG_REVOKE before it opens the paths, and extends MR3; DEBUG_CLOSE ends the
session. -/
def Obligations.DebugSessionsRevokeKeysFirst : Prop :=
  (∀ (c : Cmd) (s s1 : State), Runs c 0x82 s s1 → bitsFrom c.a0 3 = false → anyJob s = false →
    ∃ t, exec (.debugOpen c) s = .next t ∧ t.mgmt.debugOpen = true ∧ t.mgmt.paths = c.a0.setWidth 3 ∧
      (∀ k : Fin 4, ∀ m, t.sec.keys[k] = some m → m.revoke = false) ∧
      (∀ k : Fin 4, ∀ m, s.sec.keys[k] = some m → m.revoke = false → t.sec.keys[k] = some m) ∧
      t.aon.debugSeen = true ∧ (∃ r, t.aon.mr3 = s.aon.mr3 ++ [r] ∧ r.kind = 1 ∧ r.mask = (c.a0.setWidth 3).setWidth 8) ∧
      t.sec.ctrs[3] = ctrAdd s.sec.ctrs[3] 1) ∧
  (∀ (c : Cmd) (s s1 : State), Runs c 0x83 s s1 → s.mgmt.debugOpen = true →
    ∃ t, exec (.debugClose c) s = .next t ∧ t.mgmt.debugOpen = false ∧ t.mgmt.paths = 0 ∧
      (∃ r, t.aon.mr3 = s.aon.mr3 ++ [r] ∧ r.kind = 2) ∧
      t = { s with mgmt := t.mgmt, aon := t.aon, hif := t.hif, evt := t.evt })

/-- R387, R398, R412: an update of firmware, credentials, certificate or commissioning data queues the erase and programming of its region
(firmware: of the copy that does not run) and stays PENDING; a locked region turns it away.
R341, R387: USER_FILE reads the bytes of its region, and queues the programming of what it writes. -/
def Obligations.RegionUpdatesAndUserFilesComplete : Prop :=
  ((∀ (c : Cmd) (f : FwCopy) (bs : List Byte) (s s1 : State), Runs c 0x84 s s1 → fwTask s = false →
    exec (.fwUpdate c f bs) s = .next (replaceRegion (if s.sec.fwCopy then 0 else 1) bs
      (.firmware (!s.sec.fwCopy) f) (pendOf c 0x84 s1) s1)) ∧
  (∀ (c : Cmd) (root : DWord) (bs : List Byte) (s s1 : State), Runs c 0x85 s s1 →
    exec (.credUpdate c root bs) s = .next (replaceRegion 3 bs (.cred root) (pendOf c 0x85 s1) s1)) ∧
  (∀ (c : Cmd) (serial : DWord) (bs : List Byte) (s s1 : State), Runs c 0x86 s s1 →
    exec (.certUpdate c serial bs) s = .next (replaceRegion 5 bs (.cert serial) (pendOf c 0x86 s1) s1)) ∧
  (∀ (c : Cmd) (claim : BitVec 10) (ports : Word) (bs : List Byte) (s s1 : State), Runs c 0x87 s s1 →
    exec (.commission c claim ports bs) s = .next (replaceRegion 4 bs (.comm claim ports) (pendOf c 0x87 s1) s1)) ∧
  (∀ (g : Nat) (bs : List Byte) (d : FlashDone) (p : Pend) (s : State), regionShut g s = false →
    blocksFor bs.length ≤ regionBlocks g s →
    ∃ x, (replaceRegion g bs d p s).fls = { s.fls with tasks := s.fls.tasks ++ [x] } ∧ x.done = d ∧ x.pend = some p ∧
      x.prio = 3 ∧ (∀ b, .erase b ∈ x.ops ↔ regionBase g ≤ b ∧ b < regionBase g + blocksFor bs.length)) ∧
  (∀ (g : Nat) (bs : List Byte) (d : FlashDone) (p : Pend) (s : State), regionShut g s = true →
    (replaceRegion g bs d p s).fls.tasks = s.fls.tasks ∧ bitAt (replaceRegion g bs d p s).fls.fault 9 = true)) ∧
  ((∀ (c : Cmd) (r : Fin 4) (off len : Nat) (s s1 : State), Runs c 0x88 s s1 → c.origin = .mgmt →
    off + len ≤ regionBlocks (12 + r.val) s * 65536 →
    badIn s (regionBase (12 + r.val) * 65536 + off) len = [] →
    exec (.userFile c r (.read off len)) s = .next { s1 with mgmt := { s1.mgmt with
      out := s1.mgmt.out ++ [.response ⟨c.seq, 0x88, stDone, true, 0, 0, 0, 0, s.aon.time⟩
        ((List.range len).flatMap fun i => flashByte s (regionBase (12 + r.val) * 65536 + off + i))] } }) ∧
  (∀ (c : Cmd) (r : Fin 4) (off : Nat) (data : List Byte) (s s1 : State), Runs c 0x88 s s1 →
    regionShut (12 + r.val) s = false → off + data.length ≤ regionBlocks (12 + r.val) s * 65536 →
    exec (.userFile c r (.write off data)) s = .next (queueTask ⟨3, userWriteOps s (regionBase (12 + r.val)) off data,
      .user, some (pendOf c 0x88 s1), 0⟩ (startPending (pendOf c 0x88 s1) s1))) ∧
  (∀ (c : Cmd) (r : Fin 4) (off len : Nat) (s s1 : State), Runs c 0x88 s s1 →
    regionBlocks (12 + r.val) s * 65536 < off + len →
    exec (.userFile c r (.read off len)) s = .next (endWith (pendOf c 0x88 s1) stBadArg s1)))

/-! ### Jobs and the training step -/

/-- R26, R29, R188, R334: JOB_START takes the lowest free slot (the model's choice, log entry 21), where the job holds at step 0 with every slot token EMPTY and the unit
configuration in force, and ends DONE with its slot, at once or, where the job draws its seed, once the draw is there (log entry 60);
an entry that the image does not name, or that a slot holds, is REFUSED, and
without a free slot the command ends EXHAUSTED. A restore of parts that do not verify ends VERIFY_FAIL; one of a job without a
fabric axis takes its parts here. JOB_STOP empties the slot of a job at a boundary, and waits for the boundary otherwise. The hold
ends when nothing is waited for. -/
def Obligations.JobsStartStopAndHold : Prop :=
  (∀ (c : Cmd) (j : Fin 4) (e : JobEntry) (s s1 s2 : State), Runs c 0x20 s s1 → bitsFrom c.a0 6 = false → bitAt c.a0 4 = false →
    startRefusal (jobArgOf c) false s1 = none → freeJobSlot s1 = some j → jobEntryOf s1 (jobArgOf c) = some e →
    placeJob j (jobArgOf c) e none s1 = some s2 → (s2.jobs[j]).any (·.seed.isNone) = false →
    exec (.jobStart c) s = .next (answer (pendOf c 0x20 s1) stDone true (BitVec.ofNat 32 j.val) 0 0 0 s2)) ∧
  (∀ (c : Cmd) (j : Fin 4) (e : JobEntry) (s s1 s2 : State), Runs c 0x20 s s1 → bitsFrom c.a0 6 = false → bitAt c.a0 4 = false →
    startRefusal (jobArgOf c) false s1 = none → freeJobSlot s1 = some j → jobEntryOf s1 (jobArgOf c) = some e →
    placeJob j (jobArgOf c) e none s1 = some s2 → (s2.jobs[j]).any (·.seed.isNone) = true →
    exec (.jobStart c) s = .next (setJob j (fun x => { x with startPend := some (pendOf c 0x20 s1) })
      (startPending (pendOf c 0x20 s1) s2))) ∧
  (∀ (c : Cmd) (j : Fin 4) (e : JobEntry) (s s1 s2 : State), Runs c 0x20 s s1 → bitsFrom c.a0 6 = false → bitAt c.a0 4 = false →
    startRefusal (jobArgOf c) false s1 = none → freeJobSlot s1 = some j → jobEntryOf s1 (jobArgOf c) = some e →
    meshFabric (meshOf s (jobArgOf c)) = false → placeJob j (jobArgOf c) e none s1 = some s2 →
    ∃ t x, exec (.jobStart c) s = .next t ∧ t.jobs[j] = some x ∧ x.index = jobArgOf c ∧ x.phase = .holding ∧ x.step = 0 ∧
      (∀ k : Fin 4, k ≠ j → t.jobs[k] = s.jobs[k]) ∧
      (∀ b : Fin 4, t.bnc[b].slots = 0 ∧ t.bnc[b].cfgForce = s.bnc[b].cfg)) ∧
  (∀ (c : Cmd) (st : Byte) (s s1 : State), Runs c 0x20 s s1 → bitsFrom c.a0 6 = false → bitAt c.a0 4 = false →
    startRefusal (jobArgOf c) false s1 = some st →
    exec (.jobStart c) s = .next (endWith (pendOf c 0x20 s1) st s1)) ∧
  (∀ (i : Nat) (r : Bool) (s : State), (jobEntryOf s i = none ∨ (∃ (j : Fin 4) (x : Job), s.jobs[j] = some x ∧ x.index = i)) →
    startRefusal i r s = some stRefused) ∧
  (∀ (i : Nat) (e : JobEntry) (s : State), jobEntryOf s i = some e → (∀ j : Fin 4, ∃ x, s.jobs[j] = some x ∧ x.index ≠ i) →
    startRefusal i false s = some stExhausted) ∧
  (∀ (c : Cmd) (ps : List Part) (s s1 : State), Runs c 0x20 s s1 → bitsFrom c.a0 6 = false → bitAt c.a0 4 = true →
    startRefusal (jobArgOf c) true s1 = none →
    exec (.jobStartRestore c ps false) s = .next (endWith (pendOf c 0x20 s1) stVerify (startPending (pendOf c 0x20 s1) s1))) ∧
  (∀ (c : Cmd) (ps : List Part) (j : Fin 4) (e : JobEntry) (s s1 s2 : State), Runs c 0x20 s s1 → bitsFrom c.a0 6 = false →
    bitAt c.a0 4 = true → bitAt c.a0 5 = false → startRefusal (jobArgOf c) true s1 = none → freeJobSlot s1 = some j →
    jobEntryOf s1 (jobArgOf c) = some e →
    placeJob j (jobArgOf c) e (some ⟨some (pendOf c 0x20 s1), ps, none⟩) s1 = some s2 →
    meshFabric (meshOf s2 (jobArgOf c)) = false →
    exec (.jobStartRestore c ps true) s = .next (restoreLocal j ps (startPending (pendOf c 0x20 s1) s2))) ∧
  (∀ (c : Cmd) (ps : List Part) (ok : Bool) (s : State), (bitAt c.a0 4 = true → exec (.jobStart c) s = .next s) ∧
    (bitAt c.a0 4 = false → exec (.jobStartRestore c ps ok) s = .next s)) ∧
  (∀ (c : Cmd) (s s1 : State), Runs c 0x21 s s1 → bitsFrom c.a0 2 = false → s.jobs[slotArg c] = none →
    exec (.jobStop c) s = .next (endWith (pendOf c 0x21 s1) stRefused s1)) ∧
  (∀ (c : Cmd) (x : Job) (s s1 : State), Runs c 0x21 s s1 → bitsFrom c.a0 2 = false → s.jobs[slotArg c] = some x →
    stopsNow x = true →
    exec (.jobStop c) s = .next (quiesceCheck (lateRest (tryEnact (stopJob (slotArg c) stAborted stDone 0 0
      (setJob (slotArg c) (fun y => { y with stop := some (y.stop.getD [] ++ [pendOf c 0x21 s1]) }) s1)))))) ∧
  (∀ (j : Fin 4) (st st' : Byte) (a b : Word) (s : State), (stopJob j st st' a b s).jobs[j] = none) ∧
  (∀ (c : Cmd) (x : Job) (s s1 : State), Runs c 0x21 s s1 → bitsFrom c.a0 2 = false → s.jobs[slotArg c] = some x →
    stopsNow x = false →
    ∃ t, exec (.jobStop c) s = .next t ∧
      t.jobs = s.jobs.set (slotArg c) (some { x with stop := some (x.stop.getD [] ++ [pendOf c 0x21 s1]) }) ∧
      t = { s with jobs := t.jobs, hif := t.hif, mgmt := t.mgmt, evt := t.evt }) ∧
  (∀ (j : Fin 4) (x : Job) (s : State), s.jobs[j] = some x → x.phase = .holding → x.parked = false → x.seed ≠ none →
    x.restore = none → keysReady s x.index = true → placeReady s x = true → quiescing s = false →
    exec (.jobHoldRelease j) s = .next { s with jobs := s.jobs.set j (some { x with
      phase := .boundary, trigAt := s.aon.time.toNat }) })

/-- R183, R184, R190, R191: a snapshot of a job under way, and a replay of a recorded step, wait for the next boundary; a free slot, a
job that does not run a training step, and a replay without its record are REFUSED, a second snapshot ends BUSY, and one to a locked
region PROTECTED. A staged part that fits is exported, one that does not ends EXHAUSTED; an export to the host puts its blob in the
host's buffer, and one to the flash is its slot's once its task has ended. -/
def Obligations.SnapshotsAndReplaysWaitForTheBoundary : Prop :=
  (∀ (c : Cmd) (x : Job) (s s1 : State), Runs c 0x22 s s1 → bitsFrom c.a0 4 = false → bitAt c.a0 3 = false →
    s.jobs[slotArg c] = some x → runsTraining x = true → x.snap = none → s.sq.exports[slotArg c] = none →
    (bitAt c.a0 2 = true → snapLocked s = false) → atBoundary x = false →
    ∃ t r, exec (.snapshot c) s = .next t ∧ t.jobs = s.jobs.set (slotArg c) (some { x with snap := some r }) ∧
      r.pend = some (pendOf c 0x22 s1) ∧ r.flash = bitAt c.a0 2 ∧ r.limit = c.a3.toNat * 65536 ∧
      r.addr = c.a2 ++ c.a1 ∧ r.staged = none ∧
      t = { s with jobs := t.jobs, hif := t.hif, mgmt := t.mgmt, evt := t.evt }) ∧
  (∀ (c : Cmd) (s s1 : State), Runs c 0x22 s s1 → bitsFrom c.a0 4 = false →
    (∀ x, s.jobs[slotArg c] = some x → runsTraining x = false) →
    exec (.snapshot c) s = .next (endWith (pendOf c 0x22 s1) stRefused s1)) ∧
  (∀ (c : Cmd) (x : Job) (s s1 : State), Runs c 0x22 s s1 → bitsFrom c.a0 4 = false → s.jobs[slotArg c] = some x →
    runsTraining x = true → (x.snap ≠ none ∨ s.sq.exports[slotArg c] ≠ none) → exec (.snapshot c) s = .next (endWith (pendOf c 0x22 s1) stBusy s1)) ∧
  (∀ (c : Cmd) (x : Job) (s s1 : State), Runs c 0x22 s s1 → bitsFrom c.a0 4 = false → s.jobs[slotArg c] = some x →
    runsTraining x = true → x.snap = none → s.sq.exports[slotArg c] = none → bitAt c.a0 2 = true → snapLocked s = true →
    ∃ t, exec (.snapshot c) s = .next t ∧ bitAt t.fls.fault 9 = true ∧ t.jobs = s.jobs ∧
      t = { s with fls := t.fls, hif := t.hif, mgmt := t.mgmt, evt := t.evt }) ∧
  ((∀ (j : Fin 4) (x : Job) (r : SnapReq) (p : Part) (e : DrawerEcc) (s : State), s.jobs[j] = some x → x.snap = some r →
    r.staged = some p → r.exporting = false →
    exec (.snapshotStagingDone j e) s = .next (afterEcc e (fun s1 => replayBoundary j (stagingEnd j r p s1)) s)) ∧
  (∀ (j : Fin 4) (r : SnapReq) (p : Part) (s : State), partBytes s p ≤ (if r.flash then snapArea s else r.limit) →
    stagingEnd j r p s = setJob j (fun y => { y with snap := some { r with exporting := true } }) s) ∧
  (∀ (j : Fin 4) (r : SnapReq) (p : Part) (s : State), (if r.flash then snapArea s else r.limit) < partBytes s p →
    stagingEnd j r p s = endOpt r.pend stExhausted (dropSnap j r s)) ∧
  (∀ (k : State → State) (s : State), afterEcc ⟨0, none⟩ k s = k (bumpStk 3 0 s))) ∧
  ((∀ (j : Fin 4) (r : SnapReq) (p : Part) (salt : BitVec 256) (ok done : Bool) (e : DrawerEcc) (s : State),
    exportOf j s = some r → r.staged = some p → r.salt = some salt → exportOutcome r ok = some done →
    exec (.snapshotExportDone j ok e) s = .next (afterEcc e (fun s1 =>
      if exportOf j s1 = some r then exportEnd j r p salt done s1 else s1) s)) ∧
  (∀ (j : Fin 4) (r : SnapReq) (p : Part) (salt : BitVec 256) (q : Pend) (s : State), r.flash = false → r.pend = some q →
    exportEnd j r p salt true s = snapDone q p (hostWrite r.addr (partBlob s salt p) (dropExport j r s))) ∧
  (∀ (j : Fin 4) (r : SnapReq) (p : Part) (salt : BitVec 256) (s : State),
    exportEnd j r p salt false s = endOpt r.pend (if r.flash then stMedia else stAborted) (dropExport j r s)) ∧
  (∀ (u : FlashTask) (j : Fin 4) (slot : Bool) (q : DWord) (v : SnapPart) (s : State), u.done = .snapshot j slot q v →
    (finishTask u s).fls.snaps = if slot then s.fls.snaps.set 1 (some (q, v)) else s.fls.snaps.set 0 (some (q, v)))) ∧
  (∀ (c : Cmd) (x : Job) (q : Record) (s s1 : State), Runs c 0x23 s s1 → bitsFrom c.a0 3 = false → s.jobs[slotArg c] = some x →
    runsTraining x = true → recordMode s = true → recordFor s x (bitAt c.a0 2) = some q → onFabric s x = false →
    atBoundary x = false →
    ∃ t, exec (.replay c) s = .next t ∧
      t.jobs = s.jobs.set (slotArg c)
        (some { x with replays := x.replays ++ [⟨some (pendOf c 0x23 s1), bitAt c.a0 2, some 0⟩] }) ∧
      t = { s with jobs := t.jobs, hif := t.hif, mgmt := t.mgmt, evt := t.evt }) ∧
  (∀ (c : Cmd) (s s1 : State), Runs c 0x23 s s1 → bitsFrom c.a0 3 = false →
    (∀ x, s.jobs[slotArg c] = some x → runsTraining x = false ∨ recordMode s = false ∨
      recordFor s x (bitAt c.a0 2) = none) →
    exec (.replay c) s = .next (endWith (pendOf c 0x23 s1) stRefused s1))

/-- R171 to R174: a trigger of an inference job begins its request, or waits for the one under way; the oldest waits first; a step
starts for a job at its boundary whose place in the workshop is ready, with its windows and its count of samples, and otherwise the
job holds; an idle bench of RUN takes the entry that the sequencer chooses, once the microprograms that still wait for a plane have taken
those that are free (R107). -/
def Obligations.StepsRequestsAndEntriesStart : Prop :=
  (∀ (j : Fin 4) (x : Job) (e : JobEntry) (n : Nat) (s : State), s.jobs[j] = some x → jobEntryOf s x.index = some e →
    serves s x = true → latencyBound s x = true → trigPeriod e = some n → x.trigAt + n ≤ s.aon.time.toNat → x.running = none →
    ∃ t y, exec (.inferenceTriggerPeriod j) s = .next t ∧ t.jobs = s.jobs.set j (some y) ∧
      y.running = some s.aon.time.toNat ∧ y.trigAt = x.trigAt + n ∧ y.phase = .compute ∧ y.pos = vrep 4 0 ∧
      t = { s with jobs := t.jobs }) ∧
  (∀ (j : Fin 4) (x : Job) (e : JobEntry) (n : Nat) (s : State), s.jobs[j] = some x → jobEntryOf s x.index = some e →
    serves s x = true → latencyBound s x = true → trigPeriod e = some n → x.trigAt + n ≤ s.aon.time.toNat → x.running ≠ none →
    exec (.inferenceTriggerPeriod j) s = .next { s with jobs := s.jobs.set j (some { x with
      waiting := x.waiting ++ [s.aon.time.toNat], trigAt := x.trigAt + n }) }) ∧
  (∀ (j : Fin 4) (x : Job) (e : JobEntry) (n : Nat) (s : State), s.jobs[j] = some x → jobEntryOf s x.index = some e →
    trigPeriod e = some n → s.aon.time.toNat < x.trigAt + n → exec (.inferenceTriggerPeriod j) s = .next s) ∧
  (∀ (j : Fin 4) (x : Job) (e : JobEntry) (n : Nat) (s : State), s.jobs[j] = some x → jobEntryOf s x.index = some e →
    ringDue s x e = some n → serves s x = true → latencyBound s x = true → x.running ≠ none →
    exec (.inferenceTriggerRing j) s = .next { s with
      jobs := s.jobs.set j (some { x with waiting := x.waiting ++ [s.aon.time.toNat], ringSeen := n }) }) ∧
  (∀ (j : Fin 4) (x : Job) (t0 : Nat) (rest : List Nat) (s : State), s.jobs[j] = some x → x.waiting = t0 :: rest →
    serves s x = true → x.running = none →
    ∃ t y, exec (.inferenceRequestDeferredStart j) s = .next t ∧ t.jobs = s.jobs.set j (some y) ∧
      y.running = some t0 ∧ y.waiting = rest ∧ y.phase = .compute ∧ t = { s with jobs := t.jobs }) ∧
  (∀ (j : Fin 4) (n : Nat) (x : Job) (s : State), s.jobs[j] = some x → stepDue s x = true → placeReady s x = false →
    exec (.stepStart j n) s = .next { s with jobs := s.jobs.set j (some { x with phase := .holding }) }) ∧
  (∀ (j : Fin 4) (n : Nat) (x : Job) (s : State), s.jobs[j] = some x → stepDue s x = true → placeReady s x = true →
    ∃ t y, exec (.stepStart j n) s = .next t ∧ t.jobs[j] = some y ∧ y.samples = n ∧ y.step = x.step ∧
      y.windows = stepWindows s x ∧ (y.phase = .compute ∨ y.phase = .update)) ∧
  (∀ (b : Fin 4) (s : State), s.pwr.state = .run → (seatAll s).bnc[b].state = .stopped → (seatAll s).bnc[b].entry = none →
    exec (.scheduleEntryStart b) s = .next (startEntry b (feedBench b (seatAll s)))) ∧
  (∀ (b : Fin 4) (s : State), s.pwr.state = .run →
    ((seatAll s).bnc[b].state ≠ .stopped ∨ (seatAll s).bnc[b].entry ≠ none) →
    exec (.scheduleEntryStart b) s = .next (seatAll s)) ∧
  (∀ (b : Fin 4) (s : State), s.pwr.state ≠ .run → exec (.scheduleEntryStart b) s = .next s)

/-- R135, R136, R145 to R149, R152, R157, R300: a partial gradient that is the next of its tensor enters G from the store in which it
stands, the first as it is and each later one by an addition in binary32; one that comes early waits; a tensor at the head of the queue enters the glue-up while it has room; the clamp answers c = 1 where q lies within the
squared limit, and none where q is not finite; a built-in optimizer runs once its factor, its shard and its readers allow; READY of a
job without a fabric axis commits at once. -/
def Obligations.TrainingCommandsTakeEffect : Prop :=
  ((∀ (j : Fin 4) (id : BitVec 16) (n : Nat) (a : PartialAt) (ecc : DrawerEcc) (x : Job) (r : TRun) (w g : Tensor)
    (s s1 : State), s.jobs[j] = some x → tensAt s j id = some r → tensorOf s id = some w → partOf s w .grad = some g →
    gradDue s x w r n a = true → ensureHandle j g.id s = some s1 → gSpilled s1 j w = false →
    exec (.gradPartialAdd j id n a ecc) s = .next (afterEcc ecc (partialAdd j x w g r n a) s1)) ∧
  (∀ (j : Fin 4) (n : Nat) (a : PartialAt) (x : Job) (r : TRun) (w g : Tensor) (s : State), n ≠ r.parts →
    partialAdd j x w g r n a s = setTens j w.id (fun y => { y with early := (n, a) :: y.early.filter (·.1 != n) }) s) ∧
  (∀ (j : Fin 4) (x : Job) (w g : Tensor) (a : PartialAt) (s : State),
    addPartial j x w g 0 a s = (ofWords (partialWords s a w.elements), s)) ∧
  (∀ (j : Fin 4) (g : Tensor) (c : Conv) (bs : List Byte) (p q : Word) (s : State),
    (addElem j g c (bs, s) (p, q)).1 = bs ++ (convertElem j g c (accAddV (accOf (ofB32 p)) (ofB32 q)) s).1)) ∧
  (∀ (j : Fin 4) (id : BitVec 16) (ecc : DrawerEcc) (x : Job) (w : Tensor) (s : State), s.jobs[j] = some x →
    tensorOf s id = some w → x.glueQ.head? = some id → glueOpen s < glueMax s → gSpilled s j w = false →
    exec (.glueEnter j id ecc) s = .next (afterEcc ecc (enterGlue j x w) s)) ∧
  (∀ (j : Fin 4) (id : BitVec 16) (ecc : DrawerEcc) (x : Job) (w : Tensor) (s : State), s.jobs[j] = some x →
    tensorOf s id = some w → (glueMax s ≤ glueOpen s ∨ gSpilled s j w = true) →
    exec (.glueEnter j id ecc) s = .next s) ∧
  (∀ (j : Fin 4) (id : BitVec 16) (x : Job) (r : TRun) (w : Tensor) (s : State), s.jobs[j] = some x →
    tensAt s j id = some r → tensorOf s id = some w → stepOpen x = true → x.train = true → trained w = true →
    w.job = x.index → r.gtFinal = true → r.fReady = false → tallyFull s x (r.tallyG.map (·.1)) = true →
    exec (.clampFactor j id) s = .next (clampTens j x id r s)) ∧
  (∀ (q : Val) (clip n : Word) (s : State), vIsFin q = false → clampOf q clip n s = (none, s)) ∧
  (∀ (q : Val) (clip n : Word) (s : State), vIsFin q = true → vIsZero (ofB32 clip) = false →
    vLe q (vMul (ofB32 clip) (ofB32 clip)) = true → clampOf q clip n s = (some (b32One, b32Mul n b32One), s)) ∧
  (∀ (j : Fin 4) (id : BitVec 16) (ecc : DrawerEcc) (x : Job) (r : TRun) (w : Tensor) (s : State), s.jobs[j] = some x →
    tensAt s j id = some r → tensorOf s id = some w →
    (optimizerDue s j x w r .adamw = true → exec (.optimizerAdamw j id ecc) s =
      .next (afterEcc ecc (fun s1 => adamwRun j x w r (useShard j x w s1)) s)) ∧
    (optimizerDue s j x w r .sgdm = true → exec (.optimizerSgdm j id ecc) s =
      .next (afterEcc ecc (fun s1 => sgdmRun j x w r (useShard j x w s1)) s))) ∧
  (∀ (j : Fin 4) (x : Job) (r : TRun) (w : Tensor) (s : State), r.nonfinite = true →
    adamwRun j x w r s = optFinish j w s ∧ sgdmRun j x w r s = optFinish j w s) ∧
  (∀ (j : Fin 4) (n : Nat) (x : Job) (s : State), s.jobs[j] = some x → x.readers ≠ [] → readersEnded s x.readers = true →
    exec (.optimizerReaderWaitEnd j n) s = .next (x.gatherHeld.foldl (fun s' g => gatherOne j g s')
      (bumpTrn j 5 n (setJob j (fun y => { y with readers := [], gatherHeld := [] }) s)))) ∧
  (∀ (j : Fin 4) (x : Job) (s : State), s.jobs[j] = some x → readyNow s j x = true → x.saved = none →
    onFabric s x = false → exec (.readySend j) s = .next (commitStep j s)) ∧
  (∀ (j : Fin 4) (x : Job) (r : Record) (s : State), s.jobs[j] = some x → readyNow s j x = true → x.saved = some r →
    exec (.readySend j) s = .next (replayFinish j x s)) ∧
  (∀ (j : Fin 4) (x : Job) (s : State), s.jobs[j] = some x → readyNow s j x = true → x.saved = none →
    onFabric s x = true → isCoord s = false →
    exec (.readySend j) s = .next (send (coordDst s) 0x05 0 (.step x.index x.step)
      { s with jobs := s.jobs.set j (some { x with phase := .ready }) }))

/-! ### Benches, planes and lathes -/

/-- R67, R70 to R72, R77: a pass begins with its loaded tile, or with a kept one that is still in the cells; a weight load and the
activations wait until their slot is FULL, the outputs of a LAST pass until theirs is EMPTY, and the outputs mark it FULL; kept weights
are released once, and each wait counts its cycles (R80); a pass with a range beyond the bench store stops the machine. -/
def Obligations.BenchPassesLoadStreamAndWrite : Prop :=
  (∀ (b : Fin 4) (e : EntryRun) (d : Desc8) (s : State), passAt b s.bnc[b].pc s = some (e, d) → s.bnc[b].begun = false →
    keptHere s.bnc[b] e d = false → s.bnc[b].ld = s.bnc[b].pc + 1 →
    ∃ t, exec (.benchPass b) s = .next t ∧ t.bnc[b].begun = true ∧ t.bnc[b].work = s.bnc[b].shadow ∧
      t.bnc[b].held = some (e.job, e.prog) ∧ (∀ k : Fin 4, k ≠ b → t.bnc[k] = s.bnc[k]) ∧ t = { s with bnc := t.bnc }) ∧
  (∀ (b : Fin 4) (e : EntryRun) (d : Desc8) (s : State), passAt b s.bnc[b].pc s = some (e, d) → s.bnc[b].begun = false →
    keptHere s.bnc[b] e d = true →
    ∃ t, exec (.benchPass b) s = .next t ∧ t.bnc[b].begun = true ∧ t.bnc[b].work = s.bnc[b].work ∧
      t.bnc[b].ld = s.bnc[b].pc + 1 ∧ (∀ k : Fin 4, k ≠ b → t.bnc[k] = s.bnc[k]) ∧ t = { s with bnc := t.bnc }) ∧
  (∀ (b : Fin 4) (cy : BenchCycles) (ecc : Ecc) (e : EntryRun) (d : Desc8) (s : State),
    passAt b s.bnc[b].ld s = some (e, d) → loadDue s.bnc[b] e d = true →
    passInStore d ((inlayOf s e s.bnc[b].ld d).map (·.2)) (tensorWidth s (pOutTensor d)) = true →
    slotFull (benchHome b s) (pWSlot d) s = false →
    exec (.benchWeightLoad b cy ecc) s = .next (benchWait b 1 (pWSlot d) (benchCycles b cy s))) ∧
  (∀ (b : Fin 4) (cy : BenchCycles) (ecc : Ecc) (e : EntryRun) (d : Desc8) (s : State),
    passAt b s.bnc[b].ld s = some (e, d) → loadDue s.bnc[b] e d = true → pInlay d = false →
    passInStore d none (tensorWidth s (pOutTensor d)) = true → slotFull (benchHome b s) (pWSlot d) s = true →
    ecc.uncorr = none →
    ∃ t, exec (.benchWeightLoad b cy ecc) s = .next t ∧ t.bnc[b].ld = s.bnc[b].ld + 1 ∧
      t.bnc[b].shadow = loadTile b d none s ∧ t.bnc[b].store = s.bnc[b].store ∧ t.bnc[b].work = s.bnc[b].work ∧
      t.bnc[b].acc = s.bnc[b].acc) ∧
  (∀ (b : Fin 4) (cy : BenchCycles) (ecc : Ecc) (e : EntryRun) (d : Desc8) (s : State),
    passAt b s.bnc[b].pc s = some (e, d) → s.bnc[b].begun = true → s.bnc[b].read = false →
    passInStore d ((inlayOf s e s.bnc[b].pc d).map (·.2)) (tensorWidth s (pOutTensor d)) = true →
    slotFull (benchHome b s) (pASlot d) s = true → ecc.uncorr = none → pLast d = true →
    ∃ t, exec (.benchActivationRead b cy ecc) s = .next t ∧ t.bnc[b].read = true ∧
      t.bnc[b].acc = (streamPass b d s).bnc[b].acc ∧ t.bnc[b].store = s.bnc[b].store) ∧
  (∀ (b : Fin 4) (cy : BenchCycles) (e : EntryRun) (d : Desc8) (s : State),
    passAt b s.bnc[b].pc s = some (e, d) → s.bnc[b].read = true → pLast d = true →
    passInStore d ((inlayOf s e s.bnc[b].pc d).map (·.2)) (tensorWidth s (pOutTensor d)) = true →
    slotEmpty (benchHome b s) (pDoneSlot d) s = false →
    exec (.benchOutputWrite b cy) s = .next (benchWait b 3 (pDoneSlot d) (benchCycles b cy s))) ∧
  (∀ (b : Fin 4) (cy : BenchCycles) (e : EntryRun) (d : Desc8) (s s1 : State),
    passAt b s.bnc[b].pc s = some (e, d) → s.bnc[b].read = true → pLast d = true →
    passInStore d ((inlayOf s e s.bnc[b].pc d).map (·.2)) (tensorWidth s (pOutTensor d)) = true →
    slotEmpty (benchHome b s) (pDoneSlot d) s = true →
    s1 = writeOutputs e.job b d (releaseKept b d (benchCycles b cy (benchGo b 3 s))) →
    exec (.benchOutputWrite b cy) s = .next (passDone b (setBnc b (fun z => { z with chainOpen := false })
      (markSlot (benchHome b s1) (pDoneSlot d) true s1)))) ∧
  (∀ (b : Fin 4) (d : Desc8) (s : State), s.bnc[b].relDue = true →
    releaseKept b d s =
      markSlot (benchHome b s) (pWSlot d) false (setBnc b (fun x => { x with relDue := false }) s)) ∧
  (∀ (b : Fin 4) (d : Desc8) (s : State), s.bnc[b].relDue = false → releaseKept b d s = s) ∧
  (∀ (b : Fin 4) (cy : BenchCycles) (ecc : Ecc) (e : EntryRun) (d : Desc8) (s : State),
    passAt b s.bnc[b].pc s = some (e, d) → s.bnc[b].begun = true → s.bnc[b].read = false →
    passInStore d ((inlayOf s e s.bnc[b].pc d).map (·.2)) (tensorWidth s (pOutTensor d)) = false →
    exec (.benchActivationRead b cy ecc) s = .fault .storeRange) ∧
  (∀ (b : Fin 4) (cy : BenchCycles) (e : EntryRun) (d : Desc8) (s : State), passAt b s.bnc[b].pc s = some (e, d) →
    s.bnc[b].read = true → pLast d = true →
    passInStore d ((inlayOf s e s.bnc[b].pc d).map (·.2)) (tensorWidth s (pOutTensor d)) = false →
    exec (.benchOutputWrite b cy) s = .fault .storeRange) ∧
  (∀ (b : Fin 4) (cy : BenchCycles) (ecc : Ecc) (e : EntryRun) (d : Desc8) (s : State),
    passAt b s.bnc[b].ld s = some (e, d) → loadDue s.bnc[b] e d = true →
    passInStore d ((inlayOf s e s.bnc[b].ld d).map (·.2)) (tensorWidth s (pOutTensor d)) = false →
    exec (.benchWeightLoad b cy ecc) s = .fault .storeRange)

/-- R78, R88, R93, R106, R107, R116, R481: a wait that outlasts its limit is a fatal fault of the job, with the bench's, or plane's,
FAULT bit 0 and its info; a unit that passes its self-test returns to service, and one that fails leaves it with its FAULT bit; the
unit configuration is stored while no slot is in use, and a write at another time sets FAULT bit 2. -/
def Obligations.UnitFaultsSelftestsAndConfiguration : Prop :=
  (∀ (b : Fin 4) (s : State), s.bnc[b].state = .waiting → s.jobs[s.bnc[b].job] = none →
    ∃ t, exec (.bncWaitTimeout b) s = .next t ∧ bitAt t.bnc[b].fault 0 = true ∧ t.bnc[b].info = benchInfo s.bnc[b] ∧
      t = { s with bnc := t.bnc, evt := t.evt, free := t.free }) ∧
  (∀ (b : Fin 4) (x : Job) (s : State), s.bnc[b].state = .waiting → s.jobs[s.bnc[b].job] = some x →
    ∃ t, exec (.bncWaitTimeout b) s = .next t ∧ bitAt t.bnc[b].fault 0 = true ∧ t.bnc[b].info = benchInfo s.bnc[b] ∧
      t.jobs[s.bnc[b].job] = none) ∧
  (∀ (p : Fin 16) (s : State), s.pln[p].state = .waiting → s.pln[p].waitKind = 1 → s.jobs[s.pln[p].job] = none →
    ∃ t, exec (.plnWaitTimeout p) s = .next t ∧ bitAt t.pln[p].fault 0 = true ∧
      t.pln[p].info = planeInfo s.pln[p].waitSlot.toNat s.pln[p] 0 ∧
      t = { s with pln := t.pln, evt := t.evt, free := t.free }) ∧
  (∀ (b : Fin 4) (s : State), s.bnc[b].state = .selftest →
    exec (.benchSelftestDone b true) s = .next (nextTest (setBnc b (fun x => { x with state := .stopped }) s))) ∧
  (∀ (b : Fin 4) (s : State), s.bnc[b].state = .selftest → s.pwr.selftest = none → anyJob s = false →
    ∃ t, exec (.benchSelftestDone b false) s = .next t ∧ t.bnc[b].state = .outOfService ∧ bitAt t.bnc[b].fault 1 = true ∧
      t = { s with bnc := t.bnc, evt := t.evt }) ∧
  (∀ (p : Fin 16) (s : State), s.pln[p].state = .selftest →
    exec (.planeSelftestDone p true) s = .next (nextTest (setPln p (fun x => { x with state := .stopped }) s))) ∧
  (∀ (p : Fin 16) (s : State), s.pln[p].state = .selftest → s.pwr.selftest = none →
    ∃ t, exec (.planeSelftestDone p false) s = .next t ∧ t.pln[p].state = .outOfService ∧ bitAt t.pln[p].fault 1 = true ∧
      (∀ k : Fin 16, k ≠ p → t.pln[k] = s.pln[k]) ∧ t = { s with pln := t.pln, evt := t.evt }) ∧
  (∀ (l : Fin 4) (s : State), s.lth[l].state = .selftest →
    exec (.latheSelftestDone l true) s = .next (nextTest (setLth l (fun x => { x with state := .idle }) s))) ∧
  (∀ (l : Fin 4) (s : State), s.lth[l].state = .selftest → s.pwr.selftest = none →
    ∃ t, exec (.latheSelftestDone l false) s = .next t ∧ t.lth[l].state = .outOfService ∧ bitAt t.lth[l].fault 0 = true ∧
      (∀ p : Fin 16, p.val / 4 = l.val → t.pln[p].state = .outOfService) ∧
      (∀ p : Fin 16, p.val / 4 ≠ l.val → t.pln[p] = s.pln[p]) ∧
      t = { s with pln := t.pln, lth := t.lth, evt := t.evt }) ∧
  (∀ (b : Fin 4) (p : Fin 16) (v : Word) (s : State), running s = true → anyJob s = false →
    exec (.bncCfgWrite b v) s = .next { s with bnc := s.bnc.set b { s.bnc[b] with cfg := v &&& 0x1F01 } } ∧
    exec (.plnCfgWrite p v) s = .next { s with pln := s.pln.set p { s.pln[p] with cfg := v &&& 0x1F00 } }) ∧
  (∀ (b : Fin 4) (p : Fin 16) (v : Word) (s : State), running s = true → anyJob s = true →
    (∃ t, exec (.bncCfgWrite b v) s = .next t ∧ t.bnc[b].fault = orBit s.bnc[b].fault 2 ∧ t.bnc[b].cfg = s.bnc[b].cfg ∧
      t = { s with bnc := t.bnc, evt := t.evt }) ∧
    (∃ t, exec (.plnCfgWrite p v) s = .next t ∧ t.pln[p].fault = orBit s.pln[p].fault 2 ∧ t.pln[p].cfg = s.pln[p].cfg ∧
      t = { s with pln := t.pln, evt := t.evt }))

/-- R99 to R101, R105, R209 to R211: on a plane whose microprogram comes to it, each register instruction has its effect, and the
program goes on; an instruction that is not the program's next changes nothing. For arithmetic: each active element of the destination
takes its operation's result, rounded once, and every other element and register is unchanged. A shift by 32 or more, whose result the
spec leaves open, writes a free value of its operands (log entry 8). -/
def Obligations.PlaneInstructionsHaveTheirEffect : Prop :=
  ((∀ (p : Fin 16) (i : PArith) (s : State), issues p (.arith i) s = true →
    exec (.planeArith p i) s = .next (issued p (s.pln[p].pc + 1) (setPln p (fun x =>
      mapElems i.fmt i.dst (activeElems x i.fmt i.mask) (fun e => arithCode i.fmt i.op (elemCode x i.fmt i.a e)
        (elemCode x i.fmt i.b e) (elemCode x i.fmt i.c e)) x) s))) ∧
  (∀ (p : Fin 16) (i : PCmp) (s : State), issues p (.cmp i) s = true →
    exec (.planeCmpSelect p i) s = .next (issued p (s.pln[p].pc + 1) (setPln p (cmpPlane i) s))) ∧
  (∀ (p : Fin 16) (i : PConv) (s : State), issues p (.conv i) s = true →
    exec (.planeConvert p i) s = .next (issued p (s.pln[p].pc + 1) (setPln p (convPlane i) s))) ∧
  (∀ (p : Fin 16) (i : PScalar) (s : State), issues p (.scalar i) s = true →
    exec (.planeScalar p i) s = .next (issuedScalar p (scalarNext i s.pln[p]) (setPln p (scalarPlane i) s))) ∧
  (∀ (p : Fin 16) (i : PReduce) (s : State), issues p (.reduce i) s = true →
    exec (.planeReduce p i) s = .next (issued p (s.pln[p].pc + 1) (setPln p (reducePlane i) s))) ∧
  (∀ (p : Fin 16) (f : VFmt) (a : BitVec 3) (d : BitVec 8) (s : State), issues p (.accRead (.toReg f a d)) s = true →
    exec (.accRead p (.toReg f a d)) s = .next (issued p (s.pln[p].pc + 1) (setPln p (accToReg f a d) s))) ∧
  (∀ (p a b : Fin 16) (i : PNorm) (s : State), issues p (.normCombine i) s = true →
    exec (.normCombine p a b i) s =
      .next (issued p (s.pln[p].pc + 1) (normTotals p (normCombine2 s.pln[a].norm s.pln[b].norm) i s))) ∧
  (∀ (p : Fin 16) (i : PArith) (s : State), issues p (.arith i) s = false → exec (.planeArith p i) s = .next s)) ∧
  (∀ (f : VFmt) (dst : BitVec 8) (m : Option (BitVec 3)) (g : Nat → Nat) (x y : Plane),
    y = mapElems f dst (activeElems x f m) g x →
    (∀ e, e < laneCount f → elemCode y f dst e =
      if maskOn x m e then g e % 2 ^ (match f with | .b32 => 32 | .b16 => 16) else elemCode x f dst e) ∧
    (∀ (r : BitVec 8) (l : Nat), r ≠ dst → l < 64 → laneWord y r l = laneWord x r l) ∧
    y.k = x.k ∧ y.a = x.a ∧ y.sc = x.sc ∧ y.pc = x.pc) ∧
  (∀ (p : Fin 16) (i : PMask) (s : State), issues p (.mask i) s = true →
    ∃ f, exec (.mask p i) s = .next (issued p (s.pln[p].pc + 1) (setPln p f s)) ∧
      (∀ e, e < 128 → bitAt ((f s.pln[p]).k[i.dst.toNat]) e =
        decide ((draw16 (drawKey p s).1 i.tensor (drawKey p s).2 i.purpose (i.origin + e)).toNat < i.p.toNat)) ∧
      (f s.pln[p]).v = s.pln[p].v) ∧
  (∀ (p : Fin 16) (i : PDraw) (s : State),
    (issues p (.rawWord i) s = true →
      ∃ f, exec (.rawWord p i) s = .next (issued p (s.pln[p].pc + 1) (setPln p f s)) ∧
        ∀ e, e < 64 → maskOn s.pln[p] i.mask e = true → laneWord (f s.pln[p]) i.dst e =
          draw32 (drawKey p s).1 i.tensor (drawKey p s).2 i.purpose (i.origin + e)) ∧
    (issues p (.uniform i) s = true →
      ∃ f, exec (.uniform p i) s = .next (issued p (s.pln[p].pc + 1) (setPln p f s)) ∧
        ∀ e, e < 64 → maskOn s.pln[p] i.mask e = true → laneWord (f s.pln[p]) i.dst e =
          uniform32 (draw32 (drawKey p s).1 i.tensor (drawKey p s).2 i.purpose (i.origin + e)))) ∧
  (∀ (p : Fin 16) (x : Job) (s : State), s.jobs[s.pln[p].job] = some x →
    drawKey p s = (x.kg, drawStep (drawsAs p s x))) ∧
  (∀ (a b : Word), b.toNat < 32 → shiftWord true a b = a <<< b.toNat ∧ shiftWord false a b = a >>> b.toNat) ∧
  (∀ (x : Plane) (c : BitVec 5) (n : Nat),
    (scalarOf x c = 0 → scalarNext (.branch c n) x = x.pc + 1) ∧ (scalarOf x c ≠ 0 → scalarNext (.branch c n) x = n) ∧
    (scalarOf x c = 1 → scalarNext (.loop c n) x = x.pc + 1) ∧ (scalarOf x c ≠ 1 → scalarNext (.loop c n) x = n))

/-- R102 to R105, R117, R121: a plane's access to tensors whose elements all lie in the tensor and in the store has its effect; one
with an element outside is rejected whole: FAULT bit 3 and the address of the first such element. The stores of an image's own
optimizer wait while a pass still reads the buffers that they write (R157). -/
def Obligations.PlaneAccessesAreChecked : Prop :=
  ((∀ (p : Fin 16) (i : PMem) (ecc : Ecc) (s : State), issues p (.load i) s = true → ecc.uncorr = none →
    firstOut s i.ref ((lineElems s.pln[p] i.fmt i.mask i.ref).map (·.2)) = none →
    exec (.planeLoad p i ecc) s = .next (issued p (s.pln[p].pc + 1) (loadElems p i.fmt i.reg i.ref
      (lineElems s.pln[p] i.fmt i.mask i.ref) (storeEcc s.pln[p].job ecc (portCycles p s)).2))) ∧
  (∀ (p : Fin 16) (i : PMem) (s : State), issues p (.store i) s = true → storeHeld p i.ref s = false →
    firstOut s i.ref ((lineElems s.pln[p] i.fmt i.mask i.ref).map (·.2)) = none →
    exec (.planeStore p i) s = .next (issued p (s.pln[p].pc + 1) (storeElems p i.ref
      (laneAccs s.pln[p] i.fmt i.reg (lineElems s.pln[p] i.fmt i.mask i.ref)) (portCycles p s)))) ∧
  (∀ (p : Fin 16) (i : PMem) (s : State), storeHeld p i.ref s = true → exec (.planeStore p i) s = .next s)) ∧
  ((∀ (p : Fin 16) (i : PIndexed) (ecc : Ecc) (s : State), issues p (.gather i) s = true → ecc.uncorr = none →
    firstOut s i.ref ((idxElems s.pln[p] i).map (·.2)) = none →
    exec (.planeGather p i ecc) s = .next (issued p (s.pln[p].pc + 1) (loadElems p i.fmt i.reg i.ref
      (idxElems s.pln[p] i) (storeEcc s.pln[p].job ecc (portCycles p s)).2))) ∧
  (∀ (p : Fin 16) (i : PIndexed) (s : State), issues p (.scatter i) s = true → storeHeld p i.ref s = false →
    firstOut s i.ref ((idxElems s.pln[p] i).map (·.2)) = none →
    exec (.planeScatter p i) s = .next (issued p (s.pln[p].pc + 1) (storeElems p i.ref
      (laneAccs s.pln[p] i.fmt i.reg (lastWins (idxElems s.pln[p] i))) (portCycles p s)))) ∧
  (∀ (p : Fin 16) (i : PIndexed) (ecc : Ecc) (s : State), issues p (.scatterAdd i) s = true → storeHeld p i.ref s = false →
    ecc.uncorr = none → firstOut s i.ref ((idxElems s.pln[p] i).map (·.2)) = none →
    exec (.scatterAdd p i ecc) s = .next (issued p (s.pln[p].pc + 1) (scatterAddElems p i.fmt i.reg i.ref
      (idxElems s.pln[p] i) (namedOnce (idxElems s.pln[p] i)) (storeEcc s.pln[p].job ecc (portCycles p s)).2)))) ∧
  (∀ (p : Fin 16) (a : BitVec 3) (r : TensorRef) (n : Nat) (s : State), issues p (.accRead (.toTensor a r n)) s = true →
    storeHeld p r s = false → firstOut s r ((List.range (min n 64)).map (lineIdx r)) = none →
    exec (.accRead p (.toTensor a r n)) s = .next (issued p (s.pln[p].pc + 1) (storeElems p r
      ((List.range (min n 64)).map fun l => (lineIdx r l, accGet s.pln[p] a l)) (portCycles p s)))) ∧
  (∀ (p : Fin 16) (i : PStats) (ecc : Ecc) (st : NormStat) (s s1 : State), issues p (.normStats i) s = true →
    ecc.uncorr = none → firstOut s i.src ((List.range i.n).map (lineIdx i.src)) = none →
    s1 = (storeEcc s.pln[p].job ecc (portCycles p s)).2 →
    st = normStatsOf (((List.range i.n).map (lineIdx i.src)).map fun k => storedVal (homeOf p s1) i.src k s1) →
    exec (.normStats p i ecc) s = .next (issued p (s.pln[p].pc + 1)
      (setPln p (setNorm st) (bumpPln p 9 (if vIsNan st.mean then 1 else 0) s1)))) ∧
  ((∀ (p : Fin 16) (i : PSoftmax) (ecc : Ecc) (s : State), issues p (.softmax i) s = true → storeHeld p i.out s = false →
    ecc.uncorr = none → rowBounds i s = none →
    exec (.softmax p i ecc) s = .next (issued p (s.pln[p].pc + 1)
      (softmaxRow p i (storeEcc s.pln[p].job ecc (portCycles p s)).2))) ∧
  (∀ (p : Fin 16) (i : PSoftmax) (ecc : Ecc) (r : TensorRef) (k : Nat) (s : State), issues p (.softmax i) s = true →
    storeHeld p i.out s = false → rowBounds i s = some (r, k) →
    exec (.softmax p i ecc) s = .next (planeBounds p r k s))) ∧
  ((∀ (p : Fin 16) (i : PMem) (ecc : Ecc) (k : Nat) (s : State), issues p (.load i) s = true →
    firstOut s i.ref ((lineElems s.pln[p] i.fmt i.mask i.ref).map (·.2)) = some k →
    exec (.planeLoad p i ecc) s = .next (planeBounds p i.ref k s)) ∧
  (∀ (p : Fin 16) (i : PMem) (k : Nat) (s : State), issues p (.store i) s = true → storeHeld p i.ref s = false →
    firstOut s i.ref ((lineElems s.pln[p] i.fmt i.mask i.ref).map (·.2)) = some k →
    exec (.planeStore p i) s = .next (planeBounds p i.ref k s)) ∧
  (∀ (p : Fin 16) (i : PIndexed) (ecc : Ecc) (k : Nat) (s : State), storeHeld p i.ref s = false →
    firstOut s i.ref ((idxElems s.pln[p] i).map (·.2)) = some k →
    (issues p (.gather i) s = true → exec (.planeGather p i ecc) s = .next (planeBounds p i.ref k s)) ∧
    (issues p (.scatter i) s = true → exec (.planeScatter p i) s = .next (planeBounds p i.ref k s)) ∧
    (issues p (.scatterAdd i) s = true → exec (.scatterAdd p i ecc) s = .next (planeBounds p i.ref k s)))) ∧
  (∀ (p : Fin 16) (r : TensorRef) (i : Nat) (s : State), s.jobs[s.pln[p].job] = none →
    bitAt (planeBounds p r i s).pln[p].fault 3 = true ∧
    planeBounds p r i s = { s with pln := (planeBounds p r i s).pln, evt := (planeBounds p r i s).evt } ∧
    (planeBounds p r i s).pln[p].v = s.pln[p].v) ∧
  (∀ (s : State) (r : TensorRef) (is : List Nat), firstOut s r is = none ↔
    ∀ i ∈ is, i < tensorLen s r.tensor ∧ elemAddr s r i + tensorWidth s r.tensor ≤ storeSize r.stock)

/-- R106, R108 to R110: a plane waits at a WAIT until its slot is FULL; a signal marks its slot; a lathe request waits for its
results, and each granted cycle delivers them to the planes in round-robin order; an empty request ends at once. -/
def Obligations.PlanesWaitSignalAndUseTheLathe : Prop :=
  (∀ (p : Fin 16) (n : BitVec 8) (s : State), coreOn s = true → opAt p s = some (.wait n) → s.pln[p].state = .running →
    slotFull (homeOf p s) n.toNat s = false →
    exec (.planeWait p n) s = .next { s with
      pln := s.pln.set p { s.pln[p] with state := .waiting, waitKind := 1, waitSlot := n } }) ∧
  (∀ (p : Fin 16) (n : BitVec 8) (s : State), coreOn s = true → opAt p s = some (.wait n) → s.pln[p].state = .running →
    slotFull (homeOf p s) n.toNat s = true →
    exec (.planeWait p n) s = .next (issuedScalar p (s.pln[p].pc + 1)
      (setPln p (fun y => { y with state := .running, waitKind := 0, waitSlot := 0xFF }) (bumpPln p 4 0 s)))) ∧
  (∀ (p : Fin 16) (i : PSlot) (s : State), issues p (.signal i) s = true → exec (.planeSignal p i) s =
    .next (issuedScalar p (s.pln[p].pc + 1) (markSlot (homeOf p s) i.slot.toNat i.full s))) ∧
  (∀ (p : Fin 16) (i : PLathe) (s : State), issues p (.lathe i) s = true → latheOperands s.pln[p] i ≠ [] →
    ∃ t, exec (.latheRequest p i) s = .next t ∧ t.pln[p].state = .waiting ∧ t.pln[p].waitKind = 2 ∧
      t.pln[p].v = s.pln[p].v ∧ t.lth[groupOf p].state = .running ∧
      t.lth[groupOf p].req[laneInGroup p] = some ⟨i.fn, i.fmt, i.dst, latheOperands s.pln[p] i⟩ ∧
      t = { s with pln := t.pln, lth := t.lth }) ∧
  (∀ (p : Fin 16) (i : PLathe) (s : State), issues p (.lathe i) s = true → latheOperands s.pln[p] i = [] →
    exec (.latheRequest p i) s = .next (issued p (s.pln[p].pc + 1) s)) ∧
  (∀ (n : Fin 4) (s : State), awake s = true → coreOn s = true → s.lth[n].state = .running →
    (∀ (k : Fin 4) (r : LatheReq), s.lth[n].req[k] = some r → 4 * latheShare s.lth[n] k < r.left.length) →
    ∃ t, exec (.latheGrant n) s = .next t ∧ t.lth[n].next = latheNext s.lth[n] ∧
      (∀ (k : Fin 4) (r : LatheReq), s.lth[n].req[k] = some r →
        t.lth[n].req[k] = some { r with left := r.left.drop (4 * latheShare s.lth[n] k) }) ∧
      t = { s with pln := t.pln, lth := t.lth, evt := t.evt }) ∧
  (∀ (n : Fin 4) (s : State), coreOn s = true → s.lth[n].state = .running →
    ∃ t, exec (.latheGrant n) s = .next t ∧
      (∀ (k : Fin 4) (r : LatheReq), s.lth[n].req[k] = some r → r.left.length ≤ 4 * latheShare s.lth[n] k →
        t.lth[n].req[k] = none)) ∧
  (∀ (l : Lathe), latheOrder l ≠ [] → ((latheOrder l).map (latheShare l)).sum = 4)

/-! ### Messages and the workshop -/

/-- A message that link l takes, of a length the spec admits (R257), whose checks (R259) pass, and that is for this module. -/
def Sys2Proof.Claims.Arrives (l : Fin 8) (h : MsgHdr) (s : State) : Prop :=
  carries s.links[l] = true ∧ s.pwr.coreDown = false ∧ running s = true ∧ msgFits h = true ∧ msgOk s h = true ∧
    forMe s h = true

/-- The state in which such a message is taken: its flits are accepted, and a message to every member has gone on (R275). -/
def Sys2Proof.Claims.delivered (l : Fin 8) (h : MsgHdr) (p : Payload) (s : State) : State :=
  if h.dst = 0xFFFE then forwardAll h p (acceptFlits l h s) else acceptFlits l h s

/-- R282, R313: what flits other than QUIESCE change beyond their link and the events: on a link that carried only QUIESCE flits,
the quiet ranks are told again and the limit counts from now for the jobs of its member. -/
def Sys2Proof.Claims.flitsBack (l : Fin 8) (ls : Vector Link 8) (s : State) : State :=
  if s.links[l].state = .peerQuiesce then
    colAgain (jobOf ls[l].peerRank.toNat s) (noteQuiet { s with links := ls })
  else s

/-- R257, R259, R275: a message on a link that carries none, or while the firmware does not run, changes nothing; one whose checks
fail is dropped and counted; one for another member goes on along its route, one hop further, and is dropped after the sixteenth hop;
its flits count in the link's sequence, its counter and the credits that go back, and end its QUIESCE time. -/
def Obligations.MessagesAreCheckedAndForwarded : Prop :=
  (∀ (l : Fin 8) (h : MsgHdr) (p : Payload) (s : State),
    (carries s.links[l] = false ∨ s.pwr.coreDown = true ∨ running s = false) →
    exec (.messageForward l h p) s = .next s) ∧
  (∀ (l : Fin 8) (h : MsgHdr) (p : Payload) (s : State), carries s.links[l] = true → s.pwr.coreDown = false →
    running s = true → msgFits h = false → exec (.messageForward l h p) s = .next (acceptFlits l h s)) ∧
  (∀ (l : Fin 8) (h : MsgHdr) (p : Payload) (s : State), carries s.links[l] = true → s.pwr.coreDown = false →
    running s = true → msgFits h = true → msgOk s h = false →
    exec (.messageForward l h p) s = .next (bumpWs 1 1 (acceptFlits l h s))) ∧
  (∀ (l : Fin 8) (h : MsgHdr) (p : Payload) (s : State), carries s.links[l] = true → s.pwr.coreDown = false →
    running s = true → msgFits h = true → msgOk s h = true → forMe s h = false → h.hops.toNat < 15 →
    ∃ t, exec (.messageForward l h p) s = .next t ∧
      t = sendTo h.dst.toNat (passedOn h p) (noteSent (passedOn h p) (acceptFlits l h s)) ∧
      t.out = s.out ++ [⟨h.dst, h.src, h.kind, h.arg, h.epoch, h.hops + 1, p⟩]) ∧
  (∀ (l : Fin 8) (h : MsgHdr) (p : Payload) (s : State), carries s.links[l] = true → s.pwr.coreDown = false →
    running s = true → msgFits h = true → msgOk s h = true → forMe s h = false → h.hops.toNat = 15 →
    exec (.messageForward l h p) s = .next (bumpWs 1 1 (acceptFlits l h s))) ∧
  (∀ (l : Fin 8) (h : MsgHdr) (p : Payload) (s : State), Arrives l h s →
    exec (.messageForward l h p) s = .next (delivered l h p s)) ∧
  (∀ (l : Fin 8) (h : MsgHdr) (s : State), awake s = true →
    let n := (16 + h.length.toNat + 239) / 240;
    let t := acceptFlits l h s;
    t.links[l].rxSeq = s.links[l].rxSeq + BitVec.ofNat 12 n ∧ t.links[l].state = .up ∧
      t.links[l].creditsBack[h.vl.toNat] = s.links[l].creditsBack[h.vl.toNat] + BitVec.ofNat 16 n ∧
      (∀ k : Fin 8, k ≠ l → t.links[k] = s.links[k]) ∧
      t = { flitsBack l t.links s with links := t.links, evt := t.evt }) ∧
  (∀ h : MsgHdr, msgFits h = true ↔ (h.length.toNat ≤ 65536 ∧ (h.vl = 0 → 16 + h.length.toNat ≤ 4 * 240))) ∧
  (∀ (h : MsgHdr) (s : State), msgOk s h = true ↔ (kindKnown h.kind = true ∧ vlOf h.kind = h.vl ∧
    (anyEpoch h.kind = true ∨ h.epoch = s.ws.epoch) ∧ h.hops.toNat < 16)) ∧
  (∀ k : Byte, anyEpoch k = true ↔ ((0x07 ≤ k.toNat ∧ k.toNat ≤ 0x0F) ∨ k = 0x13)) ∧
  (∀ (l : Fin 8) (x : Sent) (s : State), ∃ t, enqueue l x s = t ∧
    t.links[l].queue = s.links[l].queue ++ [(vlOf x.kind, flitsOf x, x)] ∧ (∀ k : Fin 8, k ≠ l → t.links[k] = s.links[k]) ∧
    t = { s with links := t.links })

/-- R153 to R155, R183, R188, R190, R191, R194: READY is collected by the coordinator alone; COMMIT commits a step that this module has
made ready, and no other; a STOP or an ABORT of a step that is not open changes nothing; LAST_COMMITTED is answered with what this
module has committed; requests and results of snapshots, replays and restores reach the job they name. -/
def Obligations.JobMessagesReachTheirJob : Prop :=
  (∀ (l : Fin 8) (h : MsgHdr) (i n : Nat) (s : State), Arrives l h s →
    exec (.ready l h i n) s = .next (takeReady h.src.toNat i n (delivered l h (.step i n) s)) ∧
    exec (.commit l h i n) s = .next (commitHere i n (delivered l h (.step i n) s)) ∧
    exec (.stop l h i n) s = .next (takeStop h.src i n (delivered l h (.step i n) s)) ∧
    exec (.abort l h i n) s = .next (takeAbort i n (delivered l h (.step i n) s))) ∧
  (∀ (l : Fin 8) (h : MsgHdr) (q c : Bool) (i n : Nat) (s : State), Arrives l h s →
    exec (.lastCommitted l h q i n c) s = .next (takeLast h q i n c (delivered l h (.last q i n c) s))) ∧
  (∀ (l : Fin 8) (h : MsgHdr) (i : Nat) (n : Option Nat) (s : State), Arrives l h s →
    exec (.snapReq l h i n) s = .next (takeSnapReq i n (delivered l h (namedPayload i n) s)) ∧
    exec (.replayReq l h i n) s = .next (takeReplayReq h i n (delivered l h (namedPayload i n) s))) ∧
  (∀ (l : Fin 8) (h : MsgHdr) (i : Nat) (o : ReplayOutcome) (m : RestoreMsg) (s : State), Arrives l h s →
    exec (.replayResult l h i o) s = .next (takeReplayResult h i o (delivered l h (.replay i o) s)) ∧
    exec (.restoreOffer l h i m) s = .next (takeRestore h i m (delivered l h (restorePayload i m) s))) ∧
  (∀ (q i n : Nat) (s : State), isCoord s = false → takeReady q i n s = s) ∧
  (∀ (q i n : Nat) (s : State), isCoord s = true → (jobRanks s i).contains q = true →
    takeReady q i n s = tryCommit i n (noteReady i n q s)) ∧
  (∀ (i n : Nat) (j : Fin 4) (x : Job) (s : State), slotOfIndex s i = some j → s.jobs[j] = some x → x.phase = .ready →
    x.step = n → commitHere i n s = commitStep j s) ∧
  (∀ (i n : Nat) (j : Fin 4) (x : Job) (s : State), slotOfIndex s i = some j → s.jobs[j] = some x →
    (x.phase ≠ .ready ∨ x.step ≠ n) → commitHere i n s = s) ∧
  (∀ (q : BitVec 16) (i n : Nat) (s : State), isCoord s = false → takeStop q i n s = s) ∧
  (∀ (i n : Nat) (j : Fin 4) (x : Job) (s : State), slotOfIndex s i = some j → s.jobs[j] = some x →
    (x.step ≠ n ∨ stepOpen x = false) → takeAbort i n s = s) ∧
  (∀ (h : MsgHdr) (i n : Nat) (c : Bool) (s : State),
    takeLast h true i n c s =
      send h.src 0x0F 0 (.last false i (stepsDone s i - 1) (decide (0 < stepsDone s i))) s) ∧
  (∀ (i n : Nat) (j : Fin 4) (x : Job) (s : State), isCoord s = true → runsHere s i = true →
    slotOfIndex s i = some j → s.jobs[j] = some x → n < x.step → ∀ q : BitVec 16, takeStop q i n s = send q 0x06 0 (.step i n) s) ∧
  (∀ (a b : ReplayOutcome), a.aborted = true → worse a b = a) ∧
  (∀ (a b : ReplayOutcome), a.aborted = false → a.matched = false → b.aborted = false → b.matched = false →
    a.tensor.toNat < b.tensor.toNat → worse a b = a ∧ worse b a = a)

/-- R258, R274, R276, R278, R279, R437: HEARTBEAT goes to the coordinator, BEAT to every member; a rank from which DATA comes is no
longer quiet; the end of a member's or the coordinator's limit counts it as departed while it is live, and otherwise changes nothing;
a time request is answered with the receiver's time. -/
def Obligations.TimersAndBeatsKeepTheMembersLive : Prop :=
  (∀ (l : Fin 8) (h : MsgHdr) (s : State), Arrives l h s →
    exec (.heartbeat l h) s = .next (heard h.src (delivered l h .empty s)) ∧
    exec (.beat l h) s = .next (heard h.src (delivered l h .empty s)) ∧
    exec (.retrainNote l h) s = .next (if isCoord (delivered l h .empty s) then
      noteRetrain h.src.toNat (delivered l h .empty s) else delivered l h .empty s)) ∧
  (∀ s : State, fwRuns s = true → isMember s = true → isCoord s = false →
    exec .heartbeatDue s = .next (send (coordDst s) 0x01 0 .empty s)) ∧
  (∀ s : State, fwRuns s = true → isCoord s = true → exec .heartbeatDue s = .next s ∧
    exec .beatDue s = .next (send 0xFFFE 0x02 0 .empty s)) ∧
  (∀ s : State, isCoord s = false → exec .beatDue s = .next s) ∧
  (∀ (r : Nat) (s : State), fwRuns s = true → isLiveRank s r = true → overdue s r = true →
    (isCoord s = true → exec (.heartbeatMissed r) s = .next (departedNow r s)) ∧
    (s.ws.quiet.contains r = true → exec (.quiesceLimitExpiry r) s = .next (departedNow r s)) ∧
    (s.ws.quiet.contains r = false → exec (.quiesceLimitExpiry r) s = .next s)) ∧
  (∀ (r : Nat) (s : State), (isLiveRank s r = false ∨ overdue s r = false) → exec (.heartbeatMissed r) s = .next s ∧
    exec (.quiesceLimitExpiry r) s = .next s) ∧
  (∀ (r : Nat) (s : State), isLiveRank s r = false → r < s.ws.members.length → exec (.acceptTimeout r) s = .next s) ∧
  (∀ s : State, fwRuns s = true → isCoord s = false → isLiveRank s s.ws.coord = true → overdue s s.ws.coord = true →
    exec .beatMissed s = .next (departedNow s.ws.coord s)) ∧
  (∀ (r t : Nat) (v : DWord) (s : State), s.ws.heard.find? (·.1 == r) = some (r, v) → t = departLimit s r →
    (overdue s r = true ↔ v.toNat + t ≤ s.aon.time.toNat)) ∧
  (∀ (r : Nat) (s : State), s.ws.quiet.contains r = true →
    departLimit s r = max 1 (s.ws.cfgForce.extractLsb' 16 8).toNat * 100000000) ∧
  (∀ (r : Nat) (s : State), s.ws.quiet.contains r = false → s.ws.retraining = [] →
    departLimit s r = max 5 (s.ws.cfgForce.extractLsb' 0 8).toNat * 1000000) ∧
  (∀ (r : Nat) (c : Change_) (m : Member) (s : State), s.ws.change = some c → fwRuns s = true → isCoord s = true →
    r < s.ws.members.length → isLiveRank s r = true → s.ws.members.find? (·.rank == r) = some m →
    c.accepts.contains m.serial = false →
    exec (.acceptTimeout r) s = .next (departedNow r s)) ∧
  (∀ (r : Nat) (c : Change_) (a : Arrival) (s : State), s.ws.change = some c → fwRuns s = true → isCoord s = true →
    s.ws.members.length ≤ r → (sortArrivals c.prop.arrivals)[r - s.ws.members.length]? = some a →
    c.accepts.contains a.serial = false →
    exec (.acceptTimeout r) s = .next (dropArrival a.serial s)) ∧
  (∀ (rs : List Nat) (s : State), isMember s = true → rs ≠ [] →
    hasMajority s ((s.ws.departed ++ rs).eraseDups) = false →
    (departed rs s).ws.state = .holding ∧ bitAt (departed rs s).ws.fault 0 = true ∧
      ∀ (j : Fin 4) (x : Job), (departed rs s).jobs[j] = some x → x.fabric = true → x.parked = false →
        x.phase = .holding) ∧
  (∀ (l : Fin 8) (h : MsgHdr) (t1 t2 t3 t4 : DWord) (s : State), Arrives l h s →
    exec (.time l h t1 t2 t3 t4) s = .next (takeTime l t1 t2 t3 t4 (delivered l h (.time t1 t2 t3 t4) s))) ∧
  (∀ (l : Fin 8) (t1 : DWord) (s : State),
    takeTime l t1 0 0 0 s = sendOn l 0xFFFF 0x11 0 (.time t1 s.aon.time s.aon.time 0) s) ∧
  (∀ (l : Fin 8) (s : State), fwRuns s = true → isMember s = true → isCoord s = false → routeTo s s.ws.coord = some l →
    exec .timeExchangeDue s = .next (sendOn l 0xFFFF 0x11 0 (.time s.aon.time 0 0 0) s))

/-- R277 to R282: the messages that make up a workshop. A JOIN with another image is refused, a second of one serial changes nothing,
and one at the coordinator waits as an arrival; a PROPOSE of a later epoch is answered with the view it gives; an ACCEPT with another
view counts its sender as departed; ENACT is adopted by a module outside, or by a member where its epoch is later; the
enacted epoch gives rank, members and MR4. -/
def Obligations.MembershipMessagesMakeTheWorkshop : Prop :=
  (∀ (l : Fin 8) (h : MsgHdr) (s : State), Arrives l h s →
    (∀ x, exec (.linkUp l h x) s = .next (if isRank (delivered l h (.adj x) s) x.rankA &&
      isRank (delivered l h (.adj x) s) x.rankB && x.rankA != x.rankB then addEdge x (delivered l h (.adj x) s)
      else delivered l h (.adj x) s)) ∧
    (∀ x, exec (.linkDown l h x) s = .next (takeLinkDown x (delivered l h (.adj x) s))) ∧
    (∀ r, exec (.join l h r) s = .next (takeJoin h r (delivered l h (.join r) s))) ∧
    exec (.joinRefused l h) s = .next (takeRefused h (delivered l h .empty s)) ∧
    (∀ p, exec (.propose l h p) s = .next (takePropose l p (delivered l h (.propose p) s))) ∧
    (∀ e v, exec (.accept l h e v) s = .next (takeAccept h e v (delivered l h (.accept e v) s))) ∧
    (∀ e, exec (.enact l h e) s = .next (takeEnact e (passEnact e (delivered l h (.enact e) s)))) ∧
    exec (.leave l h) s = .next (takeLeave h (delivered l h .empty s)) ∧
    (∀ w, exec (.dissolve l h w) s = .next (takeDissolve w (delivered l h (.dissolve w) s)))) ∧
  (∀ (w : DWord) (s : State), (isMember s = false ∨ w ≠ s.ws.id ∨ s.ws.dissolving = true) → takeDissolve w s = s) ∧
  (∀ s : State, isMember s = true → s.ws.dissolving = false →
    takeDissolve s.ws.id s = if isCoord s then dissolve (send 0xFFFE 0x13 0 (.dissolve s.ws.id) s) else dissolve s) ∧
  (∀ (h : MsgHdr) (r : JoinReq) (s : State), isCoord s = true → r.imageId ≠ imageIdOf s →
    takeJoin h r s = refuseJoin h r s) ∧
  (∀ (h : MsgHdr) (r : JoinReq) (s : State), h.src ≠ 0xFFFF → refuseJoin h r s = send h.src 0x0A 0 .empty s) ∧
  (∀ (h : MsgHdr) (s : State), h.dst ≠ 0xFFFE →
    (takeRefused h s).ws.joinRefused = true ∧ bitAt (takeRefused h s).ws.fault 2 = true) ∧
  (∀ (h : MsgHdr) (r : JoinReq) (s : State), isCoord s = true → r.imageId = imageIdOf s →
    bitAt h.arg 15 = false → (∀ a ∈ s.ws.arrivals, a.serial ≠ r.serial) → (∀ m ∈ s.ws.members, m.serial ≠ r.serial) →
    takeJoin h r s =
      changeAtBoundary { s with ws := { s.ws with arrivals := s.ws.arrivals ++ [⟨r.serial, r.claim, r.jobs⟩] } }) ∧
  (∀ s : State, (changeDue s = false ∨ fabricShut s = false) → changeOpen s = true → changeAtBoundary s = s) ∧
  (∀ (h : MsgHdr) (r : JoinReq) (s : State), isCoord s = false → takeJoin h r s = s) ∧
  (∀ (l : Fin 8) (p : Proposal) (s : State), isMember s = true → isCoord s = false → s.ws.epoch.toNat < p.epoch.toNat →
    (takePropose l p s).ws.view = some (p.epoch, deriveMembers s.ws.members p)) ∧
  (∀ (l : Fin 8) (p : Proposal) (s : State), isMember s = true → p.epoch.toNat ≤ s.ws.epoch.toNat → epochEnd s = false →
    takePropose l p s = s) ∧
  (∀ (h : MsgHdr) (v : List Member) (m : Member) (c : Change_) (s : State), s.ws.change = some c → isCoord s = true →
    bitAt h.arg 15 = false → isLiveRank s h.src.toNat = true → s.ws.members.find? (·.rank == h.src.toNat) = some m →
    (v ≠ c.view → takeAccept h c.prop.epoch v s = departedNow h.src.toNat s) ∧
    (v = c.view → takeAccept h c.prop.epoch v s = noteAccept c m.serial s)) ∧
  (∀ (e : Enactment) (s : State), s.ws.state ≠ .unjoined → (e.wsId ≠ s.ws.id ∨ e.epoch.toNat ≤ s.ws.epoch.toNat) →
    takeEnact e s = s) ∧
  (∀ (e : Enactment) (m : Member) (s : State), (adoptView e m s).ws.epoch = e.epoch ∧ (adoptView e m s).ws.rank = m.rank ∧
    (adoptView e m s).ws.members = e.members ∧ (adoptView e m s).ws.id = e.wsId ∧
    (adoptView e m s).sec.mr4 = some (e.wsId, e.epoch, m.rank, e.members) ∧
    ((adoptView e m s).ws.state = .coordinator ↔ m.rank = 0)) ∧
  (∀ (old : List Member) (p : Proposal), (deriveMembers old p).length =
    (old.filter fun m => !p.departed.contains m.rank).length + p.arrivals.length) ∧
  (∀ (old : List Member) (p : Proposal) (k : Nat) (m : Member), (deriveMembers old p)[k]? = some m → m.rank = k) ∧
  (∀ s : State, fwRuns s = true → isMember s = false → s.ws.joinRefused = false → ∀ l ls, memberLinks s = l :: ls →
    exec .joinRepeat s = .next { sendOn l 0 0x09 0 (.join ⟨s.serial, s.fls.claim.toNat, imageIdOf s, jobMask s⟩) s with
      ws := { s.ws with joinSent := true } }) ∧
  (∀ (r : List Arrival) (s : State), fwRuns s = true → bootDone s = true → s.img ≠ none → s.ws.state = .unjoined →
    memberLinks s = [] → r.all (claimBelow (selfArrival s)) = true →
    exec (.formWaitExpiry r) s = .next (form r s)) ∧
  (∀ (s : State) (lost : List Nat), hasMajority s lost = true ↔
    (s.ws.members.length < 2 * (s.ws.members.filter fun m => !lost.contains m.rank).length ∨
      (s.ws.members.length = 2 * (s.ws.members.filter fun m => !lost.contains m.rank).length ∧ 0 ∉ lost)))

/-! ### Links -/

/-- R264 to R268, R287: the states of a bring-up. A signal starts training; alignment starts a HELLO session with its two draws; a
timeout is counted, the third in a row with FAULT bit 1, and the retry starts over; a HELLO that does not verify fails the bring-up,
one of another image leaves the link NOT_ADMITTED, and one that passes is noted; a session that is not keyed, or not confirmed, in
time fails; DISABLE stops the link, and clearing it or a restart starts over. A command whose event cannot happen in the link's state
changes nothing (log entry 5). -/
def Obligations.LinksComeUpInOrder : Prop :=
  (∀ (l : Fin 8) (s : State), inState l .signalDetect s = true →
    exec (.signalDetect l) s = .next { s with
      links := s.links.set l { s.links[l] with state := .training, trainFailed := false } }) ∧
  (∀ (l : Fin 8) (s : State), inState l .training s = true → s.links[l].trainFailed = false → s.links[l].disable = false →
    s.links[l].stopped = false → s.rng.state ≠ .failed →
    ∃ t, exec (.flitAlignment l) s = .next t ∧ t.links[l].state = .hello ∧ t.links[l].lanes = 0xF ∧
      t.links[l].trainFails = 0 ∧ t.links[l].keyed = false ∧ t.links[l].nonce = none ∧ t.links[l].keys = none ∧ t.rng.waiting = s.rng.waiting ++ [⟨.hello l.val, 2⟩] ∧
      (∀ k : Fin 8, k ≠ l → t.links[k] = s.links[k]) ∧
      t = { s with links := t.links, rng := { s.rng with waiting := t.rng.waiting } }) ∧
  (∀ (l : Fin 8) (s : State), inState l .training s = true → s.links[l].trainFailed = false →
    ∃ t, exec (.trainTimeout l) s = .next t ∧ t.links[l].trainFails = s.links[l].trainFails + 1 ∧
      t.links[l].trainFailed = true ∧ t.links[l].state = .training ∧
      (s.links[l].trainFails = 2 → bitAt t.links[l].fault 1 = true) ∧
      (s.links[l].trainFails ≠ 2 → t.links[l].fault = s.links[l].fault ∧ t.evt = s.evt) ∧
      t = { s with links := t.links, evt := t.evt }) ∧
  (∀ (l : Fin 8) (s : State), inState l .training s = true → s.links[l].trainFailed = true →
    exec (.trainRetryDue l) s = .next { s with
      links := s.links.set l { s.links[l] with state := .signalDetect, trainFailed := false } }) ∧
  (∀ (l : Fin 8) (m : Hello) (s : State), (inState l .hello s = true ∨ inState l .notAdmitted s = true) →
    s.links[l].keyed = false → m.reservedZero = true → m.version = 1 → (m.chainOk = false ∨ m.sigOk = false) →
    s.links[l].disable = false → s.links[l].stopped = false →
    ∃ t, exec (.hello l m) s = .next t ∧ t.links[l].state = .signalDetect ∧ bitAt t.links[l].fault 2 = true ∧
      t.links[l].keyed = false ∧ t = { s with links := t.links, evt := t.evt }) ∧
  (∀ (l : Fin 8) (m : Hello) (s : State), (inState l .hello s = true ∨ inState l .notAdmitted s = true) →
    s.links[l].keyed = false → m.reservedZero = true → m.version = 1 → m.chainOk = true → m.sigOk = true →
    m.imageId ≠ imageIdOf s →
    ∃ t, exec (.hello l m) s = .next t ∧ t.links[l].state = .notAdmitted ∧ t.links[l].peerSerial = m.serial ∧
      t = { s with links := t.links, evt := t.evt }) ∧
  (∀ (l : Fin 8) (m : Hello) (s : State), (inState l .hello s = true ∨ inState l .notAdmitted s = true) →
    s.links[l].keyed = false → m.reservedZero = true → m.version = 1 → m.chainOk = true → m.sigOk = true →
    m.imageId = imageIdOf s →
    ∃ t, exec (.hello l m) s = .next t ∧ t.links[l].state = .hello ∧ t.links[l].peerSerial = m.serial ∧
      t.links[l].peerWs = m.wsId ∧ t.links[l].peerEpoch = m.epoch ∧ t.links[l].peerSeen = true ∧
      t.links[l].peerNonce = m.nonce ∧
      (t.links[l].keyed = true ↔ (s.links[l].nonce ≠ none ∧ s.links[l].eph ≠ none ∧
        (s.links[l].seenByPeer = true ∨ m.peerSeen = true))) ∧
      (t.links[l].keyed = true → t.links[l].eph = none ∧ t.links[l].keys ≠ none ∧ t.links[l].gen = 0 ∧
        t.links[l].txF = 0 ∧ t.links[l].rxF = 0 ∧ t.links[l].keysOn = true) ∧
      (∀ k : Fin 8, k ≠ l → t.links[k] = s.links[k]) ∧ t = { s with links := t.links }) ∧
  (∀ (l : Fin 8) (m : Hello) (s : State), (m.reservedZero = false ∨ m.version ≠ 1 ∨ s.links[l].keyed = true) →
    exec (.hello l m) s = .next s) ∧
  (∀ (l : Fin 8) (s : State), inState l .hello s = true → s.links[l].keyed = false →
    exec (.helloTimeout l) s = .next (helloFail l s) ∧ exec (.keysOnTimeout l) s = .next s ∧
    (s.links[l].nonce ≠ none → exec (.helloResendDue l) s = .next { s with
      links := s.links.set l { s.links[l] with
        hellos := s.links[l].hellos + 1, helloOut := helloBytes s l s.links[l] } })) ∧
  (∀ (l : Fin 8) (s : State), inState l .hello s = true → s.links[l].keyed = true →
    exec (.keysOnTimeout l) s = .next (helloFail l s) ∧ exec (.helloTimeout l) s = .next s) ∧
  (∀ (l : Fin 8) (s : State), inState l .notAdmitted s = true →
    exec (.notAdmittedHelloDue l) s = .next { s with
      links := s.links.set l { s.links[l] with
        hellos := s.links[l].hellos + 1, helloOut := helloBytes s l s.links[l] } }) ∧
  (∀ (l : Fin 8) (s : State), linkLive l s = true → s.links[l].disable = true → s.links[l].state = .disabled →
    ∃ t, exec (.fabDisable l false) s = .next t ∧
      t.links[l].state = (if s.links[l].stopped then .stopped else .signalDetect) ∧ t.links[l].disable = false ∧
      t = { s with links := t.links }) ∧
  (∀ (l : Fin 8) (s : State), linkLive l s = true → s.links[l].disable = false → carries s.links[l] = false →
    s.links[l].state ≠ .retrain →
    ∃ t, exec (.fabDisable l true) s = .next t ∧ t.links[l].state = .disabled ∧ t.links[l].disable = true ∧
      t = { s with links := t.links }) ∧
  (∀ (l : Fin 8) (s : State), inState l .stopped s = true → s.links[l].disable = false →
    ∃ t, exec (.fabRestart l) s = .next t ∧ t.links[l].state = .signalDetect ∧ t.links[l].stopped = false ∧ t = { s with links := t.links }) ∧
  (∀ (l : Fin 8) (s : State), (inState l .signalDetect s = true ∨ inState l .training s = true) →
    exec (.sendWake l) s = .next { s with links := s.links.set l { s.links[l] with wake := true } }) ∧
  (∀ (l : Fin 8) (m : Hello) (s : State), linkPresent s.part l.val = false →
    exec (.signalDetect l) s = .next s ∧ exec (.flitAlignment l) s = .next s ∧ exec (.hello l m) s = .next s)

/-- R255, R256, R260 to R264, R269 to R274, R282: flits, rekeying and retrains. A flit in the clear, or before keying, is dropped; a bad
one asks for a resend and discards what follows; the next DATA flit advances the sequence and the credits of its lane; a QUIESCE flit
on a link in UP makes it PEER_QUIESCE; a flit resent too often retrains the link at once; the loss of the signal takes it down; a
direction that has agreed on its switch point counts its frames from 0 again; low margins mark a link for the next boundary. -/
def Obligations.LinksCarryFlitsAndRetrain : Prop :=
  (∀ (l : Fin 8) (f : Flit) (s : State), (linkLive l s = false ∨ slotting s.links[l] = false) →
    exec (.linkFlit l f) s = .next s) ∧
  (∀ (l : Fin 8) (rx : FlitRx) (q : BitVec 12) (r : Bool) (vl : BitVec 2) (b : LinkBody) (s : State), rx.enc = false →
    exec (.linkFlit l (.data rx q r vl)) s = .next s ∧ exec (.linkFlit l (.link rx b)) s = .next s ∧
    exec (.quiesceFlit l rx b) s = .next s) ∧
  (∀ (l : Fin 8) (rx : FlitRx) (q : BitVec 12) (r : Bool) (vl : BitVec 2) (b : LinkBody) (s : State),
    sealedFlit l rx s = true → (0 < rx.uncorr ∨ rx.tagOk = false) →
    ∃ t, exec (.linkFlit l (.data rx q r vl)) s = .next t ∧
      ((s.links[l].state ≠ .hello ∨ 0 < rx.uncorr) → exec (.linkFlit l (.link rx b)) s = .next t) ∧
      exec (.quiesceFlit l rx b) s = .next t ∧ t.links[l].nak = true ∧ t.links[l].discard = true ∧
      t.links[l].rxSeq = s.links[l].rxSeq ∧ (rx.uncorr = 0 → t.links[l].tagRun = s.links[l].tagRun + 1) ∧
      t = { s with links := t.links, evt := t.evt }) ∧
  (∀ (l : Fin 8) (rx : FlitRx) (b : LinkBody) (s : State), sealedFlit l rx s = true → s.links[l].state = .hello →
    rx.uncorr = 0 → rx.tagOk = false → s.links[l].disable = false → s.links[l].stopped = false →
    ∃ t, exec (.linkFlit l (.link rx b)) s = .next t ∧ t.links[l].state = .signalDetect ∧ t.links[l].keyed = false ∧
      bitAt t.links[l].fault 2 = true ∧ t = { s with links := t.links, evt := t.evt }) ∧
  (∀ (l : Fin 8) (rx : FlitRx) (r : Bool) (vl : BitVec 2) (s : State), sealedFlit l rx s = true → rx.uncorr = 0 →
    rx.tagOk = true → rx.hdrReservedZero = true → s.links[l].state ≠ .hello → (s.links[l].discard = true → r = true) →
    ∃ t, exec (.linkFlit l (.data rx s.links[l].rxSeq r vl)) s = .next t ∧ t.links[l].rxSeq = s.links[l].rxSeq + 1 ∧
      t.links[l].creditsBack[vl.toNat] = s.links[l].creditsBack[vl.toNat] + 1 ∧ t.links[l].discard = false ∧
      t.links[l].state = .up ∧ t = { flitsBack l t.links s with links := t.links, evt := t.evt }) ∧
  (∀ (l : Fin 8) (rx : FlitRx) (b : LinkBody) (s : State), sealedFlit l rx s = true → rx.uncorr = 0 → rx.corr = 0 →
    rx.tagOk = true → rx.hdrReservedZero = true → b.reservedZero = true → s.links[l].state = .up → b.nak = false →
    b.rekey = .none → b.switchAck = false →
    ∃ t, exec (.linkFlit l (.link rx b)) s = .next t ∧ t.links[l].unacked = s.links[l].unacked.filter (fun f => ahead b.ack f.seq) ∧
      t.links[l].credits[0] = s.links[l].credits[0] + (b.cred.getD 0 0 - s.links[l].credSeen[0]) ∧
      t.links[l].credSeen[0] = b.cred.getD 0 0 ∧ t.links[l].state = .up ∧ t = { s with links := t.links, evt := t.evt }) ∧
  (∀ (l : Fin 8) (rx : FlitRx) (b : LinkBody) (s : State), sealedFlit l rx s = true → rx.uncorr = 0 → rx.tagOk = true →
    rx.hdrReservedZero = true → b.reservedZero = true → s.links[l].state = .up → b.nak = false →
    ∃ t, exec (.quiesceFlit l rx b) s = .next t ∧ t.links[l].state = .peerQuiesce ∧ t.ws.quiet = quietRanks t) ∧
  (∀ (l : Fin 8) (s : State), inState l .up s = true → 512 ≤ s.links[l].dataRun →
    exec (.linkFlitDue l) s = .next (flitSlot l s) ∧
    (s.links[l].keyed = true → s.links[l].rekey = none → slotUse s.pwr.coreDown s.links[l] = .link →
      ∃ t, flitSlot l s = t ∧ t.links[l].dataRun = 0 ∧ t.links[l].nak = false ∧ t.links[l].txF = s.links[l].txF + 1 ∧
        t.links[l].rxF = s.links[l].rxF + 1 ∧ t.links[l].unacked = s.links[l].unacked ∧ t = { s with links := t.links })) ∧
  (∀ (l : Fin 8) (f : TxFlit) (fs : List TxFlit) (s : State), inState l .up s = true → s.links[l].unacked = f :: fs →
    (retryMax s ≤ f.resends → exec (.retxTimeout l) s = .next (retryExceeded l s)) ∧
    (f.resends < retryMax s → exec (.retxTimeout l) s = .next { s with
      links := s.links.set l { s.links[l] with resend := (f :: fs).map (·.seq) } })) ∧
  (∀ (f : TxFlit) (x : Link),
    (resendOut f x).resend = x.resend.drop 1 ∧ (resendOut f x).txSeq = x.txSeq ∧
      (resendOut f x).unacked = x.unacked.map (fun g => if g.seq = f.seq then { g with resends := g.resends + 1 } else g)) ∧
  (∀ (l : Fin 8) (s : State), linkLive l s = true → slotting s.links[l] = true → 16 ≤ s.links[l].tagRun →
    exec (.tagFailLimit l) s = .next (if carries s.links[l] then linkDownNow l s else helloFail l s)) ∧
  (∀ (l : Fin 8) (s : State), linkLive l s = true → carries s.links[l] = true →
    exec (.los l) s = .next (linkDownNow l (linkFault 0 l s)) ∧
    ((s.links[l].txF.toNat < 2 ^ 34 → s.links[l].rxF.toNat < 2 ^ 34 → exec (.linkExhausted l) s = .next s) ∧
    ((2 ^ 34 ≤ s.links[l].txF.toNat ∨ 2 ^ 34 ≤ s.links[l].rxF.toNat) → exec (.linkExhausted l) s = .next
      (linkLost .stopped l (linkEvent 0x0408 l (linkFault 6 l
        { s with links := s.links.set l { s.links[l] with stopped := true } })))))) ∧
  (∀ (l : Fin 8) (s : State), linkLive l s = true → carries s.links[l] = true → s.links[l].disable = false →
    s.links[l].stopped = false → isMember s = false →
    ∃ t, exec (.los l) s = .next t ∧ t.links[l].state = .signalDetect ∧ bitAt t.links[l].fault 0 = true ∧
      t.links[l].keyed = false ∧ (∀ k : Fin 8, k ≠ l → t.links[k] = s.links[k]) ∧
      t = { s with links := t.links, evt := t.evt }) ∧
  (∀ (l : Fin 8) (s : State), linkLive l s = true → carries s.links[l] = true → s.links[l].rekey = none →
    2 ^ 32 ≤ s.links[l].txF.toNat → (s.links[l].rxF.toNat < 2 ^ 32 ∨ s.serial.toNat < s.links[l].peerSerial.toNat) →
    s.rng.state ≠ .failed →
    ∃ t r, exec (.rekeyStart l) s = .next t ∧ t.links[l].rekey = some r ∧ r.gen = s.links[l].gen + 1 ∧ r.first = true ∧
      t.rng.waiting = s.rng.waiting ++ [⟨.rekey l.val, 1⟩] ∧
      t = { s with links := t.links, rng := { s.rng with waiting := t.rng.waiting } }) ∧
  (∀ (l : Fin 8) (r : RekeyRun) (n : DWord) (k k2 : LinkKeys) (s : State), s.links[l].rekey = some r →
    linkLive l s = true → r.txAt = some n → n.toNat ≤ s.links[l].txF.toNat → r.txAck = true → r.txDone = false →
    r.rxDone = false → s.links[l].keys = some k → r.keys = some k2 →
    exec (.keySwitch l true) s = .next { s with
      links := s.links.set l { s.links[l] with
        txF := 0, rekey := some { r with txDone := true },
        keys := some { k with tx := k2.tx, txSalt := k2.txSalt } } }) ∧
  (∀ (l : Fin 8) (r : RekeyRun) (n : DWord) (s : State), s.links[l].rekey = some r → linkLive l s = true →
    r.txAt = some n → s.links[l].txF.toNat < n.toNat → exec (.keySwitch l true) s = .next s) ∧
  (∀ (l : Fin 8) (r : RekeyRun) (n : DWord) (s : State), s.links[l].rekey = some r → linkLive l s = true →
    r.rxAt = some n → n.toNat ≤ s.links[l].rxF.toNat → r.rxDone = false → r.txDone = true →
    ∃ t, exec (.keySwitch l false) s = .next t ∧ t.links[l].rxF = 0 ∧ t.links[l].gen = r.gen ∧ t.links[l].rekey = none ∧
      t = { s with links := t.links, evt := t.evt }) ∧
  (∀ (l : Fin 8) (r : RekeyRun) (s : State), s.links[l].rekey = some r → r.drawn = false → rekeyAsked l s = false →
    s.rng.state ≠ .failed →
    exec (.rekeyRetryDue l) s = .next { s with rng := { s.rng with waiting := s.rng.waiting ++ [⟨.rekey l.val, 1⟩] } }) ∧
  (∀ (l : Fin 8) (s : State), linkLive l s = true → carries s.links[l] = true →
    (2 ^ 33 ≤ s.links[l].txF.toNat ∨ 2 ^ 33 ≤ s.links[l].rxF.toNat) →
    ∃ t, exec (.rekeyLate l) s = .next t ∧ bitAt t.links[l].fault 5 = true ∧ t.links[l].state = s.links[l].state ∧
      t = { s with links := t.links, evt := t.evt }) ∧
  (∀ (l : Fin 8) (u c : Nat) (s : State), linkLive l s = true → carries s.links[l] = true →
    (u < 4 → c < 16384 → ∃ t, exec (.fecErrorBurst l u c) s = .next t ∧ t.links[l].state = s.links[l].state ∧
      t = { s with links := t.links, evt := t.evt }) ∧
    ((4 ≤ u ∨ 16384 ≤ c) → ∃ t, exec (.fecErrorBurst l u c) s = .next t ∧ t.links[l].state = .retrain)) ∧
  (∀ (l : Fin 8) (v h : Byte) (n : BitVec 2) (s : State), linkLive l s = true → carries s.links[l] = true → 25 ≤ v.toNat → 64 ≤ h.toNat →
    exec (.linkMarginLow l v h n) s = .next { s with
      links := s.links.set l { s.links[l] with vMin := v, hMin := h, worst := n } }) ∧
  (∀ (l : Fin 8) (v h : Byte) (n : BitVec 2) (s : State), linkLive l s = true → carries s.links[l] = true → (v.toNat < 25 ∨ h.toNat < 64) →
    noJobRuns s = false →
    ∃ t, exec (.linkMarginLow l v h n) s = .next t ∧ t.links[l].marked = true ∧ bitAt t.links[l].fault 7 = true ∧
      t.links[l].state = s.links[l].state ∧ t = { s with links := t.links }) ∧
  (∀ (l : Fin 8) (s : State), linkLive l s = true → carries s.links[l] = true → noJobRuns s = false →
    exec (.retrainReq l) s = .next { s with links := s.links.set l { s.links[l] with marked := true } }) ∧
  (∀ (l : Fin 8) (s : State), inState l .retrain s = true → s.links[l].unacked = [] → s.pwr.retrain = none →
    s.pwr.armed = 0 →
    ∃ t, exec (.linkRetrainDone l) s = .next t ∧ t.links[l].state = .up ∧ t.links[l].tempTrain = s.pwr.temp ∧
      (∀ k : Fin 8, k ≠ l → t.links[k] = s.links[k]) ∧ t = { s with links := t.links }) ∧
  (∀ (l : Fin 8) (s : State), inState l .retrain s = true → exec (.linkRetrainTimeout l) s =
    .next (nextUnit 12 (retrainUnitDone l.val true (linkDownNow l s)))) ∧
  (∀ (v : Word) (s : State), running s = true → (anyJob s = false → exec (.fabWsCfgWrite v) s =
      .next { s with ws := { s.ws with cfg := v &&& 0x0FFFFFFF } }) ∧
    (anyJob s = true → ∃ t, exec (.fabWsCfgWrite v) s = .next t ∧ t.ws.cfg = s.ws.cfg ∧ bitAt t.ws.fault 4 = true ∧
      t = { s with ws := { s.ws with fault := t.ws.fault }, evt := t.evt }))

/-- R255, R261, R263 to R265, R271, R272: flits and the limits of a link, beyond the cases above. A good flit out of sequence, or one
with a reserved field set, changes no sequence and no credit; a NAK has the flits from the acknowledged one on resent; a slot sends a
VL0 flit under a credit where it may; sixteen tag failures in a row end the HELLO exchange; the loss of the signal and exhausted keys
end a session, whatever the module's part in the workshop; an event that the link's state or counters do not show changes nothing. -/
def Obligations.FlitAndLimitEventsComplete : Prop :=
  (∀ (l : Fin 8) (rx : FlitRx) (q : BitVec 12) (r : Bool) (vl : BitVec 2) (s : State), sealedFlit l rx s = true →
    rx.uncorr = 0 → rx.tagOk = true → (rx.hdrReservedZero = false ∨ q ≠ s.links[l].rxSeq) →
    ∃ t, exec (.linkFlit l (.data rx q r vl)) s = .next t ∧ t.links[l].rxSeq = s.links[l].rxSeq ∧
      t.links[l].creditsBack = s.links[l].creditsBack ∧ t.links[l].tagRun = 0 ∧ t.links[l].nak = s.links[l].nak ∧
      t = { s with links := t.links, evt := t.evt }) ∧
  (∀ (l : Fin 8) (rx : FlitRx) (b : LinkBody) (s : State), sealedFlit l rx s = true → rx.uncorr = 0 → rx.tagOk = true →
    (rx.hdrReservedZero = false ∨ b.reservedZero = false) →
    ∃ t, exec (.linkFlit l (.link rx b)) s = .next t ∧ exec (.quiesceFlit l rx b) s = .next t ∧
      t.links[l].unacked = s.links[l].unacked ∧ t.links[l].credits = s.links[l].credits ∧
      t.links[l].state = s.links[l].state ∧ t = { s with links := t.links, evt := t.evt }) ∧
  (∀ (l : Fin 8) (rx : FlitRx) (b : LinkBody) (f : TxFlit) (fs : List TxFlit) (s : State), sealedFlit l rx s = true →
    rx.uncorr = 0 → rx.tagOk = true → rx.hdrReservedZero = true → b.reservedZero = true → s.links[l].state = .up →
    b.nak = true → b.rekey = .none → b.switchAck = false →
    fromSeq b.ack (s.links[l].unacked.filter fun g => ahead b.ack g.seq) = f :: fs → f.resends < retryMax s →
    ∃ t, exec (.linkFlit l (.link rx b)) s = .next t ∧ t.links[l].resend = (f :: fs).map (·.seq) ∧
      t.links[l].unacked = s.links[l].unacked.filter (fun g => ahead b.ack g.seq) ∧
      t = { s with links := t.links, evt := t.evt }) ∧
  (∀ (l : Fin 8) (rx : FlitRx) (b : LinkBody) (s : State), sealedFlit l rx s = true → rx.uncorr = 0 → rx.tagOk = true →
    rx.hdrReservedZero = true → b.reservedZero = true → s.links[l].state = .peerQuiesce → b.nak = false →
    b.rekey = .none → b.switchAck = false →
    ∃ t, exec (.quiesceFlit l rx b) s = .next t ∧ t.links[l].state = .peerQuiesce ∧
      t.links[l].credSeen[0] = b.cred.getD 0 0 ∧ t = { s with links := t.links, ws := t.ws, evt := t.evt }) ∧
  (∀ (l : Fin 8) (s : State), inState l .up s = true → 512 ≤ s.links[l].dataRun → s.links[l].keyed = true →
    s.links[l].rekey = none → s.pwr.coreDown = false → s.links[l].nak = false → resendNext s.links[l] = none →
    canSend s.links[l] 0 = true →
    ∃ t, exec (.linkFlitDue l) s = .next t ∧ t.links[l].credits[0] = s.links[l].credits[0] - 1 ∧
      t.links[l].txSeq = s.links[l].txSeq + 1 ∧ t.links[l].txF = s.links[l].txF + 1 ∧
      t.links[l].dataRun = s.links[l].dataRun + 1 ∧ (∀ k : Fin 8, k ≠ l → t.links[k] = s.links[k]) ∧
      t = { s with links := t.links, evt := t.evt }) ∧
  (∀ (l : Fin 8) (s : State), (inState l .up s = false ∨ s.links[l].dataRun < 512) →
    exec (.linkFlitDue l) s = .next s) ∧
  (∀ (l : Fin 8) (s : State), (inState l .up s = false ∨ s.links[l].unacked = []) → exec (.retxTimeout l) s = .next s) ∧
  (∀ (l : Fin 8) (f : TxFlit) (fs : List TxFlit) (s : State), inState l .up s = true → s.links[l].unacked = f :: fs →
    f.resends < retryMax s →
    ∃ t, exec (.retxTimeout l) s = .next t ∧ t.links[l].resend = f.seq :: fs.map (·.seq) ∧
      t.links[l].unacked = s.links[l].unacked ∧ (∀ k : Fin 8, k ≠ l → t.links[k] = s.links[k]) ∧
      t = { s with links := t.links }) ∧
  (∀ (l : Fin 8) (s : State), inState l .hello s = true → s.links[l].keyed = true → 16 ≤ s.links[l].tagRun →
    s.links[l].disable = false → s.links[l].stopped = false →
    ∃ t, exec (.tagFailLimit l) s = .next t ∧ t.links[l].state = .signalDetect ∧ t.links[l].keyed = false ∧
      bitAt t.links[l].fault 2 = true ∧ t = { s with links := t.links, evt := t.evt }) ∧
  (∀ (l : Fin 8) (s : State), s.links[l].tagRun < 16 → exec (.tagFailLimit l) s = .next s) ∧
  (∀ (l : Fin 8) (s : State), linkLive l s = true → carries s.links[l] = true → s.links[l].disable = false →
    s.links[l].peerMember = false →
    (s.links[l].stopped = false → ∃ t, exec (.los l) s = .next t ∧ t.links[l].state = .signalDetect ∧
      bitAt t.links[l].fault 0 = true ∧ t.links[l].keys = none ∧ t = { s with links := t.links, evt := t.evt }) ∧
    (2 ^ 34 ≤ s.links[l].txF.toNat → ∃ t, exec (.linkExhausted l) s = .next t ∧ t.links[l].state = .stopped ∧
      t.links[l].stopped = true ∧ bitAt t.links[l].fault 6 = true ∧ t.links[l].keys = none ∧
      t = { s with links := t.links, evt := t.evt }) ∧
    (2 ^ 33 ≤ s.links[l].txF.toNat → ∃ t, exec (.rekeyLate l) s = .next t ∧ bitAt t.links[l].fault 5 = true ∧
      t.links[l].keys = s.links[l].keys ∧ t = { s with links := t.links, evt := t.evt }) ∧
    (s.links[l].txF.toNat < 2 ^ 33 → s.links[l].rxF.toNat < 2 ^ 33 → exec (.rekeyLate l) s = .next s ∧
      exec (.linkExhausted l) s = .next s)) ∧
  (∀ (l : Fin 8) (s : State), (linkLive l s = false ∨ carries s.links[l] = false) →
    exec (.los l) s = .next s ∧ exec (.linkExhausted l) s = .next s ∧ exec (.rekeyLate l) s = .next s)

/-- R270, R271, R273, R274: rekeys, margins and retrains, beyond the cases above. The side with the higher serial number leaves
the start to the other where both transmitters have crossed; the second direction to switch ends the rekey with the new generation;
a burst of FEC errors is counted, whether the link retrains for it or not; a link that ends its retrain resends what was
unacknowledged where the retrain was at once; one that does not come back is down; where no job runs a mark is acted on at once. -/
def Obligations.RekeyAndRetrainEventsComplete : Prop :=
  (∀ (l : Fin 8) (s : State), linkLive l s = true → carries s.links[l] = true → s.links[l].rekey = none →
    2 ^ 32 ≤ s.links[l].txF.toNat → s.links[l].rxF.toNat < 2 ^ 32 → s.rng.state ≠ .failed →
    ∃ t, exec (.rekeyStart l) s = .next t ∧ t.links[l].rekey.isSome = true ∧ t.links[l].gen = s.links[l].gen ∧
      t.rng.waiting = s.rng.waiting ++ [⟨.rekey l.val, 1⟩]) ∧
  (∀ (l : Fin 8) (s : State), (s.links[l].txF.toNat < 2 ^ 32 ∨
    (2 ^ 32 ≤ s.links[l].rxF.toNat ∧ s.links[l].peerSerial.toNat ≤ s.serial.toNat) ∨ s.links[l].rekey.isSome = true) →
    exec (.rekeyStart l) s = .next s) ∧
  (∀ (l : Fin 8) (r : RekeyRun) (n : DWord) (s : State), s.links[l].rekey = some r → linkLive l s = true →
    r.txAt = some n → n.toNat ≤ s.links[l].txF.toNat → r.txAck = true → r.txDone = false → r.rxDone = true →
    ∃ t, exec (.keySwitch l true) s = .next t ∧ t.links[l].txF = 0 ∧ t.links[l].gen = r.gen ∧ t.links[l].rekey = none ∧
      t = { s with links := t.links, evt := t.evt }) ∧
  (∀ (l : Fin 8) (r : RekeyRun) (n : DWord) (s : State), s.links[l].rekey = some r → linkLive l s = true →
    r.rxAt = some n → n.toNat ≤ s.links[l].rxF.toNat → r.rxDone = false → r.txDone = false →
    ∃ t r2, exec (.keySwitch l false) s = .next t ∧ t.links[l].rxF = 0 ∧ t.links[l].rekey = some r2 ∧ r2.rxDone = true ∧
      t.links[l].gen = s.links[l].gen ∧ t = { s with links := t.links }) ∧
  (∀ (l : Fin 8) (d : Bool) (s : State), s.links[l].rekey = none → exec (.keySwitch l d) s = .next s ∧
    exec (.rekeyRetryDue l) s = .next s) ∧
  (∀ (l : Fin 8) (r : RekeyRun) (s : State), s.links[l].rekey = some r → r.drawn = false → rekeyAsked l s = false →
    s.rng.state ≠ .failed →
    ∃ t, exec (.rekeyRetryDue l) s = .next t ∧ t.rng.waiting = s.rng.waiting ++ [⟨.rekey l.val, 1⟩] ∧
      t = { s with rng := t.rng }) ∧
  (∀ (l : Fin 8) (u c : Nat) (s : State), linkLive l s = true → carries s.links[l] = true → u < 4 → c < 16384 →
    ∃ t, exec (.fecErrorBurst l u c) s = .next t ∧ t.links[l].ctrs[2] = ctrAdd s.links[l].ctrs[2] c ∧
      t.links[l].ctrs[3] = ctrAdd s.links[l].ctrs[3] u ∧ t = { s with links := t.links, evt := t.evt }) ∧
  (∀ (l : Fin 8) (u c : Nat) (v h : Byte) (n : BitVec 2) (s : State), (linkLive l s = false ∨ carries s.links[l] = false) →
    exec (.fecErrorBurst l u c) s = .next s ∧ exec (.linkMarginLow l v h n) s = .next s ∧
    exec (.retrainReq l) s = .next s) ∧
  (∀ (l : Fin 8) (v h : Byte) (n : BitVec 2) (s : State), linkLive l s = true → carries s.links[l] = true →
    noJobRuns s = false →
    ∃ t, exec (.linkMarginLow l v h n) s = .next t ∧ t.links[l].vMin = v ∧ t.links[l].hMin = h ∧ t.links[l].worst = n ∧
      (t.links[l].marked = true ↔ (s.links[l].marked = true ∨ v.toNat < 25 ∨ h.toNat < 64)) ∧
      t = { s with links := t.links }) ∧
  (∀ (l : Fin 8) (s : State), linkLive l s = true → carries s.links[l] = true → noJobRuns s = true →
    exec (.retrainReq l) s =
      .next (unitWork { s with links := s.links.set l { s.links[l] with marked := true } })) ∧
  (∀ (l : Fin 8) (f : TxFlit) (fs : List TxFlit) (s : State), inState l .retrain s = true → s.links[l].unacked = f :: fs →
    s.links[l].urgent = true → f.resends < retryMax s → s.pwr.retrain = none → s.pwr.armed = 0 →
    ∃ t, exec (.linkRetrainDone l) s = .next t ∧ t.links[l].state = .up ∧
      t.links[l].resend = f.seq :: fs.map (·.seq) ∧ t.links[l].urgent = false ∧ t = { s with links := t.links }) ∧
  (∀ (l : Fin 8) (s : State), inState l .retrain s = true → isMember s = false → s.links[l].disable = false →
    s.links[l].stopped = false → s.pwr.retrain = none → s.pwr.armed = 0 →
    ∃ t, exec (.linkRetrainTimeout l) s = .next t ∧ t.links[l].state = .signalDetect ∧ t.links[l].keyed = false ∧
      t = { s with links := t.links, evt := t.evt }) ∧
  (∀ (l : Fin 8) (s : State), inState l .retrain s = false →
    exec (.linkRetrainDone l) s = .next s ∧ exec (.linkRetrainTimeout l) s = .next s)

/-! ### Collectives -/

/-- A collective message that link l takes for a job that runs here, with no reserved field set (R297). -/
def Sys2Proof.Claims.ForJob (l : Fin 8) (h : MsgHdr) (ch : ColHdr) (x : Job) (s : State) : Prop :=
  Arrives l h s ∧ s.jobs[slotFin ch.job.toNat] = some x ∧ hdrOk ch = true ∧ x.parked = false

/-- R297, R299, R302, R305 to R307, R313, R316: a glue-up chunk, a gathered shard, a tally or a norm record for the step under way has its
effect on the job; one of another step, or for no job, is dropped with FAULT bit 2; a chunk whose words do not fit its tensor is
dropped; a chunk waits until its tensor is in the glue-up; a collective that outlasts its limit is a covered fault with FAULT bit 0. -/
def Obligations.CollectiveMessagesActOnTheStep : Prop :=
  (∀ (l : Fin 8) (h : MsgHdr) (ch : ColHdr) (xs : List Word) (e : DrawerEcc) (x : Job) (s : State), ForJob l h ch x s →
    ch.step = BitVec.ofNat 32 x.step → glueAway s ch = false →
    let j := slotFin ch.job.toNat;
    let d := colMark j ch.tensor (delivered l h (.words ch xs) s);
    exec (.glue l h ch xs e) s =
      .next (glueMsg h ch xs (fun w j x => afterEcc e (takeGlue w ch.offset.toNat xs j x)) j x d) ∧
    exec (.glueOut l h ch xs) s = .next (glueMsg h ch xs (fun w j _ => takeGlueOut w ch.offset.toNat xs j) j x d) ∧
    exec (.glueDirect l h ch xs) s = .next (glueMsg h ch xs (fun w j x => takeDirect w ch.offset.toNat xs j x) j x d)) ∧
  (∀ (l : Fin 8) (h : MsgHdr) (ch : ColHdr) (xs : List Byte) (x : Job) (s : State), ForJob l h ch x s →
    ch.step = BitVec.ofNat 32 x.step →
    exec (.gather l h ch xs) s = .next (takeGather h ch xs (slotFin ch.job.toNat) x
      (colMark (slotFin ch.job.toNat) ch.tensor (delivered l h (.bytes ch xs) s)))) ∧
  (∀ (l : Fin 8) (h : MsgHdr) (ch : ColHdr) (g : Tally) (x : Job) (s : State), ForJob l h ch x s →
    ch.step = BitVec.ofNat 32 x.step →
    exec (.tally l h ch g) s = .next (takeTally h ch g (slotFin ch.job.toNat) x
      (colMark (slotFin ch.job.toNat) ch.tensor (delivered l h (.tally ch g) s)))) ∧
  (∀ (l : Fin 8) (h : MsgHdr) (ch : ColHdr) (xs : List NormWire) (x : Job) (s : State), ForJob l h ch x s →
    ch.step = BitVec.ofNat 32 x.step →
    let j := slotFin ch.job.toNat;
    let d := colMark j ch.tensor (delivered l h (.norm ch xs) s);
    (∀ ts, xs.mapM normRead = some ts → exec (.norm l h ch xs) s =
      .next (normTry j ch.tensor (normHold j ch.tensor h.src.toNat h.arg.toNat ts d))) ∧
    (xs.mapM normRead = none → exec (.norm l h ch xs) s = .next (colDrop h ch d))) ∧
  (∀ (w : NormWire), (2 ^ 80 ≤ w.mean.toNat ∨ 2 ^ 80 ≤ w.m2.toNat) → normRead w = none) ∧
  (∀ (l : Fin 8) (h : MsgHdr) (ch : ColHdr) (xs : List Word) (bs : List Byte) (g : Tally) (e : DrawerEcc) (s : State),
    Arrives l h s → glueAway s ch = false →
    (∀ x, s.jobs[slotFin ch.job.toNat] = some x → hdrOk ch = false ∨ x.parked = true ∨ ch.step ≠ BitVec.ofNat 32 x.step) →
    exec (.glue l h ch xs e) s = .next (colDrop h ch (delivered l h (.words ch xs) s)) ∧
    exec (.gather l h ch bs) s = .next (colDrop h ch (delivered l h (.bytes ch bs) s)) ∧
    exec (.tally l h ch g) s = .next (colDrop h ch (delivered l h (.tally ch g) s))) ∧
  (∀ (h : MsgHdr) (ch : ColHdr) (s : State), bitAt (colDrop h ch s).col.fault 2 = true ∧
    (colDrop h ch s).col.ctrs[6] = ctrAdd s.col.ctrs[6] 1 ∧
    (colDrop h ch s).col.info = colInfo ch.tensor 2 (slotFin ch.job.toNat).val h.src.toNat ∧
    (colDrop h ch s).stk = s.stk) ∧
  (∀ (h : MsgHdr) (ch : ColHdr) (xs : List Word) (w : Tensor) (j : Fin 4) (x : Job) (s : State)
    (k : Tensor → Fin 4 → Job → State → State), colWeight s x ch.tensor = some w →
    glueMsg h ch xs k j x s = if chunkOk w ch xs then k w j x s else colDrop h ch s) ∧
  (∀ (w : Tensor) (n : Nat) (xs : List Word) (j : Fin 4) (x : Job) (s : State), x.glueIn.contains w.id = false →
    takeGlue w n xs j x s = holdChunk j w n xs s) ∧
  (∀ (w : Tensor) (n k : Nat) (xs : List Word) (j : Fin 4) (r : TRun) (s t : State),
    holdBytes j (ofWords xs) s = some (k, t) → tensAt t j w.id = some r →
    ∃ r', tensAt (holdChunk j w n xs s) j w.id = some r' ∧ r'.waiting = r.waiting ++ [(n, k, xs.length)]) ∧
  (∀ (h : MsgHdr) (ch : ColHdr) (v : BitVec 128) (a : Val) (j : Fin 4) (x y : Job) (r : TRun) (s : State),
    s.jobs[j] = some y → tensIn y ch.tensor = some r → w80Read v = some a →
    ∃ r', tensAt (takeTally h ch (.g v) j x s) j ch.tensor = some r' ∧
      r'.tallyG = (h.src.toNat, a) :: r.tallyG.filter (·.1 != h.src.toNat) ∧ r'.tallyEnd = r.tallyEnd) ∧
  (∀ (h : MsgHdr) (ch : ColHdr) (v : BitVec 128) (j : Fin 4) (x : Job) (s : State), 2 ^ 80 ≤ v.toNat →
    takeTally h ch (.g v) j x s = colDrop h ch s) ∧
  (∀ (j : Fin 4) (id : BitVec 16) (n : Nat) (x : Job) (s : State), s.jobs[j] = some x → running s = true →
    onFabric s x = true → colOpen s j x id = true → groupCarries s x id = true → colSilent s j id = true →
    exec (.colTimeout j id n) s =
      .next (coveredFault j (colEvent 0x0501 j (bumpCol 7 1 (colFault 0 id j.val n s))))) ∧
  (∀ (j : Fin 4) (id : BitVec 16) (n : Nat) (x : Job) (s : State), s.jobs[j] = some x →
    (groupCarries s x id = false ∨ colSilent s j id = false) → exec (.colTimeout j id n) s = .next s) ∧
  (∀ (v : Word) (s : State), running s = true → (anyJob s = false → exec (.colCfgWrite v) s =
      .next { s with col := { s.col with cfg := v &&& 0xFFF } }) ∧
    (anyJob s = true → ∃ t, exec (.colCfgWrite v) s = .next t ∧ t.col.cfg = s.col.cfg ∧ bitAt t.col.fault 1 = true ∧
      t = { s with col := t.col, evt := t.evt })) ∧
  (∀ (n d : Nat), 0 < d → shardLo n d 0 = 0 ∧ shardLo n d d = n ∧ ∀ k, shardLo n d k ≤ shardLo n d (k + 1))

/-- R181, R308 to R311: a peer copy is requested, granted, sent, and ended; entries for an expert go to its primary, whose merged
entries beyond the cap are dropped, and its results go back; a state request is answered with the elements asked for, and fetched
state is written to the current buffer, once it has been asked for. -/
def Obligations.PeerExpertAndStateMessages : Prop :=
  (∀ (l : Fin 8) (h : MsgHdr) (ch : ColHdr) (x : Job) (s : State), ForJob l h ch x s → ch.step = BitVec.ofNat 32 x.step →
    let j := slotFin ch.job.toNat;
    let m := colMark j ch.tensor;
    (∀ e, exec (.peerReq l h ch e) s = .next (takePeerReq h.src ch.tensor e j x (m (delivered l h (.peerReq ch e) s)))) ∧
    exec (.peerGrant l h ch) s = .next (takePeerGrant h.src ch.tensor j x (m (delivered l h (.col ch) s))) ∧
    (∀ n last xs, exec (.peerData l h ch n last xs) s =
      .next (takePeerData h ch n last xs j x (m (delivered l h (.peerData ch n last xs) s)))) ∧
    exec (.peerDone l h ch) s = .next (takePeerDone h.src ch.tensor j x (m (delivered l h (.col ch) s))) ∧
    (∀ xs, ownHand s h = false → exec (.expDispatch l h ch xs) s =
      .next (takeDispatch h ch xs j x (m (delivered l h (.experts ch xs) s)))) ∧
    (∀ xs, ownHand s h = false → exec (.expReturn l h ch xs) s =
      .next (takeReturn h.src.toNat ch xs j (m (delivered l h (.experts ch xs) s))))) ∧
  (∀ (l : Fin 8) (h : MsgHdr) (ch : ColHdr) (xs : List ExpEntry) (x : Job) (s : State), ownHand s h = true →
    s.jobs[slotFin ch.job.toNat] = some x →
    exec (.expDispatch l h ch xs) s = .next (ownDispatch ch xs (slotFin ch.job.toNat) x s) ∧
    exec (.expReturn l h ch xs) s = .next (ownReturn h.dst.toNat ch xs (slotFin ch.job.toNat) x s)) ∧
  (∀ (l : Fin 8) (h : MsgHdr) (ch : ColHdr) (e : DrawerEcc) (x : Job) (s : State), ForJob l h ch x s →
    (ch.step = 0 ∨ ch.step = BitVec.ofNat 32 x.step) →
    exec (.stateReq l h ch e) s = .next (afterEcc e (answerState h.src h ch (slotFin ch.job.toNat) x)
      (colMark (slotFin ch.job.toNat) ch.tensor (delivered l h (.col ch) s)))) ∧
  (∀ (l : Fin 8) (h : MsgHdr) (ch : ColHdr) (xs : List Byte) (r : StateRec) (x : Job) (s : State), ForJob l h ch x s →
    (x.phase = .holding ∨ ch.step = BitVec.ofNat 32 x.step) →
    exec (.stateData l h ch xs r) s = .next (takeState h ch xs r (slotFin ch.job.toNat) x
      (colMark (slotFin ch.job.toNat) ch.tensor (delivered l h (.state ch xs r) s)))) ∧
  (∀ (l : Fin 8) (h : MsgHdr) (ch : ColHdr) (xs : List Byte) (r : StateRec) (e : DrawerEcc) (s : State), Arrives l h s →
    (∀ x, s.jobs[slotFin ch.job.toNat] = some x → ch.step ≠ BitVec.ofNat 32 x.step) →
    (ch.step ≠ 0 → exec (.stateReq l h ch e) s = .next (colDrop h ch (delivered l h (.col ch) s))) ∧
    ((∀ x, s.jobs[slotFin ch.job.toNat] = some x → x.phase ≠ .holding) →
      exec (.stateData l h ch xs r) s = .next (colDrop h ch (delivered l h (.state ch xs r) s)))) ∧
  (∀ (n : Nat) (xs : List (Nat × ExpEntry)), (capEntries n xs).length = xs.length ∧
    (∀ k e, k < n → (capEntries n xs)[k]? = some e → xs[k]? = some e) ∧
    (∀ k e, n ≤ k → (capEntries n xs)[k]? = some e → e.2.dropped = true ∧ e.2.vec = [])) ∧
  (∀ (xs : List (Nat × ExpEntry)), (mergeEntries xs).Perm xs) ∧
  (∀ (d : BitVec 16) (h : MsgHdr) (ch : ColHdr) (j : Fin 4) (x : Job) (t : Tensor) (r : TRun) (s : State),
    tensorOf s ch.tensor = some t → tensIn x ch.tensor = some r → ch.offset.toNat + ch.count.toNat ≤ t.elements →
    answerState d h ch j x s = send d 0x81 0 (.state (colHdr j x t.id 0 ch.offset.toNat ch.count.toNat)
      (shardBytes s t r false ch.offset.toNat (ch.offset.toNat + ch.count.toNat))
      ⟨x.step, x.seed.getD 0, r.bc1, r.bc2, r.k, r.kPrev, r.hist⟩)
      (useHandle r.handle.toNat ((if isVeneer t.role then bufBase t r.cur else 0) + ch.offset.toNat * fmtBytes t.fmt)
        (ch.count.toNat * fmtBytes t.fmt) s)) ∧
  (∀ (h : MsgHdr) (ch : ColHdr) (xs : List Byte) (k : StateRec) (j : Fin 4) (x : Job) (s : State),
    x.fetch.contains (ch.tensor, ch.offset.toNat, ch.count.toNat) = false →
    takeState h ch xs k j x s = colDrop h ch s) ∧
  (∀ (h : MsgHdr) (ch : ColHdr) (n : Nat) (last : Bool) (xs : List Byte) (j : Fin 4) (x : Job) (s : State),
    (∀ p ∈ s.col.peers, p.granted = false) → takePeerData h ch n last xs j x s = colDrop h ch s)

/-! ### Copy engines and the stockroom -/

/-- R228, R229, R238 to R242: a descriptor whose slot is not as it waits for waits, with its engine; a SIGNAL sets its slot and ends; a
FREE frees the handle it names; a COPY beyond a LIMIT is rejected whole, with FAULT bit 5; an engine that has waited too long ends its
job with FAULT bit 7; an engine whose list ends takes the oldest list that waits. -/
def Obligations.CopyEnginesRunDescriptors : Prop :=
  (∀ (e : Fin 8) (d : Desc8) (c : Ecc) (s : State), headDesc e s = some d → slotReady d s = false →
    s.stk.engines[e].wait ≠ .grant → s.stk.engines[e].wait ≠ .done →
    (cOp d = 0 → exec (.copy e c) s = .next (setWait e .slot s)) ∧
    (cOp d = 1 → exec (.copySignal e) s = .next (setWait e .slot s)) ∧
    (cOp d = 2 → exec (.ringWindow e c) s = .next (setWait e .slot s)) ∧
    (cOp d = 3 → exec (.copyFree e) s = .next (setWait e .slot s))) ∧
  (∀ (e : Fin 8) (d : Desc8) (c : Ecc) (s : State), headDesc e s = some d → slotReady d s = true →
    s.stk.engines[e].wait ≠ .grant → s.stk.engines[e].wait ≠ .done →
    (cOp d = 0 → exec (.copy e c) s = .next (copyRun e c d s)) ∧
    (cOp d = 1 → exec (.copySignal e) s = .next (descEnd e d s)) ∧
    (cOp d = 2 → exec (.ringWindow e c) s = .next (ringWindowRun e c d s)) ∧
    (cOp d = 3 → exec (.copyFree e) s = .next (copyFreeRun e d s))) ∧
  (∀ (e : Fin 8) (c : Ecc) (s : State), headDesc e s = none →
    exec (.copy e c) s = .next s ∧ exec (.copySignal e) s = .next s ∧ exec (.ringWindow e c) s = .next s ∧
    exec (.copyFree e) s = .next s ∧ exec (.stkWaitTimeout e) s = .next s) ∧
  (∀ (e : Fin 8) (a : Nat) (c : Ecc) (d : Desc8) (s : State),
    beyond (srcPlace s s.stk.engines[e].job d) (srcRows d) (cRowBytes d) = some a →
    copyRun e c d s = copyBounds e (if cSrcKind d = 2 then cSrcId d else 0) a s) ∧
  (∀ (e : Fin 8) (c : Ecc) (d : Desc8) (s : State), cSrcKind d = 0 → cDstKind d = 1 → c.uncorr = none →
    (∀ h ∈ s.stk.handles, h.2.freeing = false ∧ ∀ f ∈ h.2.table, f.2.dying = false) →
    (∀ r ∈ srcRows d, r + cRowBytes d ≤ 16777216) → (∀ r ∈ dstRows d, r + cRowBytes d ≤ 67108864) →
    ∃ t, copyRun e c d s = t ∧ t.stk.mem = (((srcRows d).zip (dstRows d)).foldl (fun m r =>
        writeBytes m r.2 (readBytes s.bnc[slotFin (cSrcBench d)].store r.1 (cRowBytes d))) s.stk.mem) ∧
      t.stk.bytes = s.stk.bytes ∧ ∀ b : Fin 4, t.bnc[b].store = s.bnc[b].store) ∧
  (∀ (e : Fin 8) (h : Nat) (d : Desc8) (s : State), handleNamed s s.stk.engines[e].job (cDstId d) = some h →
    copyFreeRun e d s = descEnd e d (freeHandle h s)) ∧
  (∀ (h : Nat) (x : Handle) (s : State), handleAt s h = some x → (∀ f ∈ x.table, f.2.pins = []) →
    s.stk.handles.Pairwise (fun a b => a.1 < b.1) →
    ∀ k, handleAt (freeHandle h s) k = if k = h then none else handleAt s k) ∧
  (∀ (e : Fin 8) (d : Desc8) (s : State), headDesc e s = some d → s.stk.engines[e].wait = .slot → slotReady d s = false →
    s.jobs[s.stk.engines[e].job] = none →
    ∃ t, exec (.stkWaitTimeout e) s = .next t ∧ bitAt t.stk.fault 7 = true ∧ t = { s with stk := t.stk, evt := t.evt }) ∧
  (∀ (e : Fin 8) (d d' : Desc8) (r : List Desc8) (s : State), s.stk.engines[e].list = d :: d' :: r →
    (nextDesc e s).stk.engines[e].list = d' :: r ∧ (nextDesc e s).stk.engines[e].wait = .none) ∧
  (∀ (e : Fin 8) (d : Desc8) (q : Fin 4 × List Desc8) (r : List (Fin 4 × List Desc8)) (s : State),
    s.stk.engines[e].list = [d] → s.stk.queue = q :: r →
    (nextDesc e s).stk.engines[e] = ⟨q.1, q.2, .none⟩ ∧ (nextDesc e s).stk.queue = r) ∧
  (∀ (e : Fin 8) (d : Desc8) (s : State), s.stk.engines[e].list = [d] → s.stk.queue = [] →
    (nextDesc e s).stk.engines[e].list = [] ∧ (nextDesc e s).stk.idle = s.stk.idle ++ [e])

/-- R220, R223, R224, R229, R231, R234 to R237, R246, R249: a frame is paged out to the lowest free slot, under a counter that never
repeats, and comes back to a free frame once its data authenticates; one that does not is lost, with FAULT bit 2, and one that comes
too late with FAULT bit 1; a scrub counts a corrected block; the monitor keeps the counts of a window; the configuration is
written while no slot is in use. -/
def Obligations.PagingScrubAndMonitor : Prop :=
  (∀ (h : BitVec 16) (i : Nat) (x : Handle) (f : Frame) (s : State), handleAt s h.toNat = some x →
    tabFind i x.table = some f → running s = true → outNext h.toNat i s = true →
    ∃ t, exec (.pageOut h i) s = .next t ∧ t.stk.spillCounter = s.stk.spillCounter + 1 ∧
      t.stk.spills = tabPut (freeSpill 0 s.stk.spills) ⟨s.stk.spillCounter, h.toNat, i⟩ s.stk.spills ∧
      t.stk.ctrs[1] = ctrAdd s.stk.ctrs[1] 1 ∧
      t.stk.bytes = clearRange s.stk.bytes (hKey h.toNat (i * 65536)) 65536 ∧
      (∃ data, data = gcmCrypt (spillKeyBytes s) (spillNonce (freeSpill 0 s.stk.spills) s.stk.spillCounter)
          (readBytes s.stk.bytes (hKey h.toNat (i * 65536)) 65536) ∧
        t.stk.hostOut = (slotTag s (freeSpill 0 s.stk.spills), tagEntry (gcmTag (spillKeyBytes s)
            (spillNonce (freeSpill 0 s.stk.spills) s.stk.spillCounter)
            (spillAad (freeSpill 0 s.stk.spills) h.toNat i s.stk.spillCounter) data) h.toNat i s.stk.spillCounter) ::
          (slotData s (freeSpill 0 s.stk.spills), data) :: s.stk.hostOut) ∧
      t = { s with stk := t.stk, evt := t.evt }) ∧
  (∀ (h : BitVec 16) (i : Nat) (s : State), outNext h.toNat i s = false → exec (.pageOut h i) s = .next s) ∧
  (∀ (h i : Nat) (s : State), outNext h i s = true →
    pagingDue s = true ∧ canSpill s = true ∧ ∃ u, (h, i, u) ∈ coldFrames s ∧ ∀ q ∈ coldFrames s, u ≤ q.2.2) ∧
  (∀ (h i u : Nat) (s : State), (h, i, u) ∈ coldFrames s ↔ ∃ x f, (h, x) ∈ s.stk.handles ∧ (i, f) ∈ x.table ∧
    x.spillable = true ∧ f.resident = true ∧ f.pins = [] ∧ u = f.used) ∧
  (∀ (h : BitVec 16) (i : Nat) (r : SpillRead) (bs : List Byte) (x : Handle) (f : Frame) (s : State),
    handleAt s h.toNat = some x → tabFind i x.table = some f → running s = true → f.spilled = true →
    pageWanted h.toNat i x s = true → openSpill h.toNat i f r s = some bs → 0 < freeFrames s → s.col.peers = [] →
    ∃ t y g, exec (.pageIn h i r) s = .next t ∧ handleAt t h.toNat = some y ∧ tabFind i y.table = some g ∧
      g.resident = true ∧ g.spilled = false ∧ t.stk.bytes = writeBytes s.stk.bytes (hKey h.toNat (i * 65536)) bs ∧
      (∀ q ∈ t.stk.spills, ¬ (q.2.handle = h.toNat ∧ q.2.frame = i)) ∧
      t = { s with stk := t.stk, free := s.free + 1, evt := t.evt }) ∧
  (∀ (h i : Nat) (f : Frame) (r : SpillRead) (s : State), r.data.length = 65536 →
    (openSpill h i f r s = none ↔ r.tag ≠ gcmTag (spillKeyBytes s) (spillNonce f.loc f.counter)
      (spillAad f.loc h i f.counter) r.data)) ∧
  (∀ (h : BitVec 16) (i : Nat) (r : SpillRead) (x : Handle) (f : Frame) (s : State), handleAt s h.toNat = some x →
    tabFind i x.table = some f → running s = true → f.spilled = true → pageWanted h.toNat i x s = true →
    (openSpill h.toNat i f r s = none → exec (.pageIn h i r) s = .next (spillFault 2 0x0303 h.toNat i x s)) ∧
    exec (.spillTimeout h i) s = .next (spillFault 1 0x0302 h.toNat i x s)) ∧
  (∀ (bit : Nat) (code : BitVec 16) (h i : Nat) (x : Handle) (s : State), bit < 10 → awake s = true → s.jobs[slotFin x.job] = none →
    bitAt (spillFault bit code h i x s).stk.fault bit = true ∧
    spillFault bit code h i x s =
      { s with stk := (spillFault bit code h i x s).stk, evt := (spillFault bit code h i x s).evt }) ∧
  (∀ (h : BitVec 16) (b : Nat) (x : Handle) (f : Frame) (s : State), handleAt s h.toNat = some x →
    h ≠ 0 → tabFind (b / 1024) x.table = some f → running s = true → f.resident = true →
    exec (.patrolScrub h b .clean) s = .next s ∧
    (∃ t, exec (.patrolScrub h b .corrected) s = .next t ∧ t.stk.ctrs[3] = ctrAdd s.stk.ctrs[3] 1 ∧
      t = { s with stk := { s.stk with ctrs := t.stk.ctrs }, evt := t.evt }) ∧
    exec (.patrolScrub h b .uncorrectable) s = .next (blockLost h.toNat (b * 64) s).2) ∧
  (∀ (b : Nat) (s : State), running s = true → freePfn s (b / 1024) = true →
    exec (.patrolScrub 0 b .clean) s = .next s ∧ exec (.patrolScrub 0 b .corrected) s = .next (bumpStk 3 1 s) ∧
    ∃ t, exec (.patrolScrub 0 b .uncorrectable) s = .next t ∧ bitAt t.stk.fault 0 = true ∧
      t.stk.ctrs[4] = ctrAdd s.stk.ctrs[4] 1 ∧ t = { s with stk := t.stk, evt := t.evt }) ∧
  (∀ s : State, running s = true → (imbalanced s (channelCounts s) = false ∨ s.stk.imbRun + 1 ≠ 1024) →
    ∃ t, exec .imbalanceWindow s = .next t ∧ (∀ i : Fin 32, t.stk.chanReq[i] =
        BitVec.ofNat 32 ((channelCounts s).getD i.val 0)) ∧
      t.stk.imbRun = (if imbalanced s (channelCounts s) then s.stk.imbRun + 1 else 0) ∧ t.stk.winReq = [] ∧
      (imbalanced s (channelCounts s) = false → t.stk.runReq = []) ∧
      t = { s with stk := { s.stk with
        chanReq := t.stk.chanReq, imbRun := t.stk.imbRun, winReq := [], runReq := t.stk.runReq } }) ∧
  (∀ s : State, running s = true → imbalanced s (channelCounts s) = true → s.stk.imbRun + 1 = 1024 →
    ∃ t, exec .imbalanceWindow s = .next t ∧ t.stk.replacePending = true ∧ t.stk.imbRun = 0 ∧
      bitAt t.stk.fault 3 = true ∧ t = { s with stk := t.stk, evt := t.evt }) ∧
  (∀ (v : Word) (w : DWord) (s : State), running s = true → anyJob s = false →
    exec (.stkCfgWrite v) s = .next { s with stk := { s.stk with cfg := v &&& 0xFFFFFF1F } } ∧
    exec (.stkSpillWrite true w) s = .next { s with stk := { s.stk with slots := w.setWidth 22 } } ∧
    exec (.stkSpillWrite false w) s = .next { s with stk := { s.stk with base := w &&& 0xFFFFFFFFFFFF0000 } }) ∧
  (∀ (v : Word) (b : Bool) (w : DWord) (s : State), running s = true → anyJob s = true →
    ∃ t, exec (.stkCfgWrite v) s = .next t ∧ exec (.stkSpillWrite b w) s = .next t ∧ bitAt t.stk.fault 6 = true ∧
      t = { s with stk := { s.stk with fault := t.stk.fault, faultInfo := t.stk.faultInfo, faultAddr := t.stk.faultAddr },
                   evt := t.evt })

/-! ### The whole machine -/

/-- Every step keeps the invariant of the machine: the memories in their canonical form, at most 16 commands and 32 events
queued, at most 16 outputs ready, FACT PERMANENT (R204, R354, R372, R496). -/
def Obligations.StepsKeepTheInvariant : Prop :=
  ∀ s t : State, step s = .next t → Inv s → Inv t

/-- No command touches the commands that wait, and what is one-way goes one way: the part, the serial number, the fuse level,
a PERMANENT region, the bad-block table (R351, R352, R354, R357, R397). -/
def Obligations.NoCommandUndoesWhatIsOneWay : Prop :=
  ∀ (c : Instr) (s t : State), exec c s = .next t → t.pending = s.pending ∧ OneWay s t

/-- The state after reset meets the invariant. -/
def Obligations.ResetMeetsTheInvariant : Prop := Inv State.reset

/-- What the reset columns of the register maps say of the registers after a full reset, and what is the model's choice beside
them: the part HN-7260 (log entry 13), the boot phase verify, with GLB_BOOT.STATE at BOOTING and PWR at RUN (log entry 2),
and no command waiting. -/
def Obligations.ResetHoldsTheSpecsValues : Prop :=
  -- the reset columns (R484 to R486, R500, R501, R392)
  State.reset.pwr.quiesceMax = 200 ∧ State.reset.pwr.coreDiv = 4 ∧ State.reset.pwr.level = 0 ∧ State.reset.pwr.fault = 0 ∧
  State.reset.aon.wakeEn = 1 ∧ State.reset.aon.wakeCause = 0x1C01 ∧ State.reset.aon.tk = .free ∧ State.reset.aon.por = true ∧
  State.reset.evt.mask = 0 ∧ State.reset.evt.seqNext = 0 ∧ State.reset.evt.fault = 0 ∧
  State.reset.hif.fault = 0 ∧ State.reset.hif.queue = [] ∧ State.reset.hif.slots = vrep 16 none ∧
  -- flash and security (R341, R354, R364, R420)
  (∀ n : Fin 16, State.reset.fls.prot[n] = if n = 11 then .permanent else .unlocked) ∧
  State.reset.fls.thresh = 1 ∧ State.reset.fls.fault = 0 ∧ State.reset.fls.spares.length = 80 ∧
  State.reset.sec.fault = 0 ∧ State.reset.sec.keys = vrep 4 none ∧ State.reset.rng.state = .startup ∧
  -- the units (R90, R91, R124, R129, R446)
  (∀ b : Fin 4, State.reset.bnc[b].cfg = 0x1801 ∧ State.reset.bnc[b].state = .stopped ∧ State.reset.bnc[b].waitSlot = 0xFF ∧
    State.reset.bnc[b].info = 0xFF) ∧
  (∀ p : Fin 16, State.reset.pln[p].cfg = 0x1800 ∧ State.reset.pln[p].state = .stopped ∧ State.reset.pln[p].waitSlot = 0xFF) ∧
  (∀ l : Fin 4, State.reset.lth[l].ftzExp = 0xC2D00000 ∧ State.reset.lth[l].ftzExp2 = 0xC3160000 ∧
    State.reset.lth[l].ftzSigmoid = 0xC2D00000 ∧ State.reset.lth[l].ftzGate = 0xC2D00000) ∧
  (∀ p : Fin 24, State.reset.sns[p].cfg = 0 ∧ State.reset.sns[p].ring = []) ∧
  -- the stockroom, the fabric, the collector of sums (R236, R260, R292, R315)
  State.reset.stk.cfg = 0x10040A18 ∧ State.reset.stk.fault = 0 ∧
  (∀ l : Fin 8, State.reset.links[l].state = .disabled ∧ State.reset.links[l].txSeq = 0 ∧ State.reset.links[l].rxSeq = 0 ∧
    State.reset.links[l].credits = ⟨#[8, 2048, 1536, 504], rfl⟩) ∧
  State.reset.ws.state = .unjoined ∧ State.reset.ws.cfg = 0x08141432 ∧ State.reset.ws.members = [] ∧
  State.reset.col.cfg = 0x864 ∧ State.reset.jobs = vrep 4 none ∧
  -- the model's choices
  State.reset.part = .hn7260 ∧ State.reset.glb.phase = .verify ∧ State.reset.glb.state = .booting ∧
  State.reset.pwr.state = .run ∧ State.reset.pending = []

/-- R3: what GLB_ID reads on each part, wherever the GLB block answers. -/
def Obligations.GlbIdReadsThePart : Prop :=
  (∀ s : State, awake s = true → s.part = .hn7260 → readBar0 s 0 4 = 0x56537260) ∧
  (∀ s : State, awake s = true → s.part = .hn7240 → readBar0 s 0 4 = 0x56537240) ∧
  (∀ s : State, awake s = true → s.part = .hn7230 → readBar0 s 0 4 = 0x56537230)

/-- R7, R14, R369: every register of an absent link or sensor port reads 0 and ignores writes, and so does an access that is
not of 4 or 8 bytes naturally aligned; a read leaves the device as it is, since it answers a value alone. -/
def Obligations.AbsentUnitsAndUnalignedAccessesDoNothing : Prop :=
  (∀ (l : Fin 8) (o : Fin 1024) (s : State), linkPresent s.part l.val = false →
    readBar0 s (0x90000 + 0x1000 * l.val + 4 * o.val) 4 = 0) ∧
  (∀ (n : Fin 24) (o : Fin 256) (s : State), portPresent s.part n.val = false →
    readBar0 s (0x300000 + 0x400 * n.val + 4 * o.val) 4 = 0) ∧
  (∀ (l : Fin 8) (o : Fin 1024) (a : BitVec 24) (v : DWord) (s : State), linkPresent s.part l.val = false →
    a.toNat = 0x90000 + 0x1000 * l.val + 4 * o.val → exec (.registerWrite a false v) s = .next s) ∧
  (∀ (n : Fin 24) (o : Fin 256) (a : BitVec 24) (v : DWord) (s : State), portPresent s.part n.val = false →
    a.toNat = 0x300000 + 0x400 * n.val + 4 * o.val → exec (.registerWrite a false v) s = .next s) ∧
  (∀ (a : BitVec 24) (v : DWord) (s : State), a.toNat % 4 ≠ 0 → exec (.registerWrite a false v) s = .next s) ∧
  (∀ (a : BitVec 24) (v : DWord) (s : State), a.toNat % 8 ≠ 0 → exec (.registerWrite a true v) s = .next s) ∧
  (∀ (a n : Nat) (s : State), ¬ (n = 4 ∧ a % 4 = 0) → ¬ (n = 8 ∧ a % 8 = 0) → readBar0 s a n = 0)

/-- R48: a J8 product is a multiple of 2^−20 below 2^16 and a binary16 product a multiple of 2^−48 below 2^32, so the window
loses no bit of them: a group sum of either kind of product, of any length, is the exact sum, and is not INEXACT. -/
def Obligations.J8AndBinary16GroupSumsAreExact : Prop :=
  (∀ a b : Nat, vIsFin (vMul (decodeF fJ8 a) (decodeF fJ8 b)) = true →
    -20 ≤ vExp (vMul (decodeF fJ8 a) (decodeF fJ8 b)) ∧
    (vIsZero (vMul (decodeF fJ8 a) (decodeF fJ8 b)) = false → vLead (vMul (decodeF fJ8 a) (decodeF fJ8 b)) ≤ 15)) ∧
  (∀ a b : Nat, vIsFin (vMul (decodeF fB16 a) (decodeF fB16 b)) = true →
    -48 ≤ vExp (vMul (decodeF fB16 a) (decodeF fB16 b)) ∧
    (vIsZero (vMul (decodeF fB16 a) (decodeF fB16 b)) = false → vLead (vMul (decodeF fB16 a) (decodeF fB16 b)) ≤ 31)) ∧
  (∀ (f : Fmt) (ps : List (Nat × Nat)), f = fJ8 ∨ f = fB16 →
    (groupSum (ps.map fun p => vMul (decodeF f p.1) (decodeF f p.2))).inexact = false ∧
    vInt (-48) (groupSum (ps.map fun p => vMul (decodeF f p.1) (decodeF f p.2))).v =
      (((ps.map fun p => vMul (decodeF f p.1) (decodeF f p.2)).filter vIsFin).map (vInt (-48))).sum)

/-- R39: a unit reads either NaN code of J8 as NaN, and no finite code; every NaN that the output conversion writes in J8 is 0x7F. -/
def Obligations.J8HasTwoNanCodesAndWritesOne : Prop :=
  (∀ c : Byte, vIsNan (decodeF fJ8 c.toNat) = true ↔ c = 0x7F ∨ c = 0xFF) ∧
  (∀ (a : Acc) (c : Conv), c.fmt = fJ8 → vIsNan (decodeF fJ8 (convert a c).code) = true → (convert a c).code = 0x7F)

/-- R41: the widening conversions are exact, and map NaN to the wider format's canonical NaN: J8 to binary16 and to binary32,
and binary16 to binary32. -/
def Obligations.WideningIsExact : Prop :=
  ∀ (f g : Fmt) (c : Nat), (f = fJ8 ∧ g = fB16) ∨ (f = fJ8 ∧ g = fB32) ∨ (f = fB16 ∧ g = fB32) →
    (vIsNan (decodeF f c) = true → rnd g (decodeF f c) = g.nanCode) ∧
    (∀ n, decodeF f c = .inf n → decodeF g (rnd g (decodeF f c)) = .inf n) ∧
    (vIsFin (decodeF f c) = true →
      vIsFin (decodeF g (rnd g (decodeF f c))) = true ∧
      vNegBit (decodeF g (rnd g (decodeF f c))) = vNegBit (decodeF f c) ∧
      vCmp (decodeF g (rnd g (decodeF f c))) (decodeF f c) = 0)

/-- R38: the value of every J8 code. With sign S, exponent field E and fraction M: E = 0 is (−1)^S × 2^−7 × M/8; E of 1 to 14, and 15
with M of 0 to 6, is (−1)^S × 2^(E−8) × (1 + M/8); 15 with M = 7 is NaN. No code is an infinity. -/
def Obligations.J8CodesHaveTheirValues : Prop :=
  ∀ c : Byte,
    (bitsNat (c.setWidth 32) 6 3 = 0 →
      decodeF fJ8 c.toNat = .fin (bitAt c 7) (bitsNat (c.setWidth 32) 2 0) (-10)) ∧
    (bitsNat (c.setWidth 32) 6 3 ≠ 0 → ¬ (bitsNat (c.setWidth 32) 6 3 = 15 ∧ bitsNat (c.setWidth 32) 2 0 = 7) →
      decodeF fJ8 c.toNat =
        .fin (bitAt c 7) (8 + bitsNat (c.setWidth 32) 2 0) ((bitsNat (c.setWidth 32) 6 3 : Int) - 8 - 3)) ∧
    (bitsNat (c.setWidth 32) 6 3 = 15 ∧ bitsNat (c.setWidth 32) 2 0 = 7 → decodeF fJ8 c.toNat = .nan)
end

