-- ==== Sys2Proof/Laws/Crypto.lean ====
section
/-! SUPPORT. What the cryptographic functions answer: their lengths, and that a sealed text opens. -/

namespace Sys2Proof.Machine

theorem leBytes_length (n x : Nat) : (leBytes n x).length = n := by
  induction n generalizing x with
  | zero => rfl
  | succ n ih => simp [leBytes, ih]

theorem beBytes_length (n x : Nat) : (beBytes n x).length = n := by simp [beBytes, leBytes_length]

theorem digestBytes_length (d : BitVec 384) : (digestBytes d).length = 48 := beBytes_length 48 _

theorem aesWords_four (nk n i rc : Nat) (ws : List (List Nat)) (hn : 0 < nk) (hl : nk ≤ ws.length)
    (h : ∀ w ∈ ws, w.length = 4) :
    (aesWords nk n i rc ws).length = n + ws.length ∧ ∀ w ∈ aesWords nk n i rc ws, w.length = 4 := by
  induction n generalizing i rc ws with
  | zero => exact ⟨by simp [aesWords], h⟩
  | succ n ih =>
    cases ws with
    | nil => simp at hl; omega
    | cons a t =>
      have ha : a.length = 4 := h a (by simp)
      have hg : ((a :: t).getD (nk - 1) []).length = 4 := by
        have hi : nk - 1 < (a :: t).length := by omega
        rw [List.getD, List.getElem?_eq_getElem hi]
        exact h _ (List.getElem_mem hi)
      have hw : ∀ w ∈ List.zipWith (· ^^^ ·) ((a :: t).getD (nk - 1) [])
          (if i % nk = 0 then List.zipWith (· ^^^ ·) ((a.drop 1 ++ a.take 1).map sbox) [rc, 0, 0, 0]
            else if 6 < nk ∧ i % nk = 4 then a.map sbox else a) :: a :: t, w.length = 4 := by
        intro w m
        rcases List.mem_cons.1 m with rfl | m
        · rw [List.length_zipWith, hg]
          split
          · simp [ha]
          · split <;> simp [ha]
        · exact h w m
      have := ih (i + 1) (if i % nk = 0 then gmul2 rc else rc) _ (by simpa using Nat.le_succ_of_le hl) hw
      exact ⟨by rw [aesWords]; simpa [Nat.add_comm, Nat.add_left_comm] using this.1, by rw [aesWords]; exact this.2⟩

theorem fours_length {α : Type} (n : Nat) (xs : List α) : (fours n xs).length = n := by
  induction n generalizing xs with
  | zero => rfl
  | succ n ih => simp [fours, ih]

theorem fours_four {α : Type} (n : Nat) (xs : List α) (h : 4 * n ≤ xs.length) :
    ∀ w ∈ fours n xs, w.length = 4 ∧ ∀ y ∈ w, y ∈ xs := by
  induction n generalizing xs with
  | zero => simp [fours]
  | succ n ih =>
    intro w m
    rcases List.mem_cons.1 m with rfl | m
    · exact ⟨by rw [List.length_take]; omega, fun y hy => List.mem_of_mem_take hy⟩
    · have := ih (xs.drop 4) (by simp; omega) w m
      exact ⟨this.1, fun y hy => List.mem_of_mem_drop (this.2 y hy)⟩

theorem flatten_four (w : List (List Nat)) (h : w.length = 4) (hw : ∀ y ∈ w, y.length = 4) : w.flatten.length = 16 := by
  match w, h with
  | [a, b, c, d], _ => simp [hw a, hw b, hw c, hw d]

/-- The round keys of a key of the right length: nk + 7 of sixteen bytes. -/
theorem aesKeys_sixteen (nk : Nat) (key : List Nat) (hn : 0 < nk) (hk : key.length = 4 * nk) :
    (aesKeys nk key).length = nk + 7 ∧ ∀ k ∈ aesKeys nk key, k.length = 16 := by
  have h0 : ∀ w ∈ (fours nk key).reverse, w.length = 4 := by
    intro w m
    exact (fours_four nk key (by omega) w (List.mem_reverse.1 m)).1
  have h1 := aesWords_four nk (4 * (nk + 7) - nk) nk 1 (fours nk key).reverse hn (by simp [fours_length]) h0
  refine ⟨by simp [aesKeys, fours_length], ?_⟩
  intro k m
  obtain ⟨w, hw, rfl⟩ := List.mem_map.1 m
  have h2 := fours_four (nk + 7) (aesWords nk (4 * (nk + 7) - nk) nk 1 (fours nk key).reverse).reverse
    (by rw [List.length_reverse, h1.1]; simp [fours_length]; omega) w hw
  exact flatten_four w h2.1 fun y hy => h1.2 y (List.mem_reverse.1 (h2.2 y hy))

theorem aesRounds_sixteen (ks : List (List Nat)) (s : List Nat) (hne : ks ≠ []) (h : ∀ k ∈ ks, k.length = 16) :
    (aesRounds ks s).length = 16 := by
  induction ks generalizing s with
  | nil => exact absurd rfl hne
  | cons k t ih =>
    cases t with
    | nil => simp [aesRounds, shiftRows, h k]
    | cons a t =>
      rw [aesRounds]
      · exact ih _ (by simp) fun x hx => h x (List.mem_cons_of_mem _ hx)
      · simp

theorem aes256_length (key block : List Byte) (h : key.length = 32) : (aes256 key block).length = 16 := by
  have hk := aesKeys_sixteen 8 (key.map BitVec.toNat) (by decide) (by simpa using h)
  rw [aes256, List.length_map, aesBytes]
  split
  · next k ks e =>
    refine aesRounds_sixteen ks _ ?_ fun x hx => hk.2 x (by rw [e]; exact List.mem_cons_of_mem _ hx)
    rintro rfl
    rw [e] at hk
    simp at hk
  · next e => rw [e] at hk; simp at hk

theorem gcmTag_length (key nonce aad cipher : List Byte) (h : key.length = 32) :
    (gcmTag key nonce aad cipher).length = 16 := by
  simp only [gcmTag, xorBytes, List.length_zipWith, beBytes_length, aes256_length _ _ h]
  omega

theorem gcmStream_length (key nonce : List Byte) (h : key.length = 32) (n c : Nat) (bs : List Byte) :
    (gcmStream key nonce n c bs).length = min bs.length (16 * n) := by
  induction n generalizing c bs with
  | zero => simp [gcmStream]
  | succ n ih =>
    rw [gcmStream, List.length_append, ih, xorBytes, List.length_zipWith, aes256_length _ _ h, List.length_take,
      List.length_drop]
    omega

/-- Encryption and decryption keep the length. -/
theorem gcmCrypt_length (key nonce bs : List Byte) (h : key.length = 32) : (gcmCrypt key nonce bs).length = bs.length := by
  rw [gcmCrypt, gcmStream_length _ _ h]
  omega

/-- A text opens under its own tag. -/
theorem gcmOpen_tag (key nonce aad cipher : List Byte) :
    gcmOpen key nonce aad cipher (gcmTag key nonce aad cipher) = some (gcmCrypt key nonce cipher) := by simp [gcmOpen]

/-- A text opens exactly under its own tag. -/
theorem gcmOpen_eq_none (key nonce aad cipher tag : List Byte) :
    gcmOpen key nonce aad cipher tag = none ↔ tag ≠ gcmTag key nonce aad cipher := by
  rw [gcmOpen]
  split
  · next e => simp [e]
  · next e => simp [Ne.symm e]

theorem hmac384_length (key msg : List Byte) : (hmac384 key msg).length = 48 := by
  simp only [hmac384, digestBytes_length]

theorem hkdfBlocks_length (prk info : List Byte) (n i : Nat) (prev : List Byte) :
    (hkdfBlocks prk info n i prev).length = 48 * n := by
  induction n generalizing i prev with
  | zero => rfl
  | succ n ih => rw [hkdfBlocks, List.length_append, ih, hmac384_length]; omega

/-- HKDF answers as many bytes as are asked of it. -/
theorem hkdf384_length (salt ikm info : List Byte) (len : Nat) : (hkdf384 salt ikm info len).length = len := by
  rw [hkdf384, List.length_take, hkdfBlocks_length]
  omega

end Sys2Proof.Machine
end

