-- ==== Sys2Proof/Laws/Tab.lean ====
section
/-! SUPPORT. The laws of the sparse tables and of the byte memories: every operation keeps the canonical form, a read after
a write at the same place gives the value written, and a write leaves every other place alone. -/

namespace Sys2Proof.Machine

variable {α : Type}

/-- Every key of t is above k. -/
def Above (k : Nat) (t : List (Nat × α)) : Prop := ∀ p ∈ t, k < p.1

theorem tabWf_iff [DecidableEq α] (d : α) (t : List (Nat × α)) :
    tabWf d t = true ↔ t.Pairwise (fun a b => a.1 < b.1) ∧ ∀ p ∈ t, p.2 ≠ d := by
  simp [tabWf]

theorem tabWf_cons [DecidableEq α] (d : α) (p : Nat × α) (t : List (Nat × α)) :
    tabWf d (p :: t) = true ↔ Above p.1 t ∧ p.2 ≠ d ∧ tabWf d t = true := by
  obtain ⟨k, x⟩ := p
  simp only [tabWf_iff, List.pairwise_cons, List.forall_mem_cons, Above]
  exact ⟨fun q => ⟨q.1.1, q.2.1, q.1.2, q.2.2⟩, fun q => ⟨⟨q.1, q.2.2.1⟩, q.2.1, q.2.2.2⟩⟩

theorem tabErase_mem (k : Nat) : ∀ (t : List (Nat × α)) (p : Nat × α), p ∈ tabErase k t → p ∈ t
  | [], _, h => by simp [tabErase] at h
  | (j, x) :: t, p, h => by
    unfold tabErase at h
    split at h
    · exact List.mem_cons_of_mem _ h
    · split at h
      · exact h
      · rcases List.mem_cons.1 h with h | h
        · exact h ▸ List.mem_cons_self
        · exact List.mem_cons_of_mem _ (tabErase_mem k t p h)

theorem tabPut_mem (k : Nat) (x : α) : ∀ (t : List (Nat × α)) (p : Nat × α), p ∈ tabPut k x t → p = (k, x) ∨ p ∈ t
  | [], p, h => by simpa [tabPut] using h
  | (j, y) :: t, p, h => by
    unfold tabPut at h
    split at h
    · rcases List.mem_cons.1 h with h | h
      · exact .inl h
      · exact .inr (List.mem_cons_of_mem _ h)
    · split at h
      · rcases List.mem_cons.1 h with h | h
        · exact .inl h
        · exact .inr h
      · rcases List.mem_cons.1 h with h | h
        · exact .inr (h ▸ List.mem_cons_self)
        · rcases tabPut_mem k x t p h with h | h
          · exact .inl h
          · exact .inr (List.mem_cons_of_mem _ h)

theorem tabErase_wf [DecidableEq α] (d : α) (k : Nat) :
    ∀ t : List (Nat × α), tabWf d t = true → tabWf d (tabErase k t) = true
  | [], h => h
  | (j, x) :: t, h => by
    have h' := h
    rw [tabWf_cons] at h
    obtain ⟨h1, h2, h3⟩ := h
    unfold tabErase
    split
    · exact h3
    · split
      · exact h'
      · rw [tabWf_cons]
        exact ⟨fun p hp => h1 p (tabErase_mem k t p hp), h2, tabErase_wf d k t h3⟩

theorem tabPut_wf [DecidableEq α] (d : α) (k : Nat) (x : α) (hx : x ≠ d) :
    ∀ t : List (Nat × α), tabWf d t = true → tabWf d (tabPut k x t) = true
  | [], _ => by simp [tabPut, tabWf, hx]
  | (j, y) :: t, h => by
    have h' := h
    rw [tabWf_cons] at h
    obtain ⟨h1, h2, h3⟩ := h
    unfold tabPut
    split
    · rename_i e
      rw [tabWf_cons]
      exact ⟨fun p hp => e ▸ h1 p hp, hx, h3⟩
    · split
      · rename_i e
        rw [tabWf_cons]
        refine ⟨fun p hp => ?_, hx, h'⟩
        rcases List.mem_cons.1 hp with hp | hp
        · subst hp; exact e
        · exact Nat.lt_trans e (h1 p hp)
      · rw [tabWf_cons]
        refine ⟨fun p hp => ?_, h2, tabPut_wf d k x hx t h3⟩
        rcases tabPut_mem k x t p hp with hp | hp
        · subst hp; simp only; omega
        · exact h1 p hp

theorem tabSet_wf [DecidableEq α] (d : α) (k : Nat) (x : α) (t : List (Nat × α)) (h : tabWf d t = true) :
    tabWf d (tabSet d k x t) = true := by
  unfold tabSet
  split
  · exact tabErase_wf d k t h
  · rename_i e; exact tabPut_wf d k x e t h

theorem filter_wf [DecidableEq α] (d : α) (q : Nat × α → Bool) (t : List (Nat × α)) (h : tabWf d t = true) :
    tabWf d (t.filter q) = true := by
  rw [tabWf_iff] at h ⊢
  exact ⟨h.1.filter _, fun p hp => h.2 p (List.mem_filter.1 hp).1⟩

/-! ### Reading after writing -/

theorem tabGet_above (d : α) (k : Nat) : ∀ t : List (Nat × α), Above k t → tabGet d k t = d
  | [], _ => rfl
  | (j, x) :: t, h => by
    have := h (j, x) List.mem_cons_self
    unfold tabGet
    simp only at this
    rw [if_neg (by omega), if_pos this]

theorem tabGet_erase [DecidableEq α] (d : α) (k a : Nat) :
    ∀ t : List (Nat × α), tabWf d t = true → tabGet d a (tabErase k t) = if a = k then d else tabGet d a t
  | [], _ => by simp [tabErase, tabGet]
  | (j, x) :: t, h => by
    rw [tabWf_cons] at h
    obtain ⟨h1, _, h3⟩ := h
    unfold tabErase
    split
    · rename_i e
      subst e
      by_cases ea : a = j
      · subst ea; rw [if_pos rfl, tabGet_above d a t h1]
      · rw [if_neg ea]
        conv => rhs; unfold tabGet
        rw [if_neg (fun q => ea q.symm)]
        split
        · exact tabGet_above d a t fun p hp => Nat.lt_trans ‹_› (h1 p hp)
        · rfl
    · split
      · by_cases ea : a = k
        · subst ea; rw [if_pos rfl]; unfold tabGet; rw [if_neg ‹_›, if_pos ‹_›]
        · rw [if_neg ea]
      · unfold tabGet
        rw [tabGet_erase d k a t h3]
        by_cases ea : a = k
        · subst ea; simp [show ¬ j = a from ‹_›, show ¬ a < j from ‹_›]
        · simp [ea]

theorem tabGet_put (d : α) (k : Nat) (x : α) (a : Nat) :
    ∀ t : List (Nat × α), tabGet d a (tabPut k x t) = if a = k then x else tabGet d a t
  | [] => by
    simp only [tabPut, tabGet]
    by_cases e : a = k
    · simp [e]
    · simp [e, show ¬ k = a from fun q => e q.symm]
  | (j, y) :: t => by
    unfold tabPut
    split
    · rename_i e
      subst e
      by_cases ea : a = j
      · simp [tabGet, ea]
      · simp [tabGet, ea, show ¬ j = a from fun q => ea q.symm]
    · split
      · conv => lhs; unfold tabGet
        by_cases ea : a = k
        · subst ea; simp
        · rw [if_neg (fun q => ea q.symm), if_neg ea]
          split
          · unfold tabGet
            rw [if_neg (by omega), if_pos (by omega)]
          · rfl
      · unfold tabGet
        rw [tabGet_put d k x a t]
        by_cases ea : a = k
        · subst ea; simp [show ¬ j = a from ‹_›, show ¬ a < j from ‹_›]
        · simp [ea]

theorem tabGet_set [DecidableEq α] (d : α) (k : Nat) (x : α) (a : Nat) (t : List (Nat × α)) (h : tabWf d t = true) :
    tabGet d a (tabSet d k x t) = if a = k then x else tabGet d a t := by
  unfold tabSet
  split
  · rename_i e; subst e; exact tabGet_erase _ k a t h
  · exact tabGet_put d k x a t

/-! ### Byte memories -/

theorem setByte_wf (m : Memory) (a : Nat) (b : Byte) (h : Memory.wf m = true) : Memory.wf (setByte m a b) = true :=
  tabSet_wf 0 a b m h

theorem writeBytes_wf : ∀ (bs : List Byte) (m : Memory) (a : Nat), Memory.wf m = true →
    Memory.wf (writeBytes m a bs) = true
  | [], _, _, h => h
  | b :: t, m, a, h => writeBytes_wf t (setByte m a b) (a + 1) (setByte_wf m a b h)

theorem clearRange_wf (m : Memory) (a n : Nat) (h : Memory.wf m = true) : Memory.wf (clearRange m a n) = true :=
  filter_wf 0 _ m h

/-- A byte reads as what was last stored there. -/
theorem byteAt_setByte (m : Memory) (a b : Nat) (x : Byte) (h : Memory.wf m = true) :
    byteAt (setByte m a x) b = if b = a then x else byteAt m b := tabGet_set 0 a x b m h

/-- A write leaves every byte outside its range as it was. -/
theorem byteAt_writeBytes_out : ∀ (bs : List Byte) (m : Memory) (a b : Nat), Memory.wf m = true →
    (b < a ∨ a + bs.length ≤ b) → byteAt (writeBytes m a bs) b = byteAt m b
  | [], _, _, _, _, _ => rfl
  | x :: t, m, a, b, h, o => by
    simp only [List.length_cons] at o
    rw [writeBytes, byteAt_writeBytes_out t _ _ _ (setByte_wf m a x h) (by omega), byteAt_setByte m a b x h,
      if_neg (by omega)]

/-- A byte of a write reads back. -/
theorem byteAt_writeBytes_in : ∀ (bs : List Byte) (m : Memory) (a i : Nat), Memory.wf m = true → i < bs.length →
    byteAt (writeBytes m a bs) (a + i) = bs.getD i 0
  | [], _, _, _, _, h => by simp at h
  | x :: t, m, a, 0, h, _ => by
    rw [writeBytes, byteAt_writeBytes_out t _ _ _ (setByte_wf m a x h) (by omega), byteAt_setByte m a _ x h]
    simp
  | x :: t, m, a, i + 1, h, hi => by
    simp only [List.length_cons] at hi
    rw [writeBytes, show a + (i + 1) = (a + 1) + i by omega,
      byteAt_writeBytes_in t _ _ _ (setByte_wf m a x h) (by omega)]
    simp

theorem readBytes_length (m : Memory) : ∀ (n a : Nat), (readBytes m a n).length = n
  | 0, _ => rfl
  | n + 1, a => by simp [readBytes, readBytes_length m n (a + 1)]

theorem readBytes_getD (m : Memory) : ∀ (n a i : Nat), i < n → (readBytes m a n).getD i 0 = byteAt m (a + i)
  | 0, _, _, h => by omega
  | n + 1, a, 0, _ => by simp [readBytes]
  | n + 1, a, i + 1, h => by
    simp only [readBytes, List.getD_cons_succ]
    rw [readBytes_getD m n (a + 1) i (by omega), show a + 1 + i = a + (i + 1) by omega]

/-- What was written reads back. -/
theorem readBytes_writeBytes (bs : List Byte) (m : Memory) (a : Nat) (h : Memory.wf m = true) :
    readBytes (writeBytes m a bs) a bs.length = bs := by
  apply List.ext_getElem
  · exact readBytes_length _ _ _
  · intro i h1 h2
    have := readBytes_getD (writeBytes m a bs) bs.length a i h2
    rw [byteAt_writeBytes_in bs m a i h h2] at this
    simpa [List.getD_eq_getElem?_getD, List.getElem?_eq_getElem h1, List.getElem?_eq_getElem h2] using this

end Sys2Proof.Machine
end

