-- ==== Sys2Proof/Laws/Good.lean ====
section
/-! SUPPORT. The relation that every operation keeps between the state before and after it: the commands that wait are
untouched, what is one-way goes one way, and the invariant is kept. One lemma per operation stands in the files
Laws/Good*.lean; each says: if s is good with respect to the state a that the command started in, so is the operation's
answer on s. -/

namespace Sys2Proof.Machine

structure Good (a s : State) : Prop where
  pending : s.pending = a.pending
  oneWay : OneWay a s
  inv : Inv a → Inv s

/-- Every state that an outcome goes on in is good. -/
structure GoodOut (a : State) (o : Host.Outcome State Fault Refusal) : Prop where
  good : ∀ t, o = .next t → Good a t

theorem OneWay.refl (s : State) : OneWay s s := ⟨rfl, rfl, Nat.le_refl _, fun _ h => h, [], by simp⟩

theorem Good.refl (s : State) : Good s s := ⟨rfl, OneWay.refl s, id⟩

/-- t differs from s only in what `Good` does not look at. -/
structure Same (s t : State) : Prop where
  pending : t.pending = s.pending
  part : t.part = s.part
  serial : t.serial = s.serial
  fuse : t.sec.fuse = s.sec.fuse
  prot : t.fls.prot = s.fls.prot
  bbt : t.fls.bbt = s.fls.bbt
  mem : t.stk.mem = s.stk.mem
  bytes : t.stk.bytes = s.stk.bytes
  stores : ∀ b : Fin 4, t.bnc[b].store = s.bnc[b].store
  cmds : t.hif.queue = s.hif.queue
  evts : t.evt.queue = s.evt.queue
  ready : t.rng.ready = s.rng.ready

theorem memoryWf_iff (s : State) : memoryWf s = true ↔
    Memory.wf s.stk.mem = true ∧ Memory.wf s.stk.bytes = true ∧ ∀ b : Fin 4, Memory.wf s.bnc[b].store = true := by
  simp [memoryWf, and_assoc]

/-- The general step: each part that `Good` looks at is as before, or better. -/
theorem Good.step {a s t : State} (h : Good a s) (hp : t.pending = s.pending) (hn : t.part = s.part)
    (hs : t.serial = s.serial) (hf : s.sec.fuse ≤ t.sec.fuse)
    (hl : ∀ n : Fin 16, s.fls.prot[n] = .permanent → t.fls.prot[n] = .permanent)
    (hb : ∃ l, t.fls.bbt = s.fls.bbt ++ l) (hm : memoryWf s = true → memoryWf t = true)
    (hc : s.hif.queue.length ≤ 16 → t.hif.queue.length ≤ 16) (he : s.evt.queue.length ≤ 32 → t.evt.queue.length ≤ 32)
    (hr : s.rng.ready ≤ 16 → t.rng.ready ≤ 16) : Good a t := by
  obtain ⟨p, ⟨w1, w2, w3, w4, l1, w5⟩, i⟩ := h
  obtain ⟨l2, hb⟩ := hb
  refine ⟨hp.trans p, ⟨hn.trans w1, hs.trans w2, Nat.le_trans w3 hf, fun n q => hl n (w4 n q), l1 ++ l2, ?_⟩, fun ia => ?_⟩
  · rw [hb, w5, List.append_assoc]
  · have j := i ia
    exact ⟨hm j.memory, hc j.commands, he j.events, hr j.outputs, hl 11 j.fact⟩

theorem Good.same {a s t : State} (h : Good a s) (e : Same s t) : Good a t := by
  refine h.step e.pending e.part e.serial (Nat.le_of_eq e.fuse.symm) (fun n q => by rw [e.prot]; exact q)
    ⟨[], by rw [e.bbt]; simp⟩ (fun m => ?_) (fun q => by rw [e.cmds]; exact q) (fun q => by rw [e.evts]; exact q)
    (fun q => by rw [e.ready]; exact q)
  rw [memoryWf_iff] at m ⊢
  exact ⟨by rw [e.mem]; exact m.1, by rw [e.bytes]; exact m.2.1, fun b => by rw [e.stores b]; exact m.2.2 b⟩

/-- `Good` of a state, said of the parts that it looks at. -/
def GoodParts (a : State) (pending : List Instr) (part : PartNo) (serial : DWord) (evt : List Posted) (hif : List HCmd)
    (fuse : Nat) (prot : Vector Prot 16) (bbt : List BbEntry) (ready : Nat) (mem bytes : Memory)
    (bnc : Vector Bench 4) : Prop :=
  ∃ s, Good a s ∧ s.pending = pending ∧ s.part = part ∧ s.serial = serial ∧ s.evt.queue = evt ∧ s.hif.queue = hif ∧
    s.sec.fuse = fuse ∧ s.fls.prot = prot ∧ s.fls.bbt = bbt ∧ s.rng.ready = ready ∧ s.stk.mem = mem ∧
    s.stk.bytes = bytes ∧ s.bnc = bnc

theorem Good.parts {a s : State} (h : Good a s) : GoodParts a s.pending s.part s.serial s.evt.queue s.hif.queue
    s.sec.fuse s.fls.prot s.fls.bbt s.rng.ready s.stk.mem s.stk.bytes s.bnc :=
  ⟨s, h, rfl, rfl, rfl, rfl, rfl, rfl, rfl, rfl, rfl, rfl, rfl, rfl⟩

theorem good_of_parts {a t : State} (h : GoodParts a t.pending t.part t.serial t.evt.queue t.hif.queue
    t.sec.fuse t.fls.prot t.fls.bbt t.rng.ready t.stk.mem t.stk.bytes t.bnc) : Good a t := by
  obtain ⟨s, g, h1, h2, h3, h4, h5, h6, h7, h8, h9, h10, h11, h12⟩ := h
  exact g.same ⟨h1.symm, h2.symm, h3.symm, h6.symm, h7.symm, h8.symm, h10.symm, h11.symm, fun b => by rw [h12], h5.symm,
    h4.symm, h9.symm⟩

theorem good_mk {a : State} {pending free part serial glb pwr aon evt hif mgmt sec fls rng stk bnc pln lth trn sq jobs links
    ws col sns img out} : Good a (State.mk pending free part serial glb pwr aon evt hif mgmt sec fls rng stk bnc pln lth trn
      sq jobs links ws col sns img out) ↔
    GoodParts a pending part serial evt.queue hif.queue sec.fuse fls.prot fls.bbt rng.ready stk.mem stk.bytes bnc :=
  ⟨fun h => h.parts, fun h => good_of_parts h⟩

theorem overlay_wf : ∀ (cs : List (Nat × Byte)) (m : Memory), Memory.wf m = true → Memory.wf (overlay m cs) = true
  | [], _, h => h
  | c :: t, m, h => overlay_wf t _ (setByte_wf m c.1 c.2 h)

theorem withoutHandles_wf (hs : List Nat) (m : Memory) (h : Memory.wf m = true) : Memory.wf (withoutHandles hs m) = true :=
  filter_wf 0 _ m h

theorem discardBytes_wf (bound : Bool) (ts : List Tensor) : ∀ (xs : List TRun) (m : Memory), Memory.wf m = true →
    Memory.wf (discardBytes bound ts xs m) = true
  | [], _, h => h
  | x :: rest, m, h => by
    unfold discardBytes
    refine discardBytes_wf bound ts rest _ ?_
    split
    · exact h
    · split
      · exact clearRange_wf _ _ _ h
      · split
        · exact clearRange_wf _ _ _ h
        · exact h

/-- An update of the bounded queues. -/
theorem Good.partsQueues {a s : State} {e : List Posted} {c : List HCmd} {r : Nat} (h : Good a s)
    (he : s.evt.queue.length ≤ 32 → e.length ≤ 32) (hc : s.hif.queue.length ≤ 16 → c.length ≤ 16)
    (hr : s.rng.ready ≤ 16 → r ≤ 16) :
    GoodParts a s.pending s.part s.serial e c s.sec.fuse s.fls.prot s.fls.bbt r s.stk.mem s.stk.bytes s.bnc := by
  have g : Good a { s with
      evt := { s.evt with queue := e }, hif := { s.hif with queue := c }, rng := { s.rng with ready := r } } :=
    h.step rfl rfl rfl (Nat.le_refl _) (fun _ q => q) ⟨[], by simp⟩ id hc he hr
  exact g.parts

/-- An update that gives the drawers' bytes another table in canonical form. -/
theorem Good.partsBytes {a s : State} {m : Memory} (h : Good a s)
    (w : Memory.wf s.stk.bytes = true → Memory.wf m = true) :
    GoodParts a s.pending s.part s.serial s.evt.queue s.hif.queue s.sec.fuse s.fls.prot s.fls.bbt s.rng.ready s.stk.mem m
      s.bnc := by
  have g : Good a { s with stk := { s.stk with bytes := m } } := by
    refine h.step rfl rfl rfl (Nat.le_refl _) (fun _ q => q) ⟨[], by simp⟩ (fun q => ?_) id id id
    rw [memoryWf_iff] at q ⊢
    exact ⟨q.1, w q.2.1, q.2.2⟩
  exact g.parts

/-- The same of the system area. -/
theorem Good.partsMem {a s : State} {m : Memory} (h : Good a s)
    (w : Memory.wf s.stk.mem = true → Memory.wf m = true) :
    GoodParts a s.pending s.part s.serial s.evt.queue s.hif.queue s.sec.fuse s.fls.prot s.fls.bbt s.rng.ready m s.stk.bytes
      s.bnc := by
  have g : Good a { s with stk := { s.stk with mem := m } } := by
    refine h.step rfl rfl rfl (Nat.le_refl _) (fun _ q => q) ⟨[], by simp⟩ (fun q => ?_) id id id
    rw [memoryWf_iff] at q ⊢
    exact ⟨w q.1, q.2.1, q.2.2⟩
  exact g.parts

/-- An update of the benches that keeps their stores, or clears them. -/
theorem Good.partsBnc {a s : State} {v : Vector Bench 4} (h : Good a s)
    (w : ∀ b : Fin 4, v[b].store = s.bnc[b].store ∨ v[b].store = []) :
    GoodParts a s.pending s.part s.serial s.evt.queue s.hif.queue s.sec.fuse s.fls.prot s.fls.bbt s.rng.ready s.stk.mem
      s.stk.bytes v := by
  have g : Good a { s with bnc := v } := by
    refine h.step rfl rfl rfl (Nat.le_refl _) (fun _ q => q) ⟨[], by simp⟩ (fun q => ?_) id id id
    rw [memoryWf_iff] at q ⊢
    refine ⟨q.1, q.2.1, fun b => ?_⟩
    rcases w b with e | e
    · simp only [e]; exact q.2.2 b
    · simp only [e]; rfl
  exact g.parts

theorem vmap_get {α β : Type} {n : Nat} (f : α → β) (v : Vector α n) (i : Fin n) : (vmap f v)[i] = f v[i] := by
  simp [vmap, Vector.getElem_mk]

theorem vrep_get {α : Type} {n : Nat} (x : α) (i : Fin n) : (vrep n x)[i] = x := by
  simp [vrep]

/-- A reset: empty queues, empty memories. -/
theorem Good.partsClear {a s : State} {c : List HCmd} {r : Nat} {v : Vector Bench 4} (h : Good a s)
    (hc : s.hif.queue.length ≤ 16 → c.length ≤ 16) (hr : s.rng.ready ≤ 16 → r ≤ 16) (hv : ∀ b : Fin 4, v[b].store = []) :
    GoodParts a s.pending s.part s.serial [] c s.sec.fuse s.fls.prot s.fls.bbt r [] [] v := by
  have g : Good a { s with
      evt := { s.evt with queue := [] }, hif := { s.hif with queue := c },
      rng := { s.rng with ready := r }, stk := { s.stk with mem := [], bytes := [] }, bnc := v } := by
    refine h.step rfl rfl rfl (Nat.le_refl _) (fun _ q => q) ⟨[], by simp⟩ (fun _ => ?_) hc (fun _ => Nat.zero_le _) hr
    rw [memoryWf_iff]
    exact ⟨rfl, rfl, fun b => by simp only [hv b]; rfl⟩
  exact g.parts

theorem Good.partsVmap {a s : State} {f : Bench → Bench} (h : Good a s)
    (w : ∀ x, (f x).store = x.store ∨ (f x).store = []) :
    GoodParts a s.pending s.part s.serial s.evt.queue s.hif.queue s.sec.fuse s.fls.prot s.fls.bbt s.rng.ready s.stk.mem
      s.stk.bytes (vmap f s.bnc) :=
  h.partsBnc fun b => by rw [vmap_get]; exact w _

/-- An update of what goes one way. -/
theorem Good.partsOneWay {a s : State} {f : Nat} {p : Vector Prot 16} {b : List BbEntry} (h : Good a s)
    (hf : s.sec.fuse ≤ f) (hp : ∀ n : Fin 16, s.fls.prot[n] = .permanent → p[n] = .permanent)
    (hb : ∃ l, b = s.fls.bbt ++ l) :
    GoodParts a s.pending s.part s.serial s.evt.queue s.hif.queue f p b s.rng.ready s.stk.mem s.stk.bytes s.bnc := by
  have g : Good a { s with sec := { s.sec with fuse := f }, fls := { s.fls with prot := p, bbt := b } } :=
    h.step rfl rfl rfl hf hp hb id id id id
  exact g.parts

/-- An update of one bench that keeps its store in canonical form. -/
theorem Good.benchWf {a s : State} (h : Good a s) (b : Fin 4) (f : Bench → Bench)
    (hf : ∀ x, Memory.wf x.store = true → Memory.wf (f x).store = true) : Good a (setBnc b f s) := by
  refine h.step rfl rfl rfl (Nat.le_refl _) (fun _ q => q) ⟨[], by simp [setBnc]⟩ (fun q => ?_) id id id
  rw [memoryWf_iff] at q ⊢
  refine ⟨q.1, q.2.1, fun c => ?_⟩
  simp only [setBnc, upd]
  by_cases e : b = c
  · subst e; simpa using hf _ (q.2.2 b)
  · have e2 : ¬ b.val = c.val := fun r => e (Fin.ext r)
    simpa [e2] using q.2.2 c

/-- A bench that keeps its store. -/
theorem Good.bench {a s : State} (h : Good a s) (b : Fin 4) (f : Bench → Bench) (hf : ∀ x, (f x).store = x.store) :
    Good a { s with bnc := upd s.bnc b f } := by
  refine h.same ⟨rfl, rfl, rfl, rfl, rfl, rfl, rfl, rfl, fun c => ?_, rfl, rfl, rfl⟩
  simp only [upd]
  by_cases e : b = c
  · subst e; simp [hf]
  · have e2 : ¬ b.val = c.val := fun q => e (Fin.ext q)
    simp [e2]

theorem Good.foldl {α : Type} {a : State} (f : State → α → State) (hf : ∀ s x, Good a s → Good a (f s x)) :
    ∀ (xs : List α) (s : State), Good a s → Good a (xs.foldl f s)
  | [], _, h => h
  | x :: xs, s, h => Good.foldl f hf xs (f s x) (hf s x h)

/-- A state that a pair delivers. -/
theorem Good.snd {α : Type} {a t : State} {p : α × State} {x : α} (e : p = (x, t)) (h : Good a p.2) : Good a t := by
  subst e; exact h

theorem Good.fst {α : Type} {a t : State} {p : State × α} {x : α} (e : p = (t, x)) (h : Good a p.1) : Good a t := by
  subst e; exact h

theorem GoodOut.next {a s : State} (h : Good a s) : GoodOut a (.next s) :=
  ⟨fun _ e => by cases e; exact h⟩

theorem GoodOut.fault {a : State} {f : Fault} : GoodOut a (.fault f) := ⟨fun _ e => by cases e⟩

theorem GoodOut.refused {a : State} {f : Refusal} : GoodOut a (.refused f) := ⟨fun _ e => by cases e⟩

end Sys2Proof.Machine
end

