-- ==== Sys2Proof/Laws/GoodBase.lean ====
section
/-! SUPPORT. `Good` is kept by the shared operations: registers, results, events, messages, handles, jobs:
for each operation, the lemma `good_<its name>`, which says that it leaves the waiting commands alone, undoes nothing that
goes one way, and keeps the invariant. -/

namespace Sys2Proof.Machine

/-! ### Machine/Ops.lean -/

theorem good_setBnc {a : State} (b : Fin 4) (f : Bench → Bench) (s : State) (hf : ∀ x, (f x).store = x.store)
    (h : Good a s) : Good a (setBnc b f s) := h.bench b f hf

theorem good_setPln {a : State} (p : Fin 16) (f : Plane → Plane) (s : State) (h : Good a s) : Good a (setPln p f s) :=
    by
  unfold setPln
  try dsimp only
  with_reducible repeat' first | assumption | split | (simp only [good_mk]; apply Good.parts)

theorem good_setLth {a : State} (l : Fin 4) (f : Lathe → Lathe) (s : State) (h : Good a s) : Good a (setLth l f s) :=
    by
  unfold setLth
  try dsimp only
  with_reducible repeat' first | assumption | split | (simp only [good_mk]; apply Good.parts)

theorem good_setLink {a : State} (l : Fin 8) (f : Link → Link) (s : State) (h : Good a s) : Good a (setLink l f s) :=
    by
  unfold setLink
  try dsimp only
  with_reducible repeat' first | assumption | split | (simp only [good_mk]; apply Good.parts)

theorem good_setSns {a : State} (p : Fin 24) (f : Port → Port) (s : State) (h : Good a s) : Good a (setSns p f s) :=
    by
  unfold setSns
  try dsimp only
  with_reducible repeat' first | assumption | split | (simp only [good_mk]; apply Good.parts)

theorem good_setJob {a : State} (j : Fin 4) (f : Job → Job) (s : State) (h : Good a s) : Good a (setJob j f s) := by
  unfold setJob
  try dsimp only
  with_reducible repeat' first
    | assumption | (intro _ _ _; try dsimp only) | split | (simp only [good_mk]; apply Good.parts)

theorem good_setEng {a : State} (x0 : Fin 8) (f : Engine → Engine) (s : State) (h : Good a s) : Good a (setEng x0 f s)
    := by
  unfold setEng
  try dsimp only
  with_reducible repeat' first | assumption | split | (simp only [good_mk]; apply Good.parts)

theorem good_bumpEvt {a : State} (i : Fin 3) (n : Nat) (s : State) (h : Good a s) : Good a (bumpEvt i n s) := by
  unfold bumpEvt
  try dsimp only
  with_reducible repeat' first | assumption | split | (simp only [good_mk]; apply Good.parts)

theorem good_post {a : State} (e : Posted) (s : State) (h : Good a s) : Good a (post e s) := by
  unfold post
  split
  · split
    · rename_i h2
      refine h.step rfl rfl rfl (Nat.le_refl _) (fun _ q => q) ⟨[], by simp [bumpEvt]⟩ id id ?_ id
      intro _
      simp only [bumpEvt, List.length_append, List.length_cons, List.length_nil]
      omega
    · exact good_bumpEvt _ _ _ (good_bumpEvt _ _ _ (good_mk.2 h.parts))
  · exact good_mk.2 h.parts

theorem good_postIf {a : State} (b : Bool) (e : Posted) (s : State) (h : Good a s) : Good a (postIf b e s) := by
  have h2 := good_post e s h
  cases b
  · exact h
  · have : postIf true e s = post e s := by
      unfold postIf post bumpEvt
      simp only [if_true]
      (repeat' split) <;> rfl
    rw [this]; exact h2

theorem good_bumpPwr {a : State} (i : Fin 6) (n : Nat) (s : State) (h : Good a s) : Good a (bumpPwr i n s) := by
  unfold bumpPwr
  try dsimp only
  with_reducible repeat' first | assumption | apply good_postIf | split | (simp only [good_mk]; apply Good.parts)

theorem good_bumpAon {a : State} (i : Fin 4) (n : Nat) (s : State) (h : Good a s) : Good a (bumpAon i n s) := by
  unfold bumpAon
  try dsimp only
  with_reducible repeat' first | assumption | apply good_postIf | split | (simp only [good_mk]; apply Good.parts)

theorem good_bumpHif {a : State} (i : Fin 4) (n : Nat) (s : State) (h : Good a s) : Good a (bumpHif i n s) := by
  unfold bumpHif
  try dsimp only
  with_reducible repeat' first | assumption | apply good_postIf | split | (simp only [good_mk]; apply Good.parts)

theorem good_bumpSec {a : State} (i : Fin 5) (n : Nat) (s : State) (h : Good a s) : Good a (bumpSec i n s) := by
  unfold bumpSec
  try dsimp only
  with_reducible repeat' first | assumption | apply good_postIf | split | (simp only [good_mk]; apply Good.parts)

theorem good_bumpFls {a : State} (i : Fin 7) (n : Nat) (s : State) (h : Good a s) : Good a (bumpFls i n s) := by
  unfold bumpFls
  try dsimp only
  with_reducible repeat' first | assumption | apply good_postIf | split | (simp only [good_mk]; apply Good.parts)

theorem good_bumpRng {a : State} (i : Fin 3) (n : Nat) (s : State) (h : Good a s) : Good a (bumpRng i n s) := by
  unfold bumpRng
  try dsimp only
  with_reducible repeat' first | assumption | apply good_postIf | split | (simp only [good_mk]; apply Good.parts)

theorem good_bumpStk {a : State} (i : Fin 8) (n : Nat) (s : State) (h : Good a s) : Good a (bumpStk i n s) := by
  unfold bumpStk
  try dsimp only
  with_reducible repeat' first | assumption | apply good_postIf | split | (simp only [good_mk]; apply Good.parts)

theorem good_bumpBnc {a : State} (b : Fin 4) (i : Fin 7) (n : Nat) (s : State) (h : Good a s) :
    Good a (bumpBnc b i n s) := by
  unfold bumpBnc
  try dsimp only
  with_reducible repeat' first
    | assumption | apply good_postIf | apply good_setBnc | (intro _; rfl) | split
    | (simp only [good_mk]; apply Good.parts)

theorem good_bumpPln {a : State} (p : Fin 16) (i : Fin 10) (n : Nat) (s : State) (h : Good a s) : Good a (bumpPln p i
    n s) := by
  unfold bumpPln
  try dsimp only
  with_reducible repeat' first
    | assumption | apply good_postIf | apply good_setPln | (intro _ _ _; try dsimp only) | split
    | (simp only [good_mk]; apply Good.parts)

theorem good_bumpLth {a : State} (l : Fin 4) (i : Fin 4) (n : Nat) (s : State) (h : Good a s) : Good a (bumpLth l i n
    s) := by
  unfold bumpLth
  try dsimp only
  with_reducible repeat' first
    | assumption | apply good_postIf | apply good_setLth | (intro _ _ _; try dsimp only) | split
    | (simp only [good_mk]; apply Good.parts)

theorem good_bumpLink {a : State} (l : Fin 8) (i : Fin 8) (n : Nat) (s : State) (h : Good a s) : Good a (bumpLink l i
    n s) := by
  unfold bumpLink
  try dsimp only
  with_reducible repeat' first
    | assumption | apply good_postIf | apply good_setLink | (intro _ _ _; try dsimp only) | split
    | (simp only [good_mk]; apply Good.parts)

theorem good_bumpWs {a : State} (i : Fin 2) (n : Nat) (s : State) (h : Good a s) : Good a (bumpWs i n s) := by
  unfold bumpWs
  try dsimp only
  with_reducible repeat' first | assumption | apply good_postIf | split | (simp only [good_mk]; apply Good.parts)

theorem good_bumpCol {a : State} (i : Fin 8) (n : Nat) (s : State) (h : Good a s) : Good a (bumpCol i n s) := by
  unfold bumpCol
  try dsimp only
  with_reducible repeat' first | assumption | apply good_postIf | split | (simp only [good_mk]; apply Good.parts)

theorem good_bumpSns {a : State} (p : Fin 24) (i : Fin 5) (n : Nat) (s : State) (h : Good a s) : Good a (bumpSns p i n
    s) := by
  unfold bumpSns
  try dsimp only
  with_reducible repeat' first
    | assumption | apply good_postIf | apply good_setSns | (intro _ _ _; try dsimp only) | split
    | (simp only [good_mk]; apply Good.parts)

theorem good_bumpTrn {a : State} (j : Fin 4) (i : Fin 6) (n : Nat) (s : State) (h : Good a s) : Good a (bumpTrn j i n
    s) := by
  unfold bumpTrn
  try dsimp only
  with_reducible repeat' first
    | assumption | apply good_postIf | apply good_setJob | (intro _ _ _; try dsimp only) | split
    | (simp only [good_mk]; apply Good.parts)

theorem good_bumpSeq {a : State} (j : Fin 4) (i : Fin 4) (n : Nat) (s : State) (h : Good a s) : Good a (bumpSeq j i n
    s) := by
  unfold bumpSeq
  try dsimp only
  with_reducible repeat' first
    | assumption | apply good_postIf | apply good_setJob | (intro _ _ _; try dsimp only) | split
    | (simp only [good_mk]; apply Good.parts)

theorem good_bumpSlices {a : State} (s : State) (h : Good a s) : Good a (bumpSlices s) := by
  unfold bumpSlices
  try dsimp only
  with_reducible repeat' first | assumption | apply good_postIf | split | (simp only [good_mk]; apply Good.parts)

theorem good_bumpTelDrops {a : State} (s : State) (h : Good a s) : Good a (bumpTelDrops s) := by
  unfold bumpTelDrops
  try dsimp only
  with_reducible repeat' first | assumption | apply good_postIf | split | (simp only [good_mk]; apply Good.parts)

theorem good_fire {a : State} (v : Fin 4) (s : State) (h : Good a s) : Good a (fire v s) := by
  unfold fire
  try dsimp only
  with_reducible repeat' first
    | assumption | (intro _ _ _; try dsimp only) | split | (simp only [good_mk]; apply Good.parts)

theorem good_hifFault {a : State} (bit : Nat) (seq : BitVec 16) (s : State) (h : Good a s) : Good a (hifFault bit seq
    s) := by
  unfold hifFault
  try dsimp only
  with_reducible repeat' first | assumption | split | (simp only [good_mk]; apply Good.parts)

theorem good_putResult {a : State} (r : Result) (s : State) (h : Good a s) : Good a (putResult r s) := by
  unfold putResult
  try dsimp only
  with_reducible repeat' first
    | assumption | apply good_fire | apply good_post | apply good_bumpHif | apply good_hifFault | split
    | (simp only [good_mk]; apply Good.parts)

theorem good_answer {a : State} (p : Pend) (status : Byte) (final : Bool) (p0 : Word) (p1 : Word) (p2 : Word) (p3 :
    Word) (s : State) (h : Good a s) : Good a (answer p status final p0 p1 p2 p3 s) := by
  unfold answer
  try dsimp only
  with_reducible repeat' first | assumption | apply good_putResult | split | (simp only [good_mk]; apply Good.parts)

theorem good_endWith {a : State} (p : Pend) (status : Byte) (s : State) (h : Good a s) : Good a (endWith p status s)
    := by
  unfold endWith
  try dsimp only
  with_reducible repeat' first | assumption | apply good_answer | split | (simp only [good_mk]; apply Good.parts)

theorem good_endOpt {a : State} (p : Option Pend) (status : Byte) (s : State) (h : Good a s) : Good a (endOpt p status
    s) := by
  unfold endOpt
  try dsimp only
  with_reducible repeat' first | assumption | apply good_endWith | split | (simp only [good_mk]; apply Good.parts)

theorem good_startPending {a : State} (p : Pend) (s : State) (h : Good a s) : Good a (startPending p s) := by
  unfold startPending
  try dsimp only
  with_reducible repeat' first | assumption | apply good_answer | split | (simp only [good_mk]; apply Good.parts)

theorem good_takeCmd {a t : State} {c : Cmd} {op : Byte} {s : State} (e : takeCmd c op s = some t) (h : Good a s) :
    Good a t := by
  unfold takeCmd at e
  repeat' split at e
  all_goals first
    | cases e
    | skip
  · rename_i q _
    refine h.step rfl rfl rfl (Nat.le_refl _) (fun _ p => p) ⟨[], by simp⟩ id ?_ id id
    intro l
    rw [q] at l
    simp only [List.length_cons] at l ⊢
    omega
  · simp only [good_mk]
    exact h.parts

theorem good_runCmd {a : State} (c : Cmd) (op : Byte) (reserved : Bool) (k : Pend → State → State) (s : State) (hk : ∀
    y0 y1, Good a y1 → Good a (k y0 y1)) (h : Good a s) : GoodOut a (runCmd c op reserved k s) := by
  unfold runCmd
  try dsimp only
  with_reducible repeat' first
    | assumption | refine good_takeCmd ‹_› ?_ | apply good_endWith | apply hk | apply GoodOut.next
    | exact GoodOut.fault | (intro _ _ _; try dsimp only) | split | (simp only [good_mk]; apply Good.parts)

theorem good_someCycles {a : State} (s : State) (h : Good a s) : Good a (someCycles s).2 := by
  unfold someCycles
  try dsimp only
  with_reducible repeat' first | assumption | split | (simp only [good_mk]; apply Good.parts)

theorem good_draw {a : State} (s : State) (h : Good a s) : Good a (draw s).2 := by
  unfold draw
  try dsimp only
  with_reducible repeat' first | assumption | split | (simp only [good_mk]; apply Good.parts)

/-! ### Machine/Wire.lean -/

theorem good_enqueue {a : State} (l : Fin 8) (x : Sent) (s : State) (h : Good a s) : Good a (enqueue l x s) := by
  unfold enqueue
  try dsimp only
  with_reducible repeat' first
    | assumption | apply good_setLink | (intro _ _ _; try dsimp only) | split
    | (simp only [good_mk]; apply Good.parts)

theorem good_sendTo {a : State} (dst : Nat) (x : Sent) (s : State) (h : Good a s) : Good a (sendTo dst x s) := by
  unfold sendTo
  try dsimp only
  with_reducible repeat' first
    | assumption | apply good_enqueue | apply good_bumpWs | split | (simp only [good_mk]; apply Good.parts)

theorem good_noteSent {a : State} (x : Sent) (s : State) (h : Good a s) : Good a (noteSent x s) := by
  unfold noteSent
  try dsimp only
  with_reducible repeat' first | assumption | split | (simp only [good_mk]; apply Good.parts)

theorem good_send {a : State} (dst : BitVec 16) (kind : Byte) (arg : BitVec 16) (p : Payload) (s : State) (h : Good a
    s) : Good a (send dst kind arg p s) := by
  unfold send
  try dsimp only
  with_reducible repeat' first
    | assumption | apply good_noteSent | apply good_enqueue | apply good_sendTo | apply Good.foldl
    | (intro _ _ _; try dsimp only) | split | (simp only [good_mk]; apply Good.parts)

theorem good_sendOn {a : State} (l : Fin 8) (dst : BitVec 16) (kind : Byte) (arg : BitVec 16) (p : Payload) (s :
    State) (h : Good a s) : Good a (sendOn l dst kind arg p s) := by
  unfold sendOn
  try dsimp only
  with_reducible repeat' first
    | assumption | apply good_enqueue | apply good_noteSent | split | (simp only [good_mk]; apply Good.parts)

theorem good_sendCoord {a : State} (kind : Byte) (arg : BitVec 16) (p : Payload) (s : State) (h : Good a s) : Good a
    (sendCoord kind arg p s) := by
  unfold sendCoord
  try dsimp only
  with_reducible repeat' first | assumption | apply good_send | split | (simp only [good_mk]; apply Good.parts)

theorem good_sendAll {a : State} (kind : Byte) (arg : BitVec 16) (p : Payload) (s : State) (h : Good a s) : Good a
    (sendAll kind arg p s) := by
  unfold sendAll
  try dsimp only
  with_reducible repeat' first | assumption | apply good_send | split | (simp only [good_mk]; apply Good.parts)

theorem good_moveOne {a : State} (l : Fin 8) (before : State) (after : State) (m : BitVec 2 × Nat × Sent) (s : State)
    (h : Good a s) : Good a (moveOne l before after m s) := by
  unfold moveOne
  try dsimp only
  with_reducible repeat' first
    | assumption | apply good_bumpWs | apply good_enqueue | apply good_setLink | apply Good.foldl
    | (intro _ _ _; try dsimp only) | split | (simp only [good_mk]; apply Good.parts)

theorem good_moveQueue {a : State} (l : Fin 8) (before : State) (after : State) (h : Good a after) : Good a (moveQueue
    l before after) := by
  unfold moveQueue
  try dsimp only
  with_reducible repeat' first
    | assumption | apply good_moveOne | apply Good.foldl | (intro _ _ _; try dsimp only) | split
    | (simp only [good_mk]; apply Good.parts)

theorem good_rekeyEnd {a : State} (l : Fin 8) (s : State) (h : Good a s) : Good a (rekeyEnd l s) := by
  unfold rekeyEnd
  try dsimp only
  with_reducible repeat' first
    | assumption | apply good_bumpLink | apply good_setLink | (intro _ _ _; try dsimp only) | split
    | (simp only [good_mk]; apply Good.parts)

theorem good_switchTx {a : State} (l : Fin 8) (s : State) (h : Good a s) : Good a (switchTx l s) := by
  unfold switchTx
  try dsimp only
  with_reducible repeat' first
    | assumption | apply good_rekeyEnd | apply good_setLink | (intro _ _ _; try dsimp only) | split
    | (simp only [good_mk]; apply Good.parts)

theorem good_switchRx {a : State} (l : Fin 8) (s : State) (h : Good a s) : Good a (switchRx l s) := by
  unfold switchRx
  try dsimp only
  with_reducible repeat' first
    | assumption | apply good_rekeyEnd | apply good_setLink | (intro _ _ _; try dsimp only) | split
    | (simp only [good_mk]; apply Good.parts)

theorem good_laterSwitch {a : State} (l : Fin 8) (s : State) (h : Good a s) : Good a (laterSwitch l s) := by
  unfold laterSwitch
  try dsimp only
  with_reducible repeat' first
    | assumption | apply good_someCycles | apply good_setLink | refine Good.snd (by assumption) ?_
    | (intro _ _ _; try dsimp only) | split | (simp only [good_mk]; apply Good.parts)

theorem good_flitSlot {a : State} (l : Fin 8) (s : State) (h : Good a s) : Good a (flitSlot l s) := by
  unfold flitSlot
  try dsimp only
  with_reducible repeat' first
    | assumption | apply good_laterSwitch | apply good_switchRx | apply good_switchTx | apply good_setLink
    | apply good_bumpLink | (intro _ _ _; try dsimp only) | split | (simp only [good_mk]; apply Good.parts)

theorem good_eachLink {a : State} (f : Fin 8 → State → State) (s : State) (hf : ∀ y0 y1, Good a y1 → Good a (f y0 y1))
    (h : Good a s) : Good a (eachLink f s) := by
  unfold eachLink
  try dsimp only
  with_reducible repeat' first
    | assumption | apply hf | apply Good.foldl | (intro _ _ _; try dsimp only) | (intro _ _; try dsimp only)
    | split | (simp only [good_mk]; apply Good.parts)

theorem good_tick {a : State} (s : State) (h : Good a s) : Good a (tick s) := by
  unfold tick
  try dsimp only
  with_reducible repeat' first
    | assumption | apply good_eachLink | apply good_flitSlot | split | (simp only [good_mk]; apply Good.parts)

/-! ### Machine/TkOps.lean -/

theorem good_tkCorrect {a : State} (x0 : Int) (fabric : Bool) (s : State) (h : Good a s) : Good a (tkCorrect x0 fabric
    s) := by
  unfold tkCorrect
  try dsimp only
  with_reducible repeat' first
    | assumption | apply good_postIf | apply good_post | apply good_bumpAon | split
    | (simp only [good_mk]; apply Good.parts)

theorem good_tkFabric {a : State} (x0 : Int) (s : State) (h : Good a s) : Good a (tkFabric x0 s) := by
  unfold tkFabric
  try dsimp only
  with_reducible repeat' first | assumption | apply good_tkCorrect | split | (simp only [good_mk]; apply Good.parts)

theorem good_ppsCorrect {a : State} (s : State) (h : Good a s) : Good a (ppsCorrect s) := by
  unfold ppsCorrect
  try dsimp only
  with_reducible repeat' first
    | assumption | apply good_bumpAon | apply good_tkCorrect | split | (simp only [good_mk]; apply Good.parts)

/-! ### Machine/Jobs.lean -/

theorem good_setTens {a : State} (j : Fin 4) (id : BitVec 16) (f : TRun → TRun) (s : State) (h : Good a s) : Good a
    (setTens j id f s) := by
  unfold setTens
  try dsimp only
  with_reducible repeat' first
    | assumption | apply good_setJob | (intro _ _ _; try dsimp only) | split
    | (simp only [good_mk]; apply Good.parts)

theorem good_colMark {a : State} (j : Fin 4) (x1 : BitVec 16) (s : State) (h : Good a s) : Good a (colMark j x1 s) :=
    by
  unfold colMark
  try dsimp only
  with_reducible repeat' first
    | assumption | (intro _ _ _; try dsimp only) | split | (simp only [good_mk]; apply Good.parts)

theorem good_colFresh {a : State} (j : Fin 4) (s : State) (h : Good a s) : Good a (colFresh j s) := by
  unfold colFresh
  try dsimp only
  with_reducible repeat' first | assumption | split | (simp only [good_mk]; apply Good.parts)

theorem good_allocHandle {a t : State} {n0 : _} {cls : HClass} {job : Nat} {spill : Bool} {tensor : BitVec 16} {bytes
    : Nat} {limit : Nat} {s : State} (e : allocHandle cls job spill tensor bytes limit s = some (n0, t)) (h : Good a
    s) : Good a t := by
  unfold allocHandle at e
  try dsimp only at e
  repeat' split at e
  all_goals first | cases e | skip
  with_reducible repeat' first | assumption | split | (simp only [good_mk]; apply Good.parts)

theorem good_setHandle {a : State} (x0 : Nat) (f : Handle → Handle) (s : State) (h : Good a s) : Good a (setHandle x0
    f s) := by
  unfold setHandle
  try dsimp only
  with_reducible repeat' first | assumption | split | (simp only [good_mk]; apply Good.parts)

theorem good_freeHandle {a : State} (x0 : Nat) (s : State) (h : Good a s) :
    Good a (freeHandle x0 s) := by
  unfold freeHandle
  try dsimp only
  repeat' first
    | with_reducible assumption
    | with_reducible exact Good.refl _
    | with_reducible rfl
    | with_reducible apply good_setHandle
    | with_reducible apply Good.foldl
    | (intro _; with_reducible rfl)
    | (intro _; repeat' split) <;> with_reducible rfl
    | (intro _ _ _ _ _ _; try dsimp only)
    | (intro _ _ _ _ _; try dsimp only)
    | (intro _ _ _ _; try dsimp only)
    | (intro _ _ _; try dsimp only)
    | (intro _ _; try dsimp only)
    | split
    | (simp only [good_mk]; with_reducible apply Good.parts)
    | (simp only [good_mk]; with_reducible refine Good.partsBytes ?_ ?_)
    | (intro w; first | with_reducible exact clearRange_wf _ _ _ w | with_reducible exact writeBytes_wf _ _ _ w | with_reducible exact overlay_wf _ _ (withoutHandles_wf _ _ w) | with_reducible exact discardBytes_wf _ _ _ w)
    | (simp only [good_mk]; with_reducible refine Good.partsVmap ?_ ?_)
    | (intro _; with_reducible exact Or.inl rfl)
    | ((intro _; repeat' split) <;> first | with_reducible exact Or.inl rfl | with_reducible exact Or.inr rfl)
    | (simp only [good_mk]; with_reducible refine Good.partsQueues ?_ ?_ ?_ ?_)
    | with_reducible exact id
    | with_reducible exact fun _ => Nat.zero_le _
    | exact fun _ => (Nat.zero_le _ : Hif.reset.queue.length ≤ 16)
    | (intro _; omega)
    | (simp only [good_mk]; done)
    | (intro q; cases q; done)
    | (intro _; rfl)
    | (intro _; rfl)
    | dsimp only
    | (dsimp only [id]; with_reducible assumption)

theorem good_dropFrame {a : State} (x0 : Nat) (i : Nat) (s : State) (h : Good a s) : Good a (dropFrame x0 i s) := by
  unfold dropFrame
  try dsimp only
  repeat' first
    | with_reducible assumption
    | with_reducible apply good_setHandle
    | (simp only [good_mk]; with_reducible refine Good.partsBytes ?_ ?_)
    | (intro w; first | with_reducible exact clearRange_wf _ _ _ w | with_reducible exact writeBytes_wf _ _ _ w | with_reducible exact discardBytes_wf _ _ _ _ w)

theorem good_freeFrame {a : State} (x0 : Nat) (i : Nat) (s : State) (h : Good a s) : Good a (freeFrame x0 i s) := by
  unfold freeFrame
  try dsimp only
  with_reducible repeat' first
    | assumption | apply good_dropFrame | apply good_setHandle | (intro _ _ _; try dsimp only) | split
    | (simp only [good_mk]; apply Good.parts)

theorem good_unpin {a : State} (gone : PinBy → Bool) (s : State) (h : Good a s) : Good a (unpin gone s) := by
  unfold unpin
  try dsimp only
  with_reducible repeat' first
    | assumption | apply good_dropFrame | apply good_freeHandle | apply Good.foldl | (intro _ _ _; try dsimp only)
    | split | (simp only [good_mk]; apply Good.parts)

theorem good_pinFrames {a : State} (x0 : Nat) (fs : List Nat) (p : PinBy) (s : State) (h : Good a s) : Good a
    (pinFrames x0 fs p s) := by
  unfold pinFrames
  try dsimp only
  with_reducible repeat' first
    | assumption | apply good_setHandle | (intro _ _ _; try dsimp only) | split
    | (simp only [good_mk]; apply Good.parts)

theorem good_pageOutRun {a : State} (x0 : Nat) (i : Nat) (s : State) (h : Good a s) : Good a (pageOutRun x0 i s) := by
  unfold pageOutRun
  try dsimp only
  repeat' first
    | with_reducible assumption
    | with_reducible apply good_setHandle
    | with_reducible apply good_bumpStk
    | (simp only [good_mk]; with_reducible refine Good.partsBytes ?_ ?_)
    | (intro w; first | with_reducible exact clearRange_wf _ _ _ w | with_reducible exact writeBytes_wf _ _ _ w | with_reducible exact discardBytes_wf _ _ _ _ w)

theorem good_makeRoom {a : State} (s : State) (h : Good a s) : Good a (makeRoom s) := by
  unfold makeRoom
  try dsimp only
  with_reducible repeat' first | assumption | apply good_pageOutRun | split | (simp only [good_mk]; apply Good.parts)

theorem good_pickPfn {a t : State} {n0 : _} {s0 : State} (e : pickPfn s0 = some (n0, t)) (h : Good a s0) : Good a t :=
    by
  unfold pickPfn at e
  try dsimp only at e
  repeat' split at e
  all_goals first | cases e | skip
  with_reducible repeat' first | assumption | apply good_makeRoom | split | (simp only [good_mk]; apply Good.parts)

theorem good_touchFrame {a t : State} {x0 : Nat} {i : Nat} {s0 : State} (e : touchFrame x0 i s0 = some t) (h : Good a
    s0) : Good a t := by
  unfold touchFrame at e
  try dsimp only at e
  repeat' split at e
  all_goals first | cases e | skip
  with_reducible repeat' first
    | assumption | apply good_setHandle | refine good_pickPfn ‹_› ?_ | (intro _ _ _; try dsimp only) | split
    | (simp only [good_mk]; apply Good.parts)

theorem good_touchFrames {a : State} {x0 : Nat} : ∀ {l : List Nat} {x2 t : State}, touchFrames x0 l x2 = some t → Good a x2 → Good a t
  | [], _, _, e, h => by cases e; exact h
  | i :: l, x2, t, e, h => by
    unfold touchFrames at e
    obtain ⟨s1, e1, e2⟩ := Option.bind_eq_some_iff.1 e
    exact good_touchFrames e2 (good_touchFrame e1 h)

theorem good_tcFill {a : State} (q : Nat × Nat) (s : State) (h : Good a s) : Good a (tcFill q s) := by
  unfold tcFill
  try dsimp only
  with_reducible repeat' first | assumption | split | (simp only [good_mk]; apply Good.parts)

theorem good_translate {a : State} (x0 : Nat) (i : Nat) (s : State) (h : Good a s) : Good a (translate x0 i s) := by
  unfold translate
  try dsimp only
  with_reducible repeat' first
    | assumption | apply good_tcFill | apply good_bumpStk | apply good_setHandle | (intro _ _ _; try dsimp only)
    | split | (simp only [good_mk]; apply Good.parts)

theorem good_countReqs {a : State} (x0 : Nat) (off : Nat) (n : Nat) (s : State) (h : Good a s) : Good a (countReqs x0
    off n s) := by
  unfold countReqs
  try dsimp only
  with_reducible repeat' first
    | assumption | apply Good.foldl | (intro _ _ _; try dsimp only) | split
    | (simp only [good_mk]; apply Good.parts)

theorem good_useHandle {a : State} (x0 : Nat) (off : Nat) (n : Nat) (s : State) (h : Good a s) : Good a (useHandle x0
    off n s) := by
  unfold useHandle
  try dsimp only
  with_reducible repeat' first
    | assumption | apply good_countReqs | apply good_translate | apply Good.foldl | (intro _ _ _; try dsimp only)
    | split | (simp only [good_mk]; apply Good.parts)

theorem good_writeHandle {a t : State} {x0 off : Nat} {bs : List Byte} {s : State}
    (e : writeHandle x0 off bs s = some t) (h : Good a s) : Good a t := by
  unfold writeHandle at e
  obtain ⟨s1, e1, rfl⟩ := Option.map_eq_some_iff.1 e
  simp only [good_mk]
  exact Good.partsBytes (good_useHandle _ _ _ _ (good_touchFrames e1 h)) fun w => writeBytes_wf _ _ _ w

theorem good_stkFault {a : State} (kind : Nat) (x1 : Nat) (eng : Nat) (job : Nat) (drawer : Nat) (addr : Nat) (s :
    State) (h : Good a s) : Good a (stkFault kind x1 eng job drawer addr s) := by
  unfold stkFault
  try dsimp only
  with_reducible repeat' first | assumption | split | (simp only [good_mk]; apply Good.parts)

theorem good_exhausted {a : State} (job : Nat) (s : State) (h : Good a s) : Good a (exhausted job s) := by
  unfold exhausted
  try dsimp only
  with_reducible repeat' first
    | assumption | apply good_stkFault | apply good_post | split | (simp only [good_mk]; apply Good.parts)

theorem good_assignIdle {a : State} (x0 : List (Fin 8)) (x1 : List (Fin 4 × List Desc8)) (x2 : State) :
    Good a x2 → Good a (assignIdle x0 x1 x2) := by
  fun_induction assignIdle x0 x1 x2 <;> intro h <;> try dsimp only at *
  all_goals
    with_reducible repeat' first
      | assumption | (rename_i ih; apply ih) | apply good_setEng | split | (simp only [good_mk]; apply Good.parts)

theorem good_dropEngines {a : State} (j : Fin 4) (s : State) (h : Good a s) : Good a (dropEngines j s) := by
  unfold dropEngines
  try dsimp only
  with_reducible repeat' first
    | assumption | apply good_assignIdle | (intro _ _ _; try dsimp only) | split
    | (simp only [good_mk]; apply Good.parts)

theorem good_freeArrivals {a : State} (j : Fin 4) (s : State) (h : Good a s) : Good a (freeArrivals j s) := by
  unfold freeArrivals
  try dsimp only
  with_reducible repeat' first
    | assumption | apply good_setJob | apply good_freeHandle | apply Good.foldl | (intro _ _ _; try dsimp only)
    | split | (simp only [good_mk]; apply Good.parts)

theorem good_waitEnds {a : State} (b : Fin 4) (s : State) (h : Good a s) : Good a (waitEnds b s) := by
  unfold waitEnds
  try dsimp only
  with_reducible repeat' first
    | assumption | apply good_someCycles | apply good_bumpBnc | refine Good.snd (by assumption) ?_ | split
    | (simp only [good_mk]; apply Good.parts)

theorem good_planeWaitEnds {a : State} (p : Fin 16) (s : State) (h : Good a s) : Good a (planeWaitEnds p s) := by
  unfold planeWaitEnds
  try dsimp only
  with_reducible repeat' first
    | assumption | apply good_someCycles | apply good_bumpPln | refine Good.snd (by assumption) ?_ | split
    | (simp only [good_mk]; apply Good.parts)

theorem good_endWaits {a : State} (j : Fin 4) (s : State) (h : Good a s) : Good a (endWaits j s) := by
  unfold endWaits
  try dsimp only
  with_reducible repeat' first
    | assumption | apply good_waitEnds | apply good_planeWaitEnds | apply Good.foldl
    | (intro _ _ _; try dsimp only) | split | (simp only [good_mk]; apply Good.parts)

theorem good_haltUnits {a : State} (j : Fin 4) (s : State) (h : Good a s) : Good a (haltUnits j s) := by
  unfold haltUnits
  try dsimp only
  repeat' first
    | with_reducible assumption
    | with_reducible apply good_unpin
    | with_reducible apply good_dropEngines
    | with_reducible apply good_setJob
    | with_reducible apply good_freeArrivals
    | with_reducible apply good_endWaits
    | (simp only [good_mk]; with_reducible refine Good.partsVmap ?_ ?_)
    | ((intro _; repeat' split) <;> first | with_reducible exact Or.inl rfl | with_reducible exact Or.inr rfl)

theorem good_emptySlots {a : State} (s : State) (h : Good a s) :
    Good a (emptySlots s) := by
  unfold emptySlots
  try dsimp only
  repeat' first
    | with_reducible assumption
    | with_reducible exact Good.refl _
    | with_reducible rfl
    | with_reducible apply Good.foldl
    | (intro _; with_reducible rfl)
    | (intro _; repeat' split) <;> with_reducible rfl
    | (intro _ _ _ _ _ _; try dsimp only)
    | (intro _ _ _ _ _; try dsimp only)
    | (intro _ _ _ _; try dsimp only)
    | (intro _ _ _; try dsimp only)
    | (intro _ _; try dsimp only)
    | split
    | (simp only [good_mk]; with_reducible apply Good.parts)
    | (simp only [good_mk]; with_reducible refine Good.partsBytes ?_ ?_)
    | (intro w; first | with_reducible exact clearRange_wf _ _ _ w | with_reducible exact writeBytes_wf _ _ _ w | with_reducible exact overlay_wf _ _ (withoutHandles_wf _ _ w) | with_reducible exact discardBytes_wf _ _ _ w)
    | (simp only [good_mk]; with_reducible refine Good.partsVmap ?_ ?_)
    | (intro _; with_reducible exact Or.inl rfl)
    | ((intro _; repeat' split) <;> first | with_reducible exact Or.inl rfl | with_reducible exact Or.inr rfl)
    | (simp only [good_mk]; with_reducible refine Good.partsQueues ?_ ?_ ?_ ?_)
    | with_reducible exact id
    | with_reducible exact fun _ => Nat.zero_le _
    | exact fun _ => (Nat.zero_le _ : Hif.reset.queue.length ≤ 16)
    | (intro _; omega)
    | (simp only [good_mk]; done)
    | (intro q; cases q; done)
    | (intro _; rfl)
    | (intro _; rfl)
    | dsimp only
    | (dsimp only [id]; with_reducible assumption)

theorem good_clearSlots {a : State} (j : Fin 4) (s : State) (h : Good a s) : Good a (clearSlots j s) := by
  unfold clearSlots
  try dsimp only
  with_reducible repeat' first
    | assumption | apply good_emptySlots | (intro _ _ _; try dsimp only) | split
    | (simp only [good_mk]; apply Good.parts)

theorem good_restoreSaved {a : State} (j : Fin 4) (s : State) (h : Good a s) :
    Good a (restoreSaved j s) := by
  unfold restoreSaved
  try dsimp only
  repeat' first
    | with_reducible assumption
    | with_reducible exact Good.refl _
    | with_reducible rfl
    | with_reducible apply good_setJob
    | with_reducible apply Good.foldl
    | (intro _; with_reducible rfl)
    | (intro _; repeat' split) <;> with_reducible rfl
    | (intro _ _ _ _ _ _; try dsimp only)
    | (intro _ _ _ _ _; try dsimp only)
    | (intro _ _ _ _; try dsimp only)
    | (intro _ _ _; try dsimp only)
    | (intro _ _; try dsimp only)
    | split
    | (simp only [good_mk]; with_reducible apply Good.parts)
    | (simp only [good_mk]; with_reducible refine Good.partsBytes ?_ ?_)
    | (intro w; first | with_reducible exact clearRange_wf _ _ _ w | with_reducible exact writeBytes_wf _ _ _ w | with_reducible exact overlay_wf _ _ (withoutHandles_wf _ _ w) | with_reducible exact discardBytes_wf _ _ _ w)
    | (simp only [good_mk]; with_reducible refine Good.partsVmap ?_ ?_)
    | (intro _; with_reducible exact Or.inl rfl)
    | ((intro _; repeat' split) <;> first | with_reducible exact Or.inl rfl | with_reducible exact Or.inr rfl)
    | (simp only [good_mk]; with_reducible refine Good.partsQueues ?_ ?_ ?_ ?_)
    | with_reducible exact id
    | with_reducible exact fun _ => Nat.zero_le _
    | exact fun _ => (Nat.zero_le _ : Hif.reset.queue.length ≤ 16)
    | (intro _; omega)
    | (simp only [good_mk]; done)
    | (intro q; cases q; done)
    | (intro _; rfl)
    | (intro _; rfl)
    | dsimp only
    | (dsimp only [id]; with_reducible assumption)

theorem good_abortStep {a : State} (j : Fin 4) (s : State) (h : Good a s) : Good a (abortStep j s) := by
  unfold abortStep
  try dsimp only
  repeat' first
    | with_reducible assumption
    | with_reducible apply good_haltUnits
    | with_reducible apply good_clearSlots
    | with_reducible apply good_setJob
    | with_reducible apply good_post
    | with_reducible apply good_bumpTrn
    | split
    | (simp only [good_mk]; with_reducible refine Good.partsBytes ?_ ?_)
    | (intro w; first | with_reducible exact clearRange_wf _ _ _ w | with_reducible exact writeBytes_wf _ _ _ w | with_reducible exact discardBytes_wf _ _ _ _ w)

end Sys2Proof.Machine
end

