-- ==== Sys2Proof/Laws/GoodWorkshop.lean ====
section
/-! SUPPORT. `Good` is kept by the workshop, the event log, resets and the step boundary:
for each operation, the lemma `good_<its name>`, which says that it leaves the waiting commands alone, undoes nothing that
goes one way, and keeps the invariant. -/

namespace Sys2Proof.Machine

/-! ### Machine/Workshop.lean -/

theorem good_sendNeeds {a : State} (j : Fin 4) (x : Job) (fl : List Need) (s : State) (h : Good a s) : Good a
    (sendNeeds j x fl s) := by
  unfold sendNeeds
  try dsimp only
  with_reducible repeat' first
    | assumption | apply good_send | apply good_setJob | apply Good.foldl | (intro _ _ _; try dsimp only) | split
    | (simp only [good_mk]; apply Good.parts)

theorem good_eachSlot {a : State} (f : Fin 4 → State → State) (s : State) (hf : ∀ y0 y1, Good a y1 → Good a (f y0 y1))
    (h : Good a s) : Good a (eachSlot f s) := by
  unfold eachSlot
  try dsimp only
  with_reducible repeat' first
    | assumption | apply hf | (intro _ _ _; try dsimp only) | split | (simp only [good_mk]; apply Good.parts)

theorem good_unjoin {a : State} (s : State) (h : Good a s) : Good a (unjoin s) := by
  unfold unjoin
  try dsimp only
  with_reducible repeat' first
    | assumption | (intro _ _ _; try dsimp only) | split | (simp only [good_mk]; apply Good.parts)

theorem good_tellArrivals {a : State} (kind : Byte) (p : Payload) (view : List Member) (s : State) (h : Good a s) :
    Good a (tellArrivals kind p view s) := by
  unfold tellArrivals
  try dsimp only
  with_reducible repeat' first
    | assumption | apply good_enqueue | apply Good.foldl | (intro _ _ _; try dsimp only) | split
    | (simp only [good_mk]; apply Good.parts)

theorem good_holdJobs {a : State} (s : State) (h : Good a s) : Good a (holdJobs s) := by
  unfold holdJobs
  try dsimp only
  with_reducible repeat' first
    | assumption | apply good_eachSlot | apply good_setJob | apply good_abortStep | (intro _ _ _; try dsimp only)
    | (intro _ _; try dsimp only) | split | (simp only [good_mk]; apply Good.parts)

theorem good_lastEpoch {a : State} (p : Proposal) (s : State) (h : Good a s) : Good a (lastEpoch p s) := by
  unfold lastEpoch
  try dsimp only
  with_reducible repeat' first
    | assumption | apply good_holdJobs | apply good_sendAll | split | (simp only [good_mk]; apply Good.parts)

theorem good_startChange {a : State} (s : State) (h : Good a s) : Good a (startChange s) := by
  unfold startChange
  try dsimp only
  with_reducible repeat' first
    | assumption | apply good_lastEpoch | apply good_tellArrivals | apply good_sendAll | split
    | (simp only [good_mk]; apply Good.parts)

theorem good_leaveWorkshop {a : State} (s : State) (h : Good a s) : Good a (leaveWorkshop s) := by
  unfold leaveWorkshop
  try dsimp only
  with_reducible repeat' first
    | assumption | apply good_unjoin | apply good_startChange | apply good_sendCoord | split
    | (simp only [good_mk]; apply Good.parts)

theorem good_noteChange {a : State} (c : Change) (s : State) (h : Good a s) : Good a (noteChange c s) := by
  unfold noteChange
  try dsimp only
  with_reducible repeat' first | assumption | split | (simp only [good_mk]; apply Good.parts)

theorem good_leaveJob {a : State} (j : Fin 4) (x : Job) (s : State) (h : Good a s) : Good a (leaveJob j x s) := by
  unfold leaveJob
  try dsimp only
  with_reducible repeat' first
    | assumption | apply good_noteChange | apply good_startChange | apply good_sendCoord
    | apply good_leaveWorkshop | split | (simp only [good_mk]; apply Good.parts)

theorem good_freeHandles {a : State} (x0 : List Nat) (x1 : State) : Good a x1 → Good a (freeHandles x0 x1) := by
  fun_induction freeHandles x0 x1 <;> intro h <;> try dsimp only at *
  all_goals
    with_reducible repeat' first
      | assumption | (rename_i ih; apply ih) | apply good_freeHandle | split
      | (simp only [good_mk]; apply Good.parts)

theorem good_endReplays {a : State} (st : Byte) (x1 : List ReplayReq) (x2 : State) :
    Good a x2 → Good a (endReplays st x1 x2) := by
  fun_induction endReplays st x1 x2 <;> intro h <;> try dsimp only at *
  all_goals
    with_reducible repeat' first
      | assumption | (rename_i ih; apply ih) | apply good_endOpt | split | (simp only [good_mk]; apply Good.parts)

theorem good_answerAll {a : State} (st : Byte) (p0 p1 : Word) (x3 : List Pend) (x4 : State) :
    Good a x4 → Good a (answerAll st p0 p1 x3 x4) := by
  fun_induction answerAll st p0 p1 x3 x4 <;> intro h <;> try dsimp only at *
  all_goals
    with_reducible repeat' first
      | assumption | (rename_i ih; apply ih) | apply good_answer | split | (simp only [good_mk]; apply Good.parts)

theorem good_keepStats {a : State} (x : Job) (s : State) (h : Good a s) : Good a (keepStats x s) := by
  unfold keepStats
  try dsimp only
  with_reducible repeat' first
    | assumption | apply Good.foldl | (intro _ _ _; try dsimp only) | split
    | (simp only [good_mk]; apply Good.parts)

theorem good_queueTask {a : State} (x0 : FlashTask) (s : State) (h : Good a s) : Good a (queueTask x0 s) := by
  unfold queueTask
  try dsimp only
  with_reducible repeat' first | assumption | split | (simp only [good_mk]; apply Good.parts)

theorem good_dropTask {a : State} (sel : FlashTask → Bool) (s : State) (h : Good a s) : Good a (dropTask sel s) := by
  unfold dropTask
  try dsimp only
  with_reducible repeat' first
    | assumption | (intro _ _ _; try dsimp only) | split | (simp only [good_mk]; apply Good.parts)

theorem good_stopSnap {a : State} (j : Fin 4) (st : Byte) (x : Job) (s : State) (h : Good a s) : Good a (stopSnap j st
    x s) := by
  unfold stopSnap
  try dsimp only
  with_reducible repeat' first | assumption | apply good_endOpt | split | (simp only [good_mk]; apply Good.parts)

theorem good_endExport {a : State} (j : Fin 4) (st : Byte) (s : State) (h : Good a s) : Good a (endExport j st s) :=
    by
  unfold endExport
  try dsimp only
  with_reducible repeat' first
    | assumption | apply good_dropTask | apply good_endOpt | apply good_freeHandle | split
    | (simp only [good_mk]; apply Good.parts)

theorem good_stopJob {a : State} (j : Fin 4) (st : Byte) (done : Byte) (p0 : Word) (p1 : Word) (s : State) (h : Good a
    s) : Good a (stopJob j st done p0 p1 s) := by
  unfold stopJob
  try dsimp only
  with_reducible repeat' first
    | assumption | apply good_haltUnits | apply good_answerAll | apply good_endOpt | apply good_keepStats
    | apply good_stopSnap | apply good_endReplays | apply good_freeHandles | apply good_leaveJob
    | (intro _ _ _; try dsimp only) | split | (simp only [good_mk]; apply Good.parts)

theorem good_abortAll {a : State} (idx : Nat) (step : Nat) (s : State) (h : Good a s) : Good a (abortAll idx step s)
    := by
  unfold abortAll
  try dsimp only
  with_reducible repeat' first
    | assumption | apply good_sendAll | (intro _ _ _; try dsimp only) | split
    | (simp only [good_mk]; apply Good.parts)

theorem good_sendAbort {a : State} (x : Job) (s : State) (h : Good a s) : Good a (sendAbort x s) := by
  unfold sendAbort
  try dsimp only
  with_reducible repeat' first | assumption | apply good_abortAll | split | (simp only [good_mk]; apply Good.parts)

theorem good_fatalFault {a : State} (j : Fin 4) (s : State) (h : Good a s) : Good a (fatalFault j s) := by
  unfold fatalFault
  try dsimp only
  with_reducible repeat' first
    | assumption | apply good_sendAbort | apply good_sendCoord | apply good_stopJob | apply good_abortStep | split
    | (simp only [good_mk]; apply Good.parts)

theorem good_pokeOr {a : State} (j : Fin 4) (x1 : Nat) (off : Nat) (bs : List Byte) (s : State) (h : Good a s) : Good
    a (pokeOr j x1 off bs s) := by
  unfold pokeOr
  try dsimp only
  with_reducible repeat' first
    | assumption | refine good_writeHandle ‹_› ?_ | apply good_fatalFault | apply good_exhausted | split
    | (simp only [good_mk]; apply Good.parts)

theorem good_applyTensor {a : State} (j : Fin 4) (p : PartTensor) (s : State) (h : Good a s) : Good a (applyTensor j p
    s) := by
  unfold applyTensor
  try dsimp only
  with_reducible repeat' first
    | assumption | apply good_pokeOr | apply good_setTens | (intro _ _ _; try dsimp only) | split
    | (simp only [good_mk]; apply Good.parts)

theorem good_applyParts {a : State} (j : Fin 4) (ps : List Part) (s : State) (h : Good a s) : Good a (applyParts j ps
    s) := by
  unfold applyParts
  try dsimp only
  with_reducible repeat' first
    | assumption | apply good_applyTensor | apply Good.foldl | (intro _ _ _; try dsimp only) | split
    | (simp only [good_mk]; apply Good.parts)

theorem good_adoptParts {a : State} (j : Fin 4) (ps : List Part) (step : Nat) (s : State) (h : Good a s) : Good a
    (adoptParts j ps step s) := by
  unfold adoptParts
  try dsimp only
  with_reducible repeat' first
    | assumption | apply good_applyParts | apply good_setJob | (intro _ _ _; try dsimp only) | split
    | (simp only [good_mk]; apply Good.parts)

theorem good_restoreDone {a : State} (j : Fin 4) (step : Nat) (s : State) (h : Good a s) : Good a (restoreDone j step
    s) := by
  unfold restoreDone
  try dsimp only
  with_reducible repeat' first
    | assumption | apply good_setJob | apply good_answer | (intro _ _ _; try dsimp only) | split
    | (simp only [good_mk]; apply Good.parts)

theorem good_restoreFail {a : State} (j : Fin 4) (s : State) (h : Good a s) : Good a (restoreFail j s) := by
  unfold restoreFail
  try dsimp only
  with_reducible repeat' first | assumption | apply good_stopJob | split | (simp only [good_mk]; apply Good.parts)

theorem good_joinRestore {a : State} (j : Fin 4) (x : Job) (s : State) (h : Good a s) : Good a (joinRestore j x s) :=
    by
  unfold joinRestore
  try dsimp only
  with_reducible repeat' first
    | assumption | apply good_setJob | apply good_abortStep | (intro _ _ _; try dsimp only) | split
    | (simp only [good_mk]; apply Good.parts)

theorem good_restoreAnswer {a : State} (j : Fin 4) (ok : Bool) (step : DWord) (parts : Nat) (holders : List (Nat ×
    Nat)) (s : State) (h : Good a s) : Good a (restoreAnswer j ok step parts holders s) := by
  unfold restoreAnswer
  try dsimp only
  with_reducible repeat' first
    | assumption | apply good_restoreFail | apply good_joinRestore | apply good_adoptParts | apply good_setJob
    | apply good_restoreDone | apply good_sendNeeds | (intro _ _ _; try dsimp only) | split
    | (simp only [good_mk]; apply Good.parts)

theorem good_tryRestore {a : State} (idx : Nat) (s : State) (h : Good a s) : Good a (tryRestore idx s) := by
  unfold tryRestore
  try dsimp only
  with_reducible repeat' first
    | assumption | apply good_sendAll | apply good_restoreAnswer | (intro _ _ _; try dsimp only) | split
    | (simp only [good_mk]; apply Good.parts)

theorem good_noteOffer {a : State} (idx : Nat) (rank : Nat) (hs : List PartHdr) (s : State) (h : Good a s) : Good a
    (noteOffer idx rank hs s) := by
  unfold noteOffer
  try dsimp only
  with_reducible repeat' first
    | assumption | apply good_tryRestore | (intro _ _ _; try dsimp only) | split
    | (simp only [good_mk]; apply Good.parts)

theorem good_offerParts {a : State} (j : Fin 4) (s : State) (h : Good a s) : Good a (offerParts j s) := by
  unfold offerParts
  try dsimp only
  with_reducible repeat' first
    | assumption | apply good_setJob | apply good_noteOffer | apply good_sendCoord | (intro _ _ _; try dsimp only)
    | split | (simp only [good_mk]; apply Good.parts)

theorem good_restoreLocal {a : State} (j : Fin 4) (ps : List Part) (s : State) (h : Good a s) : Good a (restoreLocal j
    ps s) := by
  unfold restoreLocal
  try dsimp only
  with_reducible repeat' first
    | assumption | apply good_restoreDone | apply good_adoptParts | apply good_restoreFail | split
    | (simp only [good_mk]; apply Good.parts)

theorem good_rerunStep {a : State} (j : Fin 4) (s : State) (h : Good a s) : Good a (rerunStep j s) := by
  unfold rerunStep
  try dsimp only
  with_reducible repeat' first
    | assumption | apply good_stopJob | apply good_post | apply good_bumpSeq | apply good_setJob
    | (intro _ _ _; try dsimp only) | split | (simp only [good_mk]; apply Good.parts)

theorem good_replayAnswer {a : State} (p : Option Pend) (o : ReplayOutcome) (s : State) (h : Good a s) : Good a
    (replayAnswer p o s) := by
  unfold replayAnswer
  try dsimp only
  with_reducible repeat' first
    | assumption | apply good_endWith | apply good_answer | split | (simp only [good_mk]; apply Good.parts)

theorem good_replayMismatch {a : State} (j : Fin 4) (o : ReplayOutcome) (s : State) (h : Good a s) : Good a
    (replayMismatch j o s) := by
  unfold replayMismatch
  try dsimp only
  with_reducible repeat' first | assumption | apply good_post | split | (simp only [good_mk]; apply Good.parts)

theorem good_takeOutcome {a : State} (j : Fin 4) (o : ReplayOutcome) (s : State) (h : Good a s) : Good a (takeOutcome
    j o s) := by
  unfold takeOutcome
  try dsimp only
  with_reducible repeat' first
    | assumption | apply good_replayAnswer | apply good_replayMismatch | apply good_setJob
    | (intro _ _ _; try dsimp only) | split | (simp only [good_mk]; apply Good.parts)

theorem good_settleReplay {a : State} (idx : Nat) (s : State) (h : Good a s) : Good a (settleReplay idx s) := by
  unfold settleReplay
  try dsimp only
  with_reducible repeat' first
    | assumption | apply good_sendAll | apply good_takeOutcome | (intro _ _ _; try dsimp only) | split
    | (simp only [good_mk]; apply Good.parts)

theorem good_noteOutcome {a : State} (idx : Nat) (rank : Nat) (o : ReplayOutcome) (s : State) (h : Good a s) : Good a
    (noteOutcome idx rank o s) := by
  unfold noteOutcome
  try dsimp only
  with_reducible repeat' first
    | assumption | apply good_settleReplay | (intro _ _ _; try dsimp only) | split
    | (simp only [good_mk]; apply Good.parts)

theorem good_replayDone {a : State} (j : Fin 4) (o : ReplayOutcome) (s : State) (h : Good a s) : Good a (replayDone j
    o s) := by
  unfold replayDone
  try dsimp only
  with_reducible repeat' first
    | assumption | apply good_restoreSaved | apply good_setJob | apply good_noteOutcome | apply good_sendCoord
    | apply good_replayAnswer | apply good_replayMismatch | (intro _ _ _; try dsimp only) | split
    | (simp only [good_mk]; apply Good.parts)

theorem good_faultCore {a : State} (j : Fin 4) (s : State) (h : Good a s) : Good a (faultCore j s) := by
  unfold faultCore
  try dsimp only
  with_reducible repeat' first
    | assumption | apply good_replayDone | apply good_haltUnits | apply good_sendCoord | apply good_rerunStep
    | apply good_abortStep | apply good_sendAbort | split | (simp only [good_mk]; apply Good.parts)

theorem good_tellAbort {a : State} (j : Fin 4) (s : State) (h : Good a s) : Good a (tellAbort j s) := by
  unfold tellAbort
  try dsimp only
  with_reducible repeat' first
    | assumption | apply good_sendAbort | apply good_sendCoord | split | (simp only [good_mk]; apply Good.parts)

theorem good_loseState {a : State} (j : Fin 4) (s0 : State) (h : Good a s0) : Good a (loseState j s0) := by
  unfold loseState
  try dsimp only
  with_reducible repeat' first
    | assumption | apply good_tellAbort | apply good_stopJob | apply good_post | apply good_abortStep | split
    | (simp only [good_mk]; apply Good.parts)

theorem good_abortFabric {a : State} (ready : Bool) (s : State) (h : Good a s) : Good a (abortFabric ready s) := by
  unfold abortFabric
  try dsimp only
  with_reducible repeat' first
    | assumption | apply good_eachSlot | apply good_faultCore | (intro _ _ _; try dsimp only)
    | (intro _ _; try dsimp only) | split | (simp only [good_mk]; apply Good.parts)

theorem good_leaveAborting {a : State} (j : Fin 4) (s : State) (h : Good a s) : Good a (leaveAborting j s) := by
  unfold leaveAborting
  try dsimp only
  with_reducible repeat' first
    | assumption | apply good_setJob | (intro _ _ _; try dsimp only) | split
    | (simp only [good_mk]; apply Good.parts)

theorem good_reopen {a : State} (j : Fin 4) (s : State) (h : Good a s) : Good a (reopen j s) := by
  unfold reopen
  try dsimp only
  with_reducible repeat' first
    | assumption | apply good_leaveAborting | apply good_rerunStep | apply good_abortStep | split
    | (simp only [good_mk]; apply Good.parts)

theorem good_adoptJob {a : State} (old : List Member) (dep : List Nat) (j : Fin 4) (s : State) (h : Good a s) : Good a
    (adoptJob old dep j s) := by
  unfold adoptJob
  try dsimp only
  with_reducible repeat' first
    | assumption | apply good_loseState | apply good_post | apply good_setJob | apply good_sendNeeds
    | apply good_reopen | apply good_offerParts | (intro _ _ _; try dsimp only) | split
    | (simp only [good_mk]; apply Good.parts)

theorem good_adoptView {a : State} (x0 : Enactment) (me : Member) (s : State) (h : Good a s) : Good a (adoptView x0 me
    s) := by
  unfold adoptView
  try dsimp only
  with_reducible repeat' first
    | assumption | (intro _ _ _; try dsimp only) | split | (simp only [good_mk]; apply Good.parts)

theorem good_addEdge {a : State} (x0 : Adj) (s : State) (h : Good a s) : Good a (addEdge x0 s) := by
  unfold addEdge
  try dsimp only
  with_reducible repeat' first
    | assumption | (intro _ _ _; try dsimp only) | split | (simp only [good_mk]; apply Good.parts)

theorem good_dropEdge {a : State} (x0 : Adj) (s : State) (h : Good a s) : Good a (dropEdge x0 s) := by
  unfold dropEdge
  try dsimp only
  with_reducible repeat' first
    | assumption | (intro _ _ _; try dsimp only) | split | (simp only [good_mk]; apply Good.parts)

theorem good_reportUp {a : State} (l : Fin 8) (s : State) (h : Good a s) : Good a (reportUp l s) := by
  unfold reportUp
  try dsimp only
  with_reducible repeat' first
    | assumption | apply good_sendCoord | apply good_addEdge | split | (simp only [good_mk]; apply Good.parts)

theorem good_adoptRest {a : State} (old : List Member) (x1 : Enactment) (s : State) (h : Good a s) : Good a (adoptRest
    old x1 s) := by
  unfold adoptRest
  try dsimp only
  with_reducible repeat' first
    | assumption | apply good_post | apply good_bumpWs | apply good_eachSlot | apply good_adoptJob
    | apply good_reportUp | apply Good.foldl | (intro _ _ _; try dsimp only) | (intro _ _; try dsimp only) | split
    | (simp only [good_mk]; apply Good.parts)

theorem good_holdFabric {a : State} (s : State) (h : Good a s) : Good a (holdFabric s) := by
  unfold holdFabric
  try dsimp only
  with_reducible repeat' first
    | assumption | apply good_eachSlot | apply good_abortStep | apply good_stopJob | apply good_setJob
    | (intro _ _ _; try dsimp only) | (intro _ _; try dsimp only) | split
    | (simp only [good_mk]; apply Good.parts)

theorem good_adopt {a : State} (x0 : Enactment) (s : State) (h : Good a s) : Good a (adopt x0 s) := by
  unfold adopt
  try dsimp only
  with_reducible repeat' first
    | assumption | apply good_holdFabric | apply good_unjoin | apply good_adoptRest | apply good_adoptView | split
    | (simp only [good_mk]; apply Good.parts)

theorem good_sendEnact {a : State} (x0 : Enactment) (s : State) (h : Good a s) : Good a (sendEnact x0 s) := by
  unfold sendEnact
  try dsimp only
  with_reducible repeat' first
    | assumption | apply good_tellArrivals | apply good_sendAll | split | (simp only [good_mk]; apply Good.parts)

theorem good_keepLate {a : State} (before : State) (p : Proposal) (s : State) (h : Good a s) : Good a (keepLate before
    p s) := by
  unfold keepLate
  try dsimp only
  with_reducible repeat' first
    | assumption | (intro _ _ _; try dsimp only) | split | (simp only [good_mk]; apply Good.parts)

theorem good_tryEnact {a : State} (s : State) (h : Good a s) : Good a (tryEnact s) := by
  unfold tryEnact
  try dsimp only
  with_reducible repeat' first
    | assumption | apply good_sendEnact | apply good_unjoin | apply good_keepLate | apply good_adopt
    | (intro _ _ _; try dsimp only) | split | (simp only [good_mk]; apply Good.parts)

theorem good_stopEnded {a : State} (s : State) (h : Good a s) : Good a (stopEnded s) := by
  unfold stopEnded
  try dsimp only
  with_reducible repeat' first
    | assumption | apply good_eachSlot | apply good_stopJob | (intro _ _ _; try dsimp only)
    | (intro _ _; try dsimp only) | split | (simp only [good_mk]; apply Good.parts)

theorem good_changeNow {a : State} (s : State) (h : Good a s) : Good a (changeNow s) := by
  unfold changeNow
  try dsimp only
  with_reducible repeat' first
    | assumption | apply good_stopEnded | apply good_tryEnact | apply good_startChange | split
    | (simp only [good_mk]; apply Good.parts)

theorem good_coveredFault {a : State} (j : Fin 4) (s : State) (h : Good a s) : Good a (coveredFault j s) := by
  unfold coveredFault
  try dsimp only
  with_reducible repeat' first
    | assumption | apply good_changeNow | apply good_faultCore | split | (simp only [good_mk]; apply Good.parts)

theorem good_changeIfQuiet {a : State} (s : State) (h : Good a s) : Good a (changeIfQuiet s) := by
  unfold changeIfQuiet
  try dsimp only
  with_reducible repeat' first | assumption | apply good_changeNow | split | (simp only [good_mk]; apply Good.parts)

theorem good_changeShut {a : State} (at_ : List Nat) (s : State) (h : Good a s) : Good a (changeShut at_ s) := by
  unfold changeShut
  try dsimp only
  with_reducible repeat' first | assumption | apply good_changeNow | split | (simp only [good_mk]; apply Good.parts)

theorem good_partition {a : State} (s : State) (h : Good a s) : Good a (partition s) := by
  unfold partition
  try dsimp only
  with_reducible repeat' first
    | assumption | apply good_post | apply good_holdFabric | split | (simp only [good_mk]; apply Good.parts)

theorem good_fabricFault {a : State} (s : State) (h : Good a s) : Good a (fabricFault s) := by
  unfold fabricFault
  try dsimp only
  with_reducible repeat' first
    | assumption | apply good_changeNow | apply good_abortFabric | split | (simp only [good_mk]; apply Good.parts)

theorem good_sendJoin {a : State} (s : State) (h : Good a s) : Good a (sendJoin s) := by
  unfold sendJoin
  try dsimp only
  with_reducible repeat' first | assumption | apply good_sendOn | split | (simp only [good_mk]; apply Good.parts)

theorem good_dissolveNow {a : State} (s : State) (h : Good a s) : Good a (dissolveNow s) := by
  unfold dissolveNow
  try dsimp only
  with_reducible repeat' first
    | assumption | apply good_sendJoin | apply good_holdFabric | apply good_unjoin | split
    | (simp only [good_mk]; apply Good.parts)

theorem good_settle {a : State} (s : State) (h : Good a s) : Good a (settle s) := by
  unfold settle
  try dsimp only
  with_reducible repeat' first | assumption | apply good_dissolveNow | split | (simp only [good_mk]; apply Good.parts)

theorem good_dissolve {a : State} (s : State) (h : Good a s) : Good a (dissolve s) := by
  unfold dissolve
  try dsimp only
  with_reducible repeat' first
    | assumption | apply good_settle | apply good_post | split | (simp only [good_mk]; apply Good.parts)

/-! ### Machine/Flags.lean -/

theorem good_noteOut {a : State} (j : Fin 4) (s : State) (h : Good a s) : Good a (noteOut j s) := by
  unfold noteOut
  try dsimp only
  with_reducible repeat' first
    | assumption | apply good_setJob | (intro _ _ _; try dsimp only) | split
    | (simp only [good_mk]; apply Good.parts)

theorem good_convertElem {a : State} (j : Fin 4) (x1 : Tensor) (c : Conv) (x3 : Acc) (s : State) (h : Good a s) : Good
    a (convertElem j x1 c x3 s).2 := by
  unfold convertElem
  try dsimp only
  with_reducible repeat' first
    | assumption | apply good_setTens | apply good_noteOut | split | (simp only [good_mk]; apply Good.parts)

/-! ### Machine/EvtOps.lean -/

theorem good_bumpSeal {a : State} (s : State) (h : Good a s) : Good a (bumpSeal s) := by
  unfold bumpSeal
  try dsimp only
  with_reducible repeat' first
    | assumption | apply good_post | apply good_hifFault | split | (simp only [good_mk]; apply Good.parts)

theorem good_toRing {a : State} (r : EvtRec) (s : State) (h : Good a s) : Good a (toRing r s) := by
  unfold toRing
  try dsimp only
  with_reducible repeat' first
    | assumption | apply good_bumpEvt | apply good_fire | apply good_bumpSeal | split
    | (simp only [good_mk]; apply Good.parts)

theorem good_fileOne {a : State} (s : State) (h : Good a s) : Good a (fileOne s) := by
  unfold fileOne
  split
  · exact h
  · rename_i e rest q
    have g : Good a { s with evt := { s.evt with
        queue := rest, lostBefore := false, seqNext := s.evt.seqNext + 1,
        log := tabPut s.evt.head.toNat ⟨s.evt.seqNext, s.evt.lostBefore, e⟩ s.evt.log, head := s.evt.head + 1 } } := by
      refine good_mk.2 (h.partsQueues (fun l => ?_) id id)
      rw [q] at l
      simp only [List.length_cons] at l ⊢
      omega
    dsimp only
    apply good_toRing
    split
    · split
      · exact good_mk.2 g.parts
      · exact good_mk.2 g.parts
    · split
      · exact good_mk.2 g.parts
      · exact g

theorem good_fileN {a : State} (x0 : Nat) (x1 : State) : Good a x1 → Good a (fileN x0 x1) := by
  fun_induction fileN x0 x1 <;> intro h <;> try dsimp only at *
  all_goals
    with_reducible repeat' first
      | assumption | (rename_i ih; apply ih) | apply good_fileOne | split | (simp only [good_mk]; apply Good.parts)

theorem good_flushEvents {a : State} (s : State) (h : Good a s) : Good a (flushEvents s) := by
  unfold flushEvents
  try dsimp only
  with_reducible repeat' first | assumption | apply good_fileN | split | (simp only [good_mk]; apply Good.parts)

theorem good_clearLog {a : State} (s : State) (h : Good a s) : Good a (clearLog s) :=
  good_mk.2 (h.partsQueues (fun _ => Nat.zero_le _) id id)

theorem good_fileDeferred {a : State} (s : State) (h : Good a s) : Good a (fileDeferred s) := by
  have g : Good a { s with
      evt := { s.evt with queue := s.evt.queue ++ s.aon.deferred.take (32 - s.evt.queue.length) },
      aon := { s.aon with deferred := [] } } := by
    refine good_mk.2 (h.partsQueues (fun l => ?_) id id)
    simp only [List.length_append, List.length_take]
    omega
  unfold fileDeferred
  dsimp only
  split
  · exact good_bumpEvt _ _ _ (good_mk.2 (good_bumpEvt 0 s.aon.deferred.length _ g).parts)
  · exact good_bumpEvt _ _ _ g

/-! ### Machine/PowerOps.lean -/

theorem good_setCause {a : State} (x0 : Word) (s : State) (h : Good a s) : Good a (setCause x0 s) := by
  unfold setCause
  try dsimp only
  with_reducible repeat' first | assumption | split | (simp only [good_mk]; apply Good.parts)

theorem good_orCause {a : State} (x0 : Word) (s : State) (h : Good a s) : Good a (orCause x0 s) := by
  unfold orCause
  try dsimp only
  with_reducible repeat' first | assumption | apply good_setCause | split | (simp only [good_mk]; apply Good.parts)

theorem good_setFrom {a : State} (p : PState) (s : State) (h : Good a s) : Good a (setFrom p s) := by
  unfold setFrom
  try dsimp only
  with_reducible repeat' first | assumption | apply good_setCause | split | (simp only [good_mk]; apply Good.parts)

theorem good_recordRail {a : State} (r : Rail) (duringUp : Bool) (s : State) (h : Good a s) : Good a (recordRail r
    duringUp s) := by
  unfold recordRail
  try dsimp only
  with_reducible repeat' first | assumption | apply good_setCause | split | (simp only [good_mk]; apply Good.parts)

theorem good_endTasks {a : State} (st : Byte) (x1 : List FlashTask) (x2 : State) :
    Good a x2 → Good a (endTasks st x1 x2) := by
  fun_induction endTasks st x1 x2 <;> intro h <;> try dsimp only at *
  all_goals
    with_reducible repeat' first
      | assumption | (rename_i ih; apply ih) | apply good_endOpt | split | (simp only [good_mk]; apply Good.parts)

theorem good_endWaiting {a : State} (st : Byte) (x1 : List RngReq) (x2 : State) :
    Good a x2 → Good a (endWaiting st x1 x2) := by
  fun_induction endWaiting st x1 x2 <;> intro h <;> try dsimp only at *
  all_goals
    with_reducible repeat' first
      | assumption | (rename_i ih; apply ih) | apply good_endWith | split | (simp only [good_mk]; apply Good.parts)

theorem good_endJobCmds {a : State} (st : Byte) (j : Fin 4) (s : State) (h : Good a s) : Good a (endJobCmds st j s) :=
    by
  unfold endJobCmds
  try dsimp only
  with_reducible repeat' first
    | assumption | apply good_answerAll | apply good_endOpt | apply good_endReplays | split
    | (simp only [good_mk]; apply Good.parts)

theorem good_endLoads {a : State} (st : Byte) (k : Fin 4) (s : State) (h : Good a s) : Good a (endLoads st k s) := by
  unfold endLoads
  try dsimp only
  with_reducible repeat' first | assumption | apply good_endOpt | split | (simp only [good_mk]; apply Good.parts)

theorem good_endLater {a : State} (st : Byte) (x1 : List (Pend × Cmd)) (x2 : State) :
    Good a x2 → Good a (endLater st x1 x2) := by
  fun_induction endLater st x1 x2 <;> intro h <;> try dsimp only at *
  all_goals
    with_reducible repeat' first
      | assumption | (rename_i ih; apply ih) | apply good_endWith | split | (simp only [good_mk]; apply Good.parts)

theorem good_abortCommands {a : State} (s : State) (h : Good a s) : Good a (abortCommands s) := by
  unfold abortCommands
  try dsimp only
  with_reducible repeat' first
    | assumption | apply good_endTasks | apply good_endWaiting | apply good_eachSlot | apply good_endExport
    | apply good_endJobCmds | apply good_endLoads | apply good_endLater | apply good_endWith
    | (intro _ _ _; try dsimp only) | (intro _ _; try dsimp only) | split
    | (simp only [good_mk]; apply Good.parts)

theorem cutIssued_kept (n : Nat) (f : Fls) : (cutIssued n f).prot = f.prot ∧ (cutIssued n f).bbt = f.bbt := by
  unfold cutIssued cutLast lastWord
  try dsimp only
  repeat' first | exact ⟨rfl, rfl⟩ | split

theorem good_dieReset {a : State} (s : State) (h : Good a s) : Good a (dieReset s) := by
  have g := h.partsClear (v := vrep 4 Bench.reset) id (fun _ => Nat.zero_le _) fun b => by rw [vrep_get]; rfl
  have e := cutIssued_kept s.free s.fls
  refine good_mk.2 ?_
  rw [show (flsAfterReset s.free s.fls).prot = s.fls.prot from e.1,
    show (flsAfterReset s.free s.fls).bbt = s.fls.bbt from e.2]
  exact g

theorem good_closeDebugRecord {a : State} (s : State) (h : Good a s) : Good a (closeDebugRecord s) := by
  unfold closeDebugRecord
  try dsimp only
  with_reducible repeat' first | assumption | split | (simp only [good_mk]; apply Good.parts)

theorem good_closeDebug {a : State} (s : State) (h : Good a s) : Good a (closeDebug s) := by
  unfold closeDebug
  try dsimp only
  with_reducible repeat' first
    | assumption | apply good_postIf | apply good_closeDebugRecord | split
    | (simp only [good_mk]; apply Good.parts)

theorem good_secFault {a : State} (bit : Nat) (key : Nat) (op : Nat) (s : State) (h : Good a s) : Good a (secFault bit
    key op s) := by
  unfold secFault
  try dsimp only
  with_reducible repeat' first | assumption | split | (simp only [good_mk]; apply Good.parts)

theorem good_verifyFirmware {a : State} (s : State) (h : Good a s) : Good a (verifyFirmware s) := by
  unfold verifyFirmware
  try dsimp only
  with_reducible repeat' first
    | assumption | apply good_secFault | apply good_post | split | (simp only [good_mk]; apply Good.parts)

theorem good_verifyKeyStore {a : State} (s : State) (h : Good a s) : Good a (verifyKeyStore s) := by
  unfold verifyKeyStore
  try dsimp only
  with_reducible repeat' first
    | assumption | apply good_secFault | apply good_post | split | (simp only [good_mk]; apply Good.parts)

theorem good_bootReports {a : State} (s : State) (h : Good a s) : Good a (bootReports s) := by
  unfold bootReports
  try dsimp only
  with_reducible repeat' first | assumption | apply good_post | split | (simp only [good_mk]; apply Good.parts)

theorem good_bootBegin {a : State} (s : State) (h : Good a s) : Good a (bootBegin s) := by
  unfold bootBegin
  try dsimp only
  with_reducible repeat' first
    | assumption | apply good_verifyKeyStore | apply good_verifyFirmware | apply good_fileDeferred | split
    | (simp only [good_mk]; apply Good.parts)

theorem good_warmRestart {a : State} (s : State) (h : Good a s) : Good a (warmRestart s) := by
  unfold warmRestart
  try dsimp only
  with_reducible repeat' first
    | assumption | apply good_dieReset | apply good_closeDebugRecord | apply good_flushEvents
    | apply good_abortCommands | apply good_bootBegin | split | (simp only [good_mk]; apply Good.parts)

theorem good_powerOnReset {a : State} (s : State) (h : Good a s) : Good a (powerOnReset s) := by
  have g := good_dieReset _ (good_closeDebugRecord s h)
  have e : (dieReset (closeDebugRecord s)).sec.fuse = s.sec.fuse := by
    unfold closeDebugRecord
    split <;> rfl
  unfold powerOnReset
  refine good_mk.2 ?_
  dsimp only
  rw [← e]
  exact g.partsQueues id (fun _ => Nat.zero_le _) id

theorem good_enterSleep {a : State} (s : State) (h : Good a s) : Good a (enterSleep s) := by
  unfold enterSleep
  try dsimp only
  with_reducible repeat' first
    | assumption | (intro _ _ _; try dsimp only) | split | (simp only [good_mk]; apply Good.parts)

theorem good_enterDown {a : State} (s : State) (h : Good a s) : Good a (enterDown s) := by
  unfold enterDown
  refine good_mk.2 (Good.partsQueues ?_ id (fun _ => Nat.zero_le _) id)
  exact good_dieReset _ (good_closeDebugRecord _ (good_abortCommands _
    (good_eachSlot _ _ (fun _ _ q => good_endExport _ _ _ (good_stopJob _ _ _ _ _ _ q)) h)))

theorem good_leaveSleep {a : State} (s : State) (h : Good a s) : Good a (leaveSleep s) := by
  unfold leaveSleep
  try dsimp only
  with_reducible repeat' first
    | assumption | (intro _ _ _; try dsimp only) | split | (simp only [good_mk]; apply Good.parts)

theorem good_endAll {a : State} (st : Byte) (x1 : List Pend) (x2 : State) : Good a x2 → Good a (endAll st x1 x2) := by
  fun_induction endAll st x1 x2 <;> intro h <;> try dsimp only at *
  all_goals
    with_reducible repeat' first
      | assumption | (rename_i ih; apply ih) | apply good_endWith | split | (simp only [good_mk]; apply Good.parts)

theorem good_setLevel {a : State} (v : BitVec 2) (s : State) (h : Good a s) : Good a (setLevel v s) := by
  unfold setLevel
  try dsimp only
  with_reducible repeat' first | assumption | split | (simp only [good_mk]; apply Good.parts)

theorem good_applyLevel {a : State} (s : State) (h : Good a s) : Good a (applyLevel s) := by
  unfold applyLevel
  try dsimp only
  with_reducible repeat' first
    | assumption | apply good_setLevel | apply good_endAll | split | (simp only [good_mk]; apply Good.parts)

theorem good_parkAll {a : State} (s : State) (h : Good a s) : Good a (parkAll s) := by
  unfold parkAll
  try dsimp only
  with_reducible repeat' first
    | assumption | (intro _ _ _; try dsimp only) | split | (simp only [good_mk]; apply Good.parts)

theorem good_answerNext {a : State} (goTo : PState) (s : State) (h : Good a s) : Good a (answerNext goTo s) := by
  unfold answerNext
  try dsimp only
  with_reducible repeat' first | assumption | apply good_endOpt | split | (simp only [good_mk]; apply Good.parts)

theorem good_answerReq {a : State} (s : State) (h : Good a s) : Good a (answerReq s) := by
  unfold answerReq
  try dsimp only
  with_reducible repeat' first | assumption | apply good_endOpt | split | (simp only [good_mk]; apply Good.parts)

theorem good_tkFor {a : State} (goTo : PState) (s : State) (h : Good a s) : Good a (tkFor goTo s) := by
  unfold tkFor
  try dsimp only
  with_reducible repeat' first | assumption | split | (simp only [good_mk]; apply Good.parts)

theorem good_enterStable {a : State} (goTo : PState) (s : State) (h : Good a s) : Good a (enterStable goTo s) := by
  unfold enterStable
  try dsimp only
  with_reducible repeat' first
    | assumption | apply good_tkFor | apply good_leaveSleep | apply good_applyLevel | apply good_fire
    | apply good_post | apply good_bumpPwr | apply good_answerNext | apply good_answerReq | split
    | (simp only [good_mk]; apply Good.parts)

theorem good_powerLost {a : State} (goTo : PState) (s : State) (h : Good a s) : Good a (powerLost goTo s) := by
  unfold powerLost
  try dsimp only
  with_reducible repeat' first
    | assumption | apply good_flushEvents | apply good_enterSleep | apply good_parkAll | apply good_enterDown
    | apply good_answerNext | apply good_answerReq | split | (simp only [good_mk]; apply Good.parts)

theorem good_quiesced {a : State} (goTo : PState) (s : State) (h : Good a s) : Good a (quiesced goTo s) := by
  unfold quiesced
  try dsimp only
  with_reducible repeat' first
    | assumption | apply good_leaveWorkshop | apply good_powerLost | split
    | (simp only [good_mk]; apply Good.parts)

theorem good_beginRails {a : State} (goTo : PState) (s : State) (h : Good a s) : Good a (beginRails goTo s) := by
  unfold beginRails
  try dsimp only
  with_reducible repeat' first
    | assumption | apply good_powerOnReset | apply good_setFrom | apply good_quiesced | split
    | (simp only [good_mk]; apply Good.parts)

theorem good_beginTo {a : State} (goTo : PState) (s : State) (h : Good a s) : Good a (beginTo goTo s) := by
  unfold beginTo
  try dsimp only
  with_reducible repeat' first
    | assumption | apply good_enterStable | apply good_beginRails | split
    | (simp only [good_mk]; apply Good.parts)

theorem good_reach {a : State} (goTo : PState) (s : State) (h : Good a s) : Good a (reach goTo s) := by
  unfold reach
  try dsimp only
  with_reducible repeat' first
    | assumption | apply good_enterStable | apply good_beginTo | split | (simp only [good_mk]; apply Good.parts)

theorem good_requestPower {a : State} (goTo : PState) (p : Option Pend) (s : State) (h : Good a s) : Good a
    (requestPower goTo p s) := by
  unfold requestPower
  try dsimp only
  with_reducible repeat' first
    | assumption | apply good_endOpt | apply good_startPending | apply good_beginTo | apply good_post
    | apply good_bumpPwr | split | (simp only [good_mk]; apply Good.parts)

theorem good_quiesceCheck {a : State} (s : State) (h : Good a s) : Good a (quiesceCheck s) := by
  unfold quiesceCheck
  try dsimp only
  with_reducible repeat' first | assumption | apply good_quiesced | split | (simp only [good_mk]; apply Good.parts)

theorem good_idleStep {a : State} (s : State) (h : Good a s) : Good a (idleStep s) := by
  unfold idleStep
  try dsimp only
  with_reducible repeat' first
    | assumption | apply good_quiesceCheck | apply good_tick | split | (simp only [good_mk]; apply Good.parts)

theorem good_powerUpEnd {a : State} (s1 : State) (h : Good a s1) : Good a (powerUpEnd s1) := by
  unfold powerUpEnd
  try dsimp only
  with_reducible repeat' first
    | assumption | apply good_reach | apply good_answerNext | apply good_beginTo | split
    | (simp only [good_mk]; apply Good.parts)

theorem good_bootEnd {a : State} (s : State) (h : Good a s) : Good a (bootEnd s) := by
  unfold bootEnd
  try dsimp only
  with_reducible repeat' first | assumption | apply good_powerUpEnd | split | (simp only [good_mk]; apply Good.parts)

theorem good_setPowerNow {a : State} (c : Cmd) (p : Pend) (s : State) (h : Good a s) : Good a (setPowerNow c p s) :=
    by
  unfold setPowerNow
  try dsimp only
  with_reducible repeat' first
    | assumption | apply good_requestPower | apply good_endWith | split | (simp only [good_mk]; apply Good.parts)

theorem good_setPerfNow {a : State} (c : Cmd) (p : Pend) (s : State) (h : Good a s) : Good a (setPerfNow c p s) := by
  unfold setPerfNow
  try dsimp only
  with_reducible repeat' first
    | assumption | apply good_endWith | apply good_setLevel | apply good_startPending | split
    | (simp only [good_mk]; apply Good.parts)

theorem good_runLater {a : State} (s : State) (h : Good a s) : Good a (runLater s) := by
  unfold runLater
  try dsimp only
  with_reducible repeat' first
    | assumption | apply good_setPowerNow | apply good_setPerfNow | apply Good.foldl
    | (intro _ _ _; try dsimp only) | split | (simp only [good_mk]; apply Good.parts)

theorem good_wake {a : State} (cause : Word) (s : State) (h : Good a s) : Good a (wake cause s) := by
  unfold wake
  try dsimp only
  with_reducible repeat' first
    | assumption | apply good_orCause | apply good_requestPower | apply good_setFrom | split
    | (simp only [good_mk]; apply Good.parts)

/-! ### Machine/LatheOps.lean -/

theorem good_useLathe {a : State} (n : Fin 4) (f : LatheFn) (x : Word) (u : Word) (s : State) (h : Good a s) : Good a
    (useLathe n f x u s).2 := by
  unfold useLathe
  try dsimp only
  with_reducible repeat' first | assumption | apply good_bumpLth | split | (simp only [good_mk]; apply Good.parts)

/-! ### Machine/Boundary.lean -/

theorem good_hostWrite {a : State} (x0 : DWord) (bs : List Byte) (s : State) (h : Good a s) : Good a (hostWrite x0 bs
    s) := by
  unfold hostWrite
  try dsimp only
  with_reducible repeat' first | assumption | split | (simp only [good_mk]; apply Good.parts)

theorem good_stage {a t : State} {n0 : Nat} {j : Fin 4} {bytes : Nat} {s : State}
    (e : stage j bytes s = some (n0, t)) (h : Good a s) : Good a t := by
  unfold stage at e
  obtain ⟨⟨n, s1⟩, e1, e2⟩ := Option.bind_eq_some_iff.1 e
  obtain ⟨s2, e3, e4⟩ := Option.map_eq_some_iff.1 e2
  cases e4
  exact good_touchFrames e3 (good_allocHandle e1 h)

theorem good_askRng {a : State} (r : RngReq) (s : State) (h : Good a s) : Good a (askRng r s) := by
  unfold askRng
  try dsimp only
  with_reducible repeat' first | assumption | split | (simp only [good_mk]; apply Good.parts)

theorem good_dropSnap {a : State} (j : Fin 4) (r : SnapReq) (s : State) (h : Good a s) : Good a (dropSnap j r s) := by
  unfold dropSnap
  try dsimp only
  with_reducible repeat' first
    | assumption | apply good_freeHandle | apply good_setJob | apply good_dropTask | (intro _ _ _; try dsimp only)
    | split | (simp only [good_mk]; apply Good.parts)

theorem good_snapBoundary {a : State} (j : Fin 4) (s : State) (h : Good a s) : Good a (snapBoundary j s) := by
  unfold snapBoundary
  try dsimp only
  with_reducible repeat' first
    | assumption | refine good_stage ‹_› ?_ | apply good_endOpt | apply good_setJob | apply good_exhausted
    | apply good_dropSnap | apply good_askRng | (intro _ _ _; try dsimp only) | split
    | (simp only [good_mk]; apply Good.parts)

theorem good_noteRetrain {a : State} (r : Nat) (s : State) (h : Good a s) : Good a (noteRetrain r s) := by
  unfold noteRetrain
  try dsimp only
  with_reducible repeat' first | assumption | split | (simp only [good_mk]; apply Good.parts)

theorem good_retrainLink {a : State} (scheduled : Bool) (l : Fin 8) (s : State) (h : Good a s) : Good a (retrainLink
    scheduled l s) := by
  unfold retrainLink
  try dsimp only
  with_reducible repeat' first
    | assumption | apply good_noteRetrain | apply good_sendCoord | apply good_setLink | apply good_post
    | apply good_bumpLink | apply good_moveQueue | (intro _ _ _; try dsimp only) | split
    | (simp only [good_mk]; apply Good.parts)

theorem good_retrainCheck {a : State} (s : State) (h : Good a s) : Good a (retrainCheck s) := by
  unfold retrainCheck
  try dsimp only
  with_reducible repeat' first | assumption | apply good_answer | split | (simp only [good_mk]; apply Good.parts)

theorem good_retrainUnitDone {a : State} (n : Nat) (failed : Bool) (s : State) (h : Good a s) : Good a
    (retrainUnitDone n failed s) := by
  unfold retrainUnitDone
  try dsimp only
  with_reducible repeat' first
    | assumption | apply good_retrainCheck | split | (simp only [good_mk]; apply Good.parts)

theorem good_startUnit {a : State} (n : Nat) (s : State) (h : Good a s) : Good a (startUnit n s) := by
  unfold startUnit
  try dsimp only
  with_reducible repeat' first
    | assumption | apply good_retrainLink | apply good_retrainUnitDone | split
    | (simp only [good_mk]; apply Good.parts)

theorem good_nextUnit {a : State} (x0 : Nat) (x1 : State) : Good a x1 → Good a (nextUnit x0 x1) := by
  fun_induction nextUnit x0 x1 <;> intro h <;> try dsimp only at *
  all_goals
    with_reducible repeat' first
      | assumption | (rename_i ih; apply ih) | apply good_startUnit | split | (simp only [good_mk]; apply Good.parts)

theorem good_armUnits {a : State} (s : State) (h : Good a s) : Good a (armUnits s) := by
  unfold armUnits
  try dsimp only
  with_reducible repeat' first
    | assumption | (intro _ _ _; try dsimp only) | split | (simp only [good_mk]; apply Good.parts)

theorem good_groupTest {a : State} (g : Nat) (s : State) (h : Good a s) : Good a (groupTest g s) := by
  unfold groupTest
  try dsimp only
  with_reducible repeat' first
    | assumption | (intro _ _ _; try dsimp only) | split | (simp only [good_mk]; apply Good.parts)

theorem good_selftestEnd {a : State} (r : SelftestReq) (s : State) (h : Good a s) : Good a (selftestEnd r s) := by
  unfold selftestEnd
  try dsimp only
  with_reducible repeat' first
    | assumption | apply good_bumpPwr | apply good_post | apply good_answer | split
    | (simp only [good_mk]; apply Good.parts)

theorem good_nextTest {a : State} (s : State) (h : Good a s) : Good a (nextTest s) := by
  unfold nextTest
  try dsimp only
  with_reducible repeat' first
    | assumption | apply good_setBnc | apply good_groupTest | apply good_setLth | apply good_selftestEnd
    | (intro _; rfl) | split | (simp only [good_mk]; apply Good.parts)

theorem good_beginTest {a : State} (s : State) (h : Good a s) : Good a (beginTest s) := by
  unfold beginTest
  try dsimp only
  with_reducible repeat' first | assumption | apply good_nextTest | split | (simp only [good_mk]; apply Good.parts)

theorem good_moveFrame {a : State} (q : Nat × Nat) (y : State × List Nat × Nat) (h : Good a y.1) :
    Good a (moveFrame q y).1 := by
  unfold moveFrame
  try dsimp only
  with_reducible repeat' first
    | assumption | apply good_bumpStk | apply good_setHandle | split | (simp only [good_mk]; apply Good.parts)

theorem good_moveFrames {a : State} : ∀ (l : List (Nat × Nat)) (y : State × List Nat × Nat), Good a y.1 →
    Good a (l.foldl (fun y q => moveFrame q y) y).1
  | [], _, h => h
  | _ :: l, _, h => good_moveFrames l _ (good_moveFrame _ _ h)

theorem good_replaceFrames {a : State} (s : State) (h : Good a s) : Good a (replaceFrames s) := by
  unfold replaceFrames
  try dsimp only
  with_reducible repeat' first
    | assumption | apply good_moveFrames | split | (simp only [good_mk]; apply Good.parts)

theorem good_unitWork {a : State} (s : State) (h : Good a s) : Good a (unitWork s) := by
  unfold unitWork
  try dsimp only
  with_reducible repeat' first
    | assumption | apply good_replaceFrames | apply good_beginTest | apply good_nextUnit | apply good_armUnits
    | split | (simp only [good_mk]; apply Good.parts)

theorem good_loadRecord {a : State} (j : Fin 4) (x : Job) (r : Record) (q : ReplayReq) (s : State) (h : Good a s) :
    Good a (loadRecord j x r q s) := by
  unfold loadRecord
  try dsimp only
  repeat' first
    | with_reducible assumption
    | with_reducible exact Good.refl _
    | with_reducible rfl
    | with_reducible apply good_setJob
    | with_reducible apply Good.foldl
    | (intro _; with_reducible rfl)
    | (intro _; repeat' split) <;> with_reducible rfl
    | (intro _ _ _ _ _ _; try dsimp only)
    | (intro _ _ _ _ _; try dsimp only)
    | (intro _ _ _ _; try dsimp only)
    | (intro _ _ _; try dsimp only)
    | (intro _ _; try dsimp only)
    | split
    | (simp only [good_mk]; with_reducible apply Good.parts)
    | (simp only [good_mk]; with_reducible refine Good.partsBytes ?_ ?_)
    | (intro w; first | with_reducible exact clearRange_wf _ _ _ w | with_reducible exact writeBytes_wf _ _ _ w | with_reducible exact overlay_wf _ _ (withoutHandles_wf _ _ w) | with_reducible exact discardBytes_wf _ _ _ w)
    | (simp only [good_mk]; with_reducible refine Good.partsVmap ?_ ?_)
    | (intro _; with_reducible exact Or.inl rfl)
    | ((intro _; repeat' split) <;> first | with_reducible exact Or.inl rfl | with_reducible exact Or.inr rfl)
    | (simp only [good_mk]; with_reducible refine Good.partsQueues ?_ ?_ ?_ ?_)
    | with_reducible exact id
    | with_reducible exact fun _ => Nat.zero_le _
    | exact fun _ => (Nat.zero_le _ : Hif.reset.queue.length ≤ 16)
    | (intro _; omega)
    | (simp only [good_mk]; done)
    | (intro q; cases q; done)
    | (intro _; rfl)
    | (intro _; rfl)
    | dsimp only
    | (dsimp only [id]; with_reducible assumption)

theorem good_refuseReplay {a : State} (j : Fin 4) (x : Job) (q : ReplayReq) (s : State) (h : Good a s) : Good a
    (refuseReplay j x q s) := by
  unfold refuseReplay
  try dsimp only
  with_reducible repeat' first
    | assumption | apply good_endOpt | apply good_sendCoord | apply good_setJob | (intro _ _ _; try dsimp only)
    | split | (simp only [good_mk]; apply Good.parts)

theorem good_beginReplay {a : State} (j : Fin 4) (s : State) (h : Good a s) : Good a (beginReplay j s) := by
  unfold beginReplay
  try dsimp only
  with_reducible repeat' first
    | assumption | apply good_setJob | apply good_refuseReplay | apply good_loadRecord | apply good_bumpSeq
    | (intro _ _ _; try dsimp only) | split | (simp only [good_mk]; apply Good.parts)

theorem good_stopAtBoundary {a : State} (j : Fin 4) (s : State) (h : Good a s) : Good a (stopAtBoundary j s) := by
  unfold stopAtBoundary
  try dsimp only
  with_reducible repeat' first
    | assumption | apply good_tryEnact | apply good_stopJob | split | (simp only [good_mk]; apply Good.parts)

theorem good_replayBoundary {a : State} (j : Fin 4) (s : State) (h : Good a s) : Good a (replayBoundary j s) := by
  unfold replayBoundary
  try dsimp only
  with_reducible repeat' first
    | assumption | apply good_quiesceCheck | apply good_stopAtBoundary | split
    | (simp only [good_mk]; apply Good.parts)

theorem good_askLost {a : State} (j : Fin 4) (s : State) (h : Good a s) : Good a (askLost j s) := by
  unfold askLost
  try dsimp only
  with_reducible repeat' first
    | assumption | apply good_sendNeeds | (intro _ _ _; try dsimp only) | split
    | (simp only [good_mk]; apply Good.parts)

theorem good_boundaryRest {a : State} (j : Fin 4) (s : State) (h : Good a s) : Good a (boundaryRest j s) := by
  unfold boundaryRest
  try dsimp only
  with_reducible repeat' first
    | assumption | apply good_quiesceCheck | apply good_stopAtBoundary | apply good_beginReplay
    | apply good_unitWork | apply good_setJob | (intro _ _ _; try dsimp only) | split
    | (simp only [good_mk]; apply Good.parts)

theorem good_lateRest {a : State} (s : State) (h : Good a s) : Good a (lateRest s) := by
  unfold lateRest
  try dsimp only
  with_reducible repeat' first
    | assumption | apply good_eachSlot | apply good_boundaryRest | (intro _ _ _; try dsimp only)
    | (intro _ _; try dsimp only) | split | (simp only [good_mk]; apply Good.parts)

theorem good_boundary {a : State} (j : Fin 4) (s : State) (h : Good a s) : Good a (boundary j s) := by
  unfold boundary
  try dsimp only
  with_reducible repeat' first
    | assumption | apply good_askLost | apply good_snapBoundary | apply good_settle | apply good_changeShut
    | apply good_setJob | apply good_lateRest | apply good_boundaryRest | (intro _ _ _; try dsimp only) | split
    | (simp only [good_mk]; apply Good.parts)

theorem good_latency {a : State} (j : Fin 4) (x : Job) (s : State) (h : Good a s) : Good a (latency j x s) := by
  unfold latency
  try dsimp only
  with_reducible repeat' first
    | assumption | apply good_setJob | apply good_post | apply good_bumpSeq | (intro _ _ _; try dsimp only)
    | split | (simp only [good_mk]; apply Good.parts)

theorem good_endRequest {a : State} (j : Fin 4) (s : State) (h : Good a s) : Good a (endRequest j s) := by
  unfold endRequest
  try dsimp only
  with_reducible repeat' first
    | assumption | apply good_latency | apply good_setJob | apply good_unitWork | apply good_quiesceCheck
    | apply good_stopJob | apply good_stopAtBoundary | (intro _ _ _; try dsimp only) | split
    | (simp only [good_mk]; apply Good.parts)

theorem good_afterEntry {a : State} (j : Fin 4) (s : State) (h : Good a s) : Good a (afterEntry j s) := by
  unfold afterEntry
  try dsimp only
  with_reducible repeat' first
    | assumption | apply good_nextTest | apply good_endRequest | split | (simp only [good_mk]; apply Good.parts)

theorem good_freeActs {a : State} (j : Fin 4) (x1 : EntryRun) (s : State) (h : Good a s) : Good a (freeActs j x1 s) :=
    by
  unfold freeActs
  try dsimp only
  with_reducible repeat' first
    | assumption | apply good_freeFrame | apply Good.foldl | (intro _ _ _; try dsimp only) | split
    | (simp only [good_mk]; apply Good.parts)

theorem good_seatProg {a : State} (b : Fin 4) (x1 : EntryRun) (s : State) (n : Nat) (h : Good a s) : Good a (seatProg
    b x1 s n) := by
  unfold seatProg
  try dsimp only
  repeat' first
    | with_reducible assumption
    | with_reducible apply good_setBnc
    | with_reducible apply good_setPln
    | (intro _; with_reducible rfl)
    | split

theorem good_seatBench {a : State} (b : Fin 4) (s : State) (h : Good a s) : Good a (seatBench b s) := by
  unfold seatBench
  try dsimp only
  repeat' first
    | with_reducible assumption
    | with_reducible apply good_seatProg
    | with_reducible apply good_setBnc
    | with_reducible apply Good.foldl
    | (intro _; with_reducible rfl)
    | split

theorem good_seatAll {a : State} (s : State) (h : Good a s) : Good a (seatAll s) := by
  unfold seatAll
  try dsimp only
  with_reducible repeat' first
    | assumption | apply good_eachSlot | apply good_seatBench | split | (simp only [good_mk]; apply Good.parts)

theorem good_entryEnd {a : State} (b : Fin 4) (s : State) (h : Good a s) :
    Good a (entryEnd b s) := by
  unfold entryEnd
  try dsimp only
  repeat' first
    | with_reducible assumption
    | with_reducible exact Good.refl _
    | with_reducible rfl
    | with_reducible apply good_setBnc
    | with_reducible apply good_afterEntry
    | with_reducible apply good_freeActs
    | with_reducible apply good_setJob
    | with_reducible apply Good.foldl
    | (intro _; with_reducible rfl)
    | (intro _; repeat' split) <;> with_reducible rfl
    | (intro _ _ _ _ _ _; try dsimp only)
    | (intro _ _ _ _ _; try dsimp only)
    | (intro _ _ _ _; try dsimp only)
    | (intro _ _ _; try dsimp only)
    | (intro _ _; try dsimp only)
    | split
    | (simp only [good_mk]; with_reducible apply Good.parts)
    | (simp only [good_mk]; with_reducible refine Good.partsBytes ?_ ?_)
    | (intro w; first | with_reducible exact clearRange_wf _ _ _ w | with_reducible exact writeBytes_wf _ _ _ w | with_reducible exact overlay_wf _ _ (withoutHandles_wf _ _ w) | with_reducible exact discardBytes_wf _ _ _ w)
    | (simp only [good_mk]; with_reducible refine Good.partsVmap ?_ ?_)
    | (intro _; with_reducible exact Or.inl rfl)
    | ((intro _; repeat' split) <;> first | with_reducible exact Or.inl rfl | with_reducible exact Or.inr rfl)
    | (simp only [good_mk]; with_reducible refine Good.partsQueues ?_ ?_ ?_ ?_)
    | with_reducible exact id
    | with_reducible exact fun _ => Nat.zero_le _
    | exact fun _ => (Nat.zero_le _ : Hif.reset.queue.length ≤ 16)
    | (intro _; omega)
    | (simp only [good_mk]; done)
    | (intro q; cases q; done)
    | (intro _; rfl)
    | (intro _; rfl)
    | dsimp only
    | (dsimp only [id]; with_reducible assumption)

end Sys2Proof.Machine
end

