-- ==== Sys2Proof/Laws/GoodLinks.lean ====
section
/-! SUPPORT. `Good` is kept by tensor operands, job starts, the operations of a step, and links:
for each operation, the lemma `good_<its name>`, which says that it leaves the waiting commands alone, undoes nothing that
goes one way, and keeps the invariant. -/

namespace Sys2Proof.Machine

/-! ### Machine/Operands.lean -/

theorem good_grantPeer {a : State} (s : State) (p : PeerOpen) (h : Good a s) : Good a (grantPeer s p) := by
  unfold grantPeer
  try dsimp only
  with_reducible repeat' first
    | assumption | apply good_send | (intro _ _ _; try dsimp only) | split
    | (simp only [good_mk]; apply Good.parts)

theorem good_grantPeers {a : State} (s : State) (h : Good a s) : Good a (grantPeers s) := by
  unfold grantPeers
  try dsimp only
  with_reducible repeat' first
    | assumption | apply good_grantPeer | apply Good.foldl | (intro _ _ _; try dsimp only) | split
    | (simp only [good_mk]; apply Good.parts)

theorem lutMark_store (b : Fin 4) (bit : BitVec 256) (x : Bench) : (lutMark b bit x).store = x.store := by
  unfold lutMark
  split <;> rfl

theorem good_lutMarks {a : State} (b : Fin 4) (bit : BitVec 256) (s : State) (h : Good a s) :
    Good a { s with bnc := vmap (lutMark b bit) s.bnc } :=
  good_mk.2 (h.partsVmap fun x => .inl (lutMark_store _ _ x))

theorem good_markSlot {a : State} (b : Fin 4) (n : Nat) (full : Bool) (s : State) (h : Good a s) :
    Good a (markSlot b n full s) := by
  unfold markSlot
  split
  · exact h
  · split
    · exact good_lutMarks _ _ _ (good_setBnc _ _ _ (fun _ => rfl) h)
    · exact good_grantPeers _ (good_setBnc _ _ _ (fun _ => rfl) h)

theorem good_writeStore {a : State} (g : Fin 4) (stock : Bool) (x2 : Nat) (bs : List Byte) (s : State) (h : Good a s) :
    Good a (writeStore g stock x2 bs s) := by
  unfold writeStore
  split
  · exact good_mk.2 (h.partsMem fun w => writeBytes_wf _ _ _ w)
  · exact h.benchWf g _ fun _ w => writeBytes_wf _ _ _ w

theorem good_storeEcc {a : State} (j : Fin 4) (x1 : Ecc) (s : State) (h : Good a s) : Good a (storeEcc j x1 s).2 := by
  unfold storeEcc
  try dsimp only
  with_reducible repeat' first
    | assumption | apply good_bumpStk | apply good_stkFault | apply good_coveredFault | apply good_post | split
    | (simp only [good_mk]; apply Good.parts)

/-! ### Machine/JobOps.lean -/

theorem good_giveHandle {a t : State} {j : Fin 4} {x1 : Tensor} {s : State} (e : giveHandle j x1 s = some t)
    (h : Good a s) : Good a t := by
  unfold giveHandle at e
  obtain ⟨⟨n, s1⟩, e1, rfl⟩ := Option.map_eq_some_iff.1 e
  exact good_setTens _ _ _ _ (good_allocHandle e1 h)

theorem good_giveHandles {a : State} {j : Fin 4} : ∀ {l : List Tensor} {s t : State}, giveHandles j l s = some t →
    Good a s → Good a t
  | [], _, _, e, h => by cases e; exact h
  | i :: l, s, t, e, h => by
    unfold giveHandles at e
    obtain ⟨s1, e1, e2⟩ := Option.bind_eq_some_iff.1 e
    exact good_giveHandles e2 (good_giveHandle e1 h)

theorem good_giveRings {a : State} {j : Fin 4} : ∀ {l : List SensorCfg} {s t : State}, giveRings j l s = some t →
    Good a s → Good a t
  | [], _, _, e, h => by cases e; exact h
  | i :: l, s, t, e, h => by
    unfold giveRings at e
    split at e
    · cases e
    · split at e
      · obtain ⟨⟨n, s1⟩, e1, e2⟩ := Option.bind_eq_some_iff.1 e
        exact good_giveRings e2 (good_setHandle _ _ _ (good_allocHandle e1 h))
      · exact good_giveRings e h

theorem good_ensureHandle {a t : State} {j : Fin 4} {id : BitVec 16} {s : State} (e : ensureHandle j id s = some t) (h
    : Good a s) : Good a t := by
  unfold ensureHandle at e
  try dsimp only at e
  repeat' split at e
  all_goals first | cases e | skip
  with_reducible repeat' first
    | assumption | refine good_giveHandle ‹_› ?_ | split | (simp only [good_mk]; apply Good.parts)

theorem good_setKey {a : State} (k : Fin 4) (f : ModelKey → ModelKey) (s : State) (h : Good a s) : Good a (setKey k f
    s) := by
  unfold setKey
  try dsimp only
  with_reducible repeat' first
    | assumption | (intro _ _ _; try dsimp only) | split | (simp only [good_mk]; apply Good.parts)

theorem good_beginLoads {a : State} (idx : Nat) (s : State) (h : Good a s) : Good a (beginLoads idx s) := by
  unfold beginLoads
  try dsimp only
  with_reducible repeat' first
    | assumption | apply good_setKey | apply Good.foldl | (intro _ _ _; try dsimp only) | split
    | (simp only [good_mk]; apply Good.parts)

theorem good_applyUnitCfg {a : State} (s : State) (h : Good a s) :
    Good a (applyUnitCfg s) := by
  unfold applyUnitCfg
  try dsimp only
  repeat' first
    | with_reducible assumption
    | with_reducible exact Good.refl _
    | with_reducible rfl
    | with_reducible apply good_emptySlots
    | with_reducible apply Good.foldl
    | (intro _; with_reducible rfl)
    | (intro _; repeat' split) <;> with_reducible rfl
    | (intro _ _ _ _ _ _; try dsimp only)
    | (intro _ _ _ _ _; try dsimp only)
    | (intro _ _ _ _; try dsimp only)
    | (intro _ _ _; try dsimp only)
    | (intro _ _; try dsimp only)
    | split
    | (simp only [good_mk]; with_reducible apply Good.parts)
    | (simp only [good_mk]; with_reducible refine Good.partsBytes ?_ ?_)
    | (intro w; first | with_reducible exact clearRange_wf _ _ _ w | with_reducible exact writeBytes_wf _ _ _ w | with_reducible exact overlay_wf _ _ (withoutHandles_wf _ _ w) | with_reducible exact discardBytes_wf _ _ _ w)
    | (simp only [good_mk]; with_reducible refine Good.partsVmap ?_ ?_)
    | (intro _; with_reducible exact Or.inl rfl)
    | ((intro _; repeat' split) <;> first | with_reducible exact Or.inl rfl | with_reducible exact Or.inr rfl)
    | (simp only [good_mk]; with_reducible refine Good.partsQueues ?_ ?_ ?_ ?_)
    | with_reducible exact id
    | with_reducible exact fun _ => Nat.zero_le _
    | exact fun _ => (Nat.zero_le _ : Hif.reset.queue.length ≤ 16)
    | (intro _; omega)
    | (simp only [good_mk]; done)
    | (intro q; cases q; done)
    | (intro _; rfl)
    | (intro _; rfl)
    | dsimp only
    | (dsimp only [id]; with_reducible assumption)

theorem good_askJoin {a : State} (idx : Nat) (s : State) (h : Good a s) : Good a (askJoin idx s) := by
  unfold askJoin
  try dsimp only
  with_reducible repeat' first | assumption | apply good_sendCoord | split | (simp only [good_mk]; apply Good.parts)

theorem good_joinJob {a : State} (idx : Nat) (s : State) (h : Good a s) : Good a (joinJob idx s) := by
  unfold joinJob
  try dsimp only
  with_reducible repeat' first
    | assumption | apply good_changeShut | apply good_noteChange | apply good_askJoin | split
    | (simp only [good_mk]; apply Good.parts)

theorem good_askSeed {a : State} (j : Fin 4) (draw : Bool) (s : State) (h : Good a s) : Good a (askSeed j draw s) :=
    by
  unfold askSeed
  try dsimp only
  with_reducible repeat' first | assumption | apply good_askRng | split | (simp only [good_mk]; apply Good.parts)

theorem good_placeJob {a t : State} {j : Fin 4} {idx : Nat} {x2 : JobEntry} {restore : Option Restore} {s : State}
    (e : placeJob j idx x2 restore s = some t) (h : Good a s) : Good a t := by
  unfold placeJob at e
  obtain ⟨s1, e1, e2⟩ := Option.bind_eq_some_iff.1 e
  obtain ⟨s2, e3, rfl⟩ := Option.map_eq_some_iff.1 e2
  exact good_joinJob _ _ (good_askSeed _ _ _ (good_beginLoads _ _ (good_giveRings e3
    (good_giveHandles e1 (good_applyUnitCfg _ (good_mk.2 h.parts))))))

theorem good_startJob {a : State} (idx : Nat) (restore : Option Restore) (s : State) (h : Good a s) : Good a (startJob
    idx restore s).2 := by
  unfold startJob
  try dsimp only
  with_reducible repeat' first
    | assumption | refine good_placeJob ‹_› ?_ | apply good_exhausted | split
    | (simp only [good_mk]; apply Good.parts)

theorem good_beginRequest {a : State} (j : Fin 4) (t0 : Nat) (s : State) (h : Good a s) : Good a (beginRequest j t0 s)
    := by
  unfold beginRequest
  try dsimp only
  with_reducible repeat' first
    | assumption | apply good_setJob | (intro _ _ _; try dsimp only) | split
    | (simp only [good_mk]; apply Good.parts)

theorem good_trigger {a : State} (j : Fin 4) (x : Job) (s : State) (h : Good a s) : Good a (trigger j x s) := by
  unfold trigger
  try dsimp only
  with_reducible repeat' first
    | assumption | apply good_setJob | apply good_beginRequest | (intro _ _ _; try dsimp only) | split
    | (simp only [good_mk]; apply Good.parts)

theorem good_flsFault {a : State} (bit : Nat) (block : Nat) (region : Nat) (s : State) (h : Good a s) : Good a
    (flsFault bit block region s) := by
  unfold flsFault
  try dsimp only
  with_reducible repeat' first | assumption | split | (simp only [good_mk]; apply Good.parts)

theorem good_protectedFault {a : State} (n : Nat) (s : State) (h : Good a s) : Good a (protectedFault n s) := by
  unfold protectedFault
  try dsimp only
  with_reducible repeat' first
    | assumption | apply good_post | apply good_flsFault | split | (simp only [good_mk]; apply Good.parts)

theorem good_snapDone {a : State} (p : Pend) (part : Part) (s : State) (h : Good a s) : Good a (snapDone p part s) :=
    by
  unfold snapDone
  try dsimp only
  with_reducible repeat' first | assumption | apply good_answer | split | (simp only [good_mk]; apply Good.parts)

/-! ### Machine/TrainOps.lean -/

theorem good_useG {a : State} (j : Fin 4) (x1 : Tensor) (lo : Nat) (n : Nat) (s : State) (h : Good a s) : Good a (useG
    j x1 lo n s) := by
  unfold useG
  try dsimp only
  with_reducible repeat' first | assumption | apply good_useHandle | split | (simp only [good_mk]; apply Good.parts)

theorem good_putG {a : State} (j : Fin 4) (x1 : Tensor) (lo : Nat) (xs : List Word) (s : State) (h : Good a s) : Good
    a (putG j x1 lo xs s) := by
  unfold putG
  try dsimp only
  with_reducible repeat' first
    | assumption | apply good_pokeOr | (intro _ _ _; try dsimp only) | split
    | (simp only [good_mk]; apply Good.parts)

theorem good_holdBytes {a t : State} {n0 : Nat} {j : Fin 4} {bs : List Byte} {s : State}
    (e : holdBytes j bs s = some (n0, t)) (h : Good a s) : Good a t := by
  unfold holdBytes at e
  obtain ⟨⟨n, s1⟩, e1, e2⟩ := Option.bind_eq_some_iff.1 e
  obtain ⟨s2, e3, e4⟩ := Option.map_eq_some_iff.1 e2
  cases e4
  exact good_writeHandle e3 (good_allocHandle e1 h)

theorem good_holdChunk {a : State} (j : Fin 4) (x1 : Tensor) (off : Nat) (xs : List Word) (s : State) (h : Good a s) :
    Good a (holdChunk j x1 off xs s) := by
  unfold holdChunk
  try dsimp only
  with_reducible repeat' first
    | assumption | refine good_holdBytes ‹_› ?_ | apply good_fatalFault | apply good_exhausted
    | apply good_setTens | (intro _ _ _; try dsimp only) | split | (simp only [good_mk]; apply Good.parts)

theorem good_sendTally {a : State} (j : Fin 4) (x : Job) (id : BitVec 16) (x3 : Tally) (s : State) (h : Good a s) :
    Good a (sendTally j x id x3 s) := by
  unfold sendTally
  try dsimp only
  with_reducible repeat' first
    | assumption | apply good_send | apply good_bumpCol | apply Good.foldl | (intro _ _ _; try dsimp only) | split
    | (simp only [good_mk]; apply Good.parts)

theorem good_noteOwner {a : State} (j : Fin 4) (s : State) (h : Good a s) : Good a (noteOwner j s) := by
  unfold noteOwner
  try dsimp only
  with_reducible repeat' first
    | assumption | apply good_setJob | (intro _ _ _; try dsimp only) | split
    | (simp only [good_mk]; apply Good.parts)

theorem good_gtDone {a : State} (j : Fin 4) (x1 : Tensor) (s : State) (h : Good a s) : Good a (gtDone j x1 s) := by
  unfold gtDone
  try dsimp only
  with_reducible repeat' first
    | assumption | apply good_sendTally | apply good_setTens | apply good_useG | (intro _ _ _; try dsimp only)
    | split | (simp only [good_mk]; apply Good.parts)

theorem good_leaveGlue {a : State} (j : Fin 4) (x1 : Tensor) (s : State) (h : Good a s) : Good a (leaveGlue j x1 s) :=
    by
  unfold leaveGlue
  try dsimp only
  with_reducible repeat' first
    | assumption | apply good_setJob | apply good_setTens | (intro _ _ _; try dsimp only) | split
    | (simp only [good_mk]; apply Good.parts)

theorem good_sendGlue {a : State} (kind : Byte) (dst : Nat) (j : Fin 4) (x : Job) (x4 : Tensor) (off : Nat) (xs : List
    Word) (s : State) (h : Good a s) : Good a (sendGlue kind dst j x x4 off xs s) := by
  unfold sendGlue
  try dsimp only
  with_reducible repeat' first
    | assumption | apply good_send | apply good_bumpCol | split | (simp only [good_mk]; apply Good.parts)

theorem good_shardOver {a : State} (j : Fin 4) (x1 : Tensor) (s : State) (h : Good a s) : Good a (shardOver j x1 s) :=
    by
  unfold shardOver
  try dsimp only
  with_reducible repeat' first | assumption | apply good_gtDone | split | (simp only [good_mk]; apply Good.parts)

theorem good_glueOver {a : State} (j : Fin 4) (x1 : Tensor) (s : State) (h : Good a s) : Good a (glueOver j x1 s) :=
    by
  unfold glueOver
  try dsimp only
  with_reducible repeat' first
    | assumption | apply good_shardOver | apply good_leaveGlue | split | (simp only [good_mk]; apply Good.parts)

theorem good_ownChunk {a : State} (j : Fin 4) (x1 : Tensor) (off : Nat) (xs : List Word) (s : State) (h : Good a s) :
    Good a (ownChunk j x1 off xs s) := by
  unfold ownChunk
  try dsimp only
  with_reducible repeat' first
    | assumption | apply good_noteOwner | apply good_setTens | apply good_putG | (intro _ _ _; try dsimp only)
    | split | (simp only [good_mk]; apply Good.parts)

theorem good_chunkPassed {a : State} (j : Fin 4) (x1 : Tensor) (off : Nat) (s : State) (h : Good a s) : Good a
    (chunkPassed j x1 off s) := by
  unfold chunkPassed
  try dsimp only
  with_reducible repeat' first
    | assumption | apply good_setTens | (intro _ _ _; try dsimp only) | split
    | (simp only [good_mk]; apply Good.parts)

theorem good_passChunk {a : State} (j : Fin 4) (x1 : Tensor) (off : Nat) (xs : List Word) (s : State) (h : Good a s) :
    Good a (passChunk j x1 off xs s) := by
  unfold passChunk
  try dsimp only
  with_reducible repeat' first
    | assumption | apply good_chunkPassed | apply good_useG | apply good_sendGlue | apply good_ownChunk | split
    | (simp only [good_mk]; apply Good.parts)

theorem good_startChain {a : State} (j : Fin 4) (x : Job) (x2 : Tensor) (cs : List (Nat × Nat × Nat)) (s : State) (h :
    Good a s) : Good a (startChain j x x2 cs s) := by
  unfold startChain
  try dsimp only
  with_reducible repeat' first
    | assumption | apply good_chunkPassed | apply good_sendGlue | apply good_useG | apply Good.foldl
    | (intro _ _ _; try dsimp only) | split | (simp only [good_mk]; apply Good.parts)

theorem good_directAdd {a : State} (j : Fin 4) (x1 : Tensor) (dTot : Nat) (off : Nat) (gs : List Word) (s : State) (h
    : Good a s) : Good a (directAdd j x1 dTot off gs s) := by
  unfold directAdd
  try dsimp only
  with_reducible repeat' first
    | assumption | apply good_freeHandle | apply good_setTens | apply good_holdChunk | apply good_ownChunk
    | (intro _ _ _; try dsimp only) | split | (simp only [good_mk]; apply Good.parts)

theorem good_startDirect {a : State} (j : Fin 4) (x : Job) (x2 : Tensor) (cs : List (Nat × Nat × Nat)) (s : State) (h
    : Good a s) : Good a (startDirect j x x2 cs s) := by
  unfold startDirect
  try dsimp only
  with_reducible repeat' first
    | assumption | apply good_sendGlue | apply good_useG | apply Good.foldl | (intro _ _ _; try dsimp only)
    | split | (simp only [good_mk]; apply Good.parts)

theorem good_ownDirect {a : State} (j : Fin 4) (x1 : Tensor) (s : State) (h : Good a s) : Good a (ownDirect j x1 s) :=
    by
  unfold ownDirect
  try dsimp only
  with_reducible repeat' first
    | assumption | apply good_directAdd | apply good_useG | apply Good.foldl | (intro _ _ _; try dsimp only)
    | split | (simp only [good_mk]; apply Good.parts)

theorem good_passWaiting {a : State} (j : Fin 4) (x1 : Tensor) (x2 : Nat) (x3 : State) : Good a x3 → Good a
    (passWaiting j x1 x2 x3) := by
  fun_induction passWaiting j x1 x2 x3 <;> intro h <;> try dsimp only at *
  all_goals
    repeat' first
      | with_reducible assumption
      | (rename_i ih; with_reducible apply ih)
      | with_reducible apply good_passChunk
      | with_reducible apply good_freeHandle
      | with_reducible apply good_setTens

theorem good_passHeld {a : State} (j : Fin 4) (x1 : Tensor) (s : State) (h : Good a s) : Good a (passHeld j x1 s) :=
    by
  unfold passHeld
  try dsimp only
  repeat' first
    | with_reducible assumption
    | with_reducible apply good_passWaiting
    | split

theorem good_enterGlue {a : State} (j : Fin 4) (x : Job) (x2 : Tensor) (s : State) (h : Good a s) : Good a (enterGlue
    j x x2 s) := by
  unfold enterGlue
  try dsimp only
  with_reducible repeat' first
    | assumption | apply good_setJob | apply good_colMark | apply good_leaveGlue | apply good_gtDone
    | apply good_noteOwner | apply good_glueOver | apply good_startDirect | apply good_startChain
    | apply good_passHeld | (intro _ _ _; try dsimp only) | split | (simp only [good_mk]; apply Good.parts)

theorem good_sendRuns {a : State} (dst : Nat) (j : Fin 4) (x : Job) (id : BitVec 16) (part : Nat) (x5 : Tensor) (lo :
    Nat) (hi : Nat) (s : State) (h : Good a s) : Good a (sendRuns dst j x id part x5 lo hi s) := by
  unfold sendRuns
  try dsimp only
  with_reducible repeat' first
    | assumption | apply good_send | apply good_bumpCol | apply Good.foldl | (intro _ _ _; try dsimp only) | split
    | (simp only [good_mk]; apply Good.parts)

theorem good_sendShare {a : State} (dst : Nat) (j : Fin 4) (x : Job) (id : BitVec 16) (part : Nat) (x5 : Option
    Tensor) (s : State) (h : Good a s) : Good a (sendShare dst j x id part x5 s) := by
  unfold sendShare
  try dsimp only
  with_reducible repeat' first | assumption | apply good_sendRuns | split | (simp only [good_mk]; apply Good.parts)

theorem good_sendGather {a : State} (j : Fin 4) (x : Job) (x2 : Tensor) (s : State) (h : Good a s) : Good a
    (sendGather j x x2 s) := by
  unfold sendGather
  try dsimp only
  with_reducible repeat' first | assumption | apply good_sendShare | split | (simp only [good_mk]; apply Good.parts)

theorem good_tallyEndOne {a : State} (j : Fin 4) (x : Job) (s : State) (x3 : Tensor) (h : Good a s) : Good a
    (tallyEndOne j x s x3) := by
  unfold tallyEndOne
  try dsimp only
  with_reducible repeat' first
    | assumption | apply good_sendTally | apply good_setTens | (intro _ _ _; try dsimp only) | split
    | (simp only [good_mk]; apply Good.parts)

theorem good_tryTallyEnd {a : State} (j : Fin 4) (s : State) (h : Good a s) : Good a (tryTallyEnd j s) := by
  unfold tryTallyEnd
  try dsimp only
  with_reducible repeat' first
    | assumption | apply good_tallyEndOne | apply Good.foldl | (intro _ _ _; try dsimp only) | split
    | (simp only [good_mk]; apply Good.parts)

theorem good_entryOver {a : State} (b : Fin 4) (s : State) (h : Good a s) : Good a (entryOver b s) := by
  unfold entryOver
  try dsimp only
  with_reducible repeat' first
    | assumption | apply good_eachSlot | apply good_tryTallyEnd | apply good_entryEnd | split
    | (simp only [good_mk]; apply Good.parts)

theorem good_entriesOver {a : State} (s : State) (h : Good a s) : Good a (entriesOver s) := by
  unfold entriesOver
  try dsimp only
  with_reducible repeat' first
    | assumption | apply good_eachSlot | apply good_tryTallyEnd | apply good_entryEnd | split
    | (simp only [good_mk]; apply Good.parts)

theorem good_passForeign {a : State} (j : Fin 4) (x : Job) (s : State) (h : Good a s) : Good a (passForeign j x s) :=
    by
  unfold passForeign
  try dsimp only
  with_reducible repeat' first
    | assumption | apply good_gtDone | apply good_setTens | apply Good.foldl | (intro _ _ _; try dsimp only)
    | split | (simp only [good_mk]; apply Good.parts)

theorem good_checkUpdate {a : State} (j : Fin 4) (s : State) (h : Good a s) : Good a (checkUpdate j s) := by
  unfold checkUpdate
  try dsimp only
  with_reducible repeat' first
    | assumption | apply good_tryTallyEnd | apply good_passForeign | apply good_colFresh | apply good_setJob
    | (intro _ _ _; try dsimp only) | split | (simp only [good_mk]; apply Good.parts)

theorem good_finalG {a : State} (j : Fin 4) (x1 : Tensor) (s : State) (h : Good a s) : Good a (finalG j x1 s) := by
  unfold finalG
  try dsimp only
  with_reducible repeat' first
    | assumption | apply good_setTens | apply good_checkUpdate | apply good_gtDone | apply good_ownDirect
    | apply good_setJob | (intro _ _ _; try dsimp only) | split | (simp only [good_mk]; apply Good.parts)

theorem good_optStoreBy {a : State} (f : Conv → Conv) (j : Fin 4) (x2 : Tensor) (i : Nat) (x4 : Acc) (s : State) (h :
    Good a s) : Good a (optStoreBy f j x2 i x4 s) := by
  unfold optStoreBy
  try dsimp only
  with_reducible repeat' first
    | assumption | apply good_convertElem | apply good_pokeOr | refine Good.snd (by assumption) ?_ | split
    | (simp only [good_mk]; apply Good.parts)

theorem good_optStore {a : State} (j : Fin 4) (x1 : Tensor) (i : Nat) (x3 : Acc) (s : State) (h : Good a s) : Good a
    (optStore j x1 i x3 s) := by
  unfold optStore
  try dsimp only
  with_reducible repeat' first | assumption | apply good_optStoreBy | split | (simp only [good_mk]; apply Good.parts)

theorem good_optFinish {a : State} (j : Fin 4) (x1 : Tensor) (s : State) (h : Good a s) : Good a (optFinish j x1 s) :=
    by
  unfold optFinish
  try dsimp only
  with_reducible repeat' first
    | assumption | apply good_tryTallyEnd | apply good_sendGather | apply good_setTens
    | (intro _ _ _; try dsimp only) | split | (simp only [good_mk]; apply Good.parts)

theorem good_ownOptStore {a : State} (f : Conv → Conv) (j : Fin 4) (x2 : Tensor) (i : Nat) (x4 : Acc) (s : State) (h :
    Good a s) : Good a (ownOptStore f j x2 i x4 s) := by
  unfold ownOptStore
  try dsimp only
  with_reducible repeat' first
    | assumption | apply good_setTens | apply good_optStoreBy | apply good_optFinish
    | (intro _ _ _; try dsimp only) | split | (simp only [good_mk]; apply Good.parts)

theorem good_putTel {a : State} (r : TelRec) (s : State) (h : Good a s) : Good a (putTel r s) := by
  unfold putTel
  try dsimp only
  with_reducible repeat' first
    | assumption | apply good_bumpTelDrops | apply good_bumpSeal | split | (simp only [good_mk]; apply Good.parts)

theorem good_putTels {a : State} : ∀ (rs : List TelRec) (y : State × Bool), Good a y.1 →
    Good a (rs.foldl (fun (y : State × Bool) r => (putTel r y.1, y.2 || telDropped y.1)) y).1
  | [], _, h => h
  | _ :: rs, _, h => good_putTels rs _ (good_putTel _ _ h)

theorem good_telemetry {a : State} (j : Fin 4) (x : Job) (before after : List TRun) (s : State) (h : Good a s) :
    Good a (telemetry j x before after s) := by
  unfold telemetry
  try dsimp only
  split
  · exact good_post _ _ (good_putTels _ _ h)
  · exact good_putTels _ _ h

theorem good_ovfAlert {a : State} (j : Fin 4) (x : Job) (before : List TRun) (s : State) (x4 : Tensor) (h : Good a s)
    : Good a (ovfAlert j x before s x4) := by
  unfold ovfAlert
  try dsimp only
  with_reducible repeat' first | assumption | apply good_post | split | (simp only [good_mk]; apply Good.parts)

theorem good_commitCounts {a : State} (j : Fin 4) (x : Job) (before : List TRun) (after : List TRun) (s : State) (h :
    Good a s) : Good a (commitCounts j x before after s) := by
  unfold commitCounts
  try dsimp only
  with_reducible repeat' first
    | assumption | apply good_bumpTrn | apply good_postIf | apply good_ovfAlert | apply Good.foldl
    | (intro _ _ _; try dsimp only) | split | (simp only [good_mk]; apply Good.parts)

theorem good_keepRecord {a : State} (j : Fin 4) (x : Job) (s : State) (h : Good a s) : Good a (keepRecord j x s) := by
  unfold keepRecord
  try dsimp only
  with_reducible repeat' first
    | assumption | apply good_freeHandle | refine good_stage ‹_› ?_ | apply good_setJob | apply good_exhausted
    | apply Good.foldl | (intro _ _ _; try dsimp only) | split | (simp only [good_mk]; apply Good.parts)

theorem good_commitStep {a : State} (j : Fin 4) (s : State) (h : Good a s) : Good a (commitStep j s) := by
  unfold commitStep
  try dsimp only
  with_reducible repeat' first
    | assumption | apply good_keepRecord | apply good_telemetry | apply good_commitCounts | apply good_setJob
    | apply good_freeArrivals | apply good_stopJob | apply good_boundary | (intro _ _ _; try dsimp only) | split
    | (simp only [good_mk]; apply Good.parts)

theorem good_replayFinish {a : State} (j : Fin 4) (x : Job) (s : State) (h : Good a s) : Good a (replayFinish j x s)
    := by
  unfold replayFinish
  try dsimp only
  with_reducible repeat' first
    | assumption | apply good_replayBoundary | apply good_replayDone | split
    | (simp only [good_mk]; apply Good.parts)

theorem good_noteReady {a : State} (idx : Nat) (step : Nat) (rank : Nat) (s : State) (h : Good a s) : Good a
    (noteReady idx step rank s) := by
  unfold noteReady
  try dsimp only
  with_reducible repeat' first
    | assumption | (intro _ _ _; try dsimp only) | split | (simp only [good_mk]; apply Good.parts)

theorem good_commitHere {a : State} (idx : Nat) (step : Nat) (s : State) (h : Good a s) : Good a (commitHere idx step
    s) := by
  unfold commitHere
  try dsimp only
  with_reducible repeat' first | assumption | apply good_commitStep | split | (simp only [good_mk]; apply Good.parts)

theorem good_nameWaiting {a : State} (idx : Nat) (step : Nat) (s : State) (h : Good a s) : Good a (nameWaiting idx
    step s) := by
  unfold nameWaiting
  try dsimp only
  with_reducible repeat' first | assumption | apply good_sendAll | split | (simp only [good_mk]; apply Good.parts)

theorem good_tryCommit {a : State} (idx : Nat) (step : Nat) (s : State) (h : Good a s) : Good a (tryCommit idx step s)
    := by
  unfold tryCommit
  try dsimp only
  with_reducible repeat' first
    | assumption | apply good_sendAll | apply good_nameWaiting | apply good_commitHere | apply good_lateRest
    | apply good_settle | apply good_changeShut | (intro _ _ _; try dsimp only) | split
    | (simp only [good_mk]; apply Good.parts)

theorem good_takeAbort {a : State} (job : Nat) (step : Nat) (s : State) (h : Good a s) : Good a (takeAbort job step s)
    := by
  unfold takeAbort
  try dsimp only
  with_reducible repeat' first
    | assumption | apply good_replayBoundary | apply good_replayDone | apply good_haltUnits | apply good_settle
    | apply good_rerunStep | apply good_abortStep | split | (simp only [good_mk]; apply Good.parts)

theorem good_decideStep {a : State} (idx : Nat) (n : Nat) (s : State) (h : Good a s) : Good a (decideStep idx n s) :=
    by
  unfold decideStep
  try dsimp only
  with_reducible repeat' first
    | assumption | apply good_commitHere | apply good_sendAll | apply good_takeAbort | apply good_abortAll | split
    | (simp only [good_mk]; apply Good.parts)

theorem good_settleAsked {a : State} (idx : Nat) (s : State) (h : Good a s) : Good a (settleAsked idx s) := by
  unfold settleAsked
  try dsimp only
  with_reducible repeat' first
    | assumption | apply good_decideStep | apply Good.foldl | (intro _ _ _; try dsimp only) | split
    | (simp only [good_mk]; apply Good.parts)

theorem good_askOutcome {a : State} (s : State) (idx : Nat) (h : Good a s) : Good a (askOutcome s idx) := by
  unfold askOutcome
  try dsimp only
  with_reducible repeat' first
    | assumption | apply good_settleAsked | apply good_sendAll | apply good_decideStep
    | (intro _ _ _; try dsimp only) | split | (simp only [good_mk]; apply Good.parts)

theorem good_changeSettled {a : State} (s : State) (h : Good a s) : Good a (changeSettled s) := by
  unfold changeSettled
  try dsimp only
  with_reducible repeat' first | assumption | apply good_changeNow | split | (simp only [good_mk]; apply Good.parts)

theorem good_departed {a : State} (ranks : List Nat) (s : State) (h : Good a s) : Good a (departed ranks s) := by
  unfold departed
  try dsimp only
  with_reducible repeat' first
    | assumption | apply good_partition | apply good_lateRest | apply good_changeSettled | apply good_askOutcome
    | apply good_abortFabric | apply Good.foldl | (intro _ _ _; try dsimp only) | split
    | (simp only [good_mk]; apply Good.parts)

/-! ### Machine/LinkOps.lean -/

theorem good_reportDown {a : State} (x0 : Adj) (s : State) (h : Good a s) : Good a (reportDown x0 s) := by
  unfold reportDown
  try dsimp only
  with_reducible repeat' first
    | assumption | apply good_sendCoord | apply good_dropEdge | split | (simp only [good_mk]; apply Good.parts)

theorem good_linkLost {a : State} (st : LkState) (l : Fin 8) (s : State) (h : Good a s) : Good a (linkLost st l s) :=
    by
  unfold linkLost
  try dsimp only
  with_reducible repeat' first
    | assumption | apply good_setLink | apply good_moveQueue | apply good_reportDown | apply good_lateRest
    | apply good_fabricFault | apply good_departed | (intro _ _ _; try dsimp only) | split
    | (simp only [good_mk]; apply Good.parts)

theorem good_linkEvent {a : State} (code : BitVec 16) (l : Fin 8) (s : State) (h : Good a s) : Good a (linkEvent code
    l s) := by
  unfold linkEvent
  try dsimp only
  with_reducible repeat' first | assumption | apply good_post | split | (simp only [good_mk]; apply Good.parts)

theorem good_linkFault {a : State} (bit : Nat) (l : Fin 8) (s : State) (h : Good a s) : Good a (linkFault bit l s) :=
    by
  unfold linkFault
  try dsimp only
  with_reducible repeat' first
    | assumption | apply good_setLink | (intro _ _ _; try dsimp only) | split
    | (simp only [good_mk]; apply Good.parts)

theorem good_linkDownNow {a : State} (l : Fin 8) (s : State) (h : Good a s) : Good a (linkDownNow l s) := by
  unfold linkDownNow
  try dsimp only
  with_reducible repeat' first
    | assumption | apply good_linkLost | apply good_linkEvent | split | (simp only [good_mk]; apply Good.parts)

theorem good_helloFail {a : State} (l : Fin 8) (s : State) (h : Good a s) : Good a (helloFail l s) := by
  unfold helloFail
  try dsimp only
  with_reducible repeat' first
    | assumption | apply good_setLink | apply good_linkEvent | apply good_linkFault | split
    | (simp only [good_mk]; apply Good.parts)

theorem good_dissolveAll {a : State} (s : State) (h : Good a s) : Good a (dissolveAll s) := by
  unfold dissolveAll
  try dsimp only
  with_reducible repeat' first
    | assumption | apply good_dissolve | apply good_sendAll | split | (simp only [good_mk]; apply Good.parts)

theorem good_meet {a : State} (x : Link) (s : State) (h : Good a s) : Good a (meet x s) := by
  unfold meet
  try dsimp only
  with_reducible repeat' first
    | assumption | apply good_dissolveAll | apply good_sendCoord | apply good_post | split
    | (simp only [good_mk]; apply Good.parts)

theorem good_newsUp {a : State} (l : Fin 8) (s : State) (h : Good a s) : Good a (newsUp l s) := by
  unfold newsUp
  try dsimp only
  with_reducible repeat' first
    | assumption | apply good_reportUp | apply good_sendCoord | split | (simp only [good_mk]; apply Good.parts)

theorem good_upNews {a : State} (l : Fin 8) (s : State) (h : Good a s) : Good a (upNews l s) := by
  unfold upNews
  try dsimp only
  with_reducible repeat' first
    | assumption | apply good_newsUp | apply good_meet | apply good_sendJoin | split
    | (simp only [good_mk]; apply Good.parts)

theorem good_linkUpNow {a : State} (l : Fin 8) (s : State) (h : Good a s) : Good a (linkUpNow l s) := by
  unfold linkUpNow
  try dsimp only
  with_reducible repeat' first
    | assumption | apply good_setLink | apply good_upNews | apply good_linkEvent | (intro _ _ _; try dsimp only)
    | split | (simp only [good_mk]; apply Good.parts)

theorem good_sayHello {a : State} (l : Fin 8) (s : State) (h : Good a s) : Good a (sayHello l s) := by
  unfold sayHello
  try dsimp only
  with_reducible repeat' first
    | assumption | apply good_setLink | (intro _ _ _; try dsimp only) | split
    | (simp only [good_mk]; apply Good.parts)

theorem good_tryKeys {a : State} (l : Fin 8) (s : State) (h : Good a s) : Good a (tryKeys l s) := by
  unfold tryKeys
  try dsimp only
  with_reducible repeat' first
    | assumption | apply good_setLink | apply good_sayHello | (intro _ _ _; try dsimp only) | split
    | (simp only [good_mk]; apply Good.parts)

theorem good_beginHello {a : State} (l : Fin 8) (s : State) (h : Good a s) : Good a (beginHello l s) := by
  unfold beginHello
  try dsimp only
  with_reducible repeat' first
    | assumption | apply good_askRng | apply good_setLink | (intro _ _ _; try dsimp only) | split
    | (simp only [good_mk]; apply Good.parts)

theorem good_takeHello {a : State} (l : Fin 8) (m : Hello) (s : State) (h : Good a s) : Good a (takeHello l m s) := by
  unfold takeHello
  try dsimp only
  with_reducible repeat' first
    | assumption | apply good_tryKeys | apply good_setLink | (intro _ _ _; try dsimp only) | split
    | (simp only [good_mk]; apply Good.parts)

theorem good_notAdmit {a : State} (l : Fin 8) (m : Hello) (s : State) (h : Good a s) : Good a (notAdmit l m s) := by
  unfold notAdmit
  try dsimp only
  with_reducible repeat' first
    | assumption | apply good_setLink | apply good_linkEvent | apply good_linkFault
    | (intro _ _ _; try dsimp only) | split | (simp only [good_mk]; apply Good.parts)

theorem good_retryExceeded {a : State} (l : Fin 8) (s : State) (h : Good a s) : Good a (retryExceeded l s) := by
  unfold retryExceeded
  try dsimp only
  with_reducible repeat' first
    | assumption | apply good_linkEvent | apply good_linkFault | apply good_setLink | apply good_lateRest
    | apply good_fabricFault | apply good_retrainLink | (intro _ _ _; try dsimp only) | split
    | (simp only [good_mk]; apply Good.parts)

theorem good_resendFrom {a : State} (n : BitVec 12) (l : Fin 8) (s : State) (h : Good a s) : Good a (resendFrom n l s)
    := by
  unfold resendFrom
  try dsimp only
  with_reducible repeat' first
    | assumption | apply good_retryExceeded | apply good_setLink | (intro _ _ _; try dsimp only) | split
    | (simp only [good_mk]; apply Good.parts)

theorem good_flitErrors {a : State} (l : Fin 8) (rx : FlitRx) (s : State) (h : Good a s) : Good a (flitErrors l rx
    s).2 := by
  unfold flitErrors
  try dsimp only
  with_reducible repeat' first
    | assumption | apply good_bumpLink | apply good_setLink | (intro _ _ _; try dsimp only) | split
    | (simp only [good_mk]; apply Good.parts)

theorem good_badFlit {a : State} (l : Fin 8) (s : State) (h : Good a s) : Good a (badFlit l s) := by
  unfold badFlit
  try dsimp only
  with_reducible repeat' first
    | assumption | apply good_setLink | (intro _ _ _; try dsimp only) | split
    | (simp only [good_mk]; apply Good.parts)

theorem good_beginRekey {a : State} (l : Fin 8) (first : Bool) (peerEph : List Byte) (s : State) (h : Good a s) : Good
    a (beginRekey l first peerEph s) := by
  unfold beginRekey
  try dsimp only
  with_reducible repeat' first
    | assumption | apply good_askRng | apply good_setLink | (intro _ _ _; try dsimp only) | split
    | (simp only [good_mk]; apply Good.parts)

theorem good_offerKeys {a : State} (l : Fin 8) (s : State) (h : Good a s) : Good a (offerKeys l s) := by
  unfold offerKeys
  try dsimp only
  with_reducible repeat' first
    | assumption | apply good_setLink | (intro _ _ _; try dsimp only) | split
    | (simp only [good_mk]; apply Good.parts)

theorem good_chooseSwitch {a : State} (l : Fin 8) (s0 : State) (h : Good a s0) : Good a (chooseSwitch l s0) := by
  unfold chooseSwitch
  try dsimp only
  with_reducible repeat' first
    | assumption | apply good_offerKeys | apply good_someCycles | apply good_setLink
    | refine Good.snd (by assumption) ?_ | (intro _ _ _; try dsimp only) | split
    | (simp only [good_mk]; apply Good.parts)

theorem good_rekeyPart {a : State} (l : Fin 8) (b : LinkBody) (s : State) (h : Good a s) : Good a (rekeyPart l b s) :=
    by
  unfold rekeyPart
  try dsimp only
  with_reducible repeat' first
    | assumption | apply good_setLink | apply good_beginRekey | apply good_chooseSwitch
    | (intro _ _ _; try dsimp only) | split | (simp only [good_mk]; apply Good.parts)

theorem good_noteQuiet {a : State} (s : State) (h : Good a s) : Good a (noteQuiet s) := by
  unfold noteQuiet
  try dsimp only
  with_reducible repeat' first
    | assumption | (intro _ _ _; try dsimp only) | split | (simp only [good_mk]; apply Good.parts)

theorem good_colAgain {a : State} (sel : Fin 4 → Bool) (s : State) (h : Good a s) : Good a (colAgain sel s) := by
  unfold colAgain
  try dsimp only
  with_reducible repeat' first | assumption | split | (simp only [good_mk]; apply Good.parts)

theorem good_dataBack {a : State} (l : Fin 8) (was s : State) (h : Good a s) : Good a (dataBack l was s) := by
  unfold dataBack
  try dsimp only
  with_reducible repeat' first
    | assumption | apply good_colAgain | apply good_noteQuiet | split | (simp only [good_mk]; apply Good.parts)

theorem good_acceptFlits {a : State} (l : Fin 8) (x1 : MsgHdr) (s : State) (h : Good a s) : Good a (acceptFlits l x1
    s) := by
  unfold acceptFlits
  try dsimp only
  with_reducible repeat' first
    | assumption | apply good_dataBack | apply good_bumpLink | apply good_setLink | (intro _ _ _; try dsimp only) | split
    | (simp only [good_mk]; apply Good.parts)

theorem good_forwardOne {a : State} (x0 : MsgHdr) (p : Payload) (s : State) (h : Good a s) : Good a (forwardOne x0 p
    s) := by
  unfold forwardOne
  try dsimp only
  with_reducible repeat' first
    | assumption | apply good_bumpWs | apply good_sendTo | apply good_noteSent | split
    | (simp only [good_mk]; apply Good.parts)

theorem good_forwardAll {a : State} (x0 : MsgHdr) (p : Payload) (s : State) (h : Good a s) : Good a (forwardAll x0 p
    s) := by
  unfold forwardAll
  try dsimp only
  with_reducible repeat' first
    | assumption | apply good_bumpWs | apply good_enqueue | apply Good.foldl | (intro _ _ _; try dsimp only)
    | split | (simp only [good_mk]; apply Good.parts)

theorem good_recv {a : State} (l : Fin 8) (x1 : MsgHdr) (p : Payload) (k : State → State) (s : State) (hk : ∀ y0, Good
    a y0 → Good a (k y0)) (h : Good a s) : GoodOut a (recv l x1 p k s) := by
  unfold recv
  try dsimp only
  with_reducible repeat' first
    | assumption | apply good_acceptFlits | apply good_bumpWs | apply good_forwardOne | apply good_forwardAll
    | apply hk | apply GoodOut.next | exact GoodOut.fault | (intro _ _ _; try dsimp only) | split
    | (simp only [good_mk]; apply Good.parts)

/-! ### Machine/Links.lean -/

theorem good_execSignalDetect {a : State} (l : Fin 8) (s : State) (h : Good a s) : GoodOut a (execSignalDetect l s) :=
    by
  unfold execSignalDetect
  try dsimp only
  with_reducible repeat' first
    | assumption | apply good_setLink | apply GoodOut.next | exact GoodOut.fault | (intro _ _ _; try dsimp only)
    | split | (simp only [good_mk]; apply Good.parts)

theorem good_execFlitAlignment {a : State} (l : Fin 8) (s : State) (h : Good a s) : GoodOut a (execFlitAlignment l s)
    := by
  unfold execFlitAlignment
  try dsimp only
  with_reducible repeat' first
    | assumption | apply good_beginHello | apply GoodOut.next | exact GoodOut.fault | split
    | (simp only [good_mk]; apply Good.parts)

theorem good_execTrainTimeout {a : State} (l : Fin 8) (s : State) (h : Good a s) : GoodOut a (execTrainTimeout l s) :=
    by
  unfold execTrainTimeout
  try dsimp only
  with_reducible repeat' first
    | assumption | apply good_setLink | apply good_linkEvent | apply good_linkFault | apply GoodOut.next
    | exact GoodOut.fault | (intro _ _ _; try dsimp only) | split | (simp only [good_mk]; apply Good.parts)

theorem good_execTrainRetryDue {a : State} (l : Fin 8) (s : State) (h : Good a s) : GoodOut a (execTrainRetryDue l s)
    := by
  unfold execTrainRetryDue
  try dsimp only
  with_reducible repeat' first
    | assumption | apply good_setLink | apply GoodOut.next | exact GoodOut.fault | (intro _ _ _; try dsimp only)
    | split | (simp only [good_mk]; apply Good.parts)

theorem good_execHello {a : State} (l : Fin 8) (m : Hello) (s : State) (h : Good a s) : GoodOut a (execHello l m s) :=
    by
  unfold execHello
  try dsimp only
  with_reducible repeat' first
    | assumption | apply good_helloFail | apply good_notAdmit | apply good_takeHello | apply GoodOut.next
    | exact GoodOut.fault | split | (simp only [good_mk]; apply Good.parts)

theorem good_execHelloResendDue {a : State} (l : Fin 8) (s : State) (h : Good a s) : GoodOut a (execHelloResendDue l
    s) := by
  unfold execHelloResendDue
  try dsimp only
  with_reducible repeat' first
    | assumption | apply good_sayHello | apply GoodOut.next | exact GoodOut.fault | split
    | (simp only [good_mk]; apply Good.parts)

theorem good_execHelloTimeout {a : State} (l : Fin 8) (s : State) (h : Good a s) : GoodOut a (execHelloTimeout l s) :=
    by
  unfold execHelloTimeout
  try dsimp only
  with_reducible repeat' first
    | assumption | apply good_helloFail | apply GoodOut.next | exact GoodOut.fault | split
    | (simp only [good_mk]; apply Good.parts)

theorem good_execKeysOnTimeout {a : State} (l : Fin 8) (s : State) (h : Good a s) : GoodOut a (execKeysOnTimeout l s)
    := by
  unfold execKeysOnTimeout
  try dsimp only
  with_reducible repeat' first
    | assumption | apply good_helloFail | apply GoodOut.next | exact GoodOut.fault | split
    | (simp only [good_mk]; apply Good.parts)

theorem good_execNotAdmittedHelloDue {a : State} (l : Fin 8) (s : State) (h : Good a s) : GoodOut a
    (execNotAdmittedHelloDue l s) := by
  unfold execNotAdmittedHelloDue
  try dsimp only
  with_reducible repeat' first
    | assumption | apply good_sayHello | apply GoodOut.next | exact GoodOut.fault | split
    | (simp only [good_mk]; apply Good.parts)

theorem good_linkBody {a : State} (l : Fin 8) (b : LinkBody) (s : State) (h : Good a s) : Good a (linkBody l b s) :=
    by
  unfold linkBody
  try dsimp only
  with_reducible repeat' first
    | assumption | apply good_setLink | apply good_rekeyPart | apply good_linkUpNow | apply good_resendFrom
    | (intro _ _ _; try dsimp only) | split | (simp only [good_mk]; apply Good.parts)

theorem good_dataFlit {a : State} (l : Fin 8) (seq : BitVec 12) (retx : Bool) (vl : BitVec 2) (s : State) (h : Good a
    s) : Good a (dataFlit l seq retx vl s) := by
  unfold dataFlit
  try dsimp only
  with_reducible repeat' first
    | assumption | apply good_bumpLink | apply good_setLink | (intro _ _ _; try dsimp only) | split
    | (simp only [good_mk]; apply Good.parts)

theorem good_badLink {a : State} (l : Fin 8) (rx : FlitRx) (s : State) (h : Good a s) : Good a (badLink l rx s) := by
  unfold badLink
  try dsimp only
  with_reducible repeat' first
    | assumption | apply good_helloFail | apply good_badFlit | split | (simp only [good_mk]; apply Good.parts)

theorem good_execLinkFlit {a : State} (l : Fin 8) (f : Flit) (s : State) (h : Good a s) : GoodOut a (execLinkFlit l f
    s) := by
  unfold execLinkFlit
  try dsimp only
  with_reducible repeat' first
    | assumption | apply good_dataBack | apply good_flitErrors | apply good_badLink | apply good_linkBody | apply good_badFlit
    | apply good_dataFlit | refine Good.snd (by assumption) ?_ | apply GoodOut.next | exact GoodOut.fault | split
    | (simp only [good_mk]; apply Good.parts)

theorem good_execQuiesceFlit {a : State} (l : Fin 8) (rx : FlitRx) (b : LinkBody) (s : State) (h : Good a s) : GoodOut
    a (execQuiesceFlit l rx b s) := by
  unfold execQuiesceFlit
  try dsimp only
  with_reducible repeat' first
    | assumption | apply good_flitErrors | apply good_badFlit | apply good_linkBody | apply good_noteQuiet
    | apply good_setLink | refine Good.snd (by assumption) ?_ | apply GoodOut.next | exact GoodOut.fault
    | (intro _ _ _; try dsimp only) | split | (simp only [good_mk]; apply Good.parts)

theorem good_execLinkFlitDue {a : State} (l : Fin 8) (s : State) (h : Good a s) : GoodOut a (execLinkFlitDue l s) :=
    by
  unfold execLinkFlitDue
  try dsimp only
  with_reducible repeat' first
    | assumption | apply good_flitSlot | apply GoodOut.next | exact GoodOut.fault | split
    | (simp only [good_mk]; apply Good.parts)

theorem good_execRetxTimeout {a : State} (l : Fin 8) (s : State) (h : Good a s) : GoodOut a (execRetxTimeout l s) :=
    by
  unfold execRetxTimeout
  try dsimp only
  with_reducible repeat' first
    | assumption | apply good_resendFrom | apply GoodOut.next | exact GoodOut.fault | split
    | (simp only [good_mk]; apply Good.parts)

theorem good_execTagFailLimit {a : State} (l : Fin 8) (s : State) (h : Good a s) : GoodOut a (execTagFailLimit l s) :=
    by
  unfold execTagFailLimit
  try dsimp only
  with_reducible repeat' first
    | assumption | apply good_linkDownNow | apply good_helloFail | apply GoodOut.next | exact GoodOut.fault
    | split | (simp only [good_mk]; apply Good.parts)

theorem good_execLos {a : State} (l : Fin 8) (s : State) (h : Good a s) : GoodOut a (execLos l s) := by
  unfold execLos
  try dsimp only
  with_reducible repeat' first
    | assumption | apply good_linkDownNow | apply good_linkFault | apply GoodOut.next | exact GoodOut.fault
    | split | (simp only [good_mk]; apply Good.parts)

theorem good_execRekeyStart {a : State} (l : Fin 8) (s : State) (h : Good a s) : GoodOut a (execRekeyStart l s) := by
  unfold execRekeyStart
  try dsimp only
  with_reducible repeat' first
    | assumption | apply good_beginRekey | apply GoodOut.next | exact GoodOut.fault | split
    | (simp only [good_mk]; apply Good.parts)

theorem good_execKeySwitch {a : State} (l : Fin 8) (tx : Bool) (s : State) (h : Good a s) : GoodOut a (execKeySwitch l
    tx s) := by
  unfold execKeySwitch
  try dsimp only
  with_reducible repeat' first
    | assumption | apply good_switchTx | apply good_switchRx | apply GoodOut.next | exact GoodOut.fault | split
    | (simp only [good_mk]; apply Good.parts)

theorem good_execRekeyRetryDue {a : State} (l : Fin 8) (s : State) (h : Good a s) : GoodOut a (execRekeyRetryDue l s)
    := by
  unfold execRekeyRetryDue
  try dsimp only
  with_reducible repeat' first
    | assumption | apply good_askRng | apply GoodOut.next | exact GoodOut.fault | split
    | (simp only [good_mk]; apply Good.parts)

theorem good_execRekeyLate {a : State} (l : Fin 8) (s : State) (h : Good a s) : GoodOut a (execRekeyLate l s) := by
  unfold execRekeyLate
  try dsimp only
  with_reducible repeat' first
    | assumption | apply good_linkEvent | apply good_linkFault | apply GoodOut.next | exact GoodOut.fault | split
    | (simp only [good_mk]; apply Good.parts)

theorem good_execLinkExhausted {a : State} (l : Fin 8) (s : State) (h : Good a s) : GoodOut a (execLinkExhausted l s)
    := by
  unfold execLinkExhausted
  try dsimp only
  with_reducible repeat' first
    | assumption | apply good_linkLost | apply good_linkEvent | apply good_linkFault | apply good_setLink
    | apply GoodOut.next | exact GoodOut.fault | (intro _ _ _; try dsimp only) | split
    | (simp only [good_mk]; apply Good.parts)

theorem good_unitWorkIfIdle {a : State} (s : State) (h : Good a s) : Good a (unitWorkIfIdle s) := by
  unfold unitWorkIfIdle
  try dsimp only
  with_reducible repeat' first | assumption | apply good_unitWork | split | (simp only [good_mk]; apply Good.parts)

theorem good_execFecErrorBurst {a : State} (l : Fin 8) (uncorr : Nat) (corr : Nat) (s : State) (h : Good a s) :
    GoodOut a (execFecErrorBurst l uncorr corr s) := by
  unfold execFecErrorBurst
  try dsimp only
  with_reducible repeat' first
    | assumption | apply good_bumpLink | apply good_retrainLink | apply GoodOut.next | exact GoodOut.fault | split
    | (simp only [good_mk]; apply Good.parts)

theorem good_execLinkMarginLow {a : State} (l : Fin 8) (vMin : Byte) (hMin : Byte) (lane : BitVec 2) (s : State) (h :
    Good a s) : GoodOut a (execLinkMarginLow l vMin hMin lane s) := by
  unfold execLinkMarginLow
  try dsimp only
  with_reducible repeat' first
    | assumption | apply good_setLink | apply good_unitWorkIfIdle | apply good_linkFault | apply GoodOut.next
    | exact GoodOut.fault | (intro _ _ _; try dsimp only) | split | (simp only [good_mk]; apply Good.parts)

theorem good_execLinkRetrainDone {a : State} (l : Fin 8) (s : State) (h : Good a s) : GoodOut a (execLinkRetrainDone l
    s) := by
  unfold execLinkRetrainDone
  try dsimp only
  with_reducible repeat' first
    | assumption | apply good_setLink | apply good_resendFrom | apply good_nextUnit | apply good_retrainUnitDone
    | apply GoodOut.next | exact GoodOut.fault | (intro _ _ _; try dsimp only) | split
    | (simp only [good_mk]; apply Good.parts)

theorem good_execLinkRetrainTimeout {a : State} (l : Fin 8) (s : State) (h : Good a s) : GoodOut a
    (execLinkRetrainTimeout l s) := by
  unfold execLinkRetrainTimeout
  try dsimp only
  with_reducible repeat' first
    | assumption | apply good_nextUnit | apply good_retrainUnitDone | apply good_linkDownNow | apply GoodOut.next
    | exact GoodOut.fault | split | (simp only [good_mk]; apply Good.parts)

theorem good_execFabDisable {a : State} (l : Fin 8) (on : Bool) (s : State) (h : Good a s) : GoodOut a (execFabDisable
    l on s) := by
  unfold execFabDisable
  try dsimp only
  with_reducible repeat' first
    | assumption | apply good_setLink | apply good_nextUnit | apply good_retrainUnitDone | apply good_linkLost
    | apply GoodOut.next | exact GoodOut.fault | (intro _ _ _; try dsimp only) | split
    | (simp only [good_mk]; apply Good.parts)

theorem good_execFabRestart {a : State} (l : Fin 8) (s : State) (h : Good a s) : GoodOut a (execFabRestart l s) := by
  unfold execFabRestart
  try dsimp only
  with_reducible repeat' first
    | assumption | apply good_setLink | apply GoodOut.next | exact GoodOut.fault | (intro _ _ _; try dsimp only)
    | split | (simp only [good_mk]; apply Good.parts)

theorem good_execSendWake {a : State} (l : Fin 8) (s : State) (h : Good a s) : GoodOut a (execSendWake l s) := by
  unfold execSendWake
  try dsimp only
  with_reducible repeat' first
    | assumption | apply good_setLink | apply GoodOut.next | exact GoodOut.fault | (intro _ _ _; try dsimp only)
    | split | (simp only [good_mk]; apply Good.parts)

theorem good_execRetrainReq {a : State} (l : Fin 8) (s : State) (h : Good a s) : GoodOut a (execRetrainReq l s) := by
  unfold execRetrainReq
  try dsimp only
  with_reducible repeat' first
    | assumption | apply good_unitWorkIfIdle | apply good_setLink | apply GoodOut.next | exact GoodOut.fault
    | (intro _ _ _; try dsimp only) | split | (simp only [good_mk]; apply Good.parts)

theorem good_execFabWsCfgWrite {a : State} (v : Word) (s : State) (h : Good a s) : GoodOut a (execFabWsCfgWrite v s)
    := by
  unfold execFabWsCfgWrite
  try dsimp only
  with_reducible repeat' first
    | assumption | apply good_post | apply GoodOut.next | exact GoodOut.fault | split
    | (simp only [good_mk]; apply Good.parts)

end Sys2Proof.Machine
end

