-- ==== Sys2Proof/Laws/GoodBoot.lean ====
section
/-! SUPPORT. `Good` is kept by flash, images, benches, planes, the schedule, copies and job control:
for each operation, the lemma `good_<its name>`, which says that it leaves the waiting commands alone, undoes nothing that
goes one way, and keeps the invariant. -/

namespace Sys2Proof.Machine

/-! ### Machine/FlashLog.lean -/

theorem raiseCount_kept (b : Nat) (f : Fls) : (raiseCount b f).prot = f.prot ∧ (raiseCount b f).bbt = f.bbt :=
  ⟨rfl, rfl⟩

/-- An update of the flash that keeps the protection states and the retired blocks. -/
theorem Good.partsFls {a s : State} {f : Fls} (h : Good a s) (k : f.prot = s.fls.prot ∧ f.bbt = s.fls.bbt) :
    Good a { s with fls := f } := by
  refine good_mk.2 ?_
  rw [k.1, k.2]
  exact h.parts

theorem good_hkAppend {a : State} (i : HkItem) (s : State) (h : Good a s) : Good a (hkAppend i s) := by
  unfold hkAppend
  try dsimp only
  split
  · exact good_bumpFls _ _ _ (good_mk.2 h.parts)
  · exact good_bumpFls _ _ _ (good_bumpFls _ _ _ (h.partsFls (raiseCount_kept (pairBlock 6 (!s.fls.hkBlk)) s.fls)))

theorem good_countErase {a : State} (b : Nat) (s : State) (h : Good a s) : Good a (countErase b s) :=
  good_hkAppend _ _ (h.partsFls (raiseCount_kept _ _))

theorem good_bbCompact {a : State} (c : Fin 2) (s : State) (h : Good a s) : Good a (bbCompact c s) := by
  unfold bbCompact
  try dsimp only
  with_reducible repeat' first
    | assumption | apply good_countErase | apply good_bumpFls | split | (simp only [good_mk]; apply Good.parts)

theorem good_bbRoom {a : State} (s : State) (h : Good a s) : Good a (bbRoom s) := by
  unfold bbRoom
  try dsimp only
  with_reducible repeat' first | assumption | apply good_bbCompact | split | (simp only [good_mk]; apply Good.parts)

theorem good_bbAppend {a : State} (x0 : BbEntry) (s : State) (h : Good a s) : Good a (bbAppend x0 s) :=
  good_bumpFls _ _ _ (good_mk.2 ((good_bbRoom _ h).partsOneWay (Nat.le_refl _) (fun _ q => q) ⟨[x0], rfl⟩))

theorem good_setBank {a : State} (b : Bank) (st : BankState) (s : State) (h : Good a s) : Good a (setBank b st s) :=
    by
  unfold setBank
  try dsimp only
  with_reducible repeat' first | assumption | split | (simp only [good_mk]; apply Good.parts)

theorem good_selAppend {a : State} (k : SelKind) (b : Bank) (svn : BitVec 16) (id : DWord) (s : State) (h : Good a s)
    : Good a (selAppend k b svn id s) := by
  unfold selAppend
  try dsimp only
  with_reducible repeat' first
    | assumption | apply good_bumpFls | apply good_countErase | split | (simp only [good_mk]; apply Good.parts)

theorem good_ksAppend {a : State} (x0 : KsCommit) (s : State) (h : Good a s) : Good a (ksAppend x0 s) := by
  unfold ksAppend
  try dsimp only
  with_reducible repeat' first
    | assumption | apply good_bumpFls | apply good_countErase | split | (simp only [good_mk]; apply Good.parts)

theorem good_arRaise {a : State} (v : Nat) (s : State) (h : Good a s) : Good a (arRaise v s) := by
  unfold arRaise
  try dsimp only
  with_reducible repeat' first
    | assumption | apply good_bumpFls | apply good_post | apply good_flsFault | split
    | (simp only [good_mk]; apply Good.parts)

/-! ### Machine/ImageOps.lean -/

theorem good_uncorrRead {a : State} (b : Nat) (n : Nat) (s : State) (h : Good a s) : Good a (uncorrRead b n s) := by
  unfold uncorrRead
  try dsimp only
  with_reducible repeat' first
    | assumption | apply good_post | apply good_bumpFls | apply good_flsFault | split
    | (simp only [good_mk]; apply Good.parts)

theorem good_marginFault {a : State} (b : Nat) (s : State) (h : Good a s) : Good a (marginFault b s) := by
  unfold marginFault
  try dsimp only
  with_reducible repeat' first
    | assumption | apply good_post | apply good_bumpFls | apply good_flsFault | split
    | (simp only [good_mk]; apply Good.parts)

/-! ### Machine/FlashOps.lean -/

theorem good_abandonImage {a : State} (s : State) (h : Good a s) : Good a (abandonImage s) := by
  unfold abandonImage
  try dsimp only
  with_reducible repeat' first
    | assumption | apply good_endAll | apply good_dropTask | apply good_setBank | split
    | (simp only [good_mk]; apply Good.parts)

theorem good_loseOld {a : State} (d : FlashDone) (s : State) (h : Good a s) : Good a (loseOld d s) := by
  unfold loseOld
  try dsimp only
  with_reducible repeat' first | assumption | split | (simp only [good_mk]; apply Good.parts)

theorem good_beginOp {a : State} (s : State) (h : Good a s) : Good a (beginOp s) := by
  unfold beginOp
  try dsimp only
  with_reducible repeat' first
    | assumption | apply good_countErase | apply good_loseOld | split | (simp only [good_mk]; apply Good.parts)

theorem good_shrink {a : State} (b : Nat) (s : State) (h : Good a s) : Good a (shrink b s) := by
  unfold shrink
  try dsimp only
  with_reducible repeat' first
    | assumption | apply good_post | apply good_flsFault | split | (simp only [good_mk]; apply Good.parts)

theorem good_noteRetired {a : State} (c : RetireCause) (b : Nat) (new : Option Nat) (s : State) (h : Good a s) : Good
    a (noteRetired c b new s) := by
  unfold noteRetired
  try dsimp only
  with_reducible repeat' first
    | assumption | apply good_post | apply good_bumpFls | apply good_flsFault | apply good_bbAppend | split
    | (simp only [good_mk]; apply Good.parts)

theorem good_mapTo {a : State} (b : Nat) (p : Nat) (s : State) (h : Good a s) : Good a (mapTo b p s) := by
  unfold mapTo
  try dsimp only
  with_reducible repeat' first | assumption | split | (simp only [good_mk]; apply Good.parts)

theorem good_poolEnd {a : State} (s : State) (h : Good a s) : Good a (poolEnd s) := by
  unfold poolEnd
  try dsimp only
  with_reducible repeat' first | assumption | apply good_post | split | (simp only [good_mk]; apply Good.parts)

theorem good_retire {a : State} (c : RetireCause) (b : Nat) (s : State) (h : Good a s) : Good a (retire c b s).2 := by
  unfold retire
  try dsimp only
  with_reducible repeat' first
    | assumption | apply good_mapTo | apply good_noteRetired | apply good_bumpFls | apply good_poolEnd
    | apply good_shrink | split | (simp only [good_mk]; apply Good.parts)

theorem good_marginFailed {a : State} (b : Nat) (s : State) (h : Good a s) : Good a (marginFailed b s) := by
  unfold marginFailed
  try dsimp only
  with_reducible repeat' first
    | assumption | apply good_marginFault | apply good_retire | refine Good.snd (by assumption) ?_ | split
    | (simp only [good_mk]; apply Good.parts)

theorem good_marginPassed {a : State} (sel : Nat → Bool) (s : State) (h : Good a s) : Good a (marginPassed sel s) :=
    by
  unfold marginPassed
  try dsimp only
  with_reducible repeat' first
    | assumption | (intro _ _ _; try dsimp only) | split | (simp only [good_mk]; apply Good.parts)

theorem good_commitRead {a : State} (x : ImgSession) (v : CommitVerdict) (s : State) (h : Good a s) : Good a
    (commitRead x v s) := by
  unfold commitRead
  try dsimp only
  with_reducible repeat' first
    | assumption | apply good_marginFailed | apply good_marginPassed | (intro _ _ _; try dsimp only) | split
    | (simp only [good_mk]; apply Good.parts)

theorem good_commitImage {a : State} (x : ImgSession) (v : CommitVerdict) (s : State) (h : Good a s) : Good a
    (commitImage x v s).2 := by
  unfold commitImage
  try dsimp only
  with_reducible repeat' first
    | assumption | apply good_commitRead | apply good_selAppend | apply good_setBank | split
    | (simp only [good_mk]; apply Good.parts)

theorem good_markExport {a : State} (j : Fin 4) (ok : Bool) (s : State) (h : Good a s) : Good a (markExport j ok s) :=
    by
  unfold markExport
  try dsimp only
  with_reducible repeat' first
    | assumption | apply good_setJob | (intro _ _ _; try dsimp only) | split
    | (simp only [good_mk]; apply Good.parts)

theorem good_startExport {a : State} (j : Fin 4) (s : State) (h : Good a s) : Good a (startExport j s) := by
  unfold startExport
  try dsimp only
  with_reducible repeat' first
    | assumption | apply good_queueTask | (intro _ _ _; try dsimp only) | split
    | (simp only [good_mk]; apply Good.parts)

theorem good_giveBack {a : State} (x0 : FlashTask) (s : State) (h : Good a s) : Good a (giveBack x0 s) := by
  unfold giveBack
  try dsimp only
  with_reducible repeat' first
    | assumption | (intro _ _ _; try dsimp only) | split | (simp only [good_mk]; apply Good.parts)

theorem good_failImage {a : State} (x0 : FlashTask) (s : State) (h : Good a s) : Good a (failImage x0 s) := by
  unfold failImage
  try dsimp only
  with_reducible repeat' first | assumption | apply good_setBank | split | (simp only [good_mk]; apply Good.parts)

theorem good_tenantFails {a : State} (s : State) (h : Good a s) : Good a (tenantFails s) := by
  unfold tenantFails
  try dsimp only
  with_reducible repeat' first
    | assumption | apply good_runLater | apply good_endWith | split | (simp only [good_mk]; apply Good.parts)

theorem good_tenantDraw {a : State} (s : State) (h : Good a s) : Good a (tenantDraw s) := by
  unfold tenantDraw
  try dsimp only
  with_reducible repeat' first
    | assumption | apply good_tenantFails | apply good_askRng | split | (simp only [good_mk]; apply Good.parts)

theorem good_failTask {a : State} (x0 : FlashTask) (s : State) (h : Good a s) : Good a (failTask x0 s) := by
  unfold failTask
  try dsimp only
  with_reducible repeat' first
    | assumption | apply good_failImage | apply good_endOpt | apply good_giveBack | apply good_tenantDraw
    | apply good_markExport | split | (simp only [good_mk]; apply Good.parts)

theorem good_swapBlocks {a : State} (b : Nat) (sp : Nat) (s : State) (h : Good a s) : Good a (swapBlocks b sp s) := by
  unfold swapBlocks
  try dsimp only
  with_reducible repeat' first
    | assumption | apply good_bbAppend | apply good_queueTask | split | (simp only [good_mk]; apply Good.parts)

theorem good_finishTask {a : State} (x0 : FlashTask) (s : State) (h : Good a s) : Good a (finishTask x0 s) := by
  unfold finishTask
  try dsimp only
  with_reducible repeat' first
    | assumption | apply good_endOpt | apply good_commitImage | apply good_tenantDraw | apply good_post
    | apply good_warmRestart | apply good_swapBlocks | apply good_markExport | refine Good.snd (by assumption) ?_
    | split | (simp only [good_mk]; apply Good.parts)

theorem good_opDone {a : State} (x0 : FlashTask) (erased : Bool) (s : State) (h : Good a s) : Good a (opDone x0 erased
    s) := by
  unfold opDone
  try dsimp only
  with_reducible repeat' first
    | assumption | apply good_finishTask | apply good_beginOp | split | (simp only [good_mk]; apply Good.parts)

theorem good_countStall {a : State} (s : State) (h : Good a s) : Good a (countStall s) := by
  unfold countStall
  try dsimp only
  with_reducible repeat' first
    | assumption | apply good_someCycles | apply good_bumpFls | refine Good.snd (by assumption) ?_ | split
    | (simp only [good_mk]; apply Good.parts)

theorem good_retireFor {a : State} (c : RetireCause) (b : Nat) (x2 : FlashTask) (s : State) (h : Good a s) : Good a
    (retireFor c b x2 s) := by
  unfold retireFor
  try dsimp only
  with_reducible repeat' first
    | assumption | apply good_retire | apply good_beginOp | apply good_failTask
    | refine Good.snd (by assumption) ?_ | split | (simp only [good_mk]; apply Good.parts)

theorem good_eraseEnds {a : State} (x0 : FlashTask) (b : Nat) (marginOk : Bool) (s : State) (h : Good a s) : Good a
    (eraseEnds x0 b marginOk s) := by
  unfold eraseEnds
  try dsimp only
  with_reducible repeat' first
    | assumption | apply good_bumpFls | apply good_failTask | apply good_marginFailed | apply good_retire
    | apply good_opDone | refine Good.snd (by assumption) ?_ | split | (simp only [good_mk]; apply Good.parts)

theorem good_noteWritten {a : State} (x0 : FlashTask) (s : State) (h : Good a s) : Good a (noteWritten x0 s) := by
  unfold noteWritten
  try dsimp only
  with_reducible repeat' first
    | assumption | (intro _ _ _; try dsimp only) | split | (simp only [good_mk]; apply Good.parts)

theorem good_programEnds {a : State} (x0 : FlashTask) (x1 : Nat) (d : List Byte) (marginOk : Bool) (s : State) (h :
    Good a s) : Good a (programEnds x0 x1 d marginOk s) := by
  unfold programEnds
  try dsimp only
  with_reducible repeat' first
    | assumption | apply good_noteWritten | apply good_bumpFls | apply good_opDone | apply good_marginPassed
    | apply good_failTask | apply good_marginFailed | split | (simp only [good_mk]; apply Good.parts)

theorem good_reprogram {a : State} (x0 : FlashTask) (x1 : Nat) (s : State) (h : Good a s) : Good a (reprogram x0 x1 s)
    := by
  unfold reprogram
  try dsimp only
  with_reducible repeat' first
    | assumption | apply good_failTask | apply good_post | apply good_flsFault | split
    | (simp only [good_mk]; apply Good.parts)

theorem good_setProt {a : State} (n : Fin 16) (st : Prot) (s : State) (h : Good a s) : Good a (setProt n st s) := by
  unfold setProt
  split
  · exact h
  · rename_i q
    refine good_hkAppend _ _ (good_mk.2 (h.partsOneWay (Nat.le_refl _) (fun m r => ?_) ⟨[], by simp⟩))
    by_cases e : n = m
    · subst e
      exact absurd (by rw [r]; rfl) q
    · have e2 : ¬ n.val = m.val := fun r => e (Fin.ext r)
      simpa [e2] using r

theorem good_appendOp {a : State} (o : FlashOp) (s : State) (h : Good a s) : Good a (appendOp o s) := by
  unfold appendOp
  try dsimp only
  repeat' first
    | with_reducible assumption
    | with_reducible apply good_setProt
    | with_reducible apply good_hkAppend
    | with_reducible apply good_ksAppend
    | split
    | (simp only [good_mk]; with_reducible apply Good.parts)

theorem good_logEnds {a : State} (x0 : FlashTask) (o : FlashOp) (ok : Bool) (marginOk : Bool) (s : State) (h : Good a
    s) : Good a (logEnds x0 o ok marginOk s) := by
  unfold logEnds
  try dsimp only
  with_reducible repeat' first
    | assumption | apply good_failTask | apply good_retireFor | apply good_opDone | apply good_appendOp
    | apply good_bumpFls | apply good_marginFault | apply good_marginFailed | split
    | (simp only [good_mk]; apply Good.parts)

theorem good_startRefresh {a : State} (b : Nat) (s : State) (h : Good a s) : Good a (startRefresh b s) := by
  unfold startRefresh
  try dsimp only
  with_reducible repeat' first | assumption | apply good_queueTask | split | (simp only [good_mk]; apply Good.parts)

theorem good_postEcc {a : State} (b : Nat) (s : State) (h : Good a s) : Good a (postEcc b s) := by
  unfold postEcc
  try dsimp only
  with_reducible repeat' first | assumption | apply good_post | split | (simp only [good_mk]; apply Good.parts)

theorem good_noteRead {a : State} (s : State) (r : FlashRead) (h : Good a s) : Good a (noteRead s r) := by
  unfold noteRead
  try dsimp only
  with_reducible repeat' first
    | assumption | apply good_uncorrRead | apply good_bumpFls | apply good_postEcc | apply good_flsFault
    | apply good_startRefresh | split | (simp only [good_mk]; apply Good.parts)

theorem good_nextRefresh {a : State} (s : State) (h : Good a s) : Good a (nextRefresh s) := by
  unfold nextRefresh
  try dsimp only
  with_reducible repeat' first
    | assumption | apply good_startRefresh | (intro _ _ _; try dsimp only) | split
    | (simp only [good_mk]; apply Good.parts)

/-! ### Machine/BenchOps.lean -/

theorem good_loadLut {a : State} (b : Fin 4) (i : Inlay) (d : Desc8) (s : State) (h : Good a s) :
    Good a (loadLut b i d s) := by
  unfold loadLut
  try dsimp only
  with_reducible repeat' first | assumption | apply good_setBnc | (intro _; rfl) | split | (simp only [good_mk]; apply Good.parts)

theorem good_countTile {a : State} (j : Fin 4) (b : Fin 4) (d : Desc8) (k : Option (BitVec 16 × Inlay)) (s : State) (h
    : Good a s) : Good a (countTile j b d k s) := by
  unfold countTile
  try dsimp only
  with_reducible repeat' first
    | assumption | apply good_setTens | apply Good.foldl | (intro _ _ _; try dsimp only) | split
    | (simp only [good_mk]; apply Good.parts)

theorem good_bumpGated {a : State} (b : Fin 4) (n : Nat) (s : State) (h : Good a s) : Good a (bumpGated b n s) := by
  unfold bumpGated
  try dsimp only
  with_reducible repeat' first
    | assumption | apply good_bumpBnc | apply good_setBnc | (intro _; rfl) | split
    | (simp only [good_mk]; apply Good.parts)

theorem good_streamPass {a : State} (b : Fin 4) (d : Desc8) (s : State) (h : Good a s) :
    Good a (streamPass b d s) := by
  unfold streamPass
  try dsimp only
  with_reducible repeat' first
    | assumption | apply good_bumpGated | apply good_setBnc | (intro _; rfl) | split
    | (simp only [good_mk]; apply Good.parts)

theorem good_outputOne {a : State} (j : Fin 4) (b : Fin 4) (x2 : Tensor) (d : Desc8) (n : Nat) (col : Nat) (entry :
    Nat) (idx : Nat) (addr : Nat) (s : State) (h : Good a s) : Good a (outputOne j b x2 d n col entry idx addr s) :=
    by
  unfold outputOne
  try dsimp only
  with_reducible repeat' first
    | assumption | apply good_convertElem | apply good_writeStore | refine Good.snd (by assumption) ?_ | split
    | (simp only [good_mk]; apply Good.parts)

theorem good_outputElem {a : State} (j : Fin 4) (b : Fin 4) (x2 : Tensor) (d : Desc8) (m : Nat) (col : Nat) (s :
    State) (h : Good a s) : Good a (outputElem j b x2 d m col s) := by
  unfold outputElem
  try dsimp only
  with_reducible repeat' first | assumption | apply good_outputOne | split | (simp only [good_mk]; apply Good.parts)

theorem good_writeOutputs {a : State} (j : Fin 4) (b : Fin 4) (d : Desc8) (s : State) (h : Good a s) : Good a
    (writeOutputs j b d s) := by
  unfold writeOutputs
  try dsimp only
  with_reducible repeat' first
    | assumption | apply good_outputElem | apply Good.foldl | (intro _ _ _; try dsimp only) | split
    | (simp only [good_mk]; apply Good.parts)

theorem good_benchWait {a : State} (b : Fin 4) (kind : BitVec 2) (slot : Nat) (s : State) (h : Good a s) :
    Good a (benchWait b kind slot s) := by
  unfold benchWait
  try dsimp only
  with_reducible repeat' first | assumption | apply good_setBnc | (intro _; rfl) | split | (simp only [good_mk]; apply Good.parts)

theorem good_benchGo {a : State} (b : Fin 4) (kind : BitVec 2) (s : State) (h : Good a s) :
    Good a (benchGo b kind s) := by
  unfold benchGo
  try dsimp only
  with_reducible repeat' first
    | assumption | apply good_setBnc | apply Good.foldl | (intro _ _ _; try dsimp only) | (intro _; rfl)
    | (intro _; repeat' split) <;> rfl | (intro _ _ _ _ _; try dsimp only) | (intro _ _ _ _; try dsimp only)
    | (intro _ _ _; try dsimp only) | (intro _ _; try dsimp only) | dsimp only | split
    | (simp only [good_mk]; apply Good.parts)

theorem good_benchCycles {a : State} (b : Fin 4) (c : BenchCycles) (s : State) (h : Good a s) : Good a (benchCycles b
    c s) := by
  unfold benchCycles
  try dsimp only
  with_reducible repeat' first | assumption | apply good_bumpBnc | split | (simp only [good_mk]; apply Good.parts)

theorem good_releaseKept {a : State} (b : Fin 4) (d : Desc8) (s : State) (h : Good a s) : Good a (releaseKept b d s)
    := by
  unfold releaseKept
  try dsimp only
  repeat' first
    | with_reducible assumption
    | with_reducible apply good_markSlot
    | with_reducible apply good_setBnc
    | (intro _; with_reducible rfl)
    | split

theorem good_passDone {a : State} (b : Fin 4) (s : State) (h : Good a s) : Good a (passDone b s) := by
  unfold passDone
  try dsimp only
  repeat' first
    | with_reducible assumption
    | with_reducible apply good_entryOver
    | with_reducible apply good_setBnc
    | with_reducible apply good_bumpBnc
    | (intro _; with_reducible rfl)

theorem good_dropInlay {a : State} (j : Fin 4) (s : State) (h : Good a s) : Good a (dropInlay j s) := by
  unfold dropInlay
  try dsimp only
  with_reducible repeat' first
    | assumption | apply good_setJob | apply good_stopAtBoundary | (intro _ _ _; try dsimp only) | split
    | (simp only [good_mk]; apply Good.parts)

/-! ### Machine/PlaneOps.lean -/

theorem good_progCheck {a : State} (p : Fin 16) (s : State) (h : Good a s) : Good a (progCheck p s) := by
  unfold progCheck
  try dsimp only
  with_reducible repeat' first
    | assumption | apply good_entriesOver | apply good_seatAll | apply good_setPln | split
    | (simp only [good_mk]; apply Good.parts)

theorem good_issuedScalar {a : State} (p : Fin 16) (next : Nat) (s : State) (h : Good a s) : Good a (issuedScalar p
    next s) := by
  unfold issuedScalar
  try dsimp only
  with_reducible repeat' first
    | assumption | apply good_someCycles | apply good_progCheck | apply good_setPln | apply good_bumpPln
    | refine Good.snd (by assumption) ?_ | (intro _ _ _; try dsimp only) | split
    | (simp only [good_mk]; apply Good.parts)

theorem good_issued {a : State} (p : Fin 16) (next : Nat) (s : State) (h : Good a s) : Good a (issued p next s) := by
  unfold issued
  try dsimp only
  with_reducible repeat' first
    | assumption | apply good_issuedScalar | apply good_bumpPln | split | (simp only [good_mk]; apply Good.parts)

theorem good_planeInstr {a : State} (p : Fin 16) (o : PlaneOp) (k : State → State) (s : State) (hk : ∀ y0, Good a y0 →
    Good a (k y0)) (h : Good a s) : GoodOut a (planeInstr p o k s) := by
  unfold planeInstr
  try dsimp only
  with_reducible repeat' first
    | assumption | apply good_issued | apply hk | apply GoodOut.next | exact GoodOut.fault
    | (intro _ _ _; try dsimp only) | split | (simp only [good_mk]; apply Good.parts)

theorem good_portCycles {a : State} (p : Fin 16) (s : State) (h : Good a s) : Good a (portCycles p s) := by
  unfold portCycles
  try dsimp only
  with_reducible repeat' first
    | assumption | apply good_someCycles | apply good_bumpPln | refine Good.snd (by assumption) ?_ | split
    | (simp only [good_mk]; apply Good.parts)

theorem good_planeFault {a : State} (p : Fin 16) (bit : Nat) (slot : Nat) (cause : Nat) (code : BitVec 16) (addr :
    Option Nat) (s : State) (h : Good a s) : Good a (planeFault p bit slot cause code addr s) := by
  unfold planeFault
  try dsimp only
  with_reducible repeat' first
    | assumption | apply good_setPln | apply good_fatalFault | apply good_post | (intro _ _ _; try dsimp only)
    | split | (simp only [good_mk]; apply Good.parts)

theorem good_planeBounds {a : State} (p : Fin 16) (r : TensorRef) (i : Nat) (s : State) (h : Good a s) : Good a
    (planeBounds p r i s) := by
  unfold planeBounds
  try dsimp only
  with_reducible repeat' first | assumption | apply good_planeFault | split | (simp only [good_mk]; apply Good.parts)

theorem good_checked {a : State} (p : Fin 16) (o : PlaneOp) (r : TensorRef) (is : List Nat) (k : State → State) (s :
    State) (hk : ∀ y0, Good a y0 → Good a (k y0)) (h : Good a s) : GoodOut a (checked p o r is k s) := by
  unfold checked
  try dsimp only
  with_reducible repeat' first
    | assumption | apply good_planeBounds | apply good_issued | apply good_portCycles | apply hk
    | apply GoodOut.next | exact GoodOut.fault | (intro _ _ _; try dsimp only) | split
    | (simp only [good_mk]; apply Good.parts)

theorem good_checkedRead {a : State} (p : Fin 16) (o : PlaneOp) (r : TensorRef) (is : List Nat) (x4 : Ecc) (k : State
    → State) (s : State) (hk : ∀ y0, Good a y0 → Good a (k y0)) (h : Good a s) : GoodOut a (checkedRead p o r is x4 k
    s) := by
  unfold checkedRead
  try dsimp only
  with_reducible repeat' first
    | assumption | apply good_planeBounds | apply good_storeEcc | apply good_portCycles | apply good_issued
    | apply hk | refine Good.snd (by assumption) ?_ | apply GoodOut.next | exact GoodOut.fault
    | (intro _ _ _; try dsimp only) | split | (simp only [good_mk]; apply Good.parts)

theorem good_loadElems {a : State} (p : Fin 16) (f : VFmt) (dst : BitVec 8) (r : TensorRef) (es : List (Nat × Nat)) (s
    : State) (h : Good a s) : Good a (loadElems p f dst r es s) := by
  unfold loadElems
  try dsimp only
  with_reducible repeat' first
    | assumption | apply good_setPln | apply Good.foldl | (intro _ _ _; try dsimp only) | split
    | (simp only [good_mk]; apply Good.parts)

theorem good_storeOne {a : State} (f : Conv → Conv) (p : Fin 16) (x2 : Tensor) (r : TensorRef) (c : Conv) (i : Nat)
    (x6 : Acc) (s : State) (h : Good a s) : Good a (storeOne f p x2 r c i x6 s) := by
  unfold storeOne
  try dsimp only
  with_reducible repeat' first
    | assumption | apply good_ownOptStore | apply good_convertElem | apply good_writeStore
    | refine Good.snd (by assumption) ?_ | split | (simp only [good_mk]; apply Good.parts)

theorem good_storeElems {a : State} (p : Fin 16) (r : TensorRef) (x2 : List (Nat × Acc)) (x3 : State) : Good a x3 →
    Good a (storeElems p r x2 x3) := by
  fun_induction storeElems p r x2 x3 <;> intro h <;> try dsimp only at *
  all_goals
    with_reducible repeat' first | assumption | (rename_i ih; apply ih) | apply good_storeOne | split | (simp only [good_mk]; apply Good.parts)

theorem good_scatterAddElems {a : State} (p : Fin 16) (f : VFmt) (reg : BitVec 8) (r : TensorRef) (es : List (Nat ×
    Nat)) (x5 : List Nat) (x6 : State) : Good a x6 → Good a (scatterAddElems p f reg r es x5 x6) := by
  fun_induction scatterAddElems p f reg r es x5 x6 <;> intro h <;> try dsimp only at *
  all_goals
    with_reducible repeat' first | assumption | (rename_i ih; apply ih) | apply good_storeOne | split | (simp only [good_mk]; apply Good.parts)

theorem good_expList {a : State} (n : Fin 4) (x1 : List Word) (x2 : State) : Good a x2 → Good a (expList n x1 x2).2 :=
    by
  fun_induction expList n x1 x2 <;> intro h <;> try dsimp only at *
  all_goals
    with_reducible repeat' first
      | assumption | (rename_i ih; apply ih) | apply good_useLathe | refine Good.snd (by assumption) ?_ | split
      | (simp only [good_mk]; apply Good.parts)

theorem good_smxChunk {a : State} (n : Fin 4) (c : List (Val × Bool)) (r : SmxRow) (s : State) (h : Good a s) : Good a
    (smxChunk n c r s).2 := by
  unfold smxChunk
  try dsimp only
  with_reducible repeat' first
    | assumption | apply good_expList | apply good_useLathe | refine Good.snd (by assumption) ?_
    | apply Good.foldl | (intro _ _ _; try dsimp only) | split | (simp only [good_mk]; apply Good.parts)

theorem good_smxPass1 {a : State} (n : Fin 4) (x1 : Nat) (x2 : List (Val × Bool)) (x3 : SmxRow) (x4 : State) : Good a
    x4 → Good a (smxPass1 n x1 x2 x3 x4).2 := by
  fun_induction smxPass1 n x1 x2 x3 x4 <;> intro h <;> try dsimp only at *
  all_goals
    with_reducible repeat' first
      | assumption | (rename_i ih; apply ih) | apply good_smxChunk | refine Good.snd (by assumption) ?_ | split
      | (simp only [good_mk]; apply Good.parts)

theorem good_smxOutputs {a : State} (n : Fin 4) (mw : Word) (rc : Word) (x3 : List (Val × Bool)) (x4 : State) : Good a
    x4 → Good a (smxOutputs n mw rc x3 x4).2 := by
  fun_induction smxOutputs n mw rc x3 x4 <;> intro h <;> try dsimp only at *
  all_goals
    with_reducible repeat' first
      | assumption | (rename_i ih; apply ih) | apply good_useLathe | refine Good.snd (by assumption) ?_ | split
      | (simp only [good_mk]; apply Good.parts)

theorem good_smxPass2 {a : State} (n : Fin 4) (r : SmxRow) (xs : List (Val × Bool)) (s : State) (h : Good a s) : Good
    a (smxPass2 n r xs s).2 := by
  unfold smxPass2
  try dsimp only
  with_reducible repeat' first
    | assumption | apply good_useLathe | apply good_smxOutputs | refine Good.snd (by assumption) ?_
    | (intro _ _ _; try dsimp only) | split | (simp only [good_mk]; apply Good.parts)

/-! ### Machine/Sched.lean -/

theorem good_handList {a : State} (j : Fin 4) (l : List Desc8) (s : State) (h : Good a s) : Good a (handList j l s) :=
    by
  unfold handList
  try dsimp only
  with_reducible repeat' first
    | assumption | apply good_setEng | (intro _ _ _; try dsimp only) | split
    | (simp only [good_mk]; apply Good.parts)

theorem good_handLists {a : State} (j : Fin 4) (ns : List Nat) (s : State) (h : Good a s) : Good a (handLists j ns s)
    := by
  unfold handLists
  try dsimp only
  with_reducible repeat' first
    | assumption | apply good_handList | apply Good.foldl | (intro _ _ _; try dsimp only) | split
    | (simp only [good_mk]; apply Good.parts)

theorem good_feedList {a : State} (b : Fin 4) (j : Fin 4) (s : State) (i : Fin 4) (h : Good a s) : Good a (feedList b
    j s i) := by
  unfold feedList
  try dsimp only
  with_reducible repeat' first
    | assumption | apply good_handLists | apply good_setJob | (intro _ _ _; try dsimp only) | split
    | (simp only [good_mk]; apply Good.parts)

theorem good_feedBench {a : State} (b : Fin 4) (s : State) (h : Good a s) : Good a (feedBench b s) := by
  unfold feedBench
  try dsimp only
  with_reducible repeat' first
    | assumption | apply good_feedList | apply Good.foldl | (intro _ _ _; try dsimp only) | split
    | (simp only [good_mk]; apply Good.parts)

theorem good_openRequest {a : State} (x0 : EntryRun) (s : State) (h : Good a s) : Good a (openRequest x0 s) := by
  unfold openRequest
  try dsimp only
  with_reducible repeat' first
    | assumption | apply good_beginRequest | split | (simp only [good_mk]; apply Good.parts)

theorem good_seatEntry {a : State} (b : Fin 4) (x1 : EntryRun) (g : StageProg) (s : State) (h : Good a s) : Good a
    (seatEntry b x1 g s) := by
  unfold seatEntry
  try dsimp only
  repeat' first
    | with_reducible assumption
    | with_reducible apply good_bumpSlices
    | with_reducible apply good_seatBench
    | with_reducible apply good_setBnc
    | (intro _; with_reducible rfl)
    | split

theorem good_countKerf {a : State} (b : Fin 4) (j : Fin 4) (s : State) (h : Good a s) : Good a (countKerf b j s) := by
  unfold countKerf
  try dsimp only
  with_reducible repeat' first
    | assumption | apply good_someCycles | apply good_bumpSeq | refine Good.snd (by assumption) ?_
    | (intro _ _ _; try dsimp only) | split | (simp only [good_mk]; apply Good.parts)

theorem good_unfeed {a : State} (x0 : EntryRun) (s : State) (h : Good a s) : Good a (unfeed x0 s) := by
  unfold unfeed
  try dsimp only
  with_reducible repeat' first
    | assumption | apply good_setJob | (intro _ _ _; try dsimp only) | split
    | (simp only [good_mk]; apply Good.parts)

theorem good_startEntry {a : State} (b : Fin 4) (s : State) (h : Good a s) : Good a (startEntry b s) := by
  unfold startEntry
  try dsimp only
  with_reducible repeat' first
    | assumption | apply good_eachSlot | apply good_countKerf | apply good_entryOver | apply good_seatEntry
    | apply good_openRequest | apply good_unfeed | (intro _ _ _; try dsimp only) | (intro _ _; try dsimp only)
    | split | (simp only [good_mk]; apply Good.parts)

theorem good_execScheduleEntryStart {a : State} (b : Fin 4) (s : State) (h : Good a s) : GoodOut a
    (execScheduleEntryStart b s) := by
  unfold execScheduleEntryStart
  try dsimp only
  with_reducible repeat' first
    | assumption | apply good_seatAll | apply good_startEntry | apply good_feedBench | apply GoodOut.next
    | exact GoodOut.fault | split | (simp only [good_mk]; apply Good.parts)

/-! ### Machine/CopyOps.lean -/

theorem good_placeUse {a : State} (p : Place) (off : Nat) (n : Nat) (s : State) (h : Good a s) : Good a (placeUse p
    off n s) := by
  unfold placeUse
  try dsimp only
  with_reducible repeat' first | assumption | apply good_useHandle | split | (simp only [good_mk]; apply Good.parts)

theorem good_placeWrite {a : State} (j : Fin 4) (p : Place) (off : Nat) (bs : List Byte) (s : State) (h : Good a s) :
    Good a (placeWrite j p off bs s) := by
  unfold placeWrite
  try dsimp only
  with_reducible repeat' first
    | assumption | apply good_writeStore | apply good_pokeOr | apply good_setSns | apply good_placeUse | split
    | (simp only [good_mk]; apply Good.parts)

theorem good_copyBounds {a : State} (x0 : Fin 8) (id : Nat) (addr : Nat) (s : State) (h : Good a s) : Good a
    (copyBounds x0 id addr s) := by
  unfold copyBounds
  try dsimp only
  with_reducible repeat' first
    | assumption | apply good_stkFault | apply good_fatalFault | apply good_post | split
    | (simp only [good_mk]; apply Good.parts)

theorem good_setWait {a : State} (x0 : Fin 8) (x1 : EngWait) (s : State) (h : Good a s) : Good a (setWait x0 x1 s) :=
    by
  unfold setWait
  try dsimp only
  with_reducible repeat' first
    | assumption | apply good_setEng | (intro _ _ _; try dsimp only) | split
    | (simp only [good_mk]; apply Good.parts)

theorem good_nextList {a : State} (x0 : Fin 8) (s : State) (h : Good a s) : Good a (nextList x0 s) := by
  unfold nextList
  try dsimp only
  with_reducible repeat' first
    | assumption | apply good_setEng | (intro _ _ _; try dsimp only) | split
    | (simp only [good_mk]; apply Good.parts)

theorem good_nextDesc {a : State} (x0 : Fin 8) (s : State) (h : Good a s) : Good a (nextDesc x0 s) := by
  unfold nextDesc
  try dsimp only
  with_reducible repeat' first
    | assumption | apply good_setEng | apply good_nextList | (intro _ _ _; try dsimp only) | split
    | (simp only [good_mk]; apply Good.parts)

theorem good_descEnd {a : State} (x0 : Fin 8) (d : Desc8) (s : State) (h : Good a s) : Good a (descEnd x0 d s) := by
  unfold descEnd
  try dsimp only
  with_reducible repeat' first
    | assumption | apply good_nextDesc | apply good_markSlot | split | (simp only [good_mk]; apply Good.parts)

theorem good_descRun {a : State} (x0 : Fin 8) (op : Nat) (k : Desc8 → State → State) (s : State) (hk : ∀ y0 y1, Good a
    y1 → Good a (k y0 y1)) (h : Good a s) : GoodOut a (descRun x0 op k s) := by
  unfold descRun
  try dsimp only
  with_reducible repeat' first
    | assumption | apply good_setWait | apply hk | apply GoodOut.next | exact GoodOut.fault
    | (intro _ _ _; try dsimp only) | split | (simp only [good_mk]; apply Good.parts)

theorem good_holdFrames {a : State} {x0 : Nat} {p : PinBy} : ∀ {l : List Nat} {s t : State},
    holdFrames x0 p l s = some t → Good a s → Good a t
  | [], _, _, e, h => by cases e; exact h
  | i :: l, s, t, e, h => by
    unfold holdFrames at e
    obtain ⟨s1, e1, e2⟩ := Option.bind_eq_some_iff.1 e
    exact good_holdFrames e2 (good_pinFrames _ _ _ _ (good_touchFrame e1 h))

theorem good_placeHold {a t : State} {pl : Place} {fs : List Nat} {p : PinBy} {s : State} (e : placeHold pl fs p s =
    some t) (h : Good a s) : Good a t := by
  unfold placeHold at e
  try dsimp only at e
  repeat' split at e
  all_goals first | cases e | skip
  with_reducible repeat' first
    | assumption | refine good_holdFrames ‹_› ?_ | split | (simp only [good_mk]; apply Good.parts)

theorem good_placePin {a : State} (pl : Place) (fs : List Nat) (p : PinBy) (s : State) (h : Good a s) : Good a
    (placePin pl fs p s) := by
  unfold placePin
  try dsimp only
  with_reducible repeat' first | assumption | apply good_pinFrames | split | (simp only [good_mk]; apply Good.parts)

theorem good_loseMirror {a : State} (j : Fin 4) (id : BitVec 16) (s : State) (h : Good a s) : Good a (loseMirror j id
    s) := by
  unfold loseMirror
  try dsimp only
  with_reducible repeat' first
    | assumption | apply good_setJob | apply good_loseState | (intro _ _ _; try dsimp only) | split
    | (simp only [good_mk]; apply Good.parts)

theorem good_veneerLoss {a : State} (j : Fin 4) (x : Job) (x2 : Tensor) (off : Nat) (s : State) (h : Good a s) : Good
    a (veneerLoss j x x2 off s) := by
  unfold veneerLoss
  try dsimp only
  with_reducible repeat' first
    | assumption | apply good_coveredFault | apply good_loseState | apply good_loseMirror | split
    | (simp only [good_mk]; apply Good.parts)

theorem good_loseRecord {a : State} (j : Fin 4) (x1 : Nat) (s : State) (h : Good a s) : Good a (loseRecord j x1 s) :=
    by
  unfold loseRecord
  try dsimp only
  with_reducible repeat' first
    | assumption | apply good_setJob | (intro _ _ _; try dsimp only) | split
    | (simp only [good_mk]; apply Good.parts)

theorem good_stagingLoss {a : State} (j : Fin 4) (x1 : Nat) (s : State) (h : Good a s) : Good a (stagingLoss j x1 s)
    := by
  unfold stagingLoss
  try dsimp only
  with_reducible repeat' first
    | assumption | apply good_endExport | apply good_endOpt | apply good_dropSnap | apply good_loseRecord | split
    | (simp only [good_mk]; apply Good.parts)

theorem good_blockFault {a : State} (x0 : Nat) (j : Nat) (pfn : Nat) (off : Nat) (s : State) (h : Good a s) : Good a
    (blockFault x0 j pfn off s) := by
  unfold blockFault
  try dsimp only
  with_reducible repeat' first
    | assumption | apply good_stkFault | apply good_bumpStk | apply good_post | split
    | (simp only [good_mk]; apply Good.parts)

theorem good_zeroBlock {a : State} (x0 : Nat) (off : Nat) (s : State) (h : Good a s) :
    Good a (zeroBlock x0 off s) := by
  unfold zeroBlock
  try dsimp only
  repeat' first
    | with_reducible assumption
    | with_reducible exact Good.refl _
    | with_reducible rfl
    | with_reducible apply Good.foldl
    | (intro _; with_reducible rfl)
    | (intro _; repeat' split) <;> with_reducible rfl
    | (intro _ _ _ _ _ _; try dsimp only)
    | (intro _ _ _ _ _; try dsimp only)
    | (intro _ _ _ _; try dsimp only)
    | (intro _ _ _; try dsimp only)
    | (intro _ _; try dsimp only)
    | split
    | (simp only [good_mk]; with_reducible apply Good.parts)
    | (simp only [good_mk]; with_reducible refine Good.partsBytes ?_ ?_)
    | (intro w; first | with_reducible exact clearRange_wf _ _ _ w | with_reducible exact writeBytes_wf _ _ _ w | with_reducible exact overlay_wf _ _ (withoutHandles_wf _ _ w) | with_reducible exact discardBytes_wf _ _ _ w)
    | (simp only [good_mk]; with_reducible refine Good.partsVmap ?_ ?_)
    | (intro _; with_reducible exact Or.inl rfl)
    | ((intro _; repeat' split) <;> first | with_reducible exact Or.inl rfl | with_reducible exact Or.inr rfl)
    | (simp only [good_mk]; with_reducible refine Good.partsQueues ?_ ?_ ?_ ?_)
    | with_reducible exact id
    | with_reducible exact fun _ => Nat.zero_le _
    | exact fun _ => (Nat.zero_le _ : Hif.reset.queue.length ≤ 16)
    | (intro _; omega)
    | (simp only [good_mk]; done)
    | (intro q; cases q; done)
    | (intro _; rfl)
    | (intro _; rfl)
    | dsimp only
    | (dsimp only [id]; with_reducible assumption)

theorem good_zeroRing {a : State} (id : BitVec 16) (off : Nat) (s : State) (h : Good a s) : Good a (zeroRing id off s)
    := by
  unfold zeroRing
  try dsimp only
  with_reducible repeat' first
    | assumption | apply good_setSns | (intro _ _ _; try dsimp only) | split
    | (simp only [good_mk]; apply Good.parts)

theorem good_blockLost {a : State} (x0 : Nat) (off : Nat) (s : State) (h : Good a s) : Good a (blockLost x0 off s).2
    := by
  unfold blockLost
  try dsimp only
  with_reducible repeat' first
    | assumption | apply good_blockFault | apply good_zeroRing | apply good_zeroBlock | apply good_stagingLoss
    | apply good_loseState | apply good_veneerLoss | apply good_coveredFault | split
    | (simp only [good_mk]; apply Good.parts)

theorem good_placeEcc {a : State} (j : Fin 4) (p : Place) (c : Ecc) (s : State) (h : Good a s) : Good a (placeEcc j p
    c s).2 := by
  unfold placeEcc
  try dsimp only
  with_reducible repeat' first
    | assumption | apply good_bumpStk | apply good_blockLost | apply good_storeEcc
    | refine Good.snd (by assumption) ?_ | split | (simp only [good_mk]; apply Good.parts)

theorem good_drawerEcc {a : State} (c : DrawerEcc) (s : State) (h : Good a s) : Good a (drawerEcc c s).2 := by
  unfold drawerEcc
  try dsimp only
  with_reducible repeat' first
    | assumption | apply good_bumpStk | apply good_blockLost | refine Good.snd (by assumption) ?_ | split
    | (simp only [good_mk]; apply Good.parts)

theorem good_afterEcc {a : State} (c : DrawerEcc) (k : State → State) (s : State) (hk : ∀ y0, Good a y0 → Good a (k
    y0)) (h : Good a s) : Good a (afterEcc c k s) := by
  unfold afterEcc
  try dsimp only
  with_reducible repeat' first
    | assumption | apply good_drawerEcc | apply hk | refine Good.snd (by assumption) ?_
    | (intro _ _ _; try dsimp only) | split | (simp only [good_mk]; apply Good.parts)

theorem good_moveRow {a : State} (j : Fin 4) (src : Place) (dst : Place) (n : Nat) (s : State) (r : Nat × Nat) (h :
    Good a s) : Good a (moveRow j src dst n s r) := by
  unfold moveRow
  try dsimp only
  with_reducible repeat' first
    | assumption | apply good_placeWrite | apply good_placeUse | split | (simp only [good_mk]; apply Good.parts)

theorem good_moveRows {a : State} (j : Fin 4) (src : Place) (dst : Place) (d : Desc8) (s : State) (h : Good a s) :
    Good a (moveRows j src dst d s) := by
  unfold moveRows
  try dsimp only
  with_reducible repeat' first
    | assumption | apply good_bumpStk | apply good_moveRow | apply Good.foldl | (intro _ _ _; try dsimp only)
    | split | (simp only [good_mk]; apply Good.parts)

theorem good_createDst {a t : State} {j : Fin 4} {d : Desc8} {s : State} (e : createDst j d s = some t) (h : Good a s)
    : Good a t := by
  unfold createDst at e
  try dsimp only at e
  repeat' split at e
  all_goals first | cases e | skip
  with_reducible repeat' first
    | assumption | refine good_ensureHandle ‹_› ?_ | split | (simp only [good_mk]; apply Good.parts)

/-! ### Machine/JobCtl.lean -/

theorem good_jobStartRun {a : State} (idx : Nat) (p : Pend) (s : State) (h : Good a s) : Good a (jobStartRun idx p s)
    := by
  unfold jobStartRun
  try dsimp only
  with_reducible repeat' first
    | assumption | apply good_startJob | apply good_endWith | apply good_setJob | apply good_startPending
    | apply good_answer | refine Good.snd (by assumption) ?_ | (intro _ _ _; try dsimp only) | split
    | (simp only [good_mk]; apply Good.parts)

theorem good_execJobStart {a : State} (c : Cmd) (s : State) (h : Good a s) : GoodOut a (execJobStart c s) := by
  unfold execJobStart
  try dsimp only
  with_reducible repeat' first
    | assumption | apply good_runCmd | apply good_jobStartRun | apply GoodOut.next | exact GoodOut.fault | split
    | (simp only [good_mk]; apply Good.parts)

theorem good_restoreRun {a : State} (c : Cmd) (parts : List Part) (ok : Bool) (p : Pend) (s : State) (h : Good a s) :
    Good a (restoreRun c parts ok p s) := by
  unfold restoreRun
  try dsimp only
  with_reducible repeat' first
    | assumption | apply good_endWith | apply good_startPending | apply good_startJob | apply good_offerParts
    | apply good_restoreLocal | refine Good.snd (by assumption) ?_ | split
    | (simp only [good_mk]; apply Good.parts)

theorem good_execJobStartRestore {a : State} (c : Cmd) (parts : List Part) (ok : Bool) (s : State) (h : Good a s) :
    GoodOut a (execJobStartRestore c parts ok s) := by
  unfold execJobStartRestore
  try dsimp only
  with_reducible repeat' first
    | assumption | apply good_runCmd | apply good_restoreRun | apply GoodOut.next | exact GoodOut.fault | split
    | (simp only [good_mk]; apply Good.parts)

theorem good_jobStopRun {a : State} (j : Fin 4) (p : Pend) (s : State) (h : Good a s) : Good a (jobStopRun j p s) :=
    by
  unfold jobStopRun
  try dsimp only
  with_reducible repeat' first
    | assumption | apply good_endWith | apply good_setJob | apply good_quiesceCheck | apply good_lateRest
    | apply good_tryEnact | apply good_stopJob | apply good_startPending | (intro _ _ _; try dsimp only) | split
    | (simp only [good_mk]; apply Good.parts)

theorem good_execJobStop {a : State} (c : Cmd) (s : State) (h : Good a s) : GoodOut a (execJobStop c s) := by
  unfold execJobStop
  try dsimp only
  with_reducible repeat' first
    | assumption | apply good_runCmd | apply good_jobStopRun | apply GoodOut.next | exact GoodOut.fault | split
    | (simp only [good_mk]; apply Good.parts)

theorem good_askSnap {a : State} (j : Fin 4) (x : Job) (r : SnapReq) (s : State) (h : Good a s) : Good a (askSnap j x
    r s) := by
  unfold askSnap
  try dsimp only
  with_reducible repeat' first
    | assumption | apply good_setJob | apply good_snapBoundary | (intro _ _ _; try dsimp only) | split
    | (simp only [good_mk]; apply Good.parts)

theorem good_snapshotRun {a : State} (c : Cmd) (p : Pend) (s : State) (h : Good a s) : Good a (snapshotRun c p s) :=
    by
  unfold snapshotRun
  try dsimp only
  with_reducible repeat' first
    | assumption | apply good_endWith | apply good_protectedFault | apply good_startPending | apply good_sendAll
    | apply good_askSnap | apply good_sendCoord | (intro _ _ _; try dsimp only) | split
    | (simp only [good_mk]; apply Good.parts)

theorem good_execSnapshot {a : State} (c : Cmd) (s : State) (h : Good a s) : GoodOut a (execSnapshot c s) := by
  unfold execSnapshot
  try dsimp only
  with_reducible repeat' first
    | assumption | apply good_runCmd | apply good_snapshotRun | apply GoodOut.next | exact GoodOut.fault | split
    | (simp only [good_mk]; apply Good.parts)

theorem good_stagingEnd {a : State} (j : Fin 4) (r : SnapReq) (part : Part) (s : State) (h : Good a s) : Good a
    (stagingEnd j r part s) := by
  unfold stagingEnd
  try dsimp only
  with_reducible repeat' first
    | assumption | apply good_endOpt | apply good_dropSnap | apply good_setJob | (intro _ _ _; try dsimp only)
    | split | (simp only [good_mk]; apply Good.parts)

theorem good_execSnapshotStagingDone {a : State} (j : Fin 4) (ecc : DrawerEcc) (s : State) (h : Good a s) : GoodOut a
    (execSnapshotStagingDone j ecc s) := by
  unfold execSnapshotStagingDone
  try dsimp only
  repeat' first
    | with_reducible assumption
    | with_reducible apply good_afterEcc
    | with_reducible apply good_replayBoundary
    | with_reducible apply good_stagingEnd
    | with_reducible apply GoodOut.next
    | (intro _ _; try dsimp only)
    | split

theorem good_dropExport {a : State} (j : Fin 4) (r : SnapReq) (s : State) (h : Good a s) : Good a (dropExport j r s)
    := by
  unfold dropExport
  try dsimp only
  with_reducible repeat' first
    | assumption | apply good_freeHandle | apply good_dropSnap | split | (simp only [good_mk]; apply Good.parts)

theorem good_exportEnd {a : State} (j : Fin 4) (r : SnapReq) (part : Part) (salt : BitVec 256) (ok : Bool) (s : State)
    (h : Good a s) : Good a (exportEnd j r part salt ok s) := by
  unfold exportEnd
  try dsimp only
  with_reducible repeat' first
    | assumption | apply good_dropExport | apply good_hostWrite | apply good_snapDone | apply good_endOpt | split
    | (simp only [good_mk]; apply Good.parts)

theorem good_execSnapshotExportDone {a : State} (j : Fin 4) (ok : Bool) (ecc : DrawerEcc) (s : State) (h : Good a s) :
    GoodOut a (execSnapshotExportDone j ok ecc s) := by
  unfold execSnapshotExportDone
  try dsimp only
  repeat' first
    | with_reducible assumption
    | with_reducible apply good_afterEcc
    | with_reducible apply good_exportEnd
    | with_reducible apply GoodOut.next
    | (intro _ _; try dsimp only)
    | split
    | (dsimp only [id]; with_reducible assumption)

theorem good_askReplay {a : State} (j : Fin 4) (x : Job) (q : ReplayReq) (s : State) (h : Good a s) : Good a
    (askReplay j x q s) := by
  unfold askReplay
  try dsimp only
  with_reducible repeat' first
    | assumption | apply good_setJob | apply good_beginReplay | (intro _ _ _; try dsimp only) | split
    | (simp only [good_mk]; apply Good.parts)

theorem good_replayRun {a : State} (c : Cmd) (p : Pend) (s : State) (h : Good a s) : Good a (replayRun c p s) := by
  unfold replayRun
  try dsimp only
  with_reducible repeat' first
    | assumption | apply good_endWith | apply good_startPending | apply good_sendAll | apply good_askReplay
    | apply good_sendCoord | split | (simp only [good_mk]; apply Good.parts)

theorem good_execReplay {a : State} (c : Cmd) (s : State) (h : Good a s) : GoodOut a (execReplay c s) := by
  unfold execReplay
  try dsimp only
  with_reducible repeat' first
    | assumption | apply good_runCmd | apply good_replayRun | apply GoodOut.next | exact GoodOut.fault | split
    | (simp only [good_mk]; apply Good.parts)

theorem good_execJobHoldRelease {a : State} (j : Fin 4) (s : State) (h : Good a s) : GoodOut a (execJobHoldRelease j
    s) := by
  unfold execJobHoldRelease
  try dsimp only
  with_reducible repeat' first
    | assumption | apply good_setJob | apply GoodOut.next | exact GoodOut.fault | (intro _ _ _; try dsimp only)
    | split | (simp only [good_mk]; apply Good.parts)

theorem good_execInferenceTriggerPeriod {a : State} (j : Fin 4) (s : State) (h : Good a s) : GoodOut a
    (execInferenceTriggerPeriod j s) := by
  unfold execInferenceTriggerPeriod
  try dsimp only
  with_reducible repeat' first
    | assumption | apply good_trigger | apply good_setJob | apply GoodOut.next | exact GoodOut.fault
    | (intro _ _ _; try dsimp only) | split | (simp only [good_mk]; apply Good.parts)

theorem good_execInferenceTriggerRing {a : State} (j : Fin 4) (s : State) (h : Good a s) : GoodOut a
    (execInferenceTriggerRing j s) := by
  unfold execInferenceTriggerRing
  try dsimp only
  with_reducible repeat' first
    | assumption | apply good_trigger | apply good_setJob | apply GoodOut.next | exact GoodOut.fault
    | (intro _ _ _; try dsimp only) | split | (simp only [good_mk]; apply Good.parts)

theorem good_execInferenceRequestDeferredStart {a : State} (j : Fin 4) (s : State) (h : Good a s) : GoodOut a
    (execInferenceRequestDeferredStart j s) := by
  unfold execInferenceRequestDeferredStart
  try dsimp only
  with_reducible repeat' first
    | assumption | apply good_beginRequest | apply good_setJob | apply GoodOut.next | exact GoodOut.fault
    | (intro _ _ _; try dsimp only) | split | (simp only [good_mk]; apply Good.parts)

end Sys2Proof.Machine
end

