-- ==== Sys2Proof/Laws/GoodPower.lean ====
section
/-! SUPPORT. `Good` is kept by power, the always-on logic, benches, the host interface, images, boot and NORM:
for each operation, the lemma `good_<its name>`, which says that it leaves the waiting commands alone, undoes nothing that
goes one way, and keeps the invariant. -/

namespace Sys2Proof.Machine

/-! ### Machine/Power.lean -/

theorem good_waitTenant {a : State} (c : Cmd) (p : Pend) (s : State) (h : Good a s) : Good a (waitTenant c p s) := by
  unfold waitTenant
  try dsimp only
  with_reducible repeat' first | assumption | split | (simp only [good_mk]; apply Good.parts)

theorem good_setPowerRun {a : State} (c : Cmd) (p : Pend) (s : State) (h : Good a s) : Good a (setPowerRun c p s) :=
    by
  unfold setPowerRun
  try dsimp only
  with_reducible repeat' first
    | assumption | apply good_waitTenant | apply good_setPowerNow | split
    | (simp only [good_mk]; apply Good.parts)

theorem good_execSetPower {a : State} (c : Cmd) (s : State) (h : Good a s) : GoodOut a (execSetPower c s) := by
  unfold execSetPower
  try dsimp only
  with_reducible repeat' first
    | assumption | apply good_runCmd | apply good_setPowerRun | apply GoodOut.next | exact GoodOut.fault | split
    | (simp only [good_mk]; apply Good.parts)

theorem good_setPerfRun {a : State} (c : Cmd) (p : Pend) (s : State) (h : Good a s) : Good a (setPerfRun c p s) := by
  unfold setPerfRun
  try dsimp only
  with_reducible repeat' first
    | assumption | apply good_waitTenant | apply good_setPerfNow | split | (simp only [good_mk]; apply Good.parts)

theorem good_execSetPerf {a : State} (c : Cmd) (s : State) (h : Good a s) : GoodOut a (execSetPerf c s) := by
  unfold execSetPerf
  try dsimp only
  with_reducible repeat' first
    | assumption | apply good_runCmd | apply good_setPerfRun | apply GoodOut.next | exact GoodOut.fault | split
    | (simp only [good_mk]; apply Good.parts)

theorem good_sbAnswer {a : State} (bs : Option (List Byte)) (s : State) (h : Good a s) : Good a (sbAnswer bs s) := by
  unfold sbAnswer
  try dsimp only
  with_reducible repeat' first | assumption | split | (simp only [good_mk]; apply Good.parts)

theorem good_execPowerSet {a : State} (data : Byte) (pecOk : Bool) (s : State) (h : Good a s) : GoodOut a
    (execPowerSet data pecOk s) := by
  unfold execPowerSet
  try dsimp only
  with_reducible repeat' first
    | assumption | apply good_sbAnswer | apply good_requestPower | apply GoodOut.next | exact GoodOut.fault
    | split | (simp only [good_mk]; apply Good.parts)

theorem good_execPowerGet {a : State} (s : State) (h : Good a s) : GoodOut a (execPowerGet s) := by
  unfold execPowerGet
  try dsimp only
  with_reducible repeat' first
    | assumption | apply good_sbAnswer | apply GoodOut.next | exact GoodOut.fault | split
    | (simp only [good_mk]; apply Good.parts)

theorem good_execWakeCause {a : State} (s : State) (h : Good a s) : GoodOut a (execWakeCause s) := by
  unfold execWakeCause
  try dsimp only
  with_reducible repeat' first
    | assumption | apply good_sbAnswer | apply GoodOut.next | exact GoodOut.fault | split
    | (simp only [good_mk]; apply Good.parts)

theorem good_execIdent {a : State} (s : State) (h : Good a s) : GoodOut a (execIdent s) := by
  unfold execIdent
  try dsimp only
  with_reducible repeat' first
    | assumption | apply good_sbAnswer | apply GoodOut.next | exact GoodOut.fault | split
    | (simp only [good_mk]; apply Good.parts)

theorem good_wakeNow {a : State} (s : State) (h : Good a s) : Good a (wakeNow s) := by
  unfold wakeNow
  try dsimp only
  with_reducible repeat' first | assumption | apply good_wake | split | (simp only [good_mk]; apply Good.parts)

theorem good_execWakeN {a : State} (s : State) (h : Good a s) : GoodOut a (execWakeN s) := by
  unfold execWakeN
  try dsimp only
  with_reducible repeat' first
    | assumption | apply good_wakeNow | apply GoodOut.next | exact GoodOut.fault | split
    | (simp only [good_mk]; apply Good.parts)

theorem good_execThermalWakeHoldEnd {a : State} (s : State) (h : Good a s) : GoodOut a (execThermalWakeHoldEnd s) :=
    by
  unfold execThermalWakeHoldEnd
  try dsimp only
  with_reducible repeat' first
    | assumption | apply good_wakeNow | apply GoodOut.next | exact GoodOut.fault | split
    | (simp only [good_mk]; apply Good.parts)

theorem good_wakeFrom {a : State} (flag : Word) (field : Word) (value : Word) (s : State) (h : Good a s) : Good a
    (wakeFrom flag field value s) := by
  unfold wakeFrom
  try dsimp only
  with_reducible repeat' first
    | assumption | apply good_wake | apply good_setCause | split | (simp only [good_mk]; apply Good.parts)

theorem good_execWakePattern {a : State} (l : Fin 8) (s : State) (h : Good a s) : GoodOut a (execWakePattern l s) :=
    by
  unfold execWakePattern
  try dsimp only
  with_reducible repeat' first
    | assumption | apply good_wakeFrom | apply good_setLink | apply GoodOut.next | exact GoodOut.fault
    | (intro _ _ _; try dsimp only) | split | (simp only [good_mk]; apply Good.parts)

theorem good_execPwrWakeCauseClear {a : State} (v : Word) (s : State) (h : Good a s) : GoodOut a
    (execPwrWakeCauseClear v s) := by
  unfold execPwrWakeCauseClear
  try dsimp only
  with_reducible repeat' first
    | assumption | apply good_setCause | apply GoodOut.next | exact GoodOut.fault | split
    | (simp only [good_mk]; apply Good.parts)

theorem good_railBias {a : State} (r : Rail) (goTo : PState) (s : State) (h : Good a s) : Good a (railBias r goTo s)
    := by
  unfold railBias
  try dsimp only
  with_reducible repeat' first | assumption | split | (simp only [good_mk]; apply Good.parts)

theorem good_downDone {a : State} (step : Nat) (goTo : PState) (s : State) (h : Good a s) : Good a (downDone step goTo
    s) := by
  unfold downDone
  try dsimp only
  with_reducible repeat' first
    | assumption | apply good_railBias | apply good_reach | split | (simp only [good_mk]; apply Good.parts)

theorem good_abandonUp {a : State} (step : Nat) (s : State) (h : Good a s) : Good a (abandonUp step s) := by
  unfold abandonUp
  try dsimp only
  with_reducible repeat' first
    | assumption | apply good_endOpt | apply good_enterDown | apply good_reach | split
    | (simp only [good_mk]; apply Good.parts)

theorem good_railsUp {a : State} (s : State) (h : Good a s) : Good a (railsUp s) := by
  unfold railsUp
  try dsimp only
  with_reducible repeat' first
    | assumption | apply good_unitWorkIfIdle | apply good_reach | apply good_bootBegin | split
    | (simp only [good_mk]; apply Good.parts)

theorem good_upDone {a : State} (k : Nat) (s : State) (h : Good a s) : Good a (upDone k s) := by
  unfold upDone
  try dsimp only
  with_reducible repeat' first
    | assumption | apply good_railBias | apply good_railsUp | split | (simp only [good_mk]; apply Good.parts)

theorem good_execRailPowerGood {a : State} (r : Rail) (s : State) (h : Good a s) : GoodOut a (execRailPowerGood r s)
    := by
  unfold execRailPowerGood
  try dsimp only
  with_reducible repeat' first
    | assumption | apply good_downDone | apply good_upDone | apply GoodOut.next | exact GoodOut.fault | split
    | (simp only [good_mk]; apply Good.parts)

theorem good_execRailStepTimeout {a : State} (s : State) (h : Good a s) : GoodOut a (execRailStepTimeout s) := by
  unfold execRailStepTimeout
  try dsimp only
  with_reducible repeat' first
    | assumption | apply good_downDone | apply good_recordRail | apply GoodOut.next | exact GoodOut.fault | split
    | (simp only [good_mk]; apply Good.parts)

theorem good_execRailFault {a : State} (r : Rail) (s : State) (h : Good a s) : GoodOut a (execRailFault r s) := by
  unfold execRailFault
  try dsimp only
  with_reducible repeat' first
    | assumption | apply good_recordRail | apply good_abandonUp | apply GoodOut.next | exact GoodOut.fault
    | (intro _ _ _; try dsimp only) | split | (simp only [good_mk]; apply Good.parts)

theorem good_quiesceJob {a : State} (j : Fin 4) (s : State) (h : Good a s) : Good a (quiesceJob j s) := by
  unfold quiesceJob
  try dsimp only
  with_reducible repeat' first
    | assumption | apply good_stopAtBoundary | apply good_replayDone | apply good_haltUnits | apply good_stopJob
    | apply good_abortStep | apply good_setJob | (intro _ _ _; try dsimp only) | split
    | (simp only [good_mk]; apply Good.parts)

theorem good_execQuiesceTimeout {a : State} (s : State) (h : Good a s) : GoodOut a (execQuiesceTimeout s) := by
  unfold execQuiesceTimeout
  try dsimp only
  with_reducible repeat' first
    | assumption | apply good_post | apply good_eachSlot | apply good_quiesceJob | apply good_powerLost
    | apply good_unjoin | apply good_quiesced | apply GoodOut.next | exact GoodOut.fault | split
    | (simp only [good_mk]; apply Good.parts)

theorem good_hardDown {a : State} (s : State) (h : Good a s) :
    Good a (hardDown s) := by
  unfold hardDown
  try dsimp only
  repeat' first
    | with_reducible assumption
    | with_reducible exact Good.refl _
    | with_reducible rfl
    | with_reducible apply good_dieReset
    | with_reducible apply good_closeDebugRecord
    | with_reducible apply Good.foldl
    | (intro _; with_reducible rfl)
    | (intro _; repeat' split) <;> with_reducible rfl
    | (intro _ _ _ _ _ _; try dsimp only)
    | (intro _ _ _ _ _; try dsimp only)
    | (intro _ _ _ _; try dsimp only)
    | (intro _ _ _; try dsimp only)
    | (intro _ _; try dsimp only)
    | split
    | (simp only [good_mk]; with_reducible apply Good.parts)
    | (simp only [good_mk]; with_reducible refine Good.partsBytes ?_ ?_)
    | (intro w; first | with_reducible exact clearRange_wf _ _ _ w | with_reducible exact writeBytes_wf _ _ _ w | with_reducible exact overlay_wf _ _ (withoutHandles_wf _ _ w) | with_reducible exact discardBytes_wf _ _ _ w)
    | (simp only [good_mk]; with_reducible refine Good.partsVmap ?_ ?_)
    | (intro _; with_reducible exact Or.inl rfl)
    | ((intro _; repeat' split) <;> first | with_reducible exact Or.inl rfl | with_reducible exact Or.inr rfl)
    | (simp only [good_mk]; with_reducible refine Good.partsQueues ?_ ?_ ?_ ?_)
    | with_reducible exact id
    | with_reducible exact fun _ => Nat.zero_le _
    | exact fun _ => (Nat.zero_le _ : Hif.reset.queue.length ≤ 16)
    | (intro _; omega)
    | (simp only [good_mk]; done)
    | (intro q; cases q; done)
    | (intro _; rfl)
    | (intro _; rfl)
    | dsimp only
    | (dsimp only [id]; with_reducible assumption)

theorem good_modReset {a : State} (s : State) (h : Good a s) : Good a (modReset s) := by
  unfold modReset
  try dsimp only
  with_reducible repeat' first
    | assumption | apply good_setCause | apply good_powerOnReset | apply good_bootBegin | split
    | (simp only [good_mk]; apply Good.parts)

theorem good_execModRstN {a : State} (s : State) (h : Good a s) : GoodOut a (execModRstN s) := by
  unfold execModRstN
  try dsimp only
  with_reducible repeat' first
    | assumption | apply good_modReset | apply GoodOut.next | exact GoodOut.fault | split
    | (simp only [good_mk]; apply Good.parts)

theorem good_execSupply12vLoss {a : State} (s : State) (h : Good a s) : GoodOut a (execSupply12vLoss s) := by
  unfold execSupply12vLoss
  try dsimp only
  with_reducible repeat' first
    | assumption | apply good_hardDown | apply GoodOut.next | exact GoodOut.fault | split
    | (simp only [good_mk]; apply Good.parts)

theorem good_supplyUp {a : State} (s : State) (h : Good a s) : Good a (supplyUp s) := by
  unfold supplyUp
  try dsimp only
  with_reducible repeat' first
    | assumption | apply good_setFrom | apply good_orCause | apply good_powerOnReset | split
    | (simp only [good_mk]; apply Good.parts)

theorem good_execSupply12vApplied {a : State} (s : State) (h : Good a s) : GoodOut a (execSupply12vApplied s) := by
  unfold execSupply12vApplied
  try dsimp only
  with_reducible repeat' first
    | assumption | apply good_supplyUp | apply GoodOut.next | exact GoodOut.fault | split
    | (simp only [good_mk]; apply Good.parts)

theorem good_execAonPor {a : State} (s : State) (h : Good a s) : GoodOut a (execAonPor s) := by
  unfold execAonPor
  try dsimp only
  with_reducible repeat' first
    | assumption | apply GoodOut.next | exact GoodOut.fault | split | (simp only [good_mk]; apply Good.parts)

theorem good_drawerAtOnce {a : State} (d : Nat) (s : State) (h : Good a s) : Good a (drawerAtOnce d s) := by
  unfold drawerAtOnce
  try dsimp only
  with_reducible repeat' first | assumption | split | (simp only [good_mk]; apply Good.parts)

theorem good_markDrawer {a : State} (d : Nat) (s : State) (h : Good a s) : Good a (markDrawer d s) := by
  unfold markDrawer
  try dsimp only
  with_reducible repeat' first | assumption | split | (simp only [good_mk]; apply Good.parts)

theorem good_drawerTemp {a : State} (x0 : Byte) (s : State) (d : Fin 4) (h : Good a s) : Good a (drawerTemp x0 s d) :=
    by
  unfold drawerTemp
  try dsimp only
  with_reducible repeat' first
    | assumption | apply good_drawerAtOnce | apply good_markDrawer | split
    | (simp only [good_mk]; apply Good.parts)

theorem good_linkTemp {a : State} (x0 : Byte) (s : State) (l : Fin 8) (h : Good a s) : Good a (linkTemp x0 s l) := by
  unfold linkTemp
  try dsimp only
  with_reducible repeat' first
    | assumption | apply good_retrainLink | apply good_setLink | (intro _ _ _; try dsimp only) | split
    | (simp only [good_mk]; apply Good.parts)

theorem good_throttleNote {a : State} (on : Bool) (s : State) (h : Good a s) : Good a (throttleNote on s) := by
  unfold throttleNote
  try dsimp only
  with_reducible repeat' first
    | assumption | apply good_fire | apply good_post | split | (simp only [good_mk]; apply Good.parts)

theorem good_setGate {a : State} (g : Nat) (s : State) (h : Good a s) : Good a (setGate g s) := by
  unfold setGate
  try dsimp only
  with_reducible repeat' first
    | assumption | apply good_throttleNote | split | (simp only [good_mk]; apply Good.parts)

theorem good_gatedCycles {a : State} (s : State) (h : Good a s) : Good a (gatedCycles s) := by
  unfold gatedCycles
  try dsimp only
  with_reducible repeat' first
    | assumption | apply good_someCycles | apply good_bumpPwr | refine Good.snd (by assumption) ?_ | split
    | (simp only [good_mk]; apply Good.parts)

theorem good_sampleTemp {a : State} (x0 : Byte) (s : State) (h : Good a s) : Good a (sampleTemp x0 s) := by
  unfold sampleTemp
  try dsimp only
  with_reducible repeat' first | assumption | apply good_setGate | split | (simp only [good_mk]; apply Good.parts)

theorem good_execThermalSample {a : State} (x0 : Byte) (s : State) (h : Good a s) : GoodOut a (execThermalSample x0 s)
    := by
  unfold execThermalSample
  try dsimp only
  with_reducible repeat' first
    | assumption | apply good_sampleTemp | apply good_gatedCycles | apply good_linkTemp | apply good_drawerTemp
    | apply good_unitWorkIfIdle | apply GoodOut.next | exact GoodOut.fault | apply Good.foldl
    | (intro _ _ _; try dsimp only) | split | (simp only [good_mk]; apply Good.parts)

theorem good_execThrottleRelax {a : State} (s : State) (h : Good a s) : GoodOut a (execThrottleRelax s) := by
  unfold execThrottleRelax
  try dsimp only
  with_reducible repeat' first
    | assumption | apply good_setGate | apply GoodOut.next | exact GoodOut.fault | split
    | (simp only [good_mk]; apply Good.parts)

theorem good_thermalDown {a : State} (x0 : Byte) (s : State) (h : Good a s) : Good a (thermalDown x0 s) := by
  unfold thermalDown
  try dsimp only
  with_reducible repeat' first
    | assumption | apply good_flushEvents | apply good_orCause | apply good_setFrom | apply good_hardDown | split
    | (simp only [good_mk]; apply Good.parts)

theorem good_execThermalShutdown {a : State} (x0 : Byte) (s : State) (h : Good a s) : GoodOut a (execThermalShutdown
    x0 s) := by
  unfold execThermalShutdown
  try dsimp only
  with_reducible repeat' first
    | assumption | apply good_thermalDown | apply GoodOut.next | exact GoodOut.fault | split
    | (simp only [good_mk]; apply Good.parts)

theorem good_execPeakClr {a : State} (s : State) (h : Good a s) : GoodOut a (execPeakClr s) := by
  unfold execPeakClr
  try dsimp only
  with_reducible repeat' first
    | assumption | apply GoodOut.next | exact GoodOut.fault | split | (simp only [good_mk]; apply Good.parts)

theorem good_coreRestart {a : State} (s : State) (h : Good a s) : Good a (coreRestart s) := by
  unfold coreRestart
  try dsimp only
  with_reducible repeat' first | assumption | apply good_closeDebug | split | (simp only [good_mk]; apply Good.parts)

theorem good_execWatchdogExpiry {a : State} (s : State) (h : Good a s) : GoodOut a (execWatchdogExpiry s) := by
  unfold execWatchdogExpiry
  try dsimp only
  with_reducible repeat' first
    | assumption | apply good_bumpPwr | apply good_warmRestart | apply good_orCause | apply good_setFrom
    | apply good_post | apply good_coreRestart | apply GoodOut.next | exact GoodOut.fault | split
    | (simp only [good_mk]; apply Good.parts)

theorem good_execMgmtCoreResume {a : State} (s : State) (h : Good a s) : GoodOut a (execMgmtCoreResume s) := by
  unfold execMgmtCoreResume
  try dsimp only
  with_reducible repeat' first
    | assumption | apply good_colAgain | apply good_orCause | apply good_setFrom | apply good_post | apply GoodOut.next
    | exact GoodOut.fault | split | (simp only [good_mk]; apply Good.parts)

theorem good_selftestRun {a : State} (c : Cmd) (p : Pend) (s : State) (h : Good a s) : Good a (selftestRun c p s) :=
    by
  unfold selftestRun
  try dsimp only
  with_reducible repeat' first
    | assumption | apply good_endWith | apply good_startPending | apply good_unitWorkIfIdle | split
    | (simp only [good_mk]; apply Good.parts)

theorem good_execSelftest {a : State} (c : Cmd) (s : State) (h : Good a s) : GoodOut a (execSelftest c s) := by
  unfold execSelftest
  try dsimp only
  with_reducible repeat' first
    | assumption | apply good_runCmd | apply good_selftestRun | apply GoodOut.next | exact GoodOut.fault | split
    | (simp only [good_mk]; apply Good.parts)

theorem good_retrainRun {a : State} (c : Cmd) (p : Pend) (s : State) (h : Good a s) : Good a (retrainRun c p s) := by
  unfold retrainRun
  try dsimp only
  with_reducible repeat' first
    | assumption | apply good_endWith | apply good_startPending | apply good_retrainCheck
    | apply good_unitWorkIfIdle | split | (simp only [good_mk]; apply Good.parts)

theorem good_execRetrain {a : State} (c : Cmd) (s : State) (h : Good a s) : GoodOut a (execRetrain c s) := by
  unfold execRetrain
  try dsimp only
  with_reducible repeat' first
    | assumption | apply good_runCmd | apply good_retrainRun | apply GoodOut.next | exact GoodOut.fault | split
    | (simp only [good_mk]; apply Good.parts)

theorem good_execDramCorrBurst {a : State} (d : Fin 4) (s : State) (h : Good a s) : GoodOut a (execDramCorrBurst d s)
    := by
  unfold execDramCorrBurst
  try dsimp only
  with_reducible repeat' first
    | assumption | apply good_drawerAtOnce | apply GoodOut.next | exact GoodOut.fault | split
    | (simp only [good_mk]; apply Good.parts)

theorem good_execDramMarginLow {a : State} (d : Fin 4) (s : State) (h : Good a s) : GoodOut a (execDramMarginLow d s)
    := by
  unfold execDramMarginLow
  try dsimp only
  with_reducible repeat' first
    | assumption | apply good_unitWorkIfIdle | apply good_markDrawer | apply GoodOut.next | exact GoodOut.fault
    | split | (simp only [good_mk]; apply Good.parts)

theorem good_drawerDone {a : State} (d : Fin 4) (ok : Bool) (s : State) (h : Good a s) : Good a (drawerDone d ok s) :=
    by
  unfold drawerDone
  try dsimp only
  with_reducible repeat' first
    | assumption | apply good_post | apply good_bumpPwr | apply good_nextUnit | apply good_retrainUnitDone | split
    | (simp only [good_mk]; apply Good.parts)

theorem good_execDramRetrainDone {a : State} (d : Fin 4) (ok : Bool) (s : State) (h : Good a s) : GoodOut a
    (execDramRetrainDone d ok s) := by
  unfold execDramRetrainDone
  try dsimp only
  with_reducible repeat' first
    | assumption | apply good_drawerDone | apply GoodOut.next | exact GoodOut.fault | split
    | (simp only [good_mk]; apply Good.parts)

/-! ### Machine/Aon.lean -/

theorem good_execPpsEdge {a : State} (s : State) (h : Good a s) : GoodOut a (execPpsEdge s) := by
  unfold execPpsEdge
  try dsimp only
  with_reducible repeat' first
    | assumption | apply good_ppsCorrect | apply GoodOut.next | exact GoodOut.fault | split
    | (simp only [good_mk]; apply Good.parts)

theorem good_execTkHoldover {a : State} (s : State) (h : Good a s) : GoodOut a (execTkHoldover s) := by
  unfold execTkHoldover
  try dsimp only
  with_reducible repeat' first
    | assumption | apply good_post | apply GoodOut.next | exact GoodOut.fault | split
    | (simp only [good_mk]; apply Good.parts)

theorem good_syncAlarm {a : State} (s : State) (h : Good a s) : Good a (syncAlarm s) := by
  unfold syncAlarm
  try dsimp only
  with_reducible repeat' first | assumption | split | (simp only [good_mk]; apply Good.parts)

theorem good_tripRun {a : State} (n : Fin 4) (s : State) (h : Good a s) : Good a (tripRun n s) := by
  unfold tripRun
  try dsimp only
  with_reducible repeat' first
    | assumption | apply good_post | apply good_bumpAon | apply good_syncAlarm | apply good_wakeFrom | split
    | (simp only [good_mk]; apply Good.parts)

theorem good_execCmpTrip {a : State} (n : Fin 4) (s : State) (h : Good a s) : GoodOut a (execCmpTrip n s) := by
  unfold execCmpTrip
  try dsimp only
  with_reducible repeat' first
    | assumption | apply good_tripRun | apply GoodOut.next | exact GoodOut.fault | split
    | (simp only [good_mk]; apply Good.parts)

theorem good_execCmpRelease {a : State} (n : Fin 4) (s : State) (h : Good a s) : GoodOut a (execCmpRelease n s) := by
  unfold execCmpRelease
  try dsimp only
  with_reducible repeat' first
    | assumption | apply GoodOut.next | exact GoodOut.fault | split | (simp only [good_mk]; apply Good.parts)

theorem good_execAonAlarmClear {a : State} (v : Word) (s : State) (h : Good a s) : GoodOut a (execAonAlarmClear v s)
    := by
  unfold execAonAlarmClear
  try dsimp only
  with_reducible repeat' first
    | assumption | apply good_syncAlarm | apply GoodOut.next | exact GoodOut.fault | apply Good.foldl
    | (intro _ _ _; try dsimp only) | split | (simp only [good_mk]; apply Good.parts)

theorem good_timerRun {a : State} (s : State) (h : Good a s) : Good a (timerRun s) := by
  unfold timerRun
  try dsimp only
  with_reducible repeat' first
    | assumption | apply good_post | apply good_wake | split | (simp only [good_mk]; apply Good.parts)

theorem good_execAonTimerFire {a : State} (s : State) (h : Good a s) : GoodOut a (execAonTimerFire s) := by
  unfold execAonTimerFire
  try dsimp only
  with_reducible repeat' first
    | assumption | apply good_timerRun | apply GoodOut.next | exact GoodOut.fault | split
    | (simp only [good_mk]; apply Good.parts)

theorem good_execAonTimerWrite {a : State} (v : DWord) (s : State) (h : Good a s) : GoodOut a (execAonTimerWrite v s)
    := by
  unfold execAonTimerWrite
  try dsimp only
  with_reducible repeat' first
    | assumption | apply GoodOut.next | exact GoodOut.fault | split | (simp only [good_mk]; apply Good.parts)

/-! ### Machine/Bench.lean -/

theorem good_execBenchPass {a : State} (b : Fin 4) (s : State) (h : Good a s) : GoodOut a (execBenchPass b s) := by
  unfold execBenchPass
  try dsimp only
  with_reducible repeat' first
    | assumption | apply good_setBnc | apply GoodOut.next | exact GoodOut.fault | (intro _; rfl) | split
    | (simp only [good_mk]; apply Good.parts)

theorem good_execBenchWeightLoad {a : State} (b : Fin 4) (cy : BenchCycles) (ecc : Ecc) (s : State) (h : Good a s) :
    GoodOut a (execBenchWeightLoad b cy ecc s) := by
  unfold execBenchWeightLoad
  try dsimp only
  with_reducible repeat' first
    | assumption | apply good_benchWait | apply good_storeEcc | apply good_benchCycles | apply good_benchGo
    | apply good_loadLut | apply good_countTile | apply good_setBnc | apply good_markSlot
    | refine Good.snd (by assumption) ?_ | apply GoodOut.next | exact GoodOut.fault | (intro _; rfl) | split
    | (simp only [good_mk]; apply Good.parts)

theorem good_execBenchActivationRead {a : State} (b : Fin 4) (cy : BenchCycles) (ecc : Ecc) (s : State) (h : Good a s)
    : GoodOut a (execBenchActivationRead b cy ecc s) := by
  unfold execBenchActivationRead
  try dsimp only
  repeat' first
    | with_reducible assumption
    | with_reducible apply good_benchWait
    | with_reducible apply good_benchCycles
    | with_reducible apply good_storeEcc
    | with_reducible apply good_benchGo
    | with_reducible apply good_streamPass
    | with_reducible apply good_markSlot
    | with_reducible apply good_setBnc
    | with_reducible apply good_releaseKept
    | with_reducible apply good_passDone
    | with_reducible apply GoodOut.next
    | exact GoodOut.fault
    | (intro _; with_reducible rfl)
    | split

theorem good_execBenchOutputWrite {a : State} (b : Fin 4) (cy : BenchCycles) (s : State) (h : Good a s) : GoodOut a
    (execBenchOutputWrite b cy s) := by
  unfold execBenchOutputWrite
  try dsimp only
  repeat' first
    | with_reducible assumption
    | with_reducible apply good_benchWait
    | with_reducible apply good_benchCycles
    | with_reducible apply good_writeOutputs
    | with_reducible apply good_releaseKept
    | with_reducible apply good_benchGo
    | with_reducible apply good_markSlot
    | with_reducible apply good_passDone
    | with_reducible apply good_setBnc
    | with_reducible apply GoodOut.next
    | exact GoodOut.fault
    | (intro _; with_reducible rfl)
    | split

theorem good_execBncWaitTimeout {a : State} (b : Fin 4) (s : State) (h : Good a s) : GoodOut a (execBncWaitTimeout b
    s) := by
  unfold execBncWaitTimeout
  try dsimp only
  repeat' first
    | with_reducible assumption
    | with_reducible apply good_setBnc
    | with_reducible apply good_waitEnds
    | with_reducible apply good_fatalFault
    | with_reducible apply good_post
    | with_reducible apply GoodOut.next
    | (intro _; with_reducible rfl)
    | split

theorem good_noteBench {a : State} (b : Fin 4) (s : State) (h : Good a s) : Good a (noteBench b s) := by
  unfold noteBench
  try dsimp only
  with_reducible repeat' first
    | assumption | (intro _ _ _; try dsimp only) | split | (simp only [good_mk]; apply Good.parts)

theorem good_execBenchSelftestDone {a : State} (b : Fin 4) (ok : Bool) (s : State) (h : Good a s) :
    GoodOut a (execBenchSelftestDone b ok s) := by
  unfold execBenchSelftestDone
  try dsimp only
  with_reducible repeat' first
    | assumption | apply good_nextTest | apply good_setBnc | apply good_post | apply good_noteBench
    | apply good_eachSlot | apply good_dropInlay | apply GoodOut.next | exact GoodOut.fault | (intro _; rfl)
    | split | (simp only [good_mk]; apply Good.parts)

theorem good_execBncCfgWrite {a : State} (b : Fin 4) (v : Word) (s : State) (h : Good a s) :
    GoodOut a (execBncCfgWrite b v s) := by
  unfold execBncCfgWrite
  try dsimp only
  with_reducible repeat' first
    | assumption | apply good_post | apply good_setBnc | apply GoodOut.next | exact GoodOut.fault | (intro _; rfl)
    | split | (simp only [good_mk]; apply Good.parts)

/-! ### Machine/HostIf.lean -/

theorem good_execPcieLinkUp {a : State} (width : Nat) (speed : Nat) (s : State) (h : Good a s) : GoodOut a
    (execPcieLinkUp width speed s) := by
  unfold execPcieLinkUp
  try dsimp only
  with_reducible repeat' first
    | assumption | apply GoodOut.next | exact GoodOut.fault | split | (simp only [good_mk]; apply Good.parts)

theorem good_execPerstN {a : State} (s : State) (h : Good a s) :
    GoodOut a (execPerstN s) := by
  unfold execPerstN
  try dsimp only
  repeat' first
    | with_reducible assumption
    | with_reducible exact Good.refl _
    | with_reducible rfl
    | with_reducible apply GoodOut.next
    | exact GoodOut.fault
    | exact GoodOut.refused
    | with_reducible apply Good.foldl
    | (intro _; with_reducible rfl)
    | (intro _; repeat' split) <;> with_reducible rfl
    | (intro _ _ _ _ _ _; try dsimp only)
    | (intro _ _ _ _ _; try dsimp only)
    | (intro _ _ _ _; try dsimp only)
    | (intro _ _ _; try dsimp only)
    | (intro _ _; try dsimp only)
    | split
    | (simp only [good_mk]; with_reducible apply Good.parts)
    | (simp only [good_mk]; with_reducible refine Good.partsBytes ?_ ?_)
    | (intro w; first | with_reducible exact clearRange_wf _ _ _ w | with_reducible exact writeBytes_wf _ _ _ w | with_reducible exact overlay_wf _ _ (withoutHandles_wf _ _ w) | with_reducible exact discardBytes_wf _ _ _ w)
    | (simp only [good_mk]; with_reducible refine Good.partsVmap ?_ ?_)
    | (intro _; with_reducible exact Or.inl rfl)
    | ((intro _; repeat' split) <;> first | with_reducible exact Or.inl rfl | with_reducible exact Or.inr rfl)
    | (simp only [good_mk]; with_reducible refine Good.partsQueues ?_ ?_ ?_ ?_)
    | with_reducible exact id
    | with_reducible exact fun _ => Nat.zero_le _
    | exact fun _ => (Nat.zero_le _ : Hif.reset.queue.length ≤ 16)
    | (intro _; omega)
    | (simp only [good_mk]; done)
    | (intro q; cases q; done)
    | (intro _; rfl)
    | (intro _; rfl)
    | dsimp only
    | (dsimp only [id]; with_reducible assumption)

theorem good_ringDoorbell {a : State} (q : BitVec 16) (s : State) (h : Good a s) : Good a (ringDoorbell q s) := by
  unfold ringDoorbell
  split
  · exact good_post _ _ (good_hifFault _ _ _ h)
  · rename_i n
    refine good_bumpHif _ _ _ (good_mk.2 (h.partsQueues id (fun _ => ?_) id))
    simp only [tagTaken, Bool.or_eq_true, not_or, decide_eq_true_eq] at n
    simp only [List.length_append, List.length_cons, List.length_nil]
    omega

theorem good_execCmdDoorbell {a : State} (seq : BitVec 16) (s : State) (h : Good a s) : GoodOut a (execCmdDoorbell seq
    s) := by
  unfold execCmdDoorbell
  try dsimp only
  with_reducible repeat' first
    | assumption | apply good_ringDoorbell | apply GoodOut.next | exact GoodOut.fault | split
    | (simp only [good_mk]; apply Good.parts)

theorem good_execUnknownOpcode {a : State} (c : Cmd) (op : Byte) (s : State) (h : Good a s) : GoodOut a
    (execUnknownOpcode c op s) := by
  unfold execUnknownOpcode
  try dsimp only
  with_reducible repeat' first
    | assumption | apply good_runCmd | apply good_endWith | apply GoodOut.next | exact GoodOut.fault
    | (intro _ _ _; try dsimp only) | split | (simp only [good_mk]; apply Good.parts)

theorem good_freeResult {a : State} (i : Fin 16) (s : State) (h : Good a s) : Good a (freeResult i s) := by
  unfold freeResult
  try dsimp only
  with_reducible repeat' first | assumption | apply good_fire | split | (simp only [good_mk]; apply Good.parts)

theorem good_ackResult {a : State} (q : BitVec 16) (final : Bool) (s : State) (h : Good a s) : Good a (ackResult q
    final s) := by
  unfold ackResult
  try dsimp only
  with_reducible repeat' first
    | assumption | apply good_freeResult | apply good_hifFault | split | (simp only [good_mk]; apply Good.parts)

theorem good_execHifResAck {a : State} (seq : BitVec 16) (final : Bool) (s : State) (h : Good a s) : GoodOut a
    (execHifResAck seq final s) := by
  unfold execHifResAck
  try dsimp only
  with_reducible repeat' first
    | assumption | apply good_ackResult | apply GoodOut.next | exact GoodOut.fault | split
    | (simp only [good_mk]; apply Good.parts)

theorem good_bounceBad {a : State} (q : BitVec 16) (s : State) (h : Good a s) : Good a (bounceBad q s) := by
  unfold bounceBad
  try dsimp only
  with_reducible repeat' first
    | assumption | apply good_post | apply good_bumpHif | apply good_hifFault | split
    | (simp only [good_mk]; apply Good.parts)

theorem good_takeCounter {a : State} (q : BitVec 16) (x : Session) (n : DWord) (s : State) (h : Good a s) : Good a
    (takeCounter q x n s) := by
  unfold takeCounter
  try dsimp only
  with_reducible repeat' first
    | assumption | apply good_post | apply good_hifFault | split | (simp only [good_mk]; apply Good.parts)

theorem good_takeBounce {a : State} (c : Cmd) (op : Byte) (off : Nat) (len : Option Nat) (m : List Byte) (s : State)
    (h : Good a s) : Good a (takeBounce c op off len m s).2 := by
  unfold takeBounce
  try dsimp only
  with_reducible repeat' first
    | assumption | apply good_takeCounter | apply good_bounceBad | split | (simp only [good_mk]; apply Good.parts)

theorem good_execMsixUnmask {a : State} (v : Fin 4) (s : State) (h : Good a s) : GoodOut a (execMsixUnmask v s) := by
  unfold execMsixUnmask
  try dsimp only
  with_reducible repeat' first
    | assumption | apply GoodOut.next | exact GoodOut.fault | split | (simp only [good_mk]; apply Good.parts)

/-! ### Machine/Image.lean -/

theorem good_openBank {a : State} (o : Origin) (x : Bank) (len : Nat) (p : Pend) (s : State) (h : Good a s) : Good a
    (openBank o x len p s) := by
  unfold openBank
  try dsimp only
  with_reducible repeat' first
    | assumption | apply good_startPending | apply good_abandonImage | apply good_selAppend | apply good_setBank
    | apply good_queueTask | split | (simp only [good_mk]; apply Good.parts)

theorem good_imageOpenRun {a : State} (c : Cmd) (p : Pend) (s : State) (h : Good a s) : Good a (imageOpenRun c p s) :=
    by
  unfold imageOpenRun
  try dsimp only
  with_reducible repeat' first
    | assumption | apply good_endWith | apply good_protectedFault | apply good_openBank | split
    | (simp only [good_mk]; apply Good.parts)

theorem good_execImageOpen {a : State} (c : Cmd) (s : State) (h : Good a s) : GoodOut a (execImageOpen c s) := by
  unfold execImageOpen
  try dsimp only
  with_reducible repeat' first
    | assumption | apply good_runCmd | apply good_imageOpenRun | apply GoodOut.next | exact GoodOut.fault | split
    | (simp only [good_mk]; apply Good.parts)

theorem good_imageWriteRun {a : State} (c : Cmd) (m : List Byte) (p : Pend) (s : State) (h : Good a s) : Good a
    (imageWriteRun c m p s) := by
  unfold imageWriteRun
  try dsimp only
  with_reducible repeat' first
    | assumption | apply good_endWith | apply good_takeBounce | apply good_protectedFault | apply good_queueTask
    | apply good_startPending | refine Good.snd (by assumption) ?_ | split
    | (simp only [good_mk]; apply Good.parts)

theorem good_execImageWrite {a : State} (c : Cmd) (m : List Byte) (s : State) (h : Good a s) : GoodOut a
    (execImageWrite c m s) := by
  unfold execImageWrite
  try dsimp only
  with_reducible repeat' first
    | assumption | apply good_runCmd | apply good_imageWriteRun | apply GoodOut.next | exact GoodOut.fault | split
    | (simp only [good_mk]; apply Good.parts)

theorem good_imageCommitRun {a : State} (c : Cmd) (v : CommitVerdict) (p : Pend) (s : State) (h : Good a s) : Good a
    (imageCommitRun c v p s) := by
  unfold imageCommitRun
  try dsimp only
  with_reducible repeat' first
    | assumption | apply good_endWith | apply good_queueTask | apply good_startPending | split
    | (simp only [good_mk]; apply Good.parts)

theorem good_execImageCommit {a : State} (c : Cmd) (v : CommitVerdict) (s : State) (h : Good a s) : GoodOut a
    (execImageCommit c v s) := by
  unfold execImageCommit
  try dsimp only
  with_reducible repeat' first
    | assumption | apply good_runCmd | apply good_imageCommitRun | apply GoodOut.next | exact GoodOut.fault
    | split | (simp only [good_mk]; apply Good.parts)

theorem good_selectBank {a : State} (x : Bank) (x1 : ImgHeader) (p : Pend) (s : State) (h : Good a s) : Good a
    (selectBank x x1 p s) := by
  unfold selectBank
  try dsimp only
  with_reducible repeat' first
    | assumption | apply good_selAppend | apply good_startPending | apply good_warmRestart | split
    | (simp only [good_mk]; apply Good.parts)

theorem good_imageSelectRun {a : State} (c : Cmd) (p : Pend) (s : State) (h : Good a s) : Good a (imageSelectRun c p
    s) := by
  unfold imageSelectRun
  try dsimp only
  with_reducible repeat' first
    | assumption | apply good_endWith | apply good_selectBank | split | (simp only [good_mk]; apply Good.parts)

theorem good_execImageSelect {a : State} (c : Cmd) (s : State) (h : Good a s) : GoodOut a (execImageSelect c s) := by
  unfold execImageSelect
  try dsimp only
  with_reducible repeat' first
    | assumption | apply good_runCmd | apply good_imageSelectRun | apply GoodOut.next | exact GoodOut.fault
    | split | (simp only [good_mk]; apply Good.parts)

/-! ### Machine/Boot.lean -/

theorem good_dropImage {a : State} (s : State) (h : Good a s) : Good a (dropImage s) := by
  unfold dropImage
  try dsimp only
  with_reducible repeat' first | assumption | split | (simp only [good_mk]; apply Good.parts)

theorem good_fallBack {a : State} (st : Byte) (x : Bank) (s : State) (h : Good a s) : Good a (fallBack st x s) := by
  unfold fallBack
  try dsimp only
  with_reducible repeat' first
    | assumption | apply good_warmRestart | apply good_dropImage | apply good_selAppend | apply good_endOpt
    | apply good_post | split | (simp only [good_mk]; apply Good.parts)

theorem good_bootBare {a : State} (s : State) (h : Good a s) : Good a (bootBare s) := by
  unfold bootBare
  try dsimp only
  with_reducible repeat' first
    | assumption | apply good_bootReports | apply good_dropImage | split | (simp only [good_mk]; apply Good.parts)

theorem good_reachNoImage {a : State} (s : State) (h : Good a s) : Good a (reachNoImage s) := by
  unfold reachNoImage
  try dsimp only
  with_reducible repeat' first
    | assumption | apply good_someCycles | apply good_dropImage | apply good_bootEnd
    | refine Good.snd (by assumption) ?_ | split | (simp only [good_mk]; apply Good.parts)

theorem good_verified {a : State} (x : Bank) (s : State) (h : Good a s) : Good a (verified x s) := by
  unfold verified
  try dsimp only
  with_reducible repeat' first | assumption | apply good_bootReports | split | (simp only [good_mk]; apply Good.parts)

theorem good_startLinks {a : State} (s : State) (h : Good a s) : Good a (startLinks s) := by
  unfold startLinks
  try dsimp only
  with_reducible repeat' first
    | assumption | (intro _ _ _; try dsimp only) | split | (simp only [good_mk]; apply Good.parts)

theorem good_verifyBank {a : State} (x : Bank) (trial : Bool) (sigOk : Bool) (reads : List FlashRead) (s : State) (h :
    Good a s) : Good a (verifyBank x trial sigOk reads s) := by
  unfold verifyBank
  try dsimp only
  with_reducible repeat' first
    | assumption | apply good_noteRead | apply good_uncorrRead | apply good_startLinks | apply good_verified
    | apply good_fallBack | apply good_bootBare | apply Good.foldl | (intro _ _ _; try dsimp only) | split
    | (simp only [good_mk]; apply Good.parts)

theorem good_bootConfirmed {a : State} (c : Option SelWord) (sigOk : Bool) (reads : List FlashRead) (s : State) (h :
    Good a s) : Good a (bootConfirmed c sigOk reads s) := by
  unfold bootConfirmed
  try dsimp only
  with_reducible repeat' first
    | assumption | apply good_verifyBank | apply good_startLinks | apply good_bootBare | split
    | (simp only [good_mk]; apply Good.parts)

theorem good_chooseBank {a : State} (sigOk : Bool) (reads : List FlashRead) (s : State) (h : Good a s) : Good a
    (chooseBank sigOk reads s) := by
  unfold chooseBank
  try dsimp only
  with_reducible repeat' first
    | assumption | apply good_arRaise | apply good_verifyBank | apply good_selAppend | apply good_bootConfirmed
    | apply good_post | split | (simp only [good_mk]; apply Good.parts)

theorem good_checkCommit {a : State} (weak : Bool) (s : State) (h : Good a s) : Good a (checkCommit weak s) := by
  unfold checkCommit
  try dsimp only
  with_reducible repeat' first | assumption | apply good_ksAppend | split | (simp only [good_mk]; apply Good.parts)

theorem good_execImageVerifyDone {a : State} (sigOk : Bool) (reads : List FlashRead) (ksWeak : Bool) (s : State) (h :
    Good a s) : GoodOut a (execImageVerifyDone sigOk reads ksWeak s) := by
  unfold execImageVerifyDone
  try dsimp only
  with_reducible repeat' first
    | assumption | apply good_checkCommit | apply good_chooseBank | apply GoodOut.next | exact GoodOut.fault
    | split | (simp only [good_mk]; apply Good.parts)

theorem good_trainingEnd {a : State} (s : State) (h : Good a s) : Good a (trainingEnd s) := by
  unfold trainingEnd
  try dsimp only
  with_reducible repeat' first
    | assumption | apply good_reachNoImage | (intro _ _ _; try dsimp only) | split
    | (simp only [good_mk]; apply Good.parts)

theorem good_execTrainingDone {a : State} (s : State) (h : Good a s) : GoodOut a (execTrainingDone s) := by
  unfold execTrainingDone
  try dsimp only
  with_reducible repeat' first
    | assumption | apply good_trainingEnd | apply GoodOut.next | exact GoodOut.fault | split
    | (simp only [good_mk]; apply Good.parts)

theorem good_install {a : State} (x0 : ImgHeader) (body : ImageBody) (s : State) (h : Good a s) : Good a (install x0
    body s) := by
  unfold install
  try dsimp only
  with_reducible repeat' first | assumption | split | (simp only [good_mk]; apply Good.parts)

theorem good_autoStart {a : State} (s : State) (idx : Nat) (h : Good a s) : Good a (autoStart s idx) := by
  unfold autoStart
  try dsimp only
  with_reducible repeat' first
    | assumption | apply good_startJob | apply good_post | refine Good.snd (by assumption) ?_ | split
    | (simp only [good_mk]; apply Good.parts)

theorem good_confirmBank {a : State} (x : Bank) (x1 : ImgHeader) (s : State) (h : Good a s) : Good a (confirmBank x x1
    s) := by
  unfold confirmBank
  try dsimp only
  with_reducible repeat' first
    | assumption | apply good_setBank | apply good_selAppend | apply good_post | apply good_arRaise | split
    | (simp only [good_mk]; apply Good.parts)

theorem good_raiseFuse {a : State} (s : State) (h : Good a s) : Good a (raiseFuse s) :=
  good_mk.2 (h.partsOneWay (Nat.le_max_left _ _) (fun _ q => q) ⟨[], by simp⟩)

theorem good_answerSelect {a : State} (st : Byte) (s : State) (h : Good a s) : Good a (answerSelect st s) := by
  unfold answerSelect
  try dsimp only
  with_reducible repeat' first | assumption | apply good_endOpt | split | (simp only [good_mk]; apply Good.parts)

theorem good_parsed {a : State} (x : Bank) (x1 : ImgHeader) (body : ImageBody) (ms : Word) (s : State) (h : Good a s)
    : Good a (parsed x x1 body ms s) := by
  unfold parsed
  try dsimp only
  with_reducible repeat' first
    | assumption | apply good_raiseFuse | apply good_exhausted | apply good_install | apply good_autoStart | apply good_answerSelect
    | apply good_confirmBank | apply good_bootEnd | apply Good.foldl | (intro _ _ _; try dsimp only) | split
    | (simp only [good_mk]; apply Good.parts)

theorem good_refuseImage {a : State} (st : Byte) (x : Bank) (s : State) (h : Good a s) : Good a (refuseImage st x s)
    := by
  unfold refuseImage
  try dsimp only
  with_reducible repeat' first
    | assumption | apply good_fallBack | apply good_reachNoImage | split | (simp only [good_mk]; apply Good.parts)

theorem good_parseEnd {a : State} (body : ImageBody) (ms : Word) (s : State) (h : Good a s) : Good a (parseEnd body ms
    s) := by
  unfold parseEnd
  try dsimp only
  with_reducible repeat' first
    | assumption | apply good_refuseImage | apply good_parsed | split | (simp only [good_mk]; apply Good.parts)

theorem good_execParseComplete {a : State} (body : ImageBody) (ms : Word) (s : State) (h : Good a s) : GoodOut a
    (execParseComplete body ms s) := by
  unfold execParseComplete
  try dsimp only
  with_reducible repeat' first
    | assumption | apply good_parseEnd | apply GoodOut.next | exact GoodOut.fault | split
    | (simp only [good_mk]; apply Good.parts)

theorem good_execBootTimeout {a : State} (s : State) (h : Good a s) : GoodOut a (execBootTimeout s) := by
  unfold execBootTimeout
  try dsimp only
  with_reducible repeat' first
    | assumption | apply good_refuseImage | apply good_post | apply GoodOut.next | exact GoodOut.fault | split
    | (simp only [good_mk]; apply Good.parts)

theorem good_execJtagRecoveryLoad {a : State} (f : FwCopy) (s : State) (h : Good a s) : GoodOut a
    (execJtagRecoveryLoad f s) := by
  unfold execJtagRecoveryLoad
  try dsimp only
  with_reducible repeat' first
    | assumption | apply GoodOut.next | exact GoodOut.fault | split | (simp only [good_mk]; apply Good.parts)

/-! ### Machine/NormOps.lean -/

theorem good_normDeliver {a : State} (j : Fin 4) (x1 : NormWait) (out : List NormStat) (s : State) (h : Good a s) :
    Good a (normDeliver j x1 out s) := by
  unfold normDeliver
  try dsimp only
  with_reducible repeat' first
    | assumption | apply good_setJob | apply good_setPln | apply good_markSlot | (intro _ _ _; try dsimp only)
    | split | (simp only [good_mk]; apply Good.parts)

theorem good_normTry {a : State} (j : Fin 4) (id : BitVec 16) (s : State) (h : Good a s) : Good a (normTry j id s) :=
    by
  unfold normTry
  try dsimp only
  with_reducible repeat' first
    | assumption | apply good_normDeliver | (intro _ _ _; try dsimp only) | split
    | (simp only [good_mk]; apply Good.parts)

theorem good_normHold {a : State} (j : Fin 4) (id : BitVec 16) (rank : Nat) (part : Nat) (xs : List NormStat) (s :
    State) (h : Good a s) : Good a (normHold j id rank part xs s) := by
  unfold normHold
  try dsimp only
  with_reducible repeat' first
    | assumption | apply good_setJob | (intro _ _ _; try dsimp only) | split
    | (simp only [good_mk]; apply Good.parts)

theorem good_normSend {a : State} (j : Fin 4) (x : Job) (id : BitVec 16) (others : List Nat) (c : Nat × List NormStat)
    (s : State) (h : Good a s) : Good a (normSend j x id others c s) := by
  unfold normSend
  try dsimp only
  with_reducible repeat' first
    | assumption | apply good_send | apply good_bumpCol | apply Good.foldl | (intro _ _ _; try dsimp only) | split
    | (simp only [good_mk]; apply Good.parts)

theorem good_normEnter {a : State} (p : Fin 16) (r : NormReq) (feats : List NormStat) (s : State) (h : Good a s) :
    Good a (normEnter p r feats s) := by
  unfold normEnter
  try dsimp only
  with_reducible repeat' first
    | assumption | apply good_setJob | apply good_colMark | apply good_normSend | apply good_normHold
    | apply good_normTry | apply Good.foldl | (intro _ _ _; try dsimp only) | split
    | (simp only [good_mk]; apply Good.parts)

end Sys2Proof.Machine
end

