-- ==== Sys2Proof/Laws/GoodFabric.lean ====
section
/-! SUPPORT. `Good` is kept by collectives, copies, events, flash and membership:
for each operation, the lemma `good_<its name>`, which says that it leaves the waiting commands alone, undoes nothing that
goes one way, and keeps the invariant. -/

namespace Sys2Proof.Machine

/-! ### Machine/ColOps.lean -/

theorem good_colFault {a : State} (kind : Nat) (tensor : BitVec 16) (job : Nat) (rank : Nat) (s : State) (h : Good a
    s) : Good a (colFault kind tensor job rank s) := by
  unfold colFault
  try dsimp only
  with_reducible repeat' first | assumption | split | (simp only [good_mk]; apply Good.parts)

theorem good_colEvent {a : State} (code : BitVec 16) (j : Fin 4) (s : State) (h : Good a s) : Good a (colEvent code j
    s) := by
  unfold colEvent
  try dsimp only
  with_reducible repeat' first | assumption | apply good_post | split | (simp only [good_mk]; apply Good.parts)

theorem good_postOnce {a : State} (j : Fin 4) (n : Nat) (code : BitVec 16) (s : State) (h : Good a s) : Good a
    (postOnce j n code s) := by
  unfold postOnce
  try dsimp only
  with_reducible repeat' first
    | assumption | apply good_colEvent | apply good_setJob | (intro _ _ _; try dsimp only) | split
    | (simp only [good_mk]; apply Good.parts)

theorem good_colDrop {a : State} (x0 : MsgHdr) (ch : ColHdr) (s : State) (h : Good a s) : Good a (colDrop x0 ch s) :=
    by
  unfold colDrop
  try dsimp only
  with_reducible repeat' first
    | assumption | apply good_postOnce | apply good_bumpCol | apply good_colFault | split
    | (simp only [good_mk]; apply Good.parts)

theorem good_colCheck {a : State} (x0 : MsgHdr) (ch : ColHdr) (anyStep : Job → Bool) (k : Fin 4 → Job → State → State)
    (s : State) (hk : ∀ y0 y1 y2, Good a y2 → Good a (k y0 y1 y2)) (h : Good a s) : Good a (colCheck x0 ch anyStep k
    s) := by
  unfold colCheck
  try dsimp only
  with_reducible repeat' first
    | assumption | apply good_colDrop | apply good_colMark | apply hk | (intro _ _ _; try dsimp only) | split
    | (simp only [good_mk]; apply Good.parts)

theorem good_colRecv {a : State} (l : Fin 8) (x1 : MsgHdr) (ch : ColHdr) (p : Payload) (k : Fin 4 → Job → State →
    State) (s : State) (hk : ∀ y0 y1 y2, Good a y2 → Good a (k y0 y1 y2)) (h : Good a s) : GoodOut a (colRecv l x1 ch
    p k s) := by
  unfold colRecv
  try dsimp only
  with_reducible repeat' first
    | assumption | apply good_recv | apply good_colCheck | apply hk | apply GoodOut.next | exact GoodOut.fault
    | (intro _ _ _; try dsimp only) | (intro _ _; try dsimp only) | split
    | (simp only [good_mk]; apply Good.parts)

theorem good_takeGlue {a : State} (x0 : Tensor) (off : Nat) (xs : List Word) (j : Fin 4) (x : Job) (s : State) (h :
    Good a s) : Good a (takeGlue x0 off xs j x s) := by
  unfold takeGlue
  try dsimp only
  with_reducible repeat' first
    | assumption | apply good_glueOver | apply good_passHeld | apply good_passChunk | apply good_holdChunk | split
    | (simp only [good_mk]; apply Good.parts)

theorem good_takeGlueOut {a : State} (x0 : Tensor) (off : Nat) (xs : List Word) (j : Fin 4) (s : State) (h : Good a s)
    : Good a (takeGlueOut x0 off xs j s) := by
  unfold takeGlueOut
  try dsimp only
  with_reducible repeat' first
    | assumption | apply good_glueOver | apply good_ownChunk | split | (simp only [good_mk]; apply Good.parts)

theorem good_takeDirect {a : State} (x0 : Tensor) (off : Nat) (xs : List Word) (j : Fin 4) (x : Job) (s : State) (h :
    Good a s) : Good a (takeDirect x0 off xs j x s) := by
  unfold takeDirect
  try dsimp only
  with_reducible repeat' first
    | assumption | apply good_glueOver | apply good_directAdd | split | (simp only [good_mk]; apply Good.parts)

theorem good_glueMsg {a : State} (x0 : MsgHdr) (ch : ColHdr) (xs : List Word) (k : Tensor → Fin 4 → Job → State →
    State) (j : Fin 4) (x : Job) (s : State) (hk : ∀ y0 y1 y2 y3, Good a y3 → Good a (k y0 y1 y2 y3)) (h : Good a s) :
    Good a (glueMsg x0 ch xs k j x s) := by
  unfold glueMsg
  try dsimp only
  with_reducible repeat' first
    | assumption | apply good_colDrop | apply hk | (intro _ _ _; try dsimp only) | split
    | (simp only [good_mk]; apply Good.parts)

theorem good_passShard {a : State} (j : Fin 4) (x : Job) (x2 : Tensor) (ch : ColHdr) (xs : List Byte) (s : State) (h :
    Good a s) : Good a (passShard j x x2 ch xs s) := by
  unfold passShard
  try dsimp only
  with_reducible repeat' first
    | assumption | apply good_send | apply good_bumpCol | (intro _ _ _; try dsimp only) | split
    | (simp only [good_mk]; apply Good.parts)

theorem good_takeGather {a : State} (x0 : MsgHdr) (ch : ColHdr) (xs : List Byte) (j : Fin 4) (x : Job) (s : State) (h
    : Good a s) : Good a (takeGather x0 ch xs j x s) := by
  unfold takeGather
  try dsimp only
  with_reducible repeat' first
    | assumption | apply good_colDrop | apply good_setJob | apply good_pokeOr | apply good_setTens
    | apply good_tryTallyEnd | apply good_passShard | (intro _ _ _; try dsimp only) | split
    | (simp only [good_mk]; apply Good.parts)

theorem good_gatherOne {a : State} (j : Fin 4) (g : MsgHdr × ColHdr × List Byte) (s : State) (h : Good a s) : Good a
    (gatherOne j g s) := by
  unfold gatherOne
  try dsimp only
  with_reducible repeat' first | assumption | apply good_takeGather | split | (simp only [good_mk]; apply Good.parts)

theorem good_takeTally {a : State} (x0 : MsgHdr) (ch : ColHdr) (x2 : Tally) (j : Fin 4) (x4 : Job) (s : State) (h :
    Good a s) : Good a (takeTally x0 ch x2 j x4 s) := by
  unfold takeTally
  try dsimp only
  with_reducible repeat' first
    | assumption | apply good_setTens | apply good_colDrop | (intro _ _ _; try dsimp only) | split
    | (simp only [good_mk]; apply Good.parts)

theorem good_peerReject {a : State} (src : BitVec 16) (j : Fin 4) (id : BitVec 16) (s : State) (h : Good a s) : Good a
    (peerReject src j id s) := by
  unfold peerReject
  try dsimp only
  with_reducible repeat' first
    | assumption | apply good_fatalFault | apply good_colEvent | apply good_colFault | split
    | (simp only [good_mk]; apply Good.parts)

theorem good_createPeerDst {a t : State} {j : Fin 4} {id : BitVec 16} {s : State} (e : createPeerDst j id s = some t)
    (h : Good a s) : Good a t := by
  unfold createPeerDst at e
  try dsimp only at e
  repeat' split at e
  all_goals first | cases e | skip
  with_reducible repeat' first
    | assumption | refine good_ensureHandle ‹_› ?_ | split | (simp only [good_mk]; apply Good.parts)

theorem good_peerFrames {a t : State} {src : BitVec 16} {j : Fin 4} {id : BitVec 16} {x : PeerExtent} {s : State} (e :
    peerFrames src j id x s = some t) (h : Good a s) : Good a t := by
  unfold peerFrames at e
  try dsimp only at e
  repeat' split at e
  all_goals first | cases e | skip
  with_reducible repeat' first
    | assumption | refine good_holdFrames ‹_› ?_ | split | (simp only [good_mk]; apply Good.parts)

theorem good_takePeerReq {a : State} (src : BitVec 16) (id : BitVec 16) (x2 : PeerExtent) (j : Fin 4) (x4 : Job) (s :
    State) (h : Good a s) : Good a (takePeerReq src id x2 j x4 s) := by
  unfold takePeerReq
  try dsimp only
  with_reducible repeat' first
    | assumption | refine good_createPeerDst ‹_› ?_ | apply good_fatalFault | apply good_exhausted
    | apply good_peerReject | refine good_peerFrames ‹_› ?_ | apply good_grantPeers | split
    | (simp only [good_mk]; apply Good.parts)

theorem good_sendPiece {a : State} (j : Fin 4) (x : Job) (dst : BitVec 16) (id : BitVec 16) (src : Place) (x5 : Nat)
    (last : Nat) (s : State) (p : (Nat × Nat × Nat × Nat) × Nat) (h : Good a s) : Good a (sendPiece j x dst id src x5
    last s p) := by
  unfold sendPiece
  try dsimp only
  with_reducible repeat' first
    | assumption | apply good_send | apply good_bumpCol | apply good_placeUse | split
    | (simp only [good_mk]; apply Good.parts)

theorem good_peerSend {a : State} (x0 : Fin 8) (d : Desc8) (dst : BitVec 16) (id : BitVec 16) (j : Fin 4) (x : Job) (s
    : State) (h : Good a s) : Good a (peerSend x0 d dst id j x s) := by
  unfold peerSend
  try dsimp only
  with_reducible repeat' first
    | assumption | apply good_setWait | apply good_sendPiece | apply good_bumpStk | apply Good.foldl
    | (intro _ _ _; try dsimp only) | split | (simp only [good_mk]; apply Good.parts)

theorem good_takePeerGrant {a : State} (src : BitVec 16) (id : BitVec 16) (j : Fin 4) (x : Job) (s : State) (h : Good
    a s) : Good a (takePeerGrant src id j x s) := by
  unfold takePeerGrant
  try dsimp only
  with_reducible repeat' first | assumption | apply good_peerSend | split | (simp only [good_mk]; apply Good.parts)

theorem good_peerEnd {a : State} (p : PeerOpen) (s : State) (h : Good a s) : Good a (peerEnd p s) := by
  unfold peerEnd
  try dsimp only
  with_reducible repeat' first
    | assumption | apply good_unpin | apply good_grantPeers | apply good_send | apply good_markSlot | split
    | (simp only [good_mk]; apply Good.parts)

theorem good_takePeerData {a : State} (x0 : MsgHdr) (ch : ColHdr) (row : Nat) (last : Bool) (xs : List Byte) (j : Fin
    4) (x6 : Job) (s : State) (h : Good a s) : Good a (takePeerData x0 ch row last xs j x6 s) := by
  unfold takePeerData
  try dsimp only
  with_reducible repeat' first
    | assumption | apply good_colDrop | apply good_placeWrite | apply good_peerEnd | (intro _ _ _; try dsimp only)
    | split | (simp only [good_mk]; apply Good.parts)

theorem good_takePeerDone {a : State} (src : BitVec 16) (id : BitVec 16) (j : Fin 4) (x : Job) (s : State) (h : Good a
    s) : Good a (takePeerDone src id j x s) := by
  unfold takePeerDone
  try dsimp only
  with_reducible repeat' first
    | assumption | apply good_nextDesc | apply good_unpin | split | (simp only [good_mk]; apply Good.parts)

theorem good_expComplete {a : State} (j : Fin 4) (x1 : Tensor) (bwd : Bool) (s : State) (h : Good a s) : Good a
    (expComplete j x1 bwd s) := by
  unfold expComplete
  try dsimp only
  with_reducible repeat' first
    | assumption | apply good_freeHandle | apply good_setJob | apply good_postOnce | apply good_bumpCol
    | apply good_colFault | apply Good.foldl | (intro _ _ _; try dsimp only) | split
    | (simp only [good_mk]; apply Good.parts)

theorem good_expHold {a : State} (j : Fin 4) (x1 : Tensor) (bwd : Bool) (src : Nat) (xs : List ExpEntry) (s : State)
    (h : Good a s) : Good a (expHold j x1 bwd src xs s) := by
  unfold expHold
  try dsimp only
  with_reducible repeat' first
    | assumption | refine good_holdBytes ‹_› ?_ | apply good_fatalFault | apply good_exhausted
    | apply good_expComplete | apply good_setJob | (intro _ _ _; try dsimp only) | split
    | (simp only [good_mk]; apply Good.parts)

theorem good_takeDispatch {a : State} (x0 : MsgHdr) (ch : ColHdr) (xs : List ExpEntry) (j : Fin 4) (x : Job) (s :
    State) (h : Good a s) : Good a (takeDispatch x0 ch xs j x s) := by
  unfold takeDispatch
  try dsimp only
  with_reducible repeat' first
    | assumption | apply good_colDrop | apply good_expHold | split | (simp only [good_mk]; apply Good.parts)

theorem good_ownDispatch {a : State} (ch : ColHdr) (es : List ExpEntry) (j : Fin 4) (x : Job) (s : State) (h : Good a
    s) : Good a (ownDispatch ch es j x s) := by
  unfold ownDispatch
  try dsimp only
  with_reducible repeat' first
    | assumption | apply good_setJob | apply good_bumpCol | apply good_colMark | apply good_expHold | apply good_send | split
    | (simp only [good_mk]; apply Good.parts)

theorem good_takeReturn {a : State} (src : Nat) (ch : ColHdr) (xs : List ExpEntry) (j : Fin 4) (s : State) (h : Good a
    s) : Good a (takeReturn src ch xs j s) := by
  unfold takeReturn
  try dsimp only
  with_reducible repeat' first
    | assumption | apply good_setJob | (intro _ _ _; try dsimp only) | split
    | (simp only [good_mk]; apply Good.parts)

theorem good_ownReturn {a : State} (dst : Nat) (ch : ColHdr) (xs : List ExpEntry) (j : Fin 4) (x : Job) (s : State) (h
    : Good a s) : Good a (ownReturn dst ch xs j x s) := by
  unfold ownReturn
  try dsimp only
  with_reducible repeat' first
    | assumption | apply good_takeReturn | apply good_send | (intro _ _ _; try dsimp only) | split
    | (simp only [good_mk]; apply Good.parts)

theorem good_answerState {a : State} (dst : BitVec 16) (x1 : MsgHdr) (ch : ColHdr) (j : Fin 4) (x : Job) (s : State)
    (h : Good a s) : Good a (answerState dst x1 ch j x s) := by
  unfold answerState
  try dsimp only
  with_reducible repeat' first
    | assumption | apply good_send | apply good_useHandle | apply good_colDrop | split
    | (simp only [good_mk]; apply Good.parts)

theorem good_putState {a : State} (j : Fin 4) (x1 : Tensor) (r : TRun) (ch : ColHdr) (xs : List Byte) (k : StateRec)
    (s : State) (h : Good a s) : Good a (putState j x1 r ch xs k s) := by
  unfold putState
  try dsimp only
  with_reducible repeat' first
    | assumption | apply good_pokeOr | apply good_setTens | (intro _ _ _; try dsimp only) | split
    | (simp only [good_mk]; apply Good.parts)

theorem good_putJobState {a : State} (j : Fin 4) (k : StateRec) (s : State) (h : Good a s) : Good a (putJobState j k
    s) := by
  unfold putJobState
  try dsimp only
  with_reducible repeat' first
    | assumption | apply good_setJob | (intro _ _ _; try dsimp only) | split
    | (simp only [good_mk]; apply Good.parts)

theorem good_fetchEnd {a : State} (j : Fin 4) (s : State) (h : Good a s) : Good a (fetchEnd j s) := by
  unfold fetchEnd
  try dsimp only
  with_reducible repeat' first
    | assumption | apply good_setJob | apply good_restoreDone | (intro _ _ _; try dsimp only) | split
    | (simp only [good_mk]; apply Good.parts)

theorem good_takeState {a : State} (x0 : MsgHdr) (ch : ColHdr) (xs : List Byte) (k : StateRec) (j : Fin 4) (x : Job)
    (s : State) (h : Good a s) : Good a (takeState x0 ch xs k j x s) := by
  unfold takeState
  try dsimp only
  with_reducible repeat' first
    | assumption | apply good_fetchEnd | apply good_setJob | apply good_putJobState | apply good_putState
    | apply good_colDrop | (intro _ _ _; try dsimp only) | split | (simp only [good_mk]; apply Good.parts)

/-! ### Machine/Collect.lean -/

theorem good_execGlue {a : State} (l : Fin 8) (x1 : MsgHdr) (ch : ColHdr) (xs : List Word) (ecc : DrawerEcc) (s :
    State) (h : Good a s) : GoodOut a (execGlue l x1 ch xs ecc s) := by
  unfold execGlue
  try dsimp only
  repeat' first
    | with_reducible assumption
    | with_reducible apply good_colRecv
    | with_reducible apply good_glueMsg
    | with_reducible apply good_afterEcc
    | with_reducible apply good_takeGlue
    | with_reducible apply GoodOut.next
    | (intro _ _ _ _; try dsimp only)
    | split

theorem good_execGlueOut {a : State} (l : Fin 8) (x1 : MsgHdr) (ch : ColHdr) (xs : List Word) (s : State) (h : Good a
    s) : GoodOut a (execGlueOut l x1 ch xs s) := by
  unfold execGlueOut
  try dsimp only
  with_reducible repeat' first
    | assumption | apply good_colRecv | apply good_glueMsg | apply good_takeGlueOut | apply GoodOut.next
    | exact GoodOut.fault | (intro _ _ _; try dsimp only) | split | (simp only [good_mk]; apply Good.parts)

theorem good_execGlueDirect {a : State} (l : Fin 8) (x1 : MsgHdr) (ch : ColHdr) (xs : List Word) (s : State) (h : Good
    a s) : GoodOut a (execGlueDirect l x1 ch xs s) := by
  unfold execGlueDirect
  try dsimp only
  with_reducible repeat' first
    | assumption | apply good_colRecv | apply good_glueMsg | apply good_takeDirect | apply GoodOut.next
    | exact GoodOut.fault | (intro _ _ _; try dsimp only) | split | (simp only [good_mk]; apply Good.parts)

theorem good_execGather {a : State} (l : Fin 8) (x1 : MsgHdr) (ch : ColHdr) (xs : List Byte) (s : State) (h : Good a
    s) : GoodOut a (execGather l x1 ch xs s) := by
  unfold execGather
  try dsimp only
  with_reducible repeat' first
    | assumption | apply good_colRecv | apply good_takeGather | apply GoodOut.next | exact GoodOut.fault | split
    | (simp only [good_mk]; apply Good.parts)

theorem good_execTally {a : State} (l : Fin 8) (x1 : MsgHdr) (ch : ColHdr) (x3 : Tally) (s : State) (h : Good a s) :
    GoodOut a (execTally l x1 ch x3 s) := by
  unfold execTally
  try dsimp only
  with_reducible repeat' first
    | assumption | apply good_colRecv | apply good_takeTally | apply GoodOut.next | exact GoodOut.fault | split
    | (simp only [good_mk]; apply Good.parts)

theorem good_execNorm {a : State} (l : Fin 8) (x1 : MsgHdr) (ch : ColHdr) (xs : List NormWire) (s : State) (h : Good a
    s) : GoodOut a (execNorm l x1 ch xs s) := by
  unfold execNorm
  try dsimp only
  repeat' first
    | with_reducible assumption
    | with_reducible apply good_colRecv
    | with_reducible apply good_normTry
    | with_reducible apply good_normHold
    | with_reducible apply good_colDrop
    | (intro _ _ _ _; try dsimp only)
    | split

theorem good_execPeerReq {a : State} (l : Fin 8) (x1 : MsgHdr) (ch : ColHdr) (x : PeerExtent) (s : State) (h : Good a
    s) : GoodOut a (execPeerReq l x1 ch x s) := by
  unfold execPeerReq
  try dsimp only
  with_reducible repeat' first
    | assumption | apply good_colRecv | apply good_takePeerReq | apply GoodOut.next | exact GoodOut.fault | split
    | (simp only [good_mk]; apply Good.parts)

theorem good_execPeerGrant {a : State} (l : Fin 8) (x1 : MsgHdr) (ch : ColHdr) (s : State) (h : Good a s) : GoodOut a
    (execPeerGrant l x1 ch s) := by
  unfold execPeerGrant
  try dsimp only
  with_reducible repeat' first
    | assumption | apply good_colRecv | apply good_takePeerGrant | apply GoodOut.next | exact GoodOut.fault
    | split | (simp only [good_mk]; apply Good.parts)

theorem good_execPeerData {a : State} (l : Fin 8) (x1 : MsgHdr) (ch : ColHdr) (row : Nat) (last : Bool) (xs : List
    Byte) (s : State) (h : Good a s) : GoodOut a (execPeerData l x1 ch row last xs s) := by
  unfold execPeerData
  try dsimp only
  with_reducible repeat' first
    | assumption | apply good_colRecv | apply good_takePeerData | apply GoodOut.next | exact GoodOut.fault | split
    | (simp only [good_mk]; apply Good.parts)

theorem good_execPeerDone {a : State} (l : Fin 8) (x1 : MsgHdr) (ch : ColHdr) (s : State) (h : Good a s) : GoodOut a
    (execPeerDone l x1 ch s) := by
  unfold execPeerDone
  try dsimp only
  with_reducible repeat' first
    | assumption | apply good_colRecv | apply good_takePeerDone | apply GoodOut.next | exact GoodOut.fault | split
    | (simp only [good_mk]; apply Good.parts)

theorem good_handOver {a : State} (ch : ColHdr) (k : Fin 4 → Job → State → State) (s : State) (hk : ∀ y0 y1 y2, Good a
    y2 → Good a (k y0 y1 y2)) (h : Good a s) : GoodOut a (handOver ch k s) := by
  unfold handOver
  try dsimp only
  with_reducible repeat' first
    | assumption | apply hk | apply GoodOut.next | exact GoodOut.fault | (intro _ _ _; try dsimp only) | split
    | (simp only [good_mk]; apply Good.parts)

theorem good_execExpDispatch {a : State} (l : Fin 8) (x1 : MsgHdr) (ch : ColHdr) (xs : List ExpEntry) (s : State) (h :
    Good a s) : GoodOut a (execExpDispatch l x1 ch xs s) := by
  unfold execExpDispatch
  try dsimp only
  with_reducible repeat' first
    | assumption | apply good_handOver | apply good_ownDispatch | apply good_colRecv | apply good_takeDispatch
    | apply GoodOut.next | exact GoodOut.fault | split | (simp only [good_mk]; apply Good.parts)

theorem good_execExpReturn {a : State} (l : Fin 8) (x1 : MsgHdr) (ch : ColHdr) (xs : List ExpEntry) (s : State) (h :
    Good a s) : GoodOut a (execExpReturn l x1 ch xs s) := by
  unfold execExpReturn
  try dsimp only
  with_reducible repeat' first
    | assumption | apply good_handOver | apply good_ownReturn | apply good_colRecv | apply good_takeReturn
    | apply GoodOut.next | exact GoodOut.fault | (intro _ _ _; try dsimp only) | split
    | (simp only [good_mk]; apply Good.parts)

theorem good_execStateReq {a : State} (l : Fin 8) (x1 : MsgHdr) (ch : ColHdr) (ecc : DrawerEcc) (s : State) (h : Good
    a s) : GoodOut a (execStateReq l x1 ch ecc s) := by
  unfold execStateReq
  try dsimp only
  repeat' first
    | with_reducible assumption
    | with_reducible apply good_recv
    | with_reducible apply good_colCheck
    | with_reducible apply good_afterEcc
    | with_reducible apply good_answerState
    | (intro _ _; try dsimp only)

theorem good_execStateData {a : State} (l : Fin 8) (x1 : MsgHdr) (ch : ColHdr) (xs : List Byte) (r : StateRec) (s :
    State) (h : Good a s) : GoodOut a (execStateData l x1 ch xs r s) := by
  unfold execStateData
  try dsimp only
  with_reducible repeat' first
    | assumption | apply good_recv | apply good_colCheck | apply good_takeState | apply GoodOut.next
    | exact GoodOut.fault | (intro _ _ _ _ _; try dsimp only) | (intro _ _ _ _; try dsimp only)
    | (intro _ _ _; try dsimp only) | (intro _ _; try dsimp only) | split | (simp only [good_mk]; apply Good.parts)

theorem good_execColTimeout {a : State} (j : Fin 4) (x1 : BitVec 16) (rank : Nat) (s : State) (h : Good a s) : GoodOut
    a (execColTimeout j x1 rank s) := by
  unfold execColTimeout
  try dsimp only
  with_reducible repeat' first
    | assumption | apply good_coveredFault | apply good_colEvent | apply good_bumpCol | apply good_colFault
    | apply GoodOut.next | exact GoodOut.fault | split | (simp only [good_mk]; apply Good.parts)

theorem good_execColCfgWrite {a : State} (v : Word) (s : State) (h : Good a s) : GoodOut a (execColCfgWrite v s) := by
  unfold execColCfgWrite
  try dsimp only
  with_reducible repeat' first
    | assumption | apply good_post | apply good_colFault | apply GoodOut.next | exact GoodOut.fault | split
    | (simp only [good_mk]; apply Good.parts)

/-! ### Machine/Copies.lean -/

theorem good_copyLost {a : State} (x0 : Fin 8) (list : List Desc8) (s : State) (h : Good a s) : Good a (copyLost x0
    list s) := by
  unfold copyLost
  try dsimp only
  with_reducible repeat' first | assumption | apply good_nextDesc | split | (simp only [good_mk]; apply Good.parts)

theorem good_copyMove {a : State} (x0 : Fin 8) (j : Fin 4) (d : Desc8) (src : Place) (dst : Place) (c : Ecc) (k :
    State → State) (s : State) (hk : ∀ y0, Good a y0 → Good a (k y0)) (h : Good a s) : Good a (copyMove x0 j d src dst
    c k s) := by
  unfold copyMove
  try dsimp only
  with_reducible repeat' first
    | assumption | apply good_setWait | refine good_placeHold ‹_› ?_ | apply good_placePin | apply good_fatalFault
    | apply good_exhausted | apply good_placeEcc | apply good_unpin | apply good_moveRows | apply good_copyLost
    | apply hk | refine Good.snd (by assumption) ?_ | (intro _ _ _; try dsimp only) | split
    | (simp only [good_mk]; apply Good.parts)

theorem good_copyAway {a : State} (x0 : Fin 8) (j : Fin 4) (d : Desc8) (src : Place) (c : Ecc) (r : Nat) (s : State)
    (h : Good a s) : Good a (copyAway x0 j d src c r s) := by
  unfold copyAway
  try dsimp only
  with_reducible repeat' first
    | assumption | apply good_setWait | apply good_placeEcc | apply good_send | apply good_placePin
    | apply good_copyLost | refine Good.snd (by assumption) ?_ | split | (simp only [good_mk]; apply Good.parts)

theorem good_peerHere {a : State} (x0 : Fin 8) (d : Desc8) (s : State) (h : Good a s) : Good a (peerHere x0 d s) := by
  unfold peerHere
  try dsimp only
  with_reducible repeat' first
    | assumption | apply good_nextDesc | apply good_markSlot | split | (simp only [good_mk]; apply Good.parts)

theorem good_copyHere {a : State} (x0 : Fin 8) (j : Fin 4) (d : Desc8) (src : Place) (c : Ecc) (s : State) (h : Good a
    s) : Good a (copyHere x0 j d src c s) := by
  unfold copyHere
  try dsimp only
  with_reducible repeat' first
    | assumption | apply good_setWait | refine good_createDst ‹_› ?_ | apply good_fatalFault
    | apply good_exhausted | apply good_copyBounds | apply good_copyMove | apply good_peerHere
    | apply good_descEnd | split | (simp only [good_mk]; apply Good.parts)

theorem good_copyRun {a : State} (x0 : Fin 8) (c : Ecc) (d : Desc8) (s : State) (h : Good a s) : Good a (copyRun x0 c
    d s) := by
  unfold copyRun
  try dsimp only
  with_reducible repeat' first
    | assumption | apply good_copyBounds | apply good_copyAway | apply good_copyHere | split
    | (simp only [good_mk]; apply Good.parts)

theorem good_execCopy {a : State} (x0 : Fin 8) (ecc : Ecc) (s : State) (h : Good a s) : GoodOut a (execCopy x0 ecc s)
    := by
  unfold execCopy
  try dsimp only
  with_reducible repeat' first
    | assumption | apply good_descRun | apply good_copyRun | apply GoodOut.next | exact GoodOut.fault | split
    | (simp only [good_mk]; apply Good.parts)

theorem good_execCopySignal {a : State} (x0 : Fin 8) (s : State) (h : Good a s) : GoodOut a (execCopySignal x0 s) :=
    by
  unfold execCopySignal
  try dsimp only
  with_reducible repeat' first
    | assumption | apply good_descRun | apply good_descEnd | apply GoodOut.next | exact GoodOut.fault | split
    | (simp only [good_mk]; apply Good.parts)

theorem good_copyFreeRun {a : State} (x0 : Fin 8) (d : Desc8) (s : State) (h : Good a s) : Good a (copyFreeRun x0 d s)
    := by
  unfold copyFreeRun
  try dsimp only
  with_reducible repeat' first
    | assumption | apply good_copyBounds | apply good_descEnd | apply good_freeHandle | split
    | (simp only [good_mk]; apply Good.parts)

theorem good_execCopyFree {a : State} (x0 : Fin 8) (s : State) (h : Good a s) : GoodOut a (execCopyFree x0 s) := by
  unfold execCopyFree
  try dsimp only
  with_reducible repeat' first
    | assumption | apply good_descRun | apply good_copyFreeRun | apply GoodOut.next | exact GoodOut.fault | split
    | (simp only [good_mk]; apply Good.parts)

theorem good_noteWindow {a : State} (j : Fin 4) (port : Nat) (lo : Nat) (dst : Nat × Nat) (s : State) (h : Good a s) :
    Good a (noteWindow j port lo dst s) := by
  unfold noteWindow
  try dsimp only
  with_reducible repeat' first
    | assumption | apply good_setJob | (intro _ _ _; try dsimp only) | split
    | (simp only [good_mk]; apply Good.parts)

theorem good_ringUse {a : State} (q : Fin 24) (s : State) (h : Good a s) : Good a (ringUse q s) := by
  unfold ringUse
  try dsimp only
  with_reducible repeat' first | assumption | apply good_placeUse | split | (simp only [good_mk]; apply Good.parts)

theorem good_windowFaults {a : State} (j : Fin 4) (n : Fin 24) (x2 : Nat) (c : WindowCut) (s : State) (h : Good a s) :
    Good a (windowFaults j n x2 c s) := by
  unfold windowFaults
  try dsimp only
  with_reducible repeat' first
    | assumption | apply good_post | apply good_setSns | apply good_stkFault | (intro _ _ _; try dsimp only)
    | split | (simp only [good_mk]; apply Good.parts)

theorem good_windowCopy {a : State} (x0 : Fin 8) (j : Fin 4) (d : Desc8) (n : Fin 24) (x4 : Nat) (cap : Nat) (x6 :
    Window) (train : Bool) (s : State) (h : Good a s) : Good a (windowCopy x0 j d n x4 cap x6 train s) := by
  unfold windowCopy
  try dsimp only
  with_reducible repeat' first
    | assumption | apply good_setWait | refine good_holdFrames ‹_› ?_ | apply good_fatalFault
    | apply good_exhausted | apply good_windowFaults | apply good_noteWindow | apply good_bumpStk
    | apply good_pokeOr | apply good_ringUse | apply good_descEnd | apply good_unpin | split
    | (simp only [good_mk]; apply Good.parts)

theorem good_ringWindowRun {a : State} (x0 : Fin 8) (ecc : Ecc) (d : Desc8) (s : State) (h : Good a s) : Good a
    (ringWindowRun x0 ecc d s) := by
  unfold ringWindowRun
  try dsimp only
  with_reducible repeat' first
    | assumption | apply good_copyBounds | apply good_descEnd | apply good_windowCopy | apply good_placeEcc
    | refine Good.snd (by assumption) ?_ | (intro _ _ _; try dsimp only) | split
    | (simp only [good_mk]; apply Good.parts)

theorem good_execRingWindow {a : State} (x0 : Fin 8) (ecc : Ecc) (s : State) (h : Good a s) : GoodOut a
    (execRingWindow x0 ecc s) := by
  unfold execRingWindow
  try dsimp only
  with_reducible repeat' first
    | assumption | apply good_descRun | apply good_ringWindowRun | apply GoodOut.next | exact GoodOut.fault
    | split | (simp only [good_mk]; apply Good.parts)

theorem good_execStkWaitTimeout {a : State} (x0 : Fin 8) (s : State) (h : Good a s) : GoodOut a (execStkWaitTimeout x0
    s) := by
  unfold execStkWaitTimeout
  try dsimp only
  with_reducible repeat' first
    | assumption | apply good_stkFault | apply good_fatalFault | apply good_post | apply GoodOut.next
    | exact GoodOut.fault | split | (simp only [good_mk]; apply Good.parts)

theorem good_execPageOut {a : State} (x0 : BitVec 16) (frame : Nat) (s : State) (h : Good a s) : GoodOut a
    (execPageOut x0 frame s) := by
  unfold execPageOut
  try dsimp only
  with_reducible repeat' first
    | assumption | apply good_pageOutRun | apply GoodOut.next | exact GoodOut.fault | split
    | (simp only [good_mk]; apply Good.parts)

theorem good_pageInRun {a : State} (x0 : Nat) (i : Nat) (f : Frame) (bs : List Byte) (s : State) (h : Good a s) : Good
    a (pageInRun x0 i f bs s) := by
  unfold pageInRun
  try dsimp only
  repeat' first
    | with_reducible assumption
    | with_reducible refine good_pickPfn ‹_› ?_
    | with_reducible apply good_setHandle
    | with_reducible apply good_grantPeers
    | with_reducible apply good_bumpStk
    | split
    | (simp only [good_mk]; with_reducible refine Good.partsBytes ?_ ?_)
    | (intro w; first | with_reducible exact clearRange_wf _ _ _ w | with_reducible exact writeBytes_wf _ _ _ w | with_reducible exact discardBytes_wf _ _ _ _ w)

theorem good_spillFault {a : State} (bit : Nat) (code : BitVec 16) (x2 : Nat) (i : Nat) (x : Handle) (s : State) (h :
    Good a s) : Good a (spillFault bit code x2 i x s) := by
  unfold spillFault
  try dsimp only
  with_reducible repeat' first
    | assumption | apply good_stkFault | apply good_coveredFault | apply good_post | apply good_dropFrame | split
    | (simp only [good_mk]; apply Good.parts)

theorem good_execPageIn {a : State} (x0 : BitVec 16) (frame : Nat) (r : SpillRead) (s : State) (h : Good a s) :
    GoodOut a (execPageIn x0 frame r s) := by
  unfold execPageIn
  try dsimp only
  repeat' first
    | with_reducible assumption
    | with_reducible apply good_pageInRun
    | with_reducible apply good_spillFault
    | with_reducible apply GoodOut.next
    | split

theorem good_execSpillTimeout {a : State} (x0 : BitVec 16) (frame : Nat) (s : State) (h : Good a s) : GoodOut a
    (execSpillTimeout x0 frame s) := by
  unfold execSpillTimeout
  try dsimp only
  with_reducible repeat' first
    | assumption | apply good_spillFault | apply GoodOut.next | exact GoodOut.fault | split
    | (simp only [good_mk]; apply Good.parts)

theorem good_execPatrolScrub {a : State} (x0 : BitVec 16) (block : Nat) (found : ScrubFind) (s : State) (h : Good a s)
    : GoodOut a (execPatrolScrub x0 block found s) := by
  unfold execPatrolScrub
  try dsimp only
  with_reducible repeat' first
    | assumption | apply good_bumpStk | apply good_blockFault | apply good_blockLost
    | refine Good.snd (by assumption) ?_ | apply GoodOut.next | exact GoodOut.fault | split
    | (simp only [good_mk]; apply Good.parts)

theorem good_execImbalanceWindow {a : State} (s : State) (h : Good a s) : GoodOut a (execImbalanceWindow s) := by
  unfold execImbalanceWindow
  try dsimp only
  with_reducible repeat' first
    | assumption | apply good_stkFault | apply good_post | apply GoodOut.next | exact GoodOut.fault
    | (intro _ _ _; try dsimp only) | split | (simp only [good_mk]; apply Good.parts)

theorem good_stkLocked {a : State} (s : State) (h : Good a s) : Good a (stkLocked s) := by
  unfold stkLocked
  try dsimp only
  with_reducible repeat' first
    | assumption | apply good_post | apply good_stkFault | split | (simp only [good_mk]; apply Good.parts)

theorem good_execStkCfgWrite {a : State} (v : Word) (s : State) (h : Good a s) : GoodOut a (execStkCfgWrite v s) := by
  unfold execStkCfgWrite
  try dsimp only
  with_reducible repeat' first
    | assumption | apply good_stkLocked | apply GoodOut.next | exact GoodOut.fault | split
    | (simp only [good_mk]; apply Good.parts)

theorem good_execStkSpillWrite {a : State} (slots : Bool) (v : DWord) (s : State) (h : Good a s) : GoodOut a
    (execStkSpillWrite slots v s) := by
  unfold execStkSpillWrite
  try dsimp only
  with_reducible repeat' first
    | assumption | apply good_stkLocked | apply GoodOut.next | exact GoodOut.fault | split
    | (simp only [good_mk]; apply Good.parts)

/-! ### Machine/Events.lean -/

theorem good_execEvtRecordFile {a : State} (s : State) (h : Good a s) : GoodOut a (execEvtRecordFile s) := by
  unfold execEvtRecordFile
  try dsimp only
  with_reducible repeat' first
    | assumption | apply good_fileOne | apply GoodOut.next | exact GoodOut.fault | split
    | (simp only [good_mk]; apply Good.parts)

theorem good_evtLocked {a : State} (s : State) (h : Good a s) : Good a (evtLocked s) := by
  unfold evtLocked
  try dsimp only
  with_reducible repeat' first | assumption | split | (simp only [good_mk]; apply Good.parts)

theorem good_execEvtRingConfigWrite {a : State} (size : Bool) (v : DWord) (s : State) (h : Good a s) : GoodOut a
    (execEvtRingConfigWrite size v s) := by
  unfold execEvtRingConfigWrite
  try dsimp only
  with_reducible repeat' first
    | assumption | apply good_evtLocked | apply GoodOut.next | exact GoodOut.fault | split
    | (simp only [good_mk]; apply Good.parts)

theorem good_execEvtRingRdWrite {a : State} (v : Word) (s : State) (h : Good a s) : GoodOut a (execEvtRingRdWrite v s)
    := by
  unfold execEvtRingRdWrite
  try dsimp only
  with_reducible repeat' first
    | assumption | apply GoodOut.next | exact GoodOut.fault | split | (simp only [good_mk]; apply Good.parts)

/-! ### Machine/Flash.lean -/

theorem good_wrongPassword {a : State} (p : Pend) (s : State) (h : Good a s) : Good a (wrongPassword p s) := by
  unfold wrongPassword
  try dsimp only
  with_reducible repeat' first
    | assumption | apply good_post | apply good_flsFault | apply good_endWith | split
    | (simp only [good_mk]; apply Good.parts)

theorem good_unlockRun {a : State} (c : Cmd) (p : Pend) (s : State) (h : Good a s) : Good a (unlockRun c p s) := by
  unfold unlockRun
  try dsimp only
  with_reducible repeat' first
    | assumption | apply good_endWith | apply good_wrongPassword | split | (simp only [good_mk]; apply Good.parts)

theorem good_execFlashUnlock {a : State} (c : Cmd) (s : State) (h : Good a s) : GoodOut a (execFlashUnlock c s) := by
  unfold execFlashUnlock
  try dsimp only
  with_reducible repeat' first
    | assumption | apply good_runCmd | apply good_unlockRun | apply GoodOut.next | exact GoodOut.fault | split
    | (simp only [good_mk]; apply Good.parts)

theorem good_permanentFault {a : State} (c : Cmd) (s : State) (h : Good a s) : Good a (permanentFault c s) := by
  unfold permanentFault
  try dsimp only
  with_reducible repeat' first
    | assumption | apply good_protectedFault | (intro _ _ _; try dsimp only) | split
    | (simp only [good_mk]; apply Good.parts)

theorem good_changeProt {a : State} (ops : List FlashOp) (p : Pend) (s : State) (h : Good a s) : Good a (changeProt
    ops p s) := by
  unfold changeProt
  try dsimp only
  with_reducible repeat' first
    | assumption | apply good_endWith | apply good_queueTask | apply good_startPending | split
    | (simp only [good_mk]; apply Good.parts)

theorem good_closeRun {a : State} (c : Cmd) (p : Pend) (s : State) (h : Good a s) : Good a (closeRun c p s) := by
  unfold closeRun
  try dsimp only
  with_reducible repeat' first | assumption | apply good_endWith | split | (simp only [good_mk]; apply Good.parts)

theorem good_execFlashLockClose {a : State} (c : Cmd) (s : State) (h : Good a s) : GoodOut a (execFlashLockClose c s)
    := by
  unfold execFlashLockClose
  try dsimp only
  with_reducible repeat' first
    | assumption | apply good_runCmd | apply good_closeRun | apply GoodOut.next | exact GoodOut.fault | split
    | (simp only [good_mk]; apply Good.parts)

theorem good_lockPwdRun {a : State} (c : Cmd) (p : Pend) (s : State) (h : Good a s) : Good a (lockPwdRun c p s) := by
  unfold lockPwdRun
  try dsimp only
  with_reducible repeat' first
    | assumption | apply good_endWith | apply good_permanentFault | apply good_changeProt | split
    | (simp only [good_mk]; apply Good.parts)

theorem good_execFlashLockSetPasswordLocked {a : State} (c : Cmd) (s : State) (h : Good a s) : GoodOut a
    (execFlashLockSetPasswordLocked c s) := by
  unfold execFlashLockSetPasswordLocked
  try dsimp only
  with_reducible repeat' first
    | assumption | apply good_runCmd | apply good_lockPwdRun | apply GoodOut.next | exact GoodOut.fault | split
    | (simp only [good_mk]; apply Good.parts)

theorem good_lockPermRun {a : State} (c : Cmd) (p : Pend) (s : State) (h : Good a s) : Good a (lockPermRun c p s) :=
    by
  unfold lockPermRun
  try dsimp only
  with_reducible repeat' first
    | assumption | apply good_endWith | apply good_permanentFault | apply good_changeProt
    | (intro _ _ _; try dsimp only) | split | (simp only [good_mk]; apply Good.parts)

theorem good_execFlashLockSetPermanent {a : State} (c : Cmd) (s : State) (h : Good a s) : GoodOut a
    (execFlashLockSetPermanent c s) := by
  unfold execFlashLockSetPermanent
  try dsimp only
  with_reducible repeat' first
    | assumption | apply good_runCmd | apply good_lockPermRun | apply GoodOut.next | exact GoodOut.fault | split
    | (simp only [good_mk]; apply Good.parts)

theorem good_unlockRegionsRun {a : State} (c : Cmd) (p : Pend) (s : State) (h : Good a s) : Good a (unlockRegionsRun c
    p s) := by
  unfold unlockRegionsRun
  try dsimp only
  with_reducible repeat' first
    | assumption | apply good_endWith | apply good_permanentFault | apply good_changeProt | split
    | (simp only [good_mk]; apply Good.parts)

theorem good_execFlashLockSetUnlocked {a : State} (c : Cmd) (s : State) (h : Good a s) : GoodOut a
    (execFlashLockSetUnlocked c s) := by
  unfold execFlashLockSetUnlocked
  try dsimp only
  with_reducible repeat' first
    | assumption | apply good_runCmd | apply good_unlockRegionsRun | apply GoodOut.next | exact GoodOut.fault
    | split | (simp only [good_mk]; apply Good.parts)

theorem good_setPassRun {a : State} (c : Cmd) (p : Pend) (s : State) (h : Good a s) : Good a (setPassRun c p s) := by
  unfold setPassRun
  try dsimp only
  with_reducible repeat' first
    | assumption | apply good_endWith | apply good_changeProt | split | (simp only [good_mk]; apply Good.parts)

theorem good_execFlashLockSetPassword {a : State} (c : Cmd) (s : State) (h : Good a s) : GoodOut a
    (execFlashLockSetPassword c s) := by
  unfold execFlashLockSetPassword
  try dsimp only
  with_reducible repeat' first
    | assumption | apply good_runCmd | apply good_setPassRun | apply GoodOut.next | exact GoodOut.fault | split
    | (simp only [good_mk]; apply Good.parts)

theorem good_joinQueue {a : State} (s : State) (h : Good a s) : Good a (joinQueue s) := by
  unfold joinQueue
  try dsimp only
  with_reducible repeat' first
    | assumption | apply good_nextRefresh | apply good_eachSlot | apply good_startExport | split
    | (simp only [good_mk]; apply Good.parts)

theorem good_issueFirst {a : State} (s : State) (h : Good a s) : Good a (issueFirst s) := by
  unfold issueFirst
  try dsimp only
  with_reducible repeat' first
    | assumption | apply good_finishTask | apply good_beginOp | split | (simp only [good_mk]; apply Good.parts)

theorem good_issueNext {a : State} (s : State) (h : Good a s) : Good a (issueNext s) := by
  unfold issueNext
  try dsimp only
  with_reducible repeat' first
    | assumption | apply good_issueFirst | apply good_joinQueue | split | (simp only [good_mk]; apply Good.parts)

theorem good_execFlashQueueIssue {a : State} (s : State) (h : Good a s) : GoodOut a (execFlashQueueIssue s) := by
  unfold execFlashQueueIssue
  try dsimp only
  with_reducible repeat' first
    | assumption | apply good_issueNext | apply GoodOut.next | exact GoodOut.fault | split
    | (simp only [good_mk]; apply Good.parts)

theorem good_programDone {a : State} (ok : Bool) (marginOk : Bool) (s : State) (h : Good a s) : Good a (programDone ok
    marginOk s) := by
  unfold programDone
  try dsimp only
  with_reducible repeat' first
    | assumption | apply good_countStall | apply good_reprogram | apply good_programEnds | apply good_retireFor
    | apply good_logEnds | split | (simp only [good_mk]; apply Good.parts)

theorem good_execFlashProgramDone {a : State} (ok : Bool) (marginOk : Bool) (s : State) (h : Good a s) : GoodOut a
    (execFlashProgramDone ok marginOk s) := by
  unfold execFlashProgramDone
  try dsimp only
  with_reducible repeat' first
    | assumption | apply good_programDone | apply GoodOut.next | exact GoodOut.fault | split
    | (simp only [good_mk]; apply Good.parts)

theorem good_eraseDone {a : State} (ok : Bool) (marginOk : Bool) (s : State) (h : Good a s) : Good a (eraseDone ok
    marginOk s) := by
  unfold eraseDone
  try dsimp only
  with_reducible repeat' first
    | assumption | apply good_countStall | apply good_eraseEnds | apply good_retireFor | split
    | (simp only [good_mk]; apply Good.parts)

theorem good_execFlashEraseDone {a : State} (ok : Bool) (marginOk : Bool) (s : State) (h : Good a s) : GoodOut a
    (execFlashEraseDone ok marginOk s) := by
  unfold execFlashEraseDone
  try dsimp only
  with_reducible repeat' first
    | assumption | apply good_eraseDone | apply GoodOut.next | exact GoodOut.fault | split
    | (simp only [good_mk]; apply Good.parts)

/-! ### Machine/Membership.lean -/

theorem good_takeReady {a : State} (src : Nat) (job : Nat) (step : Nat) (s : State) (h : Good a s) : Good a (takeReady
    src job step s) := by
  unfold takeReady
  try dsimp only
  with_reducible repeat' first
    | assumption | apply good_tryCommit | apply good_noteReady | split | (simp only [good_mk]; apply Good.parts)

theorem good_execReady {a : State} (l : Fin 8) (x1 : MsgHdr) (job : Nat) (step : Nat) (s : State) (h : Good a s) :
    GoodOut a (execReady l x1 job step s) := by
  unfold execReady
  try dsimp only
  with_reducible repeat' first
    | assumption | apply good_recv | apply good_takeReady | apply GoodOut.next | exact GoodOut.fault | split
    | (simp only [good_mk]; apply Good.parts)

theorem good_execCommit {a : State} (l : Fin 8) (x1 : MsgHdr) (job : Nat) (step : Nat) (s : State) (h : Good a s) :
    GoodOut a (execCommit l x1 job step s) := by
  unfold execCommit
  try dsimp only
  with_reducible repeat' first
    | assumption | apply good_recv | apply good_commitHere | apply GoodOut.next | exact GoodOut.fault | split
    | (simp only [good_mk]; apply Good.parts)

theorem good_takeStop {a : State} (src : BitVec 16) (job : Nat) (step : Nat) (s : State) (h : Good a s) : Good a
    (takeStop src job step s) := by
  unfold takeStop
  try dsimp only
  with_reducible repeat' first
    | assumption | apply good_lateRest | apply good_changeNow | apply good_abortAll | apply good_send
    | apply good_coveredFault | split | (simp only [good_mk]; apply Good.parts)

theorem good_execStop {a : State} (l : Fin 8) (x1 : MsgHdr) (job : Nat) (step : Nat) (s : State) (h : Good a s) :
    GoodOut a (execStop l x1 job step s) := by
  unfold execStop
  try dsimp only
  with_reducible repeat' first
    | assumption | apply good_recv | apply good_takeStop | apply GoodOut.next | exact GoodOut.fault | split
    | (simp only [good_mk]; apply Good.parts)

theorem good_execAbort {a : State} (l : Fin 8) (x1 : MsgHdr) (job : Nat) (step : Nat) (s : State) (h : Good a s) :
    GoodOut a (execAbort l x1 job step s) := by
  unfold execAbort
  try dsimp only
  with_reducible repeat' first
    | assumption | apply good_recv | apply good_takeAbort | apply GoodOut.next | exact GoodOut.fault | split
    | (simp only [good_mk]; apply Good.parts)

theorem good_takeLast {a : State} (x0 : MsgHdr) (query : Bool) (job : Nat) (step : Nat) (committed : Bool) (s : State)
    (h : Good a s) : Good a (takeLast x0 query job step committed s) := by
  unfold takeLast
  try dsimp only
  with_reducible repeat' first
    | assumption | apply good_send | apply good_lateRest | apply good_changeSettled | apply good_settleAsked
    | (intro _ _ _; try dsimp only) | split | (simp only [good_mk]; apply Good.parts)

theorem good_execLastCommitted {a : State} (l : Fin 8) (x1 : MsgHdr) (query : Bool) (job : Nat) (step : Nat)
    (committed : Bool) (s : State) (h : Good a s) : GoodOut a (execLastCommitted l x1 query job step committed s) :=
    by
  unfold execLastCommitted
  try dsimp only
  with_reducible repeat' first
    | assumption | apply good_recv | apply good_takeLast | apply GoodOut.next | exact GoodOut.fault | split
    | (simp only [good_mk]; apply Good.parts)

theorem good_heard {a : State} (src : BitVec 16) (s : State) (h : Good a s) : Good a (heard src s) := by
  unfold heard
  try dsimp only
  with_reducible repeat' first | assumption | split | (simp only [good_mk]; apply Good.parts)

theorem good_execHeartbeat {a : State} (l : Fin 8) (x1 : MsgHdr) (s : State) (h : Good a s) : GoodOut a (execHeartbeat
    l x1 s) := by
  unfold execHeartbeat
  try dsimp only
  with_reducible repeat' first
    | assumption | apply good_recv | apply good_heard | apply GoodOut.next | exact GoodOut.fault | split
    | (simp only [good_mk]; apply Good.parts)

theorem good_execBeat {a : State} (l : Fin 8) (x1 : MsgHdr) (s : State) (h : Good a s) : GoodOut a (execBeat l x1 s)
    := by
  unfold execBeat
  try dsimp only
  with_reducible repeat' first
    | assumption | apply good_recv | apply good_heard | apply GoodOut.next | exact GoodOut.fault | split
    | (simp only [good_mk]; apply Good.parts)

theorem good_execHeartbeatDue {a : State} (s : State) (h : Good a s) : GoodOut a (execHeartbeatDue s) := by
  unfold execHeartbeatDue
  try dsimp only
  with_reducible repeat' first
    | assumption | apply good_sendCoord | apply GoodOut.next | exact GoodOut.fault | split
    | (simp only [good_mk]; apply Good.parts)

theorem good_execBeatDue {a : State} (s : State) (h : Good a s) : GoodOut a (execBeatDue s) := by
  unfold execBeatDue
  try dsimp only
  with_reducible repeat' first
    | assumption | apply good_sendAll | apply GoodOut.next | exact GoodOut.fault | split
    | (simp only [good_mk]; apply Good.parts)

theorem good_departedNow {a : State} (rank : Nat) (s : State) (h : Good a s) : Good a (departedNow rank s) := by
  unfold departedNow
  try dsimp only
  with_reducible repeat' first
    | assumption | apply good_lateRest | apply good_departed | split | (simp only [good_mk]; apply Good.parts)

theorem good_execHeartbeatMissed {a : State} (rank : Nat) (s : State) (h : Good a s) : GoodOut a (execHeartbeatMissed
    rank s) := by
  unfold execHeartbeatMissed
  try dsimp only
  with_reducible repeat' first
    | assumption | apply good_departedNow | apply GoodOut.next | exact GoodOut.fault | split
    | (simp only [good_mk]; apply Good.parts)

theorem good_execBeatMissed {a : State} (s : State) (h : Good a s) : GoodOut a (execBeatMissed s) := by
  unfold execBeatMissed
  try dsimp only
  with_reducible repeat' first
    | assumption | apply good_departedNow | apply GoodOut.next | exact GoodOut.fault | split
    | (simp only [good_mk]; apply Good.parts)

theorem good_execQuiesceLimitExpiry {a : State} (rank : Nat) (s : State) (h : Good a s) : GoodOut a
    (execQuiesceLimitExpiry rank s) := by
  unfold execQuiesceLimitExpiry
  try dsimp only
  with_reducible repeat' first
    | assumption | apply good_departedNow | apply GoodOut.next | exact GoodOut.fault | split
    | (simp only [good_mk]; apply Good.parts)

theorem good_dropArrival {a : State} (serial : DWord) (s : State) (h : Good a s) : Good a (dropArrival serial s) := by
  unfold dropArrival
  try dsimp only
  with_reducible repeat' first
    | assumption | apply good_lateRest | apply good_changeNow | split | (simp only [good_mk]; apply Good.parts)

theorem good_execAcceptTimeout {a : State} (rank : Nat) (s : State) (h : Good a s) : GoodOut a (execAcceptTimeout rank
    s) := by
  unfold execAcceptTimeout
  try dsimp only
  with_reducible repeat' first
    | assumption | apply good_dropArrival | apply good_departedNow | apply GoodOut.next | exact GoodOut.fault
    | split | (simp only [good_mk]; apply Good.parts)

theorem good_execLinkUp {a : State} (l : Fin 8) (x1 : MsgHdr) (x : Adj) (s : State) (h : Good a s) : GoodOut a
    (execLinkUp l x1 x s) := by
  unfold execLinkUp
  try dsimp only
  repeat' first
    | with_reducible assumption
    | with_reducible apply good_recv
    | with_reducible apply good_addEdge
    | (intro _ _; try dsimp only)
    | split

theorem good_takeLinkDown {a : State} (x : Adj) (s : State) (h : Good a s) : Good a (takeLinkDown x s) := by
  unfold takeLinkDown
  try dsimp only
  with_reducible repeat' first
    | assumption | apply good_dropEdge | apply good_lateRest | apply good_departed | (intro _ _ _; try dsimp only)
    | split | (simp only [good_mk]; apply Good.parts)

theorem good_execLinkDown {a : State} (l : Fin 8) (x1 : MsgHdr) (x : Adj) (s : State) (h : Good a s) : GoodOut a
    (execLinkDown l x1 x s) := by
  unfold execLinkDown
  try dsimp only
  with_reducible repeat' first
    | assumption | apply good_recv | apply good_takeLinkDown | apply GoodOut.next | exact GoodOut.fault | split
    | (simp only [good_mk]; apply Good.parts)

theorem good_changeAtBoundary {a : State} (s : State) (h : Good a s) : Good a (changeAtBoundary s) := by
  unfold changeAtBoundary
  try dsimp only
  with_reducible repeat' first
    | assumption | apply good_lateRest | apply good_changeShut | split | (simp only [good_mk]; apply Good.parts)

theorem good_refuseHere {a : State} (x0 : BitVec 16) (s : State) (h : Good a s) : Good a (refuseHere x0 s) := by
  unfold refuseHere
  try dsimp only
  with_reducible repeat' first
    | assumption | apply good_sendOn | apply Good.foldl | (intro _ _ _; try dsimp only) | split
    | (simp only [good_mk]; apply Good.parts)

theorem good_refuseJoin {a : State} (x0 : MsgHdr) (r : JoinReq) (s : State) (h : Good a s) : Good a (refuseJoin x0 r
    s) := by
  unfold refuseJoin
  try dsimp only
  with_reducible repeat' first
    | assumption | apply good_refuseHere | apply good_sendAll | apply good_send | split
    | (simp only [good_mk]; apply Good.parts)

theorem good_takeJoin {a : State} (x0 : MsgHdr) (r : JoinReq) (s : State) (h : Good a s) : Good a (takeJoin x0 r s) :=
    by
  unfold takeJoin
  try dsimp only
  with_reducible repeat' first
    | assumption | apply good_refuseJoin | apply good_changeAtBoundary | apply good_noteChange
    | (intro _ _ _; try dsimp only) | split | (simp only [good_mk]; apply Good.parts)

theorem good_execJoin {a : State} (l : Fin 8) (x1 : MsgHdr) (r : JoinReq) (s : State) (h : Good a s) : GoodOut a
    (execJoin l x1 r s) := by
  unfold execJoin
  try dsimp only
  with_reducible repeat' first
    | assumption | apply good_recv | apply good_takeJoin | apply GoodOut.next | exact GoodOut.fault | split
    | (simp only [good_mk]; apply Good.parts)

theorem good_takeRefused {a : State} (x0 : MsgHdr) (s : State) (h : Good a s) : Good a (takeRefused x0 s) := by
  unfold takeRefused
  try dsimp only
  with_reducible repeat' first | assumption | apply good_refuseHere | split | (simp only [good_mk]; apply Good.parts)

theorem good_execJoinRefused {a : State} (l : Fin 8) (x1 : MsgHdr) (s : State) (h : Good a s) : GoodOut a
    (execJoinRefused l x1 s) := by
  unfold execJoinRefused
  try dsimp only
  with_reducible repeat' first
    | assumption | apply good_recv | apply good_takeRefused | apply GoodOut.next | exact GoodOut.fault | split
    | (simp only [good_mk]; apply Good.parts)

theorem good_execJoinRepeat {a : State} (s : State) (h : Good a s) : GoodOut a (execJoinRepeat s) := by
  unfold execJoinRepeat
  try dsimp only
  with_reducible repeat' first
    | assumption | apply good_askJoin | apply good_sendJoin | apply GoodOut.next | exact GoodOut.fault
    | apply Good.foldl | (intro _ _ _; try dsimp only) | split | (simp only [good_mk]; apply Good.parts)

theorem good_form {a : State} (reach : List Arrival) (s : State) (h : Good a s) : Good a (form reach s) := by
  unfold form
  try dsimp only
  with_reducible repeat' first
    | assumption | apply good_adoptView | apply good_addEdge | apply good_lateRest | apply good_adoptRest
    | apply good_sendAll | apply Good.foldl | (intro _ _ _; try dsimp only) | split
    | (simp only [good_mk]; apply Good.parts)

theorem good_execFormWaitExpiry {a : State} (reach : List Arrival) (s : State) (h : Good a s) : GoodOut a
    (execFormWaitExpiry reach s) := by
  unfold execFormWaitExpiry
  try dsimp only
  with_reducible repeat' first
    | assumption | apply good_form | apply GoodOut.next | exact GoodOut.fault | split
    | (simp only [good_mk]; apply Good.parts)

theorem good_takePropose {a : State} (l : Fin 8) (p : Proposal) (s : State) (h : Good a s) : Good a (takePropose l p
    s) := by
  unfold takePropose
  try dsimp only
  with_reducible repeat' first
    | assumption | apply good_stopEnded | apply good_lastEpoch | apply good_tellArrivals | apply good_sendCoord
    | apply good_sendOn | split | (simp only [good_mk]; apply Good.parts)

theorem good_execPropose {a : State} (l : Fin 8) (x1 : MsgHdr) (p : Proposal) (s : State) (h : Good a s) : GoodOut a
    (execPropose l x1 p s) := by
  unfold execPropose
  try dsimp only
  with_reducible repeat' first
    | assumption | apply good_recv | apply good_takePropose | apply GoodOut.next | exact GoodOut.fault | split
    | (simp only [good_mk]; apply Good.parts)

theorem good_noteAccept {a : State} (c : Change_) (serial : DWord) (s : State) (h : Good a s) : Good a (noteAccept c
    serial s) := by
  unfold noteAccept
  try dsimp only
  with_reducible repeat' first
    | assumption | apply good_lateRest | apply good_tryEnact | split | (simp only [good_mk]; apply Good.parts)

theorem good_takeAccept {a : State} (x0 : MsgHdr) (epoch : Word) (view : List Member) (s : State) (h : Good a s) :
    Good a (takeAccept x0 epoch view s) := by
  unfold takeAccept
  try dsimp only
  with_reducible repeat' first
    | assumption | apply good_sendCoord | apply good_noteAccept | apply good_dropArrival | apply good_departedNow
    | split | (simp only [good_mk]; apply Good.parts)

theorem good_execAccept {a : State} (l : Fin 8) (x1 : MsgHdr) (epoch : Word) (view : List Member) (s : State) (h :
    Good a s) : GoodOut a (execAccept l x1 epoch view s) := by
  unfold execAccept
  try dsimp only
  with_reducible repeat' first
    | assumption | apply good_recv | apply good_takeAccept | apply GoodOut.next | exact GoodOut.fault | split
    | (simp only [good_mk]; apply Good.parts)

theorem good_takeEnact {a : State} (x0 : Enactment) (s : State) (h : Good a s) : Good a (takeEnact x0 s) := by
  unfold takeEnact
  try dsimp only
  with_reducible repeat' first
    | assumption | apply good_lateRest | apply good_adopt | split | (simp only [good_mk]; apply Good.parts)

theorem good_passEnact {a : State} (x0 : Enactment) (s : State) (h : Good a s) : Good a (passEnact x0 s) := by
  unfold passEnact
  try dsimp only
  with_reducible repeat' first
    | assumption | apply good_tellArrivals | split | (simp only [good_mk]; apply Good.parts)

theorem good_execEnact {a : State} (l : Fin 8) (x1 : MsgHdr) (x2 : Enactment) (s : State) (h : Good a s) :
    GoodOut a (execEnact l x1 x2 s) := by
  unfold execEnact
  try dsimp only
  with_reducible repeat' first
    | assumption | apply good_recv | apply good_takeEnact | apply good_passEnact | apply GoodOut.next
    | exact GoodOut.fault | (intro _ _ _ _ _; try dsimp only) | (intro _ _ _ _; try dsimp only)
    | (intro _ _ _; try dsimp only) | (intro _ _; try dsimp only) | split | (simp only [good_mk]; apply Good.parts)

theorem good_takeLeave {a : State} (x0 : MsgHdr) (s : State) (h : Good a s) : Good a (takeLeave x0 s) := by
  unfold takeLeave
  try dsimp only
  with_reducible repeat' first
    | assumption | apply good_changeAtBoundary | apply good_noteChange | split
    | (simp only [good_mk]; apply Good.parts)

theorem good_execLeave {a : State} (l : Fin 8) (x1 : MsgHdr) (s : State) (h : Good a s) : GoodOut a (execLeave l x1 s)
    := by
  unfold execLeave
  try dsimp only
  with_reducible repeat' first
    | assumption | apply good_recv | apply good_takeLeave | apply GoodOut.next | exact GoodOut.fault | split
    | (simp only [good_mk]; apply Good.parts)

theorem good_execRetrainNote {a : State} (l : Fin 8) (x1 : MsgHdr) (s : State) (h : Good a s) : GoodOut a
    (execRetrainNote l x1 s) := by
  unfold execRetrainNote
  try dsimp only
  repeat' first
    | with_reducible assumption
    | with_reducible apply good_recv
    | with_reducible apply good_noteRetrain
    | (intro _ _; try dsimp only)
    | split

theorem good_takeDissolve {a : State} (wsId : DWord) (s : State) (h : Good a s) : Good a (takeDissolve wsId s) := by
  unfold takeDissolve
  try dsimp only
  with_reducible repeat' first
    | assumption | apply good_dissolveAll | apply good_dissolve | split | (simp only [good_mk]; apply Good.parts)

theorem good_execDissolve {a : State} (l : Fin 8) (x1 : MsgHdr) (wsId : DWord) (s : State) (h : Good a s) : GoodOut a
    (execDissolve l x1 wsId s) := by
  unfold execDissolve
  try dsimp only
  with_reducible repeat' first
    | assumption | apply good_recv | apply good_takeDissolve | apply GoodOut.next | exact GoodOut.fault | split
    | (simp only [good_mk]; apply Good.parts)

theorem good_takeTime {a : State} (l : Fin 8) (t1 : DWord) (t2 : DWord) (t3 : DWord) (t4 : DWord) (s : State) (h :
    Good a s) : Good a (takeTime l t1 t2 t3 t4 s) := by
  unfold takeTime
  try dsimp only
  with_reducible repeat' first
    | assumption | apply good_sendOn | apply good_tkFabric | split | (simp only [good_mk]; apply Good.parts)

theorem good_execTime {a : State} (l : Fin 8) (x1 : MsgHdr) (t1 : DWord) (t2 : DWord) (t3 : DWord) (t4 : DWord) (s :
    State) (h : Good a s) : GoodOut a (execTime l x1 t1 t2 t3 t4 s) := by
  unfold execTime
  try dsimp only
  with_reducible repeat' first
    | assumption | apply good_recv | apply good_takeTime | apply GoodOut.next | exact GoodOut.fault | split
    | (simp only [good_mk]; apply Good.parts)

theorem good_execTimeExchangeDue {a : State} (s : State) (h : Good a s) : GoodOut a (execTimeExchangeDue s) := by
  unfold execTimeExchangeDue
  try dsimp only
  with_reducible repeat' first
    | assumption | apply good_sendOn | apply GoodOut.next | exact GoodOut.fault | split
    | (simp only [good_mk]; apply Good.parts)

theorem good_snapAt {a : State} (j : Fin 4) (n : Nat) (s : State) (h : Good a s) : Good a (snapAt j n s) := by
  unfold snapAt
  try dsimp only
  with_reducible repeat' first
    | assumption | apply good_setJob | apply good_snapBoundary | (intro _ _ _; try dsimp only) | split
    | (simp only [good_mk]; apply Good.parts)

theorem good_takeSnapReq {a : State} (job : Nat) (named : Option Nat) (s : State) (h : Good a s) : Good a (takeSnapReq
    job named s) := by
  unfold takeSnapReq
  try dsimp only
  with_reducible repeat' first
    | assumption | apply good_snapAt | apply good_sendAll | (intro _ _ _; try dsimp only) | split
    | (simp only [good_mk]; apply Good.parts)

theorem good_execSnapReq {a : State} (l : Fin 8) (x1 : MsgHdr) (job : Nat) (named : Option Nat) (s : State) (h : Good
    a s) : GoodOut a (execSnapReq l x1 job named s) := by
  unfold execSnapReq
  try dsimp only
  with_reducible repeat' first
    | assumption | apply good_recv | apply good_takeSnapReq | apply GoodOut.next | exact GoodOut.fault | split
    | (simp only [good_mk]; apply Good.parts)

theorem good_replayAt {a : State} (j : Fin 4) (which : Bool) (n : Nat) (s : State) (h : Good a s) : Good a (replayAt j
    which n s) := by
  unfold replayAt
  try dsimp only
  with_reducible repeat' first
    | assumption | apply good_setJob | apply good_beginReplay | (intro _ _ _; try dsimp only) | split
    | (simp only [good_mk]; apply Good.parts)

theorem good_takeReplayReq {a : State} (x0 : MsgHdr) (job : Nat) (named : Option Nat) (s : State) (h : Good a s) :
    Good a (takeReplayReq x0 job named s) := by
  unfold takeReplayReq
  try dsimp only
  with_reducible repeat' first
    | assumption | apply good_replayAt | apply good_sendAll | (intro _ _ _; try dsimp only) | split
    | (simp only [good_mk]; apply Good.parts)

theorem good_execReplayReq {a : State} (l : Fin 8) (x1 : MsgHdr) (job : Nat) (named : Option Nat) (s : State) (h :
    Good a s) : GoodOut a (execReplayReq l x1 job named s) := by
  unfold execReplayReq
  try dsimp only
  with_reducible repeat' first
    | assumption | apply good_recv | apply good_takeReplayReq | apply GoodOut.next | exact GoodOut.fault | split
    | (simp only [good_mk]; apply Good.parts)

theorem good_takeReplayResult {a : State} (x0 : MsgHdr) (job : Nat) (o : ReplayOutcome) (s : State) (h : Good a s) :
    Good a (takeReplayResult x0 job o s) := by
  unfold takeReplayResult
  try dsimp only
  with_reducible repeat' first
    | assumption | apply good_noteOutcome | apply good_takeOutcome | apply good_replayBoundary | split
    | (simp only [good_mk]; apply Good.parts)

theorem good_execReplayResult {a : State} (l : Fin 8) (x1 : MsgHdr) (job : Nat) (o : ReplayOutcome) (s : State) (h :
    Good a s) : GoodOut a (execReplayResult l x1 job o s) := by
  unfold execReplayResult
  try dsimp only
  with_reducible repeat' first
    | assumption | apply good_recv | apply good_takeReplayResult | apply GoodOut.next | exact GoodOut.fault
    | split | (simp only [good_mk]; apply Good.parts)

theorem good_takeRestore {a : State} (x0 : MsgHdr) (job : Nat) (m : RestoreMsg) (s : State) (h : Good a s) : Good a
    (takeRestore x0 job m s) := by
  unfold takeRestore
  try dsimp only
  with_reducible repeat' first
    | assumption | apply good_noteOffer | apply good_restoreAnswer | split
    | (simp only [good_mk]; apply Good.parts)

theorem good_execRestoreOffer {a : State} (l : Fin 8) (x1 : MsgHdr) (job : Nat) (m : RestoreMsg) (s : State) (h : Good
    a s) : GoodOut a (execRestoreOffer l x1 job m s) := by
  unfold execRestoreOffer
  try dsimp only
  with_reducible repeat' first
    | assumption | apply good_recv | apply good_takeRestore | apply GoodOut.next | exact GoodOut.fault | split
    | (simp only [good_mk]; apply Good.parts)

theorem good_execMessageForward {a : State} (l : Fin 8) (x1 : MsgHdr) (p : Payload) (s : State) (h : Good a s) :
    GoodOut a (execMessageForward l x1 p s) := by
  unfold execMessageForward
  try dsimp only
  repeat' first
    | with_reducible assumption
    | with_reducible exact Good.refl _
    | with_reducible rfl
    | with_reducible apply good_recv
    | with_reducible apply GoodOut.next
    | exact GoodOut.fault
    | exact GoodOut.refused
    | with_reducible apply Good.foldl
    | (intro _; with_reducible rfl)
    | (intro _; repeat' split) <;> with_reducible rfl
    | (intro _ _ _ _ _ _; try dsimp only)
    | (intro _ _ _ _ _; try dsimp only)
    | (intro _ _ _ _; try dsimp only)
    | (intro _ _ _; try dsimp only)
    | (intro _ _; try dsimp only)
    | split
    | (simp only [good_mk]; with_reducible apply Good.parts)
    | (simp only [good_mk]; with_reducible refine Good.partsBytes ?_ ?_)
    | (intro w; first | with_reducible exact clearRange_wf _ _ _ w | with_reducible exact writeBytes_wf _ _ _ w | with_reducible exact overlay_wf _ _ (withoutHandles_wf _ _ w) | with_reducible exact discardBytes_wf _ _ _ w)
    | (simp only [good_mk]; with_reducible refine Good.partsVmap ?_ ?_)
    | (intro _; with_reducible exact Or.inl rfl)
    | ((intro _; repeat' split) <;> first | with_reducible exact Or.inl rfl | with_reducible exact Or.inr rfl)
    | (simp only [good_mk]; with_reducible refine Good.partsQueues ?_ ?_ ?_ ?_)
    | with_reducible exact id
    | with_reducible exact fun _ => Nat.zero_le _
    | exact fun _ => (Nat.zero_le _ : Hif.reset.queue.length ≤ 16)
    | (intro _; omega)
    | (simp only [good_mk]; done)
    | (intro q; cases q; done)
    | (intro _; rfl)
    | (intro _; rfl)
    | dsimp only
    | (dsimp only [id]; with_reducible assumption)

end Sys2Proof.Machine
end

