-- ==== Sys2Proof/Laws/GoodUnits.lean ====
section
/-! SUPPORT. `Good` is kept by security, management, plane instructions, the noise source, training, registers, sensors and the step:
for each operation, the lemma `good_<its name>`, which says that it leaves the waiting commands alone, undoes nothing that
goes one way, and keeps the invariant. -/

namespace Sys2Proof.Machine

/-! ### Machine/SecOps.lean -/

theorem good_openSession {a : State} (eph : BitVec 384) (peer : BitVec 776) (digest : BitVec 384) (s : State) (h :
    Good a s) : Good a (openSession eph peer digest s) := by
  unfold openSession
  try dsimp only
  with_reducible repeat' first
    | assumption | apply good_draw | refine Good.snd (by assumption) ?_ | split
    | (simp only [good_mk]; apply Good.parts)

theorem good_writeReport {a : State} (p : Pend) (challenge : BitVec 384) (addr : DWord) (peer : Option (BitVec 776))
    (s : State) (h : Good a s) : Good a (writeReport p challenge addr peer s) := by
  unfold writeReport
  try dsimp only
  with_reducible repeat' first
    | assumption | apply good_draw | apply good_hostWrite | apply good_post | apply good_bumpSec
    | apply good_openSession | apply good_answer | refine Good.snd (by assumption) ?_ | split
    | (simp only [good_mk]; apply Good.parts)

theorem good_takeOutputs {a : State} (n : Nat) (s : State) (h : Good a s) : Good a (takeOutputs n s) :=
  good_mk.2 (h.partsQueues id id fun q => Nat.le_trans (Nat.sub_le _ _) q)

theorem good_eraseKey {a : State} (k : Fin 4) (s : State) (h : Good a s) : Good a (eraseKey k s) := by
  unfold eraseKey
  try dsimp only
  with_reducible repeat' first | assumption | split | (simp only [good_mk]; apply Good.parts)

theorem good_zeroTensor {a : State} (s : State) (x1 : Fin 4 × Tensor) (h : Good a s) :
    Good a (zeroTensor s x1) := by
  unfold zeroTensor
  try dsimp only
  repeat' first
    | with_reducible assumption
    | with_reducible exact Good.refl _
    | with_reducible rfl
    | with_reducible apply Good.foldl
    | (intro _; with_reducible rfl)
    | (intro _; repeat' split) <;> with_reducible rfl
    | (intro _ _ _ _ _ _; try dsimp only)
    | (intro _ _ _ _ _; try dsimp only)
    | (intro _ _ _ _; try dsimp only)
    | (intro _ _ _; try dsimp only)
    | (intro _ _; try dsimp only)
    | split
    | (simp only [good_mk]; with_reducible apply Good.parts)
    | (simp only [good_mk]; with_reducible refine Good.partsBytes ?_ ?_)
    | (intro w; first | with_reducible exact clearRange_wf _ _ _ w | with_reducible exact writeBytes_wf _ _ _ w | with_reducible exact overlay_wf _ _ (withoutHandles_wf _ _ w) | with_reducible exact discardBytes_wf _ _ _ w)
    | (simp only [good_mk]; with_reducible refine Good.partsVmap ?_ ?_)
    | (intro _; with_reducible exact Or.inl rfl)
    | ((intro _; repeat' split) <;> first | with_reducible exact Or.inl rfl | with_reducible exact Or.inr rfl)
    | (simp only [good_mk]; with_reducible refine Good.partsQueues ?_ ?_ ?_ ?_)
    | with_reducible exact id
    | with_reducible exact fun _ => Nat.zero_le _
    | exact fun _ => (Nat.zero_le _ : Hif.reset.queue.length ≤ 16)
    | (intro _; omega)
    | (simp only [good_mk]; done)
    | (intro q; cases q; done)
    | (intro _; rfl)
    | (intro _; rfl)
    | dsimp only
    | (dsimp only [id]; with_reducible assumption)

theorem good_zeroKeyTensors {a : State} (k : Fin 4) (s : State) (h : Good a s) : Good a (zeroKeyTensors k s) := by
  unfold zeroKeyTensors
  try dsimp only
  with_reducible repeat' first
    | assumption | apply good_zeroTensor | apply Good.foldl | (intro _ _ _; try dsimp only) | split
    | (simp only [good_mk]; apply Good.parts)

theorem good_loadFail {a : State} (k : Fin 4) (st : Byte) (l : Load) (s : State) (h : Good a s) : Good a (loadFail k
    st l s) := by
  unfold loadFail
  try dsimp only
  with_reducible repeat' first
    | assumption | apply good_endOpt | apply good_eraseKey | apply good_zeroKeyTensors | apply good_secFault
    | apply good_bumpSec | apply good_post | apply good_quiesceCheck | apply good_stopJob | apply Good.foldl
    | (intro _ _ _; try dsimp only) | split | (simp only [good_mk]; apply Good.parts)

theorem good_loadDone {a : State} (k : Fin 4) (l : Load) (s : State) (h : Good a s) : Good a (loadDone k l s) := by
  unfold loadDone
  try dsimp only
  with_reducible repeat' first
    | assumption | apply good_setKey | apply good_answer | (intro _ _ _; try dsimp only) | split
    | (simp only [good_mk]; apply Good.parts)

theorem good_chunkIn {a : State} (k : Fin 4) (ch : Chunk) (l : Load) (s : State) (h : Good a s) :
    Good a (chunkIn k ch l s) := by
  unfold chunkIn
  split
  · exact h
  · split
    · exact good_loadFail _ _ _ _ (good_exhausted _ _ h)
    · rename_i s1 e
      obtain ⟨r, _, e2⟩ := Option.bind_eq_some_iff.1 e
      have g := good_writeHandle e2 h
      dsimp only
      split
      · exact good_setKey _ _ _ g
      · split
        · exact good_loadDone _ _ _ g
        · exact good_loadFail _ _ _ _ g

theorem good_writeKeyStore {a : State} (v : Word) (u : KsContent) (p : Pend) (s : State) (h : Good a s) : Good a
    (writeKeyStore v u p s) := by
  unfold writeKeyStore
  try dsimp only
  with_reducible repeat' first
    | assumption | apply good_queueTask | apply good_startPending | split
    | (simp only [good_mk]; apply Good.parts)

theorem good_updateKeyStore {a : State} (v : Word) (force : Bool) (u : KsContent) (authOk : Bool) (p : Pend) (s :
    State) (h : Good a s) : Good a (updateKeyStore v force u authOk p s) := by
  unfold updateKeyStore
  try dsimp only
  with_reducible repeat' first
    | assumption | apply good_endWith | apply good_protectedFault | apply good_writeKeyStore | split
    | (simp only [good_mk]; apply Good.parts)

theorem good_tenantStop {a : State} (j : Fin 4) (s : State) (h : Good a s) : Good a (tenantStop j s) := by
  unfold tenantStop
  try dsimp only
  with_reducible repeat' first
    | assumption | apply good_abortStep | apply good_endExport | apply good_stopJob | split
    | (simp only [good_mk]; apply Good.parts)

theorem good_tenantLinks {a : State} (s : State) (h : Good a s) : Good a (tenantLinks s) := by
  unfold tenantLinks
  try dsimp only
  with_reducible repeat' first
    | assumption | apply good_endWith | (intro _ _ _; try dsimp only) | split
    | (simp only [good_mk]; apply Good.parts)

theorem good_tenantClose {a : State} (s : State) (h : Good a s) : Good a (tenantClose s) := by
  unfold tenantClose
  try dsimp only
  with_reducible repeat' first
    | assumption | apply good_abandonImage | apply good_closeDebug | apply good_endWaiting | apply good_eachSlot
    | apply good_endLoads | (intro _ _ _; try dsimp only) | (intro _ _; try dsimp only) | split
    | (simp only [good_mk]; apply Good.parts)

theorem good_scrub {a : State} (s : State) (h : Good a s) : Good a (scrub s) := by
  refine good_mk.2 ((good_flushEvents s h).partsClear id id fun b => ?_)
  rw [vmap_get]
  unfold scrubBench
  split <;> rfl

theorem good_drawMemoryKeys {a : State} (s : State) (h : Good a s) : Good a (drawMemoryKeys s) := by
  unfold drawMemoryKeys
  try dsimp only
  with_reducible repeat' first
    | assumption | apply good_draw | refine Good.snd (by assumption) ?_ | split
    | (simp only [good_mk]; apply Good.parts)

theorem good_clearSlotsBut {a : State} (p : Pend) (s : State) (h : Good a s) : Good a (clearSlotsBut p s) := by
  unfold clearSlotsBut
  try dsimp only
  with_reducible repeat' first
    | assumption | apply good_putResult | apply Good.foldl | (intro _ _ _; try dsimp only) | split
    | (simp only [good_mk]; apply Good.parts)

theorem good_tenantFinish {a : State} (p : Pend) (ms : Word) (s : State) (h : Good a s) : Good a (tenantFinish p ms s)
    := by
  unfold tenantFinish
  try dsimp only
  with_reducible repeat' first
    | assumption | apply good_drawMemoryKeys | apply good_clearSlotsBut | apply good_scrub | apply good_post
    | apply good_answer | apply good_bumpSec | apply good_unitWorkIfIdle | apply good_quiesceCheck
    | apply good_runLater | split | (simp only [good_mk]; apply Good.parts)

/-! ### Machine/Mgmt.lean -/

theorem good_handshakeFails {a : State} (s : State) (h : Good a s) : Good a (handshakeFails s) := by
  unfold handshakeFails
  try dsimp only
  with_reducible repeat' first
    | assumption | apply good_post | apply good_bumpHif | split | (simp only [good_mk]; apply Good.parts)

theorem good_handshake {a : State} (who : Client) (s : State) (h : Good a s) : Good a (handshake who s) := by
  have g := good_handshakeFails s h
  cases e : s.fls.operatorRoot <;> cases who <;> unfold handshake <;> rw [e] <;>
    first
    | exact g
    | exact good_mk.2 h.parts

theorem good_execMgmtSessionOpen {a : State} (who : Client) (s : State) (h : Good a s) : GoodOut a
    (execMgmtSessionOpen who s) := by
  unfold execMgmtSessionOpen
  try dsimp only
  with_reducible repeat' first
    | assumption | apply good_handshake | apply GoodOut.next | exact GoodOut.fault | split
    | (simp only [good_mk]; apply Good.parts)

theorem good_endMgmt {a : State} (s : State) (h : Good a s) : Good a (endMgmt s) := by
  unfold endMgmt
  try dsimp only
  with_reducible repeat' first | assumption | apply good_closeDebug | split | (simp only [good_mk]; apply Good.parts)

theorem good_execMgmtSessionIdleTimeout {a : State} (s : State) (h : Good a s) : GoodOut a (execMgmtSessionIdleTimeout
    s) := by
  unfold execMgmtSessionIdleTimeout
  try dsimp only
  with_reducible repeat' first
    | assumption | apply good_endMgmt | apply GoodOut.next | exact GoodOut.fault | split
    | (simp only [good_mk]; apply Good.parts)

theorem good_execMgmtSessionClose {a : State} (s : State) (h : Good a s) : GoodOut a (execMgmtSessionClose s) := by
  unfold execMgmtSessionClose
  try dsimp only
  with_reducible repeat' first
    | assumption | apply good_endMgmt | apply GoodOut.next | exact GoodOut.fault | split
    | (simp only [good_mk]; apply Good.parts)

theorem good_streamRun {a : State} (p : Pend) (s : State) (h : Good a s) : Good a (streamRun p s) := by
  unfold streamRun
  try dsimp only
  with_reducible repeat' first | assumption | apply good_endWith | split | (simp only [good_mk]; apply Good.parts)

theorem good_execTelemetryStream {a : State} (c : Cmd) (s : State) (h : Good a s) : GoodOut a (execTelemetryStream c
    s) := by
  unfold execTelemetryStream
  try dsimp only
  with_reducible repeat' first
    | assumption | apply good_runCmd | apply good_streamRun | apply GoodOut.next | exact GoodOut.fault | split
    | (simp only [good_mk]; apply Good.parts)

theorem good_respond {a : State} (p : Pend) (body : List Byte) (s : State) (h : Good a s) : Good a (respond p body s)
    := by
  unfold respond
  try dsimp only
  with_reducible repeat' first | assumption | split | (simp only [good_mk]; apply Good.parts)

theorem good_logReadRun {a : State} (p : Pend) (s : State) (h : Good a s) : Good a (logReadRun p s) := by
  unfold logReadRun
  try dsimp only
  with_reducible repeat' first | assumption | apply good_respond | split | (simp only [good_mk]; apply Good.parts)

theorem good_execLogRead {a : State} (c : Cmd) (s : State) (h : Good a s) : GoodOut a (execLogRead c s) := by
  unfold execLogRead
  try dsimp only
  with_reducible repeat' first
    | assumption | apply good_runCmd | apply good_logReadRun | apply GoodOut.next | exact GoodOut.fault | split
    | (simp only [good_mk]; apply Good.parts)

theorem good_debugRecord {a : State} (kind : Byte) (mask : Byte) (s : State) (h : Good a s) : Good a (debugRecord kind
    mask s) := by
  unfold debugRecord
  try dsimp only
  with_reducible repeat' first | assumption | split | (simp only [good_mk]; apply Good.parts)

theorem good_revokeJob {a : State} (s : State) (j : Fin 4) (h : Good a s) : Good a (revokeJob s j) := by
  unfold revokeJob
  try dsimp only
  with_reducible repeat' first
    | assumption | apply good_fatalFault | apply good_quiesceCheck | apply good_stopJob | split
    | (simp only [good_mk]; apply Good.parts)

theorem good_revokeKey {a : State} (s : State) (k : Fin 4) (h : Good a s) : Good a (revokeKey s k) := by
  unfold revokeKey
  try dsimp only
  with_reducible repeat' first
    | assumption | apply good_revokeJob | apply good_eraseKey | apply good_zeroKeyTensors | apply good_endLoads
    | apply Good.foldl | (intro _ _ _; try dsimp only) | split | (simp only [good_mk]; apply Good.parts)

theorem good_revokeKeys {a : State} (s : State) (h : Good a s) : Good a (revokeKeys s) := by
  unfold revokeKeys
  try dsimp only
  with_reducible repeat' first
    | assumption | apply good_secFault | apply good_revokeKey | apply good_post | apply Good.foldl
    | (intro _ _ _; try dsimp only) | split | (simp only [good_mk]; apply Good.parts)

theorem good_debugOpenRun {a : State} (c : Cmd) (p : Pend) (s : State) (h : Good a s) : Good a (debugOpenRun c p s) :=
    by
  unfold debugOpenRun
  try dsimp only
  with_reducible repeat' first
    | assumption | apply good_bumpSec | apply good_debugRecord | apply good_revokeKeys | apply good_endWith
    | apply good_post | split | (simp only [good_mk]; apply Good.parts)

theorem good_execDebugOpen {a : State} (c : Cmd) (s : State) (h : Good a s) : GoodOut a (execDebugOpen c s) := by
  unfold execDebugOpen
  try dsimp only
  with_reducible repeat' first
    | assumption | apply good_runCmd | apply good_debugOpenRun | apply GoodOut.next | exact GoodOut.fault | split
    | (simp only [good_mk]; apply Good.parts)

theorem good_execDebugClose {a : State} (c : Cmd) (s : State) (h : Good a s) : GoodOut a (execDebugClose c s) := by
  unfold execDebugClose
  try dsimp only
  with_reducible repeat' first
    | assumption | apply good_runCmd | apply good_endWith | apply good_closeDebug | apply GoodOut.next
    | exact GoodOut.fault | (intro _ _ _; try dsimp only) | split | (simp only [good_mk]; apply Good.parts)

theorem good_replaceRegion {a : State} (region : Nat) (data : List Byte) (d : FlashDone) (p : Pend) (s : State) (h :
    Good a s) : Good a (replaceRegion region data d p s) := by
  unfold replaceRegion
  try dsimp only
  with_reducible repeat' first
    | assumption | apply good_endWith | apply good_protectedFault | apply good_queueTask | apply good_startPending
    | split | (simp only [good_mk]; apply Good.parts)

theorem good_fwUpdateRun {a : State} (f : FwCopy) (data : List Byte) (p : Pend) (s : State) (h : Good a s) : Good a
    (fwUpdateRun f data p s) := by
  unfold fwUpdateRun
  try dsimp only
  with_reducible repeat' first
    | assumption | apply good_endWith | apply good_replaceRegion | split | (simp only [good_mk]; apply Good.parts)

theorem good_execFwUpdate {a : State} (c : Cmd) (f : FwCopy) (data : List Byte) (s : State) (h : Good a s) : GoodOut a
    (execFwUpdate c f data s) := by
  unfold execFwUpdate
  try dsimp only
  with_reducible repeat' first
    | assumption | apply good_runCmd | apply good_fwUpdateRun | apply GoodOut.next | exact GoodOut.fault | split
    | (simp only [good_mk]; apply Good.parts)

theorem good_execCredUpdate {a : State} (c : Cmd) (root : DWord) (data : List Byte) (s : State) (h : Good a s) :
    GoodOut a (execCredUpdate c root data s) := by
  unfold execCredUpdate
  try dsimp only
  with_reducible repeat' first
    | assumption | apply good_runCmd | apply good_replaceRegion | apply GoodOut.next | exact GoodOut.fault | split
    | (simp only [good_mk]; apply Good.parts)

theorem good_execCertUpdate {a : State} (c : Cmd) (serial : DWord) (data : List Byte) (s : State) (h : Good a s) :
    GoodOut a (execCertUpdate c serial data s) := by
  unfold execCertUpdate
  try dsimp only
  with_reducible repeat' first
    | assumption | apply good_runCmd | apply good_replaceRegion | apply GoodOut.next | exact GoodOut.fault | split
    | (simp only [good_mk]; apply Good.parts)

theorem good_execCommission {a : State} (c : Cmd) (claim : BitVec 10) (ports : Word) (data : List Byte) (s : State) (h
    : Good a s) : GoodOut a (execCommission c claim ports data s) := by
  unfold execCommission
  try dsimp only
  with_reducible repeat' first
    | assumption | apply good_runCmd | apply good_replaceRegion | apply GoodOut.next | exact GoodOut.fault | split
    | (simp only [good_mk]; apply Good.parts)

theorem good_keyProvisionRun {a : State} (c : Cmd) (data : List Byte) (p : Pend) (s : State) (h : Good a s) : Good a
    (keyProvisionRun c data p s) := by
  unfold keyProvisionRun
  try dsimp only
  with_reducible repeat' first
    | assumption | apply good_endWith | apply good_updateKeyStore | split
    | (simp only [good_mk]; apply Good.parts)

theorem good_execKeyProvision {a : State} (c : Cmd) (data : List Byte) (s : State) (h : Good a s) : GoodOut a
    (execKeyProvision c data s) := by
  unfold execKeyProvision
  try dsimp only
  with_reducible repeat' first
    | assumption | apply good_runCmd | apply good_keyProvisionRun | apply GoodOut.next | exact GoodOut.fault
    | split | (simp only [good_mk]; apply Good.parts)

theorem good_userRead {a : State} (base : Nat) (off : Nat) (len : Nat) (p : Pend) (s : State) (h : Good a s) : Good a
    (userRead base off len p s) := by
  unfold userRead
  try dsimp only
  with_reducible repeat' first
    | assumption | apply good_uncorrRead | apply good_respond | (intro _ _ _; try dsimp only) | split
    | (simp only [good_mk]; apply Good.parts)

theorem good_userFileRun {a : State} (region : Fin 4) (op : UserOp) (p : Pend) (s : State) (h : Good a s) : Good a
    (userFileRun region op p s) := by
  unfold userFileRun
  try dsimp only
  with_reducible repeat' first
    | assumption | apply good_endWith | apply good_userRead | apply good_protectedFault | apply good_queueTask
    | apply good_startPending | split | (simp only [good_mk]; apply Good.parts)

theorem good_execUserFile {a : State} (c : Cmd) (region : Fin 4) (op : UserOp) (s : State) (h : Good a s) : GoodOut a
    (execUserFile c region op s) := by
  unfold execUserFile
  try dsimp only
  with_reducible repeat' first
    | assumption | apply good_runCmd | apply good_userFileRun | apply GoodOut.next | exact GoodOut.fault | split
    | (simp only [good_mk]; apply Good.parts)

theorem good_captureRun {a : State} (p : Pend) (s : State) (h : Good a s) : Good a (captureRun p s) := by
  unfold captureRun
  try dsimp only
  with_reducible repeat' first
    | assumption | apply good_endWith | apply good_debugRecord | split | (simp only [good_mk]; apply Good.parts)

theorem good_execRngCapture {a : State} (c : Cmd) (s : State) (h : Good a s) : GoodOut a (execRngCapture c s) := by
  unfold execRngCapture
  try dsimp only
  with_reducible repeat' first
    | assumption | apply good_runCmd | apply good_captureRun | apply GoodOut.next | exact GoodOut.fault | split
    | (simp only [good_mk]; apply Good.parts)

/-! ### Machine/Plane.lean -/

theorem good_execPlaneArith {a : State} (p : Fin 16) (i : PArith) (s : State) (h : Good a s) : GoodOut a
    (execPlaneArith p i s) := by
  unfold execPlaneArith
  try dsimp only
  with_reducible repeat' first
    | assumption | apply good_planeInstr | apply good_setPln | apply GoodOut.next | exact GoodOut.fault
    | (intro _ _ _; try dsimp only) | split | (simp only [good_mk]; apply Good.parts)

theorem good_execPlaneCmpSelect {a : State} (p : Fin 16) (i : PCmp) (s : State) (h : Good a s) : GoodOut a
    (execPlaneCmpSelect p i s) := by
  unfold execPlaneCmpSelect
  try dsimp only
  with_reducible repeat' first
    | assumption | apply good_planeInstr | apply good_setPln | apply GoodOut.next | exact GoodOut.fault | split
    | (simp only [good_mk]; apply Good.parts)

theorem good_execPlaneConvert {a : State} (p : Fin 16) (i : PConv) (s : State) (h : Good a s) : GoodOut a
    (execPlaneConvert p i s) := by
  unfold execPlaneConvert
  try dsimp only
  with_reducible repeat' first
    | assumption | apply good_planeInstr | apply good_setPln | apply GoodOut.next | exact GoodOut.fault | split
    | (simp only [good_mk]; apply Good.parts)

theorem good_execPlaneScalar {a : State} (p : Fin 16) (i : PScalar) (s : State) (h : Good a s) : GoodOut a
    (execPlaneScalar p i s) := by
  unfold execPlaneScalar
  try dsimp only
  with_reducible repeat' first
    | assumption | apply good_issuedScalar | apply good_setPln | apply GoodOut.next | exact GoodOut.fault | split
    | (simp only [good_mk]; apply Good.parts)

theorem good_execPlaneLoad {a : State} (p : Fin 16) (i : PMem) (ecc : Ecc) (s : State) (h : Good a s) : GoodOut a
    (execPlaneLoad p i ecc s) := by
  unfold execPlaneLoad
  try dsimp only
  with_reducible repeat' first
    | assumption | apply good_checkedRead | apply good_loadElems | apply GoodOut.next | exact GoodOut.fault
    | split | (simp only [good_mk]; apply Good.parts)

theorem good_execPlaneStore {a : State} (p : Fin 16) (i : PMem) (s : State) (h : Good a s) : GoodOut a (execPlaneStore
    p i s) := by
  unfold execPlaneStore
  try dsimp only
  with_reducible repeat' first
    | assumption | apply good_checked | apply good_storeElems | apply GoodOut.next | exact GoodOut.fault | split
    | (simp only [good_mk]; apply Good.parts)

theorem good_execPlaneGather {a : State} (p : Fin 16) (i : PIndexed) (ecc : Ecc) (s : State) (h : Good a s) : GoodOut
    a (execPlaneGather p i ecc s) := by
  unfold execPlaneGather
  try dsimp only
  with_reducible repeat' first
    | assumption | apply good_checkedRead | apply good_loadElems | apply GoodOut.next | exact GoodOut.fault
    | split | (simp only [good_mk]; apply Good.parts)

theorem good_execPlaneScatter {a : State} (p : Fin 16) (i : PIndexed) (s : State) (h : Good a s) : GoodOut a
    (execPlaneScatter p i s) := by
  unfold execPlaneScatter
  try dsimp only
  with_reducible repeat' first
    | assumption | apply good_checked | apply good_storeElems | apply GoodOut.next | exact GoodOut.fault | split
    | (simp only [good_mk]; apply Good.parts)

theorem good_execScatterAdd {a : State} (p : Fin 16) (i : PIndexed) (ecc : Ecc) (s : State) (h : Good a s) : GoodOut a
    (execScatterAdd p i ecc s) := by
  unfold execScatterAdd
  try dsimp only
  with_reducible repeat' first
    | assumption | apply good_checkedRead | apply good_scatterAddElems | apply GoodOut.next | exact GoodOut.fault
    | split | (simp only [good_mk]; apply Good.parts)

theorem good_execPlaneReduce {a : State} (p : Fin 16) (i : PReduce) (s : State) (h : Good a s) : GoodOut a
    (execPlaneReduce p i s) := by
  unfold execPlaneReduce
  try dsimp only
  with_reducible repeat' first
    | assumption | apply good_planeInstr | apply good_setPln | apply GoodOut.next | exact GoodOut.fault | split
    | (simp only [good_mk]; apply Good.parts)

theorem good_execAccRead {a : State} (p : Fin 16) (i : PAccRead) (s : State) (h : Good a s) : GoodOut a (execAccRead p
    i s) := by
  unfold execAccRead
  try dsimp only
  with_reducible repeat' first
    | assumption | apply good_planeInstr | apply good_setPln | apply good_checked | apply good_storeElems
    | apply GoodOut.next | exact GoodOut.fault | (intro _ _ _; try dsimp only) | split
    | (simp only [good_mk]; apply Good.parts)

theorem good_execLatheRequest {a : State} (p : Fin 16) (i : PLathe) (s : State) (h : Good a s) : GoodOut a
    (execLatheRequest p i s) := by
  unfold execLatheRequest
  try dsimp only
  with_reducible repeat' first
    | assumption | apply good_issued | apply good_setPln | apply good_setLth | apply GoodOut.next
    | exact GoodOut.fault | (intro _ _ _; try dsimp only) | split | (simp only [good_mk]; apply Good.parts)

theorem good_deliver {a : State} (n : Fin 4) (p : Fin 16) (r : LatheReq) (x3 : List (Nat × Word × Word)) (x4 : State)
    : Good a x4 → Good a (deliver n p r x3 x4) := by
  fun_induction deliver n p r x3 x4 <;> intro h <;> try dsimp only at *
  all_goals
    with_reducible repeat' first
      | assumption | (rename_i ih; apply ih) | apply good_bumpLth | apply good_setPln | split | (simp only [good_mk]; apply Good.parts)

theorem good_grantOne {a : State} (n : Fin 4) (k : Fin 4) (share : Nat) (s : State) (h : Good a s) : Good a (grantOne
    n k share s) := by
  unfold grantOne
  try dsimp only
  with_reducible repeat' first
    | assumption | apply good_deliver | apply good_someCycles | apply good_setLth | apply good_bumpPln
    | apply good_issued | apply good_setPln | refine Good.snd (by assumption) ?_ | (intro _ _ _; try dsimp only)
    | split | (simp only [good_mk]; apply Good.parts)

theorem good_execLatheGrant {a : State} (n : Fin 4) (s : State) (h : Good a s) : GoodOut a (execLatheGrant n s) := by
  unfold execLatheGrant
  try dsimp only
  with_reducible repeat' first
    | assumption | apply good_bumpLth | apply good_setLth | apply good_eachSlot | apply good_grantOne
    | apply GoodOut.next | exact GoodOut.fault | (intro _ _ _; try dsimp only) | (intro _ _; try dsimp only)
    | split | (simp only [good_mk]; apply Good.parts)

theorem good_execMask {a : State} (p : Fin 16) (i : PMask) (s : State) (h : Good a s) : GoodOut a (execMask p i s) :=
    by
  unfold execMask
  try dsimp only
  with_reducible repeat' first
    | assumption | apply good_planeInstr | apply good_setPln | apply GoodOut.next | exact GoodOut.fault
    | apply Good.foldl | (intro _ _ _; try dsimp only) | split | (simp only [good_mk]; apply Good.parts)

theorem good_execRawWord {a : State} (p : Fin 16) (i : PDraw) (s : State) (h : Good a s) : GoodOut a (execRawWord p i
    s) := by
  unfold execRawWord
  try dsimp only
  with_reducible repeat' first
    | assumption | apply good_planeInstr | apply good_setPln | apply GoodOut.next | exact GoodOut.fault
    | (intro _ _ _; try dsimp only) | split | (simp only [good_mk]; apply Good.parts)

theorem good_execUniform {a : State} (p : Fin 16) (i : PDraw) (s : State) (h : Good a s) : GoodOut a (execUniform p i
    s) := by
  unfold execUniform
  try dsimp only
  with_reducible repeat' first
    | assumption | apply good_planeInstr | apply good_setPln | apply GoodOut.next | exact GoodOut.fault
    | (intro _ _ _; try dsimp only) | split | (simp only [good_mk]; apply Good.parts)

theorem good_execPlaneWait {a : State} (p : Fin 16) (slot : BitVec 8) (s : State) (h : Good a s) : GoodOut a
    (execPlaneWait p slot s) := by
  unfold execPlaneWait
  try dsimp only
  with_reducible repeat' first
    | assumption | apply good_someCycles | apply good_issuedScalar | apply good_setPln | apply good_bumpPln
    | refine Good.snd (by assumption) ?_ | apply GoodOut.next | exact GoodOut.fault
    | (intro _ _ _; try dsimp only) | split | (simp only [good_mk]; apply Good.parts)

theorem good_execPlaneSignal {a : State} (p : Fin 16) (i : PSlot) (s : State) (h : Good a s) : GoodOut a
    (execPlaneSignal p i s) := by
  unfold execPlaneSignal
  try dsimp only
  with_reducible repeat' first
    | assumption | apply good_issuedScalar | apply good_markSlot | apply GoodOut.next | exact GoodOut.fault
    | split | (simp only [good_mk]; apply Good.parts)

theorem good_execPlnWaitTimeout {a : State} (p : Fin 16) (s : State) (h : Good a s) : GoodOut a (execPlnWaitTimeout p
    s) := by
  unfold execPlnWaitTimeout
  try dsimp only
  with_reducible repeat' first
    | assumption | apply good_planeFault | apply good_planeWaitEnds | apply GoodOut.next | exact GoodOut.fault
    | split | (simp only [good_mk]; apply Good.parts)

theorem good_rowStatus {a : State} (p : Fin 16) (i : PSoftmax) (b : Byte) (s : State) (h : Good a s) : Good a
    (rowStatus p i b s) := by
  unfold rowStatus
  try dsimp only
  with_reducible repeat' first | assumption | apply good_writeStore | split | (simp only [good_mk]; apply Good.parts)

theorem good_softmaxRow {a : State} (p : Fin 16) (i : PSoftmax) (s : State) (h : Good a s) : Good a (softmaxRow p i s)
    := by
  unfold softmaxRow
  try dsimp only
  with_reducible repeat' first
    | assumption | apply good_smxPass1 | apply good_smxPass2 | apply good_storeElems | apply good_bumpPln
    | apply good_rowStatus | refine Good.snd (by assumption) ?_ | (intro _ _ _; try dsimp only) | split
    | (simp only [good_mk]; apply Good.parts)

theorem good_execSoftmax {a : State} (p : Fin 16) (i : PSoftmax) (ecc : Ecc) (s : State) (h : Good a s) : GoodOut a
    (execSoftmax p i ecc s) := by
  unfold execSoftmax
  try dsimp only
  with_reducible repeat' first
    | assumption | apply good_planeBounds | apply good_storeEcc | apply good_portCycles | apply good_issued
    | apply good_softmaxRow | refine Good.snd (by assumption) ?_ | apply GoodOut.next | exact GoodOut.fault
    | split | (simp only [good_mk]; apply Good.parts)

theorem good_execNormStats {a : State} (p : Fin 16) (i : PStats) (ecc : Ecc) (s : State) (h : Good a s) : GoodOut a
    (execNormStats p i ecc s) := by
  unfold execNormStats
  try dsimp only
  repeat' first
    | with_reducible assumption
    | with_reducible apply good_checkedRead
    | with_reducible apply good_setPln
    | with_reducible apply good_bumpPln
    | (intro _ _; try dsimp only)

theorem good_normTotals {a : State} (p : Fin 16) (st : NormStat) (i : PNorm) (s : State) (h : Good a s) : Good a
    (normTotals p st i s) := by
  unfold normTotals
  try dsimp only
  with_reducible repeat' first
    | assumption | apply good_setPln | apply good_normEnter | (intro _ _ _; try dsimp only) | split
    | (simp only [good_mk]; apply Good.parts)

theorem good_execNormCombine {a : State} (p : Fin 16) (x1 : Fin 16) (b : Fin 16) (i : PNorm) (s : State) (h : Good a
    s) : GoodOut a (execNormCombine p x1 b i s) := by
  unfold execNormCombine
  try dsimp only
  with_reducible repeat' first
    | assumption | apply good_planeInstr | apply good_normTotals | apply GoodOut.next | exact GoodOut.fault
    | split | (simp only [good_mk]; apply Good.parts)

theorem good_execPlnCfgWrite {a : State} (p : Fin 16) (v : Word) (s : State) (h : Good a s) : GoodOut a
    (execPlnCfgWrite p v s) := by
  unfold execPlnCfgWrite
  try dsimp only
  with_reducible repeat' first
    | assumption | apply good_post | apply good_setPln | apply GoodOut.next | exact GoodOut.fault
    | (intro _ _ _; try dsimp only) | split | (simp only [good_mk]; apply Good.parts)

theorem good_noteFailed {a : State} (f : SelftestReq → SelftestReq) (s : State) (h : Good a s) : Good a (noteFailed f
    s) := by
  unfold noteFailed
  try dsimp only
  with_reducible repeat' first | assumption | split | (simp only [good_mk]; apply Good.parts)

theorem good_failPlane {a : State} (p : Fin 16) (s : State) (h : Good a s) : Good a (failPlane p s) := by
  unfold failPlane
  try dsimp only
  with_reducible repeat' first
    | assumption | apply good_setPln | (intro _ _ _; try dsimp only) | split
    | (simp only [good_mk]; apply Good.parts)

theorem good_execPlaneSelftestDone {a : State} (p : Fin 16) (ok : Bool) (s : State) (h : Good a s) : GoodOut a
    (execPlaneSelftestDone p ok s) := by
  unfold execPlaneSelftestDone
  try dsimp only
  with_reducible repeat' first
    | assumption | apply good_nextTest | apply good_setPln | apply good_failPlane | apply good_noteFailed
    | apply good_post | apply GoodOut.next | exact GoodOut.fault | (intro _ _ _; try dsimp only) | split
    | (simp only [good_mk]; apply Good.parts)

theorem good_execLatheSelftestDone {a : State} (l : Fin 4) (ok : Bool) (s : State) (h : Good a s) : GoodOut a
    (execLatheSelftestDone l ok s) := by
  unfold execLatheSelftestDone
  try dsimp only
  with_reducible repeat' first
    | assumption | apply good_nextTest | apply good_setLth | apply good_eachSlot | apply good_failPlane
    | apply good_noteFailed | apply good_post | apply GoodOut.next | exact GoodOut.fault
    | (intro _ _ _; try dsimp only) | (intro _ _; try dsimp only) | split
    | (simp only [good_mk]; apply Good.parts)

/-! ### Machine/Random.lean -/

theorem good_startupWindow {a : State} (s : State) (h : Good a s) : Good a (startupWindow s) := by
  unfold startupWindow
  try dsimp only
  with_reducible repeat' first | assumption | split | (simp only [good_mk]; apply Good.parts)

theorem good_offerSamples {a : State} (s : State) (h : Good a s) : Good a (offerSamples s) := by
  unfold offerSamples
  try dsimp only
  with_reducible repeat' first
    | assumption | apply good_draw | refine Good.snd (by assumption) ?_ | split
    | (simp only [good_mk]; apply Good.parts)

theorem good_windowPassed {a : State} (s : State) (h : Good a s) : Good a (windowPassed s) := by
  unfold windowPassed
  try dsimp only
  repeat' first
    | with_reducible assumption
    | with_reducible apply good_startupWindow
    | with_reducible apply good_bumpRng
    | with_reducible apply good_offerSamples
    | split
    | (simp only [good_mk]; with_reducible refine Good.partsQueues ?_ ?_ ?_ ?_)
    | (intro _; omega)

theorem good_execRngWindowDone {a : State} (s : State) (h : Good a s) : GoodOut a (execRngWindowDone s) := by
  unfold execRngWindowDone
  try dsimp only
  with_reducible repeat' first
    | assumption | apply good_windowPassed | apply GoodOut.next | exact GoodOut.fault | split
    | (simp only [good_mk]; apply Good.parts)

theorem good_saltlessExport {a : State} (j : Fin 4) (s : State) (h : Good a s) : Good a (saltlessExport j s) := by
  unfold saltlessExport
  try dsimp only
  with_reducible repeat' first | assumption | apply good_endExport | split | (simp only [good_mk]; apply Good.parts)

theorem good_requestFails {a : State} (s : State) (r : RngReq) (h : Good a s) : Good a (requestFails s r) := by
  unfold requestFails
  try dsimp only
  with_reducible repeat' first
    | assumption | apply good_endWith | apply good_tenantFails | apply good_endOpt | apply good_dropSnap
    | apply good_saltlessExport | apply good_quiesceCheck | apply good_stopJob | split
    | (simp only [good_mk]; apply Good.parts)

theorem good_stopBoot {a : State} (s : State) (h : Good a s) : Good a (stopBoot s) := by
  unfold stopBoot
  try dsimp only
  with_reducible repeat' first | assumption | apply good_powerUpEnd | split | (simp only [good_mk]; apply Good.parts)

theorem good_sourceFails {a : State} (s : State) (h : Good a s) :
    Good a (sourceFails s) := by
  unfold sourceFails
  try dsimp only
  repeat' first
    | with_reducible assumption
    | with_reducible exact Good.refl _
    | with_reducible rfl
    | with_reducible apply good_requestFails
    | with_reducible apply good_stopBoot
    | with_reducible apply good_post
    | with_reducible apply Good.foldl
    | (intro _; with_reducible rfl)
    | (intro _; repeat' split) <;> with_reducible rfl
    | (intro _ _ _ _ _ _; try dsimp only)
    | (intro _ _ _ _ _; try dsimp only)
    | (intro _ _ _ _; try dsimp only)
    | (intro _ _ _; try dsimp only)
    | (intro _ _; try dsimp only)
    | split
    | (simp only [good_mk]; with_reducible apply Good.parts)
    | (simp only [good_mk]; with_reducible refine Good.partsBytes ?_ ?_)
    | (intro w; first | with_reducible exact clearRange_wf _ _ _ w | with_reducible exact writeBytes_wf _ _ _ w | with_reducible exact overlay_wf _ _ (withoutHandles_wf _ _ w) | with_reducible exact discardBytes_wf _ _ _ w)
    | (simp only [good_mk]; with_reducible refine Good.partsVmap ?_ ?_)
    | (intro _; with_reducible exact Or.inl rfl)
    | ((intro _; repeat' split) <;> first | with_reducible exact Or.inl rfl | with_reducible exact Or.inr rfl)
    | (simp only [good_mk]; with_reducible refine Good.partsQueues ?_ ?_ ?_ ?_)
    | with_reducible exact id
    | with_reducible exact fun _ => Nat.zero_le _
    | exact fun _ => (Nat.zero_le _ : Hif.reset.queue.length ≤ 16)
    | (intro _; omega)
    | (simp only [good_mk]; done)
    | (intro q; cases q; done)
    | (intro _; rfl)
    | (intro _; rfl)
    | dsimp only
    | (dsimp only [id]; with_reducible assumption)

theorem good_healthFail {a : State} (bit : Nat) (ctr : Fin 3) (s : State) (h : Good a s) : Good a (healthFail bit ctr
    s) := by
  unfold healthFail
  try dsimp only
  with_reducible repeat' first
    | assumption | apply good_bumpRng | apply good_post | apply good_offerSamples | apply good_sourceFails | split
    | (simp only [good_mk]; apply Good.parts)

theorem good_execRngRctFail {a : State} (s : State) (h : Good a s) : GoodOut a (execRngRctFail s) := by
  unfold execRngRctFail
  try dsimp only
  with_reducible repeat' first
    | assumption | apply good_healthFail | apply GoodOut.next | exact GoodOut.fault | split
    | (simp only [good_mk]; apply Good.parts)

theorem good_execRngAptFail {a : State} (s : State) (h : Good a s) : GoodOut a (execRngAptFail s) := by
  unfold execRngAptFail
  try dsimp only
  with_reducible repeat' first
    | assumption | apply good_healthFail | apply GoodOut.next | exact GoodOut.fault | split
    | (simp only [good_mk]; apply Good.parts)

theorem good_startDone {a : State} (j : Fin 4) (s : State) (h : Good a s) : Good a (startDone j s) := by
  unfold startDone
  try dsimp only
  with_reducible repeat' first
    | assumption | apply good_answer | apply good_setJob | (intro _ _ _; try dsimp only) | split
    | (simp only [good_mk]; apply Good.parts)

theorem good_serve {a : State} (o : RngOwner) (s : State) (h : Good a s) : Good a (serve o s) := by
  unfold serve
  try dsimp only
  with_reducible repeat' first
    | assumption | apply good_draw | apply good_tryKeys | apply good_sayHello | apply good_setLink
    | apply good_chooseSwitch | apply good_setJob | apply good_startDone | apply good_writeReport
    | apply good_tenantFinish | refine Good.snd (by assumption) ?_ | (intro _ _ _; try dsimp only) | split
    | (simp only [good_mk]; apply Good.parts)

theorem good_serveHead {a : State} (s : State) (h : Good a s) :
    Good a (serveHead s) := by
  unfold serveHead
  try dsimp only
  repeat' first
    | with_reducible assumption
    | with_reducible exact Good.refl _
    | with_reducible rfl
    | with_reducible apply good_serve
    | with_reducible apply Good.foldl
    | (intro _; with_reducible rfl)
    | (intro _; repeat' split) <;> with_reducible rfl
    | (intro _ _ _ _ _ _; try dsimp only)
    | (intro _ _ _ _ _; try dsimp only)
    | (intro _ _ _ _; try dsimp only)
    | (intro _ _ _; try dsimp only)
    | (intro _ _; try dsimp only)
    | split
    | (simp only [good_mk]; with_reducible apply Good.parts)
    | (simp only [good_mk]; with_reducible refine Good.partsBytes ?_ ?_)
    | (intro w; first | with_reducible exact clearRange_wf _ _ _ w | with_reducible exact writeBytes_wf _ _ _ w | with_reducible exact overlay_wf _ _ (withoutHandles_wf _ _ w) | with_reducible exact discardBytes_wf _ _ _ w)
    | (simp only [good_mk]; with_reducible refine Good.partsVmap ?_ ?_)
    | (intro _; with_reducible exact Or.inl rfl)
    | ((intro _; repeat' split) <;> first | with_reducible exact Or.inl rfl | with_reducible exact Or.inr rfl)
    | (simp only [good_mk]; with_reducible refine Good.partsQueues ?_ ?_ ?_ ?_)
    | with_reducible exact id
    | with_reducible exact fun _ => Nat.zero_le _
    | exact fun _ => (Nat.zero_le _ : Hif.reset.queue.length ≤ 16)
    | (intro _; omega)
    | (simp only [good_mk]; done)
    | (intro q; cases q; done)
    | (intro _; rfl)
    | (intro _; rfl)
    | dsimp only
    | (dsimp only [id]; with_reducible assumption)

theorem good_execRngRequestServed {a : State} (s : State) (h : Good a s) : GoodOut a (execRngRequestServed s) := by
  unfold execRngRequestServed
  try dsimp only
  with_reducible repeat' first
    | assumption | apply good_serveHead | apply GoodOut.next | exact GoodOut.fault | split
    | (simp only [good_mk]; apply Good.parts)

/-! ### Machine/Train.lean -/

theorem good_startTens {a : State} (j : Fin 4) (idx : Nat) (n : Nat) (s : State) (x4 : Tensor) (h : Good a s) : Good a
    (startTens j idx n s x4) := by
  unfold startTens
  try dsimp only
  with_reducible repeat' first
    | assumption | apply good_setTens | apply good_useLathe | refine Good.snd (by assumption) ?_
    | (intro _ _ _; try dsimp only) | split | (simp only [good_mk]; apply Good.parts)

theorem good_normInv {a : State} (s : State) (idx : Nat) (samples : Nat) (h : Good a s) : Good a (normInv s idx
    samples).2 := by
  unfold normInv
  try dsimp only
  with_reducible repeat' first
    | assumption | apply good_useLathe | refine Good.snd (by assumption) ?_ | split
    | (simp only [good_mk]; apply Good.parts)

theorem good_foreignDone {a : State} (j : Fin 4) (x : Job) (s : State) (h : Good a s) : Good a (foreignDone j x s) :=
    by
  unfold foreignDone
  try dsimp only
  with_reducible repeat' first
    | assumption | apply good_setTens | apply Good.foldl | (intro _ _ _; try dsimp only) | split
    | (simp only [good_mk]; apply Good.parts)

theorem good_beginStep {a : State} (j : Fin 4) (x : Job) (samples : Nat) (s : State) (h : Good a s) : Good a
    (beginStep j x samples s) := by
  unfold beginStep
  try dsimp only
  with_reducible repeat' first
    | assumption | apply good_normInv | apply good_setJob | apply good_colFresh | apply good_startTens
    | apply good_checkUpdate | apply good_foreignDone | refine Good.snd (by assumption) ?_ | apply Good.foldl
    | (intro _ _ _; try dsimp only) | split | (simp only [good_mk]; apply Good.parts)

theorem good_execStepStart {a : State} (j : Fin 4) (samples : Nat) (s : State) (h : Good a s) : GoodOut a
    (execStepStart j samples s) := by
  unfold execStepStart
  try dsimp only
  with_reducible repeat' first
    | assumption | apply good_beginStep | apply good_setJob | apply GoodOut.next | exact GoodOut.fault
    | (intro _ _ _; try dsimp only) | split | (simp only [good_mk]; apply Good.parts)

theorem good_addElem {a : State} (j : Fin 4) (g : Tensor) (c : Conv) (y : List Byte × State) (gp : Word × Word)
    (h : Good a y.2) : Good a (addElem j g c y gp).2 := good_convertElem _ _ _ _ _ h

theorem good_addElems {a : State} (j : Fin 4) (g : Tensor) (c : Conv) : ∀ (l : List (Word × Word)) (y : List Byte × State),
    Good a y.2 → Good a (l.foldl (addElem j g c) y).2
  | [], _, h => h
  | _ :: l, _, h => good_addElems j g c l _ (good_addElem j g c _ _ h)

theorem good_addPartial {a : State} (j : Fin 4) (x : Job) (x2 : Tensor) (g : Tensor) (n : Nat) (at_ : PartialAt) (s :
    State) (h : Good a s) : Good a (addPartial j x x2 g n at_ s).2 := by
  unfold addPartial
  try dsimp only
  split
  · exact h
  · exact good_addElems _ _ _ _ _ (good_useG _ _ _ _ _ h)

theorem good_enterG {a : State} (j : Fin 4) (x : Job) (x2 : Tensor) (g : Tensor) (at_ : PartialAt) (s : State) (h :
    Good a s) : Good a (enterG j x x2 g at_ s) := by
  unfold enterG
  try dsimp only
  with_reducible repeat' first
    | assumption | apply good_addPartial | apply good_setTens | apply good_pokeOr
    | refine Good.snd (by assumption) ?_ | (intro _ _ _; try dsimp only) | split
    | (simp only [good_mk]; apply Good.parts)

theorem good_drainEarly {a : State} (j : Fin 4) (x : Job) (x2 : Tensor) (g : Tensor) (x4 : Nat) (x5 : State) : Good a
    x5 → Good a (drainEarly j x x2 g x4 x5) := by
  fun_induction drainEarly j x x2 g x4 x5 <;> intro h <;> try dsimp only at *
  all_goals
    with_reducible repeat' first
      | assumption | (rename_i ih; apply ih) | apply good_enterG | (intro _ _ _; try dsimp only) | split
      | (simp only [good_mk]; apply Good.parts)

theorem good_partialAdd {a : State} (j : Fin 4) (x : Job) (x2 : Tensor) (g : Tensor) (r : TRun) (n : Nat) (at_ :
    PartialAt) (s : State) (h : Good a s) : Good a (partialAdd j x x2 g r n at_ s) := by
  unfold partialAdd
  try dsimp only
  with_reducible repeat' first
    | assumption | apply good_drainEarly | apply good_enterG | apply good_finalG | apply good_setTens
    | (intro _ _ _; try dsimp only) | split | (simp only [good_mk]; apply Good.parts)

theorem good_execGradPartialAdd {a : State} (j : Fin 4) (x1 : BitVec 16) (mb : Nat) (at_ : PartialAt) (ecc :
    DrawerEcc) (s : State) (h : Good a s) : GoodOut a (execGradPartialAdd j x1 mb at_ ecc s) := by
  unfold execGradPartialAdd
  try dsimp only
  with_reducible repeat' first
    | assumption | refine good_ensureHandle ‹_› ?_ | apply good_fatalFault | apply good_exhausted
    | apply good_afterEcc | apply good_partialAdd | apply GoodOut.next | exact GoodOut.fault | split
    | (simp only [good_mk]; apply Good.parts)

theorem good_execGlueEnter {a : State} (j : Fin 4) (x1 : BitVec 16) (ecc : DrawerEcc) (s : State) (h : Good a s) :
    GoodOut a (execGlueEnter j x1 ecc s) := by
  unfold execGlueEnter
  try dsimp only
  with_reducible repeat' first
    | assumption | apply good_afterEcc | apply good_enterGlue | apply GoodOut.next | exact GoodOut.fault | split
    | (simp only [good_mk]; apply Good.parts)

theorem good_clipFactor {a : State} (q : Val) (clip : Word) (s : State) (h : Good a s) : Good a (clipFactor q clip
    s).2 := by
  unfold clipFactor
  try dsimp only
  with_reducible repeat' first
    | assumption | apply good_useLathe | refine Good.snd (by assumption) ?_ | split
    | (simp only [good_mk]; apply Good.parts)

theorem good_clampOf {a : State} (q : Val) (clip : Word) (nInv : Word) (s : State) (h : Good a s) : Good a (clampOf q
    clip nInv s).2 := by
  unfold clampOf
  try dsimp only
  with_reducible repeat' first
    | assumption | apply good_clipFactor | refine Good.snd (by assumption) ?_ | split
    | (simp only [good_mk]; apply Good.parts)

theorem good_clampTens {a : State} (j : Fin 4) (x : Job) (x2 : BitVec 16) (r : TRun) (s : State) (h : Good a s) : Good
    a (clampTens j x x2 r s) := by
  unfold clampTens
  try dsimp only
  with_reducible repeat' first
    | assumption | apply good_clampOf | apply good_setTens | apply good_tryTallyEnd
    | refine Good.snd (by assumption) ?_ | (intro _ _ _; try dsimp only) | split
    | (simp only [good_mk]; apply Good.parts)

theorem good_execClampFactor {a : State} (j : Fin 4) (x1 : BitVec 16) (s : State) (h : Good a s) : GoodOut a
    (execClampFactor j x1 s) := by
  unfold execClampFactor
  try dsimp only
  with_reducible repeat' first
    | assumption | apply good_clampTens | apply GoodOut.next | exact GoodOut.fault | split
    | (simp only [good_mk]; apply Good.parts)

theorem good_adamwElem {a : State} (j : Fin 4) (idx : Nat) (x2 : Tensor) (m : Tensor) (v : Tensor) (s : State) (i :
    Nat) (h : Good a s) : Good a (adamwElem j idx x2 m v s i) := by
  unfold adamwElem
  try dsimp only
  with_reducible repeat' first
    | assumption | apply good_useLathe | apply good_optStore | refine Good.snd (by assumption) ?_ | split
    | (simp only [good_mk]; apply Good.parts)

theorem good_sgdmElem {a : State} (j : Fin 4) (idx : Nat) (x2 : Tensor) (m : Tensor) (s : State) (i : Nat) (h : Good a
    s) : Good a (sgdmElem j idx x2 m s i) := by
  unfold sgdmElem
  try dsimp only
  with_reducible repeat' first | assumption | apply good_optStore | split | (simp only [good_mk]; apply Good.parts)

theorem good_useShard {a : State} (j : Fin 4) (x : Job) (x2 : Tensor) (s : State) (h : Good a s) : Good a (useShard j
    x x2 s) := by
  unfold useShard
  try dsimp only
  with_reducible repeat' first
    | assumption | apply good_useHandle | apply Good.foldl | (intro _ _ _; try dsimp only) | split
    | (simp only [good_mk]; apply Good.parts)

theorem good_adamwRun {a : State} (j : Fin 4) (x : Job) (x2 : Tensor) (r : TRun) (s : State) (h : Good a s) : Good a
    (adamwRun j x x2 r s) := by
  unfold adamwRun
  try dsimp only
  with_reducible repeat' first
    | assumption | apply good_optFinish | apply good_adamwElem | apply Good.foldl | (intro _ _ _; try dsimp only)
    | split | (simp only [good_mk]; apply Good.parts)

theorem good_sgdmRun {a : State} (j : Fin 4) (x : Job) (x2 : Tensor) (r : TRun) (s : State) (h : Good a s) : Good a
    (sgdmRun j x x2 r s) := by
  unfold sgdmRun
  try dsimp only
  with_reducible repeat' first
    | assumption | apply good_optFinish | apply good_sgdmElem | apply Good.foldl | (intro _ _ _; try dsimp only)
    | split | (simp only [good_mk]; apply Good.parts)

theorem good_execOptimizerAdamw {a : State} (j : Fin 4) (x1 : BitVec 16) (ecc : DrawerEcc) (s : State) (h : Good a s)
    : GoodOut a (execOptimizerAdamw j x1 ecc s) := by
  unfold execOptimizerAdamw
  try dsimp only
  repeat' first
    | with_reducible assumption
    | with_reducible apply good_afterEcc
    | with_reducible apply good_adamwRun
    | with_reducible apply good_useShard
    | with_reducible apply GoodOut.next
    | (intro _ _; try dsimp only)
    | split

theorem good_execOptimizerSgdm {a : State} (j : Fin 4) (x1 : BitVec 16) (ecc : DrawerEcc) (s : State) (h : Good a s) :
    GoodOut a (execOptimizerSgdm j x1 ecc s) := by
  unfold execOptimizerSgdm
  try dsimp only
  repeat' first
    | with_reducible assumption
    | with_reducible apply good_afterEcc
    | with_reducible apply good_sgdmRun
    | with_reducible apply good_useShard
    | with_reducible apply GoodOut.next
    | (intro _ _; try dsimp only)
    | split

theorem good_execOptimizerReaderWaitEnd {a : State} (j : Fin 4) (cycles : Nat) (s : State) (h : Good a s) : GoodOut a
    (execOptimizerReaderWaitEnd j cycles s) := by
  unfold execOptimizerReaderWaitEnd
  try dsimp only
  with_reducible repeat' first
    | assumption | apply good_bumpTrn | apply good_setJob | apply good_gatherOne | apply GoodOut.next
    | exact GoodOut.fault | apply Good.foldl | (intro _ _ _; try dsimp only) | split
    | (simp only [good_mk]; apply Good.parts)

theorem good_execReadySend {a : State} (j : Fin 4) (s : State) (h : Good a s) : GoodOut a (execReadySend j s) := by
  unfold execReadySend
  try dsimp only
  with_reducible repeat' first
    | assumption | apply good_replayFinish | apply good_commitStep | apply good_setJob | apply good_tryCommit
    | apply good_noteReady | apply good_sendCoord | apply GoodOut.next | exact GoodOut.fault
    | (intro _ _ _; try dsimp only) | split | (simp only [good_mk]; apply Good.parts)

theorem good_trnLocked {a : State} (s : State) (h : Good a s) : Good a (trnLocked s) := by
  unfold trnLocked
  try dsimp only
  with_reducible repeat' first | assumption | apply good_post | split | (simp only [good_mk]; apply Good.parts)

theorem good_execTrnTelConfigWrite {a : State} (size : Bool) (v : DWord) (s : State) (h : Good a s) : GoodOut a
    (execTrnTelConfigWrite size v s) := by
  unfold execTrnTelConfigWrite
  try dsimp only
  with_reducible repeat' first
    | assumption | apply good_trnLocked | apply GoodOut.next | exact GoodOut.fault | split
    | (simp only [good_mk]; apply Good.parts)

theorem good_execTrnTelRdWrite {a : State} (v : Word) (s : State) (h : Good a s) : GoodOut a (execTrnTelRdWrite v s)
    := by
  unfold execTrnTelRdWrite
  try dsimp only
  with_reducible repeat' first
    | assumption | apply GoodOut.next | exact GoodOut.fault | split | (simp only [good_mk]; apply Good.parts)

theorem good_execTrnStatFlagsClear {a : State} (v : Word) (s : State) (h : Good a s) : GoodOut a
    (execTrnStatFlagsClear v s) := by
  unfold execTrnStatFlagsClear
  try dsimp only
  with_reducible repeat' first
    | assumption | apply good_setTens | apply GoodOut.next | exact GoodOut.fault | split
    | (simp only [good_mk]; apply Good.parts)

/-! ### Machine/Regs.lean -/

theorem good_outState {a : State} (s : State) (o : Out) (h : Good a s) (ho : GoodOut a o) : Good a (outState s o) := by
  unfold outState
  split
  · exact ho.good _ rfl
  · exact h

theorem good_pwrWrite {a : State} (o : Nat) (v : Word) (s : State) (h : Good a s) : Good a (pwrWrite o v s) := by
  unfold pwrWrite
  try dsimp only
  with_reducible repeat' first
    | assumption | apply good_outState | apply good_execPwrWakeCauseClear | apply good_execPeakClr | split
    | (simp only [good_mk]; apply Good.parts)

theorem good_aonWrite {a : State} (o : Nat) (v : Word) (s : State) (h : Good a s) : Good a (aonWrite o v s) := by
  unfold aonWrite
  try dsimp only
  with_reducible repeat' first
    | assumption | apply good_outState | apply good_execAonAlarmClear | apply good_execAonTimerWrite
    | apply good_syncAlarm | split | (simp only [good_mk]; apply Good.parts)

theorem good_evtWrite {a : State} (o : Nat) (v : Word) (s : State) (h : Good a s) : Good a (evtWrite o v s) := by
  unfold evtWrite
  try dsimp only
  with_reducible repeat' first
    | assumption | apply good_outState | apply good_execEvtRingConfigWrite | apply good_execEvtRingRdWrite | split
    | (simp only [good_mk]; apply Good.parts)

theorem good_hifWrite {a : State} (o : Nat) (v : Word) (s : State) (h : Good a s) : Good a (hifWrite o v s) := by
  unfold hifWrite
  try dsimp only
  with_reducible repeat' first
    | assumption | apply good_outState | apply good_execCmdDoorbell | apply good_execHifResAck | split
    | (simp only [good_mk]; apply Good.parts)

theorem good_secWrite {a : State} (o : Nat) (v : Word) (s : State) (h : Good a s) : Good a (secWrite o v s) := by
  unfold secWrite
  try dsimp only
  with_reducible repeat' first | assumption | split | (simp only [good_mk]; apply Good.parts)

theorem good_flsWrite {a : State} (o : Nat) (v : Word) (s : State) (h : Good a s) : Good a (flsWrite o v s) := by
  unfold flsWrite
  try dsimp only
  with_reducible repeat' first | assumption | split | (simp only [good_mk]; apply Good.parts)

theorem good_rngWrite {a : State} (o : Nat) (v : Word) (s : State) (h : Good a s) : Good a (rngWrite o v s) := by
  unfold rngWrite
  try dsimp only
  with_reducible repeat' first | assumption | split | (simp only [good_mk]; apply Good.parts)

theorem good_stkWrite {a : State} (o : Nat) (v : Word) (s : State) (h : Good a s) : Good a (stkWrite o v s) := by
  unfold stkWrite
  try dsimp only
  with_reducible repeat' first
    | assumption | apply good_outState | apply good_execStkCfgWrite | apply good_execStkSpillWrite | split
    | (simp only [good_mk]; apply Good.parts)

theorem good_lctrlWrite {a : State} (l : Fin 8) (v : Word) (s : State) (h : Good a s) : Good a (lctrlWrite l v s) :=
    by
  unfold lctrlWrite
  try dsimp only
  with_reducible repeat' first
    | assumption | apply good_outState | apply good_execFabDisable | apply good_execFabRestart
    | apply good_execSendWake | apply good_execRetrainReq | split | (simp only [good_mk]; apply Good.parts)

theorem good_linkWrite {a : State} (l : Fin 8) (o : Nat) (v : Word) (s : State) (h : Good a s) : Good a (linkWrite l o
    v s) := by
  unfold linkWrite
  try dsimp only
  with_reducible repeat' first
    | assumption | apply good_lctrlWrite | apply good_setLink | (intro _ _ _; try dsimp only) | split
    | (simp only [good_mk]; apply Good.parts)

theorem good_wsWrite {a : State} (o : Nat) (v : Word) (s : State) (h : Good a s) : Good a (wsWrite o v s) := by
  unfold wsWrite
  try dsimp only
  with_reducible repeat' first
    | assumption | apply good_outState | apply good_execFabWsCfgWrite | split
    | (simp only [good_mk]; apply Good.parts)

theorem good_fabWrite {a : State} (o : Nat) (v : Word) (s : State) (h : Good a s) : Good a (fabWrite o v s) := by
  unfold fabWrite
  try dsimp only
  with_reducible repeat' first
    | assumption | apply good_linkWrite | apply good_wsWrite | split | (simp only [good_mk]; apply Good.parts)

theorem good_colWrite {a : State} (o : Nat) (v : Word) (s : State) (h : Good a s) : Good a (colWrite o v s) := by
  unfold colWrite
  try dsimp only
  with_reducible repeat' first
    | assumption | apply good_outState | apply good_execColCfgWrite | split
    | (simp only [good_mk]; apply Good.parts)

theorem good_trnWrite {a : State} (o : Nat) (v : Word) (s : State) (h : Good a s) : Good a (trnWrite o v s) := by
  unfold trnWrite
  try dsimp only
  with_reducible repeat' first
    | assumption | apply good_outState | apply good_execTrnStatFlagsClear | apply good_execTrnTelConfigWrite
    | apply good_execTrnTelRdWrite | apply good_setJob | (intro _ _ _; try dsimp only) | split
    | (simp only [good_mk]; apply Good.parts)

theorem good_seqWrite {a : State} (o : Nat) (v : Word) (s : State) (h : Good a s) : Good a (seqWrite o v s) := by
  unfold seqWrite
  try dsimp only
  with_reducible repeat' first
    | assumption | apply good_setJob | (intro _ _ _; try dsimp only) | split
    | (simp only [good_mk]; apply Good.parts)

theorem good_bncWrite {a : State} (n : Fin 4) (o : Nat) (v : Word) (s : State) (h : Good a s) :
    Good a (bncWrite n o v s) := by
  unfold bncWrite
  try dsimp only
  with_reducible repeat' first
    | assumption | apply good_outState | apply good_execBncCfgWrite | apply good_setBnc | (intro _; rfl) | split
    | (simp only [good_mk]; apply Good.parts)

theorem good_plnWrite {a : State} (n : Fin 16) (o : Nat) (v : Word) (s : State) (h : Good a s) : Good a (plnWrite n o
    v s) := by
  unfold plnWrite
  try dsimp only
  with_reducible repeat' first
    | assumption | apply good_outState | apply good_execPlnCfgWrite | apply good_setPln
    | (intro _ _ _; try dsimp only) | split | (simp only [good_mk]; apply Good.parts)

theorem good_lthWrite {a : State} (n : Fin 4) (o : Nat) (v : Word) (s : State) (h : Good a s) : Good a (lthWrite n o v
    s) := by
  unfold lthWrite
  try dsimp only
  with_reducible repeat' first
    | assumption | apply good_setLth | (intro _ _ _; try dsimp only) | split
    | (simp only [good_mk]; apply Good.parts)

theorem good_snsWrite {a : State} (n : Fin 24) (o : Nat) (v : Word) (s : State) (h : Good a s) : Good a (snsWrite n o
    v s) := by
  unfold snsWrite
  try dsimp only
  with_reducible repeat' first
    | assumption | apply good_setSns | (intro _ _ _; try dsimp only) | split
    | (simp only [good_mk]; apply Good.parts)

theorem good_writeAt {a : State} (off : Nat) (v : Word) (s : State) (h : Good a s) : Good a (writeAt off v s) := by
  unfold writeAt
  try dsimp only
  with_reducible repeat' first
    | assumption | apply good_pwrWrite | apply good_aonWrite | apply good_evtWrite | apply good_hifWrite
    | apply good_secWrite | apply good_flsWrite | apply good_rngWrite | apply good_stkWrite | apply good_fabWrite
    | apply good_colWrite | apply good_trnWrite | apply good_seqWrite | apply good_bncWrite | apply good_plnWrite
    | apply good_lthWrite | apply good_snsWrite | split | (simp only [good_mk]; apply Good.parts)

theorem good_writeReg {a : State} (off : Nat) (v : Word) (s : State) (h : Good a s) : Good a (writeReg off v s) := by
  unfold writeReg
  try dsimp only
  with_reducible repeat' first | assumption | apply good_writeAt | split | (simp only [good_mk]; apply Good.parts)

theorem good_writeReg64 {a : State} (off : Nat) (v : DWord) (s : State) (h : Good a s) : Good a (writeReg64 off v s)
    := by
  unfold writeReg64
  try dsimp only
  with_reducible repeat' first
    | assumption | apply good_outState | apply good_execAonTimerWrite | apply good_execEvtRingConfigWrite
    | apply good_execStkSpillWrite | apply good_execTrnTelConfigWrite | apply good_writeReg | split
    | (simp only [good_mk]; apply Good.parts)

theorem good_execRegisterWrite {a : State} (off : BitVec 24) (wide : Bool) (v : DWord) (s : State) (h : Good a s) :
    GoodOut a (execRegisterWrite off wide v s) := by
  unfold execRegisterWrite
  try dsimp only
  with_reducible repeat' first
    | assumption | apply good_writeReg64 | apply good_writeReg | apply GoodOut.next | exact GoodOut.fault | split
    | (simp only [good_mk]; apply Good.parts)

/-! ### Machine/Security.lean -/

theorem good_attestRun {a : State} (c : Cmd) (r : AttestReq) (p : Pend) (s : State) (h : Good a s) : Good a (attestRun
    c r p s) := by
  unfold attestRun
  try dsimp only
  with_reducible repeat' first
    | assumption | apply good_endWith | apply good_writeReport | apply good_takeOutputs | apply good_askRng
    | apply good_startPending | split | (simp only [good_mk]; apply Good.parts)

theorem good_execAttest {a : State} (c : Cmd) (r : AttestReq) (s : State) (h : Good a s) : GoodOut a (execAttest c r
    s) := by
  unfold execAttest
  try dsimp only
  with_reducible repeat' first
    | assumption | apply good_runCmd | apply good_attestRun | apply GoodOut.next | exact GoodOut.fault | split
    | (simp only [good_mk]; apply Good.parts)

theorem good_dropHeld {a : State} (id : DWord) (s : State) (h : Good a s) : Good a (dropHeld id s) := by
  unfold dropHeld
  try dsimp only
  with_reducible repeat' first
    | assumption | (intro _ _ _; try dsimp only) | split | (simp only [good_mk]; apply Good.parts)

theorem good_installKey {a : State} (k : Fin 4) (key : List Byte) (b : List Byte) (p : Pend) (s : State) (h : Good a
    s) : Good a (installKey k key b p s) := by
  unfold installKey
  try dsimp only
  with_reducible repeat' first
    | assumption | apply good_startPending | apply good_post | apply good_bumpSec | apply good_endWith | split
    | (simp only [good_mk]; apply Good.parts)

theorem good_releaseFails {a : State} (k : Fin 4) (p : Pend) (s : State) (h : Good a s) : Good a (releaseFails k p s)
    := by
  unfold releaseFails
  try dsimp only
  with_reducible repeat' first
    | assumption | apply good_endWith | apply good_post | apply good_bumpSec | apply good_secFault | split
    | (simp only [good_mk]; apply Good.parts)

theorem good_keyReleaseRun {a : State} (c : Cmd) (blob : Option (List Byte)) (p : Pend) (s : State) (h : Good a s) :
    Good a (keyReleaseRun c blob p s) := by
  unfold keyReleaseRun
  try dsimp only
  with_reducible repeat' first
    | assumption | apply good_endWith | apply good_dropHeld | apply good_installKey | apply good_releaseFails
    | (intro _ _ _; try dsimp only) | split | (simp only [good_mk]; apply Good.parts)

theorem good_execKeyRelease {a : State} (c : Cmd) (blob : Option (List Byte)) (s : State) (h : Good a s) : GoodOut a
    (execKeyRelease c blob s) := by
  unfold execKeyRelease
  try dsimp only
  with_reducible repeat' first
    | assumption | apply good_runCmd | apply good_keyReleaseRun | apply GoodOut.next | exact GoodOut.fault | split
    | (simp only [good_mk]; apply Good.parts)

theorem good_execContainerChunk {a : State} (key : Fin 4) (bytes : List Byte) (s : State) (h : Good a s) : GoodOut a
    (execContainerChunk key bytes s) := by
  unfold execContainerChunk
  try dsimp only
  with_reducible repeat' first
    | assumption | apply good_loadFail | apply good_chunkIn | apply GoodOut.next | exact GoodOut.fault | split
    | (simp only [good_mk]; apply Good.parts)

theorem good_keyUpdateRun {a : State} (c : Cmd) (m : List Byte) (authOk : Bool) (p : Pend) (s : State) (h : Good a s)
    : Good a (keyUpdateRun c m authOk p s) := by
  unfold keyUpdateRun
  try dsimp only
  with_reducible repeat' first
    | assumption | apply good_endWith | apply good_takeBounce | apply good_updateKeyStore
    | refine Good.snd (by assumption) ?_ | split | (simp only [good_mk]; apply Good.parts)

theorem good_execKeyUpdate {a : State} (c : Cmd) (m : List Byte) (authOk : Bool) (s : State) (h : Good a s) : GoodOut
    a (execKeyUpdate c m authOk s) := by
  unfold execKeyUpdate
  try dsimp only
  with_reducible repeat' first
    | assumption | apply good_runCmd | apply good_keyUpdateRun | apply GoodOut.next | exact GoodOut.fault | split
    | (simp only [good_mk]; apply Good.parts)

theorem good_tenantEndRun {a : State} (ms : Word) (p : Pend) (s : State) (h : Good a s) : Good a (tenantEndRun ms p s)
    := by
  unfold tenantEndRun
  try dsimp only
  with_reducible repeat' first
    | assumption | apply good_endWith | apply good_startPending | apply good_eachSlot | apply good_tenantStop
    | apply good_tenantDraw | apply good_tenantClose | apply good_tenantLinks | split
    | (simp only [good_mk]; apply Good.parts)

theorem good_execTenantEnd {a : State} (c : Cmd) (ms : Word) (s : State) (h : Good a s) : GoodOut a (execTenantEnd c
    ms s) := by
  unfold execTenantEnd
  try dsimp only
  with_reducible repeat' first
    | assumption | apply good_runCmd | apply good_tenantEndRun | apply GoodOut.next | exact GoodOut.fault | split
    | (simp only [good_mk]; apply Good.parts)

theorem good_execEphemeralKeyExpiry {a : State} (reportId : DWord) (s : State) (h : Good a s) : GoodOut a
    (execEphemeralKeyExpiry reportId s) := by
  unfold execEphemeralKeyExpiry
  try dsimp only
  with_reducible repeat' first
    | assumption | apply good_dropHeld | apply GoodOut.next | exact GoodOut.fault | split
    | (simp only [good_mk]; apply Good.parts)

/-! ### Machine/Sensors.lean -/

theorem good_frameRun {a : State} (p : Fin 24) (partialWord : Bool) (s : State) (h : Good a s) : Good a (frameRun p
    partialWord s) := by
  unfold frameRun
  try dsimp only
  with_reducible repeat' first
    | assumption | apply good_bumpSns | apply good_setSns | split | (simp only [good_mk]; apply Good.parts)

theorem good_execFrameSync {a : State} (p : Fin 24) (partialWord : Bool) (s : State) (h : Good a s) : GoodOut a
    (execFrameSync p partialWord s) := by
  unfold execFrameSync
  try dsimp only
  with_reducible repeat' first
    | assumption | apply good_frameRun | apply GoodOut.next | exact GoodOut.fault | split
    | (simp only [good_mk]; apply Good.parts)

theorem good_loseWord {a : State} (p : Fin 24) (s : State) (h : Good a s) : Good a (loseWord p s) := by
  unfold loseWord
  try dsimp only
  with_reducible repeat' first
    | assumption | apply good_bumpSns | apply good_setSns | apply good_postIf | (intro _ _ _; try dsimp only)
    | split | (simp only [good_mk]; apply Good.parts)

theorem good_wordRun {a : State} (p : Fin 24) (x1 : DWord) (x2 : Word) (s : State) (h : Good a s) : Good a (wordRun p
    x1 x2 s) := by
  unfold wordRun
  try dsimp only
  with_reducible repeat' first
    | assumption | apply good_loseWord | apply good_bumpSns | apply good_setSns | (intro _ _ _; try dsimp only)
    | split | (simp only [good_mk]; apply Good.parts)

theorem good_execSensorWord {a : State} (p : Fin 24) (x1 : Word) (s : State) (h : Good a s) : GoodOut a
    (execSensorWord p x1 s) := by
  unfold execSensorWord
  try dsimp only
  with_reducible repeat' first
    | assumption | apply good_wordRun | apply GoodOut.next | exact GoodOut.fault | split
    | (simp only [good_mk]; apply Good.parts)

theorem good_execRingEntryWrite {a : State} (p : Fin 24) (s : State) (h : Good a s) : GoodOut a (execRingEntryWrite p
    s) := by
  unfold execRingEntryWrite
  try dsimp only
  with_reducible repeat' first
    | assumption | apply good_setSns | apply GoodOut.next | exact GoodOut.fault | split
    | (simp only [good_mk]; apply Good.parts)

theorem good_clkLossRun {a : State} (p : Fin 24) (s : State) (h : Good a s) : Good a (clkLossRun p s) := by
  unfold clkLossRun
  try dsimp only
  with_reducible repeat' first
    | assumption | apply good_post | apply good_bumpSns | apply good_setSns | (intro _ _ _; try dsimp only)
    | split | (simp only [good_mk]; apply Good.parts)

theorem good_execSnsClkLoss {a : State} (p : Fin 24) (s : State) (h : Good a s) : GoodOut a (execSnsClkLoss p s) := by
  unfold execSnsClkLoss
  try dsimp only
  with_reducible repeat' first
    | assumption | apply good_clkLossRun | apply GoodOut.next | exact GoodOut.fault | split
    | (simp only [good_mk]; apply Good.parts)

theorem good_execClkPresent {a : State} (p : Fin 24) (s : State) (h : Good a s) : GoodOut a (execClkPresent p s) := by
  unfold execClkPresent
  try dsimp only
  with_reducible repeat' first
    | assumption | apply good_setSns | apply GoodOut.next | exact GoodOut.fault | (intro _ _ _; try dsimp only)
    | split | (simp only [good_mk]; apply Good.parts)

/-! ### Machine/Dispatch.lean -/

theorem good_exec {a : State} (i : Instr) (s : State) (h : Good a s) : GoodOut a (exec i s) := by
  unfold exec
  try dsimp only
  repeat' first
    | with_reducible assumption
    | with_reducible apply good_execCmdDoorbell
    | with_reducible apply good_execHifResAck
    | with_reducible apply good_execUnknownOpcode
    | with_reducible apply good_execSetPower
    | with_reducible apply good_execSetPerf
    | with_reducible apply good_execImageOpen
    | with_reducible apply good_execImageWrite
    | with_reducible apply good_execImageCommit
    | with_reducible apply good_execImageSelect
    | with_reducible apply good_execJobStart
    | with_reducible apply good_execJobStartRestore
    | with_reducible apply good_execJobStop
    | with_reducible apply good_execSnapshot
    | with_reducible apply good_execReplay
    | with_reducible apply good_execSelftest
    | with_reducible apply good_execRetrain
    | with_reducible apply good_execAttest
    | with_reducible apply good_execKeyRelease
    | with_reducible apply good_execContainerChunk
    | with_reducible apply good_execKeyUpdate
    | with_reducible apply good_execTenantEnd
    | with_reducible apply good_execFlashUnlock
    | with_reducible apply good_execFlashLockClose
    | with_reducible apply good_execFlashLockSetPasswordLocked
    | with_reducible apply good_execFlashLockSetPermanent
    | with_reducible apply good_execFlashLockSetUnlocked
    | with_reducible apply good_execFlashLockSetPassword
    | with_reducible apply good_execPerstN
    | with_reducible apply good_execMgmtSessionOpen
    | with_reducible apply good_execMgmtSessionIdleTimeout
    | with_reducible apply good_execMgmtSessionClose
    | with_reducible apply good_execTelemetryStream
    | with_reducible apply good_execLogRead
    | with_reducible apply good_execDebugOpen
    | with_reducible apply good_execDebugClose
    | with_reducible apply good_execFwUpdate
    | with_reducible apply good_execCredUpdate
    | with_reducible apply good_execCertUpdate
    | with_reducible apply good_execCommission
    | with_reducible apply good_execUserFile
    | with_reducible apply good_execRngCapture
    | with_reducible apply good_execKeyProvision
    | with_reducible apply good_execPowerSet
    | with_reducible apply good_execPowerGet
    | with_reducible apply good_execWakeCause
    | with_reducible apply good_execIdent
    | with_reducible apply good_execWakeN
    | with_reducible apply good_execModRstN
    | with_reducible apply good_execSupply12vLoss
    | with_reducible apply good_execSupply12vApplied
    | with_reducible apply good_execAonPor
    | with_reducible apply good_execRailFault
    | with_reducible apply good_execRailPowerGood
    | with_reducible apply good_execRailStepTimeout
    | with_reducible apply good_execQuiesceTimeout
    | with_reducible apply good_execThermalSample
    | with_reducible apply good_execThrottleRelax
    | with_reducible apply good_execThermalShutdown
    | with_reducible apply good_execThermalWakeHoldEnd
    | with_reducible apply good_execWatchdogExpiry
    | with_reducible apply good_execMgmtCoreResume
    | with_reducible apply good_execImageVerifyDone
    | with_reducible apply good_execTrainingDone
    | with_reducible apply good_execParseComplete
    | with_reducible apply good_execBootTimeout
    | with_reducible apply good_execRngWindowDone
    | with_reducible apply good_execRngRctFail
    | with_reducible apply good_execRngAptFail
    | with_reducible apply good_execRngRequestServed
    | with_reducible apply good_execBenchPass
    | with_reducible apply good_execBenchWeightLoad
    | with_reducible apply good_execBenchActivationRead
    | with_reducible apply good_execBenchOutputWrite
    | with_reducible apply good_execBncWaitTimeout
    | with_reducible apply good_execBenchSelftestDone
    | with_reducible apply good_execBncCfgWrite
    | with_reducible apply good_execPlaneArith
    | with_reducible apply good_execPlaneCmpSelect
    | with_reducible apply good_execPlaneConvert
    | with_reducible apply good_execPlaneScalar
    | with_reducible apply good_execPlaneLoad
    | with_reducible apply good_execPlaneStore
    | with_reducible apply good_execPlaneGather
    | with_reducible apply good_execPlaneScatter
    | with_reducible apply good_execScatterAdd
    | with_reducible apply good_execPlaneReduce
    | with_reducible apply good_execAccRead
    | with_reducible apply good_execLatheRequest
    | with_reducible apply good_execLatheGrant
    | with_reducible apply good_execMask
    | with_reducible apply good_execRawWord
    | with_reducible apply good_execUniform
    | with_reducible apply good_execPlaneWait
    | with_reducible apply good_execPlaneSignal
    | with_reducible apply good_execPlnWaitTimeout
    | with_reducible apply good_execSoftmax
    | with_reducible apply good_execNormStats
    | with_reducible apply good_execNormCombine
    | with_reducible apply good_execPlnCfgWrite
    | with_reducible apply good_execPlaneSelftestDone
    | with_reducible apply good_execLatheSelftestDone
    | with_reducible apply good_execJobHoldRelease
    | with_reducible apply good_execStepStart
    | with_reducible apply good_execScheduleEntryStart
    | with_reducible apply good_execInferenceTriggerPeriod
    | with_reducible apply good_execInferenceTriggerRing
    | with_reducible apply good_execInferenceRequestDeferredStart
    | with_reducible apply good_execGradPartialAdd
    | with_reducible apply good_execGlueEnter
    | with_reducible apply good_execClampFactor
    | with_reducible apply good_execOptimizerAdamw
    | with_reducible apply good_execOptimizerSgdm
    | with_reducible apply good_execOptimizerReaderWaitEnd
    | with_reducible apply good_execReadySend
    | with_reducible apply good_execReady
    | with_reducible apply good_execCommit
    | with_reducible apply good_execSnapshotStagingDone
    | with_reducible apply good_execSnapshotExportDone
    | with_reducible apply good_execTrnTelConfigWrite
    | with_reducible apply good_execTrnTelRdWrite
    | with_reducible apply good_execTrnStatFlagsClear
    | with_reducible apply good_execHeartbeat
    | with_reducible apply good_execBeat
    | with_reducible apply good_execHeartbeatDue
    | with_reducible apply good_execBeatDue
    | with_reducible apply good_execHeartbeatMissed
    | with_reducible apply good_execBeatMissed
    | with_reducible apply good_execQuiesceLimitExpiry
    | with_reducible apply good_execAcceptTimeout
    | with_reducible apply good_execStop
    | with_reducible apply good_execAbort
    | with_reducible apply good_execLinkUp
    | with_reducible apply good_execLinkDown
    | with_reducible apply good_execJoin
    | with_reducible apply good_execJoinRefused
    | with_reducible apply good_execJoinRepeat
    | with_reducible apply good_execFormWaitExpiry
    | with_reducible apply good_execPropose
    | with_reducible apply good_execAccept
    | with_reducible apply good_execEnact
    | with_reducible apply good_execLeave
    | with_reducible apply good_execLastCommitted
    | with_reducible apply good_execSnapReq
    | with_reducible apply good_execTime
    | with_reducible apply good_execTimeExchangeDue
    | with_reducible apply good_execRetrainNote
    | with_reducible apply good_execDissolve
    | with_reducible apply good_execReplayReq
    | with_reducible apply good_execReplayResult
    | with_reducible apply good_execRestoreOffer
    | with_reducible apply good_execMessageForward
    | with_reducible apply good_execSignalDetect
    | with_reducible apply good_execTrainTimeout
    | with_reducible apply good_execTrainRetryDue
    | with_reducible apply good_execHello
    | with_reducible apply good_execHelloResendDue
    | with_reducible apply good_execHelloTimeout
    | with_reducible apply good_execKeysOnTimeout
    | with_reducible apply good_execNotAdmittedHelloDue
    | with_reducible apply good_execLinkFlit
    | with_reducible apply good_execQuiesceFlit
    | with_reducible apply good_execLinkFlitDue
    | with_reducible apply good_execRetxTimeout
    | with_reducible apply good_execTagFailLimit
    | with_reducible apply good_execLos
    | with_reducible apply good_execRekeyStart
    | with_reducible apply good_execKeySwitch
    | with_reducible apply good_execRekeyRetryDue
    | with_reducible apply good_execRekeyLate
    | with_reducible apply good_execLinkExhausted
    | with_reducible apply good_execFecErrorBurst
    | with_reducible apply good_execLinkMarginLow
    | with_reducible apply good_execLinkRetrainDone
    | with_reducible apply good_execLinkRetrainTimeout
    | with_reducible apply good_execFabDisable
    | with_reducible apply good_execFabRestart
    | with_reducible apply good_execSendWake
    | with_reducible apply good_execRetrainReq
    | with_reducible apply good_execWakePattern
    | with_reducible apply good_execFabWsCfgWrite
    | with_reducible apply good_execGlue
    | with_reducible apply good_execGlueOut
    | with_reducible apply good_execGlueDirect
    | with_reducible apply good_execGather
    | with_reducible apply good_execTally
    | with_reducible apply good_execNorm
    | with_reducible apply good_execPeerReq
    | with_reducible apply good_execPeerGrant
    | with_reducible apply good_execPeerData
    | with_reducible apply good_execPeerDone
    | with_reducible apply good_execExpDispatch
    | with_reducible apply good_execExpReturn
    | with_reducible apply good_execStateReq
    | with_reducible apply good_execStateData
    | with_reducible apply good_execColTimeout
    | with_reducible apply good_execColCfgWrite
    | with_reducible apply good_execCopy
    | with_reducible apply good_execCopySignal
    | with_reducible apply good_execRingWindow
    | with_reducible apply good_execCopyFree
    | with_reducible apply good_execStkWaitTimeout
    | with_reducible apply good_execPageOut
    | with_reducible apply good_execPageIn
    | with_reducible apply good_execSpillTimeout
    | with_reducible apply good_execPatrolScrub
    | with_reducible apply good_execImbalanceWindow
    | with_reducible apply good_execDramCorrBurst
    | with_reducible apply good_execDramMarginLow
    | with_reducible apply good_execDramRetrainDone
    | with_reducible apply good_execStkCfgWrite
    | with_reducible apply good_execStkSpillWrite
    | with_reducible apply good_execFlashQueueIssue
    | with_reducible apply good_execFlashProgramDone
    | with_reducible apply good_execFlashEraseDone
    | with_reducible apply good_execFrameSync
    | with_reducible apply good_execSensorWord
    | with_reducible apply good_execRingEntryWrite
    | with_reducible apply good_execSnsClkLoss
    | with_reducible apply good_execPpsEdge
    | with_reducible apply good_execTkHoldover
    | with_reducible apply good_execCmpTrip
    | with_reducible apply good_execCmpRelease
    | with_reducible apply good_execAonTimerFire
    | with_reducible apply good_execAonTimerWrite
    | with_reducible apply good_execAonAlarmClear
    | with_reducible apply good_execPwrWakeCauseClear
    | with_reducible apply good_execPeakClr
    | with_reducible apply good_execEphemeralKeyExpiry
    | with_reducible apply good_execEvtRecordFile
    | with_reducible apply good_execEvtRingConfigWrite
    | with_reducible apply good_execEvtRingRdWrite
    | with_reducible apply good_execRegisterWrite
    | with_reducible apply good_execFlitAlignment
    | with_reducible apply good_execPcieLinkUp
    | with_reducible apply good_execMsixUnmask
    | with_reducible apply good_execClkPresent
    | with_reducible apply good_execJtagRecoveryLoad
    | split

end Sys2Proof.Machine
end

