-- ==== Sys2Proof/Laws/State.lean ====
section
/-! SUPPORT. The lemmas of the state's setters: one per field and setter, so that no proof unfolds a record update,
and what a setter gives at the place it names and at any other. -/

namespace Sys2Proof.Machine

@[simp] theorem upd_at {α : Type} {n : Nat} (v : Vector α n) (i : Fin n) (k : Nat) (h : k < n) (f : α → α) :
    (upd v i f)[k] = if k = i then f v[k] else v[k] := by
  by_cases e : k = i
  · subst e; simp [upd]
  · have e2 : (i : Nat) ≠ k := fun x => e x.symm
    simp [upd, e, e2]

theorem upd_same {α : Type} {n : Nat} (v : Vector α n) (i : Fin n) (f : α → α) : (upd v i f)[i] = f v[i] := by
  simp

theorem upd_other {α : Type} {n : Nat} (v : Vector α n) (i k : Fin n) (f : α → α) (h : k ≠ i) :
    (upd v i f)[k] = v[k] := by
  have e : (k : Nat) ≠ i := fun x => h (Fin.ext x)
  simp [e]

@[simp] theorem setBnc_pending (b : Fin 4) (f : Bench → Bench) (s : State) : (setBnc b f s).pending = s.pending := rfl
@[simp] theorem setBnc_free (b : Fin 4) (f : Bench → Bench) (s : State) : (setBnc b f s).free = s.free := rfl
@[simp] theorem setBnc_part (b : Fin 4) (f : Bench → Bench) (s : State) : (setBnc b f s).part = s.part := rfl
@[simp] theorem setBnc_serial (b : Fin 4) (f : Bench → Bench) (s : State) : (setBnc b f s).serial = s.serial := rfl
@[simp] theorem setBnc_glb (b : Fin 4) (f : Bench → Bench) (s : State) : (setBnc b f s).glb = s.glb := rfl
@[simp] theorem setBnc_pwr (b : Fin 4) (f : Bench → Bench) (s : State) : (setBnc b f s).pwr = s.pwr := rfl
@[simp] theorem setBnc_aon (b : Fin 4) (f : Bench → Bench) (s : State) : (setBnc b f s).aon = s.aon := rfl
@[simp] theorem setBnc_evt (b : Fin 4) (f : Bench → Bench) (s : State) : (setBnc b f s).evt = s.evt := rfl
@[simp] theorem setBnc_hif (b : Fin 4) (f : Bench → Bench) (s : State) : (setBnc b f s).hif = s.hif := rfl
@[simp] theorem setBnc_mgmt (b : Fin 4) (f : Bench → Bench) (s : State) : (setBnc b f s).mgmt = s.mgmt := rfl
@[simp] theorem setBnc_sec (b : Fin 4) (f : Bench → Bench) (s : State) : (setBnc b f s).sec = s.sec := rfl
@[simp] theorem setBnc_fls (b : Fin 4) (f : Bench → Bench) (s : State) : (setBnc b f s).fls = s.fls := rfl
@[simp] theorem setBnc_rng (b : Fin 4) (f : Bench → Bench) (s : State) : (setBnc b f s).rng = s.rng := rfl
@[simp] theorem setBnc_stk (b : Fin 4) (f : Bench → Bench) (s : State) : (setBnc b f s).stk = s.stk := rfl
@[simp] theorem setBnc_pln (b : Fin 4) (f : Bench → Bench) (s : State) : (setBnc b f s).pln = s.pln := rfl
@[simp] theorem setBnc_lth (b : Fin 4) (f : Bench → Bench) (s : State) : (setBnc b f s).lth = s.lth := rfl
@[simp] theorem setBnc_trn (b : Fin 4) (f : Bench → Bench) (s : State) : (setBnc b f s).trn = s.trn := rfl
@[simp] theorem setBnc_sq (b : Fin 4) (f : Bench → Bench) (s : State) : (setBnc b f s).sq = s.sq := rfl
@[simp] theorem setBnc_jobs (b : Fin 4) (f : Bench → Bench) (s : State) : (setBnc b f s).jobs = s.jobs := rfl
@[simp] theorem setBnc_links (b : Fin 4) (f : Bench → Bench) (s : State) : (setBnc b f s).links = s.links := rfl
@[simp] theorem setBnc_ws (b : Fin 4) (f : Bench → Bench) (s : State) : (setBnc b f s).ws = s.ws := rfl
@[simp] theorem setBnc_col (b : Fin 4) (f : Bench → Bench) (s : State) : (setBnc b f s).col = s.col := rfl
@[simp] theorem setBnc_sns (b : Fin 4) (f : Bench → Bench) (s : State) : (setBnc b f s).sns = s.sns := rfl
@[simp] theorem setBnc_img (b : Fin 4) (f : Bench → Bench) (s : State) : (setBnc b f s).img = s.img := rfl
@[simp] theorem setBnc_out (b : Fin 4) (f : Bench → Bench) (s : State) : (setBnc b f s).out = s.out := rfl
@[simp] theorem setBnc_bnc (b : Fin 4) (f : Bench → Bench) (s : State) :
    (setBnc b f s).bnc = upd s.bnc b f := rfl

@[simp] theorem setPln_pending (p : Fin 16) (f : Plane → Plane) (s : State) : (setPln p f s).pending = s.pending := rfl
@[simp] theorem setPln_free (p : Fin 16) (f : Plane → Plane) (s : State) : (setPln p f s).free = s.free := rfl
@[simp] theorem setPln_part (p : Fin 16) (f : Plane → Plane) (s : State) : (setPln p f s).part = s.part := rfl
@[simp] theorem setPln_serial (p : Fin 16) (f : Plane → Plane) (s : State) : (setPln p f s).serial = s.serial := rfl
@[simp] theorem setPln_glb (p : Fin 16) (f : Plane → Plane) (s : State) : (setPln p f s).glb = s.glb := rfl
@[simp] theorem setPln_pwr (p : Fin 16) (f : Plane → Plane) (s : State) : (setPln p f s).pwr = s.pwr := rfl
@[simp] theorem setPln_aon (p : Fin 16) (f : Plane → Plane) (s : State) : (setPln p f s).aon = s.aon := rfl
@[simp] theorem setPln_evt (p : Fin 16) (f : Plane → Plane) (s : State) : (setPln p f s).evt = s.evt := rfl
@[simp] theorem setPln_hif (p : Fin 16) (f : Plane → Plane) (s : State) : (setPln p f s).hif = s.hif := rfl
@[simp] theorem setPln_mgmt (p : Fin 16) (f : Plane → Plane) (s : State) : (setPln p f s).mgmt = s.mgmt := rfl
@[simp] theorem setPln_sec (p : Fin 16) (f : Plane → Plane) (s : State) : (setPln p f s).sec = s.sec := rfl
@[simp] theorem setPln_fls (p : Fin 16) (f : Plane → Plane) (s : State) : (setPln p f s).fls = s.fls := rfl
@[simp] theorem setPln_rng (p : Fin 16) (f : Plane → Plane) (s : State) : (setPln p f s).rng = s.rng := rfl
@[simp] theorem setPln_stk (p : Fin 16) (f : Plane → Plane) (s : State) : (setPln p f s).stk = s.stk := rfl
@[simp] theorem setPln_bnc (p : Fin 16) (f : Plane → Plane) (s : State) : (setPln p f s).bnc = s.bnc := rfl
@[simp] theorem setPln_lth (p : Fin 16) (f : Plane → Plane) (s : State) : (setPln p f s).lth = s.lth := rfl
@[simp] theorem setPln_trn (p : Fin 16) (f : Plane → Plane) (s : State) : (setPln p f s).trn = s.trn := rfl
@[simp] theorem setPln_sq (p : Fin 16) (f : Plane → Plane) (s : State) : (setPln p f s).sq = s.sq := rfl
@[simp] theorem setPln_jobs (p : Fin 16) (f : Plane → Plane) (s : State) : (setPln p f s).jobs = s.jobs := rfl
@[simp] theorem setPln_links (p : Fin 16) (f : Plane → Plane) (s : State) : (setPln p f s).links = s.links := rfl
@[simp] theorem setPln_ws (p : Fin 16) (f : Plane → Plane) (s : State) : (setPln p f s).ws = s.ws := rfl
@[simp] theorem setPln_col (p : Fin 16) (f : Plane → Plane) (s : State) : (setPln p f s).col = s.col := rfl
@[simp] theorem setPln_sns (p : Fin 16) (f : Plane → Plane) (s : State) : (setPln p f s).sns = s.sns := rfl
@[simp] theorem setPln_img (p : Fin 16) (f : Plane → Plane) (s : State) : (setPln p f s).img = s.img := rfl
@[simp] theorem setPln_out (p : Fin 16) (f : Plane → Plane) (s : State) : (setPln p f s).out = s.out := rfl
@[simp] theorem setPln_pln (p : Fin 16) (f : Plane → Plane) (s : State) :
    (setPln p f s).pln = upd s.pln p f := rfl

@[simp] theorem setLth_pending (l : Fin 4) (f : Lathe → Lathe) (s : State) : (setLth l f s).pending = s.pending := rfl
@[simp] theorem setLth_free (l : Fin 4) (f : Lathe → Lathe) (s : State) : (setLth l f s).free = s.free := rfl
@[simp] theorem setLth_part (l : Fin 4) (f : Lathe → Lathe) (s : State) : (setLth l f s).part = s.part := rfl
@[simp] theorem setLth_serial (l : Fin 4) (f : Lathe → Lathe) (s : State) : (setLth l f s).serial = s.serial := rfl
@[simp] theorem setLth_glb (l : Fin 4) (f : Lathe → Lathe) (s : State) : (setLth l f s).glb = s.glb := rfl
@[simp] theorem setLth_pwr (l : Fin 4) (f : Lathe → Lathe) (s : State) : (setLth l f s).pwr = s.pwr := rfl
@[simp] theorem setLth_aon (l : Fin 4) (f : Lathe → Lathe) (s : State) : (setLth l f s).aon = s.aon := rfl
@[simp] theorem setLth_evt (l : Fin 4) (f : Lathe → Lathe) (s : State) : (setLth l f s).evt = s.evt := rfl
@[simp] theorem setLth_hif (l : Fin 4) (f : Lathe → Lathe) (s : State) : (setLth l f s).hif = s.hif := rfl
@[simp] theorem setLth_mgmt (l : Fin 4) (f : Lathe → Lathe) (s : State) : (setLth l f s).mgmt = s.mgmt := rfl
@[simp] theorem setLth_sec (l : Fin 4) (f : Lathe → Lathe) (s : State) : (setLth l f s).sec = s.sec := rfl
@[simp] theorem setLth_fls (l : Fin 4) (f : Lathe → Lathe) (s : State) : (setLth l f s).fls = s.fls := rfl
@[simp] theorem setLth_rng (l : Fin 4) (f : Lathe → Lathe) (s : State) : (setLth l f s).rng = s.rng := rfl
@[simp] theorem setLth_stk (l : Fin 4) (f : Lathe → Lathe) (s : State) : (setLth l f s).stk = s.stk := rfl
@[simp] theorem setLth_bnc (l : Fin 4) (f : Lathe → Lathe) (s : State) : (setLth l f s).bnc = s.bnc := rfl
@[simp] theorem setLth_pln (l : Fin 4) (f : Lathe → Lathe) (s : State) : (setLth l f s).pln = s.pln := rfl
@[simp] theorem setLth_trn (l : Fin 4) (f : Lathe → Lathe) (s : State) : (setLth l f s).trn = s.trn := rfl
@[simp] theorem setLth_sq (l : Fin 4) (f : Lathe → Lathe) (s : State) : (setLth l f s).sq = s.sq := rfl
@[simp] theorem setLth_jobs (l : Fin 4) (f : Lathe → Lathe) (s : State) : (setLth l f s).jobs = s.jobs := rfl
@[simp] theorem setLth_links (l : Fin 4) (f : Lathe → Lathe) (s : State) : (setLth l f s).links = s.links := rfl
@[simp] theorem setLth_ws (l : Fin 4) (f : Lathe → Lathe) (s : State) : (setLth l f s).ws = s.ws := rfl
@[simp] theorem setLth_col (l : Fin 4) (f : Lathe → Lathe) (s : State) : (setLth l f s).col = s.col := rfl
@[simp] theorem setLth_sns (l : Fin 4) (f : Lathe → Lathe) (s : State) : (setLth l f s).sns = s.sns := rfl
@[simp] theorem setLth_img (l : Fin 4) (f : Lathe → Lathe) (s : State) : (setLth l f s).img = s.img := rfl
@[simp] theorem setLth_out (l : Fin 4) (f : Lathe → Lathe) (s : State) : (setLth l f s).out = s.out := rfl
@[simp] theorem setLth_lth (l : Fin 4) (f : Lathe → Lathe) (s : State) :
    (setLth l f s).lth = upd s.lth l f := rfl

@[simp] theorem setLink_pending (l : Fin 8) (f : Link → Link) (s : State) : (setLink l f s).pending = s.pending := rfl
@[simp] theorem setLink_free (l : Fin 8) (f : Link → Link) (s : State) : (setLink l f s).free = s.free := rfl
@[simp] theorem setLink_part (l : Fin 8) (f : Link → Link) (s : State) : (setLink l f s).part = s.part := rfl
@[simp] theorem setLink_serial (l : Fin 8) (f : Link → Link) (s : State) : (setLink l f s).serial = s.serial := rfl
@[simp] theorem setLink_glb (l : Fin 8) (f : Link → Link) (s : State) : (setLink l f s).glb = s.glb := rfl
@[simp] theorem setLink_pwr (l : Fin 8) (f : Link → Link) (s : State) : (setLink l f s).pwr = s.pwr := rfl
@[simp] theorem setLink_aon (l : Fin 8) (f : Link → Link) (s : State) : (setLink l f s).aon = s.aon := rfl
@[simp] theorem setLink_evt (l : Fin 8) (f : Link → Link) (s : State) : (setLink l f s).evt = s.evt := rfl
@[simp] theorem setLink_hif (l : Fin 8) (f : Link → Link) (s : State) : (setLink l f s).hif = s.hif := rfl
@[simp] theorem setLink_mgmt (l : Fin 8) (f : Link → Link) (s : State) : (setLink l f s).mgmt = s.mgmt := rfl
@[simp] theorem setLink_sec (l : Fin 8) (f : Link → Link) (s : State) : (setLink l f s).sec = s.sec := rfl
@[simp] theorem setLink_fls (l : Fin 8) (f : Link → Link) (s : State) : (setLink l f s).fls = s.fls := rfl
@[simp] theorem setLink_rng (l : Fin 8) (f : Link → Link) (s : State) : (setLink l f s).rng = s.rng := rfl
@[simp] theorem setLink_stk (l : Fin 8) (f : Link → Link) (s : State) : (setLink l f s).stk = s.stk := rfl
@[simp] theorem setLink_bnc (l : Fin 8) (f : Link → Link) (s : State) : (setLink l f s).bnc = s.bnc := rfl
@[simp] theorem setLink_pln (l : Fin 8) (f : Link → Link) (s : State) : (setLink l f s).pln = s.pln := rfl
@[simp] theorem setLink_lth (l : Fin 8) (f : Link → Link) (s : State) : (setLink l f s).lth = s.lth := rfl
@[simp] theorem setLink_trn (l : Fin 8) (f : Link → Link) (s : State) : (setLink l f s).trn = s.trn := rfl
@[simp] theorem setLink_sq (l : Fin 8) (f : Link → Link) (s : State) : (setLink l f s).sq = s.sq := rfl
@[simp] theorem setLink_jobs (l : Fin 8) (f : Link → Link) (s : State) : (setLink l f s).jobs = s.jobs := rfl
@[simp] theorem setLink_ws (l : Fin 8) (f : Link → Link) (s : State) : (setLink l f s).ws = s.ws := rfl
@[simp] theorem setLink_col (l : Fin 8) (f : Link → Link) (s : State) : (setLink l f s).col = s.col := rfl
@[simp] theorem setLink_sns (l : Fin 8) (f : Link → Link) (s : State) : (setLink l f s).sns = s.sns := rfl
@[simp] theorem setLink_img (l : Fin 8) (f : Link → Link) (s : State) : (setLink l f s).img = s.img := rfl
@[simp] theorem setLink_out (l : Fin 8) (f : Link → Link) (s : State) : (setLink l f s).out = s.out := rfl
@[simp] theorem setLink_links (l : Fin 8) (f : Link → Link) (s : State) :
    (setLink l f s).links = upd s.links l f := rfl

@[simp] theorem setSns_pending (p : Fin 24) (f : Port → Port) (s : State) : (setSns p f s).pending = s.pending := rfl
@[simp] theorem setSns_free (p : Fin 24) (f : Port → Port) (s : State) : (setSns p f s).free = s.free := rfl
@[simp] theorem setSns_part (p : Fin 24) (f : Port → Port) (s : State) : (setSns p f s).part = s.part := rfl
@[simp] theorem setSns_serial (p : Fin 24) (f : Port → Port) (s : State) : (setSns p f s).serial = s.serial := rfl
@[simp] theorem setSns_glb (p : Fin 24) (f : Port → Port) (s : State) : (setSns p f s).glb = s.glb := rfl
@[simp] theorem setSns_pwr (p : Fin 24) (f : Port → Port) (s : State) : (setSns p f s).pwr = s.pwr := rfl
@[simp] theorem setSns_aon (p : Fin 24) (f : Port → Port) (s : State) : (setSns p f s).aon = s.aon := rfl
@[simp] theorem setSns_evt (p : Fin 24) (f : Port → Port) (s : State) : (setSns p f s).evt = s.evt := rfl
@[simp] theorem setSns_hif (p : Fin 24) (f : Port → Port) (s : State) : (setSns p f s).hif = s.hif := rfl
@[simp] theorem setSns_mgmt (p : Fin 24) (f : Port → Port) (s : State) : (setSns p f s).mgmt = s.mgmt := rfl
@[simp] theorem setSns_sec (p : Fin 24) (f : Port → Port) (s : State) : (setSns p f s).sec = s.sec := rfl
@[simp] theorem setSns_fls (p : Fin 24) (f : Port → Port) (s : State) : (setSns p f s).fls = s.fls := rfl
@[simp] theorem setSns_rng (p : Fin 24) (f : Port → Port) (s : State) : (setSns p f s).rng = s.rng := rfl
@[simp] theorem setSns_stk (p : Fin 24) (f : Port → Port) (s : State) : (setSns p f s).stk = s.stk := rfl
@[simp] theorem setSns_bnc (p : Fin 24) (f : Port → Port) (s : State) : (setSns p f s).bnc = s.bnc := rfl
@[simp] theorem setSns_pln (p : Fin 24) (f : Port → Port) (s : State) : (setSns p f s).pln = s.pln := rfl
@[simp] theorem setSns_lth (p : Fin 24) (f : Port → Port) (s : State) : (setSns p f s).lth = s.lth := rfl
@[simp] theorem setSns_trn (p : Fin 24) (f : Port → Port) (s : State) : (setSns p f s).trn = s.trn := rfl
@[simp] theorem setSns_sq (p : Fin 24) (f : Port → Port) (s : State) : (setSns p f s).sq = s.sq := rfl
@[simp] theorem setSns_jobs (p : Fin 24) (f : Port → Port) (s : State) : (setSns p f s).jobs = s.jobs := rfl
@[simp] theorem setSns_links (p : Fin 24) (f : Port → Port) (s : State) : (setSns p f s).links = s.links := rfl
@[simp] theorem setSns_ws (p : Fin 24) (f : Port → Port) (s : State) : (setSns p f s).ws = s.ws := rfl
@[simp] theorem setSns_col (p : Fin 24) (f : Port → Port) (s : State) : (setSns p f s).col = s.col := rfl
@[simp] theorem setSns_img (p : Fin 24) (f : Port → Port) (s : State) : (setSns p f s).img = s.img := rfl
@[simp] theorem setSns_out (p : Fin 24) (f : Port → Port) (s : State) : (setSns p f s).out = s.out := rfl
@[simp] theorem setSns_sns (p : Fin 24) (f : Port → Port) (s : State) :
    (setSns p f s).sns = upd s.sns p f := rfl

@[simp] theorem setJob_pending (j : Fin 4) (f : Job → Job) (s : State) : (setJob j f s).pending = s.pending := rfl
@[simp] theorem setJob_free (j : Fin 4) (f : Job → Job) (s : State) : (setJob j f s).free = s.free := rfl
@[simp] theorem setJob_part (j : Fin 4) (f : Job → Job) (s : State) : (setJob j f s).part = s.part := rfl
@[simp] theorem setJob_serial (j : Fin 4) (f : Job → Job) (s : State) : (setJob j f s).serial = s.serial := rfl
@[simp] theorem setJob_glb (j : Fin 4) (f : Job → Job) (s : State) : (setJob j f s).glb = s.glb := rfl
@[simp] theorem setJob_pwr (j : Fin 4) (f : Job → Job) (s : State) : (setJob j f s).pwr = s.pwr := rfl
@[simp] theorem setJob_aon (j : Fin 4) (f : Job → Job) (s : State) : (setJob j f s).aon = s.aon := rfl
@[simp] theorem setJob_evt (j : Fin 4) (f : Job → Job) (s : State) : (setJob j f s).evt = s.evt := rfl
@[simp] theorem setJob_hif (j : Fin 4) (f : Job → Job) (s : State) : (setJob j f s).hif = s.hif := rfl
@[simp] theorem setJob_mgmt (j : Fin 4) (f : Job → Job) (s : State) : (setJob j f s).mgmt = s.mgmt := rfl
@[simp] theorem setJob_sec (j : Fin 4) (f : Job → Job) (s : State) : (setJob j f s).sec = s.sec := rfl
@[simp] theorem setJob_fls (j : Fin 4) (f : Job → Job) (s : State) : (setJob j f s).fls = s.fls := rfl
@[simp] theorem setJob_rng (j : Fin 4) (f : Job → Job) (s : State) : (setJob j f s).rng = s.rng := rfl
@[simp] theorem setJob_stk (j : Fin 4) (f : Job → Job) (s : State) : (setJob j f s).stk = s.stk := rfl
@[simp] theorem setJob_bnc (j : Fin 4) (f : Job → Job) (s : State) : (setJob j f s).bnc = s.bnc := rfl
@[simp] theorem setJob_pln (j : Fin 4) (f : Job → Job) (s : State) : (setJob j f s).pln = s.pln := rfl
@[simp] theorem setJob_lth (j : Fin 4) (f : Job → Job) (s : State) : (setJob j f s).lth = s.lth := rfl
@[simp] theorem setJob_trn (j : Fin 4) (f : Job → Job) (s : State) : (setJob j f s).trn = s.trn := rfl
@[simp] theorem setJob_sq (j : Fin 4) (f : Job → Job) (s : State) : (setJob j f s).sq = s.sq := rfl
@[simp] theorem setJob_links (j : Fin 4) (f : Job → Job) (s : State) : (setJob j f s).links = s.links := rfl
@[simp] theorem setJob_ws (j : Fin 4) (f : Job → Job) (s : State) : (setJob j f s).ws = s.ws := rfl
@[simp] theorem setJob_col (j : Fin 4) (f : Job → Job) (s : State) : (setJob j f s).col = s.col := rfl
@[simp] theorem setJob_sns (j : Fin 4) (f : Job → Job) (s : State) : (setJob j f s).sns = s.sns := rfl
@[simp] theorem setJob_img (j : Fin 4) (f : Job → Job) (s : State) : (setJob j f s).img = s.img := rfl
@[simp] theorem setJob_out (j : Fin 4) (f : Job → Job) (s : State) : (setJob j f s).out = s.out := rfl
@[simp] theorem setJob_jobs (j : Fin 4) (f : Job → Job) (s : State) :
    (setJob j f s).jobs = upd s.jobs j (fun o => o.map f) := rfl

@[simp] theorem setEng_pending (e : Fin 8) (f : Engine → Engine) (s : State) : (setEng e f s).pending = s.pending := rfl
@[simp] theorem setEng_free (e : Fin 8) (f : Engine → Engine) (s : State) : (setEng e f s).free = s.free := rfl
@[simp] theorem setEng_part (e : Fin 8) (f : Engine → Engine) (s : State) : (setEng e f s).part = s.part := rfl
@[simp] theorem setEng_serial (e : Fin 8) (f : Engine → Engine) (s : State) : (setEng e f s).serial = s.serial := rfl
@[simp] theorem setEng_glb (e : Fin 8) (f : Engine → Engine) (s : State) : (setEng e f s).glb = s.glb := rfl
@[simp] theorem setEng_pwr (e : Fin 8) (f : Engine → Engine) (s : State) : (setEng e f s).pwr = s.pwr := rfl
@[simp] theorem setEng_aon (e : Fin 8) (f : Engine → Engine) (s : State) : (setEng e f s).aon = s.aon := rfl
@[simp] theorem setEng_evt (e : Fin 8) (f : Engine → Engine) (s : State) : (setEng e f s).evt = s.evt := rfl
@[simp] theorem setEng_hif (e : Fin 8) (f : Engine → Engine) (s : State) : (setEng e f s).hif = s.hif := rfl
@[simp] theorem setEng_mgmt (e : Fin 8) (f : Engine → Engine) (s : State) : (setEng e f s).mgmt = s.mgmt := rfl
@[simp] theorem setEng_sec (e : Fin 8) (f : Engine → Engine) (s : State) : (setEng e f s).sec = s.sec := rfl
@[simp] theorem setEng_fls (e : Fin 8) (f : Engine → Engine) (s : State) : (setEng e f s).fls = s.fls := rfl
@[simp] theorem setEng_rng (e : Fin 8) (f : Engine → Engine) (s : State) : (setEng e f s).rng = s.rng := rfl
@[simp] theorem setEng_bnc (e : Fin 8) (f : Engine → Engine) (s : State) : (setEng e f s).bnc = s.bnc := rfl
@[simp] theorem setEng_pln (e : Fin 8) (f : Engine → Engine) (s : State) : (setEng e f s).pln = s.pln := rfl
@[simp] theorem setEng_lth (e : Fin 8) (f : Engine → Engine) (s : State) : (setEng e f s).lth = s.lth := rfl
@[simp] theorem setEng_trn (e : Fin 8) (f : Engine → Engine) (s : State) : (setEng e f s).trn = s.trn := rfl
@[simp] theorem setEng_sq (e : Fin 8) (f : Engine → Engine) (s : State) : (setEng e f s).sq = s.sq := rfl
@[simp] theorem setEng_jobs (e : Fin 8) (f : Engine → Engine) (s : State) : (setEng e f s).jobs = s.jobs := rfl
@[simp] theorem setEng_links (e : Fin 8) (f : Engine → Engine) (s : State) : (setEng e f s).links = s.links := rfl
@[simp] theorem setEng_ws (e : Fin 8) (f : Engine → Engine) (s : State) : (setEng e f s).ws = s.ws := rfl
@[simp] theorem setEng_col (e : Fin 8) (f : Engine → Engine) (s : State) : (setEng e f s).col = s.col := rfl
@[simp] theorem setEng_sns (e : Fin 8) (f : Engine → Engine) (s : State) : (setEng e f s).sns = s.sns := rfl
@[simp] theorem setEng_img (e : Fin 8) (f : Engine → Engine) (s : State) : (setEng e f s).img = s.img := rfl
@[simp] theorem setEng_out (e : Fin 8) (f : Engine → Engine) (s : State) : (setEng e f s).out = s.out := rfl
@[simp] theorem setEng_stk_mem (e : Fin 8) (f : Engine → Engine) (s : State) :
    (setEng e f s).stk.mem = s.stk.mem := rfl
@[simp] theorem setEng_stk_handles (e : Fin 8) (f : Engine → Engine) (s : State) :
    (setEng e f s).stk.handles = s.stk.handles := rfl
@[simp] theorem setEng_stk_bytes (e : Fin 8) (f : Engine → Engine) (s : State) :
    (setEng e f s).stk.bytes = s.stk.bytes := rfl
@[simp] theorem setEng_stk_xts (e : Fin 8) (f : Engine → Engine) (s : State) :
    (setEng e f s).stk.xts = s.stk.xts := rfl
@[simp] theorem setEng_stk_salt (e : Fin 8) (f : Engine → Engine) (s : State) :
    (setEng e f s).stk.salt = s.stk.salt := rfl
@[simp] theorem setEng_stk_spillKey (e : Fin 8) (f : Engine → Engine) (s : State) :
    (setEng e f s).stk.spillKey = s.stk.spillKey := rfl
@[simp] theorem setEng_stk_spillCounter (e : Fin 8) (f : Engine → Engine) (s : State) :
    (setEng e f s).stk.spillCounter = s.stk.spillCounter := rfl
@[simp] theorem setEng_stk_spills (e : Fin 8) (f : Engine → Engine) (s : State) :
    (setEng e f s).stk.spills = s.stk.spills := rfl
@[simp] theorem setEng_stk_hostOut (e : Fin 8) (f : Engine → Engine) (s : State) :
    (setEng e f s).stk.hostOut = s.stk.hostOut := rfl
@[simp] theorem setEng_stk_tc (e : Fin 8) (f : Engine → Engine) (s : State) :
    (setEng e f s).stk.tc = s.stk.tc := rfl
@[simp] theorem setEng_stk_clock (e : Fin 8) (f : Engine → Engine) (s : State) :
    (setEng e f s).stk.clock = s.stk.clock := rfl
@[simp] theorem setEng_stk_winReq (e : Fin 8) (f : Engine → Engine) (s : State) :
    (setEng e f s).stk.winReq = s.stk.winReq := rfl
@[simp] theorem setEng_stk_runReq (e : Fin 8) (f : Engine → Engine) (s : State) :
    (setEng e f s).stk.runReq = s.stk.runReq := rfl
@[simp] theorem setEng_stk_hot (e : Fin 8) (f : Engine → Engine) (s : State) :
    (setEng e f s).stk.hot = s.stk.hot := rfl
@[simp] theorem setEng_stk_base (e : Fin 8) (f : Engine → Engine) (s : State) :
    (setEng e f s).stk.base = s.stk.base := rfl
@[simp] theorem setEng_stk_slots (e : Fin 8) (f : Engine → Engine) (s : State) :
    (setEng e f s).stk.slots = s.stk.slots := rfl
@[simp] theorem setEng_stk_cfg (e : Fin 8) (f : Engine → Engine) (s : State) :
    (setEng e f s).stk.cfg = s.stk.cfg := rfl
@[simp] theorem setEng_stk_fault (e : Fin 8) (f : Engine → Engine) (s : State) :
    (setEng e f s).stk.fault = s.stk.fault := rfl
@[simp] theorem setEng_stk_faultInfo (e : Fin 8) (f : Engine → Engine) (s : State) :
    (setEng e f s).stk.faultInfo = s.stk.faultInfo := rfl
@[simp] theorem setEng_stk_faultAddr (e : Fin 8) (f : Engine → Engine) (s : State) :
    (setEng e f s).stk.faultAddr = s.stk.faultAddr := rfl
@[simp] theorem setEng_stk_view (e : Fin 8) (f : Engine → Engine) (s : State) :
    (setEng e f s).stk.view = s.stk.view := rfl
@[simp] theorem setEng_stk_patrol (e : Fin 8) (f : Engine → Engine) (s : State) :
    (setEng e f s).stk.patrol = s.stk.patrol := rfl
@[simp] theorem setEng_stk_paging (e : Fin 8) (f : Engine → Engine) (s : State) :
    (setEng e f s).stk.paging = s.stk.paging := rfl
@[simp] theorem setEng_stk_imbRun (e : Fin 8) (f : Engine → Engine) (s : State) :
    (setEng e f s).stk.imbRun = s.stk.imbRun := rfl
@[simp] theorem setEng_stk_replacePending (e : Fin 8) (f : Engine → Engine) (s : State) :
    (setEng e f s).stk.replacePending = s.stk.replacePending := rfl
@[simp] theorem setEng_stk_chanReq (e : Fin 8) (f : Engine → Engine) (s : State) :
    (setEng e f s).stk.chanReq = s.stk.chanReq := rfl
@[simp] theorem setEng_stk_idle (e : Fin 8) (f : Engine → Engine) (s : State) :
    (setEng e f s).stk.idle = s.stk.idle := rfl
@[simp] theorem setEng_stk_queue (e : Fin 8) (f : Engine → Engine) (s : State) :
    (setEng e f s).stk.queue = s.stk.queue := rfl
@[simp] theorem setEng_stk_ctrs (e : Fin 8) (f : Engine → Engine) (s : State) :
    (setEng e f s).stk.ctrs = s.stk.ctrs := rfl
@[simp] theorem setEng_stk_engines (e : Fin 8) (f : Engine → Engine) (s : State) :
    (setEng e f s).stk.engines = upd s.stk.engines e f := rfl

end Sys2Proof.Machine
end

