-- ==== Sys2Proof/Laws/Ops.lean ====
section
/-! SUPPORT. What the shared operations can do: an event and a counter change the block they name, the collector and
the AON latch, and with the main rails up the latch stays; a result changes the host interface, the management
port and what an event changes. -/

namespace Sys2Proof.Machine

/-- What an event, a counter or a fault bit of a block can change beside the block: the collector, and the AON latch. -/
theorem post_frame (e : Posted) (s : State) :
    post e s = { s with evt := (post e s).evt, aon := (post e s).aon } := by
  unfold post
  split
  · split <;> rfl
  · rfl

/-- With the main rails up, an event changes the collector alone. -/
theorem post_awake (e : Posted) (s : State) (h : awake s = true) : (post e s).aon = s.aon := by
  unfold post
  rw [if_pos h]
  split <;> rfl

theorem postIf_awake (b : Bool) (e : Posted) (s : State) (h : awake s = true) : (postIf b e s).aon = s.aon := by
  cases b
  · rfl
  · exact post_awake e s h

/-- An event while the collector has room: it is the newest of the queue, stamped, and EVT_POSTED counts it (R496). -/
theorem post_room (e : Posted) (s : State) (h : awake s = true) (hr : s.evt.queue.length < 32) :
    (post e s).evt.queue = s.evt.queue ++ [stamp e s] := by
  unfold post
  rw [if_pos h, if_pos hr]
  rfl

/-- An event that finds the collector's queue full is lost (R496). -/
theorem post_full (e : Posted) (s : State) (h : awake s = true) (hr : ¬ s.evt.queue.length < 32) :
    (post e s).evt.queue = s.evt.queue ∧ (post e s).evt.lostBefore = true := by
  unfold post
  rw [if_pos h, if_neg hr]
  exact ⟨rfl, rfl⟩

/-- An event while the log is unpowered is latched, DEFERRED (R440). -/
theorem post_asleep (e : Posted) (s : State) (h : awake s = false) :
    (post e s).aon.deferred = s.aon.deferred ++ [{ stamp e s with deferred := true }] ∧
      (post e s).evt = s.evt := by
  unfold post
  rw [if_neg (by simp [h])]
  exact ⟨rfl, rfl⟩

theorem fire_frame (v : Fin 4) (s : State) : fire v s = { s with hif := (fire v s).hif } := by
  unfold fire
  split <;> rfl

theorem bumpTrn_frame (j : Fin 4) (i : Fin 6) (n : Nat) (s : State) :
    bumpTrn j i n s = { s with jobs := (bumpTrn j i n s).jobs, evt := (bumpTrn j i n s).evt, aon := (bumpTrn j i n s).aon } := by
  unfold bumpTrn
  split <;> rfl

theorem bumpSeq_frame (j : Fin 4) (i : Fin 4) (n : Nat) (s : State) :
    bumpSeq j i n s = { s with jobs := (bumpSeq j i n s).jobs, evt := (bumpSeq j i n s).evt, aon := (bumpSeq j i n s).aon } := by
  unfold bumpSeq
  split <;> rfl

theorem bumpHif_frame (i : Fin 4) (n : Nat) (s : State) :
    bumpHif i n s = { s with hif := (bumpHif i n s).hif, evt := (bumpHif i n s).evt, aon := (bumpHif i n s).aon } := rfl

theorem putResult_frame (r : Result) (s : State) :
    putResult r s = { s with hif := (putResult r s).hif, evt := (putResult r s).evt, aon := (putResult r s).aon } := by
  unfold putResult
  split
  · rw [fire_frame]
  · split
    · rfl
    · rw [post_frame, bumpHif_frame]
      rfl

theorem answer_frame (p : Pend) (st : Byte) (fin : Bool) (a b c d : Word) (s : State) :
    answer p st fin a b c d s = { s with
      hif := (answer p st fin a b c d s).hif
      mgmt := (answer p st fin a b c d s).mgmt
      evt := (answer p st fin a b c d s).evt
      aon := (answer p st fin a b c d s).aon } := by
  unfold answer
  split
  · split
    · rw [putResult_frame]
      split <;> rfl
    · rfl
  · split <;> rfl

theorem endWith_frame (p : Pend) (st : Byte) (s : State) :
    endWith p st s = { s with
      hif := (endWith p st s).hif
      mgmt := (endWith p st s).mgmt
      evt := (endWith p st s).evt
      aon := (endWith p st s).aon } := answer_frame ..

theorem startPending_frame (p : Pend) (s : State) :
    startPending p s = { s with
      hif := (startPending p s).hif
      mgmt := (startPending p s).mgmt
      evt := (startPending p s).evt
      aon := (startPending p s).aon } := answer_frame ..

theorem endOpt_frame (p : Option Pend) (st : Byte) (s : State) :
    endOpt p st s = { s with
      hif := (endOpt p st s).hif
      mgmt := (endOpt p st s).mgmt
      evt := (endOpt p st s).evt
      aon := (endOpt p st s).aon } := by
  cases p
  · rfl
  · exact endWith_frame ..


@[simp] theorem bumpEvt_pending (i : Fin 3) (n : Nat) (s : State) : (bumpEvt i n s).pending = s.pending := rfl
@[simp] theorem bumpEvt_free (i : Fin 3) (n : Nat) (s : State) : (bumpEvt i n s).free = s.free := rfl
@[simp] theorem bumpEvt_part (i : Fin 3) (n : Nat) (s : State) : (bumpEvt i n s).part = s.part := rfl
@[simp] theorem bumpEvt_serial (i : Fin 3) (n : Nat) (s : State) : (bumpEvt i n s).serial = s.serial := rfl
@[simp] theorem bumpEvt_glb (i : Fin 3) (n : Nat) (s : State) : (bumpEvt i n s).glb = s.glb := rfl
@[simp] theorem bumpEvt_pwr (i : Fin 3) (n : Nat) (s : State) : (bumpEvt i n s).pwr = s.pwr := rfl
@[simp] theorem bumpEvt_aon (i : Fin 3) (n : Nat) (s : State) : (bumpEvt i n s).aon = s.aon := rfl
@[simp] theorem bumpEvt_hif (i : Fin 3) (n : Nat) (s : State) : (bumpEvt i n s).hif = s.hif := rfl
@[simp] theorem bumpEvt_mgmt (i : Fin 3) (n : Nat) (s : State) : (bumpEvt i n s).mgmt = s.mgmt := rfl
@[simp] theorem bumpEvt_sec (i : Fin 3) (n : Nat) (s : State) : (bumpEvt i n s).sec = s.sec := rfl
@[simp] theorem bumpEvt_fls (i : Fin 3) (n : Nat) (s : State) : (bumpEvt i n s).fls = s.fls := rfl
@[simp] theorem bumpEvt_rng (i : Fin 3) (n : Nat) (s : State) : (bumpEvt i n s).rng = s.rng := rfl
@[simp] theorem bumpEvt_stk (i : Fin 3) (n : Nat) (s : State) : (bumpEvt i n s).stk = s.stk := rfl
@[simp] theorem bumpEvt_bnc (i : Fin 3) (n : Nat) (s : State) : (bumpEvt i n s).bnc = s.bnc := rfl
@[simp] theorem bumpEvt_pln (i : Fin 3) (n : Nat) (s : State) : (bumpEvt i n s).pln = s.pln := rfl
@[simp] theorem bumpEvt_lth (i : Fin 3) (n : Nat) (s : State) : (bumpEvt i n s).lth = s.lth := rfl
@[simp] theorem bumpEvt_trn (i : Fin 3) (n : Nat) (s : State) : (bumpEvt i n s).trn = s.trn := rfl
@[simp] theorem bumpEvt_sq (i : Fin 3) (n : Nat) (s : State) : (bumpEvt i n s).sq = s.sq := rfl
@[simp] theorem bumpEvt_jobs (i : Fin 3) (n : Nat) (s : State) : (bumpEvt i n s).jobs = s.jobs := rfl
@[simp] theorem bumpEvt_links (i : Fin 3) (n : Nat) (s : State) : (bumpEvt i n s).links = s.links := rfl
@[simp] theorem bumpEvt_ws (i : Fin 3) (n : Nat) (s : State) : (bumpEvt i n s).ws = s.ws := rfl
@[simp] theorem bumpEvt_col (i : Fin 3) (n : Nat) (s : State) : (bumpEvt i n s).col = s.col := rfl
@[simp] theorem bumpEvt_sns (i : Fin 3) (n : Nat) (s : State) : (bumpEvt i n s).sns = s.sns := rfl
@[simp] theorem bumpEvt_img (i : Fin 3) (n : Nat) (s : State) : (bumpEvt i n s).img = s.img := rfl
@[simp] theorem bumpEvt_out (i : Fin 3) (n : Nat) (s : State) : (bumpEvt i n s).out = s.out := rfl

@[simp] theorem post_pending (e : Posted) (s : State) : (post e s).pending = s.pending := by rw [post_frame]
@[simp] theorem post_free (e : Posted) (s : State) : (post e s).free = s.free := by rw [post_frame]
@[simp] theorem post_part (e : Posted) (s : State) : (post e s).part = s.part := by rw [post_frame]
@[simp] theorem post_serial (e : Posted) (s : State) : (post e s).serial = s.serial := by rw [post_frame]
@[simp] theorem post_glb (e : Posted) (s : State) : (post e s).glb = s.glb := by rw [post_frame]
@[simp] theorem post_pwr (e : Posted) (s : State) : (post e s).pwr = s.pwr := by rw [post_frame]
@[simp] theorem post_hif (e : Posted) (s : State) : (post e s).hif = s.hif := by rw [post_frame]
@[simp] theorem post_mgmt (e : Posted) (s : State) : (post e s).mgmt = s.mgmt := by rw [post_frame]
@[simp] theorem post_sec (e : Posted) (s : State) : (post e s).sec = s.sec := by rw [post_frame]
@[simp] theorem post_fls (e : Posted) (s : State) : (post e s).fls = s.fls := by rw [post_frame]
@[simp] theorem post_rng (e : Posted) (s : State) : (post e s).rng = s.rng := by rw [post_frame]
@[simp] theorem post_stk (e : Posted) (s : State) : (post e s).stk = s.stk := by rw [post_frame]
@[simp] theorem post_bnc (e : Posted) (s : State) : (post e s).bnc = s.bnc := by rw [post_frame]
@[simp] theorem post_pln (e : Posted) (s : State) : (post e s).pln = s.pln := by rw [post_frame]
@[simp] theorem post_lth (e : Posted) (s : State) : (post e s).lth = s.lth := by rw [post_frame]
@[simp] theorem post_trn (e : Posted) (s : State) : (post e s).trn = s.trn := by rw [post_frame]
@[simp] theorem post_sq (e : Posted) (s : State) : (post e s).sq = s.sq := by rw [post_frame]
@[simp] theorem post_jobs (e : Posted) (s : State) : (post e s).jobs = s.jobs := by rw [post_frame]
@[simp] theorem post_links (e : Posted) (s : State) : (post e s).links = s.links := by rw [post_frame]
@[simp] theorem post_ws (e : Posted) (s : State) : (post e s).ws = s.ws := by rw [post_frame]
@[simp] theorem post_col (e : Posted) (s : State) : (post e s).col = s.col := by rw [post_frame]
@[simp] theorem post_sns (e : Posted) (s : State) : (post e s).sns = s.sns := by rw [post_frame]
@[simp] theorem post_img (e : Posted) (s : State) : (post e s).img = s.img := by rw [post_frame]
@[simp] theorem post_out (e : Posted) (s : State) : (post e s).out = s.out := by rw [post_frame]

@[simp] theorem postIf_pending (b : Bool) (e : Posted) (s : State) : (postIf b e s).pending = s.pending := rfl
@[simp] theorem postIf_free (b : Bool) (e : Posted) (s : State) : (postIf b e s).free = s.free := rfl
@[simp] theorem postIf_part (b : Bool) (e : Posted) (s : State) : (postIf b e s).part = s.part := rfl
@[simp] theorem postIf_serial (b : Bool) (e : Posted) (s : State) : (postIf b e s).serial = s.serial := rfl
@[simp] theorem postIf_glb (b : Bool) (e : Posted) (s : State) : (postIf b e s).glb = s.glb := rfl
@[simp] theorem postIf_pwr (b : Bool) (e : Posted) (s : State) : (postIf b e s).pwr = s.pwr := rfl
@[simp] theorem postIf_hif (b : Bool) (e : Posted) (s : State) : (postIf b e s).hif = s.hif := rfl
@[simp] theorem postIf_mgmt (b : Bool) (e : Posted) (s : State) : (postIf b e s).mgmt = s.mgmt := rfl
@[simp] theorem postIf_sec (b : Bool) (e : Posted) (s : State) : (postIf b e s).sec = s.sec := rfl
@[simp] theorem postIf_fls (b : Bool) (e : Posted) (s : State) : (postIf b e s).fls = s.fls := rfl
@[simp] theorem postIf_rng (b : Bool) (e : Posted) (s : State) : (postIf b e s).rng = s.rng := rfl
@[simp] theorem postIf_stk (b : Bool) (e : Posted) (s : State) : (postIf b e s).stk = s.stk := rfl
@[simp] theorem postIf_bnc (b : Bool) (e : Posted) (s : State) : (postIf b e s).bnc = s.bnc := rfl
@[simp] theorem postIf_pln (b : Bool) (e : Posted) (s : State) : (postIf b e s).pln = s.pln := rfl
@[simp] theorem postIf_lth (b : Bool) (e : Posted) (s : State) : (postIf b e s).lth = s.lth := rfl
@[simp] theorem postIf_trn (b : Bool) (e : Posted) (s : State) : (postIf b e s).trn = s.trn := rfl
@[simp] theorem postIf_sq (b : Bool) (e : Posted) (s : State) : (postIf b e s).sq = s.sq := rfl
@[simp] theorem postIf_jobs (b : Bool) (e : Posted) (s : State) : (postIf b e s).jobs = s.jobs := rfl
@[simp] theorem postIf_links (b : Bool) (e : Posted) (s : State) : (postIf b e s).links = s.links := rfl
@[simp] theorem postIf_ws (b : Bool) (e : Posted) (s : State) : (postIf b e s).ws = s.ws := rfl
@[simp] theorem postIf_col (b : Bool) (e : Posted) (s : State) : (postIf b e s).col = s.col := rfl
@[simp] theorem postIf_sns (b : Bool) (e : Posted) (s : State) : (postIf b e s).sns = s.sns := rfl
@[simp] theorem postIf_img (b : Bool) (e : Posted) (s : State) : (postIf b e s).img = s.img := rfl
@[simp] theorem postIf_out (b : Bool) (e : Posted) (s : State) : (postIf b e s).out = s.out := rfl

@[simp] theorem bumpPwr_pending (i : Fin 6) (n : Nat) (s : State) : (bumpPwr i n s).pending = s.pending := rfl
@[simp] theorem bumpPwr_free (i : Fin 6) (n : Nat) (s : State) : (bumpPwr i n s).free = s.free := rfl
@[simp] theorem bumpPwr_part (i : Fin 6) (n : Nat) (s : State) : (bumpPwr i n s).part = s.part := rfl
@[simp] theorem bumpPwr_serial (i : Fin 6) (n : Nat) (s : State) : (bumpPwr i n s).serial = s.serial := rfl
@[simp] theorem bumpPwr_glb (i : Fin 6) (n : Nat) (s : State) : (bumpPwr i n s).glb = s.glb := rfl
@[simp] theorem bumpPwr_hif (i : Fin 6) (n : Nat) (s : State) : (bumpPwr i n s).hif = s.hif := rfl
@[simp] theorem bumpPwr_mgmt (i : Fin 6) (n : Nat) (s : State) : (bumpPwr i n s).mgmt = s.mgmt := rfl
@[simp] theorem bumpPwr_sec (i : Fin 6) (n : Nat) (s : State) : (bumpPwr i n s).sec = s.sec := rfl
@[simp] theorem bumpPwr_fls (i : Fin 6) (n : Nat) (s : State) : (bumpPwr i n s).fls = s.fls := rfl
@[simp] theorem bumpPwr_rng (i : Fin 6) (n : Nat) (s : State) : (bumpPwr i n s).rng = s.rng := rfl
@[simp] theorem bumpPwr_stk (i : Fin 6) (n : Nat) (s : State) : (bumpPwr i n s).stk = s.stk := rfl
@[simp] theorem bumpPwr_bnc (i : Fin 6) (n : Nat) (s : State) : (bumpPwr i n s).bnc = s.bnc := rfl
@[simp] theorem bumpPwr_pln (i : Fin 6) (n : Nat) (s : State) : (bumpPwr i n s).pln = s.pln := rfl
@[simp] theorem bumpPwr_lth (i : Fin 6) (n : Nat) (s : State) : (bumpPwr i n s).lth = s.lth := rfl
@[simp] theorem bumpPwr_trn (i : Fin 6) (n : Nat) (s : State) : (bumpPwr i n s).trn = s.trn := rfl
@[simp] theorem bumpPwr_sq (i : Fin 6) (n : Nat) (s : State) : (bumpPwr i n s).sq = s.sq := rfl
@[simp] theorem bumpPwr_jobs (i : Fin 6) (n : Nat) (s : State) : (bumpPwr i n s).jobs = s.jobs := rfl
@[simp] theorem bumpPwr_links (i : Fin 6) (n : Nat) (s : State) : (bumpPwr i n s).links = s.links := rfl
@[simp] theorem bumpPwr_ws (i : Fin 6) (n : Nat) (s : State) : (bumpPwr i n s).ws = s.ws := rfl
@[simp] theorem bumpPwr_col (i : Fin 6) (n : Nat) (s : State) : (bumpPwr i n s).col = s.col := rfl
@[simp] theorem bumpPwr_sns (i : Fin 6) (n : Nat) (s : State) : (bumpPwr i n s).sns = s.sns := rfl
@[simp] theorem bumpPwr_img (i : Fin 6) (n : Nat) (s : State) : (bumpPwr i n s).img = s.img := rfl
@[simp] theorem bumpPwr_out (i : Fin 6) (n : Nat) (s : State) : (bumpPwr i n s).out = s.out := rfl
theorem bumpPwr_awake (i : Fin 6) (n : Nat) (s : State) (h : awake s = true) : (bumpPwr i n s).aon = s.aon :=
  postIf_awake _ _ _ h

@[simp] theorem bumpAon_pending (i : Fin 4) (n : Nat) (s : State) : (bumpAon i n s).pending = s.pending := rfl
@[simp] theorem bumpAon_free (i : Fin 4) (n : Nat) (s : State) : (bumpAon i n s).free = s.free := rfl
@[simp] theorem bumpAon_part (i : Fin 4) (n : Nat) (s : State) : (bumpAon i n s).part = s.part := rfl
@[simp] theorem bumpAon_serial (i : Fin 4) (n : Nat) (s : State) : (bumpAon i n s).serial = s.serial := rfl
@[simp] theorem bumpAon_glb (i : Fin 4) (n : Nat) (s : State) : (bumpAon i n s).glb = s.glb := rfl
@[simp] theorem bumpAon_pwr (i : Fin 4) (n : Nat) (s : State) : (bumpAon i n s).pwr = s.pwr := rfl
@[simp] theorem bumpAon_hif (i : Fin 4) (n : Nat) (s : State) : (bumpAon i n s).hif = s.hif := rfl
@[simp] theorem bumpAon_mgmt (i : Fin 4) (n : Nat) (s : State) : (bumpAon i n s).mgmt = s.mgmt := rfl
@[simp] theorem bumpAon_sec (i : Fin 4) (n : Nat) (s : State) : (bumpAon i n s).sec = s.sec := rfl
@[simp] theorem bumpAon_fls (i : Fin 4) (n : Nat) (s : State) : (bumpAon i n s).fls = s.fls := rfl
@[simp] theorem bumpAon_rng (i : Fin 4) (n : Nat) (s : State) : (bumpAon i n s).rng = s.rng := rfl
@[simp] theorem bumpAon_stk (i : Fin 4) (n : Nat) (s : State) : (bumpAon i n s).stk = s.stk := rfl
@[simp] theorem bumpAon_bnc (i : Fin 4) (n : Nat) (s : State) : (bumpAon i n s).bnc = s.bnc := rfl
@[simp] theorem bumpAon_pln (i : Fin 4) (n : Nat) (s : State) : (bumpAon i n s).pln = s.pln := rfl
@[simp] theorem bumpAon_lth (i : Fin 4) (n : Nat) (s : State) : (bumpAon i n s).lth = s.lth := rfl
@[simp] theorem bumpAon_trn (i : Fin 4) (n : Nat) (s : State) : (bumpAon i n s).trn = s.trn := rfl
@[simp] theorem bumpAon_sq (i : Fin 4) (n : Nat) (s : State) : (bumpAon i n s).sq = s.sq := rfl
@[simp] theorem bumpAon_jobs (i : Fin 4) (n : Nat) (s : State) : (bumpAon i n s).jobs = s.jobs := rfl
@[simp] theorem bumpAon_links (i : Fin 4) (n : Nat) (s : State) : (bumpAon i n s).links = s.links := rfl
@[simp] theorem bumpAon_ws (i : Fin 4) (n : Nat) (s : State) : (bumpAon i n s).ws = s.ws := rfl
@[simp] theorem bumpAon_col (i : Fin 4) (n : Nat) (s : State) : (bumpAon i n s).col = s.col := rfl
@[simp] theorem bumpAon_sns (i : Fin 4) (n : Nat) (s : State) : (bumpAon i n s).sns = s.sns := rfl
@[simp] theorem bumpAon_img (i : Fin 4) (n : Nat) (s : State) : (bumpAon i n s).img = s.img := rfl
@[simp] theorem bumpAon_out (i : Fin 4) (n : Nat) (s : State) : (bumpAon i n s).out = s.out := rfl

@[simp] theorem bumpHif_pending (i : Fin 4) (n : Nat) (s : State) : (bumpHif i n s).pending = s.pending := rfl
@[simp] theorem bumpHif_free (i : Fin 4) (n : Nat) (s : State) : (bumpHif i n s).free = s.free := rfl
@[simp] theorem bumpHif_part (i : Fin 4) (n : Nat) (s : State) : (bumpHif i n s).part = s.part := rfl
@[simp] theorem bumpHif_serial (i : Fin 4) (n : Nat) (s : State) : (bumpHif i n s).serial = s.serial := rfl
@[simp] theorem bumpHif_glb (i : Fin 4) (n : Nat) (s : State) : (bumpHif i n s).glb = s.glb := rfl
@[simp] theorem bumpHif_pwr (i : Fin 4) (n : Nat) (s : State) : (bumpHif i n s).pwr = s.pwr := rfl
@[simp] theorem bumpHif_mgmt (i : Fin 4) (n : Nat) (s : State) : (bumpHif i n s).mgmt = s.mgmt := rfl
@[simp] theorem bumpHif_sec (i : Fin 4) (n : Nat) (s : State) : (bumpHif i n s).sec = s.sec := rfl
@[simp] theorem bumpHif_fls (i : Fin 4) (n : Nat) (s : State) : (bumpHif i n s).fls = s.fls := rfl
@[simp] theorem bumpHif_rng (i : Fin 4) (n : Nat) (s : State) : (bumpHif i n s).rng = s.rng := rfl
@[simp] theorem bumpHif_stk (i : Fin 4) (n : Nat) (s : State) : (bumpHif i n s).stk = s.stk := rfl
@[simp] theorem bumpHif_bnc (i : Fin 4) (n : Nat) (s : State) : (bumpHif i n s).bnc = s.bnc := rfl
@[simp] theorem bumpHif_pln (i : Fin 4) (n : Nat) (s : State) : (bumpHif i n s).pln = s.pln := rfl
@[simp] theorem bumpHif_lth (i : Fin 4) (n : Nat) (s : State) : (bumpHif i n s).lth = s.lth := rfl
@[simp] theorem bumpHif_trn (i : Fin 4) (n : Nat) (s : State) : (bumpHif i n s).trn = s.trn := rfl
@[simp] theorem bumpHif_sq (i : Fin 4) (n : Nat) (s : State) : (bumpHif i n s).sq = s.sq := rfl
@[simp] theorem bumpHif_jobs (i : Fin 4) (n : Nat) (s : State) : (bumpHif i n s).jobs = s.jobs := rfl
@[simp] theorem bumpHif_links (i : Fin 4) (n : Nat) (s : State) : (bumpHif i n s).links = s.links := rfl
@[simp] theorem bumpHif_ws (i : Fin 4) (n : Nat) (s : State) : (bumpHif i n s).ws = s.ws := rfl
@[simp] theorem bumpHif_col (i : Fin 4) (n : Nat) (s : State) : (bumpHif i n s).col = s.col := rfl
@[simp] theorem bumpHif_sns (i : Fin 4) (n : Nat) (s : State) : (bumpHif i n s).sns = s.sns := rfl
@[simp] theorem bumpHif_img (i : Fin 4) (n : Nat) (s : State) : (bumpHif i n s).img = s.img := rfl
@[simp] theorem bumpHif_out (i : Fin 4) (n : Nat) (s : State) : (bumpHif i n s).out = s.out := rfl
theorem bumpHif_awake (i : Fin 4) (n : Nat) (s : State) (h : awake s = true) : (bumpHif i n s).aon = s.aon :=
  postIf_awake _ _ _ h

@[simp] theorem bumpSec_pending (i : Fin 5) (n : Nat) (s : State) : (bumpSec i n s).pending = s.pending := rfl
@[simp] theorem bumpSec_free (i : Fin 5) (n : Nat) (s : State) : (bumpSec i n s).free = s.free := rfl
@[simp] theorem bumpSec_part (i : Fin 5) (n : Nat) (s : State) : (bumpSec i n s).part = s.part := rfl
@[simp] theorem bumpSec_serial (i : Fin 5) (n : Nat) (s : State) : (bumpSec i n s).serial = s.serial := rfl
@[simp] theorem bumpSec_glb (i : Fin 5) (n : Nat) (s : State) : (bumpSec i n s).glb = s.glb := rfl
@[simp] theorem bumpSec_pwr (i : Fin 5) (n : Nat) (s : State) : (bumpSec i n s).pwr = s.pwr := rfl
@[simp] theorem bumpSec_hif (i : Fin 5) (n : Nat) (s : State) : (bumpSec i n s).hif = s.hif := rfl
@[simp] theorem bumpSec_mgmt (i : Fin 5) (n : Nat) (s : State) : (bumpSec i n s).mgmt = s.mgmt := rfl
@[simp] theorem bumpSec_fls (i : Fin 5) (n : Nat) (s : State) : (bumpSec i n s).fls = s.fls := rfl
@[simp] theorem bumpSec_rng (i : Fin 5) (n : Nat) (s : State) : (bumpSec i n s).rng = s.rng := rfl
@[simp] theorem bumpSec_stk (i : Fin 5) (n : Nat) (s : State) : (bumpSec i n s).stk = s.stk := rfl
@[simp] theorem bumpSec_bnc (i : Fin 5) (n : Nat) (s : State) : (bumpSec i n s).bnc = s.bnc := rfl
@[simp] theorem bumpSec_pln (i : Fin 5) (n : Nat) (s : State) : (bumpSec i n s).pln = s.pln := rfl
@[simp] theorem bumpSec_lth (i : Fin 5) (n : Nat) (s : State) : (bumpSec i n s).lth = s.lth := rfl
@[simp] theorem bumpSec_trn (i : Fin 5) (n : Nat) (s : State) : (bumpSec i n s).trn = s.trn := rfl
@[simp] theorem bumpSec_sq (i : Fin 5) (n : Nat) (s : State) : (bumpSec i n s).sq = s.sq := rfl
@[simp] theorem bumpSec_jobs (i : Fin 5) (n : Nat) (s : State) : (bumpSec i n s).jobs = s.jobs := rfl
@[simp] theorem bumpSec_links (i : Fin 5) (n : Nat) (s : State) : (bumpSec i n s).links = s.links := rfl
@[simp] theorem bumpSec_ws (i : Fin 5) (n : Nat) (s : State) : (bumpSec i n s).ws = s.ws := rfl
@[simp] theorem bumpSec_col (i : Fin 5) (n : Nat) (s : State) : (bumpSec i n s).col = s.col := rfl
@[simp] theorem bumpSec_sns (i : Fin 5) (n : Nat) (s : State) : (bumpSec i n s).sns = s.sns := rfl
@[simp] theorem bumpSec_img (i : Fin 5) (n : Nat) (s : State) : (bumpSec i n s).img = s.img := rfl
@[simp] theorem bumpSec_out (i : Fin 5) (n : Nat) (s : State) : (bumpSec i n s).out = s.out := rfl
theorem bumpSec_awake (i : Fin 5) (n : Nat) (s : State) (h : awake s = true) : (bumpSec i n s).aon = s.aon :=
  postIf_awake _ _ _ h

@[simp] theorem bumpFls_pending (i : Fin 7) (n : Nat) (s : State) : (bumpFls i n s).pending = s.pending := rfl
@[simp] theorem bumpFls_free (i : Fin 7) (n : Nat) (s : State) : (bumpFls i n s).free = s.free := rfl
@[simp] theorem bumpFls_part (i : Fin 7) (n : Nat) (s : State) : (bumpFls i n s).part = s.part := rfl
@[simp] theorem bumpFls_serial (i : Fin 7) (n : Nat) (s : State) : (bumpFls i n s).serial = s.serial := rfl
@[simp] theorem bumpFls_glb (i : Fin 7) (n : Nat) (s : State) : (bumpFls i n s).glb = s.glb := rfl
@[simp] theorem bumpFls_pwr (i : Fin 7) (n : Nat) (s : State) : (bumpFls i n s).pwr = s.pwr := rfl
@[simp] theorem bumpFls_hif (i : Fin 7) (n : Nat) (s : State) : (bumpFls i n s).hif = s.hif := rfl
@[simp] theorem bumpFls_mgmt (i : Fin 7) (n : Nat) (s : State) : (bumpFls i n s).mgmt = s.mgmt := rfl
@[simp] theorem bumpFls_sec (i : Fin 7) (n : Nat) (s : State) : (bumpFls i n s).sec = s.sec := rfl
@[simp] theorem bumpFls_rng (i : Fin 7) (n : Nat) (s : State) : (bumpFls i n s).rng = s.rng := rfl
@[simp] theorem bumpFls_stk (i : Fin 7) (n : Nat) (s : State) : (bumpFls i n s).stk = s.stk := rfl
@[simp] theorem bumpFls_bnc (i : Fin 7) (n : Nat) (s : State) : (bumpFls i n s).bnc = s.bnc := rfl
@[simp] theorem bumpFls_pln (i : Fin 7) (n : Nat) (s : State) : (bumpFls i n s).pln = s.pln := rfl
@[simp] theorem bumpFls_lth (i : Fin 7) (n : Nat) (s : State) : (bumpFls i n s).lth = s.lth := rfl
@[simp] theorem bumpFls_trn (i : Fin 7) (n : Nat) (s : State) : (bumpFls i n s).trn = s.trn := rfl
@[simp] theorem bumpFls_sq (i : Fin 7) (n : Nat) (s : State) : (bumpFls i n s).sq = s.sq := rfl
@[simp] theorem bumpFls_jobs (i : Fin 7) (n : Nat) (s : State) : (bumpFls i n s).jobs = s.jobs := rfl
@[simp] theorem bumpFls_links (i : Fin 7) (n : Nat) (s : State) : (bumpFls i n s).links = s.links := rfl
@[simp] theorem bumpFls_ws (i : Fin 7) (n : Nat) (s : State) : (bumpFls i n s).ws = s.ws := rfl
@[simp] theorem bumpFls_col (i : Fin 7) (n : Nat) (s : State) : (bumpFls i n s).col = s.col := rfl
@[simp] theorem bumpFls_sns (i : Fin 7) (n : Nat) (s : State) : (bumpFls i n s).sns = s.sns := rfl
@[simp] theorem bumpFls_img (i : Fin 7) (n : Nat) (s : State) : (bumpFls i n s).img = s.img := rfl
@[simp] theorem bumpFls_out (i : Fin 7) (n : Nat) (s : State) : (bumpFls i n s).out = s.out := rfl
theorem bumpFls_awake (i : Fin 7) (n : Nat) (s : State) (h : awake s = true) : (bumpFls i n s).aon = s.aon :=
  postIf_awake _ _ _ h

@[simp] theorem bumpRng_pending (i : Fin 3) (n : Nat) (s : State) : (bumpRng i n s).pending = s.pending := rfl
@[simp] theorem bumpRng_free (i : Fin 3) (n : Nat) (s : State) : (bumpRng i n s).free = s.free := rfl
@[simp] theorem bumpRng_part (i : Fin 3) (n : Nat) (s : State) : (bumpRng i n s).part = s.part := rfl
@[simp] theorem bumpRng_serial (i : Fin 3) (n : Nat) (s : State) : (bumpRng i n s).serial = s.serial := rfl
@[simp] theorem bumpRng_glb (i : Fin 3) (n : Nat) (s : State) : (bumpRng i n s).glb = s.glb := rfl
@[simp] theorem bumpRng_pwr (i : Fin 3) (n : Nat) (s : State) : (bumpRng i n s).pwr = s.pwr := rfl
@[simp] theorem bumpRng_hif (i : Fin 3) (n : Nat) (s : State) : (bumpRng i n s).hif = s.hif := rfl
@[simp] theorem bumpRng_mgmt (i : Fin 3) (n : Nat) (s : State) : (bumpRng i n s).mgmt = s.mgmt := rfl
@[simp] theorem bumpRng_sec (i : Fin 3) (n : Nat) (s : State) : (bumpRng i n s).sec = s.sec := rfl
@[simp] theorem bumpRng_fls (i : Fin 3) (n : Nat) (s : State) : (bumpRng i n s).fls = s.fls := rfl
@[simp] theorem bumpRng_stk (i : Fin 3) (n : Nat) (s : State) : (bumpRng i n s).stk = s.stk := rfl
@[simp] theorem bumpRng_bnc (i : Fin 3) (n : Nat) (s : State) : (bumpRng i n s).bnc = s.bnc := rfl
@[simp] theorem bumpRng_pln (i : Fin 3) (n : Nat) (s : State) : (bumpRng i n s).pln = s.pln := rfl
@[simp] theorem bumpRng_lth (i : Fin 3) (n : Nat) (s : State) : (bumpRng i n s).lth = s.lth := rfl
@[simp] theorem bumpRng_trn (i : Fin 3) (n : Nat) (s : State) : (bumpRng i n s).trn = s.trn := rfl
@[simp] theorem bumpRng_sq (i : Fin 3) (n : Nat) (s : State) : (bumpRng i n s).sq = s.sq := rfl
@[simp] theorem bumpRng_jobs (i : Fin 3) (n : Nat) (s : State) : (bumpRng i n s).jobs = s.jobs := rfl
@[simp] theorem bumpRng_links (i : Fin 3) (n : Nat) (s : State) : (bumpRng i n s).links = s.links := rfl
@[simp] theorem bumpRng_ws (i : Fin 3) (n : Nat) (s : State) : (bumpRng i n s).ws = s.ws := rfl
@[simp] theorem bumpRng_col (i : Fin 3) (n : Nat) (s : State) : (bumpRng i n s).col = s.col := rfl
@[simp] theorem bumpRng_sns (i : Fin 3) (n : Nat) (s : State) : (bumpRng i n s).sns = s.sns := rfl
@[simp] theorem bumpRng_img (i : Fin 3) (n : Nat) (s : State) : (bumpRng i n s).img = s.img := rfl
@[simp] theorem bumpRng_out (i : Fin 3) (n : Nat) (s : State) : (bumpRng i n s).out = s.out := rfl
theorem bumpRng_awake (i : Fin 3) (n : Nat) (s : State) (h : awake s = true) : (bumpRng i n s).aon = s.aon :=
  postIf_awake _ _ _ h

@[simp] theorem bumpStk_pending (i : Fin 8) (n : Nat) (s : State) : (bumpStk i n s).pending = s.pending := rfl
@[simp] theorem bumpStk_free (i : Fin 8) (n : Nat) (s : State) : (bumpStk i n s).free = s.free := rfl
@[simp] theorem bumpStk_part (i : Fin 8) (n : Nat) (s : State) : (bumpStk i n s).part = s.part := rfl
@[simp] theorem bumpStk_serial (i : Fin 8) (n : Nat) (s : State) : (bumpStk i n s).serial = s.serial := rfl
@[simp] theorem bumpStk_glb (i : Fin 8) (n : Nat) (s : State) : (bumpStk i n s).glb = s.glb := rfl
@[simp] theorem bumpStk_pwr (i : Fin 8) (n : Nat) (s : State) : (bumpStk i n s).pwr = s.pwr := rfl
@[simp] theorem bumpStk_hif (i : Fin 8) (n : Nat) (s : State) : (bumpStk i n s).hif = s.hif := rfl
@[simp] theorem bumpStk_mgmt (i : Fin 8) (n : Nat) (s : State) : (bumpStk i n s).mgmt = s.mgmt := rfl
@[simp] theorem bumpStk_sec (i : Fin 8) (n : Nat) (s : State) : (bumpStk i n s).sec = s.sec := rfl
@[simp] theorem bumpStk_fls (i : Fin 8) (n : Nat) (s : State) : (bumpStk i n s).fls = s.fls := rfl
@[simp] theorem bumpStk_rng (i : Fin 8) (n : Nat) (s : State) : (bumpStk i n s).rng = s.rng := rfl
@[simp] theorem bumpStk_bnc (i : Fin 8) (n : Nat) (s : State) : (bumpStk i n s).bnc = s.bnc := rfl
@[simp] theorem bumpStk_pln (i : Fin 8) (n : Nat) (s : State) : (bumpStk i n s).pln = s.pln := rfl
@[simp] theorem bumpStk_lth (i : Fin 8) (n : Nat) (s : State) : (bumpStk i n s).lth = s.lth := rfl
@[simp] theorem bumpStk_trn (i : Fin 8) (n : Nat) (s : State) : (bumpStk i n s).trn = s.trn := rfl
@[simp] theorem bumpStk_sq (i : Fin 8) (n : Nat) (s : State) : (bumpStk i n s).sq = s.sq := rfl
@[simp] theorem bumpStk_jobs (i : Fin 8) (n : Nat) (s : State) : (bumpStk i n s).jobs = s.jobs := rfl
@[simp] theorem bumpStk_links (i : Fin 8) (n : Nat) (s : State) : (bumpStk i n s).links = s.links := rfl
@[simp] theorem bumpStk_ws (i : Fin 8) (n : Nat) (s : State) : (bumpStk i n s).ws = s.ws := rfl
@[simp] theorem bumpStk_col (i : Fin 8) (n : Nat) (s : State) : (bumpStk i n s).col = s.col := rfl
@[simp] theorem bumpStk_sns (i : Fin 8) (n : Nat) (s : State) : (bumpStk i n s).sns = s.sns := rfl
@[simp] theorem bumpStk_img (i : Fin 8) (n : Nat) (s : State) : (bumpStk i n s).img = s.img := rfl
@[simp] theorem bumpStk_out (i : Fin 8) (n : Nat) (s : State) : (bumpStk i n s).out = s.out := rfl
theorem bumpStk_awake (i : Fin 8) (n : Nat) (s : State) (h : awake s = true) : (bumpStk i n s).aon = s.aon :=
  postIf_awake _ _ _ h

@[simp] theorem bumpBnc_pending (b : Fin 4) (i : Fin 7) (n : Nat) (s : State) : (bumpBnc b i n s).pending = s.pending := rfl
@[simp] theorem bumpBnc_free (b : Fin 4) (i : Fin 7) (n : Nat) (s : State) : (bumpBnc b i n s).free = s.free := rfl
@[simp] theorem bumpBnc_part (b : Fin 4) (i : Fin 7) (n : Nat) (s : State) : (bumpBnc b i n s).part = s.part := rfl
@[simp] theorem bumpBnc_serial (b : Fin 4) (i : Fin 7) (n : Nat) (s : State) : (bumpBnc b i n s).serial = s.serial := rfl
@[simp] theorem bumpBnc_glb (b : Fin 4) (i : Fin 7) (n : Nat) (s : State) : (bumpBnc b i n s).glb = s.glb := rfl
@[simp] theorem bumpBnc_pwr (b : Fin 4) (i : Fin 7) (n : Nat) (s : State) : (bumpBnc b i n s).pwr = s.pwr := rfl
@[simp] theorem bumpBnc_hif (b : Fin 4) (i : Fin 7) (n : Nat) (s : State) : (bumpBnc b i n s).hif = s.hif := rfl
@[simp] theorem bumpBnc_mgmt (b : Fin 4) (i : Fin 7) (n : Nat) (s : State) : (bumpBnc b i n s).mgmt = s.mgmt := rfl
@[simp] theorem bumpBnc_sec (b : Fin 4) (i : Fin 7) (n : Nat) (s : State) : (bumpBnc b i n s).sec = s.sec := rfl
@[simp] theorem bumpBnc_fls (b : Fin 4) (i : Fin 7) (n : Nat) (s : State) : (bumpBnc b i n s).fls = s.fls := rfl
@[simp] theorem bumpBnc_rng (b : Fin 4) (i : Fin 7) (n : Nat) (s : State) : (bumpBnc b i n s).rng = s.rng := rfl
@[simp] theorem bumpBnc_stk (b : Fin 4) (i : Fin 7) (n : Nat) (s : State) : (bumpBnc b i n s).stk = s.stk := rfl
@[simp] theorem bumpBnc_pln (b : Fin 4) (i : Fin 7) (n : Nat) (s : State) : (bumpBnc b i n s).pln = s.pln := rfl
@[simp] theorem bumpBnc_lth (b : Fin 4) (i : Fin 7) (n : Nat) (s : State) : (bumpBnc b i n s).lth = s.lth := rfl
@[simp] theorem bumpBnc_trn (b : Fin 4) (i : Fin 7) (n : Nat) (s : State) : (bumpBnc b i n s).trn = s.trn := rfl
@[simp] theorem bumpBnc_sq (b : Fin 4) (i : Fin 7) (n : Nat) (s : State) : (bumpBnc b i n s).sq = s.sq := rfl
@[simp] theorem bumpBnc_jobs (b : Fin 4) (i : Fin 7) (n : Nat) (s : State) : (bumpBnc b i n s).jobs = s.jobs := rfl
@[simp] theorem bumpBnc_links (b : Fin 4) (i : Fin 7) (n : Nat) (s : State) : (bumpBnc b i n s).links = s.links := rfl
@[simp] theorem bumpBnc_ws (b : Fin 4) (i : Fin 7) (n : Nat) (s : State) : (bumpBnc b i n s).ws = s.ws := rfl
@[simp] theorem bumpBnc_col (b : Fin 4) (i : Fin 7) (n : Nat) (s : State) : (bumpBnc b i n s).col = s.col := rfl
@[simp] theorem bumpBnc_sns (b : Fin 4) (i : Fin 7) (n : Nat) (s : State) : (bumpBnc b i n s).sns = s.sns := rfl
@[simp] theorem bumpBnc_img (b : Fin 4) (i : Fin 7) (n : Nat) (s : State) : (bumpBnc b i n s).img = s.img := rfl
@[simp] theorem bumpBnc_out (b : Fin 4) (i : Fin 7) (n : Nat) (s : State) : (bumpBnc b i n s).out = s.out := rfl
theorem bumpBnc_awake (b : Fin 4) (i : Fin 7) (n : Nat) (s : State) (h : awake s = true) : (bumpBnc b i n s).aon = s.aon :=
  postIf_awake _ _ _ h

@[simp] theorem bumpPln_pending (p : Fin 16) (i : Fin 10) (n : Nat) (s : State) : (bumpPln p i n s).pending = s.pending := rfl
@[simp] theorem bumpPln_free (p : Fin 16) (i : Fin 10) (n : Nat) (s : State) : (bumpPln p i n s).free = s.free := rfl
@[simp] theorem bumpPln_part (p : Fin 16) (i : Fin 10) (n : Nat) (s : State) : (bumpPln p i n s).part = s.part := rfl
@[simp] theorem bumpPln_serial (p : Fin 16) (i : Fin 10) (n : Nat) (s : State) : (bumpPln p i n s).serial = s.serial := rfl
@[simp] theorem bumpPln_glb (p : Fin 16) (i : Fin 10) (n : Nat) (s : State) : (bumpPln p i n s).glb = s.glb := rfl
@[simp] theorem bumpPln_pwr (p : Fin 16) (i : Fin 10) (n : Nat) (s : State) : (bumpPln p i n s).pwr = s.pwr := rfl
@[simp] theorem bumpPln_hif (p : Fin 16) (i : Fin 10) (n : Nat) (s : State) : (bumpPln p i n s).hif = s.hif := rfl
@[simp] theorem bumpPln_mgmt (p : Fin 16) (i : Fin 10) (n : Nat) (s : State) : (bumpPln p i n s).mgmt = s.mgmt := rfl
@[simp] theorem bumpPln_sec (p : Fin 16) (i : Fin 10) (n : Nat) (s : State) : (bumpPln p i n s).sec = s.sec := rfl
@[simp] theorem bumpPln_fls (p : Fin 16) (i : Fin 10) (n : Nat) (s : State) : (bumpPln p i n s).fls = s.fls := rfl
@[simp] theorem bumpPln_rng (p : Fin 16) (i : Fin 10) (n : Nat) (s : State) : (bumpPln p i n s).rng = s.rng := rfl
@[simp] theorem bumpPln_stk (p : Fin 16) (i : Fin 10) (n : Nat) (s : State) : (bumpPln p i n s).stk = s.stk := rfl
@[simp] theorem bumpPln_bnc (p : Fin 16) (i : Fin 10) (n : Nat) (s : State) : (bumpPln p i n s).bnc = s.bnc := rfl
@[simp] theorem bumpPln_lth (p : Fin 16) (i : Fin 10) (n : Nat) (s : State) : (bumpPln p i n s).lth = s.lth := rfl
@[simp] theorem bumpPln_trn (p : Fin 16) (i : Fin 10) (n : Nat) (s : State) : (bumpPln p i n s).trn = s.trn := rfl
@[simp] theorem bumpPln_sq (p : Fin 16) (i : Fin 10) (n : Nat) (s : State) : (bumpPln p i n s).sq = s.sq := rfl
@[simp] theorem bumpPln_jobs (p : Fin 16) (i : Fin 10) (n : Nat) (s : State) : (bumpPln p i n s).jobs = s.jobs := rfl
@[simp] theorem bumpPln_links (p : Fin 16) (i : Fin 10) (n : Nat) (s : State) : (bumpPln p i n s).links = s.links := rfl
@[simp] theorem bumpPln_ws (p : Fin 16) (i : Fin 10) (n : Nat) (s : State) : (bumpPln p i n s).ws = s.ws := rfl
@[simp] theorem bumpPln_col (p : Fin 16) (i : Fin 10) (n : Nat) (s : State) : (bumpPln p i n s).col = s.col := rfl
@[simp] theorem bumpPln_sns (p : Fin 16) (i : Fin 10) (n : Nat) (s : State) : (bumpPln p i n s).sns = s.sns := rfl
@[simp] theorem bumpPln_img (p : Fin 16) (i : Fin 10) (n : Nat) (s : State) : (bumpPln p i n s).img = s.img := rfl
@[simp] theorem bumpPln_out (p : Fin 16) (i : Fin 10) (n : Nat) (s : State) : (bumpPln p i n s).out = s.out := rfl
theorem bumpPln_awake (p : Fin 16) (i : Fin 10) (n : Nat) (s : State) (h : awake s = true) : (bumpPln p i n s).aon = s.aon :=
  postIf_awake _ _ _ h

@[simp] theorem bumpLth_pending (l : Fin 4) (i : Fin 4) (n : Nat) (s : State) : (bumpLth l i n s).pending = s.pending := rfl
@[simp] theorem bumpLth_free (l : Fin 4) (i : Fin 4) (n : Nat) (s : State) : (bumpLth l i n s).free = s.free := rfl
@[simp] theorem bumpLth_part (l : Fin 4) (i : Fin 4) (n : Nat) (s : State) : (bumpLth l i n s).part = s.part := rfl
@[simp] theorem bumpLth_serial (l : Fin 4) (i : Fin 4) (n : Nat) (s : State) : (bumpLth l i n s).serial = s.serial := rfl
@[simp] theorem bumpLth_glb (l : Fin 4) (i : Fin 4) (n : Nat) (s : State) : (bumpLth l i n s).glb = s.glb := rfl
@[simp] theorem bumpLth_pwr (l : Fin 4) (i : Fin 4) (n : Nat) (s : State) : (bumpLth l i n s).pwr = s.pwr := rfl
@[simp] theorem bumpLth_hif (l : Fin 4) (i : Fin 4) (n : Nat) (s : State) : (bumpLth l i n s).hif = s.hif := rfl
@[simp] theorem bumpLth_mgmt (l : Fin 4) (i : Fin 4) (n : Nat) (s : State) : (bumpLth l i n s).mgmt = s.mgmt := rfl
@[simp] theorem bumpLth_sec (l : Fin 4) (i : Fin 4) (n : Nat) (s : State) : (bumpLth l i n s).sec = s.sec := rfl
@[simp] theorem bumpLth_fls (l : Fin 4) (i : Fin 4) (n : Nat) (s : State) : (bumpLth l i n s).fls = s.fls := rfl
@[simp] theorem bumpLth_rng (l : Fin 4) (i : Fin 4) (n : Nat) (s : State) : (bumpLth l i n s).rng = s.rng := rfl
@[simp] theorem bumpLth_stk (l : Fin 4) (i : Fin 4) (n : Nat) (s : State) : (bumpLth l i n s).stk = s.stk := rfl
@[simp] theorem bumpLth_bnc (l : Fin 4) (i : Fin 4) (n : Nat) (s : State) : (bumpLth l i n s).bnc = s.bnc := rfl
@[simp] theorem bumpLth_pln (l : Fin 4) (i : Fin 4) (n : Nat) (s : State) : (bumpLth l i n s).pln = s.pln := rfl
@[simp] theorem bumpLth_trn (l : Fin 4) (i : Fin 4) (n : Nat) (s : State) : (bumpLth l i n s).trn = s.trn := rfl
@[simp] theorem bumpLth_sq (l : Fin 4) (i : Fin 4) (n : Nat) (s : State) : (bumpLth l i n s).sq = s.sq := rfl
@[simp] theorem bumpLth_jobs (l : Fin 4) (i : Fin 4) (n : Nat) (s : State) : (bumpLth l i n s).jobs = s.jobs := rfl
@[simp] theorem bumpLth_links (l : Fin 4) (i : Fin 4) (n : Nat) (s : State) : (bumpLth l i n s).links = s.links := rfl
@[simp] theorem bumpLth_ws (l : Fin 4) (i : Fin 4) (n : Nat) (s : State) : (bumpLth l i n s).ws = s.ws := rfl
@[simp] theorem bumpLth_col (l : Fin 4) (i : Fin 4) (n : Nat) (s : State) : (bumpLth l i n s).col = s.col := rfl
@[simp] theorem bumpLth_sns (l : Fin 4) (i : Fin 4) (n : Nat) (s : State) : (bumpLth l i n s).sns = s.sns := rfl
@[simp] theorem bumpLth_img (l : Fin 4) (i : Fin 4) (n : Nat) (s : State) : (bumpLth l i n s).img = s.img := rfl
@[simp] theorem bumpLth_out (l : Fin 4) (i : Fin 4) (n : Nat) (s : State) : (bumpLth l i n s).out = s.out := rfl
theorem bumpLth_awake (l : Fin 4) (i : Fin 4) (n : Nat) (s : State) (h : awake s = true) : (bumpLth l i n s).aon = s.aon :=
  postIf_awake _ _ _ h

@[simp] theorem bumpLink_pending (l : Fin 8) (i : Fin 8) (n : Nat) (s : State) : (bumpLink l i n s).pending = s.pending := rfl
@[simp] theorem bumpLink_free (l : Fin 8) (i : Fin 8) (n : Nat) (s : State) : (bumpLink l i n s).free = s.free := rfl
@[simp] theorem bumpLink_part (l : Fin 8) (i : Fin 8) (n : Nat) (s : State) : (bumpLink l i n s).part = s.part := rfl
@[simp] theorem bumpLink_serial (l : Fin 8) (i : Fin 8) (n : Nat) (s : State) : (bumpLink l i n s).serial = s.serial := rfl
@[simp] theorem bumpLink_glb (l : Fin 8) (i : Fin 8) (n : Nat) (s : State) : (bumpLink l i n s).glb = s.glb := rfl
@[simp] theorem bumpLink_pwr (l : Fin 8) (i : Fin 8) (n : Nat) (s : State) : (bumpLink l i n s).pwr = s.pwr := rfl
@[simp] theorem bumpLink_hif (l : Fin 8) (i : Fin 8) (n : Nat) (s : State) : (bumpLink l i n s).hif = s.hif := rfl
@[simp] theorem bumpLink_mgmt (l : Fin 8) (i : Fin 8) (n : Nat) (s : State) : (bumpLink l i n s).mgmt = s.mgmt := rfl
@[simp] theorem bumpLink_sec (l : Fin 8) (i : Fin 8) (n : Nat) (s : State) : (bumpLink l i n s).sec = s.sec := rfl
@[simp] theorem bumpLink_fls (l : Fin 8) (i : Fin 8) (n : Nat) (s : State) : (bumpLink l i n s).fls = s.fls := rfl
@[simp] theorem bumpLink_rng (l : Fin 8) (i : Fin 8) (n : Nat) (s : State) : (bumpLink l i n s).rng = s.rng := rfl
@[simp] theorem bumpLink_stk (l : Fin 8) (i : Fin 8) (n : Nat) (s : State) : (bumpLink l i n s).stk = s.stk := rfl
@[simp] theorem bumpLink_bnc (l : Fin 8) (i : Fin 8) (n : Nat) (s : State) : (bumpLink l i n s).bnc = s.bnc := rfl
@[simp] theorem bumpLink_pln (l : Fin 8) (i : Fin 8) (n : Nat) (s : State) : (bumpLink l i n s).pln = s.pln := rfl
@[simp] theorem bumpLink_lth (l : Fin 8) (i : Fin 8) (n : Nat) (s : State) : (bumpLink l i n s).lth = s.lth := rfl
@[simp] theorem bumpLink_trn (l : Fin 8) (i : Fin 8) (n : Nat) (s : State) : (bumpLink l i n s).trn = s.trn := rfl
@[simp] theorem bumpLink_sq (l : Fin 8) (i : Fin 8) (n : Nat) (s : State) : (bumpLink l i n s).sq = s.sq := rfl
@[simp] theorem bumpLink_jobs (l : Fin 8) (i : Fin 8) (n : Nat) (s : State) : (bumpLink l i n s).jobs = s.jobs := rfl
@[simp] theorem bumpLink_ws (l : Fin 8) (i : Fin 8) (n : Nat) (s : State) : (bumpLink l i n s).ws = s.ws := rfl
@[simp] theorem bumpLink_col (l : Fin 8) (i : Fin 8) (n : Nat) (s : State) : (bumpLink l i n s).col = s.col := rfl
@[simp] theorem bumpLink_sns (l : Fin 8) (i : Fin 8) (n : Nat) (s : State) : (bumpLink l i n s).sns = s.sns := rfl
@[simp] theorem bumpLink_img (l : Fin 8) (i : Fin 8) (n : Nat) (s : State) : (bumpLink l i n s).img = s.img := rfl
@[simp] theorem bumpLink_out (l : Fin 8) (i : Fin 8) (n : Nat) (s : State) : (bumpLink l i n s).out = s.out := rfl
theorem bumpLink_awake (l : Fin 8) (i : Fin 8) (n : Nat) (s : State) (h : awake s = true) : (bumpLink l i n s).aon = s.aon :=
  postIf_awake _ _ _ h

@[simp] theorem bumpWs_pending (i : Fin 2) (n : Nat) (s : State) : (bumpWs i n s).pending = s.pending := rfl
@[simp] theorem bumpWs_free (i : Fin 2) (n : Nat) (s : State) : (bumpWs i n s).free = s.free := rfl
@[simp] theorem bumpWs_part (i : Fin 2) (n : Nat) (s : State) : (bumpWs i n s).part = s.part := rfl
@[simp] theorem bumpWs_serial (i : Fin 2) (n : Nat) (s : State) : (bumpWs i n s).serial = s.serial := rfl
@[simp] theorem bumpWs_glb (i : Fin 2) (n : Nat) (s : State) : (bumpWs i n s).glb = s.glb := rfl
@[simp] theorem bumpWs_pwr (i : Fin 2) (n : Nat) (s : State) : (bumpWs i n s).pwr = s.pwr := rfl
@[simp] theorem bumpWs_hif (i : Fin 2) (n : Nat) (s : State) : (bumpWs i n s).hif = s.hif := rfl
@[simp] theorem bumpWs_mgmt (i : Fin 2) (n : Nat) (s : State) : (bumpWs i n s).mgmt = s.mgmt := rfl
@[simp] theorem bumpWs_sec (i : Fin 2) (n : Nat) (s : State) : (bumpWs i n s).sec = s.sec := rfl
@[simp] theorem bumpWs_fls (i : Fin 2) (n : Nat) (s : State) : (bumpWs i n s).fls = s.fls := rfl
@[simp] theorem bumpWs_rng (i : Fin 2) (n : Nat) (s : State) : (bumpWs i n s).rng = s.rng := rfl
@[simp] theorem bumpWs_stk (i : Fin 2) (n : Nat) (s : State) : (bumpWs i n s).stk = s.stk := rfl
@[simp] theorem bumpWs_bnc (i : Fin 2) (n : Nat) (s : State) : (bumpWs i n s).bnc = s.bnc := rfl
@[simp] theorem bumpWs_pln (i : Fin 2) (n : Nat) (s : State) : (bumpWs i n s).pln = s.pln := rfl
@[simp] theorem bumpWs_lth (i : Fin 2) (n : Nat) (s : State) : (bumpWs i n s).lth = s.lth := rfl
@[simp] theorem bumpWs_trn (i : Fin 2) (n : Nat) (s : State) : (bumpWs i n s).trn = s.trn := rfl
@[simp] theorem bumpWs_sq (i : Fin 2) (n : Nat) (s : State) : (bumpWs i n s).sq = s.sq := rfl
@[simp] theorem bumpWs_jobs (i : Fin 2) (n : Nat) (s : State) : (bumpWs i n s).jobs = s.jobs := rfl
@[simp] theorem bumpWs_links (i : Fin 2) (n : Nat) (s : State) : (bumpWs i n s).links = s.links := rfl
@[simp] theorem bumpWs_col (i : Fin 2) (n : Nat) (s : State) : (bumpWs i n s).col = s.col := rfl
@[simp] theorem bumpWs_sns (i : Fin 2) (n : Nat) (s : State) : (bumpWs i n s).sns = s.sns := rfl
@[simp] theorem bumpWs_img (i : Fin 2) (n : Nat) (s : State) : (bumpWs i n s).img = s.img := rfl
@[simp] theorem bumpWs_out (i : Fin 2) (n : Nat) (s : State) : (bumpWs i n s).out = s.out := rfl
theorem bumpWs_awake (i : Fin 2) (n : Nat) (s : State) (h : awake s = true) : (bumpWs i n s).aon = s.aon :=
  postIf_awake _ _ _ h

@[simp] theorem bumpCol_pending (i : Fin 8) (n : Nat) (s : State) : (bumpCol i n s).pending = s.pending := rfl
@[simp] theorem bumpCol_free (i : Fin 8) (n : Nat) (s : State) : (bumpCol i n s).free = s.free := rfl
@[simp] theorem bumpCol_part (i : Fin 8) (n : Nat) (s : State) : (bumpCol i n s).part = s.part := rfl
@[simp] theorem bumpCol_serial (i : Fin 8) (n : Nat) (s : State) : (bumpCol i n s).serial = s.serial := rfl
@[simp] theorem bumpCol_glb (i : Fin 8) (n : Nat) (s : State) : (bumpCol i n s).glb = s.glb := rfl
@[simp] theorem bumpCol_pwr (i : Fin 8) (n : Nat) (s : State) : (bumpCol i n s).pwr = s.pwr := rfl
@[simp] theorem bumpCol_hif (i : Fin 8) (n : Nat) (s : State) : (bumpCol i n s).hif = s.hif := rfl
@[simp] theorem bumpCol_mgmt (i : Fin 8) (n : Nat) (s : State) : (bumpCol i n s).mgmt = s.mgmt := rfl
@[simp] theorem bumpCol_sec (i : Fin 8) (n : Nat) (s : State) : (bumpCol i n s).sec = s.sec := rfl
@[simp] theorem bumpCol_fls (i : Fin 8) (n : Nat) (s : State) : (bumpCol i n s).fls = s.fls := rfl
@[simp] theorem bumpCol_rng (i : Fin 8) (n : Nat) (s : State) : (bumpCol i n s).rng = s.rng := rfl
@[simp] theorem bumpCol_stk (i : Fin 8) (n : Nat) (s : State) : (bumpCol i n s).stk = s.stk := rfl
@[simp] theorem bumpCol_bnc (i : Fin 8) (n : Nat) (s : State) : (bumpCol i n s).bnc = s.bnc := rfl
@[simp] theorem bumpCol_pln (i : Fin 8) (n : Nat) (s : State) : (bumpCol i n s).pln = s.pln := rfl
@[simp] theorem bumpCol_lth (i : Fin 8) (n : Nat) (s : State) : (bumpCol i n s).lth = s.lth := rfl
@[simp] theorem bumpCol_trn (i : Fin 8) (n : Nat) (s : State) : (bumpCol i n s).trn = s.trn := rfl
@[simp] theorem bumpCol_sq (i : Fin 8) (n : Nat) (s : State) : (bumpCol i n s).sq = s.sq := rfl
@[simp] theorem bumpCol_jobs (i : Fin 8) (n : Nat) (s : State) : (bumpCol i n s).jobs = s.jobs := rfl
@[simp] theorem bumpCol_links (i : Fin 8) (n : Nat) (s : State) : (bumpCol i n s).links = s.links := rfl
@[simp] theorem bumpCol_ws (i : Fin 8) (n : Nat) (s : State) : (bumpCol i n s).ws = s.ws := rfl
@[simp] theorem bumpCol_sns (i : Fin 8) (n : Nat) (s : State) : (bumpCol i n s).sns = s.sns := rfl
@[simp] theorem bumpCol_img (i : Fin 8) (n : Nat) (s : State) : (bumpCol i n s).img = s.img := rfl
@[simp] theorem bumpCol_out (i : Fin 8) (n : Nat) (s : State) : (bumpCol i n s).out = s.out := rfl
theorem bumpCol_awake (i : Fin 8) (n : Nat) (s : State) (h : awake s = true) : (bumpCol i n s).aon = s.aon :=
  postIf_awake _ _ _ h

@[simp] theorem bumpSns_pending (p : Fin 24) (i : Fin 5) (n : Nat) (s : State) : (bumpSns p i n s).pending = s.pending := rfl
@[simp] theorem bumpSns_free (p : Fin 24) (i : Fin 5) (n : Nat) (s : State) : (bumpSns p i n s).free = s.free := rfl
@[simp] theorem bumpSns_part (p : Fin 24) (i : Fin 5) (n : Nat) (s : State) : (bumpSns p i n s).part = s.part := rfl
@[simp] theorem bumpSns_serial (p : Fin 24) (i : Fin 5) (n : Nat) (s : State) : (bumpSns p i n s).serial = s.serial := rfl
@[simp] theorem bumpSns_glb (p : Fin 24) (i : Fin 5) (n : Nat) (s : State) : (bumpSns p i n s).glb = s.glb := rfl
@[simp] theorem bumpSns_pwr (p : Fin 24) (i : Fin 5) (n : Nat) (s : State) : (bumpSns p i n s).pwr = s.pwr := rfl
@[simp] theorem bumpSns_hif (p : Fin 24) (i : Fin 5) (n : Nat) (s : State) : (bumpSns p i n s).hif = s.hif := rfl
@[simp] theorem bumpSns_mgmt (p : Fin 24) (i : Fin 5) (n : Nat) (s : State) : (bumpSns p i n s).mgmt = s.mgmt := rfl
@[simp] theorem bumpSns_sec (p : Fin 24) (i : Fin 5) (n : Nat) (s : State) : (bumpSns p i n s).sec = s.sec := rfl
@[simp] theorem bumpSns_fls (p : Fin 24) (i : Fin 5) (n : Nat) (s : State) : (bumpSns p i n s).fls = s.fls := rfl
@[simp] theorem bumpSns_rng (p : Fin 24) (i : Fin 5) (n : Nat) (s : State) : (bumpSns p i n s).rng = s.rng := rfl
@[simp] theorem bumpSns_stk (p : Fin 24) (i : Fin 5) (n : Nat) (s : State) : (bumpSns p i n s).stk = s.stk := rfl
@[simp] theorem bumpSns_bnc (p : Fin 24) (i : Fin 5) (n : Nat) (s : State) : (bumpSns p i n s).bnc = s.bnc := rfl
@[simp] theorem bumpSns_pln (p : Fin 24) (i : Fin 5) (n : Nat) (s : State) : (bumpSns p i n s).pln = s.pln := rfl
@[simp] theorem bumpSns_lth (p : Fin 24) (i : Fin 5) (n : Nat) (s : State) : (bumpSns p i n s).lth = s.lth := rfl
@[simp] theorem bumpSns_trn (p : Fin 24) (i : Fin 5) (n : Nat) (s : State) : (bumpSns p i n s).trn = s.trn := rfl
@[simp] theorem bumpSns_sq (p : Fin 24) (i : Fin 5) (n : Nat) (s : State) : (bumpSns p i n s).sq = s.sq := rfl
@[simp] theorem bumpSns_jobs (p : Fin 24) (i : Fin 5) (n : Nat) (s : State) : (bumpSns p i n s).jobs = s.jobs := rfl
@[simp] theorem bumpSns_links (p : Fin 24) (i : Fin 5) (n : Nat) (s : State) : (bumpSns p i n s).links = s.links := rfl
@[simp] theorem bumpSns_ws (p : Fin 24) (i : Fin 5) (n : Nat) (s : State) : (bumpSns p i n s).ws = s.ws := rfl
@[simp] theorem bumpSns_col (p : Fin 24) (i : Fin 5) (n : Nat) (s : State) : (bumpSns p i n s).col = s.col := rfl
@[simp] theorem bumpSns_img (p : Fin 24) (i : Fin 5) (n : Nat) (s : State) : (bumpSns p i n s).img = s.img := rfl
@[simp] theorem bumpSns_out (p : Fin 24) (i : Fin 5) (n : Nat) (s : State) : (bumpSns p i n s).out = s.out := rfl
theorem bumpSns_awake (p : Fin 24) (i : Fin 5) (n : Nat) (s : State) (h : awake s = true) : (bumpSns p i n s).aon = s.aon :=
  postIf_awake _ _ _ h

@[simp] theorem bumpTrn_pending (j : Fin 4) (i : Fin 6) (n : Nat) (s : State) : (bumpTrn j i n s).pending = s.pending := by rw [bumpTrn_frame]
@[simp] theorem bumpTrn_free (j : Fin 4) (i : Fin 6) (n : Nat) (s : State) : (bumpTrn j i n s).free = s.free := by rw [bumpTrn_frame]
@[simp] theorem bumpTrn_part (j : Fin 4) (i : Fin 6) (n : Nat) (s : State) : (bumpTrn j i n s).part = s.part := by rw [bumpTrn_frame]
@[simp] theorem bumpTrn_serial (j : Fin 4) (i : Fin 6) (n : Nat) (s : State) : (bumpTrn j i n s).serial = s.serial := by rw [bumpTrn_frame]
@[simp] theorem bumpTrn_glb (j : Fin 4) (i : Fin 6) (n : Nat) (s : State) : (bumpTrn j i n s).glb = s.glb := by rw [bumpTrn_frame]
@[simp] theorem bumpTrn_pwr (j : Fin 4) (i : Fin 6) (n : Nat) (s : State) : (bumpTrn j i n s).pwr = s.pwr := by rw [bumpTrn_frame]
@[simp] theorem bumpTrn_hif (j : Fin 4) (i : Fin 6) (n : Nat) (s : State) : (bumpTrn j i n s).hif = s.hif := by rw [bumpTrn_frame]
@[simp] theorem bumpTrn_mgmt (j : Fin 4) (i : Fin 6) (n : Nat) (s : State) : (bumpTrn j i n s).mgmt = s.mgmt := by rw [bumpTrn_frame]
@[simp] theorem bumpTrn_sec (j : Fin 4) (i : Fin 6) (n : Nat) (s : State) : (bumpTrn j i n s).sec = s.sec := by rw [bumpTrn_frame]
@[simp] theorem bumpTrn_fls (j : Fin 4) (i : Fin 6) (n : Nat) (s : State) : (bumpTrn j i n s).fls = s.fls := by rw [bumpTrn_frame]
@[simp] theorem bumpTrn_rng (j : Fin 4) (i : Fin 6) (n : Nat) (s : State) : (bumpTrn j i n s).rng = s.rng := by rw [bumpTrn_frame]
@[simp] theorem bumpTrn_stk (j : Fin 4) (i : Fin 6) (n : Nat) (s : State) : (bumpTrn j i n s).stk = s.stk := by rw [bumpTrn_frame]
@[simp] theorem bumpTrn_bnc (j : Fin 4) (i : Fin 6) (n : Nat) (s : State) : (bumpTrn j i n s).bnc = s.bnc := by rw [bumpTrn_frame]
@[simp] theorem bumpTrn_pln (j : Fin 4) (i : Fin 6) (n : Nat) (s : State) : (bumpTrn j i n s).pln = s.pln := by rw [bumpTrn_frame]
@[simp] theorem bumpTrn_lth (j : Fin 4) (i : Fin 6) (n : Nat) (s : State) : (bumpTrn j i n s).lth = s.lth := by rw [bumpTrn_frame]
@[simp] theorem bumpTrn_trn (j : Fin 4) (i : Fin 6) (n : Nat) (s : State) : (bumpTrn j i n s).trn = s.trn := by rw [bumpTrn_frame]
@[simp] theorem bumpTrn_sq (j : Fin 4) (i : Fin 6) (n : Nat) (s : State) : (bumpTrn j i n s).sq = s.sq := by rw [bumpTrn_frame]
@[simp] theorem bumpTrn_links (j : Fin 4) (i : Fin 6) (n : Nat) (s : State) : (bumpTrn j i n s).links = s.links := by rw [bumpTrn_frame]
@[simp] theorem bumpTrn_ws (j : Fin 4) (i : Fin 6) (n : Nat) (s : State) : (bumpTrn j i n s).ws = s.ws := by rw [bumpTrn_frame]
@[simp] theorem bumpTrn_col (j : Fin 4) (i : Fin 6) (n : Nat) (s : State) : (bumpTrn j i n s).col = s.col := by rw [bumpTrn_frame]
@[simp] theorem bumpTrn_sns (j : Fin 4) (i : Fin 6) (n : Nat) (s : State) : (bumpTrn j i n s).sns = s.sns := by rw [bumpTrn_frame]
@[simp] theorem bumpTrn_img (j : Fin 4) (i : Fin 6) (n : Nat) (s : State) : (bumpTrn j i n s).img = s.img := by rw [bumpTrn_frame]
@[simp] theorem bumpTrn_out (j : Fin 4) (i : Fin 6) (n : Nat) (s : State) : (bumpTrn j i n s).out = s.out := by rw [bumpTrn_frame]
theorem bumpTrn_awake (j : Fin 4) (i : Fin 6) (n : Nat) (s : State) (h : awake s = true) : (bumpTrn j i n s).aon = s.aon := by
  unfold bumpTrn
  split
  · exact postIf_awake _ _ _ h
  · rfl

@[simp] theorem bumpSeq_pending (j : Fin 4) (i : Fin 4) (n : Nat) (s : State) : (bumpSeq j i n s).pending = s.pending := by rw [bumpSeq_frame]
@[simp] theorem bumpSeq_free (j : Fin 4) (i : Fin 4) (n : Nat) (s : State) : (bumpSeq j i n s).free = s.free := by rw [bumpSeq_frame]
@[simp] theorem bumpSeq_part (j : Fin 4) (i : Fin 4) (n : Nat) (s : State) : (bumpSeq j i n s).part = s.part := by rw [bumpSeq_frame]
@[simp] theorem bumpSeq_serial (j : Fin 4) (i : Fin 4) (n : Nat) (s : State) : (bumpSeq j i n s).serial = s.serial := by rw [bumpSeq_frame]
@[simp] theorem bumpSeq_glb (j : Fin 4) (i : Fin 4) (n : Nat) (s : State) : (bumpSeq j i n s).glb = s.glb := by rw [bumpSeq_frame]
@[simp] theorem bumpSeq_pwr (j : Fin 4) (i : Fin 4) (n : Nat) (s : State) : (bumpSeq j i n s).pwr = s.pwr := by rw [bumpSeq_frame]
@[simp] theorem bumpSeq_hif (j : Fin 4) (i : Fin 4) (n : Nat) (s : State) : (bumpSeq j i n s).hif = s.hif := by rw [bumpSeq_frame]
@[simp] theorem bumpSeq_mgmt (j : Fin 4) (i : Fin 4) (n : Nat) (s : State) : (bumpSeq j i n s).mgmt = s.mgmt := by rw [bumpSeq_frame]
@[simp] theorem bumpSeq_sec (j : Fin 4) (i : Fin 4) (n : Nat) (s : State) : (bumpSeq j i n s).sec = s.sec := by rw [bumpSeq_frame]
@[simp] theorem bumpSeq_fls (j : Fin 4) (i : Fin 4) (n : Nat) (s : State) : (bumpSeq j i n s).fls = s.fls := by rw [bumpSeq_frame]
@[simp] theorem bumpSeq_rng (j : Fin 4) (i : Fin 4) (n : Nat) (s : State) : (bumpSeq j i n s).rng = s.rng := by rw [bumpSeq_frame]
@[simp] theorem bumpSeq_stk (j : Fin 4) (i : Fin 4) (n : Nat) (s : State) : (bumpSeq j i n s).stk = s.stk := by rw [bumpSeq_frame]
@[simp] theorem bumpSeq_bnc (j : Fin 4) (i : Fin 4) (n : Nat) (s : State) : (bumpSeq j i n s).bnc = s.bnc := by rw [bumpSeq_frame]
@[simp] theorem bumpSeq_pln (j : Fin 4) (i : Fin 4) (n : Nat) (s : State) : (bumpSeq j i n s).pln = s.pln := by rw [bumpSeq_frame]
@[simp] theorem bumpSeq_lth (j : Fin 4) (i : Fin 4) (n : Nat) (s : State) : (bumpSeq j i n s).lth = s.lth := by rw [bumpSeq_frame]
@[simp] theorem bumpSeq_trn (j : Fin 4) (i : Fin 4) (n : Nat) (s : State) : (bumpSeq j i n s).trn = s.trn := by rw [bumpSeq_frame]
@[simp] theorem bumpSeq_sq (j : Fin 4) (i : Fin 4) (n : Nat) (s : State) : (bumpSeq j i n s).sq = s.sq := by rw [bumpSeq_frame]
@[simp] theorem bumpSeq_links (j : Fin 4) (i : Fin 4) (n : Nat) (s : State) : (bumpSeq j i n s).links = s.links := by rw [bumpSeq_frame]
@[simp] theorem bumpSeq_ws (j : Fin 4) (i : Fin 4) (n : Nat) (s : State) : (bumpSeq j i n s).ws = s.ws := by rw [bumpSeq_frame]
@[simp] theorem bumpSeq_col (j : Fin 4) (i : Fin 4) (n : Nat) (s : State) : (bumpSeq j i n s).col = s.col := by rw [bumpSeq_frame]
@[simp] theorem bumpSeq_sns (j : Fin 4) (i : Fin 4) (n : Nat) (s : State) : (bumpSeq j i n s).sns = s.sns := by rw [bumpSeq_frame]
@[simp] theorem bumpSeq_img (j : Fin 4) (i : Fin 4) (n : Nat) (s : State) : (bumpSeq j i n s).img = s.img := by rw [bumpSeq_frame]
@[simp] theorem bumpSeq_out (j : Fin 4) (i : Fin 4) (n : Nat) (s : State) : (bumpSeq j i n s).out = s.out := by rw [bumpSeq_frame]
theorem bumpSeq_awake (j : Fin 4) (i : Fin 4) (n : Nat) (s : State) (h : awake s = true) : (bumpSeq j i n s).aon = s.aon := by
  unfold bumpSeq
  split
  · exact postIf_awake _ _ _ h
  · rfl

@[simp] theorem bumpSlices_pending (s : State) : (bumpSlices s).pending = s.pending := rfl
@[simp] theorem bumpSlices_free (s : State) : (bumpSlices s).free = s.free := rfl
@[simp] theorem bumpSlices_part (s : State) : (bumpSlices s).part = s.part := rfl
@[simp] theorem bumpSlices_serial (s : State) : (bumpSlices s).serial = s.serial := rfl
@[simp] theorem bumpSlices_glb (s : State) : (bumpSlices s).glb = s.glb := rfl
@[simp] theorem bumpSlices_pwr (s : State) : (bumpSlices s).pwr = s.pwr := rfl
@[simp] theorem bumpSlices_hif (s : State) : (bumpSlices s).hif = s.hif := rfl
@[simp] theorem bumpSlices_mgmt (s : State) : (bumpSlices s).mgmt = s.mgmt := rfl
@[simp] theorem bumpSlices_sec (s : State) : (bumpSlices s).sec = s.sec := rfl
@[simp] theorem bumpSlices_fls (s : State) : (bumpSlices s).fls = s.fls := rfl
@[simp] theorem bumpSlices_rng (s : State) : (bumpSlices s).rng = s.rng := rfl
@[simp] theorem bumpSlices_stk (s : State) : (bumpSlices s).stk = s.stk := rfl
@[simp] theorem bumpSlices_bnc (s : State) : (bumpSlices s).bnc = s.bnc := rfl
@[simp] theorem bumpSlices_pln (s : State) : (bumpSlices s).pln = s.pln := rfl
@[simp] theorem bumpSlices_lth (s : State) : (bumpSlices s).lth = s.lth := rfl
@[simp] theorem bumpSlices_trn (s : State) : (bumpSlices s).trn = s.trn := rfl
@[simp] theorem bumpSlices_jobs (s : State) : (bumpSlices s).jobs = s.jobs := rfl
@[simp] theorem bumpSlices_links (s : State) : (bumpSlices s).links = s.links := rfl
@[simp] theorem bumpSlices_ws (s : State) : (bumpSlices s).ws = s.ws := rfl
@[simp] theorem bumpSlices_col (s : State) : (bumpSlices s).col = s.col := rfl
@[simp] theorem bumpSlices_sns (s : State) : (bumpSlices s).sns = s.sns := rfl
@[simp] theorem bumpSlices_img (s : State) : (bumpSlices s).img = s.img := rfl
@[simp] theorem bumpSlices_out (s : State) : (bumpSlices s).out = s.out := rfl
theorem bumpSlices_awake (s : State) (h : awake s = true) : (bumpSlices s).aon = s.aon :=
  postIf_awake _ _ _ h

@[simp] theorem bumpTelDrops_pending (s : State) : (bumpTelDrops s).pending = s.pending := rfl
@[simp] theorem bumpTelDrops_free (s : State) : (bumpTelDrops s).free = s.free := rfl
@[simp] theorem bumpTelDrops_part (s : State) : (bumpTelDrops s).part = s.part := rfl
@[simp] theorem bumpTelDrops_serial (s : State) : (bumpTelDrops s).serial = s.serial := rfl
@[simp] theorem bumpTelDrops_glb (s : State) : (bumpTelDrops s).glb = s.glb := rfl
@[simp] theorem bumpTelDrops_pwr (s : State) : (bumpTelDrops s).pwr = s.pwr := rfl
@[simp] theorem bumpTelDrops_hif (s : State) : (bumpTelDrops s).hif = s.hif := rfl
@[simp] theorem bumpTelDrops_mgmt (s : State) : (bumpTelDrops s).mgmt = s.mgmt := rfl
@[simp] theorem bumpTelDrops_sec (s : State) : (bumpTelDrops s).sec = s.sec := rfl
@[simp] theorem bumpTelDrops_fls (s : State) : (bumpTelDrops s).fls = s.fls := rfl
@[simp] theorem bumpTelDrops_rng (s : State) : (bumpTelDrops s).rng = s.rng := rfl
@[simp] theorem bumpTelDrops_stk (s : State) : (bumpTelDrops s).stk = s.stk := rfl
@[simp] theorem bumpTelDrops_bnc (s : State) : (bumpTelDrops s).bnc = s.bnc := rfl
@[simp] theorem bumpTelDrops_pln (s : State) : (bumpTelDrops s).pln = s.pln := rfl
@[simp] theorem bumpTelDrops_lth (s : State) : (bumpTelDrops s).lth = s.lth := rfl
@[simp] theorem bumpTelDrops_sq (s : State) : (bumpTelDrops s).sq = s.sq := rfl
@[simp] theorem bumpTelDrops_jobs (s : State) : (bumpTelDrops s).jobs = s.jobs := rfl
@[simp] theorem bumpTelDrops_links (s : State) : (bumpTelDrops s).links = s.links := rfl
@[simp] theorem bumpTelDrops_ws (s : State) : (bumpTelDrops s).ws = s.ws := rfl
@[simp] theorem bumpTelDrops_col (s : State) : (bumpTelDrops s).col = s.col := rfl
@[simp] theorem bumpTelDrops_sns (s : State) : (bumpTelDrops s).sns = s.sns := rfl
@[simp] theorem bumpTelDrops_img (s : State) : (bumpTelDrops s).img = s.img := rfl
@[simp] theorem bumpTelDrops_out (s : State) : (bumpTelDrops s).out = s.out := rfl
theorem bumpTelDrops_awake (s : State) (h : awake s = true) : (bumpTelDrops s).aon = s.aon :=
  postIf_awake _ _ _ h

@[simp] theorem fire_pending (v : Fin 4) (s : State) : (fire v s).pending = s.pending := by rw [fire_frame]
@[simp] theorem fire_free (v : Fin 4) (s : State) : (fire v s).free = s.free := by rw [fire_frame]
@[simp] theorem fire_part (v : Fin 4) (s : State) : (fire v s).part = s.part := by rw [fire_frame]
@[simp] theorem fire_serial (v : Fin 4) (s : State) : (fire v s).serial = s.serial := by rw [fire_frame]
@[simp] theorem fire_glb (v : Fin 4) (s : State) : (fire v s).glb = s.glb := by rw [fire_frame]
@[simp] theorem fire_pwr (v : Fin 4) (s : State) : (fire v s).pwr = s.pwr := by rw [fire_frame]
@[simp] theorem fire_aon (v : Fin 4) (s : State) : (fire v s).aon = s.aon := by rw [fire_frame]
@[simp] theorem fire_evt (v : Fin 4) (s : State) : (fire v s).evt = s.evt := by rw [fire_frame]
@[simp] theorem fire_mgmt (v : Fin 4) (s : State) : (fire v s).mgmt = s.mgmt := by rw [fire_frame]
@[simp] theorem fire_sec (v : Fin 4) (s : State) : (fire v s).sec = s.sec := by rw [fire_frame]
@[simp] theorem fire_fls (v : Fin 4) (s : State) : (fire v s).fls = s.fls := by rw [fire_frame]
@[simp] theorem fire_rng (v : Fin 4) (s : State) : (fire v s).rng = s.rng := by rw [fire_frame]
@[simp] theorem fire_stk (v : Fin 4) (s : State) : (fire v s).stk = s.stk := by rw [fire_frame]
@[simp] theorem fire_bnc (v : Fin 4) (s : State) : (fire v s).bnc = s.bnc := by rw [fire_frame]
@[simp] theorem fire_pln (v : Fin 4) (s : State) : (fire v s).pln = s.pln := by rw [fire_frame]
@[simp] theorem fire_lth (v : Fin 4) (s : State) : (fire v s).lth = s.lth := by rw [fire_frame]
@[simp] theorem fire_trn (v : Fin 4) (s : State) : (fire v s).trn = s.trn := by rw [fire_frame]
@[simp] theorem fire_sq (v : Fin 4) (s : State) : (fire v s).sq = s.sq := by rw [fire_frame]
@[simp] theorem fire_jobs (v : Fin 4) (s : State) : (fire v s).jobs = s.jobs := by rw [fire_frame]
@[simp] theorem fire_links (v : Fin 4) (s : State) : (fire v s).links = s.links := by rw [fire_frame]
@[simp] theorem fire_ws (v : Fin 4) (s : State) : (fire v s).ws = s.ws := by rw [fire_frame]
@[simp] theorem fire_col (v : Fin 4) (s : State) : (fire v s).col = s.col := by rw [fire_frame]
@[simp] theorem fire_sns (v : Fin 4) (s : State) : (fire v s).sns = s.sns := by rw [fire_frame]
@[simp] theorem fire_img (v : Fin 4) (s : State) : (fire v s).img = s.img := by rw [fire_frame]
@[simp] theorem fire_out (v : Fin 4) (s : State) : (fire v s).out = s.out := by rw [fire_frame]

@[simp] theorem hifFault_pending (bit : Nat) (q : BitVec 16) (s : State) : (hifFault bit q s).pending = s.pending := rfl
@[simp] theorem hifFault_free (bit : Nat) (q : BitVec 16) (s : State) : (hifFault bit q s).free = s.free := rfl
@[simp] theorem hifFault_part (bit : Nat) (q : BitVec 16) (s : State) : (hifFault bit q s).part = s.part := rfl
@[simp] theorem hifFault_serial (bit : Nat) (q : BitVec 16) (s : State) : (hifFault bit q s).serial = s.serial := rfl
@[simp] theorem hifFault_glb (bit : Nat) (q : BitVec 16) (s : State) : (hifFault bit q s).glb = s.glb := rfl
@[simp] theorem hifFault_pwr (bit : Nat) (q : BitVec 16) (s : State) : (hifFault bit q s).pwr = s.pwr := rfl
@[simp] theorem hifFault_aon (bit : Nat) (q : BitVec 16) (s : State) : (hifFault bit q s).aon = s.aon := rfl
@[simp] theorem hifFault_evt (bit : Nat) (q : BitVec 16) (s : State) : (hifFault bit q s).evt = s.evt := rfl
@[simp] theorem hifFault_mgmt (bit : Nat) (q : BitVec 16) (s : State) : (hifFault bit q s).mgmt = s.mgmt := rfl
@[simp] theorem hifFault_sec (bit : Nat) (q : BitVec 16) (s : State) : (hifFault bit q s).sec = s.sec := rfl
@[simp] theorem hifFault_fls (bit : Nat) (q : BitVec 16) (s : State) : (hifFault bit q s).fls = s.fls := rfl
@[simp] theorem hifFault_rng (bit : Nat) (q : BitVec 16) (s : State) : (hifFault bit q s).rng = s.rng := rfl
@[simp] theorem hifFault_stk (bit : Nat) (q : BitVec 16) (s : State) : (hifFault bit q s).stk = s.stk := rfl
@[simp] theorem hifFault_bnc (bit : Nat) (q : BitVec 16) (s : State) : (hifFault bit q s).bnc = s.bnc := rfl
@[simp] theorem hifFault_pln (bit : Nat) (q : BitVec 16) (s : State) : (hifFault bit q s).pln = s.pln := rfl
@[simp] theorem hifFault_lth (bit : Nat) (q : BitVec 16) (s : State) : (hifFault bit q s).lth = s.lth := rfl
@[simp] theorem hifFault_trn (bit : Nat) (q : BitVec 16) (s : State) : (hifFault bit q s).trn = s.trn := rfl
@[simp] theorem hifFault_sq (bit : Nat) (q : BitVec 16) (s : State) : (hifFault bit q s).sq = s.sq := rfl
@[simp] theorem hifFault_jobs (bit : Nat) (q : BitVec 16) (s : State) : (hifFault bit q s).jobs = s.jobs := rfl
@[simp] theorem hifFault_links (bit : Nat) (q : BitVec 16) (s : State) : (hifFault bit q s).links = s.links := rfl
@[simp] theorem hifFault_ws (bit : Nat) (q : BitVec 16) (s : State) : (hifFault bit q s).ws = s.ws := rfl
@[simp] theorem hifFault_col (bit : Nat) (q : BitVec 16) (s : State) : (hifFault bit q s).col = s.col := rfl
@[simp] theorem hifFault_sns (bit : Nat) (q : BitVec 16) (s : State) : (hifFault bit q s).sns = s.sns := rfl
@[simp] theorem hifFault_img (bit : Nat) (q : BitVec 16) (s : State) : (hifFault bit q s).img = s.img := rfl
@[simp] theorem hifFault_out (bit : Nat) (q : BitVec 16) (s : State) : (hifFault bit q s).out = s.out := rfl

@[simp] theorem putResult_pending (r : Result) (s : State) : (putResult r s).pending = s.pending := by rw [putResult_frame]
@[simp] theorem putResult_free (r : Result) (s : State) : (putResult r s).free = s.free := by rw [putResult_frame]
@[simp] theorem putResult_part (r : Result) (s : State) : (putResult r s).part = s.part := by rw [putResult_frame]
@[simp] theorem putResult_serial (r : Result) (s : State) : (putResult r s).serial = s.serial := by rw [putResult_frame]
@[simp] theorem putResult_glb (r : Result) (s : State) : (putResult r s).glb = s.glb := by rw [putResult_frame]
@[simp] theorem putResult_pwr (r : Result) (s : State) : (putResult r s).pwr = s.pwr := by rw [putResult_frame]
@[simp] theorem putResult_mgmt (r : Result) (s : State) : (putResult r s).mgmt = s.mgmt := by rw [putResult_frame]
@[simp] theorem putResult_sec (r : Result) (s : State) : (putResult r s).sec = s.sec := by rw [putResult_frame]
@[simp] theorem putResult_fls (r : Result) (s : State) : (putResult r s).fls = s.fls := by rw [putResult_frame]
@[simp] theorem putResult_rng (r : Result) (s : State) : (putResult r s).rng = s.rng := by rw [putResult_frame]
@[simp] theorem putResult_stk (r : Result) (s : State) : (putResult r s).stk = s.stk := by rw [putResult_frame]
@[simp] theorem putResult_bnc (r : Result) (s : State) : (putResult r s).bnc = s.bnc := by rw [putResult_frame]
@[simp] theorem putResult_pln (r : Result) (s : State) : (putResult r s).pln = s.pln := by rw [putResult_frame]
@[simp] theorem putResult_lth (r : Result) (s : State) : (putResult r s).lth = s.lth := by rw [putResult_frame]
@[simp] theorem putResult_trn (r : Result) (s : State) : (putResult r s).trn = s.trn := by rw [putResult_frame]
@[simp] theorem putResult_sq (r : Result) (s : State) : (putResult r s).sq = s.sq := by rw [putResult_frame]
@[simp] theorem putResult_jobs (r : Result) (s : State) : (putResult r s).jobs = s.jobs := by rw [putResult_frame]
@[simp] theorem putResult_links (r : Result) (s : State) : (putResult r s).links = s.links := by rw [putResult_frame]
@[simp] theorem putResult_ws (r : Result) (s : State) : (putResult r s).ws = s.ws := by rw [putResult_frame]
@[simp] theorem putResult_col (r : Result) (s : State) : (putResult r s).col = s.col := by rw [putResult_frame]
@[simp] theorem putResult_sns (r : Result) (s : State) : (putResult r s).sns = s.sns := by rw [putResult_frame]
@[simp] theorem putResult_img (r : Result) (s : State) : (putResult r s).img = s.img := by rw [putResult_frame]
@[simp] theorem putResult_out (r : Result) (s : State) : (putResult r s).out = s.out := by rw [putResult_frame]

@[simp] theorem answer_pending (p : Pend) (st : Byte) (fin : Bool) (a b c d : Word) (s : State) : (answer p st fin a b c d s).pending = s.pending := by rw [answer_frame]
@[simp] theorem answer_free (p : Pend) (st : Byte) (fin : Bool) (a b c d : Word) (s : State) : (answer p st fin a b c d s).free = s.free := by rw [answer_frame]
@[simp] theorem answer_part (p : Pend) (st : Byte) (fin : Bool) (a b c d : Word) (s : State) : (answer p st fin a b c d s).part = s.part := by rw [answer_frame]
@[simp] theorem answer_serial (p : Pend) (st : Byte) (fin : Bool) (a b c d : Word) (s : State) : (answer p st fin a b c d s).serial = s.serial := by rw [answer_frame]
@[simp] theorem answer_glb (p : Pend) (st : Byte) (fin : Bool) (a b c d : Word) (s : State) : (answer p st fin a b c d s).glb = s.glb := by rw [answer_frame]
@[simp] theorem answer_pwr (p : Pend) (st : Byte) (fin : Bool) (a b c d : Word) (s : State) : (answer p st fin a b c d s).pwr = s.pwr := by rw [answer_frame]
@[simp] theorem answer_sec (p : Pend) (st : Byte) (fin : Bool) (a b c d : Word) (s : State) : (answer p st fin a b c d s).sec = s.sec := by rw [answer_frame]
@[simp] theorem answer_fls (p : Pend) (st : Byte) (fin : Bool) (a b c d : Word) (s : State) : (answer p st fin a b c d s).fls = s.fls := by rw [answer_frame]
@[simp] theorem answer_rng (p : Pend) (st : Byte) (fin : Bool) (a b c d : Word) (s : State) : (answer p st fin a b c d s).rng = s.rng := by rw [answer_frame]
@[simp] theorem answer_stk (p : Pend) (st : Byte) (fin : Bool) (a b c d : Word) (s : State) : (answer p st fin a b c d s).stk = s.stk := by rw [answer_frame]
@[simp] theorem answer_bnc (p : Pend) (st : Byte) (fin : Bool) (a b c d : Word) (s : State) : (answer p st fin a b c d s).bnc = s.bnc := by rw [answer_frame]
@[simp] theorem answer_pln (p : Pend) (st : Byte) (fin : Bool) (a b c d : Word) (s : State) : (answer p st fin a b c d s).pln = s.pln := by rw [answer_frame]
@[simp] theorem answer_lth (p : Pend) (st : Byte) (fin : Bool) (a b c d : Word) (s : State) : (answer p st fin a b c d s).lth = s.lth := by rw [answer_frame]
@[simp] theorem answer_trn (p : Pend) (st : Byte) (fin : Bool) (a b c d : Word) (s : State) : (answer p st fin a b c d s).trn = s.trn := by rw [answer_frame]
@[simp] theorem answer_sq (p : Pend) (st : Byte) (fin : Bool) (a b c d : Word) (s : State) : (answer p st fin a b c d s).sq = s.sq := by rw [answer_frame]
@[simp] theorem answer_jobs (p : Pend) (st : Byte) (fin : Bool) (a b c d : Word) (s : State) : (answer p st fin a b c d s).jobs = s.jobs := by rw [answer_frame]
@[simp] theorem answer_links (p : Pend) (st : Byte) (fin : Bool) (a b c d : Word) (s : State) : (answer p st fin a b c d s).links = s.links := by rw [answer_frame]
@[simp] theorem answer_ws (p : Pend) (st : Byte) (fin : Bool) (a b c d : Word) (s : State) : (answer p st fin a b c d s).ws = s.ws := by rw [answer_frame]
@[simp] theorem answer_col (p : Pend) (st : Byte) (fin : Bool) (a b c d : Word) (s : State) : (answer p st fin a b c d s).col = s.col := by rw [answer_frame]
@[simp] theorem answer_sns (p : Pend) (st : Byte) (fin : Bool) (a b c d : Word) (s : State) : (answer p st fin a b c d s).sns = s.sns := by rw [answer_frame]
@[simp] theorem answer_img (p : Pend) (st : Byte) (fin : Bool) (a b c d : Word) (s : State) : (answer p st fin a b c d s).img = s.img := by rw [answer_frame]
@[simp] theorem answer_out (p : Pend) (st : Byte) (fin : Bool) (a b c d : Word) (s : State) : (answer p st fin a b c d s).out = s.out := by rw [answer_frame]

@[simp] theorem endWith_pending (p : Pend) (st : Byte) (s : State) : (endWith p st s).pending = s.pending := by rw [endWith_frame]
@[simp] theorem endWith_free (p : Pend) (st : Byte) (s : State) : (endWith p st s).free = s.free := by rw [endWith_frame]
@[simp] theorem endWith_part (p : Pend) (st : Byte) (s : State) : (endWith p st s).part = s.part := by rw [endWith_frame]
@[simp] theorem endWith_serial (p : Pend) (st : Byte) (s : State) : (endWith p st s).serial = s.serial := by rw [endWith_frame]
@[simp] theorem endWith_glb (p : Pend) (st : Byte) (s : State) : (endWith p st s).glb = s.glb := by rw [endWith_frame]
@[simp] theorem endWith_pwr (p : Pend) (st : Byte) (s : State) : (endWith p st s).pwr = s.pwr := by rw [endWith_frame]
@[simp] theorem endWith_sec (p : Pend) (st : Byte) (s : State) : (endWith p st s).sec = s.sec := by rw [endWith_frame]
@[simp] theorem endWith_fls (p : Pend) (st : Byte) (s : State) : (endWith p st s).fls = s.fls := by rw [endWith_frame]
@[simp] theorem endWith_rng (p : Pend) (st : Byte) (s : State) : (endWith p st s).rng = s.rng := by rw [endWith_frame]
@[simp] theorem endWith_stk (p : Pend) (st : Byte) (s : State) : (endWith p st s).stk = s.stk := by rw [endWith_frame]
@[simp] theorem endWith_bnc (p : Pend) (st : Byte) (s : State) : (endWith p st s).bnc = s.bnc := by rw [endWith_frame]
@[simp] theorem endWith_pln (p : Pend) (st : Byte) (s : State) : (endWith p st s).pln = s.pln := by rw [endWith_frame]
@[simp] theorem endWith_lth (p : Pend) (st : Byte) (s : State) : (endWith p st s).lth = s.lth := by rw [endWith_frame]
@[simp] theorem endWith_trn (p : Pend) (st : Byte) (s : State) : (endWith p st s).trn = s.trn := by rw [endWith_frame]
@[simp] theorem endWith_sq (p : Pend) (st : Byte) (s : State) : (endWith p st s).sq = s.sq := by rw [endWith_frame]
@[simp] theorem endWith_jobs (p : Pend) (st : Byte) (s : State) : (endWith p st s).jobs = s.jobs := by rw [endWith_frame]
@[simp] theorem endWith_links (p : Pend) (st : Byte) (s : State) : (endWith p st s).links = s.links := by rw [endWith_frame]
@[simp] theorem endWith_ws (p : Pend) (st : Byte) (s : State) : (endWith p st s).ws = s.ws := by rw [endWith_frame]
@[simp] theorem endWith_col (p : Pend) (st : Byte) (s : State) : (endWith p st s).col = s.col := by rw [endWith_frame]
@[simp] theorem endWith_sns (p : Pend) (st : Byte) (s : State) : (endWith p st s).sns = s.sns := by rw [endWith_frame]
@[simp] theorem endWith_img (p : Pend) (st : Byte) (s : State) : (endWith p st s).img = s.img := by rw [endWith_frame]
@[simp] theorem endWith_out (p : Pend) (st : Byte) (s : State) : (endWith p st s).out = s.out := by rw [endWith_frame]

@[simp] theorem endOpt_pending (p : Option Pend) (st : Byte) (s : State) : (endOpt p st s).pending = s.pending := by rw [endOpt_frame]
@[simp] theorem endOpt_free (p : Option Pend) (st : Byte) (s : State) : (endOpt p st s).free = s.free := by rw [endOpt_frame]
@[simp] theorem endOpt_part (p : Option Pend) (st : Byte) (s : State) : (endOpt p st s).part = s.part := by rw [endOpt_frame]
@[simp] theorem endOpt_serial (p : Option Pend) (st : Byte) (s : State) : (endOpt p st s).serial = s.serial := by rw [endOpt_frame]
@[simp] theorem endOpt_glb (p : Option Pend) (st : Byte) (s : State) : (endOpt p st s).glb = s.glb := by rw [endOpt_frame]
@[simp] theorem endOpt_pwr (p : Option Pend) (st : Byte) (s : State) : (endOpt p st s).pwr = s.pwr := by rw [endOpt_frame]
@[simp] theorem endOpt_sec (p : Option Pend) (st : Byte) (s : State) : (endOpt p st s).sec = s.sec := by rw [endOpt_frame]
@[simp] theorem endOpt_fls (p : Option Pend) (st : Byte) (s : State) : (endOpt p st s).fls = s.fls := by rw [endOpt_frame]
@[simp] theorem endOpt_rng (p : Option Pend) (st : Byte) (s : State) : (endOpt p st s).rng = s.rng := by rw [endOpt_frame]
@[simp] theorem endOpt_stk (p : Option Pend) (st : Byte) (s : State) : (endOpt p st s).stk = s.stk := by rw [endOpt_frame]
@[simp] theorem endOpt_bnc (p : Option Pend) (st : Byte) (s : State) : (endOpt p st s).bnc = s.bnc := by rw [endOpt_frame]
@[simp] theorem endOpt_pln (p : Option Pend) (st : Byte) (s : State) : (endOpt p st s).pln = s.pln := by rw [endOpt_frame]
@[simp] theorem endOpt_lth (p : Option Pend) (st : Byte) (s : State) : (endOpt p st s).lth = s.lth := by rw [endOpt_frame]
@[simp] theorem endOpt_trn (p : Option Pend) (st : Byte) (s : State) : (endOpt p st s).trn = s.trn := by rw [endOpt_frame]
@[simp] theorem endOpt_sq (p : Option Pend) (st : Byte) (s : State) : (endOpt p st s).sq = s.sq := by rw [endOpt_frame]
@[simp] theorem endOpt_jobs (p : Option Pend) (st : Byte) (s : State) : (endOpt p st s).jobs = s.jobs := by rw [endOpt_frame]
@[simp] theorem endOpt_links (p : Option Pend) (st : Byte) (s : State) : (endOpt p st s).links = s.links := by rw [endOpt_frame]
@[simp] theorem endOpt_ws (p : Option Pend) (st : Byte) (s : State) : (endOpt p st s).ws = s.ws := by rw [endOpt_frame]
@[simp] theorem endOpt_col (p : Option Pend) (st : Byte) (s : State) : (endOpt p st s).col = s.col := by rw [endOpt_frame]
@[simp] theorem endOpt_sns (p : Option Pend) (st : Byte) (s : State) : (endOpt p st s).sns = s.sns := by rw [endOpt_frame]
@[simp] theorem endOpt_img (p : Option Pend) (st : Byte) (s : State) : (endOpt p st s).img = s.img := by rw [endOpt_frame]
@[simp] theorem endOpt_out (p : Option Pend) (st : Byte) (s : State) : (endOpt p st s).out = s.out := by rw [endOpt_frame]

@[simp] theorem startPending_pending (p : Pend) (s : State) : (startPending p s).pending = s.pending := by rw [startPending_frame]
@[simp] theorem startPending_free (p : Pend) (s : State) : (startPending p s).free = s.free := by rw [startPending_frame]
@[simp] theorem startPending_part (p : Pend) (s : State) : (startPending p s).part = s.part := by rw [startPending_frame]
@[simp] theorem startPending_serial (p : Pend) (s : State) : (startPending p s).serial = s.serial := by rw [startPending_frame]
@[simp] theorem startPending_glb (p : Pend) (s : State) : (startPending p s).glb = s.glb := by rw [startPending_frame]
@[simp] theorem startPending_pwr (p : Pend) (s : State) : (startPending p s).pwr = s.pwr := by rw [startPending_frame]
@[simp] theorem startPending_sec (p : Pend) (s : State) : (startPending p s).sec = s.sec := by rw [startPending_frame]
@[simp] theorem startPending_fls (p : Pend) (s : State) : (startPending p s).fls = s.fls := by rw [startPending_frame]
@[simp] theorem startPending_rng (p : Pend) (s : State) : (startPending p s).rng = s.rng := by rw [startPending_frame]
@[simp] theorem startPending_stk (p : Pend) (s : State) : (startPending p s).stk = s.stk := by rw [startPending_frame]
@[simp] theorem startPending_bnc (p : Pend) (s : State) : (startPending p s).bnc = s.bnc := by rw [startPending_frame]
@[simp] theorem startPending_pln (p : Pend) (s : State) : (startPending p s).pln = s.pln := by rw [startPending_frame]
@[simp] theorem startPending_lth (p : Pend) (s : State) : (startPending p s).lth = s.lth := by rw [startPending_frame]
@[simp] theorem startPending_trn (p : Pend) (s : State) : (startPending p s).trn = s.trn := by rw [startPending_frame]
@[simp] theorem startPending_sq (p : Pend) (s : State) : (startPending p s).sq = s.sq := by rw [startPending_frame]
@[simp] theorem startPending_jobs (p : Pend) (s : State) : (startPending p s).jobs = s.jobs := by rw [startPending_frame]
@[simp] theorem startPending_links (p : Pend) (s : State) : (startPending p s).links = s.links := by rw [startPending_frame]
@[simp] theorem startPending_ws (p : Pend) (s : State) : (startPending p s).ws = s.ws := by rw [startPending_frame]
@[simp] theorem startPending_col (p : Pend) (s : State) : (startPending p s).col = s.col := by rw [startPending_frame]
@[simp] theorem startPending_sns (p : Pend) (s : State) : (startPending p s).sns = s.sns := by rw [startPending_frame]
@[simp] theorem startPending_img (p : Pend) (s : State) : (startPending p s).img = s.img := by rw [startPending_frame]
@[simp] theorem startPending_out (p : Pend) (s : State) : (startPending p s).out = s.out := by rw [startPending_frame]

@[simp] theorem bumpPwr_own (i : Fin 6) (n : Nat) (s : State) :
    (bumpPwr i n s).pwr = { s.pwr with ctrs := upd s.pwr.ctrs i (ctrAdd · n) } := rfl
@[simp] theorem bumpHif_own (i : Fin 4) (n : Nat) (s : State) :
    (bumpHif i n s).hif = { s.hif with ctrs := upd s.hif.ctrs i (ctrAdd · n) } := rfl
@[simp] theorem bumpSec_own (i : Fin 5) (n : Nat) (s : State) :
    (bumpSec i n s).sec = { s.sec with ctrs := upd s.sec.ctrs i (ctrAdd · n) } := rfl
@[simp] theorem bumpFls_own (i : Fin 7) (n : Nat) (s : State) :
    (bumpFls i n s).fls = { s.fls with ctrs := upd s.fls.ctrs i (ctrAdd · n) } := rfl
@[simp] theorem bumpRng_own (i : Fin 3) (n : Nat) (s : State) :
    (bumpRng i n s).rng = { s.rng with ctrs := upd s.rng.ctrs i (ctrAdd · n) } := rfl
@[simp] theorem bumpStk_own (i : Fin 8) (n : Nat) (s : State) :
    (bumpStk i n s).stk = { s.stk with ctrs := upd s.stk.ctrs i (ctrAdd · n) } := rfl
@[simp] theorem bumpWs_own (i : Fin 2) (n : Nat) (s : State) :
    (bumpWs i n s).ws = { s.ws with ctrs := upd s.ws.ctrs i (ctrAdd · n) } := rfl
@[simp] theorem bumpCol_own (i : Fin 8) (n : Nat) (s : State) :
    (bumpCol i n s).col = { s.col with ctrs := upd s.col.ctrs i (ctrAdd · n) } := rfl
@[simp] theorem bumpBnc_own (b : Fin 4) (i : Fin 7) (n : Nat) (s : State) :
    (bumpBnc b i n s).bnc = upd s.bnc b (fun x => { x with ctrs := upd x.ctrs i (ctrAdd · n) }) := rfl
@[simp] theorem bumpPln_own (p : Fin 16) (i : Fin 10) (n : Nat) (s : State) :
    (bumpPln p i n s).pln = upd s.pln p (fun x => { x with ctrs := upd x.ctrs i (ctrAdd · n) }) := rfl
@[simp] theorem bumpLth_own (l : Fin 4) (i : Fin 4) (n : Nat) (s : State) :
    (bumpLth l i n s).lth = upd s.lth l (fun x => { x with ctrs := upd x.ctrs i (ctrAdd · n) }) := rfl
@[simp] theorem bumpLink_own (l : Fin 8) (i : Fin 8) (n : Nat) (s : State) :
    (bumpLink l i n s).links = upd s.links l (fun x => { x with ctrs := upd x.ctrs i (ctrAdd · n) }) := rfl
@[simp] theorem bumpSns_own (p : Fin 24) (i : Fin 5) (n : Nat) (s : State) :
    (bumpSns p i n s).sns = upd s.sns p (fun x => { x with ctrs := upd x.ctrs i (ctrAdd · n) }) := rfl

/-- With the main rails up, an event is a change of the collector. -/
theorem post_rec (e : Posted) (s : State) (h : awake s = true) : post e s = { s with evt := (post e s).evt } := by
  conv => lhs; rw [post_frame, post_awake _ _ h]

theorem bumpPwr_rec (i : Fin 6) (n : Nat) (s : State) (h : awake s = true) :
    bumpPwr i n s = { s with pwr := (bumpPwr i n s).pwr, evt := (bumpPwr i n s).evt } := by
  have e : s.aon = (bumpPwr i n s).aon := (bumpPwr_awake _ _ _ h).symm
  conv => rhs; rw [e]
  rfl
theorem bumpHif_rec (i : Fin 4) (n : Nat) (s : State) (h : awake s = true) :
    bumpHif i n s = { s with hif := (bumpHif i n s).hif, evt := (bumpHif i n s).evt } := by
  have e : s.aon = (bumpHif i n s).aon := (bumpHif_awake _ _ _ h).symm
  conv => rhs; rw [e]
  rfl
theorem bumpSec_rec (i : Fin 5) (n : Nat) (s : State) (h : awake s = true) :
    bumpSec i n s = { s with sec := (bumpSec i n s).sec, evt := (bumpSec i n s).evt } := by
  have e : s.aon = (bumpSec i n s).aon := (bumpSec_awake _ _ _ h).symm
  conv => rhs; rw [e]
  rfl
theorem bumpFls_rec (i : Fin 7) (n : Nat) (s : State) (h : awake s = true) :
    bumpFls i n s = { s with fls := (bumpFls i n s).fls, evt := (bumpFls i n s).evt } := by
  have e : s.aon = (bumpFls i n s).aon := (bumpFls_awake _ _ _ h).symm
  conv => rhs; rw [e]
  rfl
theorem bumpRng_rec (i : Fin 3) (n : Nat) (s : State) (h : awake s = true) :
    bumpRng i n s = { s with rng := (bumpRng i n s).rng, evt := (bumpRng i n s).evt } := by
  have e : s.aon = (bumpRng i n s).aon := (bumpRng_awake _ _ _ h).symm
  conv => rhs; rw [e]
  rfl
theorem bumpStk_rec (i : Fin 8) (n : Nat) (s : State) (h : awake s = true) :
    bumpStk i n s = { s with stk := (bumpStk i n s).stk, evt := (bumpStk i n s).evt } := by
  have e : s.aon = (bumpStk i n s).aon := (bumpStk_awake _ _ _ h).symm
  conv => rhs; rw [e]
  rfl
theorem bumpBnc_rec (b : Fin 4) (i : Fin 7) (n : Nat) (s : State) (h : awake s = true) :
    bumpBnc b i n s = { s with bnc := (bumpBnc b i n s).bnc, evt := (bumpBnc b i n s).evt } := by
  have e : s.aon = (bumpBnc b i n s).aon := (bumpBnc_awake _ _ _ _ h).symm
  conv => rhs; rw [e]
  rfl
theorem bumpPln_rec (p : Fin 16) (i : Fin 10) (n : Nat) (s : State) (h : awake s = true) :
    bumpPln p i n s = { s with pln := (bumpPln p i n s).pln, evt := (bumpPln p i n s).evt } := by
  have e : s.aon = (bumpPln p i n s).aon := (bumpPln_awake _ _ _ _ h).symm
  conv => rhs; rw [e]
  rfl
theorem bumpLth_rec (l : Fin 4) (i : Fin 4) (n : Nat) (s : State) (h : awake s = true) :
    bumpLth l i n s = { s with lth := (bumpLth l i n s).lth, evt := (bumpLth l i n s).evt } := by
  have e : s.aon = (bumpLth l i n s).aon := (bumpLth_awake _ _ _ _ h).symm
  conv => rhs; rw [e]
  rfl
theorem bumpLink_rec (l : Fin 8) (i : Fin 8) (n : Nat) (s : State) (h : awake s = true) :
    bumpLink l i n s = { s with links := (bumpLink l i n s).links, evt := (bumpLink l i n s).evt } := by
  have e : s.aon = (bumpLink l i n s).aon := (bumpLink_awake _ _ _ _ h).symm
  conv => rhs; rw [e]
  rfl
theorem bumpWs_rec (i : Fin 2) (n : Nat) (s : State) (h : awake s = true) :
    bumpWs i n s = { s with ws := (bumpWs i n s).ws, evt := (bumpWs i n s).evt } := by
  have e : s.aon = (bumpWs i n s).aon := (bumpWs_awake _ _ _ h).symm
  conv => rhs; rw [e]
  rfl
theorem bumpCol_rec (i : Fin 8) (n : Nat) (s : State) (h : awake s = true) :
    bumpCol i n s = { s with col := (bumpCol i n s).col, evt := (bumpCol i n s).evt } := by
  have e : s.aon = (bumpCol i n s).aon := (bumpCol_awake _ _ _ h).symm
  conv => rhs; rw [e]
  rfl
theorem bumpSns_rec (p : Fin 24) (i : Fin 5) (n : Nat) (s : State) (h : awake s = true) :
    bumpSns p i n s = { s with sns := (bumpSns p i n s).sns, evt := (bumpSns p i n s).evt } := by
  have e : s.aon = (bumpSns p i n s).aon := (bumpSns_awake _ _ _ _ h).symm
  conv => rhs; rw [e]
  rfl
theorem bumpTrn_rec (j : Fin 4) (i : Fin 6) (n : Nat) (s : State) (h : awake s = true) :
    bumpTrn j i n s = { s with jobs := (bumpTrn j i n s).jobs, evt := (bumpTrn j i n s).evt } := by
  have e : s.aon = (bumpTrn j i n s).aon := (bumpTrn_awake _ _ _ _ h).symm
  conv => rhs; rw [e]
  exact bumpTrn_frame ..
theorem bumpSeq_rec (j : Fin 4) (i : Fin 4) (n : Nat) (s : State) (h : awake s = true) :
    bumpSeq j i n s = { s with jobs := (bumpSeq j i n s).jobs, evt := (bumpSeq j i n s).evt } := by
  have e : s.aon = (bumpSeq j i n s).aon := (bumpSeq_awake _ _ _ _ h).symm
  conv => rhs; rw [e]
  exact bumpSeq_frame ..
theorem bumpSlices_rec (s : State) (h : awake s = true) :
    bumpSlices s = { s with sq := (bumpSlices s).sq, evt := (bumpSlices s).evt } := by
  have e : s.aon = (bumpSlices s).aon := (bumpSlices_awake _ h).symm
  conv => rhs; rw [e]
  rfl
theorem bumpTelDrops_rec (s : State) (h : awake s = true) :
    bumpTelDrops s = { s with trn := (bumpTelDrops s).trn, evt := (bumpTelDrops s).evt } := by
  have e : s.aon = (bumpTelDrops s).aon := (bumpTelDrops_awake _ h).symm
  conv => rhs; rw [e]
  rfl

/-- With the main rails up, a result leaves the always-on domain alone. -/
theorem putResult_awake (r : Result) (s : State) (h : awake s = true) : (putResult r s).aon = s.aon := by
  unfold putResult
  split
  · simp
  · split
    · rfl
    · rw [post_awake _ _ (by simpa [awake] using h)]
      exact bumpHif_awake _ _ _ h

theorem answer_awake (p : Pend) (st : Byte) (fin : Bool) (a b c d : Word) (s : State) (h : awake s = true) :
    (answer p st fin a b c d s).aon = s.aon := by
  unfold answer
  split
  · split
    · rw [putResult_awake]
      · split <;> rfl
      · cases fin <;> simpa [awake] using h
    · rfl
  · split <;> rfl

theorem endWith_awake (p : Pend) (st : Byte) (s : State) (h : awake s = true) : (endWith p st s).aon = s.aon :=
  answer_awake _ _ _ _ _ _ _ _ h

/-- A command that is taken leaves the queue and runs, or marks the time of the session's last request. -/
theorem takeCmd_frame (c : Cmd) (op : Byte) (s t : State) (h : takeCmd c op s = some t) :
    t = { s with hif := t.hif, mgmt := t.mgmt } := by
  unfold takeCmd at h
  split at h
  · cases h
  · split at h
    · split at h
      · cases h
      · split at h
        · cases h; rfl
        · cases h
    · split at h
      · cases h; rfl
      · cases h

/-- A command that is taken and that nothing turns away runs. -/
theorem runCmd_runs (c : Cmd) (op : Byte) (k : Pend → State → State) (s s1 : State)
    (h : takeCmd c op s = some s1) (hg : gateStatus c.origin op s1 = none) (hk : opKnown c.origin op = true) :
    runCmd c op false k s = .next (k (pendOf c op s1) s1) := by
  simp [runCmd, h, hg, hk]

/-- A command that is turned away ends with the status that turns it away. -/
theorem runCmd_gated (c : Cmd) (op : Byte) (r : Bool) (k : Pend → State → State) (s s1 : State) (st : Byte)
    (h : takeCmd c op s = some s1) (hg : gateStatus c.origin op s1 = some st) :
    runCmd c op r k s = .next (endWith (pendOf c op s1) st s1) := by
  simp [runCmd, h, hg]

end Sys2Proof.Machine
end

