-- ==== Sys2Proof/Laws/PerInstr.lean ====
section
/-! SUPPORT. A statement about every command as syntax: a command of the command processor (one that carries
a `Cmd`) has an opcode, and no other row has one (R374, R387). -/

namespace Sys2Proof.Laws.Opcode

/-- A row names an opcode exactly when it carries a command of the command processor. -/
def Statement (i : Instr) : Prop := (opcodeOf i).isSome = (cmdOf i).isSome

theorem cmdDoorbell (x0 : BitVec 16) : Statement (.cmdDoorbell x0) := rfl
theorem hifResAck (x0 : BitVec 16) (x1 : Bool) : Statement (.hifResAck x0 x1) := rfl
theorem unknownOpcode (x0 : Cmd) (x1 : Byte) : Statement (.unknownOpcode x0 x1) := rfl
theorem setPower (x0 : Cmd) : Statement (.setPower x0) := rfl
theorem setPerf (x0 : Cmd) : Statement (.setPerf x0) := rfl
theorem imageOpen (x0 : Cmd) : Statement (.imageOpen x0) := rfl
theorem imageWrite (x0 : Cmd) (x1 : List Byte) : Statement (.imageWrite x0 x1) := rfl
theorem imageCommit (x0 : Cmd) (x1 : CommitVerdict) : Statement (.imageCommit x0 x1) := rfl
theorem imageSelect (x0 : Cmd) : Statement (.imageSelect x0) := rfl
theorem jobStart (x0 : Cmd) : Statement (.jobStart x0) := rfl
theorem jobStartRestore (x0 : Cmd) (x1 : List Part) (x2 : Bool) : Statement (.jobStartRestore x0 x1 x2) := rfl
theorem jobStop (x0 : Cmd) : Statement (.jobStop x0) := rfl
theorem snapshot (x0 : Cmd) : Statement (.snapshot x0) := rfl
theorem replay (x0 : Cmd) : Statement (.replay x0) := rfl
theorem selftest (x0 : Cmd) : Statement (.selftest x0) := rfl
theorem retrain (x0 : Cmd) : Statement (.retrain x0) := rfl
theorem attest (x0 : Cmd) (x1 : AttestReq) : Statement (.attest x0 x1) := rfl
theorem keyRelease (x0 : Cmd) (x1 : Option (List Byte)) : Statement (.keyRelease x0 x1) := rfl
theorem containerChunk (x0 : Fin 4) (x1 : List Byte) : Statement (.containerChunk x0 x1) := rfl
theorem keyUpdate (x0 : Cmd) (x1 : List Byte) (x2 : Bool) : Statement (.keyUpdate x0 x1 x2) := rfl
theorem tenantEnd (x0 : Cmd) (x1 : Word) : Statement (.tenantEnd x0 x1) := rfl
theorem flashUnlock (x0 : Cmd) : Statement (.flashUnlock x0) := rfl
theorem flashLockClose (x0 : Cmd) : Statement (.flashLockClose x0) := rfl
theorem flashLockSetPasswordLocked (x0 : Cmd) : Statement (.flashLockSetPasswordLocked x0) := rfl
theorem flashLockSetPermanent (x0 : Cmd) : Statement (.flashLockSetPermanent x0) := rfl
theorem flashLockSetUnlocked (x0 : Cmd) : Statement (.flashLockSetUnlocked x0) := rfl
theorem flashLockSetPassword (x0 : Cmd) : Statement (.flashLockSetPassword x0) := rfl
theorem perstN : Statement .perstN := rfl
theorem mgmtSessionOpen (x0 : Client) : Statement (.mgmtSessionOpen x0) := rfl
theorem mgmtSessionIdleTimeout : Statement .mgmtSessionIdleTimeout := rfl
theorem mgmtSessionClose : Statement .mgmtSessionClose := rfl
theorem telemetryStream (x0 : Cmd) : Statement (.telemetryStream x0) := rfl
theorem logRead (x0 : Cmd) : Statement (.logRead x0) := rfl
theorem debugOpen (x0 : Cmd) : Statement (.debugOpen x0) := rfl
theorem debugClose (x0 : Cmd) : Statement (.debugClose x0) := rfl
theorem fwUpdate (x0 : Cmd) (x1 : FwCopy) (x2 : List Byte) : Statement (.fwUpdate x0 x1 x2) := rfl
theorem credUpdate (x0 : Cmd) (x1 : DWord) (x2 : List Byte) : Statement (.credUpdate x0 x1 x2) := rfl
theorem certUpdate (x0 : Cmd) (x1 : DWord) (x2 : List Byte) : Statement (.certUpdate x0 x1 x2) := rfl
theorem commission (x0 : Cmd) (x1 : BitVec 10) (x2 : Word) (x3 : List Byte) : Statement (.commission x0 x1 x2 x3) := rfl
theorem userFile (x0 : Cmd) (x1 : Fin 4) (x2 : UserOp) : Statement (.userFile x0 x1 x2) := rfl
theorem rngCapture (x0 : Cmd) : Statement (.rngCapture x0) := rfl
theorem keyProvision (x0 : Cmd) (x1 : List Byte) : Statement (.keyProvision x0 x1) := rfl
theorem powerSet (x0 : Byte) (x1 : Bool) : Statement (.powerSet x0 x1) := rfl
theorem powerGet : Statement .powerGet := rfl
theorem wakeCause : Statement .wakeCause := rfl
theorem ident : Statement .ident := rfl
theorem wakeN : Statement .wakeN := rfl
theorem modRstN : Statement .modRstN := rfl
theorem supply12vLoss : Statement .supply12vLoss := rfl
theorem supply12vApplied : Statement .supply12vApplied := rfl
theorem aonPor : Statement .aonPor := rfl
theorem railFault (x0 : Rail) : Statement (.railFault x0) := rfl
theorem railPowerGood (x0 : Rail) : Statement (.railPowerGood x0) := rfl
theorem railStepTimeout : Statement .railStepTimeout := rfl
theorem quiesceTimeout : Statement .quiesceTimeout := rfl
theorem thermalSample (x0 : BitVec 8) : Statement (.thermalSample x0) := rfl
theorem throttleRelax : Statement .throttleRelax := rfl
theorem thermalShutdown (x0 : BitVec 8) : Statement (.thermalShutdown x0) := rfl
theorem thermalWakeHoldEnd : Statement .thermalWakeHoldEnd := rfl
theorem watchdogExpiry : Statement .watchdogExpiry := rfl
theorem mgmtCoreResume : Statement .mgmtCoreResume := rfl
theorem imageVerifyDone (x0 : Bool) (x1 : List FlashRead) (x2 : Bool) : Statement (.imageVerifyDone x0 x1 x2) := rfl
theorem trainingDone : Statement .trainingDone := rfl
theorem parseComplete (x0 : ImageBody) (x1 : Word) : Statement (.parseComplete x0 x1) := rfl
theorem bootTimeout : Statement .bootTimeout := rfl
theorem rngWindowDone : Statement .rngWindowDone := rfl
theorem rngRctFail : Statement .rngRctFail := rfl
theorem rngAptFail : Statement .rngAptFail := rfl
theorem rngRequestServed : Statement .rngRequestServed := rfl
theorem benchPass (x0 : Fin 4) : Statement (.benchPass x0) := rfl
theorem benchWeightLoad (x0 : Fin 4) (x1 : BenchCycles) (x2 : Ecc) : Statement (.benchWeightLoad x0 x1 x2) := rfl
theorem benchActivationRead (x0 : Fin 4) (x1 : BenchCycles) (x2 : Ecc) : Statement (.benchActivationRead x0 x1 x2) := rfl
theorem benchOutputWrite (x0 : Fin 4) (x1 : BenchCycles) : Statement (.benchOutputWrite x0 x1) := rfl
theorem bncWaitTimeout (x0 : Fin 4) : Statement (.bncWaitTimeout x0) := rfl
theorem benchSelftestDone (x0 : Fin 4) (x1 : Bool) : Statement (.benchSelftestDone x0 x1) := rfl
theorem bncCfgWrite (x0 : Fin 4) (x1 : Word) : Statement (.bncCfgWrite x0 x1) := rfl
theorem planeArith (x0 : Fin 16) (x1 : PArith) : Statement (.planeArith x0 x1) := rfl
theorem planeCmpSelect (x0 : Fin 16) (x1 : PCmp) : Statement (.planeCmpSelect x0 x1) := rfl
theorem planeConvert (x0 : Fin 16) (x1 : PConv) : Statement (.planeConvert x0 x1) := rfl
theorem planeScalar (x0 : Fin 16) (x1 : PScalar) : Statement (.planeScalar x0 x1) := rfl
theorem planeLoad (x0 : Fin 16) (x1 : PMem) (x2 : Ecc) : Statement (.planeLoad x0 x1 x2) := rfl
theorem planeStore (x0 : Fin 16) (x1 : PMem) : Statement (.planeStore x0 x1) := rfl
theorem planeGather (x0 : Fin 16) (x1 : PIndexed) (x2 : Ecc) : Statement (.planeGather x0 x1 x2) := rfl
theorem planeScatter (x0 : Fin 16) (x1 : PIndexed) : Statement (.planeScatter x0 x1) := rfl
theorem scatterAdd (x0 : Fin 16) (x1 : PIndexed) (x2 : Ecc) : Statement (.scatterAdd x0 x1 x2) := rfl
theorem planeReduce (x0 : Fin 16) (x1 : PReduce) : Statement (.planeReduce x0 x1) := rfl
theorem accRead (x0 : Fin 16) (x1 : PAccRead) : Statement (.accRead x0 x1) := rfl
theorem latheRequest (x0 : Fin 16) (x1 : PLathe) : Statement (.latheRequest x0 x1) := rfl
theorem latheGrant (x0 : Fin 4) : Statement (.latheGrant x0) := rfl
theorem mask (x0 : Fin 16) (x1 : PMask) : Statement (.mask x0 x1) := rfl
theorem rawWord (x0 : Fin 16) (x1 : PDraw) : Statement (.rawWord x0 x1) := rfl
theorem uniform (x0 : Fin 16) (x1 : PDraw) : Statement (.uniform x0 x1) := rfl
theorem planeWait (x0 : Fin 16) (x1 : BitVec 8) : Statement (.planeWait x0 x1) := rfl
theorem planeSignal (x0 : Fin 16) (x1 : PSlot) : Statement (.planeSignal x0 x1) := rfl
theorem plnWaitTimeout (x0 : Fin 16) : Statement (.plnWaitTimeout x0) := rfl
theorem softmax (x0 : Fin 16) (x1 : PSoftmax) (x2 : Ecc) : Statement (.softmax x0 x1 x2) := rfl
theorem normStats (x0 : Fin 16) (x1 : PStats) (x2 : Ecc) : Statement (.normStats x0 x1 x2) := rfl
theorem normCombine (x0 x1 x2 : Fin 16) (x3 : PNorm) : Statement (.normCombine x0 x1 x2 x3) := rfl
theorem plnCfgWrite (x0 : Fin 16) (x1 : Word) : Statement (.plnCfgWrite x0 x1) := rfl
theorem planeSelftestDone (x0 : Fin 16) (x1 : Bool) : Statement (.planeSelftestDone x0 x1) := rfl
theorem latheSelftestDone (x0 : Fin 4) (x1 : Bool) : Statement (.latheSelftestDone x0 x1) := rfl
theorem jobHoldRelease (x0 : Fin 4) : Statement (.jobHoldRelease x0) := rfl
theorem stepStart (x0 : Fin 4) (x1 : Nat) : Statement (.stepStart x0 x1) := rfl
theorem scheduleEntryStart (x0 : Fin 4) : Statement (.scheduleEntryStart x0) := rfl
theorem inferenceTriggerPeriod (x0 : Fin 4) : Statement (.inferenceTriggerPeriod x0) := rfl
theorem inferenceTriggerRing (x0 : Fin 4) : Statement (.inferenceTriggerRing x0) := rfl
theorem inferenceRequestDeferredStart (x0 : Fin 4) : Statement (.inferenceRequestDeferredStart x0) := rfl
theorem gradPartialAdd (x0 : Fin 4) (x1 : BitVec 16) (x2 : Nat) (x3 : PartialAt) (x4 : DrawerEcc) : Statement (.gradPartialAdd x0 x1 x2 x3 x4) := rfl
theorem glueEnter (x0 : Fin 4) (x1 : BitVec 16) (x2 : DrawerEcc) : Statement (.glueEnter x0 x1 x2) := rfl
theorem clampFactor (x0 : Fin 4) (x1 : BitVec 16) : Statement (.clampFactor x0 x1) := rfl
theorem optimizerAdamw (x0 : Fin 4) (x1 : BitVec 16) (x2 : DrawerEcc) : Statement (.optimizerAdamw x0 x1 x2) := rfl
theorem optimizerSgdm (x0 : Fin 4) (x1 : BitVec 16) (x2 : DrawerEcc) : Statement (.optimizerSgdm x0 x1 x2) := rfl
theorem optimizerReaderWaitEnd (x0 : Fin 4) (x1 : Nat) : Statement (.optimizerReaderWaitEnd x0 x1) := rfl
theorem readySend (x0 : Fin 4) : Statement (.readySend x0) := rfl
theorem ready (x0 : Fin 8) (x1 : MsgHdr) (x2 : Nat) (x3 : Nat) : Statement (.ready x0 x1 x2 x3) := rfl
theorem commit (x0 : Fin 8) (x1 : MsgHdr) (x2 : Nat) (x3 : Nat) : Statement (.commit x0 x1 x2 x3) := rfl
theorem snapshotStagingDone (x0 : Fin 4) (x1 : DrawerEcc) : Statement (.snapshotStagingDone x0 x1) := rfl
theorem snapshotExportDone (x0 : Fin 4) (x1 : Bool) (x2 : DrawerEcc) : Statement (.snapshotExportDone x0 x1 x2) := rfl
theorem trnTelConfigWrite (x0 : Bool) (x1 : DWord) : Statement (.trnTelConfigWrite x0 x1) := rfl
theorem trnTelRdWrite (x0 : Word) : Statement (.trnTelRdWrite x0) := rfl
theorem trnStatFlagsClear (x0 : Word) : Statement (.trnStatFlagsClear x0) := rfl
theorem heartbeat (x0 : Fin 8) (x1 : MsgHdr) : Statement (.heartbeat x0 x1) := rfl
theorem beat (x0 : Fin 8) (x1 : MsgHdr) : Statement (.beat x0 x1) := rfl
theorem heartbeatDue : Statement .heartbeatDue := rfl
theorem beatDue : Statement .beatDue := rfl
theorem heartbeatMissed (x0 : Nat) : Statement (.heartbeatMissed x0) := rfl
theorem beatMissed : Statement .beatMissed := rfl
theorem quiesceLimitExpiry (x0 : Nat) : Statement (.quiesceLimitExpiry x0) := rfl
theorem acceptTimeout (x0 : Nat) : Statement (.acceptTimeout x0) := rfl
theorem stop (x0 : Fin 8) (x1 : MsgHdr) (x2 : Nat) (x3 : Nat) : Statement (.stop x0 x1 x2 x3) := rfl
theorem abort (x0 : Fin 8) (x1 : MsgHdr) (x2 : Nat) (x3 : Nat) : Statement (.abort x0 x1 x2 x3) := rfl
theorem linkUp (x0 : Fin 8) (x1 : MsgHdr) (x2 : Adj) : Statement (.linkUp x0 x1 x2) := rfl
theorem linkDown (x0 : Fin 8) (x1 : MsgHdr) (x2 : Adj) : Statement (.linkDown x0 x1 x2) := rfl
theorem join (x0 : Fin 8) (x1 : MsgHdr) (x2 : JoinReq) : Statement (.join x0 x1 x2) := rfl
theorem joinRefused (x0 : Fin 8) (x1 : MsgHdr) : Statement (.joinRefused x0 x1) := rfl
theorem joinRepeat : Statement .joinRepeat := rfl
theorem formWaitExpiry (x0 : List Arrival) : Statement (.formWaitExpiry x0) := rfl
theorem propose (x0 : Fin 8) (x1 : MsgHdr) (x2 : Proposal) : Statement (.propose x0 x1 x2) := rfl
theorem accept (x0 : Fin 8) (x1 : MsgHdr) (x2 : Word) (x3 : List Member) : Statement (.accept x0 x1 x2 x3) := rfl
theorem enact (x0 : Fin 8) (x1 : MsgHdr) (x2 : Enactment) : Statement (.enact x0 x1 x2) := rfl
theorem leave (x0 : Fin 8) (x1 : MsgHdr) : Statement (.leave x0 x1) := rfl
theorem lastCommitted (x0 : Fin 8) (x1 : MsgHdr) (x2 : Bool) (x3 : Nat) (x4 : Nat) (x5 : Bool) : Statement (.lastCommitted x0 x1 x2 x3 x4 x5) := rfl
theorem snapReq (x0 : Fin 8) (x1 : MsgHdr) (x2 : Nat) (x3 : Option Nat) : Statement (.snapReq x0 x1 x2 x3) := rfl
theorem time (x0 : Fin 8) (x1 : MsgHdr) (x2 : DWord) (x3 : DWord) (x4 : DWord) (x5 : DWord) : Statement (.time x0 x1 x2 x3 x4 x5) := rfl
theorem timeExchangeDue : Statement .timeExchangeDue := rfl
theorem retrainNote (x0 : Fin 8) (x1 : MsgHdr) : Statement (.retrainNote x0 x1) := rfl
theorem dissolve (x0 : Fin 8) (x1 : MsgHdr) (x2 : DWord) : Statement (.dissolve x0 x1 x2) := rfl
theorem replayReq (x0 : Fin 8) (x1 : MsgHdr) (x2 : Nat) (x3 : Option Nat) : Statement (.replayReq x0 x1 x2 x3) := rfl
theorem replayResult (x0 : Fin 8) (x1 : MsgHdr) (x2 : Nat) (x3 : ReplayOutcome) : Statement (.replayResult x0 x1 x2 x3) := rfl
theorem restoreOffer (x0 : Fin 8) (x1 : MsgHdr) (x2 : Nat) (x3 : RestoreMsg) : Statement (.restoreOffer x0 x1 x2 x3) := rfl
theorem messageForward (x0 : Fin 8) (x1 : MsgHdr) (x2 : Payload) : Statement (.messageForward x0 x1 x2) := rfl
theorem signalDetect (x0 : Fin 8) : Statement (.signalDetect x0) := rfl
theorem trainTimeout (x0 : Fin 8) : Statement (.trainTimeout x0) := rfl
theorem trainRetryDue (x0 : Fin 8) : Statement (.trainRetryDue x0) := rfl
theorem hello (x0 : Fin 8) (x1 : Hello) : Statement (.hello x0 x1) := rfl
theorem helloResendDue (x0 : Fin 8) : Statement (.helloResendDue x0) := rfl
theorem helloTimeout (x0 : Fin 8) : Statement (.helloTimeout x0) := rfl
theorem keysOnTimeout (x0 : Fin 8) : Statement (.keysOnTimeout x0) := rfl
theorem notAdmittedHelloDue (x0 : Fin 8) : Statement (.notAdmittedHelloDue x0) := rfl
theorem linkFlit (x0 : Fin 8) (x1 : Flit) : Statement (.linkFlit x0 x1) := rfl
theorem quiesceFlit (x0 : Fin 8) (x1 : FlitRx) (x2 : LinkBody) : Statement (.quiesceFlit x0 x1 x2) := rfl
theorem linkFlitDue (x0 : Fin 8) : Statement (.linkFlitDue x0) := rfl
theorem retxTimeout (x0 : Fin 8) : Statement (.retxTimeout x0) := rfl
theorem tagFailLimit (x0 : Fin 8) : Statement (.tagFailLimit x0) := rfl
theorem los (x0 : Fin 8) : Statement (.los x0) := rfl
theorem rekeyStart (x0 : Fin 8) : Statement (.rekeyStart x0) := rfl
theorem keySwitch (x0 : Fin 8) (x1 : Bool) : Statement (.keySwitch x0 x1) := rfl
theorem rekeyRetryDue (x0 : Fin 8) : Statement (.rekeyRetryDue x0) := rfl
theorem rekeyLate (x0 : Fin 8) : Statement (.rekeyLate x0) := rfl
theorem linkExhausted (x0 : Fin 8) : Statement (.linkExhausted x0) := rfl
theorem fecErrorBurst (x0 : Fin 8) (x1 : Nat) (x2 : Nat) : Statement (.fecErrorBurst x0 x1 x2) := rfl
theorem linkMarginLow (x0 : Fin 8) (x1 : Byte) (x2 : Byte) (x3 : BitVec 2) : Statement (.linkMarginLow x0 x1 x2 x3) := rfl
theorem linkRetrainDone (x0 : Fin 8) : Statement (.linkRetrainDone x0) := rfl
theorem linkRetrainTimeout (x0 : Fin 8) : Statement (.linkRetrainTimeout x0) := rfl
theorem fabDisable (x0 : Fin 8) (x1 : Bool) : Statement (.fabDisable x0 x1) := rfl
theorem fabRestart (x0 : Fin 8) : Statement (.fabRestart x0) := rfl
theorem sendWake (x0 : Fin 8) : Statement (.sendWake x0) := rfl
theorem retrainReq (x0 : Fin 8) : Statement (.retrainReq x0) := rfl
theorem wakePattern (x0 : Fin 8) : Statement (.wakePattern x0) := rfl
theorem fabWsCfgWrite (x0 : Word) : Statement (.fabWsCfgWrite x0) := rfl
theorem glue (x0 : Fin 8) (x1 : MsgHdr) (x2 : ColHdr) (x3 : List Word) (x4 : DrawerEcc) : Statement (.glue x0 x1 x2 x3 x4) := rfl
theorem glueOut (x0 : Fin 8) (x1 : MsgHdr) (x2 : ColHdr) (x3 : List Word) : Statement (.glueOut x0 x1 x2 x3) := rfl
theorem glueDirect (x0 : Fin 8) (x1 : MsgHdr) (x2 : ColHdr) (x3 : List Word) : Statement (.glueDirect x0 x1 x2 x3) := rfl
theorem gather (x0 : Fin 8) (x1 : MsgHdr) (x2 : ColHdr) (x3 : List Byte) : Statement (.gather x0 x1 x2 x3) := rfl
theorem tally (x0 : Fin 8) (x1 : MsgHdr) (x2 : ColHdr) (x3 : Tally) : Statement (.tally x0 x1 x2 x3) := rfl
theorem norm (x0 : Fin 8) (x1 : MsgHdr) (x2 : ColHdr) (x3 : List NormWire) : Statement (.norm x0 x1 x2 x3) := rfl
theorem peerReq (x0 : Fin 8) (x1 : MsgHdr) (x2 : ColHdr) (x3 : PeerExtent) : Statement (.peerReq x0 x1 x2 x3) := rfl
theorem peerGrant (x0 : Fin 8) (x1 : MsgHdr) (x2 : ColHdr) : Statement (.peerGrant x0 x1 x2) := rfl
theorem peerData (x0 : Fin 8) (x1 : MsgHdr) (x2 : ColHdr) (x3 : Nat) (x4 : Bool) (x5 : List Byte) : Statement (.peerData x0 x1 x2 x3 x4 x5) := rfl
theorem peerDone (x0 : Fin 8) (x1 : MsgHdr) (x2 : ColHdr) : Statement (.peerDone x0 x1 x2) := rfl
theorem expDispatch (x0 : Fin 8) (x1 : MsgHdr) (x2 : ColHdr) (x3 : List ExpEntry) : Statement (.expDispatch x0 x1 x2 x3) := rfl
theorem expReturn (x0 : Fin 8) (x1 : MsgHdr) (x2 : ColHdr) (x3 : List ExpEntry) : Statement (.expReturn x0 x1 x2 x3) := rfl
theorem stateReq (x0 : Fin 8) (x1 : MsgHdr) (x2 : ColHdr) (x3 : DrawerEcc) : Statement (.stateReq x0 x1 x2 x3) := rfl
theorem stateData (x0 : Fin 8) (x1 : MsgHdr) (x2 : ColHdr) (x3 : List Byte) (x4 : StateRec) : Statement (.stateData x0 x1 x2 x3 x4) := rfl
theorem colTimeout (x0 : Fin 4) (x1 : BitVec 16) (x2 : Nat) : Statement (.colTimeout x0 x1 x2) := rfl
theorem colCfgWrite (x0 : Word) : Statement (.colCfgWrite x0) := rfl
theorem copy (x0 : Fin 8) (x1 : Ecc) : Statement (.copy x0 x1) := rfl
theorem copySignal (x0 : Fin 8) : Statement (.copySignal x0) := rfl
theorem ringWindow (x0 : Fin 8) (x1 : Ecc) : Statement (.ringWindow x0 x1) := rfl
theorem copyFree (x0 : Fin 8) : Statement (.copyFree x0) := rfl
theorem stkWaitTimeout (x0 : Fin 8) : Statement (.stkWaitTimeout x0) := rfl
theorem pageOut (x0 : BitVec 16) (x1 : Nat) : Statement (.pageOut x0 x1) := rfl
theorem pageIn (x0 : BitVec 16) (x1 : Nat) (x2 : SpillRead) : Statement (.pageIn x0 x1 x2) := rfl
theorem spillTimeout (x0 : BitVec 16) (x1 : Nat) : Statement (.spillTimeout x0 x1) := rfl
theorem patrolScrub (x0 : BitVec 16) (x1 : Nat) (x2 : ScrubFind) : Statement (.patrolScrub x0 x1 x2) := rfl
theorem imbalanceWindow : Statement .imbalanceWindow := rfl
theorem dramCorrBurst (x0 : Fin 4) : Statement (.dramCorrBurst x0) := rfl
theorem dramMarginLow (x0 : Fin 4) : Statement (.dramMarginLow x0) := rfl
theorem dramRetrainDone (x0 : Fin 4) (x1 : Bool) : Statement (.dramRetrainDone x0 x1) := rfl
theorem stkCfgWrite (x0 : Word) : Statement (.stkCfgWrite x0) := rfl
theorem stkSpillWrite (x0 : Bool) (x1 : DWord) : Statement (.stkSpillWrite x0 x1) := rfl
theorem flashQueueIssue : Statement .flashQueueIssue := rfl
theorem flashProgramDone (x0 : Bool) (x1 : Bool) : Statement (.flashProgramDone x0 x1) := rfl
theorem flashEraseDone (x0 : Bool) (x1 : Bool) : Statement (.flashEraseDone x0 x1) := rfl
theorem frameSync (x0 : Fin 24) (x1 : Bool) : Statement (.frameSync x0 x1) := rfl
theorem sensorWord (x0 : Fin 24) (x1 : Word) : Statement (.sensorWord x0 x1) := rfl
theorem ringEntryWrite (x0 : Fin 24) : Statement (.ringEntryWrite x0) := rfl
theorem snsClkLoss (x0 : Fin 24) : Statement (.snsClkLoss x0) := rfl
theorem ppsEdge : Statement .ppsEdge := rfl
theorem tkHoldover : Statement .tkHoldover := rfl
theorem cmpTrip (x0 : Fin 4) : Statement (.cmpTrip x0) := rfl
theorem cmpRelease (x0 : Fin 4) : Statement (.cmpRelease x0) := rfl
theorem aonTimerFire : Statement .aonTimerFire := rfl
theorem aonTimerWrite (x0 : DWord) : Statement (.aonTimerWrite x0) := rfl
theorem aonAlarmClear (x0 : Word) : Statement (.aonAlarmClear x0) := rfl
theorem pwrWakeCauseClear (x0 : Word) : Statement (.pwrWakeCauseClear x0) := rfl
theorem peakClr : Statement .peakClr := rfl
theorem ephemeralKeyExpiry (x0 : DWord) : Statement (.ephemeralKeyExpiry x0) := rfl
theorem evtRecordFile : Statement .evtRecordFile := rfl
theorem evtRingConfigWrite (x0 : Bool) (x1 : DWord) : Statement (.evtRingConfigWrite x0 x1) := rfl
theorem evtRingRdWrite (x0 : Word) : Statement (.evtRingRdWrite x0) := rfl
theorem registerWrite (x0 : BitVec 24) (x1 : Bool) (x2 : DWord) : Statement (.registerWrite x0 x1 x2) := rfl
theorem flitAlignment (x0 : Fin 8) : Statement (.flitAlignment x0) := rfl
theorem pcieLinkUp (x0 : Nat) (x1 : Nat) : Statement (.pcieLinkUp x0 x1) := rfl
theorem msixUnmask (x0 : Fin 4) : Statement (.msixUnmask x0) := rfl
theorem clkPresent (x0 : Fin 24) : Statement (.clkPresent x0) := rfl
theorem jtagRecoveryLoad (x0 : FwCopy) : Statement (.jtagRecoveryLoad x0) := rfl

end Sys2Proof.Laws.Opcode
end

