-- ==== Sys2Proof/Tests/Slice0.lean ====
section
/-! SUPPORT. Tests of the model and witnesses for the statements: an ill-formed command for each check of WellFormed, the
spec's worked examples, a few single steps, and for every statement with hypotheses a concrete state and operands that meet
them, clause by clause. -/

open Sys2Proof Sys2Proof.Machine Sys2Proof.Claims

namespace Sys2Proof.Tests

/-- A module that has booted without an image: RUN, the host's link up. -/
def rdy : State :=
  { State.reset with
    glb := { Glb.reset with phase := .done, state := .running },
    pwr := { Pwr.reset with seq := .idle, pwrGood := true, pllLock := true },
    hif := { Hif.reset with pcieUp := true, width := 8, speed := 4 },
    rng := { Rng.reset with state := .ok, waiting := [] } }

/-- A mailbox command with ARG0 a. -/
def cm (a : Word) : Cmd := ⟨.mailbox, 7, a, 0, 0, 0⟩

/-- A management command with ARG0 a. -/
def mg (a : Word) : Cmd := ⟨.mgmt, 7, a, 0, 0, 0⟩

/-- The command c of opcode op at the head of the queue. -/
def que (c : Cmd) (op : Byte) (s : State) : State :=
  { s with hif := { s.hif with queue := [⟨c.seq, op, c.a0, c.a1, c.a2, c.a3⟩] } }

/-- The state with the command taken. -/
def tkn (c : Cmd) (op : Byte) (s : State) : State := (takeCmd c op s).getD s

/-- An open management session. -/
def ses (s : State) : State := { s with mgmt := { s.mgmt with session := some 5 } }


/-- A result with sequence number q. -/
def res (q : BitVec 16) : Result := ⟨q, 0x30, 0, true, 0, 0, 0, 0, 0⟩

/-- The record of a mailbox command of opcode op that has been taken. -/
def pnd (op : Byte) : Pend := ⟨.mailbox, 7, op, 0⟩

/-- A result in the last slot. -/
def slotted : State := { rdy with hif := { rdy.hif with slots := (vrep 16 none).set 15 (some (res 7)) } }

def withPort (p : Fin 24) (x : Port) (s : State) : State := { s with sns := s.sns.set p x }

def withJob (x : Job) (s : State) : State := { s with jobs := s.jobs.set 0 (some x) }


/-- A tensor of job 0 with four elements. -/
def ten (id : BitVec 16) (role : Role) (fmt : BitVec 2) : Tensor :=
  { id := id, job := 0, role := role, veneer := 5, elements := 4, cols := 4, fmt := fmt, rmode := false, sat := false,
    scaleK := 0, biasEn := false, biasHandle := 0, clampEn := false, clampLo := 0, clampHi := 0, autoScale := false,
    kLo := 0, kHi := 0, kInit := 0, hist := 1, margin := 0, inputs := [], comp := false, ovfAlert := 0, keyId := none,
    spillable := false, inlay := none }

/-- A job table entry: a training job of one schedule. -/
def ent (kind : Byte) : JobEntry :=
  { kind := kind, flags := 0, sched := 0, latBound := 0, seed := 9, trigger := 0, reserved := 0 }

/-- An image with one job: a veneer 5, its gradient 6, an activation 7 and an input 8. -/
def img (kind : Byte) : Image :=
  { imageId := 77, svn := 3, det := false, record := false, reqCaps := 0, signer := 0,
    body := { table := [], jobs := [ent kind],
              tensors := [ten 5 .veneerW 2, ten 6 .grad 2, ten 7 .act 2, ten 8 .input 2],
              benchProgs := [], planeProgs := [], ftz := [none, none, none, none], copies := [[]],
              schedules := [⟨1, 1, 1, []⟩], meshes := [⟨1, 1, 1, 1, false, 1, [], []⟩],
              trains := [⟨.sgdm, [], [], false, false, 1⟩], sensors := [], randoms := [] } }

/-- The module with that image ACTIVE. -/
def lit (kind : Byte) : State := { rdy with img := some (img kind), glb := { rdy.glb with active := some .a } }

/-- Its job as JOB_START makes it. -/
def jobR : Job := { Job.fresh 0 (ent 1) (lit 1) with phase := .compute, seed := some 9 }


/-- A job that draws its seed. -/
def entD : JobEntry := { ent 0 with flags := 4 }

def draws : State := { lit 0 with img := some { img 0 with body := { (img 0).body with jobs := [entD] } } }

/-- The bytes of an image header: SVN 3, image 77, three sections, 512 bytes, the signer of 48 bytes 0x01. -/
def hdrWords : List (List Byte) :=
  [[0x45, 0x44, 0x4E, 0x31, 1, 0, 3, 0, 77, 0, 0, 0, 0, 0, 0, 0, 0, 2, 0, 0, 3, 0, 0, 0, 0, 0, 0, 0, 0, 0, 0, 0],
   List.replicate 32 1, List.replicate 16 1 ++ List.replicate 16 0, List.replicate 32 0,
   [1, 0, 0, 0, 192, 0, 0, 0, 16, 0, 0, 0, 0, 0, 0, 0, 2, 0, 0, 0, 0, 1, 0, 0, 16, 0, 0, 0, 0, 0, 0, 0],
   [3, 0, 0, 0, 64, 1, 0, 0, 16, 0, 0, 0, 0, 0, 0, 0]]

/-- That header in bank A, and its signer in the key store. -/
def burnt : State :=
  { rdy with
    fls := { rdy.fls with
      words := hdrWords.zipIdx.map fun w => (bankWord .a + w.2, .good w.1),
      ks := (vrep 2 none).set 0 (some ⟨1, ⟨[BitVec.ofNat 384 (beNat (List.replicate 48 1))], 0⟩, 0⟩), ksLog := [⟨false, 1, 0⟩] } }

/-- A flash task of these operations. -/
def tsk (ops : List FlashOp) : FlashTask := ⟨3, ops, .user, none, 0⟩

def inFls (f : Fls) (s : State) : State := { s with fls := f }


/-- Sections that parse accepts beside that header: one inference job. -/
def body1 : ImageBody :=
  { (img 0).body with
    table := [⟨1, 0, 192, 16⟩, ⟨2, 0, 256, 16⟩, ⟨3, 0, 320, 16⟩],
    tensors := [], schedules := [], copies := [], meshes := [], trains := [] }


/-- An inference job with a latency bound of 10 us and a trigger. -/
def entL (trigger : DWord) : JobEntry := { ent 0 with flags := 2, latBound := 10, trigger := trigger }

/-- The module with that job in its image and, in slot 0, at the boundary. -/
def srv (trigger : DWord) (x : Job) : State :=
  withJob x { rdy with img := some { img 0 with body := { (img 0).body with jobs := [entL trigger] } } }

def jobL (trigger : DWord) : Job := { Job.fresh 0 (entL trigger) (lit 0) with phase := .boundary }

/-- The image of one training job without tensors, and its job with the step computed. -/
def bare : State := { lit 1 with img := some { img 1 with body := { (img 1).body with tensors := [] } } }

def jobD : Job := { jobR with phase := .update, tens := [] }

/-- A part of a snapshot without tensors. -/
def part0 : Part := ⟨⟨0, 1, 1, 0, 0, 0, 77, 9, 0⟩, []⟩

/-- A snapshot that waits in staging. -/
def snp (flash : Bool) (limit : Nat) (exporting : Bool) : SnapReq :=
  ⟨some (pnd 0x22), flash, limit, some part0, some 1, exporting, 0, none, 0, none⟩

/-- A record of step 1. -/
def rec1 : Record := ⟨1, 0, [], [], [], [], 0, false, [], []⟩

/-- A weight tensor of 64 bytes under key 3, in an inference job that has been placed. -/
def tenK : Tensor := { ten 5 .weightRO 0 with elements := 64, keyId := some 3 }

def litK : State := { lit 0 with img := some { img 0 with body := { (img 0).body with tensors := [tenK] } } }

def placed : State := (placeJob 0 0 (ent 0) none litK).getD litK

def loadK : Load := ⟨some (pnd 0x41), 0, 4096, true, 0, []⟩

/-- That job, with key 3 loading. -/
def loading : State :=
  { placed with sec := { placed.sec with keys := placed.sec.keys.set 3 (some ⟨List.replicate 32 3, false, false, some loadK⟩) } }

/-- A host session whose counters stand at 0. -/
def ses0 : Session := ⟨1, none, 0, List.replicate 32 5, List.replicate 32 6⟩

def zeros : List Byte := List.replicate 32 0

/-- The header of a bounce message of 32 bytes and kind k, with counter 1. -/
def bounceHead (k : Byte) : List Byte := [1, 0, 0, 0, 0, 0, 0, 0, 32, 0, 0, 0, k, 0, 0, 0]

/-- That message, sealed under the session. -/
def bounceOf (k : Byte) (x : Session) : List Byte :=
  bounceHead k ++ zeros ++ gcmTag x.h2dKey (leBytes 4 x.salt.toNat ++ [1, 0, 0, 0, 0, 0, 0, 0]) (bounceHead k) zeros

theorem bounce_opens (k : Byte) (x : Session) (hx : x.h2dKey.length = 32) :
    openBounce x (bounceOf k x) = some (gcmCrypt x.h2dKey (leBytes 4 x.salt.toNat ++ [1, 0, 0, 0, 0, 0, 0, 0]) zeros) := by
  have h (g : List Byte) : openBounce x (bounceHead k ++ zeros ++ g) =
      gcmOpen x.h2dKey (leBytes 4 x.salt.toNat ++ [1, 0, 0, 0, 0, 0, 0, 0]) (bounceHead k) zeros (g.take 16) := rfl
  rw [bounceOf, h, List.take_of_length_le (Nat.le_of_eq (gcmTag_length _ _ _ _ hx)), gcmOpen_tag]

theorem bounce_length (k : Byte) (x : Session) : bounceLength (bounceOf k x) = 32 := rfl

theorem bounce_kind (x : Session) : bounceKind (bounceOf 0x11 x) = 0x11 := rfl

theorem bounce_fits (x : Session) : bounceFits 0x11 0 (some 32) (bounceOf 0x11 x) = true := by
  rw [bounceFits, bounce_length, bounce_kind]; decide

theorem bounce_fits_any (x : Session) : bounceFits 0x11 0 none (bounceOf 0x11 x) = true := by
  rw [bounceFits, bounce_length, bounce_kind]; decide

theorem bounce_taken (c : Cmd) (op : Byte) (off : Nat) (n : Option Nat) (m d : List Byte) (x : Session) (s : State)
    (ho : c.origin = .mailbox) (hs : s.hif.session = some x) (hx : x.h2d ≠ some (BitVec.allOnes 64))
    (hf : bounceFits op off n m = true) (hd : openBounce x m = some d) (hr : counterRises x (bounceCounter m) = true) :
    takeBounce c op off n m s = (.inr d, takeCounter c.seq x (bounceCounter m) s) := by
  simp only [takeBounce, ho, hs, if_neg hx, hf, hd, hr, Bool.not_true, Bool.false_eq_true, if_false, if_true]

/-- A held ephemeral key, of report 1. -/
def held1 : Held := ⟨1, 5, 6, 0⟩

/-- The authenticated part of a release blob for key 3 against report 1. -/
def blobHead : List Byte :=
  [0x4B, 0x52, 0x4C, 0x31, 3, 0, 0, 0, 1, 0, 0, 0, 0, 0, 0, 0] ++ List.replicate 97 4 ++ List.replicate 15 0 ++
    List.replicate 12 9 ++ [0, 0, 0, 0]

/-- The blob with this tag: a container of 4,096 bytes at address 4,096. -/
def blob (tag : List Byte) : List Byte := blobHead ++ zeros ++ tag ++ leBytes 8 4096 ++ leBytes 8 4096

/-- The tag that the blob verifies under. -/
def blobTag (s : State) : List Byte := gcmTag (wrapKey held1 (blob []) s) (List.replicate 12 9) blobHead zeros

theorem blobHead_length : blobHead.length = 144 := by
  simp only [blobHead, List.length_append, List.length_replicate, List.length_cons, List.length_nil]

theorem leField_append (a b : List Byte) (o n : Nat) (h : o + n ≤ a.length) : leField (a ++ b) o n = leField a o n := by
  rw [leField, leField, List.drop_append_of_le_length (by omega), List.take_append_of_le_length (by simp; omega)]

theorem take_drop_left (a b : List Byte) (o n : Nat) (h : o + n ≤ a.length) :
    ((a ++ b).drop o).take n = (a.drop o).take n := by
  rw [List.drop_append_of_le_length (by omega), List.take_append_of_le_length (by simp; omega)]

theorem take_drop_mid (a b c : List Byte) : ((a ++ (b ++ c)).drop a.length).take b.length = b := by simp

theorem blob_eq (tag : List Byte) : blob tag = blobHead ++ (zeros ++ (tag ++ leBytes 8 4096 ++ leBytes 8 4096)) := by
  simp only [blob, List.append_assoc]

theorem blob_field (tag : List Byte) (o n : Nat) (h : o + n ≤ 144) : leField (blob tag) o n = leField blobHead o n := by
  rw [blob_eq, leField_append _ _ _ _ (by rw [blobHead_length]; exact h)]

theorem blob_key (tag : List Byte) (s : State) : wrapKey held1 (blob tag) s = wrapKey held1 (blob []) s := by
  have h (g : List Byte) : ((blob g).drop 0x10).take 97 = (blobHead.drop 0x10).take 97 := by
    rw [blob_eq, take_drop_left _ _ _ _ (by rw [blobHead_length]; decide)]
  rw [wrapKey, wrapKey, h, h, blobKey, blobKey, blob_field _ _ _ (by decide), blob_field _ _ _ (by decide)]

theorem blob_opens (tag : List Byte) (s : State) (h : tag.length = 16) :
    unwrapKey held1 (blob tag) s = gcmOpen (wrapKey held1 (blob []) s) (List.replicate 12 9) blobHead zeros tag := by
  have h1 : ((blob tag).drop 0x80).take 12 = List.replicate 12 9 := by
    rw [blob_eq, take_drop_left _ _ _ _ (by rw [blobHead_length]; decide)]; rfl
  have h2 : (blob tag).take 0x90 = blobHead := by
    rw [blob_eq, List.take_append_of_le_length (Nat.le_of_eq blobHead_length.symm), List.take_of_length_le (Nat.le_of_eq blobHead_length)]
  have h3 : ((blob tag).drop 0x90).take 32 = zeros := by rw [blob_eq]; exact take_drop_mid blobHead zeros _
  have h4 : ((blob tag).drop 0xB0).take 16 = tag := by
    have := take_drop_mid (blobHead ++ zeros) tag (leBytes 8 4096 ++ leBytes 8 4096)
    rw [h, List.length_append, blobHead_length, show zeros.length = 32 from rfl] at this
    rw [blob_eq]
    simpa only [List.append_assoc] using this
  rw [unwrapKey, h1, h2, h3, h4, blob_key]

theorem blob_ok (c : Cmd) (tag : List Byte) (hc : c.a2 = 208) (h : tag.length = 16) : blobOk c (blob tag) = true := by
  have e : (blob tag).length = 208 := by
    simp only [blob, List.length_append, h, leBytes_length, blobHead_length, zeros, List.length_replicate]
  have f (o n : Nat) (h : o + n ≤ 144) := blob_field tag o n h
  simp only [blobOk, hc, e, blobFlags, blobKey, f 0 4 (by decide), f 6 2 (by decide), f 0x71 15 (by decide),
    f 0x8C 4 (by decide), f 5 1 (by decide), f 4 1 (by decide)]
  rfl

theorem blobTag_length (s : State) : (blobTag s).length = 16 := gcmTag_length _ _ _ _ (hkdf384_length _ _ _ _)

/-- A tag other than t. -/
def other (t : List Byte) : List Byte := if t = List.replicate 16 0 then List.replicate 16 1 else List.replicate 16 0

theorem other_ne (t : List Byte) : other t ≠ t := by
  unfold other
  split
  · next e => rw [e]; decide
  · next e => exact Ne.symm e

theorem other_length (t : List Byte) : (other t).length = 16 := by unfold other; split <;> rfl

/-- The authenticated head of the first chunk of a container: 64 bytes for tensor 5 at offset 0. -/
def chunkHead : List Byte := [0, 0, 0, 0, 0, 0, 0, 0, 5, 0, 0, 0, 64, 0, 0, 0] ++ List.replicate 16 0

/-- That chunk, sealed under key 3. -/
def chunkOf : List Byte :=
  chunkHead ++ (zeros ++ zeros) ++ gcmTag (List.replicate 32 3) (List.replicate 12 0) chunkHead (zeros ++ zeros)

/-- Its plaintext. -/
def chunkText : List Byte := gcmCrypt (List.replicate 32 3) (List.replicate 12 0) (zeros ++ zeros)

theorem chunk_reads : ⟨0, 5, 0, 64, 0, true, some chunkText⟩ = readChunk (modelKey 3 loading) chunkOf := by
  have e : chunkOf = chunkHead ++ ((zeros ++ zeros) ++
      gcmTag (List.replicate 32 3) (List.replicate 12 0) chunkHead (zeros ++ zeros)) := by simp only [chunkOf, List.append_assoc]
  have f (o n : Nat) (h : o + n ≤ 32) : leField chunkOf o n = leField chunkHead o n := by rw [e, leField_append _ _ _ _ h]
  have h1 : chunkOf.take 8 = chunkHead.take 8 := by rw [e, List.take_append_of_le_length (by decide)]
  have h2 : chunkOf.take 32 = chunkHead := by rw [e, List.take_append_of_le_length (by decide)]; rfl
  have h3 : (chunkOf.drop 32).take 64 = zeros ++ zeros := by rw [e]; exact take_drop_mid chunkHead (zeros ++ zeros) _
  have h4 : (chunkOf.drop 96).take 16 = gcmTag (List.replicate 32 3) (List.replicate 12 0) chunkHead (zeros ++ zeros) := by
    have := take_drop_mid (chunkHead ++ (zeros ++ zeros))
      (gcmTag (List.replicate 32 3) (List.replicate 12 0) chunkHead (zeros ++ zeros)) []
    rw [gcmTag_length _ _ _ _ (by decide), show (chunkHead ++ (zeros ++ zeros)).length = 96 from rfl] at this
    simpa only [chunkOf, List.append_nil] using this
  have hk : modelKey 3 loading = List.replicate 32 3 := rfl
  have hn : leField chunkHead 0xC 4 = 64 := by decide
  simp only [readChunk, f 0xC 4 (by decide), f 0 8 (by decide), f 8 2 (by decide), f 0xA 2 (by decide), f 0x10 8 (by decide),
    f 0x18 8 (by decide), hn, h1, h2, h3, h4, hk]
  rw [show leBytes 4 0 ++ chunkHead.take 8 = List.replicate 12 0 by decide, gcmOpen_tag]
  rfl

/-- The state with the chunk written. -/
def chunked (r : TRun) : State := (writeHandle r.handle.toNat 0 chunkText loading).getD loading

theorem chunk_written {r : TRun} (h : r.handle = 5) : writeHandle r.handle.toNat 0 chunkText loading = some (chunked r) := by
  have hl : chunkText.length = 64 := gcmCrypt_length _ _ _ rfl
  have e : (writeHandle 5 0 chunkText loading).isSome = true := by unfold writeHandle; rw [hl]; rfl
  obtain ⟨w, hw⟩ := Option.isSome_iff_exists.1 e
  have hw' : writeHandle r.handle.toNat 0 chunkText loading = some w := by rw [h]; exact hw
  rw [chunked, hw', Option.getD_some]

theorem chunk_sec {r : TRun} (h : r.handle = 5) : (chunked r).sec = loading.sec := by
  have hl : chunkText.length = 64 := gcmCrypt_length _ _ _ rfl
  have e : ((writeHandle 5 0 chunkText loading).getD loading).sec = loading.sec := by unfold writeHandle; rw [hl]; rfl
  rw [chunked, h]
  exact e

/-- A pass of one row, one column and one vector that begins and ends a chain; its slots are `w`, `a` and `done`. -/
def dsc (w a done : Nat) (aAddr : Nat) : Desc8 :=
  ⟨BitVec.ofNat 32 (2 ^ 9 + 2 ^ 10 + 2 ^ 14), 0, BitVec.ofNat 32 (w * 2 ^ 24), 0,
    BitVec.ofNat 32 (a * 2 ^ 24 + aAddr), 0x70000, BitVec.ofNat 32 (done * 2 ^ 24), 0⟩

def ent0 : EntryRun := ⟨0, 0, 3, false, 0, 0, 0⟩

/-- Bench 3 in an entry of job 0 whose one pass is d. -/
def atPass (d : Desc8) (x : Bench) : State :=
  { withJob jobR (lit 1) with bnc := (vrep 4 Bench.reset).set 3 { x with state := .running, entry := some ent0, passes := [d] } }

/-- Plane 15 with the microprogram o of job 0, and K registers of four lanes. -/
def atPlane (u : UState) (o : PlaneOp) : State :=
  { withJob jobR { lit 1 with img := some { img 1 with body := { (img 1).body with planeProgs := [⟨3, 3, false, [], [o]⟩] } } } with
    pln := (vrep 16 Plane.reset).set 15 { Plane.reset with state := u, prog := some 0, k := vrep 8 0xF } }

def ref5 : TensorRef := ⟨5, false, 0, 0, 1⟩

/-- Plane 15 in the image's own optimizer, on a veneer that a pass bound before still reads. -/
def ownStore : State :=
  { lit 1 with
    img := some { img 1 with body := { (img 1).body with trains := [⟨.own 0, [], [], false, false, 1⟩] } },
    pln := (vrep 16 Plane.reset).set 15 { Plane.reset with state := .running, prog := some 0 },
    jobs := ((vrep 4 none).set 0 (some { jobR with readers := [(1, 0)] })).set 1 (some { jobL 0 with running := some 5 }) }

/-- A lathe request with five elements left. -/
def req5 : LatheReq := ⟨.exp, .b32, 1, List.replicate 5 (0, 0, 0)⟩

def atLathe : State :=
  { rdy with lth := (vrep 4 Lathe.reset).set 3 { Lathe.reset with state := .running, req := vrep 4 (some req5) } }

/-- Link 7 UP. -/
def upLink : Link := { Link.reset with state := .up, peerMember := true }

def linked (s : State) : State := { s with links := s.links.set 7 upLink }

/-- A message header of kind k. -/
def hdr (dst : BitVec 16) (k : Byte) (vl : BitVec 2) (hops : Byte) : MsgHdr := ⟨dst, 0, 0, k, hops, 0, 0, vl⟩

/-- A workshop of ranks 0 and 1, rank 0 coordinating; own rank r. -/
def shop (r : Nat) (s : State) : State :=
  { s with ws := { Ws.reset with
      state := if r = 0 then .coordinator else .member, rank := r, id := 3,
      members := [⟨0, 1, 0, 1⟩, ⟨1, 2, 0, 1⟩], adj := [⟨0, 3, 1, 7⟩] } }


def lnk (x : Link) : State := { rdy with links := rdy.links.set 7 x }

/-- The image of a training job whose D axis runs over the fabric. -/
def fab : State :=
  { lit 1 with img := some { img 1 with body := { (img 1).body with meshes := [⟨1, 1, 1, 1, true, 1, [], []⟩] } } }

/-- A HELLO message of image i. -/
def hel (i : DWord) (ok : Bool) : Hello :=
  ⟨1, false, false, false, true, 0, 0, 9, i, 0, 0, 0, 0, [], true, ok⟩

def rxOk : FlitRx := ⟨true, true, 0, false, 0, true⟩

def body0 : LinkBody := ⟨0, false, [8, 8, 8, 8], false, false, .none, true⟩

/-- Engine 7 with one list for job slot 0. -/
def eng (l : List Desc8) (w : EngWait) (s : State) : State :=
  { s with stk := { s.stk with engines := (vrep 8 Engine.reset).set 7 ⟨0, l, w⟩ } }

/-- A copy descriptor: word 0, the ids, the slot word. -/
def cdsc (w0 ids slot : Word) : Desc8 := ⟨w0, 0, 0, 0, ids, 0, slot, 0⟩

/-- Handle 9 of tensor 7: one frame of its table is in use. -/
def hnd (f : Frame) : Handle := ⟨.act, 0, true, 1, 1, 7, [(0, f)], false⟩

def held (f : Frame) (s : State) : State := { s with stk := { s.stk with handles := [(9, hnd f)] } }

/-- A module whose rings take every frame of the drawers: pages go out. -/
def full (f : Frame) : State :=
  { rdy with
    part := .hn7230, sns := vrep 24 { Port.reset with cfg := 0x01C00001, ringed := true },
    stk := { Stk.reset with handles := [(9, hnd f)], slots := 4, spillKey := some 1 } }

def inRam : Frame := ⟨5000, true, false, [], false, 0, 0⟩

def inSpill : Frame := ⟨0, false, true, [], false, 0, 0⟩

theorem spill_opens (h i : Nat) (f : Frame) (d : List Byte) (s : State) (hd : d.length = 65536) :
    openSpill h i f ⟨d, gcmTag (spillKeyBytes s) (spillNonce f.loc f.counter) (spillAad f.loc h i f.counter) d⟩ s =
      some (gcmCrypt (spillKeyBytes s) (spillNonce f.loc f.counter) d) := by
  rw [openSpill, if_pos hd, gcmOpen_tag]

/-- The last window of a run in which one channel takes every request. -/
def hotWindow : State := { rdy with stk := { rdy.stk with winReq := [(0, 4096)], imbRun := 1023 } }

theorem hash_zero (salt : DWord) : hashOf salt 0 = 0 := by
  have h : parityOf (0#21) = false := by decide
  have z (l : List (BitVec 21 × Nat)) : (l.map fun _ => 0).sum = 0 := by induction l <;> simp_all
  simp [hashOf, h, z]

/-- Frame 0 hashes to 0 whatever the salt, so its segment 0 is on channel 0. -/
theorem hot_counts : channelCounts hotWindow = 4096 :: List.replicate 31 0 := by
  have h (c : Nat) : channelCount hotWindow c = ((if (0 == c) = true then [(0, 4096)] else []).map (·.2)).sum := by
    have e : channelOf hotWindow 0 0 = 0 := by rw [channelOf, hash_zero]; rfl
    rw [channelCount, show hotWindow.stk.winReq = [(0, 4096)] from rfl]
    simp [List.filter, e]
    split <;> simp_all
  rw [channelCounts, List.map_congr_left (g := fun c => ((if (0 == c) = true then [(0, 4096)] else []).map (·.2)).sum)
    fun c _ => h c]
  decide

/-- The job of a workshop whose collective has not ended. -/
def colJob : Job := { jobR with phase := .update, fabric := true }

def colCh : ColHdr := ⟨5, 0, 0, 0, 0, 4⟩

/-! ### Ill-formed commands, one for each check -/

def msg0 (k : Byte) : MsgHdr := hdr 0 k 0 0

theorem test_wf_accepts :
    (Instr.imageWrite (cm 0) []).wf = true ∧ (Instr.linkFlit 0 (.link rxOk body0)).wf = true ∧
      (Instr.ready 0 (msg0 5) 0 1).wf = true ∧ Instr.peakClr.wf = true := by decide

theorem test_wf_refuses_containerChunk : (Instr.containerChunk 0 (List.replicate 47 0)).wf = false := by decide

theorem test_wf_refuses_softmax : (Instr.softmax 0 ⟨.b32, ref5, [], ref5, none⟩ ⟨0, none⟩).wf = false := by decide

theorem test_wf_refuses_gradPartialAdd : (Instr.gradPartialAdd 0 5 0 ⟨false, 0, 2⟩ ⟨0, none⟩).wf = false := by decide

theorem test_wf_refuses_pageIn : (Instr.pageIn 9 0 ⟨[], List.replicate 16 0⟩).wf = false := by decide

theorem test_wf_refuses_linkFlit :
    (Instr.linkFlit 0 (.link rxOk { body0 with cred := [8, 8, 8] })).wf = false := by decide

theorem test_wf_refuses_quiesceFlit : (Instr.quiesceFlit 0 rxOk body0).wf = false := by decide

theorem test_wf_refuses_norm : (Instr.norm 0 (msg0 0x44) colCh []).wf = false := by decide

theorem test_wf_refuses_expDispatch : (Instr.expDispatch 0 (msg0 0x60) colCh []).wf = false := by decide

theorem test_wf_refuses_expReturn : (Instr.expReturn 0 (msg0 0x61) colCh []).wf = false := by decide

theorem test_wf_refuses_mask : (Instr.mask 0 ⟨65537, 5, 0, 0x10, 0⟩).wf = false := by decide

theorem test_wf_refuses_message_of_another_kind : (Instr.ready 0 (msg0 6) 0 1).wf = false := by decide

/-! ### The spec's worked examples -/

/-- 02_number_formats.md, "a split binary32 group that discards": the sum is 2^40 + 2^-48, INEXACT is set. -/
theorem test_group_discards :
    vEq (groupSum [.fin false 1 40, .fin false 3 (-49)]).v (vAdd (.fin false 1 40) (.fin false 1 (-48))) = true ∧
      (groupSum [.fin false 1 40, .fin false 3 (-49)]).inexact = true ∧
      vEq (ofB32 (toB32 (groupSum [.fin false 1 40, .fin false 3 (-49)]).v)) (.fin false 1 40) = true := by decide

/-- The conversion of "J8 output with scale". -/
def j8Conv (m : RMode) : Conv := ⟨fJ8, m, false, -3, some (vOfNat 4), none⟩

/-- 02_number_formats.md, "J8 output with scale", RMODE = 0: 1230.5, -37, 13 and 1896. -/
theorem test_j8_output :
    (convert (accOf (.fin false 2461 (-1))) (j8Conv .near)).code = 0x7A ∧
      (convert (accOf (.fin true 37 0)) (j8Conv .near)).code = 0xD0 ∧
      (convert (accOf (.fin false 13 0)) (j8Conv .near)).code = 0x48 ∧
      (convert (accOf (.fin false 1896 0)) (j8Conv .near)).code = 0x7E ∧
      (convert (accOf (.fin false 1896 0)) (j8Conv .near)).count = .ovf := by decide

/-- The fifth row of that example (an acc a little below -4), its amax of 1900, and its third row with RMODE = 1. -/
theorem test_j8_output_corners :
    (convert (accOf (.fin true 4099 (-10))) (j8Conv .near)).code = 0x80 ∧
      (convert (accOf (.fin true 4099 (-10))) (j8Conv .near)).count = .unf ∧
      (convert (accOf (.fin false 1896 0)) (j8Conv .near)).amax = some (toB32 (vOfNat 1900)) ∧
      (convert (accOf (.fin false 13 0)) (j8Conv (.stoch 0x8000))).code = 0x49 ∧
      (convert (accOf (.fin false 13 0)) (j8Conv (.stoch 0x7FFF))).code = 0x48 := by decide

/-- A J8 activation with MARGIN = 2 and H = 4. -/
def t142 : Tensor := { ten 7 .act 0 with margin := 2, hist := 4, kLo := -20, kHi := 20, autoScale := true }

/-- A value in hundredths, rounded to a multiple of 2^-20. -/
def cent (n : Nat) : Val := .fin false (n * 1048576 / 100) (-20)

/-- 05_training_step.md, "choosing k from the history": after steps 4, 5 and 9. -/
theorem test_scale_selection :
    (nextK t142 [cent 62, cent 71, cent 66, cent 69] 7).1 = 7 ∧
      (nextK t142 [cent 71, cent 66, cent 69, cent 310] 7).1 = 5 ∧
      (nextK t142 [cent 70, cent 68, cent 72, cent 65] 5).1 = 7 := by decide

/-- 07_random_numbers.md, "one drop-out decision": BLOCK, PURPOSE, TENSOR and STEP of the counter block (R209). -/
theorem test_counter_block : drawBlock (1000003 / 8) 0x10 40 812 = 0x00000000032C0028100000000001E848 := by decide

/-- 10_collectives.md, "cancellation across four members": 1, 3 x 2^-25, 3 x 2^-25, -1 give 3 x 2^-24. -/
theorem test_compensated_sum :
    glueFinish true (glueAdd true (glueAdd true (glueAdd true (glueStart true [b32One])
      [toB32 (.fin false 3 (-25))]) [toB32 (.fin false 3 (-25))]) [toB32 (.fin true 1 0)])
      = [toB32 (.fin false 3 (-24))] := by decide

/-- The same without compensation gives 2^-22. -/
theorem test_plain_sum :
    glueFinish false (glueAdd false (glueAdd false (glueAdd false (glueStart false [b32One])
      [toB32 (.fin false 3 (-25))]) [toB32 (.fin false 3 (-25))]) [toB32 (.fin true 1 0)])
      = [toB32 (.fin false 1 (-22))] := by decide

/-- 04_planes_and_lathes.md, "a row with two +inf entries". -/
def infRow : List (Val × Bool) :=
  [(.fin false 3 (-1), true), (.inf false, true), (.fin true 2 0, true), (.fin false 7 0, false), (.inf false, true),
   (.inf true, true)]

theorem test_softmax_two_infinities :
    (smxPass2 0 (smxPass1 0 1 infRow SmxRow.start rdy).1 infRow rdy).1.map (rnd fB16) = [0, 0x3800, 0, 0, 0x3800, 0] ∧
      (smxKind (smxPass1 0 1 infRow SmxRow.start rdy).1).1 = 2 := by decide

/-- 17_events_and_map.md, "reading a fault record": INFO 0x2212 is slot 0x12, A_SLOT, VSTAGE 0, job 1 (R94). -/
theorem test_bench_fault_info :
    benchInfo { Bench.reset with job := 1, waitSlot := 0x12, waitKind := 2 } = 0x2212 := by decide

/-! ### Single steps -/

/-- The state after one step. -/
def after (s : State) : State :=
  match step s with
  | .next t => t
  | _ => s

def run1 (c : Instr) (s : State) : State := after { s with pending := [c] }

/-- 13_host_interface.md: HIF_RES_ACK frees the slot that holds the result. -/
theorem test_ack_frees : (run1 (.hifResAck 7 true) slotted).hif.slots[(15 : Fin 16)] = none := by decide

/-- A doorbell queues the latched registers. -/
theorem test_doorbell_queues : ((run1 (.cmdDoorbell 9) rdy).hif.queue.map (·.seq)) = [9] := by decide

/-- R461: codes 5 to 7 end BAD_ARG. -/
theorem test_set_power_code_5 :
    ((run1 (.setPower (cm 5)) (que (cm 5) 1 rdy)).hif.slots[(0 : Fin 16)]).map (·.status) = some stBadArg := by decide

/-- R330: without an image JOB_START is turned away. -/
theorem test_job_start_without_image : (run1 (.jobStart (cm 0)) (que (cm 0) 0x20 rdy)).jobs = rdy.jobs := by decide

/-- The idle step counts one cycle of 10 ns. -/
theorem test_idle_counts : (after rdy).aon.time = rdy.aon.time + 10 := by decide

/-! ### Witnesses: for every statement, a state and operands that meet the hypotheses of each of its clauses -/

theorem witness_IdleStepIsOneCycle :
  (∃ (s : State), s.pending = [] ∧ (∀ g, s.pwr.seq ≠ .quiesce g) ∧ awake s = false) ∧
  (∃ (s : State), s.pending = [] ∧ (∀ g, s.pwr.seq ≠ .quiesce g) ∧ awake s = true ∧ slotsAt (s.glb.cycle + 1).toNat = slotsAt s.glb.cycle.toNat) ∧
  (∃ (s : State), s.pending = [] ∧ (∀ g, s.pwr.seq ≠ .quiesce g) ∧ awake s = true) ∧
  (∃ (g : PState) (s : State), s.pending = [] ∧ s.pwr.seq = .quiesce g) :=
  ⟨⟨{ rdy with glb := { rdy.glb with phase := .down }, pwr := { rdy.pwr with seq := .idle } }, rfl, (by intro g h; cases h), rfl⟩,
   ⟨rdy, rfl, (by intro g h; cases h), rfl, rfl⟩,
   ⟨{ rdy with glb := { rdy.glb with cycle := 15 } }, rfl, (by intro g h; cases h), rfl⟩,
   ⟨.sleep, { rdy with pwr := { rdy.pwr with seq := .quiesce .sleep } }, rfl, rfl⟩⟩

theorem witness_HostInterfaceMovesCommandsAndResults :
  (∃ (q : BitVec 16) (s : State), hostPath s = true ∧ tagTaken q s.hif = false) ∧
  (∃ (q : BitVec 16) (s : State), hostPath s = true ∧ tagTaken q s.hif = true) ∧
  (∃ (q : BitVec 16) (fin : Bool) (i : Fin 16) (s : State), hostPath s = true ∧ ackSlot q fin s.hif.slots = some i ∧ s.hif.ring = []) ∧
  (∃ (q : BitVec 16) (fin : Bool) (i : Fin 16) (r : Result) (rest : List Result) (s : State), hostPath s = true ∧ ackSlot q fin s.hif.slots = some i ∧ s.hif.ring = r :: rest) ∧
  (∃ (q : BitVec 16) (fin : Bool) (s : State), hostPath s = true ∧ ackSlot q fin s.hif.slots = none) ∧
  (∃ (q : BitVec 16) (fin : Bool) (i : Fin 16) (v : Vector (Option Result) 16), ackSlot q fin v = some i) ∧
  (∃ (w g : Nat) (s : State), awake s = true ∧ linkFits s w g = true) ∧
  (∃ (s : State), awake s = true) ∧
  (∃ (v : Fin 4) (s : State), hostPath s = true) ∧
  (∃ (c : Cmd) (op : Byte) (s s1 : State), takeCmd c op s = some s1 ∧ gateStatus c.origin op s1 = none ∧ opKnown c.origin op = false) :=
  ⟨⟨7, rdy, rfl, rfl⟩,
   ⟨7, { rdy with hif := { rdy.hif with running := [7] } }, rfl, rfl⟩,
   ⟨7, true, 15, slotted, rfl, rfl, rfl⟩,
   ⟨7, true, 15, (res 3), [], { slotted with hif := { slotted.hif with ring := [res 3] } }, rfl, rfl, rfl⟩,
   ⟨8, true, slotted, rfl, rfl⟩,
   ⟨7, true, 15, slotted.hif.slots, rfl⟩,
   ⟨4, 4, rdy, rfl, rfl⟩,
   ⟨rdy, rfl⟩,
   ⟨3, { rdy with hif := { rdy.hif with msix := vrep 4 ⟨0, 0, true, true, 2⟩ } }, rfl⟩,
   ⟨(cm 0), 0x7F, (que (cm 0) 0x7F (rdy)), (tkn (cm 0) 0x7F (que (cm 0) 0x7F (rdy))), rfl, rfl, rfl⟩⟩

theorem witness_ResultsGoWhereTheSpecSends :
  (∃ (r : Result) (i : Fin 16) (s : State), freeSlot s.hif.slots = some i) ∧
  (∃ (r : Result) (s : State), freeSlot s.hif.slots = none ∧ s.hif.ring.length < 64) ∧
  (∃ (r : Result) (s : State), freeSlot s.hif.slots = none ∧ 64 ≤ s.hif.ring.length) ∧
  (∃ (p : Pend) (st : Byte) (s : State), p.origin = .mailbox ∧ p.gen = s.hif.gen) ∧
  (∃ (p : Pend) (st : Byte) (s : State), p.origin = .mgmt ∧ (s.mgmt.session.isSome || s.mgmt.selfSigned) = true) ∧
  (∃ (p : Pend) (st : Byte) (fin : Bool) (a b c d : Word) (s : State), awake s = true) :=
  ⟨⟨(res 3), 0, slotted, rfl⟩,
   ⟨(res 3), { rdy with hif := { rdy.hif with slots := vrep 16 (some (res 1)), ring := List.replicate 63 (res 2) } }, rfl, by decide⟩,
   ⟨(res 3), { rdy with hif := { rdy.hif with slots := vrep 16 (some (res 1)), ring := List.replicate 64 (res 2) } }, rfl, by decide⟩,
   ⟨(pnd 0x30), 0, { rdy with hif := { rdy.hif with running := [7, 8] } }, rfl, rfl⟩,
   ⟨⟨.mgmt, 7, 0x30, 0⟩, 0, (ses rdy), rfl, rfl⟩,
   ⟨(pnd 0x30), 0, true, 1, 0, 0, 0, rdy, rfl⟩⟩

theorem witness_CommandsAreTakenGatedAndRefused :
  (∃ (c : Cmd) (op : Byte) (s : State) (rest : List HCmd), c.origin = .mailbox ∧ s.pwr.coreDown = false ∧ awake s = true ∧ s.glb.phase ≠ .noFirmware ∧ s.hif.queue = ⟨c.seq, op, c.a0, c.a1, c.a2, c.a3⟩ :: rest) ∧
  (∃ (c : Cmd) (s s1 : State), takeCmd c 0x50 s = some s1 ∧ s.sec.tending = true) ∧
  (∃ (c : Cmd) (s s1 : State), takeCmd c 0x23 s = some s1 ∧ s.sec.tending = false ∧ s.glb.phase = .rngFailed) ∧
  (∃ (c : Cmd) (s s1 : State), takeCmd c 0x23 s = some s1 ∧ s.sec.tending = false ∧ s.glb.phase = .verify) ∧
  (∃ (c : Cmd) (s s1 : State), takeCmd c 0x23 s = some s1 ∧ s.sec.tending = false ∧ s.glb.phase = .done ∧ s.glb.state = .noImage) ∧
  (∃ (c : Cmd) (s s1 : State), takeCmd c 0x01 s = some s1 ∧ bitsFrom c.a0 3 = true) :=
  ⟨⟨(cm 0), 0x30, (que (cm 0) 0x30 rdy), [], rfl, rfl, rfl, by decide, rfl⟩,
   ⟨(cm 0), (que (cm 0) 0x50 ({ rdy with sec := { rdy.sec with tending := true } })), (tkn (cm 0) 0x50 (que (cm 0) 0x50 ({ rdy with sec := { rdy.sec with tending := true } }))), rfl, rfl⟩,
   ⟨(cm 0), (que (cm 0) 0x23 ({ rdy with glb := { rdy.glb with phase := .rngFailed } })), (tkn (cm 0) 0x23 (que (cm 0) 0x23 ({ rdy with glb := { rdy.glb with phase := .rngFailed } }))), rfl, rfl, rfl⟩,
   ⟨(cm 0), (que (cm 0) 0x23 ({ rdy with glb := { rdy.glb with phase := .verify } })), (tkn (cm 0) 0x23 (que (cm 0) 0x23 ({ rdy with glb := { rdy.glb with phase := .verify } }))), rfl, rfl, rfl⟩,
   ⟨(cm 0), (que (cm 0) 0x23 ({ rdy with glb := { rdy.glb with state := .noImage } })), (tkn (cm 0) 0x23 (que (cm 0) 0x23 ({ rdy with glb := { rdy.glb with state := .noImage } }))), rfl, rfl, rfl, rfl⟩,
   ⟨(cm 8), (que (cm 8) 0x01 (rdy)), (tkn (cm 8) 0x01 (que (cm 8) 0x01 (rdy))), rfl, rfl⟩⟩

theorem witness_EventsQueueAndReachLogAndRing :
  (∃ (e : Posted) (rest : List Posted) (s : State), awake s = true ∧ s.evt.queue = e :: rest ∧ s.evt.queue.length ≤ 32 ∧ effLog2 s.evt.ringLog2 = 0) ∧
  (∃ (r : EvtRec) (s : State), masked s r.ev.code = true) ∧
  (∃ (r : EvtRec) (s : State), effLog2 s.evt.ringLog2 = 0) ∧
  (∃ (r : EvtRec) (s : State), effLog2 s.evt.ringLog2 ≠ 0 ∧ masked s r.ev.code = false ∧ (s.hif.session = none ∨ ringFull s.evt.wr s.evt.rd = true)) ∧
  (∃ (r : EvtRec) (x : Session) (s : State), effLog2 s.evt.ringLog2 ≠ 0 ∧ masked s r.ev.code = false ∧ s.hif.session = some x ∧ x.d2h.toNat + 2 < 2 ^ 64 ∧ ringFull s.evt.wr s.evt.rd = false) :=
  ⟨⟨(ev 0x0101), [ev 0x0103], { rdy with evt := { rdy.evt with queue := [ev 0x0101, ev 0x0103] } }, rfl, rfl, by decide, rfl⟩,
   ⟨⟨3, false, ev 0x0101⟩, { rdy with evt := { rdy.evt with mask := 0x3FF } }, rfl⟩,
   ⟨⟨3, false, ev 0x0101⟩, rdy, rfl⟩,
   ⟨⟨3, false, ev 0x0101⟩, { rdy with evt := { rdy.evt with ringLog2 := 6 } }, by decide, rfl, by decide⟩,
   ⟨⟨3, false, ev 0x0101⟩, ⟨1, none, 9, [], []⟩, { rdy with evt := { rdy.evt with ringLog2 := 6 }, hif := { rdy.hif with session := some ⟨1, none, 9, [], []⟩ } }, by decide, rfl, rfl, by decide, rfl⟩⟩

theorem witness_RingRegistersFollowTheLocks :
  (∃ (v : DWord) (s : State), awake s = true ∧ effLog2 s.evt.ringLog2 = 0) ∧
  (∃ (v : DWord) (s : State), awake s = true ∧ effLog2 s.evt.ringLog2 = 0 ∧ effLog2 (v.setWidth 5) ≠ 0) ∧
  (∃ (v : DWord) (s : State), awake s = true ∧ effLog2 (v.setWidth 5) = 0) ∧
  (∃ (v : DWord) (size : Bool) (s : State), awake s = true ∧ effLog2 s.evt.ringLog2 ≠ 0 ∧ (size = true → effLog2 (v.setWidth 5) ≠ 0)) ∧
  (∃ (v : Word) (s : State), awake s = true ∧ effLog2 s.evt.ringLog2 ≠ 0 ∧ rdPasses (effLog2 s.evt.ringLog2) s.evt.wr s.evt.rd (ptrOf v) = false) ∧
  (∃ (v : Word) (s : State), (effLog2 s.evt.ringLog2 = 0 ∨ rdPasses (effLog2 s.evt.ringLog2) s.evt.wr s.evt.rd (ptrOf v) = true)) ∧
  (∃ (v : DWord) (s : State), running s = true ∧ anyJob s = false) ∧
  (∃ (v : DWord) (s : State), running s = true ∧ anyJob s = false ∧ effLog2 (v.setWidth 5) ≠ 0 ∧ effLog2 s.trn.telLog2 ≠ effLog2 (v.setWidth 5)) ∧
  (∃ (v : DWord) (s : State), running s = true ∧ anyJob s = false ∧ (effLog2 (v.setWidth 5) = 0 ∨ effLog2 s.trn.telLog2 = effLog2 (v.setWidth 5))) ∧
  (∃ (size : Bool) (v : DWord) (s : State), running s = true ∧ anyJob s = true) ∧
  (∃ (v : Word) (s : State), running s = true ∧ effLog2 s.trn.telLog2 ≠ 0 ∧ rdPasses (effLog2 s.trn.telLog2) s.trn.wr s.trn.rd (ptrOf v) = false) ∧
  (∃ (v : Word) (x : Job) (s : State), running s = true ∧ s.jobs[s.trn.viewJob] = some x) :=
  ⟨⟨0x1234567, rdy, rfl, rfl⟩,
   ⟨6, rdy, rfl, rfl, by decide⟩,
   ⟨0, rdy, rfl, rfl⟩,
   ⟨6, true, { rdy with evt := { rdy.evt with ringLog2 := 6 } }, rfl, by decide, by decide⟩,
   ⟨2, { rdy with evt := { rdy.evt with ringLog2 := 6, wr := ⟨2, false⟩ } }, rfl, by decide, rfl⟩,
   ⟨3, { rdy with evt := { rdy.evt with ringLog2 := 6, wr := ⟨2, false⟩ } }, by decide⟩,
   ⟨0x1000, rdy, rfl, rfl⟩,
   ⟨6, rdy, rfl, rfl, by decide, by decide⟩,
   ⟨6, { rdy with trn := { rdy.trn with telLog2 := 6, wr := ⟨2, false⟩ } }, rfl, rfl, by decide⟩,
   ⟨true, 6, (withJob jobR rdy), rfl, rfl⟩,
   ⟨2, { rdy with trn := { rdy.trn with telLog2 := 6, wr := ⟨2, false⟩ } }, rfl, by decide, rfl⟩,
   ⟨0xF, jobR, (withJob jobR rdy), rfl, rfl⟩⟩

theorem witness_RegisterWritesActAsTheMapSays :
  (∃ (off : BitVec 24) (wide : Bool) (v : DWord) (s : State), off.toNat % (if wide then 8 else 4) ≠ 0) ∧
  (∃ (v : DWord) (s : State), hostPath s = true) ∧
  (∃ (k : Fin 4) (v : DWord) (s : State), hostPath s = true) ∧
  (∃ (v : DWord) (s : State), hostPath s = true) ∧
  (∃ (v : DWord) (s : State), hostPath s = true) ∧
  (∃ (v : DWord) (s : State), hostPath s = true) ∧
  (∃ (b : Fin 4) (i : Fin 7) (v : DWord) (s : State), hostPath s = true ∧ running s = true ∧ bitAt v 31 = true) :=
  ⟨⟨0x10006, false, 0, rdy, by decide⟩,
   ⟨0x30, rdy, rfl⟩,
   ⟨3, 9, rdy, rfl⟩,
   ⟨7, rdy, rfl⟩,
   ⟨0x1F, rdy, rfl⟩,
   ⟨0x40, rdy, rfl⟩,
   ⟨3, 6, 0x80000000, rdy, rfl, rfl, rfl⟩⟩

theorem witness_SensorPortsTakeFramesAndWords :
  (∃ (p : Fin 24) (part : Bool) (s : State), portLive p s = true ∧ clocked s.sns[p] = true) ∧
  (∃ (p : Fin 24) (s : State), inputClock p s = true ∧ s.sns[p].clk = true) ∧
  (∃ (p : Fin 24) (s : State), inputClock p s = true) ∧
  (∃ (p : Fin 24) (s : State), (s.sns[p].cfg.getLsbD 0 = false ∨ portPresent s.part p.val = false)) ∧
  (∃ (p : Fin 24) (w : Word) (f : DWord) (s : State), s.sns[p].frame = some f ∧ portLive p s = true ∧ clocked s.sns[p] = true ∧ s.sns[p].buf.length < 256) ∧
  (∃ (p : Fin 24) (w : Word) (f : DWord) (s : State), s.sns[p].frame = some f ∧ portLive p s = true ∧ clocked s.sns[p] = true ∧ 256 ≤ s.sns[p].buf.length) ∧
  (∃ (p : Fin 24) (e : RingEntry) (rest : List RingEntry) (s : State), running s = true ∧ portPresent s.part p.val = true ∧ s.sns[p].buf = e :: rest) :=
  ⟨⟨23, true, (withPort 23 { Port.reset with cfg := 1, clk := true, capturing := true, frame := some 5 } rdy), rfl, rfl⟩,
   ⟨23, (withPort 23 { Port.reset with cfg := 1, clk := true, capturing := true } rdy), rfl, rfl⟩,
   ⟨23, (withPort 23 { Port.reset with cfg := 1, clk := true, capturing := true } rdy), rfl⟩,
   ⟨23, rdy, by decide⟩,
   ⟨23, 6, 5, (withPort 23 { Port.reset with cfg := 1, clk := true, capturing := true, frame := some 5 } rdy), rfl, rfl, rfl, by decide⟩,
   ⟨23, 6, 5, (withPort 23 { Port.reset with cfg := 1, clk := true, capturing := true, frame := some 5, buf := List.replicate 256 ⟨5, 1, 0, 23, 0⟩ } rdy), rfl, rfl, rfl, Nat.le_of_eq List.length_replicate.symm⟩,
   ⟨23, ⟨5, 1, 0, 23, 0⟩, [], (withPort 23 { Port.reset with cfg := 1, clk := true, capturing := true, buf := [⟨5, 1, 0, 23, 0⟩] } rdy), rfl, rfl, rfl⟩⟩

set_option maxRecDepth 4000 in
theorem witness_TheAlwaysOnBlockKeepsTimeAndAlarms :
  (∃ (s : State), hearsPps s = true ∧ s.aon.tk = .disciplined ∧ s.aon.rejRun < 2 ∧ oneMs < ((nearestSec s.aon.time.toNat : Int) - s.aon.time.toNat).natAbs) ∧
  (∃ (s : State), hearsPps s = true ∧ s.aon.tk ≠ .disciplined ∧ s.aon.nextSec ≠ 0 ∧ oneMs < ((s.aon.nextSec.toNat * 1000000000 : Nat) - (s.aon.time.toNat : Int)) ∧ s.aon.nextSec.toNat * 1000000000 < 2 ^ 63) ∧
  (∃ (s : State), hearsPps s = true ∧ s.aon.tk = .acquiring ∧ s.aon.nextSec = 0 ∧ s.aon.goodRun = 7 ∧ ((nearestSec s.aon.time.toNat : Int) - s.aon.time.toNat).natAbs ≤ 20) ∧
  (∃ (s : State), running s = true ∧ uncorrected s.aon = true ∧ (s.aon.tk = .acquiring ∨ s.aon.tk = .disciplined)) ∧
  (∃ (n : Fin 4) (s : State), bitAt s.aon.cmpCfg[n] 13 = true ∧ bitAt s.aon.tripped n.val = false ∧ bitAt s.aon.wakeEn (4 + n.val) = false ∧ bitAt s.aon.trip n.val = false) ∧
  (∃ (n : Fin 4) (s : State), bitAt s.aon.cmpCfg[n] 13 = true ∧ bitAt s.aon.tripped n.val = false ∧ bitAt s.aon.wakeEn (4 + n.val) = false ∧ bitAt s.aon.trip n.val = true) ∧
  (∃ (n : Fin 4) (s : State), (bitAt s.aon.cmpCfg[n] 13 = false ∨ bitAt s.aon.tripped n.val = true)) ∧
  (∃ (n : Fin 4) (s : State), bitAt s.aon.cmpCfg[n] 13 = true ∧ bitAt s.aon.tripped n.val = false ∧ bitAt s.aon.wakeEn (4 + n.val) = true ∧ s.pwr.target = .run ∧ s.pwr.state = .sleep) ∧
  (∃ (v : Word) (s : State), awake s = true) ∧
  (∃ (s : State), s.aon.timerArmed = true ∧ s.aon.timer ≠ 0 ∧ s.aon.timer.toNat ≤ s.aon.time.toNat ∧ bitAt s.aon.wakeEn 1 = false) ∧
  (∃ (s : State), s.aon.timerArmed = true ∧ s.aon.timer ≠ 0 ∧ s.aon.timer.toNat ≤ s.aon.time.toNat ∧ bitAt s.aon.wakeEn 1 = true ∧ s.pwr.target = .run ∧ s.pwr.state = .sleep) ∧
  (∃ (s : State), s.aon.time.toNat < s.aon.timer.toNat) ∧
  (∃ (v : DWord) (s : State), awake s = true) :=
  ⟨⟨{ rdy with aon := { rdy.aon with src := 1, tk := .disciplined, rejRun := 1, time := 3002000000 } }, rfl, rfl, by decide, by decide⟩,
   ⟨{ rdy with aon := { rdy.aon with src := 1, tk := .free, nextSec := 5, time := 3002000000 } }, rfl, by decide, by decide, by decide, by decide⟩,
   ⟨{ rdy with aon := { rdy.aon with src := 1, tk := .acquiring, goodRun := 7, time := 3000000020 } }, rfl, rfl, rfl, rfl, by decide⟩,
   ⟨{ rdy with aon := { rdy.aon with tk := .acquiring, time := 3000000000 } }, rfl, by decide, by decide⟩,
   ⟨3, { rdy with aon := { rdy.aon with cmpCfg := vrep 4 0x2000 } }, rfl, rfl, rfl, rfl⟩,
   ⟨3, { rdy with aon := { rdy.aon with cmpCfg := vrep 4 0x2000, trip := 8 } }, rfl, rfl, rfl, rfl⟩,
   ⟨3, rdy, by decide⟩,
   ⟨3, { rdy with aon := { rdy.aon with cmpCfg := vrep 4 0x2000, wakeEn := 0xF0 }, pwr := { rdy.pwr with state := .sleep, target := .run } }, rfl, rfl, rfl, rfl, rfl⟩,
   ⟨0x1F, rdy, rfl⟩,
   ⟨{ rdy with aon := { rdy.aon with timerArmed := true, timer := 5, time := 5 } }, rfl, by decide, by decide, rfl⟩,
   ⟨{ rdy with aon := { rdy.aon with timerArmed := true, timer := 5, time := 5, wakeEn := 2 }, pwr := { rdy.pwr with state := .sleep, target := .run } }, rfl, by decide, by decide, rfl, rfl, rfl⟩,
   ⟨{ rdy with aon := { rdy.aon with timer := 5, time := 4 } }, by decide⟩,
   ⟨99, rdy, rfl⟩⟩

theorem witness_PowerCommandsMoveStateAndLevel :
  (∃ (c : Cmd) (g : PState) (s s1 : State), Runs c 0x01 s s1 ∧ bitsFrom c.a0 3 = false ∧ s.sec.tending = false ∧ stateOfCode (bitsNat c.a0 2 0) = some g ∧ s.pwr.seq = .idle ∧ s.pwr.state = g) ∧
  (∃ (c : Cmd) (s s1 : State), Runs c 0x01 s s1 ∧ bitsFrom c.a0 3 = false ∧ s.sec.tending = false ∧ bitsNat c.a0 2 0 = 3 ∧ s.pwr.seq = .idle ∧ s.pwr.state = .run ∧ awake s = true) ∧
  (∃ (c : Cmd) (g : PState) (s s1 : State), Runs c 0x01 s s1 ∧ bitsFrom c.a0 3 = false ∧ s.sec.tending = false ∧ stateOfCode (bitsNat c.a0 2 0) = some g ∧ s.pwr.seq ≠ .idle ∧ s.pwr.nextReq = none ∧ s.pwr.target = s.pwr.goal) ∧
  (∃ (c : Cmd) (s s1 : State), Runs c 0x01 s s1 ∧ bitsFrom c.a0 3 = false ∧ s.sec.tending = false ∧ 5 ≤ bitsNat c.a0 2 0) ∧
  (∃ (c : Cmd) (s s1 : State), Runs c 0x01 s s1 ∧ bitsFrom c.a0 3 = false ∧ s.sec.tending = true) ∧
  (∃ (c : Cmd) (s s1 : State), Runs c 0x02 s s1 ∧ bitsFrom c.a0 2 = false ∧ c.a1 = 0 ∧ c.a2 = 0 ∧ c.a3 = 0 ∧ s.sec.tending = false ∧ (s.pwr.state = .run ∨ s.pwr.state = .idle)) ∧
  (∃ (c : Cmd) (s s1 : State), Runs c 0x02 s s1 ∧ bitsFrom c.a0 2 = false ∧ c.a1 = 0 ∧ c.a2 = 0 ∧ c.a3 = 0 ∧ s.sec.tending = false ∧ s.pwr.state = .sleep) ∧
  (∃ (c : Cmd) (s s1 : State), Runs c 0x02 s s1 ∧ (bitsFrom c.a0 2 = true ∨ c.a1 ≠ 0 ∨ c.a2 ≠ 0 ∨ c.a3 ≠ 0)) :=
  ⟨⟨(cm 4), .run, (que (cm 4) 0x01 (rdy)), (tkn (cm 4) 0x01 (que (cm 4) 0x01 (rdy))), ⟨rfl, rfl, rfl⟩, rfl, rfl, rfl, rfl, rfl⟩,
   ⟨(cm 3), (que (cm 3) 0x01 (rdy)), (tkn (cm 3) 0x01 (que (cm 3) 0x01 (rdy))), ⟨rfl, rfl, rfl⟩, rfl, rfl, rfl, rfl, rfl, rfl⟩,
   ⟨(cm 3), .idle, (que (cm 3) 0x01 ({ rdy with pwr := { rdy.pwr with seq := .quiesce .sleep, target := .sleep, goal := .sleep } })), (tkn (cm 3) 0x01 (que (cm 3) 0x01 ({ rdy with pwr := { rdy.pwr with seq := .quiesce .sleep, target := .sleep, goal := .sleep } }))), ⟨rfl, rfl, rfl⟩, rfl, rfl, rfl, by decide, rfl, rfl⟩,
   ⟨(cm 7), (que (cm 7) 0x01 (rdy)), (tkn (cm 7) 0x01 (que (cm 7) 0x01 (rdy))), ⟨rfl, rfl, rfl⟩, rfl, rfl, by decide⟩,
   ⟨(cm 3), (que (cm 3) 0x01 ({ rdy with sec := { rdy.sec with tending := true } })), (tkn (cm 3) 0x01 (que (cm 3) 0x01 ({ rdy with sec := { rdy.sec with tending := true } }))), ⟨rfl, rfl, rfl⟩, rfl, rfl⟩,
   ⟨(cm 3), (que (cm 3) 0x02 (rdy)), (tkn (cm 3) 0x02 (que (cm 3) 0x02 (rdy))), ⟨rfl, rfl, rfl⟩, rfl, rfl, rfl, rfl, rfl, by decide⟩,
   ⟨(cm 3), (que (cm 3) 0x02 ({ rdy with pwr := { rdy.pwr with state := .sleep } })), (tkn (cm 3) 0x02 (que (cm 3) 0x02 ({ rdy with pwr := { rdy.pwr with state := .sleep } }))), ⟨rfl, rfl, rfl⟩, rfl, rfl, rfl, rfl, rfl, rfl⟩,
   ⟨(cm 4), (que (cm 4) 0x02 (rdy)), (tkn (cm 4) 0x02 (que (cm 4) 0x02 (rdy))), ⟨rfl, rfl, rfl⟩, by decide⟩⟩

theorem witness_SidebandCommandsAnswer :
  (∃ (s : State), sidebandOn s = true) ∧
  (∃ (s : State), sidebandOn s = true) ∧
  (∃ (s : State), sidebandOn s = true) ∧
  (∃ (d : Byte) (g : PState) (s : State), sidebandOn s = true ∧ stateOfCode d.toNat = some g) ∧
  (∃ (d : Byte) (ok : Bool) (s : State), sidebandOn s = true ∧ (ok = false ∨ 5 ≤ d.toNat)) ∧
  (∃ (d : Byte) (ok : Bool) (s : State), sidebandOn s = false) :=
  ⟨⟨rdy, rfl⟩,
   ⟨rdy, rfl⟩,
   ⟨rdy, rfl⟩,
   ⟨3, .idle, rdy, rfl, rfl⟩,
   ⟨5, true, rdy, rfl, by decide⟩,
   ⟨3, true, { rdy with aon := { rdy.aon with supply := false } }, rfl⟩⟩

theorem witness_RailStepsFollowTheOrder :
  (∃ (k : Nat) (g : PState) (s : State), s.pwr.seq = .down k g ∧ k < lastDown g) ∧
  (∃ (k : Nat) (g : PState) (s : State), s.pwr.seq = .down k g ∧ k < lastDown g) ∧
  (∃ (k : Nat) (s : State), s.pwr.seq = .up k ∧ 2 < k) ∧
  (∃ (s : State), s.pwr.seq = .up 2 ∧ s.pwr.state ≠ .sleep) ∧
  (∃ (r : Rail) (s : State), s.aon.supply = true ∧ s.pwr.seq = .idle ∧ s.pwr.state ≠ .off ∧ s.pwr.state ≠ .deep) ∧
  (∃ (r : Rail) (k : Nat) (s : State), s.aon.supply = true ∧ s.pwr.seq = .up k ∧ 0 < k ∧ k < 5 ∧ awake s = false ∧ s.jobs = vrep 4 none ∧ s.mgmt.debugOpen = false) :=
  ⟨⟨5, .off, { rdy with pwr := { rdy.pwr with seq := .down 5 .off } }, rfl, by decide⟩,
   ⟨2, .sleep, { rdy with pwr := { rdy.pwr with seq := .down 2 .sleep } }, rfl, by decide⟩,
   ⟨5, { rdy with pwr := { rdy.pwr with seq := .up 5 } }, rfl, by decide⟩,
   ⟨{ rdy with pwr := { rdy.pwr with seq := .up 2 } }, rfl, by decide⟩,
   ⟨.vdram, rdy, rfl, rfl, by decide, by decide⟩,
   ⟨.vdram, 2, { rdy with pwr := { rdy.pwr with seq := .up 2 }, glb := { rdy.glb with phase := .powerUp } }, rfl, rfl, by decide, by decide, rfl, rfl, rfl⟩⟩

theorem witness_WakesAndResetsTakeWhatTheyName :
  (∃ (s : State), s.aon.supply = true ∧ s.pwr.thermalHold = false ∧ s.pwr.target = .run ∧ s.pwr.state ≠ .run) ∧
  (∃ (s : State), s.aon.supply = true ∧ s.pwr.thermalHold = false ∧ s.pwr.state = .off ∧ s.pwr.target = .off ∧ s.pwr.seq = .idle) ∧
  (∃ (s : State), s.aon.supply = true ∧ s.pwr.thermalHold = true) ∧
  (∃ (s : State), s.pwr.thermalHold = true ∧ s.pwr.wakeDeferred = false) ∧
  (∃ (l : Fin 8) (s : State), awake s = true ∧ linkPresent s.part l.val = true ∧ bitAt s.aon.wakeEn (8 + l.val) = true ∧ s.pwr.seq = .up 4 ∧ s.pwr.goal = .idle ∧ s.pwr.target = .run ∧ s.pwr.state = .sleep ∧ s.links[l].state = .signalDetect) ∧
  (∃ (v : Word) (s : State), awake s = true) ∧
  (∃ (s : State), awake s = true) ∧
  (∃ (s : State), s.aon.supply = true) ∧
  (∃ (s : State), s.aon.supply = false) ∧
  (∃ (s : State), s.aon.supply = false) :=
  ⟨⟨{ rdy with pwr := { rdy.pwr with state := .sleep, target := .run } }, rfl, rfl, rfl, by decide⟩,
   ⟨{ rdy with pwr := { rdy.pwr with state := .off, target := .off } }, rfl, rfl, rfl, rfl, rfl⟩,
   ⟨{ rdy with pwr := { rdy.pwr with thermalHold := true } }, rfl, rfl⟩,
   ⟨{ rdy with pwr := { rdy.pwr with thermalHold := true } }, rfl, rfl⟩,
   ⟨7, { rdy with pwr := { rdy.pwr with seq := .up 4, goal := .idle, target := .run, state := .sleep }, aon := { rdy.aon with wakeEn := 0x8000 }, links := rdy.links.set 7 { Link.reset with state := .signalDetect } }, rfl, rfl, rfl, rfl, rfl, rfl, rfl, rfl⟩,
   ⟨0x8C, rdy, rfl⟩,
   ⟨rdy, rfl⟩,
   ⟨rdy, rfl⟩,
   ⟨{ rdy with aon := { rdy.aon with supply := false, cellTrip := true } }, rfl⟩,
   ⟨{ rdy with aon := { rdy.aon with supply := false } }, rfl⟩⟩

theorem witness_RailAndPinEventsComplete :
  (∃ (k : Nat) (g : PState) (s : State), s.pwr.seq = .down k g ∧ lastDown g ≤ k) ∧
  (∃ (k : Nat) (s : State), s.pwr.seq = .up k ∧ 0 < k ∧ k ≤ (if s.pwr.state = .sleep then 2 else 1)) ∧
  (∃ (r : Rail) (s : State), (∀ k g, s.pwr.seq = .down k g → downRail k ≠ r) ∧ (∀ k, s.pwr.seq = .up k → k = 0 ∨ upRail k ≠ r)) ∧
  (∃ (k : Nat) (g : PState) (s : State), s.pwr.seq = .down k g) ∧
  (∃ (s : State), (∀ k g, s.pwr.seq ≠ .down k g)) ∧
  (∃ (r : Rail) (k : Nat) (g : PState) (s : State), s.aon.supply = true ∧ s.pwr.seq = .down k g) ∧
  (∃ (r : Rail) (s : State), powered s = false) ∧
  (∃ (s : State), s.aon.supply = true ∧ s.pwr.thermalHold = false ∧ s.pwr.state = .sleep ∧ s.pwr.seq = .idle ∧ s.pwr.target = .sleep ∧ bitAt s.aon.wakeEn 0 = true) ∧
  (∃ (s : State), s.pwr.thermalHold = false ∧ s.pwr.state = .sleep ∧ s.pwr.seq = .idle ∧ s.pwr.target = .sleep ∧ bitAt s.aon.wakeEn 0 = false) ∧
  (∃ (s : State), s.aon.supply = false) ∧
  (∃ (s : State), s.pwr.thermalHold = true ∧ s.pwr.wakeDeferred = true ∧ s.aon.supply = true ∧ s.pwr.state = .off ∧ s.pwr.target = .off ∧ s.pwr.seq = .idle) ∧
  (∃ (s : State), s.pwr.thermalHold = false) ∧
  (∃ (l : Fin 8) (s : State), awake s = true ∧ linkPresent s.part l.val = true ∧ bitAt s.aon.wakeEn (8 + l.val) = true ∧ s.pwr.state = .sleep ∧ s.pwr.seq = .idle ∧ s.pwr.target = .sleep ∧ (s.links[l].state = .signalDetect ∨ s.links[l].state = .training)) ∧
  (∃ (l : Fin 8) (s : State), (awake s = false ∨ linkPresent s.part l.val = false ∨ bitAt s.aon.wakeEn (8 + l.val) = false)) ∧
  (∃ (v : Word) (s : State), awake s = true ∧ bitAt v 2 = false ∧ bitAt v 3 = false ∧ bitAt v 7 = false) ∧
  (∃ (v : Word) (s : State), awake s = false) ∧
  (∃ (s : State), awake s = true) ∧
  (∃ (s : State), awake s = false) ∧
  (∃ (s : State), s.aon.supply = true) ∧
  (∃ (s : State), s.aon.supply = false) ∧
  (∃ (s : State), s.aon.supply = false) ∧
  (∃ (s : State), s.aon.supply = true) ∧
  (∃ (s : State), s.aon.supply = false) :=
  ⟨⟨5, .sleep, { rdy with pwr := { rdy.pwr with seq := .down 5 .sleep } }, rfl, by decide⟩,
   ⟨2, { rdy with pwr := { rdy.pwr with seq := .up 2, state := .sleep } }, rfl, by decide, by decide⟩,
   ⟨.vio, rdy, (by intro k g h; cases h), (by intro k h; cases h)⟩,
   ⟨3, .off, { rdy with pwr := { rdy.pwr with seq := .down 3 .off } }, rfl⟩,
   ⟨rdy, (by intro k g h; cases h)⟩,
   ⟨.vcore, 2, .sleep, { rdy with pwr := { rdy.pwr with seq := .down 2 .sleep } }, rfl, rfl⟩,
   ⟨.vcore, { rdy with pwr := { rdy.pwr with state := .off } }, rfl⟩,
   ⟨{ rdy with pwr := { rdy.pwr with state := .sleep, target := .sleep }, aon := { rdy.aon with wakeEn := 1 } }, rfl, rfl, rfl, rfl, rfl, rfl⟩,
   ⟨{ rdy with pwr := { rdy.pwr with state := .sleep, target := .sleep }, aon := { rdy.aon with wakeEn := 0 } }, rfl, rfl, rfl, rfl, rfl⟩,
   ⟨{ rdy with aon := { rdy.aon with supply := false } }, rfl⟩,
   ⟨{ rdy with pwr := { rdy.pwr with thermalHold := true, wakeDeferred := true, state := .off, target := .off } }, rfl, rfl, rfl, rfl, rfl, rfl⟩,
   ⟨rdy, rfl⟩,
   ⟨7, { rdy with pwr := { rdy.pwr with state := .sleep, target := .sleep }, aon := { rdy.aon with wakeEn := 0x8000 }, links := rdy.links.set 7 { Link.reset with state := .signalDetect } }, rfl, rfl, rfl, rfl, rfl, rfl, .inl rfl⟩,
   ⟨7, { rdy with aon := { rdy.aon with wakeEn := 1 } }, by decide⟩,
   ⟨0x71, rdy, rfl, rfl, rfl, rfl⟩,
   ⟨0, { rdy with glb := { rdy.glb with phase := .down } }, rfl⟩,
   ⟨rdy, rfl⟩,
   ⟨{ rdy with glb := { rdy.glb with phase := .down } }, rfl⟩,
   ⟨rdy, rfl⟩,
   ⟨{ rdy with aon := { rdy.aon with supply := false, cellTrip := true } }, rfl⟩,
   ⟨{ rdy with aon := { rdy.aon with supply := false } }, rfl⟩,
   ⟨rdy, rfl⟩,
   ⟨{ rdy with aon := { rdy.aon with supply := false } }, rfl⟩⟩

theorem witness_TestsRetrainsAndQuiescingEnd :
  (∃ (g : PState) (s : State), s.pwr.seq = .quiesce g) ∧
  (∃ (s : State), (∀ g, s.pwr.seq ≠ .quiesce g)) ∧
  (∃ (c : Cmd) (s s1 : State), Runs c 0x30 s s1 ∧ bitsFrom c.a0 3 = false ∧ pendingUnits s = true) ∧
  (∃ (c : Cmd) (s s1 : State), Runs c 0x30 s s1 ∧ bitsFrom c.a0 3 = false ∧ pendingUnits s = false ∧ noJobRuns s = false) ∧
  (∃ (c : Cmd) (s s1 : State), Runs c 0x31 s s1 ∧ bitsFrom c.a0 12 = false ∧ pendingUnits s = true) ∧
  (∃ (c : Cmd) (s s1 : State), Runs c 0x31 s s1 ∧ bitsFrom c.a0 12 = false ∧ pendingUnits s = false ∧ noJobRuns s = false ∧ presentLinks s c.a0 ≠ 0) ∧
  (∃ (d : Fin 4) (s : State), running s = true ∧ drawerPresent s.part d.val = true ∧ s.pwr.drawersNow = []) ∧
  (∃ (d : Fin 4) (s : State), running s = true ∧ drawerPresent s.part d.val = true ∧ noJobRuns s = false) ∧
  (∃ (d : Fin 4) (ok : Bool) (s : State), running s = true ∧ s.pwr.drawersNow = [d.val] ∧ s.pwr.armed = 0 ∧ s.pwr.retrain = none) :=
  ⟨⟨.sleep, { withJob jobR rdy with pwr := { rdy.pwr with seq := .quiesce .sleep } }, rfl⟩,
   ⟨rdy, (fun g h => by cases h)⟩,
   ⟨(cm 7), (que (cm 7) 0x30 ({ rdy with pwr := { rdy.pwr with retrain := some ⟨pnd 0x31, 1, 0, 0⟩ } })), (tkn (cm 7) 0x30 (que (cm 7) 0x30 ({ rdy with pwr := { rdy.pwr with retrain := some ⟨pnd 0x31, 1, 0, 0⟩ } }))), ⟨rfl, rfl, rfl⟩, rfl, rfl⟩,
   ⟨(cm 1), (que (cm 1) 0x30 (withJob jobR rdy)), (tkn (cm 1) 0x30 (que (cm 1) 0x30 (withJob jobR rdy))), ⟨rfl, rfl, rfl⟩, rfl, rfl, rfl⟩,
   ⟨(cm 0xFFF), (que (cm 0xFFF) 0x31 ({ rdy with pwr := { rdy.pwr with retrain := some ⟨pnd 0x31, 1, 0, 0⟩ } })), (tkn (cm 0xFFF) 0x31 (que (cm 0xFFF) 0x31 ({ rdy with pwr := { rdy.pwr with retrain := some ⟨pnd 0x31, 1, 0, 0⟩ } }))), ⟨rfl, rfl, rfl⟩, rfl, rfl⟩,
   ⟨(cm 0xF01), (que (cm 0xF01) 0x31 (withJob jobR rdy)), (tkn (cm 0xF01) 0x31 (que (cm 0xF01) 0x31 (withJob jobR rdy))), ⟨rfl, rfl, rfl⟩, rfl, rfl, rfl, by decide⟩,
   ⟨3, { rdy with pwr := { rdy.pwr with drawersNow := [] } }, rfl, rfl, rfl⟩,
   ⟨3, (withJob jobR rdy), rfl, rfl, rfl⟩,
   ⟨3, true, { rdy with pwr := { rdy.pwr with drawersNow := [3] } }, rfl, rfl, rfl, rfl⟩⟩

theorem witness_TemperatureAndWatchdogActWithoutTheHost :
  (∃ (v : BitVec 8) (s : State), running s = true ∧ noJobRuns s = false ∧ (∀ l : Fin 8, carries s.links[l] = false) ∧ (∀ d : Fin 4, tempGap v s.pwr.dramTemp[d] ≤ 20) ∧ s.pwr.gate = 0 ∧ v.toInt ≤ 100) ∧
  (∃ (v : BitVec 8) (s : State), running s = true ∧ noJobRuns s = false ∧ (∀ l : Fin 8, carries s.links[l] = false) ∧ (∀ d : Fin 4, tempGap v s.pwr.dramTemp[d] ≤ 20) ∧ 100 < v.toInt ∧ s.pwr.gate ≤ 7) ∧
  (∃ (s : State), running s = true ∧ 1 < s.pwr.gate ∧ s.pwr.temp.toInt < 98) ∧
  (∃ (s : State), running s = true ∧ s.pwr.gate = 1 ∧ s.pwr.temp.toInt < 98) ∧
  (∃ (v : BitVec 8) (s : State), powered s = true ∧ 115 ≤ v.toInt ∧ s.pwr.thermalHold = false) ∧
  (∃ (s : State), awake s = true) ∧
  (∃ (s : State), awake s = true ∧ s.pwr.coreDown = false ∧ (recentDogs s).length < 3) ∧
  (∃ (s : State), awake s = true ∧ s.pwr.coreDown = false ∧ 3 ≤ (recentDogs s).length) ∧
  (∃ (s : State), awake s = true ∧ s.pwr.coreDown = true) :=
  ⟨⟨100, { (withJob jobR rdy) with pwr := { (withJob jobR rdy).pwr with dramTemp := vrep 4 80 } }, rfl, rfl, by decide, by decide, rfl, by decide⟩,
   ⟨101, { (withJob jobR rdy) with pwr := { (withJob jobR rdy).pwr with dramTemp := vrep 4 121, gate := 7 } }, rfl, rfl, by decide, by decide, by decide, by decide⟩,
   ⟨{ rdy with pwr := { rdy.pwr with gate := 2, temp := 97 } }, rfl, by decide, by decide⟩,
   ⟨{ rdy with pwr := { rdy.pwr with gate := 1, temp := 97 } }, rfl, rfl, by decide⟩,
   ⟨115, rdy, rfl, by decide, rfl⟩,
   ⟨rdy, rfl⟩,
   ⟨rdy, rfl, rfl, by decide⟩,
   ⟨{ rdy with pwr := { rdy.pwr with watchdogs := [0, 0] } }, rfl, rfl, by decide⟩,
   ⟨{ rdy with pwr := { rdy.pwr with coreDown := true } }, rfl, rfl⟩⟩

theorem witness_ImagesAreOpenedWrittenAndAuthenticated :
  (∃ (c : Cmd) (s s1 : State), Runs c 0x10 s s1 ∧ bitsFrom c.a1 1 = false ∧ 0 < c.a0.toNat ∧ c.a0.toNat ≤ 67108864 ∧ c.a0.toNat % 32 = 0 ∧ regionShut (bankRegion (openTarget s (bitAt c.a1 0))) s = false ∧ blocksFor c.a0.toNat ≤ regionBlocks (bankRegion (openTarget s (bitAt c.a1 0))) s) ∧
  (∃ (c : Cmd) (s s1 : State), Runs c 0x10 s s1 ∧ bitsFrom c.a1 1 = false ∧ (c.a0 = 0 ∨ 67108864 < c.a0.toNat ∨ c.a0.toNat % 32 ≠ 0)) ∧
  (∃ (c : Cmd) (s s1 : State), Runs c 0x10 s s1 ∧ bitsFrom c.a1 1 = false ∧ 0 < c.a0.toNat ∧ c.a0.toNat ≤ 67108864 ∧ c.a0.toNat % 32 = 0 ∧ regionShut (bankRegion (openTarget s (bitAt c.a1 0))) s = true) ∧
  (∃ (c : Cmd) (m : List Byte) (x : ImgSession) (s s1 : State), Runs c 0x11 s s1 ∧ c.origin = .mgmt ∧ sessionOf s c.origin = some x ∧ writeFits { c with a2 := 0 } x = true ∧ m.length = c.a1.toNat ∧ regionShut (bankRegion x.bank) s = false) ∧
  (∃ (c : Cmd) (m d : List Byte) (x : ImgSession) (e : Session) (s s1 : State), Runs c 0x11 s s1 ∧ c.origin = .mailbox ∧ sessionOf s c.origin = some x ∧ writeFits c x = true ∧ s.hif.session = some e ∧ e.h2d ≠ some (BitVec.allOnes 64) ∧ bounceFits 0x11 c.a2.toNat (some c.a1.toNat) m = true ∧ openBounce e m = some d ∧ counterRises e (bounceCounter m) = true ∧ bounceCounter m ≠ BitVec.allOnes 64 ∧ regionShut (bankRegion x.bank) s = false) ∧
  (∃ (c : Cmd) (m : List Byte) (s s1 : State), Runs c 0x11 s s1 ∧ sessionOf s c.origin = none) ∧
  (∃ (c : Cmd) (m : List Byte) (x : ImgSession) (s s1 : State), Runs c 0x11 s s1 ∧ c.origin = .mailbox ∧ sessionOf s c.origin = some x ∧ x.length < c.a0.toNat + c.a1.toNat) ∧
  (∃ (c : Cmd) (op : Byte) (off : Nat) (n : Option Nat) (m : List Byte) (x : Session) (s : State), c.origin = .mailbox ∧ s.hif.session = some x ∧ x.h2d ≠ some (BitVec.allOnes 64) ∧ bounceFits op off n m = true ∧ (openBounce x m = none ∨ counterRises x (bounceCounter m) = false)) ∧
  (∃ (c : Cmd) (op : Byte) (off : Nat) (n : Option Nat) (m d : List Byte) (s t : State), c.origin = .mailbox ∧ takeBounce c op off n m s = (.inr d, t)) ∧
  (∃ (c : Cmd) (op : Byte) (off : Nat) (n : Option Nat) (m : List Byte) (s : State), c.origin = .mailbox ∧ s.hif.session = none) :=
  ⟨⟨(cm 67108864), (que (cm 67108864) 0x10 (rdy)), (tkn (cm 67108864) 0x10 (que (cm 67108864) 0x10 (rdy))), ⟨rfl, rfl, rfl⟩, rfl, by decide, by decide, rfl, rfl, by decide⟩,
   ⟨(cm 33), (que (cm 33) 0x10 (rdy)), (tkn (cm 33) 0x10 (que (cm 33) 0x10 (rdy))), ⟨rfl, rfl, rfl⟩, rfl, by decide⟩,
   ⟨(cm 32), (que (cm 32) 0x10 ({ rdy with fls := { rdy.fls with prot := rdy.fls.prot.set 6 .passwordLocked } })), (tkn (cm 32) 0x10 (que (cm 32) 0x10 ({ rdy with fls := { rdy.fls with prot := rdy.fls.prot.set 6 .passwordLocked } }))), ⟨rfl, rfl, rfl⟩, rfl, by decide, by decide, rfl, rfl⟩,
   ⟨⟨.mgmt, 7, 0, 32, 0, 0⟩, zeros, ⟨.a, 64, .mgmt, 0, 1⟩, (ses ({ rdy with fls := { rdy.fls with img := some ⟨.a, 64, .mgmt, 0, 1⟩ } })), (tkn ⟨.mgmt, 7, 0, 32, 0, 0⟩ 0x11 (ses ({ rdy with fls := { rdy.fls with img := some ⟨.a, 64, .mgmt, 0, 1⟩ } }))), ⟨rfl, rfl, rfl⟩, rfl, rfl, rfl, rfl, rfl⟩,
   ⟨⟨.mailbox, 7, 32, 32, 0, 0⟩, (bounceOf 0x11 ses0), (gcmCrypt ses0.h2dKey (leBytes 4 ses0.salt.toNat ++ [1, 0, 0, 0, 0, 0, 0, 0]) zeros), ⟨.a, 64, .mailbox, 0, 1⟩, ses0, (que ⟨.mailbox, 7, 32, 32, 0, 0⟩ 0x11 ({ rdy with fls := { rdy.fls with img := some ⟨.a, 64, .mailbox, 0, 1⟩ }, hif := { rdy.hif with session := some ses0 } })), (tkn ⟨.mailbox, 7, 32, 32, 0, 0⟩ 0x11 (que ⟨.mailbox, 7, 32, 32, 0, 0⟩ 0x11 ({ rdy with fls := { rdy.fls with img := some ⟨.a, 64, .mailbox, 0, 1⟩ }, hif := { rdy.hif with session := some ses0 } }))), ⟨rfl, rfl, rfl⟩, rfl, rfl, rfl, rfl, by decide, bounce_fits ses0, bounce_opens 0x11 ses0 rfl, rfl, by decide, rfl⟩,
   ⟨(cm 0), [], (que (cm 0) 0x11 rdy), (tkn (cm 0) 0x11 (que (cm 0) 0x11 rdy)), ⟨rfl, rfl, rfl⟩, rfl⟩,
   ⟨⟨.mailbox, 7, 64, 32, 0, 0⟩, [], ⟨.a, 64, .mailbox, 0, 1⟩, (que ⟨.mailbox, 7, 64, 32, 0, 0⟩ 0x11 ({ rdy with fls := { rdy.fls with img := some ⟨.a, 64, .mailbox, 0, 1⟩ } })), (tkn ⟨.mailbox, 7, 64, 32, 0, 0⟩ 0x11 (que ⟨.mailbox, 7, 64, 32, 0, 0⟩ 0x11 ({ rdy with fls := { rdy.fls with img := some ⟨.a, 64, .mailbox, 0, 1⟩ } }))), ⟨rfl, rfl, rfl⟩, rfl, rfl, by decide⟩,
   ⟨(cm 0), 0x11, 0, none, (bounceOf 0x11 ses0), { ses0 with h2d := some 1 }, { rdy with hif := { rdy.hif with session := some { ses0 with h2d := some 1 } } }, rfl, rfl, by decide, bounce_fits_any ses0, .inr rfl⟩,
   ⟨(cm 0), 0x11, 0, (some 32), (bounceOf 0x11 ses0), (gcmCrypt ses0.h2dKey (leBytes 4 ses0.salt.toNat ++ [1, 0, 0, 0, 0, 0, 0, 0]) zeros), { rdy with hif := { rdy.hif with session := some ses0 } }, (takeCounter 7 ses0 1 { rdy with hif := { rdy.hif with session := some ses0 } }), rfl, bounce_taken _ _ _ _ _ _ ses0 _ rfl rfl (by decide) (bounce_fits ses0) (bounce_opens 0x11 ses0 rfl) rfl⟩,
   ⟨(cm 0), 0x11, 0, none, [], rdy, rfl, rfl⟩⟩

theorem witness_ImagesAreCommittedAndSelected :
  (∃ (c : Cmd) (v : CommitVerdict) (x : ImgSession) (s s1 : State), Runs c 0x12 s s1 ∧ sessionOf s c.origin = some x) ∧
  (∃ (c : Cmd) (v : CommitVerdict) (s s1 : State), Runs c 0x12 s s1 ∧ sessionOf s c.origin = none) ∧
  (∃ (c : Cmd) (b : Bank) (s s1 : State), Runs c 0x13 s s1 ∧ bitsFrom c.a0 1 = false ∧ b = (if bitAt c.a0 0 then .b else .a) ∧ selectBusy s = false ∧ bankSt s b = .valid ∧ s.fls.img = none ∧ (bankHeader s b).imageId.toNat = c.a1.toNat + c.a2.toNat * 2 ^ 32) ∧
  (∃ (c : Cmd) (s s1 : State), Runs c 0x13 s s1 ∧ bitsFrom c.a0 1 = false ∧ selectBusy s = true) ∧
  (∃ (c : Cmd) (s s1 : State), Runs c 0x13 s s1 ∧ bitsFrom c.a0 1 = false ∧ selectBusy s = false ∧ (bankSt s (if bitAt c.a0 0 then .b else .a) ≠ .valid ∨ s.fls.img ≠ none)) :=
  ⟨⟨(cm 0), ⟨none, true⟩, ⟨.a, 512, .mailbox, 16, 1⟩, (que (cm 0) 0x12 ({ burnt with fls := { burnt.fls with img := some ⟨.a, 512, .mailbox, 16, 1⟩ } })), (tkn (cm 0) 0x12 (que (cm 0) 0x12 ({ burnt with fls := { burnt.fls with img := some ⟨.a, 512, .mailbox, 16, 1⟩ } }))), ⟨rfl, rfl, rfl⟩, rfl⟩,
   ⟨(cm 0), ⟨none, true⟩, (que (cm 0) 0x12 (rdy)), (tkn (cm 0) 0x12 (que (cm 0) 0x12 (rdy))), ⟨rfl, rfl, rfl⟩, rfl⟩,
   ⟨⟨.mailbox, 7, 0, 77, 0, 0⟩, .a, (que ⟨.mailbox, 7, 0, 77, 0, 0⟩ 0x13 ({ burnt with glb := { burnt.glb with bankA := .valid } })), (tkn ⟨.mailbox, 7, 0, 77, 0, 0⟩ 0x13 (que ⟨.mailbox, 7, 0, 77, 0, 0⟩ 0x13 ({ burnt with glb := { burnt.glb with bankA := .valid } }))), ⟨rfl, rfl, rfl⟩, rfl, rfl, rfl, rfl, rfl, rfl⟩,
   ⟨(cm 0), (que (cm 0) 0x13 (withJob jobR rdy)), (tkn (cm 0) 0x13 (que (cm 0) 0x13 (withJob jobR rdy))), ⟨rfl, rfl, rfl⟩, rfl, rfl⟩,
   ⟨(cm 1), (que (cm 1) 0x13 rdy), (tkn (cm 1) 0x13 (que (cm 1) 0x13 rdy)), ⟨rfl, rfl, rfl⟩, rfl, rfl, by decide⟩⟩

theorem witness_BootAndTrialsRunThroughTheirPhases :
  (∃ (ok weak : Bool) (reads : List FlashRead) (s : State), s.glb.phase = .verify ∧ selRead s.fls.selLog = ⟨none, none⟩) ∧
  (∃ (w : SelWord) (weak : Bool) (s : State), s.glb.phase = .verify ∧ selRead s.fls.selLog = ⟨some w, none⟩ ∧ w.svn.toNat ≤ s.fls.ar ∧ badWords s w.bank (bankHeader s w.bank).length = 0 ∧ headerOk (bankHeader s w.bank) = true ∧ imageRefusal (bankHeader s w.bank) true s = none) ∧
  (∃ (b : Bank) (s : State), bootTrained s = true ∧ s.glb.bootBank = some b) ∧
  (∃ (s : State), bootTrained s = true ∧ s.glb.bootBank = none ∧ s.pwr.target = .run) ∧
  (∃ (body : ImageBody) (ms : Word) (b : Bank) (s : State), s.glb.phase = .parse ∧ s.glb.bootBank = some b ∧ s.glb.trial = false ∧ parseRefusal ⟨s.part, bankHeader s b, { body with table := bankTable s b }⟩ = none ∧ autoJobs body = [] ∧ s.pwr.transition = false ∧ s.pwr.target = .run) ∧
  (∃ (body : ImageBody) (ms : Word) (b : Bank) (st : Byte) (s : State), s.glb.phase = .parse ∧ s.glb.bootBank = some b ∧ s.glb.trial = false ∧ parseRefusal ⟨s.part, bankHeader s b, { body with table := bankTable s b }⟩ = some st ∧ s.pwr.target = .run) ∧
  (∃ (b : Bank) (s : State), (s.glb.phase = .training ∨ s.glb.phase = .parse) ∧ s.glb.bootBank = some b ∧ s.glb.trial = false ∧ s.pwr.target = .run) ∧
  (∃ (f : FwCopy) (s : State), s.glb.phase = .noFirmware ∧ f.sigOk = true ∧ s.sec.fuse ≤ f.svn.toNat) ∧
  (∃ (x : Bank) (h : ImgHeader) (s : State), h.svn.toNat ≤ 4096) :=
  ⟨⟨true, false, [], { rdy with glb := { rdy.glb with phase := .verify } }, rfl, rfl⟩,
   ⟨⟨.confirm, .a, 3, 1, 77, .active⟩, false, { burnt with glb := { burnt.glb with phase := .verify }, fls := { burnt.fls with selLog := [⟨.confirm, .a, 3, 1, 77, .active⟩], ar := 3 } }, rfl, rfl, by decide, rfl, rfl, rfl⟩,
   ⟨.b, { rdy with glb := { rdy.glb with phase := .training, bootBank := some .b }, rng := { rdy.rng with everOk := true }, stk := { rdy.stk with xts := some 1, salt := some 2 }, pwr := { rdy.pwr with seq := .up 0 } }, rfl, rfl⟩,
   ⟨{ rdy with glb := { rdy.glb with phase := .training }, rng := { rdy.rng with everOk := true }, stk := { rdy.stk with xts := some 1, salt := some 2 }, pwr := { rdy.pwr with seq := .up 0 } }, rfl, rfl, rfl⟩,
   ⟨body1, 9, .a, { burnt with glb := { burnt.glb with phase := .parse, bootBank := some .a }, pwr := { burnt.pwr with seq := .up 0 } }, rfl, rfl, rfl, rfl, rfl, rfl, rfl⟩,
   ⟨{ body1 with jobs := [] }, 9, .a, stBadArg, { burnt with glb := { burnt.glb with phase := .parse, bootBank := some .a }, pwr := { burnt.pwr with seq := .up 0 } }, rfl, rfl, rfl, rfl, rfl⟩,
   ⟨.a, { rdy with glb := { rdy.glb with phase := .training, bootBank := some .a } }, by decide, rfl, rfl, rfl⟩,
   ⟨⟨3, 1, 0, true⟩, { rdy with glb := { rdy.glb with phase := .noFirmware } }, rfl, rfl, by decide⟩,
   ⟨.a, (bankHeader burnt .a), rdy, by decide⟩⟩

theorem witness_FlashLocksFollowPasswordAndState :
  (∃ (c : Cmd) (d : BitVec 128) (s s1 : State), Runs c 0x60 s s1 ∧ bitsFrom c.a0 16 = false ∧ s.aon.lockout = false ∧ s.fls.password = some d ∧ passDigest s.serial c.a1 c.a2 = d) ∧
  (∃ (c : Cmd) (d : BitVec 128) (s s1 : State), Runs c 0x60 s s1 ∧ bitsFrom c.a0 16 = false ∧ s.aon.lockout = false ∧ s.fls.password = some d ∧ passDigest s.serial c.a1 c.a2 ≠ d) ∧
  (∃ (c : Cmd) (s s1 : State), Runs c 0x60 s s1 ∧ bitsFrom c.a0 16 = false ∧ s.aon.lockout = true) ∧
  (∃ (c : Cmd) (s s1 : State), Runs c 0x60 s s1 ∧ bitsFrom c.a0 16 = false ∧ s.aon.lockout = false ∧ s.fls.password = none) ∧
  (∃ (c : Cmd) (s s1 : State), Runs c 0x61 s s1 ∧ bitsFrom c.a0 16 = false ∧ c.a1 = 0) ∧
  (∃ (c : Cmd) (s s1 : State), Runs c 0x61 s s1 ∧ bitsFrom c.a0 16 = false ∧ c.a1 = 1 ∧ hasPermanent s c.a0 = false ∧ s.fls.password ≠ none) ∧
  (∃ (c : Cmd) (s s1 : State), Runs c 0x61 s s1 ∧ bitsFrom c.a0 16 = false ∧ c.a1 = 2 ∧ hasPermanent s c.a0 = false ∧ maskedAny s c.a0 (shutOut s) = false) ∧
  (∃ (c : Cmd) (s s1 : State), Runs c 0x61 s s1 ∧ bitsFrom c.a0 16 = false ∧ c.a1 = 3 ∧ hasPermanent s c.a0 = false ∧ maskedAny s c.a0 (shutOut s) = false) ∧
  (∃ (c : Cmd) (s s1 : State), Runs c 0x61 s s1 ∧ c.a1 = 4 ∧ (List.finRange 16).any (shutOut s) = false) ∧
  (∃ (c : Cmd) (i : Instr) (s s1 : State), Runs c 0x61 s s1 ∧ bitsFrom c.a0 16 = false ∧ hasPermanent s c.a0 = true ∧ ((c.a1 = 1 ∧ i = .flashLockSetPasswordLocked c) ∨ (c.a1 = 2 ∧ i = .flashLockSetPermanent c) ∨ (c.a1 = 3 ∧ i = .flashLockSetUnlocked c))) ∧
  (∃ (ops : List FlashOp) (p : Pend) (s : State), ops ≠ []) ∧
  (∃ (u : FlashTask) (n : Fin 16) (st : Prot) (s : State), awake s = true ∧ s.fls.issued = some u ∧ u.ops = [.protect n st] ∧ u.done = .protection ∧ s.fls.prot[n] ≠ .permanent) ∧
  (∃ (u : FlashTask) (n : Fin 16) (st : Prot) (s : State), awake s = true ∧ s.fls.issued = some u ∧ u.ops = [.protect n st] ∧ u.done = .protection ∧ s.fls.prot[n] = .permanent) ∧
  (∃ (u : FlashTask) (d : BitVec 128) (s : State), awake s = true ∧ s.fls.issued = some u ∧ u.ops = [.password d] ∧ u.done = .protection) :=
  ⟨⟨⟨.mailbox, 7, 0xFFFF, 1, 2, 0⟩, (passDigest rdy.serial 1 2), (que (⟨.mailbox, 7, 0xFFFF, 1, 2, 0⟩) 0x60 ({ rdy with fls := { rdy.fls with password := some (passDigest rdy.serial 1 2) } })), (tkn (⟨.mailbox, 7, 0xFFFF, 1, 2, 0⟩) 0x60 (que (⟨.mailbox, 7, 0xFFFF, 1, 2, 0⟩) 0x60 ({ rdy with fls := { rdy.fls with password := some (passDigest rdy.serial 1 2) } }))), ⟨rfl, rfl, rfl⟩, rfl, rfl, rfl, rfl⟩,
   ⟨⟨.mailbox, 7, 0xFFFF, 1, 2, 0⟩, (passDigest rdy.serial 1 2 + 1), (que (⟨.mailbox, 7, 0xFFFF, 1, 2, 0⟩) 0x60 ({ rdy with fls := { rdy.fls with password := some (passDigest rdy.serial 1 2 + 1), unlockFails := 7 } })), (tkn (⟨.mailbox, 7, 0xFFFF, 1, 2, 0⟩) 0x60 (que (⟨.mailbox, 7, 0xFFFF, 1, 2, 0⟩) 0x60 ({ rdy with fls := { rdy.fls with password := some (passDigest rdy.serial 1 2 + 1), unlockFails := 7 } }))), ⟨rfl, rfl, rfl⟩, rfl, rfl, rfl, (by simp : ∀ x : BitVec 128, x ≠ x + 1) _⟩,
   ⟨⟨.mailbox, 7, 0xFFFF, 1, 2, 0⟩, (que (⟨.mailbox, 7, 0xFFFF, 1, 2, 0⟩) 0x60 ({ rdy with aon := { rdy.aon with lockout := true } })), (tkn (⟨.mailbox, 7, 0xFFFF, 1, 2, 0⟩) 0x60 (que (⟨.mailbox, 7, 0xFFFF, 1, 2, 0⟩) 0x60 ({ rdy with aon := { rdy.aon with lockout := true } }))), ⟨rfl, rfl, rfl⟩, rfl, rfl⟩,
   ⟨⟨.mailbox, 7, 0xFFFF, 1, 2, 0⟩, (que (⟨.mailbox, 7, 0xFFFF, 1, 2, 0⟩) 0x60 (rdy)), (tkn (⟨.mailbox, 7, 0xFFFF, 1, 2, 0⟩) 0x60 (que (⟨.mailbox, 7, 0xFFFF, 1, 2, 0⟩) 0x60 (rdy))), ⟨rfl, rfl, rfl⟩, rfl, rfl, rfl⟩,
   ⟨⟨.mailbox, 7, 3, 0, 0, 0⟩, (que (⟨.mailbox, 7, 3, 0, 0, 0⟩) 0x61 (rdy)), (tkn (⟨.mailbox, 7, 3, 0, 0, 0⟩) 0x61 (que (⟨.mailbox, 7, 3, 0, 0, 0⟩) 0x61 (rdy))), ⟨rfl, rfl, rfl⟩, rfl, rfl⟩,
   ⟨⟨.mailbox, 7, 3, 1, 0, 0⟩, (que (⟨.mailbox, 7, 3, 1, 0, 0⟩) 0x61 ({ rdy with fls := { rdy.fls with password := some 5 } })), (tkn (⟨.mailbox, 7, 3, 1, 0, 0⟩) 0x61 (que (⟨.mailbox, 7, 3, 1, 0, 0⟩) 0x61 ({ rdy with fls := { rdy.fls with password := some 5 } }))), ⟨rfl, rfl, rfl⟩, rfl, rfl, rfl, by decide⟩,
   ⟨⟨.mailbox, 7, 0x8001, 2, 0, 0⟩, (que (⟨.mailbox, 7, 0x8001, 2, 0, 0⟩) 0x61 (rdy)), (tkn (⟨.mailbox, 7, 0x8001, 2, 0, 0⟩) 0x61 (que (⟨.mailbox, 7, 0x8001, 2, 0, 0⟩) 0x61 (rdy))), ⟨rfl, rfl, rfl⟩, rfl, rfl, rfl, rfl⟩,
   ⟨⟨.mailbox, 7, 3, 3, 0, 0⟩, (que (⟨.mailbox, 7, 3, 3, 0, 0⟩) 0x61 ({ rdy with fls := { rdy.fls with password := some 5, sessions := 3, prot := rdy.fls.prot.set 1 .passwordLocked } })), (tkn (⟨.mailbox, 7, 3, 3, 0, 0⟩) 0x61 (que (⟨.mailbox, 7, 3, 3, 0, 0⟩) 0x61 ({ rdy with fls := { rdy.fls with password := some 5, sessions := 3, prot := rdy.fls.prot.set 1 .passwordLocked } }))), ⟨rfl, rfl, rfl⟩, rfl, rfl, rfl, rfl⟩,
   ⟨⟨.mailbox, 7, 3, 4, 0, 0⟩, (que (⟨.mailbox, 7, 3, 4, 0, 0⟩) 0x61 (rdy)), (tkn (⟨.mailbox, 7, 3, 4, 0, 0⟩) 0x61 (que (⟨.mailbox, 7, 3, 4, 0, 0⟩) 0x61 (rdy))), ⟨rfl, rfl, rfl⟩, rfl, rfl⟩,
   ⟨⟨.mailbox, 7, 0x800, 1, 0, 0⟩, (.flashLockSetPasswordLocked ⟨.mailbox, 7, 0x800, 1, 0, 0⟩), (que (⟨.mailbox, 7, 0x800, 1, 0, 0⟩) 0x61 (rdy)), (tkn (⟨.mailbox, 7, 0x800, 1, 0, 0⟩) 0x61 (que (⟨.mailbox, 7, 0x800, 1, 0, 0⟩) 0x61 (rdy))), ⟨rfl, rfl, rfl⟩, rfl, rfl, .inl ⟨rfl, rfl⟩⟩,
   ⟨[.password 5], (pnd 0x61), rdy, by decide⟩,
   ⟨⟨3, [.protect 12 .permanent], .protection, none, 0⟩, 12, .permanent, { rdy with fls := { rdy.fls with issued := some ⟨3, [.protect 12 .permanent], .protection, none, 0⟩ } }, rfl, rfl, rfl, rfl, by decide⟩,
   ⟨⟨3, [.protect 12 .permanent], .protection, none, 0⟩, 12, .permanent, { rdy with fls := { rdy.fls with issued := some ⟨3, [.protect 12 .permanent], .protection, none, 0⟩, prot := rdy.fls.prot.set 12 .permanent } }, rfl, rfl, rfl, rfl, rfl⟩,
   ⟨⟨3, [.password 5], .protection, none, 0⟩, 5, { rdy with fls := { rdy.fls with issued := some ⟨3, [.password 5], .protection, none, 0⟩ } }, rfl, rfl, rfl, rfl⟩⟩

theorem witness_FlashOperationsAndRetirement :
  (∃ (u : FlashTask) (a : Nat) (d : List Byte) (rest : List FlashOp) (s j : State), awake s = true ∧ s.pwr.coreDown = false ∧ j = joinQueue s ∧ j.fls.issued = none ∧ nextTask j.fls.tasks = some u ∧ u.ops = .program a d :: rest) ∧
  (∃ (u : FlashTask) (b : Nat) (rest : List FlashOp) (s j : State), awake s = true ∧ s.pwr.coreDown = false ∧ j = joinQueue s ∧ j.fls.issued = none ∧ nextTask j.fls.tasks = some u ∧ u.ops = .erase b :: rest) ∧
  (∃ (b : Nat) (s : State), s.fls.hkLog.length < 2048) ∧
  (∃ (s : State), s.sq.exports = vrep 4 none ∧ s.jobs = vrep 4 none ∧ s.fls.marks = []) ∧
  (∃ (u : FlashTask) (a : Nat) (d : List Byte) (o : FlashOp) (rest : List FlashOp) (s : State), awake s = true ∧ s.fls.issued = some u ∧ u.ops = .program a d :: o :: rest ∧ tabFind a s.fls.words = none ∧ verifies u = false ∧ u.run + 1 < 64 ∧ (∀ b, o ≠ .erase b) ∧ tabSorted s.fls.words = true) ∧
  (∃ (u : FlashTask) (a : Nat) (d : List Byte) (rest : List FlashOp) (w : WordState) (ok m : Bool) (s : State), awake s = true ∧ s.fls.issued = some u ∧ u.ops = .program a d :: rest ∧ tabFind a s.fls.words = some w ∧ claimedSpare u = [] ∧ (∀ slot v, u.done ≠ .keyStore slot v)) ∧
  (∃ (u : FlashTask) (b : Nat) (o : FlashOp) (rest : List FlashOp) (s : State), awake s = true ∧ s.fls.issued = some u ∧ u.ops = .erase b :: o :: rest ∧ verifies u = false ∧ tabGet 0 (physOf s b) s.fls.eraseCounts < 100000) ∧
  (∃ (cause : RetireCause) (b sp : Nat) (rest : List Nat) (s : State), s.fls.spares = sp :: rest) ∧
  (∃ (cause : RetireCause) (b : Nat) (s : State), s.fls.spares = [] ∧ codeClass (regionOf b) = false) ∧
  (∃ (cause : RetireCause) (b d : Nat) (s : State), s.fls.spares = [] ∧ codeClass (regionOf b) = true ∧ donor s = some d) :=
  ⟨⟨(tsk [.program 9 []]), 9, [], [], { rdy with fls := { rdy.fls with tasks := [tsk [.program 9 []]] } }, (joinQueue { rdy with fls := { rdy.fls with tasks := [tsk [.program 9 []]] } }), rfl, rfl, rfl, rfl, rfl, rfl⟩,
   ⟨(tsk [.erase 4000]), 4000, [], { rdy with fls := { rdy.fls with tasks := [tsk [.erase 4000]] } }, (joinQueue { rdy with fls := { rdy.fls with tasks := [tsk [.erase 4000]] } }), rfl, rfl, rfl, rfl, rfl, rfl⟩,
   ⟨9, rdy, by decide⟩,
   ⟨rdy, rfl, rfl, rfl⟩,
   ⟨(tsk [.program 9 [1], .program 10 []]), 9, [1], (.program 10 []), [], { rdy with fls := { rdy.fls with issued := some (tsk [.program 9 [1], .program 10 []]) } }, rfl, rfl, rfl, rfl, rfl, by decide, (fun b h => by cases h), rfl⟩,
   ⟨(tsk [.program 9 [1]]), 9, [1], [], .bad, true, true, { rdy with fls := { rdy.fls with words := [(9, .bad)], issued := some (tsk [.program 9 [1]]) } }, rfl, rfl, rfl, rfl, rfl, (fun a b h => by cases h)⟩,
   ⟨(tsk [.erase 9, .erase 10]), 9, (.erase 10), [], { rdy with fls := { rdy.fls with issued := some (tsk [.erase 9, .erase 10]), eraseCounts := [(9, 99999)] } }, rfl, rfl, rfl, rfl, by decide⟩,
   ⟨.erase, 130, 4016, [], { rdy with fls := { rdy.fls with spares := [4016] } }, rfl⟩,
   ⟨.erase, 3916, { rdy with fls := { rdy.fls with spares := [] } }, rfl, rfl⟩,
   ⟨.erase, 130, 4015, { rdy with fls := { rdy.fls with spares := [] } }, rfl, rfl, rfl⟩⟩

theorem witness_NoiseSourceFollowsItsTests :
  (∃ (s : State), awake s = true ∧ (s.rng.state = .startup ∨ s.rng.state = .recovering) ∧ s.rng.windows = 3) ∧
  (∃ (s : State), awake s = true ∧ (s.rng.state = .startup ∨ s.rng.state = .recovering) ∧ s.rng.windows < 3) ∧
  (∃ (s : State), awake s = true ∧ s.rng.state = .ok ∧ s.rng.ready < 16) ∧
  (∃ (i : Instr) (bit : Nat) (k : Fin 3) (s : State), ((i = .rngRctFail ∧ bit = 0 ∧ k = 0) ∨ (i = .rngAptFail ∧ bit = 1 ∧ k = 1)) ∧ awake s = true ∧ s.rng.state = .ok ∧ s.rng.consec < 2 ∧ s.rng.everOk = true) ∧
  (∃ (i : Instr) (s : State), (i = .rngRctFail ∨ i = .rngAptFail) ∧ awake s = true ∧ s.rng.state = .recovering ∧ 2 ≤ s.rng.consec ∧ s.rng.waiting = []) ∧
  (∃ (rest : List RngReq) (s : State), awake s = true ∧ s.rng.state = .ok ∧ s.rng.waiting = ⟨.xtsKey, 2⟩ :: rest ∧ 2 ≤ s.rng.ready) ∧
  (∃ (s : State), awake s = true ∧ s.rng.state ≠ .ok) :=
  ⟨⟨{ rdy with rng := { rdy.rng with state := .startup, windows := 3 } }, rfl, by decide, rfl⟩,
   ⟨{ rdy with rng := { rdy.rng with state := .recovering, windows := 2 } }, rfl, by decide, by decide⟩,
   ⟨{ rdy with rng := { rdy.rng with ready := 15 } }, rfl, rfl, by decide⟩,
   ⟨.rngRctFail, 0, 0, { rdy with rng := { rdy.rng with consec := 1, everOk := true } }, .inl ⟨rfl, rfl, rfl⟩, rfl, rfl, by decide, rfl⟩,
   ⟨.rngAptFail, { rdy with rng := { rdy.rng with state := .recovering, consec := 2 } }, .inr rfl, rfl, rfl, by decide, rfl⟩,
   ⟨[], { rdy with rng := { rdy.rng with waiting := [⟨.xtsKey, 2⟩], ready := 2 } }, rfl, rfl, rfl, by decide⟩,
   ⟨{ rdy with rng := { rdy.rng with state := .capture } }, rfl, by decide⟩⟩

theorem witness_ReportsAndKeyReleasesComplete :
  (∃ (c : Cmd) (r : AttestReq) (s s1 : State), Runs c 0x40 s s1 ∧ bitsFrom c.a2 1 = false ∧ hostAddr c % 4096 = 0 ∧ r.accessible = true ∧ s.sec.reportNext ≠ BitVec.allOnes 64 ∧ outputsReady (attestOutputs (bitAt c.a2 0)) s = true) ∧
  (∃ (c : Cmd) (r : AttestReq) (s s1 : State), Runs c 0x40 s s1 ∧ bitsFrom c.a2 1 = false ∧ (hostAddr c % 4096 ≠ 0 ∨ r.accessible = false)) ∧
  (∃ (c : Cmd) (r : AttestReq) (s s1 : State), Runs c 0x40 s s1 ∧ bitsFrom c.a2 1 = false ∧ hostAddr c % 4096 = 0 ∧ r.accessible = true ∧ s.rng.state = .ok ∧ s.sec.reportNext ≠ BitVec.allOnes 64 ∧ outputsReady (attestOutputs (bitAt c.a2 0)) s = false) ∧
  (∃ (c : Cmd) (b key : List Byte) (h : Held) (s s1 : State), Runs c 0x41 s s1 ∧ blobOk c b = true ∧ (s.sec.held.find? fun x => x.reportId == blobReport b) = some h ∧ s.sec.keys[slotFin (blobKey b)] = none ∧ (blobFlags b == 1 && s.mgmt.debugOpen) = false ∧ unwrapKey h b s = some key) ∧
  (∃ (c : Cmd) (b : List Byte) (h : Held) (s s1 : State), Runs c 0x41 s s1 ∧ blobOk c b = true ∧ (s.sec.held.find? fun x => x.reportId == blobReport b) = some h ∧ s.sec.keys[slotFin (blobKey b)] = none ∧ (blobFlags b == 1 && s.mgmt.debugOpen) = false ∧ unwrapKey h b s = none) ∧
  (∃ (c : Cmd) (s s1 : State), Runs c 0x41 s s1) ∧
  (∃ (c : Cmd) (b : List Byte) (s s1 : State), Runs c 0x41 s s1 ∧ blobOk c b = true ∧ ((s.sec.held.any fun h => h.reportId == blobReport b) = false ∨ s.sec.keys[slotFin (blobKey b)] ≠ none ∨ (blobFlags b = 1 ∧ s.mgmt.debugOpen = true))) :=
  ⟨⟨(cm 0x1000), ⟨true, 0, 0⟩, (que (cm 0x1000) 0x40 ({ rdy with rng := { rdy.rng with ready := 1 } })), (tkn (cm 0x1000) 0x40 (que (cm 0x1000) 0x40 ({ rdy with rng := { rdy.rng with ready := 1 } }))), ⟨rfl, rfl, rfl⟩, rfl, rfl, rfl, by decide, rfl⟩,
   ⟨(cm 0x10), ⟨true, 0, 0⟩, (que (cm 0x10) 0x40 (rdy)), (tkn (cm 0x10) 0x40 (que (cm 0x10) 0x40 (rdy))), ⟨rfl, rfl, rfl⟩, rfl, by decide⟩,
   ⟨(cm 0x1000), ⟨true, 0, 0⟩, (que (cm 0x1000) 0x40 ({ rdy with rng := { rdy.rng with ready := 0 } })), (tkn (cm 0x1000) 0x40 (que (cm 0x1000) 0x40 ({ rdy with rng := { rdy.rng with ready := 0 } }))), ⟨rfl, rfl, rfl⟩, rfl, rfl, rfl, rfl, by decide, rfl⟩,
   ⟨⟨.mailbox, 7, 0, 0, 208, 0⟩, (blob (blobTag (tkn ⟨.mailbox, 7, 0, 0, 208, 0⟩ 0x41 (que ⟨.mailbox, 7, 0, 0, 208, 0⟩ 0x41 ({ rdy with sec := { rdy.sec with held := [held1] } }))))), (gcmCrypt (wrapKey held1 (blob []) (que ⟨.mailbox, 7, 0, 0, 208, 0⟩ 0x41 ({ rdy with sec := { rdy.sec with held := [held1] } }))) (List.replicate 12 9) zeros), held1, (que ⟨.mailbox, 7, 0, 0, 208, 0⟩ 0x41 ({ rdy with sec := { rdy.sec with held := [held1] } })), (tkn ⟨.mailbox, 7, 0, 0, 208, 0⟩ 0x41 (que ⟨.mailbox, 7, 0, 0, 208, 0⟩ 0x41 ({ rdy with sec := { rdy.sec with held := [held1] } }))), ⟨rfl, rfl, rfl⟩, blob_ok _ _ rfl (blobTag_length _), rfl, rfl, rfl, (by rw [blob_opens _ _ (blobTag_length _)]; exact gcmOpen_tag _ _ _ _)⟩,
   ⟨⟨.mailbox, 7, 0, 0, 208, 0⟩, (blob (other (blobTag (que ⟨.mailbox, 7, 0, 0, 208, 0⟩ 0x41 ({ rdy with sec := { rdy.sec with held := [held1] } }))))), held1, (que ⟨.mailbox, 7, 0, 0, 208, 0⟩ 0x41 ({ rdy with sec := { rdy.sec with held := [held1] } })), (tkn ⟨.mailbox, 7, 0, 0, 208, 0⟩ 0x41 (que ⟨.mailbox, 7, 0, 0, 208, 0⟩ 0x41 ({ rdy with sec := { rdy.sec with held := [held1] } }))), ⟨rfl, rfl, rfl⟩, blob_ok _ _ rfl (other_length _), rfl, rfl, rfl, (by rw [blob_opens _ _ (other_length _)]; exact (gcmOpen_eq_none _ _ _ _ _).2 (other_ne _))⟩,
   ⟨⟨.mailbox, 7, 0, 0, 208, 0⟩, (que ⟨.mailbox, 7, 0, 0, 208, 0⟩ 0x41 rdy), (tkn ⟨.mailbox, 7, 0, 0, 208, 0⟩ 0x41 (que ⟨.mailbox, 7, 0, 0, 208, 0⟩ 0x41 rdy)), ⟨rfl, rfl, rfl⟩⟩,
   ⟨⟨.mailbox, 7, 0, 0, 208, 0⟩, (blob (List.replicate 16 0)), (que ⟨.mailbox, 7, 0, 0, 208, 0⟩ 0x41 rdy), (tkn ⟨.mailbox, 7, 0, 0, 208, 0⟩ 0x41 (que ⟨.mailbox, 7, 0, 0, 208, 0⟩ 0x41 rdy)), ⟨rfl, rfl, rfl⟩, blob_ok _ _ rfl rfl, .inl rfl⟩⟩

set_option exponentiation.threshold 512 in
theorem witness_ContainersAndKeyUpdatesLoad :
  (∃ (k : Fin 4) (bs : List Byte) (ch : Chunk) (d : List Byte) (l : Load) (x : Fin 4 × Tensor) (r : TRun) (w s : State), loadOf s k = some l ∧ running s = true ∧ ch = readChunk (modelKey k s) bs ∧ chunkRefusal k ch l s = none ∧ chunkTarget k ch s = some x ∧ tensAt s x.1 ch.tensor = some r ∧ ch.data = some d ∧ writeHandle r.handle.toNat ch.offset d s = some w ∧ w.sec = s.sec ∧ bitAt ch.flags 0 = false) ∧
  (∃ (k : Fin 4) (bs : List Byte) (l : Load) (st : Byte) (s : State), loadOf s k = some l ∧ running s = true ∧ chunkRefusal k (readChunk (modelKey k s) bs) l s = some st ∧ l.pend ≠ none) ∧
  (∃ (k : Fin 4) (ch : Chunk) (l : Load) (s : State), (ch.data = none ∨ ch.index ≠ l.next)) ∧
  (∃ (id : DWord) (s : State), awake s = true ∧ heldOld id s = true) ∧
  (∃ (id : DWord) (s : State), heldOld id s = false) ∧
  (∃ (c : Cmd) (bs : List Byte) (s s1 : State), Runs c 0x8A s s1 ∧ bitsFrom c.a2 1 = false ∧ keyTask s = false ∧ ksInForce s.fls = none ∧ regionShut 2 s = false ∧ (dropsSigner (Config.ksContent bs) s && !bitAt c.a2 0) = false) ∧
  (∃ (c : Cmd) (m : List Byte) (s s1 : State), Runs c 0x42 s s1 ∧ c.origin = .mgmt ∧ bitsFrom c.a2 1 = false ∧ keyTask s = false ∧ ksInForce s.fls = none ∧ regionShut 2 s = false ∧ (dropsSigner (Config.ksContent m) s && !bitAt c.a2 0) = false) ∧
  (∃ (c : Cmd) (m : List Byte) (v : KsVersion) (s s1 : State), Runs c 0x42 s s1 ∧ c.origin = .mgmt ∧ bitsFrom c.a2 1 = false ∧ keyTask s = false ∧ ksInForce s.fls = some v ∧ (v.version ≠ c.a1 ∨ v.content ≠ Config.ksContent m) ∧ c.a1.toNat ≤ v.version.toNat) ∧
  (∃ (c : Cmd) (m : List Byte) (v : KsVersion) (ok : Bool) (s s1 : State), Runs c 0x42 s s1 ∧ c.origin = .mgmt ∧ bitsFrom c.a2 1 = false ∧ keyTask s = false ∧ ksInForce s.fls = some v ∧ v.version = c.a1 ∧ v.content = Config.ksContent m) :=
  ⟨⟨3, chunkOf, ⟨0, 5, 0, 64, 0, true, some chunkText⟩, chunkText, loadK, (0, tenK), (((loading.jobs[0]).bind (tensIn · 5)).getD (TRun.fresh tenK)), (chunked (((loading.jobs[0]).bind (tensIn · 5)).getD (TRun.fresh tenK))), loading, rfl, rfl, chunk_reads, rfl, rfl, rfl, rfl, chunk_written rfl, chunk_sec rfl, rfl⟩,
   ⟨3, (List.replicate 12 0 ++ List.replicate 36 255), loadK, stVerify, loading, rfl, rfl, rfl, by decide⟩,
   ⟨3, ⟨0, 5, 0, 64, 0, true, none⟩, loadK, loading, .inl rfl⟩,
   ⟨1, { rdy with sec := { rdy.sec with held := [held1] }, aon := { rdy.aon with time := 600000000000 } }, rfl, by decide⟩,
   ⟨1, rdy, rfl⟩,
   ⟨⟨.mgmt, 7, 0, 1, 0, 0⟩, [], (ses rdy), (tkn ⟨.mgmt, 7, 0, 1, 0, 0⟩ 0x8A (ses rdy)), ⟨rfl, rfl, rfl⟩, rfl, rfl, rfl, rfl, rfl⟩,
   ⟨⟨.mgmt, 7, 0, 1, 0, 0⟩, [], (ses rdy), (tkn ⟨.mgmt, 7, 0, 1, 0, 0⟩ 0x42 (ses rdy)), ⟨rfl, rfl, rfl⟩, rfl, rfl, rfl, rfl, rfl, rfl⟩,
   ⟨⟨.mgmt, 7, 0, 1, 0, 0⟩, [], ⟨2, ⟨[1], 0⟩, 0⟩, (ses ({ rdy with fls := { rdy.fls with ks := (vrep 2 none).set 0 (some ⟨2, ⟨[1], 0⟩, 0⟩), ksLog := [⟨false, 2, 0⟩] } })), (tkn ⟨.mgmt, 7, 0, 1, 0, 0⟩ 0x42 (ses ({ rdy with fls := { rdy.fls with ks := (vrep 2 none).set 0 (some ⟨2, ⟨[1], 0⟩, 0⟩), ksLog := [⟨false, 2, 0⟩] } }))), ⟨rfl, rfl, rfl⟩, rfl, rfl, rfl, rfl, .inl (by decide), by decide⟩,
   ⟨⟨.mgmt, 7, 0, 2, 0, 0⟩, [], ⟨2, Config.ksContent [], 0⟩, true, (ses ({ rdy with fls := { rdy.fls with ks := (vrep 2 none).set 0 (some ⟨2, Config.ksContent [], 0⟩), ksLog := [⟨false, 2, 0⟩] } })), (tkn ⟨.mgmt, 7, 0, 2, 0, 0⟩ 0x42 (ses ({ rdy with fls := { rdy.fls with ks := (vrep 2 none).set 0 (some ⟨2, Config.ksContent [], 0⟩), ksLog := [⟨false, 2, 0⟩] } }))), ⟨rfl, rfl, rfl⟩, rfl, rfl, rfl, rfl, rfl, rfl⟩⟩

theorem witness_TenantEndTakesTheTenantsState :
  (∃ (c : Cmd) (ms : Word) (s s1 : State), Runs c 0x50 s s1 ∧ s.rng.state ≠ .failed ∧ keyTask s = false) ∧
  (∃ (c : Cmd) (ms : Word) (s s1 : State), Runs c 0x50 s s1 ∧ s.rng.state = .failed) ∧
  (∃ (p : Pend) (ms : Word) (s : State), awake s = true ∧ s.sec.later = [] ∧ s.pwr.selftest = none ∧ s.pwr.seq = .idle) :=
  ⟨⟨(cm 0), 5, (que (cm 0) 0x50 (rdy)), (tkn (cm 0) 0x50 (que (cm 0) 0x50 (rdy))), ⟨rfl, rfl, rfl⟩, by decide, rfl⟩,
   ⟨(cm 0), 5, (que (cm 0) 0x50 ({ rdy with rng := { rdy.rng with state := .failed } })), (tkn (cm 0) 0x50 (que (cm 0) 0x50 ({ rdy with rng := { rdy.rng with state := .failed } }))), ⟨rfl, rfl, rfl⟩, rfl⟩,
   ⟨(pnd 0x50), 5, rdy, rfl, rfl, rfl, rfl⟩⟩

theorem witness_ManagementSessionsAndReads :
  (∃ (n root : DWord) (s : State), mgmtUp s = true ∧ mgmtOpen s = false ∧ tooSoon s = false ∧ s.fls.operatorRoot = some root) ∧
  (∃ (s : State), mgmtUp s = true ∧ mgmtOpen s = false ∧ tooSoon s = false ∧ s.fls.operatorRoot = none) ∧
  (∃ (root : DWord) (s : State), mgmtUp s = true ∧ mgmtOpen s = false ∧ tooSoon s = false ∧ s.fls.operatorRoot = some root) ∧
  (∃ (who : Client) (s : State), 8 ≤ s.mgmt.fails ∧ s.aon.time.toNat < s.mgmt.lastTry.toNat + 1000000000) ∧
  (∃ (i : Instr) (s : State), ((i = .mgmtSessionIdleTimeout ∧ mgmtIdle s = true) ∨ i = .mgmtSessionClose) ∧ mgmtOpen s = true) ∧
  (∃ (c : Cmd) (s s1 : State), Runs c 0x80 s s1) ∧
  (∃ (c : Cmd) (s s1 : State), Runs c 0x81 s s1 ∧ c.origin = .mgmt) ∧
  (∃ (c : Cmd) (s s1 : State), Runs c 0x89 s s1 ∧ s.rng.state ≠ .failed) :=
  ⟨⟨6, 9, { rdy with fls := { rdy.fls with operatorRoot := some 9 } }, rfl, rfl, rfl, rfl⟩,
   ⟨rdy, rfl, rfl, rfl, rfl⟩,
   ⟨9, { rdy with fls := { rdy.fls with operatorRoot := some 9 } }, rfl, rfl, rfl, rfl⟩,
   ⟨.bad, { rdy with mgmt := { rdy.mgmt with fails := 8 } }, by decide, by decide⟩,
   ⟨.mgmtSessionClose, (ses rdy), .inr rfl, rfl⟩,
   ⟨(mg 1), (ses rdy), (tkn (mg 1) 0x80 (ses rdy)), ⟨rfl, rfl, rfl⟩⟩,
   ⟨(mg 0), (ses rdy), (tkn (mg 0) 0x81 (ses rdy)), ⟨rfl, rfl, rfl⟩, rfl⟩,
   ⟨(mg 0), (ses rdy), (tkn (mg 0) 0x89 (ses rdy)), ⟨rfl, rfl, rfl⟩, by decide⟩⟩

theorem witness_DebugSessionsRevokeKeysFirst :
  (∃ (c : Cmd) (s s1 : State), Runs c 0x82 s s1 ∧ bitsFrom c.a0 3 = false ∧ anyJob s = false) ∧
  (∃ (c : Cmd) (s s1 : State), Runs c 0x83 s s1 ∧ s.mgmt.debugOpen = true) :=
  ⟨⟨(mg 7), (ses rdy), (tkn (mg 7) 0x82 (ses rdy)), ⟨rfl, rfl, rfl⟩, rfl, rfl⟩,
   ⟨(mg 0), ((ses { rdy with mgmt := { rdy.mgmt with debugOpen := true } })), (tkn (mg 0) 0x83 ((ses { rdy with mgmt := { rdy.mgmt with debugOpen := true } }))), ⟨rfl, rfl, rfl⟩, rfl⟩⟩

theorem witness_RegionUpdatesAndUserFilesComplete :
  (∃ (c : Cmd) (f : FwCopy) (bs : List Byte) (s s1 : State), Runs c 0x84 s s1 ∧ fwTask s = false) ∧
  (∃ (c : Cmd) (root : DWord) (bs : List Byte) (s s1 : State), Runs c 0x85 s s1) ∧
  (∃ (c : Cmd) (serial : DWord) (bs : List Byte) (s s1 : State), Runs c 0x86 s s1) ∧
  (∃ (c : Cmd) (claim : BitVec 10) (ports : Word) (bs : List Byte) (s s1 : State), Runs c 0x87 s s1) ∧
  (∃ (g : Nat) (bs : List Byte) (d : FlashDone) (p : Pend) (s : State), regionShut g s = false ∧ blocksFor bs.length ≤ regionBlocks g s) ∧
  (∃ (g : Nat) (bs : List Byte) (d : FlashDone) (p : Pend) (s : State), regionShut g s = true) ∧
  (∃ (c : Cmd) (r : Fin 4) (off len : Nat) (s s1 : State), Runs c 0x88 s s1 ∧ c.origin = .mgmt ∧ off + len ≤ regionBlocks (12 + r.val) s * 65536 ∧ badIn s (regionBase (12 + r.val) * 65536 + off) len = []) ∧
  (∃ (c : Cmd) (r : Fin 4) (off : Nat) (data : List Byte) (s s1 : State), Runs c 0x88 s s1 ∧ regionShut (12 + r.val) s = false ∧ off + data.length ≤ regionBlocks (12 + r.val) s * 65536) ∧
  (∃ (c : Cmd) (r : Fin 4) (off len : Nat) (s s1 : State), Runs c 0x88 s s1 ∧ regionBlocks (12 + r.val) s * 65536 < off + len) :=
  ⟨⟨(mg 0), ⟨4, 2, 64, true⟩, [1], (ses rdy), (tkn (mg 0) 0x84 (ses rdy)), ⟨rfl, rfl, rfl⟩, rfl⟩,
   ⟨(mg 0), 9, [1], (ses rdy), (tkn (mg 0) 0x85 (ses rdy)), ⟨rfl, rfl, rfl⟩⟩,
   ⟨(mg 0), 9, [1], (ses rdy), (tkn (mg 0) 0x86 (ses rdy)), ⟨rfl, rfl, rfl⟩⟩,
   ⟨(mg 0), 3, 1, [1], (ses rdy), (tkn (mg 0) 0x87 (ses rdy)), ⟨rfl, rfl, rfl⟩⟩,
   ⟨12, [1], .user, (pnd 0x88), rdy, rfl, by decide⟩,
   ⟨12, [1], .user, (pnd 0x88), { rdy with fls := { rdy.fls with prot := rdy.fls.prot.set 12 .permanent } }, rfl⟩,
   ⟨(mg 0), 3, 6553536, 64, (ses rdy), (tkn (mg 0) 0x88 (ses rdy)), ⟨rfl, rfl, rfl⟩, rfl, by decide, rfl⟩,
   ⟨(mg 0), 3, 65535, [1, 2], (ses rdy), (tkn (mg 0) 0x88 (ses rdy)), ⟨rfl, rfl, rfl⟩, rfl, by decide⟩,
   ⟨(mg 0), 3, 6553536, 65, (ses rdy), (tkn (mg 0) 0x88 (ses rdy)), ⟨rfl, rfl, rfl⟩, by decide⟩⟩

theorem witness_JobsStartStopAndHold :
  (∃ (c : Cmd) (j : Fin 4) (e : JobEntry) (s s1 s2 : State), Runs c 0x20 s s1 ∧ bitsFrom c.a0 6 = false ∧ bitAt c.a0 4 = false ∧ startRefusal (jobArgOf c) false s1 = none ∧ freeJobSlot s1 = some j ∧ jobEntryOf s1 (jobArgOf c) = some e ∧ placeJob j (jobArgOf c) e none s1 = some s2 ∧ (s2.jobs[j]).any (·.seed.isNone) = false) ∧
  (∃ (c : Cmd) (j : Fin 4) (e : JobEntry) (s s1 s2 : State), Runs c 0x20 s s1 ∧ bitsFrom c.a0 6 = false ∧ bitAt c.a0 4 = false ∧ startRefusal (jobArgOf c) false s1 = none ∧ freeJobSlot s1 = some j ∧ jobEntryOf s1 (jobArgOf c) = some e ∧ placeJob j (jobArgOf c) e none s1 = some s2 ∧ (s2.jobs[j]).any (·.seed.isNone) = true) ∧
  (∃ (c : Cmd) (j : Fin 4) (e : JobEntry) (s s1 s2 : State), Runs c 0x20 s s1 ∧ bitsFrom c.a0 6 = false ∧ bitAt c.a0 4 = false ∧ startRefusal (jobArgOf c) false s1 = none ∧ freeJobSlot s1 = some j ∧ jobEntryOf s1 (jobArgOf c) = some e ∧ meshFabric (meshOf s (jobArgOf c)) = false ∧ placeJob j (jobArgOf c) e none s1 = some s2) ∧
  (∃ (c : Cmd) (st : Byte) (s s1 : State), Runs c 0x20 s s1 ∧ bitsFrom c.a0 6 = false ∧ bitAt c.a0 4 = false ∧ startRefusal (jobArgOf c) false s1 = some st) ∧
  (∃ (i : Nat) (r : Bool) (s : State), (jobEntryOf s i = none ∨ (∃ (j : Fin 4) (x : Job), s.jobs[j] = some x ∧ x.index = i))) ∧
  (∃ (i : Nat) (e : JobEntry) (s : State), jobEntryOf s i = some e ∧ (∀ j : Fin 4, ∃ x, s.jobs[j] = some x ∧ x.index ≠ i)) ∧
  (∃ (c : Cmd) (ps : List Part) (s s1 : State), Runs c 0x20 s s1 ∧ bitsFrom c.a0 6 = false ∧ bitAt c.a0 4 = true ∧ startRefusal (jobArgOf c) true s1 = none) ∧
  (∃ (c : Cmd) (ps : List Part) (j : Fin 4) (e : JobEntry) (s s1 s2 : State), Runs c 0x20 s s1 ∧ bitsFrom c.a0 6 = false ∧ bitAt c.a0 4 = true ∧ bitAt c.a0 5 = false ∧ startRefusal (jobArgOf c) true s1 = none ∧ freeJobSlot s1 = some j ∧ jobEntryOf s1 (jobArgOf c) = some e ∧ placeJob j (jobArgOf c) e (some ⟨some (pendOf c 0x20 s1), ps, none⟩) s1 = some s2 ∧ meshFabric (meshOf s2 (jobArgOf c)) = false) ∧
  (∃ (c : Cmd) (s s1 : State), Runs c 0x21 s s1 ∧ bitsFrom c.a0 2 = false ∧ s.jobs[slotArg c] = none) ∧
  (∃ (c : Cmd) (x : Job) (s s1 : State), Runs c 0x21 s s1 ∧ bitsFrom c.a0 2 = false ∧ s.jobs[slotArg c] = some x ∧ stopsNow x = true) ∧
  (∃ (c : Cmd) (x : Job) (s s1 : State), Runs c 0x21 s s1 ∧ bitsFrom c.a0 2 = false ∧ s.jobs[slotArg c] = some x ∧ stopsNow x = false) ∧
  (∃ (j : Fin 4) (x : Job) (s : State), s.jobs[j] = some x ∧ x.phase = .holding ∧ x.parked = false ∧ x.seed ≠ none ∧ x.restore = none ∧ keysReady s x.index = true ∧ placeReady s x = true ∧ quiescing s = false) :=
  ⟨⟨(cm 0), 0, (ent 0), (que (cm 0) 0x20 (lit 0)), (tkn (cm 0) 0x20 (que (cm 0) 0x20 (lit 0))), (placeJob 0 0 (ent 0) none (tkn (cm 0) 0x20 (que (cm 0) 0x20 (lit 0)))).getD rdy, ⟨rfl, rfl, rfl⟩, rfl, rfl, rfl, rfl, rfl, rfl, rfl⟩,
   ⟨(cm 0), 0, entD, (que (cm 0) 0x20 draws), (tkn (cm 0) 0x20 (que (cm 0) 0x20 draws)), (placeJob 0 0 entD none (tkn (cm 0) 0x20 (que (cm 0) 0x20 draws))).getD rdy, ⟨rfl, rfl, rfl⟩, rfl, rfl, rfl, rfl, rfl, rfl, rfl⟩,
   ⟨(cm 0), 0, (ent 0), (que (cm 0) 0x20 (lit 0)), (tkn (cm 0) 0x20 (que (cm 0) 0x20 (lit 0))), (placeJob 0 0 (ent 0) none (tkn (cm 0) 0x20 (que (cm 0) 0x20 (lit 0)))).getD rdy, ⟨rfl, rfl, rfl⟩, rfl, rfl, rfl, rfl, rfl, rfl, rfl⟩,
   ⟨(cm 5), stRefused, (que (cm 5) 0x20 (lit 0)), (tkn (cm 5) 0x20 (que (cm 5) 0x20 (lit 0))), ⟨rfl, rfl, rfl⟩, rfl, rfl, rfl⟩,
   ⟨5, true, (lit 0), .inl rfl⟩,
   ⟨0, (ent 1), { lit 1 with jobs := vrep 4 (some { jobR with index := 1 }) }, rfl, (fun j => ⟨{ jobR with index := 1 }, by match j with | 0 => rfl | 1 => rfl | 2 => rfl | 3 => rfl, by decide⟩)⟩,
   ⟨(cm 16), [], (que (cm 16) 0x20 (lit 1)), (tkn (cm 16) 0x20 (que (cm 16) 0x20 (lit 1))), ⟨rfl, rfl, rfl⟩, rfl, rfl, rfl⟩,
   ⟨(cm 16), [], 0, (ent 1), (que (cm 16) 0x20 (lit 1)), (tkn (cm 16) 0x20 (que (cm 16) 0x20 (lit 1))), (placeJob 0 0 (ent 1) (some ⟨some (pendOf (cm 16) 0x20 (tkn (cm 16) 0x20 (que (cm 16) 0x20 (lit 1)))), [], none⟩) (tkn (cm 16) 0x20 (que (cm 16) 0x20 (lit 1)))).getD rdy, ⟨rfl, rfl, rfl⟩, rfl, rfl, rfl, rfl, rfl, rfl, rfl, rfl⟩,
   ⟨(cm 3), (que (cm 3) 0x21 (rdy)), (tkn (cm 3) 0x21 (que (cm 3) 0x21 (rdy))), ⟨rfl, rfl, rfl⟩, rfl, rfl⟩,
   ⟨(cm 0), jobL 0, (que (cm 0) 0x21 (withJob (jobL 0) rdy)), (tkn (cm 0) 0x21 (que (cm 0) 0x21 (withJob (jobL 0) rdy))), ⟨rfl, rfl, rfl⟩, rfl, rfl, rfl⟩,
   ⟨(cm 0), jobR, (que (cm 0) 0x21 (withJob jobR (lit 1))), (tkn (cm 0) 0x21 (que (cm 0) 0x21 (withJob jobR (lit 1)))), ⟨rfl, rfl, rfl⟩, rfl, rfl, rfl⟩,
   ⟨0, { jobR with phase := .holding }, (withJob { jobR with phase := .holding } (lit 1)), rfl, rfl, rfl, by decide, rfl, rfl, rfl, rfl⟩⟩

theorem witness_SnapshotsAndReplaysWaitForTheBoundary :
  (∃ (c : Cmd) (x : Job) (s s1 : State), Runs c 0x22 s s1 ∧ bitsFrom c.a0 4 = false ∧ bitAt c.a0 3 = false ∧ s.jobs[slotArg c] = some x ∧ runsTraining x = true ∧ x.snap = none ∧ s.sq.exports[slotArg c] = none ∧ (bitAt c.a0 2 = true → snapLocked s = false) ∧ atBoundary x = false) ∧
  (∃ (c : Cmd) (s s1 : State), Runs c 0x22 s s1 ∧ bitsFrom c.a0 4 = false ∧ (∀ x, s.jobs[slotArg c] = some x → runsTraining x = false)) ∧
  (∃ (c : Cmd) (x : Job) (s s1 : State), Runs c 0x22 s s1 ∧ bitsFrom c.a0 4 = false ∧ s.jobs[slotArg c] = some x ∧ runsTraining x = true ∧ (x.snap ≠ none ∨ s.sq.exports[slotArg c] ≠ none)) ∧
  (∃ (c : Cmd) (x : Job) (s s1 : State), Runs c 0x22 s s1 ∧ bitsFrom c.a0 4 = false ∧ s.jobs[slotArg c] = some x ∧ runsTraining x = true ∧ x.snap = none ∧ s.sq.exports[slotArg c] = none ∧ bitAt c.a0 2 = true ∧ snapLocked s = true) ∧
  (∃ (j : Fin 4) (x : Job) (r : SnapReq) (p : Part) (e : DrawerEcc) (s : State), s.jobs[j] = some x ∧ x.snap = some r ∧ r.staged = some p ∧ r.exporting = false) ∧
  (∃ (j : Fin 4) (r : SnapReq) (p : Part) (s : State), partBytes s p ≤ (if r.flash then snapArea s else r.limit)) ∧
  (∃ (j : Fin 4) (r : SnapReq) (p : Part) (s : State), (if r.flash then snapArea s else r.limit) < partBytes s p) ∧
  (∃ (j : Fin 4) (r : SnapReq) (p : Part) (salt : BitVec 256) (ok done : Bool) (e : DrawerEcc) (s : State), exportOf j s = some r ∧ r.staged = some p ∧ r.salt = some salt ∧ exportOutcome r ok = some done) ∧
  (∃ (j : Fin 4) (r : SnapReq) (p : Part) (salt : BitVec 256) (q : Pend) (s : State), r.flash = false ∧ r.pend = some q) ∧
  (∃ (u : FlashTask) (j : Fin 4) (slot : Bool) (q : DWord) (v : SnapPart) (s : State), u.done = .snapshot j slot q v) ∧
  (∃ (c : Cmd) (x : Job) (q : Record) (s s1 : State), Runs c 0x23 s s1 ∧ bitsFrom c.a0 3 = false ∧ s.jobs[slotArg c] = some x ∧ runsTraining x = true ∧ recordMode s = true ∧ recordFor s x (bitAt c.a0 2) = some q ∧ onFabric s x = false ∧ atBoundary x = false) ∧
  (∃ (c : Cmd) (s s1 : State), Runs c 0x23 s s1 ∧ bitsFrom c.a0 3 = false ∧ (∀ x, s.jobs[slotArg c] = some x → runsTraining x = false ∨ recordMode s = false ∨ recordFor s x (bitAt c.a0 2) = none)) :=
  ⟨⟨(cm 0), jobR, (que (cm 0) 0x22 (withJob (jobR) (lit 1))), (tkn (cm 0) 0x22 (que (cm 0) 0x22 (withJob (jobR) (lit 1)))), ⟨rfl, rfl, rfl⟩, rfl, rfl, rfl, rfl, rfl, rfl, by decide, rfl⟩,
   ⟨(cm 3), (que (cm 3) 0x22 (rdy)), (tkn (cm 3) 0x22 (que (cm 3) 0x22 (rdy))), ⟨rfl, rfl, rfl⟩, rfl, (fun x h => absurd (show none = some x from h) (by simp))⟩,
   ⟨(cm 0), { jobR with snap := some (snp false 0 false) }, (que (cm 0) 0x22 (withJob ({ jobR with snap := some (snp false 0 false) }) (lit 1))), (tkn (cm 0) 0x22 (que (cm 0) 0x22 (withJob ({ jobR with snap := some (snp false 0 false) }) (lit 1)))), ⟨rfl, rfl, rfl⟩, rfl, rfl, rfl, by decide⟩,
   ⟨(cm 4), jobR, (que (cm 4) 0x22 (withJob (jobR) { lit 1 with fls := { (lit 1).fls with prot := rdy.fls.prot.set 8 .passwordLocked } })), (tkn (cm 4) 0x22 (que (cm 4) 0x22 (withJob (jobR) { lit 1 with fls := { (lit 1).fls with prot := rdy.fls.prot.set 8 .passwordLocked } }))), ⟨rfl, rfl, rfl⟩, rfl, rfl, rfl, rfl, rfl, rfl, rfl⟩,
   ⟨0, { jobR with snap := some (snp false 0 false) }, (snp false 0 false), part0, ⟨0, none⟩, (withJob ({ jobR with snap := some (snp false 0 false) }) (lit 1)), rfl, rfl, rfl, rfl⟩,
   ⟨0, (snp false (partBytes rdy part0) false), part0, rdy, Nat.le_refl _⟩,
   ⟨0, (snp false 0 false), part0, rdy, (by show 0 < partBytes _ _; unfold partBytes; dsimp only; omega)⟩,
   ⟨0, (snp false 0 true), part0, 1, true, true, ⟨0, none⟩, (withJob ({ jobR with snap := some (snp false 0 true) }) (lit 1)), rfl, rfl, rfl, rfl⟩,
   ⟨0, (snp false 0 true), part0, 1, (pnd 0x22), (withJob ({ jobR with snap := some (snp false 0 true) }) (lit 1)), rfl, rfl⟩,
   ⟨⟨4, [], .snapshot 0 false 1 ⟨part0, 64, 5⟩, none, 0⟩, 0, false, 1, ⟨part0, 64, 5⟩, rdy, rfl⟩,
   ⟨(cm 0), { jobR with records := [rec1] }, rec1, (que (cm 0) 0x23 (withJob { jobR with records := [rec1] } { lit 1 with img := some { img 1 with record := true } })), (tkn (cm 0) 0x23 (que (cm 0) 0x23 (withJob { jobR with records := [rec1] } { lit 1 with img := some { img 1 with record := true } }))), ⟨rfl, rfl, rfl⟩, rfl, rfl, rfl, rfl, rfl, rfl, rfl⟩,
   ⟨(cm 3), (que (cm 3) 0x23 (rdy)), (tkn (cm 3) 0x23 (que (cm 3) 0x23 (rdy))), ⟨rfl, rfl, rfl⟩, rfl, (fun x h => absurd (show none = some x from h) (by simp))⟩⟩

theorem witness_StepsRequestsAndEntriesStart :
  (∃ (j : Fin 4) (x : Job) (e : JobEntry) (n : Nat) (s : State), s.jobs[j] = some x ∧ jobEntryOf s x.index = some e ∧ serves s x = true ∧ latencyBound s x = true ∧ trigPeriod e = some n ∧ x.trigAt + n ≤ s.aon.time.toNat ∧ x.running = none) ∧
  (∃ (j : Fin 4) (x : Job) (e : JobEntry) (n : Nat) (s : State), s.jobs[j] = some x ∧ jobEntryOf s x.index = some e ∧ serves s x = true ∧ latencyBound s x = true ∧ trigPeriod e = some n ∧ x.trigAt + n ≤ s.aon.time.toNat ∧ x.running ≠ none) ∧
  (∃ (j : Fin 4) (x : Job) (e : JobEntry) (n : Nat) (s : State), s.jobs[j] = some x ∧ jobEntryOf s x.index = some e ∧ trigPeriod e = some n ∧ s.aon.time.toNat < x.trigAt + n) ∧
  (∃ (j : Fin 4) (x : Job) (e : JobEntry) (n : Nat) (s : State), s.jobs[j] = some x ∧ jobEntryOf s x.index = some e ∧ ringDue s x e = some n ∧ serves s x = true ∧ latencyBound s x = true ∧ x.running ≠ none) ∧
  (∃ (j : Fin 4) (x : Job) (t0 : Nat) (rest : List Nat) (s : State), s.jobs[j] = some x ∧ x.waiting = t0 :: rest ∧ serves s x = true ∧ x.running = none) ∧
  (∃ (j : Fin 4) (n : Nat) (x : Job) (s : State), s.jobs[j] = some x ∧ stepDue s x = true ∧ placeReady s x = false) ∧
  (∃ (j : Fin 4) (n : Nat) (x : Job) (s : State), s.jobs[j] = some x ∧ stepDue s x = true ∧ placeReady s x = true) ∧
  (∃ (b : Fin 4) (s : State), s.pwr.state = .run ∧ (seatAll s).bnc[b].state = .stopped ∧ (seatAll s).bnc[b].entry = none) ∧
  (∃ (b : Fin 4) (s : State), s.pwr.state = .run ∧ ((seatAll s).bnc[b].state ≠ .stopped ∨ (seatAll s).bnc[b].entry ≠ none)) ∧
  (∃ (b : Fin 4) (s : State), s.pwr.state ≠ .run) :=
  ⟨⟨0, (jobL 1000), (entL 1000), 1000, { (srv 1000 (jobL 1000)) with aon := { (srv 1000 (jobL 1000)).aon with time := 1000 } }, rfl, rfl, rfl, rfl, rfl, by decide, rfl⟩,
   ⟨0, { jobL 1000 with running := some 5 }, (entL 1000), 1000, { (srv 1000 ({ jobL 1000 with running := some 5 })) with aon := { (srv 1000 ({ jobL 1000 with running := some 5 })).aon with time := 1000 } }, rfl, rfl, rfl, rfl, rfl, by decide, by decide⟩,
   ⟨0, (jobL 1000), (entL 1000), 1000, { (srv 1000 (jobL 1000)) with aon := { (srv 1000 (jobL 1000)).aon with time := 999 } }, rfl, rfl, rfl, by decide⟩,
   ⟨0, { jobL 0x8000000000000100 with running := some 5 }, (entL 0x8000000000000100), 1, (withPort 0 { Port.reset with wrCount := 1 } (srv 0x8000000000000100 { jobL 0x8000000000000100 with running := some 5 })), rfl, rfl, rfl, rfl, rfl, by decide⟩,
   ⟨0, { jobL 1000 with waiting := [5] }, 5, [], (srv 1000 { jobL 1000 with waiting := [5] }), rfl, rfl, rfl, rfl⟩,
   ⟨0, 2, { jobR with phase := .boundary, fabric := true }, (withJob ({ jobR with phase := .boundary, fabric := true }) (lit 1)), rfl, rfl, rfl⟩,
   ⟨0, 2, { jobR with phase := .boundary }, (withJob ({ jobR with phase := .boundary }) (lit 1)), rfl, rfl, rfl⟩,
   ⟨3, rdy, rfl, rfl, rfl⟩,
   ⟨3, { rdy with bnc := (vrep 4 Bench.reset).set 3 { Bench.reset with state := .outOfService } }, rfl, by decide⟩,
   ⟨3, { rdy with pwr := { rdy.pwr with state := .idle } }, by decide⟩⟩

theorem witness_TrainingCommandsTakeEffect :
  (∃ (j : Fin 4) (id : BitVec 16) (n : Nat) (a : PartialAt) (ecc : DrawerEcc) (x : Job) (r : TRun) (w g : Tensor) (s s1 : State), s.jobs[j] = some x ∧ tensAt s j id = some r ∧ tensorOf s id = some w ∧ partOf s w .grad = some g ∧ gradDue s x w r n a = true ∧ ensureHandle j g.id s = some s1 ∧ gSpilled s1 j w = false) ∧
  (∃ (j : Fin 4) (n : Nat) (a : PartialAt) (x : Job) (r : TRun) (w g : Tensor) (s : State), n ≠ r.parts) ∧
  (∃ (j : Fin 4) (id : BitVec 16) (ecc : DrawerEcc) (x : Job) (w : Tensor) (s : State), s.jobs[j] = some x ∧ tensorOf s id = some w ∧ x.glueQ.head? = some id ∧ glueOpen s < glueMax s ∧ gSpilled s j w = false) ∧
  (∃ (j : Fin 4) (id : BitVec 16) (ecc : DrawerEcc) (x : Job) (w : Tensor) (s : State), s.jobs[j] = some x ∧ tensorOf s id = some w ∧ (glueMax s ≤ glueOpen s ∨ gSpilled s j w = true)) ∧
  (∃ (j : Fin 4) (id : BitVec 16) (x : Job) (r : TRun) (w : Tensor) (s : State), s.jobs[j] = some x ∧ tensAt s j id = some r ∧ tensorOf s id = some w ∧ stepOpen x = true ∧ x.train = true ∧ trained w = true ∧ w.job = x.index ∧ r.gtFinal = true ∧ r.fReady = false ∧ tallyFull s x (r.tallyG.map (·.1)) = true) ∧
  (∃ (q : Val) (clip n : Word) (s : State), vIsFin q = false) ∧
  (∃ (q : Val) (clip n : Word) (s : State), vIsFin q = true ∧ vIsZero (ofB32 clip) = false ∧ vLe q (vMul (ofB32 clip) (ofB32 clip)) = true) ∧
  (∃ (j : Fin 4) (id : BitVec 16) (ecc : DrawerEcc) (x : Job) (r : TRun) (w : Tensor) (s : State), s.jobs[j] = some x ∧ tensAt s j id = some r ∧ tensorOf s id = some w) ∧
  (∃ (j : Fin 4) (x : Job) (r : TRun) (w : Tensor) (s : State), r.nonfinite = true) ∧
  (∃ (j : Fin 4) (n : Nat) (x : Job) (s : State), s.jobs[j] = some x ∧ x.readers ≠ [] ∧ readersEnded s x.readers = true) ∧
  (∃ (j : Fin 4) (x : Job) (s : State), s.jobs[j] = some x ∧ readyNow s j x = true ∧ x.saved = none ∧ onFabric s x = false) ∧
  (∃ (j : Fin 4) (x : Job) (r : Record) (s : State), s.jobs[j] = some x ∧ readyNow s j x = true ∧ x.saved = some r) ∧
  (∃ (j : Fin 4) (x : Job) (s : State), s.jobs[j] = some x ∧ readyNow s j x = true ∧ x.saved = none ∧ onFabric s x = true ∧ isCoord s = false) :=
  ⟨⟨0, 5, 0, ⟨false, 0, 0⟩, ⟨0, none⟩, jobR, (TRun.fresh (ten 5 .veneerW 2)), (ten 5 .veneerW 2), (ten 6 .grad 2), (withJob (jobR) (lit 1)), (ensureHandle 0 6 (withJob (jobR) (lit 1))).getD rdy, rfl, rfl, rfl, rfl, rfl, rfl, rfl⟩,
   ⟨0, 1, ⟨false, 0, 0⟩, jobR, (TRun.fresh (ten 5 .veneerW 2)), (ten 5 .veneerW 2), (ten 6 .grad 2), (withJob (jobR) (lit 1)), by decide⟩,
   ⟨0, 5, ⟨0, none⟩, { jobR with glueQ := [5] }, (ten 5 .veneerW 2), (withJob ({ jobR with glueQ := [5] }) (lit 1)), rfl, rfl, rfl, by decide, rfl⟩,
   ⟨0, 5, ⟨0, none⟩, { jobR with glueQ := [5], glueIn := List.replicate 8 6 }, (ten 5 .veneerW 2), (withJob ({ jobR with glueQ := [5], glueIn := List.replicate 8 6 }) (lit 1)), rfl, rfl, .inl (by decide)⟩,
   ⟨0, 5, { jobR with tens := [{ TRun.fresh (ten 5 .veneerW 2) with gtFinal := true, tallyG := [(0, .fin false 1 0)] }] }, { TRun.fresh (ten 5 .veneerW 2) with gtFinal := true, tallyG := [(0, .fin false 1 0)] }, (ten 5 .veneerW 2), (withJob ({ jobR with tens := [{ TRun.fresh (ten 5 .veneerW 2) with gtFinal := true, tallyG := [(0, .fin false 1 0)] }] }) (lit 1)), rfl, rfl, rfl, rfl, rfl, rfl, rfl, rfl, rfl, rfl⟩,
   ⟨.nan, b32One, b32One, rdy, rfl⟩,
   ⟨(.fin false 1 0), b32One, b32One, rdy, rfl, rfl, rfl⟩,
   ⟨0, 5, ⟨0, none⟩, jobR, (TRun.fresh (ten 5 .veneerW 2)), (ten 5 .veneerW 2), (withJob (jobR) (lit 1)), rfl, rfl, rfl⟩,
   ⟨0, jobR, { TRun.fresh (ten 5 .veneerW 2) with nonfinite := true }, (ten 5 .veneerW 2), (withJob (jobR) (lit 1)), rfl⟩,
   ⟨0, 5, { jobR with readers := [(1, 0)] }, (withJob ({ jobR with readers := [(1, 0)] }) (lit 1)), rfl, by decide, rfl⟩,
   ⟨0, jobD, (withJob jobD bare), rfl, rfl, rfl, rfl⟩,
   ⟨0, { jobD with saved := some rec1 }, rec1, (withJob { jobD with saved := some rec1 } bare), rfl, rfl, rfl⟩,
   ⟨0, { jobD with fabric := true }, (withJob { jobD with fabric := true } { bare with ws := { bare.ws with state := .member } }), rfl, rfl, rfl, rfl, rfl⟩⟩

theorem witness_BenchPassesLoadStreamAndWrite :
  (∃ (b : Fin 4) (e : EntryRun) (d : Desc8) (s : State), passAt b s.bnc[b].pc s = some (e, d) ∧ s.bnc[b].begun = false ∧ keptHere s.bnc[b] e d = false ∧ s.bnc[b].ld = s.bnc[b].pc + 1) ∧
  (∃ (b : Fin 4) (e : EntryRun) (d : Desc8) (s : State), passAt b s.bnc[b].pc s = some (e, d) ∧ s.bnc[b].begun = false ∧ keptHere s.bnc[b] e d = true) ∧
  (∃ (b : Fin 4) (cy : BenchCycles) (ecc : Ecc) (e : EntryRun) (d : Desc8) (s : State), passAt b s.bnc[b].ld s = some (e, d) ∧ loadDue s.bnc[b] e d = true ∧ passInStore d ((inlayOf s e s.bnc[b].ld d).map (·.2)) (tensorWidth s (pOutTensor d)) = true ∧ slotFull (benchHome b s) (pWSlot d) s = false) ∧
  (∃ (b : Fin 4) (cy : BenchCycles) (ecc : Ecc) (e : EntryRun) (d : Desc8) (s : State), passAt b s.bnc[b].ld s = some (e, d) ∧ loadDue s.bnc[b] e d = true ∧ pInlay d = false ∧ passInStore d none (tensorWidth s (pOutTensor d)) = true ∧ slotFull (benchHome b s) (pWSlot d) s = true ∧ ecc.uncorr = none) ∧
  (∃ (b : Fin 4) (cy : BenchCycles) (ecc : Ecc) (e : EntryRun) (d : Desc8) (s : State), passAt b s.bnc[b].pc s = some (e, d) ∧ s.bnc[b].begun = true ∧ s.bnc[b].read = false ∧ passInStore d ((inlayOf s e s.bnc[b].pc d).map (·.2)) (tensorWidth s (pOutTensor d)) = true ∧ slotFull (benchHome b s) (pASlot d) s = true ∧ ecc.uncorr = none ∧ pLast d = true) ∧
  (∃ (b : Fin 4) (cy : BenchCycles) (e : EntryRun) (d : Desc8) (s : State), passAt b s.bnc[b].pc s = some (e, d) ∧ s.bnc[b].read = true ∧ pLast d = true ∧ passInStore d ((inlayOf s e s.bnc[b].pc d).map (·.2)) (tensorWidth s (pOutTensor d)) = true ∧ slotEmpty (benchHome b s) (pDoneSlot d) s = false) ∧
  (∃ (b : Fin 4) (cy : BenchCycles) (e : EntryRun) (d : Desc8) (s s1 : State), passAt b s.bnc[b].pc s = some (e, d) ∧ s.bnc[b].read = true ∧ pLast d = true ∧ passInStore d ((inlayOf s e s.bnc[b].pc d).map (·.2)) (tensorWidth s (pOutTensor d)) = true ∧ slotEmpty (benchHome b s) (pDoneSlot d) s = true ∧ s1 = writeOutputs e.job b d (releaseKept b d (benchCycles b cy (benchGo b 3 s)))) ∧
  (∃ (b : Fin 4) (d : Desc8) (s : State), s.bnc[b].relDue = true) ∧
  (∃ (b : Fin 4) (d : Desc8) (s : State), s.bnc[b].relDue = false) ∧
  (∃ (b : Fin 4) (cy : BenchCycles) (ecc : Ecc) (e : EntryRun) (d : Desc8) (s : State), passAt b s.bnc[b].pc s = some (e, d) ∧ s.bnc[b].begun = true ∧ s.bnc[b].read = false ∧ passInStore d ((inlayOf s e s.bnc[b].pc d).map (·.2)) (tensorWidth s (pOutTensor d)) = false) ∧
  (∃ (b : Fin 4) (cy : BenchCycles) (e : EntryRun) (d : Desc8) (s : State), passAt b s.bnc[b].pc s = some (e, d) ∧ s.bnc[b].read = true ∧ pLast d = true ∧ passInStore d ((inlayOf s e s.bnc[b].pc d).map (·.2)) (tensorWidth s (pOutTensor d)) = false) ∧
  (∃ (b : Fin 4) (cy : BenchCycles) (ecc : Ecc) (e : EntryRun) (d : Desc8) (s : State), passAt b s.bnc[b].ld s = some (e, d) ∧ loadDue s.bnc[b] e d = true ∧ passInStore d ((inlayOf s e s.bnc[b].ld d).map (·.2)) (tensorWidth s (pOutTensor d)) = false) :=
  ⟨⟨3, ent0, (dsc 255 255 255 0), (atPass (dsc 255 255 255 0) { Bench.reset with ld := 1 }), rfl, rfl, rfl, rfl⟩,
   ⟨3, ent0, { dsc 255 255 255 0 with w0 := (dsc 255 255 255 0).w0 ||| 0x800 }, (atPass ({ dsc 255 255 255 0 with w0 := (dsc 255 255 255 0).w0 ||| 0x800 }) { Bench.reset with held := some (0, 0) }), rfl, rfl, rfl⟩,
   ⟨3, ⟨5, 4, 3, 2, 1⟩, ⟨0, none⟩, ent0, (dsc 5 255 255 0), (atPass (dsc 5 255 255 0) Bench.reset), rfl, rfl, rfl, rfl⟩,
   ⟨3, ⟨5, 4, 3, 2, 1⟩, ⟨0, none⟩, ent0, (dsc 5 255 255 0), (atPass (dsc 5 255 255 0) { Bench.reset with slots := 0x20 }), rfl, rfl, rfl, rfl, rfl, rfl⟩,
   ⟨3, ⟨5, 4, 3, 2, 1⟩, ⟨0, none⟩, ent0, (dsc 255 255 255 0), (atPass (dsc 255 255 255 0) { Bench.reset with begun := true }), rfl, rfl, rfl, rfl, rfl, rfl, rfl⟩,
   ⟨3, ⟨5, 4, 3, 2, 1⟩, ent0, (dsc 255 255 5 0), (atPass (dsc 255 255 5 0) { Bench.reset with begun := true, read := true, slots := 0x20 }), rfl, rfl, rfl, rfl, rfl⟩,
   ⟨3, ⟨5, 4, 3, 2, 1⟩, ent0, (dsc 255 255 5 0), (atPass (dsc 255 255 5 0) { Bench.reset with begun := true, read := true }), (writeOutputs 0 3 (dsc 255 255 5 0) (releaseKept 3 (dsc 255 255 5 0) (benchCycles 3 ⟨5, 4, 3, 2, 1⟩ (benchGo 3 3 (atPass (dsc 255 255 5 0) { Bench.reset with begun := true, read := true }))))), rfl, rfl, rfl, rfl, rfl, rfl⟩,
   ⟨3, (dsc 255 255 5 0), (atPass (dsc 255 255 5 0) { Bench.reset with relDue := true }), rfl⟩,
   ⟨3, (dsc 255 255 5 0), rdy, rfl⟩,
   ⟨3, ⟨5, 4, 3, 2, 1⟩, ⟨0, none⟩, ent0, (dsc 255 255 255 0xFFFFFF), (atPass (dsc 255 255 255 0xFFFFFF) { Bench.reset with begun := true }), rfl, rfl, rfl, rfl⟩,
   ⟨3, ⟨5, 4, 3, 2, 1⟩, ent0, (dsc 255 255 255 0xFFFFFF), (atPass (dsc 255 255 255 0xFFFFFF) { Bench.reset with begun := true, read := true }), rfl, rfl, rfl, rfl⟩,
   ⟨3, ⟨5, 4, 3, 2, 1⟩, ⟨0, none⟩, ent0, (dsc 255 255 255 0xFFFFFF), (atPass (dsc 255 255 255 0xFFFFFF) { Bench.reset with ld := 0 }), rfl, rfl, rfl⟩⟩

theorem witness_UnitFaultsSelftestsAndConfiguration :
  (∃ (b : Fin 4) (s : State), s.bnc[b].state = .waiting ∧ s.jobs[s.bnc[b].job] = none) ∧
  (∃ (b : Fin 4) (x : Job) (s : State), s.bnc[b].state = .waiting ∧ s.jobs[s.bnc[b].job] = some x) ∧
  (∃ (p : Fin 16) (s : State), s.pln[p].state = .waiting ∧ s.pln[p].waitKind = 1 ∧ s.jobs[s.pln[p].job] = none) ∧
  (∃ (b : Fin 4) (s : State), s.bnc[b].state = .selftest) ∧
  (∃ (b : Fin 4) (s : State), s.bnc[b].state = .selftest ∧ s.pwr.selftest = none ∧ anyJob s = false) ∧
  (∃ (p : Fin 16) (s : State), s.pln[p].state = .selftest) ∧
  (∃ (p : Fin 16) (s : State), s.pln[p].state = .selftest ∧ s.pwr.selftest = none) ∧
  (∃ (l : Fin 4) (s : State), s.lth[l].state = .selftest) ∧
  (∃ (l : Fin 4) (s : State), s.lth[l].state = .selftest ∧ s.pwr.selftest = none) ∧
  (∃ (b : Fin 4) (p : Fin 16) (v : Word) (s : State), running s = true ∧ anyJob s = false) ∧
  (∃ (b : Fin 4) (p : Fin 16) (v : Word) (s : State), running s = true ∧ anyJob s = true) :=
  ⟨⟨3, { rdy with bnc := (vrep 4 Bench.reset).set 3 { Bench.reset with state := .waiting } }, rfl, rfl⟩,
   ⟨3, jobR, { withJob jobR (lit 1) with bnc := (vrep 4 Bench.reset).set 3 { Bench.reset with state := .waiting } }, rfl, rfl⟩,
   ⟨15, { rdy with pln := (vrep 16 Plane.reset).set 15 { Plane.reset with state := .waiting, waitKind := 1 } }, rfl, rfl, rfl⟩,
   ⟨3, { rdy with bnc := (vrep 4 Bench.reset).set 3 { Bench.reset with state := .selftest } }, rfl⟩,
   ⟨3, { rdy with bnc := (vrep 4 Bench.reset).set 3 { Bench.reset with state := .selftest } }, rfl, rfl, rfl⟩,
   ⟨15, { rdy with pln := (vrep 16 Plane.reset).set 15 { Plane.reset with state := .selftest } }, rfl⟩,
   ⟨15, { rdy with pln := (vrep 16 Plane.reset).set 15 { Plane.reset with state := .selftest } }, rfl, rfl⟩,
   ⟨3, { rdy with lth := (vrep 4 Lathe.reset).set 3 { Lathe.reset with state := .selftest } }, rfl⟩,
   ⟨3, { rdy with lth := (vrep 4 Lathe.reset).set 3 { Lathe.reset with state := .selftest } }, rfl, rfl⟩,
   ⟨3, 15, 0x1F, rdy, rfl, rfl⟩,
   ⟨3, 15, 0x1F, (withJob jobR rdy), rfl, rfl⟩⟩

theorem witness_PlaneInstructionsHaveTheirEffect :
  (∃ (p : Fin 16) (i : PArith) (s : State), issues p (.arith i) s = true) ∧
  (∃ (p : Fin 16) (i : PCmp) (s : State), issues p (.cmp i) s = true) ∧
  (∃ (p : Fin 16) (i : PConv) (s : State), issues p (.conv i) s = true) ∧
  (∃ (p : Fin 16) (i : PScalar) (s : State), issues p (.scalar i) s = true) ∧
  (∃ (p : Fin 16) (i : PReduce) (s : State), issues p (.reduce i) s = true) ∧
  (∃ (p : Fin 16) (f : VFmt) (a : BitVec 3) (d : BitVec 8) (s : State), issues p (.accRead (.toReg f a d)) s = true) ∧
  (∃ (p a b : Fin 16) (i : PNorm) (s : State), issues p (.normCombine i) s = true) ∧
  (∃ (p : Fin 16) (i : PArith) (s : State), issues p (.arith i) s = false) ∧
  (∃ (f : VFmt) (dst : BitVec 8) (m : Option (BitVec 3)) (g : Nat → Nat) (x y : Plane), y = mapElems f dst (activeElems x f m) g x) ∧
  (∃ (p : Fin 16) (i : PMask) (s : State), issues p (.mask i) s = true) ∧
  (∃ (p : Fin 16) (x : Job) (s : State), s.jobs[s.pln[p].job] = some x) ∧
  (∃ (a b : Word), b.toNat < 32) :=
  ⟨⟨15, ⟨.fma, .b32, 1, 2, 3, 4, some 1⟩, (atPlane .running (.arith ⟨.fma, .b32, 1, 2, 3, 4, some 1⟩)), rfl⟩,
   ⟨15, (.cmp .b32 .lt 3 1 2 none), (atPlane .running (.cmp (.cmp .b32 .lt 3 1 2 none))), rfl⟩,
   ⟨15, (.narrow 1 2 true none), (atPlane .running (.conv (.narrow 1 2 true none))), rfl⟩,
   ⟨15, (.loop 3 0), (atPlane .running (.scalar (.loop 3 0))), rfl⟩,
   ⟨15, ⟨.b32, 2, .dot, true, true, 1, 2, some 1⟩, (atPlane .running (.reduce ⟨.b32, 2, .dot, true, true, 1, 2, some 1⟩)), rfl⟩,
   ⟨15, .b32, 2, 1, (atPlane .running (.accRead (.toReg .b32 2 1))), rfl⟩,
   ⟨15, 3, 4, .feature, (atPlane .running (.normCombine .feature)), rfl⟩,
   ⟨15, ⟨.fma, .b32, 1, 2, 3, 4, some 1⟩, (atPlane .running (.cmp (.cmp .b32 .lt 3 1 2 none))), rfl⟩,
   ⟨.b32, 1, none, id, Plane.reset, (mapElems .b32 1 (activeElems Plane.reset .b32 none) id Plane.reset), rfl⟩,
   ⟨15, ⟨0x8000, 5, 0, 16, 1⟩, (atPlane .running (.mask ⟨0x8000, 5, 0, 16, 1⟩)), rfl⟩,
   ⟨15, jobR, (atPlane .running (.mask ⟨0x8000, 5, 0, 16, 1⟩)), rfl⟩,
   ⟨5, 31, by decide⟩⟩

theorem witness_PlaneAccessesAreChecked :
  (∃ (p : Fin 16) (i : PMem) (ecc : Ecc) (s : State), issues p (.load i) s = true ∧ ecc.uncorr = none ∧ firstOut s i.ref ((lineElems s.pln[p] i.fmt i.mask i.ref).map (·.2)) = none) ∧
  (∃ (p : Fin 16) (i : PMem) (s : State), issues p (.store i) s = true ∧ storeHeld p i.ref s = false ∧ firstOut s i.ref ((lineElems s.pln[p] i.fmt i.mask i.ref).map (·.2)) = none) ∧
  (∃ (p : Fin 16) (i : PMem) (s : State), storeHeld p i.ref s = true) ∧
  (∃ (p : Fin 16) (i : PIndexed) (ecc : Ecc) (s : State), issues p (.gather i) s = true ∧ ecc.uncorr = none ∧ firstOut s i.ref ((idxElems s.pln[p] i).map (·.2)) = none) ∧
  (∃ (p : Fin 16) (i : PIndexed) (s : State), issues p (.scatter i) s = true ∧ storeHeld p i.ref s = false ∧ firstOut s i.ref ((idxElems s.pln[p] i).map (·.2)) = none) ∧
  (∃ (p : Fin 16) (i : PIndexed) (ecc : Ecc) (s : State), issues p (.scatterAdd i) s = true ∧ storeHeld p i.ref s = false ∧ ecc.uncorr = none ∧ firstOut s i.ref ((idxElems s.pln[p] i).map (·.2)) = none) ∧
  (∃ (p : Fin 16) (a : BitVec 3) (r : TensorRef) (n : Nat) (s : State), issues p (.accRead (.toTensor a r n)) s = true ∧ storeHeld p r s = false ∧ firstOut s r ((List.range (min n 64)).map (lineIdx r)) = none) ∧
  (∃ (p : Fin 16) (i : PStats) (ecc : Ecc) (st : NormStat) (s s1 : State), issues p (.normStats i) s = true ∧ ecc.uncorr = none ∧ firstOut s i.src ((List.range i.n).map (lineIdx i.src)) = none ∧ s1 = (storeEcc s.pln[p].job ecc (portCycles p s)).2 ∧ st = normStatsOf (((List.range i.n).map (lineIdx i.src)).map fun k => storedVal (homeOf p s1) i.src k s1)) ∧
  (∃ (p : Fin 16) (i : PSoftmax) (ecc : Ecc) (s : State), issues p (.softmax i) s = true ∧ storeHeld p i.out s = false ∧ ecc.uncorr = none ∧ rowBounds i s = none) ∧
  (∃ (p : Fin 16) (i : PSoftmax) (ecc : Ecc) (r : TensorRef) (k : Nat) (s : State), issues p (.softmax i) s = true ∧ storeHeld p i.out s = false ∧ rowBounds i s = some (r, k)) ∧
  (∃ (p : Fin 16) (i : PMem) (ecc : Ecc) (k : Nat) (s : State), issues p (.load i) s = true ∧ firstOut s i.ref ((lineElems s.pln[p] i.fmt i.mask i.ref).map (·.2)) = some k) ∧
  (∃ (p : Fin 16) (i : PMem) (k : Nat) (s : State), issues p (.store i) s = true ∧ storeHeld p i.ref s = false ∧ firstOut s i.ref ((lineElems s.pln[p] i.fmt i.mask i.ref).map (·.2)) = some k) ∧
  (∃ (p : Fin 16) (i : PIndexed) (ecc : Ecc) (k : Nat) (s : State), storeHeld p i.ref s = false ∧ firstOut s i.ref ((idxElems s.pln[p] i).map (·.2)) = some k) ∧
  (∃ (p : Fin 16) (r : TensorRef) (i : Nat) (s : State), s.jobs[s.pln[p].job] = none) :=
  ⟨⟨15, ⟨.b32, 1, ref5, some 1⟩, ⟨1, none⟩, (atPlane .running (.load ⟨.b32, 1, ref5, some 1⟩)), rfl, rfl, rfl⟩,
   ⟨15, ⟨.b32, 1, ref5, some 1⟩, (atPlane .running (.store ⟨.b32, 1, ref5, some 1⟩)), rfl, rfl, rfl⟩,
   ⟨15, ⟨.b32, 1, ref5, some 1⟩, ownStore, rfl⟩,
   ⟨15, ⟨.b32, 1, 2, ref5, some 1⟩, ⟨1, none⟩, (atPlane .running (.gather ⟨.b32, 1, 2, ref5, some 1⟩)), rfl, rfl, rfl⟩,
   ⟨15, ⟨.b32, 1, 2, ref5, some 1⟩, (atPlane .running (.scatter ⟨.b32, 1, 2, ref5, some 1⟩)), rfl, rfl, rfl⟩,
   ⟨15, ⟨.b32, 1, 2, ref5, some 1⟩, ⟨1, none⟩, (atPlane .running (.scatterAdd ⟨.b32, 1, 2, ref5, some 1⟩)), rfl, rfl, rfl, rfl⟩,
   ⟨15, 3, ref5, 4, (atPlane .running (.accRead (.toTensor 3 ref5 4))), rfl, rfl, rfl⟩,
   ⟨15, ⟨ref5, 4⟩, ⟨1, none⟩, (normStatsOf (((List.range 4).map (lineIdx ref5)).map fun k => storedVal (homeOf 15 ((storeEcc ((atPlane .running (.normStats ⟨ref5, 4⟩))).pln[(15 : Fin 16)].job ⟨1, none⟩ (portCycles 15 (atPlane .running (.normStats ⟨ref5, 4⟩)))).2)) ref5 k ((storeEcc ((atPlane .running (.normStats ⟨ref5, 4⟩))).pln[(15 : Fin 16)].job ⟨1, none⟩ (portCycles 15 (atPlane .running (.normStats ⟨ref5, 4⟩)))).2))), (atPlane .running (.normStats ⟨ref5, 4⟩)), ((storeEcc ((atPlane .running (.normStats ⟨ref5, 4⟩))).pln[(15 : Fin 16)].job ⟨1, none⟩ (portCycles 15 (atPlane .running (.normStats ⟨ref5, 4⟩)))).2), rfl, rfl, rfl, rfl, rfl⟩,
   ⟨15, ⟨.b32, ref5, [true, false, true], ref5, none⟩, ⟨0, none⟩, (atPlane .running (.softmax ⟨.b32, ref5, [true, false, true], ref5, none⟩)), rfl, rfl, rfl, rfl⟩,
   ⟨15, ⟨.b32, ref5, [true, false, true, true, true], ref5, none⟩, ⟨0, none⟩, ref5, 4, (atPlane .running (.softmax ⟨.b32, ref5, [true, false, true, true, true], ref5, none⟩)), rfl, rfl, rfl⟩,
   ⟨15, ⟨.b32, 1, ref5, none⟩, ⟨1, none⟩, 4, (atPlane .running (.load ⟨.b32, 1, ref5, none⟩)), rfl, rfl⟩,
   ⟨15, ⟨.b32, 1, ref5, none⟩, 4, (atPlane .running (.store ⟨.b32, 1, ref5, none⟩)), rfl, rfl, rfl⟩,
   ⟨15, ⟨.b32, 1, 2, { ref5 with tensor := 99 }, some 1⟩, ⟨1, none⟩, 0, (atPlane .running (.gather ⟨.b32, 1, 2, { ref5 with tensor := 99 }, some 1⟩)), rfl, rfl⟩,
   ⟨15, ref5, 4, rdy, rfl⟩⟩

theorem witness_PlanesWaitSignalAndUseTheLathe :
  (∃ (p : Fin 16) (n : BitVec 8) (s : State), coreOn s = true ∧ opAt p s = some (.wait n) ∧ s.pln[p].state = .running ∧ slotFull (homeOf p s) n.toNat s = false) ∧
  (∃ (p : Fin 16) (n : BitVec 8) (s : State), coreOn s = true ∧ opAt p s = some (.wait n) ∧ s.pln[p].state = .running ∧ slotFull (homeOf p s) n.toNat s = true) ∧
  (∃ (p : Fin 16) (i : PSlot) (s : State), issues p (.signal i) s = true) ∧
  (∃ (p : Fin 16) (i : PLathe) (s : State), issues p (.lathe i) s = true ∧ latheOperands s.pln[p] i ≠ []) ∧
  (∃ (p : Fin 16) (i : PLathe) (s : State), issues p (.lathe i) s = true ∧ latheOperands s.pln[p] i = []) ∧
  (∃ (n : Fin 4) (s : State), awake s = true ∧ coreOn s = true ∧ s.lth[n].state = .running ∧ (∀ (k : Fin 4) (r : LatheReq), s.lth[n].req[k] = some r → 4 * latheShare s.lth[n] k < r.left.length)) ∧
  (∃ (n : Fin 4) (s : State), coreOn s = true ∧ s.lth[n].state = .running) ∧
  (∃ (l : Lathe), latheOrder l ≠ []) :=
  ⟨⟨15, 5, (atPlane .running (.wait 5)), rfl, rfl, rfl, rfl⟩,
   ⟨15, 255, (atPlane .running (.wait 255)), rfl, rfl, rfl, rfl⟩,
   ⟨15, ⟨5, true⟩, (atPlane .running (.signal ⟨5, true⟩)), rfl⟩,
   ⟨15, ⟨.exp, .b32, 1, 2, 3, none⟩, (atPlane .running (.lathe ⟨.exp, .b32, 1, 2, 3, none⟩)), rfl, by decide⟩,
   ⟨15, ⟨.exp, .b32, 1, 2, 3, some 1⟩, { (atPlane .running (.lathe ⟨.exp, .b32, 1, 2, 3, some 1⟩)) with pln := (vrep 16 Plane.reset).set 15 { Plane.reset with state := .running, prog := some 0 } }, rfl, rfl⟩,
   ⟨3, atLathe, rfl, rfl, rfl, (fun k r h => by have e : some req5 = some r := by { match k with | 0 => exact h | 1 => exact h | 2 => exact h | 3 => exact h }; cases e; clear h; revert k; decide)⟩,
   ⟨3, atLathe, rfl, rfl⟩,
   ⟨{ Lathe.reset with req := (vrep 4 (some req5)).set 2 none }, by decide⟩⟩

set_option maxRecDepth 4000 in
theorem witness_MessagesAreCheckedAndForwarded :
  (∃ (l : Fin 8) (h : MsgHdr) (p : Payload) (s : State), (carries s.links[l] = false ∨ s.pwr.coreDown = true ∨ running s = false)) ∧
  (∃ (l : Fin 8) (h : MsgHdr) (p : Payload) (s : State), carries s.links[l] = true ∧ s.pwr.coreDown = false ∧ running s = true ∧ msgFits h = false) ∧
  (∃ (l : Fin 8) (h : MsgHdr) (p : Payload) (s : State), carries s.links[l] = true ∧ s.pwr.coreDown = false ∧ running s = true ∧ msgFits h = true ∧ msgOk s h = false) ∧
  (∃ (l : Fin 8) (h : MsgHdr) (p : Payload) (s : State), carries s.links[l] = true ∧ s.pwr.coreDown = false ∧ running s = true ∧ msgFits h = true ∧ msgOk s h = true ∧ forMe s h = false ∧ h.hops.toNat < 15) ∧
  (∃ (l : Fin 8) (h : MsgHdr) (p : Payload) (s : State), carries s.links[l] = true ∧ s.pwr.coreDown = false ∧ running s = true ∧ msgFits h = true ∧ msgOk s h = true ∧ forMe s h = false ∧ h.hops.toNat = 15) ∧
  (∃ (l : Fin 8) (h : MsgHdr) (p : Payload) (s : State), Arrives l h s) ∧
  (∃ (l : Fin 8) (h : MsgHdr) (s : State), awake s = true) :=
  ⟨⟨0, (hdr 0xFFFF 1 0 0), .empty, rdy, .inl rfl⟩,
   ⟨7, { hdr 0xFFFF 1 0 0 with length := 65537 }, .empty, (linked rdy), rfl, rfl, rfl, rfl⟩,
   ⟨7, (hdr 0xFFFF 0xFF 0 0), .empty, (linked rdy), rfl, rfl, rfl, rfl, rfl⟩,
   ⟨7, (hdr 5 1 0 14), .empty, (linked rdy), rfl, rfl, rfl, rfl, rfl, rfl, by decide⟩,
   ⟨7, (hdr 5 1 0 15), .empty, (linked rdy), rfl, rfl, rfl, rfl, rfl, rfl, rfl⟩,
   ⟨7, (hdr 0xFFFF 1 0 0), .empty, (linked rdy), ⟨rfl, rfl, rfl, rfl, rfl, rfl⟩⟩,
   ⟨7, (hdr 5 1 0 15), (linked rdy), rfl⟩⟩

set_option maxRecDepth 4000 in
theorem witness_JobMessagesReachTheirJob :
  (∃ (l : Fin 8) (h : MsgHdr) (i n : Nat) (s : State), Arrives l h s) ∧
  (∃ (l : Fin 8) (h : MsgHdr) (q c : Bool) (i n : Nat) (s : State), Arrives l h s) ∧
  (∃ (l : Fin 8) (h : MsgHdr) (i : Nat) (n : Option Nat) (s : State), Arrives l h s) ∧
  (∃ (l : Fin 8) (h : MsgHdr) (i : Nat) (o : ReplayOutcome) (m : RestoreMsg) (s : State), Arrives l h s) ∧
  (∃ (q i n : Nat) (s : State), isCoord s = false) ∧
  (∃ (q i n : Nat) (s : State), isCoord s = true ∧ (jobRanks s i).contains q = true) ∧
  (∃ (i n : Nat) (j : Fin 4) (x : Job) (s : State), slotOfIndex s i = some j ∧ s.jobs[j] = some x ∧ x.phase = .ready ∧ x.step = n) ∧
  (∃ (i n : Nat) (j : Fin 4) (x : Job) (s : State), slotOfIndex s i = some j ∧ s.jobs[j] = some x ∧ (x.phase ≠ .ready ∨ x.step ≠ n)) ∧
  (∃ (q : BitVec 16) (i n : Nat) (s : State), isCoord s = false) ∧
  (∃ (i n : Nat) (j : Fin 4) (x : Job) (s : State), slotOfIndex s i = some j ∧ s.jobs[j] = some x ∧ (x.step ≠ n ∨ stepOpen x = false)) ∧
  (∃ (i n : Nat) (j : Fin 4) (x : Job) (s : State), isCoord s = true ∧ runsHere s i = true ∧ slotOfIndex s i = some j ∧ s.jobs[j] = some x ∧ n < x.step) ∧
  (∃ (a b : ReplayOutcome), a.aborted = true) ∧
  (∃ (a b : ReplayOutcome), a.aborted = false ∧ a.matched = false ∧ b.aborted = false ∧ b.matched = false ∧ a.tensor.toNat < b.tensor.toNat) :=
  ⟨⟨7, (hdr 0xFFFF 5 0 0), 0, 0, (linked rdy), ⟨rfl, rfl, rfl, rfl, rfl, rfl⟩⟩,
   ⟨7, (hdr 0xFFFF 15 0 0), true, false, 0, 0, (linked rdy), ⟨rfl, rfl, rfl, rfl, rfl, rfl⟩⟩,
   ⟨7, (hdr 0xFFFF 0x10 0 0), 0, none, (linked rdy), ⟨rfl, rfl, rfl, rfl, rfl, rfl⟩⟩,
   ⟨7, (hdr 0xFFFF 0x15 0 0), 0, ⟨true, false, 0, 0, false⟩, (.offer []), (linked rdy), ⟨rfl, rfl, rfl, rfl, rfl, rfl⟩⟩,
   ⟨1, 0, 0, rdy, rfl⟩,
   ⟨1, 0, 0, (shop 0 (lit 1)), rfl, rfl⟩,
   ⟨0, 0, 0, { jobR with phase := .ready }, (withJob ({ jobR with phase := .ready }) (lit 1)), rfl, rfl, rfl, rfl⟩,
   ⟨0, 1, 0, { jobR with phase := .ready }, (withJob ({ jobR with phase := .ready }) (lit 1)), rfl, rfl, by decide⟩,
   ⟨1, 0, 0, rdy, rfl⟩,
   ⟨0, 1, 0, jobR, (withJob (jobR) (lit 1)), rfl, rfl, by decide⟩,
   ⟨0, 0, 0, { jobR with step := 1 }, (shop 0 (withJob { jobR with step := 1 } fab)), rfl, rfl, rfl, rfl, by decide⟩,
   ⟨⟨true, false, 0, 0, false⟩, ⟨false, false, 0, 0, false⟩, rfl⟩,
   ⟨⟨false, false, 1, 0, false⟩, ⟨false, false, 2, 0, false⟩, rfl, rfl, rfl, rfl, by decide⟩⟩

set_option maxRecDepth 4000 in
theorem witness_TimersAndBeatsKeepTheMembersLive :
  (∃ (l : Fin 8) (h : MsgHdr) (s : State), Arrives l h s) ∧
  (∃ (s : State), fwRuns s = true ∧ isMember s = true ∧ isCoord s = false) ∧
  (∃ (s : State), fwRuns s = true ∧ isCoord s = true) ∧
  (∃ (s : State), isCoord s = false) ∧
  (∃ (r : Nat) (s : State), fwRuns s = true ∧ isLiveRank s r = true ∧ overdue s r = true) ∧
  (∃ (r : Nat) (s : State), (isLiveRank s r = false ∨ overdue s r = false)) ∧
  (∃ (r : Nat) (s : State), isLiveRank s r = false ∧ r < s.ws.members.length) ∧
  (∃ (s : State), fwRuns s = true ∧ isCoord s = false ∧ isLiveRank s s.ws.coord = true ∧ overdue s s.ws.coord = true) ∧
  (∃ (r t : Nat) (v : DWord) (s : State), s.ws.heard.find? (·.1 == r) = some (r, v) ∧ t = departLimit s r) ∧
  (∃ (r : Nat) (s : State), s.ws.quiet.contains r = true) ∧
  (∃ (r : Nat) (s : State), s.ws.quiet.contains r = false ∧ s.ws.retraining = []) ∧
  (∃ (r : Nat) (c : Change_) (m : Member) (s : State), s.ws.change = some c ∧ fwRuns s = true ∧ isCoord s = true ∧ r < s.ws.members.length ∧ isLiveRank s r = true ∧ s.ws.members.find? (·.rank == r) = some m ∧ c.accepts.contains m.serial = false) ∧
  (∃ (r : Nat) (c : Change_) (a : Arrival) (s : State), s.ws.change = some c ∧ fwRuns s = true ∧ isCoord s = true ∧ s.ws.members.length ≤ r ∧ (sortArrivals c.prop.arrivals)[r - s.ws.members.length]? = some a ∧ c.accepts.contains a.serial = false) ∧
  (∃ (rs : List Nat) (s : State), isMember s = true ∧ rs ≠ [] ∧ hasMajority s ((s.ws.departed ++ rs).eraseDups) = false) ∧
  (∃ (l : Fin 8) (h : MsgHdr) (t1 t2 t3 t4 : DWord) (s : State), Arrives l h s) ∧
  (∃ (l : Fin 8) (s : State), fwRuns s = true ∧ isMember s = true ∧ isCoord s = false ∧ routeTo s s.ws.coord = some l) :=
  ⟨⟨7, (hdr 0xFFFF 1 0 0), (linked rdy), ⟨rfl, rfl, rfl, rfl, rfl, rfl⟩⟩,
   ⟨(shop 1 rdy), rfl, rfl, rfl⟩,
   ⟨(shop 0 rdy), rfl, rfl⟩,
   ⟨rdy, rfl⟩,
   ⟨1, { (shop 0 rdy) with aon := { (shop 0 rdy).aon with time := 50000000 } }, rfl, rfl, rfl⟩,
   ⟨1, rdy, .inl rfl⟩,
   ⟨0, (shop 0 rdy), rfl, by decide⟩,
   ⟨{ (shop 1 rdy) with aon := { (shop 1 rdy).aon with time := 50000000 } }, rfl, rfl, rfl, rfl⟩,
   ⟨1, (departLimit { shop 0 rdy with ws := { (shop 0 rdy).ws with heard := [(1, 7)] } } 1), 7, { shop 0 rdy with ws := { (shop 0 rdy).ws with heard := [(1, 7)] } }, rfl, rfl⟩,
   ⟨1, { shop 0 rdy with ws := { (shop 0 rdy).ws with quiet := [1] } }, rfl⟩,
   ⟨1, rdy, rfl, rfl⟩,
   ⟨1, ⟨⟨1, [], [], [], []⟩, [], []⟩, ⟨1, 2, 0, 1⟩, { shop 0 rdy with ws := { (shop 0 rdy).ws with change := some ⟨⟨1, [], [], [], []⟩, [], []⟩ } }, rfl, rfl, rfl, by decide, rfl, rfl, rfl⟩,
   ⟨2, ⟨⟨1, [], [⟨9, 1, 1⟩], [], []⟩, [], []⟩, ⟨9, 1, 1⟩, { shop 0 rdy with ws := { (shop 0 rdy).ws with change := some ⟨⟨1, [], [⟨9, 1, 1⟩], [], []⟩, [], []⟩ } }, rfl, rfl, rfl, by decide, rfl, rfl⟩,
   ⟨[0], (shop 1 rdy), rfl, by decide, rfl⟩,
   ⟨7, (hdr 0xFFFF 0x11 0 0), 5, 0, 0, 0, (linked rdy), ⟨rfl, rfl, rfl, rfl, rfl, rfl⟩⟩,
   ⟨7, (linked (shop 1 rdy)), rfl, rfl, rfl, rfl⟩⟩

set_option maxRecDepth 4000 in
theorem witness_MembershipMessagesMakeTheWorkshop :
  (∃ (l : Fin 8) (h : MsgHdr) (s : State), Arrives l h s) ∧
  (∃ (w : DWord) (s : State), (isMember s = false ∨ w ≠ s.ws.id ∨ s.ws.dissolving = true)) ∧
  (∃ (s : State), isMember s = true ∧ s.ws.dissolving = false) ∧
  (∃ (h : MsgHdr) (r : JoinReq) (s : State), isCoord s = true ∧ r.imageId ≠ imageIdOf s) ∧
  (∃ (h : MsgHdr) (r : JoinReq) (s : State), h.src ≠ 0xFFFF) ∧
  (∃ (h : MsgHdr) (s : State), h.dst ≠ 0xFFFE) ∧
  (∃ (h : MsgHdr) (r : JoinReq) (s : State), isCoord s = true ∧ r.imageId = imageIdOf s ∧ bitAt h.arg 15 = false ∧ (∀ a ∈ s.ws.arrivals, a.serial ≠ r.serial) ∧ (∀ m ∈ s.ws.members, m.serial ≠ r.serial)) ∧
  (∃ (s : State), (changeDue s = false ∨ fabricShut s = false) ∧ changeOpen s = true) ∧
  (∃ (h : MsgHdr) (r : JoinReq) (s : State), isCoord s = false) ∧
  (∃ (l : Fin 8) (p : Proposal) (s : State), isMember s = true ∧ isCoord s = false ∧ s.ws.epoch.toNat < p.epoch.toNat) ∧
  (∃ (l : Fin 8) (p : Proposal) (s : State), isMember s = true ∧ p.epoch.toNat ≤ s.ws.epoch.toNat ∧ epochEnd s = false) ∧
  (∃ (h : MsgHdr) (v : List Member) (m : Member) (c : Change_) (s : State), s.ws.change = some c ∧ isCoord s = true ∧ bitAt h.arg 15 = false ∧ isLiveRank s h.src.toNat = true ∧ s.ws.members.find? (·.rank == h.src.toNat) = some m) ∧
  (∃ (e : Enactment) (s : State), s.ws.state ≠ .unjoined ∧ (e.wsId ≠ s.ws.id ∨ e.epoch.toNat ≤ s.ws.epoch.toNat)) ∧
  (∃ (old : List Member) (p : Proposal) (k : Nat) (m : Member), (deriveMembers old p)[k]? = some m) ∧
  (∃ (s : State), fwRuns s = true ∧ isMember s = false ∧ s.ws.joinRefused = false) ∧
  (∃ (r : List Arrival) (s : State), fwRuns s = true ∧ bootDone s = true ∧ s.img ≠ none ∧ s.ws.state = .unjoined ∧ memberLinks s = [] ∧ r.all (claimBelow (selfArrival s)) = true) :=
  ⟨⟨7, (hdr 0xFFFF 7 0 0), (linked rdy), ⟨rfl, rfl, rfl, rfl, rfl, rfl⟩⟩,
   ⟨4, rdy, .inl rfl⟩,
   ⟨(shop 1 rdy), rfl, rfl⟩,
   ⟨(hdr 0 9 0 0), ⟨5, 1, 1, 1⟩, (shop 0 rdy), rfl, by decide⟩,
   ⟨(hdr 0 9 0 0), ⟨5, 1, 1, 1⟩, rdy, by decide⟩,
   ⟨(hdr 0 9 0 0), rdy, by decide⟩,
   ⟨(hdr 0 9 0 0), ⟨9, 1, rdy.glb.imageId, 1⟩, (shop 0 rdy), rfl, rfl, rfl, by decide, by decide⟩,
   ⟨{ shop 0 rdy with ws := { (shop 0 rdy).ws with change := some ⟨⟨1, [], [], [], []⟩, [], []⟩ } }, .inl rfl, rfl⟩,
   ⟨(hdr 0 9 0 0), ⟨9, 1, 0, 1⟩, rdy, rfl⟩,
   ⟨7, ⟨1, [0], [⟨7, 1, 1⟩], [], []⟩, (shop 1 rdy), rfl, rfl, by decide⟩,
   ⟨7, ⟨0, [], [], [], []⟩, (shop 1 rdy), rfl, by decide, rfl⟩,
   ⟨{ hdr 0 12 0 0 with src := 1 }, [⟨0, 1, 0, 1⟩], ⟨1, 2, 0, 1⟩, ⟨⟨1, [], [], [], []⟩, [], []⟩, { shop 0 rdy with ws := { (shop 0 rdy).ws with change := some ⟨⟨1, [], [], [], []⟩, [], []⟩ } }, rfl, rfl, rfl, rfl, rfl⟩,
   ⟨⟨1, 4, [], []⟩, (shop 1 rdy), by decide, .inl (by decide)⟩,
   ⟨[⟨0, 1, 0, 1⟩, ⟨1, 2, 0, 1⟩], ⟨1, [0], [], [], []⟩, 0, ⟨0, 2, 0, 1⟩, rfl⟩,
   ⟨rdy, rfl, rfl, rfl⟩,
   ⟨[⟨9, 1023, 1⟩], (lit 1), rfl, rfl, by decide, rfl, rfl, rfl⟩⟩

theorem witness_LinksComeUpInOrder :
  (∃ (l : Fin 8) (s : State), inState l .signalDetect s = true) ∧
  (∃ (l : Fin 8) (s : State), inState l .training s = true ∧ s.links[l].trainFailed = false ∧ s.links[l].disable = false ∧ s.links[l].stopped = false ∧ s.rng.state ≠ .failed) ∧
  (∃ (l : Fin 8) (s : State), inState l .training s = true ∧ s.links[l].trainFailed = false) ∧
  (∃ (l : Fin 8) (s : State), inState l .training s = true ∧ s.links[l].trainFailed = true) ∧
  (∃ (l : Fin 8) (m : Hello) (s : State), (inState l .hello s = true ∨ inState l .notAdmitted s = true) ∧ s.links[l].keyed = false ∧ m.reservedZero = true ∧ m.version = 1 ∧ (m.chainOk = false ∨ m.sigOk = false) ∧ s.links[l].disable = false ∧ s.links[l].stopped = false) ∧
  (∃ (l : Fin 8) (m : Hello) (s : State), (inState l .hello s = true ∨ inState l .notAdmitted s = true) ∧ s.links[l].keyed = false ∧ m.reservedZero = true ∧ m.version = 1 ∧ m.chainOk = true ∧ m.sigOk = true ∧ m.imageId ≠ imageIdOf s) ∧
  (∃ (l : Fin 8) (m : Hello) (s : State), (inState l .hello s = true ∨ inState l .notAdmitted s = true) ∧ s.links[l].keyed = false ∧ m.reservedZero = true ∧ m.version = 1 ∧ m.chainOk = true ∧ m.sigOk = true ∧ m.imageId = imageIdOf s) ∧
  (∃ (l : Fin 8) (m : Hello) (s : State), (m.reservedZero = false ∨ m.version ≠ 1 ∨ s.links[l].keyed = true)) ∧
  (∃ (l : Fin 8) (s : State), inState l .hello s = true ∧ s.links[l].keyed = false) ∧
  (∃ (l : Fin 8) (s : State), inState l .hello s = true ∧ s.links[l].keyed = true) ∧
  (∃ (l : Fin 8) (s : State), inState l .notAdmitted s = true) ∧
  (∃ (l : Fin 8) (s : State), linkLive l s = true ∧ s.links[l].disable = true ∧ s.links[l].state = .disabled) ∧
  (∃ (l : Fin 8) (s : State), linkLive l s = true ∧ s.links[l].disable = false ∧ carries s.links[l] = false ∧ s.links[l].state ≠ .retrain) ∧
  (∃ (l : Fin 8) (s : State), inState l .stopped s = true ∧ s.links[l].disable = false) ∧
  (∃ (l : Fin 8) (s : State), (inState l .signalDetect s = true ∨ inState l .training s = true)) ∧
  (∃ (l : Fin 8) (m : Hello) (s : State), linkPresent s.part l.val = false) :=
  ⟨⟨7, (lnk { Link.reset with state := .signalDetect }), rfl⟩,
   ⟨7, (lnk { Link.reset with state := .training }), rfl, rfl, rfl, rfl, by decide⟩,
   ⟨7, (lnk { Link.reset with state := .training }), rfl, rfl⟩,
   ⟨7, (lnk { Link.reset with state := .training, trainFailed := true }), rfl, rfl⟩,
   ⟨7, (hel 1 false), (lnk { Link.reset with state := .hello }), .inl rfl, rfl, rfl, rfl, .inr rfl, rfl, rfl⟩,
   ⟨7, (hel 1 true), (lnk { Link.reset with state := .hello }), .inl rfl, rfl, rfl, rfl, rfl, rfl, by decide⟩,
   ⟨7, (hel rdy.glb.imageId true), (lnk { Link.reset with state := .notAdmitted }), .inr rfl, rfl, rfl, rfl, rfl, rfl, rfl⟩,
   ⟨7, { hel 1 true with version := 2 }, (lnk { Link.reset with state := .hello }), .inr (.inl (by decide))⟩,
   ⟨7, (lnk { Link.reset with state := .hello }), rfl, rfl⟩,
   ⟨7, (lnk { Link.reset with state := .hello, keyed := true }), rfl, rfl⟩,
   ⟨7, (lnk { Link.reset with state := .notAdmitted }), rfl⟩,
   ⟨7, (lnk { Link.reset with state := .disabled, disable := true }), rfl, rfl, rfl⟩,
   ⟨7, (lnk { Link.reset with state := .training }), rfl, rfl, rfl, by decide⟩,
   ⟨7, (lnk { Link.reset with state := .stopped }), rfl, rfl⟩,
   ⟨7, (lnk { Link.reset with state := .training }), by decide⟩,
   ⟨7, (hel 1 true), { rdy with part := .hn7230 }, rfl⟩⟩

theorem witness_LinksCarryFlitsAndRetrain :
  (∃ (l : Fin 8) (f : Flit) (s : State), (linkLive l s = false ∨ slotting s.links[l] = false)) ∧
  (∃ (l : Fin 8) (rx : FlitRx) (q : BitVec 12) (r : Bool) (vl : BitVec 2) (b : LinkBody) (s : State), rx.enc = false) ∧
  (∃ (l : Fin 8) (rx : FlitRx) (q : BitVec 12) (r : Bool) (vl : BitVec 2) (b : LinkBody) (s : State), sealedFlit l rx s = true ∧ (0 < rx.uncorr ∨ rx.tagOk = false)) ∧
  (∃ (l : Fin 8) (rx : FlitRx) (b : LinkBody) (s : State), sealedFlit l rx s = true ∧ s.links[l].state = .hello ∧ rx.uncorr = 0 ∧ rx.tagOk = false ∧ s.links[l].disable = false ∧ s.links[l].stopped = false) ∧
  (∃ (l : Fin 8) (rx : FlitRx) (r : Bool) (vl : BitVec 2) (s : State), sealedFlit l rx s = true ∧ rx.uncorr = 0 ∧ rx.tagOk = true ∧ rx.hdrReservedZero = true ∧ s.links[l].state ≠ .hello ∧ (s.links[l].discard = true → r = true)) ∧
  (∃ (l : Fin 8) (rx : FlitRx) (b : LinkBody) (s : State), sealedFlit l rx s = true ∧ rx.uncorr = 0 ∧ rx.corr = 0 ∧ rx.tagOk = true ∧ rx.hdrReservedZero = true ∧ b.reservedZero = true ∧ s.links[l].state = .up ∧ b.nak = false ∧ b.rekey = .none ∧ b.switchAck = false) ∧
  (∃ (l : Fin 8) (rx : FlitRx) (b : LinkBody) (s : State), sealedFlit l rx s = true ∧ rx.uncorr = 0 ∧ rx.tagOk = true ∧ rx.hdrReservedZero = true ∧ b.reservedZero = true ∧ s.links[l].state = .up ∧ b.nak = false) ∧
  (∃ (l : Fin 8) (s : State), inState l .up s = true ∧ 512 ≤ s.links[l].dataRun) ∧
  (∃ (l : Fin 8) (f : TxFlit) (fs : List TxFlit) (s : State), inState l .up s = true ∧ s.links[l].unacked = f :: fs) ∧
  (∃ (l : Fin 8) (s : State), linkLive l s = true ∧ slotting s.links[l] = true ∧ 16 ≤ s.links[l].tagRun) ∧
  (∃ (l : Fin 8) (s : State), linkLive l s = true ∧ carries s.links[l] = true) ∧
  (∃ (l : Fin 8) (s : State), linkLive l s = true ∧ carries s.links[l] = true ∧ s.links[l].disable = false ∧ s.links[l].stopped = false ∧ isMember s = false) ∧
  (∃ (l : Fin 8) (s : State), linkLive l s = true ∧ carries s.links[l] = true ∧ s.links[l].rekey = none ∧ 2 ^ 32 ≤ s.links[l].txF.toNat ∧ (s.links[l].rxF.toNat < 2 ^ 32 ∨ s.serial.toNat < s.links[l].peerSerial.toNat) ∧ s.rng.state ≠ .failed) ∧
  (∃ (l : Fin 8) (r : RekeyRun) (n : DWord) (k k2 : LinkKeys) (s : State), s.links[l].rekey = some r ∧ linkLive l s = true ∧ r.txAt = some n ∧ n.toNat ≤ s.links[l].txF.toNat ∧ r.txAck = true ∧ r.txDone = false ∧ r.rxDone = false ∧ s.links[l].keys = some k ∧ r.keys = some k2) ∧
  (∃ (l : Fin 8) (r : RekeyRun) (n : DWord) (s : State), s.links[l].rekey = some r ∧ linkLive l s = true ∧ r.txAt = some n ∧ s.links[l].txF.toNat < n.toNat) ∧
  (∃ (l : Fin 8) (r : RekeyRun) (n : DWord) (s : State), s.links[l].rekey = some r ∧ linkLive l s = true ∧ r.rxAt = some n ∧ n.toNat ≤ s.links[l].rxF.toNat ∧ r.rxDone = false ∧ r.txDone = true) ∧
  (∃ (l : Fin 8) (r : RekeyRun) (s : State), s.links[l].rekey = some r ∧ r.drawn = false ∧ rekeyAsked l s = false ∧ s.rng.state ≠ .failed) ∧
  (∃ (l : Fin 8) (s : State), linkLive l s = true ∧ carries s.links[l] = true ∧ (2 ^ 33 ≤ s.links[l].txF.toNat ∨ 2 ^ 33 ≤ s.links[l].rxF.toNat)) ∧
  (∃ (l : Fin 8) (u c : Nat) (s : State), linkLive l s = true ∧ carries s.links[l] = true) ∧
  (∃ (l : Fin 8) (v h : Byte) (n : BitVec 2) (s : State), linkLive l s = true ∧ carries s.links[l] = true ∧ 25 ≤ v.toNat ∧ 64 ≤ h.toNat) ∧
  (∃ (l : Fin 8) (v h : Byte) (n : BitVec 2) (s : State), linkLive l s = true ∧ carries s.links[l] = true ∧ (v.toNat < 25 ∨ h.toNat < 64) ∧ noJobRuns s = false) ∧
  (∃ (l : Fin 8) (s : State), linkLive l s = true ∧ carries s.links[l] = true ∧ noJobRuns s = false) ∧
  (∃ (l : Fin 8) (s : State), inState l .retrain s = true ∧ s.links[l].unacked = [] ∧ s.pwr.retrain = none ∧ s.pwr.armed = 0) ∧
  (∃ (l : Fin 8) (s : State), inState l .retrain s = true) ∧
  (∃ (v : Word) (s : State), running s = true) :=
  ⟨⟨7, (.data rxOk 0 false 0), rdy, by decide⟩,
   ⟨7, { rxOk with enc := false }, 0, false, 0, body0, (lnk { Link.reset with state := .up, keyed := true }), rfl⟩,
   ⟨7, { rxOk with uncorr := 1 }, 0, false, 0, body0, (lnk { Link.reset with state := .up, keyed := true }), rfl, by decide⟩,
   ⟨7, { rxOk with tagOk := false }, body0, (lnk { Link.reset with state := .hello, keyed := true }), rfl, rfl, rfl, rfl, rfl, rfl⟩,
   ⟨7, rxOk, false, 3, (lnk { Link.reset with state := .up, keyed := true }), rfl, rfl, rfl, rfl, by decide, by decide⟩,
   ⟨7, rxOk, body0, (lnk { Link.reset with state := .up, keyed := true }), rfl, rfl, rfl, rfl, rfl, rfl, rfl, rfl, rfl, rfl⟩,
   ⟨7, rxOk, body0, (lnk { Link.reset with state := .up, keyed := true }), rfl, rfl, rfl, rfl, rfl, rfl, rfl⟩,
   ⟨7, (lnk { Link.reset with state := .up, keyed := true, dataRun := 512 }), rfl, by decide⟩,
   ⟨7, ⟨0, 0, true, true, [], 3⟩, [], (lnk { Link.reset with state := .up, keyed := true, unacked := [⟨0, 0, true, true, [], 3⟩] }), rfl, rfl⟩,
   ⟨7, (lnk { Link.reset with state := .up, keyed := true, tagRun := 16 }), rfl, rfl, by decide⟩,
   ⟨7, (lnk { Link.reset with state := .up, keyed := true }), rfl, rfl⟩,
   ⟨7, (lnk { Link.reset with state := .up, keyed := true }), rfl, rfl, rfl, rfl, rfl⟩,
   ⟨7, (lnk { Link.reset with state := .up, keyed := true, txF := 0x100000000 }), rfl, rfl, rfl, by decide, .inl (by decide), by decide⟩,
   ⟨7, ⟨1, true, true, true, some 5, true, none, false, false, none, [], some ⟨[], [], [], []⟩⟩, 5, ⟨[], [], [], []⟩, ⟨[], [], [], []⟩, (lnk { Link.reset with state := .up, keyed := true, rekey := some ⟨1, true, true, true, some 5, true, none, false, false, none, [], some ⟨[], [], [], []⟩⟩, keys := some ⟨[], [], [], []⟩, txF := 5 }), rfl, rfl, rfl, by decide, rfl, rfl, rfl, rfl, rfl⟩,
   ⟨7, ⟨1, true, true, true, some 5, true, none, false, false, none, [], some ⟨[], [], [], []⟩⟩, 5, (lnk { Link.reset with state := .up, keyed := true, rekey := some ⟨1, true, true, true, some 5, true, none, false, false, none, [], some ⟨[], [], [], []⟩⟩, keys := some ⟨[], [], [], []⟩, txF := 4 }), rfl, rfl, rfl, by decide⟩,
   ⟨7, ⟨1, true, true, true, none, false, some 5, true, false, none, [], some ⟨[], [], [], []⟩⟩, 5, (lnk { Link.reset with state := .up, keyed := true, rekey := some ⟨1, true, true, true, none, false, some 5, true, false, none, [], some ⟨[], [], [], []⟩⟩, keys := some ⟨[], [], [], []⟩, rxF := 5 }), rfl, rfl, rfl, by decide, rfl, rfl⟩,
   ⟨7, ⟨1, true, false, true, none, false, none, false, false, none, [], some ⟨[], [], [], []⟩⟩, (lnk { Link.reset with state := .up, keyed := true, rekey := some ⟨1, true, false, true, none, false, none, false, false, none, [], some ⟨[], [], [], []⟩⟩, keys := some ⟨[], [], [], []⟩ }), rfl, rfl, rfl, by decide⟩,
   ⟨7, (lnk { Link.reset with state := .up, keyed := true, txF := 0x200000000 }), rfl, rfl, .inl (by decide)⟩,
   ⟨7, 0, 16384, (lnk { Link.reset with state := .up, keyed := true }), rfl, rfl⟩,
   ⟨7, 25, 64, 3, (lnk { Link.reset with state := .up, keyed := true }), rfl, rfl, by decide, by decide⟩,
   ⟨7, 24, 64, 3, (withJob jobR (lnk { Link.reset with state := .up, keyed := true })), rfl, rfl, .inl (by decide), rfl⟩,
   ⟨7, (withJob jobR (lnk { Link.reset with state := .up, keyed := true })), rfl, rfl, rfl⟩,
   ⟨7, (lnk { Link.reset with state := .retrain }), rfl, rfl, rfl, rfl⟩,
   ⟨7, (lnk { Link.reset with state := .retrain }), rfl⟩,
   ⟨0x01020304, rdy, rfl⟩⟩

theorem witness_FlitAndLimitEventsComplete :
  (∃ (l : Fin 8) (rx : FlitRx) (q : BitVec 12) (r : Bool) (vl : BitVec 2) (s : State), sealedFlit l rx s = true ∧ rx.uncorr = 0 ∧ rx.tagOk = true ∧ (rx.hdrReservedZero = false ∨ q ≠ s.links[l].rxSeq)) ∧
  (∃ (l : Fin 8) (rx : FlitRx) (b : LinkBody) (s : State), sealedFlit l rx s = true ∧ rx.uncorr = 0 ∧ rx.tagOk = true ∧ (rx.hdrReservedZero = false ∨ b.reservedZero = false)) ∧
  (∃ (l : Fin 8) (rx : FlitRx) (b : LinkBody) (f : TxFlit) (fs : List TxFlit) (s : State), sealedFlit l rx s = true ∧ rx.uncorr = 0 ∧ rx.tagOk = true ∧ rx.hdrReservedZero = true ∧ b.reservedZero = true ∧ s.links[l].state = .up ∧ b.nak = true ∧ b.rekey = .none ∧ b.switchAck = false ∧ fromSeq b.ack (s.links[l].unacked.filter fun g => ahead b.ack g.seq) = f :: fs ∧ f.resends < retryMax s) ∧
  (∃ (l : Fin 8) (rx : FlitRx) (b : LinkBody) (s : State), sealedFlit l rx s = true ∧ rx.uncorr = 0 ∧ rx.tagOk = true ∧ rx.hdrReservedZero = true ∧ b.reservedZero = true ∧ s.links[l].state = .peerQuiesce ∧ b.nak = false ∧ b.rekey = .none ∧ b.switchAck = false) ∧
  (∃ (l : Fin 8) (s : State), inState l .up s = true ∧ 512 ≤ s.links[l].dataRun ∧ s.links[l].keyed = true ∧ s.links[l].rekey = none ∧ s.pwr.coreDown = false ∧ s.links[l].nak = false ∧ resendNext s.links[l] = none ∧ canSend s.links[l] 0 = true) ∧
  (∃ (l : Fin 8) (s : State), (inState l .up s = false ∨ s.links[l].dataRun < 512)) ∧
  (∃ (l : Fin 8) (s : State), (inState l .up s = false ∨ s.links[l].unacked = [])) ∧
  (∃ (l : Fin 8) (f : TxFlit) (fs : List TxFlit) (s : State), inState l .up s = true ∧ s.links[l].unacked = f :: fs ∧ f.resends < retryMax s) ∧
  (∃ (l : Fin 8) (s : State), inState l .hello s = true ∧ s.links[l].keyed = true ∧ 16 ≤ s.links[l].tagRun ∧ s.links[l].disable = false ∧ s.links[l].stopped = false) ∧
  (∃ (l : Fin 8) (s : State), s.links[l].tagRun < 16) ∧
  (∃ (l : Fin 8) (s : State), linkLive l s = true ∧ carries s.links[l] = true ∧ s.links[l].disable = false ∧ s.links[l].peerMember = false) ∧
  (∃ (l : Fin 8) (s : State), (linkLive l s = false ∨ carries s.links[l] = false)) :=
  ⟨⟨7, rxOk, 3, false, 0, (lnk { Link.reset with state := .up, keyed := true }), rfl, rfl, rfl, .inr (by decide)⟩,
   ⟨7, { rxOk with hdrReservedZero := false }, body0, (lnk { Link.reset with state := .up, keyed := true }), rfl, rfl, rfl, .inl rfl⟩,
   ⟨7, rxOk, { body0 with nak := true }, ⟨0, 0, true, true, [], 3⟩, [], (lnk { Link.reset with state := .up, keyed := true, unacked := [⟨0, 0, true, true, [], 3⟩] }), rfl, rfl, rfl, rfl, rfl, rfl, rfl, rfl, rfl, rfl, by decide⟩,
   ⟨7, rxOk, body0, (lnk { Link.reset with state := .peerQuiesce, keyed := true }), rfl, rfl, rfl, rfl, rfl, rfl, rfl, rfl, rfl⟩,
   ⟨7, (lnk { Link.reset with state := .up, keyed := true, dataRun := 512, queue := [(0, 1, ⟨0, 0, 1, 0, 0, 0, .empty⟩)] }), rfl, by decide, rfl, rfl, rfl, rfl, rfl, rfl⟩,
   ⟨7, rdy, .inl rfl⟩,
   ⟨7, rdy, .inl rfl⟩,
   ⟨7, ⟨0, 0, true, true, [], 3⟩, [], (lnk { Link.reset with state := .up, keyed := true, unacked := [⟨0, 0, true, true, [], 3⟩] }), rfl, rfl, by decide⟩,
   ⟨7, (lnk { Link.reset with state := .hello, keyed := true, tagRun := 16 }), rfl, rfl, by decide, rfl, rfl⟩,
   ⟨7, rdy, by decide⟩,
   ⟨7, (lnk { Link.reset with state := .up, keyed := true }), rfl, rfl, rfl, rfl⟩,
   ⟨7, rdy, .inr rfl⟩⟩

theorem witness_RekeyAndRetrainEventsComplete :
  (∃ (l : Fin 8) (s : State), linkLive l s = true ∧ carries s.links[l] = true ∧ s.links[l].rekey = none ∧ 2 ^ 32 ≤ s.links[l].txF.toNat ∧ s.links[l].rxF.toNat < 2 ^ 32 ∧ s.rng.state ≠ .failed) ∧
  (∃ (l : Fin 8) (s : State), (s.links[l].txF.toNat < 2 ^ 32 ∨ (2 ^ 32 ≤ s.links[l].rxF.toNat ∧ s.links[l].peerSerial.toNat ≤ s.serial.toNat) ∨ s.links[l].rekey.isSome = true)) ∧
  (∃ (l : Fin 8) (r : RekeyRun) (n : DWord) (s : State), s.links[l].rekey = some r ∧ linkLive l s = true ∧ r.txAt = some n ∧ n.toNat ≤ s.links[l].txF.toNat ∧ r.txAck = true ∧ r.txDone = false ∧ r.rxDone = true) ∧
  (∃ (l : Fin 8) (r : RekeyRun) (n : DWord) (s : State), s.links[l].rekey = some r ∧ linkLive l s = true ∧ r.rxAt = some n ∧ n.toNat ≤ s.links[l].rxF.toNat ∧ r.rxDone = false ∧ r.txDone = false) ∧
  (∃ (l : Fin 8) (d : Bool) (s : State), s.links[l].rekey = none) ∧
  (∃ (l : Fin 8) (r : RekeyRun) (s : State), s.links[l].rekey = some r ∧ r.drawn = false ∧ rekeyAsked l s = false ∧ s.rng.state ≠ .failed) ∧
  (∃ (l : Fin 8) (u c : Nat) (s : State), linkLive l s = true ∧ carries s.links[l] = true ∧ u < 4 ∧ c < 16384) ∧
  (∃ (l : Fin 8) (u c : Nat) (v h : Byte) (n : BitVec 2) (s : State), (linkLive l s = false ∨ carries s.links[l] = false)) ∧
  (∃ (l : Fin 8) (v h : Byte) (n : BitVec 2) (s : State), linkLive l s = true ∧ carries s.links[l] = true ∧ noJobRuns s = false) ∧
  (∃ (l : Fin 8) (s : State), linkLive l s = true ∧ carries s.links[l] = true ∧ noJobRuns s = true) ∧
  (∃ (l : Fin 8) (f : TxFlit) (fs : List TxFlit) (s : State), inState l .retrain s = true ∧ s.links[l].unacked = f :: fs ∧ s.links[l].urgent = true ∧ f.resends < retryMax s ∧ s.pwr.retrain = none ∧ s.pwr.armed = 0) ∧
  (∃ (l : Fin 8) (s : State), inState l .retrain s = true ∧ isMember s = false ∧ s.links[l].disable = false ∧ s.links[l].stopped = false ∧ s.pwr.retrain = none ∧ s.pwr.armed = 0) ∧
  (∃ (l : Fin 8) (s : State), inState l .retrain s = false) :=
  ⟨⟨7, (lnk { Link.reset with state := .up, keyed := true, txF := 0x100000000 }), rfl, rfl, rfl, by decide, by decide, by decide⟩,
   ⟨7, rdy, .inl (by decide)⟩,
   ⟨7, ⟨1, true, true, true, some 5, true, none, false, true, none, [], some ⟨[], [], [], []⟩⟩, 5, (lnk { Link.reset with state := .up, keyed := true, rekey := some ⟨1, true, true, true, some 5, true, none, false, true, none, [], some ⟨[], [], [], []⟩⟩, keys := some ⟨[], [], [], []⟩, txF := 5 }), rfl, rfl, rfl, by decide, rfl, rfl, rfl⟩,
   ⟨7, ⟨1, true, true, true, none, false, some 5, false, false, none, [], some ⟨[], [], [], []⟩⟩, 5, (lnk { Link.reset with state := .up, keyed := true, rekey := some ⟨1, true, true, true, none, false, some 5, false, false, none, [], some ⟨[], [], [], []⟩⟩, keys := some ⟨[], [], [], []⟩, rxF := 5 }), rfl, rfl, rfl, by decide, rfl, rfl⟩,
   ⟨7, true, rdy, rfl⟩,
   ⟨7, ⟨1, true, false, true, none, false, none, false, false, none, [], some ⟨[], [], [], []⟩⟩, (lnk { Link.reset with state := .up, keyed := true, rekey := some ⟨1, true, false, true, none, false, none, false, false, none, [], some ⟨[], [], [], []⟩⟩, keys := some ⟨[], [], [], []⟩ }), rfl, rfl, rfl, by decide⟩,
   ⟨7, 3, 16383, (lnk { Link.reset with state := .up, keyed := true }), rfl, rfl, by decide, by decide⟩,
   ⟨7, 3, 5, 9, 9, 0, rdy, .inr rfl⟩,
   ⟨7, 9, 9, 0, (withJob jobR (lnk { Link.reset with state := .up, keyed := true })), rfl, rfl, rfl⟩,
   ⟨7, (lnk { Link.reset with state := .up, keyed := true }), rfl, rfl, rfl⟩,
   ⟨7, ⟨0, 0, true, true, [], 3⟩, [], (lnk { Link.reset with state := .retrain, urgent := true, unacked := [⟨0, 0, true, true, [], 3⟩] }), rfl, rfl, rfl, by decide, rfl, rfl⟩,
   ⟨7, (lnk { Link.reset with state := .retrain }), rfl, rfl, rfl, rfl, rfl, rfl⟩,
   ⟨7, rdy, rfl⟩⟩

set_option maxRecDepth 4000 in
theorem witness_CollectiveMessagesActOnTheStep :
  (∃ (l : Fin 8) (h : MsgHdr) (ch : ColHdr) (xs : List Word) (e : DrawerEcc) (x : Job) (s : State), ForJob l h ch x s ∧ ch.step = BitVec.ofNat 32 x.step ∧ glueAway s ch = false) ∧
  (∃ (l : Fin 8) (h : MsgHdr) (ch : ColHdr) (xs : List Byte) (x : Job) (s : State), ForJob l h ch x s ∧ ch.step = BitVec.ofNat 32 x.step) ∧
  (∃ (l : Fin 8) (h : MsgHdr) (ch : ColHdr) (g : Tally) (x : Job) (s : State), ForJob l h ch x s ∧ ch.step = BitVec.ofNat 32 x.step) ∧
  (∃ (l : Fin 8) (h : MsgHdr) (ch : ColHdr) (xs : List NormWire) (x : Job) (s : State), ForJob l h ch x s ∧ ch.step = BitVec.ofNat 32 x.step) ∧
  (∃ (w : NormWire), (2 ^ 80 ≤ w.mean.toNat ∨ 2 ^ 80 ≤ w.m2.toNat)) ∧
  (∃ (l : Fin 8) (h : MsgHdr) (ch : ColHdr) (xs : List Word) (bs : List Byte) (g : Tally) (e : DrawerEcc) (s : State), Arrives l h s ∧ glueAway s ch = false ∧ (∀ x, s.jobs[slotFin ch.job.toNat] = some x → hdrOk ch = false ∨ x.parked = true ∨ ch.step ≠ BitVec.ofNat 32 x.step)) ∧
  (∃ (h : MsgHdr) (ch : ColHdr) (xs : List Word) (w : Tensor) (j : Fin 4) (x : Job) (s : State) (k : Tensor → Fin 4 → Job → State → State), colWeight s x ch.tensor = some w) ∧
  (∃ (w : Tensor) (n : Nat) (xs : List Word) (j : Fin 4) (x : Job) (s : State), x.glueIn.contains w.id = false) ∧
  (∃ (w : Tensor) (n k : Nat) (xs : List Word) (j : Fin 4) (r : TRun) (s t : State), holdBytes j (ofWords xs) s = some (k, t) ∧ tensAt t j w.id = some r) ∧
  (∃ (h : MsgHdr) (ch : ColHdr) (v : BitVec 128) (a : Val) (j : Fin 4) (x y : Job) (r : TRun) (s : State), s.jobs[j] = some y ∧ tensIn y ch.tensor = some r ∧ w80Read v = some a) ∧
  (∃ (h : MsgHdr) (ch : ColHdr) (v : BitVec 128) (j : Fin 4) (x : Job) (s : State), 2 ^ 80 ≤ v.toNat) ∧
  (∃ (j : Fin 4) (id : BitVec 16) (n : Nat) (x : Job) (s : State), s.jobs[j] = some x ∧ running s = true ∧ onFabric s x = true ∧ colOpen s j x id = true ∧ groupCarries s x id = true ∧ colSilent s j id = true) ∧
  (∃ (j : Fin 4) (id : BitVec 16) (n : Nat) (x : Job) (s : State), s.jobs[j] = some x ∧ (groupCarries s x id = false ∨ colSilent s j id = false)) ∧
  (∃ (v : Word) (s : State), running s = true) ∧
  (∃ (n d : Nat), 0 < d) :=
  ⟨⟨7, (hdr 0xFFFF 0x40 1 0), colCh, [1, 2, 3, 4], ⟨0, none⟩, jobR, (linked (withJob jobR (lit 1))), ⟨⟨rfl, rfl, rfl, rfl, rfl, rfl⟩, rfl, rfl, rfl⟩, rfl, rfl⟩,
   ⟨7, (hdr 0xFFFF 0x43 1 0), colCh, [], jobR, (linked (withJob jobR (lit 1))), ⟨⟨rfl, rfl, rfl, rfl, rfl, rfl⟩, rfl, rfl, rfl⟩, rfl⟩,
   ⟨7, (hdr 0xFFFF 0x44 1 0), colCh, (.g 0), jobR, (linked (withJob jobR (lit 1))), ⟨⟨rfl, rfl, rfl, rfl, rfl, rfl⟩, rfl, rfl, rfl⟩, rfl⟩,
   ⟨7, (hdr 0xFFFF 0x44 1 0), colCh, [], jobR, (linked (withJob jobR (lit 1))), ⟨⟨rfl, rfl, rfl, rfl, rfl, rfl⟩, rfl, rfl, rfl⟩, rfl⟩,
   ⟨⟨1, 0x100000000000000000000, 0⟩, .inl (by decide)⟩,
   ⟨7, (hdr 0xFFFF 0x40 1 0), colCh, [], [], (.g 0), ⟨0, none⟩, (linked rdy), ⟨rfl, rfl, rfl, rfl, rfl, rfl⟩, rfl, (fun x h => absurd (show none = some x from h) (by simp))⟩,
   ⟨(hdr 0xFFFF 0x40 1 0), colCh, [], (ten 5 .veneerW 2), 0, jobR, (withJob (jobR) (lit 1)), (fun _ _ _ s => s), rfl⟩,
   ⟨(ten 5 .veneerW 2), 0, [1, 2, 3, 4], 0, jobR, (withJob (jobR) (lit 1)), rfl⟩,
   ⟨(ten 5 .veneerW 2), 0, ((holdBytes 0 (ofWords [1, 2]) (withJob (jobR) (lit 1))).getD (0, rdy)).1, [1, 2], 0, (TRun.fresh (ten 5 .veneerW 2)), (withJob (jobR) (lit 1)), ((holdBytes 0 (ofWords [1, 2]) (withJob (jobR) (lit 1))).getD (0, rdy)).2, rfl, rfl⟩,
   ⟨(hdr 0xFFFF 0x43 1 0), colCh, 0, ((w80Read 0).getD .nan), 0, jobR, jobR, (TRun.fresh (ten 5 .veneerW 2)), (withJob (jobR) (lit 1)), rfl, rfl, rfl⟩,
   ⟨(hdr 0xFFFF 0x43 1 0), colCh, 0x100000000000000000000, 0, jobR, rdy, by decide⟩,
   ⟨0, 5, 0, colJob, { (shop 1 (withJob colJob (lit 1))) with aon := { (shop 1 (withJob colJob (lit 1))).aon with time := 1000000000000 } }, rfl, rfl, rfl, rfl, rfl, by decide⟩,
   ⟨0, 5, 0, colJob, { (shop 1 (withJob colJob (lit 1))) with pwr := { (shop 1 (withJob colJob (lit 1))).pwr with coreDown := true } }, rfl, .inl rfl⟩,
   ⟨0x432, rdy, rfl⟩,
   ⟨7, 3, by decide⟩⟩

theorem witness_PeerExpertAndStateMessages :
  (∃ (l : Fin 8) (h : MsgHdr) (ch : ColHdr) (x : Job) (s : State), ForJob l h ch x s ∧ ch.step = BitVec.ofNat 32 x.step) ∧
  (∃ (l : Fin 8) (h : MsgHdr) (ch : ColHdr) (xs : List ExpEntry) (x : Job) (s : State), ownHand s h = true ∧ s.jobs[slotFin ch.job.toNat] = some x) ∧
  (∃ (l : Fin 8) (h : MsgHdr) (ch : ColHdr) (e : DrawerEcc) (x : Job) (s : State), ForJob l h ch x s ∧ (ch.step = 0 ∨ ch.step = BitVec.ofNat 32 x.step)) ∧
  (∃ (l : Fin 8) (h : MsgHdr) (ch : ColHdr) (xs : List Byte) (r : StateRec) (x : Job) (s : State), ForJob l h ch x s ∧ (x.phase = .holding ∨ ch.step = BitVec.ofNat 32 x.step)) ∧
  (∃ (l : Fin 8) (h : MsgHdr) (ch : ColHdr) (xs : List Byte) (r : StateRec) (e : DrawerEcc) (s : State), Arrives l h s ∧ (∀ x, s.jobs[slotFin ch.job.toNat] = some x → ch.step ≠ BitVec.ofNat 32 x.step)) ∧
  (∃ (d : BitVec 16) (h : MsgHdr) (ch : ColHdr) (j : Fin 4) (x : Job) (t : Tensor) (r : TRun) (s : State), tensorOf s ch.tensor = some t ∧ tensIn x ch.tensor = some r ∧ ch.offset.toNat + ch.count.toNat ≤ t.elements) ∧
  (∃ (h : MsgHdr) (ch : ColHdr) (xs : List Byte) (k : StateRec) (j : Fin 4) (x : Job) (s : State), x.fetch.contains (ch.tensor, ch.offset.toNat, ch.count.toNat) = false) ∧
  (∃ (h : MsgHdr) (ch : ColHdr) (n : Nat) (last : Bool) (xs : List Byte) (j : Fin 4) (x : Job) (s : State), (∀ p ∈ s.col.peers, p.granted = false)) :=
  ⟨⟨7, (hdr 0xFFFF 0x46 1 0), colCh, jobR, (linked (withJob jobR (lit 1))), ⟨⟨rfl, rfl, rfl, rfl, rfl, rfl⟩, rfl, rfl, rfl⟩, rfl⟩,
   ⟨7, (hdr 0xFFFF 0x60 2 0), colCh, [], jobR, (linked (withJob jobR (lit 1))), rfl, rfl⟩,
   ⟨7, (hdr 0xFFFF 0x80 3 0), colCh, ⟨0, none⟩, jobR, (linked (withJob jobR (lit 1))), ⟨⟨rfl, rfl, rfl, rfl, rfl, rfl⟩, rfl, rfl, rfl⟩, .inl rfl⟩,
   ⟨7, (hdr 0xFFFF 0x81 3 0), colCh, [], ⟨0, 0, 0, 0, 0, 0, []⟩, jobR, (linked (withJob jobR (lit 1))), ⟨⟨rfl, rfl, rfl, rfl, rfl, rfl⟩, rfl, rfl, rfl⟩, .inr rfl⟩,
   ⟨7, (hdr 0xFFFF 0x81 3 0), colCh, [], ⟨0, 0, 0, 0, 0, 0, []⟩, ⟨0, none⟩, (linked rdy), ⟨rfl, rfl, rfl, rfl, rfl, rfl⟩, (fun x h => absurd (show none = some x from h) (by simp))⟩,
   ⟨1, (hdr 0xFFFF 0x80 3 0), colCh, 0, jobR, (ten 5 .veneerW 2), (TRun.fresh (ten 5 .veneerW 2)), (withJob (jobR) (lit 1)), rfl, rfl, by decide⟩,
   ⟨(hdr 0xFFFF 0x81 3 0), colCh, [], ⟨0, 0, 0, 0, 0, 0, []⟩, 0, jobR, (withJob (jobR) (lit 1)), rfl⟩,
   ⟨(hdr 0xFFFF 0x48 1 0), colCh, 0, true, [], 0, jobR, (withJob (jobR) (lit 1)), by decide⟩⟩

theorem witness_CopyEnginesRunDescriptors :
  (∃ (e : Fin 8) (d : Desc8) (c : Ecc) (s : State), headDesc e s = some d ∧ slotReady d s = false ∧ s.stk.engines[e].wait ≠ .grant ∧ s.stk.engines[e].wait ≠ .done) ∧
  (∃ (e : Fin 8) (d : Desc8) (c : Ecc) (s : State), headDesc e s = some d ∧ slotReady d s = true ∧ s.stk.engines[e].wait ≠ .grant ∧ s.stk.engines[e].wait ≠ .done) ∧
  (∃ (e : Fin 8) (c : Ecc) (s : State), headDesc e s = none) ∧
  (∃ (e : Fin 8) (a : Nat) (c : Ecc) (d : Desc8) (s : State), beyond (srcPlace s s.stk.engines[e].job d) (srcRows d) (cRowBytes d) = some a) ∧
  (∃ (e : Fin 8) (c : Ecc) (d : Desc8) (s : State), cSrcKind d = 0 ∧ cDstKind d = 1 ∧ c.uncorr = none ∧ (∀ h ∈ s.stk.handles, h.2.freeing = false ∧ ∀ f ∈ h.2.table, f.2.dying = false) ∧ (∀ r ∈ srcRows d, r + cRowBytes d ≤ 16777216) ∧ (∀ r ∈ dstRows d, r + cRowBytes d ≤ 67108864)) ∧
  (∃ (e : Fin 8) (h : Nat) (d : Desc8) (s : State), handleNamed s s.stk.engines[e].job (cDstId d) = some h) ∧
  (∃ (h : Nat) (x : Handle) (s : State), handleAt s h = some x ∧ (∀ f ∈ x.table, f.2.pins = []) ∧ s.stk.handles.Pairwise (fun a b => a.1 < b.1)) ∧
  (∃ (e : Fin 8) (d : Desc8) (s : State), headDesc e s = some d ∧ s.stk.engines[e].wait = .slot ∧ slotReady d s = false ∧ s.jobs[s.stk.engines[e].job] = none) ∧
  (∃ (e : Fin 8) (d d' : Desc8) (r : List Desc8) (s : State), s.stk.engines[e].list = d :: d' :: r) ∧
  (∃ (e : Fin 8) (d : Desc8) (q : Fin 4 × List Desc8) (r : List (Fin 4 × List Desc8)) (s : State), s.stk.engines[e].list = [d] ∧ s.stk.queue = q :: r) ∧
  (∃ (e : Fin 8) (d : Desc8) (s : State), s.stk.engines[e].list = [d] ∧ s.stk.queue = []) :=
  ⟨⟨7, (cdsc 0 0 0x105), ⟨1, none⟩, (eng [cdsc 0 0 0x105] .none rdy), rfl, rfl, by decide, by decide⟩,
   ⟨7, (cdsc 0 0 0xFF01FF), ⟨1, none⟩, (eng [cdsc 0 0 0xFF01FF] .none rdy), rfl, rfl, by decide, by decide⟩,
   ⟨7, ⟨1, none⟩, rdy, rfl⟩,
   ⟨7, 0, ⟨1, none⟩, (cdsc 0x20 99 0x1FF), (eng [cdsc 0x20 99 0x1FF] .none rdy), rfl⟩,
   ⟨7, ⟨1, none⟩, (cdsc 0x40 0 0xFF01FF), (eng [cdsc 0x40 0 0xFF01FF] .none rdy), rfl, rfl, rfl, by decide, by decide, by decide⟩,
   ⟨7, 9, (cdsc 3 0x70000 0xFF01FF), (eng [cdsc 3 0x70000 0xFF01FF] .none (held inRam rdy)), rfl⟩,
   ⟨9, (hnd inRam), (held inRam rdy), rfl, by decide, by decide⟩,
   ⟨7, (cdsc 0 0 0x105), (eng [cdsc 0 0 0x105] .slot rdy), rfl, rfl, rfl, rfl⟩,
   ⟨7, (cdsc 0 0 0x105), (cdsc 1 0 0), [], (eng [cdsc 0 0 0x105, cdsc 1 0 0] .none rdy), rfl⟩,
   ⟨7, (cdsc 0 0 0x105), (2, [cdsc 1 0 0]), [], (eng [cdsc 0 0 0x105] .none { rdy with stk := { rdy.stk with queue := [(2, [cdsc 1 0 0])] } }), rfl, rfl⟩,
   ⟨7, (cdsc 0 0 0x105), (eng [cdsc 0 0 0x105] .none rdy), rfl, rfl⟩⟩

theorem witness_PagingScrubAndMonitor :
  (∃ (h : BitVec 16) (i : Nat) (x : Handle) (f : Frame) (s : State), handleAt s h.toNat = some x ∧ tabFind i x.table = some f ∧ running s = true ∧ outNext h.toNat i s = true) ∧
  (∃ (h : BitVec 16) (i : Nat) (s : State), outNext h.toNat i s = false) ∧
  (∃ (h i : Nat) (s : State), outNext h i s = true) ∧
  (∃ (h : BitVec 16) (i : Nat) (r : SpillRead) (bs : List Byte) (x : Handle) (f : Frame) (s : State), handleAt s h.toNat = some x ∧ tabFind i x.table = some f ∧ running s = true ∧ f.spilled = true ∧ pageWanted h.toNat i x s = true ∧ openSpill h.toNat i f r s = some bs ∧ 0 < freeFrames s ∧ s.col.peers = []) ∧
  (∃ (h i : Nat) (f : Frame) (r : SpillRead) (s : State), r.data.length = 65536) ∧
  (∃ (h : BitVec 16) (i : Nat) (r : SpillRead) (x : Handle) (f : Frame) (s : State), handleAt s h.toNat = some x ∧ tabFind i x.table = some f ∧ running s = true ∧ f.spilled = true ∧ pageWanted h.toNat i x s = true) ∧
  (∃ (bit : Nat) (code : BitVec 16) (h i : Nat) (x : Handle) (s : State), bit < 10 ∧ awake s = true ∧ s.jobs[slotFin x.job] = none) ∧
  (∃ (h : BitVec 16) (b : Nat) (x : Handle) (f : Frame) (s : State), handleAt s h.toNat = some x ∧ h ≠ 0 ∧ tabFind (b / 1024) x.table = some f ∧ running s = true ∧ f.resident = true) ∧
  (∃ (b : Nat) (s : State), running s = true ∧ freePfn s (b / 1024) = true) ∧
  (∃ (s : State), running s = true ∧ (imbalanced s (channelCounts s) = false ∨ s.stk.imbRun + 1 ≠ 1024)) ∧
  (∃ (s : State), running s = true ∧ imbalanced s (channelCounts s) = true ∧ s.stk.imbRun + 1 = 1024) ∧
  (∃ (v : Word) (w : DWord) (s : State), running s = true ∧ anyJob s = false) ∧
  (∃ (v : Word) (b : Bool) (w : DWord) (s : State), running s = true ∧ anyJob s = true) :=
  ⟨⟨9, 0, (hnd inRam), inRam, (full inRam), rfl, rfl, rfl, rfl⟩,
   ⟨9, 0, rdy, rfl⟩,
   ⟨9, 0, (full inRam), rfl⟩,
   ⟨9, 0, ⟨List.replicate 65536 0, gcmTag (spillKeyBytes ({ rdy with stk := { rdy.stk with handles := [(9, { hnd inSpill with cls := .grad })] } })) (spillNonce inSpill.loc inSpill.counter) (spillAad inSpill.loc 9 0 inSpill.counter) (List.replicate 65536 0)⟩, (gcmCrypt (spillKeyBytes ({ rdy with stk := { rdy.stk with handles := [(9, { hnd inSpill with cls := .grad })] } })) (spillNonce inSpill.loc inSpill.counter) (List.replicate 65536 0)), { hnd inSpill with cls := .grad }, inSpill, { rdy with stk := { rdy.stk with handles := [(9, { hnd inSpill with cls := .grad })] } }, rfl, rfl, rfl, rfl, rfl, spill_opens _ _ _ _ _ List.length_replicate, by decide, rfl⟩,
   ⟨9, 0, inSpill, ⟨List.replicate 65536 0, []⟩, rdy, List.length_replicate⟩,
   ⟨9, 0, ⟨[], []⟩, { hnd inSpill with cls := .grad }, inSpill, { rdy with stk := { rdy.stk with handles := [(9, { hnd inSpill with cls := .grad })] } }, rfl, rfl, rfl, rfl, rfl⟩,
   ⟨9, 0x0303, 9, 0, (hnd inRam), rdy, by decide, rfl, rfl⟩,
   ⟨9, 1023, (hnd inRam), inRam, (held inRam rdy), rfl, by decide, rfl, rfl, rfl⟩,
   ⟨0, rdy, rfl, rfl⟩,
   ⟨rdy, rfl, .inl rfl⟩,
   ⟨hotWindow, rfl, (by rw [hot_counts]; decide), rfl⟩,
   ⟨5, 64, rdy, rfl, rfl⟩,
   ⟨5, true, 64, (withJob jobR rdy), rfl, rfl⟩⟩

theorem witness_StepsKeepTheInvariant :
  (∃ (s t : State), step s = .next t ∧ Inv s) :=
  ⟨{ rdy with pending := [.peakClr, .powerGet] }, { rdy with pending := [.powerGet] }, rfl, ⟨rfl, by decide, by decide, by decide, rfl⟩⟩

theorem witness_NoCommandUndoesWhatIsOneWay :
  (∃ (c : Instr) (s t : State), exec c s = .next t) :=
  ⟨.peakClr, rdy, rdy, rfl⟩

theorem witness_GlbIdReadsThePart :
  (∃ (s : State), awake s = true ∧ s.part = .hn7260) ∧
  (∃ (s : State), awake s = true ∧ s.part = .hn7240) ∧
  (∃ (s : State), awake s = true ∧ s.part = .hn7230) :=
  ⟨⟨rdy, rfl, rfl⟩,
   ⟨{ rdy with part := .hn7240 }, rfl, rfl⟩,
   ⟨{ rdy with part := .hn7230 }, rfl, rfl⟩⟩

theorem witness_AbsentUnitsAndUnalignedAccessesDoNothing :
  (∃ (l : Fin 8) (o : Fin 1024) (s : State), linkPresent s.part l.val = false) ∧
  (∃ (n : Fin 24) (o : Fin 256) (s : State), portPresent s.part n.val = false) ∧
  (∃ (l : Fin 8) (o : Fin 1024) (a : BitVec 24) (v : DWord) (s : State), linkPresent s.part l.val = false ∧ a.toNat = 0x90000 + 0x1000 * l.val + 4 * o.val) ∧
  (∃ (n : Fin 24) (o : Fin 256) (a : BitVec 24) (v : DWord) (s : State), portPresent s.part n.val = false ∧ a.toNat = 0x300000 + 0x400 * n.val + 4 * o.val) ∧
  (∃ (a : BitVec 24) (v : DWord) (s : State), a.toNat % 4 ≠ 0) ∧
  (∃ (a : BitVec 24) (v : DWord) (s : State), a.toNat % 8 ≠ 0) ∧
  (∃ (a n : Nat) (s : State), ¬ (n = 4 ∧ a % 4 = 0) ∧ ¬ (n = 8 ∧ a % 8 = 0)) :=
  ⟨⟨7, 1023, { rdy with part := .hn7230 }, rfl⟩,
   ⟨23, 255, { rdy with part := .hn7230 }, rfl⟩,
   ⟨7, 1023, 0x97FFC, 1, { rdy with part := .hn7230 }, rfl, rfl⟩,
   ⟨23, 255, 0x305FFC, 1, { rdy with part := .hn7230 }, rfl, rfl⟩,
   ⟨0x10006, 1, rdy, by decide⟩,
   ⟨0x10004, 1, rdy, by decide⟩,
   ⟨2, 4, rdy, by decide, by decide⟩⟩

theorem witness_J8AndBinary16GroupSumsAreExact :
  (∃ (a b : Nat), vIsFin (vMul (decodeF fJ8 a) (decodeF fJ8 b)) = true) ∧
  (∃ (a b : Nat), vIsFin (vMul (decodeF fB16 a) (decodeF fB16 b)) = true) ∧
  (∃ (f : Fmt) (ps : List (Nat × Nat)), (f = fJ8 ∨ f = fB16)) :=
  ⟨⟨0x7E, 0xFE, rfl⟩,
   ⟨0x7BFF, 0xFBFF, rfl⟩,
   ⟨fB16, [(0x7BFF, 0x7BFF), (1, 0x8001)], by decide⟩⟩

theorem witness_J8HasTwoNanCodesAndWritesOne :
  (∃ (a : Acc) (c : Conv), c.fmt = fJ8 ∧ vIsNan (decodeF fJ8 (convert a c).code) = true) :=
  ⟨⟨.fin false 0 0, true, false, false, false⟩, ⟨fJ8, .near, true, 0, none, none⟩, rfl, rfl⟩

theorem witness_WideningIsExact :
  (∃ (f g : Fmt) (c : Nat), ((f = fJ8 ∧ g = fB16) ∨ (f = fJ8 ∧ g = fB32) ∨ (f = fB16 ∧ g = fB32))) :=
  ⟨fB16, fB32, 0xFC00, .inr (.inr ⟨rfl, rfl⟩)⟩

end Sys2Proof.Tests
end

section
/-! What an access of the host to BAR0 does (R7, R13, R14, R369, R490): an access that is not naturally aligned does
nothing, a block takes what is written within its 64 KiB, and registers of an absent unit read 0 and ignore writes. -/

namespace Sys2Proof.Machine

/-! ### Which blocks answer -/

theorem awake_of_hostPath {s : State} (h : hostPath s = true) : awake s = true := by
  unfold hostPath at h
  exact (Bool.and_eq_true_iff.mp h).1

theorem served_of_awake {s : State} {off : Nat} (h : awake s = true) (ho : off < 0x50000) : served s off = true := by
  simp [served, h, ho]

theorem served_of_running {s : State} (off : Nat) (h : running s = true) : served s off = true := by
  simp [served, h]

/-! ### The address map of writes -/

/-- The unit that an offset lies in, of units laid out from a base at one distance. -/
theorem ofNat_div_block {n : Nat} [NeZero n] (i : Fin n) (base : Nat) {size o : Nat} (h : o < size) :
    Fin.ofNat n ((base + size * i.val + o - base) / size) = i := by
  apply Fin.ext
  rw [Nat.add_assoc, Nat.add_sub_cancel_left, Nat.mul_add_div (by omega), Nat.div_eq_of_lt h, Nat.add_zero, Fin.val_ofNat,
    Nat.mod_eq_of_lt i.isLt]

theorem writeAt_pwr (o : Nat) (v : Word) (s : State) (h : o < 0x10000) : writeAt (0x10000 + o) v s = pwrWrite o v s := by
  have hd : (0x10000 + o) / 0x10000 = 1 := by omega
  have hm : (0x10000 + o) % 0x10000 = o := by omega
  simp only [writeAt, hd, hm]

theorem writeAt_hif (o : Nat) (v : Word) (s : State) (h : o < 0x10000) : writeAt (0x40000 + o) v s = hifWrite o v s := by
  have hd : (0x40000 + o) / 0x10000 = 4 := by omega
  have hm : (0x40000 + o) % 0x10000 = o := by omega
  simp only [writeAt, hd, hm]

theorem writeAt_fab (o : Nat) (v : Word) (s : State) (h : o < 0x10000) : writeAt (0x90000 + o) v s = fabWrite o v s := by
  have hd : (0x90000 + o) / 0x10000 = 9 := by omega
  have hm : (0x90000 + o) % 0x10000 = o := by omega
  simp only [writeAt, hd, hm]

theorem writeAt_bnc (b : Fin 4) (o : Nat) (v : Word) (s : State) (h : o < 0x40000) :
    writeAt (0x100000 + 0x40000 * b.val + o) v s = bncWrite b o v s := by
  have hm : (0x100000 + 0x40000 * b.val + o) % 0x40000 = o := by omega
  unfold writeAt
  split
  case h_14 => rw [if_pos (by omega), ofNat_div_block b _ h, hm]
  all_goals omega

theorem writeAt_sns (n : Fin 24) (o : Nat) (v : Word) (s : State) (h : o < 0x400) :
    writeAt (0x300000 + 0x400 * n.val + o) v s = snsWrite n o v s := by
  have hm : (0x300000 + 0x400 * n.val + o) % 0x400 = o := by omega
  unfold writeAt
  split
  case h_14 =>
    rw [if_neg (by omega), if_neg (by omega), if_neg (by omega), if_pos (by omega), ofNat_div_block n _ h, hm]
  all_goals omega

/-! ### The address map of reads -/

theorem regsAt_fab (s : State) (o : Nat) (h : o < 0x10000) :
    regsAt s (0x90000 + o) = (fabRegs s o, o % 0x1000) := by
  have hd : (0x90000 + o) / 0x10000 = 9 := by omega
  have hm : (0x90000 + o) % 0x10000 = o := by omega
  simp only [regsAt, hd, hm]

theorem regsAt_sns (n : Fin 24) (o : Nat) (s : State) (h : o < 0x400) :
    regsAt s (0x300000 + 0x400 * n.val + o) = (if portPresent s.part n.val then snsRegs s.sns[n] else [], o) := by
  have hm : (0x300000 + 0x400 * n.val + o) % 0x400 = o := by omega
  unfold regsAt
  split
  case h_14 =>
    rw [if_neg (by omega), if_neg (by omega), if_neg (by omega), if_pos (by omega)]
    simp only [ofNat_div_block n _ h, hm]
  all_goals omega

/-! ### Absent units -/

theorem fabWrite_absent (l : Fin 8) (o : Nat) (v : Word) (s : State) (h : o < 0x1000)
    (hl : linkPresent s.part l.val = false) : fabWrite (0x1000 * l.val + o) v s = s := by
  have hd : (0x1000 * l.val + o) / 0x1000 = l.val := by omega
  simp [fabWrite, hd, hl]

theorem snsWrite_absent (n : Fin 24) (o : Nat) (v : Word) (s : State) (hn : portPresent s.part n.val = false) :
    snsWrite n o v s = s := by
  simp [snsWrite, hn]

theorem fabRegs_absent (l : Fin 8) (o : Nat) (s : State) (h : o < 0x1000) (hl : linkPresent s.part l.val = false) :
    fabRegs s (0x1000 * l.val + o) = [] := by
  have hd : (0x1000 * l.val + o) / 0x1000 = l.val := by omega
  simp [fabRegs, hd, hl]

/-! ### Reads -/

theorem readReg_of_none (s : State) (off : Nat) (h : (regsAt s off).1 = []) : readReg s off = 0 := by
  simp [readReg, h]

theorem readBar0_word (s : State) (off : Nat) (h : off % 4 = 0) : readBar0 s off 4 = (readReg s off).setWidth 64 := by
  simp [readBar0, h]

theorem readBar0_unaligned (s : State) (off n : Nat) (h4 : ¬ (n = 4 ∧ off % 4 = 0)) (h8 : ¬ (n = 8 ∧ off % 8 = 0)) :
    readBar0 s off n = 0 := by
  unfold readBar0
  rw [if_neg h4, if_neg h8]

theorem readReg_glbId (s : State) (h : awake s = true) : readReg s 0 = glbId s.part := by
  have hs : served s 0 = true := served_of_awake h (by decide)
  simp [readReg, hs, regsAt, glbRegs]

/-! ### Writes of the host -/

theorem exec_registerWrite (off : BitVec 24) (wide : Bool) (v : DWord) (s : State) :
    exec (.registerWrite off wide v) s = execRegisterWrite off wide v s := rfl

theorem registerWrite_unaligned (off : BitVec 24) (wide : Bool) (v : DWord) (s : State)
    (h : off.toNat % (if wide then 8 else 4) ≠ 0) : exec (.registerWrite off wide v) s = .next s := by
  simp [exec_registerWrite, execRegisterWrite, h]

theorem registerWrite_answers (off : BitVec 24) (wide : Bool) (v : DWord) (s : State) :
    ∃ t, exec (.registerWrite off wide v) s = .next t := by
  rw [exec_registerWrite]
  unfold execRegisterWrite
  by_cases h : (!hostPath s || off.toNat % (if wide then 8 else 4) != 0) = true
  · exact ⟨s, if_pos h⟩
  · rw [if_neg h]
    split <;> exact ⟨_, rfl⟩

/-- An aligned 4-byte write of the host to a block that answers. -/
theorem registerWrite_word (off : BitVec 24) (v : DWord) (s : State) (hp : hostPath s = true)
    (ha : off.toNat % 4 = 0) (hs : served s off.toNat = true) :
    exec (.registerWrite off false v) s = .next (writeAt off.toNat (loWord v) s) := by
  simp [exec_registerWrite, execRegisterWrite, writeReg, hp, ha, hs]

/-- A 4-byte write at an offset where the map holds no register that takes it changes nothing. -/
theorem registerWrite_ignored (off : BitVec 24) (v : DWord) (s : State) (h : ∀ w, writeAt off.toNat w s = s) :
    exec (.registerWrite off false v) s = .next s := by
  simp [exec_registerWrite, execRegisterWrite, writeReg, h]

theorem registerWrite_hif (o : Nat) (v : DWord) (s : State) (hp : hostPath s = true) (ho : o < 0x10000)
    (ha : o % 4 = 0) :
    exec (.registerWrite (BitVec.ofNat 24 (0x40000 + o)) false v) s = .next (hifWrite o (loWord v) s) := by
  have hn : (BitVec.ofNat 24 (0x40000 + o)).toNat = 0x40000 + o := by
    rw [BitVec.toNat_ofNat]
    omega
  rw [registerWrite_word _ v s hp (by omega) (served_of_awake (awake_of_hostPath hp) (by omega)), hn,
    writeAt_hif o _ s ho]

end Sys2Proof.Machine
end

section
/-! What a write of the host stores, register by register (R13, R89, R389 to R392, R484). -/

namespace Sys2Proof.Machine

theorem bitAt_loWord (v : DWord) (i : Nat) (h : i < 32) : bitAt (loWord v) i = bitAt v i := by
  simp [bitAt, loWord, h]

/-- A 1 in bit 31 of a counter's high half, its SAT bit, clears that counter alone (R89). -/
theorem ctrPut_sat {n : Nat} (base : Nat) (i : Fin n) (v : Word) (cs : Vector Ctr n) (hv : bitAt v 31 = true) :
    ctrPut base (base + 8 * i.val + 4) v cs = cs.set i Ctr.zero := by
  have hi : i.val < n := i.isLt
  have hd : (base + 8 * i.val + 4 - base) / 8 = i.val := by omega
  have hc : base ≤ base + 8 * i.val + 4 ∧ (base + 8 * i.val + 4 - base) % 8 = 4 ∧
      (base + 8 * i.val + 4 - base) / 8 < n := by omega
  unfold ctrPut
  rw [dif_pos hc, if_pos hv]
  simp only [hd]

theorem hifWrite_opcode (v : Word) (s : State) :
    hifWrite 0x10 v s = { s with hif := { s.hif with opcode := v.setWidth 8 } } := rfl

theorem hifWrite_fault (v : Word) (s : State) :
    hifWrite 0x08 v s = { s with hif := { s.hif with fault := w1c s.hif.fault v } } := rfl

theorem hifWrite_arg (k : Fin 4) (v : Word) (s : State) :
    hifWrite (0x14 + 4 * k.val) v s = { s with hif := { s.hif with args := s.hif.args.set k v } } := by
  have hk : k.val < 4 := k.isLt
  have hd : (0x14 + 4 * k.val - 0x14) / 4 = k.val := by omega
  unfold hifWrite
  rw [if_neg (by omega), if_neg (by omega), dif_pos (by omega)]
  simp only [hd]

theorem hifWrite_doorbell (v : Word) (s : State) (h : hostPath s = true) :
    hifWrite 0x24 v s = ringDoorbell (v.setWidth 16) s := by
  simp [hifWrite, execCmdDoorbell, h, outState]

theorem bncWrite_sat (b : Fin 4) (i : Fin 7) (v : Word) (s : State) (hv : bitAt v 31 = true) :
    bncWrite b (0x18 + 8 * i.val + 4) v s = setBnc b (fun x => { x with ctrs := x.ctrs.set i Ctr.zero }) s := by
  unfold bncWrite
  rw [if_neg (by omega), if_neg (by omega)]
  simp only [ctrPut_sat 0x18 i v _ hv]

/-- A write of the host to the high half of bench counter i. -/
theorem registerWrite_bncCtr (b : Fin 4) (i : Fin 7) (v : DWord) (s : State) (hp : hostPath s = true)
    (hr : running s = true) (hv : bitAt v 31 = true) :
    exec (.registerWrite (BitVec.ofNat 24 (0x10001C + 0x40000 * b.val + 8 * i.val)) false v) s =
      .next (setBnc b (fun x => { x with ctrs := x.ctrs.set i Ctr.zero }) s) := by
  have hb : b.val < 4 := b.isLt
  have hi : i.val < 7 := i.isLt
  have hn : (BitVec.ofNat 24 (0x10001C + 0x40000 * b.val + 8 * i.val)).toNat =
      0x100000 + 0x40000 * b.val + (0x18 + 8 * i.val + 4) := by
    rw [BitVec.toNat_ofNat]
    omega
  rw [registerWrite_word _ v s hp (by omega) (served_of_running _ hr), hn, writeAt_bnc b _ _ s (by omega),
    bncWrite_sat b i _ s (by rw [bitAt_loWord v 31 (by decide)]; exact hv)]

/-- Clearing counter i of bench b: the other counters and benches stay. -/
theorem setBnc_clearCtr (b : Fin 4) (i : Fin 7) (s : State) :
    let t := setBnc b (fun x => { x with ctrs := x.ctrs.set i Ctr.zero }) s
    t.bnc[b].ctrs[i] = ⟨0, false⟩ ∧ (∀ k : Fin 7, k ≠ i → t.bnc[b].ctrs[k] = s.bnc[b].ctrs[k]) ∧
      ∀ c : Fin 4, c ≠ b → t.bnc[c] = s.bnc[c] := by
  refine ⟨?_, fun k hk => ?_, fun c hc => upd_other s.bnc b c _ hc⟩
  · simp [Ctr.zero]
  · have e : i.val ≠ k.val := fun x => hk (Fin.ext x.symm)
    simp [e]

/-- Settles O8: an aligned write reaches the register of its offset, whose own write rule then applies. -/
theorem registerWritesActAsTheMapSays : Obligations.RegisterWritesActAsTheMapSays := by
  refine ⟨registerWrite_unaligned, fun off wide v s => ?_, fun v s hp => ?_, fun k v s hp => ?_, fun v s hp => ?_,
    fun v s hp => ?_, fun v s hp => ?_, fun b i v s hp hr hv => ?_⟩
  · obtain ⟨t, ht⟩ := registerWrite_answers off wide v s
    have g : Good s t := (good_exec _ s (Good.refl s)).good t ht
    exact ⟨t, ht, g.oneWay.part, g.oneWay.serial⟩
  · rw [show (0x40010 : BitVec 24) = BitVec.ofNat 24 (0x40000 + 0x10) from rfl,
      registerWrite_hif 0x10 v s hp (by decide) (by decide), hifWrite_opcode]
    simp [loWord]
  · have hk : k.val < 4 := k.isLt
    rw [show 0x40014 + 4 * k.val = 0x40000 + (0x14 + 4 * k.val) by omega,
      registerWrite_hif _ v s hp (by omega) (by omega), hifWrite_arg]
    rfl
  · rw [show (0x40024 : BitVec 24) = BitVec.ofNat 24 (0x40000 + 0x24) from rfl,
      registerWrite_hif 0x24 v s hp (by decide) (by decide), hifWrite_doorbell _ s hp]
    simp [exec, execCmdDoorbell, hp, loWord]
  · rw [show (0x40008 : BitVec 24) = BitVec.ofNat 24 (0x40000 + 0x08) from rfl,
      registerWrite_hif 0x08 v s hp (by decide) (by decide), hifWrite_fault]
    rfl
  · rw [registerWrite_word _ v s hp (by decide) (served_of_awake (awake_of_hostPath hp) (by decide)),
      show (0x10004 : BitVec 24).toNat = 0x10000 + 0x04 from rfl, writeAt_pwr 0x04 _ s (by decide)]
    simp [pwrWrite, loWord]
  · obtain ⟨hc, ho, hb⟩ := setBnc_clearCtr b i s
    exact ⟨_, registerWrite_bncCtr b i v s hp hr hv, hc, ho, hb, rfl⟩

/-- Settles O53: absent units have no registers on the map, and an access that is not aligned reaches none. -/
theorem absentUnitsAndUnalignedAccessesDoNothing : Obligations.AbsentUnitsAndUnalignedAccessesDoNothing := by
  refine ⟨fun l o s hl => ?_, fun n o s hn => ?_, fun l o a v s hl ha => ?_, fun n o a v s hn ha => ?_,
    fun a v s ha => registerWrite_unaligned a false v s ha, fun a v s ha => registerWrite_unaligned a true v s ha,
    fun a n s h4 h8 => readBar0_unaligned s a n h4 h8⟩
  · have hr : (regsAt s (0x90000 + 0x1000 * l.val + 4 * o.val)).1 = [] := by
      rw [Nat.add_assoc, regsAt_fab s _ (by omega), fabRegs_absent l _ s (by omega) hl]
    rw [readBar0_word _ _ (by omega), readReg_of_none _ _ hr]
    rfl
  · have hr : (regsAt s (0x300000 + 0x400 * n.val + 4 * o.val)).1 = [] := by
      rw [regsAt_sns n _ s (by omega), hn]
      rfl
    rw [readBar0_word _ _ (by omega), readReg_of_none _ _ hr]
    rfl
  · refine registerWrite_ignored a v s fun w => ?_
    rw [ha, Nat.add_assoc, writeAt_fab _ w s (by omega), fabWrite_absent l _ w s (by omega) hl]
  · refine registerWrite_ignored a v s fun w => ?_
    rw [ha, writeAt_sns n _ w s (by omega), snsWrite_absent n _ w s hn]

/-- Settles O52: GLB_ID is the first register of the GLB block, which answers whenever the module is awake. -/
theorem glbIdReadsThePart : Obligations.GlbIdReadsThePart := by
  have read : ∀ s : State, awake s = true → readBar0 s 0 4 = (glbId s.part).setWidth 64 := fun s h => by
    rw [readBar0_word s 0 rfl, readReg_glbId s h]
  refine ⟨fun s h hp => ?_, fun s h hp => ?_, fun s h hp => ?_⟩ <;>
  · rw [read s h, hp]
    rfl

/-- Settles O1: `step` is defined by the front of the queue. -/
theorem stepRunsTheFrontCommand : Obligations.StepRunsTheFrontCommand :=
  fun _ _ _ => rfl

end Sys2Proof.Machine
end

section
/-! Debug sessions (R395, R415, R416): what a command of the command processor finds when it runs, what a result leaves of
the management port, and the keys that DEBUG_OPEN revokes. -/

namespace Sys2Proof.Machine

open Sys2Proof.Claims

/-- The main rails' state is the boot's. -/
theorem awake_of_glb {s t : State} (h : t.glb = s.glb) (ha : awake s = true) : awake t = true := by
  rw [awake, h]
  exact ha

/-! ### A command that runs -/

theorem takeCmd_awake {c : Cmd} {op : Byte} {s t : State} (h : takeCmd c op s = some t) : awake s = true := by
  unfold takeCmd at h
  split at h
  · cases h
  case isFalse hg =>
    simp only [Bool.or_eq_true, not_or, Bool.not_eq_true, Bool.not_eq_false'] at hg
    exact hg.1.2

/-- Of the management port, taking a command changes the time of the last request alone. -/
theorem takeCmd_mgmt {c : Cmd} {op : Byte} {s t : State} (h : takeCmd c op s = some t) :
    t.mgmt = { s.mgmt with lastUse := t.mgmt.lastUse } := by
  unfold takeCmd at h
  split at h
  · cases h
  · split at h
    · split at h
      · cases h
      · split at h
        · cases h; rfl
        · cases h
    · split at h
      · cases h; rfl
      · cases h

/-- The command processor is powered where a command runs. -/
theorem runs_awake {c : Cmd} {op : Byte} {s s1 : State} (h : Runs c op s s1) : awake s1 = true := by
  obtain ⟨ht, -, -⟩ := h
  have ha : awake s = true := takeCmd_awake ht
  exact awake_of_glb (by rw [takeCmd_frame c op s s1 ht]) ha

/-- Being taken, a command changes the host interface or the management port alone. -/
theorem runs_frame {c : Cmd} {op : Byte} {s s1 : State} (h : Runs c op s s1) :
    s1 = { s with hif := s1.hif, mgmt := s1.mgmt } :=
  takeCmd_frame c op s s1 h.1

theorem runs_mgmt {c : Cmd} {op : Byte} {s s1 : State} (h : Runs c op s s1) :
    s1.mgmt = { s.mgmt with lastUse := s1.mgmt.lastUse } :=
  takeCmd_mgmt h.1

/-- A command that runs has its effect k. -/
theorem runCmd_of_runs {c : Cmd} {op : Byte} {s s1 : State} (h : Runs c op s s1) (k : Pend → State → State) :
    runCmd c op false k s = .next (k (pendOf c op s1) s1) := by
  obtain ⟨ht, hg, hk⟩ := h
  exact runCmd_runs c op k s s1 ht hg hk

/-- A result changes no more of the management port than its output. -/
theorem answer_mgmt (p : Pend) (st : Byte) (fin : Bool) (a b c d : Word) (s : State) :
    (answer p st fin a b c d s).mgmt = { s.mgmt with out := (answer p st fin a b c d s).mgmt.out } := by
  unfold answer
  split
  · split
    · rw [putResult_frame]
      split <;> rfl
    · rfl
  · split <;> rfl

theorem endWith_mgmt (p : Pend) (st : Byte) (s : State) :
    (endWith p st s).mgmt = { s.mgmt with out := (endWith p st s).mgmt.out } := answer_mgmt ..

theorem endOpt_awake (p : Option Pend) (st : Byte) (s : State) (h : awake s = true) : (endOpt p st s).aon = s.aon := by
  cases p
  · rfl
  · exact endWith_awake _ _ s h

/-! ### The loads of a key -/

/-- The commands that wait for a load of key k: no more than their answers change. -/
theorem endLoads_frame (st : Byte) (k : Fin 4) (s : State) :
    endLoads st k s = { s with
      hif := (endLoads st k s).hif
      mgmt := (endLoads st k s).mgmt
      evt := (endLoads st k s).evt
      aon := (endLoads st k s).aon } := by
  unfold endLoads
  split
  · split
    · rw [endOpt_frame]
    · rfl
  · rfl

theorem endLoads_awake (st : Byte) (k : Fin 4) (s : State) (h : awake s = true) : (endLoads st k s).aon = s.aon := by
  unfold endLoads
  split
  · split
    · exact endOpt_awake _ _ s h
    · rfl
  · rfl

/-! ### Revoking keys while no job holds a slot -/

theorem jobs_of_anyJob {s : State} (h : anyJob s = false) (j : Fin 4) : s.jobs[j] = none := by
  have hm : s.jobs[j] ∈ s.jobs.toList := by simp
  simpa using List.any_eq_false.mp h _ hm

theorem keyTensors_of_anyJob {s : State} (h : anyJob s = false) (k : Nat) : keyTensors s k = [] := by
  simp only [keyTensors, jobs_of_anyJob h, List.flatMap_eq_nil_iff, implies_true]

theorem keyJobs_of_anyJob {s : State} (h : anyJob s = false) (k : Nat) : keyJobs s k = [] := by
  rw [keyJobs, List.filter_eq_nil_iff]
  intro j _
  simp only [jobs_of_anyJob h, Bool.false_eq_true, not_false_eq_true]

/-- t is s after steps 1 and 2 of R416 for the keys of a list: those are erased; the other keys, the counters of the unit,
the jobs, the boot and the AON block stand. -/
structure Revoked (ks : List (Fin 4)) (s t : State) : Prop where
  keys : ∀ k : Fin 4, t.sec.keys[k] = if k ∈ ks then none else s.sec.keys[k]
  ctrs : t.sec.ctrs = s.sec.ctrs
  jobs : t.jobs = s.jobs
  glb : t.glb = s.glb
  aon : t.aon = s.aon

theorem Revoked.nil (s : State) : Revoked [] s s := ⟨fun _ => by simp, rfl, rfl, rfl, rfl⟩

theorem Revoked.cons {k : Fin 4} {ks : List (Fin 4)} {s u t : State} (h : Revoked [k] s u) (r : Revoked ks u t) :
    Revoked (k :: ks) s t := by
  refine ⟨fun i => ?_, r.ctrs.trans h.ctrs, r.jobs.trans h.jobs, r.glb.trans h.glb, r.aon.trans h.aon⟩
  rw [r.keys i, h.keys i]
  by_cases hi : i = k
  · simp [hi]
  · simp [hi]

theorem revokeKey_revoked {s : State} (hj : anyJob s = false) (ha : awake s = true) (k : Fin 4) :
    Revoked [k] s (revokeKey s k) := by
  have hf := endLoads_frame stAborted k s
  have haon := endLoads_awake stAborted k s ha
  have hrun : revokeKey s k = eraseKey k (endLoads stAborted k s) := by
    have hj' : anyJob (endLoads stAborted k s) = false := by rw [hf]; exact hj
    simp only [revokeKey, zeroKeyTensors, keyTensors_of_anyJob hj', keyJobs_of_anyJob hj, List.foldl_nil]
  rw [hrun]
  generalize endLoads stAborted k s = u at hf haon ⊢
  refine ⟨fun i => ?_, by rw [hf]; rfl, by rw [hf]; rfl, by rw [hf]; rfl, haon⟩
  rw [hf]
  by_cases hi : i = k
  · subst hi
    simp [eraseKey]
  · have e : k.val ≠ i.val := fun x => hi (Fin.ext x.symm)
    simp [eraseKey, hi, e]

theorem foldl_revokeKey : ∀ (ks : List (Fin 4)) (s : State), anyJob s = false → awake s = true →
    Revoked ks s (ks.foldl revokeKey s)
  | [], s, _, _ => Revoked.nil s
  | k :: ks, s, hj, ha =>
    have h := revokeKey_revoked hj ha k
    h.cons (foldl_revokeKey ks _ (by rw [anyJob, h.jobs]; exact hj) (awake_of_glb h.glb ha))

theorem revokeKeys_revoked {s : State} (hj : anyJob s = false) (ha : awake s = true) :
    Revoked (revocable s) s (revokeKeys s) := by
  unfold revokeKeys
  split
  case h_1 hr => rw [hr]; exact Revoked.nil s
  case h_2 k rest hr =>
    rw [hr]
    have r := foldl_revokeKey (k :: rest) s hj ha
    generalize (k :: rest).foldl revokeKey s = u at r ⊢
    have hu : awake (secFault 4 k.val 0 u) = true := awake_of_glb r.glb ha
    refine ⟨fun i => ?_, ?_, ?_, ?_, ?_⟩
    · rw [post_sec]; exact r.keys i
    · rw [post_sec]; exact r.ctrs
    · rw [post_jobs]; exact r.jobs
    · rw [post_glb]; exact r.glb
    · rw [post_awake _ _ hu]; exact r.aon

theorem mem_revocable {s : State} {k : Fin 4} : k ∈ revocable s ↔ ∃ m, s.sec.keys[k] = some m ∧ m.revoke = true := by
  unfold revocable
  rw [List.mem_filter]
  cases s.sec.keys[k] <;> simp

/-- Revoking leaves exactly the keys that were released without DEBUG_REVOKE. -/
theorem revokeKeys_keys {s : State} (hj : anyJob s = false) (ha : awake s = true) (k : Fin 4) :
    (revokeKeys s).sec.keys[k] = (s.sec.keys[k]).filter fun m => !m.revoke := by
  rw [(revokeKeys_revoked hj ha).keys k]
  cases hk : s.sec.keys[k] with
  | none => simp
  | some m => cases hr : m.revoke <;> simp [mem_revocable, hk, hr, Option.filter]

/-! ### DEBUG_OPEN and DEBUG_CLOSE -/

theorem debugOpenRun_sec (c : Cmd) (p : Pend) (s : State) :
    (debugOpenRun c p s).sec =
      { (revokeKeys s).sec with ctrs := upd (revokeKeys s).sec.ctrs 3 (ctrAdd · 1) } := by
  simp [debugOpenRun, debugRecord]

/-- The record of DEBUG_OPEN extends MR3 (R395). -/
theorem debugOpenRun_aon (c : Cmd) (p : Pend) {s : State} (hj : anyJob s = false) (ha : awake s = true) :
    (debugOpenRun c p s).aon = { s.aon with debugSeen := true, mr3 := s.aon.mr3 ++
      [⟨1, (c.a0.setWidth 3).setWidth 8, (revokeKeys s).mgmt.session.getD 0, s.aon.time⟩] } := by
  have r := revokeKeys_revoked hj ha
  have hr : awake (revokeKeys s) = true := awake_of_glb r.glb ha
  unfold debugOpenRun
  generalize revokeKeys s = u at r hr ⊢
  dsimp only
  rw [endWith_awake, post_awake]
  · dsimp only
    rw [bumpSec_awake _ _ _ (awake_of_glb rfl hr : awake (debugRecord 1 _ u) = true), debugRecord, r.aon]
  · exact awake_of_glb rfl hr
  · exact awake_of_glb (post_glb ..) hr

theorem debugOpenRun_mgmt (c : Cmd) (p : Pend) (s : State) :
    (debugOpenRun c p s).mgmt.debugOpen = true ∧ (debugOpenRun c p s).mgmt.paths = c.a0.setWidth 3 := by
  unfold debugOpenRun
  rw [endWith_mgmt, post_mgmt]
  exact ⟨rfl, rfl⟩

/-- What the end of a debug session can change: the port, the AON block's records and the collector. -/
theorem closeDebug_frame (s : State) : closeDebug s = { s with
    mgmt := (closeDebug s).mgmt, aon := (closeDebug s).aon, evt := (closeDebug s).evt } := by
  unfold closeDebug closeDebugRecord postIf
  cases s.mgmt.debugOpen <;> rfl

theorem closeDebug_open {s : State} (h : s.mgmt.debugOpen = true) (ha : awake s = true) :
    (closeDebug s).mgmt = { s.mgmt with debugOpen := false, paths := 0 } ∧
    (closeDebug s).aon = { s.aon with mr3 := s.aon.mr3 ++
      [⟨2, s.mgmt.paths.setWidth 8, s.mgmt.session.getD 0, s.aon.time⟩] } ∧
    awake (closeDebug s) = true := by
  have hr : closeDebugRecord s = { s with
      aon := { s.aon with mr3 := s.aon.mr3 ++
        [⟨2, s.mgmt.paths.setWidth 8, s.mgmt.session.getD 0, s.aon.time⟩] }
      mgmt := { s.mgmt with debugOpen := false, paths := 0 } } := if_pos h
  unfold closeDebug
  rw [hr, postIf_awake]
  · exact ⟨rfl, rfl, ha⟩
  · exact ha

theorem exec_debugOpen {c : Cmd} {s s1 : State} (h : Runs c 0x82 s s1) (hb : bitsFrom c.a0 3 = false) :
    exec (.debugOpen c) s = .next (debugOpenRun c (pendOf c 0x82 s1) s1) := by
  change runCmd c 0x82 (bitsFrom c.a0 3) (debugOpenRun c) s = _
  rw [hb]
  exact runCmd_of_runs h _

theorem exec_debugClose {c : Cmd} {s s1 : State} (h : Runs c 0x83 s s1) :
    exec (.debugClose c) s = .next (endWith (pendOf c 0x83 s1) stDone (closeDebug s1)) :=
  runCmd_of_runs h fun p s1 => endWith p stDone (closeDebug s1)

/-- Settles O27: `revokeKeys` leaves the keys that are not revocable, and runs before the paths open. -/
theorem debugSessionsRevokeKeysFirst : Obligations.DebugSessionsRevokeKeysFirst := by
  refine ⟨fun c s s1 h hb hj => ?_, fun c s s1 h ho => ?_⟩
  · have hs1 := runs_frame h
    have ha1 := runs_awake h
    have hj1 : anyJob s1 = false := by rw [hs1]; exact hj
    have hsec : s1.sec = s.sec := by rw [hs1]
    have haon : s1.aon = s.aon := by rw [hs1]
    obtain ⟨hopen, hpaths⟩ := debugOpenRun_mgmt c (pendOf c 0x82 s1) s1
    have hmr := debugOpenRun_aon c (pendOf c 0x82 s1) hj1 ha1
    refine ⟨_, exec_debugOpen h hb, hopen, hpaths, fun k m hm => ?_, fun k m hm hr => ?_, ?_, ?_, ?_⟩
    · rw [debugOpenRun_sec, revokeKeys_keys hj1 ha1, Option.filter_eq_some_iff] at hm
      simpa using hm.2
    · rw [debugOpenRun_sec, revokeKeys_keys hj1 ha1, hsec, hm]
      simp [Option.filter, hr]
    · rw [hmr]
    · exact ⟨_, by rw [hmr, haon], rfl, rfl⟩
    · rw [debugOpenRun_sec, (revokeKeys_revoked hj1 ha1).ctrs, hsec]
      exact upd_same s.sec.ctrs 3 _
  · have hs1 := runs_frame h
    have ho1 : s1.mgmt.debugOpen = true := by rw [runs_mgmt h]; exact ho
    obtain ⟨hmgmt, haon, hau⟩ := closeDebug_open ho1 (runs_awake h)
    have hm := endWith_mgmt (pendOf c 0x83 s1) stDone (closeDebug s1)
    have ha := endWith_awake (pendOf c 0x83 s1) stDone (closeDebug s1) hau
    refine ⟨_, exec_debugClose h, ?_, ?_, ⟨_, by rw [ha, haon, hs1], rfl⟩, ?_⟩
    · rw [hm, hmgmt]
    · rw [hm, hmgmt]
    · have hw := endWith_frame (pendOf c 0x83 s1) stDone (closeDebug s1)
      have hu := closeDebug_frame s1
      generalize endWith (pendOf c 0x83 s1) stDone (closeDebug s1) = t at hw ⊢
      generalize closeDebug s1 = u at hu hw
      conv => lhs; rw [hw, hu, hs1]

end Sys2Proof.Machine
end

section
/-! Messages that arrive, and the messages that make up a workshop (R277 to R282). -/

namespace Sys2Proof.Machine

open Sys2Proof.Claims

/-! ### Delivery -/

/-- Of the workshop, the flits of a message change only who is quiet and when a member was last heard (R278). -/
theorem acceptFlits_ws (l : Fin 8) (h : MsgHdr) (s : State) : (acceptFlits l h s).ws =
    { s.ws with quiet := (acceptFlits l h s).ws.quiet, heard := (acceptFlits l h s).ws.heard } := by
  unfold acceptFlits dataBack
  dsimp only
  split <;> rfl

theorem msgOk_acceptFlits (l : Fin 8) (h : MsgHdr) (s : State) : msgOk (acceptFlits l h s) h = msgOk s h := by
  rw [msgOk, acceptFlits_ws]
  rfl

theorem forMe_acceptFlits (l : Fin 8) (h : MsgHdr) (s : State) : forMe (acceptFlits l h s) h = forMe s h := by
  rw [forMe, acceptFlits_ws]
  rfl

/-- A message that arrives is delivered to its effect k. -/
theorem recv_of_arrives {l : Fin 8} {h : MsgHdr} {s : State} (a : Arrives l h s) (p : Payload) (k : State → State) :
    recv l h p k s = .next (k (delivered l h p s)) := by
  obtain ⟨hc, hd, hr, hf, hok, hme⟩ := a
  simp only [recv, delivered, hc, hd, hr, hf, msgOk_acceptFlits, hok, forMe_acceptFlits, hme, Bool.not_true,
    Bool.or_self, Bool.false_eq_true, if_false]

/-! ### Sending leaves the workshop's membership -/

theorem enqueue_ws (l : Fin 8) (x : Sent) (s : State) : (enqueue l x s).ws = s.ws := rfl

theorem foldl_enqueue_ws (f : State → Sent) : ∀ (ls : List (Fin 8)) (s : State),
    (ls.foldl (fun s' l => enqueue l (f s') s') s).ws = s.ws
  | [], _ => rfl
  | _ :: ls, _ => foldl_enqueue_ws f ls _

/-- A message handed to the links changes of the workshop the counters alone. -/
theorem send_ws (dst : BitVec 16) (kind : Byte) (arg : BitVec 16) (p : Payload) (s : State) :
    (send dst kind arg p s).ws = { s.ws with ctrs := (send dst kind arg p s).ws.ctrs } := by
  unfold send
  dsimp only
  split
  · rw [foldl_enqueue_ws]
    rfl
  · split
    · rfl
    · unfold sendTo
      split <;> rfl

theorem sendCoord_ws (kind : Byte) (arg : BitVec 16) (p : Payload) (s : State) :
    (sendCoord kind arg p s).ws = { s.ws with ctrs := (sendCoord kind arg p s).ws.ctrs } := by
  unfold sendCoord
  split
  · exact send_ws ..
  · rfl

theorem sendCoord_of_outside (kind : Byte) (arg : BitVec 16) (p : Payload) {s : State} (h : isMember s = false) :
    sendCoord kind arg p s = s := by
  simp [sendCoord, h]

theorem tellArrivals_ws (kind : Byte) (p : Payload) (view : List Member) (s : State) :
    (tellArrivals kind p view s).ws = s.ws :=
  foldl_enqueue_ws _ _ _

/-! ### Joining -/

theorem takeJoin_otherImage (h : MsgHdr) (r : JoinReq) {s : State} (hc : isCoord s = true)
    (hi : r.imageId ≠ imageIdOf s) : takeJoin h r s = refuseJoin h r s := by
  simp [takeJoin, hc, hi]

theorem takeJoin_arrival (h : MsgHdr) (r : JoinReq) {s : State} (hc : isCoord s = true) (hi : r.imageId = imageIdOf s)
    (hb : bitAt h.arg 15 = false) (ha : ∀ a ∈ s.ws.arrivals, a.serial ≠ r.serial)
    (hm : ∀ m ∈ s.ws.members, m.serial ≠ r.serial) :
    takeJoin h r s =
      changeAtBoundary { s with ws := { s.ws with arrivals := s.ws.arrivals ++ [⟨r.serial, r.claim, r.jobs⟩] } } := by
  have ha' : (s.ws.arrivals.any fun a => a.serial == r.serial) = false := by simpa using ha
  have hm' : (s.ws.members.any fun m => m.serial == r.serial) = false := by simpa using hm
  simp [takeJoin, hc, hi, hb, ha', hm']

theorem takeJoin_notCoord (h : MsgHdr) (r : JoinReq) {s : State} (hc : isCoord s = false) : takeJoin h r s = s := by
  simp [takeJoin, hc]

theorem takeRefused_here {h : MsgHdr} (s : State) (hd : h.dst ≠ 0xFFFE) :
    (takeRefused h s).ws.joinRefused = true ∧ bitAt (takeRefused h s).ws.fault 2 = true := by
  rw [takeRefused, if_neg hd]
  refine ⟨rfl, ?_⟩
  simp [bitAt, orBit]

theorem changeAtBoundary_waits {s : State} (hn : changeDue s = false ∨ fabricShut s = false)
    (ho : changeOpen s = true) : changeAtBoundary s = s := by
  have hc : (changeDue s && fabricShut s) = false := by
    rcases hn with h | h <;> simp [h]
  simp [changeAtBoundary, changeShut, lateRest, hc, ho]

/-- Outside a workshop, and while no JOIN has been refused, the JOIN is sent on the first link to a member (R277). -/
theorem sendJoin_first {s : State} (hm : isMember s = false) (hr : s.ws.joinRefused = false) {l : Fin 8}
    {ls : List (Fin 8)} (hl : memberLinks s = l :: ls) :
    sendJoin s = { sendOn l 0 0x09 0 (.join ⟨s.serial, s.fls.claim.toNat, imageIdOf s, jobMask s⟩) s with
      ws := { s.ws with joinSent := true } } := by
  simp only [sendJoin, hl, hm, hr, Bool.or_self, Bool.false_eq_true, if_false]

/-- The JOINs of a member's jobs are none of a module outside. -/
theorem foldl_askJoin_outside {s : State} (h : isMember s = false) : ∀ ids : List Nat,
    ids.foldl (fun s' i => askJoin i s') s = s
  | [] => rfl
  | i :: ids => by
    have hi : askJoin i s = s := by
      unfold askJoin
      split
      · rfl
      · exact sendCoord_of_outside _ _ _ h
    rw [List.foldl_cons, hi]
    exact foldl_askJoin_outside h ids

theorem execJoinRepeat_outside {s : State} (hf : fwRuns s = true) (hm : isMember s = false)
    (hr : s.ws.joinRefused = false) {l : Fin 8} {ls : List (Fin 8)} (hl : memberLinks s = l :: ls) :
    execJoinRepeat s = .next { sendOn l 0 0x09 0 (.join ⟨s.serial, s.fls.claim.toNat, imageIdOf s, jobMask s⟩) s with
      ws := { s.ws with joinSent := true } } := by
  rw [execJoinRepeat, if_pos hf, sendJoin_first hm hr hl]
  exact congrArg _ (foldl_askJoin_outside (by simpa [isMember] using hm) _)

theorem execFormWaitExpiry_forms (r : List Arrival) {s : State} (hf : fwRuns s = true) (hb : bootDone s = true)
    (hi : s.img ≠ none) (hu : s.ws.state = .unjoined) (hl : memberLinks s = [])
    (hr : r.all (claimBelow (selfArrival s)) = true) : execFormWaitExpiry r s = .next (form r s) := by
  have hi' : s.img.isSome = true := Option.isSome_iff_ne_none.mpr hi
  simp only [execFormWaitExpiry, hf, hb, hi', hu, hl, hr, beq_self_eq_true, List.isEmpty_nil, Bool.and_self, if_true]

/-! ### Epoch changes -/

theorem takePropose_view (l : Fin 8) (p : Proposal) {s : State} (hm : isMember s = true) (hc : isCoord s = false)
    (he : s.ws.epoch.toNat < p.epoch.toNat) :
    (takePropose l p s).ws.view = some (p.epoch, deriveMembers s.ws.members p) := by
  have hne : p.epoch ≠ s.ws.epoch := fun e => by
    rw [e] at he
    exact Nat.lt_irrefl _ he
  have hrun : takePropose l p s = tellArrivals 0x0B (.propose p) (deriveMembers s.ws.members p)
      (sendCoord 0x0C 0 (.accept p.epoch (deriveMembers s.ws.members p))
        { s with ws := { s.ws with view := some (p.epoch, deriveMembers s.ws.members p) } }) := by
    simp [takePropose, hm, hc, he, hne]
  rw [hrun, tellArrivals_ws, sendCoord_ws]

theorem takePropose_old (l : Fin 8) (p : Proposal) {s : State} (hm : isMember s = true)
    (hp : p.epoch.toNat ≤ s.ws.epoch.toNat) (he : epochEnd s = false) : takePropose l p s = s := by
  simp [takePropose, hm, he, Nat.not_lt.mpr hp]

theorem takeAccept_member (h : MsgHdr) (v : List Member) {m : Member} {c : Change_} {s : State}
    (hch : s.ws.change = some c) (hc : isCoord s = true) (hb : bitAt h.arg 15 = false)
    (hl : isLiveRank s h.src.toNat = true) (hm : s.ws.members.find? (·.rank == h.src.toNat) = some m) :
    takeAccept h c.prop.epoch v s = if v = c.view then noteAccept c m.serial s else departedNow h.src.toNat s := by
  simp [takeAccept, hc, hch, hb, hl, hm]

theorem takeEnact_old {e : Enactment} {s : State} (hu : s.ws.state ≠ .unjoined)
    (he : e.wsId ≠ s.ws.id ∨ e.epoch.toNat ≤ s.ws.epoch.toNat) : takeEnact e s = s := by
  rcases he with h | h
  · simp [takeEnact, hu, h]
  · simp [takeEnact, hu, Nat.not_lt.mpr h]

theorem takeDissolve_other {w : DWord} {s : State}
    (h : isMember s = false ∨ w ≠ s.ws.id ∨ s.ws.dissolving = true) : takeDissolve w s = s := by
  rcases h with h | h | h <;> simp [takeDissolve, h]

theorem takeDissolve_own {s : State} (hm : isMember s = true) (hd : s.ws.dissolving = false) :
    takeDissolve s.ws.id s = if isCoord s then dissolveAll s else dissolve s := by
  simp [takeDissolve, hm, hd]

theorem adoptView_state (e : Enactment) (m : Member) (s : State) :
    (adoptView e m s).ws.state = .coordinator ↔ m.rank = 0 := by
  simp only [adoptView]
  split <;> simp [*]

/-! ### The derived membership -/

theorem insertArrival_length (a : Arrival) : ∀ l : List Arrival, (insertArrival a l).length = l.length + 1
  | [] => rfl
  | b :: t => by
    unfold insertArrival
    split
    · rfl
    · simp [insertArrival_length a t]

theorem sortArrivals_length : ∀ l : List Arrival, (sortArrivals l).length = l.length
  | [] => rfl
  | a :: t => by simp [sortArrivals, insertArrival_length, sortArrivals_length t]

/-- Those that remain and the arrivals, each once. -/
theorem deriveMembers_length (old : List Member) (p : Proposal) : (deriveMembers old p).length =
    (old.filter fun m => !p.departed.contains m.rank).length + p.arrivals.length := by
  simp [deriveMembers, sortArrivals_length]

/-- The ranks of a derived membership are the places in it. -/
theorem deriveMembers_rank (old : List Member) (p : Proposal) {k : Nat} {m : Member}
    (h : (deriveMembers old p)[k]? = some m) : m.rank = k := by
  unfold deriveMembers at h
  rw [List.getElem?_map, List.getElem?_zipIdx, Option.map_map, Option.map_eq_some_iff] at h
  obtain ⟨x, -, rfl⟩ := h
  simp

theorem hasMajority_iff (s : State) (lost : List Nat) : hasMajority s lost = true ↔
    (s.ws.members.length < 2 * (s.ws.members.filter fun m => !lost.contains m.rank).length ∨
      (s.ws.members.length = 2 * (s.ws.members.filter fun m => !lost.contains m.rank).length ∧ 0 ∉ lost)) := by
  simp [hasMajority]

/-- The commands of the membership messages deliver them to their effects. -/
theorem membershipMessages_deliver (l : Fin 8) (h : MsgHdr) (s : State) (a : Arrives l h s) :
    (∀ x, exec (.linkUp l h x) s = .next (if isRank (delivered l h (.adj x) s) x.rankA &&
      isRank (delivered l h (.adj x) s) x.rankB && x.rankA != x.rankB then addEdge x (delivered l h (.adj x) s)
      else delivered l h (.adj x) s)) ∧
    (∀ x, exec (.linkDown l h x) s = .next (takeLinkDown x (delivered l h (.adj x) s))) ∧
    (∀ r, exec (.join l h r) s = .next (takeJoin h r (delivered l h (.join r) s))) ∧
    exec (.joinRefused l h) s = .next (takeRefused h (delivered l h .empty s)) ∧
    (∀ p, exec (.propose l h p) s = .next (takePropose l p (delivered l h (.propose p) s))) ∧
    (∀ e v, exec (.accept l h e v) s = .next (takeAccept h e v (delivered l h (.accept e v) s))) ∧
    (∀ e, exec (.enact l h e) s = .next (takeEnact e (passEnact e (delivered l h (.enact e) s)))) ∧
    exec (.leave l h) s = .next (takeLeave h (delivered l h .empty s)) ∧
    (∀ w, exec (.dissolve l h w) s = .next (takeDissolve w (delivered l h (.dissolve w) s))) :=
  ⟨fun _ => recv_of_arrives a _ _, fun _ => recv_of_arrives a _ _, fun _ => recv_of_arrives a _ _,
    recv_of_arrives a _ _, fun _ => recv_of_arrives a _ _, fun _ _ => recv_of_arrives a _ _,
    fun e => recv_of_arrives a _ fun s1 => takeEnact e (passEnact e s1), recv_of_arrives a _ _,
    fun _ => recv_of_arrives a _ _⟩

/-- Settles O41: every message is delivered (`recv_of_arrives`), and each effect has its lemma above. -/
theorem membershipMessagesMakeTheWorkshop : Obligations.MembershipMessagesMakeTheWorkshop := by
  refine ⟨membershipMessages_deliver, fun _ _ h => takeDissolve_other h, fun _ hm hd => takeDissolve_own hm hd,
    fun h r _ hc hi => takeJoin_otherImage h r hc hi, fun _ _ _ hs => if_neg hs, fun _ s hd => takeRefused_here s hd,
    fun h r _ hc hi hb ha hm => takeJoin_arrival h r hc hi hb ha hm, fun _ hn ho => changeAtBoundary_waits hn ho,
    fun h r _ hc => takeJoin_notCoord h r hc, fun l p _ hm hc he => takePropose_view l p hm hc he,
    fun l p _ hm hp he => takePropose_old l p hm hp he, fun h v m c s hch hc hb hl hm => ?_,
    fun _ _ hu he => takeEnact_old hu he, fun e m s => ⟨rfl, rfl, rfl, rfl, rfl, adoptView_state e m s⟩,
    deriveMembers_length, fun old p _ _ h => deriveMembers_rank old p h,
    fun _ hf hm hr _ _ hl => execJoinRepeat_outside hf hm hr hl,
    fun r _ hf hb hi hu hl hr => execFormWaitExpiry_forms r hf hb hi hu hl hr, hasMajority_iff⟩
  rw [takeAccept_member h v hch hc hb hl hm]
  exact ⟨fun hv => if_neg hv, fun hv => if_pos hv⟩

end Sys2Proof.Machine
end

section
/-! Jobs start, hold and stop (R26, R29, R188, R334): what JOB_START can do, what of a job and of the benches the operations
of a start leave alone, and where JOB_STOP and the end of the hold take a job. -/

namespace Sys2Proof.Machine

open Sys2Proof.Claims

/-! ### What a start leaves alone -/

/-- What a job keeps from its start to the end of its hold: its entry, its phase and its step. -/
def standing (x : Job) : Nat × Phase × Nat := (x.index, x.phase, x.step)

/-- t has the image and the benches of s, and in every slot the job of s at the same phase and step; every slot but j is as
in s. -/
structure KeepsStart (j : Fin 4) (s t : State) : Prop where
  img : t.img = s.img
  bnc : t.bnc = s.bnc
  own : (t.jobs[j]).map standing = (s.jobs[j]).map standing
  others : ∀ k : Fin 4, k ≠ j → t.jobs[k] = s.jobs[k]

theorem KeepsStart.trans {j : Fin 4} {s t u : State} (h : KeepsStart j s t) (g : KeepsStart j t u) : KeepsStart j s u where
  img := g.img.trans h.img
  bnc := g.bnc.trans h.bnc
  own := g.own.trans h.own
  others k hk := (g.others k hk).trans (h.others k hk)

theorem KeepsStart.of_jobs {s t : State} (j : Fin 4) (hi : t.img = s.img) (hb : t.bnc = s.bnc) (hj : t.jobs = s.jobs) :
    KeepsStart j s t where
  img := hi
  bnc := hb
  own := by rw [hj]
  others _ _ := by rw [hj]

theorem keepsStart_setJob (j : Fin 4) {f : Job → Job} (hf : ∀ x, standing (f x) = standing x) (s : State) :
    KeepsStart j s (setJob j f s) where
  img := rfl
  bnc := rfl
  own := by
    rw [setJob_jobs, upd_same, Option.map_map]
    exact congrArg (Option.map · _) (funext hf)
  others k hk := upd_other _ _ _ _ hk

theorem KeepsStart.own_some {j : Fin 4} {s t : State} (h : KeepsStart j s t) {x : Job} (hx : s.jobs[j] = some x) :
    ∃ y, t.jobs[j] = some y ∧ y.index = x.index ∧ y.phase = x.phase ∧ y.step = x.step := by
  have ho := h.own
  rw [hx, Option.map_some, Option.map_eq_some_iff] at ho
  obtain ⟨y, hy, hst⟩ := ho
  simp only [standing, Prod.mk.injEq] at hst
  exact ⟨y, hy, hst⟩

theorem keepsStart_answer (j : Fin 4) (p : Pend) (st : Byte) (fin : Bool) (a b c d : Word) (s : State) :
    KeepsStart j s (answer p st fin a b c d s) :=
  .of_jobs j (answer_img ..) (answer_bnc ..) (answer_jobs ..)

/-! ### The operations of a start -/

theorem keepsStart_allocHandle (j : Fin 4) {cls : HClass} {job : Nat} {spill : Bool} {id : BitVec 16} {n l : Nat}
    {s : State} {y : Nat × State} (h : allocHandle cls job spill id n l s = some y) : KeepsStart j s y.2 := by
  obtain ⟨-, hy⟩ := Option.ite_none_left_eq_some.mp h
  cases hy
  exact .of_jobs j rfl rfl rfl

theorem keepsStart_setHandle (j : Fin 4) (n : Nat) (f : Handle → Handle) (s : State) :
    KeepsStart j s (setHandle n f s) := by
  unfold setHandle
  split
  · exact .of_jobs j rfl rfl rfl
  · exact .of_jobs j rfl rfl rfl

theorem keepsStart_giveHandle {j : Fin 4} {t : Tensor} {s u : State} (h : giveHandle j t s = some u) :
    KeepsStart j s u := by
  obtain ⟨y, hy, rfl⟩ := Option.map_eq_some_iff.mp h
  exact (keepsStart_allocHandle j hy).trans (keepsStart_setJob j (fun _ => by rfl) _)

theorem keepsStart_giveHandles {j : Fin 4} : ∀ {ts : List Tensor} {s u : State}, giveHandles j ts s = some u →
    KeepsStart j s u
  | [], _, _, h => by
    cases h
    exact .of_jobs j rfl rfl rfl
  | _ :: _, _, _, h => by
    obtain ⟨_, hv, hu⟩ := Option.bind_eq_some_iff.mp h
    exact (keepsStart_giveHandle hv).trans (keepsStart_giveHandles hu)

theorem keepsStart_giveRings {j : Fin 4} : ∀ {cs : List SensorCfg} {s u : State}, giveRings j cs s = some u →
    KeepsStart j s u
  | [], _, _, h => by
    cases h
    exact .of_jobs j rfl rfl rfl
  | _ :: _, _, _, h => by
    unfold giveRings at h
    split at h
    · cases h
    · split at h
      · obtain ⟨_, hy, hu⟩ := Option.bind_eq_some_iff.mp h
        exact ((keepsStart_allocHandle j hy).trans (keepsStart_setHandle j _ _ _)).trans (keepsStart_giveRings hu)
      · exact keepsStart_giveRings h

theorem keepsStart_beginLoads (j : Fin 4) (idx : Nat) (s : State) : KeepsStart j s (beginLoads idx s) :=
  List.foldlRecOn (motive := KeepsStart j s) _ _ (.of_jobs j rfl rfl rfl)
    fun _ h _ _ => h.trans (.of_jobs j rfl rfl rfl)

theorem keepsStart_askSeed (j : Fin 4) (draw : Bool) (s : State) : KeepsStart j s (askSeed j draw s) := by
  unfold askSeed askRng
  split
  · split
    · exact .of_jobs j rfl rfl rfl
    · exact .of_jobs j rfl rfl rfl
  · exact .of_jobs j rfl rfl rfl

theorem meshOf_of_img {s t : State} (h : t.img = s.img) (idx : Nat) : meshOf t idx = meshOf s idx := by
  rw [meshOf, meshOf, bodyOf, bodyOf, h]

/-- A job of this module alone asks the workshop for nothing. -/
theorem joinJob_local {idx : Nat} {s : State} (h : meshFabric (meshOf s idx) = false) : joinJob idx s = s := by
  simp [joinJob, h]

/-- The unit configuration as a start puts it in force, with every slot token EMPTY (R77, R335). -/
theorem applyUnitCfg_bnc (s : State) (b : Fin 4) :
    (applyUnitCfg s).bnc[b] = { s.bnc[b] with cfgForce := s.bnc[b].cfg, slots := 0 } := by
  rw [applyUnitCfg, emptySlots, vmap_get, vmap_get]

/-- A job without a fabric axis is placed: it holds at step 0 in its slot, and the units' configuration is in force. -/
theorem placeJob_local {j : Fin 4} {idx : Nat} {e : JobEntry} {r : Option Restore} {s t : State}
    (h : placeJob j idx e r s = some t) (hm : meshFabric (meshOf s idx) = false) :
    ∃ x, x.index = idx ∧ x.phase = .holding ∧ x.step = 0 ∧
      KeepsStart j (applyUnitCfg { s with jobs := s.jobs.set j (some x) }) t := by
  obtain ⟨s2, h2, h⟩ := Option.bind_eq_some_iff.mp h
  obtain ⟨s3, h3, rfl⟩ := Option.map_eq_some_iff.mp h
  have hk := ((((keepsStart_giveHandles h2).trans (keepsStart_giveRings h3)).trans
    (keepsStart_beginLoads j idx s3)).trans (keepsStart_askSeed j (drawsSeed e && r.isNone) _))
  refine ⟨{ Job.fresh idx e s with restore := r, drawn := (Job.fresh idx e s).drawn && r.isNone }, rfl, rfl, rfl, ?_⟩
  rw [joinJob_local]
  · exact hk
  · rw [meshOf_of_img hk.img]
    exact hm

/-! ### Why a job cannot start -/

theorem slotOfIndex_isSome {s : State} {i : Nat} :
    (slotOfIndex s i).isSome = true ↔ ∃ (j : Fin 4) (x : Job), s.jobs[j] = some x ∧ x.index = i := by
  rw [slotOfIndex, List.find?_isSome]
  constructor
  · rintro ⟨j, -, hj⟩
    split at hj
    · exact ⟨j, _, ‹_›, beq_iff_eq.mp hj⟩
    · cases hj
  · rintro ⟨j, x, hx, rfl⟩
    exact ⟨j, List.mem_finRange j, by simp [hx]⟩

theorem freeJobSlot_eq_none {s : State} : freeJobSlot s = none ↔ ∀ j : Fin 4, ∃ x, s.jobs[j] = some x := by
  simp [freeJobSlot, Option.isSome_iff_exists, ← Option.isSome_iff_ne_none]

theorem startRefusal_taken {i : Nat} {r : Bool} {s : State}
    (h : jobEntryOf s i = none ∨ ∃ (j : Fin 4) (x : Job), s.jobs[j] = some x ∧ x.index = i) :
    startRefusal i r s = some stRefused := by
  unfold startRefusal
  split
  · rfl
  case h_2 e he =>
    have hs : (slotOfIndex s i).isSome = true := slotOfIndex_isSome.mpr (h.resolve_left (by simp [he]))
    rw [if_pos hs]

theorem startRefusal_full {i : Nat} {e : JobEntry} {s : State} (he : jobEntryOf s i = some e)
    (h : ∀ j : Fin 4, ∃ x, s.jobs[j] = some x ∧ x.index ≠ i) : startRefusal i false s = some stExhausted := by
  have hs : ¬(slotOfIndex s i).isSome = true := by
    rw [slotOfIndex_isSome]
    rintro ⟨j, x, hx, hi⟩
    obtain ⟨y, hy, hn⟩ := h j
    cases hx.symm.trans hy
    exact hn hi
  have hf : freeJobSlot s = none := freeJobSlot_eq_none.mpr fun j => (h j).imp fun _ hx => hx.1
  simp [startRefusal, he, hs, hf]

/-! ### JOB_START -/

theorem startJob_refused {idx : Nat} {r : Option Restore} {st : Byte} {s : State}
    (h : startRefusal idx r.isSome s = some st) : startJob idx r s = (.inl st, s) := by
  simp [startJob, h]

theorem startJob_placed {idx : Nat} {r : Option Restore} {j : Fin 4} {e : JobEntry} {s t : State}
    (h : startRefusal idx r.isSome s = none) (hj : freeJobSlot s = some j) (he : jobEntryOf s idx = some e)
    (hp : placeJob j idx e r s = some t) : startJob idx r s = (.inr j, t) := by
  simp [startJob, h, hj, he, hp]

theorem jobStartRun_refused {idx : Nat} {st : Byte} {s : State} (h : startRefusal idx false s = some st) (p : Pend) :
    jobStartRun idx p s = endWith p st s := by
  rw [jobStartRun, startJob_refused (r := none) h]

/-- A started job answers at once, or, where it has its seed drawn, notes the command and stays PENDING (R206). -/
theorem jobStartRun_placed {idx : Nat} {j : Fin 4} {e : JobEntry} {s t : State} (h : startRefusal idx false s = none)
    (hj : freeJobSlot s = some j) (he : jobEntryOf s idx = some e) (hp : placeJob j idx e none s = some t) (p : Pend) :
    jobStartRun idx p s = if (t.jobs[j]).any (·.seed.isNone)
      then setJob j (fun x => { x with startPend := some p }) (startPending p t)
      else answer p stDone true (BitVec.ofNat 32 j.val) 0 0 0 t := by
  rw [jobStartRun, startJob_placed (r := none) h hj he hp]

/-- The result of a start leaves what the start has made. -/
theorem keepsStart_jobStartRun {idx : Nat} {j : Fin 4} {e : JobEntry} {s t : State} (h : startRefusal idx false s = none)
    (hj : freeJobSlot s = some j) (he : jobEntryOf s idx = some e) (hp : placeJob j idx e none s = some t) (p : Pend) :
    KeepsStart j t (jobStartRun idx p s) := by
  rw [jobStartRun_placed h hj he hp]
  split
  · exact (keepsStart_answer j ..).trans (keepsStart_setJob j (fun _ => by rfl) _)
  · exact keepsStart_answer j ..

/-- A job without a fabric axis holds at step 0 in the slot that was free; the other slots keep their jobs, and the benches
have their configuration in force and their tokens EMPTY (R77, R334, R335). -/
theorem jobStartRun_local {idx : Nat} {j : Fin 4} {e : JobEntry} {s t : State} (h : startRefusal idx false s = none)
    (hj : freeJobSlot s = some j) (he : jobEntryOf s idx = some e) (hp : placeJob j idx e none s = some t)
    (hm : meshFabric (meshOf s idx) = false) (p : Pend) :
    ∃ x, (jobStartRun idx p s).jobs[j] = some x ∧ x.index = idx ∧ x.phase = .holding ∧ x.step = 0 ∧
      (∀ k : Fin 4, k ≠ j → (jobStartRun idx p s).jobs[k] = s.jobs[k]) ∧
      ∀ b : Fin 4, (jobStartRun idx p s).bnc[b].slots = 0 ∧ (jobStartRun idx p s).bnc[b].cfgForce = s.bnc[b].cfg := by
  obtain ⟨x, hxi, hxp, hxs, hk⟩ := placeJob_local hp hm
  have hk := hk.trans (keepsStart_jobStartRun h hj he hp p)
  obtain ⟨y, hy, hyi, hyp, hys⟩ := hk.own_some (Vector.getElem_set_self j.isLt)
  refine ⟨y, hy, hyi.trans hxi, hyp.trans hxp, hys.trans hxs, fun k hkj => ?_, fun b => ?_⟩
  · exact (hk.others k hkj).trans (Vector.getElem_set_ne j.isLt k.isLt (Fin.val_ne_of_ne hkj.symm))
  · rw [hk.bnc, applyUnitCfg_bnc]
    exact ⟨rfl, rfl⟩

theorem exec_jobStart {c : Cmd} {s s1 : State} (h : Runs c 0x20 s s1) (hb : bitsFrom c.a0 6 = false)
    (hr : bitAt c.a0 4 = false) :
    exec (.jobStart c) s = .next (jobStartRun (jobArgOf c) (pendOf c 0x20 s1) s1) := by
  change execJobStart c s = _
  rw [execJobStart, hr, hb]
  exact runCmd_of_runs h _

/-- The command with its restore bit set is another row of the table. -/
theorem exec_jobStart_restoring {c : Cmd} (hr : bitAt c.a0 4 = true) (s : State) : exec (.jobStart c) s = .next s :=
  if_pos hr

/-! ### JOB_START of a restore -/

theorem exec_jobStartRestore {c : Cmd} {s s1 : State} (h : Runs c 0x20 s s1) (hb : bitsFrom c.a0 6 = false)
    (hr : bitAt c.a0 4 = true) (ps : List Part) (ok : Bool) :
    exec (.jobStartRestore c ps ok) s = .next (restoreRun c ps ok (pendOf c 0x20 s1) s1) := by
  change execJobStartRestore c ps ok s = _
  rw [execJobStartRestore, hr, hb]
  exact runCmd_of_runs h _

theorem exec_jobStartRestore_plain {c : Cmd} (hr : bitAt c.a0 4 = false) (ps : List Part) (ok : Bool) (s : State) :
    exec (.jobStartRestore c ps ok) s = .next s :=
  if_neg (by simp [hr])

theorem partsVerify_false (c : Cmd) (s : State) : partsVerify c false s = false := by
  simp [partsVerify]

theorem restoreRun_unverified {c : Cmd} {s : State} (h : startRefusal (jobArgOf c) true s = none) (ps : List Part)
    (p : Pend) : restoreRun c ps false p s = endWith p stVerify (startPending p s) := by
  simp [restoreRun, h, partsVerify_false]

/-- The parts of the host's buffer, verified, are taken here by a job without a fabric axis. -/
theorem restoreRun_local {c : Cmd} {ps : List Part} {p : Pend} {j : Fin 4} {e : JobEntry} {s t : State}
    (h5 : bitAt c.a0 5 = false) (h : startRefusal (jobArgOf c) true s = none) (hj : freeJobSlot s = some j)
    (he : jobEntryOf s (jobArgOf c) = some e) (hp : placeJob j (jobArgOf c) e (some ⟨some p, ps, none⟩) s = some t)
    (hm : meshFabric (meshOf t (jobArgOf c)) = false) :
    restoreRun c ps true p s = restoreLocal j ps (startPending p t) := by
  have ho : offeredParts c ps s = ps := by simp [offeredParts, h5]
  have hv : partsVerify c true s = true := by simp [partsVerify, h5]
  have hs := startJob_placed (r := some ⟨some p, ps, none⟩) h hj he hp
  have hm' : meshFabric (meshOf (startPending p t) (jobArgOf c)) = false := by
    rw [meshOf_of_img (startPending_img p t), hm]
  simp [restoreRun, h, ho, hv, hs, hm']

/-! ### JOB_STOP -/

theorem exec_jobStop {c : Cmd} {s s1 : State} (h : Runs c 0x21 s s1) (hb : bitsFrom c.a0 2 = false) :
    exec (.jobStop c) s = .next (jobStopRun (slotArg c) (pendOf c 0x21 s1) s1) := by
  change execJobStop c s = _
  rw [execJobStop, hb]
  exact runCmd_of_runs h _

theorem runs_jobs {c : Cmd} {op : Byte} {s s1 : State} (h : Runs c op s s1) : s1.jobs = s.jobs := by
  rw [runs_frame h]

theorem jobStopRun_empty {j : Fin 4} {s : State} (h : s.jobs[j] = none) (p : Pend) :
    jobStopRun j p s = endWith p stRefused s := by
  simp only [jobStopRun, h]

theorem jobStopRun_now {j : Fin 4} {x : Job} {s : State} (h : s.jobs[j] = some x) (hn : stopsNow x = true) (p : Pend) :
    jobStopRun j p s = quiesceCheck (lateRest (tryEnact (stopJob j stAborted stDone 0 0
      (setJob j (fun y => { y with stop := some (y.stop.getD [] ++ [p]) }) s)))) := by
  simp only [jobStopRun, h, hn, if_true]

theorem stopJob_slot (j : Fin 4) (st done : Byte) (a b : Word) (s : State) : (stopJob j st done a b s).jobs[j] = none := by
  unfold stopJob
  split
  · assumption
  · exact Vector.getElem_set_self j.isLt

/-- The job of a slot changed by f. -/
theorem setJob_of_some {j : Fin 4} {x : Job} {s : State} (h : s.jobs[j] = some x) (f : Job → Job) :
    setJob j f s = { s with jobs := s.jobs.set j (some (f x)) } := by
  rw [setJob, upd, h, Option.map_some]

/-- With the main rails up, a command that a job notes and that stays PENDING changes the job, the host interface, the
management port and the collector alone. -/
theorem startPending_setJob {j : Fin 4} {x : Job} {s : State} (h : s.jobs[j] = some x) (ha : awake s = true)
    (f : Job → Job) (p : Pend) : (startPending p (setJob j f s)).jobs = s.jobs.set j (some (f x)) ∧
      startPending p (setJob j f s) = { s with
        jobs := (startPending p (setJob j f s)).jobs, hif := (startPending p (setJob j f s)).hif,
        mgmt := (startPending p (setJob j f s)).mgmt, evt := (startPending p (setJob j f s)).evt } := by
  have haon : (startPending p (setJob j f s)).aon = s.aon :=
    answer_awake _ _ _ _ _ _ _ _ (awake_of_glb (setJob_glb j f s) ha)
  constructor
  · rw [startPending_jobs, setJob_of_some h]
  · conv => lhs; rw [startPending_frame, haon]
    rw [startPending_jobs]
    rfl

theorem jobStopRun_waits {j : Fin 4} {x : Job} {s : State} (h : s.jobs[j] = some x) (hn : stopsNow x = false) (p : Pend) :
    jobStopRun j p s = startPending p (setJob j (fun y => { y with stop := some (y.stop.getD [] ++ [p]) }) s) := by
  simp only [jobStopRun, h, hn, Bool.false_eq_true, if_false]

/-! ### The hold -/

theorem exec_jobHoldRelease {j : Fin 4} {x : Job} {s : State} (h : s.jobs[j] = some x) (ho : holdOver s x = true) :
    exec (.jobHoldRelease j) s =
      .next { s with jobs := s.jobs.set j (some { x with phase := .boundary, trigAt := s.aon.time.toNat }) } := by
  change execJobHoldRelease j s = _
  simp only [execJobHoldRelease, h, ho, if_true, setJob_of_some h]

theorem holdOver_of_ready {s : State} {x : Job} (hp : x.phase = .holding) (hk : x.parked = false) (hd : x.seed ≠ none)
    (hr : x.restore = none) (hl : keysReady s x.index = true) (hw : placeReady s x = true) (hq : quiescing s = false) :
    holdOver s x = true := by
  have hd' : x.seed.isSome = true := Option.isSome_iff_ne_none.mpr hd
  simp only [holdOver, hp, hk, hd', hr, hl, hw, hq, beq_self_eq_true, Option.isNone_none, Bool.not_false, Bool.and_self]

/-- Settles O29: `jobStartRun` and `restoreRun` give a start its outcomes, `KeepsStart` carries the placed job through the
operations of a start, and `jobStopRun` and `holdOver` have a lemma per case. -/
theorem jobsStartStopAndHold : Obligations.JobsStartStopAndHold := by
  refine ⟨fun c j e s s1 s2 h hb hr hn hj he hp hd => ?_, fun c j e s s1 s2 h hb hr hn hj he hp hd => ?_,
    fun c j e s s1 s2 h hb hr hn hj he hm hp => ?_, fun c st s s1 h hb hr hn => ?_,
    fun _ _ _ h => startRefusal_taken h, fun _ _ _ he h => startRefusal_full he h,
    fun c ps s s1 h hb hr hn => ?_, fun c ps j e s s1 s2 h hb hr h5 hn hj he hp hm => ?_,
    fun c ps ok s => ⟨fun hr => exec_jobStart_restoring hr s, fun hr => exec_jobStartRestore_plain hr ps ok s⟩,
    fun c s s1 h hb hx => ?_, fun c x s s1 h hb hx hn => ?_,
    fun j st done a b s => stopJob_slot j st done a b s, fun c x s s1 h hb hx hn => ?_,
    fun j x s hx hp hk hd hr hl hw hq => exec_jobHoldRelease hx (holdOver_of_ready hp hk hd hr hl hw hq)⟩
  · rw [exec_jobStart h hb hr, jobStartRun_placed hn hj he hp, hd]
    rfl
  · rw [exec_jobStart h hb hr, jobStartRun_placed hn hj he hp, hd]
    rfl
  · have hs1 := runs_frame h
    have himg : s1.img = s.img := by rw [hs1]
    have hbnc : s1.bnc = s.bnc := by rw [hs1]
    rw [← meshOf_of_img himg] at hm
    rw [← runs_jobs h, ← hbnc]
    obtain ⟨x, hx⟩ := jobStartRun_local hn hj he hp hm (pendOf c 0x20 s1)
    exact ⟨_, x, exec_jobStart h hb hr, hx⟩
  · rw [exec_jobStart h hb hr, jobStartRun_refused hn]
  · rw [exec_jobStartRestore h hb hr, restoreRun_unverified hn]
  · rw [exec_jobStartRestore h hb hr, restoreRun_local h5 hn hj he hp hm]
  · rw [← runs_jobs h] at hx
    rw [exec_jobStop h hb, jobStopRun_empty hx]
  · rw [← runs_jobs h] at hx
    rw [exec_jobStop h hb, jobStopRun_now hx hn]
  · rw [← runs_jobs h] at hx
    rw [exec_jobStop h hb, jobStopRun_waits hx hn, ← runs_jobs h]
    obtain ⟨hjobs, hrun⟩ := startPending_setJob hx (runs_awake h) _ (pendOf c 0x21 s1)
    refine ⟨_, rfl, hjobs, hrun.trans ?_⟩
    generalize startPending _ _ = t
    rw [runs_frame h]

end Sys2Proof.Machine
end

section
/-! Codes, exact values and rounding (R38 to R41): the magnitude code of a format is its exponent field and fraction read as
one number, so decoding inverts encoding, and a value that the format holds is not changed by rounding. -/

namespace Sys2Proof.Machine

/-! ### The magnitude code of a format -/

/-- The magnitude code of m × 2^e. -/
def magCode (f : Fmt) (m : Nat) (e : Int) : Nat := (e - f.qmin).toNat * 2 ^ (f.p - 1) + m

/-- m × 2^e as a code of the format holds it: at most p bits, and fewer than p at the smallest exponent alone. -/
structure Fmt.Holds (f : Fmt) (m : Nat) (e : Int) : Prop where
  lt : m < 2 ^ f.p
  qmin_le : f.qmin ≤ e
  normal : e = f.qmin ∨ 2 ^ (f.p - 1) ≤ m

/-- The precision is at least one bit, and the sign bit lies above the magnitude codes. -/
structure Fmt.Sound (f : Fmt) : Prop where
  p_pos : 0 < f.p
  inf_lt : f.infCode < 2 ^ f.signBit

theorem sound_fJ8 : fJ8.Sound := ⟨by decide, by decide⟩
theorem sound_fB16 : fB16.Sound := ⟨by decide, by decide⟩
theorem sound_fB32 : fB32.Sound := ⟨by decide, by decide⟩

theorem Fmt.Sound.two_pow {f : Fmt} (hf : f.Sound) : 2 ^ f.p = 2 * 2 ^ (f.p - 1) := by
  rw [← Nat.pow_succ', Nat.succ_eq_add_one, Nat.sub_add_cancel hf.p_pos]

theorem magVal_sub {f : Fmt} {n : Bool} {c : Nat} (h : c < 2 ^ (f.p - 1)) : magVal f n c = .fin n c f.qmin := by
  simp [magVal, Nat.div_eq_of_lt h, Nat.mod_eq_of_lt h]

/-- A code at or above 2^(p − 1) is an exponent field k + 1 over a fraction x. -/
theorem magVal_normal (f : Fmt) (n : Bool) (k : Nat) {x : Nat} (hx : x < 2 ^ (f.p - 1)) :
    magVal f n ((k + 1) * 2 ^ (f.p - 1) + x) = .fin n (2 ^ (f.p - 1) + x) (f.qmin + k) := by
  have hdiv : ((k + 1) * 2 ^ (f.p - 1) + x) / 2 ^ (f.p - 1) = k + 1 := by
    rw [Nat.add_comm, Nat.add_mul_div_right _ _ (Nat.two_pow_pos _), Nat.div_eq_of_lt hx, Nat.zero_add]
  have hmod : ((k + 1) * 2 ^ (f.p - 1) + x) % 2 ^ (f.p - 1) = x := by
    rw [Nat.mul_add_mod_self_right, Nat.mod_eq_of_lt hx]
  have he : f.qmin + ((k + 1 : Nat) : Int) - 1 = f.qmin + k := by omega
  simp only [magVal, hdiv, hmod, he, Nat.succ_ne_zero, if_false]

theorem magCode_normal (f : Fmt) (k x : Nat) :
    magCode f (2 ^ (f.p - 1) + x) (f.qmin + k) = (k + 1) * 2 ^ (f.p - 1) + x := by
  have hk : (f.qmin + (k : Int) - f.qmin).toNat = k := by omega
  rw [magCode, hk, Nat.succ_mul, Nat.add_assoc]

/-- Every magnitude code is of the one form or of the other. -/
theorem magCode_cases (f : Fmt) (c : Nat) :
    c < 2 ^ (f.p - 1) ∨ ∃ k x, x < 2 ^ (f.p - 1) ∧ c = (k + 1) * 2 ^ (f.p - 1) + x := by
  rcases Nat.lt_or_ge c (2 ^ (f.p - 1)) with h | h
  · exact .inl h
  · refine .inr ⟨c / 2 ^ (f.p - 1) - 1, c % 2 ^ (f.p - 1), Nat.mod_lt _ (Nat.two_pow_pos _), ?_⟩
    rw [Nat.sub_add_cancel (Nat.div_pos h (Nat.two_pow_pos _)), Nat.div_add_mod']

theorem magVal_magCode {f : Fmt} (hf : f.Sound) {m : Nat} {e : Int} (h : f.Holds m e) (n : Bool) :
    magVal f n (magCode f m e) = .fin n m e := by
  obtain ⟨hlt, hq, hn⟩ := h
  rw [hf.two_pow] at hlt
  rcases Nat.lt_or_ge m (2 ^ (f.p - 1)) with hs | hs
  · obtain rfl : e = f.qmin := hn.resolve_right (by omega)
    simp [magCode, magVal_sub hs]
  · obtain ⟨k, rfl⟩ := Int.le.dest hq
    obtain ⟨x, rfl⟩ := Nat.exists_eq_add_of_le hs
    rw [magCode_normal, magVal_normal f n k (by omega)]

theorem magVal_eq_fin {f : Fmt} (hf : f.Sound) {n n' : Bool} {c m : Nat} {e : Int} (h : magVal f n c = .fin n' m e) :
    n' = n ∧ f.Holds m e ∧ magCode f m e = c := by
  have h2 := hf.two_pow
  rcases magCode_cases f c with hc | ⟨k, x, hx, rfl⟩
  · rw [magVal_sub hc] at h
    cases h
    exact ⟨rfl, ⟨by omega, Int.le_refl _, .inl rfl⟩, by simp [magCode]⟩
  · rw [magVal_normal f n k hx] at h
    cases h
    exact ⟨rfl, ⟨by omega, by omega, .inr (by omega)⟩, magCode_normal f k x⟩

/-! ### Decoding -/

/-- The sign bit over a magnitude code. -/
def signedCode (f : Fmt) (n : Bool) (c : Nat) : Nat := (if n then 2 ^ f.signBit else 0) + c

theorem decodeF_of_lt {f : Fmt} {c : Nat} (h : c % 2 ^ f.signBit < f.infCode) :
    decodeF f c = magVal f (decide (c / 2 ^ f.signBit % 2 = 1)) (c % 2 ^ f.signBit) := if_pos h

theorem vIsFin_magVal (f : Fmt) (n : Bool) (c : Nat) : vIsFin (magVal f n c) = true := by
  unfold magVal
  dsimp only
  split <;> rfl

theorem vIsFin_decodeF {f : Fmt} {c : Nat} : vIsFin (decodeF f c) = true ↔ c % 2 ^ f.signBit < f.infCode := by
  refine ⟨fun h => Decidable.byContradiction fun hc => ?_, fun h => by rw [decodeF_of_lt h, vIsFin_magVal]⟩
  simp only [decodeF, hc, if_false] at h
  split at h <;> cases h

theorem exists_fin_of_vIsFin {v : Val} (h : vIsFin v = true) : ∃ n m e, v = .fin n m e := by
  cases v with
  | fin n m e => exact ⟨n, m, e, rfl⟩
  | nan => cases h
  | inf n => cases h

theorem decodeF_eq_fin {f : Fmt} (hf : f.Sound) {c : Nat} {n : Bool} {m : Nat} {e : Int} (h : decodeF f c = .fin n m e) :
    f.Holds m e ∧ magCode f m e < f.infCode := by
  have hc : c % 2 ^ f.signBit < f.infCode := vIsFin_decodeF.mp (by rw [h]; rfl)
  rw [decodeF_of_lt hc] at h
  obtain ⟨-, hm, he⟩ := magVal_eq_fin hf h
  exact ⟨hm, he ▸ hc⟩

theorem signedCode_mod {f : Fmt} {c : Nat} (n : Bool) (h : c < 2 ^ f.signBit) : signedCode f n c % 2 ^ f.signBit = c := by
  cases n with
  | false => rw [signedCode, if_neg Bool.false_ne_true, Nat.zero_add, Nat.mod_eq_of_lt h]
  | true => rw [signedCode, if_pos rfl, Nat.add_mod_left, Nat.mod_eq_of_lt h]

theorem signedCode_div {f : Fmt} {c : Nat} (n : Bool) (h : c < 2 ^ f.signBit) :
    decide (signedCode f n c / 2 ^ f.signBit % 2 = 1) = n := by
  cases n with
  | false => rw [signedCode, if_neg Bool.false_ne_true, Nat.zero_add, Nat.div_eq_of_lt h]; rfl
  | true => rw [signedCode, if_pos rfl, Nat.add_div_left c (Nat.two_pow_pos _), Nat.div_eq_of_lt h]; rfl

theorem decodeF_signedCode {f : Fmt} (hf : f.Sound) {m : Nat} {e : Int} (h : f.Holds m e) (hc : magCode f m e < f.infCode)
    (n : Bool) : decodeF f (signedCode f n (magCode f m e)) = .fin n m e := by
  have hs := Nat.lt_trans hc hf.inf_lt
  rw [decodeF_of_lt (by rwa [signedCode_mod n hs]), signedCode_mod n hs, signedCode_div n hs, magVal_magCode hf h]

theorem decodeF_encodeF_inf {f : Fmt} (hf : f.Sound) (hi : f.hasInf = true) (n : Bool) :
    decodeF f (encodeF f (.inf n)) = .inf n := by
  change decodeF f (signedCode f n f.infCode) = .inf n
  unfold decodeF
  simp [signedCode_mod n hf.inf_lt, signedCode_div n hf.inf_lt, hi]

/-! ### Rounding a value that the format holds -/

/-- The exponent that a magnitude has in a format. -/
def roundExp (f : Fmt) (m : Nat) (e : Int) : Int := max (e + (Nat.log2 m : Int) + 1 - f.p) f.qmin

theorem roundMag_snd (md : RMode) (f : Fmt) (m : Nat) (e : Int) :
    (roundMag md f.p (some f.qmin) m e).2 = roundExp f m e := by
  unfold roundMag roundExp
  dsimp only
  split <;> rfl

/-- No bit lies below the last kept one: rounding shifts the bits up to the exponent of the format. -/
theorem roundMag_of_le (md : RMode) {f : Fmt} {m : Nat} {e : Int} (h : roundExp f m e ≤ e) :
    roundMag md f.p (some f.qmin) m e = (m <<< (e - roundExp f m e).toNat, roundExp f m e) := if_pos h

theorem roundMag_of_lt (md : RMode) {f : Fmt} {m : Nat} {e : Int} (h : e < roundExp f m e) :
    (roundMag md f.p (some f.qmin) m e).1 =
      if roundsUp md (m >>> (roundExp f m e - e).toNat) (m % 2 ^ (roundExp f m e - e).toNat) (roundExp f m e - e).toNat
      then m >>> (roundExp f m e - e).toNat + 1 else m >>> (roundExp f m e - e).toNat :=
  congrArg Prod.fst (if_neg (Int.not_le.mpr h))

theorem shiftLeft_ne_zero {m : Nat} (hm : m ≠ 0) (k : Nat) : m <<< k ≠ 0 :=
  mt Nat.shiftLeft_eq_zero_iff.mp hm

theorem log2_shiftLeft {m : Nat} (hm : m ≠ 0) (k : Nat) : Nat.log2 (m <<< k) = Nat.log2 m + k := by
  induction k with
  | zero => rfl
  | succ k ih =>
    rw [Nat.shiftLeft_succ, Nat.log2_two_mul (shiftLeft_ne_zero hm k), ih, Nat.add_assoc]

theorem roundExp_shiftLeft {f : Fmt} {m : Nat} {e : Int} (hm : m ≠ 0) (h : roundExp f m e ≤ e) :
    roundExp f (m <<< (e - roundExp f m e).toNat) (roundExp f m e) = roundExp f m e := by
  generalize hq : roundExp f m e = q at *
  unfold roundExp at *
  rw [log2_shiftLeft hm]
  push_cast
  rw [Int.toNat_of_nonneg (by omega)]
  omega

theorem roundExp_le {f : Fmt} {m : Nat} {e : Int} (hm : m ≠ 0) (hlt : m < 2 ^ f.p) (he : f.qmin ≤ e) :
    roundExp f m e ≤ e := by
  have hlog := (Nat.log2_lt hm).mpr hlt
  unfold roundExp
  omega

/-- What rounding answers without a loss is held by the format. -/
theorem holds_roundExp {f : Fmt} {m : Nat} {e : Int} (hm : m ≠ 0) (h : roundExp f m e ≤ e) :
    f.Holds (m <<< (e - roundExp f m e).toNat) (roundExp f m e) := by
  have hx := roundExp_shiftLeft hm h
  have hz := shiftLeft_ne_zero hm (e - roundExp f m e).toNat
  generalize m <<< (e - roundExp f m e).toNat = k at *
  generalize roundExp f m e = q at *
  unfold roundExp at hx
  refine ⟨(Nat.log2_lt hz).mp (by omega), by omega, ?_⟩
  by_cases hq : q = f.qmin
  · exact .inl hq
  · exact .inr ((Nat.le_log2 hz).mp (by omega))

/-- The encoding rounds once more, which leaves what rounding answered. -/
theorem rnd_of_le {f : Fmt} (n : Bool) {m : Nat} {e : Int} (hm : m ≠ 0) (h : roundExp f m e ≤ e)
    (hc : magCode f (m <<< (e - roundExp f m e).toNat) (roundExp f m e) < f.infCode) :
    rnd f (.fin n m e) = signedCode f n (magCode f (m <<< (e - roundExp f m e).toNat) (roundExp f m e)) := by
  have hz := shiftLeft_ne_zero hm (e - roundExp f m e).toNat
  have hr := roundMag_of_le .near h
  have hx := roundExp_shiftLeft hm h
  have hrr := roundMag_of_le .near (Int.le_of_eq hx)
  rw [hx, Int.sub_self, Int.toNat_zero, Nat.shiftLeft_zero] at hrr
  rw [magCode, ← Nat.not_le] at hc
  simp only [rnd, roundV, encodeF, hm, hz, hr, hrr, hc, if_false, signedCode, magCode]

/-- Rounding to nearest and its code keep a value of at most p ≤ g.p bits and an exponent of at most u, where g reaches
2^(u + p): only its trailing zeros move between the fraction and the exponent. -/
theorem decodeF_rnd {g : Fmt} (hg : g.Sound) (n : Bool) {m p : Nat} {e u : Int} (hlt : m < 2 ^ p) (hp : p ≤ g.p)
    (he : g.qmin ≤ e) (hu : e ≤ u) (htop : (u + p - g.p - g.qmin).toNat * 2 ^ (g.p - 1) + 2 ^ g.p ≤ g.infCode) :
    ∃ q ≤ e, decodeF g (rnd g (.fin n m e)) = .fin n (m <<< (e - q).toNat) q := by
  by_cases hm : m = 0
  · subst hm
    refine ⟨g.qmin, he, ?_⟩
    have hw := Nat.two_pow_pos g.p
    have h0 : g.Holds 0 g.qmin := ⟨hw, Int.le_refl _, .inl rfl⟩
    have hc : magCode g 0 g.qmin < g.infCode := by
      simp only [magCode, Int.sub_self, Int.toNat_zero]
      omega
    rw [Nat.zero_shiftLeft, ← decodeF_signedCode hg h0 hc n]
    simp [rnd, roundV, encodeF, signedCode, magCode]
  · have hle := roundExp_le hm (Nat.lt_of_lt_of_le hlt (Nat.pow_le_pow_right (by decide) hp)) he
    have hH := holds_roundExp hm hle
    have hc : magCode g (m <<< (e - roundExp g m e).toNat) (roundExp g m e) < g.infCode := by
      have hs : (roundExp g m e - g.qmin).toNat ≤ (u + p - g.p - g.qmin).toNat := by
        have := (Nat.log2_lt hm).mpr hlt
        unfold roundExp
        omega
      calc magCode g (m <<< (e - roundExp g m e).toNat) (roundExp g m e)
          < (roundExp g m e - g.qmin).toNat * 2 ^ (g.p - 1) + 2 ^ g.p := Nat.add_lt_add_left hH.lt _
        _ ≤ (u + p - g.p - g.qmin).toNat * 2 ^ (g.p - 1) + 2 ^ g.p := Nat.add_le_add_right (Nat.mul_le_mul_right _ hs) _
        _ ≤ g.infCode := htop
    exact ⟨roundExp g m e, hle, by rw [rnd_of_le n hm hle hc, decodeF_signedCode hg hH hc]⟩

/-! ### Widening (R41) -/

/-- Trailing zeros moved from the exponent into the fraction leave the value. -/
theorem vCmp_shiftLeft (n : Bool) (m : Nat) {q e : Int} (h : q ≤ e) :
    vCmp (.fin n (m <<< (e - q).toNat) q) (.fin n m e) = 0 := by
  simp [vCmp, vExp, vInt, Int.min_eq_left h]

/-- A finite J8 value has at most 4 bits and an exponent of −10 to 4. -/
theorem decodeJ8_range {c m : Nat} {n : Bool} {e : Int} (h : decodeF fJ8 c = .fin n m e) : m < 2 ^ 4 ∧ -10 ≤ e ∧ e ≤ 4 := by
  obtain ⟨⟨hlt, hq, hn⟩, hc⟩ := decodeF_eq_fin sound_fJ8 h
  simp only [magCode, fJ8] at *
  omega

/-- A finite binary16 value has at most 11 bits and an exponent of −24 to 5. -/
theorem decodeB16_range {c m : Nat} {n : Bool} {e : Int} (h : decodeF fB16 c = .fin n m e) :
    m < 2 ^ 11 ∧ -24 ≤ e ∧ e ≤ 5 := by
  obtain ⟨⟨hlt, hq, hn⟩, hc⟩ := decodeF_eq_fin sound_fB16 h
  simp only [magCode, fB16] at *
  omega

/-- The wider format has a code for every finite value of the narrower one. -/
theorem decodeF_rnd_widen {f g : Fmt} {c m : Nat} {n : Bool} {e : Int}
    (hfg : (f = fJ8 ∧ g = fB16) ∨ (f = fJ8 ∧ g = fB32) ∨ (f = fB16 ∧ g = fB32)) (h : decodeF f c = .fin n m e) :
    ∃ q ≤ e, decodeF g (rnd g (.fin n m e)) = .fin n (m <<< (e - q).toNat) q := by
  rcases hfg with ⟨rfl, rfl⟩ | ⟨rfl, rfl⟩ | ⟨rfl, rfl⟩
  · obtain ⟨hm, hlo, hhi⟩ := decodeJ8_range h
    exact decodeF_rnd sound_fB16 n hm (by decide) (Int.le_trans (by decide) hlo) hhi (by decide)
  · obtain ⟨hm, hlo, hhi⟩ := decodeJ8_range h
    exact decodeF_rnd sound_fB32 n hm (by decide) (Int.le_trans (by decide) hlo) hhi (by decide)
  · obtain ⟨hm, hlo, hhi⟩ := decodeB16_range h
    exact decodeF_rnd sound_fB32 n hm (by decide) (Int.le_trans (by decide) hlo) hhi (by decide)

/-- Settles O56: NaN and the infinities have their codes in the wider format, and a finite value keeps its bits. -/
theorem wideningIsExact : Obligations.WideningIsExact := by
  unfold Obligations.WideningIsExact
  intro f g c hfg
  have hg : g.Sound ∧ g.hasInf = true := by
    rcases hfg with ⟨-, rfl⟩ | ⟨-, rfl⟩ | ⟨-, rfl⟩
    · exact ⟨sound_fB16, rfl⟩
    · exact ⟨sound_fB32, rfl⟩
    · exact ⟨sound_fB32, rfl⟩
  refine ⟨fun hnan => ?_, fun n hinf => ?_, fun hfin => ?_⟩
  · cases hv : decodeF f c with
    | nan => rfl
    | inf n => rw [hv] at hnan; cases hnan
    | fin n m e => rw [hv] at hnan; cases hnan
  · rw [hinf]
    exact decodeF_encodeF_inf hg.1 hg.2 n
  · obtain ⟨n, m, e, hv⟩ := exists_fin_of_vIsFin hfin
    obtain ⟨q, hq, hw⟩ := decodeF_rnd_widen hfg hv
    rw [hv, hw]
    exact ⟨rfl, rfl, vCmp_shiftLeft n m hq⟩

end Sys2Proof.Machine
end

section
/-! J8 codes (R38, R39): their values, and why the output conversion writes one of the two NaN codes alone: a magnitude that
passes the saturation check is at most 224, and no rounding takes it past a value that the format holds. -/

namespace Sys2Proof.Machine

/-! ### The values of the codes -/

/-- The fields of a J8 code as a number: the sign, the exponent field and the fraction. -/
theorem j8_fields (c : Byte) :
    bitsNat (c.setWidth 32) 6 3 = c.toNat % 128 / 8 ∧ bitsNat (c.setWidth 32) 2 0 = c.toNat % 128 % 8 ∧
      bitAt c 7 = decide (c.toNat / 2 ^ 7 % 2 = 1) := by
  have hc := c.isLt
  refine ⟨?_, ?_, ?_⟩
  · simp only [bitsNat, BitVec.toNat_setWidth, Nat.shiftRight_eq_div_pow]
    omega
  · simp only [bitsNat, BitVec.toNat_setWidth, Nat.shiftRight_eq_div_pow]
    omega
  · rw [bitAt, BitVec.getLsbD, Nat.testBit_eq_decide_div_mod_eq]

theorem decodeJ8_of_lt {c : Nat} (h : c % 128 < 127) :
    decodeF fJ8 c = magVal fJ8 (decide (c / 2 ^ 7 % 2 = 1)) (c % 128) := decodeF_of_lt (f := fJ8) h

theorem decodeJ8_nan {c : Nat} (h : c % 128 = 127) : decodeF fJ8 c = .nan := by
  have hn : ¬ c % 2 ^ 7 < 127 := by omega
  simp only [decodeF, fJ8, if_neg hn, Bool.false_and, Bool.false_eq_true, if_false]

theorem vIsNan_decodeJ8 (c : Nat) : vIsNan (decodeF fJ8 c) = true ↔ c % 128 = 127 := by
  refine ⟨fun h => Decidable.byContradiction fun hc => ?_, fun h => by rw [decodeJ8_nan h]; rfl⟩
  obtain ⟨n, m, e, hv⟩ := exists_fin_of_vIsFin (vIsFin_magVal fJ8 (decide (c / 2 ^ 7 % 2 = 1)) (c % 128))
  rw [decodeJ8_of_lt (by omega), hv] at h
  cases h

/-- Settles O57: the exponent field and the fraction are the quotient and the remainder of the magnitude code by 8. -/
theorem j8CodesHaveTheirValues : Obligations.J8CodesHaveTheirValues := by
  unfold Obligations.J8CodesHaveTheirValues
  intro c
  obtain ⟨hE, hM, hS⟩ := j8_fields c
  rw [hE, hM, hS]
  refine ⟨fun h0 => ?_, fun h0 hnan => ?_, fun hnan => decodeJ8_nan (by omega)⟩
  · rw [decodeJ8_of_lt (by omega), magVal_sub (by simp only [fJ8]; omega), Nat.mod_eq_of_lt (a := c.toNat % 128) (by omega)]
    rfl
  · obtain ⟨k, hk⟩ := Nat.exists_eq_succ_of_ne_zero h0
    have hc : c.toNat % 128 = (k + 1) * 8 + c.toNat % 128 % 8 := by omega
    rw [decodeJ8_of_lt (by omega), hk, hc, Nat.mul_add_mod_self_right, Nat.mod_mod]
    refine (magVal_normal fJ8 _ k (Nat.mod_lt _ (by decide))).trans ?_
    congr 1
    simp only [fJ8]
    omega

/-! ### Rounding never passes a value of the format -/

/-- m × 2^e ≤ k × 2^q. -/
def MagLe (m : Nat) (e : Int) (k : Nat) (q : Int) : Prop := m * 2 ^ (e - q).toNat ≤ k * 2 ^ (q - e).toNat

theorem roundsUp_zero (md : RMode) (keep s : Nat) : roundsUp md keep 0 s = false := by
  cases md with
  | trunc => rfl
  | up => rfl
  | near =>
    have := Nat.two_pow_pos (s - 1)
    simp only [roundsUp, Bool.or_eq_false_iff, Bool.and_eq_false_iff, decide_eq_false_iff_not]
    omega
  | stoch r =>
    have := r.isLt
    simp only [roundsUp, Nat.zero_shiftLeft, Nat.zero_shiftRight, ite_self, Nat.zero_add, decide_eq_false_iff_not]
    omega

/-- A rounding goes at most one up, and not from a magnitude without discarded bits: it stays within a bound that has none. -/
theorem roundsUp_le (md : RMode) {m s k : Nat} (h : m ≤ k * 2 ^ s) :
    (if roundsUp md (m >>> s) (m % 2 ^ s) s then m >>> s + 1 else m >>> s) ≤ k := by
  rw [Nat.shiftRight_eq_div_pow]
  rcases Nat.lt_or_ge (m / 2 ^ s) k with hlt | hge
  · split <;> omega
  · obtain rfl : m = k * 2 ^ s := Nat.le_antisymm h (Nat.le_trans (Nat.mul_le_mul_right _ hge) (Nat.div_mul_le_self m _))
    rw [Nat.mul_mod_left, roundsUp_zero, if_neg Bool.false_ne_true]
    exact Nat.le_of_eq (Nat.mul_div_cancel _ (Nat.two_pow_pos _))

/-- What a magnitude rounds to stays within a bound of the same exponent. -/
theorem roundMag_le (md : RMode) {f : Fmt} {m b : Nat} {e : Int} (h : MagLe m e b (roundExp f m e)) :
    (roundMag md f.p (some f.qmin) m e).1 ≤ b := by
  unfold MagLe at h
  rcases Int.lt_or_le e (roundExp f m e) with hlt | hle
  · rw [roundMag_of_lt md hlt]
    rw [Int.toNat_of_nonpos (by omega), Nat.pow_zero, Nat.mul_one] at h
    exact roundsUp_le md h
  · rw [roundMag_of_le md hle, Nat.shiftLeft_eq]
    simpa only [Int.toNat_of_nonpos (Int.sub_nonpos_of_le hle), Nat.pow_zero, Nat.mul_one] using h

/-- A magnitude is below the power of two above its leading bit. -/
theorem MagLe.of_lead {m p : Nat} {e q : Int} (h : e + Nat.log2 m + 1 ≤ q + p) : MagLe m e (2 ^ p) q := by
  unfold MagLe
  calc m * 2 ^ (e - q).toNat
      ≤ 2 ^ (Nat.log2 m + 1) * 2 ^ (e - q).toNat := Nat.mul_le_mul_right _ (Nat.le_of_lt Nat.lt_log2_self)
    _ = 2 ^ (Nat.log2 m + 1 + (e - q).toNat) := (Nat.pow_add ..).symm
    _ ≤ 2 ^ (p + (q - e).toNat) := Nat.pow_le_pow_right (by decide) (by omega)
    _ = 2 ^ p * 2 ^ (q - e).toNat := Nat.pow_add ..

theorem MagLe.lead {m k p : Nat} {e q : Int} (h : MagLe m e k q) (hm : m ≠ 0) (hk : k < 2 ^ p) :
    e + Nat.log2 m + 1 ≤ q + p := by
  have hlt : 2 ^ (Nat.log2 m + (e - q).toNat) < 2 ^ (p + (q - e).toNat) := by
    rw [Nat.pow_add, Nat.pow_add]
    calc 2 ^ Nat.log2 m * 2 ^ (e - q).toNat
        ≤ m * 2 ^ (e - q).toNat := Nat.mul_le_mul_right _ (Nat.log2_self_le hm)
      _ ≤ k * 2 ^ (q - e).toNat := h
      _ < 2 ^ p * 2 ^ (q - e).toNat := Nat.mul_lt_mul_of_pos_right hk (Nat.two_pow_pos _)
  have := (Nat.pow_lt_pow_iff_right (by decide : 1 < 2)).mp hlt
  omega

/-- A nonzero magnitude of at most k × 2^q, where the format holds k × 2^q, rounds to a smaller exponent or to at most k. -/
theorem roundMag_bounded (md : RMode) {f : Fmt} {m k : Nat} {e q : Int} (hk : f.Holds k q) (hm : m ≠ 0)
    (h : MagLe m e k q) :
    roundExp f m e < q ∧ (roundMag md f.p (some f.qmin) m e).1 ≤ 2 ^ f.p ∨
      roundExp f m e = q ∧ (roundMag md f.p (some f.qmin) m e).1 ≤ k := by
  have hle : roundExp f m e ≤ q := by
    have := h.lead hm hk.lt
    have := hk.qmin_le
    unfold roundExp
    omega
  rcases Int.lt_or_eq_of_le hle with hlt | rfl
  · exact .inl ⟨hlt, roundMag_le md (.of_lead (by unfold roundExp; omega))⟩
  · exact .inr ⟨rfl, roundMag_le md h⟩

theorem magCode_roundMag_le (md : RMode) {f : Fmt} (hf : f.Sound) {m k : Nat} {e q : Int} (hk : f.Holds k q)
    (hk1 : 2 ^ (f.p - 1) ≤ k) (hm : m ≠ 0) (h : MagLe m e k q) :
    magCode f (roundMag md f.p (some f.qmin) m e).1 (roundMag md f.p (some f.qmin) m e).2 ≤ magCode f k q := by
  rw [roundMag_snd]
  rcases roundMag_bounded md hk hm h with ⟨hlt, hr⟩ | ⟨heq, hr⟩
  · have hq : f.qmin ≤ roundExp f m e := Int.le_max_right _ _
    have hw : ((roundExp f m e - f.qmin).toNat + 1) * 2 ^ (f.p - 1) ≤ (q - f.qmin).toNat * 2 ^ (f.p - 1) :=
      Nat.mul_le_mul_right _ (by omega)
    rw [hf.two_pow] at hr
    rw [Nat.succ_mul] at hw
    unfold magCode
    omega
  · rw [heq]
    exact Nat.add_le_add_left hr _

theorem MagLe.roundMag (md : RMode) {f : Fmt} (hf : f.Sound) {m k : Nat} {e q : Int} (hk : f.Holds k q)
    (hk1 : 2 ^ (f.p - 1) ≤ k) (hm : m ≠ 0) (h : MagLe m e k q) :
    MagLe (roundMag md f.p (some f.qmin) m e).1 (roundMag md f.p (some f.qmin) m e).2 k q := by
  rw [roundMag_snd]
  rcases roundMag_bounded md hk hm h with ⟨hlt, hr⟩ | ⟨heq, hr⟩
  · have h2 : 2 ^ 1 ≤ 2 ^ (q - roundExp f m e).toNat := Nat.pow_le_pow_right (by decide) (by omega)
    rw [hf.two_pow] at hr
    rw [MagLe, Int.toNat_of_nonpos (by omega), Nat.pow_zero, Nat.mul_one]
    calc _ ≤ k * 2 ^ 1 := by omega
      _ ≤ _ := Nat.mul_le_mul_left _ h2
  · simpa [MagLe, heq] using hr

/-! ### The output conversion to J8 -/

/-- 14 × 2^4 = 224 is the largest finite J8 value. -/
theorem holds_maxJ8 : fJ8.Holds 14 4 := ⟨by decide, by decide, .inr (by decide)⟩

theorem vAbs_maxFinJ8 (n : Bool) : vAbs (maxFin fJ8 n) = .fin false 14 4 := by
  cases n <;> rfl

theorem magLe_of_not_vLt {m k : Nat} {e q : Int} (h : vLt (.fin false k q) (.fin false m e) = false) : MagLe m e k q := by
  refine Nat.not_lt.mp fun hn => ?_
  have h1 : (q - min q e).toNat = (q - e).toNat := by omega
  have h2 : (e - min q e).toNat = (e - q).toNat := by omega
  have hd : ((k * 2 ^ (q - e).toNat : Nat) : Int) - ((m * 2 ^ (e - q).toNat : Nat) : Int) < 0 := by omega
  simp only [vLt, vIsNan, vCmp, vExp, vInt, Nat.shiftLeft_eq, h1, h2, Bool.false_eq_true, if_false, if_pos hd] at h
  simp at h

theorem roundV_j8_of_magLe (md : RMode) (n : Bool) {m : Nat} {e : Int} (h : MagLe m e 14 4) :
    ∃ k q, roundV md fJ8 (.fin n m e) = .fin n k q ∧ MagLe k q 14 4 := by
  by_cases hm : m = 0
  · exact ⟨0, -10, if_pos hm, by simp [MagLe]⟩
  · have hc := magCode_roundMag_le md sound_fJ8 holds_maxJ8 (by decide) hm h
    refine ⟨_, _, ?_, h.roundMag md sound_fJ8 holds_maxJ8 (by decide) hm⟩
    exact (if_neg hm).trans (if_neg (Nat.not_le.mpr (Nat.lt_of_le_of_lt hc (by decide))))

/-- No finite value of at most 224 is written as a NaN code. -/
theorem encodeJ8_lt (n : Bool) {m : Nat} {e : Int} (h : MagLe m e 14 4) : encodeF fJ8 (.fin n m e) % 128 < 127 := by
  have hs : ∀ c < 127, signedCode fJ8 n c % 128 < 127 := fun c hc => by
    have hmod : signedCode fJ8 n c % 128 = c := signedCode_mod (f := fJ8) n (Nat.lt_trans hc (by decide))
    rwa [hmod]
  refine hs _ ?_
  split
  · decide
  next hm => exact Nat.lt_of_le_of_lt (magCode_roundMag_le .near sound_fJ8 holds_maxJ8 (by decide) hm h) (by decide)

/-- The conversion saturates an infinity and what is above 224, so it rounds NaN or a magnitude of at most 224. -/
theorem convert_j8_code (a : Acc) (c : Conv) (hc : c.fmt = fJ8) :
    (convert a c).code = 0x7F ∨ (convert a c).code % 128 < 127 := by
  unfold convert
  rw [hc]
  dsimp only
  split
  · exact .inl rfl
  generalize clampV c.clamp (vScale c.scale (convSum a c.bias)) = t
  split
  · refine .inr ?_
    change encodeF fJ8 (maxFin fJ8 (vNegBit t)) % 128 < 127
    cases vNegBit t <;> decide
  next hsat =>
    rw [vAbs_maxFinJ8] at hsat
    cases t with
    | nan => exact .inl rfl
    | inf n => exact absurd rfl hsat
    | fin n m e =>
      obtain ⟨k, q, hr, hk⟩ := roundV_j8_of_magLe c.mode n (magLe_of_not_vLt (Bool.eq_false_iff.mpr hsat))
      rw [hr]
      exact .inr (encodeJ8_lt n hk)

/-- Settles O55: the NaN codes are the two whose magnitude code is 127, and what is not NaN is converted to another one. -/
theorem j8HasTwoNanCodesAndWritesOne : Obligations.J8HasTwoNanCodesAndWritesOne := by
  unfold Obligations.J8HasTwoNanCodesAndWritesOne
  refine ⟨fun c => ?_, fun a c hc hnan => ?_⟩
  · have hlt := c.isLt
    rw [vIsNan_decodeJ8, ← BitVec.toNat_inj, ← BitVec.toNat_inj]
    change _ ↔ c.toNat = 127 ∨ c.toNat = 255
    omega
  · rw [vIsNan_decodeJ8] at hnan
    exact (convert_j8_code a c hc).resolve_right (by omega)

end Sys2Proof.Machine
end

section
/-! The window of a bench column (R46 to R48): sums of multiples of 2^q are exact, and a group whose products are multiples of
2^q with leading bits at most 88 positions above q loses no bit. -/

namespace Sys2Proof.Machine

/-! ### Exact sums -/

/-- A finite value that is held as a multiple of 2^q. -/
def MultOf (q : Int) (v : Val) : Prop := vIsFin v = true ∧ q ≤ vExp v

theorem vInt_coarser {q r : Int} (hqr : q ≤ r) {v : Val} (h : MultOf r v) : vInt q v = vInt r v * 2 ^ (r - q).toNat := by
  obtain ⟨n, m, e, rfl⟩ := exists_fin_of_vIsFin h.1
  have he : r ≤ e := h.2
  have hs : (e - q).toNat = (e - r).toNat + (r - q).toNat := by omega
  cases n <;>
    simp only [vInt, hs, Nat.shiftLeft_eq, Nat.pow_add, ← Nat.mul_assoc, Int.natCast_mul, Int.natCast_pow, Int.neg_mul,
      Bool.false_eq_true, if_false, if_true] <;> rfl

theorem vInt_vOfInt {q r : Int} (i : Int) : vInt q (vOfInt i r) = i * 2 ^ (r - q).toNat := by
  rcases Int.lt_or_le i 0 with hi | hi
  · have hn := Int.ofNat_natAbs_of_nonpos (Int.le_of_lt hi)
    simp only [vInt, vOfInt, decide_eq_true hi, if_true, Nat.shiftLeft_eq, Int.natCast_mul, hn, Int.neg_mul, Int.neg_neg]
    rfl
  · have hn := Int.natAbs_of_nonneg hi
    simp only [vInt, vOfInt, decide_eq_false (Int.not_lt.mpr hi), Bool.false_eq_true, if_false, Nat.shiftLeft_eq,
      Int.natCast_mul, hn]
    rfl

theorem vInt_zero (q : Int) (n : Bool) (e : Int) : vInt q (.fin n 0 e) = 0 := by
  cases n <;> simp [vInt]

/-- An exact zero sum has the exponent 0, hence q ≤ 0. -/
theorem vAdd_multOf {q : Int} (hq : q ≤ 0) {a b : Val} (ha : MultOf q a) (hb : MultOf q b) :
    MultOf q (vAdd a b) ∧ vInt q (vAdd a b) = vInt q a + vInt q b := by
  obtain ⟨na, ma, ea, rfl⟩ := exists_fin_of_vIsFin ha.1
  obtain ⟨nb, mb, eb, rfl⟩ := exists_fin_of_vIsFin hb.1
  have hmin : q ≤ min ea eb := Int.le_min.mpr ⟨ha.2, hb.2⟩
  unfold vAdd
  dsimp only
  split
  next hz =>
    obtain ⟨rfl, rfl⟩ := hz
    simp only [vInt_zero]
    exact ⟨⟨rfl, hq⟩, rfl⟩
  · refine ⟨⟨rfl, hmin⟩, ?_⟩
    have hca := vInt_coarser hmin (v := .fin na ma ea) ⟨rfl, Int.min_le_left ea eb⟩
    have hcb := vInt_coarser hmin (v := .fin nb mb eb) ⟨rfl, Int.min_le_right ea eb⟩
    rw [vInt_vOfInt, Int.add_mul, ← hca, ← hcb]

theorem vSum_multOf {q : Int} (hq : q ≤ 0) (ts : List Val) (h : ∀ v ∈ ts, MultOf q v) :
    MultOf q (vSum ts) ∧ vInt q (vSum ts) = (ts.map (vInt q)).sum := by
  induction ts with
  | nil => exact ⟨⟨rfl, hq⟩, vInt_zero q false 0⟩
  | cons v t ih =>
    have hv : MultOf q v := h v List.mem_cons_self
    cases t with
    | nil => exact ⟨hv, by simp [vSum]⟩
    | cons w t =>
      obtain ⟨ht, hsum⟩ := ih fun x hx => h x (List.mem_cons_of_mem _ hx)
      obtain ⟨hm, hadd⟩ := vAdd_multOf hq hv ht
      exact ⟨hm, by rw [List.map_cons, List.sum_cons, ← hsum]; exact hadd⟩

/-! ### The window -/

theorem maxLead_le {top : Int} {ts : List Val} (h : ∀ v ∈ ts, vIsZero v = false → vLead v ≤ top) {x : Int}
    (hx : maxLead ts = some x) : x ≤ top := by
  induction ts generalizing x with
  | nil => cases hx
  | cons v t ih =>
    have iht := fun y => ih (x := y) fun w hw => h w (List.mem_cons_of_mem _ hw)
    have hv := h v List.mem_cons_self
    simp only [maxLead] at hx
    split at hx
    next hfin =>
      have hlead : vLead v ≤ top := hv (by simpa using (Bool.and_eq_true_iff.mp hfin).2)
      cases hm : maxLead t with
      | none => rw [hm] at hx; cases hx; exact hlead
      | some y => rw [hm] at hx; cases hx; exact Int.max_le.mpr ⟨iht y hm, hlead⟩
    · exact iht x hx

theorem truncBelow_of_multOf {q : Int} {v : Val} (h : MultOf q v) : truncBelow q v = (v, false) := by
  obtain ⟨n, m, e, rfl⟩ := exists_fin_of_vIsFin h.1
  exact if_pos h.2

/-- A group in which the window cuts no finite product. -/
theorem groupSum_of_uncut {ts : List Val}
    (h : ∀ x, maxLead (ts.filter vIsFin) = some x → ∀ v ∈ ts.filter vIsFin, truncBelow (x - 88) v = (v, false)) :
    (groupSum ts).v = vSum (ts.filter vIsFin) ∧ (groupSum ts).inexact = false := by
  cases hm : maxLead (ts.filter vIsFin) with
  | none => simp [groupSum, hm, Function.comp_def]
  | some x => simp [groupSum, hm, List.map_congr_left (h x hm), Function.comp_def]

/-- The products are multiples of 2^q, and leading bits of at most q + 88 put the window's last position at q or below. -/
theorem groupSum_exact {q : Int} (hq : q ≤ 0) {ts : List Val}
    (h : ∀ v ∈ ts, vIsFin v = true → q ≤ vExp v ∧ (vIsZero v = false → vLead v ≤ q + 88)) :
    (groupSum ts).inexact = false ∧ vInt q (groupSum ts).v = ((ts.filter vIsFin).map (vInt q)).sum := by
  have hfin : ∀ v ∈ ts.filter vIsFin, MultOf q v ∧ (vIsZero v = false → vLead v ≤ q + 88) := fun v hv => by
    obtain ⟨hmem, hf⟩ := List.mem_filter.mp hv
    exact ⟨⟨hf, (h v hmem hf).1⟩, (h v hmem hf).2⟩
  obtain ⟨hv, hin⟩ := groupSum_of_uncut fun x hx v hv => by
    have hle := maxLead_le (fun w hw => (hfin w hw).2) hx
    obtain ⟨⟨hf, he⟩, -⟩ := hfin v hv
    exact truncBelow_of_multOf ⟨hf, by omega⟩
  exact ⟨hin, by rw [hv]; exact (vSum_multOf hq _ fun v hv => (hfin v hv).1).2⟩

/-! ### Products of two codes of one format -/

theorem vMul_fin {a b : Val} (h : vIsFin (vMul a b) = true) : vIsFin a = true ∧ vIsFin b = true := by
  cases a with
  | nan => cases h
  | inf x =>
    cases b with
    | nan => cases h
    | inf y => cases h
    | fin n m e => simp only [vMul] at h; split at h <;> cases h
  | fin n m e =>
    cases b with
    | nan => cases h
    | inf y => simp only [vMul] at h; split at h <;> cases h
    | fin n' m' e' => exact ⟨rfl, rfl⟩

theorem log2_lt_of_lt {m k : Nat} (hk : 0 < k) (h : m < 2 ^ k) : Nat.log2 m < k := by
  by_cases hm : m = 0
  · subst hm
    exact hk
  · exact (Nat.log2_lt hm).mpr h

/-- Two factors of at most p bits with exponents of l to u give a product of at most 2p bits with one of 2l to 2u. -/
theorem vMul_bounds {p : Nat} (hp : 0 < p) {l u : Int} {a b : Val}
    (ha : ∀ n m e, a = .fin n m e → m < 2 ^ p ∧ l ≤ e ∧ e ≤ u) (hb : ∀ n m e, b = .fin n m e → m < 2 ^ p ∧ l ≤ e ∧ e ≤ u)
    (h : vIsFin (vMul a b) = true) :
    2 * l ≤ vExp (vMul a b) ∧ (vIsZero (vMul a b) = false → vLead (vMul a b) ≤ 2 * u + 2 * p - 1) := by
  obtain ⟨hfa, hfb⟩ := vMul_fin h
  obtain ⟨na, ma, ea, rfl⟩ := exists_fin_of_vIsFin hfa
  obtain ⟨nb, mb, eb, rfl⟩ := exists_fin_of_vIsFin hfb
  obtain ⟨hma, hla, hua⟩ := ha _ _ _ rfl
  obtain ⟨hmb, hlb, hub⟩ := hb _ _ _ rfl
  have hlog : Nat.log2 (ma * mb) < 2 * p := by
    refine log2_lt_of_lt (by omega) ?_
    rw [Nat.two_mul, Nat.pow_add]
    exact Nat.mul_lt_mul'' hma hmb
  simp only [vMul, vExp, vLead]
  omega

/-- Settles O54: both kinds of product are multiples of 2^−48 with leading bits of at most 31, which is below −48 + 88. -/
theorem j8AndBinary16GroupSumsAreExact : Obligations.J8AndBinary16GroupSumsAreExact := by
  unfold Obligations.J8AndBinary16GroupSumsAreExact
  have hJ8 := fun a b => vMul_bounds (p := 4) (by decide) (fun _ _ _ => decodeJ8_range (c := a))
    (fun _ _ _ => decodeJ8_range (c := b))
  have hB16 := fun a b => vMul_bounds (p := 11) (by decide) (fun _ _ _ => decodeB16_range (c := a))
    (fun _ _ _ => decodeB16_range (c := b))
  refine ⟨hJ8, hB16, fun f ps hf => groupSum_exact (by decide) fun v hv hfin => ?_⟩
  obtain ⟨⟨a, b⟩, -, rfl⟩ := List.mem_map.mp hv
  rcases hf with rfl | rfl
  · exact (hJ8 a b hfin).imp (Int.le_trans (by decide)) fun hl hz => Int.le_trans (hl hz) (by decide)
  · exact (hB16 a b hfin).imp (Int.le_trans (by decide)) fun hl hz => Int.le_trans (hl hz) (by decide)

end Sys2Proof.Machine
end

section
/-! A bench's pass (R67, R70 to R72, R77): what its commands do once the pass is there, and what the slots, the waits and
the counters of a pass leave of a bench. -/

namespace Sys2Proof.Machine

/-! ### Slot tokens and counters leave what a bench holds -/

/-- What a bench holds for its passes, beside slot tokens, waits, the table of an inlay and counters. -/
structure Holding where
  entry : Option EntryRun
  store : Memory
  ld : Nat
  read : Bool
  shadow : List (Nat × Val)
  work : List (Nat × Val)
  acc : List (Nat × Acc)

def holding (x : Bench) : Holding := ⟨x.entry, x.store, x.ld, x.read, x.shadow, x.work, x.acc⟩

/-- Every bench holds in t what it holds in s. -/
structure SameHolding (s t : State) : Prop where
  of_bench (k : Fin 4) : holding t.bnc[k] = holding s.bnc[k]

theorem SameHolding.refl (s : State) : SameHolding s s := ⟨fun _ => rfl⟩

theorem SameHolding.of_bnc {s t u : State} (h : SameHolding s t) (e : u.bnc = t.bnc) : SameHolding s u :=
  ⟨fun k => by rw [e, h.of_bench k]⟩

theorem sameHolding_setBnc {s t : State} (h : SameHolding s t) (b : Fin 4) {f : Bench → Bench}
    (hf : ∀ x, holding (f x) = holding x) : SameHolding s (setBnc b f t) := ⟨fun k => by
  refine Eq.trans ?_ (h.of_bench k)
  by_cases hk : k = b
  · subst hk
    exact (congrArg holding (upd_same t.bnc k f)).trans (hf _)
  · exact congrArg holding (upd_other t.bnc b k f hk)⟩

theorem sameHolding_bumpBnc {s t : State} (h : SameHolding s t) (b : Fin 4) (i : Fin 7) (n : Nat) :
    SameHolding s (bumpBnc b i n t) :=
  (sameHolding_setBnc h b fun _ => by rfl).of_bnc (postIf_bnc ..)

/-- One of two states, whichever the condition chooses. -/
theorem sameHolding_ite {s t u : State} (c : Prop) [Decidable c] (h : SameHolding s t) (g : SameHolding s u) :
    SameHolding s (if c then t else u) := by
  split
  · exact h
  · exact g

theorem foldl_bnc {α : Type} {f : State → α → State} (hf : ∀ s a, (f s a).bnc = s.bnc) :
    ∀ (as : List α) (s : State), (as.foldl f s).bnc = s.bnc
  | [], _ => rfl
  | a :: as, s => (foldl_bnc hf as (f s a)).trans (hf s a)

theorem send_bnc (dst : BitVec 16) (kind : Byte) (arg : BitVec 16) (p : Payload) (s : State) :
    (send dst kind arg p s).bnc = s.bnc := by
  unfold send
  dsimp only
  split
  · exact foldl_bnc (fun _ _ => by rfl) _ _
  · split
    · rfl
    · unfold sendTo
      split <;> rfl

theorem grantPeers_bnc (s : State) : (grantPeers s).bnc = s.bnc := by
  refine foldl_bnc (fun s p => ?_) _ s
  unfold grantPeer
  split
  · exact send_bnc ..
  · rfl

theorem holding_lutMark (b : Fin 4) (bit : BitVec 256) (x : Bench) : holding (lutMark b bit x) = holding x := by
  unfold lutMark
  split <;> rfl

theorem vmap_at {α β : Type} {n : Nat} (f : α → β) (v : Vector α n) (i : Fin n) : (vmap f v)[i] = f v[i] := by
  simp [vmap]

theorem sameHolding_markSlot {s t : State} (h : SameHolding s t) (b : Fin 4) (n : Nat) (full : Bool) :
    SameHolding s (markSlot b n full t) := by
  have hs : SameHolding s (setBnc b (fun x => { x with
      slots := if full then x.slots ||| BitVec.ofNat 256 (2 ^ n) else x.slots &&& ~~~BitVec.ofNat 256 (2 ^ n) }) t) :=
    sameHolding_setBnc h b fun _ => by rfl
  unfold markSlot
  dsimp only
  refine sameHolding_ite _ h (sameHolding_ite _ ⟨fun k => ?_⟩ (hs.of_bnc (grantPeers_bnc _)))
  rw [vmap_at, holding_lutMark, hs.of_bench k]

theorem sameHolding_benchGo {s t : State} (h : SameHolding s t) (b : Fin 4) (kind : BitVec 2) :
    SameHolding s (benchGo b kind t) :=
  sameHolding_setBnc h b fun x => by split <;> rfl

theorem sameHolding_benchCycles {s t : State} (h : SameHolding s t) (b : Fin 4) (cy : BenchCycles) :
    SameHolding s (benchCycles b cy t) := by
  unfold benchCycles
  exact sameHolding_bumpBnc (sameHolding_bumpBnc (sameHolding_bumpBnc (sameHolding_bumpBnc (sameHolding_bumpBnc h
    b _ _) b _ _) b _ _) b _ _) b _ _

theorem sameHolding_bumpGated {s t : State} (h : SameHolding s t) (b : Fin 4) (n : Nat) :
    SameHolding s (bumpGated b n t) :=
  sameHolding_bumpBnc (sameHolding_setBnc h b fun _ => by rfl) b 6 _

/-- R67: weights that were kept are released once. -/
theorem releaseKept_due {b : Fin 4} (d : Desc8) {s : State} (h : s.bnc[b].relDue = true) :
    releaseKept b d s = markSlot (benchHome b s) (pWSlot d) false (setBnc b (fun x => { x with relDue := false }) s) :=
  if_pos h

theorem releaseKept_done {b : Fin 4} (d : Desc8) {s : State} (h : s.bnc[b].relDue = false) : releaseKept b d s = s :=
  if_neg (Bool.eq_false_iff.mp h)

theorem sameHolding_releaseKept {s t : State} (h : SameHolding s t) (b : Fin 4) (d : Desc8) :
    SameHolding s (releaseKept b d t) := by
  cases hd : t.bnc[b].relDue with
  | false => rwa [releaseKept_done d hd]
  | true =>
    rw [releaseKept_due d hd]
    exact sameHolding_markSlot (sameHolding_setBnc h b fun _ => by rfl) ..

/-- The start of a load or a stream: the wait ends, its cycles count, and every word read can be corrected. -/
def benchStarted (b : Fin 4) (kind : BitVec 2) (cy : BenchCycles) (ecc : Ecc) (s : State) : State :=
  bumpStk 5 ecc.corr (benchCycles b cy (benchGo b kind s))

theorem storeEcc_benchStarted (j b : Fin 4) (kind : BitVec 2) (cy : BenchCycles) {ecc : Ecc} (s : State)
    (h : ecc.uncorr = none) :
    storeEcc j ecc (benchCycles b cy (benchGo b kind s)) = (true, benchStarted b kind cy ecc s) := by
  simp only [storeEcc, h, benchStarted]

theorem sameHolding_benchStarted (b : Fin 4) (kind : BitVec 2) (cy : BenchCycles) (ecc : Ecc) (s : State) :
    SameHolding s (benchStarted b kind cy ecc s) :=
  (sameHolding_benchCycles (sameHolding_benchGo (.refl s) b kind) b cy).of_bnc (bumpStk_bnc ..)

/-! ### What a load and a stream read is what the benches hold -/

theorem SameHolding.benchHome_eq {s t : State} (h : SameHolding s t) (b : Fin 4) : benchHome b t = benchHome b s := by
  have he : t.bnc[b].entry = s.bnc[b].entry := congrArg Holding.entry (h.of_bench b)
  simp only [benchHome, he]

theorem SameHolding.storeRead_eq {s t : State} (h : SameHolding s t) (b : Fin 4) (a n : Nat) :
    storeRead b a n t = storeRead b a n s := by
  have hs : homeStore b t = homeStore b s := by
    unfold homeStore
    simp only [h.benchHome_eq]
    exact congrArg Holding.store (h.of_bench (benchHome b s))
  simp only [storeRead, hs]

theorem SameHolding.operandAt_eq {s t : State} (h : SameHolding s t) (b : Fin 4) (d : Desc8) (a : Nat) :
    operandAt b d a t = operandAt b d a s := by
  simp only [operandAt, h.storeRead_eq]

theorem SameHolding.loadTile_eq {s t : State} (h : SameHolding s t) (b : Fin 4) (d : Desc8) :
    loadTile b d none t = loadTile b d none s := by
  have hs : t.bnc[b].shadow = s.bnc[b].shadow := congrArg Holding.shadow (h.of_bench b)
  simp only [loadTile, weightAt, h.operandAt_eq, hs]

/-- The accumulators after a pass: those before it, with each column of each vector added. -/
def streamedAcc (b : Fin 4) (d : Desc8) (s : State) : List (Nat × Acc) :=
  ((List.range (pVectors d)).map fun m => (m, vectorOf b d m s)).foldl
    (fun t v => (List.range (pCols d)).foldl (fun u j => columnStep d s.bnc[b].work v.1 v.2 j u) t) s.bnc[b].acc

theorem SameHolding.streamedAcc_eq {s t : State} (h : SameHolding s t) (b : Fin 4) (d : Desc8) :
    streamedAcc b d t = streamedAcc b d s := by
  have hw : t.bnc[b].work = s.bnc[b].work := congrArg Holding.work (h.of_bench b)
  have ha : t.bnc[b].acc = s.bnc[b].acc := congrArg Holding.acc (h.of_bench b)
  simp only [streamedAcc, vectorOf, h.operandAt_eq, hw, ha]

/-- A stream changes of what a bench holds the accumulators alone. -/
theorem holding_streamPass (b : Fin 4) (d : Desc8) (s : State) :
    holding (streamPass b d s).bnc[b] = { holding s.bnc[b] with acc := streamedAcc b d s } :=
  ((sameHolding_bumpGated (.refl _) b _).of_bench b).trans (congrArg holding (upd_same ..))

theorem holding_setRead (b : Fin 4) (s : State) :
    holding (setBnc b (fun x => { x with read := true }) s).bnc[b] = { holding s.bnc[b] with read := true } :=
  congrArg holding (upd_same ..)

/-! ### The commands -/

theorem exec_benchPass (b : Fin 4) (s : State) : exec (.benchPass b) s = execBenchPass b s := rfl

theorem exec_benchWeightLoad (b : Fin 4) (cy : BenchCycles) (ecc : Ecc) (s : State) :
    exec (.benchWeightLoad b cy ecc) s = execBenchWeightLoad b cy ecc s := rfl

theorem exec_benchActivationRead (b : Fin 4) (cy : BenchCycles) (ecc : Ecc) (s : State) :
    exec (.benchActivationRead b cy ecc) s = execBenchActivationRead b cy ecc s := rfl

theorem exec_benchOutputWrite (b : Fin 4) (cy : BenchCycles) (s : State) :
    exec (.benchOutputWrite b cy) s = execBenchOutputWrite b cy s := rfl

section
variable {b : Fin 4} {e : EntryRun} {d : Desc8} {s : State}

/-- R71: a kept tile stays in the cells. -/
theorem benchPass_kept (hp : passAt b s.bnc[b].pc s = some (e, d)) (hb : s.bnc[b].begun = false)
    (hk : keptHere s.bnc[b] e d = true) :
    exec (.benchPass b) s = .next (setBnc b (fun y => { y with
      begun := true, ld := y.pc + 1, relDue := pKeep d && pWRel d, chainOpen := y.chainOpen || pFirst d }) s) := by
  simp only [exec_benchPass, execBenchPass, hp, hb, hk, Bool.false_eq_true, if_false, if_true]

/-- R67: the shadow weights are promoted. -/
theorem benchPass_loaded (hp : passAt b s.bnc[b].pc s = some (e, d)) (hb : s.bnc[b].begun = false)
    (hk : keptHere s.bnc[b] e d = false) (hl : s.bnc[b].ld = s.bnc[b].pc + 1) :
    exec (.benchPass b) s = .next (setBnc b (fun y => { y with
      begun := true, work := y.shadow, held := some (e.job, e.prog), relDue := pKeep d && pWRel d,
      chainOpen := y.chainOpen || pFirst d }) s) := by
  simp only [exec_benchPass, execBenchPass, hp, hb, hk, hl, Bool.false_eq_true, if_false, if_true]

section
variable (cy : BenchCycles) (ecc : Ecc) (hp : passAt b s.bnc[b].ld s = some (e, d)) (hd : loadDue s.bnc[b] e d = true)
include hp hd

theorem benchWeightLoad_outside
    (hr : passInStore d ((inlayOf s e s.bnc[b].ld d).map (·.2)) (tensorWidth s (pOutTensor d)) = false) :
    exec (.benchWeightLoad b cy ecc) s = .fault .storeRange := by
  simp only [exec_benchWeightLoad, execBenchWeightLoad, hp, hd, hr, Bool.not_true, Bool.not_false, Bool.false_eq_true,
    if_false, if_true]

theorem benchWeightLoad_waits
    (hr : passInStore d ((inlayOf s e s.bnc[b].ld d).map (·.2)) (tensorWidth s (pOutTensor d)) = true)
    (hf : slotFull (benchHome b s) (pWSlot d) s = false) :
    exec (.benchWeightLoad b cy ecc) s = .next (benchWait b 1 (pWSlot d) (benchCycles b cy s)) := by
  simp only [exec_benchWeightLoad, execBenchWeightLoad, hp, hd, hr, hf, Bool.not_true, Bool.not_false, Bool.false_eq_true,
    if_false, if_true]

/-- R72: the tile of a pass without an inlay goes into the shadow weights. -/
theorem benchWeightLoad_loads (hi : pInlay d = false)
    (hr : passInStore d none (tensorWidth s (pOutTensor d)) = true) (hf : slotFull (benchHome b s) (pWSlot d) s = true)
    (he : ecc.uncorr = none) :
    ∃ t, exec (.benchWeightLoad b cy ecc) s = .next t ∧
      holding t.bnc[b] = { holding s.bnc[b] with ld := s.bnc[b].ld + 1, shadow := loadTile b d none s } := by
  have hn : inlayOf s e s.bnc[b].ld d = none := by simp only [inlayOf, hi, Bool.false_eq_true, if_false]
  have hs := sameHolding_benchStarted b 1 cy ecc s
  have hld : (benchStarted b 1 cy ecc s).bnc[b].ld = s.bnc[b].ld := congrArg Holding.ld (hs.of_bench b)
  simp only [exec_benchWeightLoad, execBenchWeightLoad, hp, hd, hn, hr, hf, storeEcc_benchStarted _ _ _ _ _ he,
    Option.map_none, Bool.not_true, Bool.false_eq_true, if_false]
  refine ⟨_, rfl, ((sameHolding_ite _ (sameHolding_markSlot (.refl _) ..) (.refl _)).of_bench b).trans ?_⟩
  rw [← hs.of_bench b, ← hs.loadTile_eq, ← hld]
  exact congrArg holding (upd_same ..)

end

section
variable (cy : BenchCycles) (ecc : Ecc) (hp : passAt b s.bnc[b].pc s = some (e, d)) (hb : s.bnc[b].begun = true)
  (hread : s.bnc[b].read = false)
include hp hb hread

theorem benchActivationRead_outside
    (hr : passInStore d ((inlayOf s e s.bnc[b].pc d).map (·.2)) (tensorWidth s (pOutTensor d)) = false) :
    exec (.benchActivationRead b cy ecc) s = .fault .storeRange := by
  simp only [exec_benchActivationRead, execBenchActivationRead, hp, hb, hread, hr, Bool.not_true, Bool.not_false,
    Bool.or_self, Bool.false_eq_true, if_false, if_true]

/-- R77: a LAST pass streams its activations into the accumulators. -/
theorem benchActivationRead_streams
    (hr : passInStore d ((inlayOf s e s.bnc[b].pc d).map (·.2)) (tensorWidth s (pOutTensor d)) = true)
    (hf : slotFull (benchHome b s) (pASlot d) s = true) (he : ecc.uncorr = none) (hl : pLast d = true) :
    ∃ t, exec (.benchActivationRead b cy ecc) s = .next t ∧
      holding t.bnc[b] = { holding s.bnc[b] with read := true, acc := streamedAcc b d s } := by
  have hs := sameHolding_benchStarted b 2 cy ecc s
  have hstream : holding (streamPass b d (benchStarted b 2 cy ecc s)).bnc[b] =
      { holding s.bnc[b] with acc := streamedAcc b d s } := by
    rw [holding_streamPass, hs.of_bench b, hs.streamedAcc_eq]
  simp only [exec_benchActivationRead, execBenchActivationRead, hp, hb, hread, hr, hf, hl,
    storeEcc_benchStarted _ _ _ _ _ he, Bool.not_true, Bool.or_self, Bool.false_eq_true, if_false, if_true]
  refine ⟨_, rfl, ((sameHolding_ite _ (sameHolding_releaseKept (.refl _) ..) (.refl _)).of_bench b).trans ?_⟩
  rw [holding_setRead, (sameHolding_ite _ (sameHolding_markSlot (.refl _) ..) (.refl _)).of_bench b]
  exact congrArg (fun x => { x with read := true }) hstream

end

section
variable (cy : BenchCycles) (hp : passAt b s.bnc[b].pc s = some (e, d)) (hread : s.bnc[b].read = true)
  (hl : pLast d = true)
include hp hread hl

theorem benchOutputWrite_outside
    (hr : passInStore d ((inlayOf s e s.bnc[b].pc d).map (·.2)) (tensorWidth s (pOutTensor d)) = false) :
    exec (.benchOutputWrite b cy) s = .fault .storeRange := by
  simp only [exec_benchOutputWrite, execBenchOutputWrite, hp, hread, hl, hr, Bool.not_true, Bool.not_false, Bool.or_self,
    Bool.false_eq_true, if_false, if_true]

variable (hr : passInStore d ((inlayOf s e s.bnc[b].pc d).map (·.2)) (tensorWidth s (pOutTensor d)) = true)
include hr

theorem benchOutputWrite_waits (hf : slotEmpty (benchHome b s) (pDoneSlot d) s = false) :
    exec (.benchOutputWrite b cy) s = .next (benchWait b 3 (pDoneSlot d) (benchCycles b cy s)) := by
  simp only [exec_benchOutputWrite, execBenchOutputWrite, hp, hread, hl, hr, hf, Bool.not_true, Bool.not_false,
    Bool.or_self, Bool.false_eq_true, if_false, if_true]

/-- R68, R77: the outputs are written and mark their slot FULL. -/
theorem benchOutputWrite_writes (hf : slotEmpty (benchHome b s) (pDoneSlot d) s = true) {s1 : State}
    (h1 : s1 = writeOutputs e.job b d (releaseKept b d (benchCycles b cy (benchGo b 3 s)))) :
    exec (.benchOutputWrite b cy) s = .next (passDone b (setBnc b (fun z => { z with chainOpen := false })
      (markSlot (benchHome b s1) (pDoneSlot d) true s1))) := by
  simp only [exec_benchOutputWrite, execBenchOutputWrite, hp, hread, hl, hr, hf, h1, Bool.not_true, Bool.or_self,
    Bool.false_eq_true, if_false]

end

end

/-- Settles O33: each command has a lemma above for each way it goes; what a load and a stream find in the bench is what it
held before the command (`SameHolding`). -/
theorem benchPassesLoadStreamAndWrite : Obligations.BenchPassesLoadStreamAndWrite := by
  refine ⟨fun b e d s hp hb hk hl => ?_, fun b e d s hp hb hk => ?_,
    fun b cy ecc e d s hp hd hr hf => benchWeightLoad_waits cy ecc hp hd hr hf,
    fun b cy ecc e d s hp hd hi hr hf he => ?_, fun b cy ecc e d s hp hb hread hr hf he hl => ?_,
    fun b cy e d s hp hread hl hr hf => benchOutputWrite_waits cy hp hread hl hr hf,
    fun b cy e d s s1 hp hread hl hr hf h1 => benchOutputWrite_writes cy hp hread hl hr hf h1,
    fun b d s h => releaseKept_due d h, fun b d s h => releaseKept_done d h,
    fun b cy ecc e d s hp hb hread hr => benchActivationRead_outside cy ecc hp hb hread hr,
    fun b cy e d s hp hread hl hr => benchOutputWrite_outside cy hp hread hl hr,
    fun b cy ecc e d s hp hd hr => benchWeightLoad_outside cy ecc hp hd hr⟩
  · refine ⟨_, benchPass_loaded hp hb hk hl, ?_, ?_, ?_, fun k hk => upd_other _ _ _ _ hk, rfl⟩ <;>
      rw [setBnc_bnc, upd_same]
  · refine ⟨_, benchPass_kept hp hb hk, ?_, ?_, ?_, fun k hk => upd_other _ _ _ _ hk, rfl⟩ <;>
      rw [setBnc_bnc, upd_same]
  · obtain ⟨t, ht, hh⟩ := benchWeightLoad_loads cy ecc hp hd hi hr hf he
    exact ⟨t, ht, congrArg Holding.ld hh, congrArg Holding.shadow hh, congrArg Holding.store hh, congrArg Holding.work hh,
      congrArg Holding.acc hh⟩
  · obtain ⟨t, ht, hh⟩ := benchActivationRead_streams cy ecc hp hb hread hr hf he hl
    exact ⟨t, ht, congrArg Holding.read hh,
      (congrArg Holding.acc hh).trans (congrArg Holding.acc (holding_streamPass b d s)).symm,
      congrArg Holding.store hh⟩

end Sys2Proof.Machine
end

section
/-! What the end of a microprogram leaves of the lathes' requests (R108, R109). It can end an entry, a request of a job, the
job, a change of membership and the power, and none of these asks a lathe for anything: each operation leaves the lathes alone
(`send_lth` and the like), or leaves each request as it is or drops it (`asks_haltUnits` and the like). -/

namespace Sys2Proof.Machine

/-! ### Operations that leave the lathes alone -/

theorem foldl_lth {α : Type} {f : State → α → State} (hf : ∀ s a, (f s a).lth = s.lth) :
    ∀ (as : List α) (s : State), (as.foldl f s).lth = s.lth
  | [], _ => rfl
  | a :: as, s => (foldl_lth hf as (f s a)).trans (hf s a)

theorem eachSlot_lth {f : Fin 4 → State → State} (hf : ∀ j s, (f j s).lth = s.lth) (s : State) :
    (eachSlot f s).lth = s.lth := by
  simp only [eachSlot, hf]

/-! Messages. -/

@[simp] theorem noteSent_lth (x : Sent) (s : State) : (noteSent x s).lth = s.lth := rfl

@[simp] theorem enqueue_lth (l : Fin 8) (x : Sent) (s : State) : (enqueue l x s).lth = s.lth := rfl

@[simp] theorem sendTo_lth (dst : Nat) (x : Sent) (s : State) : (sendTo dst x s).lth = s.lth := by
  unfold sendTo
  split <;> rfl

@[simp] theorem send_lth (dst : BitVec 16) (kind : Byte) (arg : BitVec 16) (p : Payload) (s : State) :
    (send dst kind arg p s).lth = s.lth := by
  unfold send
  dsimp only
  split
  · exact foldl_lth (fun _ _ => by rfl) _ _
  · split <;> simp

@[simp] theorem sendAll_lth (kind : Byte) (arg : BitVec 16) (p : Payload) (s : State) :
    (sendAll kind arg p s).lth = s.lth := send_lth ..

@[simp] theorem sendCoord_lth (kind : Byte) (arg : BitVec 16) (p : Payload) (s : State) :
    (sendCoord kind arg p s).lth = s.lth := by
  unfold sendCoord
  split <;> simp

@[simp] theorem tellArrivals_lth (kind : Byte) (p : Payload) (view : List Member) (s : State) :
    (tellArrivals kind p view s).lth = s.lth := foldl_lth (fun _ _ => by rfl) _ _

@[simp] theorem sendEnact_lth (e : Enactment) (s : State) : (sendEnact e s).lth = s.lth := by
  simp only [sendEnact, tellArrivals_lth, sendAll_lth]

@[simp] theorem abortAll_lth (idx step : Nat) (s : State) : (abortAll idx step s).lth = s.lth := by
  simp only [abortAll, sendAll_lth]

@[simp] theorem sendAbort_lth (x : Job) (s : State) : (sendAbort x s).lth = s.lth := abortAll_lth ..

@[simp] theorem tellAbort_lth (j : Fin 4) (s : State) : (tellAbort j s).lth = s.lth := by
  unfold tellAbort
  split
  · split
    · split <;> simp
    · rfl
  · rfl

@[simp] theorem sendNeeds_lth (j : Fin 4) (x : Job) (fl : List Need) (s : State) : (sendNeeds j x fl s).lth = s.lth :=
  foldl_lth (fun _ _ => send_lth ..) _ _

@[simp] theorem reportUp_lth (l : Fin 8) (s : State) : (reportUp l s).lth = s.lth := by
  unfold reportUp
  split
  · exact sendCoord_lth ..
  · rfl

@[simp] theorem unjoin_lth (s : State) : (unjoin s).lth = s.lth := rfl
@[simp] theorem noteChange_lth (c : Change) (s : State) : (noteChange c s).lth = s.lth := rfl
@[simp] theorem keepLate_lth (before : State) (p : Proposal) (s : State) : (keepLate before p s).lth = s.lth := rfl
@[simp] theorem adoptView_lth (e : Enactment) (m : Member) (s : State) : (adoptView e m s).lth = s.lth := rfl

/-! Links and drawers. -/

@[simp] theorem moveOne_lth (l : Fin 8) (before after : State) (m : BitVec 2 × Nat × Sent) (s : State) :
    (moveOne l before after m s).lth = s.lth := by
  unfold moveOne
  dsimp only
  split
  · split <;> rfl
  · exact foldl_lth (fun _ _ => by rfl) _ _

@[simp] theorem moveQueue_lth (l : Fin 8) (before after : State) : (moveQueue l before after).lth = after.lth :=
  foldl_lth (fun _ _ => moveOne_lth ..) _ _

@[simp] theorem retrainLink_lth (b : Bool) (l : Fin 8) (s : State) : (retrainLink b l s).lth = s.lth := by
  simp only [retrainLink, post_lth, bumpLink_lth, moveQueue_lth, setLink_lth]
  split
  · split
    · rfl
    · exact sendCoord_lth ..
  · rfl

@[simp] theorem retrainCheck_lth (s : State) : (retrainCheck s).lth = s.lth := by
  unfold retrainCheck
  split
  · split <;> simp
  · rfl

@[simp] theorem retrainUnitDone_lth (n : Nat) (failed : Bool) (s : State) :
    (retrainUnitDone n failed s).lth = s.lth := by
  unfold retrainUnitDone
  dsimp only
  split
  · exact retrainCheck_lth _
  · rfl

@[simp] theorem startUnit_lth (n : Nat) (s : State) : (startUnit n s).lth = s.lth := by
  unfold startUnit
  dsimp only
  split
  · split
    · exact retrainLink_lth ..
    · exact retrainUnitDone_lth ..
  · rfl

@[simp] theorem nextUnit_lth (k : Nat) (s : State) : (nextUnit k s).lth = s.lth := by
  induction k generalizing s with
  | zero => rfl
  | succ k ih =>
    unfold nextUnit
    split
    · rfl
    · split
      · rfl
      · rw [ih, startUnit_lth]

/-! Frames and handles. -/

@[simp] theorem setHandle_lth (h : Nat) (f : Handle → Handle) (s : State) : (setHandle h f s).lth = s.lth := by
  unfold setHandle
  split <;> rfl

@[simp] theorem dropFrame_lth (h i : Nat) (s : State) : (dropFrame h i s).lth = s.lth := setHandle_lth ..

@[simp] theorem freeFrame_lth (h i : Nat) (s : State) : (freeFrame h i s).lth = s.lth := by
  unfold freeFrame
  split
  · rfl
  · split <;> simp

@[simp] theorem freeHandle_lth (h : Nat) (s : State) : (freeHandle h s).lth = s.lth := by
  unfold freeHandle
  split
  · rfl
  · split <;> simp

@[simp] theorem freeHandles_lth (hs : List Nat) (s : State) : (freeHandles hs s).lth = s.lth := by
  induction hs generalizing s with
  | nil => rfl
  | cons h hs ih => rw [freeHandles, ih, freeHandle_lth]

@[simp] theorem unpin_lth (gone : PinBy → Bool) (s : State) : (unpin gone s).lth = s.lth := by
  unfold unpin
  dsimp only
  rw [foldl_lth fun _ _ => freeHandle_lth .., foldl_lth fun _ _ => dropFrame_lth ..]

theorem moveFrame_lth (q : Nat × Nat) (y : State × List Nat × Nat) : (moveFrame q y).1.lth = y.1.lth := by
  unfold moveFrame
  dsimp only
  split
  · split <;> simp
  · rfl

theorem moveFrames_lth (qs : List (Nat × Nat)) (y : State × List Nat × Nat) :
    (qs.foldl (fun y q => moveFrame q y) y).1.lth = y.1.lth := by
  induction qs generalizing y with
  | nil => rfl
  | cons q qs ih => exact (ih _).trans (moveFrame_lth q y)

@[simp] theorem replaceFrames_lth (s : State) : (replaceFrames s).lth = s.lth := by
  unfold replaceFrames
  split
  · exact moveFrames_lth ..
  · rfl

@[simp] theorem tcFill_lth (q : Nat × Nat) (s : State) : (tcFill q s).lth = s.lth := by
  unfold tcFill
  split <;> rfl

@[simp] theorem translate_lth (h i : Nat) (s : State) : (translate h i s).lth = s.lth := by
  unfold translate
  dsimp only
  split <;> split <;> simp

@[simp] theorem countReqs_lth (h off n : Nat) (s : State) : (countReqs h off n s).lth = s.lth := by
  unfold countReqs
  split <;> rfl

@[simp] theorem useHandle_lth (h off n : Nat) (s : State) : (useHandle h off n s).lth = s.lth := by
  unfold useHandle
  split
  · rfl
  · rw [countReqs_lth, foldl_lth fun _ _ => translate_lth ..]

@[simp] theorem pageOutRun_lth (h i : Nat) (s : State) : (pageOutRun h i s).lth = s.lth := setHandle_lth ..

@[simp] theorem makeRoom_lth (s : State) : (makeRoom s).lth = s.lth := by
  unfold makeRoom
  split
  · split <;> simp
  · rfl

theorem pickPfn_lth {s t : State} {p : Nat} (h : pickPfn s = some (p, t)) : t.lth = s.lth := by
  unfold pickPfn at h
  dsimp only at h
  split at h
  · cases h
  · cases h
    exact makeRoom_lth s

theorem touchFrame_lth {h i : Nat} {s t : State} (ht : touchFrame h i s = some t) : t.lth = s.lth := by
  unfold touchFrame at ht
  dsimp only at ht
  split at ht
  · cases ht
  · split at ht
    · cases ht
      exact setHandle_lth ..
    · split at ht
      · cases ht
      · next h1 =>
        cases ht
        have h2 := pickPfn_lth h1
        exact (setHandle_lth ..).trans h2

theorem touchFrames_lth {h : Nat} : ∀ {is : List Nat} {s t : State}, touchFrames h is s = some t → t.lth = s.lth
  | [], _, _, ht => by cases ht; rfl
  | i :: is, s, t, ht => by
    obtain ⟨s1, h1, ht⟩ := Option.bind_eq_some_iff.mp ht
    exact (touchFrames_lth ht).trans (touchFrame_lth h1)

theorem writeHandle_lth {h off : Nat} {bs : List Byte} {s t : State} (ht : writeHandle h off bs s = some t) :
    t.lth = s.lth := by
  obtain ⟨s1, h1, ht⟩ := Option.map_eq_some_iff.mp ht
  subst ht
  exact (useHandle_lth ..).trans (touchFrames_lth h1)

@[simp] theorem exhausted_lth (j : Nat) (s : State) : (exhausted j s).lth = s.lth := post_lth ..

/-! Jobs, benches and planes. -/

@[simp] theorem setTens_lth (j : Fin 4) (id : BitVec 16) (f : TRun → TRun) (s : State) : (setTens j id f s).lth = s.lth := rfl
@[simp] theorem sendTally_lth (j : Fin 4) (x : Job) (id : BitVec 16) (t : Tally) (s : State) :
    (sendTally j x id t s).lth = s.lth := by
  unfold sendTally
  dsimp only
  rw [foldl_lth fun _ _ => send_lth .., bumpCol_lth]

@[simp] theorem tallyEndOne_lth (j : Fin 4) (x : Job) (s : State) (t : Tensor) : (tallyEndOne j x s t).lth = s.lth := by
  unfold tallyEndOne
  split
  · rfl
  · simp

@[simp] theorem tryTallyEnd_lth (j : Fin 4) (s : State) : (tryTallyEnd j s).lth = s.lth := by
  unfold tryTallyEnd
  split
  · rfl
  · split
    · exact foldl_lth (fun _ _ => tallyEndOne_lth ..) _ _
    · rfl

@[simp] theorem latency_lth (j : Fin 4) (x : Job) (s : State) : (latency j x s).lth = s.lth := by
  unfold latency
  split
  · rfl
  · split
    · dsimp only
      split <;> simp
    · rfl

@[simp] theorem leaveAborting_lth (j : Fin 4) (s : State) : (leaveAborting j s).lth = s.lth := rfl

@[simp] theorem assignIdle_lth (es : List (Fin 8)) (qs : List (Fin 4 × List Desc8)) (s : State) :
    (assignIdle es qs s).lth = s.lth := by
  induction es generalizing qs s with
  | nil => rfl
  | cons e es ih =>
    cases qs with
    | nil => rfl
    | cons q qs => exact ih ..

@[simp] theorem dropEngines_lth (j : Fin 4) (s : State) : (dropEngines j s).lth = s.lth := assignIdle_lth ..

@[simp] theorem freeArrivals_lth (j : Fin 4) (s : State) : (freeArrivals j s).lth = s.lth := by
  unfold freeArrivals
  split
  · rfl
  · rw [setJob_lth, foldl_lth fun _ _ => freeHandle_lth ..]

@[simp] theorem waitEnds_lth (b : Fin 4) (s : State) : (waitEnds b s).lth = s.lth := by
  unfold waitEnds
  split <;> rfl

@[simp] theorem planeWaitEnds_lth (p : Fin 16) (s : State) : (planeWaitEnds p s).lth = s.lth := by
  unfold planeWaitEnds
  split <;> rfl

@[simp] theorem endWaits_lth (j : Fin 4) (s : State) : (endWaits j s).lth = s.lth := by
  unfold endWaits
  dsimp only
  rw [foldl_lth fun s p => ?_, foldl_lth fun s b => ?_]
  · split
    · split <;> simp
    · rfl
  · split <;> simp

@[simp] theorem clearSlots_lth (j : Fin 4) (s : State) : (clearSlots j s).lth = s.lth := by
  unfold clearSlots
  split <;> rfl

@[simp] theorem freeActs_lth (j : Fin 4) (e : EntryRun) (s : State) : (freeActs j e s).lth = s.lth := by
  unfold freeActs
  split
  · rfl
  · split
    · rfl
    · refine foldl_lth (fun s q => ?_) _ _
      split
      · split <;> simp
      · rfl

@[simp] theorem seatProg_lth (b : Fin 4) (e : EntryRun) (s : State) (n : Nat) : (seatProg b e s n).lth = s.lth := by
  unfold seatProg
  split
  · rfl
  · split <;> rfl

@[simp] theorem seatBench_lth (b : Fin 4) (s : State) : (seatBench b s).lth = s.lth := by
  unfold seatBench
  split
  · rfl
  · exact foldl_lth (fun _ _ => seatProg_lth ..) _ _

@[simp] theorem seatAll_lth (s : State) : (seatAll s).lth = s.lth := eachSlot_lth (fun _ _ => seatBench_lth ..) s

/-! Results of commands that end. -/

@[simp] theorem answerAll_lth (st : Byte) (a b : Word) (ps : List Pend) (s : State) :
    (answerAll st a b ps s).lth = s.lth := by
  induction ps generalizing s with
  | nil => rfl
  | cons p ps ih => rw [answerAll, ih, answer_lth]

@[simp] theorem endReplays_lth (st : Byte) (rs : List ReplayReq) (s : State) : (endReplays st rs s).lth = s.lth := by
  induction rs generalizing s with
  | nil => rfl
  | cons r rs ih => rw [endReplays, ih, endOpt_lth]

@[simp] theorem endTasks_lth (st : Byte) (ts : List FlashTask) (s : State) : (endTasks st ts s).lth = s.lth := by
  induction ts generalizing s with
  | nil => rfl
  | cons t ts ih => rw [endTasks, ih, endOpt_lth]

@[simp] theorem endWaiting_lth (st : Byte) (rs : List RngReq) (s : State) : (endWaiting st rs s).lth = s.lth := by
  induction rs generalizing s with
  | nil => rfl
  | cons r rs ih =>
    rw [endWaiting, ih]
    split <;> simp

@[simp] theorem endLater_lth (st : Byte) (xs : List (Pend × Cmd)) (s : State) : (endLater st xs s).lth = s.lth := by
  induction xs generalizing s with
  | nil => rfl
  | cons x xs ih => rw [endLater, ih, endWith_lth]

@[simp] theorem endLoads_lth (st : Byte) (k : Fin 4) (s : State) : (endLoads st k s).lth = s.lth := by
  rw [endLoads_frame]

@[simp] theorem endJobCmds_lth (st : Byte) (j : Fin 4) (s : State) : (endJobCmds st j s).lth = s.lth := by
  unfold endJobCmds
  split
  · rfl
  · dsimp only
    split <;> split <;> simp

@[simp] theorem endExport_lth (j : Fin 4) (st : Byte) (s : State) : (endExport j st s).lth = s.lth := by
  unfold endExport
  split
  · rfl
  · dsimp only [dropTask]
    split <;> simp

@[simp] theorem stopSnap_lth (j : Fin 4) (st : Byte) (x : Job) (s : State) : (stopSnap j st x s).lth = s.lth := by
  unfold stopSnap
  split
  · rfl
  · split <;> simp

@[simp] theorem keepStats_lth (x : Job) (s : State) : (keepStats x s).lth = s.lth := rfl

@[simp] theorem restoreDone_lth (j : Fin 4) (step : Nat) (s : State) : (restoreDone j step s).lth = s.lth := by
  unfold restoreDone
  split
  · rfl
  · dsimp only
    split <;> simp

@[simp] theorem selftestEnd_lth (r : SelftestReq) (s : State) : (selftestEnd r s).lth = s.lth := by
  simp [selftestEnd]

@[simp] theorem abortCommands_lth (s : State) : (abortCommands s).lth = s.lth := by
  have h (s : State) : (eachSlot (endLoads stAborted) s).lth = s.lth := eachSlot_lth (fun _ _ => endLoads_lth ..) s
  have g (s : State) : (eachSlot (fun j s => endExport j stAborted (endJobCmds stAborted j s)) s).lth = s.lth :=
    eachSlot_lth (fun _ _ => by simp) s
  unfold abortCommands
  dsimp only
  split <;> split <;> split <;> simp [h, g]

/-! Events that are filed, and power. -/

@[simp] theorem bumpSeal_lth (s : State) : (bumpSeal s).lth = s.lth := by
  unfold bumpSeal
  split
  · rfl
  · dsimp only
    split <;> simp

@[simp] theorem toRing_lth (r : EvtRec) (s : State) : (toRing r s).lth = s.lth := by
  unfold toRing
  dsimp only
  split
  · rfl
  · split
    · split <;> simp
    · rfl

@[simp] theorem fileOne_lth (s : State) : (fileOne s).lth = s.lth := by
  unfold fileOne
  split
  · rfl
  · dsimp only
    rw [toRing_lth]
    split <;> split <;> rfl

@[simp] theorem flushEvents_lth (s : State) : (flushEvents s).lth = s.lth := by
  have h : ∀ (n : Nat) (s : State), (fileN n s).lth = s.lth := fun n => by
    induction n with
    | zero => exact fun _ => rfl
    | succ n ih => exact fun s => (ih _).trans (fileOne_lth s)
  exact h _ s

@[simp] theorem closeDebugRecord_lth (s : State) : (closeDebugRecord s).lth = s.lth := by
  unfold closeDebugRecord
  split <;> rfl

@[simp] theorem enterSleep_lth (s : State) : (enterSleep s).lth = s.lth := rfl
@[simp] theorem parkAll_lth (s : State) : (parkAll s).lth = s.lth := rfl
@[simp] theorem answerReq_lth (s : State) : (answerReq s).lth = s.lth := endOpt_lth ..

@[simp] theorem answerNext_lth (goTo : PState) (s : State) : (answerNext goTo s).lth = s.lth := by
  unfold answerNext
  split
  · exact endOpt_lth ..
  · rfl

/-! ### Requests that stay or go -/

/-- Q holds of what plane k of group n asks of its lathe, if it asks anything. -/
def Asks (Q : LatheReq → Prop) (n k : Fin 4) (s : State) : Prop := ∀ r, s.lth[n].req[k] = some r → Q r

section
variable {Q : LatheReq → Prop} {n k : Fin 4} {s t : State}

theorem Asks.of_lth (h : Asks Q n k s) (e : t.lth = s.lth) : Asks Q n k t := fun r hr => h r (by rwa [e] at hr)

/-- One of two states, whichever the condition chooses. -/
theorem Asks.ite {c : Prop} [Decidable c] (hs : Asks Q n k s) (ht : Asks Q n k t) : Asks Q n k (if c then s else t) := by
  split
  · exact hs
  · exact ht

theorem asks_eachSlot {f : Fin 4 → State → State} (hf : ∀ j s, Asks Q n k s → Asks Q n k (f j s)) (h : Asks Q n k s) :
    Asks Q n k (eachSlot f s) := hf _ _ (hf _ _ (hf _ _ (hf _ _ h)))

theorem asks_foldl {α : Type} {f : State → α → State} (hf : ∀ s a, Asks Q n k s → Asks Q n k (f s a)) :
    ∀ (as : List α) (s : State), Asks Q n k s → Asks Q n k (as.foldl f s)
  | [], _, h => h
  | a :: as, s, h => asks_foldl hf as (f s a) (hf s a h)

/-- An update of a lathe that leaves its requests alone. -/
theorem asks_setLth {f : Lathe → Lathe} (hf : ∀ x, (f x).req = x.req) (l : Fin 4) (h : Asks Q n k s) :
    Asks Q n k (setLth l f s) := fun r hr => by
  refine h r ?_
  by_cases hl : n = l
  · subst hl
    rwa [setLth_lth, upd_same, hf] at hr
  · rwa [setLth_lth, upd_other _ _ _ _ hl] at hr

theorem vmapIdx_at {α β : Type} {m : Nat} (f : Nat → α → β) (v : Vector α m) (i : Fin m) :
    (vmapIdx f v)[i] = f i v[i] := by
  simp [vmapIdx]

/-- The requests of the planes of a job that stops go. -/
theorem asks_dropLathe (pln : Vector Plane 16) (j : Fin 4) (h : Asks Q n k s) :
    Asks Q n k { s with lth := dropLathe pln j s.lth } := fun r hr => by
  simp only [dropLathe, vmapIdx_at] at hr
  split at hr
  · split at hr
    · cases hr
    · exact h r hr
  · exact h r hr

/-! Self-tests. -/

theorem asks_nextTest (h : Asks Q n k s) : Asks Q n k (nextTest s) := by
  unfold nextTest
  split
  · exact h
  · refine .ite h ?_
    dsimp only
    split
    · exact h
    · split
      · exact h
      · split
        · exact asks_setLth (f := fun x => { x with state := .selftest }) (fun _ => rfl) _ h
        · exact .ite (h.of_lth (selftestEnd_lth ..)) h

theorem asks_beginTest (h : Asks Q n k s) : Asks Q n k (beginTest s) := by
  unfold beginTest
  split
  · exact asks_nextTest h
  · exact h

theorem asks_unitWork (h : Asks Q n k s) : Asks Q n k (unitWork s) :=
  (asks_beginTest (h.of_lth (nextUnit_lth 12 (armUnits s)))).of_lth (replaceFrames_lth _)

/-! Steps that are discarded, jobs that stop, and a module that leaves its workshop. -/

theorem asks_haltUnits (j : Fin 4) (h : Asks Q n k s) : Asks Q n k (haltUnits j s) := by
  have h1 : Asks Q n k (unpin (pinOf s j) (dropEngines j (setJob j (fun y => { y with fed := [] })
      (freeArrivals j (endWaits j s))))) := h.of_lth (by simp)
  unfold haltUnits
  dsimp only
  generalize unpin _ _ = s1 at h1 ⊢
  exact asks_dropLathe s1.pln j h1

theorem asks_abortStep (j : Fin 4) (h : Asks Q n k s) : Asks Q n k (abortStep j s) := by
  unfold abortStep
  split
  · exact h
  · have hh := asks_haltUnits j h
    exact .ite (hh.of_lth (by simp)) (hh.of_lth (by simp))

theorem asks_holdJobs (h : Asks Q n k s) : Asks Q n k (holdJobs s) :=
  asks_eachSlot (fun j s h => by
    split
    · exact .ite h (.of_lth (.ite (asks_abortStep j h) h) (setJob_lth ..))
    · exact h) h

theorem asks_lastEpoch (p : Proposal) (h : Asks Q n k s) : Asks Q n k (lastEpoch p s) :=
  .ite h (asks_holdJobs (h.of_lth (sendAll_lth ..)))

theorem asks_startChange (h : Asks Q n k s) : Asks Q n k (startChange s) :=
  .ite (asks_lastEpoch _ h) (h.of_lth ((tellArrivals_lth ..).trans (sendAll_lth ..)))

theorem asks_leaveWorkshop (h : Asks Q n k s) : Asks Q n k (leaveWorkshop s) :=
  .ite (.ite h (asks_startChange h)) (.ite (h.of_lth (sendCoord_lth ..)) h)

theorem asks_leaveJob (j : Fin 4) (x : Job) (h : Asks Q n k s) : Asks Q n k (leaveJob j x s) :=
  .ite (.ite (.ite (.ite (asks_startChange h) h) (h.of_lth (sendCoord_lth ..))) (asks_leaveWorkshop h)) h

theorem asks_stopJob (j : Fin 4) (st done : Byte) (a b : Word) (h : Asks Q n k s) :
    Asks Q n k (stopJob j st done a b s) := by
  unfold stopJob
  split
  · exact h
  · refine asks_leaveJob j _ (.of_lth (asks_haltUnits j h) ?_)
    split <;> simp

theorem asks_holdFabric (h : Asks Q n k s) : Asks Q n k (holdFabric s) :=
  asks_eachSlot (fun j s h => by
    split
    · have h1 (c : Prop) [Decidable c] : Asks Q n k (if c then abortStep j s else s) := .ite (asks_abortStep j h) h
      exact .ite h (.ite (asks_stopJob j _ _ _ _ (h1 _)) (h1 _))
    · exact h) h

theorem asks_loseState (j : Fin 4) (h : Asks Q n k s) : Asks Q n k (loseState j s) := by
  refine asks_stopJob j _ _ _ _ (.of_lth (asks_abortStep j ?_) (post_lth ..))
  exact h.of_lth (tellAbort_lth j s)

theorem asks_fatalFault (j : Fin 4) (h : Asks Q n k s) : Asks Q n k (fatalFault j s) := by
  unfold fatalFault
  split
  · exact h
  · exact asks_stopJob j _ _ _ _ (asks_abortStep j
      (.ite (.ite (h.of_lth (sendAbort_lth ..)) (h.of_lth (sendCoord_lth ..))) h))

theorem asks_rerunStep (j : Fin 4) (h : Asks Q n k s) : Asks Q n k (rerunStep j s) := by
  unfold rerunStep
  split
  · exact h
  · exact .ite (asks_stopJob j _ _ _ _ h)
      (.ite (asks_stopJob j _ _ _ _ (h.of_lth (post_lth ..))) (h.of_lth (by simp)))

theorem asks_reopen (j : Fin 4) (h : Asks Q n k s) : Asks Q n k (reopen j s) := by
  refine .of_lth ?_ (leaveAborting_lth ..)
  split
  · exact h
  · exact .ite (asks_rerunStep j (asks_abortStep j h)) h

/-! Restores. -/

theorem asks_joinRestore (j : Fin 4) (x : Job) (h : Asks Q n k s) : Asks Q n k (joinRestore j x s) :=
  .of_lth (.ite (asks_abortStep j h) h) (setJob_lth ..)

theorem asks_pokeOr (j : Fin 4) (a off : Nat) (bs : List Byte) (h : Asks Q n k s) : Asks Q n k (pokeOr j a off bs s) := by
  unfold pokeOr
  split
  · exact h.of_lth (writeHandle_lth ‹_›)
  · exact asks_fatalFault j (h.of_lth (exhausted_lth ..))

theorem asks_applyTensor (j : Fin 4) (p : PartTensor) (h : Asks Q n k s) : Asks Q n k (applyTensor j p s) := by
  unfold applyTensor
  split
  · exact asks_pokeOr j _ _ _ h
  · exact h

theorem asks_adoptParts (j : Fin 4) (ps : List Part) (step : Nat) (h : Asks Q n k s) :
    Asks Q n k (adoptParts j ps step s) := by
  have h1 : Asks Q n k (applyParts j ps s) := asks_foldl (fun _ p => asks_applyTensor j p) _ _ h
  unfold adoptParts
  dsimp only
  split
  · exact h1
  · exact h1

theorem asks_restoreAnswer (j : Fin 4) (ok : Bool) (step : DWord) (parts : Nat) (holders : List (Nat × Nat))
    (h : Asks Q n k s) : Asks Q n k (restoreAnswer j ok step parts holders s) := by
  unfold restoreAnswer
  split
  · exact h
  · next x _ =>
    have h0 : Asks Q n k (if x.restore.isSome then s else joinRestore j x s) := .ite h (asks_joinRestore j x h)
    refine .ite (.ite (asks_stopJob j _ _ _ _ h) h) (.ite (.of_lth (asks_adoptParts j _ _ ?_) (restoreDone_lth ..))
      (.of_lth (asks_adoptParts j _ _ ?_) (sendNeeds_lth ..)))
    · exact h0
    · exact h0

theorem asks_tryRestore (idx : Nat) (h : Asks Q n k s) : Asks Q n k (tryRestore idx s) := by
  refine .ite ?_ h
  dsimp only
  split
  · exact asks_restoreAnswer _ _ _ _ _ (h.of_lth (sendAll_lth ..))
  · exact h.of_lth (sendAll_lth ..)

theorem asks_offerParts (j : Fin 4) (h : Asks Q n k s) : Asks Q n k (offerParts j s) := by
  unfold offerParts
  split
  · exact h
  · exact .ite h (.ite (asks_tryRestore _ h) (h.of_lth (sendCoord_lth ..)))

/-! Epoch changes. -/

theorem asks_adoptJob (old : List Member) (dep : List Nat) (j : Fin 4) (h : Asks Q n k s) :
    Asks Q n k (adoptJob old dep j s) := by
  unfold adoptJob
  split
  · exact h
  · refine .ite h (.ite (asks_loseState j h) (asks_reopen j (asks_offerParts j ?_)))
    have h1 (c : Prop) [Decidable c] (e : Posted) (q : SeqDev) :
        Asks Q n k (if c then post e { s with sq := q } else s) := .ite (h.of_lth (post_lth ..)) h
    exact .ite ((h1 _ _ _).of_lth (setJob_lth ..)) ((h1 _ _ _).of_lth ((sendNeeds_lth ..).trans (setJob_lth ..)))

theorem asks_adoptRest (old : List Member) (e : Enactment) (h : Asks Q n k s) : Asks Q n k (adoptRest old e s) := by
  refine asks_eachSlot (fun j _ => asks_adoptJob _ _ j) (.of_lth ?_ (foldl_lth (fun _ _ => reportUp_lth ..) _ _))
  exact .ite (h.of_lth (by simp)) (h.of_lth (by simp))

theorem asks_adopt (e : Enactment) (h : Asks Q n k s) : Asks Q n k (adopt e s) := by
  unfold adopt
  split
  · exact .ite h (asks_holdFabric h)
  · exact asks_adoptRest _ e h

theorem asks_tryEnact (h : Asks Q n k s) : Asks Q n k (tryEnact s) := by
  unfold tryEnact
  split
  · exact h
  · have h1 (e : Enactment) : Asks Q n k (sendEnact e s) := h.of_lth (sendEnact_lth e s)
    exact .ite (.ite ((h1 _).of_lth (unjoin_lth _)) ((asks_adopt _ (h1 _)).of_lth (keepLate_lth ..))) h

/-! Power. -/

/-- After a reset no plane asks for anything. -/
theorem asks_dieReset (s : State) : Asks Q n k (dieReset s) := fun r hr => by
  have e : (dieReset s).lth[n].req[k] = none := (congrArg (·.req[k]) (vrep_get Lathe.reset n)).trans (vrep_get none k)
  exact absurd (e.symm.trans hr) (by simp)

theorem asks_enterDown (s : State) : Asks Q n k (enterDown s) := by
  unfold enterDown
  dsimp only
  generalize closeDebugRecord _ = s1
  exact (asks_dieReset s1).of_lth rfl

theorem asks_powerLost (goTo : PState) (h : Asks Q n k s) : Asks Q n k (powerLost goTo s) := by
  unfold powerLost
  dsimp only
  split
  · exact h.of_lth (by simp)
  · generalize answerNext _ _ = s1
    exact (asks_enterDown s1).of_lth rfl

theorem asks_quiesceCheck (h : Asks Q n k s) : Asks Q n k (quiesceCheck s) := by
  unfold quiesceCheck
  split
  · have h1 : Asks Q n k (if isMember s && !s.ws.leaving then leaveWorkshop s else s) := .ite (asks_leaveWorkshop h) h
    exact .ite (.ite h1 (asks_powerLost _ h1)) h
  · exact h

/-! Entries and microprograms that end. -/

theorem asks_stopAtBoundary (j : Fin 4) (h : Asks Q n k s) : Asks Q n k (stopAtBoundary j s) := by
  unfold stopAtBoundary
  split
  · exact h
  · exact .ite (asks_tryEnact (asks_stopJob j _ _ _ _ h)) h

theorem asks_endRequest (j : Fin 4) (h : Asks Q n k s) : Asks Q n k (endRequest j s) := by
  unfold endRequest
  split
  · exact h
  · next x _ =>
    have h2 : Asks Q n k (latency j x s) := h.of_lth (latency_lth j x s)
    refine .ite (asks_quiesceCheck (asks_stopJob j _ _ _ _ ?_)) (asks_quiesceCheck (asks_stopAtBoundary j ?_)) <;>
      exact .ite (asks_unitWork (h2.of_lth (setJob_lth ..))) (h2.of_lth (setJob_lth ..))

theorem asks_afterEntry (j : Fin 4) (h : Asks Q n k s) : Asks Q n k (afterEntry j s) := by
  unfold afterEntry
  split
  · exact h
  · exact asks_nextTest (.ite (asks_endRequest j h) h)

theorem asks_entryEnd (b : Fin 4) (h : Asks Q n k s) : Asks Q n k (entryEnd b s) := by
  unfold entryEnd
  split
  · exact h
  · exact .ite h (asks_afterEntry _ (h.of_lth (freeActs_lth ..)))

theorem asks_entriesOver (h : Asks Q n k s) : Asks Q n k (entriesOver s) :=
  (asks_eachSlot (fun b _ => asks_entryEnd b) h).of_lth (eachSlot_lth (fun _ _ => tryTallyEnd_lth ..) _)

theorem asks_progCheck (p : Fin 16) (h : Asks Q n k s) : Asks Q n k (progCheck p s) := by
  unfold progCheck
  split
  · exact .ite (asks_entriesOver (h.of_lth (seatAll_lth _))) h
  · exact h

theorem asks_issued (p : Fin 16) (next : Nat) (h : Asks Q n k s) : Asks Q n k (issued p next s) :=
  asks_progCheck p h

end

end Sys2Proof.Machine
end

section
/-! Planes that wait, signal and use the lathe (R106, R108 to R110): what each command does, and what a granted cycle leaves
of the lathe's requests. -/

namespace Sys2Proof.Machine

/-! ### The commands -/

theorem exec_planeWait (p : Fin 16) (n : BitVec 8) (s : State) : exec (.planeWait p n) s = execPlaneWait p n s := rfl

theorem exec_planeSignal (p : Fin 16) (i : PSlot) (s : State) : exec (.planeSignal p i) s = execPlaneSignal p i s := rfl

theorem exec_latheRequest (p : Fin 16) (i : PLathe) (s : State) : exec (.latheRequest p i) s = execLatheRequest p i s := rfl

theorem exec_latheGrant (n : Fin 4) (s : State) : exec (.latheGrant n) s = execLatheGrant n s := rfl

section
variable {p : Fin 16} {n : BitVec 8} {s : State}

theorem planeWait_waits (hc : coreOn s = true) (ho : opAt p s = some (.wait n)) (hs : s.pln[p].state = .running)
    (hf : slotFull (homeOf p s) n.toNat s = false) :
    exec (.planeWait p n) s = .next (setPln p (fun y => { y with state := .waiting, waitKind := 1, waitSlot := n }) s) := by
  simp only [exec_planeWait, execPlaneWait, hc, ho, hs, hf, beq_self_eq_true, Bool.and_self, Bool.true_or,
    Bool.false_eq_true, if_true, if_false]

/-- A plane that comes to a WAIT whose slot is FULL has not waited: no cycle counts. -/
theorem planeWait_goesOn (hc : coreOn s = true) (ho : opAt p s = some (.wait n)) (hs : s.pln[p].state = .running)
    (hf : slotFull (homeOf p s) n.toNat s = true) :
    exec (.planeWait p n) s = .next (issuedScalar p (s.pln[p].pc + 1)
      (setPln p (fun y => { y with state := .running, waitKind := 0, waitSlot := 0xFF }) (bumpPln p 4 0 s))) := by
  have hw : (UState.running == UState.waiting) = false := rfl
  simp only [exec_planeWait, execPlaneWait, hc, ho, hs, hf, hw, beq_self_eq_true, Bool.and_self, Bool.true_or,
    Bool.false_and, Bool.false_eq_true, if_true, if_false]

theorem planeSignal_marks {i : PSlot} (h : issues p (.signal i) s = true) :
    exec (.planeSignal p i) s =
      .next (issuedScalar p (s.pln[p].pc + 1) (markSlot (homeOf p s) i.slot.toNat i.full s)) := by
  rw [exec_planeSignal, execPlaneSignal, if_pos h]

theorem latheRequest_empty {i : PLathe} (h : issues p (.lathe i) s = true) (hl : latheOperands s.pln[p] i = []) :
    exec (.latheRequest p i) s = .next (issued p (s.pln[p].pc + 1) s) := by
  simp only [exec_latheRequest, execLatheRequest, h, hl, List.isEmpty_nil, if_true]

theorem latheRequest_asks {i : PLathe} (h : issues p (.lathe i) s = true) (hl : latheOperands s.pln[p] i ≠ []) :
    exec (.latheRequest p i) s = .next (setPln p (fun x => { x with state := .waiting, waitKind := 2 })
      (setLth (groupOf p) (fun l => { l with
        req := upd l.req (laneInGroup p) (fun _ => some ⟨i.fn, i.fmt, i.dst, latheOperands s.pln[p] i⟩),
        state := .running }) s)) := by
  have he : (latheOperands s.pln[p] i).isEmpty = false := List.isEmpty_eq_false_iff.mpr hl
  simp only [exec_latheRequest, execLatheRequest, h, he, Bool.false_eq_true, if_true, if_false]

theorem latheGrant_running {n : Fin 4} (hc : coreOn s = true) (hl : s.lth[n].state = .running) :
    exec (.latheGrant n) s = .next (setLth n
      (fun x => { x with state := if x.req.toList.all Option.isNone then .idle else x.state })
      (eachSlot (fun k => grantOne n k (latheShare s.lth[n] k))
        (setLth n (fun x => { x with next := latheNext s.lth[n] })
          (bumpLth n 3 (if 1 < (latheOrder s.lth[n]).length then 1 else 0) s)))) := by
  simp only [exec_latheGrant, execLatheGrant, hc, hl, beq_self_eq_true, Bool.and_self, if_true]

end

/-! ### What a grant does to the lathe's requests -/

/-- The lathe of group n has in t the requests and the round-robin pointer that it has in s. -/
structure SameReqs (n : Fin 4) (s t : State) : Prop where
  req : t.lth[n].req = s.lth[n].req
  next : t.lth[n].next = s.lth[n].next

theorem SameReqs.trans {n : Fin 4} {s t u : State} (h : SameReqs n s t) (g : SameReqs n t u) : SameReqs n s u :=
  ⟨g.req.trans h.req, g.next.trans h.next⟩

theorem sameReqs_setLth (n : Fin 4) {f : Lathe → Lathe} (hr : ∀ x, (f x).req = x.req) (hn : ∀ x, (f x).next = x.next)
    (s : State) : SameReqs n s (setLth n f s) := by
  constructor <;> rw [setLth_lth, upd_same]
  · exact hr _
  · exact hn _

theorem sameReqs_bumpLth (n i : Fin 4) (m : Nat) (s : State) : SameReqs n s (bumpLth n i m s) := by
  constructor <;> rw [bumpLth_own, upd_same]

theorem sameReqs_setPln (n : Fin 4) (p : Fin 16) (f : Plane → Plane) (s : State) : SameReqs n s (setPln p f s) :=
  ⟨rfl, rfl⟩

/-- A delivered result counts in the lathe and enters the plane's register. -/
theorem deliver_cons (n : Fin 4) (p : Fin 16) (r : LatheReq) (x : Nat × Word × Word) (xs : List (Nat × Word × Word))
    (s : State) : ∃ a b f, deliver n p r (x :: xs) s =
      deliver n p r xs (setPln p f (bumpLth n 0 1 (bumpLth n 2 b (bumpLth n 1 a s)))) := ⟨_, _, _, rfl⟩

theorem sameReqs_deliver (n : Fin 4) (p : Fin 16) (r : LatheReq) :
    ∀ (xs : List (Nat × Word × Word)) (s : State), SameReqs n s (deliver n p r xs s)
  | [], _ => ⟨rfl, rfl⟩
  | x :: xs, s => by
    obtain ⟨a, b, f, e⟩ := deliver_cons n p r x xs s
    rw [e]
    have h1 := ((sameReqs_bumpLth n 1 a s).trans (sameReqs_bumpLth n 2 b _)).trans (sameReqs_bumpLth n 0 1 _)
    exact (h1.trans (sameReqs_setPln n p f _)).trans (sameReqs_deliver n p r xs _)

theorem SameReqs.asks {Q : LatheReq → Prop} {n k : Fin 4} {s t : State} (h : SameReqs n s t) (ha : Asks Q n k s) :
    Asks Q n k t := fun r hr => ha r (by rwa [h.req] at hr)

/-- A request of at most the plane's share ends with the cycle. -/
theorem grantOne_ends {n k : Fin 4} {share : Nat} {s : State} (h : Asks (fun r => r.left.length ≤ 4 * share) n k s) :
    Asks (fun _ => False) n k (grantOne n k share s) := by
  unfold grantOne
  split
  · next hn => exact fun r hr => absurd (hn.symm.trans hr) (by simp)
  · next r hr =>
    have he : (r.left.drop (4 * share)).isEmpty = true := List.isEmpty_iff.mpr (List.drop_eq_nil_of_le (h r hr))
    simp only [he, if_true]
    refine asks_issued _ _ fun r' hr' => ?_
    simp at hr'

theorem asks_grantOne {Q : LatheReq → Prop} {n k m : Fin 4} (share : Nat) {s : State} (hk : k ≠ m)
    (h : Asks Q n k s) : Asks Q n k (grantOne n m share s) := by
  have hset {t : State} (o : Option LatheReq) (ht : Asks Q n k t) :
      Asks Q n k (setLth n (fun l => { l with req := upd l.req m (fun _ => o) }) t) := fun r hr => by
    rw [setLth_lth, upd_same, upd_other _ _ _ _ hk] at hr
    exact ht r hr
  unfold grantOne
  split
  · exact h
  · have hd (r : LatheReq) (xs : List (Nat × Word × Word)) := (sameReqs_deliver n (planeOf n m) r xs s).asks h
    dsimp only
    split
    · exact asks_issued _ _ (hset none (hd _ _))
    · exact hset _ (hd _ _)

theorem eachSlot_eq_foldl (f : Fin 4 → State → State) (s : State) :
    eachSlot f s = (List.finRange 4).foldl (fun t k => f k t) s := rfl

theorem asks_grants {Q : LatheReq → Prop} {n k : Fin 4} (share : Fin 4 → Nat) {ks : List (Fin 4)} (hk : k ∉ ks)
    {s : State} (h : Asks Q n k s) : Asks Q n k (ks.foldl (fun t m => grantOne n m (share m) t) s) := by
  induction ks generalizing s with
  | nil => exact h
  | cons m ks ih =>
    exact ih (List.not_mem_of_not_mem_cons hk) (asks_grantOne _ (List.ne_of_not_mem_cons hk) h)

theorem grants_end {n k : Fin 4} (share : Fin 4 → Nat) {ks : List (Fin 4)} (hd : ks.Nodup) (hk : k ∈ ks) {s : State}
    (h : Asks (fun r => r.left.length ≤ 4 * share k) n k s) :
    Asks (fun _ => False) n k (ks.foldl (fun t m => grantOne n m (share m) t) s) := by
  induction ks generalizing s with
  | nil => cases hk
  | cons m ks ih =>
    obtain ⟨hm, hd⟩ := List.nodup_cons.mp hd
    rcases List.mem_cons.mp hk with rfl | hk
    · exact asks_grants share hm (grantOne_ends h)
    · exact ih hd hk (asks_grantOne _ (fun e => hm (e ▸ hk)) h)

/-! ### A cycle in which no request ends -/

/-- t differs from s in planes, lathes and the collector alone. -/
def OnlyUnits (s t : State) : Prop := ∃ p l e, t = { s with pln := p, lth := l, evt := e }

theorem OnlyUnits.refl (s : State) : OnlyUnits s s := ⟨_, _, _, rfl⟩

theorem OnlyUnits.trans {s t u : State} (h : OnlyUnits s t) (g : OnlyUnits t u) : OnlyUnits s u := by
  obtain ⟨_, _, _, rfl⟩ := h
  obtain ⟨p, l, e, rfl⟩ := g
  exact ⟨p, l, e, rfl⟩

theorem OnlyUnits.awake {s t : State} (h : OnlyUnits s t) (ha : awake s = true) : awake t = true := by
  obtain ⟨_, _, _, rfl⟩ := h
  exact ha

theorem OnlyUnits.eq {s t : State} (h : OnlyUnits s t) : t = { s with pln := t.pln, lth := t.lth, evt := t.evt } := by
  obtain ⟨_, _, _, rfl⟩ := h
  rfl

theorem onlyUnits_bumpLth (l i : Fin 4) (m : Nat) {s : State} (h : awake s = true) : OnlyUnits s (bumpLth l i m s) :=
  ⟨_, _, _, bumpLth_rec l i m s h⟩

theorem onlyUnits_setLth (l : Fin 4) (f : Lathe → Lathe) (s : State) : OnlyUnits s (setLth l f s) := ⟨_, _, _, rfl⟩

theorem onlyUnits_setPln (p : Fin 16) (f : Plane → Plane) (s : State) : OnlyUnits s (setPln p f s) := ⟨_, _, _, rfl⟩

theorem onlyUnits_deliver (n : Fin 4) (p : Fin 16) (r : LatheReq) :
    ∀ (xs : List (Nat × Word × Word)) {s : State}, awake s = true → OnlyUnits s (deliver n p r xs s)
  | [], s, _ => .refl s
  | x :: xs, s, h => by
    obtain ⟨a, b, f, e⟩ := deliver_cons n p r x xs s
    rw [e]
    have h1 := onlyUnits_bumpLth n 1 a h
    have h2 := h1.trans (onlyUnits_bumpLth n 2 b (h1.awake h))
    have h3 := (h2.trans (onlyUnits_bumpLth n 0 1 (h2.awake h))).trans (onlyUnits_setPln p f _)
    exact h3.trans (onlyUnits_deliver n p r xs (h3.awake h))

/-- A request with the results of m groups delivered. -/
def LatheReq.after (r : LatheReq) (m : Nat) : LatheReq := { r with left := r.left.drop (4 * m) }

/-- From s to t the planes ks of group n have had their shares of a cycle, and none of their requests has ended. -/
structure Served (n : Fin 4) (share : Fin 4 → Nat) (ks : List (Fin 4)) (s t : State) : Prop where
  units : OnlyUnits s t
  next : t.lth[n].next = s.lth[n].next
  served (k : Fin 4) (h : k ∈ ks) : t.lth[n].req[k] = (s.lth[n].req[k]).map (·.after (share k))
  others (k : Fin 4) (h : k ∉ ks) : t.lth[n].req[k] = s.lth[n].req[k]

theorem served_grantOne {n k : Fin 4} (share : Fin 4 → Nat) {s : State} (ha : awake s = true)
    (h : Asks (fun r => 4 * share k < r.left.length) n k s) : Served n share [k] s (grantOne n k (share k) s) := by
  unfold grantOne
  split
  · next hn =>
    refine ⟨.refl s, rfl, fun m hm => ?_, fun _ _ => rfl⟩
    obtain rfl := List.mem_singleton.mp hm
    rw [hn]
    rfl
  · next r hr =>
    have he : (r.left.drop (4 * share k)).isEmpty = false := by
      rw [List.isEmpty_eq_false_iff, Ne, List.drop_eq_nil_iff, Nat.not_le]
      exact h r hr
    have hd := sameReqs_deliver n (planeOf n k) r (r.left.take (4 * share k)) s
    simp only [he, Bool.false_eq_true, if_false]
    refine ⟨(onlyUnits_deliver n _ r _ ha).trans (onlyUnits_setLth ..), ?_, fun m hm => ?_, fun m hm => ?_⟩
    · rw [setLth_lth, upd_same, hd.next]
    · obtain rfl := List.mem_singleton.mp hm
      rw [setLth_lth, upd_same, upd_same, hr]
      rfl
    · rw [setLth_lth, upd_same, upd_other _ _ _ _ (List.ne_of_not_mem_cons hm), hd.req]

theorem served_grants {n : Fin 4} (share : Fin 4 → Nat) {ks : List (Fin 4)} (hd : ks.Nodup) {s : State}
    (ha : awake s = true) (h : ∀ k ∈ ks, Asks (fun r => 4 * share k < r.left.length) n k s) :
    Served n share ks s (ks.foldl (fun t m => grantOne n m (share m) t) s) := by
  induction ks generalizing s with
  | nil => exact ⟨.refl s, rfl, fun k hk => (by cases hk), fun _ _ => rfl⟩
  | cons m ks ih =>
    obtain ⟨hm, hd⟩ := List.nodup_cons.mp hd
    have h1 := served_grantOne share ha (h m List.mem_cons_self)
    have h2 := ih hd (h1.units.awake ha) fun k hk => asks_grantOne _ (fun e => hm (e ▸ hk)) (h k (List.mem_cons_of_mem _ hk))
    refine ⟨h1.units.trans h2.units, h2.next.trans h1.next, fun k hk => ?_, fun k hk => ?_⟩
    · rcases List.mem_cons.mp hk with rfl | hk
      · exact (h2.others k hm).trans (h1.served k (List.mem_singleton_self k))
      · rw [List.foldl_cons, h2.served k hk, h1.others k (fun e => hm (List.mem_singleton.mp e ▸ hk))]
    · have hkm : k ∉ [m] := fun e => List.ne_of_not_mem_cons hk (List.mem_singleton.mp e)
      exact (h2.others k (List.not_mem_of_not_mem_cons hk)).trans (h1.others k hkm)

/-! ### The shares of a cycle (R109) -/

theorem latheOrder_nodup (l : Lathe) : (latheOrder l).Nodup := by
  have h : ∀ a : Fin 4, [a, a + 1, a + 2, a + 3].Nodup := by decide
  exact List.Pairwise.filter (fun k => l.req[k].isSome) (h l.next)

/-- The sum over a list of c for each element and 1 more for each of the first m. -/
theorem sum_add_ite_take {α : Type} [DecidableEq α] {xs : List α} (hd : xs.Nodup) (c : Nat) {m : Nat}
    (hm : m ≤ xs.length) :
    (xs.map fun k => c + if (xs.take m).contains k then 1 else 0).sum = xs.length * c + m := by
  induction xs generalizing m with
  | nil =>
    obtain rfl := Nat.le_zero.mp hm
    simp only [List.map_nil, List.sum_nil, List.length_nil, Nat.zero_mul, Nat.add_zero]
  | cons x xs ih =>
    obtain ⟨hx, hd⟩ := List.nodup_cons.mp hd
    cases m with
    | zero =>
      have h0 := ih hd (Nat.zero_le _)
      simp only [List.take_zero, List.contains_nil, Bool.false_eq_true, if_false] at h0
      simp only [List.take_zero, List.contains_nil, Bool.false_eq_true, if_false, List.map_cons, List.sum_cons,
        List.length_cons, Nat.succ_mul, h0]
      omega
    | succ m =>
      have ht : (xs.map fun k => c + if ((x :: xs).take (m + 1)).contains k then 1 else 0) =
          xs.map fun k => c + if (xs.take m).contains k then 1 else 0 := List.map_congr_left fun k hk => by
        have hne : (k == x) = false := beq_eq_false_iff_ne.mpr fun e => hx (e ▸ hk)
        simp only [List.take_succ_cons, List.contains_cons, hne, Bool.false_or]
      rw [List.map_cons, List.sum_cons, ht, ih hd (Nat.le_of_succ_le_succ hm)]
      simp only [List.take_succ_cons, List.contains_cons, beq_self_eq_true, Bool.true_or, if_true, List.length_cons,
        Nat.succ_mul]
      omega

theorem latheShare_sum (l : Lathe) (h : latheOrder l ≠ []) : ((latheOrder l).map (latheShare l)).sum = 4 := by
  have hq : 0 < (latheOrder l).length := List.length_pos_iff.mpr h
  have hs : latheShare l = fun k => 4 / (latheOrder l).length +
      if ((latheOrder l).take (4 % (latheOrder l).length)).contains k then 1 else 0 :=
    funext fun _ => if_neg (Nat.ne_of_gt hq)
  rw [hs, sum_add_ite_take (latheOrder_nodup l) _ (Nat.le_of_lt (Nat.mod_lt 4 hq)), Nat.div_add_mod]

/-! ### A granted cycle -/

/-- A cycle begins with the lathe's pointer advanced, and its requests as they are. -/
theorem grantBegins (n : Fin 4) (m : Nat) (next : Fin 4) (s : State) :
    (setLth n (fun x => { x with next := next }) (bumpLth n 3 m s)).lth[n].req = s.lth[n].req ∧
      (setLth n (fun x => { x with next := next }) (bumpLth n 3 m s)).lth[n].next = next := by
  constructor
  · rw [setLth_lth, upd_same, (sameReqs_bumpLth n 3 m s).req]
  · rw [setLth_lth, upd_same]

/-- Requests that are longer than the shares of their planes have them delivered and stay. -/
theorem latheGrant_serves {n : Fin 4} {s : State} (ha : awake s = true) (hc : coreOn s = true)
    (hl : s.lth[n].state = .running)
    (hr : ∀ (k : Fin 4) (r : LatheReq), s.lth[n].req[k] = some r → 4 * latheShare s.lth[n] k < r.left.length) :
    ∃ t, exec (.latheGrant n) s = .next t ∧ OnlyUnits s t ∧ t.lth[n].next = latheNext s.lth[n] ∧
      ∀ k : Fin 4, t.lth[n].req[k] = (s.lth[n].req[k]).map (·.after (latheShare s.lth[n] k)) := by
  refine ⟨_, latheGrant_running hc hl, ?_⟩
  obtain ⟨hreq, hnext⟩ := grantBegins n (if 1 < (latheOrder s.lth[n]).length then 1 else 0) (latheNext s.lth[n]) s
  have hu := (onlyUnits_bumpLth n 3 (if 1 < (latheOrder s.lth[n]).length then 1 else 0) ha).trans
    (onlyUnits_setLth n (fun x => { x with next := latheNext s.lth[n] }) _)
  generalize setLth n _ (bumpLth _ _ _ _) = s2 at hreq hnext hu ⊢
  have hg := served_grants (latheShare s.lth[n]) (List.nodup_finRange 4) (hu.awake ha)
    fun k _ r h => hr k r (by rwa [← hreq])
  rw [← eachSlot_eq_foldl fun k => grantOne n k (latheShare s.lth[n] k)] at hg
  have hq := sameReqs_setLth n (f := fun x => { x with
    state := if x.req.toList.all Option.isNone then .idle else x.state }) (fun _ => rfl) (fun _ => rfl)
    (eachSlot (fun k => grantOne n k (latheShare s.lth[n] k)) s2)
  refine ⟨(hu.trans hg.units).trans (onlyUnits_setLth ..), hq.next.trans (hg.next.trans hnext), fun k => ?_⟩
  rw [hq.req, hg.served k (List.mem_finRange k), hreq]

/-- A request of at most its plane's share ends, whatever the ends of other requests set going. -/
theorem latheGrant_ends {n : Fin 4} {s : State} (hc : coreOn s = true) (hl : s.lth[n].state = .running) :
    ∃ t, exec (.latheGrant n) s = .next t ∧ ∀ (k : Fin 4) (r : LatheReq), s.lth[n].req[k] = some r →
      r.left.length ≤ 4 * latheShare s.lth[n] k → t.lth[n].req[k] = none := by
  refine ⟨_, latheGrant_running hc hl, fun k r hk hle => Option.eq_none_iff_forall_ne_some.mpr ?_⟩
  obtain ⟨hreq, -⟩ := grantBegins n (if 1 < (latheOrder s.lth[n]).length then 1 else 0) (latheNext s.lth[n]) s
  generalize setLth n _ (bumpLth _ _ _ _) = s2 at hreq ⊢
  have h2 : Asks (fun r => r.left.length ≤ 4 * latheShare s.lth[n] k) n k s2 := fun r' hr' => by
    rw [hreq, hk] at hr'
    cases hr'
    exact hle
  have h3 := grants_end _ (List.nodup_finRange 4) (List.mem_finRange k) h2
  rw [← eachSlot_eq_foldl fun k => grantOne n k (latheShare s.lth[n] k)] at h3
  exact asks_setLth (f := fun x => { x with state := if x.req.toList.all Option.isNone then .idle else x.state })
    (fun _ => rfl) n h3

/-! ### The obligation -/

/-- Settles O37: each command has a lemma above for each way it goes. That a finished request is gone after the cycle rests on
`asks_issued`: what the end of a microprogram sets going asks a lathe for nothing. -/
theorem planesWaitSignalAndUseTheLathe : Obligations.PlanesWaitSignalAndUseTheLathe := by
  refine ⟨fun p n s hc ho hs hf => planeWait_waits hc ho hs hf, fun p n s hc ho hs hf => planeWait_goesOn hc ho hs hf,
    fun p i s h => planeSignal_marks h, fun p i s h hl => ⟨_, latheRequest_asks h hl, ?_, ?_, ?_, ?_, ?_, rfl⟩,
    fun p i s h hl => latheRequest_empty h hl, fun n s ha hc hl hr => ?_, fun n s hc hl => latheGrant_ends hc hl,
    latheShare_sum⟩
  · rw [setPln_pln, upd_same]
  · rw [setPln_pln, upd_same]
  · rw [setPln_pln, upd_same]; rfl
  · rw [setPln_lth, setLth_lth, upd_same]
  · rw [setPln_lth, setLth_lth, upd_same, upd_same]
  · obtain ⟨t, ht, hu, hn, hq⟩ := latheGrant_serves ha hc hl hr
    exact ⟨t, ht, hn, fun k r hk => by rw [hq, hk]; rfl, hu.eq⟩

end Sys2Proof.Machine
end

section
/-! A plane's registers (R99): a write to an element reads back only where the register table is in canonical form. A table that
lists a key twice loses one of the two entries to a write of +0, and the other is read. -/

namespace Sys2Proof.Machine

/-- A plane whose register table lists element 0 of register 0 twice. -/
def twiceListed : Plane := { Plane.reset with v := [(0, 5), (0, 6)] }

/-- The plane after an instruction has written 0 into every element of register 0. -/
def twiceListedZeroed : Plane := mapElems .b32 0 (activeElems twiceListed .b32 none) (fun _ => 0) twiceListed

theorem twiceListedZeroed_v : twiceListedZeroed.v = [(0, 6)] := by decide

theorem twiceListedZeroed_elem : elemCode twiceListedZeroed .b32 0 0 = 6 := by
  simp [elemCode, laneWord, twiceListedZeroed_v, tabGet]

/-- Refutes O35: its clause about the elements that an instruction writes asks nothing of the plane's register table. On
`twiceListed` element 0 is active and takes the result 0, and it reads 6 afterwards. -/
theorem not_planeInstructionsHaveTheirEffect : ¬ Obligations.PlaneInstructionsHaveTheirEffect := by
  unfold Obligations.PlaneInstructionsHaveTheirEffect
  rintro ⟨-, hmap, -⟩
  obtain ⟨helem, -⟩ := hmap .b32 0 none (fun _ => 0) twiceListed twiceListedZeroed rfl
  have h0 : elemCode twiceListedZeroed .b32 0 0 = 0 := helem 0 (by decide)
  exact absurd (twiceListedZeroed_elem.symm.trans h0) (by decide)

end Sys2Proof.Machine
end

section
/-! The registers of the event ring and of the telemetry ring (R166 to R168, R502): what a write stores, and what it leaves
when its lock holds. -/

namespace Sys2Proof.Machine

theorem bitAt_orBit (w : Word) {n : Nat} (h : n < 32) : bitAt (orBit w n) n = true := by
  rw [bitAt, orBit, BitVec.getLsbD_or, BitVec.getLsbD_ofNat, Nat.testBit_two_pow_self, decide_eq_true h, Bool.and_self,
    Bool.or_true]

/-! ### The size of a ring -/

/-- R167: a size that acts as 0 and one that acts as before leave the pointers. -/
theorem ringResize_keeps {old new : BitVec 5} (wr rd : RingPtr) (h : effLog2 new = 0 ∨ effLog2 old = effLog2 new) :
    ringResize old new wr rd = (wr, rd) := if_pos h

/-- R167: any other size starts the ring empty. -/
theorem ringResize_restarts {old new : BitVec 5} (wr rd : RingPtr) (hn : effLog2 new ≠ 0) (ho : effLog2 old ≠ effLog2 new) :
    ringResize old new wr rd = (RingPtr.zero, RingPtr.zero) := if_neg (not_or.mpr ⟨hn, ho⟩)

/-! ### The event ring (R502) -/

theorem evtRingOn_of_zero {s : State} (h : effLog2 s.evt.ringLog2 = 0) : evtRingOn s = false := by
  simp [evtRingOn, h]

theorem evtRingOn_of_ne_zero {s : State} (h : effLog2 s.evt.ringLog2 ≠ 0) : evtRingOn s = true := by
  simp [evtRingOn, h]

theorem exec_evtRingConfigWrite (size : Bool) (v : DWord) (s : State) :
    exec (.evtRingConfigWrite size v) s = execEvtRingConfigWrite size v s := rfl

theorem exec_evtRingRdWrite (v : Word) (s : State) : exec (.evtRingRdWrite v) s = execEvtRingRdWrite v s := rfl

section
variable {s : State} (v : DWord) (ha : awake s = true)
include ha

theorem evtRingBase_stored (h : effLog2 s.evt.ringLog2 = 0) :
    exec (.evtRingConfigWrite false v) s =
      .next { s with evt := { s.evt with ringBase := v &&& 0xFFFFFFFFFFFFFFC0 } } := by
  simp only [exec_evtRingConfigWrite, execEvtRingConfigWrite, ha, evtRingOn_of_zero h, Bool.not_true, Bool.false_eq_true,
    if_false]

/-- A size that the lock lets through is stored, and the pointers follow it. -/
theorem evtRingSize_stored (h : effLog2 s.evt.ringLog2 = 0 ∨ effLog2 (v.setWidth 5) = 0) :
    exec (.evtRingConfigWrite true v) s = .next { s with evt := { s.evt with
      ringLog2 := v.setWidth 5
      wr := (ringResize s.evt.ringLog2 (v.setWidth 5) s.evt.wr s.evt.rd).1
      rd := (ringResize s.evt.ringLog2 (v.setWidth 5) s.evt.wr s.evt.rd).2 } } := by
  have hl : (evtRingOn s && effLog2 (v.setWidth 5) != 0) = false := by
    rcases h with h | h
    · rw [evtRingOn_of_zero h, Bool.false_and]
    · rw [h, bne_self_eq_false, Bool.and_false]
  simp only [exec_evtRingConfigWrite, execEvtRingConfigWrite, ha, hl, Bool.not_true, Bool.false_eq_true, if_false, if_true]

theorem evtRingConfig_locked {size : Bool} (h : effLog2 s.evt.ringLog2 ≠ 0)
    (hs : size = true → effLog2 (v.setWidth 5) ≠ 0) : exec (.evtRingConfigWrite size v) s = .next (evtLocked s) := by
  rw [exec_evtRingConfigWrite, execEvtRingConfigWrite, evtRingOn_of_ne_zero h]
  cases size with
  | false => simp only [ha, Bool.not_true, Bool.false_eq_true, if_false, if_true]
  | true => simp only [ha, bne_iff_ne.mpr (hs rfl), Bool.not_true, Bool.false_eq_true, Bool.and_self, if_false, if_true]

end

theorem evtRingRd_stored {s : State} (v : Word) (ha : awake s = true) (h : effLog2 s.evt.ringLog2 ≠ 0)
    (hp : rdPasses (effLog2 s.evt.ringLog2) s.evt.wr s.evt.rd (ptrOf v) = false) :
    exec (.evtRingRdWrite v) s = .next { s with evt := { s.evt with rd := ptrOf v } } := by
  simp only [exec_evtRingRdWrite, execEvtRingRdWrite, ha, beq_false_of_ne h, hp, Bool.not_true, Bool.or_self,
    Bool.false_eq_true, if_false]

theorem evtRingRd_ignored {s : State} (v : Word) (h : effLog2 s.evt.ringLog2 = 0 ∨
    rdPasses (effLog2 s.evt.ringLog2) s.evt.wr s.evt.rd (ptrOf v) = true) : exec (.evtRingRdWrite v) s = .next s := by
  have hi : (!awake s || effLog2 s.evt.ringLog2 == 0 ||
      rdPasses (effLog2 s.evt.ringLog2) s.evt.wr s.evt.rd (ptrOf v)) = true := by
    rcases h with h | h <;> simp [h]
  simp only [exec_evtRingRdWrite, execEvtRingRdWrite, hi, if_true]

/-! ### The telemetry ring (R167, R168) -/

theorem awake_of_running {s : State} (h : running s = true) : awake s = true := (Bool.and_eq_true_iff.mp h).1

/-- A write against the lock sets WRITE_LOCKED and posts its event. -/
theorem trnLocked_frame {s : State} (h : awake s = true) : trnLocked s =
    { s with trn := { s.trn with fault := orBit s.trn.fault 0 }, evt := (trnLocked s).evt } := by
  have haon := post_awake (ev 0x0703) { s with trn := { s.trn with fault := orBit s.trn.fault 0 } } h
  conv => lhs; rw [trnLocked, post_frame, haon]
  rfl

theorem exec_trnTelConfigWrite (size : Bool) (v : DWord) (s : State) :
    exec (.trnTelConfigWrite size v) s = execTrnTelConfigWrite size v s := rfl

theorem exec_trnTelRdWrite (v : Word) (s : State) : exec (.trnTelRdWrite v) s = execTrnTelRdWrite v s := rfl

section
variable {s : State} (v : DWord) (hr : running s = true)
include hr

theorem trnTelConfig_locked (size : Bool) (h : anyJob s = true) :
    exec (.trnTelConfigWrite size v) s = .next (trnLocked s) := by
  simp only [exec_trnTelConfigWrite, execTrnTelConfigWrite, hr, h, Bool.not_true, Bool.false_eq_true, if_false, if_true]

theorem trnTelBase_stored (h : anyJob s = false) :
    exec (.trnTelConfigWrite false v) s = .next { s with trn := { s.trn with telBase := v } } := by
  simp only [exec_trnTelConfigWrite, execTrnTelConfigWrite, hr, h, Bool.not_true, Bool.false_eq_true, if_false]

theorem trnTelSize_stored (h : anyJob s = false) :
    exec (.trnTelConfigWrite true v) s = .next { s with trn := { s.trn with
      telLog2 := v.setWidth 5
      wr := (ringResize s.trn.telLog2 (v.setWidth 5) s.trn.wr s.trn.rd).1
      rd := (ringResize s.trn.telLog2 (v.setWidth 5) s.trn.wr s.trn.rd).2 } } := by
  simp only [exec_trnTelConfigWrite, execTrnTelConfigWrite, hr, h, Bool.not_true, Bool.false_eq_true, if_false, if_true]

end

theorem trnTelRd_stored {s : State} (v : Word) (hr : running s = true) (h : effLog2 s.trn.telLog2 ≠ 0)
    (hp : rdPasses (effLog2 s.trn.telLog2) s.trn.wr s.trn.rd (ptrOf v) = false) :
    exec (.trnTelRdWrite v) s = .next { s with trn := { s.trn with rd := ptrOf v } } := by
  simp only [exec_trnTelRdWrite, execTrnTelRdWrite, hr, beq_false_of_ne h, hp, Bool.not_true, Bool.or_self,
    Bool.false_eq_true, if_false]

/-! ### The flags of a statistics record (R166) -/

/-- The record of a tensor changed, in the slot of a job. -/
theorem setTens_of_some {j : Fin 4} {x : Job} {s : State} (h : s.jobs[j] = some x) (id : BitVec 16) (f : TRun → TRun) :
    setTens j id f s = { s with
      jobs := s.jobs.set j (some { x with tens := x.tens.map fun r => if r.id = id then f r else r }) } := by
  simp only [setTens, setJob_of_some h, beq_iff_eq]

theorem exec_trnStatFlagsClear (v : Word) {s : State} (h : running s = true) :
    exec (.trnStatFlagsClear v) s = .next (setTens s.trn.viewJob s.trn.viewTensor (clearFlags v) s) := if_pos h

/-- R166: each 1 clears its flag, and with a SAT flag its count. -/
theorem clearFlags_fields (v : Word) (r : TRun) : (clearFlags v r).ovfSat = (r.ovfSat && !bitAt v 0) ∧
    (clearFlags v r).nanSat = (r.nanSat && !bitAt v 1) ∧ (clearFlags v r).unfSat = (r.unfSat && !bitAt v 2) ∧
    (clearFlags v r).inexact = (r.inexact && !bitAt v 3) ∧ (clearFlags v r).amax = r.amax ∧
    (clearFlags v r).ovf = (if bitAt v 0 then 0 else r.ovf) ∧ (clearFlags v r).nan = (if bitAt v 1 then 0 else r.nan) ∧
    (clearFlags v r).unf = (if bitAt v 2 then 0 else r.unf) := by
  have hflag (c b : Bool) : (if c then false else b) = (b && !c) := by cases c <;> simp
  unfold clearFlags
  simp only [apply_ite TRun.ovfSat, apply_ite TRun.nanSat, apply_ite TRun.unfSat, apply_ite TRun.inexact,
    apply_ite TRun.amax, apply_ite TRun.ovf, apply_ite TRun.nan, apply_ite TRun.unf, ite_self, hflag, and_self]

/-- Settles O7: each register has a lemma above for a write that is stored and one for a write that its lock turns away. -/
theorem ringRegistersFollowTheLocks : Obligations.RingRegistersFollowTheLocks := by
  refine ⟨⟨fun v s ha h => evtRingBase_stored v ha h, fun v s ha h hn => ?_, fun v s ha hn => ?_,
      fun v size s ha h hs => ⟨_, evtRingConfig_locked v ha h hs, bitAt_orBit _ (by decide), rfl⟩,
      fun v s ha h hp => evtRingRd_stored v ha h hp, fun v s h => evtRingRd_ignored v h⟩,
    fun v s hr h => trnTelBase_stored v hr h, fun v s hr h hn ho => ?_, fun v s hr h hk => ?_,
    fun size v s hr h => ⟨_, trnTelConfig_locked v hr size h, ?_, ?_⟩, fun v s hr h hp => trnTelRd_stored v hr h hp,
    fun v x s hr hx => ?_, clearFlags_fields⟩
  · rw [evtRingSize_stored v ha (.inl h), ringResize_restarts _ _ hn (by rw [h]; exact hn.symm)]
    rfl
  · rw [evtRingSize_stored v ha (.inr hn), ringResize_keeps _ _ (.inl hn)]
  · rw [trnTelSize_stored v hr h, ringResize_restarts _ _ hn ho]
    rfl
  · rw [trnTelSize_stored v hr h, ringResize_keeps _ _ hk]
  · rw [trnLocked_frame (awake_of_running hr)]
    exact bitAt_orBit _ (by decide)
  · conv => lhs; rw [trnLocked_frame (awake_of_running hr)]
    conv => rhs; rw [trnLocked_frame (awake_of_running hr)]
  · rw [exec_trnStatFlagsClear v hr, setTens_of_some hx]

end Sys2Proof.Machine
end

section
/-! The messages about a job's steps and recovery (R153 to R155, R183, R188, R190, R191, R194). -/

namespace Sys2Proof.Machine

open Sys2Proof.Claims

/-! ### Delivery -/

/-- The commands of the job messages deliver them to their effects. -/
theorem jobMessages_deliver {l : Fin 8} {h : MsgHdr} {s : State} (a : Arrives l h s) (i : Nat) :
    (∀ n, exec (.ready l h i n) s = .next (takeReady h.src.toNat i n (delivered l h (.step i n) s)) ∧
      exec (.commit l h i n) s = .next (commitHere i n (delivered l h (.step i n) s)) ∧
      exec (.stop l h i n) s = .next (takeStop h.src i n (delivered l h (.step i n) s)) ∧
      exec (.abort l h i n) s = .next (takeAbort i n (delivered l h (.step i n) s))) ∧
    (∀ q n c, exec (.lastCommitted l h q i n c) s = .next (takeLast h q i n c (delivered l h (.last q i n c) s))) ∧
    (∀ n, exec (.snapReq l h i n) s = .next (takeSnapReq i n (delivered l h (namedPayload i n) s)) ∧
      exec (.replayReq l h i n) s = .next (takeReplayReq h i n (delivered l h (namedPayload i n) s))) ∧
    (∀ o, exec (.replayResult l h i o) s = .next (takeReplayResult h i o (delivered l h (.replay i o) s))) ∧
    (∀ m, exec (.restoreOffer l h i m) s = .next (takeRestore h i m (delivered l h (restorePayload i m) s))) :=
  ⟨fun _ => ⟨recv_of_arrives a _ _, recv_of_arrives a _ _, recv_of_arrives a _ _, recv_of_arrives a _ _⟩,
    fun _ _ _ => recv_of_arrives a _ _, fun _ => ⟨recv_of_arrives a _ _, recv_of_arrives a _ _⟩,
    fun _ => recv_of_arrives a _ _, fun _ => recv_of_arrives a _ _⟩

/-! ### READY, COMMIT, STOP and ABORT -/

theorem takeReady_notCoord (q i n : Nat) {s : State} (h : isCoord s = false) : takeReady q i n s = s := by
  simp only [takeReady, h, Bool.false_and, Bool.false_eq_true, if_false]

theorem takeReady_member {q i : Nat} (n : Nat) {s : State} (h : isCoord s = true) (hq : (jobRanks s i).contains q = true) :
    takeReady q i n s = tryCommit i n (noteReady i n q s) := by
  simp only [takeReady, h, hq, Bool.and_self, if_true]

theorem takeStop_notCoord (q : BitVec 16) (i n : Nat) {s : State} (h : isCoord s = false) : takeStop q i n s = s := by
  simp only [takeStop, h, Bool.not_false, if_true]

section
variable {i n : Nat} {j : Fin 4} {x : Job} {s : State} (hi : slotOfIndex s i = some j) (hj : s.jobs[j] = some x)
include hi hj

/-- R154: COMMIT of the step that this module has made ready. -/
theorem commitHere_ready (hp : x.phase = .ready) (hn : x.step = n) : commitHere i n s = commitStep j s := by
  simp only [commitHere, hi, hj, hp, hn, beq_self_eq_true, Bool.and_self, if_true]

/-- R154: COMMIT of any other step. -/
theorem commitHere_other (h : x.phase ≠ .ready ∨ x.step ≠ n) : commitHere i n s = s := by
  have hb : (x.phase == .ready && x.step == n) = false := by
    rcases h with h | h
    · rw [beq_false_of_ne h, Bool.false_and]
    · rw [beq_false_of_ne h, Bool.and_false]
  simp only [commitHere, hi, hj, hb, Bool.false_eq_true, if_false]

/-- R156: an ABORT of a step that is not open. -/
theorem takeAbort_other (h : x.step ≠ n ∨ stepOpen x = false) : takeAbort i n s = s := by
  have hb : (decide (x.step = n) && stepOpen x) = false := by
    rcases h with h | h
    · rw [decide_eq_false h, Bool.false_and]
    · rw [h, Bool.and_false]
  simp only [takeAbort, hi, hj, hb, Bool.false_eq_true, if_false]

/-- R194: a STOP of a step that has been committed is answered with its COMMIT. -/
theorem takeStop_committed (q : BitVec 16) (hc : isCoord s = true) (hr : runsHere s i = true) (hn : n < x.step) :
    takeStop q i n s = send q 0x06 0 (.step i n) s := by
  simp only [takeStop, hc, hr, hi, hj, hn, Bool.not_true, Bool.false_eq_true, if_false, if_true]

end

/-! ### Outcomes of replays (R191) -/

theorem worse_aborted {a : ReplayOutcome} (b : ReplayOutcome) (h : a.aborted = true) : worse a b = a := by
  simp only [worse, h, if_true]

/-- Of two mismatches, the one of the lower tensor, whichever comes first. -/
theorem worse_mismatch {a b : ReplayOutcome} (ha : a.aborted = false) (hma : a.matched = false) (hb : b.aborted = false)
    (hmb : b.matched = false) (h : a.tensor.toNat < b.tensor.toNat) : worse a b = a ∧ worse b a = a := by
  simp only [worse, ha, hma, hb, hmb, h, Nat.lt_asymm h, Bool.false_eq_true, if_false, if_true, and_self]

/-- Settles O39: every message is delivered (`recv_of_arrives`), and each effect has its lemma above. -/
theorem jobMessagesReachTheirJob : Obligations.JobMessagesReachTheirJob := by
  refine ⟨fun l h i n s a => ?_, fun l h q c i n s a => ?_, fun l h i n s a => ?_, fun l h i o m s a => ?_,
    fun q i n s h => takeReady_notCoord q i n h, fun q i n s h hq => takeReady_member n h hq,
    fun i n j x s hi hj hp hn => commitHere_ready hi hj hp hn, fun i n j x s hi hj h => commitHere_other hi hj h,
    fun q i n s h => takeStop_notCoord q i n h, fun i n j x s hi hj h => takeAbort_other hi hj h, fun _ _ _ _ _ => rfl,
    fun i n j x s hc hr hi hj hn q => takeStop_committed hi hj q hc hr hn, fun a b h => worse_aborted b h,
    fun a b ha hma hb hmb h => worse_mismatch ha hma hb hmb h⟩
  all_goals obtain ⟨hstep, hlast, hnamed, hresult, hoffer⟩ := jobMessages_deliver a i
  · exact hstep n
  · exact hlast q n c
  · exact hnamed n
  · exact ⟨hresult o, hoffer m⟩

end Sys2Proof.Machine
end

section
/-! The commands of the training step (R135, R136, R145 to R149, R152, R157, R300): partial gradients, the entry into the
glue-up, the clamp, the built-in optimizers, and READY. -/

namespace Sys2Proof.Machine

/-! ### Partial gradients (R135, R136) -/

/-- A complete partial goes to G, once the handle of G is there and no frame of it is spilled (R235). -/
theorem gradPartialAdd_due {j : Fin 4} {id : BitVec 16} {n : Nat} {a : PartialAt} (ecc : DrawerEcc) {x : Job} {r : TRun}
    {w g : Tensor} {s s1 : State} (hj : s.jobs[j] = some x) (hr : tensAt s j id = some r) (hw : tensorOf s id = some w)
    (hg : partOf s w .grad = some g) (hd : gradDue s x w r n a = true) (hs : ensureHandle j g.id s = some s1)
    (hp : gSpilled s1 j w = false) :
    exec (.gradPartialAdd j id n a ecc) s = .next (afterEcc ecc (partialAdd j x w g r n a) s1) := by
  change execGradPartialAdd j id n a ecc s = _
  simp only [execGradPartialAdd, hj, hr, hw, hg, hd, hs, hp, Bool.false_eq_true, if_false]

theorem partialAdd_early {j : Fin 4} {n : Nat} {a : PartialAt} {x : Job} {r : TRun} {w g : Tensor} {s : State}
    (h : n ≠ r.parts) : partialAdd j x w g r n a s =
      setTens j w.id (fun y => { y with early := (n, a) :: y.early.filter (·.1 != n) }) s := if_neg h

theorem addPartial_first (j : Fin 4) (x : Job) (w g : Tensor) (a : PartialAt) (s : State) :
    addPartial j x w g 0 a s = (ofWords (partialWords s a w.elements), s) := rfl

/-- R135: an element of G takes the sum of itself and the partial's element, converted once. -/
theorem addElem_bytes (j : Fin 4) (g : Tensor) (c : Conv) (bs : List Byte) (p q : Word) (s : State) :
    (addElem j g c (bs, s) (p, q)).1 = bs ++ (convertElem j g c (accAddV (accOf (ofB32 p)) (ofB32 q)) s).1 := rfl

/-! ### The entry into the glue-up (R300) -/

section
variable {j : Fin 4} {id : BitVec 16} (ecc : DrawerEcc) {x : Job} {w : Tensor} {s : State} (hj : s.jobs[j] = some x)
  (hw : tensorOf s id = some w)
include hj hw

theorem glueEnter_enters (hq : x.glueQ.head? = some id) (ho : glueOpen s < glueMax s) (hp : gSpilled s j w = false) :
    exec (.glueEnter j id ecc) s = .next (afterEcc ecc (enterGlue j x w) s) := by
  change execGlueEnter j id ecc s = _
  simp only [execGlueEnter, hj, hw, hq, ho, hp, beq_self_eq_true, decide_true, Bool.not_false, Bool.and_self, if_true]

theorem glueEnter_waits (h : glueMax s ≤ glueOpen s ∨ gSpilled s j w = true) :
    exec (.glueEnter j id ecc) s = .next s := by
  have hc : (x.glueQ.head? == some id && decide (glueOpen s < glueMax s) && !gSpilled s j w) = false := by
    rcases h with h | h
    · rw [decide_eq_false (Nat.not_lt.mpr h), Bool.and_false, Bool.false_and]
    · rw [h, Bool.not_true, Bool.and_false]
  change execGlueEnter j id ecc s = _
  simp only [execGlueEnter, hj, hw, hc, Bool.false_eq_true, if_false]

end

/-! ### The clamp (R145, R146) -/

theorem clampFactor_due {j : Fin 4} {id : BitVec 16} {x : Job} {r : TRun} {w : Tensor} {s : State} (hj : s.jobs[j] = some x)
    (hr : tensAt s j id = some r) (hw : tensorOf s id = some w) (ho : stepOpen x = true) (ht : x.train = true)
    (hd : trained w = true) (hx : w.job = x.index) (hg : r.gtFinal = true) (hf : r.fReady = false)
    (hn : tallyFull s x (r.tallyG.map (·.1)) = true) :
    exec (.clampFactor j id) s = .next (clampTens j x id r s) := by
  change execClampFactor j id s = _
  simp only [execClampFactor, hj, hr, hw, ho, ht, hd, hx, hg, hf, hn, beq_self_eq_true, Bool.not_false, Bool.and_self, if_true]

theorem clampOf_nonfinite {q : Val} (clip n : Word) (s : State) (h : vIsFin q = false) : clampOf q clip n s = (none, s) := by
  simp only [clampOf, h, Bool.not_false, if_true]

theorem clampOf_within {q : Val} {clip : Word} (n : Word) (s : State) (h : vIsFin q = true)
    (hl : vLe q (vMul (ofB32 clip) (ofB32 clip)) = true) : clampOf q clip n s = (some (b32One, b32Mul n b32One), s) := by
  simp only [clampOf, h, hl, Bool.not_true, Bool.or_true, Bool.false_eq_true, if_false, if_true]

/-! ### The built-in optimizers (R147 to R149, R157) -/

section
variable {j : Fin 4} {id : BitVec 16} (ecc : DrawerEcc) {x : Job} {r : TRun} {w : Tensor} {s : State}
  (hj : s.jobs[j] = some x) (hr : tensAt s j id = some r) (hw : tensorOf s id = some w)
include hj hr hw

theorem optimizerAdamw_due (h : optimizerDue s j x w r .adamw = true) : exec (.optimizerAdamw j id ecc) s =
    .next (afterEcc ecc (fun s1 => adamwRun j x w r (useShard j x w s1)) s) := by
  change execOptimizerAdamw j id ecc s = _
  simp only [execOptimizerAdamw, hj, hr, hw, h, if_true]

theorem optimizerSgdm_due (h : optimizerDue s j x w r .sgdm = true) : exec (.optimizerSgdm j id ecc) s =
    .next (afterEcc ecc (fun s1 => sgdmRun j x w r (useShard j x w s1)) s) := by
  change execOptimizerSgdm j id ecc s = _
  simp only [execOptimizerSgdm, hj, hr, hw, h, if_true]

end

/-- R146: an optimizer of a tensor whose q was not finite stores nothing. -/
theorem adamwRun_nonfinite (j : Fin 4) (x : Job) {r : TRun} (w : Tensor) (s : State) (h : r.nonfinite = true) :
    adamwRun j x w r s = optFinish j w s := by
  unfold adamwRun
  split
  · rw [if_pos h]
  · rfl

theorem sgdmRun_nonfinite (j : Fin 4) (x : Job) {r : TRun} (w : Tensor) (s : State) (h : r.nonfinite = true) :
    sgdmRun j x w r s = optFinish j w s := by
  unfold sgdmRun
  split
  · rw [if_pos h]
  · rfl

theorem optimizerReaderWaitEnd_ended {j : Fin 4} (n : Nat) {x : Job} {s : State} (hj : s.jobs[j] = some x)
    (hr : x.readers ≠ []) (he : readersEnded s x.readers = true) :
    exec (.optimizerReaderWaitEnd j n) s = .next (x.gatherHeld.foldl (fun s' g => gatherOne j g s')
      (bumpTrn j 5 n (setJob j (fun y => { y with readers := [], gatherHeld := [] }) s))) := by
  have hr' : x.readers.isEmpty = false := List.isEmpty_eq_false_iff.mpr hr
  change execOptimizerReaderWaitEnd j n s = _
  simp only [execOptimizerReaderWaitEnd, hj, hr', he, Bool.not_false, Bool.and_self, if_true]

/-! ### READY (R152, R153) -/

theorem exec_readySend (j : Fin 4) (s : State) : exec (.readySend j) s = execReadySend j s := rfl

theorem isMember_of_onFabric {s : State} {x : Job} (h : onFabric s x = true) : isMember s = true :=
  (Bool.and_eq_true_iff.mp h).2

/-- A member that is not the coordinator sends to the coordinator. -/
theorem sendCoord_of_member (kind : Byte) (arg : BitVec 16) (p : Payload) {s : State} (hm : isMember s = true)
    (hc : isCoord s = false) : sendCoord kind arg p s = send (coordDst s) kind arg p s := by
  simp only [sendCoord, hm, hc, Bool.not_false, Bool.and_self, if_true]

section
variable {j : Fin 4} {x : Job} {s : State} (hj : s.jobs[j] = some x) (hr : readyNow s j x = true)
include hj hr

theorem readySend_replayed {r : Record} (hs : x.saved = some r) :
    exec (.readySend j) s = .next (replayFinish j x s) := by
  simp only [exec_readySend, execReadySend, hj, hr, hs, Option.isSome_some, Bool.not_true, Bool.false_eq_true, if_false,
    if_true]

/-- R153: a job without a fabric axis asks nobody. -/
theorem readySend_local (hs : x.saved = none) (hf : onFabric s x = false) :
    exec (.readySend j) s = .next (commitStep j s) := by
  simp only [exec_readySend, execReadySend, hj, hr, hs, hf, Option.isSome_none, Bool.not_true, Bool.not_false,
    Bool.false_eq_true, if_false, if_true]

theorem readySend_member (hs : x.saved = none) (hf : onFabric s x = true) (hc : isCoord s = false) :
    exec (.readySend j) s = .next (send (coordDst s) 0x05 0 (.step x.index x.step)
      { s with jobs := s.jobs.set j (some { x with phase := .ready }) }) := by
  have hn : x.saved.isSome = false := by rw [hs, Option.isSome_none]
  simp only [exec_readySend, execReadySend, hj, hr, hn, hf, hc, Bool.not_true, Bool.false_eq_true, if_false]
  rw [sendCoord_of_member (s := setJob j _ s) _ _ _ (isMember_of_onFabric hf) hc, setJob_of_some hj]
  rfl

end

/-- Settles O32: each command has a lemma above for each way it goes. -/
theorem trainingCommandsTakeEffect : Obligations.TrainingCommandsTakeEffect :=
  ⟨⟨fun _ _ _ _ ecc _ _ _ _ _ _ hj hr hw hg hd hs hp => gradPartialAdd_due ecc hj hr hw hg hd hs hp,
      fun _ _ _ _ _ _ _ _ h => partialAdd_early h, addPartial_first, addElem_bytes⟩,
    fun _ _ ecc _ _ _ hj hw hq ho hp => glueEnter_enters ecc hj hw hq ho hp,
    fun _ _ ecc _ _ _ hj hw h => glueEnter_waits ecc hj hw h,
    fun _ _ _ _ _ _ hj hr hw ho ht hd hx hg hf hn => clampFactor_due hj hr hw ho ht hd hx hg hf hn,
    fun _ clip n s h => clampOf_nonfinite clip n s h, fun _ _ n s h _ hl => clampOf_within n s h hl,
    fun _ _ ecc _ _ _ _ hj hr hw => ⟨optimizerAdamw_due ecc hj hr hw, optimizerSgdm_due ecc hj hr hw⟩,
    fun j x _ w s h => ⟨adamwRun_nonfinite j x w s h, sgdmRun_nonfinite j x w s h⟩,
    fun _ n _ _ hj hr he => optimizerReaderWaitEnd_ended n hj hr he,
    fun _ _ _ hj hr hs hf => readySend_local hj hr hs hf, fun _ _ _ _ hj hr hs => readySend_replayed hj hr hs,
    fun _ _ _ hj hr hs hf hc => readySend_member hj hr hs hf hc⟩

end Sys2Proof.Machine
end

section
/-! Snapshots and replays (R183, R184, R190, R191): what SNAPSHOT and REPLAY answer and ask for, and how staging and exports
end. -/

namespace Sys2Proof.Machine

open Sys2Proof.Claims

/-! ### A command that a job notes -/

/-- A command that runs, stays PENDING and is noted by a job changes that job, the host interface, the management port and
the collector alone. -/
theorem runs_noted {c : Cmd} {op : Byte} {s s1 : State} (hr : Runs c op s s1) {j : Fin 4} {x : Job}
    (hj : s.jobs[j] = some x) (f : Job → Job) (p : Pend) :
    (setJob j f (startPending p s1)).jobs = s.jobs.set j (some (f x)) ∧
      setJob j f (startPending p s1) = { s with
        jobs := (setJob j f (startPending p s1)).jobs, hif := (setJob j f (startPending p s1)).hif,
        mgmt := (setJob j f (startPending p s1)).mgmt, evt := (setJob j f (startPending p s1)).evt } := by
  have hjobs : (startPending p s1).jobs = s.jobs := (startPending_jobs p s1).trans (runs_jobs hr)
  have haon : (startPending p s1).aon = s1.aon := answer_awake _ _ _ _ _ _ _ _ (runs_awake hr)
  rw [setJob_of_some (hjobs ▸ hj), hjobs, startPending_frame, haon]
  refine ⟨rfl, ?_⟩
  dsimp only
  generalize startPending p s1 = t
  rw [runs_frame hr]

/-! ### SNAPSHOT (R183, R184) -/

theorem exec_snapshot {c : Cmd} {s s1 : State} (h : Runs c 0x22 s s1) (hb : bitsFrom c.a0 4 = false) :
    exec (.snapshot c) s = .next (snapshotRun c (pendOf c 0x22 s1) s1) := by
  change execSnapshot c s = _
  rw [execSnapshot, hb]
  exact runCmd_of_runs h _

theorem snapshotRun_refused {c : Cmd} {s : State} (h : ∀ x, s.jobs[slotArg c] = some x → runsTraining x = false)
    (p : Pend) : snapshotRun c p s = endWith p stRefused s := by
  cases hj : s.jobs[slotArg c] with
  | none => simp only [snapshotRun, hj]
  | some x => simp only [snapshotRun, hj, h x hj, Bool.not_false, if_true]

section
variable {c : Cmd} {x : Job} {s : State} (hj : s.jobs[slotArg c] = some x) (ht : runsTraining x = true)
include hj ht

theorem snapshotRun_busy (h : x.snap ≠ none ∨ s.sq.exports[slotArg c] ≠ none) (p : Pend) :
    snapshotRun c p s = endWith p stBusy s := by
  have hb : (x.snap.isSome || (s.sq.exports[slotArg c]).isSome) = true := by
    simpa only [Bool.or_eq_true, Option.isSome_iff_ne_none] using h
  simp only [snapshotRun, hj, ht, hb, Bool.not_true, Bool.false_eq_true, if_false, if_true]

variable (hs : x.snap = none) (he : s.sq.exports[slotArg c] = none)
include hs he

/-- R355: the region that the snapshot would write is locked. -/
theorem snapshotRun_locked (hf : bitAt c.a0 2 = true) (hl : snapLocked s = true) (p : Pend) :
    snapshotRun c p s = endWith p stProtected (protectedFault (if snapSlot s then 9 else 8) s) := by
  simp only [snapshotRun, hj, ht, hs, he, hf, hl, Option.isSome_none, Bool.or_self, Bool.and_self, Bool.not_true,
    Bool.false_eq_true, if_false, if_true]

end

theorem askSnap_waits (j : Fin 4) {x : Job} (r : SnapReq) (s : State) (h : atBoundary x = false) :
    askSnap j x r s = setJob j (fun y => { y with snap := some r }) s := by
  simp only [askSnap, h, Bool.false_eq_true, if_false]

/-- The request that a SNAPSHOT of this module alone notes: due at any boundary. -/
def localSnap (c : Cmd) (p : Pend) : SnapReq :=
  ⟨some p, bitAt c.a0 2, c.a3.toNat * 65536, none, none, false, 0, some 0, c.a2 ++ c.a1, none⟩

theorem snapshotRun_waits {c : Cmd} {x : Job} {s : State} (hj : s.jobs[slotArg c] = some x) (ht : runsTraining x = true)
    (hs : x.snap = none) (he : s.sq.exports[slotArg c] = none) (h3 : bitAt c.a0 3 = false)
    (hl : bitAt c.a0 2 = true → snapLocked s = false) (ha : atBoundary x = false) (p : Pend) :
    snapshotRun c p s = setJob (slotArg c) (fun y => { y with snap := some (localSnap c p) }) (startPending p s) := by
  have hl' : (bitAt c.a0 2 && snapLocked s) = false := by
    cases hf : bitAt c.a0 2 with
    | false => rfl
    | true => exact hl hf
  simp only [snapshotRun, hj, ht, hs, he, h3, hl', Option.isSome_none, Bool.or_self, Bool.false_and, Bool.not_true,
    Bool.false_eq_true, if_false, askSnap_waits _ _ _ ha, localSnap]

/-- A command that a locked region turns away sets PROTECT_VIOLATION (R355). -/
theorem endWith_protectedFault_fls (p : Pend) (st : Byte) (n : Nat) (s : State) :
    (endWith p st (protectedFault n s)).fls = (flsFault 9 (regionBase n) n s).fls := by
  rw [endWith_fls, protectedFault, post_fls]

theorem endWith_protectedFault_jobs (p : Pend) (st : Byte) (n : Nat) (s : State) :
    (endWith p st (protectedFault n s)).jobs = s.jobs := by
  rw [endWith_jobs, protectedFault, post_jobs]
  rfl

theorem endWith_protectedFault_frame (p : Pend) (st : Byte) (n : Nat) {s : State} (h : awake s = true) :
    endWith p st (protectedFault n s) = { s with
      fls := (endWith p st (protectedFault n s)).fls, hif := (endWith p st (protectedFault n s)).hif,
      mgmt := (endWith p st (protectedFault n s)).mgmt, evt := (endWith p st (protectedFault n s)).evt } := by
  have haon : (protectedFault n s).aon = s.aon := post_awake _ _ h
  have hend : (endWith p st (protectedFault n s)).aon = (protectedFault n s).aon :=
    endWith_awake _ _ _ (awake_of_glb (post_glb ..) h)
  conv => lhs; rw [endWith_frame, hend, haon]
  rw [endWith_protectedFault_fls]
  generalize endWith p st (protectedFault n s) = t
  rw [protectedFault, post_frame]
  rfl

/-! ### Where staging and exports end (R184) -/

theorem snapshotStagingDone_staged {j : Fin 4} {x : Job} {r : SnapReq} {p : Part} (e : DrawerEcc) {s : State}
    (hj : s.jobs[j] = some x) (hs : x.snap = some r) (hp : r.staged = some p) (he : r.exporting = false) :
    exec (.snapshotStagingDone j e) s = .next (afterEcc e (fun s1 => replayBoundary j (stagingEnd j r p s1)) s) := by
  change execSnapshotStagingDone j e s = _
  simp only [execSnapshotStagingDone, hj, Option.bind_some, hs, hp, he, Bool.false_eq_true, if_false]

theorem stagingEnd_fits {r : SnapReq} {p : Part} {s : State}
    (h : partBytes s p ≤ if r.flash then snapArea s else r.limit) (j : Fin 4) :
    stagingEnd j r p s = setJob j (fun y => { y with snap := some { r with exporting := true } }) s :=
  if_neg (Nat.not_lt.mpr h)

theorem stagingEnd_exhausted {r : SnapReq} {p : Part} {s : State}
    (h : (if r.flash then snapArea s else r.limit) < partBytes s p) (j : Fin 4) :
    stagingEnd j r p s = endOpt r.pend stExhausted (dropSnap j r s) := if_pos h

theorem snapshotExportDone_ends {j : Fin 4} {r : SnapReq} {p : Part} {salt : BitVec 256} {ok done : Bool} (e : DrawerEcc)
    {s : State} (hr : exportOf j s = some r) (hp : r.staged = some p) (hs : r.salt = some salt)
    (ho : exportOutcome r ok = some done) : exec (.snapshotExportDone j ok e) s = .next (afterEcc e (fun s1 =>
      if exportOf j s1 = some r then exportEnd j r p salt done s1 else s1) s) := by
  change execSnapshotExportDone j ok e s = _
  simp only [execSnapshotExportDone, hr, hp, hs, ho]

/-- The blob stands in the host's buffer before the command ends. -/
theorem exportEnd_host (j : Fin 4) {r : SnapReq} (p : Part) (salt : BitVec 256) {q : Pend} (s : State)
    (hf : r.flash = false) (hq : r.pend = some q) :
    exportEnd j r p salt true s = snapDone q p (hostWrite r.addr (partBlob s salt p) (dropExport j r s)) := by
  simp only [exportEnd, hf, hq, Bool.false_eq_true, if_false, if_true]

theorem exportEnd_failed (j : Fin 4) (r : SnapReq) (p : Part) (salt : BitVec 256) (s : State) :
    exportEnd j r p salt false s = endOpt r.pend (if r.flash then stMedia else stAborted) (dropExport j r s) := rfl

theorem markExport_fls (j : Fin 4) (ok : Bool) (s : State) : (markExport j ok s).fls = s.fls := by
  unfold markExport
  dsimp only
  split <;> rfl

theorem finishTask_snapshot {u : FlashTask} {j : Fin 4} {slot : Bool} {q : DWord} {v : SnapPart} (s : State)
    (h : u.done = .snapshot j slot q v) : (finishTask u s).fls.snaps =
      if slot then s.fls.snaps.set 1 (some (q, v)) else s.fls.snaps.set 0 (some (q, v)) := by
  simp only [finishTask, h, markExport_fls]

/-! ### REPLAY (R190, R191) -/

theorem exec_replay {c : Cmd} {s s1 : State} (h : Runs c 0x23 s s1) (hb : bitsFrom c.a0 3 = false) :
    exec (.replay c) s = .next (replayRun c (pendOf c 0x23 s1) s1) := by
  change execReplay c s = _
  rw [execReplay, hb]
  exact runCmd_of_runs h _

theorem replayRun_refused {c : Cmd} {s : State} (h : ∀ x, s.jobs[slotArg c] = some x → runsTraining x = false ∨
    recordMode s = false ∨ recordFor s x (bitAt c.a0 2) = none) (p : Pend) :
    replayRun c p s = endWith p stRefused s := by
  cases hj : s.jobs[slotArg c] with
  | none => simp only [replayRun, hj]
  | some x =>
    have hn : (!runsTraining x || !recordMode s || (recordFor s x (bitAt c.a0 2)).isNone) = true := by
      rcases h x hj with h | h | h <;> simp only [h, Bool.not_false, Option.isNone_none, Bool.true_or, Bool.or_true]
    simp only [replayRun, hj, hn, if_true]

theorem askReplay_waits (j : Fin 4) {x : Job} (q : ReplayReq) (s : State) (h : atBoundary x = false) :
    askReplay j x q s = setJob j (fun y => { y with replays := y.replays ++ [q] }) s := by
  simp only [askReplay, h, Bool.false_eq_true, if_false]

theorem replayRun_waits {c : Cmd} {x : Job} {q : Record} {s : State} (hj : s.jobs[slotArg c] = some x)
    (ht : runsTraining x = true) (hm : recordMode s = true) (hq : recordFor s x (bitAt c.a0 2) = some q)
    (hf : onFabric s x = false) (ha : atBoundary x = false) (p : Pend) :
    replayRun c p s = setJob (slotArg c) (fun y => { y with
      replays := y.replays ++ [⟨some p, bitAt c.a0 2, some 0⟩] }) (startPending p s) := by
  simp only [replayRun, hj, ht, hm, hq, hf, Option.isNone_some, Bool.not_true, Bool.or_self, Bool.false_eq_true, if_false,
    askReplay_waits _ _ _ ha]

/-- Settles O30: `snapshotRun` and `replayRun` have a lemma per outcome, and `runs_noted` gives what a request that waits
changes. -/
theorem snapshotsAndReplaysWaitForTheBoundary : Obligations.SnapshotsAndReplaysWaitForTheBoundary := by
  refine ⟨fun c x s s1 h hb h3 hj ht hs he hl ha => ?_, fun c s s1 h hb hn => ?_, fun c x s s1 h hb hj ht hn => ?_,
    fun c x s s1 h hb hj ht hs he hf hl => ?_,
    ⟨fun _ _ _ _ e _ hj hs hp he => snapshotStagingDone_staged e hj hs hp he, fun j _ _ _ h => stagingEnd_fits h j,
      fun j _ _ _ h => stagingEnd_exhausted h j, fun _ _ => rfl⟩,
    ⟨fun _ _ _ _ _ _ e _ hr hp hs ho => snapshotExportDone_ends e hr hp hs ho,
      fun j _ p salt _ s hf hq => exportEnd_host j p salt s hf hq, exportEnd_failed,
      fun _ _ _ _ _ s h => finishTask_snapshot s h⟩,
    fun c x q s s1 h hb hj ht hm hq hf ha => ?_, fun c s s1 h hb hn => ?_⟩
  all_goals have hs1 := runs_frame h
  · obtain ⟨hjobs, hrun⟩ := runs_noted h hj (fun y => { y with snap := some (localSnap c (pendOf c 0x22 s1)) })
      (pendOf c 0x22 s1)
    rw [exec_snapshot h hb, snapshotRun_waits (by rwa [hs1]) ht hs (by rwa [hs1]) h3 (by rwa [hs1]) ha]
    exact ⟨_, localSnap c _, rfl, hjobs, rfl, rfl, rfl, rfl, rfl, hrun⟩
  · rw [exec_snapshot h hb, snapshotRun_refused (by rwa [hs1])]
  · rw [exec_snapshot h hb, snapshotRun_busy (by rwa [hs1]) ht (by rwa [hs1])]
  · rw [exec_snapshot h hb, snapshotRun_locked (by rwa [hs1]) ht hs (by rwa [hs1]) hf (by rwa [hs1])]
    refine ⟨_, rfl, ?_, (endWith_protectedFault_jobs ..).trans (runs_jobs h),
      (endWith_protectedFault_frame _ _ _ (runs_awake h)).trans ?_⟩
    · rw [endWith_protectedFault_fls]
      exact bitAt_orBit _ (by decide)
    · generalize endWith _ _ _ = t
      rw [runs_frame h]
  · obtain ⟨hjobs, hrun⟩ := runs_noted h hj (fun y => { y with
      replays := y.replays ++ [⟨some (pendOf c 0x23 s1), bitAt c.a0 2, some 0⟩] }) (pendOf c 0x23 s1)
    rw [exec_replay h hb, replayRun_waits (by rwa [hs1]) ht (by rwa [hs1]) (by rwa [hs1]) (by rwa [hs1]) ha]
    exact ⟨_, rfl, hjobs, hrun⟩
  · rw [exec_replay h hb, replayRun_refused (by rwa [hs1])]

end Sys2Proof.Machine
end

section
/-! Requests, steps and schedule entries start (R107, R171 to R174). -/

namespace Sys2Proof.Machine

/-! ### Requests of an inference job (R174) -/

/-- The job of a slot changed by g and then by f. -/
theorem setJob_setJob {j : Fin 4} {x : Job} {s : State} (h : s.jobs[j] = some x) (f g : Job → Job) :
    setJob j f (setJob j g s) = { s with jobs := s.jobs.set j (some (f (g x))) } := by
  have hg : (setJob j g s).jobs[j] = some (g x) := by rw [setJob_jobs, upd_same, h, Option.map_some]
  rw [setJob_of_some hg, setJob_of_some h]
  simp only [Vector.set_set]

section
variable {j : Fin 4} {x : Job} {e : JobEntry} {n : Nat} {s : State} (hj : s.jobs[j] = some x)
  (he : jobEntryOf s x.index = some e)
include hj he

theorem inferenceTriggerPeriod_due (hs : serves s x = true) (hl : latencyBound s x = true) (hn : trigPeriod e = some n)
    (ht : x.trigAt + n ≤ s.aon.time.toNat) : exec (.inferenceTriggerPeriod j) s =
      .next (trigger j x (setJob j (fun y => { y with trigAt := x.trigAt + n }) s)) := by
  change execInferenceTriggerPeriod j s = _
  simp only [execInferenceTriggerPeriod, hj, he, hn, hs, hl, ht, decide_true, Bool.and_self, if_true]

theorem inferenceTriggerPeriod_early (hn : trigPeriod e = some n) (ht : s.aon.time.toNat < x.trigAt + n) :
    exec (.inferenceTriggerPeriod j) s = .next s := by
  change execInferenceTriggerPeriod j s = _
  simp only [execInferenceTriggerPeriod, hj, he, hn, Nat.not_le.mpr ht, decide_false, Bool.and_false, Bool.false_eq_true,
    if_false]

theorem inferenceTriggerRing_due (hn : ringDue s x e = some n) (hs : serves s x = true) (hl : latencyBound s x = true) :
    exec (.inferenceTriggerRing j) s = .next (trigger j x (setJob j (fun y => { y with ringSeen := n }) s)) := by
  change execInferenceTriggerRing j s = _
  simp only [execInferenceTriggerRing, hj, he, hn, hs, hl, Bool.and_self, if_true]

end

theorem trigger_idle {x : Job} (h : x.running = none) (j : Fin 4) (s : State) :
    trigger j x s = beginRequest j s.aon.time.toNat s := by
  simp only [trigger, h, Option.isSome_none, Bool.false_eq_true, if_false]

theorem trigger_busy {x : Job} (h : x.running ≠ none) (j : Fin 4) (s : State) :
    trigger j x s = setJob j (fun y => { y with waiting := y.waiting ++ [s.aon.time.toNat] }) s :=
  if_pos (Option.isSome_iff_ne_none.mpr h)

section
variable {j : Fin 4} {x : Job} {s : State} (hj : s.jobs[j] = some x)
include hj

/-- A request that begins changes its job alone. -/
theorem beginRequest_setJob (g : Job → Job) (t0 : Nat) :
    ∃ y, beginRequest j t0 (setJob j g s) = { s with jobs := s.jobs.set j (some y) } ∧ y.running = some t0 ∧
      y.phase = .compute ∧ y.pos = vrep 4 0 ∧ y.trigAt = (g x).trigAt ∧ y.waiting = (g x).waiting :=
  ⟨_, setJob_setJob hj _ g, rfl, rfl, rfl, rfl, rfl⟩

theorem inferenceRequestDeferredStart_oldest {t0 : Nat} {rest : List Nat} (hw : x.waiting = t0 :: rest)
    (hs : serves s x = true) (hr : x.running = none) : exec (.inferenceRequestDeferredStart j) s =
      .next (beginRequest j t0 (setJob j (fun y => { y with waiting := rest }) s)) := by
  change execInferenceRequestDeferredStart j s = _
  simp only [execInferenceRequestDeferredStart, hj, hw, hs, hr, Option.isNone_none, Bool.and_self, if_true]

/-! ### STEP_START (R28) -/

theorem stepStart_begins {n : Nat} (hd : stepDue s x = true) (hp : placeReady s x = true) :
    exec (.stepStart j n) s = .next (beginStep j x n s) := by
  change execStepStart j n s = _
  simp only [execStepStart, hj, hd, hp, if_true]

theorem stepStart_holds {n : Nat} (hd : stepDue s x = true) (hp : placeReady s x = false) :
    exec (.stepStart j n) s = .next { s with jobs := s.jobs.set j (some { x with phase := .holding }) } := by
  change execStepStart j n s = _
  simp only [execStepStart, hj, hd, hp, Bool.false_eq_true, if_false, if_true, setJob_of_some hj]

end

/-! ### Operations that leave the jobs alone -/

/-- What each step of a fold keeps, the fold keeps. -/
theorem foldl_keeps {α β : Type} (g : State → β) {f : State → α → State} (hf : ∀ s a, g (f s a) = g s) (as : List α)
    (s : State) : g (as.foldl f s) = g s :=
  List.foldlRecOn (motive := fun t => g t = g s) as f rfl fun t h a _ => (hf t a).trans h

@[simp] theorem send_jobs (dst : BitVec 16) (kind : Byte) (arg : BitVec 16) (p : Payload) (s : State) :
    (send dst kind arg p s).jobs = s.jobs := by
  unfold send
  dsimp only
  split
  · exact foldl_keeps (·.jobs) (fun _ _ => by rfl) _ _
  · split
    · rfl
    · unfold sendTo
      split <;> rfl

@[simp] theorem sendTally_jobs (j : Fin 4) (x : Job) (id : BitVec 16) (t : Tally) (s : State) :
    (sendTally j x id t s).jobs = s.jobs :=
  foldl_keeps (·.jobs) (fun _ _ => send_jobs ..) _ _

theorem setHandle_jobs (h : Nat) (f : Handle → Handle) (s : State) : (setHandle h f s).jobs = s.jobs := by
  unfold setHandle
  split <;> rfl

theorem tcFill_jobs (q : Nat × Nat) (s : State) : (tcFill q s).jobs = s.jobs := by
  unfold tcFill
  split <;> rfl

theorem translate_jobs (h i : Nat) (s : State) : (translate h i s).jobs = s.jobs := by
  unfold translate
  dsimp only
  split <;> split <;> simp only [setHandle_jobs, tcFill_jobs, bumpStk_jobs]

theorem countReqs_jobs (h off n : Nat) (s : State) : (countReqs h off n s).jobs = s.jobs := by
  unfold countReqs
  split <;> rfl

@[simp] theorem useHandle_jobs (h off n : Nat) (s : State) : (useHandle h off n s).jobs = s.jobs := by
  unfold useHandle
  split
  · rfl
  · rw [countReqs_jobs, foldl_keeps (·.jobs) fun _ _ => translate_jobs ..]

@[simp] theorem useG_jobs (j : Fin 4) (w : Tensor) (lo n : Nat) (s : State) : (useG j w lo n s).jobs = s.jobs :=
  useHandle_jobs ..

@[simp] theorem useLathe_jobs (n : Fin 4) (f : LatheFn) (a u : Word) (s : State) :
    (useLathe n f a u s).2.jobs = s.jobs := by
  unfold useLathe
  simp only [bumpLth_jobs]

theorem normInv_jobs (s : State) (idx n : Nat) : (normInv s idx n).2.jobs = s.jobs := by
  unfold normInv
  split
  · split
    · exact useLathe_jobs ..
    · rfl
  · rfl

/-! ### What the start of a step keeps -/

/-- What the start of a step settles of its job: samples, step, windows and phase. -/
def stepRun (x : Job) : Nat × Nat × List Window × Phase := (x.samples, x.step, x.windows, x.phase)

def stepRunAt (j : Fin 4) (s : State) : Option (Nat × Nat × List Window × Phase) := (s.jobs[j]).map stepRun

theorem stepRunAt_of_jobs {s t : State} (h : t.jobs = s.jobs) (j : Fin 4) : stepRunAt j t = stepRunAt j s := by
  rw [stepRunAt, h, stepRunAt]

@[simp] theorem stepRunAt_setTens (j : Fin 4) (id : BitVec 16) (f : TRun → TRun) (s : State) :
    stepRunAt j (setTens j id f s) = stepRunAt j s := by
  rw [stepRunAt, setTens, setJob_jobs, upd_same, Option.map_map]
  rfl

theorem job_of_stepRunAt {j : Fin 4} {s : State} {n k : Nat} {ws : List Window} {ph : Phase}
    (h : stepRunAt j s = some (n, k, ws, ph)) :
    ∃ y, s.jobs[j] = some y ∧ y.samples = n ∧ y.step = k ∧ y.windows = ws ∧ y.phase = ph := by
  obtain ⟨y, hy, hr⟩ := Option.map_eq_some_iff.mp h
  simp only [stepRun, Prod.mk.injEq] at hr
  exact ⟨y, hy, hr⟩

section
variable (j : Fin 4) (x : Job) (s : State)

theorem stepRunAt_gtDone (w : Tensor) : stepRunAt j (gtDone j w s) = stepRunAt j s := by
  unfold gtDone
  split
  · rfl
  · rw [stepRunAt_of_jobs (sendTally_jobs ..), stepRunAt_setTens, stepRunAt_of_jobs (useG_jobs ..)]

theorem stepRunAt_passForeign : stepRunAt j (passForeign j x s) = stepRunAt j s :=
  foldl_keeps (stepRunAt j) (fun _ _ => by rw [stepRunAt_gtDone, stepRunAt_setTens]) _ _

theorem stepRunAt_tallyEndOne (t : Tensor) : stepRunAt j (tallyEndOne j x s t) = stepRunAt j s := by
  unfold tallyEndOne
  split
  · rfl
  · rw [stepRunAt_of_jobs (sendTally_jobs ..), stepRunAt_setTens]

theorem stepRunAt_tryTallyEnd : stepRunAt j (tryTallyEnd j s) = stepRunAt j s := by
  unfold tryTallyEnd
  split
  · rfl
  · split
    · exact foldl_keeps (stepRunAt j) (fun _ _ => stepRunAt_tallyEndOne ..) _ _
    · rfl

theorem stepRunAt_startTens (idx n : Nat) (w : Tensor) : stepRunAt j (startTens j idx n s w) = stepRunAt j s := by
  unfold startTens
  split
  · dsimp only
    split
    · exact stepRunAt_setTens ..
    · rw [stepRunAt_setTens, stepRunAt_of_jobs (useLathe_jobs ..), stepRunAt_of_jobs (useLathe_jobs ..)]
  · rfl

theorem stepRunAt_foreignDone : stepRunAt j (foreignDone j x s) = stepRunAt j s :=
  foldl_keeps (stepRunAt j) (fun _ _ => stepRunAt_setTens ..) _ _

end

/-- The end of COMPUTE (R163) changes of these the phase alone. -/
theorem stepRunAt_checkUpdate {j : Fin 4} {n k : Nat} {ws : List Window} {s : State}
    (h : stepRunAt j s = some (n, k, ws, .compute)) :
    ∃ ph, stepRunAt j (checkUpdate j s) = some (n, k, ws, ph) ∧ (ph = .compute ∨ ph = .update) := by
  obtain ⟨x, hx, rfl, rfl, rfl, -⟩ := job_of_stepRunAt h
  unfold checkUpdate
  rw [hx]
  dsimp only
  split
  · refine ⟨.update, ?_, .inr rfl⟩
    rw [stepRunAt_tryTallyEnd, stepRunAt_passForeign, setJob_of_some hx]
    exact congrArg (Option.map stepRun) (Vector.getElem_set_self j.isLt)
  · exact ⟨.compute, h, .inl rfl⟩

theorem stepRunAt_beginStep {j : Fin 4} {x : Job} {s : State} (hj : s.jobs[j] = some x) (n : Nat) :
    ∃ ph, stepRunAt j (beginStep j x n s) = some (n, x.step, stepWindows s x, ph) ∧ (ph = .compute ∨ ph = .update) := by
  refine stepRunAt_checkUpdate ?_
  rw [stepRunAt_foreignDone, foldl_keeps (stepRunAt j) fun _ _ => stepRunAt_startTens ..]
  have hc : (colFresh j (normInv s x.index n).2).jobs[j] = some x := by
    rw [← hj]
    exact congrArg (·[j]) (normInv_jobs ..)
  rw [setJob_of_some hc]
  exact congrArg (Option.map stepRun) (Vector.getElem_set_self j.isLt)

/-! ### SCHEDULE_ENTRY_START (R107, R171 to R173) -/

theorem exec_scheduleEntryStart (b : Fin 4) (s : State) :
    exec (.scheduleEntryStart b) s = execScheduleEntryStart b s := rfl

theorem scheduleEntryStart_off (b : Fin 4) {s : State} (h : s.pwr.state ≠ .run) :
    exec (.scheduleEntryStart b) s = .next s := by
  simp only [exec_scheduleEntryStart, execScheduleEntryStart, coreOn, beq_false_of_ne h, Bool.false_eq_true, if_false]

section
variable {b : Fin 4} {s : State} (h : s.pwr.state = .run)
include h

theorem scheduleEntryStart_idle (hs : (seatAll s).bnc[b].state = .stopped) (he : (seatAll s).bnc[b].entry = none) :
    exec (.scheduleEntryStart b) s = .next (startEntry b (feedBench b (seatAll s))) := by
  simp only [exec_scheduleEntryStart, execScheduleEntryStart, coreOn, h, hs, he, beq_self_eq_true, Option.isNone_none,
    Bool.and_self, if_true]

theorem scheduleEntryStart_busy (hb : (seatAll s).bnc[b].state ≠ .stopped ∨ (seatAll s).bnc[b].entry ≠ none) :
    exec (.scheduleEntryStart b) s = .next (seatAll s) := by
  have hn : ((seatAll s).bnc[b].state == .stopped && (seatAll s).bnc[b].entry.isNone) = false := by
    rcases hb with hs | he
    · rw [beq_false_of_ne hs, Bool.false_and]
    · rw [Option.isNone_eq_false_iff.mpr (Option.isSome_iff_ne_none.mpr he), Bool.and_false]
  simp only [exec_scheduleEntryStart, execScheduleEntryStart, coreOn, h, hn, beq_self_eq_true, Bool.false_eq_true,
    if_false, if_true]

end

/-- Settles O31: each command has a lemma above for each way it goes; what a step that begins sets of its
job is carried to its end by `stepRunAt`. -/
theorem stepsRequestsAndEntriesStart : Obligations.StepsRequestsAndEntriesStart := by
  refine ⟨fun j x e n s hj he hs hl hn ht hr => ?_, fun j x e n s hj he hs hl hn ht hr => ?_,
    fun j x e n s hj he hn ht => inferenceTriggerPeriod_early hj he hn ht, fun j x e n s hj he hn hs hl hr => ?_,
    fun j x t0 rest s hj hw hs hr => ?_, fun j n x s hj hd hp => stepStart_holds hj hd hp, fun j n x s hj hd hp => ?_,
    fun b s h hs he => scheduleEntryStart_idle h hs he, fun b s h hb => scheduleEntryStart_busy h hb,
    fun b s h => scheduleEntryStart_off b h⟩
  · obtain ⟨y, hb, hrun, hphase, hpos, htrig, -⟩ :=
      beginRequest_setJob hj (fun y => { y with trigAt := x.trigAt + n }) s.aon.time.toNat
    rw [inferenceTriggerPeriod_due hj he hs hl hn ht, trigger_idle hr, setJob_aon, hb]
    exact ⟨_, y, rfl, rfl, hrun, htrig, hphase, hpos, rfl⟩
  · rw [inferenceTriggerPeriod_due hj he hs hl hn ht, trigger_busy hr, setJob_setJob hj]
    rfl
  · rw [inferenceTriggerRing_due hj he hn hs hl, trigger_busy hr, setJob_setJob hj]
    rfl
  · obtain ⟨y, hb, hrun, hphase, -, -, hwait⟩ := beginRequest_setJob hj (fun y => { y with waiting := rest }) t0
    rw [inferenceRequestDeferredStart_oldest hj hw hs hr, hb]
    exact ⟨_, y, rfl, rfl, hrun, hwait, hphase, rfl⟩
  · obtain ⟨ph, hrun, hph⟩ := stepRunAt_beginStep hj n
    obtain ⟨y, hy, hn, hk, hw, rfl⟩ := job_of_stepRunAt hrun
    exact ⟨_, y, stepStart_begins hj hd hp, hy, hn, hk, hw, hph⟩

end Sys2Proof.Machine
end

section
/-! Peer copies, expert entries and fetched state (R181, R297, R308 to R311). -/

namespace Sys2Proof.Machine

open Sys2Proof.Claims

/-! ### Delivery and the check of a collective message (R297) -/

theorem acceptFlits_jobs (l : Fin 8) (h : MsgHdr) (s : State) : (acceptFlits l h s).jobs = s.jobs := by
  unfold acceptFlits dataBack
  dsimp only
  split <;> rfl

theorem forwardAll_jobs (h : MsgHdr) (p : Payload) (s : State) : (forwardAll h p s).jobs = s.jobs := by
  unfold forwardAll
  dsimp only
  split
  · rfl
  · exact foldl_keeps (·.jobs) (fun _ _ => by rfl) _ _

@[simp] theorem delivered_jobs (l : Fin 8) (h : MsgHdr) (p : Payload) (s : State) :
    (delivered l h p s).jobs = s.jobs := by
  unfold delivered
  split
  · rw [forwardAll_jobs, acceptFlits_jobs]
  · exact acceptFlits_jobs l h s

section
variable {h : MsgHdr} {ch : ColHdr} {any : Job → Bool} {k : Fin 4 → Job → State → State} {s : State}

theorem colCheck_passes {x : Job} (hj : s.jobs[slotFin ch.job.toNat] = some x) (hh : hdrOk ch = true)
    (hp : x.parked = false) (hs : any x = true ∨ ch.step = BitVec.ofNat 32 x.step) :
    colCheck h ch any k s = k (slotFin ch.job.toNat) x (colMark (slotFin ch.job.toNat) ch.tensor s) := by
  have hs' : (any x || ch.step == BitVec.ofNat 32 x.step) = true := by
    simpa only [Bool.or_eq_true, beq_iff_eq] using hs
  simp only [colCheck, hj, hh, hp, hs', Bool.not_false, Bool.and_self, if_true]

theorem colCheck_drops (hs : ∀ x, s.jobs[slotFin ch.job.toNat] = some x → any x = false ∧
    ch.step ≠ BitVec.ofNat 32 x.step) : colCheck h ch any k s = colDrop h ch s := by
  cases hj : s.jobs[slotFin ch.job.toNat] with
  | none => simp only [colCheck, hj]
  | some x =>
    obtain ⟨ha, hn⟩ := hs x hj
    simp only [colCheck, hj, ha, beq_false_of_ne hn, Bool.or_self, Bool.and_false, Bool.false_eq_true, if_false]

variable {l : Fin 8}

/-- A collective message for a job that runs here, of a step that it takes, has its effect k. -/
theorem recv_colCheck_forJob {x : Job} (a : ForJob l h ch x s) (hs : any x = true ∨ ch.step = BitVec.ofNat 32 x.step)
    (p : Payload) : recv l h p (colCheck h ch any k) s =
      .next (k (slotFin ch.job.toNat) x (colMark (slotFin ch.job.toNat) ch.tensor (delivered l h p s))) := by
  obtain ⟨ha, hj, hh, hp⟩ := a
  rw [recv_of_arrives ha, colCheck_passes (by rwa [delivered_jobs]) hh hp hs]

theorem recv_colCheck_drops (a : Arrives l h s) (hs : ∀ x, s.jobs[slotFin ch.job.toNat] = some x → any x = false ∧
    ch.step ≠ BitVec.ofNat 32 x.step) (p : Payload) :
    recv l h p (colCheck h ch any k) s = .next (colDrop h ch (delivered l h p s)) := by
  rw [recv_of_arrives a, colCheck_drops (by rwa [delivered_jobs])]

end

/-! ### Hand-overs by this module's own planes (R308 to R310) -/

section
variable {h : MsgHdr} {s : State} (l : Fin 8) (ch : ColHdr) (xs : List ExpEntry)

theorem exec_expDispatch_received (ho : ownHand s h = false) : exec (.expDispatch l h ch xs) s =
    colRecv l h ch (.experts ch xs) (takeDispatch h ch xs) s := if_neg (Bool.eq_false_iff.mp ho)

theorem exec_expReturn_received (ho : ownHand s h = false) : exec (.expReturn l h ch xs) s =
    colRecv l h ch (.experts ch xs) (fun j _ => takeReturn h.src.toNat ch xs j) s := if_neg (Bool.eq_false_iff.mp ho)

variable {x : Job} (ho : ownHand s h = true) (hj : s.jobs[slotFin ch.job.toNat] = some x)
include ho hj

theorem exec_expDispatch_own :
    exec (.expDispatch l h ch xs) s = .next (ownDispatch ch xs (slotFin ch.job.toNat) x s) := by
  change execExpDispatch l h ch xs s = _
  simp only [execExpDispatch, ho, handOver, hj, if_true]

theorem exec_expReturn_own :
    exec (.expReturn l h ch xs) s = .next (ownReturn h.dst.toNat ch xs (slotFin ch.job.toNat) x s) := by
  change execExpReturn l h ch xs s = _
  simp only [execExpReturn, ho, handOver, hj, if_true]

end

/-! ### Merging and the cap (R309) -/

theorem capEntries_length (n : Nat) (xs : List (Nat × ExpEntry)) : (capEntries n xs).length = xs.length := by
  induction xs generalizing n with
  | nil => cases n <;> rfl
  | cons a t ih => cases n <;> simp only [capEntries, List.length_cons, ih]

/-- An entry within the cap is kept as it is. -/
theorem capEntries_within {n k : Nat} (h : k < n) (xs : List (Nat × ExpEntry)) : (capEntries n xs)[k]? = xs[k]? := by
  induction xs generalizing n k with
  | nil => cases n <;> rfl
  | cons a t ih =>
    cases n with
    | zero => exact absurd h (Nat.not_lt_zero k)
    | succ n =>
      cases k with
      | zero => rfl
      | succ k => exact ih (Nat.lt_of_succ_lt_succ h)

/-- An entry beyond the cap is dropped, and its vector with it. -/
theorem capEntries_beyond {n k : Nat} (h : n ≤ k) {xs : List (Nat × ExpEntry)} {e : Nat × ExpEntry}
    (he : (capEntries n xs)[k]? = some e) : e.2.dropped = true ∧ e.2.vec = [] := by
  induction xs generalizing n k with
  | nil => cases n <;> cases he
  | cons a t ih =>
    cases n with
    | zero =>
      cases k with
      | zero =>
        cases he
        exact ⟨rfl, rfl⟩
      | succ k => exact ih (Nat.zero_le k) he
    | succ n =>
      cases k with
      | zero => exact absurd h (Nat.not_succ_le_zero n)
      | succ k => exact ih (Nat.le_of_succ_le_succ h) he

theorem insertEntry_perm (a : Nat × ExpEntry) (xs : List (Nat × ExpEntry)) : (insertEntry a xs).Perm (a :: xs) := by
  induction xs with
  | nil => exact .refl _
  | cons b t ih =>
    unfold insertEntry
    split
    · exact .refl _
    · exact (ih.cons b).trans (.swap a b t)

theorem mergeEntries_perm (xs : List (Nat × ExpEntry)) : (mergeEntries xs).Perm xs := by
  induction xs with
  | nil => exact .refl _
  | cons a t ih => exact (insertEntry_perm a _).trans (ih.cons a)

/-! ### State and peer data (R181, R311) -/

theorem exec_stateReq (l : Fin 8) (h : MsgHdr) (ch : ColHdr) (e : DrawerEcc) (s : State) :
    exec (.stateReq l h ch e) s = recv l h (.col ch)
      (colCheck h ch (fun _ => ch.step == 0) fun j x => afterEcc e (answerState h.src h ch j x)) s := rfl

theorem exec_stateData (l : Fin 8) (h : MsgHdr) (ch : ColHdr) (xs : List Byte) (r : StateRec) (s : State) :
    exec (.stateData l h ch xs r) s = recv l h (.state ch xs r)
      (colCheck h ch (fun x => x.phase == .holding) (takeState h ch xs r)) s := rfl

theorem answerState_within (d : BitVec 16) (h : MsgHdr) {ch : ColHdr} (j : Fin 4) {x : Job} {t : Tensor} {r : TRun}
    {s : State} (ht : tensorOf s ch.tensor = some t) (hr : tensIn x ch.tensor = some r)
    (hn : ch.offset.toNat + ch.count.toNat ≤ t.elements) :
    answerState d h ch j x s = send d 0x81 0 (.state (colHdr j x t.id 0 ch.offset.toNat ch.count.toNat)
      (shardBytes s t r false ch.offset.toNat (ch.offset.toNat + ch.count.toNat))
      ⟨x.step, x.seed.getD 0, r.bc1, r.bc2, r.k, r.kPrev, r.hist⟩)
      (useHandle r.handle.toNat ((if isVeneer t.role then bufBase t r.cur else 0) + ch.offset.toNat * fmtBytes t.fmt)
        (ch.count.toNat * fmtBytes t.fmt) s) := by
  simp only [answerState, ht, hr, hn, if_true]

/-- State that was not asked for is dropped. -/
theorem takeState_unasked (h : MsgHdr) {ch : ColHdr} (xs : List Byte) (k : StateRec) (j : Fin 4) {x : Job} (s : State)
    (hf : x.fetch.contains (ch.tensor, ch.offset.toNat, ch.count.toNat) = false) :
    takeState h ch xs k j x s = colDrop h ch s := by
  unfold takeState
  dsimp only
  split
  · rw [hf, Bool.false_and, if_neg Bool.false_ne_true]
  · rfl

/-- Peer data without a grant is dropped. -/
theorem takePeerData_ungranted (h : MsgHdr) (ch : ColHdr) (n : Nat) (last : Bool) (xs : List Byte) (j : Fin 4) (x : Job)
    {s : State} (hg : ∀ p ∈ s.col.peers, p.granted = false) : takePeerData h ch n last xs j x s = colDrop h ch s := by
  have hn : (s.col.peers.find? fun p => p.granted && p.src == h.src && p.job == j && p.tensor == ch.tensor) = none := by
    refine List.find?_eq_none.mpr fun p hp => ?_
    simp only [hg p hp, Bool.false_and, Bool.false_eq_true, not_false_eq_true]
  simp only [takePeerData, hn]

/-- Settles O45: every message is delivered and checked (`recv_colCheck_forJob`, `recv_colCheck_drops`), and each effect has
its lemma above. -/
theorem peerExpertAndStateMessages : Obligations.PeerExpertAndStateMessages := by
  refine ⟨fun l h ch x s a hs => ?_,
    fun l h ch xs x s ho hj => ⟨exec_expDispatch_own l ch xs ho hj, exec_expReturn_own l ch xs ho hj⟩,
    fun l h ch e x s a hs => ?_, fun l h ch xs r x s a hs => ?_,
    fun l h ch xs r e s a hs => ⟨fun h0 => ?_, fun hp => ?_⟩,
    fun n xs => ⟨capEntries_length n xs, fun k e hk he => (capEntries_within hk xs).symm.trans he,
      fun k e hk he => capEntries_beyond hk he⟩,
    mergeEntries_perm, fun d h _ j _ _ _ _ ht hr hn => answerState_within d h j ht hr hn,
    fun h _ xs k j _ s hf => takeState_unasked h xs k j s hf,
    fun h ch n last xs j x _ hg => takePeerData_ungranted h ch n last xs j x hg⟩
  · refine ⟨fun e => recv_colCheck_forJob a (.inr hs) _, recv_colCheck_forJob a (.inr hs) _,
      fun n last xs => recv_colCheck_forJob a (.inr hs) _, recv_colCheck_forJob a (.inr hs) _, fun xs ho => ?_,
      fun xs ho => ?_⟩
    · rw [exec_expDispatch_received l ch xs ho]
      exact recv_colCheck_forJob a (.inr hs) _
    · rw [exec_expReturn_received l ch xs ho]
      exact recv_colCheck_forJob a (.inr hs) _
  · rw [exec_stateReq]
    refine recv_colCheck_forJob a ?_ _
    exact hs.imp_left beq_iff_eq.mpr
  · rw [exec_stateData]
    refine recv_colCheck_forJob a ?_ _
    exact hs.imp_left beq_iff_eq.mpr
  · rw [exec_stateReq]
    exact recv_colCheck_drops a (fun x hj => ⟨beq_false_of_ne h0, hs x hj⟩) _
  · rw [exec_stateData]
    exact recv_colCheck_drops a (fun x hj => ⟨beq_false_of_ne (hp x hj), hs x hj⟩) _

end Sys2Proof.Machine
end

section
/-! The invariant of the machine (R204, R354, R372, R496) holds after reset and at every step. -/

namespace Sys2Proof.Machine

/-- The commands that wait are no part of the invariant. -/
theorem Inv.withPending {s : State} (h : Inv s) (cs : List Instr) : Inv { s with pending := cs } :=
  ⟨h.memory, h.commands, h.events, h.outputs, h.fact⟩

/-- Settles O48: an idle cycle and every command keep the invariant (`good_idleStep`, `good_exec`), and so does taking the
command from the queue. -/
theorem stepsKeepTheInvariant : Obligations.StepsKeepTheInvariant := by
  intro s t ht hs
  unfold step at ht
  split at ht
  next =>
    cases ht
    exact (good_idleStep s (Good.refl s)).inv hs
  next c rest _ =>
    have hg : Good { s with pending := rest } t := (good_exec c _ (Good.refl _)).good t ht
    exact hg.inv (hs.withPending rest)

/-- Settles O50: after reset the memories and the queues are empty, and no output is ready. -/
theorem resetMeetsTheInvariant : Obligations.ResetMeetsTheInvariant where
  memory := rfl
  commands := Nat.zero_le _
  events := Nat.zero_le _
  outputs := Nat.zero_le _
  fact := rfl

end Sys2Proof.Machine
end

section
/-! The noise source and a power-down (R205, R462, R464): a source that fails without ever having passed its start-up test ends
the boot, and a power-down that waited for the boot then begins and resets the source. -/

namespace Sys2Proof.Machine

/-! ### What a power-down leaves of the noise source -/

theorem powerLost_rng {goTo : PState} (s : State) (h : goTo ≠ .sleep) : (powerLost goTo s).rng = Rng.reset := by
  unfold powerLost
  rw [if_neg (by simpa using h)]
  rfl

/-- A module that is in no workshop, with nothing left to send, loses power at once (R464). -/
theorem quiesced_of_lastSent (goTo : PState) {s : State} (hm : isMember s = false) (hl : lastSent s = true) :
    quiesced goTo s = powerLost goTo s := by
  simp [quiesced, hm, hl]

/-- A power-down from RUN with every job quiet does not wait for a boundary (R464). -/
theorem beginRails_of_quiet (goTo : PState) {s : State} (hs : s.pwr.state = .run) (hq : allQuiet s = true) :
    beginRails goTo s = quiesced goTo { s with pwr := { s.pwr with transition := true, goal := goTo } } := by
  unfold beginRails
  rw [if_neg (by simp [hs]), if_neg (by simp [hs])]
  exact if_pos hq

theorem beginTo_off_rng {s : State} (hs : s.pwr.state = .run) (hq : allQuiet s = true) (hm : isMember s = false)
    (hl : lastSent s = true) : (beginTo .off s).rng = Rng.reset := by
  have hrails : beginTo .off s = beginRails .off s := by simp [beginTo, atOnce, hs]
  rw [hrails, beginRails_of_quiet .off hs hq, quiesced_of_lastSent .off (by exact hm) (by exact hl),
    powerLost_rng _ (by decide)]

/-- A power sequence that comes to its end in RUN while the target is OFF goes on to OFF (R462). -/
theorem powerUpEnd_toOff_rng {s : State} (hr : s.pwr.transition = false) (ho : s.pwr.target = .off)
    (hs : s.pwr.state = .run) (hq : allQuiet s = true) (hm : isMember s = false) (hl : lastSent s = true) :
    (powerUpEnd s).rng = Rng.reset := by
  simp only [powerUpEnd, answerNext, hr, ho, reduceCtorEq, Bool.false_eq_true, if_false]
  exact beginTo_off_rng hs hq hm hl

/-! ### A source that fails in a boot -/

/-- The third failure in a row of a source that has passed before (R203). -/
theorem healthFail_of_third (bit : Nat) (ctr : Fin 3) {s : State} (hs : s.rng.state = .recovering) (hc : 2 ≤ s.rng.consec) :
    healthFail bit ctr s = sourceFails (post (ev 0x0661)
      (bumpRng ctr 1 { s with rng := { s.rng with fault := orBit s.rng.fault bit } })) := by
  unfold healthFail
  rw [hs]
  exact if_pos hc

/-- The boot of a source that has never passed stops, and a module bound for OFF goes there (R205, R462). -/
theorem stopBoot_toOff_rng {s : State} (he : s.rng.everOk = false) (hb : bootDone s = false)
    (hr : s.pwr.transition = false) (ho : s.pwr.target = .off) (hs : s.pwr.state = .run) (hq : allQuiet s = true)
    (hm : isMember s = false) (hl : lastSent s = true) : (stopBoot s).rng = Rng.reset := by
  unfold stopBoot
  rw [if_pos (by simp [he, hb])]
  exact powerUpEnd_toOff_rng hr ho hs hq hm hl

/-- With no request waiting, nothing follows the stop of the boot. -/
theorem sourceFails_of_noneWaiting {s : State} (hw : s.rng.waiting = []) :
    sourceFails s = stopBoot (post (ev 0x0662) { s with rng := { s.rng with
      state := .failed, consec := 3, windows := 0, waiting := [], ready := 0, fault := orBit s.rng.fault 2 } }) := by
  unfold sourceFails
  rw [hw]
  rfl

/-- A module in its boot, bound for OFF, whose source reads RECOVERING after two failures and has never passed. -/
def failingSourceBoundForOff : State :=
  { State.reset with
    pwr := { Pwr.reset with target := .off }
    rng := { Rng.reset with state := .recovering, consec := 2, waiting := [] } }

theorem healthFail_failingSourceBoundForOff_rng : (healthFail 0 0 failingSourceBoundForOff).rng = Rng.reset := by
  rw [healthFail_of_third 0 0 rfl (Nat.le_refl 2), sourceFails_of_noneWaiting rfl]
  exact stopBoot_toOff_rng rfl rfl rfl rfl rfl rfl rfl rfl

/-- Refutes O22: its clause about the third failure in a row asks nothing of `everOk`. On `failingSourceBoundForOff` the failure
leaves the source in STARTUP, not in FAILED. No run reaches this state (RECOVERING is entered only once the source has passed);
with `everOk` the failure leaves the power alone. -/
theorem not_noiseSourceFollowsItsTests : ¬ Obligations.NoiseSourceFollowsItsTests := by
  unfold Obligations.NoiseSourceFollowsItsTests
  rintro ⟨-, -, -, -, hthird, -, -⟩
  obtain ⟨t, ht, hfailed, -, -⟩ :=
    hthird .rngRctFail failingSourceBoundForOff (.inl rfl) rfl rfl (Nat.le_refl 2) rfl
  have hnext : healthFail 0 0 failingSourceBoundForOff = t := Host.Outcome.next.inj ht
  rw [← hnext, healthFail_failingSourceBoundForOff_rng] at hfailed
  exact absurd hfailed (by decide)

end Sys2Proof.Machine
end

section
/-! What a command does to one link beside the collector's events, and the bring-up of a link (R264 to R268, R287). -/

namespace Sys2Proof.Machine

/-! ### A change of one link -/

/-- t differs from s in link l, which is f of what it was, and in the collector. -/
structure OnLink (l : Fin 8) (f : Link → Link) (s t : State) : Prop where
  links : t.links = upd s.links l f
  frame : t = { s with links := t.links, evt := t.evt }

section
variable {l : Fin 8} {f g : Link → Link} {s t u : State}

theorem OnLink.link (h : OnLink l f s t) : t.links[l] = f s.links[l] := by rw [h.links, upd_same]

theorem OnLink.other (h : OnLink l f s t) {k : Fin 8} (hk : k ≠ l) : t.links[k] = s.links[k] := by
  rw [h.links, upd_other _ _ _ _ hk]

/-- A change of the link that posts no event. -/
theorem OnLink.silent (h : OnLink l f s t) (he : t.evt = s.evt) : t = { s with links := t.links } := by
  conv => lhs; rw [h.frame, he]

theorem OnLink.glb (h : OnLink l f s t) : t.glb = s.glb := by rw [h.frame]
theorem OnLink.pwr (h : OnLink l f s t) : t.pwr = s.pwr := by rw [h.frame]
theorem OnLink.ws (h : OnLink l f s t) : t.ws = s.ws := by rw [h.frame]

theorem OnLink.awake (h : OnLink l f s t) (ha : awake s = true) : awake t = true := awake_of_glb h.glb ha

theorem OnLink.trans (h1 : OnLink l f s t) (h2 : OnLink l g t u) : OnLink l (fun x => g (f x)) s u where
  links := by
    rw [h2.links, h1.links]
    exact (Vector.set_set ..).trans (congrArg (s.links.set l · l.isLt) (congrArg g (upd_same ..)))
  frame := h2.frame.trans (by rw [h1.frame])

end

theorem onLink_setLink (l : Fin 8) (f : Link → Link) (s : State) : OnLink l f s (setLink l f s) := ⟨rfl, rfl⟩

theorem onLink_post (l : Fin 8) (e : Posted) {s : State} (ha : awake s = true) : OnLink l id s (post e s) where
  links := by simp [upd]
  frame := by
    conv => lhs; rw [post_rec e s ha]
    rw [post_links]

theorem onLink_bumpLink (l i : Fin 8) (n : Nat) {s : State} (ha : awake s = true) :
    OnLink l (fun x => { x with ctrs := upd x.ctrs i (ctrAdd · n) }) s (bumpLink l i n s) :=
  ⟨bumpLink_own l i n s, bumpLink_rec l i n s ha⟩

theorem onLink_linkFault (bit : Nat) (l : Fin 8) (s : State) :
    OnLink l (fun x => { x with fault := orBit x.fault bit }) s (linkFault bit l s) := onLink_setLink ..

theorem onLink_linkEvent (code : BitVec 16) (l : Fin 8) {s : State} (ha : awake s = true) :
    OnLink l id s (linkEvent code l s) := onLink_post l _ ha

/-! ### Links that live -/

theorem awake_of_linkLive {l : Fin 8} {s : State} (h : linkLive l s = true) : awake s = true :=
  awake_of_running (Bool.and_eq_true_iff.mp h).2

theorem inState_iff {l : Fin 8} {st : LkState} {s : State} :
    inState l st s = true ↔ linkLive l s = true ∧ s.links[l].state = st := by simp [inState]

/-- A link that the part does not have is in no state. -/
theorem inState_absent {l : Fin 8} {s : State} (h : linkPresent s.part l.val = false) (st : LkState) :
    inState l st s = false := by simp [inState, linkLive, h]

/-! ### A link without a session (R265) -/

theorem bareLink_state (st : LkState) {x : Link} (hd : x.disable = false) (hs : x.stopped = false) :
    (bareLink st x).state = st := by simp [bareLink, hd, hs]

/-- R265, R267: the HELLO exchange fails, with FAULT bit 2. -/
theorem onLink_helloFail (l : Fin 8) {s : State} (ha : awake s = true) :
    OnLink l (fun x => bareLink .signalDetect { x with fault := orBit x.fault 2 }) s (helloFail l s) :=
  ((onLink_linkFault 2 l s).trans (onLink_linkEvent 0x0404 l ((onLink_linkFault 2 l s).awake ha))).trans
    (onLink_setLink ..)

/-- What the failure leaves of a link that is neither disabled nor exhausted. -/
theorem helloFail_restarts (l : Fin 8) {s : State} (ha : awake s = true) (hd : s.links[l].disable = false)
    (hs : s.links[l].stopped = false) :
    (helloFail l s).links[l].state = .signalDetect ∧ (helloFail l s).links[l].keyed = false ∧
      bitAt (helloFail l s).links[l].fault 2 = true := by
  rw [(onLink_helloFail l ha).link]
  exact ⟨bareLink_state _ hd hs, rfl, bitAt_orBit _ (by decide)⟩

/-! ### Training (R265) -/

section
variable {l : Fin 8} {s : State}

/-- A request to a noise source that has not failed waits for its outputs (R204). -/
theorem askRng_of_ok (r : RngReq) (h : s.rng.state ≠ .failed) :
    askRng r s = { s with rng := { s.rng with waiting := s.rng.waiting ++ [r] } } := by
  simp [askRng, h]

/-- A link is changed and outputs of the noise source are asked for on its behalf (R204). -/
theorem askRng_setLink (r : RngReq) (l : Fin 8) (f : Link → Link) (h : s.rng.state ≠ .failed) :
    ∃ t, askRng r (setLink l f s) = t ∧ t.links = upd s.links l f ∧ t.rng.waiting = s.rng.waiting ++ [r] ∧
      t = { s with links := t.links, rng := { s.rng with waiting := t.rng.waiting } } :=
  ⟨_, askRng_of_ok (s := setLink l f s) r h, rfl, rfl, rfl⟩

/-- R265, R266: aligned flits start a HELLO session, for which two outputs are asked. -/
theorem flitAlignment_begins (h : inState l .training s = true) (hf : s.links[l].trainFailed = false)
    (hd : s.links[l].disable = false) (hs : s.links[l].stopped = false) (hr : s.rng.state ≠ .failed) :
    ∃ t, exec (.flitAlignment l) s = .next t ∧ t.links[l].state = .hello ∧ t.links[l].lanes = 0xF ∧
      t.links[l].trainFails = 0 ∧ t.links[l].keyed = false ∧ t.links[l].nonce = none ∧ t.links[l].keys = none ∧
      t.rng.waiting = s.rng.waiting ++ [⟨.hello l.val, 2⟩] ∧ (∀ k : Fin 8, k ≠ l → t.links[k] = s.links[k]) ∧
      t = { s with links := t.links, rng := { s.rng with waiting := t.rng.waiting } } := by
  have hrun : exec (.flitAlignment l) s = .next (beginHello l s) := if_pos (by simp [-Fin.getElem_fin, h, hf])
  obtain ⟨t, ht, hl, hw, hframe⟩ := askRng_setLink ⟨.hello l.val, 2⟩ l _ hr
  refine ⟨t, hrun.trans (congrArg _ ht), ?_⟩
  rw [hl, upd_same]
  exact ⟨bareLink_state _ hd hs, rfl, rfl, rfl, rfl, rfl, hw, fun k hk => upd_other _ _ _ _ hk, hl ▸ hframe⟩

/-- R265: a training attempt that fails is counted; the third in a row is reported. -/
theorem trainTimeout_counts (h : inState l .training s = true) (hf : s.links[l].trainFailed = false) :
    ∃ t, exec (.trainTimeout l) s = .next t ∧ t.links[l].trainFails = s.links[l].trainFails + 1 ∧
      t.links[l].trainFailed = true ∧ t.links[l].state = .training ∧
      (s.links[l].trainFails = 2 → bitAt t.links[l].fault 1 = true) ∧
      (s.links[l].trainFails ≠ 2 → t.links[l].fault = s.links[l].fault ∧ t.evt = s.evt) ∧
      t = { s with links := t.links, evt := t.evt } := by
  obtain ⟨hl, hst⟩ := inState_iff.mp h
  have ha := awake_of_linkLive hl
  have hn := onLink_setLink l (fun x => { x with
    trainFailed := true, trainFails := s.links[l].trainFails + 1, lanes := 0 }) s
  have hrun : exec (.trainTimeout l) s = .next (if s.links[l].trainFails + 1 = 3 then _ else _) :=
    if_pos (by simp [-Fin.getElem_fin, h, hf])
  by_cases h2 : s.links[l].trainFails = 2
  · have hb := hn.trans (onLink_linkFault 1 l _)
    have ht := hb.trans (onLink_linkEvent 0x0403 l (hb.awake ha))
    refine ⟨_, hrun.trans (congrArg _ (if_pos (by rw [h2]))), ?_⟩
    rw [ht.link]
    exact ⟨rfl, rfl, hst, fun _ => bitAt_orBit _ (by decide), absurd h2, ht.frame⟩
  · refine ⟨_, hrun.trans (congrArg _ (if_neg (by omega))), ?_⟩
    rw [hn.link]
    exact ⟨rfl, rfl, hst, fun h => absurd h h2, fun _ => ⟨rfl, rfl⟩, rfl⟩

end

/-! ### HELLO (R266 to R268) -/

section
variable {l : Fin 8} {m : Hello} {s : State}

/-- A HELLO message is looked at in HELLO and NOT_ADMITTED, before keying (R255, R267). -/
theorem exec_hello (hs : inState l .hello s = true ∨ inState l .notAdmitted s = true) (hk : s.links[l].keyed = false)
    (hz : m.reservedZero = true) (hv : m.version = 1) :
    exec (.hello l m) s = if !(m.chainOk && m.sigOk) then .next (helloFail l s)
      else if m.imageId != imageIdOf s then .next (notAdmit l m s) else .next (takeHello l m s) :=
  if_pos (by simpa [-Fin.getElem_fin, hk, hz, hv] using hs)

theorem linkLive_of_hello (hs : inState l .hello s = true ∨ inState l .notAdmitted s = true) : linkLive l s = true :=
  hs.elim (inState_iff.mp · |>.1) (inState_iff.mp · |>.1)

/-- R267: a HELLO that does not verify. -/
theorem hello_fails (hs : inState l .hello s = true ∨ inState l .notAdmitted s = true) (hk : s.links[l].keyed = false)
    (hz : m.reservedZero = true) (hv : m.version = 1) (hb : m.chainOk = false ∨ m.sigOk = false)
    (hd : s.links[l].disable = false) (hp : s.links[l].stopped = false) :
    ∃ t, exec (.hello l m) s = .next t ∧ t.links[l].state = .signalDetect ∧ bitAt t.links[l].fault 2 = true ∧
      t.links[l].keyed = false ∧ t = { s with links := t.links, evt := t.evt } := by
  have ha := awake_of_linkLive (linkLive_of_hello hs)
  obtain ⟨hst, hkey, hbit⟩ := helloFail_restarts l ha hd hp
  exact ⟨_, (exec_hello hs hk hz hv).trans (if_pos (by simpa using hb)), hst, hbit, hkey, (onLink_helloFail l ha).frame⟩

theorem onLink_notAdmit (l : Fin 8) (m : Hello) {s : State} (ha : awake s = true) :
    ∃ f, OnLink l f s (notAdmit l m s) ∧ ∀ x, (f x).state = .notAdmitted ∧ (f x).peerSerial = m.serial := by
  unfold notAdmit
  dsimp only
  split
  · exact ⟨_, onLink_setLink .., fun _ => ⟨rfl, rfl⟩⟩
  · exact ⟨_, ((onLink_setLink ..).trans (onLink_linkFault 3 l _)).trans (onLink_linkEvent 0x0405 l (by exact ha)),
      fun _ => ⟨rfl, rfl⟩⟩

/-- R267: a peer with another image. -/
theorem hello_notAdmitted (hs : inState l .hello s = true ∨ inState l .notAdmitted s = true)
    (hk : s.links[l].keyed = false) (hz : m.reservedZero = true) (hv : m.version = 1) (hc : m.chainOk = true)
    (hg : m.sigOk = true) (hi : m.imageId ≠ imageIdOf s) :
    ∃ t, exec (.hello l m) s = .next t ∧ t.links[l].state = .notAdmitted ∧ t.links[l].peerSerial = m.serial ∧
      t = { s with links := t.links, evt := t.evt } := by
  obtain ⟨f, ht, hf⟩ := onLink_notAdmit l m (awake_of_linkLive (linkLive_of_hello hs))
  refine ⟨_, (exec_hello hs hk hz hv).trans ((if_neg (by simp [hc, hg])).trans (if_pos (by simpa using hi))), ?_⟩
  rw [ht.link]
  exact ⟨(hf _).1, (hf _).2, ht.frame⟩

/-- A link after its peer's HELLO has passed (R267). -/
def helloNoted (m : Hello) (x : Link) : Link :=
  { x with
    state := .hello, peerSerial := m.serial, peerClaim := BitVec.ofNat 10 m.claim, peerLink := m.link,
    peerWs := m.wsId, peerEpoch := m.epoch, peerMembers := m.members, peerHolding := m.holding, peerNonce := m.nonce,
    peerEph := m.ephPub, peerSeen := true, seenByPeer := x.seenByPeer || m.peerSeen }

theorem takeHello_eq (l : Fin 8) (m : Hello) (s : State) : takeHello l m s = tryKeys l (setLink l (helloNoted m) s) := rfl

/-- A link whose keys have been installed: its session's counters start afresh (R265, R268). -/
def linkKeyed (k : LinkKeys) (x : Link) : Link :=
  { x with
    keyed := true, keys := some k, eph := none, gen := 0, txF := 0, rxF := 0, txSeq := 0,
    rxSeq := 0, unacked := [], resend := [], credits := Link.reset.credits, creditsBack := vrep 4 0,
    credSeen := vrep 4 0, nak := false, discard := false, dataRun := 0, tagRun := 0 }

/-- Both nonces are exchanged and the peer has this module's HELLO (R265). -/
def keysDue (x : Link) : Bool :=
  x.state == .hello && x.nonce.isSome && x.peerSeen && x.seenByPeer && !x.keyed

theorem tryKeys_early (h : s.links[l].eph = none ∨ keysDue s.links[l] = false) : tryKeys l s = s := by
  unfold tryKeys
  dsimp only
  split
  · rfl
  · next k hk =>
    rw [hk] at h
    exact if_neg (ne_true_of_eq_false (h.resolve_left (Option.some_ne_none k)))

theorem tryKeys_due {k : BitVec 384} (he : s.links[l].eph = some k) (h : keysDue s.links[l] = true) :
    tryKeys l s = setLink l (linkKeyed (linkKeys s s.links[l] k s.links[l].peerEph 0))
      (sayHello l (setLink l (fun y => { y with keysOn := true }) s)) := by
  unfold tryKeys
  dsimp only
  rw [he]
  exact if_pos h

theorem onLink_sayHello (l : Fin 8) (s : State) :
    OnLink l (fun x => { x with hellos := x.hellos + 1, helloOut := helloBytes s l x }) s (sayHello l s) :=
  onLink_setLink ..

/-- A HELLO with KEYS_ON goes out and the keys are installed. -/
theorem onLink_tryKeys (he : s.links[l].eph ≠ none) (h : keysDue s.links[l] = true) :
    ∃ (ks : LinkKeys) (out : Link → List Byte), OnLink l (fun x => linkKeyed ks { x with
      keysOn := true, hellos := x.hellos + 1, helloOut := out x }) s (tryKeys l s) ∧ (tryKeys l s).evt = s.evt := by
  obtain ⟨k, hk⟩ := Option.ne_none_iff_exists'.mp he
  rw [tryKeys_due hk h]
  have ht := ((onLink_setLink l (fun y => { y with keysOn := true }) s).trans (onLink_sayHello l _)).trans
    (onLink_setLink l (linkKeyed (linkKeys s s.links[l] k s.links[l].peerEph 0)) _)
  exact ⟨_, _, ht, rfl⟩

/-- R267, R268: a HELLO that passes is noted; it brings the keys once this side has its draws and the peer its HELLO. -/
theorem hello_taken (hs : inState l .hello s = true ∨ inState l .notAdmitted s = true)
    (hk : s.links[l].keyed = false) (hz : m.reservedZero = true) (hv : m.version = 1) (hc : m.chainOk = true)
    (hg : m.sigOk = true) (hi : m.imageId = imageIdOf s) :
    ∃ t, exec (.hello l m) s = .next t ∧ t.links[l].state = .hello ∧ t.links[l].peerSerial = m.serial ∧
      t.links[l].peerWs = m.wsId ∧ t.links[l].peerEpoch = m.epoch ∧ t.links[l].peerSeen = true ∧
      t.links[l].peerNonce = m.nonce ∧
      (t.links[l].keyed = true ↔ (s.links[l].nonce ≠ none ∧ s.links[l].eph ≠ none ∧
        (s.links[l].seenByPeer = true ∨ m.peerSeen = true))) ∧
      (t.links[l].keyed = true → t.links[l].eph = none ∧ t.links[l].keys ≠ none ∧ t.links[l].gen = 0 ∧
        t.links[l].txF = 0 ∧ t.links[l].rxF = 0 ∧ t.links[l].keysOn = true) ∧
      (∀ k : Fin 8, k ≠ l → t.links[k] = s.links[k]) ∧ t = { s with links := t.links } := by
  refine ⟨_, (exec_hello hs hk hz hv).trans ((if_neg (by simp [hc, hg])).trans (if_neg (by simp [hi]))), ?_⟩
  rw [takeHello_eq]
  have hn := onLink_setLink l (helloNoted m) s
  have hdue : keysDue (helloNoted m s.links[l]) = true ↔
      s.links[l].nonce ≠ none ∧ (s.links[l].seenByPeer = true ∨ m.peerSeen = true) := by
    simp [-Fin.getElem_fin, keysDue, helloNoted, hk, Option.isSome_iff_ne_none]
  by_cases he : s.links[l].eph = none ∨ keysDue (helloNoted m s.links[l]) = false
  · have hwait : ¬(s.links[l].nonce ≠ none ∧ s.links[l].eph ≠ none ∧
        (s.links[l].seenByPeer = true ∨ m.peerSeen = true)) := fun ⟨hno, hep, hse⟩ =>
      he.elim hep (ne_false_of_eq_true (hdue.mpr ⟨hno, hse⟩))
    rw [tryKeys_early (by rwa [hn.link]), hn.link]
    refine ⟨rfl, rfl, rfl, rfl, rfl, rfl, iff_of_false ?_ hwait, fun h => ?_, fun k hk => hn.other hk, rfl⟩
    · exact ne_true_of_eq_false hk
    · exact absurd h (ne_true_of_eq_false hk)
  · rw [not_or, Bool.not_eq_false, hdue] at he
    obtain ⟨hep, hno, hse⟩ := he
    obtain ⟨ks, out, hkeyed, hevt⟩ := onLink_tryKeys (l := l) (s := setLink l (helloNoted m) s)
      (by rw [hn.link]; exact hep) (by rw [hn.link]; exact hdue.mpr ⟨hno, hse⟩)
    have ht := hn.trans hkeyed
    rw [ht.link]
    exact ⟨rfl, rfl, rfl, rfl, rfl, rfl, iff_of_true rfl ⟨hno, hep, hse⟩,
      fun _ => ⟨rfl, Option.some_ne_none _, rfl, rfl, rfl, rfl⟩, fun k hk => ht.other hk, ht.silent hevt⟩

/-- R255, R266: a message with a reserved value, of another VERSION, or after keying, is dropped. -/
theorem hello_dropped (h : m.reservedZero = false ∨ m.version ≠ 1 ∨ s.links[l].keyed = true) :
    exec (.hello l m) s = .next s := by
  refine if_neg fun hc => ?_
  simp only [Bool.and_eq_true, Bool.not_eq_true', beq_iff_eq] at hc
  obtain ⟨⟨⟨-, hk⟩, hz⟩, hv⟩ := hc
  rcases h with h | h | h
  · exact absurd hz (ne_true_of_eq_false h)
  · exact h hv
  · exact absurd h (ne_true_of_eq_false hk)

/-! ### FAB_LCTRL (R287) -/

theorem fabDisable_cleared (hl : linkLive l s = true) (hd : s.links[l].disable = true) :
    ∃ t, exec (.fabDisable l false) s = .next t ∧
      t.links[l].state = (if s.links[l].stopped then .stopped else .signalDetect) ∧ t.links[l].disable = false ∧
      t = { s with links := t.links } := by
  have ht := (onLink_setLink l (fun x => { x with disable := false }) s).trans (onLink_setLink l (bareLink .signalDetect) _)
  refine ⟨_, (if_neg (by simp [-Fin.getElem_fin, hl, hd])).trans (if_neg Bool.false_ne_true), ?_⟩
  rw [ht.link]
  exact ⟨rfl, rfl, rfl⟩

theorem fabDisable_set (hl : linkLive l s = true) (hd : s.links[l].disable = false) (hc : carries s.links[l] = false)
    (hr : s.links[l].state ≠ .retrain) :
    ∃ t, exec (.fabDisable l true) s = .next t ∧ t.links[l].state = .disabled ∧ t.links[l].disable = true ∧
      t = { s with links := t.links } := by
  have ht := (onLink_setLink l (fun x => { x with disable := true }) s).trans (onLink_setLink l (bareLink .disabled) _)
  have hrun : exec (.fabDisable l true) s = if carries s.links[l] || s.links[l].state == .retrain then _ else _ :=
    (if_neg (by simp [-Fin.getElem_fin, hl, hd])).trans (if_pos rfl)
  refine ⟨_, hrun.trans (if_neg (by simp [-Fin.getElem_fin, hc, hr])), ?_⟩
  rw [ht.link]
  exact ⟨rfl, rfl, rfl⟩

theorem fabRestart_restarts (h : inState l .stopped s = true) (hd : s.links[l].disable = false) :
    ∃ t, exec (.fabRestart l) s = .next t ∧ t.links[l].state = .signalDetect ∧ t.links[l].stopped = false ∧
      t = { s with links := t.links } := by
  have ht := onLink_setLink l (fun x => bareLink .signalDetect { x with stopped := false }) s
  refine ⟨_, if_pos h, ?_⟩
  rw [ht.link]
  exact ⟨bareLink_state _ hd rfl, rfl, rfl⟩

end

/-- Settles O42: each command of the bring-up acts in its own states alone. -/
theorem linksComeUpInOrder : Obligations.LinksComeUpInOrder := by
  refine ⟨fun l s h => if_pos h, fun l s h hf hd hs hr => flitAlignment_begins h hf hd hs hr,
    fun l s h hf => trainTimeout_counts h hf, fun l s h hf => if_pos (by simp [-Fin.getElem_fin, h, hf]),
    fun l m s hs hk hz hv hb hd hp => hello_fails hs hk hz hv hb hd hp,
    fun l m s hs hk hz hv hc hg hi => hello_notAdmitted hs hk hz hv hc hg hi,
    fun l m s hs hk hz hv hc hg hi => hello_taken hs hk hz hv hc hg hi, fun l m s h => hello_dropped h,
    fun l s h hk => ⟨if_pos (by simp [-Fin.getElem_fin, h, hk]), if_neg (by simp [-Fin.getElem_fin, hk]),
      fun hn => if_pos ?_⟩,
    fun l s h hk => ⟨if_pos (by simp [-Fin.getElem_fin, h, hk]), if_neg (by simp [-Fin.getElem_fin, hk])⟩,
    fun l s h => if_pos h,
    fun l s hl hd _ => fabDisable_cleared hl hd, fun l s hl hd hc hr => fabDisable_set hl hd hc hr,
    fun l s h hd => fabRestart_restarts h hd, fun l s h => if_pos (by simpa using h),
    fun l m s h => ⟨if_neg ?_, if_neg ?_, if_neg ?_⟩⟩
  · simp [-Fin.getElem_fin, h, hk, Option.isSome_iff_ne_none, hn]
  all_goals simp [inState_absent h]

end Sys2Proof.Machine
end

section
/-! Flits on a link, and the limits that end its session (R255, R256, R261, R263 to R265, R271). -/

namespace Sys2Proof.Machine

open Sys2Proof.Claims

/-! ### The errors of a flit (R263) -/

theorem OnLink.congr {l : Fin 8} {f g : Link → Link} {s t : State} (h : OnLink l f s t)
    (e : f s.links[l] = g s.links[l]) : OnLink l g s t :=
  ⟨h.links.trans (congrArg (s.links.set l · l.isLt) e), h.frame⟩

/-- A link on which the errors of a received flit have been counted. -/
def flitCounted (rx : FlitRx) (x : Link) : Link :=
  let c := upd (upd x.ctrs 2 (ctrAdd · rx.corr)) 3 (ctrAdd · (rx.uncorr - if rx.shared then 1 else 0))
  { x with
    tagRun := if 0 < rx.uncorr then x.tagRun else if rx.tagOk then 0 else x.tagRun + 1
    ctrs := if 0 < rx.uncorr ∨ rx.tagOk = true then c else upd c 5 (ctrAdd · 1) }

theorem onLink_flitErrors (l : Fin 8) (rx : FlitRx) {s : State} (ha : awake s = true) :
    OnLink l (flitCounted rx) s (flitErrors l rx s).2 := by
  have hc := (onLink_bumpLink l 2 rx.corr ha).trans
    (onLink_bumpLink l 3 (rx.uncorr - if rx.shared then 1 else 0) (by exact ha))
  unfold flitErrors
  dsimp only
  split
  · next hu => exact hc.congr (by simp [flitCounted, hu])
  · next hu =>
    split
    · next ht => exact (hc.trans (onLink_setLink ..)).congr (by simp [flitCounted, hu, ht])
    · next ht =>
      exact ((hc.trans (onLink_setLink ..)).trans (onLink_bumpLink l 5 1 (by exact ha))).congr
        (by simp [flitCounted, hu, ht])

theorem flitErrors_bad (l : Fin 8) {rx : FlitRx} (s : State) (hb : 0 < rx.uncorr ∨ rx.tagOk = false) :
    (flitErrors l rx s).1 = false := by
  unfold flitErrors
  dsimp only
  split
  · rfl
  · next hu => rw [if_neg (ne_true_of_eq_false (hb.resolve_left hu))]

theorem flitErrors_good (l : Fin 8) {rx : FlitRx} (s : State) (hu : rx.uncorr = 0) (ht : rx.tagOk = true) :
    (flitErrors l rx s).1 = true := by
  unfold flitErrors
  dsimp only
  rw [if_neg (by omega), if_pos ht]

theorem onLink_badFlit (l : Fin 8) (rx : FlitRx) {s : State} (ha : awake s = true) :
    OnLink l (fun x => { flitCounted rx x with nak := true, discard := true }) s (badFlit l (flitErrors l rx s).2) :=
  (onLink_flitErrors l rx ha).trans (onLink_setLink l (fun x => { x with nak := true, discard := true }) _)

/-! ### What a flit does (R255, R263, R282) -/

theorem sealedFlit_iff {l : Fin 8} {rx : FlitRx} {s : State} :
    sealedFlit l rx s = true ↔ linkLive l s = true ∧ slotting s.links[l] = true ∧ rx.enc = true := by
  simp [-Fin.getElem_fin, sealedFlit, and_assoc]

/-- R255: a flit that is not looked at. -/
theorem flit_dropped {l : Fin 8} {rx : FlitRx} {s : State} (h : sealedFlit l rx s = false) (q : BitVec 12) (r : Bool)
    (vl : BitVec 2) (b : LinkBody) : exec (.linkFlit l (.data rx q r vl)) s = .next s ∧
      exec (.linkFlit l (.link rx b)) s = .next s ∧ exec (.quiesceFlit l rx b) s = .next s :=
  ⟨if_pos (by simp [h]), if_pos (by simp [h]), if_pos (by simp [h])⟩

section
variable {l : Fin 8} {rx : FlitRx} {s : State} (hs : sealedFlit l rx s = true)
include hs

theorem awake_of_sealedFlit : awake s = true := awake_of_linkLive (sealedFlit_iff.mp hs).1

section
variable (hb : 0 < rx.uncorr ∨ rx.tagOk = false)
include hb

theorem exec_data_bad (q : BitVec 12) (r : Bool) (vl : BitVec 2) :
    exec (.linkFlit l (.data rx q r vl)) s = .next (badFlit l (flitErrors l rx s).2) :=
  (if_neg (by simp [hs])).trans (if_pos (by simp [flitErrors_bad l s hb]))

theorem exec_link_bad (b : LinkBody) :
    exec (.linkFlit l (.link rx b)) s = .next (badLink l rx (flitErrors l rx s).2) :=
  (if_neg (by simp [hs])).trans (if_pos (by simp [flitErrors_bad l s hb]))

theorem exec_quiesce_bad (b : LinkBody) : exec (.quiesceFlit l rx b) s = .next (badFlit l (flitErrors l rx s).2) :=
  (if_neg (by simp [hs])).trans (if_pos (by simp [flitErrors_bad l s hb]))

/-- R263: a bad flit asks for a resend, and what follows it is discarded. -/
theorem flit_bad (q : BitVec 12) (r : Bool) (vl : BitVec 2) (b : LinkBody) :
    ∃ t, exec (.linkFlit l (.data rx q r vl)) s = .next t ∧
      ((s.links[l].state ≠ .hello ∨ 0 < rx.uncorr) → exec (.linkFlit l (.link rx b)) s = .next t) ∧
      exec (.quiesceFlit l rx b) s = .next t ∧ t.links[l].nak = true ∧ t.links[l].discard = true ∧
      t.links[l].rxSeq = s.links[l].rxSeq ∧ (rx.uncorr = 0 → t.links[l].tagRun = s.links[l].tagRun + 1) ∧
      t = { s with links := t.links, evt := t.evt } := by
  have ha := awake_of_sealedFlit hs
  have ht := onLink_badFlit l rx ha
  have hlink : (s.links[l].state ≠ .hello ∨ 0 < rx.uncorr) →
      badLink l rx (flitErrors l rx s).2 = badFlit l (flitErrors l rx s).2 := fun h => by
    unfold badLink
    rw [(onLink_flitErrors l rx ha).link]
    refine if_neg fun hc => ?_
    simp only [Bool.and_eq_true, beq_iff_eq] at hc
    exact h.elim (· hc.1) fun h0 => absurd hc.2 (Nat.ne_of_gt h0)
  refine ⟨_, exec_data_bad hs hb q r vl, fun h => (exec_link_bad hs hb b).trans (congrArg _ (hlink h)),
    exec_quiesce_bad hs hb b, ?_⟩
  rw [ht.link]
  refine ⟨rfl, rfl, rfl, fun h0 => ?_, ht.frame⟩
  have htag : rx.tagOk = false := hb.resolve_left (by omega)
  simp [flitCounted, h0, htag]

end

/-- R265: the first sealed LINK flit fails its tag. -/
theorem linkFlit_helloFails (b : LinkBody) (hst : s.links[l].state = .hello) (hu : rx.uncorr = 0)
    (htag : rx.tagOk = false) (hd : s.links[l].disable = false) (hp : s.links[l].stopped = false) :
    ∃ t, exec (.linkFlit l (.link rx b)) s = .next t ∧ t.links[l].state = .signalDetect ∧ t.links[l].keyed = false ∧
      bitAt t.links[l].fault 2 = true ∧ t = { s with links := t.links, evt := t.evt } := by
  have ha := awake_of_sealedFlit hs
  have he := onLink_flitErrors l rx ha
  have hfail : badLink l rx (flitErrors l rx s).2 = helloFail l (flitErrors l rx s).2 := by
    unfold badLink
    rw [he.link]
    exact if_pos (by simp only [flitCounted, hst, hu]; rfl)
  obtain ⟨hstate, hkey, hbit⟩ := helloFail_restarts l (he.awake ha) (by rw [he.link]; exact hd) (by rw [he.link]; exact hp)
  exact ⟨_, (exec_link_bad hs (.inr htag) b).trans (congrArg _ hfail), hstate, hkey, hbit,
    (he.trans (onLink_helloFail l (he.awake ha))).frame⟩

section
variable (hu : rx.uncorr = 0) (ht : rx.tagOk = true)
include hu ht

/-- R255: a flit with a reserved field set is counted and goes no further. -/
theorem exec_data_reserved (hz : rx.hdrReservedZero = false) (q : BitVec 12) (r : Bool) (vl : BitVec 2) :
    exec (.linkFlit l (.data rx q r vl)) s = .next (flitErrors l rx s).2 :=
  (if_neg (by simp [hs])).trans ((if_neg (by simp [flitErrors_good l s hu ht])).trans (if_pos (by simp [hz])))

theorem exec_data_good (hz : rx.hdrReservedZero = true) (q : BitVec 12) (r : Bool) (vl : BitVec 2) :
    exec (.linkFlit l (.data rx q r vl)) s =
      .next (dataBack l (flitErrors l rx s).2 (dataFlit l q r vl (flitErrors l rx s).2)) :=
  (if_neg (by simp [hs])).trans ((if_neg (by simp [flitErrors_good l s hu ht])).trans (if_neg (by simp [hz])))

theorem exec_link_reserved {b : LinkBody} (hz : rx.hdrReservedZero = false ∨ b.reservedZero = false) :
    exec (.linkFlit l (.link rx b)) s = .next (flitErrors l rx s).2 ∧
      exec (.quiesceFlit l rx b) s = .next (flitErrors l rx s).2 :=
  ⟨(if_neg (by simp [hs])).trans ((if_neg (by simp [flitErrors_good l s hu ht])).trans (if_pos (by simpa using hz))),
    (if_neg (by simp [hs])).trans ((if_neg (by simp [flitErrors_good l s hu ht])).trans (if_pos (by simpa using hz)))⟩

section
variable {b : LinkBody} (hz : rx.hdrReservedZero = true) (hb : b.reservedZero = true)
include hz hb

theorem exec_link_good : exec (.linkFlit l (.link rx b)) s =
    .next (dataBack l (flitErrors l rx s).2 (linkBody l b (flitErrors l rx s).2)) :=
  (if_neg (by simp [hs])).trans ((if_neg (by simp [flitErrors_good l s hu ht])).trans (if_neg (by simp [hz, hb])))

/-- R282: a good QUIESCE flit on a link that carries traffic after it. -/
theorem exec_quiesce_good (hc : carries (linkBody l b (flitErrors l rx s).2).links[l] = true) :
    exec (.quiesceFlit l rx b) s = .next (noteQuiet (setLink l (fun x => { x with state := .peerQuiesce })
      (linkBody l b (flitErrors l rx s).2))) :=
  (if_neg (by simp [hs])).trans ((if_neg (by simp [flitErrors_good l s hu ht])).trans
    ((if_neg (by simp [hz, hb])).trans (if_pos hc)))

end

end

end

/-! ### DATA flits (R263, R282) -/

/-- A link that has accepted n flits of a lane. -/
def flitsTaken (n : Nat) (vl : BitVec 2) (x : Link) : Link :=
  { x with
    state := .up, rxSeq := x.rxSeq + BitVec.ofNat 12 n, discard := false,
    creditsBack := x.creditsBack.set vl.toNat (x.creditsBack[vl.toNat] + BitVec.ofNat 16 n) }

theorem onLink_flitsTaken (l : Fin 8) (n : Nat) (vl : BitVec 2) {s : State} (ha : awake s = true) :
    OnLink l (fun x => { flitsTaken n vl x with ctrs := upd x.ctrs 1 (ctrAdd · n) }) s
      (bumpLink l 1 n (setLink l (flitsTaken n vl) s)) :=
  (onLink_setLink ..).trans (onLink_bumpLink l 1 n (by exact ha))

@[simp] theorem dataBack_links (l : Fin 8) (was s : State) : (dataBack l was s).links = s.links := by
  unfold dataBack
  split <;> rfl

@[simp] theorem dataBack_evt (l : Fin 8) (was s : State) : (dataBack l was s).evt = s.evt := by
  unfold dataBack
  split <;> rfl

/-- On a link that was not quiet, flits change nothing beyond it. -/
theorem dataBack_of_notQuiet {l : Fin 8} {was : State} (s : State) (h : was.links[l].state ≠ .peerQuiesce) :
    dataBack l was s = s := if_neg (by simp [-Fin.getElem_fin, h])

/-- What the flits that a link accepts change beyond it and the collector. -/
theorem dataBack_frame {l : Fin 8} {f : Link → Link} {was s t : State} (h : OnLink l f s t)
    (hup : t.links[l].state = .up) (hw : was.links[l].state = s.links[l].state) :
    dataBack l was t = { flitsBack l (dataBack l was t).links s with
      links := (dataBack l was t).links, evt := (dataBack l was t).evt } := by
  rw [dataBack_links, dataBack_evt]
  unfold dataBack flitsBack
  rw [hup, hw]
  have hframe := h.frame
  generalize t.links = ls at hframe ⊢
  generalize t.evt = e at hframe ⊢
  subst hframe
  by_cases hq : s.links[l].state = .peerQuiesce
  · rw [if_pos (by rw [hq]; rfl), if_pos hq]
    rfl
  · rw [if_neg (by simp [-Fin.getElem_fin, hq]), if_neg hq]

theorem dataFlit_next {l : Fin 8} {q : BitVec 12} {r : Bool} (vl : BitVec 2) {s : State} (hst : s.links[l].state ≠ .hello)
    (hq : q = s.links[l].rxSeq) (hd : s.links[l].discard = true → r = true) :
    dataFlit l q r vl s = bumpLink l 1 1 (setLink l (flitsTaken 1 vl) s) := by
  have hd' : (s.links[l].discard && !r) = false := by
    cases hx : s.links[l].discard
    · rfl
    · rw [hd hx]; rfl
  unfold dataFlit
  dsimp only
  rw [hd', hq]
  exact if_neg (by simp [-Fin.getElem_fin, hst])

theorem dataFlit_outOfSequence {l : Fin 8} {q : BitVec 12} (r : Bool) (vl : BitVec 2) {s : State}
    (hq : q ≠ s.links[l].rxSeq) : dataFlit l q r vl s = s := if_pos (by simp [-Fin.getElem_fin, hq])

section
variable {l : Fin 8} {rx : FlitRx} {s : State} (hs : sealedFlit l rx s = true) (hu : rx.uncorr = 0) (ht : rx.tagOk = true)
include hs hu ht

/-- R256, R263: the DATA flit that is expected. -/
theorem dataFlit_taken (hz : rx.hdrReservedZero = true) {r : Bool} (vl : BitVec 2) (hst : s.links[l].state ≠ .hello)
    (hd : s.links[l].discard = true → r = true) :
    ∃ t, exec (.linkFlit l (.data rx s.links[l].rxSeq r vl)) s = .next t ∧ t.links[l].rxSeq = s.links[l].rxSeq + 1 ∧
      t.links[l].creditsBack[vl.toNat] = s.links[l].creditsBack[vl.toNat] + 1 ∧ t.links[l].discard = false ∧
      t.links[l].state = .up ∧ t = { flitsBack l t.links s with links := t.links, evt := t.evt } := by
  have ha := awake_of_sealedFlit hs
  have he := onLink_flitErrors l rx ha
  have htake := he.trans (onLink_flitsTaken l 1 vl (he.awake ha))
  rw [exec_data_good hs hu ht hz, dataFlit_next vl (by rw [he.link]; exact hst) (by rw [he.link]; rfl)
    (by rw [he.link]; exact hd)]
  refine ⟨_, rfl, ?_, ?_, ?_, ?_, dataBack_frame htake (by rw [htake.link]; rfl) (by rw [he.link]; rfl)⟩
  all_goals rw [dataBack_links, htake.link]
  · rfl
  · exact Vector.getElem_set_self ..
  · rfl
  · rfl

/-- R263: a good DATA flit that is not expected, or has a reserved field set. -/
theorem dataFlit_ignored (q : BitVec 12) (r : Bool) (vl : BitVec 2)
    (h : rx.hdrReservedZero = false ∨ q ≠ s.links[l].rxSeq) :
    ∃ t, exec (.linkFlit l (.data rx q r vl)) s = .next t ∧ t.links[l].rxSeq = s.links[l].rxSeq ∧
      t.links[l].creditsBack = s.links[l].creditsBack ∧ t.links[l].tagRun = 0 ∧ t.links[l].nak = s.links[l].nak ∧
      t = { s with links := t.links, evt := t.evt } := by
  have he := onLink_flitErrors l rx (awake_of_sealedFlit hs)
  have hrun : exec (.linkFlit l (.data rx q r vl)) s = .next (flitErrors l rx s).2 := by
    cases hz : rx.hdrReservedZero
    · exact exec_data_reserved hs hu ht hz q r vl
    · have hq := h.resolve_left (by simp [hz])
      rw [exec_data_good hs hu ht hz, dataFlit_outOfSequence r vl (by rw [he.link]; exact hq)]
      refine congrArg _ (if_neg ?_)
      cases (flitErrors l rx s).2.links[l].state <;> decide
  refine ⟨_, hrun, ?_⟩
  rw [he.link]
  exact ⟨rfl, rfl, by simp [flitCounted, hu, ht], rfl, he.frame⟩

/-- R255: LINK and QUIESCE flits with a reserved field set. -/
theorem linkFlit_reserved {b : LinkBody} (hz : rx.hdrReservedZero = false ∨ b.reservedZero = false) :
    ∃ t, exec (.linkFlit l (.link rx b)) s = .next t ∧ exec (.quiesceFlit l rx b) s = .next t ∧
      t.links[l].unacked = s.links[l].unacked ∧ t.links[l].credits = s.links[l].credits ∧
      t.links[l].state = s.links[l].state ∧ t = { s with links := t.links, evt := t.evt } := by
  have he := onLink_flitErrors l rx (awake_of_sealedFlit hs)
  obtain ⟨hlink, hquiesce⟩ := exec_link_reserved hs hu ht hz
  refine ⟨_, hlink, hquiesce, ?_⟩
  rw [he.link]
  exact ⟨rfl, rfl, rfl, he.frame⟩

end

/-! ### LINK and QUIESCE flits (R256, R260, R263, R282) -/

/-- A link whose LINK flit has been read: what it acknowledges is kept no longer, and its credits are added. -/
def linkAcked (b : LinkBody) (x : Link) : Link :=
  addCredits b.cred { dropAcked b.ack x with state := if x.state == .peerQuiesce then .up else x.state }

section
variable {l : Fin 8} {s : State}

theorem setLink_state {f : Link → Link} (hf : ∀ x, (f x).state = x.state) :
    (setLink l f s).links[l].state = s.links[l].state := by rw [(onLink_setLink l f s).link, hf]

theorem beginRekey_state (first : Bool) (pub : List Byte) :
    (beginRekey l first pub s).links[l].state = s.links[l].state := by
  unfold beginRekey askRng
  split
  · exact setLink_state fun _ => rfl
  · exact setLink_state fun _ => rfl

theorem offerKeys_state : (offerKeys l s).links[l].state = s.links[l].state := by
  unfold offerKeys
  dsimp only
  split
  · split
    · split
      · exact setLink_state fun _ => rfl
      · rfl
    · rfl
  · rfl

theorem chooseSwitch_state : (chooseSwitch l s).links[l].state = s.links[l].state := by
  refine .trans ?_ offerKeys_state
  unfold chooseSwitch
  dsimp only
  split
  · split
    · exact setLink_state fun _ => rfl
    · rfl
  · rfl

/-- What a LINK flit says of a rekey leaves the link's state. -/
theorem rekeyPart_state (b : LinkBody) : (rekeyPart l b s).links[l].state = s.links[l].state := by
  have hack : (if b.switchAck then setLink l (fun x => { x with
      rekey := x.rekey.map fun r => { r with txAck := r.txAck || r.txAt.isSome } }) s else s).links[l].state =
      s.links[l].state := by
    split
    · exact setLink_state fun _ => rfl
    · rfl
  unfold rekeyPart
  dsimp only
  generalize (if b.switchAck then setLink l _ s else s) = s1 at hack ⊢
  rw [← hack]
  split
  · rfl
  · split
    · split
      · exact beginRekey_state ..
      · exact chooseSwitch_state.trans (setLink_state fun _ => rfl)
    · rfl
  · split
    · exact chooseSwitch_state.trans (setLink_state fun _ => rfl)
    · rfl

/-- A LINK flit that finds a link past HELLO: acknowledgement, credits and rekey, and the resends of a NAK. -/
theorem linkBody_trained {b : LinkBody} (hst : s.links[l].state ≠ .hello) : linkBody l b s =
    if b.nak then resendFrom b.ack l (rekeyPart l b (setLink l (linkAcked b) s))
    else rekeyPart l b (setLink l (linkAcked b) s) := by
  have hpart : (rekeyPart l b (setLink l (linkAcked b) s)).links[l].state ≠ .hello := by
    rw [rekeyPart_state, (onLink_setLink ..).link]
    simp only [linkAcked, addCredits]
    split
    · decide
    · exact hst
  generalize hp : rekeyPart l b (setLink l (linkAcked b) s) = p at hpart ⊢
  have hrun : linkBody l b s =
      let p' := if p.links[l].state == .hello then linkUpNow l p else p;
      if b.nak then resendFrom b.ack l p' else p' := by rw [← hp]; rfl
  have hkept : (if p.links[l].state == .hello then linkUpNow l p else p) = p :=
    if_neg (by simpa [-Fin.getElem_fin] using hpart)
  rw [hrun]
  dsimp only
  rw [hkept]

theorem rekeyPart_none {b : LinkBody} (hr : b.rekey = .none) (ha : b.switchAck = false) (s : State) :
    rekeyPart l b s = s := by simp [rekeyPart, hr, ha]

/-! ### Resends (R263, R264) -/

theorem resendFrom_due {n : BitVec 12} {f : TxFlit} {fs : List TxFlit} (h : fromSeq n s.links[l].unacked = f :: fs) :
    resendFrom n l s = if retryMax s ≤ f.resends then retryExceeded l s
      else setLink l (fun x => { x with resend := (f :: fs).map (·.seq) }) s := by
  unfold resendFrom
  dsimp only
  rw [h]

theorem resendFrom_first {f : TxFlit} {fs : List TxFlit} (h : s.links[l].unacked = f :: fs) :
    resendFrom f.seq l s = if retryMax s ≤ f.resends then retryExceeded l s
      else setLink l (fun x => { x with resend := (f :: fs).map (·.seq) }) s :=
  resendFrom_due (by rw [h, fromSeq, if_pos rfl])

theorem exec_retxTimeout {f : TxFlit} {fs : List TxFlit} (h : inState l .up s = true)
    (hu : s.links[l].unacked = f :: fs) : exec (.retxTimeout l) s = .next (resendFrom f.seq l s) := by
  change execRetxTimeout l s = _
  unfold execRetxTimeout
  rw [hu]
  exact if_pos h

/-- R263: every unacknowledged flit is resent. -/
theorem retxTimeout_resends {f : TxFlit} {fs : List TxFlit} (h : inState l .up s = true)
    (hu : s.links[l].unacked = f :: fs) (hf : f.resends < retryMax s) : exec (.retxTimeout l) s =
      .next (setLink l (fun x => { x with resend := (f :: fs).map (·.seq) }) s) := by
  rw [exec_retxTimeout h hu, resendFrom_first hu, if_neg (Nat.not_le.mpr hf)]

theorem retxTimeout_idle (h : inState l .up s = false ∨ s.links[l].unacked = []) :
    exec (.retxTimeout l) s = .next s := by
  change execRetxTimeout l s = _
  unfold execRetxTimeout
  split
  · next hu => exact if_neg (ne_true_of_eq_false (h.resolve_right (by simp [-Fin.getElem_fin, hu])))
  · rfl

/-! ### Good LINK and QUIESCE flits -/

theorem onLink_linkAcked {rx : FlitRx} (hs : sealedFlit l rx s = true) (b : LinkBody) :
    OnLink l (fun x => linkAcked b (flitCounted rx x)) s (setLink l (linkAcked b) (flitErrors l rx s).2) :=
  (onLink_flitErrors l rx (awake_of_sealedFlit hs)).trans (onLink_setLink ..)

section
variable {rx : FlitRx} {b : LinkBody} (hs : sealedFlit l rx s = true) (hu : rx.uncorr = 0) (ht : rx.tagOk = true)
  (hz : rx.hdrReservedZero = true) (hb : b.reservedZero = true)
include hs hu ht hz hb

/-- A good LINK flit on a link in UP. -/
theorem exec_link_up (hst : s.links[l].state = .up) :
    exec (.linkFlit l (.link rx b)) s = .next (linkBody l b (flitErrors l rx s).2) := by
  have he := onLink_flitErrors l rx (awake_of_sealedFlit hs)
  have hup : (flitErrors l rx s).2.links[l].state = .up := by rw [he.link]; exact hst
  rw [exec_link_good hs hu ht hz hb, dataBack_of_notQuiet _ (by rw [hup]; decide)]

/-- R256, R260: acknowledgement and credits. -/
theorem linkFlit_acknowledges (hst : s.links[l].state = .up) (hn : b.nak = false) (hr : b.rekey = .none)
    (hk : b.switchAck = false) :
    ∃ t, exec (.linkFlit l (.link rx b)) s = .next t ∧
      t.links[l].unacked = s.links[l].unacked.filter (fun f => ahead b.ack f.seq) ∧
      t.links[l].credits[0] = s.links[l].credits[0] + (b.cred.getD 0 0 - s.links[l].credSeen[0]) ∧
      t.links[l].credSeen[0] = b.cred.getD 0 0 ∧ t.links[l].state = .up ∧
      t = { s with links := t.links, evt := t.evt } := by
  have he := onLink_flitErrors l rx (awake_of_sealedFlit hs)
  have hacked := onLink_linkAcked hs b
  rw [exec_link_up hs hu ht hz hb hst, linkBody_trained (by rw [he.link]; simp only [flitCounted, hst]; decide),
    rekeyPart_none hr hk, hn]
  refine ⟨_, rfl, ?_⟩
  rw [if_neg Bool.false_ne_true, hacked.link]
  refine ⟨rfl, rfl, rfl, ?_, hacked.frame⟩
  simp only [linkAcked, addCredits, flitCounted, hst]
  rfl

/-- R263: a NAK has the flits from the acknowledged one on resent. -/
theorem linkFlit_nak (hst : s.links[l].state = .up) (hn : b.nak = true) (hr : b.rekey = .none)
    (hk : b.switchAck = false) {f : TxFlit} {fs : List TxFlit}
    (hf : fromSeq b.ack (s.links[l].unacked.filter fun g => ahead b.ack g.seq) = f :: fs) (hm : f.resends < retryMax s) :
    ∃ t, exec (.linkFlit l (.link rx b)) s = .next t ∧ t.links[l].resend = (f :: fs).map (·.seq) ∧
      t.links[l].unacked = s.links[l].unacked.filter (fun g => ahead b.ack g.seq) ∧
      t = { s with links := t.links, evt := t.evt } := by
  have he := onLink_flitErrors l rx (awake_of_sealedFlit hs)
  have hacked := onLink_linkAcked hs b
  have hresend := hacked.trans (onLink_setLink l (fun x => { x with resend := (f :: fs).map (·.seq) }) _)
  rw [exec_link_up hs hu ht hz hb hst, linkBody_trained (by rw [he.link]; simp only [flitCounted, hst]; decide),
    rekeyPart_none hr hk, hn, if_pos rfl, resendFrom_due (by rw [hacked.link]; exact hf), if_neg]
  · refine ⟨_, rfl, ?_⟩
    rw [hresend.link]
    exact ⟨rfl, rfl, hresend.frame⟩
  · rw [retryMax, hacked.ws]
    exact Nat.not_le.mpr hm

/-- R278, R282: a QUIESCE flit on a link in UP. -/
theorem quiesceFlit_quiets (hst : s.links[l].state = .up) (hn : b.nak = false) :
    ∃ t, exec (.quiesceFlit l rx b) s = .next t ∧ t.links[l].state = .peerQuiesce ∧ t.ws.quiet = quietRanks t := by
  have he := onLink_flitErrors l rx (awake_of_sealedFlit hs)
  have hup : (flitErrors l rx s).2.links[l].state = .up := by rw [he.link]; exact hst
  have hbody : (linkBody l b (flitErrors l rx s).2).links[l].state = .up := by
    rw [linkBody_trained (by rw [hup]; decide), if_neg (by simp [hn]), rekeyPart_state, (onLink_setLink ..).link]
    simp only [linkAcked, addCredits, hup]
    rfl
  refine ⟨_, exec_quiesce_good hs hu ht hz hb (by simp [-Fin.getElem_fin, carries, hbody]), ?_, rfl⟩
  exact congrArg Link.state (upd_same ..)

/-- A QUIESCE flit on a link that carries nothing else. -/
theorem quiesceFlit_again (hst : s.links[l].state = .peerQuiesce) (hn : b.nak = false) (hr : b.rekey = .none)
    (hk : b.switchAck = false) :
    ∃ t, exec (.quiesceFlit l rx b) s = .next t ∧ t.links[l].state = .peerQuiesce ∧
      t.links[l].credSeen[0] = b.cred.getD 0 0 ∧ t = { s with links := t.links, ws := t.ws, evt := t.evt } := by
  have he := onLink_flitErrors l rx (awake_of_sealedFlit hs)
  have hacked := onLink_linkAcked hs b
  have hbody : linkBody l b (flitErrors l rx s).2 = setLink l (linkAcked b) (flitErrors l rx s).2 := by
    rw [linkBody_trained (by rw [he.link]; simp only [flitCounted, hst]; decide), if_neg (by simp [hn]),
      rekeyPart_none hr hk]
  have hquiet := hacked.trans (onLink_setLink l (fun x => { x with state := .peerQuiesce }) _)
  refine ⟨_, exec_quiesce_good hs hu ht hz hb ?_, ?_⟩
  · rw [hbody, hacked.link]
    simp only [carries, linkAcked, addCredits, flitCounted, hst]
    rfl
  · rw [hbody]
    generalize setLink l (fun x => { x with state := .peerQuiesce }) _ = u at hquiet ⊢
    refine ⟨?_, ?_, ?_⟩
    · change u.links[l].state = _
      rw [hquiet.link]
    · change u.links[l].credSeen[0] = _
      rw [hquiet.link]
      rfl
    · exact (rfl : noteQuiet u = { u with ws := (noteQuiet u).ws }).trans (by rw [hquiet.frame]; rfl)

end

/-! ### A flit slot (R261, R269) -/

theorem slotting_of_keyed (h : inState l .up s = true) (hk : s.links[l].keyed = true) : slotting s.links[l] = true := by
  simp [-Fin.getElem_fin, slotting, hk, (inState_iff.mp h).2]

/-- Without a rekey no key is switched in a slot. -/
theorem noSwitch_of_rekey_none (hr : s.links[l].rekey = none) : laterSwitch l (switchRx l (switchTx l s)) = s := by
  have htx : switchTx l s = s := by
    unfold switchTx
    rw [hr]
  have hrx : switchRx l s = s := by
    unfold switchRx
    rw [hr]
  rw [htx, hrx]
  unfold laterSwitch
  dsimp only
  rw [hr]

section
variable (h : inState l .up s = true) (hk : s.links[l].keyed = true) (hr : s.links[l].rekey = none)
include h hk hr

/-- R256: the slot of a LINK flit. -/
theorem flitSlot_link (hu : slotUse s.pwr.coreDown s.links[l] = .link) :
    ∃ t, flitSlot l s = t ∧ t.links[l].dataRun = 0 ∧ t.links[l].nak = false ∧ t.links[l].txF = s.links[l].txF + 1 ∧
      t.links[l].rxF = s.links[l].rxF + 1 ∧ t.links[l].unacked = s.links[l].unacked ∧ t = { s with links := t.links } := by
  have ht := (onLink_setLink l (linkFlitOut s.serial s.pwr.coreDown) s).trans
    (onLink_setLink l (fun k => { k with txF := k.txF + 1, rxF := k.rxF + 1 }) _)
  unfold flitSlot
  rw [if_neg (by simp [-Fin.getElem_fin, slotting_of_keyed h hk]), noSwitch_of_rekey_none hr]
  dsimp only
  rw [hu]
  refine ⟨_, rfl, ?_⟩
  rw [ht.link]
  exact ⟨rfl, rfl, rfl, rfl, rfl, rfl⟩

/-- R260, R261: VL0 goes before a LINK flit that is due, under a credit. -/
theorem linkFlitDue_vl0 (hd : 512 ≤ s.links[l].dataRun) (hc : s.pwr.coreDown = false) (hn : s.links[l].nak = false)
    (hx : resendNext s.links[l] = none) (hv : canSend s.links[l] 0 = true) :
    ∃ t, exec (.linkFlitDue l) s = .next t ∧ t.links[l].credits[0] = s.links[l].credits[0] - 1 ∧
      t.links[l].txSeq = s.links[l].txSeq + 1 ∧ t.links[l].txF = s.links[l].txF + 1 ∧
      t.links[l].dataRun = s.links[l].dataRun + 1 ∧ (∀ k : Fin 8, k ≠ l → t.links[k] = s.links[k]) ∧
      t = { s with links := t.links, evt := t.evt } := by
  obtain ⟨hl, hst⟩ := inState_iff.mp h
  have ht := ((onLink_setLink l (dataFlitOut 0) s).trans
    (onLink_bumpLink l 0 1 (by exact awake_of_linkLive hl))).trans
    (onLink_setLink l (fun k => { k with txF := k.txF + 1, rxF := k.rxF + 1 }) _)
  have huse : slotUse s.pwr.coreDown s.links[l] = .vl0 := by
    simp only [slotUse, hst, hc, hn, hx, hv]
    rfl
  have hslot : flitSlot l s = setLink l (fun k => { k with txF := k.txF + 1, rxF := k.rxF + 1 })
      (bumpLink l 0 1 (setLink l (dataFlitOut 0) s)) := by
    unfold flitSlot
    rw [if_neg (by simp [-Fin.getElem_fin, slotting_of_keyed h hk]), noSwitch_of_rekey_none hr]
    dsimp only
    rw [huse]
  refine ⟨_, (if_pos (by simp [-Fin.getElem_fin, h, hd])).trans (congrArg _ hslot), ?_⟩
  rw [ht.link]
  exact ⟨Vector.getElem_set_self .., rfl, rfl, rfl, fun k hk => ht.other hk, ht.frame⟩

end

/-! ### Limits (R263, R265, R271) -/

theorem linkLost_outside {st : LkState} (h : s.links[l].peerMember = false ∨ isMember s = false) :
    linkLost st l s = setLink l (bareLink st) s :=
  if_pos (by rcases h with h | h <;> simp [-Fin.getElem_fin, h])

/-- The session of a link to a module that is no member ends. -/
theorem onLink_linkDownNow (ha : awake s = true) (h : s.links[l].peerMember = false ∨ isMember s = false) :
    OnLink l (bareLink .signalDetect) s (linkDownNow l s) := by
  have he := onLink_linkEvent 0x0402 l ha
  unfold linkDownNow
  rw [linkLost_outside (by rw [he.link, isMember, he.ws]; exact h)]
  exact he.trans (onLink_setLink ..)

theorem exec_los (hl : linkLive l s = true) (hc : carries s.links[l] = true) :
    exec (.los l) s = .next (linkDownNow l (linkFault 0 l s)) := if_pos (by simp [-Fin.getElem_fin, hl, hc])

/-- R265: the loss of the signal, where no step of the workshop depends on the link. -/
theorem los_restarts (hl : linkLive l s = true) (hc : carries s.links[l] = true) (hd : s.links[l].disable = false)
    (hp : s.links[l].stopped = false) (h : s.links[l].peerMember = false ∨ isMember s = false) :
    ∃ t, exec (.los l) s = .next t ∧ t.links[l].state = .signalDetect ∧ bitAt t.links[l].fault 0 = true ∧
      t.links[l].keyed = false ∧ t.links[l].keys = none ∧ (∀ k : Fin 8, k ≠ l → t.links[k] = s.links[k]) ∧
      t = { s with links := t.links, evt := t.evt } := by
  have hf := onLink_linkFault 0 l s
  have ht := hf.trans (onLink_linkDownNow (hf.awake (awake_of_linkLive hl)) (by rw [hf.link, isMember, hf.ws]; exact h))
  refine ⟨_, exec_los hl hc, ?_⟩
  rw [ht.link]
  exact ⟨bareLink_state _ hd hp, bitAt_orBit _ (by decide), rfl, rfl, fun k hk => ht.other hk, ht.frame⟩

theorem reached_eq (n : Nat) (x : Link) : reached n x = true ↔ n ≤ x.txF.toNat ∨ n ≤ x.rxF.toNat := by simp [reached]

theorem exec_linkExhausted (hl : linkLive l s = true) (hc : carries s.links[l] = true)
    (hr : 2 ^ 34 ≤ s.links[l].txF.toNat ∨ 2 ^ 34 ≤ s.links[l].rxF.toNat) : exec (.linkExhausted l) s =
      .next (linkLost .stopped l (linkEvent 0x0408 l (linkFault 6 l (setLink l (fun x => { x with stopped := true }) s)))) :=
  if_pos (by rw [hl, hc, (reached_eq ..).mpr hr]; rfl)

/-- R271: exhausted keys stop a link until RESTART. -/
theorem linkExhausted_stops (hl : linkLive l s = true) (hc : carries s.links[l] = true)
    (hd : s.links[l].disable = false) (hp : s.links[l].peerMember = false)
    (hr : 2 ^ 34 ≤ s.links[l].txF.toNat ∨ 2 ^ 34 ≤ s.links[l].rxF.toNat) :
    ∃ t, exec (.linkExhausted l) s = .next t ∧ t.links[l].state = .stopped ∧ t.links[l].stopped = true ∧
      bitAt t.links[l].fault 6 = true ∧ t.links[l].keys = none ∧ t = { s with links := t.links, evt := t.evt } := by
  have hf := (onLink_setLink l (fun x => { x with stopped := true }) s).trans (onLink_linkFault 6 l _)
  have he := hf.trans (onLink_linkEvent 0x0408 l (hf.awake (awake_of_linkLive hl)))
  have ht := he.trans (onLink_setLink l (bareLink .stopped) _)
  rw [exec_linkExhausted hl hc hr, linkLost_outside (.inl (by rw [he.link]; exact hp))]
  refine ⟨_, rfl, ?_⟩
  rw [ht.link]
  refine ⟨?_, rfl, bitAt_orBit _ (by decide), rfl, ht.frame⟩
  simp [-Fin.getElem_fin, bareLink, hd]

/-- R271: a rekey that comes too late is reported. -/
theorem rekeyLate_reports (hl : linkLive l s = true) (hc : carries s.links[l] = true)
    (hr : 2 ^ 33 ≤ s.links[l].txF.toNat ∨ 2 ^ 33 ≤ s.links[l].rxF.toNat) :
    ∃ t, exec (.rekeyLate l) s = .next t ∧ bitAt t.links[l].fault 5 = true ∧ t.links[l].state = s.links[l].state ∧
      t.links[l].keys = s.links[l].keys ∧ t = { s with links := t.links, evt := t.evt } := by
  have hf := onLink_linkFault 5 l s
  have ht := hf.trans (onLink_linkEvent 0x0407 l (hf.awake (awake_of_linkLive hl)))
  refine ⟨_, if_pos (by rw [hl, hc, (reached_eq ..).mpr hr]; rfl), ?_⟩
  rw [ht.link]
  exact ⟨bitAt_orBit _ (by decide), rfl, rfl, ht.frame⟩

theorem reached_below {n : Nat} {x : Link} (ht : x.txF.toNat < n) (hr : x.rxF.toNat < n) : reached n x = false := by
  simp [reached, ht, hr]

theorem frameCounters_low (ht : s.links[l].txF.toNat < 2 ^ 34) (hr : s.links[l].rxF.toNat < 2 ^ 34) :
    exec (.linkExhausted l) s = .next s := if_neg (by rw [reached_below ht hr]; simp)

/-- A link that does not carry traffic has no limit to pass. -/
theorem limits_ofIdleLink (h : linkLive l s = false ∨ carries s.links[l] = false) :
    exec (.los l) s = .next s ∧ exec (.linkExhausted l) s = .next s ∧ exec (.rekeyLate l) s = .next s := by
  have hn : (linkLive l s && carries s.links[l]) = false := by rcases h with h | h <;> simp [-Fin.getElem_fin, h]
  have hm (b : Bool) : ¬(linkLive l s && carries s.links[l] && b) = true := by rw [hn]; exact Bool.false_ne_true
  exact ⟨if_neg (by rw [hn]; exact Bool.false_ne_true), if_neg (hm _), if_neg (hm _)⟩

/-- R265: sixteen tag failures in a row while HELLO is under way. -/
theorem tagFailLimit_hello (h : inState l .hello s = true) (hk : s.links[l].keyed = true) (hn : 16 ≤ s.links[l].tagRun)
    (hd : s.links[l].disable = false) (hp : s.links[l].stopped = false) :
    ∃ t, exec (.tagFailLimit l) s = .next t ∧ t.links[l].state = .signalDetect ∧ t.links[l].keyed = false ∧
      bitAt t.links[l].fault 2 = true ∧ t = { s with links := t.links, evt := t.evt } := by
  obtain ⟨hl, hst⟩ := inState_iff.mp h
  have ha := awake_of_linkLive hl
  have hrun : exec (.tagFailLimit l) s = .next (helloFail l s) :=
    (if_pos (by simp [-Fin.getElem_fin, hl, slotting, hk, hst, hn])).trans
      (if_neg (by simp [-Fin.getElem_fin, carries, hst]))
  obtain ⟨hstate, hkey, hbit⟩ := helloFail_restarts l ha hd hp
  exact ⟨_, hrun, hstate, hkey, hbit, (onLink_helloFail l ha).frame⟩

end

/-- Settles O59: each event is one change of its link, or nothing. -/
theorem flitAndLimitEventsComplete : Obligations.FlitAndLimitEventsComplete := by
  refine ⟨fun l rx q r vl s hs hu ht h => dataFlit_ignored hs hu ht q r vl h,
    fun l rx b s hs hu ht hz => linkFlit_reserved hs hu ht hz,
    fun l rx b f fs s hs hu ht hz hb hst hn hr hk hf hm => linkFlit_nak hs hu ht hz hb hst hn hr hk hf hm,
    fun l rx b s hs hu ht hz hb hst hn hr hk => quiesceFlit_again hs hu ht hz hb hst hn hr hk,
    fun l s h hd hk hr hc hn hx hv => linkFlitDue_vl0 h hk hr hd hc hn hx hv, fun l s h => if_neg ?_,
    fun l s h => retxTimeout_idle h, fun l f fs s h hu hf => ⟨_, retxTimeout_resends h hu hf, ?_⟩,
    fun l s h hk hn hd hp => tagFailLimit_hello h hk hn hd hp, fun l s h => if_neg ?_,
    fun l s hl hc hd hp => ⟨fun hs => ?_, fun ht => linkExhausted_stops hl hc hd hp (.inl ht), fun ht => ?_,
      fun ht hr => ⟨if_neg ?_, frameCounters_low (by omega) (by omega)⟩⟩,
    fun l s h => limits_ofIdleLink h⟩
  · rcases h with h | h <;> simp [-Fin.getElem_fin, h]
  · have ht := onLink_setLink l (fun x => { x with resend := (f :: fs).map (·.seq) }) s
    rw [ht.link]
    exact ⟨rfl, rfl, fun k hk => ht.other hk, rfl⟩
  · simp [-Fin.getElem_fin, Nat.not_le.mpr h]
  · obtain ⟨t, hrun, hst, hbit, -, hkeys, -, hframe⟩ := los_restarts hl hc hd hs (.inl hp)
    exact ⟨t, hrun, hst, hbit, hkeys, hframe⟩
  · obtain ⟨t, hrun, hbit, -, hkeys, hframe⟩ := rekeyLate_reports hl hc (.inl ht)
    exact ⟨t, hrun, hbit, hkeys, hframe⟩
  · rw [reached_below ht hr]
    simp

end Sys2Proof.Machine
end

section
/-! Rekeying, margins and retrains of a link, and FAB_WS_CFG (R269 to R274, R292). -/

namespace Sys2Proof.Machine

/-! ### The start of a rekey (R270, R271) -/

section
variable {l : Fin 8} {s : State}

/-- A rekey to the generation `gen` as `beginRekey` enters it on the side that starts it. -/
def ownRekey (gen : Word) : RekeyRun where
  gen := gen
  first := true
  drawn := false
  answered := false
  txAt := none
  txAck := false
  rxAt := none
  txDone := false
  rxDone := false
  eph := none
  peerEph := []
  keys := none

/-- R270, R271: the side that starts a rekey asks for a fresh key. -/
theorem rekeyStart_begins (hl : linkLive l s = true) (hc : carries s.links[l] = true) (hr : s.links[l].rekey = none)
    (ht : 2 ^ 32 ≤ s.links[l].txF.toNat)
    (hx : s.links[l].rxF.toNat < 2 ^ 32 ∨ s.serial.toNat < s.links[l].peerSerial.toNat) (hn : s.rng.state ≠ .failed) :
    ∃ t r, exec (.rekeyStart l) s = .next t ∧ t.links[l].rekey = some r ∧ r.gen = s.links[l].gen + 1 ∧ r.first = true ∧
      t.links[l].gen = s.links[l].gen ∧ t.rng.waiting = s.rng.waiting ++ [⟨.rekey l.val, 1⟩] ∧
      t = { s with links := t.links, rng := { s.rng with waiting := t.rng.waiting } } := by
  have hs : startsRekey s s.links[l] = true := by
    rw [startsRekey, decide_eq_true ht, Bool.true_and, Bool.or_eq_true, isLo, decide_eq_true_iff, decide_eq_true_iff]
    exact hx
  have hrun : exec (.rekeyStart l) s = .next (beginRekey l true [] s) := if_pos (by rw [hl, hc, hr, hs]; rfl)
  obtain ⟨t, hask, hlinks, hwait, hframe⟩ :=
    askRng_setLink ⟨.rekey l.val, 1⟩ l (fun x => { x with rekey := some (ownRekey (x.gen + 1)) }) hn
  have hlink : t.links[l] = { s.links[l] with rekey := some (ownRekey (s.links[l].gen + 1)) } := by
    rw [hlinks, upd_same]
  refine ⟨t, ownRekey (s.links[l].gen + 1), hrun.trans (congrArg _ hask), ?_⟩
  rw [hlink]
  exact ⟨rfl, rfl, rfl, rfl, hwait, hframe⟩

/-- R271: no rekey starts before its time, on the side that leaves it to the other, or while one is under way. -/
theorem rekeyStart_waits (h : s.links[l].txF.toNat < 2 ^ 32 ∨
    (2 ^ 32 ≤ s.links[l].rxF.toNat ∧ s.links[l].peerSerial.toNat ≤ s.serial.toNat) ∨ s.links[l].rekey.isSome = true) :
    exec (.rekeyStart l) s = .next s := by
  refine if_neg fun hc => ?_
  simp only [Bool.and_eq_true, startsRekey, isLo, Bool.or_eq_true, decide_eq_true_eq] at hc
  obtain ⟨⟨-, hnone⟩, ht, hx⟩ := hc
  rcases h with h | ⟨hrx, hser⟩ | h
  · omega
  · omega
  · rw [Option.isNone_iff_eq_none.mp hnone] at h
    cases h

/-- The request for a fresh key is made again where none waits. -/
theorem rekeyRetryDue_asks {r : RekeyRun} (hr : s.links[l].rekey = some r) (hd : r.drawn = false)
    (ha : rekeyAsked l s = false) (hn : s.rng.state ≠ .failed) : exec (.rekeyRetryDue l) s =
      .next { s with rng := { s.rng with waiting := s.rng.waiting ++ [⟨.rekey l.val, 1⟩] } } := by
  change execRekeyRetryDue l s = _
  unfold execRekeyRetryDue
  rw [hr]
  exact (if_pos (by rw [hd, ha]; rfl)).trans (congrArg _ (askRng_of_ok _ hn))

/-! ### The switch to new keys (R270) -/

theorem rekeyEnd_both {r : RekeyRun} (hr : s.links[l].rekey = some r) (ht : r.txDone = true) (hx : r.rxDone = true) :
    rekeyEnd l s =
      bumpLink l 6 1 (setLink l (fun x => { x with gen := r.gen, rekey := none, switchAck := false }) s) := by
  unfold rekeyEnd
  rw [hr]
  exact if_pos (by rw [ht, hx]; rfl)

theorem rekeyEnd_one {r : RekeyRun} (hr : s.links[l].rekey = some r) (h : r.txDone = false ∨ r.rxDone = false) :
    rekeyEnd l s = s := by
  unfold rekeyEnd
  rw [hr]
  exact if_neg (by rcases h with h | h <;> simp [h])

/-- The end of a rekey takes the new generation. -/
theorem onLink_rekeyEnd {r : RekeyRun} (hr : s.links[l].rekey = some r) (ht : r.txDone = true) (hx : r.rxDone = true)
    (ha : awake s = true) : ∃ f, OnLink l f s (rekeyEnd l s) ∧
      ∀ x, (f x).gen = r.gen ∧ (f x).rekey = none ∧ (f x).txF = x.txF ∧ (f x).rxF = x.rxF := by
  rw [rekeyEnd_both hr ht hx]
  exact ⟨_, (onLink_setLink ..).trans (onLink_bumpLink l 6 1 (by exact ha)), fun _ => ⟨rfl, rfl, rfl, rfl⟩⟩

section
variable {r : RekeyRun} {n : DWord} (hr : s.links[l].rekey = some r) (hl : linkLive l s = true)
include hr

/-- The transmitter switches: its counter starts again under the new key. -/
theorem switchTx_due (hn : r.txAt = some n) (ht : n.toNat ≤ s.links[l].txF.toNat) (ha : r.txAck = true)
    (hd : r.txDone = false) : ∃ ks : Link → Option LinkKeys,
      switchTx l s = rekeyEnd l (setLink l (fun x => { x with
        txF := 0, rekey := some { r with txDone := true }, keys := ks x }) s) ∧
      ∀ x k k2, x.keys = some k → r.keys = some k2 → ks x = some { k with tx := k2.tx, txSalt := k2.txSalt } := by
  unfold switchTx
  rw [hr]
  refine ⟨_, if_pos ?_, fun x k k2 hk hk2 => by rw [hk, hk2]⟩
  simp [-Fin.getElem_fin, txDue, hn, ht, ha, hd]

/-- The receiver switches at the peer's switch point. -/
theorem switchRx_due (hn : r.rxAt = some n) (hx : n.toNat ≤ s.links[l].rxF.toNat) (hd : r.rxDone = false) :
    ∃ ks : Link → Option LinkKeys, switchRx l s = rekeyEnd l (setLink l (fun x => { x with
      rxF := 0, rekey := some { r with rxDone := true }, keys := ks x }) s) := by
  unfold switchRx
  rw [hr]
  refine ⟨_, if_pos ?_⟩
  simp [-Fin.getElem_fin, rxDue, hn, hx, hd]

include hl

/-- R270: the transmitter is the first direction to switch. -/
theorem keySwitch_txFirst {k k2 : LinkKeys} (hn : r.txAt = some n) (ht : n.toNat ≤ s.links[l].txF.toNat)
    (ha : r.txAck = true) (hd : r.txDone = false) (hx : r.rxDone = false) (hk : s.links[l].keys = some k)
    (hk2 : r.keys = some k2) : exec (.keySwitch l true) s = .next { s with
      links := s.links.set l { s.links[l] with
        txF := 0, rekey := some { r with txDone := true },
        keys := some { k with tx := k2.tx, txSalt := k2.txSalt } } } := by
  obtain ⟨ks, hswitch, hkeys⟩ := switchTx_due hr hn ht ha hd
  have hset := onLink_setLink l (fun x => { x with txF := 0, rekey := some { r with txDone := true }, keys := ks x }) s
  rw [rekeyEnd_one (r := { r with txDone := true }) (by rw [hset.link]) (.inr hx)] at hswitch
  refine (if_neg (by simp [hl])).trans (congrArg _ (hswitch.trans ?_))
  rw [setLink, upd, hkeys _ _ _ hk hk2]

/-- R270: the transmitter is the second. -/
theorem keySwitch_txLast (hn : r.txAt = some n) (ht : n.toNat ≤ s.links[l].txF.toNat) (ha : r.txAck = true)
    (hd : r.txDone = false) (hx : r.rxDone = true) :
    ∃ t, exec (.keySwitch l true) s = .next t ∧ t.links[l].txF = 0 ∧ t.links[l].gen = r.gen ∧ t.links[l].rekey = none ∧
      t = { s with links := t.links, evt := t.evt } := by
  obtain ⟨ks, hswitch, -⟩ := switchTx_due hr hn ht ha hd
  have hset := onLink_setLink l (fun x => { x with txF := 0, rekey := some { r with txDone := true }, keys := ks x }) s
  obtain ⟨f, hend, hf⟩ := onLink_rekeyEnd (r := { r with txDone := true }) (by rw [hset.link]) rfl hx
    (hset.awake (awake_of_linkLive hl))
  rw [← hswitch] at hend
  obtain ⟨hgen, hnone, htx, -⟩ := hf _
  refine ⟨_, if_neg (by simp [hl]), ?_⟩
  rw [if_pos rfl, (hset.trans hend).link]
  exact ⟨htx, hgen, hnone, (hset.trans hend).frame⟩

/-- R270: the receiver is the second. -/
theorem keySwitch_rxLast (hn : r.rxAt = some n) (hx : n.toNat ≤ s.links[l].rxF.toNat) (hd : r.rxDone = false)
    (ht : r.txDone = true) :
    ∃ t, exec (.keySwitch l false) s = .next t ∧ t.links[l].rxF = 0 ∧ t.links[l].gen = r.gen ∧ t.links[l].rekey = none ∧
      t = { s with links := t.links, evt := t.evt } := by
  obtain ⟨ks, hswitch⟩ := switchRx_due hr hn hx hd
  have hset := onLink_setLink l (fun x => { x with rxF := 0, rekey := some { r with rxDone := true }, keys := ks x }) s
  obtain ⟨f, hend, hf⟩ := onLink_rekeyEnd (r := { r with rxDone := true }) (by rw [hset.link]) ht rfl
    (hset.awake (awake_of_linkLive hl))
  rw [← hswitch] at hend
  obtain ⟨hgen, hnone, -, hrx⟩ := hf _
  refine ⟨_, if_neg (by simp [hl]), ?_⟩
  rw [if_neg Bool.false_ne_true, (hset.trans hend).link]
  exact ⟨hrx, hgen, hnone, (hset.trans hend).frame⟩

/-- R270: the receiver is the first. -/
theorem keySwitch_rxFirst (hn : r.rxAt = some n) (hx : n.toNat ≤ s.links[l].rxF.toNat) (hd : r.rxDone = false)
    (ht : r.txDone = false) :
    ∃ t r2, exec (.keySwitch l false) s = .next t ∧ t.links[l].rxF = 0 ∧ t.links[l].rekey = some r2 ∧ r2.rxDone = true ∧
      t.links[l].gen = s.links[l].gen ∧ t = { s with links := t.links } := by
  obtain ⟨ks, hswitch⟩ := switchRx_due hr hn hx hd
  have hset := onLink_setLink l (fun x => { x with rxF := 0, rekey := some { r with rxDone := true }, keys := ks x }) s
  rw [rekeyEnd_one (r := { r with rxDone := true }) (by rw [hset.link]) (.inl ht)] at hswitch
  refine ⟨_, { r with rxDone := true }, (if_neg (by simp [hl])).trans (congrArg _ hswitch), ?_⟩
  rw [hset.link]
  exact ⟨rfl, rfl, rfl, rfl, rfl⟩

/-- Before its switch point the transmitter goes on under the old key. -/
theorem keySwitch_early (hn : r.txAt = some n) (ht : s.links[l].txF.toNat < n.toNat) :
    exec (.keySwitch l true) s = .next s := by
  have hkeep : switchTx l s = s := by
    unfold switchTx
    rw [hr]
    exact if_neg (by simp [-Fin.getElem_fin, txDue, hn, ht])
  exact (if_neg (by simp [hl])).trans (congrArg _ hkeep)

end

theorem rekey_none (hr : s.links[l].rekey = none) (d : Bool) :
    exec (.keySwitch l d) s = .next s ∧ exec (.rekeyRetryDue l) s = .next s := by
  have hswitch : (if d then switchTx l s else switchRx l s) = s := by
    unfold switchTx switchRx
    rw [hr]
    exact ite_self s
  refine ⟨?_, ?_⟩
  · change execKeySwitch l d s = _
    rw [execKeySwitch, hswitch]
    exact ite_self _
  · change execRekeyRetryDue l s = _
    rw [execRekeyRetryDue, hr]

/-! ### Margins and FEC errors (R273, R274) -/

theorem unitWorkIfIdle_busy (h : noJobRuns s = false) : unitWorkIfIdle s = s := if_neg (ne_true_of_eq_false h)

theorem retrainReq_busy (hl : linkLive l s = true) (hc : carries s.links[l] = true) (h : noJobRuns s = false) :
    exec (.retrainReq l) s = .next { s with links := s.links.set l { s.links[l] with marked := true } } :=
  (if_pos (by rw [hl, hc]; rfl)).trans (congrArg _ (unitWorkIfIdle_busy (by exact h)))

theorem retrainReq_idle (hl : linkLive l s = true) (hc : carries s.links[l] = true) (h : noJobRuns s = true) :
    exec (.retrainReq l) s = .next (unitWork { s with links := s.links.set l { s.links[l] with marked := true } }) :=
  (if_pos (by rw [hl, hc]; rfl)).trans (congrArg _ (if_pos (by exact h)))

section
variable {v h : Byte} {n : BitVec 2} (hl : linkLive l s = true) (hc : carries s.links[l] = true)
include hl hc

/-- The margins of a link as its receiver reports them. -/
theorem exec_linkMarginLow (low : Bool) (hlow : (decide (v.toNat < 25) || decide (h.toNat < 64)) = low) :
    exec (.linkMarginLow l v h n) s = .next (
      let s1 := setLink l (fun x => { x with vMin := v, hMin := h, worst := n, marked := x.marked || low }) s;
      if low then unitWorkIfIdle (linkFault 7 l s1) else s1) := by
  subst hlow
  exact if_pos (by rw [hl, hc]; rfl)

theorem linkMargin_wide (hv : 25 ≤ v.toNat) (hh : 64 ≤ h.toNat) : exec (.linkMarginLow l v h n) s = .next { s with
    links := s.links.set l { s.links[l] with vMin := v, hMin := h, worst := n } } := by
  rw [exec_linkMarginLow hl hc false (by simp [hv, hh])]
  dsimp only
  rw [if_neg Bool.false_ne_true, setLink, upd, Bool.or_false]

/-- R273: where jobs run, a low margin marks the link for the next boundary. -/
theorem linkMargin_busy (hj : noJobRuns s = false) :
    ∃ t, exec (.linkMarginLow l v h n) s = .next t ∧ t.links[l].vMin = v ∧ t.links[l].hMin = h ∧ t.links[l].worst = n ∧
      (t.links[l].marked = true ↔ (s.links[l].marked = true ∨ v.toNat < 25 ∨ h.toNat < 64)) ∧
      ((v.toNat < 25 ∨ h.toNat < 64) → bitAt t.links[l].fault 7 = true) ∧ t.links[l].state = s.links[l].state ∧
      t = { s with links := t.links } := by
  by_cases hlow : v.toNat < 25 ∨ h.toNat < 64
  · have ht := (onLink_setLink l (fun x => { x with vMin := v, hMin := h, worst := n, marked := x.marked || true }) s).trans
      (onLink_linkFault 7 l _)
    rw [exec_linkMarginLow hl hc true (by simpa using hlow)]
    dsimp only
    rw [if_pos rfl, unitWorkIfIdle_busy (by exact hj)]
    refine ⟨_, rfl, ?_⟩
    rw [ht.link]
    exact ⟨rfl, rfl, rfl, iff_of_true (Bool.or_true _) (.inr hlow), fun _ => bitAt_orBit _ (by decide), rfl, rfl⟩
  · rw [not_or, Nat.not_lt, Nat.not_lt] at hlow
    have ht := onLink_setLink l (fun x => { x with vMin := v, hMin := h, worst := n }) s
    obtain ⟨t, hset⟩ : ∃ t, t = setLink l (fun x => { x with vMin := v, hMin := h, worst := n }) s := ⟨_, rfl⟩
    rw [← hset] at ht
    refine ⟨t, (linkMargin_wide hl hc hlow.1 hlow.2).trans (congrArg _ hset.symm), ?_⟩
    rw [ht.link]
    exact ⟨rfl, rfl, rfl, ⟨.inl, fun hx => hx.resolve_right (by omega)⟩, fun hx => by omega, rfl, by rw [hset]; rfl⟩

end

/-- The counters of FEC errors (R263). -/
theorem onLink_fecErrors (l : Fin 8) (u c : Nat) (ha : awake s = true) :
    OnLink l (fun x => { x with ctrs := upd (upd x.ctrs 2 (ctrAdd · c)) 3 (ctrAdd · u) }) s
      (bumpLink l 3 u (bumpLink l 2 c s)) :=
  (onLink_bumpLink l 2 c ha).trans (onLink_bumpLink l 3 u (by exact ha))

section
variable {u c : Nat} (hl : linkLive l s = true) (hc : carries s.links[l] = true)
include hl hc

/-- R274: too few FEC errors for a retrain are counted. -/
theorem fecErrorBurst_few (hu : u < 4) (hn : c < 16384) :
    ∃ t, exec (.fecErrorBurst l u c) s = .next t ∧ t.links[l].ctrs[2] = ctrAdd s.links[l].ctrs[2] c ∧
      t.links[l].ctrs[3] = ctrAdd s.links[l].ctrs[3] u ∧ t.links[l].state = s.links[l].state ∧
      t = { s with links := t.links, evt := t.evt } := by
  have ht := onLink_fecErrors l u c (awake_of_linkLive hl)
  refine ⟨_, (if_pos (by rw [hl, hc]; rfl)).trans (congrArg _ (if_neg (by simp [hu, hn]))), ?_⟩
  rw [ht.link]
  exact ⟨(upd_other _ 3 2 _ (by decide)).trans (upd_same ..),
    (upd_same ..).trans (congrArg (ctrAdd · u) (upd_other _ 2 3 _ (by decide))), rfl, ht.frame⟩

end

/-! ### Retrains (R274, R275) -/

theorem enqueue_linkState (k l : Fin 8) (x : Sent) (s : State) :
    (enqueue l x s).links[k].state = s.links[k].state := by
  by_cases h : k = l
  · subst h
    exact setLink_state fun _ => rfl
  · exact congrArg Link.state (upd_other _ _ _ _ h)

theorem moveOne_state (before after : State) (m : BitVec 2 × Nat × Sent) (s : State) :
    (moveOne l before after m s).links[l].state = s.links[l].state := by
  unfold moveOne
  dsimp only
  split
  · split <;> rfl
  · rw [foldl_keeps (·.links[l].state) fun _ _ => enqueue_linkState ..]
    exact setLink_state fun _ => rfl

theorem moveQueue_state (before after : State) : (moveQueue l before after).links[l].state = after.links[l].state :=
  foldl_keeps (·.links[l].state) (fun _ _ => moveOne_state ..) _ _

theorem retrainLink_state (scheduled : Bool) (l : Fin 8) (s : State) :
    (retrainLink scheduled l s).links[l].state = .retrain := by
  refine (congrArg (fun v : Vector Link 8 => v[l].state) ((post_links ..).trans (bumpLink_own ..))).trans ?_
  rw [upd_same]
  refine (moveQueue_state ..).trans ?_
  rw [(onLink_setLink ..).link]

/-- R274: many FEC errors retrain the link at once. -/
theorem fecErrorBurst_many {u c : Nat} (hl : linkLive l s = true) (hc : carries s.links[l] = true)
    (h : 4 ≤ u ∨ 16384 ≤ c) : ∃ t, exec (.fecErrorBurst l u c) s = .next t ∧ t.links[l].state = .retrain :=
  ⟨_, (if_pos (by rw [hl, hc]; rfl)).trans (congrArg _ (if_pos (by simpa using h))), retrainLink_state ..⟩

theorem notCarrying (h : linkLive l s = false ∨ carries s.links[l] = false) : ¬(linkLive l s && carries s.links[l]) = true := by
  rcases h with h | h <;> simp [-Fin.getElem_fin, h]

theorem nextUnit_none (n : Nat) (h : s.pwr.armed = 0) : nextUnit n s = s := by
  cases n with
  | zero => rfl
  | succ n =>
    unfold nextUnit
    rw [h]
    exact ite_self s

theorem retrainUnitDone_none (n : Nat) (failed : Bool) (h : s.pwr.retrain = none) : retrainUnitDone n failed s = s := by
  unfold retrainUnitDone
  dsimp only
  rw [h]

section
variable (h : inState l .retrain s = true) (hp : s.pwr.retrain = none) (hm : s.pwr.armed = 0)
include h hp hm

/-- R274: nothing is to be resent after the retrain. -/
theorem linkRetrainDone_up (hu : s.links[l].unacked = []) :
    ∃ t, exec (.linkRetrainDone l) s = .next t ∧ t.links[l].state = .up ∧ t.links[l].tempTrain = s.pwr.temp ∧
      (∀ k : Fin 8, k ≠ l → t.links[k] = s.links[k]) ∧ t = { s with links := t.links } := by
  have ht := onLink_setLink l (fun y => { y with state := .up, tempTrain := s.pwr.temp, urgent := false }) s
  refine ⟨_, if_pos h, ?_⟩
  rw [hu]
  dsimp only
  rw [retrainUnitDone_none _ _ (by exact hp), nextUnit_none _ (by exact hm), ht.link]
  exact ⟨rfl, rfl, fun k hk => ht.other hk, rfl⟩

/-- R274: after a retrain at once the unacknowledged flits are resent. -/
theorem linkRetrainDone_resends {f : TxFlit} {fs : List TxFlit} (hu : s.links[l].unacked = f :: fs)
    (hg : s.links[l].urgent = true) (hf : f.resends < retryMax s) :
    ∃ t, exec (.linkRetrainDone l) s = .next t ∧ t.links[l].state = .up ∧
      t.links[l].resend = f.seq :: fs.map (·.seq) ∧ t.links[l].urgent = false ∧ t = { s with links := t.links } := by
  have hup := onLink_setLink l (fun y => { y with state := .up, tempTrain := s.pwr.temp, urgent := false }) s
  have ht := hup.trans (onLink_setLink l (fun x => { x with resend := (f :: fs).map (·.seq) }) _)
  refine ⟨_, if_pos h, ?_⟩
  rw [hu]
  dsimp only
  rw [if_pos hg, resendFrom_first (by rw [hup.link]; exact hu), if_neg (Nat.not_le.mpr (by exact hf)),
    retrainUnitDone_none _ _ (by exact hp), nextUnit_none _ (by exact hm), ht.link]
  exact ⟨rfl, rfl, rfl, rfl⟩

/-- R265, R274: the link does not come back. -/
theorem linkRetrainTimeout_down (hn : isMember s = false) (hd : s.links[l].disable = false)
    (hs : s.links[l].stopped = false) :
    ∃ t, exec (.linkRetrainTimeout l) s = .next t ∧ t.links[l].state = .signalDetect ∧ t.links[l].keyed = false ∧
      t = { s with links := t.links, evt := t.evt } := by
  have ht := onLink_linkDownNow (l := l) (awake_of_linkLive (inState_iff.mp h).1) (.inr hn)
  refine ⟨_, if_pos h, ?_⟩
  rw [retrainUnitDone_none _ _ (by rw [ht.pwr]; exact hp), nextUnit_none _ (by rw [ht.pwr]; exact hm), ht.link]
  exact ⟨bareLink_state _ hd hs, rfl, ht.frame⟩

end

/-! ### FAB_WS_CFG (R292) -/

theorem fabWsCfgWrite_idle (v : Word) (hr : running s = true) (hj : anyJob s = false) : exec (.fabWsCfgWrite v) s =
    .next { s with ws := { s.ws with cfg := v &&& 0x0FFFFFFF } } :=
  (if_neg (by simp [hr])).trans (if_neg (by simp [hj]))

/-- A write against the lock sets FAULT bit 4. -/
theorem fabWsCfgWrite_locked (v : Word) (hr : running s = true) (hj : anyJob s = true) :
    ∃ t, exec (.fabWsCfgWrite v) s = .next t ∧ t.ws.cfg = s.ws.cfg ∧ bitAt t.ws.fault 4 = true ∧
      t = { s with ws := { s.ws with fault := t.ws.fault }, evt := t.evt } := by
  refine ⟨_, (if_neg (by simp [hr])).trans (if_pos hj), ?_⟩
  rw [post_ws]
  exact ⟨rfl, bitAt_orBit _ (by decide), post_rec (s := { s with ws := { s.ws with fault := orBit s.ws.fault 4 } }) _
    (by exact awake_of_running hr)⟩

end

theorem notSealed {l : Fin 8} {s : State} (h : linkLive l s = false ∨ slotting s.links[l] = false) (rx : FlitRx) :
    sealedFlit l rx s = false := by
  rcases h with h | h <;> simp [-Fin.getElem_fin, sealedFlit, h]

/-- Settles O43: what a flit does to its link alone is one change of that link (`OnLink`). -/
theorem linksCarryFlitsAndRetrain : Obligations.LinksCarryFlitsAndRetrain := by
  refine ⟨fun l f s h => ?_, fun l rx q r vl b s h => flit_dropped (by simp [sealedFlit, h]) q r vl b,
    fun l rx q r vl b s hs hb => flit_bad hs hb q r vl b,
    fun l rx b s hs hst hu ht hd hp => linkFlit_helloFails hs b hst hu ht hd hp,
    fun l rx r vl s hs hu ht hz hst hd => dataFlit_taken hs hu ht hz vl hst hd,
    fun l rx b s hs hu _ ht hz hb hst hn hr hk => linkFlit_acknowledges hs hu ht hz hb hst hn hr hk,
    fun l rx b s hs hu ht hz hb hst hn => quiesceFlit_quiets hs hu ht hz hb hst hn,
    fun l s h hd => ⟨if_pos (by simp [-Fin.getElem_fin, h, hd]), fun hk hr hu => flitSlot_link h hk hr hu⟩,
    fun l f fs s h hu => ⟨fun hm => ?_, retxTimeout_resends h hu⟩,
    fun f x => ⟨rfl, rfl, rfl⟩,
    fun l s hl hc hr => (if_pos (by simp [-Fin.getElem_fin, hl, hc, hr])).trans (apply_ite Host.Outcome.next ..).symm,
    fun l s hl hc => ⟨exec_los hl hc, fun ht hr => frameCounters_low ht hr, exec_linkExhausted hl hc⟩,
    fun l s hl hc hd hp hn => ?_, fun l s hl hc hr ht hx hn => ?_,
    fun l r n k k2 s hr hl hn ht ha hd hx hk hk2 => keySwitch_txFirst hr hl hn ht ha hd hx hk hk2,
    fun l r n s hr hl hn ht => keySwitch_early hr hl hn ht,
    fun l r n s hr hl hn hx hd ht => keySwitch_rxLast hr hl hn hx hd ht,
    fun l r s hr hd ha hn => rekeyRetryDue_asks hr hd ha hn, fun l s hl hc hr => ?_,
    fun l u c s hl hc => ⟨fun hu hn => ?_, fecErrorBurst_many hl hc⟩,
    fun l v h n s hl hc hv hh => linkMargin_wide hl hc hv hh, fun l v h n s hl hc hlow hj => ?_,
    fun l s hl hc hj => retrainReq_busy hl hc hj, fun l s h hu hp hm => linkRetrainDone_up h hp hm hu,
    fun l s h => if_pos h, fun v s hr => ⟨fabWsCfgWrite_idle v hr, fabWsCfgWrite_locked v hr⟩⟩
  · cases f with
    | data rx q r vl => exact if_pos (by rw [notSealed h rx]; rfl)
    | link rx b => exact if_pos (by rw [notSealed h rx]; rfl)
  · rw [exec_retxTimeout h hu, resendFrom_first hu, if_pos hm]
  · obtain ⟨t, hrun, hst, hfault, hkeyed, -, hother, hframe⟩ := los_restarts hl hc hd hp (.inr hn)
    exact ⟨t, hrun, hst, hfault, hkeyed, hother, hframe⟩
  · obtain ⟨t, r, hrun, hrekey, hgen, hfirst, -, hwait, hframe⟩ := rekeyStart_begins hl hc hr ht hx hn
    exact ⟨t, r, hrun, hrekey, hgen, hfirst, hwait, hframe⟩
  · obtain ⟨t, hrun, hfault, hst, -, hframe⟩ := rekeyLate_reports hl hc hr
    exact ⟨t, hrun, hfault, hst, hframe⟩
  · obtain ⟨t, hrun, -, -, hst, hframe⟩ := fecErrorBurst_few hl hc hu hn
    exact ⟨t, hrun, hst, hframe⟩
  · obtain ⟨t, hrun, -, -, -, hmark, hfault, hst, hframe⟩ := linkMargin_busy hl hc hj
    exact ⟨t, hrun, hmark.mpr (.inr hlow), hfault hlow, hst, hframe⟩

/-- Settles O60, with the lemmas that O43 has of rekeys and retrains. -/
theorem rekeyAndRetrainEventsComplete : Obligations.RekeyAndRetrainEventsComplete := by
  refine ⟨fun l s hl hc hr ht hx hn => ?_, fun l s => rekeyStart_waits,
    fun l r n s hr hl hn ht ha hd hx => keySwitch_txLast hr hl hn ht ha hd hx,
    fun l r n s hr hl hn hx hd ht => keySwitch_rxFirst hr hl hn hx hd ht, fun l d s hr => rekey_none hr d,
    fun l r s hr hd ha hn => ⟨_, rekeyRetryDue_asks hr hd ha hn, rfl, rfl⟩,
    fun l u c s hl hc hu hn => ?_,
    fun l u c v h n s hx => ⟨if_neg (notCarrying hx), if_neg (notCarrying hx), if_neg (notCarrying hx)⟩,
    fun l v h n s hl hc hj => ?_, fun l s hl hc hj => retrainReq_idle hl hc hj,
    fun l f fs s h hu hg hf hp hm => linkRetrainDone_resends h hp hm hu hg hf,
    fun l s h hn hd hs hp hm => linkRetrainTimeout_down h hp hm hn hd hs,
    fun l s h => ⟨if_neg (ne_true_of_eq_false h), if_neg (ne_true_of_eq_false h)⟩⟩
  · obtain ⟨t, r, hrun, hrekey, -, -, hgen, hwait, -⟩ := rekeyStart_begins hl hc hr ht (.inl hx) hn
    exact ⟨t, hrun, by rw [hrekey]; rfl, hgen, hwait⟩
  · obtain ⟨t, hrun, hcorr, huncorr, -, hframe⟩ := fecErrorBurst_few hl hc hu hn
    exact ⟨t, hrun, hcorr, huncorr, hframe⟩
  · obtain ⟨t, hrun, hv, hh, hworst, hmark, -, -, hframe⟩ := linkMargin_busy hl hc hj
    exact ⟨t, hrun, hv, hh, hworst, hmark, hframe⟩

end Sys2Proof.Machine
end

section
/-! The checks of received messages, their flits, and forwarding (R257, R259, R275). -/

namespace Sys2Proof.Machine

open Sys2Proof.Claims

/-! ### The flits of a message -/

theorem acceptFlits_eq (l : Fin 8) (h : MsgHdr) (s : State) : acceptFlits l h s =
    dataBack l s (bumpLink l 1 (flitCount h) (setLink l (flitsTaken (flitCount h) h.vl) s)) := rfl

@[simp] theorem dataBack_out (l : Fin 8) (was s : State) : (dataBack l was s).out = s.out := by
  unfold dataBack
  split <;> rfl

theorem acceptFlits_out (l : Fin 8) (h : MsgHdr) (s : State) : (acceptFlits l h s).out = s.out := by
  rw [acceptFlits_eq, dataBack_out]
  rfl

/-- R257: the flits of a message count in the sequence, the counter and the credits of the link. -/
theorem acceptFlits_takes (l : Fin 8) (h : MsgHdr) {s : State} (ha : awake s = true) :
    (acceptFlits l h s).links[l].rxSeq = s.links[l].rxSeq + BitVec.ofNat 12 (flitCount h) ∧
      (acceptFlits l h s).links[l].state = .up ∧
      (acceptFlits l h s).links[l].creditsBack[h.vl.toNat] =
        s.links[l].creditsBack[h.vl.toNat] + BitVec.ofNat 16 (flitCount h) ∧
      (∀ k : Fin 8, k ≠ l → (acceptFlits l h s).links[k] = s.links[k]) ∧
      acceptFlits l h s = { flitsBack l (acceptFlits l h s).links s with
        links := (acceptFlits l h s).links, evt := (acceptFlits l h s).evt } := by
  have ht := onLink_flitsTaken l (flitCount h) h.vl ha
  rw [acceptFlits_eq]
  refine ⟨?_, ?_, ?_, fun k hk => ?_, dataBack_frame ht (by rw [ht.link]; rfl) rfl⟩
  all_goals rw [dataBack_links]
  · rw [ht.link]
    rfl
  · rw [ht.link]
    rfl
  · rw [ht.link]
    exact Vector.getElem_set_self ..
  · exact ht.other hk

/-! ### The checks (R257, R259) -/

theorem msgFits_iff (h : MsgHdr) :
    msgFits h = true ↔ (h.length.toNat ≤ 65536 ∧ (h.vl = 0 → 16 + h.length.toNat ≤ 4 * 240)) := by
  have hcount : flitCount h ≤ 4 ↔ 16 + h.length.toNat ≤ 4 * 240 := by
    unfold flitCount
    omega
  rw [msgFits, Bool.and_eq_true, Bool.or_eq_true, decide_eq_true_iff, decide_eq_true_iff, bne_iff_ne, hcount,
    ← Decidable.imp_iff_not_or]

theorem msgOk_iff (h : MsgHdr) (s : State) : msgOk s h = true ↔ (kindKnown h.kind = true ∧ vlOf h.kind = h.vl ∧
    (anyEpoch h.kind = true ∨ h.epoch = s.ws.epoch) ∧ h.hops.toNat < 16) := by
  simp [msgOk, and_assoc]

theorem anyEpoch_iff (k : Byte) : anyEpoch k = true ↔ ((0x07 ≤ k.toNat ∧ k.toNat ≤ 0x0F) ∨ k = 0x13) := by
  simp [anyEpoch]

/-! ### What is received (R259, R275) -/

/-- A link that carries no message, or a module that takes none. -/
theorem recv_none {l : Fin 8} {h : MsgHdr} {s : State} (hx : carries s.links[l] = false ∨ s.pwr.coreDown = true ∨
    running s = false) (p : Payload) (k : State → State) : recv l h p k s = .next s := by
  refine if_pos ?_
  rcases hx with hx | hx | hx <;> simp [-Fin.getElem_fin, hx]

section
variable {l : Fin 8} {h : MsgHdr} {s : State} (p : Payload) (k : State → State) (hc : carries s.links[l] = true)
  (hd : s.pwr.coreDown = false) (hr : running s = true)
include hc hd hr

theorem recv_taken : recv l h p k s =
    if !msgFits h then .next (acceptFlits l h s)
    else if !msgOk s h then .next (bumpWs 1 1 (acceptFlits l h s))
    else if !forMe s h then .next (forwardOne h p (acceptFlits l h s))
    else .next (k (delivered l h p s)) := by
  rw [← msgOk_acceptFlits l h s, ← forMe_acceptFlits l h s]
  exact if_neg (by simp [-Fin.getElem_fin, hc, hd, hr])

theorem recv_tooLong (hf : msgFits h = false) : recv l h p k s = .next (acceptFlits l h s) := by
  rw [recv_taken p k hc hd hr, hf]
  rfl

theorem recv_dropped (hf : msgFits h = true) (hok : msgOk s h = false) :
    recv l h p k s = .next (bumpWs 1 1 (acceptFlits l h s)) := by
  rw [recv_taken p k hc hd hr, hf, hok]
  rfl

theorem recv_forwards (hf : msgFits h = true) (hok : msgOk s h = true) (hm : forMe s h = false) :
    recv l h p k s = .next (forwardOne h p (acceptFlits l h s)) := by
  rw [recv_taken p k hc hd hr, hf, hok, hm]
  rfl

end

theorem sendTo_out (dst : Nat) (x : Sent) (s : State) : (sendTo dst x s).out = s.out := by
  unfold sendTo
  split <;> rfl

/-- R275: a message for another member goes on along its route, one hop further. -/
theorem forwardOne_goesOn (l : Fin 8) {h : MsgHdr} (p : Payload) (s : State) (hh : h.hops.toNat < 15) :
    forwardOne h p (acceptFlits l h s) =
        sendTo h.dst.toNat (passedOn h p) (noteSent (passedOn h p) (acceptFlits l h s)) ∧
      (forwardOne h p (acceptFlits l h s)).out = s.out ++ [⟨h.dst, h.src, h.kind, h.arg, h.epoch, h.hops + 1, p⟩] := by
  refine ⟨if_neg (Nat.not_le.mpr hh), ?_⟩
  rw [forwardOne, if_neg (Nat.not_le.mpr hh), sendTo_out]
  exact congrArg (· ++ [passedOn h p]) (acceptFlits_out l h s)

/-- Settles O38: the branches of `recv` one by one, for a message without an effect of its own. -/
theorem messagesAreCheckedAndForwarded : Obligations.MessagesAreCheckedAndForwarded := by
  refine ⟨fun l h p s hx => recv_none hx p id,
    fun l h p s hc hd hr hf => recv_tooLong p id hc hd hr hf,
    fun l h p s hc hd hr hf hok => recv_dropped p id hc hd hr hf hok,
    fun l h p s hc hd hr hf hok hm hh => ?_, fun l h p s hc hd hr hf hok hm hh => ?_,
    fun l h p s a => recv_of_arrives a p id, fun l h s ha => acceptFlits_takes l h ha, msgFits_iff, msgOk_iff,
    anyEpoch_iff, fun l x s => ⟨_, rfl, ?_, fun k hk => (onLink_setLink ..).other hk, rfl⟩⟩
  · exact ⟨_, recv_forwards p id hc hd hr hf hok hm, forwardOne_goesOn l p s hh⟩
  · exact (recv_forwards p id hc hd hr hf hok hm).trans (congrArg _ (if_pos (Nat.le_of_eq hh.symm)))
  · rw [enqueue, (onLink_setLink ..).link]

end Sys2Proof.Machine
end

section
/-! HEARTBEAT, BEAT, TIME, the limits of the members, and the jobs of a module without a majority (R258, R274, R276, R278 to
R280, R437). -/

namespace Sys2Proof.Machine

open Sys2Proof.Claims

/-! ### What the work on one job slot keeps -/

/-- What stands beside job slot j: the workshop, and the jobs of the other slots. An abort or an end of the job in slot j
leaves it as it is (`beside_abortStep`, `beside_stopJob`). -/
def beside (j : Fin 4) (s : State) : Ws × Vector (Option Job) 4 := (s.ws, s.jobs.set j none)

section
variable (j : Fin 4)

theorem beside_of {s t : State} (hw : t.ws = s.ws) (hj : t.jobs = s.jobs) : beside j t = beside j s := by
  rw [beside, hw, hj, beside]

theorem ws_of_beside {j : Fin 4} {s t : State} (h : beside j t = beside j s) : t.ws = s.ws := (Prod.mk.inj h).1

theorem jobs_of_beside {i j : Fin 4} {s t : State} (h : beside i t = beside i s) (hij : i ≠ j) : t.jobs[j] = s.jobs[j] := by
  have hj := congrArg (fun v : Vector (Option Job) 4 => v[j]) (Prod.mk.inj h).2
  have hne : i.val ≠ j.val := fun e => hij (Fin.ext e)
  simpa [Vector.getElem_set_ne, hne] using hj

@[simp] theorem beside_setJob (f : Job → Job) (s : State) : beside j (setJob j f s) = beside j s := by
  simp [beside, setJob, upd]

@[simp] theorem beside_post (e : Posted) (s : State) : beside j (post e s) = beside j s :=
  beside_of j (post_ws ..) (post_jobs ..)

@[simp] theorem beside_bumpTrn (i : Fin 6) (n : Nat) (s : State) : beside j (bumpTrn j i n s) = beside j s := by
  unfold bumpTrn
  split
  · exact (beside_of j (postIf_ws ..) (postIf_jobs ..)).trans (beside_setJob ..)
  · rfl

@[simp] theorem beside_endOpt (p : Option Pend) (st : Byte) (s : State) : beside j (endOpt p st s) = beside j s :=
  beside_of j (endOpt_ws ..) (endOpt_jobs ..)

@[simp] theorem beside_answerAll (st : Byte) (a b : Word) (ps : List Pend) (s : State) :
    beside j (answerAll st a b ps s) = beside j s := by
  induction ps generalizing s with
  | nil => rfl
  | cons p ps ih => exact (ih _).trans (beside_of j (answer_ws ..) (answer_jobs ..))

@[simp] theorem beside_endReplays (st : Byte) (rs : List ReplayReq) (s : State) :
    beside j (endReplays st rs s) = beside j s := by
  induction rs generalizing s with
  | nil => rfl
  | cons r rs ih => exact (ih _).trans (beside_endOpt ..)

/-! Handles and engines. -/

@[simp] theorem beside_setHandle (h : Nat) (f : Handle → Handle) (s : State) : beside j (setHandle h f s) = beside j s := by
  unfold setHandle
  split <;> rfl

@[simp] theorem beside_freeHandle (h : Nat) (s : State) : beside j (freeHandle h s) = beside j s := by
  unfold freeHandle
  split
  · rfl
  · split
    · exact beside_setHandle ..
    · rfl

@[simp] theorem beside_freeHandles (hs : List Nat) (s : State) : beside j (freeHandles hs s) = beside j s := by
  induction hs generalizing s with
  | nil => rfl
  | cons h hs ih => exact (ih _).trans (beside_freeHandle ..)

@[simp] theorem beside_unpin (gone : PinBy → Bool) (s : State) : beside j (unpin gone s) = beside j s := by
  unfold unpin
  dsimp only
  rw [foldl_keeps (beside j) fun _ _ => beside_freeHandle .., foldl_keeps (beside j) fun s q => ?_]
  · rfl
  · exact beside_setHandle j q.1 _ s

@[simp] theorem beside_assignIdle (es : List (Fin 8)) (qs : List (Fin 4 × List Desc8)) (s : State) :
    beside j (assignIdle es qs s) = beside j s := by
  induction es generalizing qs s with
  | nil => rfl
  | cons e es ih =>
    cases qs with
    | nil => rfl
    | cons q qs => exact ih ..

@[simp] theorem beside_dropEngines (i : Fin 4) (s : State) : beside j (dropEngines i s) = beside j s := beside_assignIdle ..

/-! The units. -/

@[simp] theorem beside_freeArrivals (s : State) : beside j (freeArrivals j s) = beside j s := by
  unfold freeArrivals
  split
  · rfl
  · rw [beside_setJob, foldl_keeps (beside j) fun _ _ => beside_freeHandle ..]

@[simp] theorem beside_waitEnds (b : Fin 4) (s : State) : beside j (waitEnds b s) = beside j s := by
  unfold waitEnds
  split <;> rfl

@[simp] theorem beside_planeWaitEnds (p : Fin 16) (s : State) : beside j (planeWaitEnds p s) = beside j s := by
  unfold planeWaitEnds
  split <;> rfl

@[simp] theorem beside_endWaits (s : State) : beside j (endWaits j s) = beside j s := by
  unfold endWaits
  dsimp only
  rw [foldl_keeps (beside j) fun s p => ?_, foldl_keeps (beside j) fun s b => ?_]
  · split
    · split
      · exact beside_waitEnds ..
      · rfl
    · rfl
  · split
    · exact beside_planeWaitEnds ..
    · rfl

@[simp] theorem beside_haltUnits (s : State) : beside j (haltUnits j s) = beside j s := by
  have hunits (t : State) (b : Vector Bench 4) (p : Vector Plane 16) (l : Vector Lathe 4) (c : Col) :
      beside j { t with bnc := b, pln := p, lth := l, col := c } = beside j t := rfl
  unfold haltUnits
  dsimp only
  rw [hunits, beside_unpin, beside_dropEngines, beside_setJob, beside_freeArrivals, beside_endWaits]

@[simp] theorem beside_clearSlots (s : State) : beside j (clearSlots j s) = beside j s := by
  unfold clearSlots
  split <;> rfl

/-- R156: the abort of a step is an affair of its job. -/
theorem beside_abortStep (s : State) : beside j (abortStep j s) = beside j s := by
  have hbytes (m : Memory) (t : State) : beside j { t with stk := { t.stk with bytes := m } } = beside j t := rfl
  unfold abortStep
  split
  · rfl
  · dsimp only
    split
    · rw [beside_post, beside_bumpTrn, beside_clearSlots, beside_setJob, hbytes, beside_haltUnits]
    · rw [beside_clearSlots, beside_setJob, hbytes, beside_haltUnits]

@[simp] theorem beside_stopSnap (st : Byte) (x : Job) (s : State) : beside j (stopSnap j st x s) = beside j s := by
  unfold stopSnap
  split
  · rfl
  · split
    · rfl
    · exact beside_endOpt ..

theorem leaveJob_outside (x : Job) {s : State} (h : isMember s = false) : leaveJob j x s = s := if_neg (by simp [h])

/-- R282: outside a workshop the end of a job is an affair of that job alone. -/
theorem beside_stopJob (st done : Byte) (a b : Word) {s : State} (h : isMember s = false) :
    beside j (stopJob j st done a b s) = beside j s := by
  have hempty (t : State) : beside j { t with jobs := t.jobs.set j none } = beside j t := by simp [beside]
  have hkeep (x : Job) (t : State) : beside j (keepStats x t) = beside j t := rfl
  unfold stopJob
  split
  · rfl
  · next x hx =>
    have hleave {t : State} (ht : beside j t = beside j s) : beside j (leaveJob j x t) = beside j s := by
      rw [leaveJob_outside j x (by rw [isMember, ws_of_beside ht]; exact h), ht]
    have hreplays : beside j (endReplays st (x.replays ++ x.replaying.toList) (endOpt x.startPend st (keepStats x
        (stopSnap j st x (answerAll done a b (x.stop.getD []) (haltUnits j s)))))) = beside j s := by
      rw [beside_endReplays, beside_endOpt, hkeep, beside_stopSnap, beside_answerAll, beside_haltUnits]
    dsimp only
    rw [hempty]
    refine hleave ?_
    rw [beside_freeHandles]
    split
    · rw [beside_endOpt, hreplays]
    · exact hreplays

end

/-! ### HOLDING (R280) -/

/-- What HOLDING does to the job of one slot. -/
def holdSlot (j : Fin 4) (s : State) : State :=
  match s.jobs[j] with
  | some x =>
    if !x.fabric || x.parked then s
    else
      let s1 := if stepOpen x then abortStep j s else s
      if x.stop.isSome then stopJob j stAborted stDone 0 0 s1 else setJob j (fun y => { y with phase := .holding }) s1
  | none => s

theorem holdFabric_eq (s : State) : holdFabric s = eachSlot holdSlot s := rfl

/-- The job of a slot holds, if it is a fabric job that is not parked. -/
def FabricHolds (j : Fin 4) (s : State) : Prop :=
  ∀ x, s.jobs[j] = some x → x.fabric = true → x.parked = false → x.phase = .holding

section
variable (j : Fin 4) (s : State)

theorem beside_holdSlot (h : isMember s = false) : beside j (holdSlot j s) = beside j s := by
  unfold holdSlot
  split
  · next x hx =>
    split
    · rfl
    · have h1 : beside j (if stepOpen x then abortStep j s else s) = beside j s := by
        split
        · exact beside_abortStep ..
        · rfl
      dsimp only
      split
      · rw [beside_stopJob j _ _ _ _ (by rw [isMember, ws_of_beside h1]; exact h), h1]
      · rw [beside_setJob, h1]
  · rfl

theorem fabricHolds_setJob : FabricHolds j (setJob j (fun y => { y with phase := .holding }) s) := by
  intro x hx _ _
  rw [show (setJob j _ s).jobs[j] = _ from upd_same ..] at hx
  obtain ⟨y, -, rfl⟩ := Option.map_eq_some_iff.mp hx
  rfl

theorem holdSlot_holds : FabricHolds j (holdSlot j s) := by
  unfold holdSlot
  split
  · next x hx =>
    split
    · next hout =>
      intro y hy hfab hpark
      rw [hx] at hy
      cases hy
      simp [hfab, hpark] at hout
    · dsimp only
      split
      · intro y hy
        rw [stopJob_slot] at hy
        cases hy
      · exact fabricHolds_setJob j _
  · next hx =>
    intro x hx'
    rw [hx] at hx'
    cases hx'

end

theorem FabricHolds.of_beside {i j : Fin 4} {s t : State} (h : FabricHolds j s) (hb : beside i t = beside i s) (hij : i ≠ j) :
    FabricHolds j t := by
  intro x hx
  exact h x ((jobs_of_beside hb hij).symm.trans hx)

/-- Outside a workshop, HOLDING keeps what is known of the workshop, and every fabric job holds afterwards. -/
theorem holdFabric_holds {s : State} (h : isMember s = false) :
    (holdFabric s).ws = s.ws ∧ ∀ j, FabricHolds j (holdFabric s) := by
  have hstep (i : Fin 4) {t : State} (ht : t.ws = s.ws) : beside i (holdSlot i t) = beside i t :=
    beside_holdSlot i t (by rw [isMember, ht]; exact h)
  have hws (i : Fin 4) {t : State} (ht : t.ws = s.ws) : (holdSlot i t).ws = s.ws := (ws_of_beside (hstep i ht)).trans ht
  have h0 := hws 0 rfl
  have h1 := hws 1 h0
  have h2 := hws 2 h1
  rw [holdFabric_eq]
  refine ⟨hws 3 h2, fun j => ?_⟩
  match j with
  | 0 =>
    have h01 := (holdSlot_holds 0 s).of_beside (hstep 1 h0) (by decide)
    exact (h01.of_beside (hstep 2 h1) (by decide)).of_beside (hstep 3 h2) (by decide)
  | 1 => exact ((holdSlot_holds 1 _).of_beside (hstep 2 h1) (by decide)).of_beside (hstep 3 h2) (by decide)
  | 2 => exact (holdSlot_holds 2 _).of_beside (hstep 3 h2) (by decide)
  | 3 => exact holdSlot_holds 3 _

/-- R280: a module whose side has no majority holds, and so do its fabric jobs. -/
theorem partition_holds (s : State) : (partition s).ws.state = .holding ∧ bitAt (partition s).ws.fault 0 = true ∧
    ∀ j, FabricHolds j (partition s) := by
  obtain ⟨hws, hjobs⟩ := holdFabric_holds (s := { s with ws := { s.ws with
    state := .holding, fault := orBit s.ws.fault 0, change := none, view := none, asked := [] } }) rfl
  unfold partition
  refine ⟨?_, ?_, fun j x hx => hjobs j x (by rwa [post_jobs] at hx)⟩
  · rw [post_ws, hws]
  · rw [post_ws, hws]
    exact bitAt_orBit _ (by decide)

theorem departed_noMajority {rs : List Nat} {s : State} (hm : isMember s = true) (hr : rs ≠ [])
    (hh : hasMajority s ((s.ws.departed ++ rs).eraseDups) = false) :
    departed rs s = partition { s with ws := { s.ws with departed := (s.ws.departed ++ rs).eraseDups } } := by
  unfold departed
  rw [if_neg (by simp [hr, hm])]
  exact if_pos (congrArg (!·) hh)

/-! ### The members' limits (R274, R278, R279) -/

theorem overdue_iff {r : Nat} {v : DWord} {s : State} (h : s.ws.heard.find? (·.1 == r) = some (r, v)) :
    overdue s r = true ↔ v.toNat + departLimit s r ≤ s.aon.time.toNat := by
  unfold overdue
  rw [h]
  exact decide_eq_true_iff

theorem departLimit_quiet {r : Nat} {s : State} (h : s.ws.quiet.contains r = true) :
    departLimit s r = max 1 (s.ws.cfgForce.extractLsb' 16 8).toNat * 100000000 := by
  rw [departLimit, if_pos h, BitVec.extractLsb'_toNat]
  rfl

theorem departLimit_heard {r : Nat} {s : State} (h : s.ws.quiet.contains r = false) (hr : s.ws.retraining = []) :
    departLimit s r = max 5 (s.ws.cfgForce.extractLsb' 0 8).toNat * 1000000 := by
  rw [departLimit, if_neg (ne_true_of_eq_false h), hr, BitVec.extractLsb'_toNat]
  rfl

section
variable {r : Nat} {s : State}

theorem heartbeatMissed_departs (hf : fwRuns s = true) (hc : isCoord s = true) (hl : isLiveRank s r = true)
    (ho : overdue s r = true) : exec (.heartbeatMissed r) s = .next (departedNow r s) :=
  if_pos (by rw [hf, hc, hl, ho]; rfl)

theorem quiesceLimit_departs (hf : fwRuns s = true) (hl : isLiveRank s r = true) (ho : overdue s r = true)
    (hq : s.ws.quiet.contains r = true) : exec (.quiesceLimitExpiry r) s = .next (departedNow r s) :=
  if_pos (by rw [hf, hl, hq, ho]; rfl)

theorem quiesceLimit_notQuiet (hq : s.ws.quiet.contains r = false) : exec (.quiesceLimitExpiry r) s = .next s :=
  if_neg (by rw [hq]; simp)

theorem beatMissed_departs (hf : fwRuns s = true) (hc : isCoord s = false) (hl : isLiveRank s s.ws.coord = true)
    (ho : overdue s s.ws.coord = true) : exec .beatMissed s = .next (departedNow s.ws.coord s) :=
  if_pos (by rw [hf, hc, hl, ho]; rfl)

/-- A member that is gone already, or whose limit has not ended. -/
theorem limits_idle (h : isLiveRank s r = false ∨ overdue s r = false) :
    exec (.heartbeatMissed r) s = .next s ∧ exec (.quiesceLimitExpiry r) s = .next s := by
  refine ⟨if_neg ?_, if_neg ?_⟩
  all_goals rcases h with h | h <;> simp [h]

/-! ### ACCEPT_TIMEOUT (R279) -/

theorem acceptTimeout_gone (h : isLiveRank s r = false) (hr : r < s.ws.members.length) :
    exec (.acceptTimeout r) s = .next s := by
  change execAcceptTimeout r s = _
  unfold execAcceptTimeout
  split
  · split
    · rfl
    · rw [if_neg (Nat.not_le.mpr hr)]
      split
      · exact if_neg (by simp [h])
      · rfl
  · rfl

section
variable {c : Change_} (hc : s.ws.change = some c) (hf : fwRuns s = true) (hm : isCoord s = true)
include hc hf hm

theorem acceptTimeout_member {m : Member} (hr : r < s.ws.members.length) (hl : isLiveRank s r = true)
    (hfind : s.ws.members.find? (·.rank == r) = some m) (ha : c.accepts.contains m.serial = false) :
    exec (.acceptTimeout r) s = .next (departedNow r s) := by
  change execAcceptTimeout r s = _
  unfold execAcceptTimeout
  rw [hc]
  dsimp only
  rw [if_neg (by simp [hf, hm]), if_neg (Nat.not_le.mpr hr), hfind]
  exact if_pos (by rw [hl, ha]; rfl)

theorem acceptTimeout_arrival {a : Arrival} (hr : s.ws.members.length ≤ r)
    (hfind : (sortArrivals c.prop.arrivals)[r - s.ws.members.length]? = some a)
    (ha : c.accepts.contains a.serial = false) :
    exec (.acceptTimeout r) s = .next (dropArrival a.serial s) := by
  change execAcceptTimeout r s = _
  unfold execAcceptTimeout
  rw [hc]
  dsimp only
  rw [if_neg (by simp [hf, hm]), if_pos hr, hfind]
  exact if_neg (ne_true_of_eq_false ha)

end

/-! ### HEARTBEAT, BEAT and TIME (R276, R278, R437) -/

theorem heartbeatDue_sends (hf : fwRuns s = true) (hm : isMember s = true) (hc : isCoord s = false) :
    exec .heartbeatDue s = .next (send (coordDst s) 0x01 0 .empty s) :=
  (if_pos hf).trans (congrArg _ (sendCoord_of_member _ _ _ hm hc))

/-- The coordinator sends no HEARTBEAT, and BEAT to every member. -/
theorem beats_ofCoord (hf : fwRuns s = true) (hc : isCoord s = true) :
    exec .heartbeatDue s = .next s ∧ exec .beatDue s = .next (send 0xFFFE 0x02 0 .empty s) :=
  ⟨(if_pos hf).trans (congrArg _ (if_neg (by simp [hc]))), if_pos (by rw [hf, hc]; rfl)⟩

theorem timeExchangeDue_asks {l : Fin 8} (hf : fwRuns s = true) (hm : isMember s = true) (hc : isCoord s = false)
    (hr : routeTo s s.ws.coord = some l) :
    exec .timeExchangeDue s = .next (sendOn l 0xFFFF 0x11 0 (.time s.aon.time 0 0 0) s) := by
  change execTimeExchangeDue s = _
  unfold execTimeExchangeDue
  rw [hr]
  exact if_pos (by rw [hf, hm, hc]; rfl)

end

/-- Settles O40: the limits and beats one by one; that a module without a majority holds is `partition_holds`. -/
theorem timersAndBeatsKeepTheMembersLive : Obligations.TimersAndBeatsKeepTheMembersLive := by
  refine ⟨fun l h s a => ⟨recv_of_arrives a _ _, recv_of_arrives a _ _, recv_of_arrives a _ _⟩,
    fun s hf hm hc => heartbeatDue_sends hf hm hc, fun s hf hc => beats_ofCoord hf hc,
    fun s hc => if_neg (by simp [hc]),
    fun r s hf hl ho => ⟨fun hc => heartbeatMissed_departs hf hc hl ho, fun hq => quiesceLimit_departs hf hl ho hq,
      quiesceLimit_notQuiet⟩,
    fun r s h => limits_idle h, fun r s h hr => acceptTimeout_gone h hr,
    fun s hf hc hl ho => beatMissed_departs hf hc hl ho, fun r t v s h ht => ht ▸ overdue_iff h,
    fun r s h => departLimit_quiet h, fun r s h hr => departLimit_heard h hr,
    fun r c m s hc hf hm hr hl hfind ha => acceptTimeout_member hc hf hm hr hl hfind ha,
    fun r c a s hc hf hm hr hfind ha => acceptTimeout_arrival hc hf hm hr hfind ha, fun rs s hm hr hh => ?_,
    fun l h t1 t2 t3 t4 s a => recv_of_arrives a _ _, fun l t1 s => if_pos ⟨rfl, rfl, rfl⟩,
    fun l s hf hm hc hr => timeExchangeDue_asks hf hm hc hr⟩
  rw [departed_noMajority hm hr hh]
  exact partition_holds _

end Sys2Proof.Machine
end

section
/-! Collective messages of the step under way (R297, R299, R302, R305 to R307), COL_TIMEOUT and COL_CFG (R313, R316, R317). -/

namespace Sys2Proof.Machine

open Sys2Proof.Claims

/-! ### What the faults of the collective unit record (R317) -/

theorem bumpCol_col (i : Fin 8) (n : Nat) (s : State) :
    (bumpCol i n s).col = { s.col with ctrs := upd s.col.ctrs i (ctrAdd · n) } := rfl

@[simp] theorem colEvent_stk (code : BitVec 16) (j : Fin 4) (s : State) : (colEvent code j s).stk = s.stk := post_stk _ s
@[simp] theorem colEvent_col (code : BitVec 16) (j : Fin 4) (s : State) : (colEvent code j s).col = s.col := post_col _ s

@[simp] theorem postOnce_stk (j : Fin 4) (n : Nat) (code : BitVec 16) (s : State) : (postOnce j n code s).stk = s.stk := by
  unfold postOnce
  split
  · exact colEvent_stk code j s
  · split
    · rfl
    · rw [colEvent_stk, setJob_stk]

@[simp] theorem postOnce_col (j : Fin 4) (n : Nat) (code : BitVec 16) (s : State) : (postOnce j n code s).col = s.col := by
  unfold postOnce
  split
  · exact colEvent_col code j s
  · split
    · rfl
    · rw [colEvent_col, setJob_col]

/-- R297, R317: a dropped message leaves its fault bit, its info and its count, and of the unit nothing else. -/
theorem colDrop_col (h : MsgHdr) (ch : ColHdr) (s : State) : (colDrop h ch s).col = { s.col with
    fault := orBit s.col.fault 2
    info := colInfo ch.tensor 2 (slotFin ch.job.toNat).val h.src.toNat
    ctrs := upd s.col.ctrs 6 (ctrAdd · 1) } := by
  rw [colDrop, postOnce_col, bumpCol_col]
  rfl

theorem colDrop_stk (h : MsgHdr) (ch : ColHdr) (s : State) : (colDrop h ch s).stk = s.stk := by
  rw [colDrop, postOnce_stk, bumpCol_stk]
  rfl

/-! ### Messages that are turned away (R297) -/

/-- Why the check of a collective message for job x fails: a reserved field that is set, a job that is parked, or another
step. -/
def Turned (ch : ColHdr) (x : Job) : Prop :=
  hdrOk ch = false ∨ x.parked = true ∨ ch.step ≠ BitVec.ofNat 32 x.step

theorem colCheck_turned {h : MsgHdr} {ch : ColHdr} {k : Fin 4 → Job → State → State} {s : State}
    (ht : ∀ x, s.jobs[slotFin ch.job.toNat] = some x → Turned ch x) :
    colCheck h ch (fun _ => false) k s = colDrop h ch s := by
  cases hj : s.jobs[slotFin ch.job.toNat] with
  | none => simp only [colCheck, hj]
  | some x =>
    have hc : (hdrOk ch && !x.parked && (false || ch.step == BitVec.ofNat 32 x.step)) = false := by
      rcases ht x hj with hh | hp | hs
      · rw [hh, Bool.false_and, Bool.false_and]
      · rw [hp, Bool.not_true, Bool.and_false, Bool.false_and]
      · rw [beq_false_of_ne hs, Bool.or_self, Bool.and_false]
    simp only [colCheck, hj, hc, Bool.false_eq_true, if_false]

theorem colRecv_turned {l : Fin 8} {h : MsgHdr} {ch : ColHdr} {s : State} (a : Arrives l h s)
    (ht : ∀ x, s.jobs[slotFin ch.job.toNat] = some x → Turned ch x) (p : Payload) (k : Fin 4 → Job → State → State) :
    colRecv l h ch p k s = .next (colDrop h ch (delivered l h p s)) := by
  rw [colRecv, recv_of_arrives a, colCheck_turned (by rwa [delivered_jobs])]

/-- A message for the step under way of a job that runs here has its effect k. -/
theorem colRecv_forJob {l : Fin 8} {h : MsgHdr} {ch : ColHdr} {x : Job} {s : State} (a : ForJob l h ch x s)
    (hs : ch.step = BitVec.ofNat 32 x.step) (p : Payload) (k : Fin 4 → Job → State → State) :
    colRecv l h ch p k s =
      .next (k (slotFin ch.job.toNat) x (colMark (slotFin ch.job.toNat) ch.tensor (delivered l h p s))) :=
  recv_colCheck_forJob a (.inr hs) p

/-! ### The commands -/

section
variable {l : Fin 8} {h : MsgHdr} {ch : ColHdr} {s : State} (xs : List Word)

/-- R235: a chunk whose G is here is received. -/
theorem exec_glue_here (e : DrawerEcc) (hg : glueAway s ch = false) : exec (.glue l h ch xs e) s =
    colRecv l h ch (.words ch xs) (glueMsg h ch xs fun w j x => afterEcc e (takeGlue w ch.offset.toNat xs j x)) s :=
  if_neg (ne_true_of_eq_false hg)

theorem exec_glueOut_here (hg : glueAway s ch = false) : exec (.glueOut l h ch xs) s =
    colRecv l h ch (.words ch xs) (glueMsg h ch xs fun w j _ => takeGlueOut w ch.offset.toNat xs j) s :=
  if_neg (ne_true_of_eq_false hg)

theorem exec_glueDirect_here (hg : glueAway s ch = false) : exec (.glueDirect l h ch xs) s =
    colRecv l h ch (.words ch xs) (glueMsg h ch xs fun w j x => takeDirect w ch.offset.toNat xs j x) s :=
  if_neg (ne_true_of_eq_false hg)

end

section
variable {l : Fin 8} {h : MsgHdr} {ch : ColHdr} {xs : List NormWire} {x : Job} {s : State} (a : ForJob l h ch x s)
  (hs : ch.step = BitVec.ofNat 32 x.step)
include a hs

theorem exec_norm_read {ts : List NormStat} (hr : xs.mapM normRead = some ts) : exec (.norm l h ch xs) s =
    .next (normTry (slotFin ch.job.toNat) ch.tensor (normHold (slotFin ch.job.toNat) ch.tensor h.src.toNat h.arg.toNat ts
      (colMark (slotFin ch.job.toNat) ch.tensor (delivered l h (.norm ch xs) s)))) := by
  change execNorm l h ch xs s = _
  rw [execNorm, colRecv_forJob a hs]
  simp only [hr]

theorem exec_norm_unread (hr : xs.mapM normRead = none) : exec (.norm l h ch xs) s =
    .next (colDrop h ch (colMark (slotFin ch.job.toNat) ch.tensor (delivered l h (.norm ch xs) s))) := by
  change execNorm l h ch xs s = _
  rw [execNorm, colRecv_forJob a hs]
  simp only [hr]

end

/-! ### Reserved encodings (R50, R306, R307) -/

theorem w80Read_reserved {v : BitVec 128} (h : 2 ^ 80 ≤ v.toNat) : w80Read v = none := if_pos h

theorem normRead_reserved {w : NormWire} (h : 2 ^ 80 ≤ w.mean.toNat ∨ 2 ^ 80 ≤ w.m2.toNat) : normRead w = none := by
  unfold normRead
  rcases h with h | h
  · rw [w80Read_reserved h]
  · rw [w80Read_reserved h]
    cases w80Read w.mean <;> rfl

/-! ### A change of a tensor's record -/

/-- A change that keeps the record's id shows in the record of that tensor. -/
theorem tensAt_setTens (j : Fin 4) (id : BitVec 16) {f : TRun → TRun} (hf : ∀ r, (f r).id = r.id) (s : State) :
    tensAt (setTens j id f s) j id = (tensAt s j id).map f := by
  have hp : ((·.id == id) ∘ fun t : TRun => if t.id == id then f t else t) = fun t : TRun => t.id == id := by
    funext t
    simp only [Function.comp_apply, apply_ite TRun.id, hf, ite_self]
  cases hj : s.jobs[j] with
  | none => simp only [tensAt, setTens, setJob_jobs, upd_same, hj, Option.map_none, Option.bind_none]
  | some x =>
    simp only [tensAt, setTens, setJob_jobs, upd_same, hj, Option.map_some, Option.bind_some, tensIn, List.find?_map, hp]
    cases hr : x.tens.find? (·.id == id) with
    | none => rfl
    | some r => simp only [Option.map_some, if_pos (List.find?_some hr)]

theorem setTens_shows {j : Fin 4} {id : BitVec 16} {f : TRun → TRun} {s : State} {r : TRun} (hr : tensAt s j id = some r)
    (hf : ∀ r, (f r).id = r.id) : tensAt (setTens j id f s) j id = some (f r) := by
  rw [tensAt_setTens j id hf, hr, Option.map_some]

/-! ### Chunks (R299, R302) -/

theorem glueMsg_weight {h : MsgHdr} {ch : ColHdr} {xs : List Word} {k : Tensor → Fin 4 → Job → State → State} {j : Fin 4}
    {x : Job} {s : State} {w : Tensor} (hw : colWeight s x ch.tensor = some w) :
    glueMsg h ch xs k j x s = if chunkOk w ch xs then k w j x s else colDrop h ch s := by
  simp only [glueMsg, hw]

theorem takeGlue_waits {w : Tensor} {x : Job} (h : x.glueIn.contains w.id = false) (n : Nat) (xs : List Word) (j : Fin 4)
    (s : State) : takeGlue w n xs j x s = holdChunk j w n xs s :=
  if_neg (by rw [h, Bool.false_and]; exact Bool.false_ne_true)

/-- R295: the chunk's place, handle and length stand behind those that wait already. -/
theorem tensAt_holdChunk {w : Tensor} {k : Nat} {xs : List Word} {j : Fin 4} {r : TRun} {s t : State}
    (hb : holdBytes j (ofWords xs) s = some (k, t)) (hr : tensAt t j w.id = some r) (n : Nat) :
    tensAt (holdChunk j w n xs s) j w.id = some { r with waiting := r.waiting ++ [(n, k, xs.length)] } := by
  simp only [holdChunk, hb]
  exact setTens_shows hr fun _ => rfl

/-! ### Tallies (R306) -/

theorem tensAt_takeTally_g (h : MsgHdr) {ch : ColHdr} {v : BitVec 128} {a : Val} (hv : w80Read v = some a) {j : Fin 4}
    (x : Job) {r : TRun} {s : State} (hr : tensAt s j ch.tensor = some r) :
    tensAt (takeTally h ch (.g v) j x s) j ch.tensor = some { r with tallyG := putRank h.src.toNat a r.tallyG } := by
  simp only [takeTally, hv]
  exact setTens_shows hr fun _ => rfl

theorem takeTally_reserved (h : MsgHdr) (ch : ColHdr) {v : BitVec 128} (hv : 2 ^ 80 ≤ v.toNat) (j : Fin 4) (x : Job)
    (s : State) : takeTally h ch (.g v) j x s = colDrop h ch s := by
  simp only [takeTally, w80Read_reserved hv]

/-! ### COL_TIMEOUT (R313) -/

section
variable {j : Fin 4} {id : BitVec 16} (n : Nat) {x : Job} {s : State} (hj : s.jobs[j] = some x)
include hj

theorem colTimeout_faults (hr : running s = true) (hf : onFabric s x = true) (ho : colOpen s j x id = true)
    (hg : groupCarries s x id = true) (hq : colSilent s j id = true) : exec (.colTimeout j id n) s =
      .next (coveredFault j (colEvent 0x0501 j (bumpCol 7 1 (colFault 0 id j.val n s)))) := by
  change execColTimeout j id n s = _
  simp only [execColTimeout, hj, hr, hf, ho, hg, hq, Bool.and_self, if_true]

theorem colTimeout_idle (h : groupCarries s x id = false ∨ colSilent s j id = false) :
    exec (.colTimeout j id n) s = .next s := by
  have hc : (running s && onFabric s x && colOpen s j x id && groupCarries s x id && colSilent s j id) = false := by
    rcases h with h | h
    · rw [h, Bool.and_false, Bool.false_and]
    · rw [h, Bool.and_false]
  change execColTimeout j id n s = _
  simp only [execColTimeout, hj, hc, Bool.false_eq_true, if_false]

end

/-! ### COL_CFG (R316) -/

section
variable (v : Word) {s : State} (hr : running s = true)
include hr

theorem colCfgWrite_stored (h : anyJob s = false) :
    exec (.colCfgWrite v) s = .next { s with col := { s.col with cfg := v &&& 0xFFF } } := by
  change execColCfgWrite v s = _
  simp only [execColCfgWrite, hr, h, Bool.not_true, Bool.false_eq_true, if_false]

/-- A write while a job runs leaves its fault and its event alone. -/
theorem colCfgWrite_locked (h : anyJob s = true) : exec (.colCfgWrite v) s =
    .next { colFault 1 0 0 0 s with evt := (post (ev 0x0502) (colFault 1 0 0 0 s)).evt } := by
  change execColCfgWrite v s = _
  simp only [execColCfgWrite, hr, h, Bool.not_true, Bool.false_eq_true, if_false, if_true]
  conv => lhs; rw [post_frame, post_awake _ (colFault 1 0 0 0 s) (awake_of_running hr)]

end

/-! ### Shards (R147, R305) -/

theorem shardLo_zero (n d : Nat) : shardLo n d 0 = 0 := by rw [shardLo, Nat.zero_mul, Nat.zero_div]

theorem shardLo_all {d : Nat} (n : Nat) (h : 0 < d) : shardLo n d d = n := by
  rw [shardLo, Nat.max_eq_right h, Nat.mul_div_cancel_left n h]

theorem shardLo_le_succ (n d k : Nat) : shardLo n d k ≤ shardLo n d (k + 1) :=
  Nat.div_le_div_right (Nat.mul_le_mul_right n k.le_succ)

/-- Settles O44: every message is delivered and checked (`colRecv_forJob`, `colRecv_turned`), and each effect has its lemma
above. -/
theorem collectiveMessagesActOnTheStep : Obligations.CollectiveMessagesActOnTheStep := by
  refine ⟨fun l h ch xs e x s a hs hg => ⟨?_, ?_, ?_⟩, fun l h ch xs x s a hs => colRecv_forJob a hs _ _,
    fun l h ch g x s a hs => colRecv_forJob a hs _ _,
    fun l h ch xs x s a hs => ⟨fun _ hr => exec_norm_read a hs hr, exec_norm_unread a hs⟩,
    fun w h => normRead_reserved h,
    fun l h ch xs bs g e s a hg ht => ⟨?_, colRecv_turned a ht _ _, colRecv_turned a ht _ _⟩, fun h ch s => ?_,
    fun h ch xs w j x s k hw => glueMsg_weight hw, fun w n xs j x s h => takeGlue_waits h n xs j s,
    fun w n k xs j r s t hb hr => ⟨_, tensAt_holdChunk hb hr n, rfl⟩,
    fun h ch v a j x y r s hj hr hv => ⟨_, tensAt_takeTally_g h hv x (by rw [tensAt, hj]; exact hr), rfl, rfl⟩,
    fun h ch v j x s hv => takeTally_reserved h ch hv j x s,
    fun j id n x s hj hr hf ho hg hq => colTimeout_faults n hj hr hf ho hg hq,
    fun j id n x s hj h => colTimeout_idle n hj h,
    fun v s hr => ⟨colCfgWrite_stored v hr,
      fun h => ⟨_, colCfgWrite_locked v hr h, rfl, bitAt_orBit _ (by decide), rfl⟩⟩,
    fun n d hd => ⟨shardLo_zero n d, shardLo_all n hd, shardLo_le_succ n d⟩⟩
  · rw [exec_glue_here xs e hg]
    exact colRecv_forJob a hs _ _
  · rw [exec_glueOut_here xs hg]
    exact colRecv_forJob a hs _ _
  · rw [exec_glueDirect_here xs hg]
    exact colRecv_forJob a hs _ _
  · rw [exec_glue_here xs e hg]
    exact colRecv_turned a ht _ _
  · rw [colDrop_col]
    exact ⟨bitAt_orBit _ (by decide), upd_same _ 6 _, rfl, colDrop_stk h ch s⟩

end Sys2Proof.Machine
end

section
/-! IMAGE_OPEN and IMAGE_WRITE (R332, R388), and the host's bounce messages (R380, R381). -/

namespace Sys2Proof.Machine

open Sys2Proof.Claims

/-! ### Messages of the host -/

theorem bounceBad_hif (q : BitVec 16) (s : State) :
    (bounceBad q s).hif = (bumpHif 2 1 (hifFault 3 q s)).hif := post_hif ..

theorem bounceBad_fault (q : BitVec 16) (s : State) : bitAt (bounceBad q s).hif.fault 3 = true := by
  rw [bounceBad_hif]
  exact bitAt_orBit s.hif.fault (by decide)

theorem bounceBad_counts (q : BitVec 16) (s : State) : (bounceBad q s).hif.ctrs[2] = ctrAdd s.hif.ctrs[2] 1 := by
  rw [bounceBad_hif]
  exact upd_same s.hif.ctrs 2 _

theorem bounceBad_session (q : BitVec 16) (s : State) : (bounceBad q s).hif.session = s.hif.session := by
  rw [bounceBad_hif]
  rfl

theorem takeCounter_session (q : BitVec 16) (x : Session) (n : DWord) (s : State) :
    (takeCounter q x n s).hif.session = some { x with h2d := some n } := by
  unfold takeCounter
  split
  · rw [post_hif]; rfl
  · rfl

/-- Below its end the counter changes alone. -/
theorem takeCounter_below {n : DWord} (h : n ≠ BitVec.allOnes 64) (q : BitVec 16) (x : Session) (s : State) :
    takeCounter q x n s = { s with hif := { s.hif with session := some { x with h2d := some n } } } := if_neg h

section
variable {c : Cmd} {op : Byte} {off : Nat} {len : Option Nat} {m : List Byte} {s : State}

theorem takeBounce_port {n : Nat} (ho : c.origin = .mgmt) (hl : m.length = n) :
    takeBounce c op off (some n) m s = (.inr m, s) := by
  simp only [takeBounce, ho, hl, beq_self_eq_true, if_true]

variable (ho : c.origin = .mailbox)
include ho

theorem takeBounce_noSession (hs : s.hif.session = none) : takeBounce c op off len m s = (.inl stRefused, s) := by
  simp only [takeBounce, ho, hs]

/-- R381: a message that the session's key does not open, or whose counter does not rise, is turned away. -/
theorem takeBounce_bad {x : Session} (hs : s.hif.session = some x) (hx : x.h2d ≠ some (BitVec.allOnes 64))
    (hf : bounceFits op off len m = true) (hb : openBounce x m = none ∨ counterRises x (bounceCounter m) = false) :
    takeBounce c op off len m s = (.inl stAuthFail, bounceBad c.seq s) := by
  simp only [takeBounce, ho, hs, if_neg hx, hf, Bool.not_true, Bool.false_eq_true, if_false]
  cases hd : openBounce x m with
  | none => rfl
  | some d =>
    have hr : counterRises x (bounceCounter m) = false := hb.resolve_left (by simp [hd])
    simp only [hr, Bool.false_eq_true, if_false]

/-- R380: a message is accepted only where it fits its command, the session's key opens it and its counter rises, and then
the session keeps that counter. -/
theorem takeBounce_accepts_iff {d : List Byte} {t : State} : takeBounce c op off len m s = (.inr d, t) ↔
    ∃ x, s.hif.session = some x ∧ x.h2d ≠ some (BitVec.allOnes 64) ∧ bounceFits op off len m = true ∧
      openBounce x m = some d ∧ counterRises x (bounceCounter m) = true ∧ t = takeCounter c.seq x (bounceCounter m) s := by
  constructor
  · intro h
    cases hs : s.hif.session with
    | none => simp [takeBounce_noSession ho hs] at h
    | some x =>
      simp only [takeBounce, ho, hs] at h
      split at h
      · simp at h
      next hx =>
        split at h
        · simp at h
        next hf =>
          split at h
          next e he =>
            split at h
            next hr =>
              obtain ⟨hd, ht⟩ := Prod.mk.inj h
              exact ⟨x, rfl, hx, by simpa using hf, he.trans (congrArg some (Sum.inr.inj hd)), hr, ht.symm⟩
            · simp at h
          · simp at h
  · rintro ⟨x, hs, hx, hf, hd, hr, rfl⟩
    simp only [takeBounce, ho, hs, if_neg hx, hf, hd, hr, Bool.not_true, Bool.false_eq_true, if_false, if_true]

end

/-! ### What a command that runs finds of the flash, the banks and the session -/

section
variable {c : Cmd} {op : Byte} {s s1 : State} (h : Runs c op s s1)
include h

theorem runs_fls : s1.fls = s.fls := by rw [runs_frame h]

theorem runs_openTarget (named : Bool) : openTarget s1 named = openTarget s named := by
  rw [runs_frame h]
  rfl

theorem runs_regionShut (n : Nat) : regionShut n s1 = regionShut n s := by
  rw [runs_frame h]
  rfl

theorem runs_regionBlocks (n : Nat) : regionBlocks n s1 = regionBlocks n s := by rw [regionBlocks, runs_fls h]; rfl

theorem runs_sessionOf (o : Origin) : sessionOf s1 o = sessionOf s o := by rw [sessionOf, runs_fls h]; rfl

/-- Of the host interface, taking a command changes the queue and the running tags alone. -/
theorem runs_session : s1.hif.session = s.hif.session := by
  have ht := h.1
  unfold takeCmd at ht
  split at ht
  · cases ht
  · split at ht
    · split at ht
      · cases ht
      · split at ht
        · cases ht; rfl
        · cases ht
    · split at ht
      · cases ht; rfl
      · cases ht

end

theorem exec_imageOpen {c : Cmd} {s s1 : State} (h : Runs c 0x10 s s1) (hb : bitsFrom c.a1 1 = false) :
    exec (.imageOpen c) s = .next (imageOpenRun c (pendOf c 0x10 s1) s1) := by
  change execImageOpen c s = _
  rw [execImageOpen, hb]
  exact runCmd_of_runs h _

theorem exec_imageWrite {c : Cmd} {s s1 : State} (h : Runs c 0x11 s s1) (m : List Byte) :
    exec (.imageWrite c m) s = .next (imageWriteRun c m (pendOf c 0x11 s1) s1) := runCmd_of_runs h _

/-! ### The logs of the flash leave the boot alone -/

theorem hkAppend_glb (i : HkItem) (s : State) : (hkAppend i s).glb = s.glb := by
  unfold hkAppend
  split <;> rfl

theorem countErase_glb (n : Nat) (s : State) : (countErase n s).glb = s.glb := hkAppend_glb ..

theorem selAppend_glb (k : SelKind) (x : Bank) (v : BitVec 16) (id : DWord) (s : State) :
    (selAppend k x v id s).glb = s.glb := by
  unfold selAppend
  split
  · rfl
  · exact countErase_glb _ s

theorem bankSt_of_glb {s t : State} (h : t.glb = s.glb) (x : Bank) : bankSt t x = bankSt s x := by
  cases x <;> simp only [bankSt, h]

theorem bankSt_setBank (x : Bank) (st : BankState) (s : State) : bankSt (setBank x st s) x = st := by
  cases x <;> rfl

/-! ### What the operations of an image session leave alone -/

/-- t is s but for the flash, whose code words stand, the states of the banks, answers and events. -/
structure ImageMove (s t : State) : Prop where
  frame : t = { s with fls := t.fls, glb := { s.glb with bankA := t.glb.bankA, bankB := t.glb.bankB }, hif := t.hif,
                       mgmt := t.mgmt, evt := t.evt }
  words : t.fls.words = s.fls.words

namespace ImageMove
variable {s t u : State}

theorem refl (s : State) : ImageMove s s := ⟨rfl, rfl⟩

theorem trans (h : ImageMove s t) (k : ImageMove t u) : ImageMove s u :=
  ⟨k.frame.trans (by rw [h.frame]), k.words.trans h.words⟩

theorem awake (h : ImageMove s t) (ha : awake s = true) : awake t = true := by
  rw [h.frame]
  exact ha

theorem fls (h : ImageMove s t) {f : Fls} (hf : f.words = t.fls.words := by rfl) : ImageMove s { t with fls := f } :=
  h.trans ⟨rfl, hf⟩

theorem setBank (h : ImageMove s t) (x : Bank) (st : BankState) : ImageMove s (setBank x st t) :=
  h.trans (by cases x <;> exact ⟨rfl, rfl⟩)

section
variable (ha : Machine.awake s = true)
include ha

theorem answer (h : ImageMove s t) (p : Pend) (st : Byte) (fin : Bool) (a b c d : Word) :
    ImageMove s (answer p st fin a b c d t) := by
  refine h.trans ⟨?_, by rw [answer_frame]⟩
  have haon := answer_awake p st fin a b c d t (h.awake ha)
  conv => lhs; rw [answer_frame, haon]
  rw [answer_frame]

theorem bumpFls (h : ImageMove s t) (i : Fin 7) (n : Nat) : ImageMove s (bumpFls i n t) :=
  h.trans ⟨bumpFls_rec i n t (h.awake ha), rfl⟩

theorem hkAppend (h : ImageMove s t) (i : HkItem) : ImageMove s (hkAppend i t) := by
  unfold Machine.hkAppend
  split
  · exact h.fls.bumpFls ha _ _
  · exact (h.fls.bumpFls ha _ _).bumpFls ha _ _

theorem countErase (h : ImageMove s t) (n : Nat) : ImageMove s (countErase n t) := h.fls.hkAppend ha _

theorem selAppend (h : ImageMove s t) (k : SelKind) (x : Bank) (v : BitVec 16) (id : DWord) :
    ImageMove s (selAppend k x v id t) := by
  unfold Machine.selAppend
  split
  · exact h.fls.bumpFls ha _ _
  · exact ((h.countErase ha _).fls.bumpFls ha _ _).bumpFls ha _ _

theorem endAll (h : ImageMove s t) (st : Byte) (ps : List Pend) : ImageMove s (endAll st ps t) := by
  induction ps generalizing t with
  | nil => exact h
  | cons p ps ih => exact ih (h.answer ha ..)

theorem abandonImage (h : ImageMove s t) : ImageMove s (abandonImage t) := by
  unfold Machine.abandonImage
  split
  · exact h
  · exact (h.fls.endAll ha _ _).fls.setBank _ _

theorem openBank (h : ImageMove s t) (o : Origin) (x : Bank) (n : Nat) (p : Pend) : ImageMove s (openBank o x n p t) :=
  ((((h.abandonImage ha).answer ha ..).setBank x .open_).selAppend ha ..).fls.fls

end

end ImageMove

/-! ### IMAGE_OPEN -/

theorem openBank_open (o : Origin) (x : Bank) (n : Nat) (p : Pend) (s : State) : bankSt (openBank o x n p s) x = .open_ :=
  (bankSt_of_glb (selAppend_glb ..) x).trans (bankSt_setBank x .open_ _)

section
variable {c : Cmd} {s : State} (p : Pend)

theorem imageOpenRun_badLength (h : c.a0 = 0 ∨ 67108864 < c.a0.toNat ∨ c.a0.toNat % 32 ≠ 0) :
    imageOpenRun c p s = endWith p stBadArg s :=
  if_pos (h.imp_left fun e => by rw [e]; rfl)

variable (h0 : 0 < c.a0.toNat) (hm : c.a0.toNat ≤ 67108864) (hd : c.a0.toNat % 32 = 0)
include h0 hm hd

theorem imageOpenRun_shut (hs : regionShut (bankRegion (openTarget s (bitAt c.a1 0))) s = true) :
    imageOpenRun c p s = endWith p stProtected (protectedFault (bankRegion (openTarget s (bitAt c.a1 0))) s) := by
  have hl : ¬ (c.a0.toNat = 0 ∨ 67108864 < c.a0.toNat ∨ c.a0.toNat % 32 ≠ 0) := by omega
  simp only [imageOpenRun, if_neg hl, hs, if_true]

theorem imageOpenRun_opens (hs : regionShut (bankRegion (openTarget s (bitAt c.a1 0))) s = false)
    (hn : blocksFor c.a0.toNat ≤ regionBlocks (bankRegion (openTarget s (bitAt c.a1 0))) s) :
    imageOpenRun c p s = openBank c.origin (openTarget s (bitAt c.a1 0)) c.a0.toNat p s := by
  have hl : ¬ (c.a0.toNat = 0 ∨ 67108864 < c.a0.toNat ∨ c.a0.toNat % 32 ≠ 0) := by omega
  simp only [imageOpenRun, if_neg hl, hs, if_neg (Nat.not_lt.mpr hn), Bool.false_eq_true, if_false]

end

/-! ### IMAGE_WRITE -/

section
variable {c : Cmd} {m : List Byte} {x : ImgSession} {s : State} (p : Pend)

theorem imageWriteRun_noSession (hx : sessionOf s c.origin = none) : imageWriteRun c m p s = endWith p stRefused s := by
  simp only [imageWriteRun, hx]

variable (hx : sessionOf s c.origin = some x)
include hx

theorem imageWriteRun_outside (hl : x.length < c.a0.toNat + c.a1.toNat) :
    imageWriteRun c m p s = endWith p stBadArg s := by
  have hw : writeFits (onPort c) x = false := by
    have ha : (onPort c).a0 = c.a0 ∧ (onPort c).a1 = c.a1 := by unfold onPort; split <;> exact ⟨rfl, rfl⟩
    simp only [writeFits, ha, decide_eq_false (Nat.not_le.mpr hl), Bool.and_false]
  simp only [imageWriteRun, hx, hw, Bool.not_false, if_true]

/-- R332: the data of an input message that is accepted are queued, to be programmed at their offset in the bank. -/
theorem imageWriteRun_queues {d : List Byte} {t : State} (hw : writeFits (onPort c) x = true)
    (ht : takeBounce c 0x11 c.a2.toNat (some c.a1.toNat) m s = (.inr d, t)) (hr : regionShut (bankRegion x.bank) t = false) :
    imageWriteRun c m p s = queueTask ⟨3, writeOps (bankWord x.bank + c.a0.toNat / 32) (c.a1.toNat / 32) d,
      .imageWrite, some p, 0⟩ (startPending p t) := by
  simp only [imageWriteRun, hx, hw, ht, hr, Bool.not_true, Bool.false_eq_true, if_false]

end

/-! ### IMAGE_OPEN and IMAGE_WRITE, and the messages -/

/-- Settles O17: `imageOpenRun` and `imageWriteRun` have a lemma per outcome, `ImageMove` carries what a session leaves alone
through the operations that open it, and `takeBounce_accepts_iff` says which messages of the host are accepted. -/
theorem imagesAreOpenedWrittenAndAuthenticated : Obligations.ImagesAreOpenedWrittenAndAuthenticated := by
  refine ⟨⟨fun c s s1 h hb h0 hm hd hs hn => ?_, fun c s s1 h hb hl => ?_, fun c s s1 h hb h0 hm hd hs => ?_⟩,
    ⟨fun c m x s s1 h ho hx hw hl hs => ?_, fun c m d x e s s1 h ho hx hw he hk hf hd hr hc hs => ?_,
      fun c m s s1 h hx => ?_, fun c m x s s1 h ho hx hl => ?_⟩,
    ⟨fun c op off n m x s ho hs hx hf hb => ?_, fun c op off n m d s t ho h => ?_,
      fun c op off n m s ho hs => takeBounce_noSession ho hs⟩⟩
  · rw [← runs_openTarget h, ← runs_regionShut h] at hs
    rw [← runs_openTarget h, ← runs_regionBlocks h] at hn
    rw [exec_imageOpen h hb, imageOpenRun_opens _ h0 hm hd hs hn, runs_openTarget h]
    have hmove := (ImageMove.refl s1).openBank (runs_awake h) c.origin (openTarget s (bitAt c.a1 0)) c.a0.toNat
      (pendOf c 0x10 s1)
    refine ⟨_, rfl, rfl, openBank_open .., ⟨_, List.mem_append_right _ (List.mem_singleton_self _), rfl, rfl, rfl⟩,
      hmove.words.trans (congrArg _ (runs_fls h)), ?_⟩
    conv => lhs; rw [hmove.frame]
    rw [runs_frame h]
  · rw [exec_imageOpen h hb, imageOpenRun_badLength _ hl]
  · rw [← runs_openTarget h, ← runs_regionShut h] at hs
    rw [exec_imageOpen h hb, imageOpenRun_shut _ h0 hm hd hs, runs_openTarget h]
  · rw [← runs_sessionOf h] at hx
    rw [← runs_regionShut h] at hs
    have hp : onPort c = { c with a2 := 0 } := by rw [onPort, ho]
    rw [exec_imageWrite h, imageWriteRun_queues _ hx (by rw [hp]; exact hw) (takeBounce_port ho hl) hs]
  · rw [← runs_sessionOf h] at hx
    rw [← runs_session h] at he
    rw [← runs_regionShut h] at hs
    have hp : onPort c = c := by rw [onPort, ho]
    have ht := (takeBounce_accepts_iff (c := c) ho).mpr ⟨e, he, hk, hf, hd, hr, (takeCounter_below hc _ _ _).symm⟩
    rw [exec_imageWrite h, imageWriteRun_queues _ hx (by rw [hp]; exact hw) ht hs]
  · rw [exec_imageWrite h, imageWriteRun_noSession _ (by rw [runs_sessionOf h]; exact hx)]
  · rw [exec_imageWrite h, imageWriteRun_outside _ (by rw [runs_sessionOf h]; exact hx) hl]
  · rw [takeBounce_bad ho hs hx hf hb]
    exact ⟨rfl, bounceBad_fault .., bounceBad_counts .., (bounceBad_session ..).trans hs⟩
  · obtain ⟨x, hs, -, -, hd, hr, rfl⟩ := (takeBounce_accepts_iff ho).mp h
    exact ⟨x, hs, hr, hd, takeCounter_session ..⟩

end Sys2Proof.Machine
end

section
/-! No command undoes what is one-way (R351, R352, R354, R357, R397), and what reset leaves. -/

namespace Sys2Proof.Machine

/-- Settles O49: `good_exec` says it of every command, from the lemmas of the operations that commands are built from. -/
theorem noCommandUndoesWhatIsOneWay : Obligations.NoCommandUndoesWhatIsOneWay := by
  intro c s t h
  have hg : Good s t := (good_exec c s (Good.refl s)).good t h
  exact ⟨hg.pending, hg.oneWay⟩

/-- Settles O51: the state after reset is closed data. -/
theorem resetHoldsTheSpecsValues : Obligations.ResetHoldsTheSpecsValues := by
  unfold Obligations.ResetHoldsTheSpecsValues
  decide

end Sys2Proof.Machine
end

section
/-! Frames: which blocks of the state a chain of operations changes. `Within b s t` says that t is s but for the blocks
named in b; one lemma per shared operation says which blocks it needs, and a chain of operations is a chain of lemmas. -/

namespace Sys2Proof.Machine

/-- The blocks of the state that an operation may change. -/
structure Blocks where
  free : Bool := false
  glb : Bool := false
  pwr : Bool := false
  aon : Bool := false
  evt : Bool := false
  hif : Bool := false
  mgmt : Bool := false
  sec : Bool := false
  fls : Bool := false
  rng : Bool := false
  stk : Bool := false
  bnc : Bool := false
  pln : Bool := false
  lth : Bool := false
  trn : Bool := false
  sq : Bool := false
  jobs : Bool := false
  links : Bool := false
  ws : Bool := false
  col : Bool := false
  sns : Bool := false
  img : Bool := false
  out : Bool := false

/-- The new value where the block may change, else the old one. -/
def pick {α : Type} (b : Bool) (new old : α) : α := bif b then new else old

theorem pick_pick {α : Type} (b : Bool) (x y z : α) : pick b x (pick b y z) = pick b x z := by cases b <;> rfl

theorem pick_self {α : Type} (b : Bool) (x : α) : pick b x x = x := by cases b <;> rfl

/-- s with the blocks of b as they are in t. -/
def adopting (b : Blocks) (s t : State) : State := { s with
  free := pick b.free t.free s.free, glb := pick b.glb t.glb s.glb, pwr := pick b.pwr t.pwr s.pwr,
  aon := pick b.aon t.aon s.aon, evt := pick b.evt t.evt s.evt, hif := pick b.hif t.hif s.hif,
  mgmt := pick b.mgmt t.mgmt s.mgmt, sec := pick b.sec t.sec s.sec, fls := pick b.fls t.fls s.fls,
  rng := pick b.rng t.rng s.rng, stk := pick b.stk t.stk s.stk, bnc := pick b.bnc t.bnc s.bnc,
  pln := pick b.pln t.pln s.pln, lth := pick b.lth t.lth s.lth, trn := pick b.trn t.trn s.trn,
  sq := pick b.sq t.sq s.sq, jobs := pick b.jobs t.jobs s.jobs, links := pick b.links t.links s.links,
  ws := pick b.ws t.ws s.ws, col := pick b.col t.col s.col, sns := pick b.sns t.sns s.sns, img := pick b.img t.img s.img,
  out := pick b.out t.out s.out }

/-- An event leaves no trace in the always-on domain that b does not allow: that block may change, or the main rails are up
and stay up. -/
def absorbs (b : Blocks) (s : State) : Bool := b.aon || (!b.glb && awake s)

/-- t is s but for the blocks of b. -/
def Within (b : Blocks) (s t : State) : Prop := t = adopting b s t

namespace Within
variable {b : Blocks} {s t u : State}

theorem refl (b : Blocks) (s : State) : Within b s s := by simp only [Within, adopting, pick_self]

theorem trans (h : Within b s t) (k : Within b t u) : Within b s u := by
  have hk : adopting b (adopting b s t) u = adopting b s u := by simp only [adopting, pick_pick]
  rw [← h] at hk
  exact Eq.trans k hk

theorem glb_eq (h : Within b s t) (hg : b.glb = false) : t.glb = s.glb := by
  have e := congrArg State.glb h
  simpa only [adopting, pick, hg, cond_false] using e

theorem awake (h : Within b s t) (hg : b.glb = false) (ha : awake s = true) : awake t = true :=
  awake_of_glb (h.glb_eq hg) ha

theorem absorbs_of (h : Within b s t) (ha : absorbs b s = true) :
    absorbs b t = true := by
  revert ha
  unfold absorbs
  cases hn : b.aon
  · cases hg : b.glb
    · simpa only [Bool.not_false, Bool.true_and, Bool.false_or] using h.awake hg
    · simp only [Bool.not_true, Bool.false_and, Bool.false_or, imp_self]
  · simp only [Bool.true_or, imp_self]

/-- A change of the collector and the always-on domain that leaves the latter alone with the main rails up. -/
theorem evt_aon {e : Evt} {n : Aon} (ha : absorbs b s = true) (he : b.evt = true)
    (hn : Machine.awake s = true → n = s.aon) : Within b s { s with evt := e, aon := n } := by
  cases hb : b.aon
  · have haw : Machine.awake s = true := by
      simp only [absorbs, hb, Bool.false_or, Bool.and_eq_true] at ha
      exact ha.2
    rw [hn haw]
    simp only [Within, adopting, he, pick_self]
    rfl
  · simp only [Within, adopting, he, hb, pick_self]
    rfl

theorem set_free (h : Within b s t) {x : Nat} (hb : b.free = true := by rfl) : Within b s { t with free := x } := by
  refine h.trans ?_
  simp only [Within, adopting, hb, pick_self]
  rfl

theorem set_pwr (h : Within b s t) {x : Pwr} (hb : b.pwr = true := by rfl) : Within b s { t with pwr := x } := by
  refine h.trans ?_
  simp only [Within, adopting, hb, pick_self]
  rfl

theorem set_aon (h : Within b s t) {x : Aon} (hb : b.aon = true := by rfl) : Within b s { t with aon := x } := by
  refine h.trans ?_
  simp only [Within, adopting, hb, pick_self]
  rfl

theorem set_evt (h : Within b s t) {x : Evt} (hb : b.evt = true := by rfl) : Within b s { t with evt := x } := by
  refine h.trans ?_
  simp only [Within, adopting, hb, pick_self]
  rfl

theorem set_hif (h : Within b s t) {x : Hif} (hb : b.hif = true := by rfl) : Within b s { t with hif := x } := by
  refine h.trans ?_
  simp only [Within, adopting, hb, pick_self]
  rfl

theorem set_mgmt (h : Within b s t) {x : Mgmt} (hb : b.mgmt = true := by rfl) : Within b s { t with mgmt := x } := by
  refine h.trans ?_
  simp only [Within, adopting, hb, pick_self]
  rfl

theorem set_sec (h : Within b s t) {x : Sec} (hb : b.sec = true := by rfl) : Within b s { t with sec := x } := by
  refine h.trans ?_
  simp only [Within, adopting, hb, pick_self]
  rfl

theorem set_fls (h : Within b s t) {x : Fls} (hb : b.fls = true := by rfl) : Within b s { t with fls := x } := by
  refine h.trans ?_
  simp only [Within, adopting, hb, pick_self]
  rfl

theorem set_rng (h : Within b s t) {x : Rng} (hb : b.rng = true := by rfl) : Within b s { t with rng := x } := by
  refine h.trans ?_
  simp only [Within, adopting, hb, pick_self]
  rfl

theorem set_jobs (h : Within b s t) {x : Vector (Option Job) 4} (hb : b.jobs = true := by rfl) :
    Within b s { t with jobs := x } := by
  refine h.trans ?_
  simp only [Within, adopting, hb, pick_self]
  rfl

theorem set_links (h : Within b s t) {x : Vector Link 8} (hb : b.links = true := by rfl) :
    Within b s { t with links := x } := by
  refine h.trans ?_
  simp only [Within, adopting, hb, pick_self]
  rfl

theorem flsFault (h : Within b s t) (i n m : Nat) (hb : b.fls = true := by rfl) : Within b s (flsFault i n m t) :=
  h.set_fls hb

theorem post (h : Within b s t) (ha : absorbs b s = true) (e : Posted) (he : b.evt = true := by rfl) :
    Within b s (post e t) := by
  refine h.trans ?_
  rw [post_frame]
  exact evt_aon (h.absorbs_of ha) he (post_awake e t)

theorem postIf (h : Within b s t) (ha : absorbs b s = true) (c : Bool) (e : Posted) (he : b.evt = true := by rfl) :
    Within b s (postIf c e t) := by
  cases c
  · exact h
  · rw [show Machine.postIf true e t = Machine.post e t from (post_frame e t).symm]
    exact h.post ha e he

theorem bumpPwr (h : Within b s t) (ha : absorbs b s = true) (i : Fin 6) (n : Nat) (hb : b.pwr = true := by rfl)
    (he : b.evt = true := by rfl) :
    Within b s (bumpPwr i n t) := (h.set_pwr hb).postIf ha _ _ he

theorem bumpAon (h : Within b s t) (ha : absorbs b s = true) (i : Fin 4) (n : Nat) (hb : b.aon = true := by rfl)
    (he : b.evt = true := by rfl) :
    Within b s (bumpAon i n t) := (h.set_aon hb).postIf ha _ _ he

theorem bumpHif (h : Within b s t) (ha : absorbs b s = true) (i : Fin 4) (n : Nat) (hb : b.hif = true := by rfl)
    (he : b.evt = true := by rfl) :
    Within b s (bumpHif i n t) := (h.set_hif hb).postIf ha _ _ he

theorem bumpSec (h : Within b s t) (ha : absorbs b s = true) (i : Fin 5) (n : Nat) (hb : b.sec = true := by rfl)
    (he : b.evt = true := by rfl) :
    Within b s (bumpSec i n t) := (h.set_sec hb).postIf ha _ _ he

theorem bumpFls (h : Within b s t) (ha : absorbs b s = true) (i : Fin 7) (n : Nat) (hb : b.fls = true := by rfl)
    (he : b.evt = true := by rfl) :
    Within b s (bumpFls i n t) := (h.set_fls hb).postIf ha _ _ he

theorem bumpLink (h : Within b s t) (ha : absorbs b s = true) (l : Fin 8) (i : Fin 8) (n : Nat) (hb : b.links = true := by rfl)
    (he : b.evt = true := by rfl) : Within b s (bumpLink l i n t) := (h.set_links hb).postIf ha _ _ he

theorem fire (h : Within b s t) (v : Fin 4) (hb : b.hif = true := by rfl) : Within b s (fire v t) := by
  rw [fire_frame]
  exact h.set_hif hb

theorem putResult (h : Within b s t) (ha : absorbs b s = true) (r : Result) (hb : b.hif = true := by rfl)
    (he : b.evt = true := by rfl) :
    Within b s (putResult r t) := by
  unfold Machine.putResult
  split
  · exact (h.set_hif hb).fire 1 hb
  · split
    · exact h.set_hif hb
    · exact ((h.set_hif hb).bumpHif ha 1 1 hb he).post ha _ he

theorem answer (h : Within b s t) (ha : absorbs b s = true) (p : Pend) (st : Byte) (fin : Bool) (w x y z : Word) (hb :
    b.hif = true := by rfl)
    (hm : b.mgmt = true := by rfl) (he : b.evt = true := by rfl) : Within b s (answer p st fin w x y z t) := by
  unfold Machine.answer
  split
  · split
    · refine putResult ?_ ha _ hb he
      split
      · exact h.set_hif hb
      · exact h
    · exact h
  · split
    · exact h.set_mgmt hm
    · exact h

theorem endWith (h : Within b s t) (ha : absorbs b s = true) (p : Pend) (st : Byte) (hb : b.hif = true := by rfl) (hm :
    b.mgmt = true := by rfl)
    (he : b.evt = true := by rfl) : Within b s (endWith p st t) := h.answer ha _ _ _ _ _ _ _ hb hm he

theorem startPending (h : Within b s t) (ha : absorbs b s = true) (p : Pend) (hb : b.hif = true := by rfl) (hm :
    b.mgmt = true := by rfl)
    (he : b.evt = true := by rfl) : Within b s (startPending p t) := h.answer ha _ _ _ _ _ _ _ hb hm he

theorem endOpt (h : Within b s t) (ha : absorbs b s = true) (p : Option Pend) (st : Byte) (hb : b.hif = true := by rfl)
    (hm : b.mgmt = true := by rfl) (he : b.evt = true := by rfl) : Within b s (endOpt p st t) := by
  cases p
  · exact h
  · exact h.endWith ha _ _ hb hm he

/-- Being taken, a command changes the host interface or the management port alone. -/
theorem runs {c : Cmd} {op : Byte} {s1 : State} (h : Claims.Runs c op s s1) (hb : b.hif = true := by rfl)
    (hm : b.mgmt = true := by rfl) : Within b s s1 := by
  have hw : Within b s { s with hif := s1.hif, mgmt := s1.mgmt } := ((refl b s).set_hif (x := s1.hif) hb).set_mgmt hm
  rwa [← runs_frame h] at hw

end Within

end Sys2Proof.Machine
end

section
/-! FLASH_UNLOCK, FLASH_LOCK and the protection states of the regions (R354 to R358). -/

namespace Sys2Proof.Machine

open Sys2Proof.Claims

/-! ### What a command that runs finds -/

section
variable {c : Cmd} {op : Byte} {s s1 : State} (h : Runs c op s s1)
include h

theorem runs_aon : s1.aon = s.aon := by rw [runs_frame h]

theorem runs_serial : s1.serial = s.serial := by rw [runs_frame h]

theorem runs_hasPermanent (m : Word) : hasPermanent s1 m = hasPermanent s m := by
  rw [runs_frame h]
  rfl

theorem runs_maskedShut (m : Word) : maskedAny s1 m (shutOut s1) = maskedAny s m (shutOut s) := by
  rw [runs_frame h]
  rfl

theorem runs_protOps (m : Word) (f : Prot → Bool) (st : Prot) : protOps m f st s1 = protOps m f st s := by
  rw [runs_frame h]
  rfl

end

/-! ### Masks of regions -/

/-- The number whose bit i is b i. -/
def sumBits (n : Nat) (b : Fin n → Bool) : Nat := ((List.finRange n).map fun i => if b i then 2 ^ i.val else 0).sum

theorem sumBits_succ (n : Nat) (b : Fin (n + 1) → Bool) :
    sumBits (n + 1) b = sumBits n (fun i => b i.castSucc) + if b (Fin.last n) then 2 ^ n else 0 := by
  simp only [sumBits, List.finRange_succ_last, List.map_append, List.sum_append, List.map_map, List.map_singleton,
    List.sum_singleton, Fin.val_last, Function.comp_def, Fin.val_castSucc]

theorem sumBits_lt : ∀ (n : Nat) (b : Fin n → Bool), sumBits n b < 2 ^ n
  | 0, _ => by simp [sumBits]
  | n + 1, b => by
    have ih := sumBits_lt n fun i => b i.castSucc
    rw [sumBits_succ]
    split <;> omega

theorem testBit_sumBits : ∀ (n : Nat) (b : Fin n → Bool) (k : Fin n), (sumBits n b).testBit k.val = b k
  | 0, _, k => k.elim0
  | n + 1, b, k => by
    have hlt := sumBits_lt n fun i => b i.castSucc
    rw [sumBits_succ]
    induction k using Fin.lastCases with
    | last =>
      cases hb : b (Fin.last n) with
      | false => simp [Nat.testBit_lt_two_pow hlt]
      | true => rw [if_pos rfl, Nat.add_comm, Fin.val_last, Nat.testBit_two_pow_add_eq, Nat.testBit_lt_two_pow hlt]; rfl
    | cast k =>
      have ih := testBit_sumBits n (fun i => b i.castSucc) k
      cases b (Fin.last n) with
      | false => exact ih
      | true => rw [if_pos rfl, Nat.add_comm, Fin.val_castSucc, Nat.testBit_two_pow_add_gt k.isLt]; exact ih

theorem bitAt_lockedOf (n : Fin 16) (m : Word) (s : State) :
    bitAt (lockedOf s m) n.val = (bitAt m n.val && s.fls.prot[n] == .passwordLocked) := by
  have hn : n.val < 16 := n.isLt
  change bitAt (BitVec.ofNat 16 (sumBits 16 fun n => bitAt m n.val && s.fls.prot[n] == .passwordLocked)) n.val = _
  rw [bitAt, BitVec.getLsbD_ofNat, testBit_sumBits, decide_eq_true hn, Bool.true_and]

theorem mem_protOps {n : Fin 16} {m : Word} {f : Prot → Bool} {st : Prot} {s : State} :
    FlashOp.protect n st ∈ protOps m f st s ↔ bitAt m n.val = true ∧ f s.fls.prot[n] = true := by
  simp [protOps]

/-! ### FLASH_UNLOCK (R356, R358) -/

theorem exec_flashUnlock {c : Cmd} {s s1 : State} (h : Runs c 0x60 s s1) (hb : bitsFrom c.a0 16 = false) :
    exec (.flashUnlock c) s = .next (unlockRun c (pendOf c 0x60 s1) s1) := by
  change execFlashUnlock c s = _
  rw [execFlashUnlock, hb]
  exact runCmd_of_runs h _

section
variable {c : Cmd} {p : Pend} {s : State}

theorem unlockRun_lockedOut (h : s.aon.lockout = true) : unlockRun c p s = endWith p stProtected s := if_pos h

variable (h : s.aon.lockout = false)
include h

theorem unlockRun_noPassword (hd : s.fls.password = none) : unlockRun c p s = endWith p stRefused s := by
  simp only [unlockRun, h, hd, Bool.false_eq_true, if_false]

theorem unlockRun_right {d : BitVec 128} (hd : s.fls.password = some d) (hp : passDigest s.serial c.a1 c.a2 = d) :
    unlockRun c p s = endWith p stDone { s with fls := { s.fls with
      sessions := s.fls.sessions ||| lockedOf s c.a0, unlockFails := 0 } } := by
  simp only [unlockRun, h, hd, hp, Bool.false_eq_true, if_false, if_true]

theorem unlockRun_wrong {d : BitVec 128} (hd : s.fls.password = some d) (hp : passDigest s.serial c.a1 c.a2 ≠ d) :
    unlockRun c p s = wrongPassword p s := by
  simp only [unlockRun, h, hd, hp, Bool.false_eq_true, if_false]

end

/-- A wrong password is counted. -/
def missed (s : State) : State :=
  post (ev 0x0208) (flsFault 6 0 0 { s with fls := { s.fls with unlockFails := s.fls.unlockFails + 1 } })

/-- The lockout begins, and the unlock sessions end. -/
def lockOut (s : State) : State :=
  post (ev 0x0209) (flsFault 7 0 0 { s with aon := { s.aon with lockout := true }, fls := { s.fls with sessions := 0 } })

theorem wrongPassword_eighth {s : State} (p : Pend) (h : s.fls.unlockFails = 7) :
    wrongPassword p s = endWith p stAuthFail (lockOut (missed s)) := by
  simp only [wrongPassword, h, missed, lockOut]
  rfl

theorem wrongPassword_earlier {s : State} (p : Pend) (h : s.fls.unlockFails ≠ 7) :
    wrongPassword p s = endWith p stAuthFail (missed s) := by
  simp only [wrongPassword, if_neg (by omega : ¬ s.fls.unlockFails + 1 = 8), missed]

theorem missed_fls (s : State) : (missed s).fls =
    (flsFault 6 0 0 { s with fls := { s.fls with unlockFails := s.fls.unlockFails + 1 } }).fls := post_fls ..

theorem within_missed {b : Blocks} {s : State} (ha : absorbs b s = true) (hf : b.fls = true)
    (he : b.evt = true) : Within b s (missed s) := (((Within.refl b s).set_fls hf).flsFault 6 0 0 hf).post ha _ he

theorem lockOut_fls (s : State) : (lockOut s).fls =
    (flsFault 7 0 0 { s with fls := { s.fls with sessions := 0 } }).fls := post_fls ..

theorem lockOut_aon {s : State} (h : awake s = true) : (lockOut s).aon = { s.aon with lockout := true } :=
  post_awake _ _ h

/-- The blocks that FLASH_UNLOCK changes. -/
abbrev unlockBlocks : Blocks := { fls := true, aon := true, evt := true, hif := true, mgmt := true }

theorem within_lockOut {s t : State} (h : Within unlockBlocks s t) : Within unlockBlocks s (lockOut t) := by
  unfold lockOut
  have hs : Within unlockBlocks t { t with aon := { t.aon with lockout := true }, fls := { t.fls with sessions := 0 } } := rfl
  exact ((h.trans hs).flsFault 7 0 0).post rfl _

theorem within_wrongPassword (p : Pend) (s : State) : Within unlockBlocks s (wrongPassword p s) := by
  have hm : Within unlockBlocks s (missed s) := within_missed rfl rfl rfl
  by_cases h : s.fls.unlockFails = 7
  · rw [wrongPassword_eighth p h]
    exact (within_lockOut hm).endWith rfl _ _
  · rw [wrongPassword_earlier p h]
    exact hm.endWith rfl _ _

/-- A bit of a fault register stays set. -/
theorem bitAt_orBit_of {w : Word} {i : Nat} (n : Nat) (h : bitAt w i = true) : bitAt (orBit w n) i = true := by
  rw [bitAt] at h
  rw [bitAt, orBit, BitVec.getLsbD_or, h, Bool.true_or]

theorem wrongPassword_counts (p : Pend) (s : State) :
    (wrongPassword p s).fls.unlockFails = s.fls.unlockFails + 1 ∧ bitAt (wrongPassword p s).fls.fault 6 = true ∧
    (wrongPassword p s).fls.prot = s.fls.prot := by
  have h6 : bitAt (orBit s.fls.fault 6) 6 = true := bitAt_orBit _ (by decide)
  by_cases h : s.fls.unlockFails = 7
  · rw [wrongPassword_eighth p h, endWith_fls, lockOut_fls]
    simp only [flsFault, missed_fls]
    exact ⟨trivial, bitAt_orBit_of 7 h6, trivial⟩
  · rw [wrongPassword_earlier p h, endWith_fls, missed_fls]
    exact ⟨rfl, h6, rfl⟩

theorem wrongPassword_locksOut (p : Pend) {s : State} (h : s.fls.unlockFails = 7) (ha : awake s = true) :
    (wrongPassword p s).aon.lockout = true ∧ (wrongPassword p s).fls.sessions = 0 ∧
    bitAt (wrongPassword p s).fls.fault 7 = true := by
  have hm : awake (missed s) = true := awake_of_glb (post_glb ..) ha
  rw [wrongPassword_eighth p h, endWith_awake _ _ (lockOut (missed s)) (awake_of_glb (post_glb ..) hm), lockOut_aon hm,
      endWith_fls, lockOut_fls]
  exact ⟨rfl, rfl, bitAt_orBit _ (by decide)⟩

theorem wrongPassword_goesOn (p : Pend) {s : State} (h : s.fls.unlockFails ≠ 7) (ha : awake s = true) :
    (wrongPassword p s).aon = s.aon ∧ (wrongPassword p s).fls.sessions = s.fls.sessions := by
  have hm : awake (missed s) = true := awake_of_glb (post_glb ..) ha
  rw [wrongPassword_earlier p h, endWith_awake _ _ _ hm, endWith_fls, missed_fls]
  exact ⟨post_awake _ _ ha, rfl⟩

/-! ### FLASH_LOCK (R357) -/

theorem exec_flashLockClose {c : Cmd} {s s1 : State} (h : Runs c 0x61 s s1) (hb : bitsFrom c.a0 16 = false)
    (hm : c.a1 = 0) : exec (.flashLockClose c) s = .next (closeRun c (pendOf c 0x61 s1) s1) := by
  change execFlashLockClose c s = _
  simp only [execFlashLockClose, lockMode, hm, hb]
  exact runCmd_of_runs h _

theorem exec_flashLockSetPasswordLocked {c : Cmd} {s s1 : State} (h : Runs c 0x61 s s1) (hb : bitsFrom c.a0 16 = false)
    (hm : c.a1 = 1) : exec (.flashLockSetPasswordLocked c) s = .next (lockPwdRun c (pendOf c 0x61 s1) s1) := by
  change execFlashLockSetPasswordLocked c s = _
  simp only [execFlashLockSetPasswordLocked, lockMode, hm, hb]
  exact runCmd_of_runs h _

theorem exec_flashLockSetPermanent {c : Cmd} {s s1 : State} (h : Runs c 0x61 s s1) (hb : bitsFrom c.a0 16 = false)
    (hm : c.a1 = 2) : exec (.flashLockSetPermanent c) s = .next (lockPermRun c (pendOf c 0x61 s1) s1) := by
  change execFlashLockSetPermanent c s = _
  simp only [execFlashLockSetPermanent, lockMode, hm, hb]
  exact runCmd_of_runs h _

theorem exec_flashLockSetUnlocked {c : Cmd} {s s1 : State} (h : Runs c 0x61 s s1) (hb : bitsFrom c.a0 16 = false)
    (hm : c.a1 = 3) : exec (.flashLockSetUnlocked c) s = .next (unlockRegionsRun c (pendOf c 0x61 s1) s1) := by
  change execFlashLockSetUnlocked c s = _
  simp only [execFlashLockSetUnlocked, lockMode, hm, hb]
  exact runCmd_of_runs h _

theorem exec_flashLockSetPassword {c : Cmd} {s s1 : State} (h : Runs c 0x61 s s1) (hm : c.a1 = 4) :
    exec (.flashLockSetPassword c) s = .next (setPassRun c (pendOf c 0x61 s1) s1) := by
  change execFlashLockSetPassword c s = _
  simp only [execFlashLockSetPassword, lockMode, hm]
  exact runCmd_of_runs h _

/-- A mask with a PERMANENT region names the first such region in the fault register. -/
theorem permanentFault_eq {c : Cmd} {s : State} (h : hasPermanent s c.a0 = true) :
    ∃ n : Fin 16, permanentFault c s = protectedFault n.val s := by
  obtain ⟨m, hm, hp⟩ := List.any_eq_true.mp h
  unfold permanentFault
  split
  next n _ => exact ⟨n, rfl⟩
  next hn => exact absurd hp (List.find?_eq_none.mp hn m hm)

/-- R357: the three modes that set a state turn away a mask with a PERMANENT region in the same way. -/
theorem flashLock_permanent {c : Cmd} {i : Instr} {s s1 : State} (h : Runs c 0x61 s s1) (hb : bitsFrom c.a0 16 = false)
    (hp : hasPermanent s1 c.a0 = true)
    (hi : (c.a1 = 1 ∧ i = .flashLockSetPasswordLocked c) ∨ (c.a1 = 2 ∧ i = .flashLockSetPermanent c) ∨
      (c.a1 = 3 ∧ i = .flashLockSetUnlocked c)) :
    exec i s = .next (endWith (pendOf c 0x61 s1) stProtected (permanentFault c s1)) := by
  rcases hi with ⟨hm, rfl⟩ | ⟨hm, rfl⟩ | ⟨hm, rfl⟩
  · rw [exec_flashLockSetPasswordLocked h hb hm, lockPwdRun, if_pos hp]
  · rw [exec_flashLockSetPermanent h hb hm, lockPermRun, if_pos hp]
  · rw [exec_flashLockSetUnlocked h hb hm, unlockRegionsRun, if_pos hp]

theorem changeProt_queues {ops : List FlashOp} (h : ops ≠ []) (p : Pend) (s : State) :
    changeProt ops p s = queueTask ⟨2, ops, .protection, some p, 0⟩ (startPending p s) := by
  rw [changeProt, if_neg (by rwa [List.isEmpty_iff])]

section
variable {c : Cmd} {p : Pend} {s : State}

theorem setPassRun_queues (hs : (List.finRange 16).any (shutOut s) = false) : setPassRun c p s = queueTask
    ⟨2, [.password (passDigest s.serial c.a2 c.a3)], .protection, some p, 0⟩ (startPending p s) := by
  simp only [setPassRun, hs, Bool.false_eq_true, if_false]
  exact changeProt_queues (List.cons_ne_nil _ _) p s

variable (hp : hasPermanent s c.a0 = false)
include hp

theorem lockPwdRun_queues (hd : s.fls.password ≠ none) :
    lockPwdRun c p s = changeProt (protOps c.a0 (· == .unlocked) .passwordLocked s) p s := by
  have hn : s.fls.password.isNone = false :=
    Option.isNone_eq_false_iff.mpr (Option.isSome_iff_ne_none.mpr hd)
  simp only [lockPwdRun, hp, hn, Bool.false_eq_true, if_false]

variable (hs : maskedAny s c.a0 (shutOut s) = false)
include hs

theorem lockPermRun_queues : lockPermRun c p s = changeProt (protOps c.a0 (fun _ => true) .permanent s) p s := by
  simp only [lockPermRun, hp, hs, Bool.false_eq_true, if_false]

theorem unlockRegionsRun_queues :
    unlockRegionsRun c p s = changeProt (protOps c.a0 (· == .passwordLocked) .unlocked s) p s := by
  simp only [unlockRegionsRun, hp, hs, Bool.false_eq_true, if_false]

end

/-! ### Words of the housekeeping log (R342, R357) -/

/-- Of the flash, a word of the housekeeping log changes the log, the erase counts and the counters alone. -/
theorem hkAppend_fls (i : HkItem) (s : State) : (hkAppend i s).fls = { s.fls with
    hkLog := (hkAppend i s).fls.hkLog, hkBlk := (hkAppend i s).fls.hkBlk,
    eraseCounts := (hkAppend i s).fls.eraseCounts, ctrs := (hkAppend i s).fls.ctrs } := by
  unfold hkAppend
  split <;> rfl

theorem setProt_permanent {n : Fin 16} (st : Prot) {s : State} (h : s.fls.prot[n] = .permanent) : setProt n st s = s := by
  simp [setProt, h]

theorem setProt_fls {n : Fin 16} (st : Prot) {s : State} (h : s.fls.prot[n] ≠ .permanent) :
    (setProt n st s).fls.prot = s.fls.prot.set n st ∧ (setProt n st s).fls.words = s.fls.words := by
  have hp : ¬ (s.fls.prot[n] == .permanent) = true := by simpa using h
  rw [setProt, if_neg hp]
  constructor <;> rw [hkAppend_fls]

theorem exec_flashProgramDone {ok m : Bool} {s : State} (h : awake s = true) :
    exec (.flashProgramDone ok m) s = .next (programDone ok m s) := if_pos h

theorem finishTask_protection {u : FlashTask} (h : u.done = .protection) (s : State) :
    finishTask u s = endOpt u.pend stDone { s with fls := { s.fls with issued := none } } := by
  simp only [finishTask, h]

/-- The last word of a change of protection has been programmed: what it says takes effect (R357). -/
theorem programDone_append {u : FlashTask} {o : FlashOp} {s : State} (hi : s.fls.issued = some u) (ho : u.ops = [o])
    (hd : u.done = .protection) (hlog : ∀ a d, o ≠ .program a d) (her : ∀ b, o ≠ .erase b) :
    (programDone true true s).fls = { (appendOp o (countStall s)).fls with issued := none } := by
  cases o with
  | program a d => exact absurd rfl (hlog a d)
  | erase b => exact absurd rfl (her b)
  | _ => simp [programDone, hi, ho, logEnds, opDone, finishTask_protection hd]

/-- Settles O20: FLASH_UNLOCK and each mode of FLASH_LOCK have a lemma per outcome, and `programDone_append` says what the word
that a change of protection appends leaves in the flash. -/
theorem flashLocksFollowPasswordAndState : Obligations.FlashLocksFollowPasswordAndState := by
  refine ⟨⟨fun c d s s1 h hb hl hd hp => ?_, fun c d s s1 h hb hl hd hp => ?_, fun c s s1 h hb hl => ?_,
      fun c s s1 h hb hl hd => ?_, bitAt_lockedOf⟩,
    ⟨fun c s s1 h hb hm => ?_, fun c s s1 h hb hm hp hd => ?_, fun c s s1 h hb hm hp hs => ?_,
      fun c s s1 h hb hm hp hs => ?_, fun c s s1 h hm hs => ?_, fun c i s s1 h hb hp hi => ?_⟩,
    ⟨fun _ _ _ _ _ => mem_protOps, fun ops p s h => ⟨changeProt_queues h p s, rfl⟩, fun u n st s ha hi ho hd hn => ?_,
      fun u n st s ha hi ho hd hn => ?_, fun u d s ha hi ho hd => ?_⟩⟩
  · rw [exec_flashUnlock h hb, unlockRun_right (by rwa [runs_aon h]) (by rwa [runs_fls h]) (by rwa [runs_serial h])]
  · have hw := unlockRun_wrong (c := c) (p := pendOf c 0x60 s1) (by rwa [runs_aon h] : s1.aon.lockout = false)
      (by rwa [runs_fls h]) (by rwa [runs_serial h])
    rw [← runs_fls h]
    obtain ⟨hn, hf, hprot⟩ := wrongPassword_counts (pendOf c 0x60 s1) s1
    have ha := runs_awake h
    have hl1 : s1.aon.lockout = false := by rwa [runs_aon h]
    refine ⟨_, (exec_flashUnlock h hb).trans (congrArg _ hw), hn, hf, fun h7 => wrongPassword_locksOut _ h7 ha, fun h7 => ?_,
      hprot, Eq.trans (within_wrongPassword ..) ?_⟩
    · obtain ⟨haon, hses⟩ := wrongPassword_goesOn (pendOf c 0x60 s1) h7 ha
      exact ⟨haon ▸ hl1, hses⟩
    · generalize wrongPassword (pendOf c 0x60 s1) s1 = t
      rw [runs_frame h]
      rfl
  · rw [exec_flashUnlock h hb, unlockRun_lockedOut (by rwa [runs_aon h])]
  · rw [exec_flashUnlock h hb, unlockRun_noPassword (by rwa [runs_aon h]) (by rwa [runs_fls h])]
  · exact exec_flashLockClose h hb hm
  · rw [← runs_hasPermanent h] at hp
    rw [← runs_fls h] at hd
    rw [exec_flashLockSetPasswordLocked h hb hm, lockPwdRun_queues hp hd, runs_protOps h]
  · rw [← runs_hasPermanent h] at hp
    rw [← runs_maskedShut h] at hs
    rw [exec_flashLockSetPermanent h hb hm, lockPermRun_queues hp hs, runs_protOps h]
  · rw [← runs_hasPermanent h] at hp
    rw [← runs_maskedShut h] at hs
    rw [exec_flashLockSetUnlocked h hb hm, unlockRegionsRun_queues hp hs, runs_protOps h]
  · have hs1 : (List.finRange 16).any (shutOut s1) = false := by rw [runs_frame h]; exact hs
    rw [exec_flashLockSetPassword h hm, setPassRun_queues hs1, runs_serial h]
  · rw [← runs_hasPermanent h] at hp
    refine ⟨_, flashLock_permanent h hb hp hi, ?_⟩
    obtain ⟨n, hn⟩ := permanentFault_eq hp
    rw [hn, endWith_protectedFault_fls, ← runs_fls h]
    exact ⟨rfl, bitAt_orBit _ (by decide)⟩
  · refine ⟨_, exec_flashProgramDone ha, ?_⟩
    rw [programDone_append hi ho hd (fun _ _ => FlashOp.noConfusion) fun _ => FlashOp.noConfusion, appendOp]
    obtain ⟨hprot, hwords⟩ := setProt_fls st (s := countStall s) hn
    exact ⟨hprot, rfl, hwords⟩
  · refine ⟨_, exec_flashProgramDone ha, ?_⟩
    rw [programDone_append hi ho hd (fun _ _ => FlashOp.noConfusion) fun _ => FlashOp.noConfusion, appendOp,
      setProt_permanent (s := countStall s) st hn]
    exact ⟨rfl, rfl⟩
  · refine ⟨_, exec_flashProgramDone ha, ?_⟩
    rw [programDone_append hi ho hd (fun _ _ => FlashOp.noConfusion) fun _ => FlashOp.noConfusion, appendOp, hkAppend_fls]
    exact ⟨rfl, rfl, rfl⟩

end Sys2Proof.Machine
end

section
/-! The operations of the flash die and the retirement of blocks (R340, R343 to R345, R351 to R353). -/

namespace Sys2Proof.Machine

/-! ### Tables of optional values -/

theorem tabFind_put {α : Type} (k : Nat) (x : α) (a : Nat) (t : List (Nat × α)) :
    tabFind a (tabPut k x t) = if a = k then some x else tabFind a t := by
  induction t with
  | nil => grind [tabPut, tabFind]
  | cons p t ih => grind [tabPut, tabFind]

/-! ### Issuing (R340, R345) -/

theorem exec_flashQueueIssue {s : State} (ha : awake s = true) (hc : s.pwr.coreDown = false) :
    exec .flashQueueIssue s = .next (issueFirst (joinQueue s)) := by
  change execFlashQueueIssue s = _
  simp only [execFlashQueueIssue, ha, hc, Bool.not_false, Bool.and_self, if_true, issueNext]

/-- The first task of the highest class goes to the die, which begins its first operation. -/
theorem issueFirst_begins {u : FlashTask} {o : FlashOp} {rest : List FlashOp} {s : State} (hi : s.fls.issued = none)
    (hn : nextTask s.fls.tasks = some u) (ho : u.ops = o :: rest) : issueFirst s =
      beginOp { s with fls := { s.fls with tasks := takeTask u s.fls.tasks, issued := some u } } := by
  simp only [issueFirst, hi, hn, ho, List.isEmpty_cons, Bool.false_eq_true, if_false]

theorem beginOp_erase {u : FlashTask} {b : Nat} {rest : List FlashOp} {s : State} (hi : s.fls.issued = some u)
    (ho : u.ops = .erase b :: rest) : beginOp s = countErase b (loseOld u.done s) := by
  simp only [beginOp, hi, ho]

theorem beginOp_other {u : FlashTask} {o : FlashOp} {rest : List FlashOp} {s : State} (hi : s.fls.issued = some u)
    (ho : u.ops = o :: rest) (he : ∀ b, o ≠ .erase b) : beginOp s = s := by
  cases o with
  | erase b => exact absurd rfl (he b)
  | _ => simp only [beginOp, hi, ho]

theorem startExport_none {j : Fin 4} {s : State} (h : exportOf j s = none) : startExport j s = s := by
  simp only [startExport, h]

theorem joinQueue_empty {s : State} (he : s.sq.exports = vrep 4 none) (hj : s.jobs = vrep 4 none) (hm : s.fls.marks = []) :
    joinQueue s = s := by
  have hexp (j : Fin 4) : startExport j s = s := startExport_none (by
    simp only [exportOf, he, hj, vrep_get, Option.bind_none, Option.filter_none])
  simp only [joinQueue, eachSlot, hexp, nextRefresh, hm, List.find?_nil]

/-- The ERASE word and the count that precede an erase (R344). -/
theorem countErase_fls (b : Nat) (s : State) (h : s.fls.hkLog.length < 2048) : (countErase b s).fls = { s.fls with
    eraseCounts := tabPut (physOf s b) (tabGet 0 (physOf s b) s.fls.eraseCounts + 1) s.fls.eraseCounts,
    hkLog := s.fls.hkLog ++ [⟨false, seqAfter (s.fls.hkLog.getLast?.map (·.seq)),
      .erase b (tabGet 0 (physOf s b) s.fls.eraseCounts + 1)⟩],
    ctrs := upd s.fls.ctrs 2 (ctrAdd · 1) } := by
  have hc := tabGet_put 0 (physOf s b) (tabGet 0 (physOf s b) s.fls.eraseCounts + 1) (physOf s b) s.fls.eraseCounts
  rw [if_pos rfl] at hc
  simp only [countErase, hkAppend, raiseCount, logWords, h, if_true, bumpFls_own]
  simp only [physOf] at hc ⊢
  rw [hc]

/-! ### Programming and erasing (R339, R343) -/

theorem exec_flashEraseDone {ok m : Bool} {s : State} (h : awake s = true) :
    exec (.flashEraseDone ok m) s = .next (eraseDone ok m s) := if_pos h

section
variable {u : FlashTask} {o : FlashOp} {rest : List FlashOp} {s : State}

/-- A task goes on with its next operation, unless it yields. -/
theorem opDone_goesOn (ho : u.ops.tail = o :: rest) (hr : u.run + 1 < 64) (he : ∀ b, o ≠ .erase b) :
    opDone u false s = { s with fls := { s.fls with issued := some { u with ops := o :: rest, run := u.run + 1 } } } := by
  simp only [opDone, ho, Bool.false_or, decide_eq_true_eq, if_neg (Nat.ne_of_lt hr)]
  exact beginOp_other rfl rfl he

/-- R345: a task yields after each block erased. -/
theorem opDone_yields (ho : u.ops.tail = o :: rest) : opDone u true s = { s with fls := { s.fls with
    issued := none, tasks := { u with ops := o :: rest, run := 0 } :: s.fls.tasks } } := by
  simp only [opDone, ho, Bool.true_or, if_true]

end

/-- The blocks that an operation of the die which ends well changes. -/
abbrev dieBlocks : Blocks := { fls := true, evt := true, free := true }

theorem within_countStall {s : State} (ha : awake s = true) : Within dieBlocks s (countStall s) :=
  (Within.refl dieBlocks s).set_free.bumpFls ha _ _

theorem within_noteWritten {b : Blocks} {s t : State} (u : FlashTask) (h : Within b s t) (hf : b.fls = true) :
    Within b s (noteWritten u t) := by
  unfold noteWritten
  split
  · exact h.set_fls hf
  · exact h

/-- Of the flash, the count of an image session's words changes the session alone. -/
theorem noteWritten_fls (u : FlashTask) (s : State) :
    (noteWritten u s).fls = { s.fls with img := (noteWritten u s).fls.img } := by
  unfold noteWritten
  split <;> rfl

theorem programDone_good {u : FlashTask} {a : Nat} {d : List Byte} {rest : List FlashOp} {s : State} (m : Bool)
    (hi : s.fls.issued = some u) (ho : u.ops = .program a d :: rest) (hw : tabFind a s.fls.words = none) :
    programDone true m s = programEnds u a d m (countStall s) := by
  have hw' : tabFind a (countStall s).fls.words = none := hw
  simp only [programDone, hi, ho, hw', Option.isSome_none, Bool.false_eq_true, if_false, if_true]

/-- The state in which the word at a has been programmed with d. -/
def programmed (u : FlashTask) (a : Nat) (d : List Byte) (s : State) : State :=
  noteWritten u (bumpFls 2 1 { s with fls := { s.fls with words := tabPut a (.good d) s.fls.words } })

theorem programEnds_unverified {u : FlashTask} (a : Nat) (d : List Byte) (m : Bool) (s : State) (hv : verifies u = false) :
    programEnds u a d m s = opDone u false (programmed u a d s) := by
  simp only [programEnds, hv, Bool.false_eq_true, if_false, programmed]

theorem programmed_fls (u : FlashTask) (a : Nat) (d : List Byte) (s : State) : (programmed u a d s).fls = { s.fls with
    words := tabPut a (.good d) s.fls.words, ctrs := upd s.fls.ctrs 2 (ctrAdd · 1), img := (programmed u a d s).fls.img } :=
  noteWritten_fls ..

theorem programmed_words (u : FlashTask) (a : Nat) (d : List Byte) (s : State) :
    (programmed u a d (countStall s)).fls.words = tabPut a (.good d) s.fls.words := by rw [programmed_fls]; rfl

theorem programmed_ctr (u : FlashTask) (a : Nat) (d : List Byte) (s : State) :
    (programmed u a d (countStall s)).fls.ctrs[2] = ctrAdd s.fls.ctrs[2] 1 := by
  rw [programmed_fls]
  exact (upd_same ..).trans (congrArg (ctrAdd · 1) (upd_other _ 6 2 _ (by decide)))

theorem within_programmed {s t : State} (u : FlashTask) (a : Nat) (d : List Byte) (ha : awake s = true)
    (h : Within dieBlocks s t) : Within dieBlocks s (programmed u a d t) :=
  within_noteWritten u (h.set_fls.bumpFls ha 2 1) rfl

theorem programDone_reprogram {u : FlashTask} {a : Nat} {d : List Byte} {rest : List FlashOp} {w : WordState} {s : State}
    (ok m : Bool) (hi : s.fls.issued = some u) (ho : u.ops = .program a d :: rest) (hw : tabFind a s.fls.words = some w) :
    programDone ok m s = reprogram u a (countStall s) := by
  have hw' : tabFind a (countStall s).fls.words = some w := hw
  simp only [programDone, hi, ho, hw', Option.isSome_some, if_true]

theorem setBank_fls (x : Bank) (st : BankState) (s : State) : (setBank x st s).fls = s.fls := by cases x <;> rfl

theorem failImage_fls (u : FlashTask) (s : State) : (failImage u s).fls = { s.fls with img := (failImage u s).fls.img } := by
  unfold failImage
  split
  · rw [setBank_fls]
  · rfl

/-- A task that fails leaves the words, the faults and the tasks that wait; the die is free. -/
theorem failTask_fls {u : FlashTask} (s : State) (hc : claimedSpare u = []) (hk : ∀ slot v, u.done ≠ .keyStore slot v) :
    (failTask u s).fls = { s.fls with issued := none, img := (failTask u s).fls.img } := by
  have hg : giveBack u { s with fls := { s.fls with issued := none } } = { s with fls := { s.fls with issued := none } } := by
    simp [giveBack, hc]
  have hf := failImage_fls u (endOpt u.pend stMedia { s with fls := { s.fls with issued := none } })
  rw [endOpt_fls] at hf
  simp only [failTask, hg]
  split
  next hd => exact absurd hd (hk _ _)
  · rw [markExport_fls]; exact hf
  · exact hf

/-- The state in which block b has been erased. -/
def erased (b : Nat) (s : State) : State := bumpFls 3 1 { s with fls := { s.fls with words := dropWords b s.fls.words } }

theorem erased_ctr (b : Nat) (s : State) : (erased b (countStall s)).fls.ctrs[3] = ctrAdd s.fls.ctrs[3] 1 :=
  (upd_same ..).trans (congrArg (ctrAdd · 1) (upd_other _ 6 3 _ (by decide)))

theorem within_erased {s : State} (b : Nat) (ha : awake s = true) : Within dieBlocks s (erased b (countStall s)) :=
  (within_countStall ha).set_fls.bumpFls ha 3 1

theorem eraseEnds_unverified {u : FlashTask} {b : Nat} {s : State} (m : Bool) (hv : verifies u = false)
    (hn : tabGet 0 (physOf s b) s.fls.eraseCounts < 100000) : eraseEnds u b m s = opDone u true (erased b s) := by
  have hv' : ¬ (verifies u && !m) = true := by simp [hv]
  have hn' : ¬ decide (100000 ≤ tabGet 0 (physOf (erased b s) b) (erased b s).fls.eraseCounts) = true := by
    rw [decide_eq_true_eq]
    exact Nat.not_le.mpr hn
  exact (if_neg hv').trans (if_neg hn')

theorem eraseDone_good {u : FlashTask} {b : Nat} {rest : List FlashOp} {s : State} (m : Bool)
    (hi : s.fls.issued = some u) (ho : u.ops = .erase b :: rest) :
    eraseDone true m s = eraseEnds u b m (countStall s) := by
  simp only [eraseDone, hi, ho, if_true]

/-! ### Retirement (R351 to R353) -/

/-- t has the mapping, the spares and the lost blocks of s, and its bad-block table. -/
structure SameMap (s t : State) : Prop where
  map : t.fls.map = s.fls.map
  spares : t.fls.spares = s.fls.spares
  lost : t.fls.lost = s.fls.lost
  bbt : t.fls.bbt = s.fls.bbt
  poolEmpty : t.fls.poolEmpty = s.fls.poolEmpty

theorem countErase_sameMap (b : Nat) (s : State) : SameMap s (countErase b s) := by
  have h := hkAppend_fls (.erase b (tabGet 0 (tabGet b b (raiseCount b s.fls).map) (raiseCount b s.fls).eraseCounts))
    { s with fls := raiseCount b s.fls }
  constructor <;> rw [countErase, h] <;> rfl

theorem SameMap.trans {s t u : State} (h : SameMap s t) (k : SameMap t u) : SameMap s u :=
  ⟨k.map.trans h.map, k.spares.trans h.spares, k.lost.trans h.lost, k.bbt.trans h.bbt, k.poolEmpty.trans h.poolEmpty⟩

theorem bbCompact_sameMap (c : Fin 2) (s : State) : SameMap s (bbCompact c s) :=
  (countErase_sameMap c.val s).trans ⟨rfl, rfl, rfl, rfl, rfl⟩

theorem bbRoom_sameMap (s : State) : SameMap s (bbRoom s) := by
  unfold bbRoom
  split
  · exact ⟨rfl, rfl, rfl, rfl, rfl⟩
  · exact (bbCompact_sameMap 1 s).trans (bbCompact_sameMap 0 _)

/-- The entry of a retirement stands at the end of the bad-block table. -/
theorem noteRetired_fls (c : RetireCause) (b : Nat) (new : Option Nat) (s : State) :
    (noteRetired c b new s).fls.bbt = s.fls.bbt ++ [.grown c b (physOf s b) new] ∧
    (noteRetired c b new s).fls.spares = s.fls.spares ∧ (noteRetired c b new s).fls.lost = s.fls.lost ∧
    (noteRetired c b new s).fls.poolEmpty = s.fls.poolEmpty := by
  obtain ⟨hmap, hspares, hlost, hbbt, hpool⟩ := bbRoom_sameMap s
  rw [noteRetired, post_fls]
  exact ⟨congrArg (· ++ _) hbbt, hspares, hlost, hpool⟩

theorem shrink_fls (b : Nat) (s : State) : (shrink b s).fls = (flsFault 4 b (regionOf b)
    { s with fls := { s.fls with lost := s.fls.lost ++ [b], words := dropWords b s.fls.words } }).fls := post_fls ..

/-- The end of the spare pool is noted once. -/
theorem poolEnd_fls (s : State) : (poolEnd s).fls = { s.fls with poolEmpty := true } := by
  unfold poolEnd
  split
  next h => rw [← h]
  · rw [post_fls]

theorem retire_spare (c : RetireCause) (b sp : Nat) (rest : List Nat) (s : State) (h : s.fls.spares = sp :: rest) :
    retire c b s = (true, mapTo b (physOf s sp) (noteRetired c b (some (physOf s sp))
      (bumpFls 2 (intactWords b s) { s with fls := { s.fls with spares := rest } }))) := by
  simp only [retire, h]

theorem retire_shrinks (c : RetireCause) (b : Nat) (s : State) (h : s.fls.spares = [])
    (hc : codeClass (regionOf b) = false) : retire c b s = (false, shrink b (noteRetired c b none (poolEnd s))) := by
  simp only [retire, h, hc, Bool.not_false, if_true]

theorem donor_poolEnd (s : State) : donor (poolEnd s) = donor s := by
  simp only [donor, lastBlock, poolEnd_fls]

theorem retire_donor (c : RetireCause) (b d : Nat) (s : State) (h : s.fls.spares = [])
    (hc : codeClass (regionOf b) = true) (hd : donor s = some d) :
    retire c b s = (true, mapTo b (physOf (poolEnd s) d) (shrink d (noteRetired c b (some (physOf (poolEnd s) d))
      (bumpFls 2 (intactWords b (poolEnd s)) (poolEnd s))))) := by
  simp only [retire, h, hc, donor_poolEnd, hd, Bool.not_true, Bool.false_eq_true, if_false]

/-! ### The obligation -/

/-- Settles O21: one lemma per outcome of the die's operations, and one per place a retired block's content goes to. -/
theorem flashOperationsAndRetirement : Obligations.FlashOperationsAndRetirement := by
  refine ⟨⟨fun u a d rest s j ha hc hj hi hn ho => ?_, fun u b rest s j ha hc hj hi hn ho => ?_, fun b s h => ?_,
      fun _ => joinQueue_empty, fun u a d o rest s ha hi ho hw hv hr he _ => ?_,
      fun u a d rest w ok m s ha hi ho hw hc hk => ?_, fun u b o rest s ha hi ho hv hn => ?_⟩,
    ⟨fun c b sp rest s h => ?_, fun c b s h hc => ?_, fun c b d s h hc hd => ?_⟩⟩
  · subst hj
    rw [exec_flashQueueIssue ha hc, issueFirst_begins hi hn ho]
    exact congrArg _ (beginOp_other rfl ho fun _ => FlashOp.noConfusion)
  · subst hj
    rw [exec_flashQueueIssue ha hc, issueFirst_begins hi hn ho]
    exact congrArg _ (beginOp_erase rfl ho)
  · rw [countErase_fls b s h]
    exact ⟨rfl, ⟨_, rfl, _, rfl⟩, rfl, rfl⟩
  · have hgo := opDone_goesOn (s := programmed u a d (countStall s)) (by rw [ho]; rfl) hr he
    refine ⟨_, (exec_flashProgramDone ha).trans (congrArg _ ((programDone_good true hi ho hw).trans
      ((programEnds_unverified a d true _ hv).trans hgo))), ?_, fun b hb => ?_, rfl, programmed_ctr u a d s,
      (within_programmed u a d ha (within_countStall ha)).set_fls⟩
    · exact (congrArg (tabFind a) (programmed_words u a d s)).trans ((tabFind_put ..).trans (if_pos rfl))
    · exact (congrArg (tabFind b) (programmed_words u a d s)).trans ((tabFind_put ..).trans (if_neg hb))
  · refine ⟨_, (exec_flashProgramDone ha).trans (congrArg _ (programDone_reprogram ok m hi ho hw)), ?_⟩
    have hf := failTask_fls (post (ev 0x0201) (flsFault 0 (a / 2048) (regionOf (a / 2048)) (countStall s))) hc hk
    rw [post_fls] at hf
    rw [reprogram, hf]
    exact ⟨rfl, rfl, bitAt_orBit _ (by decide)⟩
  · refine ⟨_, (exec_flashEraseDone ha).trans (congrArg _ ((eraseDone_good true hi ho).trans
      ((eraseEnds_unverified (s := countStall s) true hv hn).trans (opDone_yields (by rw [ho]; rfl))))), rfl, rfl, rfl,
      erased_ctr b s, (within_erased b ha).set_fls⟩
  · have hr := noteRetired_fls c b (some (physOf s sp))
      (bumpFls 2 (intactWords b s) { s with fls := { s.fls with spares := rest } })
    obtain ⟨hbbt, hspares, hlost, -⟩ := hr
    rw [retire_spare c b sp rest s h]
    exact ⟨rfl, hspares, hbbt, hlost⟩
  · obtain ⟨hbbt, -, hlost, -⟩ := noteRetired_fls c b none (poolEnd s)
    rw [retire_shrinks c b s h hc, shrink_fls]
    simp only [flsFault, hbbt, hlost, physOf, poolEnd_fls, and_self]
  · obtain ⟨hbbt, -, hlost, hpool⟩ := noteRetired_fls c b (some (physOf (poolEnd s) d))
      (bumpFls 2 (intactWords b (poolEnd s)) (poolEnd s))
    rw [retire_donor c b d s h hc hd]
    simp only [mapTo, shrink_fls, flsFault, hlost, hpool, bumpFls_own, poolEnd_fls, and_self]

end Sys2Proof.Machine
end

section
/-! Updates of a region and operator files over the management port (R341, R387, R398, R412). -/

namespace Sys2Proof.Machine

open Sys2Proof.Claims

/-! ### What a command that runs finds of the flash -/

section
variable {c : Cmd} {op : Byte} {s s1 : State} (h : Runs c op s s1)
include h

theorem runs_fwTask : fwTask s1 = fwTask s := by rw [fwTask, runs_fls h]; rfl

theorem runs_sec : s1.sec = s.sec := by rw [runs_frame h]

theorem runs_badIn (a n : Nat) : badIn s1 a n = badIn s a n := by rw [badIn, runs_fls h]; rfl

theorem runs_flashByte (a : Nat) : flashByte s1 a = flashByte s a := by rw [flashByte, runs_fls h]; rfl

theorem runs_userWriteOps (base off : Nat) (data : List Byte) :
    userWriteOps s1 base off data = userWriteOps s base off data := by
  rw [runs_frame h]
  rfl

end

/-! ### A region's content is replaced -/

theorem erase_not_mem_writeOps (b : Nat) : ∀ (n w : Nat) (data : List Byte), FlashOp.erase b ∉ writeOps w n data
  | 0, _, _ => List.not_mem_nil
  | n + 1, w, data => by
    have ih := erase_not_mem_writeOps b n (w + 1) (data.drop 32)
    simp [writeOps, ih]

theorem erase_mem_eraseOps {b base n : Nat} : FlashOp.erase b ∈ eraseOps base n ↔ base ≤ b ∧ b < base + n := by
  simp only [eraseOps, List.mem_map, List.mem_range, FlashOp.erase.injEq]
  constructor
  · rintro ⟨i, hi, rfl⟩
    omega
  · intro h
    exact ⟨b - base, by omega, by omega⟩

section
variable {g : Nat} {data : List Byte} {s : State} (d : FlashDone) (p : Pend)

theorem replaceRegion_shut (hr : regionShut g s = true) :
    replaceRegion g data d p s = endWith p stProtected (protectedFault g s) := if_pos hr

theorem replaceRegion_queues (hr : regionShut g s = false) (hn : blocksFor data.length ≤ regionBlocks g s) :
    replaceRegion g data d p s = queueTask ⟨3, eraseOps (regionBase g) (blocksFor data.length) ++
      writeOps (regionBase g * 2048) (wordsFor data.length) data, d, some p, 0⟩ (startPending p s) := by
  simp only [replaceRegion, hr, Bool.false_eq_true, if_false, if_neg (Nat.not_lt.mpr hn)]

end

/-! ### Operator files -/

theorem exec_userFile {c : Cmd} {s s1 : State} (h : Runs c 0x88 s s1) (r : Fin 4) (op : UserOp) :
    exec (.userFile c r op) s = .next (userFileRun r op (pendOf c 0x88 s1) s1) := runCmd_of_runs h _

section
variable {r : Fin 4} {off len : Nat} {data : List Byte} {s : State} (p : Pend)

theorem userFileRun_outside (h : regionBlocks (12 + r.val) s * 65536 < off + len) :
    userFileRun r (.read off len) p s = endWith p stBadArg s := if_pos h

theorem userFileRun_reads (h : off + len ≤ regionBlocks (12 + r.val) s * 65536)
    (hb : badIn s (regionBase (12 + r.val) * 65536 + off) len = []) : userFileRun r (.read off len) p s =
      respond p ((List.range len).flatMap fun i => flashByte s (regionBase (12 + r.val) * 65536 + off + i)) s := by
  simp only [userFileRun, if_neg (Nat.not_lt.mpr h), userRead, hb]

theorem userFileRun_writes (hr : regionShut (12 + r.val) s = false)
    (h : off + data.length ≤ regionBlocks (12 + r.val) s * 65536) : userFileRun r (.write off data) p s =
      queueTask ⟨3, userWriteOps s (regionBase (12 + r.val)) off data, .user, some p, 0⟩ (startPending p s) := by
  simp only [userFileRun, hr, Bool.false_eq_true, if_false, if_neg (Nat.not_lt.mpr h)]

end

/-- Settles O28: each update is `replaceRegion` of its region, and `replaceRegion` and `userFileRun` have a lemma per
    outcome. -/
theorem regionUpdatesAndUserFilesComplete : Obligations.RegionUpdatesAndUserFilesComplete := by
  refine ⟨⟨fun c f bs s s1 h hf => ?_, fun c root bs s s1 h => runCmd_of_runs h _, fun c serial bs s s1 h => runCmd_of_runs h _,
      fun c claim ports bs s s1 h => runCmd_of_runs h _, fun g bs d p s hr hn => ?_, fun g bs d p s hr => ?_⟩,
    ⟨fun c r off len s s1 h _ hl hb => ?_, fun c r off data s s1 h hr hl => ?_, fun c r off len s s1 h hl => ?_⟩⟩
  · have hf1 : fwTask s1 = false := (runs_fwTask h).trans hf
    refine (runCmd_of_runs h _).trans ?_
    simp only [fwUpdateRun, hf1, Bool.false_eq_true, if_false, runs_sec h]
  · rw [replaceRegion_queues d p hr hn]
    refine ⟨⟨3, eraseOps (regionBase g) (blocksFor bs.length) ++ writeOps (regionBase g * 2048) (wordsFor bs.length) bs, d,
      some p, 0⟩, by rw [queueTask, startPending_fls], rfl, rfl, rfl, fun b => ?_⟩
    simp only [List.mem_append, erase_not_mem_writeOps, or_false, erase_mem_eraseOps]
  · rw [replaceRegion_shut d p hr, endWith_protectedFault_fls]
    exact ⟨rfl, bitAt_orBit _ (by decide)⟩
  · rw [← runs_regionBlocks h] at hl
    rw [← runs_badIn h] at hb
    rw [exec_userFile h, userFileRun_reads _ hl hb, respond, runs_aon h]
    simp only [runs_flashByte h]
    rfl
  · rw [← runs_regionBlocks h] at hl
    rw [← runs_regionShut h] at hr
    rw [exec_userFile h, userFileRun_writes _ hr hl, runs_userWriteOps h]
  · rw [← runs_regionBlocks h] at hl
    rw [exec_userFile h, userFileRun_outside _ hl]

end Sys2Proof.Machine
end

section
/-! The doorbell, acknowledgements, the vectors and unknown opcodes (R368 to R383, R391), and where results go (R375 to R378,
R386). -/

namespace Sys2Proof.Machine

open Sys2Proof.Claims

/-! ### The doorbell (R372) -/

theorem exec_cmdDoorbell {s : State} (q : BitVec 16) (h : hostPath s = true) :
    exec (.cmdDoorbell q) s = .next (ringDoorbell q s) := if_pos h

theorem ringDoorbell_taken {q : BitVec 16} {s : State} (h : tagTaken q s.hif = true) :
    ringDoorbell q s = post { ev 0x0681 with info := q.setWidth 64 } (hifFault 0 q s) := if_pos h

theorem ringDoorbell_free {q : BitVec 16} {s : State} (h : tagTaken q s.hif = false) : ringDoorbell q s =
    bumpHif 0 1 { s with hif := { s.hif with queue := s.hif.queue ++ [latched q s.hif] } } := by
  simp only [ringDoorbell, h, Bool.false_eq_true, if_false]

theorem hifFault_info (q : BitVec 16) (s : State) : (hifFault 0 q s).hif.faultInfo = q.setWidth 32 := by
  refine BitVec.eq_of_toNat_eq ?_
  simp only [hifFault, BitVec.toNat_ofNat, BitVec.toNat_setWidth, Nat.zero_mul, Nat.add_zero]

/-! ### Acknowledgements (R377, R378) -/

theorem exec_hifResAck {s : State} (q : BitVec 16) (fin : Bool) (h : hostPath s = true) :
    exec (.hifResAck q fin) s = .next (ackResult q fin s) := if_pos h

theorem ackResult_none {q : BitVec 16} {fin : Bool} {s : State} (h : ackSlot q fin s.hif.slots = none) :
    ackResult q fin s = hifFault 1 q s := by simp only [ackResult, h]

theorem ackResult_some {q : BitVec 16} {fin : Bool} {i : Fin 16} {s : State} (h : ackSlot q fin s.hif.slots = some i) :
    ackResult q fin s = freeResult i s := by simp only [ackResult, h]

theorem freeResult_empty (i : Fin 16) {s : State} (h : s.hif.ring = []) :
    freeResult i s = { s with hif := { s.hif with slots := s.hif.slots.set i none } } := by simp only [freeResult, h]

theorem freeResult_refills (i : Fin 16) {r : Result} {rest : List Result} {s : State} (h : s.hif.ring = r :: rest) :
    freeResult i s = fire 1 { s with hif := { s.hif with slots := s.hif.slots.set i (some r), ring := rest } } := by
  simp only [freeResult, h]

/-- The first index that meets a test. -/
theorem find?_finRange {n : Nat} {f : Fin n → Bool} {i : Fin n} (h : (List.finRange n).find? f = some i) :
    f i = true ∧ ∀ k : Fin n, k < i → f k = false := by
  obtain ⟨hi, k, hk, rfl, hlt⟩ := List.find?_eq_some_iff_getElem.mp h
  refine ⟨hi, fun j hj => ?_⟩
  have hjk : j.val < k := by simpa [Fin.lt_def] using hj
  simpa using hlt j.val hjk

theorem ackSlot_first {q : BitVec 16} {fin : Bool} {i : Fin 16} {v : Vector (Option Result) 16}
    (h : ackSlot q fin v = some i) : (∃ r, v[i] = some r ∧ r.seq = q ∧ r.final = fin) ∧
    ∀ k : Fin 16, k < i → ∀ r, v[k] = some r → ¬ (r.seq = q ∧ r.final = fin) := by
  obtain ⟨hi, hlt⟩ := find?_finRange h
  constructor
  · split at hi
    next r hr => exact ⟨r, hr, by simpa using hi⟩
    next => exact absurd hi Bool.false_ne_true
  · intro k hk r hr
    have hf := hlt k hk
    simpa only [hr, Bool.and_eq_false_iff, beq_eq_false_iff_ne, ne_eq, ← not_and_or] using hf

/-! ### Vectors (R383) -/

theorem unmask_fields (m : MsixVec) : (unmask m).masked = false ∧ (unmask m).pending = false ∧
    (unmask m).sent = m.sent + (if m.pending then 1 else 0) := by
  unfold unmask
  split
  next => exact ⟨rfl, rfl, rfl⟩
  next hp => exact ⟨rfl, Bool.eq_false_of_not_eq_true hp, rfl⟩

/-! ### Unknown opcodes (R374) -/

theorem exec_unknownOpcode {c : Cmd} {op : Byte} {s s1 : State} (h : takeCmd c op s = some s1)
    (hg : gateStatus c.origin op s1 = none) (hk : opKnown c.origin op = false) :
    exec (.unknownOpcode c op) s = .next (endWith (pendOf c op s1) stBadArg s1) := by
  change execUnknownOpcode c op s = _
  simp only [execUnknownOpcode, runCmd, h, hg, hk, Bool.not_false, Bool.or_true, Bool.false_eq_true, if_false, if_true]

/-- Settles O3. -/
theorem hostInterfaceMovesCommandsAndResults : Obligations.HostInterfaceMovesCommandsAndResults := by
  refine ⟨⟨fun q s h ht => ?_, fun q s h ht => ?_⟩,
    ⟨fun q fin i s h ha hr => ?_, fun q fin i r rest s h ha hr => ?_, fun q fin s h ha => ?_, fun _ _ _ _ => ackSlot_first⟩,
    ⟨fun w g s h hf => ?_, fun s h => if_pos h, fun v s h => ?_, fun _ _ _ _ => exec_unknownOpcode⟩⟩
  · have ha := awake_of_hostPath h
    refine ⟨_, (exec_cmdDoorbell q h).trans (congrArg _ (ringDoorbell_free ht)), rfl, upd_same .., ?_⟩
    exact bumpHif_rec 0 1 _ ha
  · have ha := awake_of_hostPath h
    refine ⟨_, (exec_cmdDoorbell q h).trans (congrArg _ (ringDoorbell_taken ht)), ?_, ?_, fun hr => ?_, ?_⟩
    · rw [post_hif]; exact bitAt_orBit _ (by decide)
    · rw [post_hif]; exact hifFault_info q s
    · exact post_room _ (hifFault 0 q s) ha hr
    · refine (post_rec _ (hifFault 0 q s) ha).trans ?_
      rw [post_hif]
      rfl
  · rw [exec_hifResAck q fin h, ackResult_some ha, freeResult_empty i hr]
  · rw [exec_hifResAck q fin h, ackResult_some ha, freeResult_refills i hr]
  · exact ⟨_, (exec_hifResAck q fin h).trans (congrArg _ (ackResult_none ha)), bitAt_orBit _ (by decide), rfl⟩
  · exact if_pos (by rw [h, hf]; rfl)
  · obtain ⟨hm, hp, hs⟩ := unmask_fields s.hif.msix[v]
    have hv := upd_same s.hif.msix v unmask
    exact ⟨_, if_pos h, hv ▸ hm, hv ▸ hp, hv ▸ hs, fun u hu => upd_other _ v u _ hu, rfl⟩

/-! ### Where results go (R376 to R378, R386) -/

theorem putResult_slot {i : Fin 16} {s : State} (r : Result) (h : freeSlot s.hif.slots = some i) :
    putResult r s = fire 1 { s with hif := { s.hif with slots := s.hif.slots.set i (some r) } } := by
  simp only [putResult, h]

section
variable {s : State} (r : Result) (h : freeSlot s.hif.slots = none)
include h

theorem putResult_ring (hr : s.hif.ring.length < 64) :
    putResult r s = { s with hif := { s.hif with ring := s.hif.ring ++ [r] } } := by
  simp only [putResult, h, if_pos hr]

theorem putResult_dropped (hr : 64 ≤ s.hif.ring.length) : (putResult r s).hif = (bumpHif 1 1 (hifFault 2 r.seq s)).hif := by
  simp only [putResult, h, if_neg (Nat.not_lt.mpr hr), post_hif]

end

theorem fire_running (v : Fin 4) (s : State) : (fire v s).hif.running = s.hif.running := by
  unfold fire
  split <;> rfl

/-- A result leaves the tags that run. -/
theorem putResult_running (r : Result) (s : State) : (putResult r s).hif.running = s.hif.running := by
  unfold putResult
  split
  · rw [fire_running]
  · split
    · rfl
    · rw [post_hif]; rfl

/-- The final result of a mailbox command frees its tag. -/
theorem endWith_running {p : Pend} (st : Byte) {s : State} (ho : p.origin = .mailbox) (hg : p.gen = s.hif.gen) :
    (endWith p st s).hif.running = s.hif.running.filter (· ≠ p.seq) := by
  simp only [endWith, answer, ho, hg, if_true, putResult_running]

/-- Settles O4. -/
theorem resultsGoWhereTheSpecSends : Obligations.ResultsGoWhereTheSpecSends := by
  refine ⟨fun r i s => putResult_slot r, fun r s => putResult_ring r, fun r s h hr => ?_, fun p st s ho hg => ?_,
    fun p st s ho hs => ?_, fun p st fin a b c d s ha => ?_⟩
  · rw [putResult_dropped r h hr]
    exact ⟨bitAt_orBit _ (by decide), rfl, rfl⟩
  · rw [endWith_running st ho hg]
    simp
  · simp only [endWith, answer, ho, hs, if_true]
  · exact ⟨_, _, _, (Within.refl { hif := true, mgmt := true, evt := true } s).answer ha p st fin a b c d⟩

end Sys2Proof.Machine
end

section
/-! The sideband (R384). -/

namespace Sys2Proof.Machine

theorem leNat_leBytes : ∀ (n x : Nat), leNat (leBytes n x) = x % 256 ^ n
  | 0, x => by simp [leBytes, leNat, Nat.mod_one]
  | n + 1, x => by
    rw [leBytes, leNat, leNat_leBytes n, BitVec.toNat_ofNat]
    change x % 256 + 256 * (x / 256 % 256 ^ n) = x % 256 ^ (n + 1)
    rw [Nat.pow_succ', Nat.mod_mul]

theorem stateCode_le (p : PState) : stateCode p ≤ 4 := by cases p <;> decide

theorem stateOfCode_lt {n : Nat} {g : PState} (h : stateOfCode n = some g) : n < 5 := by
  unfold stateOfCode at h
  split at h <;> simp_all

theorem stateOfCode_none {n : Nat} (h : 5 ≤ n) : stateOfCode n = none := by
  cases e : stateOfCode n with
  | none => rfl
  | some g => exact absurd (stateOfCode_lt e) (Nat.not_lt.mpr h)

theorem powerByte_toNat (s : State) : (powerByte s).toNat =
    stateCode s.pwr.state + 8 * stateCode s.pwr.target + (if s.pwr.transition then 64 else 0) := by
  have h1 := stateCode_le s.pwr.state
  have h2 := stateCode_le s.pwr.target
  rw [powerByte, BitVec.toNat_ofNat, Nat.mod_eq_of_lt] <;> split <;> omega

/-- The low half of a word, as the sideband sends it. -/
theorem leBytes_two (w : Word) : leBytes 2 w.toNat = [w.setWidth 8, (w >>> 8).setWidth 8] := by
  have h1 : BitVec.ofNat 8 w.toNat = w.setWidth 8 := BitVec.eq_of_toNat_eq (by simp)
  have h2 : BitVec.ofNat 8 (w.toNat / 256) = (w >>> 8).setWidth 8 :=
    BitVec.eq_of_toNat_eq (by simp [Nat.shiftRight_eq_div_pow])
  rw [leBytes, leBytes, leBytes, h1, h2]

section
variable {s : State}

theorem exec_powerSet (d : Byte) {g : PState} (h : sidebandOn s = true) (hg : stateOfCode d.toNat = some g) :
    exec (.powerSet d true) s = .next (requestPower g none (sbAnswer (some []) s)) := by
  change execPowerSet d true s = _
  have hd : ¬ 8 ≤ d.toNat := by have := stateOfCode_lt hg; omega
  simp [execPowerSet, h, hg, hd]

/-- A bad PEC, a reserved bit and a code of no state are not acknowledged. -/
theorem exec_powerSet_nack {d : Byte} {ok : Bool} (h : sidebandOn s = true) (hd : ok = false ∨ 5 ≤ d.toNat) :
    exec (.powerSet d ok) s = .next (sbAnswer none s) := by
  change execPowerSet d ok s = _
  unfold execPowerSet
  rw [h, if_neg (by decide)]
  split
  · rfl
  next hc =>
    have hok : ok = true ∧ d.toNat < 8 := by simpa using hc
    rw [stateOfCode_none (hd.resolve_left (by rw [hok.1]; decide))]

theorem sideband_off (d : Byte) (ok : Bool) (h : sidebandOn s = false) : exec (.powerSet d ok) s = .next s ∧
    exec .powerGet s = .next s ∧ exec .wakeCause s = .next s ∧ exec .ident s = .next s := by
  have hn : ¬ sidebandOn s = true := by rw [h]; decide
  exact ⟨if_pos (by rw [h]; rfl), if_neg hn, if_neg hn, if_neg hn⟩

end

/-- Settles O12: each answer is read off the registers, and `stateOfCode` says which codes POWER_SET knows. -/
theorem sidebandCommandsAnswer : Obligations.SidebandCommandsAnswer := by
  refine ⟨fun s h => ⟨powerByte s, if_pos h, powerByte_toNat s⟩, fun s h => ?_, fun s h => ?_,
    fun d g s h hg => exec_powerSet d h hg, fun d ok s h hd => exec_powerSet_nack h hd, fun d ok s h => sideband_off d ok h⟩
  · rw [← leBytes_two]
    exact if_pos h
  · refine ⟨leBytes 4 (glbId s.part).toNat, if_pos h, leBytes_length .., ?_⟩
    rw [leNat_leBytes]
    exact Nat.mod_eq_of_lt (glbId s.part).isLt

end Sys2Proof.Machine
end

section
/-! Sessions of the management port, telemetry, the log and noise capture (R207, R385 to R388, R412, R496). -/

namespace Sys2Proof.Machine

open Sys2Proof.Claims

/-! ### The handshake (R385, R412) -/

section
variable {s : State} (hu : mgmtUp s = true) (ho : mgmtOpen s = false) (ht : tooSoon s = false)
include hu ho ht

theorem exec_mgmtSessionOpen (who : Client) : exec (.mgmtSessionOpen who) s =
    .next (handshake who { s with mgmt := { s.mgmt with lastTry := s.aon.time, lastUse := s.aon.time } }) :=
  if_pos (by rw [hu, ho, ht]; rfl)

end

theorem exec_mgmtSessionOpen_tooSoon (who : Client) {s : State} (ht : tooSoon s = true) :
    exec (.mgmtSessionOpen who) s = .next s :=
  if_neg (by rw [ht, Bool.not_true, Bool.and_false]; decide)

section
variable {s : State}

theorem handshake_operator (n : DWord) {root : DWord} (h : s.fls.operatorRoot = some root) :
    handshake (.operator n) s = { s with mgmt := { s.mgmt with session := some n, fails := 0 } } := by
  unfold handshake
  rw [h]

theorem handshake_selfSigned (h : s.fls.operatorRoot = none) :
    handshake .selfSigned s = { s with mgmt := { s.mgmt with selfSigned := true, fails := 0 } } := by
  unfold handshake
  rw [h]

theorem handshake_unrooted {root : DWord} (h : s.fls.operatorRoot = some root) :
    handshake .selfSigned s = handshakeFails s := by
  unfold handshake
  rw [h]

end

/-! ### The end of a session (R385) -/

/-- Ending the debug session of a management session that ends. -/
theorem closeDebug_mgmt (s : State) : (closeDebug s).mgmt = { s.mgmt with
    debugOpen := false, paths := if s.mgmt.debugOpen then 0 else s.mgmt.paths } := by
  change (closeDebugRecord s).mgmt = _
  unfold closeDebugRecord
  split
  · rfl
  next h => rw [← Bool.eq_false_of_not_eq_true h]

theorem endMgmt_mgmt (s : State) : (endMgmt s).mgmt = { s.mgmt with
    session := none, selfSigned := false, stream := false, debugOpen := false,
        paths := if s.mgmt.debugOpen then 0 else s.mgmt.paths } := by
  simp only [endMgmt, closeDebug_mgmt]

theorem endMgmt_frame (s : State) :
    endMgmt s = { s with mgmt := (endMgmt s).mgmt, aon := (endMgmt s).aon, evt := (endMgmt s).evt } := by
  simp only [endMgmt]
  rw [closeDebug_frame]

theorem exec_mgmtSession_ends {i : Instr} {s : State}
    (hi : (i = .mgmtSessionIdleTimeout ∧ mgmtIdle s = true) ∨ i = .mgmtSessionClose) (ho : mgmtOpen s = true) :
    exec i s = .next (endMgmt s) := by
  rcases hi with ⟨rfl, hidle⟩ | rfl
  · exact if_pos (by rw [ho, hidle]; rfl)
  · exact if_pos ho

/-! ### Noise capture (R207) -/

/-- The state in which noise capture has begun. -/
def capturing (s : State) : State := debugRecord 3 0 { s with rng := { s.rng with state := .capture } }

theorem exec_rngCapture {c : Cmd} {s s1 : State} (h : Runs c 0x89 s s1) (hr : s.rng.state ≠ .failed) :
    exec (.rngCapture c) s = .next (endWith (pendOf c 0x89 s1) stDone (capturing s1)) := by
  have hr1 : ¬ (s1.rng.state == .failed) = true := by rw [runs_frame h]; simpa using hr
  exact (runCmd_of_runs h captureRun).trans (congrArg _ (if_neg hr1))

/-- Settles O26: the handshake has a lemma per outcome, and `endMgmt_mgmt` says what the end of a session leaves. -/
theorem managementSessionsAndReads : Obligations.ManagementSessionsAndReads := by
  refine ⟨⟨fun n root s hu ho ht hr => ?_, fun s hu ho ht hr => ?_, fun root s hu ho ht hr => ?_, fun who s hf hl => ?_,
      fun i s hi ho => ⟨_, exec_mgmtSession_ends hi ho, endMgmt_mgmt s, endMgmt_frame s⟩⟩,
    ⟨fun c s s1 h => runCmd_of_runs h _, fun c s s1 h _ => ?_, fun c s s1 h hr => ?_⟩⟩
  · exact (exec_mgmtSessionOpen hu ho ht _).trans (congrArg _ (handshake_operator n hr))
  · exact (exec_mgmtSessionOpen hu ho ht _).trans (congrArg _ (handshake_selfSigned hr))
  · refine ⟨_, (exec_mgmtSessionOpen hu ho ht _).trans (congrArg _ (handshake_unrooted hr)), ?_, ?_⟩
    · rw [handshakeFails, post_mgmt]
      rfl
    · rw [handshakeFails, post_hif]
      exact upd_same s.hif.ctrs 3 _
  · exact exec_mgmtSessionOpen_tooSoon who (by rw [tooSoon, decide_eq_true hf, decide_eq_true hl]; rfl)
  · refine (runCmd_of_runs h logReadRun).trans ?_
    rw [logReadRun, respond, runs_aon h, runs_fls h]
    rfl
  · have haon : (endWith (pendOf c 0x89 s1) stDone (capturing s1)).aon = (capturing s1).aon :=
      endWith_awake _ _ (capturing s1) (runs_awake h :)
    refine ⟨_, exec_rngCapture h hr, ?_, ?_, ⟨⟨3, 0, s1.mgmt.session.getD 0, s1.aon.time⟩, ?_, rfl⟩, ?_⟩
    · rw [endWith_rng]; rfl
    · rw [haon]; rfl
    · rw [haon, ← runs_aon h]; rfl
    · refine (endWith_frame ..).trans ?_
      generalize endWith (pendOf c 0x89 s1) stDone (capturing s1) = t
      rw [runs_frame h]
      rfl

end Sys2Proof.Machine
end

section
/-! ATTEST and KEY_RELEASE (R399 to R405). -/

namespace Sys2Proof.Machine

open Sys2Proof.Claims

/-! ### What a result leaves of the host interface -/

/-- Of the host interface, a message due on a vector changes the vectors alone. -/
theorem fire_hif (v : Fin 4) (s : State) : (fire v s).hif = { s.hif with msix := (fire v s).hif.msix } := by
  unfold fire
  split <;> rfl

theorem putResult_hif (r : Result) (s : State) : (putResult r s).hif = { s.hif with
    slots := (putResult r s).hif.slots, ring := (putResult r s).hif.ring, fault := (putResult r s).hif.fault,
    faultInfo := (putResult r s).hif.faultInfo, msix := (putResult r s).hif.msix, ctrs := (putResult r s).hif.ctrs } := by
  unfold putResult
  split
  · rw [fire_hif]
  · split
    · rfl
    · rw [post_hif]
      rfl

/-- A result leaves the bounce session and what the device has written to the host. -/
theorem answer_session (p : Pend) (st : Byte) (fin : Bool) (a b c d : Word) (s : State) :
    (answer p st fin a b c d s).hif.session = s.hif.session ∧ (answer p st fin a b c d s).hif.wrote = s.hif.wrote := by
  unfold answer
  split
  · split
    · rw [putResult_hif]
      cases fin <;> exact ⟨rfl, rfl⟩
    · exact ⟨rfl, rfl⟩
  · split <;> exact ⟨rfl, rfl⟩

/-- Of the host interface, taking a command changes the queue and the running tags alone. -/
theorem runs_hif {c : Cmd} {op : Byte} {s s1 : State} (h : Runs c op s s1) :
    s1.hif = { s.hif with queue := s1.hif.queue, running := s1.hif.running } := by
  have ht := h.1
  unfold takeCmd at ht
  split at ht
  · cases ht
  · split at ht
    · split at ht
      · cases ht
      · split at ht
        · cases ht; rfl
        · cases ht
    · split at ht
      · cases ht; rfl
      · cases ht

/-! ### ATTEST (R400 to R402) -/

theorem exec_attest {c : Cmd} {s s1 : State} (h : Runs c 0x40 s s1) (hb : bitsFrom c.a2 1 = false) (r : AttestReq) :
    exec (.attest c r) s = .next (attestRun c r (pendOf c 0x40 s1) s1) := by
  change execAttest c r s = _
  rw [execAttest, hb]
  exact runCmd_of_runs h _

/-- What ATTEST asks of the noise source (R204). -/
def attestRequest (c : Cmd) (r : AttestReq) (p : Pend) : RngReq :=
  ⟨.attest p r.challenge (BitVec.ofNat 64 (hostAddr c)) (if bitAt c.a2 0 then some r.hostPub else none),
    attestOutputs (bitAt c.a2 0)⟩

section
variable {c : Cmd} {r : AttestReq} {s : State} (p : Pend)

theorem attestRun_badArg (h : hostAddr c % 4096 ≠ 0 ∨ r.accessible = false) : attestRun c r p s = endWith p stBadArg s :=
  if_pos (h.imp_right fun e => by rw [e]; rfl)

variable (ha : hostAddr c % 4096 = 0) (hr : r.accessible = true) (hn : s.sec.reportNext ≠ BitVec.allOnes 64)
  (hf : s.rng.state ≠ .failed)
include ha hr hn hf

theorem attestRun_writes (ho : outputsReady (attestOutputs (bitAt c.a2 0)) s = true) : attestRun c r p s =
    writeReport p r.challenge (BitVec.ofNat 64 (hostAddr c)) (if bitAt c.a2 0 then some r.hostPub else none)
      (takeOutputs (attestOutputs (bitAt c.a2 0)) s) := by
  have hg : ¬ (hostAddr c % 4096 ≠ 0 ∨ (!r.accessible) = true) := by simp [ha, hr]
  have hf' : (s.rng.state == .failed) = false := by simpa using hf
  simp only [attestRun, if_neg hg, hf', if_neg hn, ho, Bool.false_eq_true, if_false, if_true]

theorem attestRun_waits (ho : outputsReady (attestOutputs (bitAt c.a2 0)) s = false) : attestRun c r p s =
    askRng (attestRequest c r p) (startPending p s) := by
  have hg : ¬ (hostAddr c % 4096 ≠ 0 ∨ (!r.accessible) = true) := by simp [ha, hr]
  have hf' : (s.rng.state == .failed) = false := by simpa using hf
  simp only [attestRun, if_neg hg, hf', if_neg hn, ho, Bool.false_eq_true, if_false]
  rfl

end

theorem bitAt_reportFlags (s : State) : bitAt (reportFlags s) 1 = s.mgmt.debugOpen := by
  unfold reportFlags
  cases s.mgmt.debugOpen <;> cases s.aon.debugSeen <;> cases notRunning s <;> cases s.aon.historyLost <;> decide

theorem holdKey_length (h : Held) (hs : List Held) : (holdKey h hs).length ≤ 4 := by
  rw [holdKey, List.length_drop, List.length_append, List.length_singleton]
  omega

theorem holdKey_getLast? (h : Held) (hs : List Held) : (holdKey h hs).getLast? = some h := by
  rw [holdKey, List.drop_append_of_le_length (by omega), List.getLast?_append]
  rfl

/-- The report that ATTEST writes. -/
def newReport (challenge : BitVec 384) (addr : DWord) (s : State) : Report :=
  ⟨s.sec.reportNext + 1, reportFlags s, s.sec.fwSvn, s.glb.svn, ksVersionOf s, s.glb.imageId, measured s, s.aon.time,
    challenge, (draw s).1.setWidth 384, addr⟩

/-- The state in which report r and the device certificate have been written and r's ephemeral key is held. -/
def reported (r : Report) (s : State) : State :=
  let s1 := hostWrite (r.addr + 0x400) Config.deviceCert (hostWrite (r.addr + 0x100) (reportBytes s r) (draw s).2)
  { s1 with sec := { s1.sec with
    reportNext := r.reportId, report := some r,
    held := holdKey ⟨r.reportId, r.eph, sha384 (reportBody s r), s.aon.time⟩ s1.sec.held } }

/-- The bounce session that opens with a report, if one does. -/
def withSession (peer : Option (BitVec 776)) (r : Report) (digest : BitVec 384) (s : State) : State :=
  match peer with
  | some pub => openSession r.eph pub digest s
  | none => s

theorem writeReport_eq (p : Pend) (challenge : BitVec 384) (addr : DWord) (peer : Option (BitVec 776)) (s : State) :
    ∃ w x y z : Word, writeReport p challenge addr peer s = answer p stDone true w x y z (post (ev 0x0601) (bumpSec 0 1
      (withSession peer (newReport challenge addr s) (sha384 (reportBody s (newReport challenge addr s)))
        (reported (newReport challenge addr s) s)))) := by
  unfold writeReport
  exact ⟨_, _, _, _, rfl⟩

/-- The blocks that a report changes. -/
abbrev reportBlocks : Blocks := { sec := true, hif := true, mgmt := true, evt := true, rng := true, free := true }

theorem within_reported (r : Report) (s : State) : Within reportBlocks s (reported r s) := by
  have hd : Within reportBlocks s (draw s).2 := (Within.refl _ s).set_free
  unfold reported hostWrite
  exact hd.set_hif.set_hif.set_sec

theorem within_withSession {s t : State} (h : Within reportBlocks s t) (peer : Option (BitVec 776)) (r : Report)
    (digest : BitVec 384) : Within reportBlocks s (withSession peer r digest t) := by
  cases peer with
  | none => exact h
  | some pub => exact h.set_free.set_hif

theorem within_writeReport (p : Pend) (challenge : BitVec 384) (addr : DWord) (peer : Option (BitVec 776)) {s t : State}
    (h : Within reportBlocks s t) (ha : awake s = true) : Within reportBlocks s (writeReport p challenge addr peer t) := by
  obtain ⟨w, x, y, z, e⟩ := writeReport_eq p challenge addr peer t
  rw [e]
  exact (((within_withSession (h.trans (within_reported _ t)) _ _ _).bumpSec ha 0 1).post ha _).answer ha _ _ _ _ _ _ _

theorem withSession_sec (peer : Option (BitVec 776)) (r : Report) (digest : BitVec 384) (s : State) :
    (withSession peer r digest s).sec = s.sec := by cases peer <;> rfl

theorem withSession_rng (peer : Option (BitVec 776)) (r : Report) (digest : BitVec 384) (s : State) :
    (withSession peer r digest s).rng = s.rng := by cases peer <;> rfl

theorem withSession_wrote (peer : Option (BitVec 776)) (r : Report) (digest : BitVec 384) (s : State) :
    (withSession peer r digest s).hif.wrote = s.hif.wrote := by cases peer <;> rfl

section
variable (p : Pend) (challenge : BitVec 384) (addr : DWord) (peer : Option (BitVec 776)) (s : State)

theorem writeReport_sec : (writeReport p challenge addr peer s).sec =
    (bumpSec 0 1 (reported (newReport challenge addr s) s)).sec := by
  obtain ⟨w, x, y, z, e⟩ := writeReport_eq p challenge addr peer s
  rw [e, answer_frame]
  simp only [post_sec, bumpSec_own, withSession_sec]

theorem writeReport_rng : (writeReport p challenge addr peer s).rng = s.rng := by
  obtain ⟨w, x, y, z, e⟩ := writeReport_eq p challenge addr peer s
  rw [e, answer_frame]
  simp only [post_rng, bumpSec_rng, withSession_rng]
  rfl

theorem writeReport_wrote : (writeReport p challenge addr peer s).hif.wrote =
    (reported (newReport challenge addr s) s).hif.wrote := by
  obtain ⟨w, x, y, z, e⟩ := writeReport_eq p challenge addr peer s
  rw [e, (answer_session ..).2, post_hif, bumpSec_hif, withSession_wrote]

theorem writeReport_session : (writeReport p challenge addr peer s).hif.session =
    (withSession peer (newReport challenge addr s) (sha384 (reportBody s (newReport challenge addr s)))
      (reported (newReport challenge addr s) s)).hif.session := by
  obtain ⟨w, x, y, z, e⟩ := writeReport_eq p challenge addr peer s
  rw [e, (answer_session ..).1, post_hif, bumpSec_hif]

end

/-- What the report of ATTEST says is read in the state before the outputs are taken and the command is answered. -/
theorem reportBody_congr {s t : State} (hs : t.serial = s.serial) (hp : t.part = s.part) (r : Report) :
    reportBody t r = reportBody s r := by
  rw [reportBody, reportBody, hs, hp]

theorem runs_rng {c : Cmd} {op : Byte} {s s1 : State} (h : Runs c op s s1) : s1.rng = s.rng := by rw [runs_frame h]

theorem runs_outputsReady {c : Cmd} {op : Byte} {s s1 : State} (h : Runs c op s s1) (n : Nat) :
    outputsReady n s1 = outputsReady n s := by
  rw [runs_frame h]
  rfl

theorem outputsReady_iff {n : Nat} {s : State} :
    outputsReady n s = true ↔ s.rng.state = .ok ∧ s.rng.waiting = [] ∧ n ≤ s.rng.ready := by
  simp [outputsReady, and_assoc]

theorem hostAddr_toNat (c : Cmd) : (BitVec.ofNat 64 (hostAddr c)).toNat = hostAddr c := by
  have h0 := c.a0.isLt
  have h1 := c.a1.isLt
  rw [BitVec.toNat_ofNat, Nat.mod_eq_of_lt]
  unfold hostAddr
  omega

/-- The first clause of O23: what ATTEST leaves where its outputs are at hand. -/
theorem attest_writes {c : Cmd} {r : AttestReq} {s s1 : State} (h : Runs c 0x40 s s1) (hb : bitsFrom c.a2 1 = false)
    (ha : hostAddr c % 4096 = 0) (hr : r.accessible = true) (hn : s.sec.reportNext ≠ BitVec.allOnes 64)
    (ho : outputsReady (attestOutputs (bitAt c.a2 0)) s = true) :
    ∃ t x, exec (.attest c r) s = .next t ∧ t.sec.report = some x ∧ x.reportId = s.sec.reportNext + 1 ∧
      x.fwSvn = s.sec.fwSvn ∧ x.imgSvn = s.glb.svn ∧ x.imageId = s.glb.imageId ∧ x.challenge = r.challenge ∧
      x.time = s.aon.time ∧ x.addr.toNat = hostAddr c ∧ bitAt x.flags 1 = s.mgmt.debugOpen ∧
      t.sec.reportNext = s.sec.reportNext + 1 ∧ t.sec.held.length ≤ 4 ∧
      t.sec.held.getLast? = some ⟨x.reportId, x.eph, sha384 (reportBody s x), s.aon.time⟩ ∧
      (bitAt c.a2 0 = true → ∃ e, t.hif.session = some e ∧ e.h2d = none ∧ e.d2h = 0 ∧
        e.h2dKey ++ e.d2hKey = hkdf384 (digestBytes (sha384 (reportBody s x)))
          (beBytes 48 (Config.ecdhX x.eph (beBytes 97 r.hostPub.toNat)).toNat)
          ([0x48, 0x42, 0x53, 0x31] ++ leBytes 8 s.serial.toNat) 64) ∧
      (bitAt c.a2 0 = false → t.hif.session = s.hif.session) ∧
      (∃ u, t.hif.wrote = (hostWrite (x.addr + 0x400) Config.deviceCert
        (hostWrite (x.addr + 0x100) (reportBytes s x) u)).hif.wrote ∧ u.hif.wrote = s.hif.wrote) ∧
      t.rng.ready + attestOutputs (bitAt c.a2 0) = s.rng.ready ∧
      t = { s with sec := t.sec, hif := t.hif, mgmt := t.mgmt, evt := t.evt, rng := t.rng, free := t.free } := by
  obtain ⟨hok, -, hready⟩ := outputsReady_iff.mp ho
  have hfr := runs_frame h
  have hfail : s1.rng.state ≠ .failed := by rw [hfr, hok]; decide
  have hrun := attestRun_writes (pendOf c 0x40 s1) ha hr (by rwa [runs_sec h]) hfail (by rwa [runs_outputsReady h])
  generalize hu : takeOutputs (attestOutputs (bitAt c.a2 0)) s1 = u at hrun
  have husec : u.sec = s.sec := by rw [← hu, ← runs_sec h]; rfl
  have huaon : u.aon = s.aon := by rw [← hu, ← runs_aon h]; rfl
  have huglb : u.glb = s.glb := by rw [← hu, hfr]; rfl
  have huser : u.serial = s.serial := by rw [← hu, ← runs_serial h]; rfl
  have huhif : u.hif.session = s.hif.session ∧ u.hif.wrote = s.hif.wrote := by
    rw [← hu]
    change s1.hif.session = _ ∧ s1.hif.wrote = _
    rw [runs_hif h]
    exact ⟨rfl, rfl⟩
  have hbody := reportBody_congr huser (by rw [← hu, hfr]; rfl)
  have hbytes (x : Report) : reportBytes u x = reportBytes s x := by rw [reportBytes, hbody, reportBytes]
  have hw : Within reportBlocks s u := by rw [← hu]; exact (Within.runs h).set_rng
  have hsec := writeReport_sec (pendOf c 0x40 s1) r.challenge (BitVec.ofNat 64 (hostAddr c))
    (if bitAt c.a2 0 then some r.hostPub else none) u
  have hx : (newReport r.challenge (BitVec.ofNat 64 (hostAddr c)) u).reportId = s.sec.reportNext + 1 := by
    rw [newReport, husec]
  refine ⟨_, newReport r.challenge (BitVec.ofNat 64 (hostAddr c)) u, (exec_attest h hb r).trans (congrArg _ hrun), ?_, hx,
    ?_, ?_, ?_, rfl, ?_, hostAddr_toNat c, ?_, ?_, ?_, ?_, fun hs => ?_, fun hs => ?_, ?_, ?_,
    within_writeReport _ _ _ _ hw (takeCmd_awake h.1)⟩
  · rw [hsec]; rfl
  · rw [newReport, husec]
  · rw [newReport, huglb]
  · rw [newReport, huglb]
  · rw [newReport, huaon]
  · refine (bitAt_reportFlags u).trans ?_
    rw [← hu]
    change s1.mgmt.debugOpen = _
    rw [runs_mgmt h]
  · rw [hsec]; exact hx
  · rw [hsec]; exact holdKey_length ..
  · rw [hsec, ← hbody, ← huaon]; exact holdKey_getLast? ..
  · rw [writeReport_session, hbody, hs]
    refine ⟨_, rfl, rfl, rfl, (List.take_append_drop 32 _).trans ?_⟩
    rw [show (reported (newReport r.challenge (BitVec.ofNat 64 (hostAddr c)) u) u).serial = s.serial from huser]
  · rw [writeReport_session, hs]
    exact huhif.1
  · refine ⟨(draw u).2, (writeReport_wrote ..).trans ?_, huhif.2⟩
    rw [← hbytes]
    rfl
  · rw [writeReport_rng, ← hu]
    exact (Nat.sub_add_cancel (by rw [hfr]; exact hready)).trans (by rw [hfr])

/-! ### KEY_RELEASE (R401, R404, R405) -/

theorem exec_keyRelease {c : Cmd} {s s1 : State} (h : Runs c 0x41 s s1) (b : Option (List Byte)) :
    exec (.keyRelease c b) s = .next (keyReleaseRun c b (pendOf c 0x41 s1) s1) := runCmd_of_runs h _

section
variable {c : Cmd} {b : List Byte} {s : State} (p : Pend)

theorem keyReleaseRun_badArg (h : blobOk c b = false) : keyReleaseRun c (some b) p s = endWith p stBadArg s := by
  simp only [keyReleaseRun, Option.filter_some, h, Bool.false_eq_true, if_false]

/-- R405: an unheld report, a taken key slot and DEBUG_REVOKE in a debug session turn a release away. -/
theorem keyReleaseRun_refused (hb : blobOk c b = true) (h : (s.sec.held.any fun h => h.reportId == blobReport b) = false ∨
    s.sec.keys[slotFin (blobKey b)] ≠ none ∨ (blobFlags b = 1 ∧ s.mgmt.debugOpen = true)) :
    keyReleaseRun c (some b) p s = endWith p stRefused s := by
  simp only [keyReleaseRun, Option.filter_some, hb, if_true]
  split
  · rfl
  next x hx =>
    have hheld : (s.sec.held.any fun h => h.reportId == blobReport b) = true :=
      List.any_eq_true.mpr ⟨x, List.mem_of_find?_eq_some hx,
        List.find?_some (p := fun h : Held => h.reportId == blobReport b) hx⟩
    rcases h with h | h | ⟨hf, ho⟩
    · exact absurd hheld (by rw [h]; decide)
    · rw [if_pos (Option.isSome_iff_ne_none.mpr h)]
    · rw [hf, ho, if_pos (by decide : (1 == 1 && true) = true), ite_self]

variable {h : Held} (hb : blobOk c b = true) (hh : (s.sec.held.find? fun x => x.reportId == blobReport b) = some h)
  (hk : s.sec.keys[slotFin (blobKey b)] = none) (hd : (blobFlags b == 1 && s.mgmt.debugOpen) = false)
include hb hh hk hd

theorem keyReleaseRun_installs {key : List Byte} (hu : unwrapKey h b s = some key) :
    keyReleaseRun c (some b) p s = installKey (slotFin (blobKey b)) key b p (dropHeld (blobReport b) s) := by
  have hid : h.reportId = blobReport b := by simpa using List.find?_some hh
  simp only [keyReleaseRun, Option.filter_some, hb, if_true, hh, hk, hd, Option.isSome_none, Bool.false_eq_true, if_false,
    hid, hu]

theorem keyReleaseRun_fails (hu : unwrapKey h b s = none) :
    keyReleaseRun c (some b) p s = releaseFails (slotFin (blobKey b)) p (dropHeld (blobReport b) s) := by
  have hid : h.reportId = blobReport b := by simpa using List.find?_some hh
  simp only [keyReleaseRun, Option.filter_some, hb, if_true, hh, hk, hd, Option.isSome_none, Bool.false_eq_true, if_false,
    hid, hu]

end

/-- The blocks that a release changes. -/
abbrev releaseBlocks : Blocks := { sec := true, hif := true, mgmt := true, evt := true }

/-- The key that a release installs. -/
def releasedKey (k : Fin 4) (key b : List Byte) (p : Pend) (s : State) : ModelKey :=
  ⟨key, blobFlags b == 1, false, some ⟨if keyWanted s k.val then some p else none, BitVec.ofNat 64 (leField b 0xC0 8),
    BitVec.ofNat 64 (leField b 0xC8 8), keyWanted s k.val, 0, []⟩⟩

/-- The state in which a released key stands in slot k and its load has begun. -/
def keyIn (k : Fin 4) (key b : List Byte) (p : Pend) (s : State) : State :=
  startPending p (post (ev 0x0602) (bumpSec 1 1
    { s with sec := { s.sec with keys := s.sec.keys.set k (some (releasedKey k key b p s)) } }))

theorem installKey_eq (k : Fin 4) (key b : List Byte) (p : Pend) (s : State) : installKey k key b p s =
    if keyWanted s k.val then keyIn k key b p s else endWith p stDone (keyIn k key b p s) := rfl

theorem installKey_sec (k : Fin 4) (key b : List Byte) (p : Pend) (s : State) : (installKey k key b p s).sec = { s.sec with
    keys := s.sec.keys.set k (some (releasedKey k key b p s)), ctrs := upd s.sec.ctrs 1 (ctrAdd · 1) } := by
  have hin : (keyIn k key b p s).sec = { s.sec with
      keys := s.sec.keys.set k (some (releasedKey k key b p s)), ctrs := upd s.sec.ctrs 1 (ctrAdd · 1) } := by
    rw [keyIn, startPending_sec, post_sec]
    rfl
  rw [installKey_eq]
  split
  · exact hin
  · exact (endWith_sec ..).trans hin

theorem within_installKey (k : Fin 4) (key b : List Byte) (p : Pend) {s t : State} (h : Within releaseBlocks s t)
    (ha : awake s = true) : Within releaseBlocks s (installKey k key b p t) := by
  have hin : Within releaseBlocks s (keyIn k key b p t) := ((h.set_sec.bumpSec ha 1 1).post ha _).startPending ha p
  rw [installKey_eq]
  split
  · exact hin
  · exact hin.endWith ha p stDone

theorem releaseFails_sec (k : Fin 4) (p : Pend) (s : State) : (releaseFails k p s).sec =
    { (secFault 0 k.val stAuthFail.toNat s).sec with ctrs := upd s.sec.ctrs 2 (ctrAdd · 1) } := by
  rw [releaseFails, endWith_sec, post_sec]
  rfl

theorem not_mem_dropHeld {id : DWord} {s : State} : ∀ x ∈ (dropHeld id s).sec.held, x.reportId ≠ id := by
  intro x hx
  simpa using (List.mem_filter.mp hx).2

/-- Settles O23: `writeReport_eq` gives the report's state once, and the checks of KEY_RELEASE have a lemma per outcome. -/
theorem reportsAndKeyReleasesComplete : Obligations.ReportsAndKeyReleasesComplete := by
  refine ⟨⟨fun c r s s1 h hb ha hr hn ho => ?_, fun c r s s1 h hb hbad => ?_, fun c r s s1 h hb ha hr hs hn ho => ?_⟩,
    ⟨fun c b key x s s1 h hb hh hk hd hu => ?_, fun c b x s s1 h hb hh hk hd hu => ?_,
      fun c s s1 h => ⟨exec_keyRelease h none, fun b hb => ?_⟩, fun c b s s1 h hb hx => ?_⟩⟩
  · exact attest_writes h hb ha hr hn ho
  · rw [exec_attest h hb, attestRun_badArg _ hbad]
  · have hf : s1.rng.state = .ok := by rw [runs_frame h]; exact hs
    rw [← runs_sec h] at hn
    rw [← runs_outputsReady h] at ho
    have hfail : s1.rng.state ≠ .failed := by rw [hf]; decide
    have hask := askRng_of_ok (attestRequest c r (pendOf c 0x40 s1))
      (by rwa [startPending_rng] : (startPending (pendOf c 0x40 s1) s1).rng.state ≠ .failed)
    refine ⟨_, attestRequest c r (pendOf c 0x40 s1),
      (exec_attest h hb r).trans (congrArg _ ((attestRun_waits _ ha hr hn hfail ho).trans hask)), ?_, rfl, ?_⟩
    · rw [startPending_rng, ← runs_rng h]
    · rw [startPending_sec, ← runs_sec h]
  · rw [← runs_sec h] at hh hk
    have hu1 : unwrapKey x b s1 = some key := by rw [runs_frame h]; exact hu
    have hd1 : (blobFlags b == 1 && s1.mgmt.debugOpen) = false := by rw [runs_mgmt h]; exact hd
    have hsec := installKey_sec (slotFin (blobKey b)) key b (pendOf c 0x41 s1) (dropHeld (blobReport b) s1)
    have hkeys := congrArg Sec.keys hsec
    refine ⟨_, releasedKey (slotFin (blobKey b)) key b (pendOf c 0x41 s1) (dropHeld (blobReport b) s1),
      (exec_keyRelease h _).trans (congrArg _ (keyReleaseRun_installs _ hb hh hk hd1 hu1)), ?_, rfl, rfl, rfl, fun j hj => ?_,
      ?_, ?_, ?_⟩
    · rw [hkeys]
      exact Vector.getElem_set_self _
    · rw [hkeys, ← runs_sec h]
      exact Vector.getElem_set_ne (slotFin (blobKey b)).isLt j.isLt fun e => hj (Fin.ext e.symm)
    · rw [congrArg Sec.held hsec]
      exact not_mem_dropHeld
    · rw [congrArg Sec.ctrs hsec, ← runs_sec h]
      exact upd_same ..
    · have hd : Within releaseBlocks s (dropHeld (blobReport b) s1) := (Within.runs h).set_sec
      exact within_installKey _ key b _ hd (takeCmd_awake h.1)
  · rw [← runs_sec h] at hh hk
    have hu1 : unwrapKey x b s1 = none := by rw [runs_frame h]; exact hu
    have hd1 : (blobFlags b == 1 && s1.mgmt.debugOpen) = false := by rw [runs_mgmt h]; exact hd
    refine ⟨_, (exec_keyRelease h _).trans (congrArg _ (keyReleaseRun_fails _ hb hh hk hd1 hu1)), ?_⟩
    rw [releaseFails_sec, ← runs_sec h]
    exact ⟨rfl, bitAt_orBit _ (by decide), upd_same .., not_mem_dropHeld⟩
  · rw [exec_keyRelease h, keyReleaseRun_badArg _ hb]
  · rw [exec_keyRelease h, keyReleaseRun_refused _ hb]
    rw [runs_sec h, runs_mgmt h]
    exact hx

end Sys2Proof.Machine
end

section
/-! Frames of the operations that end work: jobs that stop, messages, events that are filed. Each operation is said once to
stay within the blocks it needs; `andThen` chains them. -/

namespace Sys2Proof.Machine

namespace Within
variable {b c : Blocks} {s t u : State}

/-- What may change under b or under c. -/
def both (b c : Blocks) : Blocks :=
  ⟨b.free || c.free, b.glb || c.glb, b.pwr || c.pwr, b.aon || c.aon, b.evt || c.evt, b.hif || c.hif, b.mgmt || c.mgmt,
   b.sec || c.sec, b.fls || c.fls, b.rng || c.rng, b.stk || c.stk, b.bnc || c.bnc, b.pln || c.pln, b.lth || c.lth,
   b.trn || c.trn, b.sq || c.sq, b.jobs || c.jobs, b.links || c.links, b.ws || c.ws, b.col || c.col, b.sns || c.sns,
   b.img || c.img, b.out || c.out⟩

theorem pick_both {α : Type} (b c : Bool) (x y : α) : pick (b || c) x y = pick c x (pick b x y) := by
  cases b <;> cases c <;> rfl

/-- A frame says less of a larger set of blocks. -/
theorem grow (h : Within b s t) (hc : both b c = c := by rfl) : Within c s t := by
  have hb : adopting (both b c) s t = adopting c (adopting b s t) t := by
    simp only [adopting, both, pick_both]
  have hs : adopting c t t = t := by simp only [adopting, pick_self]
  rw [Within, ← hc, hb, ← h, hs]

/-- A further operation, which needs the main rails up and stays within blocks of c. -/
theorem andThen (h : Within c s t) (ha : Machine.awake s = true) (k : Machine.awake t = true → Within b t u)
    (hg : c.glb = false := by rfl) (hc : both b c = c := by rfl) : Within c s u :=
  h.trans ((k (h.awake hg ha)).grow hc)

theorem aon_eq (h : Within b s t) (hb : b.aon = false := by rfl) : t.aon = s.aon := by
  have e := congrArg State.aon h
  simpa only [adopting, pick, hb, cond_false] using e

theorem pwr_eq (h : Within b s t) (hb : b.pwr = false := by rfl) : t.pwr = s.pwr := by
  have e := congrArg State.pwr h
  simpa only [adopting, pick, hb, cond_false] using e

theorem sec_eq (h : Within b s t) (hb : b.sec = false := by rfl) : t.sec = s.sec := by
  have e := congrArg State.sec h
  simpa only [adopting, pick, hb, cond_false] using e

theorem fls_eq (h : Within b s t) (hb : b.fls = false := by rfl) : t.fls = s.fls := by
  have e := congrArg State.fls h
  simpa only [adopting, pick, hb, cond_false] using e

theorem rng_eq (h : Within b s t) (hb : b.rng = false := by rfl) : t.rng = s.rng := by
  have e := congrArg State.rng h
  simpa only [adopting, pick, hb, cond_false] using e

theorem stk_eq (h : Within b s t) (hb : b.stk = false := by rfl) : t.stk = s.stk := by
  have e := congrArg State.stk h
  simpa only [adopting, pick, hb, cond_false] using e

theorem jobs_eq (h : Within b s t) (hb : b.jobs = false := by rfl) : t.jobs = s.jobs := by
  have e := congrArg State.jobs h
  simpa only [adopting, pick, hb, cond_false] using e

theorem ws_eq (h : Within b s t) (hb : b.ws = false := by rfl) : t.ws = s.ws := by
  have e := congrArg State.ws h
  simpa only [adopting, pick, hb, cond_false] using e

theorem img_eq (h : Within b s t) (hb : b.img = false := by rfl) : t.img = s.img := by
  have e := congrArg State.img h
  simpa only [adopting, pick, hb, cond_false] using e

theorem set_sq (h : Within b s t) {x : SeqDev} (hb : b.sq = true := by rfl) : Within b s { t with sq := x } := by
  refine h.trans ?_
  simp only [Within, adopting, hb, pick_self]
  rfl

theorem set_ws (h : Within b s t) {x : Ws} (hb : b.ws = true := by rfl) : Within b s { t with ws := x } := by
  refine h.trans ?_
  simp only [Within, adopting, hb, pick_self]
  rfl

theorem ite {p : Prop} [Decidable p] (h : Within b s t) (k : Within b s u) : Within b s (if p then t else u) := by
  split
  · exact h
  · exact k

theorem foldl {α : Type} {f : State → α → State} (hf : ∀ t x, Within b s t → Within b s (f t x)) (xs : List α) :
    ∀ {t : State}, Within b s t → Within b s (xs.foldl f t) := by
  induction xs with
  | nil => exact id
  | cons x xs ih => exact fun h => ih (hf _ x h)

end Within

open Within

/-! ### Answers -/

/-- The blocks that answers change. -/
def answering : Blocks := { hif := true, mgmt := true, evt := true }

theorem answerAll_within (st : Byte) (a b : Word) (ps : List Pend) {s : State} (ha : awake s = true) :
    Within answering s (answerAll st a b ps s) := by
  induction ps generalizing s with
  | nil => exact refl ..
  | cons p ps ih => exact ((refl answering s).answer ha ..).andThen ha ih

theorem endReplays_within (st : Byte) (rs : List ReplayReq) {s : State} (ha : awake s = true) :
    Within answering s (endReplays st rs s) := by
  induction rs generalizing s with
  | nil => exact refl ..
  | cons r rs ih => exact ((refl answering s).endOpt ha ..).andThen ha ih

theorem endAll_within (st : Byte) (ps : List Pend) {s : State} (ha : awake s = true) :
    Within answering s (endAll st ps s) := by
  induction ps generalizing s with
  | nil => exact refl ..
  | cons p ps ih => exact ((refl answering s).endWith ha ..).andThen ha ih

theorem endWaiting_within (st : Byte) (rs : List RngReq) {s : State} (ha : awake s = true) :
    Within answering s (endWaiting st rs s) := by
  induction rs generalizing s with
  | nil => exact refl ..
  | cons r rs ih =>
    unfold endWaiting
    split
    · exact ((refl answering s).endWith ha ..).andThen ha ih
    · exact ih ha

theorem endLoads_within (st : Byte) (k : Fin 4) {s : State} (ha : awake s = true) :
    Within answering s (endLoads st k s) := by
  unfold endLoads
  split
  · split
    · exact (refl answering s).endOpt ha ..
    · exact refl ..
  · exact refl ..

/-! ### Handles, engines and the units of a job -/

/-- The drawers' block alone. -/
def inDrawers : Blocks := { stk := true }

theorem setHandle_within (h : Nat) (f : Handle → Handle) (s : State) : Within inDrawers s (setHandle h f s) := by
  unfold setHandle
  split <;> rfl

theorem freeHandle_within (h : Nat) (s : State) : Within inDrawers s (freeHandle h s) := by
  unfold freeHandle
  split
  · rfl
  · split
    · exact setHandle_within ..
    · rfl

theorem freeHandles_within (hs : List Nat) (s : State) : Within inDrawers s (freeHandles hs s) := by
  induction hs generalizing s with
  | nil => rfl
  | cons h hs ih => exact (freeHandle_within h s).trans (ih _)

theorem unpin_within (gone : PinBy → Bool) (s : State) : Within inDrawers s (unpin gone s) := by
  unfold unpin
  have hdrop (h i : Nat) (u : State) : Within inDrawers u (dropFrame h i u) :=
    (setHandle_within h _ u).trans (u := dropFrame h i u) rfl
  exact foldl (fun _ _ h => h.trans (freeHandle_within ..)) _ (foldl (fun _ _ h => h.trans (hdrop ..)) _ rfl)

theorem assignIdle_within (es : List (Fin 8)) (qs : List (Fin 4 × List Desc8)) (s : State) :
    Within inDrawers s (assignIdle es qs s) := by
  induction es generalizing qs s with
  | nil => rfl
  | cons e es ih =>
    cases qs with
    | nil => rfl
    | cons q qs =>
      have hs : Within inDrawers s
          (setEng e (fun _ => ⟨q.1, q.2, .none⟩) { s with stk := { s.stk with idle := es, queue := qs } }) := rfl
      exact hs.trans (ih ..)

theorem dropEngines_within (j : Fin 4) (s : State) : Within inDrawers s (dropEngines j s) := by
  have hs (x : Stk) : Within inDrawers s { s with stk := x } := rfl
  exact (hs _).trans (assignIdle_within ..)

/-- The blocks that the end of a job's work changes. -/
def working : Blocks :=
  { free := true, evt := true, hif := true, mgmt := true, stk := true, bnc := true, pln := true, lth := true, trn := true,
    sq := true, jobs := true, col := true }

theorem waitEnds_within (b : Fin 4) {s : State} (ha : awake s = true) : Within working s (waitEnds b s) := by
  unfold waitEnds
  split
  · have hs (v : Vector Bench 4) : Within working s { s with free := s.free + 1, bnc := v } := rfl
    exact (hs _).postIf ha _ _
  · exact refl ..

theorem planeWaitEnds_within (p : Fin 16) {s : State} (ha : awake s = true) : Within working s (planeWaitEnds p s) := by
  unfold planeWaitEnds
  split
  · have hs (v : Vector Plane 16) : Within working s { s with free := s.free + 1, pln := v } := rfl
    exact (hs _).postIf ha _ _
  · exact refl ..

theorem endWaits_within (j : Fin 4) {s : State} (ha : awake s = true) : Within working s (endWaits j s) := by
  unfold endWaits
  refine foldl (fun t p h => ?_) _ (foldl (fun t b h => ?_) _ (refl ..))
  · exact ite (h.andThen ha (planeWaitEnds_within p)) h
  · split
    · exact ite (h.andThen ha (waitEnds_within b)) h
    · exact h

theorem freeArrivals_within (j : Fin 4) (s : State) : Within working s (freeArrivals j s) := by
  unfold freeArrivals
  split
  · exact refl ..
  · exact set_jobs (foldl (fun _ _ h => h.trans (grow (freeHandle_within ..))) _ (refl ..))

theorem haltUnits_within (j : Fin 4) {s : State} (ha : awake s = true) : Within working s (haltUnits j s) := by
  have hf : Within working s (setJob j (fun y => { y with fed := [] }) (freeArrivals j (endWaits j s))) :=
    ((endWaits_within j ha).trans (freeArrivals_within ..)).set_jobs
  have hu := (hf.trans (grow (dropEngines_within j _))).trans (grow (unpin_within (pinOf s j) _))
  have hunits (t : State) (b : Vector Bench 4) (p : Vector Plane 16) (l : Vector Lathe 4) (c : Col) :
      Within working t { t with bnc := b, pln := p, lth := l, col := c } := rfl
  exact hu.trans (hunits ..)

theorem bumpTrn_within (j : Fin 4) (i : Fin 6) (n : Nat) {s : State} (ha : awake s = true) :
    Within working s (bumpTrn j i n s) := by
  unfold bumpTrn
  split
  · exact (refl working s).set_jobs.postIf ha _ _
  · exact refl ..

theorem clearSlots_within (j : Fin 4) (s : State) : Within working s (clearSlots j s) := by
  unfold clearSlots
  split <;> rfl

theorem abortStep_within (j : Fin 4) {s : State} (ha : awake s = true) : Within working s (abortStep j s) := by
  have hbytes (m : Memory) (t : State) : Within working t { t with stk := { t.stk with bytes := m } } := rfl
  unfold abortStep
  split
  · exact refl ..
  · next x hx =>
    have hc (m : Memory) (f : Job → Job) :
        Within working s (clearSlots j (setJob j f { haltUnits j s with stk := { (haltUnits j s).stk with bytes := m } })) :=
      ((haltUnits_within j ha).trans (hbytes m _)).set_jobs.trans (clearSlots_within ..)
    dsimp only
    split
    · exact ((hc ..).andThen ha (bumpTrn_within j 1 1)).post ha _
    · exact hc ..

theorem stopSnap_within (j : Fin 4) (st : Byte) (x : Job) {s : State} (ha : awake s = true) :
    Within working s (stopSnap j st x s) := by
  unfold stopSnap
  split
  · exact refl ..
  · split
    · rfl
    · exact (refl working s).endOpt ha ..

/-- R282: outside a workshop the end of a job stays on this module. -/
theorem stopJob_within (j : Fin 4) (st done : Byte) (a b : Word) {s : State} (ha : awake s = true)
    (hm : isMember s = false) : Within working s (stopJob j st done a b s) := by
  unfold stopJob
  split
  · exact refl ..
  · next x hx =>
    have hsnap := ((haltUnits_within j ha).andThen ha (answerAll_within done a b (x.stop.getD []))).andThen ha
      (stopSnap_within j st x)
    have htrn (t : State) (d : TrnDev) : Within working t { t with trn := d } := rfl
    have hkeep : Within working s (keepStats x (stopSnap j st x (answerAll done a b (x.stop.getD []) (haltUnits j s)))) :=
      hsnap.trans (htrn ..)
    have hrep := (hkeep.endOpt ha x.startPend st).andThen ha (endReplays_within st (x.replays ++ x.replaying.toList))
    have hout {t : State} (h : Within working s t) :
        Within working s { leaveJob j x t with jobs := (leaveJob j x t).jobs.set j none } := by
      rw [leaveJob_outside j x (by rw [isMember, h.ws_eq]; exact hm)]
      exact h.set_jobs
    dsimp only
    refine hout (Within.trans ?_ (grow (freeHandles_within ..)))
    split
    · exact hrep.endOpt ha ..
    · exact hrep

end Sys2Proof.Machine
end

section
/-! TENANT_END (R417). -/

namespace Sys2Proof.Machine
open Sys2Proof.Claims
open Within

/-! ### A KEY_UPDATE that has yet to complete -/

/-- The task records a key store. -/
def storesKeys (t : FlashTask) : Bool :=
  match t.done with
  | .keyStore _ _ => true
  | _ => false

theorem keyTask_eq (s : State) : keyTask s = (s.fls.tasks.any storesKeys || s.fls.issued.any storesKeys) := by
  have hk : keyTask s = (s.fls.tasks ++ s.fls.issued.toList).any storesKeys := rfl
  rw [hk, List.any_append]
  cases s.fls.issued <;> simp

/-- What drops no recording of a key store leaves the answer as it is. -/
theorem keyTask_dropTask {sel : FlashTask → Bool} (h : ∀ t, storesKeys t = true → sel t = false) (s : State) :
    keyTask (dropTask sel s) = keyTask s := by
  have htasks : (s.fls.tasks.filter fun t => !sel t).any storesKeys = s.fls.tasks.any storesKeys := by
    rw [List.any_filter]
    refine congrArg (List.any s.fls.tasks) (funext fun t => ?_)
    cases hs : storesKeys t
    · simp
    · simp [h t hs]
  rw [keyTask_eq, keyTask_eq]
  unfold dropTask
  dsimp only
  rw [htasks]
  cases hi : s.fls.issued with
  | none => rfl
  | some t =>
    cases hs : storesKeys t
    · simp only [Option.map_some, Option.any_some, hs]
      split
      · rfl
      · rw [hs]
    · simp [h t hs, hs]

theorem keyTask_of_fls {s t : State} (h : t.fls = s.fls) : keyTask t = keyTask s := by
  rw [keyTask_eq, keyTask_eq, h]

theorem snapTask_of_storesKeys (j : Fin 4) (t : FlashTask) (h : storesKeys t = true) : snapTask j t = false := by
  unfold storesKeys at h
  unfold snapTask
  split
  · next hd => simp [hd] at h
  · rfl

theorem imageTask_of_storesKeys (t : FlashTask) (h : storesKeys t = true) : imageTask t = false := by
  unfold storesKeys at h
  unfold imageTask
  split at h
  · next hd => simp [hd]
  · cases h

/-! ### Step 2: the jobs stop -/

/-- The blocks that the end of a tenant's jobs changes, its membership given. -/
def endingJobs : Blocks := both { fls := true, ws := true } working

/-- The jobs' end leaves a KEY_UPDATE under way, and the rest of the state, as they are. -/
structure JobsEnd (s t : State) : Prop where
  within : Within endingJobs s t
  keyTask : keyTask t = keyTask s

/-- The blocks that ending an exporting job changes. -/
def exporting : Blocks := both { fls := true, stk := true, sq := true } answering

theorem endExport_within (j : Fin 4) (st : Byte) {s : State} (ha : awake s = true) :
    Within exporting s (endExport j st s) ∧ keyTask (endExport j st s) = keyTask s := by
  unfold endExport
  split
  · exact ⟨refl .., rfl⟩
  · next r hr =>
    have hfree : Within (both { stk := true, sq := true } answering) s
        (if r.handle = 0 then { s with sq := { s.sq with exports := s.sq.exports.set j none } }
          else freeHandle r.handle { s with sq := { s.sq with exports := s.sq.exports.set j none } }) :=
      ((refl _ s).set_sq).ite (((refl _ s).set_sq).trans (grow (freeHandle_within ..)))
    have hend := hfree.endOpt ha r.pend st
    exact ⟨hend.grow.set_fls, (keyTask_dropTask (snapTask_of_storesKeys j) _).trans (keyTask_of_fls hend.fls_eq)⟩

theorem endExport_ends (j : Fin 4) (st : Byte) {s : State} (ha : awake s = true) : JobsEnd s (endExport j st s) :=
  ⟨(endExport_within j st ha).1.grow, (endExport_within j st ha).2⟩

theorem JobsEnd.trans {s t u : State} (h : JobsEnd s t) (k : JobsEnd t u) : JobsEnd s u :=
  ⟨h.within.trans k.within, k.keyTask.trans h.keyTask⟩

theorem JobsEnd.of_working {s t : State} (h : Within working s t) : JobsEnd s t := ⟨h.grow, keyTask_of_fls h.fls_eq⟩

/-- What tenantStop does before the exporting ends: the job's step is discarded, and the job stops outside any workshop. -/
def stopOutside (j : Fin 4) (s : State) : State :=
  let s1 := match s.jobs[j] with
    | some x => if x.train && stepOpen x then abortStep j s else s
    | none => s
  stopJob j stAborted stDone 0 0 { s1 with ws := Ws.reset }

theorem stopOutside_ends (j : Fin 4) {s : State} (ha : awake s = true) : JobsEnd s (stopOutside j s) := by
  have hstop {t : State} (h : Within working s t) : JobsEnd s (stopJob j stAborted stDone 0 0 { t with ws := Ws.reset }) :=
    (JobsEnd.of_working h).trans (JobsEnd.trans (t := { t with ws := Ws.reset }) ⟨rfl, rfl⟩
      (.of_working (stopJob_within j _ _ _ _ (h.awake rfl ha) rfl)))
  unfold stopOutside
  split
  · exact hstop (ite (abortStep_within j ha) (refl ..))
  · exact hstop (refl ..)

theorem tenantStop_ends (j : Fin 4) {s : State} (ha : awake s = true) : JobsEnd s (tenantStop j s) := by
  have h := stopOutside_ends j ha
  exact h.trans (endExport_ends j stAborted (h.within.awake rfl ha))

theorem tenantStop_jobs (j : Fin 4) {s : State} (ha : awake s = true) : (tenantStop j s).jobs = (stopOutside j s).jobs :=
  (endExport_within j stAborted ((stopOutside_ends j ha).within.awake rfl ha)).1.jobs_eq

theorem tenantStop_slot (j : Fin 4) {s : State} (ha : awake s = true) : (tenantStop j s).jobs[j] = none := by
  rw [tenantStop_jobs j ha]
  exact stopJob_slot ..

theorem tenantStop_other {i j : Fin 4} (hij : i ≠ j) {s : State} (ha : awake s = true) :
    (tenantStop i s).jobs[j] = s.jobs[j] := by
  have hstop {t : State} (h : beside i t = beside i s) :
      (stopJob i stAborted stDone 0 0 { t with ws := Ws.reset }).jobs[j] = s.jobs[j] :=
    (jobs_of_beside (beside_stopJob i _ _ _ _ (s := { t with ws := Ws.reset }) rfl) hij).trans
        (show t.jobs[j] = _ from jobs_of_beside h hij)
  rw [tenantStop_jobs i ha]
  unfold stopOutside
  split
  · split
    · exact hstop (beside_abortStep ..)
    · exact hstop rfl
  · exact hstop rfl

theorem eachSlot_tenantStop_ends {s : State} (ha : awake s = true) : JobsEnd s (eachSlot tenantStop s) := by
  have h0 := tenantStop_ends 0 ha
  have h1 := h0.trans (tenantStop_ends 1 (h0.within.awake rfl ha))
  have h2 := h1.trans (tenantStop_ends 2 (h1.within.awake rfl ha))
  unfold eachSlot
  exact h2.trans (tenantStop_ends 3 (h2.within.awake rfl ha))

theorem eachSlot_tenantStop_jobs {s : State} (ha : awake s = true) : (eachSlot tenantStop s).jobs = vrep 4 none := by
  have h0 := tenantStop_ends 0 ha
  have h1 := h0.trans (tenantStop_ends 1 (h0.within.awake rfl ha))
  have h2 := h1.trans (tenantStop_ends 2 (h1.within.awake rfl ha))
  have a1 := h0.within.awake rfl ha
  have a2 := h1.within.awake rfl ha
  have a3 := h2.within.awake rfl ha
  have hslot : ∀ j : Fin 4, (eachSlot tenantStop s).jobs[j] = none := by
    intro j
    unfold eachSlot
    match j with
    | 0 => rw [tenantStop_other (by decide) a3, tenantStop_other (by decide) a2, tenantStop_other (by decide) a1,
        tenantStop_slot 0 ha]
    | 1 => rw [tenantStop_other (by decide) a3, tenantStop_other (by decide) a2, tenantStop_slot 1 a1]
    | 2 => rw [tenantStop_other (by decide) a3, tenantStop_slot 2 a2]
    | 3 => exact tenantStop_slot 3 a3
  refine Vector.ext fun i hi => ?_
  exact (hslot ⟨i, hi⟩).trans (vrep_get none ⟨i, hi⟩).symm

/-! ### Steps 3 and 4: the links start again, sessions close, and keys go -/

theorem tenantLinks_within {s : State} (ha : awake s = true) :
    Within (both { pwr := true, links := true } answering) s (tenantLinks s) := by
  have hset {t : State} (h : Within (both { pwr := true, links := true } answering) s t) (x : Pwr) (l : Vector Link 8) :
      Within (both { pwr := true, links := true } answering) s { t with pwr := x, links := l } :=
    (h.set_pwr (x := x)).set_links
  have hretrain : Within (both { pwr := true, links := true } answering) s (match s.pwr.retrain with
      | some r => endWith r.pend stAborted s
      | none => s) := by
    split
    · exact (refl (both { pwr := true, links := true } answering) s).endWith ha ..
    · exact refl ..
  unfold tenantLinks
  refine hset ?_ _ _
  split
  · exact hretrain.endWith ha ..
  · exact hretrain

theorem abandonImage_tenant {s : State} (ha : awake s = true) : awake (abandonImage s) = true ∧
    Within (both { fls := true, glb := true } answering) s (abandonImage s) ∧ keyTask (abandonImage s) = keyTask s := by
  unfold abandonImage
  split
  · exact ⟨ha, refl .., rfl⟩
  · next x hx =>
    have hend := ((refl (both { fls := true } answering) s).set_fls (x := (dropTask imageTask s).fls)).andThen ha
      (endAll_within stAborted (taskPends imageTask s))
    have hkeys : keyTask (endAll stAborted (taskPends imageTask s) (dropTask imageTask s)) = keyTask s :=
      (keyTask_of_fls (endAll_within stAborted (taskPends imageTask s) (s := dropTask imageTask s) ha).fls_eq).trans
        (keyTask_dropTask imageTask_of_storesKeys s)
    have hbank (t : State) : Within { glb := true, fls := true } t
        (setBank x.bank .empty { t with fls := { t.fls with img := none } }) := by
      cases x.bank <;> rfl
    have hup (t : State) : awake (setBank x.bank .empty t) = awake t := by cases x.bank <;> rfl
    refine ⟨(hup _).trans (hend.awake rfl ha), hend.grow.trans (hbank _).grow, ?_⟩
    rw [keyTask_eq, setBank_fls, ← keyTask_eq]
    exact hkeys

theorem closeDebug_within (s : State) : Within { mgmt := true, aon := true, evt := true } s (closeDebug s) := closeDebug_frame s

theorem closeDebug_awake_time {s : State} (ha : awake s = true) :
    awake (closeDebug s) = true ∧ (closeDebug s).aon.time = s.aon.time := by
  cases ho : s.mgmt.debugOpen
  · have hc : closeDebug s = s := by
      unfold closeDebug closeDebugRecord
      simp only [ho, Bool.false_eq_true, if_false]
      rfl
    rw [hc]
    exact ⟨ha, rfl⟩
  · obtain ⟨-, haon, hup⟩ := closeDebug_open ho ha
    exact ⟨hup, by rw [haon]⟩

/-- Sessions, images and requests end: the state before step 4 takes the keys. -/
def tenantQuit (s : State) : State :=
  endWaiting stAborted (abandonImage (closeDebug s)).rng.waiting
    (eachSlot (endLoads stAborted) (abandonImage (closeDebug s)))

theorem tenantQuit_keeps {s : State} (ha : awake s = true) :
    Within (both { aon := true, fls := true, glb := true } answering) s (tenantQuit s) ∧
    (tenantQuit s).aon.time = s.aon.time ∧ keyTask (tenantQuit s) = keyTask s := by
  obtain ⟨hup, htime⟩ := closeDebug_awake_time ha
  obtain ⟨hup2, himg, hkeys⟩ := abandonImage_tenant hup
  have hloads : Within answering (abandonImage (closeDebug s))
      (eachSlot (endLoads stAborted) (abandonImage (closeDebug s))) := by
    unfold eachSlot
    exact (((endLoads_within stAborted 0 hup2).andThen hup2 (endLoads_within stAborted 1)).andThen hup2
      (endLoads_within stAborted 2)).andThen hup2 (endLoads_within stAborted 3)
  have hq : Within answering (abandonImage (closeDebug s)) (tenantQuit s) := 
    hloads.andThen hup2 (endWaiting_within _ _)
  refine ⟨((closeDebug_within s).grow.trans himg.grow).trans hq.grow, ?_, ?_⟩
  · rw [hq.aon_eq, himg.aon_eq, htime]
  · rw [keyTask_of_fls hq.fls_eq, hkeys, keyTask_of_fls (closeDebug_within s).fls_eq]

theorem tenantClose_rng (s : State) : (tenantClose s).rng = { (tenantQuit s).rng with waiting := [] } := rfl

theorem tenantClose_sec (s : State) : (tenantClose s).sec =
    { (tenantQuit s).sec with keys := vrep 4 none, held := [], mr4 := none } := rfl

theorem keyTask_tenantClose (s : State) : keyTask (tenantClose s) = keyTask (tenantQuit s) := by
  rw [keyTask_eq, keyTask_eq]
  rfl

/-! ### Steps 1 to 4 -/

/-- Step 1: the command is under way. -/
def tenantBegun (ms : Word) (p : Pend) (s : State) : State :=
  let s1 := startPending p s
  { s1 with sec := { s1.sec with tending := true, tend := some (p, ms) } }

theorem tenantBegun_within (ms : Word) (p : Pend) {s : State} (ha : awake s = true) :
    Within (both { sec := true } answering) s (tenantBegun ms p s) :=
  ((refl (both { sec := true } answering) s).startPending ha p).set_sec

theorem tenantBegun_sec (ms : Word) (p : Pend) {s : State} (ha : awake s = true) :
    (tenantBegun ms p s).sec = { s.sec with tending := true, tend := some (p, ms) } := by
  have hs := ((refl answering s).startPending ha p).sec_eq
  unfold tenantBegun
  dsimp only
  rw [hs]

/-- The membership is gone. -/
def unmembered (s : State) : State := { s with ws := Ws.reset }

theorem unmembered_ends (s : State) : JobsEnd s (unmembered s) ∧ (unmembered s).jobs = s.jobs := ⟨⟨rfl, rfl⟩, rfl⟩

/-- Steps 2 and 3: no job and no membership are left. -/
def tenantStops (s : State) : State := unmembered (eachSlot tenantStop s)

theorem tenantStops_ends {s : State} (ha : awake s = true) :
    JobsEnd s (tenantStops s) ∧ (tenantStops s).jobs = vrep 4 none := by
  obtain ⟨hws, hjobs⟩ := unmembered_ends (eachSlot tenantStop s)
  exact ⟨(eachSlot_tenantStop_ends ha).trans hws, hjobs.trans (eachSlot_tenantStop_jobs ha)⟩

/-- The state before step 4 takes the keys. -/
def tenantBare (ms : Word) (p : Pend) (s : State) : State := tenantQuit (tenantLinks (tenantStops (tenantBegun ms p s)))

theorem tenantEndRun_eq (ms : Word) (p : Pend) {s : State} (hr : s.rng.state ≠ .failed) :
    tenantEndRun ms p s = tenantDraw (tenantClose (tenantLinks (tenantStops (tenantBegun ms p s)))) :=
  if_neg (by rw [beq_iff_eq]; exact hr)

/-- What is left when step 4 takes the keys. -/
structure TenantBare (ms : Word) (p : Pend) (s t : State) : Prop where
  jobs : t.jobs = vrep 4 none
  ws : t.ws = Ws.reset
  time : t.aon.time = s.aon.time
  rng : t.rng = s.rng
  sec : t.sec = { s.sec with tending := true, tend := some (p, ms) }
  keyTask : keyTask t = keyTask s

theorem tenantBare_is (ms : Word) (p : Pend) {s : State} (ha : awake s = true) : TenantBare ms p s (tenantBare ms p s) := by
  have hbegun := tenantBegun_within ms p ha
  have a0 := hbegun.awake rfl ha
  obtain ⟨hstops, hjobs⟩ := tenantStops_ends a0
  have a1 := hstops.within.awake rfl a0
  have hlinks := tenantLinks_within a1
  obtain ⟨hquit, htime, hkeys⟩ := tenantQuit_keeps (hlinks.awake rfl a1)
  unfold tenantBare
  constructor
  case jobs => rw [hquit.jobs_eq, hlinks.jobs_eq, hjobs]
  case ws => rw [hquit.ws_eq, hlinks.ws_eq]; rfl
  case time => rw [htime, hlinks.aon_eq, hstops.within.aon_eq, hbegun.aon_eq]
  case rng => rw [hquit.rng_eq, hlinks.rng_eq, hstops.within.rng_eq, hbegun.rng_eq]
  case sec => rw [hquit.sec_eq, hlinks.sec_eq, hstops.within.sec_eq, tenantBegun_sec ms p ha]
  case keyTask => rw [hkeys, keyTask_of_fls hlinks.fls_eq, hstops.keyTask, keyTask_of_fls hbegun.fls_eq]

theorem tenantDraw_asks {s : State} (ht : s.sec.tend.isSome = true) (hk : keyTask s = false) (hr : s.rng.state ≠ .failed) :
    tenantDraw s = { s with rng := { s.rng with waiting := s.rng.waiting ++ [⟨.tenant, 4⟩] } } := by
  have hr' : (s.rng.state == .failed) = false := beq_eq_false_iff_ne.mpr hr
  unfold tenantDraw askRng
  simp only [ht, hk, hr', Bool.not_false, Bool.and_self, if_true, Bool.false_eq_true, if_false]

/-- Steps 1 to 4, while the noise source works and no KEY_UPDATE is under way. -/
theorem tenantEndRun_asks (ms : Word) (p : Pend) {s : State} (ha : awake s = true) (hr : s.rng.state ≠ .failed)
    (hk : keyTask s = false) : tenantEndRun ms p s =
      { tenantClose (tenantLinks (tenantStops (tenantBegun ms p s))) with rng := { s.rng with waiting := [⟨.tenant, 4⟩] } } := by
  have hbare := tenantBare_is ms p ha
  unfold tenantBare at hbare
  rw [tenantEndRun_eq ms p hr, tenantDraw_asks]
  · rw [tenantClose_rng, hbare.rng]
    rfl
  · rw [tenantClose_sec, hbare.sec]
    rfl
  · rw [keyTask_tenantClose, hbare.keyTask, hk]
  · rw [tenantClose_rng, hbare.rng]
    exact hr

end Sys2Proof.Machine
end

section
/-! TENANT_END (R417): its last steps. -/

namespace Sys2Proof.Machine
open Sys2Proof.Claims
open Within

/-! ### Messages -/

/-- The blocks that messages change. -/
def sending : Blocks := { evt := true, links := true, ws := true, out := true }

theorem enqueue_within (l : Fin 8) (x : Sent) {s : State} : Within sending s (enqueue l x s) := rfl

theorem bumpWs_within (i : Fin 2) (n : Nat) {s : State} (ha : awake s = true) : Within sending s (bumpWs i n s) :=
  (refl sending s).set_ws.postIf ha _ _

theorem sendTo_within (dst : Nat) (x : Sent) {s : State} (ha : awake s = true) : Within sending s (sendTo dst x s) := by
  unfold sendTo
  split
  · exact enqueue_within ..
  · exact bumpWs_within _ _ ha

theorem noteSent_within (x : Sent) (s : State) : Within sending s (noteSent x s) := rfl

theorem send_within (dst : BitVec 16) (kind : Byte) (arg : BitVec 16) (p : Payload) {s : State} (ha : awake s = true) :
    Within sending s (send dst kind arg p s) := by
  have hn := noteSent_within (sentOf dst kind arg p s) s
  unfold send
  refine ite (foldl (fun t l h => h.trans (enqueue_within ..)) _ hn) (ite hn ?_)
  exact hn.andThen ha (sendTo_within _ _)

theorem sendCoord_within (kind : Byte) (arg : BitVec 16) (p : Payload) {s : State} (ha : awake s = true) :
    Within sending s (sendCoord kind arg p s) := ite (send_within _ _ _ _ ha) (refl ..)

theorem moveOne_within (l : Fin 8) (before after : State) (m : BitVec 2 × Nat × Sent) {s : State} (ha : awake s = true) :
    Within sending s (moveOne l before after m s) :=
  ite (ite (refl ..) (bumpWs_within _ _ ha)) (foldl (fun t k h => h.trans (enqueue_within ..)) _ (refl sending s).set_links)

theorem moveQueue_within (l : Fin 8) (before : State) {s : State} (ha : awake s = true) :
    Within sending s (moveQueue l before s) :=
  foldl (fun _ _ h => h.andThen ha (moveOne_within _ _ _ _)) _ (refl ..)

/-! ### Retrains -/

theorem retrainLink_within (scheduled : Bool) (l : Fin 8) {s : State} (ha : awake s = true) :
    Within sending s (retrainLink scheduled l s) := by
  have htold : Within sending s (if scheduled then (if isCoord s then noteRetrain s.ws.rank s else sendCoord 0x12 0 .empty s)
      else s) := ite (ite rfl (sendCoord_within _ _ _ ha)) (refl ..)
  unfold retrainLink
  exact ((htold.set_links.andThen ha (moveQueue_within _ _)).bumpLink ha _ _ _).post ha _

/-- The blocks that retrains change, RETRAIN answered. -/
def retraining : Blocks := both { pwr := true } (both sending answering)

/-- Retrains leave a self-test as it is. -/
structure RetrainMove (s t : State) : Prop where
  within : Within retraining s t
  selftest : t.pwr.selftest = s.pwr.selftest

theorem RetrainMove.refl (s : State) : RetrainMove s s := ⟨Within.refl .., rfl⟩

theorem RetrainMove.trans {s t u : State} (h : RetrainMove s t) (k : RetrainMove t u) : RetrainMove s u :=
  ⟨h.within.trans k.within, k.selftest.trans h.selftest⟩

theorem RetrainMove.of_sending {s t : State} (h : Within sending s t) : RetrainMove s t :=
  ⟨h.grow, congrArg Pwr.selftest h.pwr_eq⟩

theorem retrainCheck_moves {s : State} (ha : awake s = true) : RetrainMove s (retrainCheck s) := by
  unfold retrainCheck
  split
  · next r hr =>
    split
    · have hset : RetrainMove s { s with pwr := { s.pwr with retrain := none } } := ⟨rfl, rfl⟩
      have hans := (Within.refl answering { s with pwr := { s.pwr with retrain := none } }).answer ha r.pend stDone true
        (r.failed.setWidth 32) 0 0 0
      exact hset.trans ⟨hans.grow, congrArg Pwr.selftest hans.pwr_eq⟩
    · exact .refl s
  · exact .refl s

theorem retrainUnitDone_moves (n : Nat) (failed : Bool) {s : State} (ha : awake s = true) :
    RetrainMove s (retrainUnitDone n failed s) := by
  unfold retrainUnitDone
  split
  · next r hr =>
    have hset (r1 : RetrainReq) : RetrainMove s { s with pwr := { s.pwr with retrain := some r1 } } := ⟨rfl, rfl⟩
    exact (hset _).trans (retrainCheck_moves ha)
  · exact .refl s

theorem startUnit_moves (n : Nat) {s : State} (ha : awake s = true) : RetrainMove s (startUnit n s) := by
  have hset : RetrainMove s { s with pwr := { s.pwr with armed := s.pwr.armed &&& ~~~(BitVec.ofNat 12 (2 ^ n)) } } := ⟨rfl, rfl⟩
  unfold startUnit
  split
  · dsimp only
    split
    · exact hset.trans (.of_sending (retrainLink_within _ _ ha))
    · exact hset.trans (retrainUnitDone_moves _ _ ha)
  · exact ⟨rfl, rfl⟩

theorem nextUnit_moves (n : Nat) {s : State} (ha : awake s = true) : RetrainMove s (nextUnit n s) := by
  induction n generalizing s with
  | zero => exact .refl s
  | succ n ih =>
    unfold nextUnit
    split
    · exact .refl s
    · split
      · exact .refl s
      · next m hm =>
        have hstart := startUnit_moves m ha
        exact hstart.trans (ih (hstart.within.awake rfl ha))

/-- With no self-test pending and no re-placement due, a boundary starts retrains alone. -/
theorem unitWorkIfIdle_within {s : State} (ha : awake s = true) (ht : s.pwr.selftest = none)
    (hr : s.stk.replacePending = false) : Within retraining s (unitWorkIfIdle s) := by
  have harm : RetrainMove s (armUnits s) := ⟨rfl, rfl⟩
  have hnext := harm.trans (nextUnit_moves 12 (harm.within.awake rfl ha))
  have hbegin : beginTest (nextUnit 12 (armUnits s)) = nextUnit 12 (armUnits s) := by
    unfold beginTest
    rw [hnext.selftest, ht]
  have hplace : replaceFrames (nextUnit 12 (armUnits s)) = nextUnit 12 (armUnits s) :=
    if_neg (by rw [hnext.within.stk_eq, hr]; exact Bool.false_ne_true)
  have hwork : unitWork s = nextUnit 12 (armUnits s) := by
    unfold unitWork
    rw [hbegin, hplace]
  refine ite ?_ (Within.refl ..)
  rw [hwork]
  exact hnext.within

/-! ### The event log is flushed -/

/-- The blocks that filing events changes. -/
def filing : Blocks := { evt := true, fls := true, mgmt := true, hif := true }

theorem bumpSeal_within {s : State} (ha : awake s = true) : Within filing s (bumpSeal s) := by
  unfold bumpSeal
  split
  · exact refl ..
  · exact ite (((refl filing s).set_hif.set_hif).post ha _) (refl filing s).set_hif

theorem toRing_within (r : EvtRec) {s : State} (ha : awake s = true) : Within filing s (toRing r s) := by
  have hdrop : Within filing s
      (bumpEvt 1 1 { s with evt := { s.evt with fault := orBit s.evt.fault 1, ringLost := true } }) := rfl
  unfold toRing
  refine ite (refl ..) ?_
  split
  · exact ite hdrop (((refl filing s).set_evt.andThen ha bumpSeal_within).fire _)
  · exact hdrop

theorem fileOne_within {s : State} (ha : awake s = true) : Within filing s (fileOne s) := by
  unfold fileOne
  split
  · exact refl ..
  · next e rest hq =>
    have hlog : Within filing s { s with evt := { s.evt with
        queue := rest, lostBefore := false, seqNext := s.evt.seqNext + 1,
        log := tabPut s.evt.head.toNat ⟨s.evt.seqNext, s.evt.lostBefore, e⟩ s.evt.log, head := s.evt.head + 1 } } := rfl
    have hkept {t : State} (h : Within filing s t) (p q : Prop) [Decidable p] [Decidable q] (f : Fls) (m : Mgmt) :
        Within filing s (if q then { (if p then { t with fls := f } else t) with mgmt := m } else if p then
            { t with fls := f } else t) :=
      ite (ite h.set_fls h).set_mgmt (ite h.set_fls h)
    exact (hkept hlog ..).andThen ha (toRing_within _)

theorem fileN_within (n : Nat) {s : State} (ha : awake s = true) : Within filing s (fileN n s) := by
  induction n generalizing s with
  | zero => exact refl ..
  | succ n ih => exact (fileOne_within ha).andThen ha ih


theorem flushEvents_within {s : State} (ha : awake s = true) : Within filing s (flushEvents s) := fileN_within _ ha

/-! ### Steps 5 to 8 -/

/-- What steps 5 to 8 of TENANT_END have left when the module goes on: nothing waits, and what the next tenant sees is new. -/
structure Tenantless (ms : Word) (s : State) : Prop where
  awake : awake s = true
  tending : s.sec.tending = false
  tendMs : s.sec.tendMs = ms
  later : s.sec.later = []
  handles : s.stk.handles = []
  replace : s.stk.replacePending = false
  xts : s.stk.xts.isSome = true
  mr3 : s.aon.mr3 = []
  debug : s.aon.debugSeen = false
  selftest : s.pwr.selftest = none
  seq : s.pwr.seq = .idle

theorem scrub_within {s : State} (ha : awake s = true) :
    (scrub s).glb = s.glb ∧ (scrub s).pwr = s.pwr ∧ (scrub s).sec.later = s.sec.later := by
  have h := flushEvents_within ha
  have hsec : (scrub s).sec.later = (flushEvents s).sec.later := rfl
  exact ⟨h.glb_eq rfl, h.pwr_eq, hsec.trans (congrArg Sec.later h.sec_eq)⟩

theorem scrub_stk (s : State) : (scrub s).stk.replacePending = false ∧ (scrub s).stk.handles = [] := ⟨rfl, rfl⟩

theorem clearSlotsBut_within (p : Pend) {s : State} (ha : awake s = true) :
    Within { hif := true, evt := true } s (clearSlotsBut p s) := by
  unfold clearSlotsBut
  exact foldl (b := { hif := true, evt := true }) (fun _ r h => h.putResult ha r) _ (set_hif (refl _ s))

/-- The state in which TENANT_END answers. -/
def tenantFresh (p : Pend) (ms : Word) (s : State) : State :=
  let s1 := drawMemoryKeys (clearSlotsBut p (scrub s))
  { s1 with
    aon := { s1.aon with debugSeen := false, historyLost := false, mr3 := [] },
    sec := { s1.sec with tending := false, tend := none, tendMs := ms } }

theorem tenantFresh_is (p : Pend) (ms : Word) {s : State} (ha : awake s = true) (hl : s.sec.later = [])
    (ht : s.pwr.selftest = none) (hs : s.pwr.seq = .idle) : Tenantless ms (tenantFresh p ms s) := by
  obtain ⟨hglb, hpwr, hlater⟩ := scrub_within ha
  obtain ⟨hrep, hhandles⟩ := scrub_stk s
  have hclear := clearSlotsBut_within p (awake_of_glb hglb ha)
  constructor
  case awake => exact awake_of_glb (hclear.glb_eq rfl) (awake_of_glb hglb ha)
  case later => exact (congrArg Sec.later hclear.sec_eq).trans (hlater.trans hl)
  case handles => exact (congrArg Stk.handles hclear.stk_eq).trans hhandles
  case replace => exact (congrArg Stk.replacePending hclear.stk_eq).trans hrep
  case selftest => exact (congrArg Pwr.selftest (hclear.pwr_eq.trans hpwr)).trans ht
  case seq => exact (congrArg Pwr.seq (hclear.pwr_eq.trans hpwr)).trans hs
  all_goals rfl

/-- What leaves those blocks alone leaves the new tenant's state. -/
theorem Tenantless.of_within {ms : Word} {b : Blocks} {s t : State} (h : Tenantless ms s) (hw : Within b s t)
    (hsec : t.sec.tending = s.sec.tending ∧ t.sec.tendMs = s.sec.tendMs ∧ t.sec.later = s.sec.later)
    (hg : b.glb = false := by rfl) (hk : b.stk = false := by rfl) (hn : b.aon = false := by rfl)
    (hp : b.pwr = false := by rfl) :
    Tenantless ms t := by
  obtain ⟨h1, h2, h3⟩ := hsec
  constructor
  case awake => exact hw.awake hg h.awake
  case tending => rw [h1, h.tending]
  case tendMs => rw [h2, h.tendMs]
  case later => rw [h3, h.later]
  case handles => rw [hw.stk_eq hk, h.handles]
  case replace => rw [hw.stk_eq hk, h.replace]
  case xts => rw [hw.stk_eq hk, h.xts]
  case mr3 => rw [hw.aon_eq hn, h.mr3]
  case debug => rw [hw.aon_eq hn, h.debug]
  case selftest => rw [hw.pwr_eq hp, h.selftest]
  case seq => rw [hw.pwr_eq hp, h.seq]

theorem runLater_none {s : State} (h : s.sec.later = []) : runLater s = { s with sec := { s.sec with later := [] } } := by
  unfold runLater
  rw [h]
  rfl

theorem quiesceCheck_idle {s : State} (h : s.pwr.seq = .idle) : quiesceCheck s = s := by
  unfold quiesceCheck
  rw [h]

theorem tenantFinish_eq (p : Pend) (ms : Word) (s : State) : tenantFinish p ms s = unitWorkIfIdle (quiesceCheck (runLater
    (post (ev 0x0609) (answer p stDone true ms 0 0 0 (bumpSec 4 1 (tenantFresh p ms s)))))) := rfl

/-- The results of steps 5 to 8, with no command that waited for the tenant's end. -/
theorem tenantFinish_fresh (p : Pend) (ms : Word) {s : State} (ha : awake s = true) (hl : s.sec.later = [])
    (ht : s.pwr.selftest = none) (hs : s.pwr.seq = .idle) :
    ∃ u, Tenantless ms u ∧ Within retraining u (tenantFinish p ms s) := by
  have hfresh := tenantFresh_is p ms ha hl ht hs
  have hcount : Tenantless ms (bumpSec 4 1 (tenantFresh p ms s)) :=
    hfresh.of_within ((refl { sec := true, evt := true } _).bumpSec hfresh.awake 4 1) ⟨rfl, rfl, rfl⟩
  have hans := ((refl answering _).answer hcount.awake p stDone true ms 0 0 0).post hcount.awake (ev 0x0609)
  have hdone := hcount.of_within hans ⟨congrArg Sec.tending hans.sec_eq, congrArg Sec.tendMs hans.sec_eq,
      congrArg Sec.later hans.sec_eq⟩
  rw [tenantFinish_eq, runLater_none hdone.later]
  have hrun := hdone.of_within (t := { post (ev 0x0609) (answer p stDone true ms 0 0 0 (bumpSec 4 1 (tenantFresh p ms s))) with
    sec := { (post (ev 0x0609) (answer p stDone true ms 0 0 0 (bumpSec 4 1 (tenantFresh p ms s)))).sec with later := [] } })
    (b := { sec := true }) rfl ⟨rfl, rfl, hdone.later.symm⟩
  rw [quiesceCheck_idle hrun.seq]
  exact ⟨_, hrun, unitWorkIfIdle_within hrun.awake hrun.selftest hrun.replace⟩

/-- The outcome of steps 1 to 4. -/
structure TenantEnding (p : Pend) (ms : Word) (s t : State) : Prop where
  jobs : t.jobs = vrep 4 none
  ws : t.ws = Ws.reset
  keys : t.sec.keys = vrep 4 none
  held : t.sec.held = []
  session : t.hif.session = none
  sessions : t.fls.sessions = 0
  xts : t.stk.xts = none
  salt : t.stk.salt = none
  tending : t.sec.tending = true
  tend : t.sec.tend = some (p, ms)
  waiting : t.rng.waiting = [⟨.tenant, 4⟩]
  time : t.aon.time = s.aon.time

theorem TenantBare.ending {ms : Word} {p : Pend} {s t : State} (h : TenantBare ms p s (tenantQuit t)) (r : Rng)
    (hr : r.waiting = [⟨.tenant, 4⟩]) : TenantEnding p ms s { tenantClose t with rng := r } where
  jobs := h.jobs
  ws := h.ws
  keys := rfl
  held := rfl
  session := rfl
  sessions := rfl
  xts := rfl
  salt := rfl
  tending := congrArg Sec.tending h.sec
  tend := congrArg Sec.tend h.sec
  waiting := hr
  time := h.time

theorem tenantEndRun_ending (ms : Word) (p : Pend) {s : State} (ha : awake s = true) (hr : s.rng.state ≠ .failed)
    (hk : keyTask s = false) : TenantEnding p ms s (tenantEndRun ms p s) := by
  have hbare := tenantBare_is ms p ha
  unfold tenantBare at hbare
  rw [tenantEndRun_asks ms p ha hr hk]
  exact hbare.ending _ rfl

theorem exec_tenantEnd {c : Cmd} {s s1 : State} (h : Runs c 0x50 s s1) (ms : Word) :
    exec (.tenantEnd c ms) s = .next (tenantEndRun ms (pendOf c 0x50 s1) s1) := runCmd_of_runs h _

theorem tenantEndRun_refused (ms : Word) (p : Pend) {s : State} (hr : s.rng.state = .failed) :
    tenantEndRun ms p s = endWith p stRefused s := if_pos (by rw [hr]; rfl)

/-- Settles O25: the frames of what ends jobs, links and sessions carry what step 1 sets to the draw of step 4, and the
boundary after step 8 touches none of what the new tenant sees. -/
theorem tenantEndTakesTheTenantsState : Obligations.TenantEndTakesTheTenantsState := by
  refine ⟨?_, ?_, ?_⟩
  · intro c ms s s1 h hr hk
    rw [← runs_rng h] at hr
    have he := tenantEndRun_ending ms (pendOf c 0x50 s1) (runs_awake h) hr ((keyTask_of_fls (runs_fls h)).trans hk)
    exact ⟨_, exec_tenantEnd h ms, he.jobs, he.ws, he.keys, he.held, he.session, he.sessions, he.xts, he.salt, he.tending,
      he.tend, he.waiting, he.time.trans (congrArg Aon.time (runs_aon h))⟩
  · intro c ms s s1 h hr
    rw [exec_tenantEnd h, tenantEndRun_refused]
    rw [runs_rng h, hr]
  · intro p ms s ha hl ht hs
    obtain ⟨u, hu, hw⟩ := tenantFinish_fresh p ms ha hl ht hs
    refine ⟨?_, ?_, ?_, ?_, ?_, ?_⟩
    · rw [hw.sec_eq, hu.tending]
    · rw [hw.stk_eq, hu.handles]
    · rw [hw.stk_eq, hu.xts]
    · rw [hw.aon_eq, hu.mr3]
    · rw [hw.sec_eq, hu.tendMs]
    · rw [hw.aon_eq, hu.debug]

end Sys2Proof.Machine
end

section
/-! Sensor words (R425): a port that takes the first bit of a word as its MSB enters the word reversed. -/

namespace Sys2Proof.Machine
open Sys2Proof.Claims

/-- A port that captures words of 8 bits, MSB first, within a frame. -/
def msbFirstPort : Port := { Port.reset with cfg := 0x13801, clk := true, capturing := true, frame := some 0 }

/-- A module with that port in place 0. -/
def msbFirstModule : State := { State.reset with sns := (vrep 24 Port.reset).set 0 msbFirstPort }

theorem msbFirstModule_port : msbFirstModule.sns[(0 : Fin 24)] = msbFirstPort := Vector.getElem_set_self _

theorem msbFirstModule_live : portLive 0 msbFirstModule = true := by
  unfold portLive
  rw [msbFirstModule_port]
  decide

/-- The word whose first bit alone is 1. -/
theorem msbFirstModule_word : exec (.sensorWord 0 1) msbFirstModule = .next (wordRun 0 0 1 msbFirstModule) := by
  change execSensorWord 0 1 msbFirstModule = _
  rw [execSensorWord, msbFirstModule_port, msbFirstModule_live]
  rfl

theorem wordRun_buf {p : Fin 24} {s : State} (h : s.sns[p].buf.length < 256) (f : DWord) (w : Word) :
    (wordRun p f w s).sns[p].buf = s.sns[p].buf ++ [entryFor p f s.sns[p].word w s.sns[p]] := by
  have hrun : wordRun p f w s = bumpSns p 0 1 (setSns p (fun x =>
      { x with buf := x.buf ++ [entryFor p f x.word w x], word := x.word + 1, burst := false }) s) := if_neg (by omega)
  rw [hrun, bumpSns_own, upd_same, setSns_sns, upd_same]

/-- Refutes O9: its clause about the data of an entry asks nothing of the order in which the port takes the bits (R425,
MSB_FIRST). On `msbFirstModule` the word whose first bit alone is 1 enters the buffer as 0x80, not as 1. -/
theorem not_sensorPortsTakeFramesAndWords : ¬ Obligations.SensorPortsTakeFramesAndWords := by
  unfold Obligations.SensorPortsTakeFramesAndWords
  rintro ⟨-, hword, -, -⟩
  have hport := msbFirstModule_port
  have hroom : msbFirstModule.sns[(0 : Fin 24)].buf.length < 256 := by rw [hport]; decide
  obtain ⟨t, e, ht, hbuf, -, hdata, -⟩ := hword 0 1 0 msbFirstModule (by rw [hport]; rfl) msbFirstModule_live
    (by rw [hport]; rfl) hroom
  have hrun : wordRun 0 0 1 msbFirstModule = t := Host.Outcome.next.inj (msbFirstModule_word.symm.trans ht)
  rw [← hrun, wordRun_buf hroom, hport] at hbuf
  rw [hport] at hdata
  have he : entryFor 0 0 msbFirstPort.word 1 msbFirstPort = e := by simpa using hbuf
  rw [← he] at hdata
  exact absurd hdata (by decide)

end Sys2Proof.Machine
end

section
/-! The always-on block (R434 to R443): the timekeeper's corrections, comparators and the timer. -/

namespace Sys2Proof.Machine
open Sys2Proof.Claims
open Within

/-! ### What an event leaves of the always-on domain -/

/-- With the main rails down an event is latched; no other register of the domain changes. -/
theorem post_aon (e : Posted) (s : State) : (post e s).aon = { s.aon with deferred := (post e s).aon.deferred } := by
  unfold post
  split
  · split <;> rfl
  · rfl

theorem postIf_aon (c : Bool) (e : Posted) (s : State) :
    (postIf c e s).aon = { s.aon with deferred := (postIf c e s).aon.deferred } := by
  cases c
  · rfl
  · exact post_aon e s

theorem bumpAon_aon (i : Fin 4) (n : Nat) (s : State) : (bumpAon i n s).aon =
    { s.aon with ctrs := upd s.aon.ctrs i (ctrAdd · n), deferred := (bumpAon i n s).aon.deferred } := postIf_aon ..

theorem hearsPps_awake {s : State} (h : hearsPps s = true) : awake s = true := by
  simp only [hearsPps, tkLive, Bool.and_eq_true] at h
  exact awake_of_running h.1.1

theorem bumpAon_up (i : Fin 4) (n : Nat) {s : State} (ha : awake s = true) : (bumpAon i n s).aon =
    { s.aon with ctrs := upd s.aon.ctrs i (ctrAdd · n) } :=
  postIf_awake _ _ (s := { s with aon := { s.aon with ctrs := upd s.aon.ctrs i (ctrAdd · n) } }) ha

/-! ### Corrections of the timekeeper (R435, R436) -/

/-- The registers after an edge at which no correction has been weighed yet. -/
def edgeAon (a : Aon) : Aon := { a with ctrs := upd a.ctrs 0 (ctrAdd · 1), lastPps := a.time }

/-- The state after an edge at which no correction has been weighed yet. -/
def edgeState (s : State) : State := { bumpAon 0 1 s with aon := { (bumpAon 0 1 s).aon with lastPps := s.aon.time } }

theorem edgeState_aon {s : State} (ha : awake s = true) : (edgeState s).aon = edgeAon s.aon := by
  unfold edgeState
  rw [bumpAon_up 0 1 ha]
  rfl

/-- The blocks that a correction changes. -/
def disciplining : Blocks := { aon := true, evt := true, free := true }

theorem edgeState_within (s : State) : Within { aon := true, evt := true } s (edgeState s) :=
  ((refl { aon := true, evt := true } s).bumpAon rfl 0 1).set_aon

/-- The registers after a correction of e ns, but for the count and the trim. -/
def correctedAon (e : Int) (fabric : Bool) (a : Aon) : Aon :=
  let good := if decide (-20 ≤ e) && decide (e ≤ 20) then min 8 (a.goodRun + 1) else 0
  { a with ppsErr := satErr e, srcUsed := fabric, goodRun := good, rejRun := 0, tk := tkAfter good, lastCorr := a.time }

/-- A correction of e ns, announced where it disciplines the timekeeper. -/
def correctedState (e : Int) (fabric : Bool) (s : State) : State :=
  postIf ((correctedAon e fabric s.aon).tk == .disciplined && s.aon.tk != .disciplined) (ev 0x0A13)
    { s with free := s.free + 1, aon := correctedAon e fabric s.aon }

theorem correctedState_aon (e : Int) (fabric : Bool) {s : State} (ha : awake s = true) :
    (correctedState e fabric s).aon = correctedAon e fabric s.aon :=
  postIf_awake _ _ (s := { s with free := s.free + 1, aon := correctedAon e fabric s.aon }) ha

theorem correctedState_within (e : Int) (fabric : Bool) (s : State) : Within disciplining s (correctedState e fabric s) := by
  have hs : Within disciplining s { s with free := s.free + 1, aon := correctedAon e fabric s.aon } := rfl
  exact hs.postIf rfl _ _

/-- A distance of more than 1 ms either way. -/
theorem isFar_eq (e : Int) : (decide (e < -oneMs) || decide (oneMs < e)) = decide (1000000 < e.natAbs) := by
  have hm : oneMs = 1000000 := rfl
  rw [Bool.eq_iff_iff, Bool.or_eq_true, decide_eq_true_iff, decide_eq_true_iff, decide_eq_true_iff, hm]
  omega

/-- A correction of at most 1 ms leaves the count to the trim. -/
theorem tkCorrect_near {e : Int} (h : e.natAbs ≤ 1000000) (fabric : Bool) (s : State) : tkCorrect e fabric s =
    { correctedState e fabric s with aon := { (correctedState e fabric s).aon with freqAdj := someTrim s.free } } :=
  if_neg (by rw [isFar_eq, decide_eq_true_iff]; omega)

/-- A larger correction steps the count (R436). -/
def steppedState (e : Int) (fabric : Bool) (s : State) : State :=
  { correctedState e fabric s with aon := { (correctedState e fabric s).aon with
    time := s.aon.time + BitVec.ofInt 64 e, lastCorr := s.aon.time + BitVec.ofInt 64 e } }

theorem tkCorrect_far {e : Int} (h : 1000000 < e.natAbs) (fabric : Bool) (s : State) : tkCorrect e fabric s =
    post (ev 0x0A15) (bumpAon 2 1 (steppedState e fabric s)) :=
  if_pos (by rw [isFar_eq, decide_eq_true_iff]; exact h)

theorem tkCorrect_far_aon {e : Int} (h : 1000000 < e.natAbs) (fabric : Bool) {s : State} (ha : awake s = true) :
    (tkCorrect e fabric s).aon = { correctedAon e fabric s.aon with
      time := s.aon.time + BitVec.ofInt 64 e, lastCorr := s.aon.time + BitVec.ofInt 64 e,
      ctrs := upd s.aon.ctrs 2 (ctrAdd · 1) } := by
  have hstep : awake (steppedState e fabric s) = true := ((correctedState_within e fabric s).set_aon).awake rfl ha
  have hbump := bumpAon_up 2 1 hstep
  rw [tkCorrect_far h, post_awake _ _ (((refl disciplining _).bumpAon rfl 2 1).awake rfl hstep), hbump]
  unfold steppedState
  rw [correctedState_aon e fabric ha]
  rfl

theorem tkCorrect_within (e : Int) (fabric : Bool) (s : State) : Within disciplining s (tkCorrect e fabric s) := by
  have hc := correctedState_within e fabric s
  by_cases h : e.natAbs ≤ 1000000
  · rw [tkCorrect_near h]
    exact hc.set_aon
  · rw [tkCorrect_far (by omega)]
    have hs : Within disciplining s (steppedState e fabric s) := hc.set_aon
    exact (hs.bumpAon rfl 2 1).post rfl _

/-- The nearest whole second's distance from the count (R436). -/
def secOffset (a : Aon) : Int := (nearestSec a.time.toNat : Int) - (a.time.toNat : Int)

/-- How many edges in a row have been a second apart, were this one rejected. -/
def rejections (a : Aon) : Nat :=
  let apart : Int := (a.time.toNat : Int) - a.lastPps.toNat - oneSec
  if decide (-oneMs ≤ apart) && decide (apart ≤ oneMs) then a.rejRun + 1 else 1

/-- The state after an edge that is rejected. -/
def rejectedState (s : State) : State := { edgeState s with aon := { (edgeState s).aon with rejRun := rejections s.aon } }

theorem rejectedState_aon {s : State} (ha : awake s = true) :
    (rejectedState s).aon = { edgeAon s.aon with rejRun := rejections s.aon } := by
  unfold rejectedState
  rw [edgeState_aon ha]

theorem rejectedState_within (s : State) : Within { aon := true, evt := true } s (rejectedState s) :=
  (edgeState_within s).set_aon

theorem ppsCorrect_rejects {s : State} (htk : s.aon.tk = .disciplined) (hfar : 1000000 < (secOffset s.aon).natAbs)
    (hrun : rejections s.aon < 3) : ppsCorrect s = bumpAon 1 1 (rejectedState s) := by
  have hc : (s.aon.tk == .disciplined && (decide (secOffset s.aon < -oneMs) || decide (oneMs < secOffset s.aon)) &&
      decide (rejections s.aon < 3)) = true := by
    rw [htk, isFar_eq, decide_eq_true hfar, decide_eq_true hrun]; rfl
  exact if_pos hc

theorem ppsCorrect_sets {s : State} (htk : s.aon.tk ≠ .disciplined) (hn : s.aon.nextSec ≠ 0) : ppsCorrect s =
    let t := tkCorrect (((s.aon.nextSec.toNat * oneSec : Nat) : Int) - (s.aon.time.toNat : Int)) false (edgeState s)
    { t with aon := { t.aon with nextSec := 0 } } := by
  unfold ppsCorrect
  dsimp only
  rw [if_neg (by simp [htk]), if_pos (bne_iff_ne.mpr hn)]
  rfl

theorem ppsCorrect_corrects {s : State} (htk : s.aon.tk ≠ .disciplined) (hn : s.aon.nextSec = 0) : ppsCorrect s =
    tkCorrect (secOffset s.aon) false (edgeState s) := by
  unfold ppsCorrect
  dsimp only
  rw [if_neg (by simp [htk]), if_neg (by simp [hn])]
  rfl

theorem exec_ppsEdge {s : State} (h : hearsPps s = true) : exec .ppsEdge s = .next (ppsCorrect s) := if_pos h

/-- A far edge is rejected by a timekeeper that is disciplined (R436). -/
theorem ppsEdge_rejects {s : State} (h : hearsPps s = true) (htk : s.aon.tk = .disciplined) (hr : s.aon.rejRun < 2)
    (hfar : oneMs < ((nearestSec s.aon.time.toNat : Int) - s.aon.time.toNat).natAbs) :
    ∃ t, exec .ppsEdge s = .next t ∧ t.aon.time = s.aon.time ∧ t.aon.tk = .disciplined ∧
      t.aon.ctrs[0] = ctrAdd s.aon.ctrs[0] 1 ∧ t.aon.ctrs[1] = ctrAdd s.aon.ctrs[1] 1 ∧ t.aon.lastPps = s.aon.time ∧
      1 ≤ t.aon.rejRun ∧ t = { s with aon := t.aon, evt := t.evt } := by
  have ha := hearsPps_awake h
  have hrun : 1 ≤ rejections s.aon ∧ rejections s.aon < 3 := by unfold rejections; dsimp only; split <;> omega
  have hfar' : 1000000 < (secOffset s.aon).natAbs := by unfold oneMs at hfar; unfold secOffset; omega
  have haon := bumpAon_up 1 1 ((rejectedState_within s).awake rfl ha)
  rw [rejectedState_aon ha] at haon
  refine ⟨_, (exec_ppsEdge h).trans (congrArg _ (ppsCorrect_rejects htk hfar' hrun.2)), ?_, ?_, ?_, ?_, ?_, ?_,
    (rejectedState_within s).bumpAon rfl 1 1⟩
  all_goals rw [haon]
  · rfl
  · exact htk
  · exact (upd_other _ 1 0 _ (by decide)).trans (upd_same s.aon.ctrs 0 _)
  · exact (upd_same _ 1 _).trans (congrArg (ctrAdd · 1) (upd_other s.aon.ctrs 0 1 _ (by decide)))
  · rfl
  · exact hrun.1

/-- A step forward to n ends at n. -/
theorem stepped_toNat {t : DWord} {n : Nat} (hn : n < 2 ^ 64) (hle : t.toNat ≤ n) :
    (t + BitVec.ofInt 64 ((n : Int) - (t.toNat : Int))).toNat = n := by
  have hd : (n : Int) - (t.toNat : Int) = ((n - t.toNat : Nat) : Int) := by omega
  rw [hd, BitVec.ofInt_natCast, BitVec.toNat_add, BitVec.toNat_ofNat]
  omega

/-- A second set by the host is taken at the next edge (R436). -/
theorem ppsEdge_sets {s : State} (h : hearsPps s = true) (htk : s.aon.tk ≠ .disciplined) (hn : s.aon.nextSec ≠ 0)
    (hfar : oneMs < ((s.aon.nextSec.toNat * 1000000000 : Nat) - (s.aon.time.toNat : Int)))
    (hmax : s.aon.nextSec.toNat * 1000000000 < 2 ^ 63) :
    ∃ t, exec .ppsEdge s = .next t ∧ t.aon.time.toNat = s.aon.nextSec.toNat * 1000000000 ∧ t.aon.nextSec = 0 ∧
      t.aon.tk = .acquiring ∧ t.aon.ctrs[2] = ctrAdd s.aon.ctrs[2] 1 ∧ t.aon.srcUsed = false ∧
      t = { s with aon := t.aon, evt := t.evt, free := t.free } := by
  have ha := hearsPps_awake h
  have hup : awake (edgeState s) = true := (edgeState_within s).awake rfl ha
  have hbig : 1000000 < (((s.aon.nextSec.toNat * oneSec : Nat) : Int) - (s.aon.time.toNat : Int)).natAbs := by
    unfold oneMs at hfar; unfold oneSec; omega
  have hc := tkCorrect_far_aon hbig false hup
  have hgood : (decide (-20 ≤ (((s.aon.nextSec.toNat * oneSec : Nat) : Int) - (s.aon.time.toNat : Int))) &&
      decide ((((s.aon.nextSec.toNat * oneSec : Nat) : Int) - (s.aon.time.toNat : Int)) ≤ 20)) = false := by
    rw [Bool.and_eq_false_iff, decide_eq_false_iff_not, decide_eq_false_iff_not]; omega
  rw [edgeState_aon ha] at hc
  have hset (t : State) : Within disciplining t { t with aon := { t.aon with nextSec := 0 } } := rfl
  refine ⟨_, (exec_ppsEdge h).trans (congrArg _ (ppsCorrect_sets htk hn)), ?_, rfl, ?_, ?_, ?_,
    ((edgeState_within s).grow.trans (tkCorrect_within _ _ _)).trans (hset _)⟩
  · exact (congrArg (fun a : Aon => a.time.toNat) hc).trans (stepped_toNat (t := s.aon.time)
      (show s.aon.nextSec.toNat * oneSec < 2 ^ 64 by unfold oneSec; omega) (by unfold oneMs at hfar; unfold oneSec; omega))
  · refine (congrArg Aon.tk hc).trans ?_
    simp only [correctedAon, hgood, Bool.false_eq_true, if_false]
    decide
  · refine (congrArg (fun a : Aon => a.ctrs[2]) hc).trans ?_
    exact (upd_same _ 2 _).trans (congrArg (ctrAdd · 1) (upd_other s.aon.ctrs 0 2 _ (by decide)))
  · exact congrArg Aon.srcUsed hc

/-- The eighth small correction in a row disciplines the timekeeper (R435). -/
theorem ppsEdge_disciplines {s : State} (h : hearsPps s = true) (htk : s.aon.tk = .acquiring) (hn : s.aon.nextSec = 0)
    (hg : s.aon.goodRun = 7) (hnear : ((nearestSec s.aon.time.toNat : Int) - s.aon.time.toNat).natAbs ≤ 20) :
    ∃ t, exec .ppsEdge s = .next t ∧ t.aon.tk = .disciplined ∧ t.aon.goodRun = 8 ∧ t.aon.time = s.aon.time ∧
      t = { s with aon := t.aon, evt := t.evt, free := t.free } := by
  have ha := hearsPps_awake h
  have hnear' : (secOffset s.aon).natAbs ≤ 20 := hnear
  have hgood : (correctedAon (secOffset s.aon) false (edgeAon s.aon)).goodRun = 8 ∧
      (correctedAon (secOffset s.aon) false (edgeAon s.aon)).tk = .disciplined := by
    have hs : (decide (-20 ≤ secOffset s.aon) && decide (secOffset s.aon ≤ 20)) = true := by
      rw [Bool.and_eq_true, decide_eq_true_eq, decide_eq_true_eq]; omega
    have hg' : (edgeAon s.aon).goodRun = 7 := hg
    simp only [correctedAon, hs, hg', if_true]
    decide
  have hup : awake (edgeState s) = true := (edgeState_within s).awake rfl ha
  have hc := correctedState_aon (secOffset s.aon) false hup
  rw [edgeState_aon ha] at hc
  refine ⟨_, (exec_ppsEdge h).trans (congrArg _ ((ppsCorrect_corrects (by rw [htk]; decide) hn).trans
    (tkCorrect_near (by omega) false _))), ?_, ?_, ?_, ?_⟩
  · exact (congrArg Aon.tk hc).trans hgood.2
  · exact (congrArg Aon.goodRun hc).trans hgood.1
  · exact (congrArg Aon.time hc :)
  · exact (((edgeState_within s).grow (c := disciplining)).trans (correctedState_within _ _ _)).set_aon

/-- Three seconds without a correction (R435). -/
theorem tkHoldover_enters {s : State} (hr : running s = true) (hu : uncorrected s.aon = true)
    (htk : s.aon.tk = .acquiring ∨ s.aon.tk = .disciplined) :
    ∃ t, exec .tkHoldover s = .next t ∧ t.aon = { s.aon with tk := .holdover, goodRun := 0 } ∧
      (s.evt.queue.length < 32 → t.evt.queue = s.evt.queue ++ [stamp (ev 0x0A14) s]) ∧
      t = { s with aon := t.aon, evt := t.evt } := by
  have hc : (tkLive s && uncorrected s.aon && (s.aon.tk == .acquiring || s.aon.tk == .disciplined)) = true := by
    rcases htk with htk | htk <;> simp only [tkLive, hr, hu, htk] <;> decide
  have ha : awake { s with aon := { s.aon with tk := .holdover, goodRun := 0 } } = true := awake_of_running hr
  refine ⟨_, if_pos hc, post_awake _ _ ha, fun hq => ?_, ?_⟩
  · rw [post_room _ _ ha hq]
    rfl
  · exact Within.post (b := { aon := true, evt := true })
      (t := { s with aon := { s.aon with tk := .holdover, goodRun := 0 } }) rfl rfl _

/-! ### Retention words -/

theorem retAt_setRet_same {k : Nat} (h : k < 32) (w : Word) (a : Aon) : retAt (setRet k w a) k = w := by
  unfold retAt setRet
  simp [h]

theorem retAt_setRet_other {k m : Nat} (h : m ≠ k) (w : Word) (a : Aon) : retAt (setRet k w a) m = retAt a m := by
  unfold retAt setRet
  by_cases hk : k < 32
  · simp [hk, Vector.getElem?_set_ne, h.symm]
  · simp [hk]

/-! ### Comparators (R439 to R441) -/

/-- Comparator n has not released. -/
def heldAon (n : Fin 4) (a : Aon) : Aon :=
  { a with tripped := a.tripped ||| BitVec.ofNat 4 (2 ^ n.val), cellTrip := a.cellTrip || a.onCell }

/-- The registers after a trip of comparator n, but for the counter and ALARM_N. -/
def trippedAon (n : Fin 4) (a : Aon) : Aon := recordTrip n (heldAon n a)

theorem recordTrip_again {n : Fin 4} {a : Aon} (h : bitAt a.trip n.val = true) :
    recordTrip n a = setRet (10 + 3 * n.val) (retAt a (10 + 3 * n.val) ||| 0x1000) a := by
  have hk : 8 + 3 * n.val + 2 = 10 + 3 * n.val := by omega
  unfold recordTrip
  dsimp only
  rw [if_pos h, hk]

theorem recordTrip_first {n : Fin 4} {a : Aon} (h : bitAt a.trip n.val = false) : recordTrip n a =
    setRet (10 + 3 * n.val) ((a.cmpCfg[n] &&& 0x7FF) ||| (if a.onCell then 0x800 else 0))
      (setRet (9 + 3 * n.val) ((a.time >>> 32).setWidth 32) (setRet (8 + 3 * n.val) (a.time.setWidth 32)
        { a with trip := a.trip ||| BitVec.ofNat 4 (2 ^ n.val) })) := by
  have hk : 8 + 3 * n.val + 2 = 10 + 3 * n.val := by omega
  have hk1 : 8 + 3 * n.val + 1 = 9 + 3 * n.val := by omega
  unfold recordTrip
  dsimp only
  rw [if_neg (ne_true_of_eq_false h), hk, hk1]

/-- A trip leaves the other registers alone. -/
theorem trippedAon_eq (n : Fin 4) (a : Aon) : trippedAon n a = { a with
    trip := (trippedAon n a).trip, tripped := a.tripped ||| BitVec.ofNat 4 (2 ^ n.val), cellTrip := a.cellTrip || a.onCell,
    ret := (trippedAon n a).ret } := by
  unfold trippedAon recordTrip heldAon
  dsimp only
  split <;> rfl

/-- A set bit is a one of the word that holds it and of no other. -/
theorem bitAt_or_pow {w : Nat} (v : BitVec w) {n m : Nat} (hm : m < w) :
    bitAt (v ||| BitVec.ofNat w (2 ^ n)) m = (bitAt v m || decide (n = m)) := by
  rw [bitAt, bitAt, BitVec.getLsbD_or, BitVec.getLsbD_ofNat, Nat.testBit_two_pow, decide_eq_true hm, Bool.true_and]

theorem trippedAon_trip (n : Fin 4) (a : Aon) : bitAt (trippedAon n a).trip n.val = true := by
  unfold trippedAon
  cases h : bitAt (heldAon n a).trip n.val
  · rw [recordTrip_first h]
    exact (bitAt_or_pow _ n.isLt).trans (by simp)
  · rw [recordTrip_again h]
    exact h

/-- The trip is counted and posted, before any wake. -/
def tripPosted (n : Fin 4) (s : State) : State :=
  post { ev 0x0A11 with inst := BitVec.ofNat 8 n.val, info := (retAt (trippedAon n s.aon) (10 + 3 * n.val)).setWidth 64 }
    (bumpAon 3 1 (syncAlarm { s with aon := trippedAon n s.aon }))

theorem tripRun_eq (n : Fin 4) (s : State) : tripRun n s =
    if bitAt (tripPosted n s).aon.wakeEn (4 + n.val) && aonWakes (tripPosted n s) then
      wakeFrom 0x8 0 (BitVec.ofNat 32 (2 ^ (16 + n.val))) (tripPosted n s) else tripPosted n s := rfl

theorem tripPosted_within (n : Fin 4) (s : State) : Within { aon := true, evt := true } s (tripPosted n s) := by
  have hs : Within { aon := true, evt := true } s (syncAlarm { s with aon := trippedAon n s.aon }) := rfl
  exact (hs.bumpAon rfl 3 1).post rfl _

theorem tripPosted_aon (n : Fin 4) (s : State) : (tripPosted n s).aon = { trippedAon n s.aon with
    alarm := alarmLevel (trippedAon n s.aon), ctrs := upd s.aon.ctrs 3 (ctrAdd · 1),
    deferred := (tripPosted n s).aon.deferred } := by
  have hc : (trippedAon n s.aon).ctrs = s.aon.ctrs := by rw [trippedAon_eq]
  unfold tripPosted
  rw [post_aon, bumpAon_aon, ← hc]
  rfl

theorem tripRun_asleep {n : Fin 4} {s : State} (h : bitAt s.aon.wakeEn (4 + n.val) = false) : tripRun n s = tripPosted n s := by
  have hw : (tripPosted n s).aon.wakeEn = s.aon.wakeEn := by rw [tripPosted_aon, trippedAon_eq]
  rw [tripRun_eq, hw, h]
  rfl

theorem exec_cmpTrip {n : Fin 4} {s : State} (he : bitAt s.aon.cmpCfg[n] 13 = true) (ht : bitAt s.aon.tripped n.val = false) :
    exec (.cmpTrip n) s = .next (tripRun n s) := if_pos (by rw [he, ht]; rfl)

theorem exec_cmpTrip_not {n : Fin 4} {s : State} (h : bitAt s.aon.cmpCfg[n] 13 = false ∨ bitAt s.aon.tripped n.val = true) :
    exec (.cmpTrip n) s = .next s := by
  refine if_neg fun hc => ?_
  rw [Bool.and_eq_true, Bool.not_eq_true'] at hc
  obtain ⟨he, ht⟩ := hc
  rcases h with h | h
  · exact absurd (h.symm.trans he) Bool.false_ne_true
  · exact absurd (ht.symm.trans h) Bool.false_ne_true


theorem cmpTrip_first {n : Fin 4} {s : State} (he : bitAt s.aon.cmpCfg[n] 13 = true) (ht : bitAt s.aon.tripped n.val = false)
    (hw : bitAt s.aon.wakeEn (4 + n.val) = false) (hf : bitAt s.aon.trip n.val = false) :
    ∃ t, exec (.cmpTrip n) s = .next t ∧ bitAt t.aon.trip n.val = true ∧ bitAt t.aon.tripped n.val = true ∧
      retAt t.aon (8 + 3 * n.val) = s.aon.time.setWidth 32 ∧
      retAt t.aon (9 + 3 * n.val) = (s.aon.time >>> 32).setWidth 32 ∧
      retAt t.aon (10 + 3 * n.val) = ((s.aon.cmpCfg[n] &&& 0x7FF) ||| (if s.aon.onCell then 0x800 else 0)) ∧
      (bitAt s.aon.cmpCfg[n] 14 = true → t.aon.alarm = true) ∧ t.aon.ctrs[3] = ctrAdd s.aon.ctrs[3] 1 ∧
      t.aon.time = s.aon.time ∧ t = { s with aon := t.aon, evt := t.evt } := by
  have hn := n.isLt
  have hrec : trippedAon n s.aon = _ := recordTrip_first (a := heldAon n s.aon) hf
  have hret (k : Nat) : retAt (tripPosted n s).aon k = retAt (trippedAon n s.aon) k := by rw [tripPosted_aon]; rfl
  refine ⟨_, exec_cmpTrip he ht, ?_⟩
  rw [tripRun_asleep hw]
  refine ⟨?_, ?_, ?_, ?_, ?_, fun ha => ?_, ?_, ?_, tripPosted_within n s⟩
  · rw [tripPosted_aon]
    exact trippedAon_trip n s.aon
  · rw [tripPosted_aon, trippedAon_eq]
    exact (bitAt_or_pow _ hn).trans (by simp)
  · rw [hret, hrec, retAt_setRet_other (by omega), retAt_setRet_other (by omega), retAt_setRet_same (by omega)]
    rfl
  · rw [hret, hrec, retAt_setRet_other (by omega), retAt_setRet_same (by omega)]
    rfl
  · rw [hret, hrec, retAt_setRet_same (by omega)]
    rfl
  · rw [tripPosted_aon]
    refine List.any_eq_true.mpr ⟨n, List.mem_finRange n, ?_⟩
    rw [trippedAon_trip, trippedAon_eq]
    exact ha
  · rw [tripPosted_aon]
    exact upd_same _ 3 _
  · rw [tripPosted_aon, trippedAon_eq]

theorem cmpTrip_again {n : Fin 4} {s : State} (he : bitAt s.aon.cmpCfg[n] 13 = true) (ht : bitAt s.aon.tripped n.val = false)
    (hw : bitAt s.aon.wakeEn (4 + n.val) = false) (hf : bitAt s.aon.trip n.val = true) :
    ∃ t, exec (.cmpTrip n) s = .next t ∧ t.aon.trip = s.aon.trip ∧
      retAt t.aon (10 + 3 * n.val) = (retAt s.aon (10 + 3 * n.val) ||| 0x1000) ∧
      retAt t.aon (8 + 3 * n.val) = retAt s.aon (8 + 3 * n.val) ∧ t = { s with aon := t.aon, evt := t.evt } := by
  have hn := n.isLt
  have hrec : trippedAon n s.aon = _ := recordTrip_again (a := heldAon n s.aon) hf
  have hret (k : Nat) : retAt (tripPosted n s).aon k = retAt (trippedAon n s.aon) k := by rw [tripPosted_aon]; rfl
  refine ⟨_, exec_cmpTrip he ht, ?_⟩
  rw [tripRun_asleep hw]
  refine ⟨?_, ?_, ?_, tripPosted_within n s⟩
  · rw [tripPosted_aon, hrec]
    rfl
  · rw [hret, hrec, retAt_setRet_same (by omega)]
    rfl
  · rw [hret, hrec, retAt_setRet_other (by omega)]
    rfl

/-! ### Wakes of a module that is on its way to RUN (R467) -/

/-- While a transition toward RUN is pending, a wake is recorded and changes nothing else. -/
theorem wake_towardRun (w : Word) {s : State} (ht : s.pwr.target = .run) (hr : s.pwr.state ≠ .run) :
    wake w s = orCause w s := by
  unfold wake
  rw [if_pos ht, if_neg hr]

/-- The blocks that an event and a wake's record change. -/
def recording : Blocks := { aon := true, evt := true }

theorem orCause_within (w : Word) (s : State) : Within recording s (orCause w s) := rfl

theorem aonWakes_towardRun {s : State} (ht : s.pwr.target = .run) (hr : s.pwr.state ≠ .run) : aonWakes s = true := by
  unfold aonWakes
  rw [ht, Bool.or_eq_true]
  exact .inr (by rw [bne_iff_ne.mpr hr]; rfl)

theorem wakeFrom_towardRun (flag field value : Word) {s : State} (ht : s.pwr.target = .run) (hr : s.pwr.state ≠ .run) :
    wakeFrom flag field value s = orCause flag (setCause ((s.aon.wakeCause &&& ~~~field) ||| value) s) :=
  wake_towardRun flag (s := setCause _ s) ht hr

theorem cmpTrip_wakes {n : Fin 4} {s : State} (he : bitAt s.aon.cmpCfg[n] 13 = true) (ht : bitAt s.aon.tripped n.val = false)
    (hw : bitAt s.aon.wakeEn (4 + n.val) = true) (hrun : s.pwr.target = .run) (hs : s.pwr.state = .sleep) :
    ∃ t, exec (.cmpTrip n) s = .next t ∧ bitAt t.aon.wakeCause 3 = true ∧ bitAt t.aon.wakeCause (16 + n.val) = true ∧
      bitAt t.aon.trip n.val = true ∧ t = { s with aon := t.aon, evt := t.evt } := by
  have hn := n.isLt
  have hposted := tripPosted_within n s
  have hen : (tripPosted n s).aon.wakeEn = s.aon.wakeEn := by rw [tripPosted_aon, trippedAon_eq]
  have htarget : (tripPosted n s).pwr.target = .run := by rw [hposted.pwr_eq, hrun]
  have hstate : (tripPosted n s).pwr.state ≠ .run := by rw [hposted.pwr_eq, hs]; decide
  refine ⟨_, exec_cmpTrip he ht, ?_⟩
  rw [tripRun_eq, hen, hw, aonWakes_towardRun htarget hstate, Bool.and_self, if_pos rfl,
    wakeFrom_towardRun _ _ _ htarget hstate]
  refine ⟨?_, ?_, ?_, hposted.trans (u := orCause _ _) rfl⟩
  · exact (bitAt_or_pow (w := 32) _ (n := 3) (m := 3) (by decide)).trans (by simp)
  · refine (bitAt_or_pow (w := 32) _ (n := 3) (by omega)).trans ?_
    have hset : bitAt (((tripPosted n s).aon.wakeCause &&& ~~~0) ||| BitVec.ofNat 32 (2 ^ (16 + n.val))) (16 + n.val) = true :=
      (bitAt_or_pow _ (by omega)).trans (by simp)
    exact Bool.or_eq_true_iff.mpr (.inl hset)
  · have htrip : (tripPosted n s).aon.trip = (trippedAon n s.aon).trip := by rw [tripPosted_aon]
    exact (congrArg (bitAt · n.val) htrip).trans (trippedAon_trip n s.aon)

/-! ### AON_ALARM_CLEAR -/

/-- A cleared TRIPn clears its record alone. -/
theorem clearTrip_eq (v : Word) (a : Aon) (n : Fin 4) :
    clearTrip v a n = { a with trip := (clearTrip v a n).trip, ret := (clearTrip v a n).ret } := by
  unfold clearTrip
  dsimp only
  split <;> rfl

/-- A cleared bit is a zero of the word that held it and of no other. -/
theorem bitAt_and_not_pow {w : Nat} (v : BitVec w) {n m : Nat} (hm : m < w) :
    bitAt (v &&& ~~~(BitVec.ofNat w (2 ^ n))) m = (bitAt v m && !decide (n = m)) := by
  rw [bitAt, bitAt, BitVec.getLsbD_and, BitVec.getLsbD_not, BitVec.getLsbD_ofNat, Nat.testBit_two_pow, decide_eq_true hm,
    Bool.true_and, Bool.true_and]

theorem clearTrip_trip (v : Word) (a : Aon) (n m : Fin 4) :
    bitAt (clearTrip v a n).trip m.val = (bitAt a.trip m.val && !(bitAt v n.val && decide (n = m))) := by
  unfold clearTrip
  dsimp only
  by_cases h : (bitAt v n.val && bitAt a.trip n.val) = true
  · rw [if_pos h]
    obtain ⟨hv, -⟩ := Bool.and_eq_true_iff.mp h
    refine (bitAt_and_not_pow a.trip m.isLt).trans ?_
    rw [hv, Bool.true_and]
    simp only [Fin.ext_iff]
  · rw [if_neg h]
    by_cases hm : n = m
    · subst hm
      revert h
      cases bitAt v n.val <;> cases bitAt a.trip n.val <;> simp
    · simp [hm]

theorem clearTrip_ret_other (v : Word) (a : Aon) {n m : Fin 4} (hm : m ≠ n) {k : Nat} (hk : 8 + 3 * m.val ≤ k)
    (hk2 : k ≤ 10 + 3 * m.val) : retAt (clearTrip v a n) k = retAt a k := by
  have hne : n.val ≠ m.val := fun e => hm (Fin.ext e.symm)
  unfold clearTrip
  dsimp only
  split
  · rw [retAt_setRet_other (by omega), retAt_setRet_other (by omega), retAt_setRet_other (by omega)]
    rfl
  · rfl

theorem clearTrip_ret_same {v : Word} {a : Aon} {n : Fin 4} (hv : bitAt v n.val = true) (ht : bitAt a.trip n.val = true)
    {k : Nat} (hk : 8 + 3 * n.val ≤ k) (hk2 : k ≤ 10 + 3 * n.val) : retAt (clearTrip v a n) k = 0 := by
  have hn := n.isLt
  have h1 : 8 + 3 * n.val + 1 = 9 + 3 * n.val := by omega
  have h2 : 8 + 3 * n.val + 2 = 10 + 3 * n.val := by omega
  unfold clearTrip
  dsimp only
  rw [hv, ht, Bool.and_self, if_pos rfl, h1, h2]
  obtain rfl | rfl | rfl : k = 8 + 3 * n.val ∨ k = 9 + 3 * n.val ∨ k = 10 + 3 * n.val := by omega
  · exact retAt_setRet_same (by omega) ..
  · rw [retAt_setRet_other (by omega), retAt_setRet_same (by omega)]
  · rw [retAt_setRet_other (by omega), retAt_setRet_other (by omega), retAt_setRet_same (by omega)]

/-- The registers after the trips of v have been cleared. -/
def clearedAon (v : Word) (a : Aon) : Aon := clearTrip v (clearTrip v (clearTrip v (clearTrip v a 0) 1) 2) 3

theorem clearedAon_eq (v : Word) (a : Aon) :
    clearedAon v a = { a with trip := (clearedAon v a).trip, ret := (clearedAon v a).ret } := by
  have h (x : Aon) (n : Fin 4) := clearTrip_eq v x n
  unfold clearedAon
  rw [h (clearTrip v (clearTrip v (clearTrip v a 0) 1) 2) 3, h (clearTrip v (clearTrip v a 0) 1) 2, h (clearTrip v a 0) 1,
    h a 0]

theorem clearedAon_trip (v : Word) (a : Aon) (n : Fin 4) :
    bitAt (clearedAon v a).trip n.val = (bitAt a.trip n.val && !bitAt v n.val) := by
  unfold clearedAon
  rw [clearTrip_trip, clearTrip_trip, clearTrip_trip, clearTrip_trip]
  match n with
  | 0 => simp
  | 1 => simp
  | 2 => simp
  | 3 => simp

/-- The record of a trip that is cleared is cleared once, and stays so. -/
theorem clearedAon_ret {v : Word} {a : Aon} {n : Fin 4} (hv : bitAt v n.val = true) (ht : bitAt a.trip n.val = true)
    {k : Nat} (hk : 8 + 3 * n.val ≤ k) (hk2 : k ≤ 10 + 3 * n.val) : retAt (clearedAon v a) k = 0 := by
  have hother {x : Aon} {m : Fin 4} (hm : n ≠ m) : retAt (clearTrip v x m) k = retAt x k := clearTrip_ret_other v x hm hk hk2
  have hkeep {x : Aon} {m : Fin 4} (hm : n ≠ m) (hx : bitAt x.trip n.val = true) :
      bitAt (clearTrip v x m).trip n.val = true := by
    rw [clearTrip_trip, hx]
    simp [hm.symm]
  unfold clearedAon
  match n with
  | 0 =>
    rw [hother (by decide), hother (by decide), hother (by decide)]
    exact clearTrip_ret_same hv ht hk hk2
  | 1 =>
    rw [hother (by decide), hother (by decide)]
    exact clearTrip_ret_same hv (hkeep (by decide) ht) hk hk2
  | 2 =>
    rw [hother (by decide)]
    exact clearTrip_ret_same hv (hkeep (by decide) (hkeep (by decide) ht)) hk hk2
  | 3 => exact clearTrip_ret_same hv (hkeep (by decide) (hkeep (by decide) (hkeep (by decide) ht))) hk hk2

theorem alarmClear_clears (v : Word) {s : State} (ha : awake s = true) :
    ∃ t, exec (.aonAlarmClear v) s = .next t ∧
      (∀ n : Fin 4, bitAt t.aon.trip n.val = (bitAt s.aon.trip n.val && !bitAt v n.val)) ∧
      (∀ n : Fin 4, bitAt v n.val = true → bitAt s.aon.trip n.val = true →
        retAt t.aon (8 + 3 * n.val) = 0 ∧ retAt t.aon (9 + 3 * n.val) = 0 ∧ retAt t.aon (10 + 3 * n.val) = 0) ∧
      t.aon.timerFlag = (s.aon.timerFlag && !bitAt v 4) ∧
      t.aon.alarm = (List.finRange 4).any (fun n => bitAt t.aon.trip n.val && bitAt s.aon.cmpCfg[n] 14) ∧
      t = { s with aon := t.aon } := by
  have heq := clearedAon_eq v s.aon
  have hrun : exec (.aonAlarmClear v) s = .next (syncAlarm { s with aon := { clearedAon v s.aon with
      timerFlag := (clearedAon v s.aon).timerFlag && !bitAt v 4 } }) := if_pos ha
  refine ⟨_, hrun, clearedAon_trip v s.aon, fun n hv ht => ?_, ?_, ?_, rfl⟩
  · exact ⟨clearedAon_ret hv ht (by omega) (by omega), clearedAon_ret hv ht (by omega) (by omega),
      clearedAon_ret hv ht (by omega) (by omega)⟩
  · have hflag : (clearedAon v s.aon).timerFlag = s.aon.timerFlag := by rw [heq]
    exact congrArg (· && !bitAt v 4) hflag
  · have hcfg : (clearedAon v s.aon).cmpCfg = s.aon.cmpCfg := by rw [heq]
    rw [← hcfg]
    rfl

/-! ### The timer (R443) -/

/-- The timer has fired: it is disarmed and posted, before any wake. -/
def timerPosted (s : State) : State := post (ev 0x0A12) { s with aon := { s.aon with timerArmed := false, timerFlag := true } }

theorem timerRun_eq (s : State) : timerRun s =
    if bitAt (timerPosted s).aon.wakeEn 1 && aonWakes (timerPosted s) then wake 0x10 (timerPosted s) else timerPosted s := rfl

theorem timerPosted_within (s : State) : Within recording s (timerPosted s) :=
  Within.post (b := recording) (t := { s with aon := { s.aon with timerArmed := false, timerFlag := true } }) rfl rfl _

theorem timerPosted_aon (s : State) : (timerPosted s).aon =
    { s.aon with timerArmed := false, timerFlag := true, deferred := (timerPosted s).aon.deferred } := post_aon ..

theorem exec_timerFire {s : State} (harm : s.aon.timerArmed = true) (hne : s.aon.timer ≠ 0)
    (hdue : s.aon.timer.toNat ≤ s.aon.time.toNat) : exec .aonTimerFire s = .next (timerRun s) :=
  if_pos (by rw [timerDue, harm, bne_iff_ne.mpr hne, decide_eq_true hdue]; rfl)

theorem exec_timerFire_disarmed {s : State} (h : s.aon.timerArmed = false) : exec .aonTimerFire s = .next s :=
  if_neg (by rw [timerDue, h]; exact Bool.false_ne_true)

theorem exec_timerFire_early {s : State} (h : s.aon.time.toNat < s.aon.timer.toNat) : exec .aonTimerFire s = .next s :=
  if_neg (by rw [timerDue, decide_eq_false (by omega), Bool.and_false]; exact Bool.false_ne_true)

theorem timerFire_fires {s : State} (harm : s.aon.timerArmed = true) (hne : s.aon.timer ≠ 0)
    (hdue : s.aon.timer.toNat ≤ s.aon.time.toNat) (hw : bitAt s.aon.wakeEn 1 = false) :
    ∃ t, exec .aonTimerFire s = .next t ∧ t.aon.timerArmed = false ∧ t.aon.timerFlag = true ∧ t.aon.timer = s.aon.timer ∧
      exec .aonTimerFire t = .next t ∧ t = { s with aon := t.aon, evt := t.evt } := by
  have haon := timerPosted_aon s
  have hen : (timerPosted s).aon.wakeEn = s.aon.wakeEn := by rw [haon]
  have hdis : (timerPosted s).aon.timerArmed = false := by rw [haon]
  refine ⟨_, exec_timerFire harm hne hdue, ?_⟩
  rw [timerRun_eq, hen, hw, Bool.false_and, if_neg Bool.false_ne_true]
  exact ⟨hdis, by rw [haon], by rw [haon], exec_timerFire_disarmed hdis, timerPosted_within s⟩

theorem timerFire_wakes {s : State} (harm : s.aon.timerArmed = true) (hne : s.aon.timer ≠ 0)
    (hdue : s.aon.timer.toNat ≤ s.aon.time.toNat) (hw : bitAt s.aon.wakeEn 1 = true) (ht : s.pwr.target = .run)
    (hs : s.pwr.state = .sleep) :
    ∃ t, exec .aonTimerFire s = .next t ∧ t.aon.timerFlag = true ∧ bitAt t.aon.wakeCause 4 = true ∧
      t = { s with aon := t.aon, evt := t.evt } := by
  have haon := timerPosted_aon s
  have hposted := timerPosted_within s
  have hen : (timerPosted s).aon.wakeEn = s.aon.wakeEn := by rw [haon]
  have htarget : (timerPosted s).pwr.target = .run := by rw [hposted.pwr_eq, ht]
  have hstate : (timerPosted s).pwr.state ≠ .run := by rw [hposted.pwr_eq, hs]; decide
  refine ⟨_, exec_timerFire harm hne hdue, ?_⟩
  rw [timerRun_eq, hen, hw, aonWakes_towardRun htarget hstate, Bool.and_self, if_pos rfl, wake_towardRun _ htarget hstate]
  refine ⟨congrArg Aon.timerFlag haon, ?_, hposted.trans (orCause_within ..)⟩
  exact (bitAt_or_pow (w := 32) _ (n := 4) (m := 4) (by decide)).trans (by simp)

/-- Settles O10: the registers after a correction, a trip, a clearing and a firing are written out above; an event that goes
with them changes no other register of the domain (`post_aon`). -/
theorem theAlwaysOnBlockKeepsTimeAndAlarms : Obligations.TheAlwaysOnBlockKeepsTimeAndAlarms :=
  ⟨⟨fun _ h htk hr hfar => ppsEdge_rejects h htk hr hfar, fun _ h htk hn hfar hmax => ppsEdge_sets h htk hn hfar hmax,
      fun _ h htk hn hg hnear => ppsEdge_disciplines h htk hn hg hnear, fun _ hr hu htk => tkHoldover_enters hr hu htk⟩,
    ⟨fun _ _ he ht hw hf => cmpTrip_first he ht hw hf, fun _ _ he ht hw hf => cmpTrip_again he ht hw hf,
      fun _ _ h => exec_cmpTrip_not h, fun _ _ he ht hw hrun hs => cmpTrip_wakes he ht hw hrun hs, fun _ _ => rfl,
      fun v _ ha => alarmClear_clears v ha⟩,
    ⟨fun _ harm hne hdue hw => timerFire_fires harm hne hdue hw,
      fun _ harm hne hdue hw ht hs => timerFire_wakes harm hne hdue hw ht hs, fun _ h => exec_timerFire_early h,
      fun _ _ ha => if_pos ha⟩⟩

end Sys2Proof.Machine
end

section
/-! An idle step (log entry 1): one cycle of REFCLK, in which the links may send a flit. -/

namespace Sys2Proof.Machine
open Sys2Proof.Claims
open Within

/-! ### A flit slot -/

/-- The blocks that flit slots change. -/
def slotBlocks : Blocks := { links := true, evt := true, free := true }

theorem rekeyEnd_within (l : Fin 8) {s : State} (ha : awake s = true) : Within slotBlocks s (rekeyEnd l s) := by
  unfold rekeyEnd
  split
  · exact ite ((refl slotBlocks s).set_links.bumpLink ha _ _ _) (refl ..)
  · exact refl ..

theorem switchTx_within (l : Fin 8) {s : State} (ha : awake s = true) : Within slotBlocks s (switchTx l s) := by
  unfold switchTx
  split
  · exact ite ((refl slotBlocks s).set_links.andThen ha (rekeyEnd_within l)) (refl ..)
  · exact refl ..

theorem switchRx_within (l : Fin 8) {s : State} (ha : awake s = true) : Within slotBlocks s (switchRx l s) := by
  unfold switchRx
  split
  · exact ite ((refl slotBlocks s).set_links.andThen ha (rekeyEnd_within l)) (refl ..)
  · exact refl ..

theorem laterSwitch_within (l : Fin 8) (s : State) : Within slotBlocks s (laterSwitch l s) := by
  unfold laterSwitch
  dsimp only
  split
  · exact ite ((refl slotBlocks s).set_free.set_links) (refl ..)
  · exact refl ..

theorem flitSlot_within (l : Fin 8) {s : State} (ha : awake s = true) : Within slotBlocks s (flitSlot l s) := by
  have hkeys : Within slotBlocks s (laterSwitch l (switchRx l (switchTx l s))) :=
    ((switchTx_within l ha).andThen ha (switchRx_within l)).trans (laterSwitch_within l _)
  unfold flitSlot
  refine ite (refl ..) ?_
  dsimp only
  split
  · exact hkeys.set_links.set_links
  · exact (hkeys.set_links.bumpLink ha _ _ _).set_links
  · exact (hkeys.set_links.bumpLink ha _ _ _).set_links
  · exact (hkeys.set_links.bumpLink ha _ _ _).set_links

theorem eachLink_flitSlot_within {s : State} (ha : awake s = true) : Within slotBlocks s (eachLink flitSlot s) :=
  foldl (fun _ l h => h.andThen ha (flitSlot_within l)) _ (refl ..)

/-! ### The cycle -/

/-- The state after the two counters have counted. -/
def counted (s : State) : State :=
  { s with aon := { s.aon with time := s.aon.time + 10 }, glb := { s.glb with cycle := s.glb.cycle + 1 } }

theorem tick_asleep {s : State} (ha : awake s = false) : tick s = { s with aon := { s.aon with time := s.aon.time + 10 } } := by
  unfold tick
  rw [ha]
  rfl

theorem tick_quiet {s : State} (ha : awake s = true) (hs : slotsAt (s.glb.cycle + 1).toNat = slotsAt s.glb.cycle.toNat) :
    tick s = counted s := by
  unfold tick
  dsimp only
  rw [ha, if_pos rfl, if_pos hs]
  rfl

theorem tick_slot {s : State} (ha : awake s = true) (hs : slotsAt (s.glb.cycle + 1).toNat ≠ slotsAt s.glb.cycle.toNat) :
    tick s = eachLink flitSlot (counted s) := by
  unfold tick
  dsimp only
  rw [ha, if_pos rfl, if_neg hs]
  rfl

theorem tick_within {s : State} (ha : awake s = true) : Within slotBlocks (counted s) (tick s) := by
  by_cases hs : slotsAt (s.glb.cycle + 1).toNat = slotsAt s.glb.cycle.toNat
  · rw [tick_quiet ha hs]
    exact refl ..
  · rw [tick_slot ha hs]
    exact eachLink_flitSlot_within (s := counted s) ha

theorem tick_pwr (s : State) : (tick s).pwr = s.pwr := by
  cases ha : awake s
  · rw [tick_asleep ha]
  · exact (tick_within ha).pwr_eq

theorem step_idle {s : State} (h : s.pending = []) : step s = .next (quiesceCheck (tick s)) := by
  unfold step
  rw [h]
  rfl

theorem quiesceCheck_other {s : State} (h : ∀ g, s.pwr.seq ≠ .quiesce g) : quiesceCheck s = s := by
  unfold quiesceCheck
  split
  · next g hg => exact absurd hg (h g)
  · rfl

theorem quiesceCheck_quiesce {s : State} {g : PState} (h : s.pwr.seq = .quiesce g) :
    quiesceCheck s = if allQuiet s then quiesced g s else s := by
  unfold quiesceCheck
  rw [h]

/-- With no power-down waiting, a step on an empty queue is a cycle. -/
theorem step_tick {s : State} (h : s.pending = []) (hs : ∀ g, s.pwr.seq ≠ .quiesce g) : step s = .next (tick s) := by
  rw [step_idle h, quiesceCheck_other]
  rwa [tick_pwr]

/-- Settles O2: a slot of each link stays within the links, the collector and the free values (`flitSlot_within`). -/
theorem idleStepIsOneCycle : Obligations.IdleStepIsOneCycle := by
  refine ⟨fun s h hs ha => ?_, fun s h hs ha hq => ?_, fun s h hs ha => ⟨_, step_tick h hs, tick_within ha⟩, fun g s h hs => ?_⟩
  · rw [step_tick h hs, tick_asleep ha]
  · rw [step_tick h hs, tick_quiet ha hq]
    rfl
  · rw [step_idle h, quiesceCheck_quiesce (by rw [tick_pwr, hs])]

end Sys2Proof.Machine
end

section
/-! Events (R493 to R497): the collector's queue, the logs and the event ring. -/

namespace Sys2Proof.Machine
open Sys2Proof.Claims
open Within

/-! ### The queue -/

/-- The loss of an event is marked and counted (R496). -/
theorem post_lost (e : Posted) {s : State} (ha : awake s = true) (hf : 32 ≤ s.evt.queue.length) :
    (post e s).evt.ctrs[2] = ctrAdd s.evt.ctrs[2] 1 ∧ bitAt (post e s).evt.fault 2 = true := by
  have hpost : post e s = bumpEvt 2 1 (bumpEvt 0 1 { s with evt := { s.evt with
      fault := orBit s.evt.fault 2, lostBefore := true } }) := by
    unfold post
    rw [if_pos ha, if_neg (by omega)]
  rw [hpost]
  refine ⟨?_, bitAt_orBit _ (by decide)⟩
  exact (upd_same _ 2 _).trans (congrArg (ctrAdd · 1) (upd_other s.evt.ctrs 0 2 _ (by decide)))

theorem post_queued (e : Posted) {s : State} (ha : awake s = true) (hr : s.evt.queue.length < 32) :
    post e s = { s with evt := { s.evt with
      queue := s.evt.queue ++ [stamp e s], ctrs := upd s.evt.ctrs 0 (ctrAdd · 1) } } := by
  unfold post
  rw [if_pos ha, if_pos hr]
  rfl

theorem post_latched (e : Posted) {s : State} (ha : awake s = false) :
    post e s = { s with aon := { s.aon with deferred := s.aon.deferred ++ [{ stamp e s with deferred := true }] } } := by
  unfold post
  rw [ha]
  rfl

/-! ### Filing -/

/-- The record that the oldest event becomes. -/
def nextRecord (e : Posted) (s : State) : EvtRec := ⟨s.evt.seqNext, s.evt.lostBefore, e⟩

/-- The record written to the local log. -/
def loggedState (e : Posted) (rest : List Posted) (s : State) : State :=
  { s with evt := { s.evt with
      queue := rest, lostBefore := false, seqNext := s.evt.seqNext + 1,
      log := tabPut s.evt.head.toNat (nextRecord e s) s.evt.log, head := s.evt.head + 1 } }

/-- The record offered to the persistent log. -/
def keptState (e : Posted) (r : EvtRec) (s : State) : State :=
  if persistent e then { s with fls := { s.fls with plog := s.fls.plog ++ [r] } } else s

/-- The record pushed to the management stream. -/
def pushedState (r : EvtRec) (s : State) : State :=
  if s.mgmt.stream then { s with mgmt := { s.mgmt with out := s.mgmt.out ++ [.pushEvt r] } } else s

theorem fileOne_cons {e : Posted} {rest : List Posted} {s : State} (h : s.evt.queue = e :: rest) :
    fileOne s = toRing (nextRecord e s)
        (pushedState (nextRecord e s) (keptState e (nextRecord e s) (loggedState e rest s))) := by
  unfold fileOne
  rw [h]
  rfl

theorem keptState_eq (e : Posted) (r : EvtRec) (s : State) : keptState e r s =
    { s with fls := { s.fls with plog := s.fls.plog ++ (if e.fault || unitOf e.code == 1 || unitOf e.code == 6 then [r] else []) } } := by
  have hp : persistent e = (e.fault || unitOf e.code == 1 || unitOf e.code == 6) := rfl
  unfold keptState
  rw [← hp]
  cases persistent e
  · simp only [Bool.false_eq_true, if_false, List.append_nil]
  · rfl

theorem pushedState_eq (r : EvtRec) (s : State) :
    pushedState r s = { s with mgmt := { s.mgmt with out := (pushedState r s).mgmt.out } } := by
  unfold pushedState
  split <;> rfl

/-! ### The event ring (R497) -/

theorem toRing_off {s : State} (h : effLog2 s.evt.ringLog2 = 0) (r : EvtRec) : toRing r s = s := by
  unfold toRing
  dsimp only
  rw [h]
  rfl

theorem toRing_masked {r : EvtRec} {s : State} (h : masked s r.ev.code = true) : toRing r s = s := by
  unfold toRing
  dsimp only
  rw [h, Bool.or_true, if_pos rfl]

/-- The record is dropped. -/
def ringDropped (s : State) : State :=
  bumpEvt 1 1 { s with evt := { s.evt with fault := orBit s.evt.fault 1, ringLost := true } }

theorem toRing_on {r : EvtRec} {s : State} (h : effLog2 s.evt.ringLog2 ≠ 0) (hm : masked s r.ev.code = false) : toRing r s =
    match sealCounter s with
    | some c =>
      if ringFull s.evt.wr s.evt.rd then ringDropped s
      else
        fire (if r.ev.fault then 2 else 0) (bumpSeal { s with evt := { s.evt with
          ring := tabPut s.evt.wr.index.toNat
              (sealedBytes s c (recBytes { r with lostBefore := r.lostBefore || s.evt.ringLost })) s.evt.ring,
          wr := ringNext (effLog2 s.evt.ringLog2) s.evt.wr, ringLost := false } })
    | none => ringDropped s := by
  unfold toRing
  dsimp only
  rw [hm, Bool.or_false, if_neg (by simpa using h)]
  rfl

theorem toRing_drops {r : EvtRec} {s : State} (h : effLog2 s.evt.ringLog2 ≠ 0) (hm : masked s r.ev.code = false)
    (hd : s.hif.session = none ∨ ringFull s.evt.wr s.evt.rd = true) : toRing r s = ringDropped s := by
  rw [toRing_on h hm]
  split
  · next c hc =>
    rcases hd with hd | hd
    · rw [sealCounter, hd] at hc
      cases hc
    · rw [if_pos hd]
  · rfl

/-- The device counter has not come to its end, nor does this record bring it there. -/
theorem bumpSeal_open {s : State} {x : Session} (hx : s.hif.session = some x) (hend : x.d2h.toNat + 2 < 2 ^ 64) :
    bumpSeal s = { s with hif := { s.hif with session := some { x with d2h := x.d2h + 1 } } } := by
  have hne : x.d2h + 1 ≠ BitVec.allOnes 64 := fun e => by
    have hn := congrArg BitVec.toNat e
    rw [BitVec.toNat_add, BitVec.toNat_allOnes, show (1 : DWord).toNat = 1 from rfl] at hn
    omega
  unfold bumpSeal
  rw [hx]
  exact if_neg hne

theorem sealCounter_open {s : State} {x : Session} (hx : s.hif.session = some x) (hend : x.d2h.toNat + 2 < 2 ^ 64) :
    sealCounter s = some x.d2h := by
  have hne : x.d2h ≠ BitVec.allOnes 64 := fun e => by
    have hn := congrArg BitVec.toNat e
    rw [BitVec.toNat_allOnes] at hn
    omega
  unfold sealCounter
  rw [hx]
  exact if_neg hne

/-- The collector after a record has been written to the ring. -/
def ringWritten (r : EvtRec) (x : Session) (e : Evt) : Evt :=
  { e with
    ring := tabPut e.wr.index.toNat (sealRecord x x.d2h (recBytes { r with lostBefore := r.lostBefore || e.ringLost })) e.ring,
    wr := ringNext (effLog2 e.ringLog2) e.wr, ringLost := false }

theorem toRing_writes {r : EvtRec} {x : Session} {s : State} (h : effLog2 s.evt.ringLog2 ≠ 0)
    (hm : masked s r.ev.code = false) (hx : s.hif.session = some x) (hend : x.d2h.toNat + 2 < 2 ^ 64)
    (hf : ringFull s.evt.wr s.evt.rd = false) :
    toRing r s = fire (if r.ev.fault then 2 else 0) { s with
      evt := ringWritten r x s.evt, hif := { s.hif with session := some { x with d2h := x.d2h + 1 } } } := by
  have hbytes (bs : List Byte) : sealedBytes s x.d2h bs = sealRecord x x.d2h bs := by
    unfold sealedBytes
    rw [hx]
  rw [toRing_on h hm, sealCounter_open hx hend]
  dsimp only
  rw [hf, if_neg Bool.false_ne_true, hbytes, bumpSeal_open]
  · rfl
  · exact hx
  · exact hend

/-! ### The obligation -/

theorem evtRecordFile_files {e : Posted} {rest : List Posted} {s : State} (ha : awake s = true)
    (hq : s.evt.queue = e :: rest) (hr : effLog2 s.evt.ringLog2 = 0) :
    exec .evtRecordFile s = .next (pushedState (nextRecord e s) (keptState e (nextRecord e s) (loggedState e rest s))) := by
  have hring (t : State) (ht : t.evt = (loggedState e rest s).evt) : toRing (nextRecord e s) t = t :=
    toRing_off (by rw [ht]; exact hr) _
  refine (if_pos ha).trans ?_
  rw [fileOne_cons hq, hring]
  rw [pushedState_eq, keptState_eq]

/-- Settles O6: the equations above say what a post, a filing and an offer to the ring do in each case. -/
theorem eventsQueueAndReachLogAndRing : Obligations.EventsQueueAndReachLogAndRing := by
  refine ⟨fun e s => ⟨fun ha hr => ⟨_, post_queued e ha hr, rfl, rfl, rfl, rfl, rfl⟩, fun ha hf => ?_,
      fun ha => ⟨_, post_latched e ha, rfl, rfl, rfl⟩⟩, fun e rest s ha hq _ hr => ?_,
    fun r s h => toRing_masked h, fun r s h => toRing_off h r, fun r s h hm hd => ?_, fun r x s h hm hx hend hf => ?_⟩
  · obtain ⟨hqueue, hlost⟩ := post_full e s ha (by omega)
    obtain ⟨hctr, hfault⟩ := post_lost e ha hf
    exact ⟨hqueue, hlost, hctr, hfault⟩
  · refine ⟨_, evtRecordFile_files ha hq hr, ?_⟩
    rw [pushedState_eq, keptState_eq]
    exact ⟨rfl, rfl, rfl, rfl, rfl, rfl, rfl⟩
  · rw [toRing_drops h hm hd]
    exact ⟨rfl, upd_same _ 1 _, bitAt_orBit _ (by decide), rfl, rfl⟩
  · refine ⟨(toRing r s).hif, ?_, ?_⟩
    · rw [toRing_writes h hm hx hend hf]
      exact fire_frame ..
    · rw [toRing_writes h hm hx hend hf, fire_hif]

end Sys2Proof.Machine
end

section
/-! The bits of PWR_WAKE_CAUSE (R486), and the rails (R464 to R466). -/

namespace Sys2Proof.Machine
open Sys2Proof.Claims
open Within

/-! ### Bits and fields of a word -/

/-- A field written over a masked word. -/
theorem bitAt_masked (c m x : Word) (i : Nat) (hi : i < 32) :
    bitAt ((c &&& ~~~m) ||| x) i = ((bitAt c i && !bitAt m i) || bitAt x i) := by
  simp [bitAt, hi]

theorem bitAt_or (c x : Word) (i : Nat) : bitAt (c ||| x) i = (bitAt c i || bitAt x i) := by
  simp [bitAt]

/-- A field is its bits. -/
theorem bitsNat_congr {a b : Word} {hi lo : Nat} (h : ∀ i, lo ≤ i → i ≤ hi → bitAt a i = bitAt b i) :
    bitsNat a hi lo = bitsNat b hi lo := by
  refine Nat.eq_of_testBit_eq fun i => ?_
  unfold bitsNat
  rw [Nat.testBit_mod_two_pow, Nat.testBit_mod_two_pow, Nat.testBit_shiftRight, Nat.testBit_shiftRight]
  by_cases hi' : i < hi + 1 - lo
  · rw [decide_eq_true hi', Bool.true_and, Bool.true_and]
    exact h (lo + i) (by omega) (by omega)
  · rw [decide_eq_false hi', Bool.false_and, Bool.false_and]

/-- The old bits of a field go where its mask covers it, and the new ones stand. -/
theorem bitsNat_masked {c m x : Word} {hi lo : Nat} (h : hi < 32) (hm : ∀ i, lo ≤ i → i ≤ hi → bitAt m i = true) :
    bitsNat ((c &&& ~~~m) ||| x) hi lo = bitsNat x hi lo := by
  refine bitsNat_congr fun i h1 h2 => ?_
  rw [bitAt_masked c m x i (by omega), hm i h1 h2, Bool.not_true, Bool.and_false, Bool.false_or]

/-- A word that has no bit in a field leaves it. -/
theorem bitsNat_or_outside {c x : Word} {hi lo : Nat} (hx : ∀ i, lo ≤ i → i ≤ hi → bitAt x i = false) :
    bitsNat (c ||| x) hi lo = bitsNat c hi lo := by
  refine bitsNat_congr fun i h1 h2 => ?_
  rw [bitAt_or, hx i h1 h2, Bool.or_false]

/-! ### A rail fault is recorded (R465) -/

/-- PWR_WAKE_CAUSE after a rail fault. -/
def railCause (r : Rail) (w : Word) : Word := (w &&& ~~~(0x07000000 : Word)) ||| 0x80 ||| BitVec.ofNat 32 (railCode r * 2 ^ 24)

theorem railCause_flag (r : Rail) (w : Word) : bitAt (railCause r w) 7 = true := by
  unfold railCause
  rw [bitAt_or, bitAt_or]
  simp [bitAt]

theorem railCause_rail (r : Rail) (w : Word) : bitsNat (railCause r w) 26 24 = railCode r := by
  have hcode : bitsNat (0x80 ||| BitVec.ofNat 32 (railCode r * 2 ^ 24)) 26 24 = railCode r := by cases r <;> decide
  unfold railCause
  rw [BitVec.or_assoc, bitsNat_masked (by decide)]
  · exact hcode
  · intro i h1 h2
    obtain rfl | rfl | rfl : i = 24 ∨ i = 25 ∨ i = 26 := by omega
    all_goals decide

/-- The registers of the always-on domain after a rail fault. -/
def railAon (r : Rail) (up : Bool) (a : Aon) : Aon :=
  { a with railPend := true, wakeCause := railCause r a.wakeCause,
           ret := (a.ret.set 1 (BitVec.ofNat 32 (railCode r + if up then 8 else 0))).set 0 (railCause r a.wakeCause) }

theorem recordRail_eq (r : Rail) (up : Bool) (s : State) : recordRail r up s =
    { s with pwr := { s.pwr with fault := orBit s.pwr.fault 0 }, aon := railAon r up s.aon } := rfl

theorem railAon_ret (r : Rail) (up : Bool) (a : Aon) :
    (railAon r up a).ret[1] = BitVec.ofNat 32 (railCode r + if up then 8 else 0) := by
  unfold railAon
  dsimp only
  rw [Vector.getElem_set_ne (by decide) (by decide) (by decide), Vector.getElem_set_self]

/-! ### Steps of power-down and power-up (R464, R466) -/

/-- A rail's bias is no other register's affair. -/
theorem railBias_seq (r : Rail) (g : PState) (v : Vector Bool 5) (q : PwrSeq) (s : State) :
    (let s1 := railBias r g { s with pwr := { s.pwr with rails := v } }
     { s1 with pwr := { s1.pwr with seq := q } }) = railBias r g { s with pwr := { s.pwr with rails := v, seq := q } } := by
  cases r <;> rfl

theorem railBias_pwr (r : Rail) (g : PState) (s : State) : railBias r g s = { s with pwr := (railBias r g s).pwr } ∧
    (railBias r g s).pwr = { s.pwr with bias := (railBias r g s).pwr.bias, sram := (railBias r g s).pwr.sram } := by
  cases r <;> exact ⟨rfl, rfl⟩

theorem downDone_goesOn {k : Nat} {g : PState} (h : k < lastDown g) (s : State) : downDone k g s =
    railBias (downRail k) g { s with pwr := { s.pwr with
      rails := s.pwr.rails.set (railIdx (downRail k)) false, seq := .down (k + 1) g } } := by
  unfold downDone
  rw [if_neg (by omega)]
  exact railBias_seq ..

theorem downDone_ends {k : Nat} {g : PState} (h : lastDown g ≤ k) (s : State) : downDone k g s =
    reach g (railBias (downRail k) g { s with pwr := { s.pwr with
      rails := s.pwr.rails.set (railIdx (downRail k)) false } }) := by
  unfold downDone
  exact if_pos h

theorem exec_railPowerGood_down {k : Nat} {g : PState} {s : State} (h : s.pwr.seq = .down k g) :
    exec (.railPowerGood (downRail k)) s = .next (downDone k g s) := by
  change execRailPowerGood (downRail k) s = _
  unfold execRailPowerGood
  rw [h]
  exact if_pos (beq_self_eq_true (downRail k))

theorem exec_railPowerGood_up {k : Nat} {s : State} (h : s.pwr.seq = .up k) (hk : 0 < k) :
    exec (.railPowerGood (upRail k)) s = .next (upDone k s) := by
  have hne : (k != 0) = true := bne_iff_ne.mpr (by omega)
  change execRailPowerGood (upRail k) s = _
  unfold execRailPowerGood
  rw [h]
  dsimp only
  rw [hne, beq_self_eq_true]
  rfl

/-- The last rail of power-up: VDRAM keeps its power in SLEEP (R466). -/
theorem upDone_goesOn {k : Nat} {s : State} (h : (if s.pwr.state = .sleep then 2 else 1) < k) : upDone k s =
    railBias (upRail k) .run { s with pwr := { s.pwr with
      rails := s.pwr.rails.set (railIdx (upRail k)) true, seq := .up (k - 1) } } := by
  have hl : ¬ k ≤ (if (s.pwr.state == .sleep) = true then 2 else 1) := by simpa using h
  unfold upDone
  dsimp only
  rw [if_neg hl]
  exact railBias_seq ..

theorem upDone_ends {k : Nat} {s : State} (h : k ≤ (if s.pwr.state = .sleep then 2 else 1)) : upDone k s =
    railsUp (railBias (upRail k) .run { s with pwr := { s.pwr with rails := s.pwr.rails.set (railIdx (upRail k)) true } }) := by
  have hl : k ≤ (if (s.pwr.state == .sleep) = true then 2 else 1) := by simpa using h
  unfold upDone
  dsimp only
  rw [if_pos hl]

theorem exec_railStepTimeout {k : Nat} {g : PState} {s : State} (h : s.pwr.seq = .down k g) :
    exec .railStepTimeout s = .next (downDone k g (recordRail (downRail k) false s)) := by
  change execRailStepTimeout s = _
  unfold execRailStepTimeout
  rw [h]

/-! ### A rail falls (R465) -/

/-- A rail has lost its power-good. -/
def railLow (r : Rail) (s : State) : State :=
  let v := s.pwr.rails.set (railIdx r).val false
  { s with pwr := { s.pwr with rails := v, pwrGood := s.pwr.pwrGood && railsGood v } }

theorem exec_railFault_service (r : Rail) {s : State} (hp : powered s = true) (hs : ∀ k, s.pwr.seq ≠ .up k) :
    exec (.railFault r) s = .next (recordRail r false (railLow r s)) := by
  change execRailFault r s = _
  unfold execRailFault
  rw [hp, Bool.not_true, if_neg Bool.false_ne_true]
  dsimp only
  split
  · next k hk => exact absurd hk (hs k)
  · rfl

theorem exec_railFault_up (r : Rail) {k : Nat} {s : State} (hp : powered s = true) (hs : s.pwr.seq = .up k) (hk : 0 < k) :
    exec (.railFault r) s = .next (abandonUp (k + 2) (recordRail r true (railLow r s))) := by
  have hne : k ≠ 0 := by omega
  change execRailFault r s = _
  unfold execRailFault
  rw [hp, Bool.not_true, if_neg Bool.false_ne_true]
  dsimp only
  split
  · next n hn =>
    cases hs.symm.trans hn
    rw [if_neg hne, if_neg (by simp [hne]), stepAfter]
    rfl
  · next hn => exact absurd hs (hn k)

/-- A rail that falls in service is recorded, and no step begins. -/
structure RailFallen (r : Rail) (s t : State) : Prop where
  low : t.pwr.rails[railIdx r] = false
  fault : bitAt t.pwr.fault 0 = true
  seq : t.pwr.seq = s.pwr.seq
  ret : t.aon.ret[1] = BitVec.ofNat 32 (railCode r)
  rail : bitsNat t.aon.wakeCause 26 24 = railCode r
  frame : t = { s with pwr := t.pwr, aon := t.aon }

theorem railFallen (r : Rail) (s : State) : RailFallen r s (recordRail r false (railLow r s)) where
  low := by
    rw [recordRail_eq]
    exact Vector.getElem_set_self _
  fault := by
    rw [recordRail_eq]
    exact bitAt_orBit _ (by decide)
  seq := rfl
  ret := by
    rw [recordRail_eq]
    exact railAon_ret r false _
  rail := by
    rw [recordRail_eq]
    exact railCause_rail r _
  frame := rfl

end Sys2Proof.Machine
end

section
/-! Commands that end with a loss of power or a reset (R465, R470): what they leave of the rest of the module. -/

namespace Sys2Proof.Machine
open Sys2Proof.Claims
open Within

/-- The always-on registers; the latched events are not among them. -/
def unlatched (s : State) : Aon := { s.aon with deferred := [] }

theorem unlatched_post (e : Posted) (s : State) : unlatched (post e s) = unlatched s := by
  unfold unlatched
  rw [post_aon]

theorem unlatched_postIf (c : Bool) (e : Posted) (s : State) : unlatched (postIf c e s) = unlatched s := by
  unfold unlatched
  rw [postIf_aon]

theorem unlatched_of_aon {s t : State} (h : t.aon = s.aon) : unlatched t = unlatched s := by
  unfold unlatched
  rw [h]

/-- The blocks that the ends of commands change. -/
def quitting : Blocks :=
  { aon := true, evt := true, hif := true, mgmt := true, fls := true, stk := true, sq := true }

/-- Commands end: of the always-on domain only the latched events change, and a debug session stays as it is. -/
structure Quits (s t : State) : Prop where
  within : Within quitting s t
  regs : unlatched t = unlatched s
  paths : t.mgmt.debugOpen = s.mgmt.debugOpen

namespace Quits
variable {s t u : State}

theorem refl (s : State) : Quits s s := ⟨.refl .., rfl, rfl⟩

theorem trans (h : Quits s t) (k : Quits t u) : Quits s u :=
  ⟨h.within.trans k.within, k.regs.trans h.regs, k.paths.trans h.paths⟩

/-- A change of the drawers, the flash or the sequencer. -/
theorem of_within {b : Blocks} (h : Within b s t) (hb : both b quitting = quitting) (hn : b.aon = false)
    (hm : b.mgmt = false) : Quits s t := by
  refine ⟨h.grow hb, unlatched_of_aon (h.aon_eq hn), ?_⟩
  have e := congrArg State.mgmt h
  simp only [adopting, pick, hm, cond_false] at e
  rw [e]

theorem putResult (h : Quits s t) (r : Result) : Quits s (putResult r t) := by
  refine h.trans ⟨(Within.refl quitting t).putResult rfl r, ?_, ?_⟩
  · unfold Machine.putResult
    split
    · exact unlatched_of_aon (by rw [fire_frame])
    · split
      · rfl
      · rw [unlatched_post]
        exact unlatched_postIf ..
  · rw [putResult_mgmt]

theorem answer (h : Quits s t) (p : Pend) (st : Byte) (fin : Bool) (w x y z : Word) : Quits s (answer p st fin w x y z t) := by
  have hset (f : Hif) : Quits t { t with hif := f } := ⟨rfl, rfl, rfl⟩
  have hout (m : Mgmt) (hm : m.debugOpen = t.mgmt.debugOpen) : Quits t { t with mgmt := m } := ⟨rfl, rfl, hm⟩
  refine h.trans ?_
  unfold Machine.answer
  split
  · split
    · refine putResult ?_ _
      split
      · exact hset _
      · exact refl t
    · exact refl t
  · split
    · exact hout _ rfl
    · exact refl t

theorem endWith (h : Quits s t) (p : Pend) (st : Byte) : Quits s (endWith p st t) := h.answer ..

theorem endOpt (h : Quits s t) (p : Option Pend) (st : Byte) : Quits s (endOpt p st t) := by
  cases p
  · exact h
  · exact h.endWith ..

theorem answerAll (h : Quits s t) (st : Byte) (a b : Word) (ps : List Pend) : Quits s (answerAll st a b ps t) := by
  induction ps generalizing t with
  | nil => exact h
  | cons p ps ih => exact ih (h.answer ..)

theorem endReplays (h : Quits s t) (st : Byte) (rs : List ReplayReq) : Quits s (endReplays st rs t) := by
  induction rs generalizing t with
  | nil => exact h
  | cons r rs ih => exact ih (h.endOpt ..)

theorem endTasks (h : Quits s t) (st : Byte) (ts : List FlashTask) : Quits s (endTasks st ts t) := by
  induction ts generalizing t with
  | nil => exact h
  | cons x ts ih => exact ih (h.endOpt ..)

theorem endWaiting (h : Quits s t) (st : Byte) (rs : List RngReq) : Quits s (endWaiting st rs t) := by
  induction rs generalizing t with
  | nil => exact h
  | cons r rs ih =>
    unfold Machine.endWaiting
    split
    · exact ih (h.endWith ..)
    · exact ih h

theorem endLater (h : Quits s t) (st : Byte) (xs : List (Pend × Cmd)) : Quits s (endLater st xs t) := by
  induction xs generalizing t with
  | nil => exact h
  | cons x xs ih => exact ih (h.endWith ..)

theorem endLoads (h : Quits s t) (st : Byte) (k : Fin 4) : Quits s (endLoads st k t) := by
  unfold Machine.endLoads
  split
  · split
    · exact h.endOpt ..
    · exact h
  · exact h

theorem endJobCmds (h : Quits s t) (st : Byte) (j : Fin 4) : Quits s (endJobCmds st j t) := by
  unfold Machine.endJobCmds
  split
  · exact h
  · next x hx =>
    have hstop := h.answerAll st 0 0 (x.stop.getD [])
    have hsnap : Quits s (match x.snap with
        | some r => Machine.endOpt r.pend st (Machine.answerAll st 0 0 (x.stop.getD []) t)
        | none => Machine.answerAll st 0 0 (x.stop.getD []) t) := by
      split
      · exact hstop.endOpt ..
      · exact hstop
    have hrep := (hsnap.endOpt x.startPend st).endReplays st (x.replays ++ x.replaying.toList)
    dsimp only
    split
    · exact hrep.endOpt ..
    · exact hrep

theorem endExport (h : Quits s t) (j : Fin 4) (st : Byte) : Quits s (endExport j st t) := by
  unfold Machine.endExport
  split
  · exact h
  · next r hr =>
    have hsq (x : SeqDev) : Quits t { t with sq := x } := ⟨rfl, rfl, rfl⟩
    have hfls (u : State) (x : Fls) : Quits u { u with fls := x } := ⟨rfl, rfl, rfl⟩
    have hfree : Quits t (if r.handle = 0 then { t with sq := { t.sq with exports := t.sq.exports.set j none } }
        else freeHandle r.handle { t with sq := { t.sq with exports := t.sq.exports.set j none } }) := by
      split
      · exact hsq _
      · exact (hsq _).trans (of_within (freeHandle_within ..) rfl rfl rfl)
    exact (h.trans (hfree.endOpt ..)).trans (hfls _ _)

theorem eachSlot {f : Fin 4 → State → State} (h : Quits s t) (hf : ∀ j u, Quits s u → Quits s (f j u)) :
    Quits s (eachSlot f t) := hf 3 _ (hf 2 _ (hf 1 _ (hf 0 _ h)))

/-- R470: every command that waits ends, but for power, performance and IMAGE_SELECT (log entry 26). -/
theorem abortCommands (h : Quits s t) : Quits s (abortCommands t) := by
  have hjobs := ((h.endTasks stAborted (t.fls.tasks ++ t.fls.issued.toList)).endWaiting stAborted t.rng.waiting).eachSlot
    (f := fun j u => Machine.endExport j stAborted (Machine.endJobCmds stAborted j u))
    fun j u hu => (hu.endJobCmds stAborted j).endExport j stAborted
  have hloads := (hjobs.eachSlot (f := Machine.endLoads stAborted) fun k u hu => hu.endLoads stAborted k).endLater stAborted
    t.sec.later
  have htend {u : State} (hu : Quits s u) : Quits s (match t.sec.tend with
      | some x => Machine.endWith x.1 stAborted u
      | none => u) := by
    split
    · exact hu.endWith ..
    · exact hu
  have htest {u : State} (hu : Quits s u) : Quits s (match t.pwr.selftest with
      | some r => Machine.endWith r.pend stAborted u
      | none => u) := by
    split
    · exact hu.endWith ..
    · exact hu
  have hretrain {u : State} (hu : Quits s u) : Quits s (match t.pwr.retrain with
      | some r => Machine.endWith r.pend stAborted u
      | none => u) := by
    split
    · exact hu.endWith ..
    · exact hu
  unfold Machine.abortCommands
  exact hretrain (htest (htend hloads))

end Quits

end Sys2Proof.Machine
end

section
/-! The rails in their order (R464 to R466). -/

namespace Sys2Proof.Machine
open Sys2Proof.Claims
open Within

/-! ### A reset of the compute die -/

/-- The power registers after a reset of the compute die. -/
def diePwr (p : Pwr) : Pwr :=
  { p with level := 0, pendingLevel := 0, coreDiv := 4, perfWaiting := [], selftest := none, retrain := none,
           drawerMarks := 0, drawersNow := [], armed := 0, gate := 0, coreDown := false }

theorem closeDebugRecord_shut {s : State} (h : s.mgmt.debugOpen = false) : closeDebugRecord s = s :=
  if_neg (ne_true_of_eq_false h)

theorem stopJob_none {j : Fin 4} {s : State} (h : s.jobs[j] = none) (st done : Byte) (a b : Word) :
    stopJob j st done a b s = s := by
  unfold stopJob
  rw [h]

/-- What an entry to DEEP or OFF ends before the die resets. -/
def downEnded (s : State) : State :=
  abortCommands (eachSlot (fun j s => endExport j stAborted (stopJob j stAborted stDone 0 0 s)) s)

/-- The die in DEEP or OFF. -/
def downDie (s : State) : State :=
  let s2 := dieReset (closeDebugRecord s)
  { s2 with glb := { s2.glb with phase := .down },
            hif := { s2.hif with pcieUp := false, session := none, queue := [] } }

theorem enterDown_eq (s : State) : enterDown s = downDie (downEnded s) := by
  unfold enterDown downDie downEnded
  rfl

theorem downDie_shut {s : State} (h : s.mgmt.debugOpen = false) :
    (downDie s).pwr = diePwr s.pwr ∧ (downDie s).aon = s.aon ∧ (downDie s).glb.phase = .down := by
  unfold downDie
  rw [closeDebugRecord_shut h]
  exact ⟨rfl, rfl, rfl⟩

theorem downEnded_jobless {s : State} (h : s.jobs = vrep 4 none) : Quits s (downEnded s) := by
  refine Quits.abortCommands (Quits.eachSlot (.refl s) fun j u hu => ?_)
  have hj : u.jobs[j] = none := by
    rw [hu.within.jobs_eq, h]
    exact vrep_get none j
  rw [stopJob_none hj]
  exact hu.endExport j stAborted

/-- With no job and no debug session, an entry to DEEP or OFF resets the die and leaves the registers of power and of the
always-on domain. -/
theorem enterDown_jobless {s : State} (h : s.jobs = vrep 4 none) (hd : s.mgmt.debugOpen = false) :
    (enterDown s).pwr = diePwr s.pwr ∧ unlatched (enterDown s) = unlatched s ∧ (enterDown s).glb.phase = .down := by
  have hq := downEnded_jobless h
  obtain ⟨hpwr, haon, hphase⟩ := downDie_shut (hq.paths.trans hd)
  rw [enterDown_eq]
  exact ⟨hpwr.trans (congrArg diePwr hq.within.pwr_eq), (unlatched_of_aon haon).trans hq.regs, hphase⟩

/-! ### A power-up that fails (R465) -/

/-- The requests that waited for the power-up end. -/
def upAborted (s : State) : State := endOpt s.pwr.nextReq stAborted (endOpt s.pwr.req stAborted s)

theorem upAborted_quits (s : State) : Quits s (upAborted s) := ((Quits.refl s).endOpt ..).endOpt ..

/-- The target is discarded. -/
def targetDiscarded (s : State) : State :=
  { s with pwr := { s.pwr with req := none, nextReq := none, target := .off, goal := .off } }

/-- The way down to OFF from step k. -/
def downFrom (k : Nat) (s : State) : State := { s with pwr := { s.pwr with seq := .down k .off, transition := true } }

theorem abandonUp_eq {k : Nat} (h : k ≤ 6) (s : State) :
    abandonUp k s = downFrom k (enterDown (targetDiscarded (upAborted s))) := by
  unfold abandonUp downFrom targetDiscarded upAborted
  exact if_neg (by omega)

theorem abandonUp_jobless {k : Nat} (h : k ≤ 6) {s : State} (hj : s.jobs = vrep 4 none) (hd : s.mgmt.debugOpen = false) :
    (abandonUp k s).pwr.fault = s.pwr.fault ∧ (abandonUp k s).pwr.seq = .down k .off ∧ (abandonUp k s).pwr.target = .off ∧
    (abandonUp k s).pwr.transition = true ∧ unlatched (abandonUp k s) = unlatched s ∧ (abandonUp k s).glb.phase = .down := by
  have hq := upAborted_quits s
  obtain ⟨hpwr, hregs, hphase⟩ := enterDown_jobless (s := targetDiscarded (upAborted s)) (hq.within.jobs_eq.trans hj)
    (hq.paths.trans hd)
  have hdown (t : State) : (downFrom k t).pwr = { t.pwr with seq := .down k .off, transition := true } ∧
      unlatched (downFrom k t) = unlatched t ∧ (downFrom k t).glb = t.glb := ⟨rfl, rfl, rfl⟩
  obtain ⟨hp, hr, hg⟩ := hdown (enterDown (targetDiscarded (upAborted s)))
  rw [abandonUp_eq h, hp, hr, hg, hpwr]
  exact ⟨(congrArg Pwr.fault hq.within.pwr_eq :), rfl, rfl, rfl, hregs.trans hq.regs, hphase⟩

/-! ### The obligation -/

theorem powered_of_on {s : State} (hs : s.aon.supply = true) (ho : s.pwr.state ≠ .off) (hd : s.pwr.state ≠ .deep) :
    powered s = true := by
  unfold powered
  rw [hs, beq_eq_false_iff_ne.mpr ho, beq_eq_false_iff_ne.mpr hd, Bool.or_self, Bool.and_false]
  rfl

theorem powered_of_moving {s : State} (hs : s.aon.supply = true) (h : s.pwr.seq ≠ .idle) : powered s = true := by
  unfold powered
  rw [hs, beq_eq_false_iff_ne.mpr h]
  rfl

theorem railStepTimeout_goesOn {k : Nat} {g : PState} {s : State} (h : s.pwr.seq = .down k g) (hk : k < lastDown g) :
    ∃ t, exec .railStepTimeout s = .next t ∧ t.pwr.seq = .down (k + 1) g ∧ bitAt t.pwr.fault 0 = true ∧
      t.aon.railPend = true ∧ bitAt t.aon.wakeCause 7 = true ∧
      t.aon.ret[1] = BitVec.ofNat 32 (railCode (downRail k)) ∧ t = { s with pwr := t.pwr, aon := t.aon } := by
  refine ⟨_, exec_railStepTimeout h, ?_⟩
  rw [downDone_goesOn hk]
  obtain ⟨hb, hp⟩ := railBias_pwr (downRail k) g { recordRail (downRail k) false s with pwr := {
    (recordRail (downRail k) false s).pwr with
      rails := (recordRail (downRail k) false s).pwr.rails.set (railIdx (downRail k)) false, seq := .down (k + 1) g } }
  refine ⟨?_, ?_, ?_, ?_, ?_, ?_⟩
  · rw [hp]
  · rw [hp]
    exact bitAt_orBit _ (by decide)
  · rw [hb]
    rfl
  · rw [hb]
    exact railCause_flag ..
  · rw [hb]
    exact railAon_ret (downRail k) false s.aon
  · rw [hb]
    rfl

theorem railFault_up (r : Rail) {k : Nat} {s : State} (hs : s.aon.supply = true) (hq : s.pwr.seq = .up k) (h0 : 0 < k)
    (h5 : k < 5) (hj : s.jobs = vrep 4 none) (hd : s.mgmt.debugOpen = false) :
    ∃ t, exec (.railFault r) s = .next t ∧ bitAt t.pwr.fault 0 = true ∧ t.pwr.seq = .down (k + 2) .off ∧
      t.pwr.target = .off ∧ t.pwr.transition = true ∧ t.aon.ret[1] = BitVec.ofNat 32 (railCode r + 8) ∧
      bitAt t.aon.wakeCause 7 = true ∧ bitsNat t.aon.wakeCause 26 24 = railCode r ∧ t.aon.railPend = true ∧
      t.glb.phase = .down := by
  obtain ⟨hfault, hseq, htarget, htrans, hregs, hphase⟩ := abandonUp_jobless (k := k + 2) (by omega)
    (s := recordRail r true (railLow r s)) hj hd
  have hret : (abandonUp (k + 2) (recordRail r true (railLow r s))).aon.ret = (railAon r true s.aon).ret :=
    (congrArg Aon.ret hregs :)
  have hcause : (abandonUp (k + 2) (recordRail r true (railLow r s))).aon.wakeCause = railCause r s.aon.wakeCause :=
    (congrArg Aon.wakeCause hregs :)
  refine ⟨_, exec_railFault_up r (powered_of_moving hs (by rw [hq]; exact PwrSeq.noConfusion)) hq h0, ?_, hseq, htarget,
    htrans, ?_, ?_, ?_, (congrArg Aon.railPend hregs :), hphase⟩
  · rw [hfault]
    exact bitAt_orBit _ (by decide)
  · rw [hret]
    exact railAon_ret r true s.aon
  · rw [hcause]
    exact railCause_flag ..
  · rw [hcause]
    exact railCause_rail ..

/-- Settles O13: a step that goes on sets its rail, its bias and the next step; a rail that falls is recorded, and a power-up
that it ends resets the die and leaves the record. -/
theorem railStepsFollowTheOrder : Obligations.RailStepsFollowTheOrder := by
  refine ⟨fun k g s h hk => ?_, fun k g s h hk => railStepTimeout_goesOn h hk, fun k s h hk => ?_, fun s h hs => ?_,
    fun r s hs hq ho hd => ?_, fun r k s hs hq h0 h5 _ hj hd => railFault_up r hs hq h0 h5 hj hd⟩
  · rw [exec_railPowerGood_down h, downDone_goesOn hk]
  · rw [exec_railPowerGood_up h (by omega), upDone_goesOn (by split <;> omega)]
  · have hup := exec_railPowerGood_up (k := 2) h (by decide)
    rw [upDone_goesOn (by rw [if_neg hs]; decide)] at hup
    exact hup
  · have hf := railFallen r s
    exact ⟨_, exec_railFault_service r (powered_of_on hs ho hd) (fun k hk => by rw [hq] at hk; cases hk), hf.low, hf.fault,
      hf.ret, hf.rail, hf.frame⟩

end Sys2Proof.Machine
end

section
/-! Wakes, resets and the supply (R467 to R470, R486, R508). -/

namespace Sys2Proof.Machine
open Sys2Proof.Claims
open Within

/-! ### PWR_WAKE_CAUSE (R486) -/

/-- The always-on registers with a new cause, mirrored in retention word 0. -/
def causeAon (w : Word) (a : Aon) : Aon := { a with wakeCause := w, ret := a.ret.set 0 w }

/-- A cause with FROM at p. -/
def fromCause (p : PState) (w : Word) : Word := (w &&& ~~~(0x1C00 : Word)) ||| BitVec.ofNat 32 (stateCode p * 1024)

theorem orCause_eq (w : Word) (s : State) : orCause w s = { s with aon := causeAon (s.aon.wakeCause ||| w) s.aon } := rfl

theorem fromCause_from (p : PState) (w : Word) : bitsNat (fromCause p w) 12 10 = stateCode p := by
  have hcode : bitsNat (BitVec.ofNat 32 (stateCode p * 1024)) 12 10 = stateCode p := by cases p <;> decide
  refine (bitsNat_masked (by decide) fun i h1 h2 => ?_).trans hcode
  obtain rfl | rfl | rfl : i = 10 ∨ i = 11 ∨ i = 12 := by omega
  all_goals decide

/-- FROM is bits 12 to 10: the flags below and the fields above stand. -/
theorem bitAt_fromCause (p : PState) (w : Word) {i : Nat} (hi : i < 32) (h : i < 10 ∨ 12 < i) :
    bitAt (fromCause p w) i = bitAt w i := by
  have hmask : bitAt (0x1C00 : Word) i = false := by
    revert i
    decide
  have hcode : bitAt (BitVec.ofNat 32 (stateCode p * 1024)) i = false := by
    revert i
    cases p <;> decide
  unfold fromCause
  rw [bitAt_masked _ _ _ i hi, hmask, hcode, Bool.not_false, Bool.and_true, Bool.or_false]

/-! ### A wake starts a transition (R467) -/

/-- A wake that is recorded with the state it leaves. -/
def wakeRecorded (w : Word) (s : State) : State := setFrom s.pwr.state (orCause w s)

/-- The target is RUN, and no request waits. -/
def wakeBound (w : Word) (s : State) : State :=
  { wakeRecorded w s with pwr := { s.pwr with target := .run, req := none } }

theorem wake_begins (w : Word) {s : State} (ht : s.pwr.target ≠ .run) (hq : s.pwr.seq = .idle) (hs : s.pwr.state ≠ .run) :
    wake w s = beginTo .run (wakeBound w s) := by
  have hi : (s.pwr.seq == .idle) = true := by rw [hq]; rfl
  have hrec : (if ((orCause w s).pwr.seq == .idle) = true then setFrom (orCause w s).pwr.state (orCause w s) else orCause w s) =
      wakeRecorded w s := if_pos hi
  have hreq : requestPower .run none (wakeRecorded w s) =
      beginTo .run (wakeBound w s) := by
    unfold requestPower
    exact (if_pos hi).trans (if_neg hs)
  unfold wake
  rw [if_neg ht]
  exact (congrArg _ hrec).trans hreq

/-- The way up from SLEEP begins. -/
def upFromSleep (s : State) : State :=
  setFrom .sleep { s with pwr := { s.pwr with transition := true, goal := .run, seq := .up 4 } }

theorem beginTo_fromSleep {s : State} (h : s.pwr.state = .sleep) : beginTo .run s = upFromSleep s := by
  unfold beginTo beginRails
  rw [h]
  rfl

/-- The way up from OFF begins: the module restarts as from power-on. -/
def upFromOff (s : State) : State :=
  let s2 := powerOnReset (setFrom .off { s with pwr := { s.pwr with transition := true, seq := .up 5, goal := .run } })
  { s2 with glb := { s2.glb with phase := .powerUp } }

theorem beginTo_fromOff {s : State} (h : s.pwr.state = .off) : beginTo .run s = upFromOff s := by
  unfold beginTo beginRails
  rw [h]
  rfl

/-- The cause after a wake of w from p. -/
def wokenCause (p : PState) (w c : Word) : Word := fromCause p (fromCause p (c ||| w))

theorem wokenCause_from (p : PState) (w c : Word) : bitsNat (wokenCause p w c) 12 10 = stateCode p := fromCause_from ..

theorem bitAt_wokenCause (p : PState) (w c : Word) {i : Nat} (hi : i < 32) (h : i < 10 ∨ 12 < i) :
    bitAt (wokenCause p w c) i = (bitAt c i || bitAt w i) := by
  unfold wokenCause
  rw [bitAt_fromCause p _ hi h, bitAt_fromCause p _ hi h, bitAt_or]

/-- R467: from SLEEP the rails come up from VSERDES. -/
theorem wake_fromSleep (w : Word) {s : State} (hs : s.pwr.state = .sleep) (hq : s.pwr.seq = .idle)
    (ht : s.pwr.target = .sleep) : (wake w s).aon.wakeCause = wokenCause .sleep w s.aon.wakeCause ∧
      (wake w s).pwr.target = .run ∧ (wake w s).pwr.seq = .up 4 ∧
      wake w s = { s with pwr := (wake w s).pwr, aon := (wake w s).aon } := by
  rw [wake_begins w (by rw [ht]; decide) hq (by rw [hs]; decide), beginTo_fromSleep (s := wakeBound w s) hs]
  unfold wakeBound wakeRecorded
  rw [hs]
  exact ⟨rfl, rfl, rfl, rfl⟩

/-! ### Resets (R470) -/

theorem closeDebugRecord_aon (s : State) : (closeDebugRecord s).aon = { s.aon with mr3 := (closeDebugRecord s).aon.mr3 } := by
  unfold closeDebugRecord
  split <;> rfl

theorem closeDebugRecord_within (s : State) : Within { aon := true, mgmt := true } s (closeDebugRecord s) := by
  unfold closeDebugRecord
  exact ite rfl (refl ..)

/-- A power-on reset keeps the always-on registers, a debug session's end apart. -/
theorem powerOnReset_aon (s : State) : (powerOnReset s).aon = { s.aon with mr3 := (powerOnReset s).aon.mr3 } :=
  closeDebugRecord_aon s

/-- R467: from OFF the module restarts, and its sequencer stands at the first rail. -/
theorem wake_fromOff (w : Word) {s : State} (hs : s.pwr.state = .off) (hq : s.pwr.seq = .idle)
    (ht : s.pwr.target = .off) : (wake w s).aon.wakeCause = wokenCause .off w s.aon.wakeCause ∧
      (wake w s).pwr.target = .run ∧ (wake w s).pwr.seq = .up 5 ∧ (wake w s).glb.phase = .powerUp ∧
      (wake w s).pwr.thermalHold = s.pwr.thermalHold ∧ (wake w s).pwr.wakeDeferred = s.pwr.wakeDeferred := by
  rw [wake_begins w (by rw [ht]; decide) hq (by rw [hs]; decide), beginTo_fromOff (s := wakeBound w s) hs]
  have hup (t : State) :
      (upFromOff t).aon.wakeCause = fromCause .off t.aon.wakeCause ∧ (upFromOff t).pwr.target = t.pwr.target ∧
      (upFromOff t).pwr.seq = .up 5 ∧ (upFromOff t).glb.phase = .powerUp ∧
      (upFromOff t).pwr.thermalHold = t.pwr.thermalHold ∧ (upFromOff t).pwr.wakeDeferred = t.pwr.wakeDeferred :=
    ⟨congrArg Aon.wakeCause (powerOnReset_aon _), rfl, rfl, rfl, rfl, rfl⟩
  obtain ⟨hc, htarget, hseq, hphase, hhold, hdef⟩ :=
    hup (wakeBound w s)
  refine ⟨hc.trans ?_, htarget, hseq, hphase, hhold, hdef⟩
  unfold wakeBound wakeRecorded
  rw [hs]
  rfl

/-! ### WAKE_N -/

theorem exec_wakeN {s : State} (hs : s.aon.supply = true) (hh : s.pwr.thermalHold = false) :
    exec .wakeN s = .next (wakeNow s) := by
  change execWakeN s = _
  unfold execWakeN
  rw [hs, hh]
  rfl

theorem boundState_idle {s : State} (h : s.pwr.seq = .idle) : boundState s = s.pwr.state := by
  unfold boundState
  rw [h]
  rfl

theorem wakeNow_fromOff {s : State} (hs : s.pwr.state = .off) (hq : s.pwr.seq = .idle) : wakeNow s = wake 0x2 s := by
  unfold wakeNow
  rw [boundState_idle hq, hs]
  rfl

theorem wakeNow_armed {s : State} (hs : s.pwr.state = .sleep) (hq : s.pwr.seq = .idle) (hw : bitAt s.aon.wakeEn 0 = true) :
    wakeNow s = wake 0x2 s := by
  unfold wakeNow
  rw [boundState_idle hq, hs, hw]
  rfl

theorem wakeNow_unarmed {s : State} (hs : s.pwr.state = .sleep) (hq : s.pwr.seq = .idle) (ht : s.pwr.target = .sleep)
    (hw : bitAt s.aon.wakeEn 0 = false) : wakeNow s = s := by
  unfold wakeNow
  rw [boundState_idle hq, hs, hw, ht]
  rfl

theorem wakeNow_towardRun {s : State} (ht : s.pwr.target = .run) : wakeNow s = wake 0x2 s := by
  unfold wakeNow
  exact if_pos (by rw [ht]; exact Bool.or_true _)

end Sys2Proof.Machine
end

section
/-! The start of a boot, wake patterns, and what resets and the supply take (R333, R467 to R470, R508). -/

namespace Sys2Proof.Machine
open Sys2Proof.Claims
open Within

/-! ### The start of a boot (R325, R397, R409) -/

/-- The blocks that the start of a boot changes. -/
def booting : Blocks := { evt := true, aon := true, glb := true, sec := true }

/-- The start of a boot, once the sequencer stands at it: what it leaves of the blocks it changes. -/
structure Boots (s t : State) : Prop where
  within : Within booting s t
  regs : unlatched t = unlatched s
  fuse : t.sec.fuse = s.sec.fuse
  state : t.glb.state = s.glb.state

namespace Boots
variable {s t u : State}

theorem trans (h : Boots s t) (k : Boots t u) : Boots s u :=
  ⟨h.within.trans k.within, k.regs.trans h.regs, k.fuse.trans h.fuse, k.state.trans h.state⟩

theorem refl (s : State) : Boots s s := ⟨.refl .., rfl, rfl, rfl⟩

theorem post (h : Boots s t) (e : Posted) : Boots s (post e t) :=
  h.trans ⟨(Within.refl booting t).post rfl e, unlatched_post e t, by rw [post_sec], by rw [post_glb]⟩

theorem secFault (h : Boots s t) (bit key op : Nat) : Boots s (secFault bit key op t) := h.trans ⟨rfl, rfl, rfl, rfl⟩

theorem fileDeferred (h : Boots s t) : Boots s (fileDeferred t) := by
  refine h.trans ?_
  unfold Machine.fileDeferred
  dsimp only
  split <;> exact ⟨rfl, rfl, rfl, rfl⟩

theorem verifyFirmware (h : Boots s t) : Boots s (verifyFirmware t) := by
  have hphase (g : Glb) (hg : g.state = t.glb.state) : Boots t { t with glb := g } := ⟨rfl, rfl, rfl, hg⟩
  have hsec (x : Sec) (hx : x.fuse = t.sec.fuse) : Boots t { t with sec := x } := ⟨rfl, rfl, hx, rfl⟩
  refine h.trans ?_
  unfold Machine.verifyFirmware
  dsimp only
  split
  · exact hphase _ rfl
  · next b hb =>
    split
    · exact refl t
    · next c hc =>
      have hc := hsec { t.sec with fwSvn := c.svn, fwVersion := c.version, fwCopy := b } rfl
      split
      · exact hc
      · exact (hc.post _).secFault ..

theorem verifyKeyStore (h : Boots s t) : Boots s (verifyKeyStore t) := by
  unfold Machine.verifyKeyStore
  split
  · exact h
  · exact (h.post _).secFault ..

end Boots

theorem bootBegin_boots (s : State) :
    Boots { s with glb := { s.glb with phase := .verify }, pwr := { s.pwr with seq := .up 0 } } (bootBegin s) :=
  (((Boots.refl _).fileDeferred).verifyFirmware).verifyKeyStore

/-! ### Activity on a link (R284, R467) -/

/-- The cause with the number of the link that woke the module. -/
def linkCause (l : Fin 8) (c : Word) : Word := (c &&& ~~~(0x700000 : Word)) ||| BitVec.ofNat 32 (l.val * 2 ^ 20)

theorem linkCause_link (l : Fin 8) (c : Word) : bitsNat (linkCause l c) 22 20 = l.val := by
  have hcode : bitsNat (BitVec.ofNat 32 (l.val * 2 ^ 20)) 22 20 = l.val := by
    revert l
    decide
  refine (bitsNat_masked (by decide) fun i h1 h2 => ?_).trans hcode
  obtain rfl | rfl | rfl : i = 20 ∨ i = 21 ∨ i = 22 := by omega
  all_goals decide

/-- The link of the pattern starts again at step 1, with the cause. -/
def patternSeen (l : Fin 8) (s : State) : State :=
  setCause (linkCause l s.aon.wakeCause) (setLink l (fun x => { x with fault := orBit x.fault 8, state := .signalDetect }) s)

theorem patternSeen_links (l : Fin 8) (s : State) : (patternSeen l s).links =
    upd s.links l (fun x => { x with fault := orBit x.fault 8, state := .signalDetect }) := rfl

theorem exec_wakePattern {l : Fin 8} {s : State} (ha : awake s = true) (hp : linkPresent s.part l.val = true)
    (hw : bitAt s.aon.wakeEn (8 + l.val) = true) (hb : boundState s = .idle ∨ boundState s = .sleep)
    (hl : s.links[l].state = .signalDetect ∨ s.links[l].state = .training) :
    exec (.wakePattern l) s = .next (wake 0x4 (patternSeen l s)) := by
  have hb' : (boundState s == .idle || boundState s == .sleep) = true := by
    rcases hb with h | h <;> rw [h] <;> rfl
  have hl' : (s.links[l].state == .signalDetect || s.links[l].state == .training) = true := by
    rcases hl with h | h <;> rw [h] <;> rfl
  refine if_pos ?_
  rw [ha, hp, hw, hb', hl']
  rfl

theorem exec_wakePattern_not {l : Fin 8} {s : State} (h : awake s = false ∨ linkPresent s.part l.val = false ∨
    bitAt s.aon.wakeEn (8 + l.val) = false) : exec (.wakePattern l) s = .next s := by
  refine if_neg fun hc => ?_
  simp only [Bool.and_eq_true] at hc
  obtain ⟨⟨⟨⟨ha, hp⟩, hw⟩, -⟩, -⟩ := hc
  rcases h with h | h | h
  · exact absurd (h.symm.trans ha) Bool.false_ne_true
  · exact absurd (h.symm.trans hp) Bool.false_ne_true
  · exact absurd (h.symm.trans hw) Bool.false_ne_true

theorem wakePattern_towardRun {l : Fin 8} {s : State} (ha : awake s = true) (hp : linkPresent s.part l.val = true)
    (hw : bitAt s.aon.wakeEn (8 + l.val) = true) (hq : s.pwr.seq = .up 4) (hg : s.pwr.goal = .idle)
    (ht : s.pwr.target = .run) (hs : s.pwr.state = .sleep) (hl : s.links[l].state = .signalDetect) :
    ∃ t, exec (.wakePattern l) s = .next t ∧ bitAt t.links[l].fault 8 = true ∧ bitAt t.aon.wakeCause 2 = true ∧
      bitsNat t.aon.wakeCause 22 20 = l.val ∧ (∀ k : Fin 8, k ≠ l → t.links[k] = s.links[k]) ∧
      t = { s with links := t.links, aon := t.aon } := by
  have hb : boundState s = .idle := by
    unfold boundState
    rw [hq, hg]
    rfl
  refine ⟨_, exec_wakePattern ha hp hw (.inl hb) (.inl hl), ?_⟩
  rw [wake_towardRun 0x4 (s := patternSeen l s) ht (by rw [show (patternSeen l s).pwr.state = _ from hs]; decide), orCause_eq]
  refine ⟨?_, ?_, ?_, fun k hk => ?_, rfl⟩
  · rw [patternSeen_links, upd_same]
    exact bitAt_orBit _ (by decide)
  · exact (bitAt_or_pow (w := 32) _ (n := 2) (m := 2) (by decide)).trans (by simp)
  · refine (bitsNat_or_outside fun i h1 h2 => ?_).trans (linkCause_link l s.aon.wakeCause)
    obtain rfl | rfl | rfl : i = 20 ∨ i = 21 ∨ i = 22 := by omega
    all_goals decide
  · rw [patternSeen_links, upd_other _ _ _ _ hk]

theorem wakePattern_fromSleep {l : Fin 8} {s : State} (ha : awake s = true) (hp : linkPresent s.part l.val = true)
    (hw : bitAt s.aon.wakeEn (8 + l.val) = true) (hs : s.pwr.state = .sleep) (hq : s.pwr.seq = .idle)
    (ht : s.pwr.target = .sleep) (hl : s.links[l].state = .signalDetect ∨ s.links[l].state = .training) :
    ∃ t, exec (.wakePattern l) s = .next t ∧ bitAt t.links[l].fault 8 = true ∧ t.links[l].state = .signalDetect ∧
      bitAt t.aon.wakeCause 2 = true ∧ bitsNat t.aon.wakeCause 22 20 = l.val ∧ t.pwr.target = .run ∧ t.pwr.seq = .up 4 ∧
      t = { s with links := t.links, pwr := t.pwr, aon := t.aon } := by
  obtain ⟨hcause, htarget, hseq, hframe⟩ := wake_fromSleep 0x4 (s := patternSeen l s) hs hq ht
  have hlinks : (wake 0x4 (patternSeen l s)).links = (patternSeen l s).links :=
    (congrArg State.links hframe :)
  refine ⟨_, exec_wakePattern ha hp hw (.inr (by rw [boundState_idle hq, hs])) hl, ?_, ?_, ?_, ?_, htarget, hseq, ?_⟩
  · rw [hlinks, patternSeen_links, upd_same]
    exact bitAt_orBit _ (by decide)
  · rw [hlinks, patternSeen_links, upd_same]
  · rw [hcause, bitAt_wokenCause _ _ _ (by decide) (.inl (by decide))]
    exact Bool.or_eq_true_iff.mpr (.inr (by decide))
  · rw [hcause]
    refine (bitsNat_congr fun i h1 h2 => ?_).trans (linkCause_link l s.aon.wakeCause)
    have h4 : bitAt (0x4 : Word) i = false := by
      obtain rfl | rfl | rfl : i = 20 ∨ i = 21 ∨ i = 22 := by omega
      all_goals decide
    rw [bitAt_wokenCause _ _ _ (by omega) (.inr (by omega)), h4, Bool.or_false]
    rfl
  · exact Within.trans (b := { links := true, pwr := true, aon := true })
      (t := patternSeen l s) rfl (grow (b := { pwr := true, aon := true }) hframe)

/-! ### PWR_WAKE_CAUSE cleared (R486) -/

/-- The fields that go with their flags: comparators, link and rail. -/
def linkedFields (v : Word) : Word :=
  (if bitAt v 3 then 0xF0000 else 0) ||| (if bitAt v 2 then 0x700000 else 0) ||| (if bitAt v 7 then 0x7000000 else 0)

/-- What a write of v clears. -/
def clearedBits (v : Word) : Word := (v &&& 0x3FF) ||| linkedFields v

theorem exec_wakeCauseClear (v : Word) {s : State} (ha : awake s = true) :
    exec (.pwrWakeCauseClear v) s = .next (setCause (s.aon.wakeCause &&& ~~~(clearedBits v)) s) := by
  change execPwrWakeCauseClear v s = _
  unfold execPwrWakeCauseClear
  rw [ha]
  rfl

theorem exec_wakeCauseClear_asleep (v : Word) {s : State} (ha : awake s = false) : exec (.pwrWakeCauseClear v) s = .next s := by
  change execPwrWakeCauseClear v s = _
  unfold execPwrWakeCauseClear
  rw [ha]
  rfl

theorem bitAt_linkedFields (v : Word) {i : Nat} (hi : i < 32) : bitAt (linkedFields v) i =
    ((bitAt v 3 && decide (16 ≤ i ∧ i ≤ 19)) || (bitAt v 2 && decide (20 ≤ i ∧ i ≤ 22)) ||
      (bitAt v 7 && decide (24 ≤ i ∧ i ≤ 26))) := by
  unfold linkedFields
  revert i
  cases bitAt v 3 <;> cases bitAt v 2 <;> cases bitAt v 7 <;> decide

theorem bitAt_low (v : Word) {i : Nat} (hi : i < 32) : bitAt (v &&& 0x3FF) i = (bitAt v i && decide (i < 10)) := by
  have hm : bitAt (0x3FF : Word) i = decide (i < 10) := by
    revert i
    decide
  rw [← hm]
  simp [bitAt]

theorem bitAt_cleared (c v : Word) {i : Nat} (hi : i < 32) : bitAt (c &&& ~~~(clearedBits v)) i =
    (bitAt c i && !((bitAt v i && decide (i < 10)) || bitAt (linkedFields v) i)) := by
  have hn : bitAt (c &&& ~~~(clearedBits v)) i = (bitAt c i && !bitAt (clearedBits v) i) := by simp [bitAt, hi]
  rw [hn, clearedBits, bitAt_or, bitAt_low v hi]

/-- A field goes with its flag, or stays. -/
theorem cleared_field {c v : Word} {hi lo n : Nat} (hlo : 10 ≤ lo) (hhi : hi < 32)
    (h : ∀ i, lo ≤ i → i ≤ hi → bitAt (linkedFields v) i = bitAt v n) :
    bitsNat (c &&& ~~~(clearedBits v)) hi lo = if bitAt v n then 0 else bitsNat c hi lo := by
  have hbit (i : Nat) (h1 : lo ≤ i) (h2 : i ≤ hi) : bitAt (c &&& ~~~(clearedBits v)) i = (bitAt c i && !bitAt v n) := by
    rw [bitAt_cleared c v (by omega), decide_eq_false (by omega), Bool.and_false, Bool.false_or, h i h1 h2]
  cases hv : bitAt v n
  · rw [if_neg Bool.false_ne_true]
    exact bitsNat_congr fun i h1 h2 => by rw [hbit i h1 h2, hv, Bool.not_false, Bool.and_true]
  · rw [if_pos rfl]
    have hzero : bitsNat (0 : Word) hi lo = 0 := by simp [bitsNat]
    refine (bitsNat_congr fun i h1 h2 => ?_).trans hzero
    rw [hbit i h1 h2, hv, Bool.not_true, Bool.and_false]
    simp [bitAt]

theorem wakeCauseClear_clears (v : Word) {s : State} (ha : awake s = true) :
    ∃ t, exec (.pwrWakeCauseClear v) s = .next t ∧
      (∀ n : Fin 10, bitAt t.aon.wakeCause n.val = (bitAt s.aon.wakeCause n.val && !bitAt v n.val)) ∧
      bitsNat t.aon.wakeCause 12 10 = bitsNat s.aon.wakeCause 12 10 ∧ t.aon.ret[0] = t.aon.wakeCause ∧
      bitsNat t.aon.wakeCause 19 16 = (if bitAt v 3 then 0 else bitsNat s.aon.wakeCause 19 16) ∧
      bitsNat t.aon.wakeCause 22 20 = (if bitAt v 2 then 0 else bitsNat s.aon.wakeCause 22 20) ∧
      bitsNat t.aon.wakeCause 26 24 = (if bitAt v 7 then 0 else bitsNat s.aon.wakeCause 26 24) ∧
      t = { s with aon := t.aon } := by
  have hout {i : Nat} (hi : i < 16) : bitAt (linkedFields v) i = false := by
    rw [bitAt_linkedFields v (by omega), decide_eq_false (by omega), decide_eq_false (by omega), decide_eq_false (by omega)]
    simp
  refine ⟨_, exec_wakeCauseClear v ha, fun n => ?_, ?_, Vector.getElem_set_self _, ?_, ?_, ?_, rfl⟩
  · have hn := n.isLt
    refine (bitAt_cleared s.aon.wakeCause v (by omega)).trans ?_
    rw [hout (by omega), decide_eq_true hn, Bool.and_true, Bool.or_false]
  · refine bitsNat_congr fun i h1 h2 => (bitAt_cleared s.aon.wakeCause v (by omega)).trans ?_
    rw [hout (by omega), decide_eq_false (by omega), Bool.and_false, Bool.or_false, Bool.not_false, Bool.and_true]
  · refine cleared_field (by decide) (by decide) fun i h1 h2 => ?_
    rw [bitAt_linkedFields v (by omega), decide_eq_true ⟨h1, h2⟩, decide_eq_false (by omega), decide_eq_false (by omega)]
    simp
  · refine cleared_field (by decide) (by decide) fun i h1 h2 => ?_
    rw [bitAt_linkedFields v (by omega), decide_eq_true (p := 20 ≤ i ∧ i ≤ 22) ⟨h1, h2⟩, decide_eq_false (by omega),
      decide_eq_false (by omega)]
    simp
  · refine cleared_field (by decide) (by decide) fun i h1 h2 => ?_
    rw [bitAt_linkedFields v (by omega), decide_eq_true (p := 24 ≤ i ∧ i ≤ 26) ⟨h1, h2⟩, decide_eq_false (by omega),
      decide_eq_false (by omega)]
    simp

end Sys2Proof.Machine
end

section
/-! What resets and the supply take (R448, R470, R508). -/

namespace Sys2Proof.Machine
open Sys2Proof.Claims
open Within

/-! ### The flash -/

theorem flsAfterReset_keeps (n : Nat) (f : Fls) :
    (flsAfterReset n f).bbt = f.bbt ∧ (flsAfterReset n f).prot = f.prot :=
  (cutIssued_kept n f).symm

/-! ### The compute die -/

/-- What a reset of the compute die takes and what it leaves (R470). -/
structure DieTaken (s t : State) : Prop where
  jobs : t.jobs = vrep 4 none
  img : t.img = none
  handles : t.stk.handles = []
  bytes : t.stk.bytes = []
  links : t.links = vrep 8 Link.reset
  ws : t.ws = Ws.reset
  bnc : t.bnc = vrep 4 Bench.reset
  pln : t.pln = vrep 16 Plane.reset
  sns : t.sns = vrep 24 Port.reset
  bbt : t.fls.bbt = s.fls.bbt
  prot : t.fls.prot = s.fls.prot
  fuse : t.sec.fuse = s.sec.fuse
  regs : unlatched t = { unlatched s with mr3 := t.aon.mr3 }

theorem dieReset_takes (s : State) : DieTaken s (dieReset s) := by
  obtain ⟨hbbt, hprot⟩ := flsAfterReset_keeps s.free s.fls
  exact ⟨rfl, rfl, rfl, rfl, rfl, rfl, rfl, rfl, rfl, hbbt, hprot, rfl, rfl⟩

/-- The debug session's record apart, a die that is to reset is as it was. -/
theorem DieTaken.closed {s t : State} (h : DieTaken (closeDebugRecord s) t) : DieTaken s t := by
  have hw := closeDebugRecord_within s
  obtain ⟨h1, h2, h3, h4, h5, h6, h7, h8, h9, h10, h11, h12, h13⟩ := h
  refine ⟨h1, h2, h3, h4, h5, h6, h7, h8, h9, h10.trans ?_, h11.trans ?_, h12.trans ?_, h13.trans ?_⟩
  · rw [hw.fls_eq]
  · rw [hw.fls_eq]
  · rw [hw.sec_eq]
  · unfold unlatched
    rw [closeDebugRecord_aon s]

theorem powerOnReset_takes (s : State) : DieTaken s (powerOnReset s) := by
  have h := (dieReset_takes (closeDebugRecord s)).closed
  obtain ⟨h1, h2, h3, h4, h5, h6, h7, h8, h9, h10, h11, -, h13⟩ := h
  exact ⟨h1, h2, h3, h4, h5, h6, h7, h8, h9, h10, h11, rfl, h13⟩

theorem hardDown_takes (s : State) : DieTaken s (hardDown s) := by
  have h := (dieReset_takes (closeDebugRecord s)).closed
  obtain ⟨h1, h2, h3, h4, h5, h6, h7, h8, h9, h10, h11, h12, h13⟩ := h
  exact ⟨h1, h2, h3, h4, h5, h6, h7, h8, h9, h10, h11, h12, h13⟩

/-- The start of a boot takes nothing more. -/
theorem DieTaken.booted {s t u : State} (h : DieTaken s t) (k : Boots t u) : DieTaken s u where
  jobs := k.within.jobs_eq.trans h.jobs
  img := k.within.img_eq.trans h.img
  handles := by rw [k.within.stk_eq, h.handles]
  bytes := by rw [k.within.stk_eq, h.bytes]
  links := (congrArg State.links k.within :).trans h.links
  ws := k.within.ws_eq.trans h.ws
  bnc := (congrArg State.bnc k.within :).trans h.bnc
  pln := (congrArg State.pln k.within :).trans h.pln
  sns := (congrArg State.sns k.within :).trans h.sns
  bbt := by rw [k.within.fls_eq, h.bbt]
  prot := by rw [k.within.fls_eq, h.prot]
  fuse := k.fuse.trans h.fuse
  regs := by
    have hm : u.aon.mr3 = t.aon.mr3 := (congrArg Aon.mr3 k.regs :)
    rw [k.regs, hm, h.regs]

theorem DieTaken.time {s t : State} (h : DieTaken s t) : t.aon.time = s.aon.time := (congrArg Aon.time h.regs :)

theorem DieTaken.cause {s t : State} (h : DieTaken s t) : t.aon.wakeCause = s.aon.wakeCause := (congrArg Aon.wakeCause h.regs :)

/-! ### MOD_RST_N -/

/-- The cause after MOD_RST_N in state p. -/
def resetCause (p : PState) (c : Word) : Word :=
  ((c &&& ~~~(0x1C00 : Word)) ||| 0x200) ||| BitVec.ofNat 32 (stateCode p * 1024)

theorem resetCause_flag (p : PState) (c : Word) : bitAt (resetCause p c) 9 = true := by
  unfold resetCause
  rw [bitAt_or, bitAt_or, show bitAt (0x200 : Word) 9 = true by decide, Bool.or_true, Bool.true_or]

theorem resetCause_from (p : PState) (c : Word) : bitsNat (resetCause p c) 12 10 = stateCode p := by
  have hcode : bitsNat (0x200 ||| BitVec.ofNat 32 (stateCode p * 1024)) 12 10 = stateCode p := by cases p <;> decide
  unfold resetCause
  rw [BitVec.or_assoc]
  refine (bitsNat_masked (by decide) fun i h1 h2 => ?_).trans hcode
  obtain rfl | rfl | rfl : i = 10 ∨ i = 11 ∨ i = 12 := by omega
  all_goals decide

/-- The module after its power-on reset, with all rails up. -/
def railedReset (s : State) : State :=
  { powerOnReset (setCause (resetCause s.pwr.state s.aon.wakeCause) s) with pwr := { Pwr.reset with rails := vrep 5 true } }

theorem modReset_eq (s : State) : modReset s = bootBegin (railedReset s) := rfl

/-- The sequencer stands at a boot. -/
def bootStands (s : State) : State := { s with glb := { s.glb with phase := .verify }, pwr := { s.pwr with seq := .up 0 } }

theorem DieTaken.set_power {s t : State} (h : DieTaken s t) (p : Pwr) : DieTaken s { t with pwr := p } := by
  obtain ⟨h1, h2, h3, h4, h5, h6, h7, h8, h9, h10, h11, h12, h13⟩ := h
  exact ⟨h1, h2, h3, h4, h5, h6, h7, h8, h9, h10, h11, h12, h13⟩

theorem DieTaken.bootStands {s t : State} (h : DieTaken s t) : DieTaken s (bootStands t) := by
  obtain ⟨h1, h2, h3, h4, h5, h6, h7, h8, h9, h10, h11, h12, h13⟩ := h
  exact ⟨h1, h2, h3, h4, h5, h6, h7, h8, h9, h10, h11, h12, h13⟩

theorem modReset_takes (s : State) : DieTaken (setCause (resetCause s.pwr.state s.aon.wakeCause) s) (modReset s) := by
  have h : DieTaken (setCause (resetCause s.pwr.state s.aon.wakeCause) s) (railedReset s) :=
    (powerOnReset_takes _).set_power _
  rw [modReset_eq]
  exact h.bootStands.booted (bootBegin_boots _)

theorem modReset_run (s : State) : (modReset s).pwr.state = .run := by
  rw [modReset_eq, (bootBegin_boots _).within.pwr_eq]
  rfl

/-! ### The 12 V supply (R442, R448, R468) -/

/-- The state after the loss of 12 V. -/
def supplyLost (s : State) : State :=
  { hardDown s with
    pwr := { (hardDown s).pwr with state := .off, seq := .idle, transition := false, rails := vrep 5 false,
                                   thermalHold := false, wakeDeferred := false, bias := .unpowered, sram := .unpowered },
    aon := { (hardDown s).aon with supply := false, onCell := true, tk := .coasting } }

theorem exec_supplyLoss {s : State} (h : s.aon.supply = true) : exec .supply12vLoss s = .next (supplyLost s) := by
  change execSupply12vLoss s = _
  unfold execSupply12vLoss
  rw [h]
  rfl

theorem exec_supplyLoss_without {s : State} (h : s.aon.supply = false) : exec .supply12vLoss s = .next s := by
  change execSupply12vLoss s = _
  unfold execSupply12vLoss
  rw [h]
  rfl

theorem hardDown_phase (s : State) : (hardDown s).glb.phase = .down := rfl

theorem exec_supplyApplied {s : State} (h : s.aon.supply = false) : exec .supply12vApplied s = .next (supplyUp s) :=
  if_neg (ne_true_of_eq_false h)

theorem exec_supplyApplied_with {s : State} (h : s.aon.supply = true) : exec .supply12vApplied s = .next s := if_pos h

theorem exec_aonPor {s : State} (h : s.aon.supply = false) :
    exec .aonPor s = .next { s with aon := { Aon.reset with supply := false, onCell := true } } :=
  if_neg (ne_true_of_eq_false h)

theorem exec_aonPor_with {s : State} (h : s.aon.supply = true) : exec .aonPor s = .next s := if_pos h

/-- 12 V is back: its registers before the module restarts. -/
def supplyBack (s : State) : State :=
  let s1 := { s with aon := { s.aon with supply := true, onCell := false, cellTrip := false } }
  let s2 := if s.aon.por then s1 else setFrom .off s1
  let s3 := orCause (if s.aon.cellTrip then 0x21 else 0x1) s2
  { s3 with pwr := { s3.pwr with seq := .up 5, goal := .run, target := .run, transition := true } }

/-- The rails are about to come up. -/
def poweringUp (s : State) : State := { s with glb := { s.glb with phase := .powerUp } }

theorem supplyUp_eq (s : State) : supplyUp s = poweringUp (powerOnReset (supplyBack s)) := rfl

theorem supplyBack_aon (s : State) : (supplyBack s).aon.supply = true ∧ (supplyBack s).aon.onCell = false ∧
    (supplyBack s).aon.cellTrip = false ∧ (supplyBack s).aon.time = s.aon.time ∧ bitAt (supplyBack s).aon.wakeCause 0 = true ∧
    (s.aon.cellTrip = true → bitAt (supplyBack s).aon.wakeCause 5 = true) := by
  have hflag (w : Word) : bitAt (w ||| (if s.aon.cellTrip then 0x21 else 0x1)) 0 = true := by
    rw [bitAt_or]
    cases s.aon.cellTrip <;> simp [bitAt]
  have halarm (w : Word) (h : s.aon.cellTrip = true) : bitAt (w ||| (if s.aon.cellTrip then 0x21 else 0x1)) 5 = true := by
    rw [bitAt_or, h]
    simp [bitAt]
  unfold supplyBack
  cases s.aon.por
  · exact ⟨rfl, rfl, rfl, rfl, hflag _, halarm _⟩
  · exact ⟨rfl, rfl, rfl, rfl, hflag _, halarm _⟩

theorem supplyUp_takes (s : State) : DieTaken (supplyBack s) (supplyUp s) := by
  rw [supplyUp_eq]
  obtain ⟨h1, h2, h3, h4, h5, h6, h7, h8, h9, h10, h11, h12, h13⟩ := powerOnReset_takes (supplyBack s)
  exact ⟨h1, h2, h3, h4, h5, h6, h7, h8, h9, h10, h11, h12, h13⟩

theorem supplyUp_pwr (s : State) :
    (supplyUp s).pwr.seq = .up 5 ∧ (supplyUp s).pwr.target = .run ∧ (supplyUp s).pwr.goal = .run ∧
    (supplyUp s).pwr.transition = true ∧ (supplyUp s).glb.phase = .powerUp := by
  have hreset (t : State) : (powerOnReset t).pwr.seq = t.pwr.seq ∧ (powerOnReset t).pwr.target = t.pwr.target ∧
      (powerOnReset t).pwr.goal = t.pwr.goal ∧ (powerOnReset t).pwr.transition = t.pwr.transition := ⟨rfl, rfl, rfl, rfl⟩
  obtain ⟨h1, h2, h3, h4⟩ := hreset (supplyBack s)
  rw [supplyUp_eq]
  exact ⟨h1, h2, h3, h4, rfl⟩

/-! ### Rail events that change nothing -/

theorem exec_railPowerGood_other {r : Rail} {s : State} (hd : ∀ k g, s.pwr.seq = .down k g → downRail k ≠ r)
    (hu : ∀ k, s.pwr.seq = .up k → k = 0 ∨ upRail k ≠ r) : exec (.railPowerGood r) s = .next s := by
  change execRailPowerGood r s = _
  unfold execRailPowerGood
  split
  · next k g h => exact if_neg (by rw [beq_iff_eq]; exact hd k g h)
  · next k h =>
    refine if_neg ?_
    rw [Bool.and_eq_true, bne_iff_ne, beq_iff_eq]
    rintro ⟨h0, hr⟩
    exact (hu k h).elim h0 (absurd hr)
  · rfl

theorem exec_railStepTimeout_not {s : State} (h : ∀ k g, s.pwr.seq ≠ .down k g) : exec .railStepTimeout s = .next s := by
  change execRailStepTimeout s = _
  unfold execRailStepTimeout
  split
  · next k g hk => exact absurd hk (h k g)
  · rfl

theorem exec_railFault_unpowered (r : Rail) {s : State} (h : powered s = false) : exec (.railFault r) s = .next s := by
  change execRailFault r s = _
  unfold execRailFault
  rw [h]
  rfl

/-! ### The obligations -/

theorem wakeN_towardRun {s : State} (hs : s.aon.supply = true) (hh : s.pwr.thermalHold = false) (ht : s.pwr.target = .run)
    (hr : s.pwr.state ≠ .run) :
    ∃ t, exec .wakeN s = .next t ∧ bitAt t.aon.wakeCause 1 = true ∧ t.pwr = s.pwr ∧ t = { s with aon := t.aon } := by
  refine ⟨_, exec_wakeN hs hh, ?_⟩
  rw [wakeNow_towardRun ht, wake_towardRun _ ht hr]
  exact ⟨(bitAt_or_pow (w := 32) _ (n := 1) (m := 1) (by decide)).trans (by simp), rfl, rfl⟩

/-- WAKE_N is bit 1. -/
theorem wokenCause_wakeN (p : PState) (c : Word) : bitAt (wokenCause p 0x2 c) 1 = true := by
  rw [bitAt_wokenCause _ _ _ (by decide) (.inl (by decide))]
  exact Bool.or_eq_true_iff.mpr (.inr (by decide))

theorem wakeN_fromOff {s : State} (hs : s.aon.supply = true) (hh : s.pwr.thermalHold = false) (ho : s.pwr.state = .off)
    (ht : s.pwr.target = .off) (hq : s.pwr.seq = .idle) :
    ∃ t, exec .wakeN s = .next t ∧ bitAt t.aon.wakeCause 1 = true ∧ bitsNat t.aon.wakeCause 12 10 = 0 ∧
      t.pwr.target = .run ∧ t.pwr.seq = .up 5 ∧ t.glb.phase = .powerUp := by
  obtain ⟨hc, htarget, hseq, hphase, -, -⟩ := wake_fromOff 0x2 ho hq ht
  refine ⟨_, exec_wakeN hs hh, ?_⟩
  rw [wakeNow_fromOff ho hq, hc]
  exact ⟨wokenCause_wakeN .., wokenCause_from .., htarget, hseq, hphase⟩

theorem wakeN_fromSleep {s : State} (hs : s.aon.supply = true) (hh : s.pwr.thermalHold = false) (ho : s.pwr.state = .sleep)
    (hq : s.pwr.seq = .idle) (ht : s.pwr.target = .sleep) (hw : bitAt s.aon.wakeEn 0 = true) :
    ∃ t, exec .wakeN s = .next t ∧ bitAt t.aon.wakeCause 1 = true ∧ bitsNat t.aon.wakeCause 12 10 = 2 ∧
      t.pwr.target = .run ∧ t.pwr.seq = .up 4 ∧ t = { s with pwr := t.pwr, aon := t.aon } := by
  obtain ⟨hc, htarget, hseq, hframe⟩ := wake_fromSleep 0x2 ho hq ht
  refine ⟨_, exec_wakeN hs hh, ?_⟩
  rw [wakeNow_armed ho hq hw, hc]
  exact ⟨wokenCause_wakeN .., wokenCause_from .., htarget, hseq, hframe⟩

theorem exec_wakeN_unpowered {s : State} (h : s.aon.supply = false) : exec .wakeN s = .next s := by
  change execWakeN s = _
  unfold execWakeN
  rw [h]
  rfl

theorem wakeN_unarmed {s : State} (hh : s.pwr.thermalHold = false) (ho : s.pwr.state = .sleep) (hq : s.pwr.seq = .idle)
    (ht : s.pwr.target = .sleep) (hw : bitAt s.aon.wakeEn 0 = false) : exec .wakeN s = .next s := by
  cases hs : s.aon.supply
  · exact exec_wakeN_unpowered hs
  · rw [exec_wakeN hs hh, wakeNow_unarmed ho hq ht hw]

theorem exec_wakeN_held {s : State} (hs : s.aon.supply = true) (hh : s.pwr.thermalHold = true) :
    exec .wakeN s = .next { s with pwr := { s.pwr with wakeDeferred := true } } := by
  change execWakeN s = _
  unfold execWakeN
  rw [hs, hh]
  rfl

/-- The hold is over, and no WAKE_N waits. -/
def heldOver (s : State) : State := { s with pwr := { s.pwr with thermalHold := false, wakeDeferred := false } }

theorem exec_holdEnd {s : State} (hh : s.pwr.thermalHold = true) : exec .thermalWakeHoldEnd s =
    .next (if s.pwr.wakeDeferred && s.aon.supply then wakeNow (heldOver s) else heldOver s) := by
  change execThermalWakeHoldEnd s = _
  unfold execThermalWakeHoldEnd
  rw [hh]
  rfl

theorem exec_holdEnd_not {s : State} (hh : s.pwr.thermalHold = false) : exec .thermalWakeHoldEnd s = .next s := by
  change execThermalWakeHoldEnd s = _
  unfold execThermalWakeHoldEnd
  rw [hh]
  rfl

theorem holdEnd_wakes {s : State} (hh : s.pwr.thermalHold = true) (hd : s.pwr.wakeDeferred = true) (hs : s.aon.supply = true)
    (ho : s.pwr.state = .off) (ht : s.pwr.target = .off) (hq : s.pwr.seq = .idle) :
    ∃ t, exec .thermalWakeHoldEnd s = .next t ∧ t.pwr.thermalHold = false ∧ t.pwr.wakeDeferred = false ∧
      bitAt t.aon.wakeCause 1 = true ∧ t.pwr.target = .run ∧ t.pwr.seq = .up 5 := by
  obtain ⟨hc, htarget, hseq, -, hhold, hdef⟩ := wake_fromOff 0x2 (s := heldOver s) ho hq ht
  refine ⟨_, exec_holdEnd hh, ?_⟩
  rw [hd, hs, Bool.and_self, if_pos rfl, wakeNow_fromOff (s := heldOver s) ho hq, hc]
  exact ⟨hhold, hdef, wokenCause_wakeN .., htarget, hseq⟩

theorem modRstN_takes {s : State} (ha : awake s = true) : exec .modRstN s = .next (modReset s) ∧
    DieTaken (setCause (resetCause s.pwr.state s.aon.wakeCause) s) (modReset s) ∧
    (modReset s).aon.wakeCause = resetCause s.pwr.state s.aon.wakeCause :=
  ⟨if_pos ha, modReset_takes s, (modReset_takes s).cause⟩

/-- Settles O14: a wake from OFF restarts the module as a power-on reset does, and what each reset takes is `DieTaken`. -/
theorem wakesAndResetsTakeWhatTheyName : Obligations.WakesAndResetsTakeWhatTheyName := by
  refine ⟨⟨fun s hs hh ht hr => wakeN_towardRun hs hh ht hr, fun s hs hh ho ht hq => wakeN_fromOff hs hh ho ht hq,
      fun s hs hh => exec_wakeN_held hs hh, fun s hh hd => ?_,
      fun l s ha hp hw hq hg ht hs hl => wakePattern_towardRun ha hp hw hq hg ht hs hl,
      fun v s ha => wakeCauseClear_clears v ha⟩, fun s ha => ?_, fun s hs => ?_, fun s hs => ?_, fun s hs => exec_aonPor hs⟩
  · rw [exec_holdEnd hh, hd]
    rfl
  · obtain ⟨hexec, h, hc⟩ := modRstN_takes ha
    exact ⟨_, hexec, h.jobs, h.img, h.handles, h.bytes, h.time, h.fuse, h.bbt, h.prot, modReset_run s,
      by rw [hc]; exact resetCause_flag ..⟩
  · have h := hardDown_takes s
    exact ⟨_, exec_supplyLoss hs, rfl, rfl, rfl, rfl, rfl, h.time, hardDown_phase s, h.jobs, h.bbt⟩
  · have h := supplyUp_takes s
    obtain ⟨hsupply, hcell, -, -, hflag, halarm⟩ := supplyBack_aon s
    obtain ⟨hseq, htarget, -, -, hphase⟩ := supplyUp_pwr s
    exact ⟨_, exec_supplyApplied hs, (congrArg Aon.supply h.regs :).trans hsupply, (congrArg Aon.onCell h.regs :).trans hcell,
      hseq, htarget, by rw [h.cause]; exact hflag, by rw [h.cause]; exact halarm, hphase⟩

/-- Settles O58: each event of a rail, a pin or the supply has a lemma above for each way it goes. -/
theorem railAndPinEventsComplete : Obligations.RailAndPinEventsComplete := by
  refine ⟨⟨fun k g s h hk => ?_, fun k s h h0 hk => ?_, fun r s hd hu => ?_, fun k g s h => exec_railStepTimeout h,
      fun s h => ?_, fun r k g s hs h => ?_, fun r s h => ?_⟩,
    ⟨fun s hs hh ho hq ht hw => wakeN_fromSleep hs hh ho hq ht hw, fun s hh ho hq ht hw => wakeN_unarmed hh ho hq ht hw,
      fun s h => exec_wakeN_unpowered h, fun s hh hd hs ho ht hq => holdEnd_wakes hh hd hs ho ht hq,
      fun s h => exec_holdEnd_not h, fun l s ha hp hw hs hq ht hl => wakePattern_fromSleep ha hp hw hs hq ht hl,
      fun l s h => exec_wakePattern_not h, fun v s ha h2 h3 h7 => ?_, fun v s ha => exec_wakeCauseClear_asleep v ha⟩,
    fun s ha => ?_, fun s ha => if_neg (ne_true_of_eq_false ha), fun s hs => ?_, fun s hs => exec_supplyLoss_without hs,
    fun s hs => ?_, fun s hs => ⟨exec_supplyApplied_with hs, exec_aonPor_with hs⟩,
    fun s hs => ⟨_, exec_aonPor hs, rfl, rfl⟩⟩
  · rw [exec_railPowerGood_down h, downDone_ends hk]
  · rw [exec_railPowerGood_up h h0, upDone_ends hk]
  · exact exec_railPowerGood_other hd hu
  · exact exec_railStepTimeout_not h
  · have hf := railFallen r s
    exact ⟨_, exec_railFault_service r (powered_of_moving hs (by rw [h]; exact PwrSeq.noConfusion))
      (fun k hk => by rw [h] at hk; cases hk), hf.low, hf.fault, hf.seq.trans h, hf.ret, hf.frame⟩
  · exact exec_railFault_unpowered r h
  · have hl : linkedFields v = 0#32 := by
      unfold linkedFields
      rw [h2, h3, h7]
      rfl
    rw [exec_wakeCauseClear v ha, clearedBits, hl, BitVec.or_zero]
    rfl
  · obtain ⟨hexec, h, hc⟩ := modRstN_takes ha
    exact ⟨_, hexec, h.links, h.ws, h.bnc, h.pln, h.sns, by rw [hc]; exact resetCause_from ..⟩
  · have h := hardDown_takes s
    exact ⟨_, exec_supplyLoss hs, rfl, rfl, rfl, h.links, h.img, h.bytes⟩
  · have h := supplyUp_takes s
    obtain ⟨-, -, htrip, htime, -, -⟩ := supplyBack_aon s
    obtain ⟨-, -, hgoal, htrans, -⟩ := supplyUp_pwr s
    exact ⟨_, exec_supplyApplied hs, hgoal, htrans, (congrArg Aon.cellTrip h.regs :).trans htrip, h.jobs, h.time.trans htime⟩

end Sys2Proof.Machine
end

section
/-! The quiescing limit, self-tests and retrains (R463, R478 to R481). -/

namespace Sys2Proof.Machine
open Sys2Proof.Claims
open Within

/-! ### The quiescing limit (R463) -/

theorem exec_quiesceTimeout {g : PState} {s : State} (h : s.pwr.seq = .quiesce g) : exec .quiesceTimeout s =
    (let s2 := eachSlot quiesceJob (post (ev 0x010B) { s with pwr := { s.pwr with fault := orBit s.pwr.fault 3 } })
     .next (if fabricOpen s || s.ws.leaving || !isMember s2 then powerLost g (unjoin s2) else quiesced g s2)) := by
  change execQuiesceTimeout s = _
  unfold execQuiesceTimeout
  rw [h]

theorem exec_quiesceTimeout_not {s : State} (h : ∀ g, s.pwr.seq ≠ .quiesce g) : exec .quiesceTimeout s = .next s := by
  change execQuiesceTimeout s = _
  unfold execQuiesceTimeout
  split
  · next g hg => exact absurd hg (h g)
  · rfl

/-! ### Self-tests and retrains are asked for (R480, R481) -/

theorem pendingUnits_runs {c : Cmd} {op : Byte} {s s1 : State} (h : Runs c op s s1) : pendingUnits s1 = pendingUnits s := by
  rw [runs_frame h]
  rfl

theorem noJobRuns_of_jobs {s t : State} (h : t.jobs = s.jobs) : noJobRuns t = noJobRuns s := by
  unfold noJobRuns
  rw [h]

theorem exec_selftest {c : Cmd} {s s1 : State} (h : Runs c 0x30 s s1) (hb : bitsFrom c.a0 3 = false) :
    exec (.selftest c) s = .next (selftestRun c (pendOf c 0x30 s1) s1) := by
  change runCmd c 0x30 (bitsFrom c.a0 3) (selftestRun c) s = _
  rw [hb]
  exact runCmd_of_runs h _

theorem exec_retrain {c : Cmd} {s s1 : State} (h : Runs c 0x31 s s1) (hb : bitsFrom c.a0 12 = false) :
    exec (.retrain c) s = .next (retrainRun c (pendOf c 0x31 s1) s1) := by
  change runCmd c 0x31 (bitsFrom c.a0 12) (retrainRun c) s = _
  rw [hb]
  exact runCmd_of_runs h _

theorem selftestRun_busy {c : Cmd} {s : State} (h : pendingUnits s = true) (p : Pend) :
    selftestRun c p s = endWith p stBusy s :=
  if_pos h

theorem retrainRun_busy {c : Cmd} {s : State} (h : pendingUnits s = true) (p : Pend) : retrainRun c p s = endWith p stBusy s :=
  if_pos h

/-- The self-test waits for its boundary. -/
def testPending (c : Cmd) (p : Pend) (s : State) : State :=
  let s1 := startPending p s
  { s1 with pwr := { s1.pwr with selftest := some (testPlan c p s1) } }

/-- While a job runs, the self-test waits. -/
theorem selftestRun_waits {c : Cmd} {s : State} (h : pendingUnits s = false) (hj : noJobRuns s = false) (p : Pend) :
    selftestRun c p s = testPending c p s := by
  have hjobs : (testPending c p s).jobs = s.jobs := startPending_jobs ..
  have hbusy : unitWorkIfIdle (testPending c p s) = testPending c p s :=
    unitWorkIfIdle_busy ((noJobRuns_of_jobs hjobs).trans hj)
  unfold selftestRun
  rw [if_neg (ne_true_of_eq_false h)]
  exact (congrArg (fun u => if running (testPending c p s) then u else testPending c p s) hbusy).trans (ite_self _)

theorem testPlan_benches (c : Cmd) (p : Pend) (s : State) (b : Nat) : b ∈ (testPlan c p s).benches ↔
    ∃ h : b < 4, bitAt c.a0 0 = true ∧ s.bnc[b].state ≠ .outOfService := by
  have hmem : b ∈ ((List.finRange 4).filter fun b => s.bnc[b].state != .outOfService).map (·.val) ↔
      ∃ h : b < 4, s.bnc[b].state ≠ .outOfService := by
    rw [List.mem_map]
    constructor
    · rintro ⟨i, hi, rfl⟩
      exact ⟨i.isLt, bne_iff_ne.mp (List.mem_filter.mp hi).2⟩
    · rintro ⟨h, hb⟩
      exact ⟨⟨b, h⟩, List.mem_filter.mpr ⟨List.mem_finRange _, bne_iff_ne.mpr hb⟩, rfl⟩
  unfold testPlan
  dsimp only
  split
  · next h0 =>
    rw [hmem]
    exact ⟨fun ⟨h, hb⟩ => ⟨h, h0, hb⟩, fun ⟨h, _, hb⟩ => ⟨h, hb⟩⟩
  · next h0 => exact ⟨fun h => absurd h (List.not_mem_nil), fun ⟨_, h1, _⟩ => absurd h1 h0⟩

/-- The blocks that a command which stays pending changes when it is taken. -/
def asking : Blocks := { hif := true, mgmt := true, evt := true, aon := true }

theorem asked_within {c : Cmd} {op : Byte} {s s1 : State} (h : Runs c op s s1) (p : Pend) :
    Within asking s (startPending p s1) := (Within.runs h).startPending rfl p

/-- A command that has been taken and has changed the power registers alone. -/
theorem asked_pwr {s u : State} (h : Within asking s u) (x : Pwr) : { u with pwr := x } =
    { s with pwr := x, hif := u.hif, mgmt := u.mgmt, evt := u.evt, aon := u.aon } :=
  congrArg (fun v : State => { v with pwr := x }) (show u = adopting asking s u from h)

/-- The retrain waits for its boundary. -/
def retrainAsked (c : Cmd) (p : Pend) (s : State) : State :=
  let s1 := startPending p s
  { s1 with pwr := { s1.pwr with retrain := some ⟨p, presentLinks s c.a0, presentDrawers s c.a0, 0⟩ } }

theorem retrainCheck_links {r : RetrainReq} {s : State} (h : s.pwr.retrain = some r) (hl : r.links ≠ 0) :
    retrainCheck s = s := by
  unfold retrainCheck
  rw [h]
  exact if_neg fun hc => hl hc.1

/-- While a job runs, a retrain of a present link waits. -/
theorem retrainRun_waits {c : Cmd} {s : State} (h : pendingUnits s = false) (hj : noJobRuns s = false)
    (hl : presentLinks s c.a0 ≠ 0) (p : Pend) : retrainRun c p s = retrainAsked c p s := by
  have hcheck : retrainCheck (retrainAsked c p s) = retrainAsked c p s := retrainCheck_links rfl hl
  have hjobs : (retrainAsked c p s).jobs = s.jobs := startPending_jobs ..
  have hbusy : unitWorkIfIdle (retrainAsked c p s) = retrainAsked c p s :=
    unitWorkIfIdle_busy ((noJobRuns_of_jobs hjobs).trans hj)
  have hrun : retrainRun c p s = if running (retrainCheck (retrainAsked c p s)) then
      unitWorkIfIdle (retrainCheck (retrainAsked c p s)) else retrainCheck (retrainAsked c p s) :=
    if_neg (ne_true_of_eq_false h)
  rw [hrun, hcheck, hbusy, ite_self]

theorem presentLinks_of_part {s t : State} (h : t.part = s.part) (m : Word) : presentLinks t m = presentLinks s m := by
  unfold presentLinks
  rw [h]

theorem presentDrawers_of_part {s t : State} (h : t.part = s.part) (m : Word) : presentDrawers t m = presentDrawers s m := by
  unfold presentDrawers
  rw [h]

theorem selftest_waits {c : Cmd} {s s1 : State} (h : Runs c 0x30 s s1) (hb : bitsFrom c.a0 3 = false)
    (hp : pendingUnits s = false) (hj : noJobRuns s = false) :
    ∃ t r, exec (.selftest c) s = .next t ∧ t.pwr.selftest = some r ∧ r.pend = pendOf c 0x30 s1 ∧ r.running = false ∧
      (∀ b : Nat, b ∈ r.benches ↔ ∃ h : b < 4, bitAt c.a0 0 = true ∧ s.bnc[b].state ≠ .outOfService) ∧
      t = { s with pwr := { s.pwr with selftest := t.pwr.selftest }, hif := t.hif, mgmt := t.mgmt, evt := t.evt,
                   aon := t.aon } := by
  have hw := asked_within h (pendOf c 0x30 s1)
  have hrun := selftestRun_waits (c := c) ((pendingUnits_runs h).trans hp)
    ((noJobRuns_of_jobs (runs_jobs h)).trans hj) (pendOf c 0x30 s1)
  have hbnc : (startPending (pendOf c 0x30 s1) s1).bnc = s.bnc := (congrArg State.bnc (show _ = adopting asking s _ from hw) :)
  refine ⟨_, testPlan c (pendOf c 0x30 s1) (startPending (pendOf c 0x30 s1) s1),
    (exec_selftest h hb).trans (congrArg _ hrun), rfl, rfl, rfl, fun b => ?_, ?_⟩
  · rw [testPlan_benches, hbnc]
  · have hpwr := asked_pwr hw
      { s.pwr with selftest := some (testPlan c (pendOf c 0x30 s1) (startPending (pendOf c 0x30 s1) s1)) }
    unfold testPending
    dsimp only
    rw [hw.pwr_eq]
    exact hpwr

theorem retrain_waits {c : Cmd} {s s1 : State} (h : Runs c 0x31 s s1) (hb : bitsFrom c.a0 12 = false)
    (hp : pendingUnits s = false) (hj : noJobRuns s = false) (hl : presentLinks s c.a0 ≠ 0) :
    ∃ t, exec (.retrain c) s = .next t ∧
      t.pwr.retrain = some ⟨pendOf c 0x31 s1, presentLinks s c.a0, presentDrawers s c.a0, 0⟩ ∧
      t = { s with pwr := { s.pwr with retrain := t.pwr.retrain }, hif := t.hif, mgmt := t.mgmt, evt := t.evt,
                   aon := t.aon } := by
  have hw := asked_within h (pendOf c 0x31 s1)
  have hpart : s1.part = s.part := by rw [runs_frame h]
  have hlinks := presentLinks_of_part hpart c.a0
  have hrun := retrainRun_waits (c := c) ((pendingUnits_runs h).trans hp)
    ((noJobRuns_of_jobs (runs_jobs h)).trans hj) (by rw [hlinks]; exact hl) (pendOf c 0x31 s1)
  have hset : (retrainAsked c (pendOf c 0x31 s1) s1).pwr.retrain =
      some ⟨pendOf c 0x31 s1, presentLinks s c.a0, presentDrawers s c.a0, 0⟩ := by
    rw [← hlinks, ← presentDrawers_of_part hpart]
    rfl
  refine ⟨_, (exec_retrain h hb).trans (congrArg _ hrun), hset, ?_⟩
  have hpwr := asked_pwr hw { s.pwr with retrain := (retrainAsked c (pendOf c 0x31 s1) s1).pwr.retrain }
  have hown : (retrainAsked c (pendOf c 0x31 s1) s1).pwr =
      { s.pwr with retrain := (retrainAsked c (pendOf c 0x31 s1) s1).pwr.retrain } :=
    congrArg (fun x : Pwr => { x with retrain := (retrainAsked c (pendOf c 0x31 s1) s1).pwr.retrain }) hw.pwr_eq
  rw [← hown] at hpwr ⊢
  exact hpwr

/-! ### Drawers (R478, R479) -/

theorem drawerAtOnce_free {d : Nat} {s : State} (h : s.pwr.drawersNow = []) :
    drawerAtOnce d s = { s with pwr := { s.pwr with drawersNow := [d] } } := by
  unfold drawerAtOnce
  rw [h]
  rfl

theorem exec_dramCorrBurst {d : Fin 4} {s : State} (hr : running s = true) (hp : drawerPresent s.part d.val = true) :
    exec (.dramCorrBurst d) s = .next (drawerAtOnce d.val s) := if_pos (by rw [hr, hp]; rfl)

theorem exec_dramMarginLow {d : Fin 4} {s : State} (hr : running s = true) (hp : drawerPresent s.part d.val = true) :
    exec (.dramMarginLow d) s = .next (unitWorkIfIdle (markDrawer d.val s)) := if_pos (by rw [hr, hp]; rfl)

/-- The drawer is no longer away, and the end of its retrain is counted and posted. -/
def drawerBack (d : Fin 4) (s : State) : State :=
  post { ev 0x0107 with inst := BitVec.ofNat 8 d.val }
    (bumpPwr 4 1 { s with pwr := { s.pwr with drawersNow := s.pwr.drawersNow.filter (· != d.val) } })

/-- The temperature of a good retrain, or the fault of a failed one. -/
def drawerNoted (d : Fin 4) (ok : Bool) (s : State) : State :=
  if ok then { s with pwr := { s.pwr with dramTemp := s.pwr.dramTemp.set d.val s.pwr.temp } }
  else post { ev 0x0108 with inst := BitVec.ofNat 8 d.val } { s with pwr := { s.pwr with fault := orBit s.pwr.fault 4 } }

theorem drawerDone_eq (d : Fin 4) (ok : Bool) (s : State) :
    drawerDone d ok s = nextUnit 12 (retrainUnitDone (8 + d.val) (!ok) (drawerNoted d ok (drawerBack d s))) := rfl

/-- The blocks that the end of a drawer's retrain changes. -/
def drawerBlocks : Blocks := { pwr := true, evt := true }

theorem drawerBack_within (d : Fin 4) {s : State} (ha : awake s = true) : Within drawerBlocks s (drawerBack d s) :=
  ((refl drawerBlocks s).set_pwr.bumpPwr ha 4 1).post ha _

theorem drawerBack_pwr (d : Fin 4) (s : State) : (drawerBack d s).pwr = { s.pwr with
    drawersNow := s.pwr.drawersNow.filter (· != d.val), ctrs := upd s.pwr.ctrs 4 (ctrAdd · 1) } := by
  unfold drawerBack
  rw [post_pwr]
  rfl

theorem drawerNoted_within (d : Fin 4) (ok : Bool) {s : State} (ha : awake s = true) :
    Within drawerBlocks s (drawerNoted d ok s) := by
  have hset (x : Pwr) : Within drawerBlocks s { s with pwr := x } := rfl
  unfold drawerNoted
  exact ite (hset _) ((hset _).post ha _)

theorem drawerNoted_pwr (d : Fin 4) (ok : Bool) (s : State) : (drawerNoted d ok s).pwr =
    if ok then { s.pwr with dramTemp := s.pwr.dramTemp.set d.val s.pwr.temp } else
        { s.pwr with fault := orBit s.pwr.fault 4 } := by
  unfold drawerNoted
  cases ok
  · simp only [Bool.false_eq_true, if_false, post_pwr]
  · rfl

theorem dramRetrainDone_ends {d : Fin 4} {ok : Bool} {s : State} (hr : running s = true) (hd : s.pwr.drawersNow = [d.val])
    (harm : s.pwr.armed = 0) (hn : s.pwr.retrain = none) :
    ∃ t, exec (.dramRetrainDone d ok) s = .next t ∧ t.pwr.drawersNow = [] ∧
      t.pwr.ctrs[4] = ctrAdd s.pwr.ctrs[4] 1 ∧
      t.pwr.dramTemp[d] = (if ok then s.pwr.temp else s.pwr.dramTemp[d]) ∧
      (ok = false → bitAt t.pwr.fault 4 = true) ∧ t = { s with pwr := t.pwr, evt := t.evt } := by
  have ha := awake_of_running hr
  have hback := drawerBack_within d ha
  have hw : Within drawerBlocks s (drawerNoted d ok (drawerBack d s)) := hback.andThen ha (drawerNoted_within d ok)
  have hpwr := drawerNoted_pwr d ok (drawerBack d s)
  rw [drawerBack_pwr, hd] at hpwr
  have hempty : [d.val].filter (· != d.val) = [] := by simp
  rw [hempty] at hpwr
  have hrun : exec (.dramRetrainDone d ok) s = .next (drawerNoted d ok (drawerBack d s)) := by
    have hkept : (drawerNoted d ok (drawerBack d s)).pwr.retrain = none ∧
        (drawerNoted d ok (drawerBack d s)).pwr.armed = 0 := by
      rw [hpwr]
      cases ok <;> exact ⟨hn, harm⟩
    have hexec : exec (.dramRetrainDone d ok) s = .next (drawerDone d ok s) := if_pos (by rw [hr, hd]; simp)
    rw [hexec, drawerDone_eq, retrainUnitDone_none _ _ hkept.1, nextUnit_none _ hkept.2]
  refine ⟨_, hrun, ?_, ?_, ?_, fun hok => ?_, hw⟩
  · rw [hpwr]
    cases ok <;> rfl
  · rw [hpwr]
    cases ok <;> exact upd_same _ 4 _
  · rw [hpwr]
    cases ok
    · rfl
    · exact Vector.getElem_set_self _
  · rw [hpwr, hok]
    exact bitAt_orBit _ (by decide)

/-- Settles O15: a command that waits, a unit that is busy and a drawer that is done each have a lemma above; the quiescing
limit is the command's own definition. -/
theorem testsRetrainsAndQuiescingEnd : Obligations.TestsRetrainsAndQuiescingEnd := by
  refine ⟨⟨fun g s h => exec_quiesceTimeout h, fun s h => exec_quiesceTimeout_not h⟩, fun c s s1 h hb hp => ?_,
    fun c s s1 h hb hp hj => selftest_waits h hb hp hj, fun c s s1 h hb hp => ?_,
    fun c s s1 h hb hp hj hl => retrain_waits h hb hp hj hl, fun d s hr hp hd => ?_, fun d s hr hp hj => ?_,
    fun d ok s hr hd harm hn => dramRetrainDone_ends hr hd harm hn⟩
  · rw [exec_selftest h hb, selftestRun_busy ((pendingUnits_runs h).trans hp)]
  · rw [exec_retrain h hb, retrainRun_busy ((pendingUnits_runs h).trans hp)]
  · rw [exec_dramCorrBurst hr hp, drawerAtOnce_free hd]
  · have hbusy : noJobRuns (markDrawer d.val s) = false := (noJobRuns_of_jobs rfl).trans hj
    rw [exec_dramMarginLow hr hp, unitWorkIfIdle_busy hbusy]
    rfl

end Sys2Proof.Machine
end

section
/-! Temperature and the watchdog (R471, R472, R474 to R477). -/

namespace Sys2Proof.Machine
open Sys2Proof.Claims
open Within

/-! ### Samples (R474 to R478) -/

theorem exec_thermalSample {s : State} (hr : running s = true) (v : BitVec 8) : exec (.thermalSample v) s =
    .next (unitWorkIfIdle (if bootDone (sampleTemp v (gatedCycles s)) then
      (List.finRange 8).foldl (linkTemp v) ((List.finRange 4).foldl (drawerTemp v) (sampleTemp v (gatedCycles s)))
      else sampleTemp v (gatedCycles s))) := if_pos hr

theorem drawerTemp_near {v : Byte} {s : State} {d : Fin 4} (h : tempGap v s.pwr.dramTemp[d] ≤ 20) : drawerTemp v s d = s := by
  unfold drawerTemp
  dsimp only
  split
  · rfl
  · rw [if_neg (by omega), if_neg (by omega)]

theorem linkTemp_idle {v : Byte} {s : State} {l : Fin 8} (h : carries s.links[l] = false) : linkTemp v s l = s := by
  unfold linkTemp
  dsimp only
  rw [h]
  rfl

/-- A fold whose steps all leave the state is no step. -/
theorem foldl_still {α : Type} {f : State → α → State} {s : State} (h : ∀ x, f s x = s) (xs : List α) : xs.foldl f s = s := by
  induction xs with
  | nil => rfl
  | cons x xs ih =>
    rw [List.foldl_cons, h x]
    exact ih

/-- With every unit near its training temperature, no link trained and a job running, a sample starts no retrain. -/
theorem thermalSample_calm {v : BitVec 8} {s u : State} (hr : running s = true) (hu : sampleTemp v (gatedCycles s) = u)
    (hj : noJobRuns u = false) (hl : ∀ l : Fin 8, carries u.links[l] = false)
    (hd : ∀ d : Fin 4, tempGap v u.pwr.dramTemp[d] ≤ 20) : exec (.thermalSample v) s = .next u := by
  have hdraw : (List.finRange 4).foldl (drawerTemp v) u = u := foldl_still (fun d => drawerTemp_near (hd d)) _
  have hlink : (List.finRange 8).foldl (linkTemp v) u = u := foldl_still (fun l => linkTemp_idle (hl l)) _
  rw [exec_thermalSample hr, hu, hdraw, hlink, ite_self, unitWorkIfIdle_busy hj]

/-- The reading and the peak. -/
def readTemp (v : BitVec 8) (s : State) : State :=
  { s with pwr := { s.pwr with temp := v, peak := if s.pwr.peak.toInt < v.toInt then v else s.pwr.peak } }

theorem sampleTemp_cool {v : BitVec 8} (h : v.toInt ≤ 100) (s : State) : sampleTemp v s = readTemp v s :=
  if_neg (by omega)

theorem sampleTemp_hot {v : BitVec 8} (h : 100 < v.toInt) (s : State) :
    sampleTemp v s = setGate (min 7 (s.pwr.gate + 1)) (readTemp v s) := if_pos h

theorem gatedCycles_open {s : State} (h : s.pwr.gate = 0) : gatedCycles s = s := if_pos (by rw [h]; rfl)

/-- The blocks that a sample changes. -/
def sampling : Blocks := { pwr := true, evt := true, hif := true, free := true }

/-- What a count of gated cycles leaves of the power registers. -/
theorem gatedCycles_moves {s : State} (ha : awake s = true) : Within sampling s (gatedCycles s) ∧
    (gatedCycles s).pwr = { s.pwr with ctrs := (gatedCycles s).pwr.ctrs } := by
  unfold gatedCycles
  split
  · exact ⟨refl .., rfl⟩
  · exact ⟨(refl sampling s).set_free.bumpPwr ha _ _, rfl⟩

/-! ### The duty gate (R475, R476) -/

/-- g is in force. -/
def gateSet (g : Nat) (s : State) : State := { s with pwr := { s.pwr with gate := g } }

theorem setGate_same {g : Nat} {s : State} (h : s.pwr.gate ≠ 0) (hg : g ≠ 0) : setGate g s = gateSet g s :=
  if_pos (by simp [h, hg])

theorem setGate_leaves {g : Nat} {s : State} (h : (s.pwr.gate = 0) ≠ (g = 0)) :
    setGate g s = throttleNote (decide (0 < g)) (gateSet g s) := if_neg h

theorem throttleNote_pwr (on : Bool) (s : State) : (throttleNote on s).pwr =
    { s.pwr with fault := if on then orBit s.pwr.fault 5 else s.pwr.fault &&& ~~~(0x20 : Word) } := by
  unfold throttleNote
  rw [fire_frame, post_pwr]

theorem throttleNote_within (on : Bool) {s : State} (ha : awake s = true) :
    Within { pwr := true, evt := true, hif := true } s (throttleNote on s) :=
  ((refl { pwr := true, evt := true, hif := true } s).set_pwr.post ha _).fire _

theorem setGate_within (g : Nat) {s : State} (ha : awake s = true) :
    Within { pwr := true, evt := true, hif := true } s (setGate g s) := by
  have hs : Within { pwr := true, evt := true, hif := true } s (gateSet g s) := rfl
  unfold setGate
  exact ite hs (hs.andThen ha (throttleNote_within _))

/-- A gate that opens or closes sets THROTTLE; another step of it leaves the flag. -/
theorem setGate_pwr (g : Nat) (s : State) : (setGate g s).pwr =
    { s.pwr with gate := g, fault := (setGate g s).pwr.fault } := by
  by_cases h : (s.pwr.gate = 0) = (g = 0)
  · have hs : setGate g s = gateSet g s := if_pos h
    rw [hs]
    rfl
  · rw [setGate_leaves h, throttleNote_pwr]
    rfl

theorem thermalSample_cool {v : BitVec 8} {s : State} (hr : running s = true) (hj : noJobRuns s = false)
    (hl : ∀ l : Fin 8, carries s.links[l] = false) (hd : ∀ d : Fin 4, tempGap v s.pwr.dramTemp[d] ≤ 20)
    (hg : s.pwr.gate = 0) (hv : v.toInt ≤ 100) : exec (.thermalSample v) s = .next (readTemp v s) :=
  thermalSample_calm hr (by rw [gatedCycles_open hg, sampleTemp_cool hv]) ((noJobRuns_of_jobs rfl).trans hj) hl hd

theorem thermalSample_hot {v : BitVec 8} {s : State} (hr : running s = true) (hj : noJobRuns s = false)
    (hl : ∀ l : Fin 8, carries s.links[l] = false) (hd : ∀ d : Fin 4, tempGap v s.pwr.dramTemp[d] ≤ 20)
    (hv : 100 < v.toInt) :
    ∃ t, exec (.thermalSample v) s = .next t ∧ t.pwr.temp = v ∧ t.pwr.gate = min 7 (s.pwr.gate + 1) ∧
      (s.pwr.gate = 0 → bitAt t.pwr.fault 5 = true) ∧
      t = { s with pwr := t.pwr, evt := t.evt, hif := t.hif, free := t.free } := by
  have ha := awake_of_running hr
  obtain ⟨hw, hpwr⟩ := gatedCycles_moves ha
  have hread : Within sampling s (readTemp v (gatedCycles s)) := hw.set_pwr
  have hgate : (gatedCycles s).pwr.gate = s.pwr.gate := by rw [hpwr]
  have hset : Within sampling s (setGate (min 7 (s.pwr.gate + 1)) (readTemp v (gatedCycles s))) :=
    hread.andThen ha (setGate_within _)
  have hown := setGate_pwr (min 7 (s.pwr.gate + 1)) (readTemp v (gatedCycles s))
  have hu : sampleTemp v (gatedCycles s) = setGate (min 7 (s.pwr.gate + 1)) (readTemp v (gatedCycles s)) := by
    rw [sampleTemp_hot hv, hgate]
  refine ⟨_, thermalSample_calm hr hu ((noJobRuns_of_jobs hset.jobs_eq).trans hj) (fun l => ?_) (fun d => ?_), ?_, ?_,
    fun h0 => ?_, hset⟩
  · have hlinks : (setGate (min 7 (s.pwr.gate + 1)) (readTemp v (gatedCycles s))).links = s.links :=
      (congrArg State.links (show _ = adopting sampling s _ from hset) :)
    rw [hlinks]
    exact hl l
  · have htemp : (readTemp v (gatedCycles s)).pwr.dramTemp = s.pwr.dramTemp := (congrArg Pwr.dramTemp hpwr :)
    rw [hown, htemp]
    exact hd d
  · rw [hown]
    rfl
  · rw [hown]
  · have hz : (readTemp v (gatedCycles s)).pwr.gate = 0 := hgate.trans h0
    rw [setGate_leaves (by rw [hz, h0]; simp), throttleNote_pwr, h0]
    exact bitAt_orBit _ (by decide)

theorem exec_throttleRelax {s : State} (hr : running s = true) (hg : s.pwr.gate ≠ 0) (ht : s.pwr.temp.toInt < 98) :
    exec .throttleRelax s = .next (setGate (s.pwr.gate - 1) s) :=
  if_pos (by rw [hr, bne_iff_ne.mpr hg, decide_eq_true ht]; rfl)

theorem throttleRelax_opens {s : State} (hr : running s = true) (hg : s.pwr.gate = 1) (ht : s.pwr.temp.toInt < 98) :
    ∃ t, exec .throttleRelax s = .next t ∧ t.pwr.gate = 0 ∧ bitAt t.pwr.fault 5 = false ∧
      t = { s with pwr := t.pwr, evt := t.evt, hif := t.hif } := by
  have hclear : bitAt (s.pwr.fault &&& ~~~(0x20 : Word)) 5 = false :=
    (bitAt_and_not_pow (w := 32) s.pwr.fault (n := 5) (m := 5) (by decide)).trans (by simp)
  refine ⟨_, exec_throttleRelax hr (by omega) ht, ?_, ?_, setGate_within _ (awake_of_running hr)⟩
  · rw [setGate_pwr, hg]
  · rw [setGate_leaves (by rw [hg]; simp), throttleNote_pwr, hg]
    exact hclear

/-! ### The thermal shutdown (R477) -/

/-- The record of the shutdown: time, temperature and cause. -/
def thermalRecorded (v : Byte) (s : State) : State :=
  let r := (((s.aon.ret.set 2 (s.aon.time.setWidth 32)).set 3 ((s.aon.time >>> 32).setWidth 32)).set 4 (v.setWidth 32))
  orCause 0x40 (setFrom s.pwr.state { s with aon := { s.aon with ret := r, thermPend := true } })

/-- The hold after the shutdown. -/
def thermalHeld (s : State) : State :=
  { s with pwr := { s.pwr with seq := .down 2 .off, transition := true, thermalHold := true, wakeDeferred := false } }

theorem thermalDown_eq (v : Byte) (s : State) : thermalDown v s =
    thermalHeld (hardDown (thermalRecorded v (flushEvents { s with pwr := { s.pwr with temp := v } }))) := rfl

theorem thermalRecorded_aon (v : Byte) (s : State) : (thermalRecorded v s).aon.ret[4] = v.setWidth 32 ∧
    (thermalRecorded v s).aon.thermPend = true ∧ bitAt (thermalRecorded v s).aon.wakeCause 6 = true := by
  refine ⟨?_, rfl, (bitAt_or_pow (w := 32) _ (n := 6) (m := 6) (by decide)).trans (by simp)⟩
  unfold thermalRecorded orCause setFrom setCause
  dsimp only
  rw [Vector.getElem_set_ne (by decide) (by decide) (by decide), Vector.getElem_set_ne (by decide) (by decide) (by decide),
    Vector.getElem_set_self]

theorem thermalDown_takes (v : Byte) (s : State) : (thermalDown v s).pwr.seq = .down 2 .off ∧
    (thermalDown v s).pwr.target = .off ∧ (thermalDown v s).pwr.thermalHold = true ∧ (thermalDown v s).glb.phase = .down ∧
    (thermalDown v s).aon.ret[4] = v.setWidth 32 ∧ (thermalDown v s).aon.thermPend = true ∧
    bitAt (thermalDown v s).aon.wakeCause 6 = true ∧ (thermalDown v s).jobs = vrep 4 none := by
  have hrec := thermalRecorded_aon v (flushEvents { s with pwr := { s.pwr with temp := v } })
  rw [thermalDown_eq]
  generalize thermalRecorded v (flushEvents { s with pwr := { s.pwr with temp := v } }) = u at hrec
  obtain ⟨hret, hpend, hcause⟩ := hrec
  have h := hardDown_takes u
  refine ⟨rfl, rfl, rfl, hardDown_phase u, ?_, (congrArg Aon.thermPend h.regs :).trans hpend, ?_, h.jobs⟩
  · exact (congrArg (fun a : Aon => a.ret[4]) h.regs :).trans hret
  · exact (congrArg (bitAt · 6) h.cause).trans hcause

theorem exec_thermalShutdown {v : BitVec 8} {s : State} (hp : powered s = true) (hv : 115 ≤ v.toInt)
    (hh : s.pwr.thermalHold = false) : exec (.thermalShutdown v) s = .next (thermalDown v s) :=
  if_pos (by rw [hp, decide_eq_true hv, hh]; rfl)

/-! ### The watchdog (R471, R472) -/

/-- The expiry is counted. -/
theorem dogCounted_within {s : State} (ha : awake s = true) : Within { pwr := true, evt := true } s (bumpPwr 3 1 s) :=
  (refl { pwr := true, evt := true } s).bumpPwr ha 3 1

theorem recentDogs_counted {s : State} (ha : awake s = true) : recentDogs (bumpPwr 3 1 s) = recentDogs s := by
  unfold recentDogs
  rw [(dogCounted_within ha).aon_eq]
  rfl

/-- The module as the third expiry in 60 s finds it: the list starts again, and the cause is recorded. -/
def dogBitten (s : State) : State :=
  orCause 0x100 (setFrom (bumpPwr 3 1 s).pwr.state { bumpPwr 3 1 s with pwr := { (bumpPwr 3 1 s).pwr with watchdogs := [] } })

/-- Bit 2 of PWR_FAULT. -/
def dogFault (s : State) : State := { s with pwr := { s.pwr with fault := orBit s.pwr.fault 2 } }

theorem exec_watchdogExpiry {s : State} (ha : awake s = true) (hd : s.pwr.coreDown = false) : exec .watchdogExpiry s =
    if 3 ≤ (recentDogs s).length then .next (post (ev 0x0106) (dogFault (warmRestart (dogBitten s))))
    else .next (coreRestart (bumpPwr 3 1 s)) := by
  change execWatchdogExpiry s = _
  unfold execWatchdogExpiry
  rw [ha, hd, if_neg (by decide)]
  dsimp only
  rw [recentDogs_counted ha]
  rfl

theorem coreRestart_within (s : State) :
    Within { mgmt := true, aon := true, evt := true, pwr := true, fls := true } s (coreRestart s) := by
  have hd : Within { mgmt := true, aon := true, evt := true, pwr := true, fls := true } s (closeDebug s) :=
    (closeDebug_within s).grow
  have hset (t : State) (p : Pwr) (m : Mgmt) (f : Fls) :
      Within { mgmt := true, aon := true, evt := true, pwr := true, fls := true } t
          { t with pwr := p, mgmt := m, fls := f } := rfl
  exact hd.trans (hset ..)

theorem coreRestart_ctrs (s : State) : (coreRestart s).pwr.ctrs = s.pwr.ctrs :=
  (congrArg Pwr.ctrs (closeDebug_within s).pwr_eq :)

theorem watchdog_restartsCore {s : State} (ha : awake s = true) (hd : s.pwr.coreDown = false)
    (hn : (recentDogs s).length < 3) :
    ∃ t, exec .watchdogExpiry s = .next t ∧ t.pwr.coreDown = true ∧ t.mgmt.session = none ∧ t.fls.sessions = 0 ∧
      t.pwr.ctrs[3] = ctrAdd s.pwr.ctrs[3] 1 ∧ t.jobs = s.jobs ∧ t.links = s.links ∧ t.stk = s.stk := by
  have hw := coreRestart_within (bumpPwr 3 1 s)
  refine ⟨_, (exec_watchdogExpiry ha hd).trans (if_neg (by omega)), rfl, rfl, rfl, ?_, hw.jobs_eq, ?_, hw.stk_eq⟩
  · rw [coreRestart_ctrs]
    exact upd_same _ 3 _
  · exact (congrArg State.links (show coreRestart (bumpPwr 3 1 s) = adopting _ _ _ from hw) :)

/-! ### A warm restart (R333) -/

/-- What a warm restart ends and files before the die resets. -/
def warmEnded (s : State) : State := flushEvents (abortCommands s)

theorem warmEnded_regs {s : State} (ha : awake s = true) : unlatched (warmEnded s) = unlatched s := by
  have hq := Quits.abortCommands (.refl s)
  have hf := flushEvents_within (hq.within.awake rfl ha)
  exact (unlatched_of_aon hf.aon_eq).trans hq.regs

/-- The die restarts. -/
def warmReset (s : State) : State :=
  let s1 := dieReset (closeDebugRecord s)
  { s1 with glb := { s1.glb with state := .restarting, lastStatus := 0 } }

theorem warmRestart_eq (s : State) : warmRestart s = bootBegin (warmReset (warmEnded s)) := rfl

theorem warmReset_takes (s : State) : DieTaken s (warmReset s) := by
  obtain ⟨h1, h2, h3, h4, h5, h6, h7, h8, h9, h10, h11, h12, h13⟩ := (dieReset_takes (closeDebugRecord s)).closed
  exact ⟨h1, h2, h3, h4, h5, h6, h7, h8, h9, h10, h11, h12, h13⟩

theorem warmReset_state (s : State) : (warmReset s).glb.state = .restarting := rfl

/-- R333: jobs are gone, the boot starts again, and the cause stands. -/
theorem warmRestart_restarts {s : State} (ha : awake s = true) : (warmRestart s).jobs = vrep 4 none ∧
    (warmRestart s).glb.state = .restarting ∧ (warmRestart s).aon.wakeCause = s.aon.wakeCause := by
  have hboots := bootBegin_boots (warmReset (warmEnded s))
  have hdie := (warmReset_takes (warmEnded s)).bootStands.booted hboots
  rw [warmRestart_eq]
  exact ⟨hdie.jobs, hboots.state.trans (warmReset_state _),
    hdie.cause.trans (congrArg Aon.wakeCause (warmEnded_regs ha) :)⟩

theorem dogBitten_is {s : State} (ha : awake s = true) :
    awake (dogBitten s) = true ∧ bitAt (dogBitten s).aon.wakeCause 8 = true :=
  ⟨(dogCounted_within ha).awake rfl ha, (bitAt_or_pow (w := 32) _ (n := 8) (m := 8) (by decide)).trans (by simp)⟩

theorem dogFault_posted (e : Posted) (s : State) : (post e (dogFault s)).jobs = s.jobs ∧ (post e (dogFault s)).glb = s.glb ∧
    (post e (dogFault s)).aon.wakeCause = s.aon.wakeCause ∧ bitAt (post e (dogFault s)).pwr.fault 2 = true := by
  refine ⟨post_jobs .., post_glb .., ?_, ?_⟩
  · rw [post_aon]
    rfl
  · rw [post_pwr]
    exact bitAt_orBit _ (by decide)

theorem watchdog_restartsDevice {s : State} (ha : awake s = true) (hd : s.pwr.coreDown = false)
    (hn : 3 ≤ (recentDogs s).length) :
    ∃ t, exec .watchdogExpiry s = .next t ∧ t.jobs = vrep 4 none ∧ t.glb.state = .restarting ∧
      bitAt t.aon.wakeCause 8 = true ∧ bitAt t.pwr.fault 2 = true := by
  obtain ⟨hup, hcause⟩ := dogBitten_is ha
  obtain ⟨hjobs, hstate, hsame⟩ := warmRestart_restarts hup
  obtain ⟨h1, h2, h3, h4⟩ := dogFault_posted (ev 0x0106) (warmRestart (dogBitten s))
  refine ⟨_, (exec_watchdogExpiry ha hd).trans (if_pos hn), h1.trans hjobs, ?_, ?_, h4⟩
  · rw [h2, hstate]
  · rw [h3, hsame, hcause]

/-! ### The core returns (R472) -/

/-- The core's registers on its return. -/
def coreBack (s : State) : State :=
  orCause 0x100 (setFrom s.pwr.state { s with pwr := { s.pwr with coreDown := false, fault := orBit s.pwr.fault 2 } })

theorem exec_mgmtCoreResume {s : State} (ha : awake s = true) (hd : s.pwr.coreDown = true) :
    exec .mgmtCoreResume s = .next (post (ev 0x0106) (colAgain (fun _ => true) (coreBack s))) :=
  if_pos (by rw [hd, ha]; rfl)

theorem mgmtCoreResume_returns {s : State} (ha : awake s = true) (hd : s.pwr.coreDown = true) :
    ∃ t, exec .mgmtCoreResume s = .next t ∧ t.pwr.coreDown = false ∧ bitAt t.pwr.fault 2 = true ∧
      bitAt t.aon.wakeCause 8 = true ∧
      t = { s with pwr := t.pwr, aon := t.aon, evt := t.evt, col := (colAgain (fun _ => true) s).col } := by
  have hup : awake (colAgain (fun _ => true) (coreBack s)) = true := ha
  refine ⟨_, exec_mgmtCoreResume ha hd, ?_, ?_, ?_, ?_⟩
  · rw [post_pwr]
    rfl
  · rw [post_pwr]
    exact bitAt_orBit _ (by decide)
  · rw [post_awake _ _ hup]
    exact (bitAt_or_pow (w := 32) _ (n := 8) (m := 8) (by decide)).trans (by simp)
  · rw [post_frame]
    rfl

/-- Settles O16: a sample moves the gate and the peak alone while no unit is due; the third expiry of the watchdog is a warm
restart, which keeps the cause recorded before it (`warmRestart_restarts`). -/
theorem temperatureAndWatchdogActWithoutTheHost : Obligations.TemperatureAndWatchdogActWithoutTheHost := by
  refine ⟨⟨fun v s hr hj hl hd hg hv => thermalSample_cool hr hj hl hd hg hv,
      fun v s hr hj hl hd hv _ => thermalSample_hot hr hj hl hd hv, fun s hr hg ht => ?_,
      fun s hr hg ht => throttleRelax_opens hr hg ht,
          fun v s hp hv hh => ⟨_, exec_thermalShutdown hp hv hh, thermalDown_takes v s⟩,
      fun s ha => if_pos ha⟩,
    fun s ha hd hn => watchdog_restartsCore ha hd hn, fun s ha hd hn => watchdog_restartsDevice ha hd hn,
    fun s ha hd => mgmtCoreResume_returns ha hd⟩
  rw [exec_throttleRelax hr (by omega) ht, setGate_same (by omega) (by omega)]
  rfl

end Sys2Proof.Machine
end
